-- ==== Sys2Proof/Word.lean ====
section
/-! DEFINITION. The word types and their plainest arithmetic, and the two kinds of sparse table that
State is made of: `Tab`, sorted pairs of a key and a value. -/
namespace Sys2Proof

/-- A byte, a 32-bit row element or instruction word (R44), a 64-bit scalar (R51). -/
abbrev Byte := BitVec 8
abbrev Word := BitVec 32
abbrev DWord := BitVec 64

/-- A table from natural-number keys, strictly rising, to values. -/
abbrev Tab (β : Type) := List (Nat × β)

/-- Field [hi:lo] of a natural number (R4). -/
def bits (n hi lo : Nat) : Nat := (n >>> lo) % 2 ^ (hi + 1 - lo)

/-- Bit `k` of a natural number (R4). -/
def bit (n k : Nat) : Bool := (n >>> k) % 2 == 1

/-- The `w`-bit two's-complement reading of the low `w` bits (R24). -/
def toS (w n : Nat) : Int :=
  let m := n % 2 ^ w
  if 2 * m < 2 ^ w then (m : Int) else (m : Int) - (2 ^ w : Nat)

/-- The low `w` bits of an integer (R24: wrapping modulo 2^w). -/
def ofS (w : Nat) (x : Int) : Nat := (x % ((2 ^ w : Nat) : Int)).toNat

/-- The smallest multiple of `a` at or above `n` (`a` positive). -/
def alignUp (n a : Nat) : Nat := (n + a - 1) / a * a

end Sys2Proof
end

