-- ==== Sys2Proof/Config.lean ====
section
/-! DEFINITION. What the spec leaves to an implementation or open, as constants without a body: no proof
can see their values, so what is proved holds for every value. Each is named in the assumption log. -/
namespace Sys2Proof.Config

/-- Which of the two representable neighbours a transcendental returns (R291): a fixed function of the
function's code, the format's code and the source bits. `true` takes the upper one. Log 7. -/
opaque transUp : Nat → Nat → Nat → Bool

/-- Which of the two neighbours `frsq` returns (R290), from the format's code and the source bits. Log 8. -/
opaque rsqUp : Nat → Nat → Bool

/-- R207: when memory's word differs from the instruction cache's, whether a fetch returns the new one.
Applied to the counter `State.fresh`. Log 9. -/
opaque fetchNew : Nat → Bool

/-- R124: for a copy whose regions overlap, whether an overlapped byte receives what an earlier move of
the same command left. Applied to `State.fresh` and the byte's index. Log 10. -/
opaque overlapNew : Nat → Nat → Bool

/-- R58: whether a read of a row with a pending long-latency write returns the row after that write.
Applied to `State.fresh`. Log 11. -/
opaque pendNew : Nat → Bool

/-- R455: whether the other device passes this access's remote check (its context is bound there and its peer
table names this device and context): from DEVID, RCTX and the accessing context. Log 15. -/
opaque peerAdmits : Nat → Nat → Nat → Bool

/-- R274, R168: what `sysr` reads in a handler group, which belongs to no team and no launch, for the values that
describe one. Applied to the value code and `State.fresh`. Log 16. -/
opaque noTeam : Nat → Nat → BitVec 64

/-- R283: the one predicate bit of a lane whose packed F16 or BF16 elements differ in the condition: from the
condition code and the two row values. Log 18. -/
opaque fcmpMixed : Nat → Nat → Nat → Bool

/-- R299, R298: the tag that `tagget` reads from a broadcast scalar, and whether `fpack` reads a broadcast scalar
as signed: a scalar has no tag. Functions of the scalar's bits, so that equal sources repeat (R42, R300). Logs 21 and 22. -/
opaque scalarTag : Nat → BitVec 5
opaque scalarSigned : Nat → Bool

/-- R192: the reduction value of a RESULT for which no reduction was made (RED 0, or a command that ended with NOROOM
or BADPROG). Applied to `State.fresh`. Log 32. -/
opaque nbNoReduction : Nat → BitVec 32

/-- R316: the bytes of a spilled matrix context bank, whose layout is the device's own. Applied to `State.fresh` and the
byte's offset. Log 33. -/
opaque bankByte : Nat → Nat → BitVec 8

/-- R353: the perspective-correct weight at a point where the weights' sum is zero. Applied to `State.fresh`. Log 38. -/
opaque lambdaZero : Nat → BitVec 32

/-- R444: the legal code that a reserved code of a saved record's tag or gm field is restored as, before reduction to the
legal range: from the code. Log 108. -/
opaque restoredCode : Nat → Nat

/-- What an ageing measurement of a cluster finds (R462): the ring-oscillator shift in ppm, the replica path's slack in ps, and the
clock ceiling in MHz that the supervisor then gives it. Applied to the cluster and the device time. Log 130. -/
opaque ageShift : Nat → Nat → BitVec 32
opaque ageSlack : Nat → Nat → BitVec 32
opaque ageCeiling : Nat → Nat → Nat

/-- The memory expander on a CXL port, as the supervisor finds it (R458): its capacity in frames of 64 KiB, 0 for none. Log 4. -/
opaque expander : Nat → Nat

/-- Signing with the identity key, which never leaves the device (R465). Log 12. -/
opaque sign : List (BitVec 8) → BitVec 768

/-- The device's identity public key and its certificate in DER (R465), at most 1,536 bytes. Log 12. -/
opaque identityKey : BitVec 768
opaque certificate : BitVec 12288

/-- The boot ROM's bytes (R465). Log 12. -/
opaque bootRom : List (BitVec 8)

end Sys2Proof.Config
end

