-- ==== Sys2Proof/Syntax.lean ====
section
/-! DEFINITION. The instruction set: one constructor for every row of the opcode table.
Words carry the raw fields of their encoding, named as the table names them; events carry what the
agent that takes the step brings with it. Meaning is given in Machine/ alone. -/
namespace Sys2Proof

/-- What a request from a peer device brings beside its address and bytes (R455, R456): the port it comes over, its
source and sequence number, the sender's context, the receiver's context it asks for, the retries the link made, and
whether it is a member's part of a collective operation. -/
structure PeerHead where
  port : Nat
  src : Nat
  seq : Nat
  ctx : Nat
  rctx : Nat
  retries : Nat
  coll : Bool
  deriving DecidableEq, Repr

/-- One row of the opcode table each: 150 words of 32 bits (R44) and 129 whole steps of the machine's
other agents, which spec/95 lists. -/
inductive Instr where
  | registerWrite (off size : Nat) (v : BitVec 64) -- REGISTER_WRITE, R6
  | bar0UnsupportedAccess (off size : Nat) (write : Bool) -- BAR0_UNSUPPORTED_ACCESS, R449
  | bar4Read (la n : Nat) -- BAR4_READ, R78
  | bar4Write (la : Nat) (data : List (BitVec 8)) -- BAR4_WRITE, R78
  | hingeInstall (st : Nat) -- INSTALL, R88
  | hingeRelease (st : Nat) -- RELEASE, R88
  | hingeRead (st : Nat) -- READ, R88
  | hingeDonate (st : Nat) -- DONATE, R88
  | hingeSetaff (st : Nat) -- SETAFF, R90
  | hingeGetaff (st : Nat) -- GETAFF, R88
  | hingeCmdComplete (st : Nat) -- HINGE_CMD_COMPLETE, R87
  | queueTail (q : Nat) (v : BitVec 64) -- TAIL, R408
  | waitComplete (q : Nat) -- WAIT_COMPLETE, R411
  | waitTimeout (q t : Nat) -- WAIT_TIMEOUT, R411
  | commandComplete (q idx : Nat) -- COMMAND_COMPLETE, R409
  | fbKwStoreWrite (st q : Nat) (w : BitVec 64) -- FB_KW_STORE_WRITE, R146
  | fbCellAreaWrite (st : Nat) (w : BitVec 64) -- FB_CELL_AREA_WRITE, R233
  | atsCompletion (st pasid va : Nat) (ok : Bool) (t size : Nat) (r w : Bool) -- ATS_COMPLETION, R81
  | translationMiss (eng ctx key va need : Nat) -- TRANSLATION_MISS, R81
  | pageRequestResponse (st pasid va : Nat) (ok : Bool) -- PAGE_REQUEST_RESPONSE, R82
  | atsInvalidation (pasid va size : Nat) -- ATS_INVALIDATION, R83
  | backgroundZeroingComplete (st : Nat) -- BACKGROUND_ZEROING_COMPLETE, R95
  | migrationEpochEnd (st : Nat) -- MIGRATION_EPOCH_END, R91
  | migrationCopyComplete (st frame : Nat) -- MIGRATION_COPY_COMPLETE, R92
  | migrationLockTimeout (st frame t : Nat) -- MIGRATION_LOCK_TIMEOUT, R92
  | sliceRequest (id : Nat) -- SLICE_REQUEST, R110
  | sliceLineFill (line : Nat) -- SLICE_LINE_FILL, R85
  | sliceWriteBack (line : Nat) -- SLICE_WRITE_BACK, R89
  | l1LineFill (core line ctx : Nat) -- L1_LINE_FILL, R204
  | atomicResponseRelease (src seq : Nat) -- ATOMIC_RESPONSE_RELEASE, R115
  | orderedAddContribution (id : Nat) -- ORDERED_ADD_CONTRIBUTION, R229
  | injectionReserve (station : Nat) -- INJECTION_RESERVE, R102
  | pawlLaunch (q : Nat) -- PAWL_LAUNCH, R112
  | pawl (i : Nat) -- PAWL, R112
  | heartbeat (station : Nat) -- HEARTBEAT, R116
  | heartbeatMiss (station neighbour : Nat) -- HEARTBEAT_MISS, R116
  | linkRetryFailure (station link : Nat) -- LINK_RETRY_FAILURE, R116
  | rerouteResume (t : Nat) -- REROUTE_RESUME, R117
  | copyEngineComplete (eng id : Nat) -- COPY_ENGINE_COMPLETE, R127
  | engineCommandFault (eng id : Nat) (cls : BitVec 8) (addr : BitVec 64) -- ENGINE_COMMAND_FAULT, R129
  | interestArrival (id : Nat) -- INTEREST_ARRIVAL, R143
  | refreshArrival (id : Nat) -- REFRESH_ARRIVAL, R143
  | interestExpiry (wp key ctx t : Nat) -- INTEREST_EXPIRY, R144
  | requesterRecordExpiry (id t : Nat) -- REQUESTER_RECORD_EXPIRY, R144
  | kputArrival (id : Nat) -- KPUT_ARRIVAL, R147
  | closeNoticeArrival (id slice : Nat) -- CLOSE_NOTICE_ARRIVAL, R152
  | closeAck (id slice : Nat) -- CLOSE_ACK, R159
  | tileArrival (id : Nat) -- TILE_ARRIVAL, R148
  | backingRefetchComplete (id : Nat) -- BACKING_REFETCH_COMPLETE, R151
  | messageArrival (id : Nat) -- MESSAGE_ARRIVAL, R166
  | handlerDispatch (cl : Nat) -- HANDLER_DISPATCH, R168
  | handlerWatchdog (key t : Nat) -- HANDLER_WATCHDOG, R168
  | sliceQueueOperation (id : Nat) -- SLICE_QUEUE_OPERATION, R171
  | tileEviction (st grp handle : Nat) -- TILE_EVICTION, R185
  | tileRestore (handle tile : Nat) -- TILE_RESTORE, R187
  | scrubBurst (st grp : Nat) -- SCRUB_BURST, R195
  | nbxCommand (st : Nat) -- NBX_COMMAND, R193
  | orderLockEntry (id : Nat) -- ORDER_LOCK_ENTRY, R356
  | ropInvocation (bank : Nat) -- ROP_INVOCATION, R357
  | matrixPassGrant (cl : Nat) -- MATRIX_PASS_GRANT, R313
  | reservationAging (cl id : Nat) -- RESERVATION_AGING, R313
  | matrixTileWriteback (cl id : Nat) -- MATRIX_TILE_WRITEBACK, R304
  | governorWindow (cl : Nat) -- GOVERNOR_WINDOW, R315
  | contextBankSpill (cl ctx : Nat) -- CONTEXT_BANK_SPILL, R316
  | mbldReadEnd (cl ctx handle : Nat) -- MBLD_READ_END, R308
  | traversalLaneEnd (cl id : Nat) -- TRAVERSAL_LANE_END, R339
  | drawAccept (id : Nat) -- DRAW_ACCEPT, R347
  | primitiveSetup (st : Nat) -- PRIMITIVE_SETUP, R352
  | quadTicketReserve (st : Nat) -- QUAD_TICKET_RESERVE, R355
  | fragmentGroupDispatch (st : Nat) -- FRAGMENT_GROUP_DISPATCH, R358
  | drawComplete (id : Nat) -- DRAW_COMPLETE, R348
  | issueCycle (core slot : Nat) -- ISSUE_CYCLE, R417
  | splitGuardExpiry (key split : Nat) -- SPLIT_GUARD_EXPIRY, R391
  | slotStarvationGuard (core slot key : Nat) -- SLOT_STARVATION_GUARD, R417
  | collectorMark (key bank : Nat) -- COLLECTOR_MARK, R247
  | clauseStart (key split : Nat) -- CLAUSE_START, R55
  | mayFaultChecksResolved (key : Nat) -- MAY_FAULT_CHECKS_RESOLVED, R424
  | longLatencyCompletion (key id : Nat) -- LONG_LATENCY_COMPLETION, R58
  | watchdogExpiry (key t : Nat) -- WATCHDOG_EXPIRY, R439
  | teamPlacement (core : Nat) -- TEAM_PLACEMENT, R415
  | placementStarvation (lid t : Nat) -- PLACEMENT_STARVATION, R415
  | preemptionRequest (lid team : Nat) -- PREEMPTION_REQUEST, R440
  | drainTimeout (lid team t : Nat) -- DRAIN_TIMEOUT, R440
  | teamSave (lid team : Nat) -- TEAM_SAVE, R441
  | harvestRevocation (core reason amount : Nat) -- HARVEST_REVOCATION, R422
  | thermalLimitCrossing (sensor : Nat) (up : Bool) (value limit : BitVec 32) -- THERMAL_LIMIT_CROSSING, R461
  | thermalMigration (lid team : Nat) -- THERMAL_MIGRATION, R418
  | ageingMeasurement (cl t : Nat) (shift slack : BitVec 32) (ceiling : Nat) -- AGEING_MEASUREMENT, R462
  | forcedAgeingMeasurement (cl t : Nat) (shift slack : BitVec 32) (ceiling : Nat) -- FORCED_AGEING_MEASUREMENT, R462
  | peerPortDown (p : Nat) -- PEER_PORT_DOWN, R456
  | peerReceive (dev : PeerHead) (la : Nat) (data : List (BitVec 8)) (crc : BitVec 16) (poisoned : Bool) -- PEER_RECEIVE, R457
  | nop (p : BitVec 3) (i : BitVec 1) (o : BitVec 21) -- NOP, R397
  | bra (p : BitVec 3) (i : BitVec 1) (o : BitVec 21) -- BRA, R398
  | brx (p : BitVec 3) (i : BitVec 1) (r : BitVec 7) -- BRX, R399
  | call (p : BitVec 3) (i : BitVec 1) (o : BitVec 21) -- CALL, R401
  | jset (o : BitVec 21) -- JSET, R400
  | exit (p : BitVec 3) (i : BitVec 1) -- EXIT, R403
  | trap (p : BitVec 3) (i : BitVec 1) (c : BitVec 16) -- TRAP, R404
  | mset (s : BitVec 7) (v : BitVec 17) -- MSET, R270
  | msetReg (s : BitVec 7) (r : BitVec 6) -- MSET_REG, R270
  | mget (d : BitVec 7) (s : BitVec 9) -- MGET, R270
  | sli (d : BitVec 7) (i : BitVec 18) -- SLI, R271
  | slih (d : BitVec 7) (i : BitVec 18) -- SLIH, R271
  | pset (p : BitVec 3) (v : BitVec 1) -- PSET, R272
  | psetS (p : BitVec 3) (s : BitVec 6) -- PSET_S, R272
  | psetLt (p : BitVec 3) (b : BitVec 7) -- PSET_LT, R272
  | pmov (d : BitVec 3) (i : BitVec 1) (a : BitVec 3) (j : BitVec 1) (b : BitVec 3) (s : BitVec 9) -- PMOV, R272
  | vwset (v : BitVec 2) (s : BitVec 6) -- VWSET, R273
  | sysr (d : BitVec 7) (s : BitVec 3) (c : BitVec 9) -- SYSR, R274
  | sadd (d : BitVec 7) (a : BitVec 7) (b : BitVec 7) -- SADD, R261
  | ssub (d : BitVec 7) (a : BitVec 7) (b : BitVec 7) -- SSUB, R261
  | smul (d : BitVec 7) (a : BitVec 7) (b : BitVec 7) -- SMUL, R261
  | smulh (d : BitVec 7) (a : BitVec 7) (b : BitVec 7) -- SMULH, R261
  | smad (d : BitVec 7) (a : BitVec 7) (b : BitVec 7) -- SMAD, R262
  | sand (d : BitVec 7) (a : BitVec 7) (b : BitVec 7) -- SAND, R261
  | sor (d : BitVec 7) (a : BitVec 7) (b : BitVec 7) -- SOR, R261
  | sxor (d : BitVec 7) (a : BitVec 7) (b : BitVec 7) -- SXOR, R261
  | sshl (d : BitVec 7) (a : BitVec 7) (b : BitVec 7) -- SSHL, R261
  | sshr (d : BitVec 7) (a : BitVec 7) (b : BitVec 7) -- SSHR, R261
  | ssar (d : BitVec 7) (a : BitVec 7) (b : BitVec 7) -- SSAR, R261
  | smin (d : BitVec 7) (a : BitVec 7) (b : BitVec 7) -- SMIN, R261
  | smax (d : BitVec 7) (a : BitVec 7) (b : BitVec 7) -- SMAX, R261
  | scmp (c : BitVec 4) (p : BitVec 3) (a : BitVec 7) (b : BitVec 7) -- SCMP, R265
  | ssel (d : BitVec 7) (a : BitVec 7) (b : BitVec 7) -- SSEL, R266
  | sbit (d : BitVec 7) (s : BitVec 7) (f : BitVec 9) -- SBIT, R264
  | add (d : BitVec 7) (i : BitVec 2) (a : BitVec 7) (j : BitVec 2) (b : BitVec 7) -- ADD, R261
  | sub (d : BitVec 7) (i : BitVec 2) (a : BitVec 7) (j : BitVec 2) (b : BitVec 7) -- SUB, R261
  | mul (d : BitVec 7) (i : BitVec 2) (a : BitVec 7) (j : BitVec 2) (b : BitVec 7) -- MUL, R261
  | mulh (d : BitVec 7) (i : BitVec 2) (a : BitVec 7) (j : BitVec 2) (b : BitVec 7) -- MULH, R261
  | mad (d : BitVec 7) (i : BitVec 2) (a : BitVec 7) (j : BitVec 2) (b : BitVec 7) -- MAD, R262
  | andB (d : BitVec 7) (i : BitVec 2) (a : BitVec 7) (j : BitVec 2) (b : BitVec 7) -- AND, R261
  | orB (d : BitVec 7) (i : BitVec 2) (a : BitVec 7) (j : BitVec 2) (b : BitVec 7) -- OR, R261
  | xorB (d : BitVec 7) (i : BitVec 2) (a : BitVec 7) (j : BitVec 2) (b : BitVec 7) -- XOR, R261
  | shl (d : BitVec 7) (i : BitVec 2) (a : BitVec 7) (j : BitVec 2) (b : BitVec 7) -- SHL, R261
  | shr (d : BitVec 7) (i : BitVec 2) (a : BitVec 7) (j : BitVec 2) (b : BitVec 7) -- SHR, R261
  | sar (d : BitVec 7) (i : BitVec 2) (a : BitVec 7) (j : BitVec 2) (b : BitVec 7) -- SAR, R261
  | minV (d : BitVec 7) (i : BitVec 2) (a : BitVec 7) (j : BitVec 2) (b : BitVec 7) -- MIN, R261
  | maxV (d : BitVec 7) (i : BitVec 2) (a : BitVec 7) (j : BitVec 2) (b : BitVec 7) -- MAX, R261
  | absd (d : BitVec 7) (i : BitVec 2) (a : BitVec 7) (j : BitVec 2) (b : BitVec 7) -- ABSD, R261
  | addc (d : BitVec 7) (i : BitVec 2) (s : BitVec 7) (f : BitVec 9) -- ADDC, R263
  | bit (d : BitVec 7) (i : BitVec 2) (s : BitVec 7) (f : BitVec 9) -- BIT, R264
  | cmp (c : BitVec 4) (p : BitVec 3) (i : BitVec 2) (a : BitVec 7) (j : BitVec 2) (b : BitVec 7) -- CMP, R265
  | sel (d : BitVec 7) (i : BitVec 2) (a : BitVec 7) (j : BitVec 2) (b : BitVec 7) -- SEL, R266
  | adr (d : BitVec 7) (i : BitVec 2) (s : BitVec 7) (f : BitVec 9) -- ADR, R267
  | dot8 (d : BitVec 7) (i : BitVec 2) (a : BitVec 7) (j : BitVec 2) (b : BitVec 7) -- DOT8, R268
  | fadd (d : BitVec 7) (i : BitVec 2) (a : BitVec 7) (j : BitVec 2) (b : BitVec 7) -- FADD, R281
  | fsub (d : BitVec 7) (i : BitVec 2) (a : BitVec 7) (j : BitVec 2) (b : BitVec 7) -- FSUB, R281
  | fmul (d : BitVec 7) (i : BitVec 2) (a : BitVec 7) (j : BitVec 2) (b : BitVec 7) -- FMUL, R281
  | ffma (d : BitVec 7) (i : BitVec 2) (a : BitVec 7) (j : BitVec 2) (b : BitVec 7) -- FFMA, R281
  | ffms (d : BitVec 7) (i : BitVec 2) (a : BitVec 7) (j : BitVec 2) (b : BitVec 7) -- FFMS, R281
  | ffnma (d : BitVec 7) (i : BitVec 2) (a : BitVec 7) (j : BitVec 2) (b : BitVec 7) -- FFNMA, R281
  | ffnms (d : BitVec 7) (i : BitVec 2) (a : BitVec 7) (j : BitVec 2) (b : BitVec 7) -- FFNMS, R281
  | fmin (d : BitVec 7) (i : BitVec 2) (a : BitVec 7) (j : BitVec 2) (b : BitVec 7) -- FMIN, R282
  | fmax (d : BitVec 7) (i : BitVec 2) (a : BitVec 7) (j : BitVec 2) (b : BitVec 7) -- FMAX, R282
  | fcmp (c : BitVec 4) (p : BitVec 3) (i : BitVec 2) (a : BitVec 7) (j : BitVec 2) (b : BitVec 7) -- FCMP, R283
  | fclass (d : BitVec 7) (i : BitVec 2) (s : BitVec 7) -- FCLASS, R284
  | frcp (d : BitVec 7) (i : BitVec 2) (s : BitVec 7) -- FRCP, R290
  | frsq (d : BitVec 7) (i : BitVec 2) (s : BitVec 7) -- FRSQ, R290
  | fsqrt (d : BitVec 7) (i : BitVec 2) (s : BitVec 7) -- FSQRT, R290
  | fdiv (d : BitVec 7) (i : BitVec 2) (a : BitVec 7) (j : BitVec 2) (b : BitVec 7) -- FDIV, R290
  | fexp2 (d : BitVec 7) (i : BitVec 2) (s : BitVec 7) -- FEXP2, R291
  | flog2 (d : BitVec 7) (i : BitVec 2) (s : BitVec 7) -- FLOG2, R291
  | fsin (d : BitVec 7) (i : BitVec 2) (s : BitVec 7) -- FSIN, R291
  | fcos (d : BitVec 7) (i : BitVec 2) (s : BitVec 7) -- FCOS, R291
  | frnd (d : BitVec 7) (i : BitVec 2) (s : BitVec 7) (f : BitVec 9) -- FRND, R285
  | fscale (d : BitVec 7) (i : BitVec 2) (a : BitVec 7) (j : BitVec 2) (b : BitVec 7) -- FSCALE, R286
  | ffract (d : BitVec 7) (i : BitVec 2) (s : BitVec 7) -- FFRACT, R287
  | fdot2 (d : BitVec 7) (i : BitVec 2) (a : BitVec 7) (j : BitVec 2) (b : BitVec 7) -- FDOT2, R288
  | fcsgn (d : BitVec 7) (i : BitVec 2) (a : BitVec 7) (j : BitVec 2) (b : BitVec 7) -- FCSGN, R289
  | cvt (d : BitVec 7) (i : BitVec 2) (s : BitVec 7) (f : BitVec 9) -- CVT, R292
  | cvtb (d : BitVec 7) (i : BitVec 2) (s : BitVec 7) (f : BitVec 9) -- CVTB, R295
  | cvtq (d : BitVec 7) (i : BitVec 2) (s : BitVec 7) (f : BitVec 9) -- CVTQ, R296
  | tagset (d : BitVec 7) (i : BitVec 2) (s : BitVec 7) (f : BitVec 9) -- TAGSET, R299
  | tagget (d : BitVec 7) (i : BitVec 2) (s : BitVec 7) -- TAGGET, R299
  | fpack (d : BitVec 7) (i : BitVec 2) (a : BitVec 7) (j : BitVec 2) (b : BitVec 7) -- FPACK, R298
  | funpack (d : BitVec 7) (i : BitVec 2) (s : BitVec 7) (f : BitVec 9) -- FUNPACK, R297
  | sqz (d : BitVec 7) (i : BitVec 2) (s : BitVec 7) (f : BitVec 9) -- SQZ, R294
  | vmov (d : BitVec 7) (i : BitVec 2) (s : BitVec 7) -- VMOV, R249
  | vmovS (d : BitVec 7) (i : BitVec 2) (s : BitVec 7) -- VMOV_S, R249
  | vmovI (d : BitVec 7) -- VMOV_I, R249
  | vperm (d : BitVec 7) (i : BitVec 2) (a : BitVec 7) (j : BitVec 2) (b : BitVec 7) -- VPERM, R250
  | vtbl (d : BitVec 7) (i : BitVec 2) (a : BitVec 7) (j : BitVec 2) (b : BitVec 7) -- VTBL, R251
  | vshuf (d : BitVec 7) (i : BitVec 2) (a : BitVec 7) (j : BitVec 2) (b : BitVec 7) -- VSHUF, R252
  | vred (d : BitVec 7) (i : BitVec 2) (s : BitVec 7) (f : BitVec 9) -- VRED, R254
  | vscan (d : BitVec 7) (i : BitVec 2) (s : BitVec 7) (f : BitVec 9) -- VSCAN, R255
  | vballot (d : BitVec 7) (p : BitVec 3) -- VBALLOT, R256
  | vrel (d : BitVec 7) (i : BitVec 2) (a : BitVec 7) (b : BitVec 7) -- VREL, R257
  | vrelSt (d : BitVec 7) (i : BitVec 2) (a : BitVec 7) (b : BitVec 7) -- VREL_ST, R257
  | ld (d : BitVec 7) (s : BitVec 3) (k : BitVec 1) (a : BitVec 6) (o : BitVec 8) -- LD, R215
  | st (d : BitVec 7) (s : BitVec 3) (k : BitVec 1) (a : BitVec 6) (o : BitVec 8) -- ST, R215
  | ldu (z : BitVec 1) (d : BitVec 6) (s : BitVec 3) (a : BitVec 6) (o : BitVec 8) -- LDU, R215
  | stu (z : BitVec 1) (d : BitVec 6) (s : BitVec 3) (a : BitVec 6) (o : BitVec 8) -- STU, R215
  | ldt (d : BitVec 7) (s : BitVec 3) (k : BitVec 1) (a : BitVec 6) (o : BitVec 8) -- LDT, R215
  | stt (d : BitVec 7) (s : BitVec 3) (k : BitVec 1) (a : BitVec 6) (o : BitVec 8) -- STT, R215
  | ldb (d : BitVec 7) (s : BitVec 3) (a : BitVec 6) (o : BitVec 8) -- LDB, R215
  | prf (l : BitVec 1) (s : BitVec 3) (k : BitVec 1) (a : BitVec 6) (o : BitVec 8) -- PRF, R217
  | atom (d : BitVec 7) (s : BitVec 3) (k : BitVec 1) (a : BitVec 6) (o : BitVec 4) (r : BitVec 1) -- ATOM, R223
  | fatom (d : BitVec 7) (s : BitVec 3) (k : BitVec 1) (a : BitVec 6) (o : BitVec 4) (r : BitVec 1) -- FATOM, R227
  | fence (s : BitVec 3) (o : BitVec 2) -- FENCE, R234
  | bar (s : BitVec 3) (i : BitVec 4) -- BAR, R235
  | waita (d : BitVec 7) (s : BitVec 3) (n : BitVec 1) (p : BitVec 3) (c : BitVec 2) (g : BitVec 3) (w : BitVec 1) -- WAITA, R134
  | waitaRecheck (key id t : Nat) -- WAITA_RECHECK, R134
  | wcnt (s : BitVec 3) (n : BitVec 1) (p : BitVec 3) (c : BitVec 3) (k : BitVec 8) -- WCNT, R133
  | dfence (d : BitVec 7) (s : BitVec 3) -- DFENCE, R236
  | dfenceAll (s : BitVec 3) -- DFENCE_ALL, R236
  | gmove (d : BitVec 7) -- GMOVE, R237
  | qpush (d : BitVec 7) (s : BitVec 3) (n : BitVec 1) (p : BitVec 3) (a : BitVec 6) -- QPUSH, R171
  | qpop (d : BitVec 7) (s : BitVec 3) (n : BitVec 1) (p : BitVec 3) (a : BitVec 6) -- QPOP, R171
  | kwant (d : BitVec 7) (s : BitVec 3) (n : BitVec 1) (p : BitVec 3) -- KWANT, R156
  | kput (d : BitVec 7) (s : BitVec 3) (n : BitVec 1) (p : BitVec 3) -- KPUT, R157
  | kdrop (d : BitVec 7) (s : BitVec 3) -- KDROP, R158
  | kclose (d : BitVec 7) (s : BitVec 3) -- KCLOSE, R159
  | amsend (d : BitVec 7) (s : BitVec 3) (n : BitVec 1) (p : BitVec 3) (g : BitVec 3) -- AMSEND, R164
  | cpy (d : BitVec 7) (s : BitVec 3) (n : BitVec 1) (p : BitVec 3) (g : BitVec 3) -- CPY, R125
  | coll (d : BitVec 7) (s : BitVec 3) (n : BitVec 1) (p : BitVec 3) (g : BitVec 3) -- COLL, R138
  | nbx (d : BitVec 7) (s : BitVec 3) (n : BitVec 1) (p : BitVec 3) (g : BitVec 3) -- NBX, R197
  | sld (d : BitVec 7) (h : BitVec 6) (n : BitVec 2) -- SLD, R199
  | sst (d : BitVec 7) (h : BitVec 6) (n : BitVec 2) -- SST, R199
  | salloc (d : BitVec 7) (h : BitVec 6) -- SALLOC, R200
  | sfree (h : BitVec 6) -- SFREE, R201
  | spinOn (d : BitVec 7) (h : BitVec 6) -- SPIN_ON, R201
  | spinOff (d : BitVec 7) (h : BitVec 6) -- SPIN_OFF, R201
  | mma (d : BitVec 7) (a : BitVec 7) (h : BitVec 7) -- MMA, R304
  | mmas (d : BitVec 7) (a : BitVec 7) (h : BitVec 7) -- MMAS, R306
  | mbld (d : BitVec 7) (s : BitVec 3) (g : BitVec 2) (h : BitVec 7) -- MBLD, R311
  | mbrel (h : BitVec 7) -- MBREL, R312
  | travStart (d : BitVec 7) (g : BitVec 2) (c : BitVec 6) -- TRAV_START, R339
  | trav (d : BitVec 7) (g : BitVec 2) -- TRAV, R339
  | trepStart (d : BitVec 7) (g : BitVec 2) -- TREP_START, R340
  | trep (d : BitVec 7) (g : BitVec 2) -- TREP, R340
  | bunion (d : BitVec 7) (i : BitVec 2) (s : BitVec 7) -- BUNION, R344
  | bsah (d : BitVec 7) (i : BitVec 2) (s : BitVec 7) -- BSAH, R344
  | npack (d : BitVec 7) (i : BitVec 2) (s : BitVec 7) -- NPACK, R344
  | mcode (d : BitVec 7) (i : BitVec 2) (s : BitVec 7) -- MCODE, R344
  | thit (g : BitVec 2) (p : BitVec 3) (a : BitVec 7) (j : BitVec 2) (b : BitVec 7) -- THIT, R342
  | gemitPrim (d : BitVec 7) (n : BitVec 1) (p : BitVec 3) -- GEMIT_PRIM, R360
  | gemitDraw (d : BitVec 7) (s : BitVec 3) (n : BitVec 1) (p : BitVec 3) -- GEMIT_DRAW, R361
  | frag (d : BitVec 7) (t : BitVec 3) (z : BitVec 1) -- FRAG, R363
  | sysSrseed (s : BitVec 7) -- SYS_SRSEED, R447
  | sysSegset (g : BitVec 3) (s : BitVec 7) -- SYS_SEGSET, R447
  | sysTret (k : BitVec 1) -- SYS_TRET, R447
  | peerPortTrained (p dev : Nat) -- PEER_PORT_TRAINED, R454
  | governorBudgetChange (cl : Nat) (budget : BitVec 16) -- GOVERNOR_BUDGET_CHANGE, R315
  | deviceReset -- DEVICE_RESET, R466
  | functionLevelReset -- FUNCTION_LEVEL_RESET, R448
  | qmQtableWrite -- QM_QTABLE_WRITE, R405
  | queueLoad -- LOAD, R407
  | queueDisable -- DISABLE, R407
  | queueReset -- RESET, R407
  | qctlComplete -- QCTL_COMPLETE, R407
  | commandStart -- COMMAND_START, R411
  | queueLaunch -- LAUNCH, R414
  | queueDraw -- DRAW, R347
  | queueCopy -- COPY, R412
  | queueSignal -- SIGNAL, R411
  | queueWait -- WAIT, R411
  | queueFence -- QUEUE_FENCE, R411
  | queueTimestamp -- TIMESTAMP, R411
  | queueSalloc -- QUEUE_SALLOC, R411
  | queueSfree -- QUEUE_SFREE, R411
  | queueResync -- QUEUE_RESYNC, R460
  | hbCtxtabWrite -- HB_CTXTAB_WRITE, R451
  | ctxBind -- BIND, R452
  | ctxUnbind -- UNBIND, R452
  | ctxKill -- KILL, R446
  | ctxKillLaunch -- KILLLAUNCH, R452
  | ctxResume -- RESUME, R452
  | ctxSwitchOut -- SWITCHOUT, R445
  | ctxSwitchIn -- SWITCHIN, R452
  | ctxPreempt -- PREEMPT, R452
  | killComplete -- KILL_COMPLETE, R446
  | hostopResync -- HOSTOP_RESYNC, R460
  | fwload -- FWLOAD, R464
  | attest -- ATTEST, R465
  | hostopComplete -- HOSTOP_COMPLETE, R459
  | sfNbpDataWrite -- SF_NBP_DATA_WRITE, R191
  | bankProgramInstall -- BANK_PROGRAM_INSTALL, R191
  | hbIdWrite -- HB_ID_WRITE, R454
  | ret -- RET, R402
deriving DecidableEq, Repr

end Sys2Proof
end

