-- ==== Sys2Proof/WellFormed.lean ====
section
/-! DEFINITION. Well-formedness: the checks of R66 on a word whose opcode and fixed bits name a row,
each with a name. A word that fails one traps as illegal at decode (class 0x08, DETAIL 0). -/
namespace Sys2Proof

/-- Why a word is illegal at decode (R66). -/
inductive DecodeError where
  /-- The opcode is 0x7F, a subfunction is unassigned, or a reserved field is not zero: no row fits. -/
  | noRow
  /-- A subfunction code that R64 or R65 leaves unassigned. -/
  | subfunction
  /-- A field that its entry marks reserved is not zero. -/
  | reserved
  /-- A destination code 64 to 127 of a scalar word (R48). -/
  | scalarDst
  /-- A destination code 112 to 127 of a vector word, or below 112 of one that writes a scalar (R49). -/
  | vectorDst
  /-- A non-zero pattern on a scalar source (R50). -/
  | pattern
  /-- Scope 7, or a scope the word does not take (R47, R235). -/
  | scope
  /-- A predicate destination with the non-blocking bit clear (R47). -/
  | nonBlocking
  /-- A register field outside the range its entry gives. -/
  | register
  /-- A segment code that the opcode does not take (R216, R225, R227). -/
  | segment
  /-- An `mset` or `mget` that breaks R62 or R61. -/
  | mset
  /-- A condition code that its entry makes illegal (R265, R283, R135). -/
  | condition
  /-- Another operand field outside the values its entry gives. -/
  | operand
deriving DecidableEq, Repr

/-- R50: a pattern other than identity on a source code that names a scalar. -/
def patOnScalar (i : BitVec 2) (a : BitVec 7) : Bool := i != 0 && decide (112 ≤ a.toNat)

/-- R61: the width of the gm field that a selector code names. -/
def gmWidth : Nat → Nat
  | 0 => 4 | 1 => 5 | 2 => 3 | 3 => 1 | 4 => 1 | 5 => 6 | 6 => 6 | 7 => 6 | 8 => 2 | _ => 0

/-- R62: the codes that no field of gm may take. -/
def gmForbidden (sel v : Nat) : Bool :=
  (sel == 1 && decide (16 < v)) || (sel == 2 && decide (5 < v)) || (sel == 8 && v == 3)

/-- R62, R270: an immediate `mset` that is illegal at decode. -/
def msetBad (sel v : Nat) : Bool :=
  decide (8 < sel) || decide (2 ^ gmWidth sel ≤ v) || gmForbidden sel v

/-- The src field of `sysr` is reserved but for SEGBASE, SEGLIM and VIEW. -/
def sysrBad (c s : Nat) : Bool :=
  if c == 23 || c == 24 then false else if c == 28 then decide (3 < s) else s != 0

/-- The first condition that holds names the error. -/
def firstErr : List (Bool × DecodeError) → Option DecodeError
  | [] => none
  | (c, e) :: l => if c then some e else firstErr l

/-- R66: why a word is illegal, from the fields of its row; `none` when it is legal. Events, which no
word encodes, are always well formed. -/
def wfReason : Instr → Option DecodeError
  | .deviceReset => none
  | .functionLevelReset => none
  | .registerWrite _ _ _ => none
  | .bar0UnsupportedAccess _ _ _ => none
  | .bar4Read _ _ => none
  | .bar4Write _ _ => none
  | .hingeInstall _ => none
  | .hingeRelease _ => none
  | .hingeRead _ => none
  | .hingeDonate _ => none
  | .hingeSetaff _ => none
  | .hingeGetaff _ => none
  | .hingeCmdComplete _ => none
  | .qmQtableWrite => none
  | .queueLoad => none
  | .queueDisable => none
  | .queueReset => none
  | .qctlComplete => none
  | .queueTail _ _ => none
  | .commandStart => none
  | .queueLaunch => none
  | .queueDraw => none
  | .queueCopy => none
  | .queueSignal => none
  | .queueWait => none
  | .waitComplete _ => none
  | .waitTimeout _ _ => none
  | .queueFence => none
  | .queueTimestamp => none
  | .queueSalloc => none
  | .queueSfree => none
  | .queueResync => none
  | .commandComplete _ _ => none
  | .hbCtxtabWrite => none
  | .ctxBind => none
  | .ctxUnbind => none
  | .ctxKill => none
  | .ctxKillLaunch => none
  | .ctxResume => none
  | .ctxSwitchOut => none
  | .ctxSwitchIn => none
  | .ctxPreempt => none
  | .killComplete => none
  | .hostopResync => none
  | .fwload => none
  | .attest => none
  | .hostopComplete => none
  | .sfNbpDataWrite => none
  | .bankProgramInstall => none
  | .fbKwStoreWrite _ _ _ => none
  | .fbCellAreaWrite _ _ => none
  | .hbIdWrite => none
  | .atsCompletion _ _ _ _ _ _ _ _ => none
  | .translationMiss _ _ _ _ _ => none
  | .pageRequestResponse _ _ _ _ => none
  | .atsInvalidation _ _ _ => none
  | .backgroundZeroingComplete _ => none
  | .migrationEpochEnd _ => none
  | .migrationCopyComplete _ _ => none
  | .migrationLockTimeout _ _ _ => none
  | .sliceRequest _ => none
  | .sliceLineFill _ => none
  | .sliceWriteBack _ => none
  | .l1LineFill _ _ _ => none
  | .atomicResponseRelease _ _ => none
  | .orderedAddContribution _ => none
  | .injectionReserve _ => none
  | .pawlLaunch _ => none
  | .pawl _ => none
  | .heartbeat _ => none
  | .heartbeatMiss _ _ => none
  | .linkRetryFailure _ _ => none
  | .rerouteResume _ => none
  | .copyEngineComplete _ _ => none
  | .engineCommandFault _ _ _ _ => none
  | .interestArrival _ => none
  | .refreshArrival _ => none
  | .interestExpiry _ _ _ _ => none
  | .requesterRecordExpiry _ _ => none
  | .kputArrival _ => none
  | .closeNoticeArrival _ _ => none
  | .closeAck _ _ => none
  | .tileArrival _ => none
  | .backingRefetchComplete _ => none
  | .messageArrival _ => none
  | .handlerDispatch _ => none
  | .handlerWatchdog _ _ => none
  | .sliceQueueOperation _ => none
  | .tileEviction _ _ _ => none
  | .tileRestore _ _ => none
  | .scrubBurst _ _ => none
  | .nbxCommand _ => none
  | .orderLockEntry _ => none
  | .ropInvocation _ => none
  | .matrixPassGrant _ => none
  | .reservationAging _ _ => none
  | .matrixTileWriteback _ _ => none
  | .governorWindow _ => none
  | .contextBankSpill _ _ => none
  | .mbldReadEnd _ _ _ => none
  | .traversalLaneEnd _ _ => none
  | .drawAccept _ => none
  | .primitiveSetup _ => none
  | .quadTicketReserve _ => none
  | .fragmentGroupDispatch _ => none
  | .drawComplete _ => none
  | .issueCycle _ _ => none
  | .splitGuardExpiry _ _ => none
  | .slotStarvationGuard _ _ _ => none
  | .collectorMark _ _ => none
  | .clauseStart _ _ => none
  | .mayFaultChecksResolved _ => none
  | .longLatencyCompletion _ _ => none
  | .watchdogExpiry _ _ => none
  | .teamPlacement _ => none
  | .placementStarvation _ _ => none
  | .preemptionRequest _ _ => none
  | .drainTimeout _ _ _ => none
  | .teamSave _ _ => none
  | .harvestRevocation _ _ _ => none
  | .thermalLimitCrossing _ _ _ _ => none
  | .thermalMigration _ _ => none
  | .ageingMeasurement _ _ _ _ _ => none
  | .forcedAgeingMeasurement _ _ _ _ _ => none
  | .peerPortDown _ => none
  | .peerReceive _ _ _ _ _ => none
  | .nop _ _ _ => none
  | .bra _ _ _ => none
  | .brx _ _ _ => none
  | .call _ _ _ => none
  | .ret => none
  | .jset _ => none
  | .exit _ _ => none
  | .trap _ _ _ => none
  | .mset s v => firstErr [(msetBad s.toNat v.toNat, .mset)]
  | .msetReg s _ => firstErr [(8 < s.toNat, .mset)]
  | .mget d s => firstErr [(64 ≤ d.toNat, .scalarDst), (8 < s.toNat, .mset)]
  | .sli d _ => firstErr [(64 ≤ d.toNat, .scalarDst)]
  | .slih d _ => firstErr [(64 ≤ d.toNat, .scalarDst)]
  | .pset _ _ => none
  | .psetS _ _ => none
  | .psetLt _ b => firstErr [(64 < b.toNat, .operand)]
  | .pmov _ _ _ _ _ s => firstErr [(3 < s.toNat, .subfunction)]
  | .vwset _ _ => none
  | .sysr d s c => firstErr [(64 ≤ d.toNat, .scalarDst), (31 < c.toNat, .subfunction), (sysrBad c.toNat s.toNat, .reserved)]
  | .sadd d _ _ => firstErr [(64 ≤ d.toNat, .scalarDst)]
  | .ssub d _ _ => firstErr [(64 ≤ d.toNat, .scalarDst)]
  | .smul d _ _ => firstErr [(64 ≤ d.toNat, .scalarDst)]
  | .smulh d _ _ => firstErr [(64 ≤ d.toNat, .scalarDst)]
  | .smad d _ _ => firstErr [(64 ≤ d.toNat, .scalarDst)]
  | .sand d _ _ => firstErr [(64 ≤ d.toNat, .scalarDst)]
  | .sor d _ _ => firstErr [(64 ≤ d.toNat, .scalarDst)]
  | .sxor d _ _ => firstErr [(64 ≤ d.toNat, .scalarDst)]
  | .sshl d _ _ => firstErr [(64 ≤ d.toNat, .scalarDst)]
  | .sshr d _ _ => firstErr [(64 ≤ d.toNat, .scalarDst)]
  | .ssar d _ _ => firstErr [(64 ≤ d.toNat, .scalarDst)]
  | .smin d _ _ => firstErr [(64 ≤ d.toNat, .scalarDst)]
  | .smax d _ _ => firstErr [(64 ≤ d.toNat, .scalarDst)]
  | .scmp c _ _ _ => firstErr [(9 < c.toNat, .condition)]
  | .ssel d _ _ => firstErr [(64 ≤ d.toNat, .scalarDst)]
  | .sbit d s f => firstErr [(64 ≤ d.toNat, .scalarDst), (7 < f.toNat, .subfunction), (4 ≤ f.toNat ∧ f.toNat ≤ 6 ∧ 63 ≤ s.toNat, .register)]
  | .add d i a j b => firstErr [(112 ≤ d.toNat, .vectorDst), (patOnScalar i a, .pattern), (patOnScalar j b, .pattern)]
  | .sub d i a j b => firstErr [(112 ≤ d.toNat, .vectorDst), (patOnScalar i a, .pattern), (patOnScalar j b, .pattern)]
  | .mul d i a j b => firstErr [(112 ≤ d.toNat, .vectorDst), (patOnScalar i a, .pattern), (patOnScalar j b, .pattern)]
  | .mulh d i a j b => firstErr [(112 ≤ d.toNat, .vectorDst), (patOnScalar i a, .pattern), (patOnScalar j b, .pattern)]
  | .mad d i a j b => firstErr [(112 ≤ d.toNat, .vectorDst), (patOnScalar i a, .pattern), (patOnScalar j b, .pattern)]
  | .andB d i a j b => firstErr [(112 ≤ d.toNat, .vectorDst), (patOnScalar i a, .pattern), (patOnScalar j b, .pattern)]
  | .orB d i a j b => firstErr [(112 ≤ d.toNat, .vectorDst), (patOnScalar i a, .pattern), (patOnScalar j b, .pattern)]
  | .xorB d i a j b => firstErr [(112 ≤ d.toNat, .vectorDst), (patOnScalar i a, .pattern), (patOnScalar j b, .pattern)]
  | .shl d i a j b => firstErr [(112 ≤ d.toNat, .vectorDst), (patOnScalar i a, .pattern), (patOnScalar j b, .pattern)]
  | .shr d i a j b => firstErr [(112 ≤ d.toNat, .vectorDst), (patOnScalar i a, .pattern), (patOnScalar j b, .pattern)]
  | .sar d i a j b => firstErr [(112 ≤ d.toNat, .vectorDst), (patOnScalar i a, .pattern), (patOnScalar j b, .pattern)]
  | .minV d i a j b => firstErr [(112 ≤ d.toNat, .vectorDst), (patOnScalar i a, .pattern), (patOnScalar j b, .pattern)]
  | .maxV d i a j b => firstErr [(112 ≤ d.toNat, .vectorDst), (patOnScalar i a, .pattern), (patOnScalar j b, .pattern)]
  | .absd d i a j b => firstErr [(112 ≤ d.toNat, .vectorDst), (patOnScalar i a, .pattern), (patOnScalar j b, .pattern)]
  | .addc d i s f => firstErr [(112 ≤ d.toNat, .vectorDst), (3 < f.toNat, .subfunction), (patOnScalar i s, .pattern)]
  | .bit d i s f => firstErr [(112 ≤ d.toNat, .vectorDst), (7 < f.toNat, .subfunction), (patOnScalar i s, .pattern)]
  | .cmp c _ i a j b => firstErr [(9 < c.toNat, .condition), (patOnScalar i a, .pattern), (patOnScalar j b, .pattern)]
  | .sel d i a j b => firstErr [(112 ≤ d.toNat, .vectorDst), (patOnScalar i a, .pattern), (patOnScalar j b, .pattern)]
  | .adr d i s f => firstErr [(110 < d.toNat, .register), (3 < f.toNat, .subfunction), (patOnScalar i s, .pattern)]
  | .dot8 d i a j b => firstErr [(112 ≤ d.toNat, .vectorDst), (patOnScalar i a, .pattern), (patOnScalar j b, .pattern)]
  | .fadd d i a j b => firstErr [(112 ≤ d.toNat, .vectorDst), (patOnScalar i a, .pattern), (patOnScalar j b, .pattern)]
  | .fsub d i a j b => firstErr [(112 ≤ d.toNat, .vectorDst), (patOnScalar i a, .pattern), (patOnScalar j b, .pattern)]
  | .fmul d i a j b => firstErr [(112 ≤ d.toNat, .vectorDst), (patOnScalar i a, .pattern), (patOnScalar j b, .pattern)]
  | .ffma d i a j b => firstErr [(112 ≤ d.toNat, .vectorDst), (patOnScalar i a, .pattern), (patOnScalar j b, .pattern)]
  | .ffms d i a j b => firstErr [(112 ≤ d.toNat, .vectorDst), (patOnScalar i a, .pattern), (patOnScalar j b, .pattern)]
  | .ffnma d i a j b => firstErr [(112 ≤ d.toNat, .vectorDst), (patOnScalar i a, .pattern), (patOnScalar j b, .pattern)]
  | .ffnms d i a j b => firstErr [(112 ≤ d.toNat, .vectorDst), (patOnScalar i a, .pattern), (patOnScalar j b, .pattern)]
  | .fmin d i a j b => firstErr [(112 ≤ d.toNat, .vectorDst), (patOnScalar i a, .pattern), (patOnScalar j b, .pattern)]
  | .fmax d i a j b => firstErr [(112 ≤ d.toNat, .vectorDst), (patOnScalar i a, .pattern), (patOnScalar j b, .pattern)]
  | .fcmp c _ i a j b => firstErr [(7 < c.toNat, .condition), (patOnScalar i a, .pattern), (patOnScalar j b, .pattern)]
  | .fclass d i s => firstErr [(112 ≤ d.toNat, .vectorDst), (patOnScalar i s, .pattern)]
  | .frcp d i s => firstErr [(112 ≤ d.toNat, .vectorDst), (patOnScalar i s, .pattern)]
  | .frsq d i s => firstErr [(112 ≤ d.toNat, .vectorDst), (patOnScalar i s, .pattern)]
  | .fsqrt d i s => firstErr [(112 ≤ d.toNat, .vectorDst), (patOnScalar i s, .pattern)]
  | .fdiv d i a j b => firstErr [(112 ≤ d.toNat, .vectorDst), (patOnScalar i a, .pattern), (patOnScalar j b, .pattern)]
  | .fexp2 d i s => firstErr [(112 ≤ d.toNat, .vectorDst), (patOnScalar i s, .pattern)]
  | .flog2 d i s => firstErr [(112 ≤ d.toNat, .vectorDst), (patOnScalar i s, .pattern)]
  | .fsin d i s => firstErr [(112 ≤ d.toNat, .vectorDst), (patOnScalar i s, .pattern)]
  | .fcos d i s => firstErr [(112 ≤ d.toNat, .vectorDst), (patOnScalar i s, .pattern)]
  | .frnd d i s f => firstErr [(112 ≤ d.toNat, .vectorDst), (4 < f.toNat, .subfunction), (patOnScalar i s, .pattern)]
  | .fscale d i a j b => firstErr [(112 ≤ d.toNat, .vectorDst), (patOnScalar i a, .pattern), (patOnScalar j b, .pattern)]
  | .ffract d i s => firstErr [(112 ≤ d.toNat, .vectorDst), (patOnScalar i s, .pattern)]
  | .fdot2 d i a j b => firstErr [(112 ≤ d.toNat, .vectorDst), (patOnScalar i a, .pattern), (patOnScalar j b, .pattern)]
  | .fcsgn d i a j b => firstErr [(112 ≤ d.toNat, .vectorDst), (patOnScalar i a, .pattern), (patOnScalar j b, .pattern)]
  | .cvt d i s f => firstErr [(112 ≤ d.toNat, .vectorDst), (f.toNat = 0 ∨ 16 < f.toNat, .subfunction), (patOnScalar i s, .pattern)]
  | .cvtb d i s f => firstErr [(112 ≤ d.toNat, .vectorDst), (3 < f.toNat, .subfunction), (patOnScalar i s, .pattern)]
  | .cvtq d i s f => firstErr [(112 ≤ d.toNat, .vectorDst), (3 < f.toNat, .subfunction), (patOnScalar i s, .pattern)]
  | .tagset d i s f => firstErr [(112 ≤ d.toNat, .vectorDst), (16 < f.toNat, .subfunction), (patOnScalar i s, .pattern)]
  | .tagget d i s => firstErr [(112 ≤ d.toNat, .vectorDst), (patOnScalar i s, .pattern)]
  | .fpack d i a j b => firstErr [(112 ≤ d.toNat, .vectorDst), (patOnScalar i a, .pattern), (patOnScalar j b, .pattern)]
  | .funpack d i s f => firstErr [(112 ≤ d.toNat, .vectorDst), (3 < f.toNat, .subfunction), (patOnScalar i s, .pattern)]
  | .sqz d i s f => firstErr [(112 ≤ d.toNat, .vectorDst), (3 < f.toNat, .subfunction), (patOnScalar i s, .pattern)]
  | .vmov d i s => firstErr [(112 ≤ d.toNat, .vectorDst), (patOnScalar i s, .pattern)]
  | .vmovS d i s => firstErr [(d.toNat < 112, .vectorDst), (patOnScalar i s, .pattern)]
  | .vmovI d => firstErr [(112 ≤ d.toNat, .vectorDst)]
  | .vperm d i a j b => firstErr [(112 ≤ d.toNat, .vectorDst), (patOnScalar i a, .pattern), (patOnScalar j b, .pattern)]
  | .vtbl d i a j b => firstErr [(112 ≤ d.toNat, .vectorDst), (patOnScalar i a, .pattern), (patOnScalar j b, .pattern)]
  | .vshuf d i a j b => firstErr [(112 ≤ d.toNat, .vectorDst), (patOnScalar i a, .pattern), (patOnScalar j b, .pattern)]
  | .vred d i s f => firstErr [(112 ≤ d.toNat, .vectorDst), (5 < f.toNat, .subfunction), (patOnScalar i s, .pattern)]
  | .vscan d i s f => firstErr [(112 ≤ d.toNat, .vectorDst), (5 < f.toNat, .subfunction), (patOnScalar i s, .pattern)]
  | .vballot d _ => firstErr [(d.toNat < 112, .vectorDst)]
  | .vrel d i a b => firstErr [(112 ≤ d.toNat, .vectorDst), (patOnScalar i a, .pattern), (111 < b.toNat, .register)]
  | .vrelSt d i a b => firstErr [(112 ≤ d.toNat, .vectorDst), (patOnScalar i a, .pattern), (111 < b.toNat, .register)]
  | .ld d _ _ _ _ => firstErr [(112 ≤ d.toNat, .vectorDst)]
  | .st _ s _ _ _ => firstErr [(s.toNat ∉ [0, 1, 2, 3, 5, 6, 7], .segment)]
  | .ldu _ _ s _ _ => firstErr [(s.toNat ∉ [0, 1, 2, 4, 6, 7], .segment)]
  | .stu _ _ s _ _ => firstErr [(s.toNat ∉ [0, 1, 2, 6, 7], .segment)]
  | .ldt d s _ _ _ => firstErr [(112 ≤ d.toNat, .vectorDst), (s.toNat ∉ [0, 1, 2, 4, 5, 6, 7], .segment)]
  | .stt _ s _ _ _ => firstErr [(s.toNat ∉ [0, 1, 2, 5, 6, 7], .segment)]
  | .ldb d s _ _ => firstErr [(112 ≤ d.toNat, .vectorDst), (s.toNat ∉ [0, 1, 2, 4], .segment)]
  | .prf _ s _ _ _ => firstErr [(s.toNat ∉ [0, 4], .segment)]
  | .atom d s _ _ o _ => firstErr [(112 ≤ d.toNat, .vectorDst), (o.toNat = 7 ∧ d.toNat = 111, .register), (7 < o.toNat, .subfunction), (s.toNat ∉ [0, 1, 2], .segment)]
  | .fatom d s _ _ o r => firstErr [(112 ≤ d.toNat, .vectorDst), (3 < o.toNat, .subfunction), (s.toNat ∉ [0, 1, 2], .segment), (o.toNat = 0 ∧ (s.toNat ≠ 0 ∨ r = 1), .operand)]
  | .fence s o => firstErr [(s.toNat = 7, .scope), (o.toNat = 3, .operand)]
  | .bar s _ => firstErr [(s.toNat < 2 ∨ s.toNat = 7, .scope)]
  | .waita d s n p c g _ => firstErr [(60 < d.toNat, .register), (s.toNat = 7, .scope), (n = 0 ∧ p ≠ 0, .nonBlocking), (c.toNat = 3, .condition), (g.toNat ∉ [0, 1, 2, 7], .segment)]
  | .waitaRecheck _ _ _ => none
  | .wcnt s n p c _ => firstErr [(s.toNat = 7, .scope), (n = 0 ∧ p ≠ 0, .nonBlocking), (5 < c.toNat, .operand)]
  | .dfence d s => firstErr [(63 < d.toNat, .register), (s.toNat = 7, .scope)]
  | .dfenceAll s => firstErr [(s.toNat = 7, .scope)]
  | .gmove d => firstErr [(62 < d.toNat, .register)]
  | .qpush d s n p _ => firstErr [(111 < d.toNat, .register), (s.toNat = 7, .scope), (n = 0 ∧ p ≠ 0, .nonBlocking)]
  | .qpop d s n p _ => firstErr [(111 < d.toNat, .register), (s.toNat = 7, .scope), (n = 0 ∧ p ≠ 0, .nonBlocking)]
  | .kwant d s n p => firstErr [(59 < d.toNat, .register), (s.toNat = 7, .scope), (n = 0 ∧ p ≠ 0, .nonBlocking)]
  | .kput d s n p => firstErr [(59 < d.toNat, .register), (s.toNat = 7, .scope), (n = 0 ∧ p ≠ 0, .nonBlocking)]
  | .kdrop d s => firstErr [(61 < d.toNat, .register), (s.toNat = 7, .scope)]
  | .kclose d s => firstErr [(62 < d.toNat, .register), (s.toNat = 7, .scope)]
  | .amsend d s n p g => firstErr [(62 < d.toNat, .register), (s.toNat = 7, .scope), (n = 0 ∧ p ≠ 0, .nonBlocking), (g.toNat ∉ [0, 1, 7], .segment)]
  | .cpy d s n p g => firstErr [(62 < d.toNat ∨ d.toNat % 2 = 1, .register), (s.toNat = 7, .scope), (n = 0 ∧ p ≠ 0, .nonBlocking), (g.toNat ∉ [0, 1], .segment)]
  | .coll d s n p g => firstErr [(62 < d.toNat ∨ d.toNat % 2 = 1, .register), (s.toNat = 7, .scope), (n = 0 ∧ p ≠ 0, .nonBlocking), (g.toNat ∉ [0, 1], .segment)]
  | .nbx d s n p g => firstErr [(62 < d.toNat ∨ d.toNat % 2 = 1, .register), (s.toNat = 7, .scope), (n = 0 ∧ p ≠ 0, .nonBlocking), (g.toNat ∉ [0, 1], .segment)]
  | .sld d h n => firstErr [(n.toNat = 3, .operand), (62 < h.toNat, .register), (112 < d.toNat + 2 ^ n.toNat, .register)]
  | .sst d h n => firstErr [(n.toNat = 3, .operand), (62 < h.toNat, .register), (111 < d.toNat + 2 ^ n.toNat, .register)]
  | .salloc d _ => firstErr [(62 < d.toNat, .register)]
  | .sfree _ => none
  | .spinOn d _ => firstErr [(63 < d.toNat, .register)]
  | .spinOff d _ => firstErr [(63 < d.toNat, .register)]
  | .mma d a _ => firstErr [(112 ≤ d.toNat, .vectorDst), (111 < a.toNat, .register)]
  | .mmas d a _ => firstErr [(112 ≤ d.toNat, .vectorDst), (60 < a.toNat, .register)]
  | .mbld d s g _ => firstErr [(61 < d.toNat, .register), (s.toNat = 7, .scope), (g.toNat ∉ [0, 1], .segment)]
  | .mbrel _ => none
  | .travStart d g c => firstErr [(109 < d.toNat, .register), (g.toNat ∉ [0, 1], .segment), (62 < c.toNat, .register)]
  | .trav d g => firstErr [(109 < d.toNat, .register), (g.toNat ∉ [0, 1], .segment)]
  | .trepStart d g => firstErr [(109 < d.toNat, .register), (g.toNat ∉ [0, 1], .segment)]
  | .trep d g => firstErr [(109 < d.toNat, .register), (g.toNat ∉ [0, 1], .segment)]
  | .bunion d i s => firstErr [(112 ≤ d.toNat, .vectorDst), (111 < s.toNat, .register), (patOnScalar i s, .pattern)]
  | .bsah d i s => firstErr [(112 ≤ d.toNat, .vectorDst), (111 < s.toNat, .register), (patOnScalar i s, .pattern)]
  | .npack d i s => firstErr [(112 ≤ d.toNat, .vectorDst), (111 < s.toNat, .register), (patOnScalar i s, .pattern)]
  | .mcode d i s => firstErr [(112 ≤ d.toNat, .vectorDst), (111 < s.toNat, .register), (patOnScalar i s, .pattern)]
  | .thit g _ a j b => firstErr [(g.toNat ∉ [0, 1], .segment), (110 < a.toNat, .register), (patOnScalar j b, .pattern)]
  | .gemitPrim d n p => firstErr [(97 < d.toNat, .register), (n = 0 ∧ p ≠ 0, .nonBlocking)]
  | .gemitDraw d s n p => firstErr [(62 < d.toNat, .register), (s.toNat = 7, .scope), (n = 0 ∧ p ≠ 0, .nonBlocking)]
  | .frag d _ z => firstErr [(111 < d.toNat + 1 + z.toNat, .register)]
  | .sysSrseed s => firstErr [(63 < s.toNat, .register)]
  | .sysSegset _ s => firstErr [(62 < s.toNat, .register)]
  | .sysTret _ => none
  | .peerPortTrained _ _ => none
  | .governorBudgetChange _ _ => none

/-- An instruction is well formed when no check of R66 refuses it. -/
def WellFormed (i : Instr) : Prop := wfReason i = none

end Sys2Proof
end

