-- ==== Sys2Proof/Decode.lean ====
section
/-! DEFINITION. Decoding a 32-bit word to an instruction or a named refusal, total on every word, and
the encoder written from the same tables of the spec. -/
namespace Sys2Proof

/-- The row's instruction when the word's fixed bits are the row's. -/
def row (w : BitVec 32) (mask fixed : BitVec 32) (i : Instr) : Option Instr :=
  if w &&& mask = fixed then some i else none

/-- The row of the opcode map that a word belongs to, with its fields cut out (R44, R64, R65). -/
def decodeRaw (w : BitVec 32) : Option Instr :=
  let f : Nat → (n : Nat) → BitVec n := fun lo n => w.extractLsb' lo n
  match (w.extractLsb' 25 7).toNat with
  | 0x00 => row w 0xFE000000 0x00000000 (.nop (f 22 3) (f 21 1) (f 0 21))
  | 0x01 => row w 0xFE000000 0x02000000 (.bra (f 22 3) (f 21 1) (f 0 21))
  | 0x02 => row w 0xFE1FFF80 0x04000000 (.brx (f 22 3) (f 21 1) (f 0 7))
  | 0x03 => row w 0xFE000000 0x06000000 (.call (f 22 3) (f 21 1) (f 0 21))
  | 0x04 => row w 0xFFFFFFFF 0x09C00000 (.ret)
  | 0x05 => row w 0xFFE00000 0x0BC00000 (.jset (f 0 21))
  | 0x06 => row w 0xFE1FFFFF 0x0C000000 (.exit (f 22 3) (f 21 1))
  | 0x07 => row w 0xFE1F0000 0x0E000000 (.trap (f 22 3) (f 21 1) (f 0 16))
  | 0x08 => row w 0xFE020000 0x10000000 (.mset (f 18 7) (f 0 17)) <|> row w 0xFE03FFC0 0x10020000 (.msetReg (f 18 7) (f 0 6))
  | 0x09 => row w 0xFE03FE00 0x12000000 (.mget (f 18 7) (f 0 9))
  | 0x0A => row w 0xFE000000 0x14000000 (.sli (f 18 7) (f 0 18))
  | 0x0B => row w 0xFE000000 0x16000000 (.slih (f 18 7) (f 0 18))
  | 0x0C => row w 0xFFE3FFFE 0x18000000 (.pset (f 18 3) (f 0 1)) <|> row w 0xFFE3FFC0 0x18010000 (.psetS (f 18 3) (f 0 6)) <|> row w 0xFFE3FF80 0x18020000 (.psetLt (f 18 3) (f 0 7))
  | 0x0D => row w 0xFFE00200 0x1A000000 (.pmov (f 18 3) (f 17 1) (f 14 3) (f 13 1) (f 10 3) (f 0 9))
  | 0x0E => row w 0xFFF3FFC0 0x1C000000 (.vwset (f 18 2) (f 0 6))
  | 0x0F => row w 0xFE03F000 0x1E000000 (.sysr (f 18 7) (f 9 3) (f 0 9))
  | 0x10 => row w 0xFE030180 0x20000000 (.sadd (f 18 7) (f 9 7) (f 0 7))
  | 0x11 => row w 0xFE030180 0x22000000 (.ssub (f 18 7) (f 9 7) (f 0 7))
  | 0x12 => row w 0xFE030180 0x24000000 (.smul (f 18 7) (f 9 7) (f 0 7))
  | 0x13 => row w 0xFE030180 0x26000000 (.smulh (f 18 7) (f 9 7) (f 0 7))
  | 0x14 => row w 0xFE030180 0x28000000 (.smad (f 18 7) (f 9 7) (f 0 7))
  | 0x15 => row w 0xFE030180 0x2A000000 (.sand (f 18 7) (f 9 7) (f 0 7))
  | 0x16 => row w 0xFE030180 0x2C000000 (.sor (f 18 7) (f 9 7) (f 0 7))
  | 0x17 => row w 0xFE030180 0x2E000000 (.sxor (f 18 7) (f 9 7) (f 0 7))
  | 0x18 => row w 0xFE030180 0x30000000 (.sshl (f 18 7) (f 9 7) (f 0 7))
  | 0x19 => row w 0xFE030180 0x32000000 (.sshr (f 18 7) (f 9 7) (f 0 7))
  | 0x1A => row w 0xFE030180 0x34000000 (.ssar (f 18 7) (f 9 7) (f 0 7))
  | 0x1B => row w 0xFE030180 0x36000000 (.smin (f 18 7) (f 9 7) (f 0 7))
  | 0x1C => row w 0xFE030180 0x38000000 (.smax (f 18 7) (f 9 7) (f 0 7))
  | 0x1D => row w 0xFE030180 0x3A000000 (.scmp (f 21 4) (f 18 3) (f 9 7) (f 0 7))
  | 0x1E => row w 0xFE030180 0x3C000000 (.ssel (f 18 7) (f 9 7) (f 0 7))
  | 0x1F => row w 0xFE030000 0x3E000000 (.sbit (f 18 7) (f 9 7) (f 0 9))
  | 0x20 => row w 0xFE000000 0x40000000 (.add (f 18 7) (f 16 2) (f 9 7) (f 7 2) (f 0 7))
  | 0x21 => row w 0xFE000000 0x42000000 (.sub (f 18 7) (f 16 2) (f 9 7) (f 7 2) (f 0 7))
  | 0x22 => row w 0xFE000000 0x44000000 (.mul (f 18 7) (f 16 2) (f 9 7) (f 7 2) (f 0 7))
  | 0x23 => row w 0xFE000000 0x46000000 (.mulh (f 18 7) (f 16 2) (f 9 7) (f 7 2) (f 0 7))
  | 0x24 => row w 0xFE000000 0x48000000 (.mad (f 18 7) (f 16 2) (f 9 7) (f 7 2) (f 0 7))
  | 0x25 => row w 0xFE000000 0x4A000000 (.andB (f 18 7) (f 16 2) (f 9 7) (f 7 2) (f 0 7))
  | 0x26 => row w 0xFE000000 0x4C000000 (.orB (f 18 7) (f 16 2) (f 9 7) (f 7 2) (f 0 7))
  | 0x27 => row w 0xFE000000 0x4E000000 (.xorB (f 18 7) (f 16 2) (f 9 7) (f 7 2) (f 0 7))
  | 0x28 => row w 0xFE000000 0x50000000 (.shl (f 18 7) (f 16 2) (f 9 7) (f 7 2) (f 0 7))
  | 0x29 => row w 0xFE000000 0x52000000 (.shr (f 18 7) (f 16 2) (f 9 7) (f 7 2) (f 0 7))
  | 0x2A => row w 0xFE000000 0x54000000 (.sar (f 18 7) (f 16 2) (f 9 7) (f 7 2) (f 0 7))
  | 0x2B => row w 0xFE000000 0x56000000 (.minV (f 18 7) (f 16 2) (f 9 7) (f 7 2) (f 0 7))
  | 0x2C => row w 0xFE000000 0x58000000 (.maxV (f 18 7) (f 16 2) (f 9 7) (f 7 2) (f 0 7))
  | 0x2D => row w 0xFE000000 0x5A000000 (.absd (f 18 7) (f 16 2) (f 9 7) (f 7 2) (f 0 7))
  | 0x2E => row w 0xFE000000 0x5C000000 (.addc (f 18 7) (f 16 2) (f 9 7) (f 0 9))
  | 0x2F => row w 0xFE000000 0x5E000000 (.bit (f 18 7) (f 16 2) (f 9 7) (f 0 9))
  | 0x30 => row w 0xFE000000 0x60000000 (.cmp (f 21 4) (f 18 3) (f 16 2) (f 9 7) (f 7 2) (f 0 7))
  | 0x31 => row w 0xFE000000 0x62000000 (.sel (f 18 7) (f 16 2) (f 9 7) (f 7 2) (f 0 7))
  | 0x32 => row w 0xFE000000 0x64000000 (.adr (f 18 7) (f 16 2) (f 9 7) (f 0 9))
  | 0x33 => row w 0xFE000000 0x66000000 (.dot8 (f 18 7) (f 16 2) (f 9 7) (f 7 2) (f 0 7))
  | 0x34 => row w 0xFE000000 0x68000000 (.fadd (f 18 7) (f 16 2) (f 9 7) (f 7 2) (f 0 7))
  | 0x35 => row w 0xFE000000 0x6A000000 (.fsub (f 18 7) (f 16 2) (f 9 7) (f 7 2) (f 0 7))
  | 0x36 => row w 0xFE000000 0x6C000000 (.fmul (f 18 7) (f 16 2) (f 9 7) (f 7 2) (f 0 7))
  | 0x37 => row w 0xFE000000 0x6E000000 (.ffma (f 18 7) (f 16 2) (f 9 7) (f 7 2) (f 0 7))
  | 0x38 => row w 0xFE000000 0x70000000 (.ffms (f 18 7) (f 16 2) (f 9 7) (f 7 2) (f 0 7))
  | 0x39 => row w 0xFE000000 0x72000000 (.ffnma (f 18 7) (f 16 2) (f 9 7) (f 7 2) (f 0 7))
  | 0x3A => row w 0xFE000000 0x74000000 (.ffnms (f 18 7) (f 16 2) (f 9 7) (f 7 2) (f 0 7))
  | 0x3B => row w 0xFE000000 0x76000000 (.fmin (f 18 7) (f 16 2) (f 9 7) (f 7 2) (f 0 7))
  | 0x3C => row w 0xFE000000 0x78000000 (.fmax (f 18 7) (f 16 2) (f 9 7) (f 7 2) (f 0 7))
  | 0x3D => row w 0xFE000000 0x7A000000 (.fcmp (f 21 4) (f 18 3) (f 16 2) (f 9 7) (f 7 2) (f 0 7))
  | 0x3E => row w 0xFE0001FF 0x7C000000 (.fclass (f 18 7) (f 16 2) (f 9 7))
  | 0x3F => row w 0xFE0001FF 0x7E000000 (.frcp (f 18 7) (f 16 2) (f 9 7))
  | 0x40 => row w 0xFE0001FF 0x80000000 (.frsq (f 18 7) (f 16 2) (f 9 7))
  | 0x41 => row w 0xFE0001FF 0x82000000 (.fsqrt (f 18 7) (f 16 2) (f 9 7))
  | 0x42 => row w 0xFE000000 0x84000000 (.fdiv (f 18 7) (f 16 2) (f 9 7) (f 7 2) (f 0 7))
  | 0x43 => row w 0xFE0001FF 0x86000000 (.fexp2 (f 18 7) (f 16 2) (f 9 7))
  | 0x44 => row w 0xFE0001FF 0x88000000 (.flog2 (f 18 7) (f 16 2) (f 9 7))
  | 0x45 => row w 0xFE0001FF 0x8A000000 (.fsin (f 18 7) (f 16 2) (f 9 7))
  | 0x46 => row w 0xFE0001FF 0x8C000000 (.fcos (f 18 7) (f 16 2) (f 9 7))
  | 0x47 => row w 0xFE000000 0x8E000000 (.frnd (f 18 7) (f 16 2) (f 9 7) (f 0 9))
  | 0x48 => row w 0xFE000000 0x90000000 (.fscale (f 18 7) (f 16 2) (f 9 7) (f 7 2) (f 0 7))
  | 0x49 => row w 0xFE0001FF 0x92000000 (.ffract (f 18 7) (f 16 2) (f 9 7))
  | 0x4A => row w 0xFE000000 0x94000000 (.fdot2 (f 18 7) (f 16 2) (f 9 7) (f 7 2) (f 0 7))
  | 0x4B => row w 0xFE000000 0x96000000 (.fcsgn (f 18 7) (f 16 2) (f 9 7) (f 7 2) (f 0 7))
  | 0x4C => row w 0xFE000000 0x98000000 (.cvt (f 18 7) (f 16 2) (f 9 7) (f 0 9))
  | 0x4D => row w 0xFE000000 0x9A000000 (.cvtb (f 18 7) (f 16 2) (f 9 7) (f 0 9))
  | 0x4E => row w 0xFE000000 0x9C000000 (.cvtq (f 18 7) (f 16 2) (f 9 7) (f 0 9))
  | 0x4F => row w 0xFE000000 0x9E000000 (.tagset (f 18 7) (f 16 2) (f 9 7) (f 0 9))
  | 0x50 => row w 0xFE0001FF 0xA0000000 (.tagget (f 18 7) (f 16 2) (f 9 7))
  | 0x51 => row w 0xFE000000 0xA2000000 (.fpack (f 18 7) (f 16 2) (f 9 7) (f 7 2) (f 0 7))
  | 0x52 => row w 0xFE000000 0xA4000000 (.funpack (f 18 7) (f 16 2) (f 9 7) (f 0 9))
  | 0x53 => row w 0xFE000000 0xA6000000 (.sqz (f 18 7) (f 16 2) (f 9 7) (f 0 9))
  | 0x54 => row w 0xFE0001FF 0xA8000000 (.vmov (f 18 7) (f 16 2) (f 9 7)) <|> row w 0xFE0001FF 0xA8000001 (.vmovS (f 18 7) (f 16 2) (f 9 7)) <|> row w 0xFE03FFFF 0xA8000002 (.vmovI (f 18 7))
  | 0x55 => row w 0xFE000000 0xAA000000 (.vperm (f 18 7) (f 16 2) (f 9 7) (f 7 2) (f 0 7))
  | 0x56 => row w 0xFE000000 0xAC000000 (.vtbl (f 18 7) (f 16 2) (f 9 7) (f 7 2) (f 0 7))
  | 0x57 => row w 0xFE000000 0xAE000000 (.vshuf (f 18 7) (f 16 2) (f 9 7) (f 7 2) (f 0 7))
  | 0x58 => row w 0xFE000000 0xB0000000 (.vred (f 18 7) (f 16 2) (f 9 7) (f 0 9))
  | 0x59 => row w 0xFE000000 0xB2000000 (.vscan (f 18 7) (f 16 2) (f 9 7) (f 0 9))
  | 0x5A => row w 0xFE03F1FF 0xB4000000 (.vballot (f 18 7) (f 9 3))
  | 0x5B => row w 0xFE000180 0xB6000000 (.vrel (f 18 7) (f 16 2) (f 9 7) (f 0 7)) <|> row w 0xFE000180 0xB6000080 (.vrelSt (f 18 7) (f 16 2) (f 9 7) (f 0 7))
  | 0x5C => row w 0xFE000000 0xB8000000 (.ld (f 18 7) (f 15 3) (f 14 1) (f 8 6) (f 0 8))
  | 0x5D => row w 0xFE000000 0xBA000000 (.st (f 18 7) (f 15 3) (f 14 1) (f 8 6) (f 0 8))
  | 0x5E => row w 0xFE004000 0xBC004000 (.ldu (f 24 1) (f 18 6) (f 15 3) (f 8 6) (f 0 8))
  | 0x5F => row w 0xFE004000 0xBE004000 (.stu (f 24 1) (f 18 6) (f 15 3) (f 8 6) (f 0 8))
  | 0x60 => row w 0xFE000000 0xC0000000 (.ldt (f 18 7) (f 15 3) (f 14 1) (f 8 6) (f 0 8))
  | 0x61 => row w 0xFE000000 0xC2000000 (.stt (f 18 7) (f 15 3) (f 14 1) (f 8 6) (f 0 8))
  | 0x62 => row w 0xFE004000 0xC4004000 (.ldb (f 18 7) (f 15 3) (f 8 6) (f 0 8))
  | 0x63 => row w 0xFFF80000 0xC6000000 (.prf (f 18 1) (f 15 3) (f 14 1) (f 8 6) (f 0 8))
  | 0x64 => row w 0xFE000007 0xC8000000 (.atom (f 18 7) (f 15 3) (f 14 1) (f 8 6) (f 4 4) (f 3 1))
  | 0x65 => row w 0xFE000007 0xCA000000 (.fatom (f 18 7) (f 15 3) (f 14 1) (f 8 6) (f 4 4) (f 3 1))
  | 0x66 => row w 0xFFFC79FF 0xCC000000 (.fence (f 15 3) (f 9 2))
  | 0x67 => row w 0xFFFC7FF0 0xCE000000 (.bar (f 15 3) (f 0 4))
  | 0x68 => row w 0xFE00001F 0xD0000000 (.waita (f 18 7) (f 15 3) (f 14 1) (f 11 3) (f 9 2) (f 6 3) (f 5 1))
  | 0x69 => row w 0xFFFC0000 0xD2000000 (.wcnt (f 15 3) (f 14 1) (f 11 3) (f 8 3) (f 0 8))
  | 0x6A => row w 0xFE007FFF 0xD4000000 (.dfence (f 18 7) (f 15 3)) <|> row w 0xFFFC7FFF 0xD4000400 (.dfenceAll (f 15 3))
  | 0x6B => row w 0xFE03FFFF 0xD6000000 (.gmove (f 18 7))
  | 0x6C => row w 0xFE00001F 0xD8000000 (.qpush (f 18 7) (f 15 3) (f 14 1) (f 11 3) (f 5 6))
  | 0x6D => row w 0xFE00001F 0xDA000000 (.qpop (f 18 7) (f 15 3) (f 14 1) (f 11 3) (f 5 6))
  | 0x6E => row w 0xFE0007FF 0xDC000000 (.kwant (f 18 7) (f 15 3) (f 14 1) (f 11 3)) <|> row w 0xFE0007FF 0xDC000001 (.kput (f 18 7) (f 15 3) (f 14 1) (f 11 3)) <|> row w 0xFE007FFF 0xDC000002 (.kdrop (f 18 7) (f 15 3)) <|> row w 0xFE007FFF 0xDC000003 (.kclose (f 18 7) (f 15 3))
  | 0x6F => row w 0xFE0000FF 0xDE000000 (.amsend (f 18 7) (f 15 3) (f 14 1) (f 11 3) (f 8 3))
  | 0x70 => row w 0xFE0000FF 0xE0000000 (.cpy (f 18 7) (f 15 3) (f 14 1) (f 11 3) (f 8 3))
  | 0x71 => row w 0xFE0000FF 0xE2000000 (.coll (f 18 7) (f 15 3) (f 14 1) (f 11 3) (f 8 3))
  | 0x72 => row w 0xFE0000FF 0xE4000000 (.nbx (f 18 7) (f 15 3) (f 14 1) (f 11 3) (f 8 3))
  | 0x73 => row w 0xFE03F807 0xE6000000 (.sld (f 18 7) (f 5 6) (f 3 2)) <|> row w 0xFE03F807 0xE6000001 (.sst (f 18 7) (f 5 6) (f 3 2)) <|> row w 0xFE03F81F 0xE6000002 (.salloc (f 18 7) (f 5 6)) <|> row w 0xFFFFF81F 0xE6000003 (.sfree (f 5 6)) <|> row w 0xFE03F81F 0xE600000C (.spinOn (f 18 7) (f 5 6)) <|> row w 0xFE03F81F 0xE6000004 (.spinOff (f 18 7) (f 5 6))
  | 0x74 => row w 0xFE030180 0xE8000000 (.mma (f 18 7) (f 9 7) (f 0 7))
  | 0x75 => row w 0xFE030180 0xEA000000 (.mmas (f 18 7) (f 9 7) (f 0 7))
  | 0x76 => row w 0xFE007980 0xEC000000 (.mbld (f 18 7) (f 15 3) (f 9 2) (f 0 7))
  | 0x77 => row w 0xFFFFFF80 0xEE000000 (.mbrel (f 0 7))
  | 0x78 => row w 0xFE03F9C0 0xF0000100 (.travStart (f 18 7) (f 9 2) (f 0 6)) <|> row w 0xFE03F9FF 0xF0000000 (.trav (f 18 7) (f 9 2))
  | 0x79 => row w 0xFE03F9FF 0xF2000100 (.trepStart (f 18 7) (f 9 2)) <|> row w 0xFE03F9FF 0xF2000000 (.trep (f 18 7) (f 9 2))
  | 0x7A => row w 0xFE0001FF 0xF4000000 (.bunion (f 18 7) (f 16 2) (f 9 7)) <|> row w 0xFE0001FF 0xF4000001 (.bsah (f 18 7) (f 16 2) (f 9 7)) <|> row w 0xFE0001FF 0xF4000002 (.npack (f 18 7) (f 16 2) (f 9 7)) <|> row w 0xFE0001FF 0xF4000003 (.mcode (f 18 7) (f 16 2) (f 9 7))
  | 0x7B => row w 0xFE630000 0xF6000000 (.thit (f 23 2) (f 18 3) (f 9 7) (f 7 2) (f 0 7))
  | 0x7C => row w 0xFE0387FF 0xF8000000 (.gemitPrim (f 18 7) (f 14 1) (f 11 3)) <|> row w 0xFE0007FF 0xF8000100 (.gemitDraw (f 18 7) (f 15 3) (f 14 1) (f 11 3))
  | 0x7D => row w 0xFE03F87F 0xFA000000 (.frag (f 18 7) (f 8 3) (f 7 1))
  | 0x7E => row w 0xFFFF01FF 0xFC000000 (.sysSrseed (f 9 7)) <|> row w 0xFFE301FF 0xFC000001 (.sysSegset (f 18 3) (f 9 7)) <|> row w 0xFFFBFFFF 0xFC000002 (.sysTret (f 18 1))
  | _ => none

/-- Decoding (R66): the row, then its checks, refused by name. -/
def decode (w : BitVec 32) : Except DecodeError Instr :=
  match decodeRaw w with
  | none => .error .noRow
  | some i =>
    match wfReason i with
    | some e => .error e
    | none => .ok i

/-- The word of an instruction; `none` for an event, which has no encoding. -/
def encode : Instr → Option (BitVec 32)
  | .deviceReset => none
  | .functionLevelReset => none
  | .registerWrite _ _ _ => none
  | .bar0UnsupportedAccess _ _ _ => none
  | .bar4Read _ _ => none
  | .bar4Write _ _ => none
  | .hingeInstall _ => none
  | .hingeRelease _ => none
  | .hingeRead _ => none
  | .hingeDonate _ => none
  | .hingeSetaff _ => none
  | .hingeGetaff _ => none
  | .hingeCmdComplete _ => none
  | .qmQtableWrite => none
  | .queueLoad => none
  | .queueDisable => none
  | .queueReset => none
  | .qctlComplete => none
  | .queueTail _ _ => none
  | .commandStart => none
  | .queueLaunch => none
  | .queueDraw => none
  | .queueCopy => none
  | .queueSignal => none
  | .queueWait => none
  | .waitComplete _ => none
  | .waitTimeout _ _ => none
  | .queueFence => none
  | .queueTimestamp => none
  | .queueSalloc => none
  | .queueSfree => none
  | .queueResync => none
  | .commandComplete _ _ => none
  | .hbCtxtabWrite => none
  | .ctxBind => none
  | .ctxUnbind => none
  | .ctxKill => none
  | .ctxKillLaunch => none
  | .ctxResume => none
  | .ctxSwitchOut => none
  | .ctxSwitchIn => none
  | .ctxPreempt => none
  | .killComplete => none
  | .hostopResync => none
  | .fwload => none
  | .attest => none
  | .hostopComplete => none
  | .sfNbpDataWrite => none
  | .bankProgramInstall => none
  | .fbKwStoreWrite _ _ _ => none
  | .fbCellAreaWrite _ _ => none
  | .hbIdWrite => none
  | .atsCompletion _ _ _ _ _ _ _ _ => none
  | .translationMiss _ _ _ _ _ => none
  | .pageRequestResponse _ _ _ _ => none
  | .atsInvalidation _ _ _ => none
  | .backgroundZeroingComplete _ => none
  | .migrationEpochEnd _ => none
  | .migrationCopyComplete _ _ => none
  | .migrationLockTimeout _ _ _ => none
  | .sliceRequest _ => none
  | .sliceLineFill _ => none
  | .sliceWriteBack _ => none
  | .l1LineFill _ _ _ => none
  | .atomicResponseRelease _ _ => none
  | .orderedAddContribution _ => none
  | .injectionReserve _ => none
  | .pawlLaunch _ => none
  | .pawl _ => none
  | .heartbeat _ => none
  | .heartbeatMiss _ _ => none
  | .linkRetryFailure _ _ => none
  | .rerouteResume _ => none
  | .copyEngineComplete _ _ => none
  | .engineCommandFault _ _ _ _ => none
  | .interestArrival _ => none
  | .refreshArrival _ => none
  | .interestExpiry _ _ _ _ => none
  | .requesterRecordExpiry _ _ => none
  | .kputArrival _ => none
  | .closeNoticeArrival _ _ => none
  | .closeAck _ _ => none
  | .tileArrival _ => none
  | .backingRefetchComplete _ => none
  | .messageArrival _ => none
  | .handlerDispatch _ => none
  | .handlerWatchdog _ _ => none
  | .sliceQueueOperation _ => none
  | .tileEviction _ _ _ => none
  | .tileRestore _ _ => none
  | .scrubBurst _ _ => none
  | .nbxCommand _ => none
  | .orderLockEntry _ => none
  | .ropInvocation _ => none
  | .matrixPassGrant _ => none
  | .reservationAging _ _ => none
  | .matrixTileWriteback _ _ => none
  | .governorWindow _ => none
  | .contextBankSpill _ _ => none
  | .mbldReadEnd _ _ _ => none
  | .traversalLaneEnd _ _ => none
  | .drawAccept _ => none
  | .primitiveSetup _ => none
  | .quadTicketReserve _ => none
  | .fragmentGroupDispatch _ => none
  | .drawComplete _ => none
  | .issueCycle _ _ => none
  | .splitGuardExpiry _ _ => none
  | .slotStarvationGuard _ _ _ => none
  | .collectorMark _ _ => none
  | .clauseStart _ _ => none
  | .mayFaultChecksResolved _ => none
  | .longLatencyCompletion _ _ => none
  | .watchdogExpiry _ _ => none
  | .teamPlacement _ => none
  | .placementStarvation _ _ => none
  | .preemptionRequest _ _ => none
  | .drainTimeout _ _ _ => none
  | .teamSave _ _ => none
  | .harvestRevocation _ _ _ => none
  | .thermalLimitCrossing _ _ _ _ => none
  | .thermalMigration _ _ => none
  | .ageingMeasurement _ _ _ _ _ => none
  | .forcedAgeingMeasurement _ _ _ _ _ => none
  | .peerPortDown _ => none
  | .peerReceive _ _ _ _ _ => none
  | .nop p i o => some (0x0#7 ++ p ++ i ++ o)
  | .bra p i o => some (0x1#7 ++ p ++ i ++ o)
  | .brx p i r => some (0x2#7 ++ p ++ i ++ 0x0#14 ++ r)
  | .call p i o => some (0x3#7 ++ p ++ i ++ o)
  | .ret => some (0x9C00000#32)
  | .jset o => some (0x5E#11 ++ o)
  | .exit p i => some (0x6#7 ++ p ++ i ++ 0x0#21)
  | .trap p i c => some (0x7#7 ++ p ++ i ++ 0x0#5 ++ c)
  | .mset s v => some (0x8#7 ++ s ++ 0x0#1 ++ v)
  | .msetReg s r => some (0x8#7 ++ s ++ 0x800#12 ++ r)
  | .mget d s => some (0x9#7 ++ d ++ 0x0#9 ++ s)
  | .sli d i => some (0xA#7 ++ d ++ i)
  | .slih d i => some (0xB#7 ++ d ++ i)
  | .pset p v => some (0xC0#11 ++ p ++ 0x0#17 ++ v)
  | .psetS p s => some (0xC0#11 ++ p ++ 0x400#12 ++ s)
  | .psetLt p b => some (0xC0#11 ++ p ++ 0x400#11 ++ b)
  | .pmov d i a j b s => some (0xD0#11 ++ d ++ i ++ a ++ j ++ b ++ 0x0#1 ++ s)
  | .vwset v s => some (0x1C0#12 ++ v ++ 0x0#12 ++ s)
  | .sysr d s c => some (0xF#7 ++ d ++ 0x0#6 ++ s ++ c)
  | .sadd d a b => some (0x10#7 ++ d ++ 0x0#2 ++ a ++ 0x0#2 ++ b)
  | .ssub d a b => some (0x11#7 ++ d ++ 0x0#2 ++ a ++ 0x0#2 ++ b)
  | .smul d a b => some (0x12#7 ++ d ++ 0x0#2 ++ a ++ 0x0#2 ++ b)
  | .smulh d a b => some (0x13#7 ++ d ++ 0x0#2 ++ a ++ 0x0#2 ++ b)
  | .smad d a b => some (0x14#7 ++ d ++ 0x0#2 ++ a ++ 0x0#2 ++ b)
  | .sand d a b => some (0x15#7 ++ d ++ 0x0#2 ++ a ++ 0x0#2 ++ b)
  | .sor d a b => some (0x16#7 ++ d ++ 0x0#2 ++ a ++ 0x0#2 ++ b)
  | .sxor d a b => some (0x17#7 ++ d ++ 0x0#2 ++ a ++ 0x0#2 ++ b)
  | .sshl d a b => some (0x18#7 ++ d ++ 0x0#2 ++ a ++ 0x0#2 ++ b)
  | .sshr d a b => some (0x19#7 ++ d ++ 0x0#2 ++ a ++ 0x0#2 ++ b)
  | .ssar d a b => some (0x1A#7 ++ d ++ 0x0#2 ++ a ++ 0x0#2 ++ b)
  | .smin d a b => some (0x1B#7 ++ d ++ 0x0#2 ++ a ++ 0x0#2 ++ b)
  | .smax d a b => some (0x1C#7 ++ d ++ 0x0#2 ++ a ++ 0x0#2 ++ b)
  | .scmp c p a b => some (0x1D#7 ++ c ++ p ++ 0x0#2 ++ a ++ 0x0#2 ++ b)
  | .ssel d a b => some (0x1E#7 ++ d ++ 0x0#2 ++ a ++ 0x0#2 ++ b)
  | .sbit d s f => some (0x1F#7 ++ d ++ 0x0#2 ++ s ++ f)
  | .add d i a j b => some (0x20#7 ++ d ++ i ++ a ++ j ++ b)
  | .sub d i a j b => some (0x21#7 ++ d ++ i ++ a ++ j ++ b)
  | .mul d i a j b => some (0x22#7 ++ d ++ i ++ a ++ j ++ b)
  | .mulh d i a j b => some (0x23#7 ++ d ++ i ++ a ++ j ++ b)
  | .mad d i a j b => some (0x24#7 ++ d ++ i ++ a ++ j ++ b)
  | .andB d i a j b => some (0x25#7 ++ d ++ i ++ a ++ j ++ b)
  | .orB d i a j b => some (0x26#7 ++ d ++ i ++ a ++ j ++ b)
  | .xorB d i a j b => some (0x27#7 ++ d ++ i ++ a ++ j ++ b)
  | .shl d i a j b => some (0x28#7 ++ d ++ i ++ a ++ j ++ b)
  | .shr d i a j b => some (0x29#7 ++ d ++ i ++ a ++ j ++ b)
  | .sar d i a j b => some (0x2A#7 ++ d ++ i ++ a ++ j ++ b)
  | .minV d i a j b => some (0x2B#7 ++ d ++ i ++ a ++ j ++ b)
  | .maxV d i a j b => some (0x2C#7 ++ d ++ i ++ a ++ j ++ b)
  | .absd d i a j b => some (0x2D#7 ++ d ++ i ++ a ++ j ++ b)
  | .addc d i s f => some (0x2E#7 ++ d ++ i ++ s ++ f)
  | .bit d i s f => some (0x2F#7 ++ d ++ i ++ s ++ f)
  | .cmp c p i a j b => some (0x30#7 ++ c ++ p ++ i ++ a ++ j ++ b)
  | .sel d i a j b => some (0x31#7 ++ d ++ i ++ a ++ j ++ b)
  | .adr d i s f => some (0x32#7 ++ d ++ i ++ s ++ f)
  | .dot8 d i a j b => some (0x33#7 ++ d ++ i ++ a ++ j ++ b)
  | .fadd d i a j b => some (0x34#7 ++ d ++ i ++ a ++ j ++ b)
  | .fsub d i a j b => some (0x35#7 ++ d ++ i ++ a ++ j ++ b)
  | .fmul d i a j b => some (0x36#7 ++ d ++ i ++ a ++ j ++ b)
  | .ffma d i a j b => some (0x37#7 ++ d ++ i ++ a ++ j ++ b)
  | .ffms d i a j b => some (0x38#7 ++ d ++ i ++ a ++ j ++ b)
  | .ffnma d i a j b => some (0x39#7 ++ d ++ i ++ a ++ j ++ b)
  | .ffnms d i a j b => some (0x3A#7 ++ d ++ i ++ a ++ j ++ b)
  | .fmin d i a j b => some (0x3B#7 ++ d ++ i ++ a ++ j ++ b)
  | .fmax d i a j b => some (0x3C#7 ++ d ++ i ++ a ++ j ++ b)
  | .fcmp c p i a j b => some (0x3D#7 ++ c ++ p ++ i ++ a ++ j ++ b)
  | .fclass d i s => some (0x3E#7 ++ d ++ i ++ s ++ 0x0#9)
  | .frcp d i s => some (0x3F#7 ++ d ++ i ++ s ++ 0x0#9)
  | .frsq d i s => some (0x40#7 ++ d ++ i ++ s ++ 0x0#9)
  | .fsqrt d i s => some (0x41#7 ++ d ++ i ++ s ++ 0x0#9)
  | .fdiv d i a j b => some (0x42#7 ++ d ++ i ++ a ++ j ++ b)
  | .fexp2 d i s => some (0x43#7 ++ d ++ i ++ s ++ 0x0#9)
  | .flog2 d i s => some (0x44#7 ++ d ++ i ++ s ++ 0x0#9)
  | .fsin d i s => some (0x45#7 ++ d ++ i ++ s ++ 0x0#9)
  | .fcos d i s => some (0x46#7 ++ d ++ i ++ s ++ 0x0#9)
  | .frnd d i s f => some (0x47#7 ++ d ++ i ++ s ++ f)
  | .fscale d i a j b => some (0x48#7 ++ d ++ i ++ a ++ j ++ b)
  | .ffract d i s => some (0x49#7 ++ d ++ i ++ s ++ 0x0#9)
  | .fdot2 d i a j b => some (0x4A#7 ++ d ++ i ++ a ++ j ++ b)
  | .fcsgn d i a j b => some (0x4B#7 ++ d ++ i ++ a ++ j ++ b)
  | .cvt d i s f => some (0x4C#7 ++ d ++ i ++ s ++ f)
  | .cvtb d i s f => some (0x4D#7 ++ d ++ i ++ s ++ f)
  | .cvtq d i s f => some (0x4E#7 ++ d ++ i ++ s ++ f)
  | .tagset d i s f => some (0x4F#7 ++ d ++ i ++ s ++ f)
  | .tagget d i s => some (0x50#7 ++ d ++ i ++ s ++ 0x0#9)
  | .fpack d i a j b => some (0x51#7 ++ d ++ i ++ a ++ j ++ b)
  | .funpack d i s f => some (0x52#7 ++ d ++ i ++ s ++ f)
  | .sqz d i s f => some (0x53#7 ++ d ++ i ++ s ++ f)
  | .vmov d i s => some (0x54#7 ++ d ++ i ++ s ++ 0x0#9)
  | .vmovS d i s => some (0x54#7 ++ d ++ i ++ s ++ 0x1#9)
  | .vmovI d => some (0x54#7 ++ d ++ 0x2#18)
  | .vperm d i a j b => some (0x55#7 ++ d ++ i ++ a ++ j ++ b)
  | .vtbl d i a j b => some (0x56#7 ++ d ++ i ++ a ++ j ++ b)
  | .vshuf d i a j b => some (0x57#7 ++ d ++ i ++ a ++ j ++ b)
  | .vred d i s f => some (0x58#7 ++ d ++ i ++ s ++ f)
  | .vscan d i s f => some (0x59#7 ++ d ++ i ++ s ++ f)
  | .vballot d p => some (0x5A#7 ++ d ++ 0x0#6 ++ p ++ 0x0#9)
  | .vrel d i a b => some (0x5B#7 ++ d ++ i ++ a ++ 0x0#2 ++ b)
  | .vrelSt d i a b => some (0x5B#7 ++ d ++ i ++ a ++ 0x1#2 ++ b)
  | .ld d s k a o => some (0x5C#7 ++ d ++ s ++ k ++ a ++ o)
  | .st d s k a o => some (0x5D#7 ++ d ++ s ++ k ++ a ++ o)
  | .ldu z d s a o => some (0x5E#7 ++ z ++ d ++ s ++ 0x1#1 ++ a ++ o)
  | .stu z d s a o => some (0x5F#7 ++ z ++ d ++ s ++ 0x1#1 ++ a ++ o)
  | .ldt d s k a o => some (0x60#7 ++ d ++ s ++ k ++ a ++ o)
  | .stt d s k a o => some (0x61#7 ++ d ++ s ++ k ++ a ++ o)
  | .ldb d s a o => some (0x62#7 ++ d ++ s ++ 0x1#1 ++ a ++ o)
  | .prf l s k a o => some (0x18C0#13 ++ l ++ s ++ k ++ a ++ o)
  | .atom d s k a o r => some (0x64#7 ++ d ++ s ++ k ++ a ++ o ++ r ++ 0x0#3)
  | .fatom d s k a o r => some (0x65#7 ++ d ++ s ++ k ++ a ++ o ++ r ++ 0x0#3)
  | .fence s o => some (0x3300#14 ++ s ++ 0x0#4 ++ o ++ 0x0#9)
  | .bar s i => some (0x3380#14 ++ s ++ 0x0#11 ++ i)
  | .waita d s n p c g w => some (0x68#7 ++ d ++ s ++ n ++ p ++ c ++ g ++ w ++ 0x0#5)
  | .waitaRecheck _ _ _ => none
  | .wcnt s n p c k => some (0x3480#14 ++ s ++ n ++ p ++ c ++ k)
  | .dfence d s => some (0x6A#7 ++ d ++ s ++ 0x0#15)
  | .dfenceAll s => some (0x3500#14 ++ s ++ 0x400#15)
  | .gmove d => some (0x6B#7 ++ d ++ 0x0#18)
  | .qpush d s n p a => some (0x6C#7 ++ d ++ s ++ n ++ p ++ a ++ 0x0#5)
  | .qpop d s n p a => some (0x6D#7 ++ d ++ s ++ n ++ p ++ a ++ 0x0#5)
  | .kwant d s n p => some (0x6E#7 ++ d ++ s ++ n ++ p ++ 0x0#11)
  | .kput d s n p => some (0x6E#7 ++ d ++ s ++ n ++ p ++ 0x1#11)
  | .kdrop d s => some (0x6E#7 ++ d ++ s ++ 0x2#15)
  | .kclose d s => some (0x6E#7 ++ d ++ s ++ 0x3#15)
  | .amsend d s n p g => some (0x6F#7 ++ d ++ s ++ n ++ p ++ g ++ 0x0#8)
  | .cpy d s n p g => some (0x70#7 ++ d ++ s ++ n ++ p ++ g ++ 0x0#8)
  | .coll d s n p g => some (0x71#7 ++ d ++ s ++ n ++ p ++ g ++ 0x0#8)
  | .nbx d s n p g => some (0x72#7 ++ d ++ s ++ n ++ p ++ g ++ 0x0#8)
  | .sld d h n => some (0x73#7 ++ d ++ 0x0#7 ++ h ++ n ++ 0x0#3)
  | .sst d h n => some (0x73#7 ++ d ++ 0x0#7 ++ h ++ n ++ 0x1#3)
  | .salloc d h => some (0x73#7 ++ d ++ 0x0#7 ++ h ++ 0x2#5)
  | .sfree h => some (0x1CC000#21 ++ h ++ 0x3#5)
  | .spinOn d h => some (0x73#7 ++ d ++ 0x0#7 ++ h ++ 0xC#5)
  | .spinOff d h => some (0x73#7 ++ d ++ 0x0#7 ++ h ++ 0x4#5)
  | .mma d a h => some (0x74#7 ++ d ++ 0x0#2 ++ a ++ 0x0#2 ++ h)
  | .mmas d a h => some (0x75#7 ++ d ++ 0x0#2 ++ a ++ 0x0#2 ++ h)
  | .mbld d s g h => some (0x76#7 ++ d ++ s ++ 0x0#4 ++ g ++ 0x0#2 ++ h)
  | .mbrel h => some (0x1DC0000#25 ++ h)
  | .travStart d g c => some (0x78#7 ++ d ++ 0x0#7 ++ g ++ 0x4#3 ++ c)
  | .trav d g => some (0x78#7 ++ d ++ 0x0#7 ++ g ++ 0x0#9)
  | .trepStart d g => some (0x79#7 ++ d ++ 0x0#7 ++ g ++ 0x100#9)
  | .trep d g => some (0x79#7 ++ d ++ 0x0#7 ++ g ++ 0x0#9)
  | .bunion d i s => some (0x7A#7 ++ d ++ i ++ s ++ 0x0#9)
  | .bsah d i s => some (0x7A#7 ++ d ++ i ++ s ++ 0x1#9)
  | .npack d i s => some (0x7A#7 ++ d ++ i ++ s ++ 0x2#9)
  | .mcode d i s => some (0x7A#7 ++ d ++ i ++ s ++ 0x3#9)
  | .thit g p a j b => some (0x7B#7 ++ g ++ 0x0#2 ++ p ++ 0x0#2 ++ a ++ j ++ b)
  | .gemitPrim d n p => some (0x7C#7 ++ d ++ 0x0#3 ++ n ++ p ++ 0x0#11)
  | .gemitDraw d s n p => some (0x7C#7 ++ d ++ s ++ n ++ p ++ 0x100#11)
  | .frag d t z => some (0x7D#7 ++ d ++ 0x0#7 ++ t ++ z ++ 0x0#7)
  | .sysSrseed s => some (0xFC00#16 ++ s ++ 0x0#9)
  | .sysSegset g s => some (0x7E0#11 ++ g ++ 0x0#2 ++ s ++ 0x1#9)
  | .sysTret k => some (0x1F80#13 ++ k ++ 0x2#18)
  | .peerPortTrained _ _ => none
  | .governorBudgetChange _ _ => none

/-- The instruction that a row's bits give: the table's bit 0 is bit 0 of the little-endian word. -/
def decodeTableWord (nbits w : Nat) : Option Instr :=
  if 2 ^ nbits ≤ w then none
  else match decode (BitVec.ofNat 32 w) with
    | .ok i => some i
    | .error _ => none

end Sys2Proof
end

