-- ==== Sys2Proof/Machine/Float.lean ====
section
/-! DEFINITION. The number formats of R23 to R30 and the one rounding of R34: exact values, rounding in the
modes of R33, overflow (R36), canonical NaNs (R38) and the conditions of R39. -/
namespace Sys2Proof.Machine

/-! ### Formats -/

/-- Format codes of R23. -/
abbrev tRAW : Nat := 0
abbrev tU8 : Nat := 1
abbrev tI8 : Nat := 2
abbrev tU16 : Nat := 3
abbrev tI16 : Nat := 4
abbrev tU32 : Nat := 5
abbrev tI32 : Nat := 6
abbrev tU64 : Nat := 7
abbrev tI64 : Nat := 8
abbrev tF16 : Nat := 9
abbrev tBF16 : Nat := 10
abbrev tF32 : Nat := 11
abbrev tF64 : Nat := 12
abbrev tE4M3 : Nat := 13
abbrev tE5M2 : Nat := 14
abbrev tQ4 : Nat := 15
abbrev tSCB : Nat := 16

/-- Element width in bits of a format code (R23). -/
def tWidth : Nat → Nat
  | 1 | 2 | 13 | 14 | 16 => 8
  | 3 | 4 | 9 | 10 => 16
  | 7 | 8 | 12 => 64
  | 15 => 4
  | _ => 32

/-- The 64-bit element types, which use W registers (R32, R48). -/
def tWide (t : Nat) : Bool := t == tU64 || t == tI64 || t == tF64
/-- Signed integer types (R24). -/
def tSigned (t : Nat) : Bool := t == tI8 || t == tI16 || t == tI32 || t == tI64
/-- The eight integer codes. -/
def tInt (t : Nat) : Bool := 1 ≤ t && t ≤ 8
/-- The four IEEE formats that arithmetic admits (R276). -/
def tFloat (t : Nat) : Bool := t == tF16 || t == tBF16 || t == tF32 || t == tF64
/-- Every floating format. -/
def tAnyFloat (t : Nat) : Bool := tFloat t || t == tE4M3 || t == tE5M2

/-- A floating format: width, fraction bits, bias, and whether it is E4M3, which has no infinity (R25, R27, R28). -/
structure Fmt where
  w : Nat
  fb : Nat
  bias : Nat
  noInf : Bool
deriving DecidableEq, Repr

/-- The floating format of a code (F32 for the codes that name none). -/
def fmtOf : Nat → Fmt
  | 9 => ⟨16, 10, 15, false⟩
  | 10 => ⟨16, 7, 127, false⟩
  | 12 => ⟨64, 52, 1023, false⟩
  | 13 => ⟨8, 3, 7, true⟩
  | 14 => ⟨8, 2, 15, false⟩
  | _ => ⟨32, 23, 127, false⟩

/-- The all-ones exponent field. -/
def Fmt.emax (f : Fmt) : Nat := 2 ^ (f.w - 1 - f.fb) - 1
/-- The largest finite magnitude's bits (R36). -/
def Fmt.maxFin (f : Fmt) : Nat := if f.noInf then 0x7E else f.emax * 2 ^ f.fb - 1
/-- The bits of +infinity; E4M3 has none. -/
def Fmt.infBits (f : Fmt) : Nat := f.emax * 2 ^ f.fb
/-- The canonical quiet NaN (R38). -/
def Fmt.nanBits (f : Fmt) : Nat := if f.noInf then 0x7F else f.emax * 2 ^ f.fb + 2 ^ (f.fb - 1)
/-- The exponent of the smallest subnormal step. -/
def Fmt.emin (f : Fmt) : Int := 1 - (f.bias : Int) - (f.fb : Int)
/-- The sign bit in place. -/
def Fmt.signBit (f : Fmt) (neg : Bool) : Nat := if neg then 2 ^ (f.w - 1) else 0

/-! ### Exact values -/

/-- An exact value: NaN (signalling or not), infinity, or (−1)^neg · n/d · 2^e. -/
inductive XV where
  | nan (sig : Bool)
  | inf (neg : Bool)
  | fin (neg : Bool) (n d : Nat) (e : Int)
deriving DecidableEq, Repr

def XV.isNan : XV → Bool
  | .nan _ => true
  | _ => false
def XV.isSig : XV → Bool
  | .nan s => s
  | _ => false
def XV.isInf : XV → Bool
  | .inf _ => true
  | _ => false
def XV.isZero : XV → Bool
  | .fin _ n _ _ => n == 0
  | _ => false
def XV.isNeg : XV → Bool
  | .nan _ => false
  | .inf s => s
  | .fin s _ _ _ => s
def XV.negate : XV → XV
  | .nan s => .nan s
  | .inf s => .inf !s
  | .fin s n d e => .fin (!s) n d e

/-- The value that an element's bits hold (R25 to R28). -/
def unpack (f : Fmt) (b : Nat) : XV :=
  let neg := bit b (f.w - 1)
  let ex := bits b (f.w - 2) f.fb
  let m := b % 2 ^ f.fb
  if f.noInf then
    if ex = f.emax ∧ m = 7 then .nan false
    else if ex = 0 then .fin neg m 1 f.emin
    else .fin neg (2 ^ f.fb + m) 1 (f.emin + ex - 1)
  else if ex = f.emax then
    if m = 0 then .inf neg else .nan (!bit m (f.fb - 1))
  else if ex = 0 then .fin neg m 1 f.emin
  else .fin neg (2 ^ f.fb + m) 1 (f.emin + ex - 1)

/-- Number of significant bits, zero for zero. -/
def bitLen (n : Nat) : Nat := if n = 0 then 0 else Nat.log2 n + 1

/-- ⌊log₂ (n/d · 2^e)⌋ of a positive value. -/
def floorLog (n d : Nat) (e : Int) : Int :=
  let k : Int := (bitLen n : Int) - (bitLen d : Int)
  let ge : Bool := if k < 0 then decide (d ≤ n <<< k.natAbs) else decide (d <<< k.natAbs ≤ n)
  (if ge then k else k - 1) + e

/-- Rounding modes (R33): 0 RNE, 1 RTZ, 2 RUP, 3 RDN, 4 RNA, 5 SR. -/
def roundsUp (rm : Nat) (neg : Bool) (k r d : Nat) (sr : Option Nat) : Bool :=
  if r = 0 then false
  else match rm with
    | 1 => false
    | 2 => !neg
    | 3 => neg
    | 4 => decide (d ≤ 2 * r)
    | 5 => match sr with
      | some x => decide (2 ^ 24 ≤ 2 ^ 24 * r / d + x)      -- R35
      | none => decide (d < 2 * r) || (2 * r == d && k % 2 == 1)
    | _ => decide (d < 2 * r) || (2 * r == d && k % 2 == 1)

/-- A result: its bits and the conditions of R39. -/
structure FRes where
  bits : Nat
  inv : Bool := false
  dz : Bool := false
  ov : Bool := false
deriving DecidableEq, Repr

/-- The rounded magnitude's bits with an unbounded exponent above (R34, R36): the biased exponent and the
fraction as one number, so that a carry out of the fraction steps the exponent. Second: inexact. -/
def roundMag (f : Fmt) (rm : Nat) (neg : Bool) (n d : Nat) (e : Int) (sr : Option Nat) : Nat × Bool :=
  if n = 0 then (0, false)
  else
    let q := max (floorLog n d e - f.fb) f.emin
    let sh := e - q
    let num := if sh < 0 then n else n <<< sh.natAbs
    let den := if sh < 0 then d <<< sh.natAbs else d
    let k := num / den
    let r := num % den
    let k' := if roundsUp rm neg k r den sr then k + 1 else k
    ((q - f.emin).toNat * 2 ^ f.fb + k', r != 0)

/-- R36: the bits an overflowing result takes. -/
def overflowBits (f : Fmt) (rm : Nat) (sat neg : Bool) : Nat :=
  if f.noInf then (if sat then 0x7E + f.signBit neg else 0x7F)
  else if sat then f.maxFin + f.signBit neg
  else match rm with
    | 1 => f.maxFin + f.signBit neg
    | 2 => (if neg then f.maxFin else f.infBits) + f.signBit neg
    | 3 => (if neg then f.infBits else f.maxFin) + f.signBit neg
    | _ => f.infBits + f.signBit neg

/-- R34 to R38: an exact value rounded once to a format. `rm` is the mode, `sr` the drawn value when SR
applies. A NaN is canonical; its signalling bit is an invalid operation. -/
def roundTo (f : Fmt) (rm : Nat) (sat : Bool) (sr : Option Nat) : XV → FRes
  | .nan s => { bits := f.nanBits, inv := s }
  | .inf neg =>
    if f.noInf then { bits := if sat then 0x7E + f.signBit neg else 0x7F }
    else { bits := f.infBits + f.signBit neg }
  | .fin neg n d e =>
    let m := (roundMag f rm neg n d e sr).1
    if m ≤ f.maxFin then { bits := m + f.signBit neg }
    else { bits := overflowBits f rm sat neg, ov := true }

/-- Rounding in RNE with overflow to infinity and nothing signalled (R40, R189, R304, R329). -/
def rneTo (f : Fmt) (x : XV) : Nat := (roundTo f 0 false none x).bits

/-! ### Exact arithmetic -/

/-- A signed integer and its sign as a magnitude. -/
def ofInt (i : Int) (d : Nat) (e : Int) : XV := .fin (decide (i < 0)) i.natAbs d e

/-- Σ of finite dyadic or rational values, exactly; `rdn` picks −0 for an exact zero sum of mixed signs (R277). -/
def addFin (rdn : Bool) (s₁ : Bool) (n₁ d₁ : Nat) (e₁ : Int) (s₂ : Bool) (n₂ d₂ : Nat) (e₂ : Int) : XV :=
  let e := min e₁ e₂
  let a : Int := ((n₁ * d₂) <<< (e₁ - e).natAbs : Nat)
  let b : Int := ((n₂ * d₁) <<< (e₂ - e).natAbs : Nat)
  let s := (if s₁ then -a else a) + (if s₂ then -b else b)
  if s = 0 then .fin (if s₁ = s₂ then s₁ else rdn) 0 1 0 else ofInt s (d₁ * d₂) e

/-- a + b (R281): ∞ − ∞ gives NaN, which the caller signals. -/
def xadd (rdn : Bool) : XV → XV → XV
  | .nan s, .nan t => .nan (s || t)
  | .nan s, _ => .nan s
  | _, .nan s => .nan s
  | .inf s, .inf t => if s = t then .inf s else .nan true
  | .inf s, _ => .inf s
  | _, .inf s => .inf s
  | .fin s n d e, .fin t m c g => addFin rdn s n d e t m c g

/-- a × b (R281): 0 × ∞ gives an invalid NaN. -/
def xmul : XV → XV → XV
  | .nan s, .nan t => .nan (s || t)
  | .nan s, _ => .nan s
  | _, .nan s => .nan s
  | .inf s, .inf t => .inf (s != t)
  | .inf s, .fin t n _ _ => if n = 0 then .nan true else .inf (s != t)
  | .fin s n _ _, .inf t => if n = 0 then .nan true else .inf (s != t)
  | .fin s n d e, .fin t m c g => .fin (s != t) (n * m) (d * c) (e + g)

/-- a / b (R290): an invalid NaN for 0/0 and ∞/∞; the caller sees a zero divisor. -/
def xdiv : XV → XV → XV
  | .nan s, .nan t => .nan (s || t)
  | .nan s, _ => .nan s
  | _, .nan s => .nan s
  | .inf _, .inf _ => .nan true
  | .inf s, .fin t _ _ _ => .inf (s != t)
  | .fin s _ _ _, .inf t => .fin (s != t) 0 1 0
  | .fin s n d e, .fin t m c g =>
    if m = 0 then (if n = 0 then .nan true else .inf (s != t))
    else .fin (s != t) (n * c) (d * m) (e - g)

/-- Order of two values that are not NaN; zeros of either sign are equal (R283). -/
def xcmp : XV → XV → Ordering
  | .nan _, _ => .eq
  | _, .nan _ => .eq
  | .inf s, .inf t => if s = t then .eq else if s then .lt else .gt
  | .inf s, _ => if s then .lt else .gt
  | _, .inf t => if t then .gt else .lt
  | .fin s n d e, .fin t m c g =>
    let lo := min e g
    let a : Int := ((n * c) <<< (e - lo).natAbs : Nat)
    let b : Int := ((m * d) <<< (g - lo).natAbs : Nat)
    compare (if s then -a else a) (if t then -b else b)

def xlt (a b : XV) : Bool := xcmp a b == .lt
def xle (a b : XV) : Bool := xcmp a b != .gt

/-- Scaling by 2^k (R286). -/
def xscale (k : Int) : XV → XV
  | .fin s n d e => .fin s n d (e + k)
  | x => x

/-- `fmin` and `fmax` (R282): one of the operands bit for bit, −0 below +0, a quiet NaN only when both are NaN. -/
def fminmax (f : Fmt) (mx : Bool) (a b : Nat) : FRes :=
  let x := unpack f a
  let y := unpack f b
  let inv := x.isSig || y.isSig
  if x.isNan && y.isNan then { bits := f.nanBits, inv }
  else if x.isNan then { bits := b, inv }
  else if y.isNan then { bits := a, inv }
  else match xcmp x y with
    | .lt => { bits := if mx then b else a, inv }
    | .gt => { bits := if mx then a else b, inv }
    | .eq => { bits := if x.isNeg != mx then a else b, inv }

/-! ### Roots and integral values -/

/-- ⌊√n⌋ by bits from `k` down. -/
def isqrtAux (n : Nat) : Nat → Nat → Nat
  | 0, r => if (r + 1) * (r + 1) ≤ n then r + 1 else r
  | k + 1, r =>
    let r' := r + 2 ^ (k + 1)
    isqrtAux n k (if r' * r' ≤ n then r' else r)

def isqrt (n : Nat) : Nat := isqrtAux n (bitLen n / 2 + 1) 0

/-- A value that rounds as √(n·2^e) does: 200 further bits of the root, with a sticky bit below them. -/
def xsqrtPos (n : Nat) (e : Int) : XV :=
  let odd := decide (e % 2 ≠ 0)
  let n' := (if odd then 2 * n else n) <<< 400
  let e' := (if odd then e - 1 else e) - 400
  let s := isqrt n'
  .fin false (2 * s + (if s * s = n' then 0 else 1)) 1 (e' / 2 - 1)

/-- √x (R290) of a value that `unpack` gives (denominator 1); a negative operand is an invalid NaN. -/
def xsqrt : XV → XV
  | .nan s => .nan s
  | .inf s => if s then .nan true else .inf false
  | .fin s n _ e => if n = 0 then .fin s 0 1 0 else if s then .nan true else xsqrtPos n e

/-- The integral value of x in a mode (R285): sign kept, zero keeps the operand's sign. -/
def xintegral (rm : Nat) : XV → XV
  | .fin s n d e =>
    let num := if e < 0 then n else n <<< e.natAbs
    let den := if e < 0 then d <<< e.natAbs else d
    let k := num / den
    .fin s (if roundsUp rm s k (num % den) den none then k + 1 else k) 1 0
  | x => x

/-- ⌊x⌋ of a finite value as an integer. -/
def xfloor : XV → Int
  | .fin s n d e =>
    let num := if e < 0 then n else n <<< e.natAbs
    let den := if e < 0 then d <<< e.natAbs else d
    let k : Int := (num / den : Nat)
    if s then (if num % den = 0 then -k else -k - 1) else k
  | _ => 0

/-- The rounded integer of a finite value, before clamping (R293). -/
def xround (rm : Nat) (x : XV) : Int :=
  match xintegral rm x with
  | .fin s n _ _ => if s then -(n : Int) else n
  | _ => 0

/-! ### Transcendentals (R290, R291): the two neighbours of the exact value -/

/-- The result whose exact value lies strictly inside (k, k + 1) steps, or on a step when `exact`:
the neighbour is the spec's fixed function, left open (`up`). `m` is the truncated magnitude's bits. -/
def neighbour (f : Fmt) (sat neg up : Bool) (m : Nat) (exact : Bool) : FRes :=
  if f.maxFin < (if exact then m else m + 1) then { bits := overflowBits f 2 sat neg, ov := true }
  else { bits := (if !exact && up then m + 1 else m) + f.signBit neg }

/-- The truncated magnitude bits of a positive value. -/
def truncBits (f : Fmt) (n d : Nat) (e : Int) : Nat := (roundMag f 1 false n d e none).1

/-- Working precision of the series below, in bits. -/
abbrev prec : Nat := 448

/-- π·2^448 and ln 2·2^448, truncated. -/
def pi448 : Nat := 0x3243f6a8885a308d313198a2e03707344a4093822299f31d0082efa98ec4e6c89452821e638d01377be5466cf34e90c6cc0ac29b7c97c50dd
def ln448 : Nat := 0xb17217f7d1cf79abc9e3b39803f2f6af40f343267298b62d8a0d175b8baafa2be7b876206debac98559552fb4afa1b10ed2eae35c1382144

/-- Σ of y^k/k! in fixed point of `p` bits, `fuel` terms from the k-th. -/
def expSeries (p y : Nat) : Nat → Nat → Nat → Nat
  | 0, _, _ => 0
  | fuel + 1, k, term => term + expSeries p y fuel (k + 1) (term * y / 2 ^ p / (k + 1))

/-- Σ of alternating terms term, −term·y²/((k+1)(k+2)), … in fixed point of `p` bits. -/
def altSeries (p y2 : Nat) : Nat → Nat → Nat → Int
  | 0, _, _ => 0
  | fuel + 1, k, term => (term : Int) - altSeries p y2 fuel (k + 2) (term * y2 / 2 ^ p / ((k + 1) * (k + 2)))

/-- 2^x of a finite x, not an integer. -/
def exp2Bits (f : Fmt) (sat up : Bool) (x : XV) : FRes :=
  match x with
  | .fin s n _ e =>
    let i := xfloor x
    if i < -(4 * f.emax : Nat) then neighbour f sat false up 0 false
    else if (4 * f.emax : Nat) < i then { bits := overflowBits f 2 sat false, ov := true }
    else if floorLog n 1 e < -200 then
      -- 2^x lies between 1 and the neighbour of 1 on x's side
      let one := f.bias * 2 ^ f.fb
      neighbour f sat false up (if s then one - 1 else one) false
    else
      -- the fraction x − i in fixed point, then its exponential
      let fx : Nat := ((if e + prec < 0 then (n : Int) / (2 ^ (e + prec).natAbs : Nat) else ((n <<< (e + prec).natAbs : Nat) : Int))
        * (if s then -1 else 1) - i * (2 ^ prec : Nat)).toNat
      let y := fx * ln448 / 2 ^ prec
      neighbour f sat false up (truncBits f (expSeries prec y 120 0 (2 ^ prec)) 1 (i - prec)) false
  | _ => { bits := f.nanBits }

/-- Bits of log₂ m, m in [1, 2) as fixed point of `prec` bits, by repeated squaring. -/
def log2Frac : Nat → Nat → Nat → Nat
  | 0, _, acc => acc
  | fuel + 1, m, acc =>
    let q := m * m / 2 ^ prec
    if 2 ^ (prec + 1) ≤ q then log2Frac fuel (q / 2) (2 * acc + 1) else log2Frac fuel q (2 * acc)

/-- log₂ x of a positive x that is no power of two. -/
def log2Bits (f : Fmt) (sat up : Bool) (n : Nat) (e : Int) : FRes :=
  let k := floorLog n 1 e
  let l := bitLen n - 1
  let m := n <<< (prec - l)
  let fr := log2Frac 180 m 0
  -- log₂ x = k + fr/2^180, strictly above by less than a step of the last bit
  let v : Int := k * (2 ^ 180 : Nat) + fr
  if 0 ≤ v then neighbour f sat false up (truncBits f v.natAbs 1 (-180)) false
  else neighbour f sat true up (truncBits f (v.natAbs - 1) 1 (-180)) false

/-- sin(π·r) for 0 < r < 1/2, r = n·2^e: truncated bits. -/
def sinPiTrunc (f : Fmt) (n : Nat) (e : Int) : Nat :=
  let lg := (-(floorLog n 1 e)).toNat
  let p := prec + lg
  -- y = π·r in fixed point of p bits
  let y : Nat := let t := e - prec + p; if t < 0 then (n * pi448) >>> t.natAbs else (n * pi448) <<< t.natAbs
  let y2 := y * y / 2 ^ p
  let s := altSeries p y2 60 1 y
  truncBits f s.natAbs 1 (-(p : Int))

/-- sin(π·x) or cos(π·x) of a finite x (R291). -/
def sincosBits (f : Fmt) (sat up cos : Bool) (x : XV) : FRes :=
  match x with
  | .fin s n _ e =>
    -- halves: 2x as a fraction of denominator D
    let num := if e < 0 then n else n <<< e.natAbs
    let den := if e < 0 then 2 ^ e.natAbs else 1
    let one := f.bias * 2 ^ f.fb
    let h := 2 * num / den          -- ⌊2|x|⌋
    let rem := 2 * num % den
    if rem = 0 then
      if h % 2 = 0 then
        -- an integer h/2
        if cos then { bits := one + f.signBit ((h / 2) % 2 == 1) }
        else { bits := f.signBit s }
      else if cos then { bits := 0 }
      else { bits := one + f.signBit (((h / 2) % 2 == 1) != s) }
    else
      -- |x| = h/2 + r with 0 < r = rem/(2·den) < 1/2; the quadrant gives the sign and sin or cos of r
      let useCos := cos != (h % 2 == 1)
      let q := (h / 2) % 2 == 1
      let neg := if cos then (q != (h % 2 == 1)) else (q != s)
      let rn := if useCos then den - rem else rem
      -- the cosine of a tiny r lies between 1 and the neighbour below it
      if useCos ∧ floorLog rem 1 (-(Nat.log2 den : Int) - 1) < -200 then neighbour f sat neg up (one - 1) false
      else neighbour f sat neg up (sinPiTrunc f rn (-(Nat.log2 den : Int) - 1)) false
  | _ => { bits := f.nanBits }

/-- 1/√x of a positive finite x (R290). -/
def rsqBits (f : Fmt) (sat up : Bool) (n : Nat) (e : Int) : FRes :=
  let odd := decide (e % 2 ≠ 0)
  let n' := if odd then 2 * n else n
  let e' := if odd then e - 1 else e
  let exact := 2 ^ Nat.log2 n' == n' && Nat.log2 n' % 2 == 0
  let s := isqrt (2 ^ (2 * prec) / n')
  neighbour f sat false up (truncBits f s 1 (-(e' / 2) - prec)) exact

/-! ### Stochastic rounding (R35) -/

/-- One step of the generator. -/
def srStep (g : BitVec 32) : BitVec 32 :=
  let g := g ^^^ (g <<< 13)
  let g := g ^^^ (g >>> 17)
  g ^^^ (g <<< 5)

/-- The 24 random bits a draw gives. -/
def srBits (g : BitVec 32) : Nat := g.toNat / 2 ^ 8

/-- The formats that SR applies to. -/
def srApplies (t : Nat) : Bool := t == tF16 || t == tBF16 || t == tE4M3 || t == tE5M2 || t == tQ4

/-! ### Q4 (R29 to R31, R294 to R296) -/

/-- Magnitude of a code of a type in quarters (R30). -/
def q4Mag4 (ty code : Nat) : Nat :=
  let c := code % 8
  match ty with
  | 1 => [0, 2, 4, 6, 8, 12, 16, 24].getD c 0
  | 2 => [0, 1, 2, 4, 8, 16, 32, 64].getD c 0
  | _ => [0, 4, 8, 12, 16, 32, 64, 128].getD c 0

/-- decode(type, code) (R30) as an exact value before scaling. -/
def q4Decode (ty code : Nat) : XV :=
  if ty = 0 then ofInt (toS 4 code) 1 0 else .fin (bit code 3) (q4Mag4 ty code) 1 (-2)

/-- The element a code stands for under its scale byte (R29). -/
def q4Value (scale code : Nat) : XV :=
  if scale % 64 = 63 then .nan false
  else xscale ((scale % 64 : Nat) - 32 : Int) (q4Decode (scale / 64 % 4) code)

/-- The range limit Mₜ (R294). -/
def q4Lim : Nat → Nat
  | 0 => 7 | 1 => 6 | 2 => 16 | _ => 32

/-- R295: the code of the magnitude nearest below, among the eight of a signed type: the largest code
whose magnitude is at most `n/d · 2^e`. -/
def q4Below (ty : Nat) (x : XV) : Nat → Nat
  | 0 => 0
  | k + 1 => if xle (.fin false (q4Mag4 ty (k + 1)) 1 (-2)) x then k + 1 else q4Below ty x k

/-- R295: the code of a value, in a mode, with the draw of SR. -/
def q4Encode (rm ty e : Nat) (sr : Option Nat) (x : XV) : FRes :=
  match x with
  | .nan _ => { bits := 0, inv := true }
  | .inf neg => { bits := if e = 63 then 0 else if ty = 0 then (if neg then 8 else 7) else 7 + (if neg then 8 else 0) }
  | .fin neg n d ex =>
    if e = 63 ∨ n = 0 then { bits := 0 }
    else
      let y := XV.fin false n d (ex - (e : Int) + 32)
      if ty = 0 then
        -- integers −8 to 7
        if xlt (.fin false 7 1 0) y then { bits := if neg then 8 else 7 }
        else { bits := ofS 4 (let num := (xintegral (if rm = 5 ∧ sr.isSome then 1 else rm) (.fin neg n d (ex - (e : Int) + 32)))
                match num with
                | .fin s k _ _ =>
                  -- SR steps the truncated magnitude up by the drawn value
                  let up := rm == 5 && sr.isSome &&
                    (let t := ex - (e : Int) + 32
                     let a := if t < 0 then n else n <<< t.natAbs
                     let b := if t < 0 then d <<< t.natAbs else d
                     roundsUp 5 s k (a % b) b sr)
                  let k := if up then k + 1 else k
                  if s then -(k : Int) else k
                | _ => 0) }
      else if xlt (.fin false (q4Lim ty) 1 0) y then { bits := 7 + (if neg then 8 else 0) }
      else
        let lo := q4Below ty y 7
        let loV := XV.fin false (q4Mag4 ty lo) 1 (-2)
        let code :=
          if xcmp loV y == .eq then lo
          else
            let hi := lo + 1
            -- (|y| − lo)/(hi − lo) as r/D
            let fr := xdiv (xadd false y loV.negate) (.fin false (q4Mag4 ty hi - q4Mag4 ty lo) 1 (-2))
            match fr with
            | .fin _ a b g =>
              let r := if g < 0 then a else a <<< g.natAbs
              let den := if g < 0 then b <<< g.natAbs else b
              if roundsUp rm neg lo r den sr then hi else lo
            | _ => lo
        { bits := code + (if neg then 8 else 0) }

end Sys2Proof.Machine
end

