-- ==== Sys2Proof/Machine/State.lean ====
section
/-! DEFINITION. The machine's state as plain data, its fault and refusal reasons, and the state after
reset. Every piece of state the spec names stands here (INVENTORY.md lists them with their rules). -/
namespace Sys2Proof.Machine

/-- Why a step stops for good. Every fault the spec describes is taken (R425 to R447) and is a next state,
so this type holds one case that no run of `step` reaches. -/
inductive Fault where
  /-- A word's meaning was asked for while no split is chosen to issue: raised by every word's meaning
  outside `step`. Safe: `step` chooses a split before it runs a word. -/
  | noIssuer
deriving DecidableEq, Repr

/-- Why the model gives no meaning. -/
inductive Refusal where
  /-- An instruction that has no meaning in the model yet, by its mnemonic. Safe: the model stops. -/
  | notModelled (mnemonic : String)
deriving DecidableEq, Repr

/-! ### Places of a byte -/

/-- The four spaces of R77 and the core memories, by the home of a byte (R369). -/
inductive Space where
  /-- Device logical space, by logical address (R78). -/
  | log
  /-- Host memory, by translated address (R78). -/
  | host
  /-- Device logical space of a peer, by its DEVID, in a context there (R455). -/
  | peer (dev rctx : Nat)
  /-- The scratchpad array of a core (R206). -/
  | core (c : Nat)
  /-- The message buffer of a group (R209). -/
  | mb (key : Nat)
  /-- A surface's linear image through the uncompressed or compressed view (R174, R183). -/
  | surf (handle : Nat) (compressed : Bool)
  /-- A physical frame of the near (0) or the far tier (1), by 65,536·PFN + offset (R86): the home of check values (R97). -/
  | frame (tier : Nat)
deriving DecidableEq, Repr

/-- One byte's place. -/
structure Loc where
  sp : Space
  addr : Nat
deriving DecidableEq, Repr

/-! ### Groups -/

/-- A segment register (R208). -/
structure Seg where
  base : BitVec 64
  limit : BitVec 45
  rd : Bool
  wr : Bool
  unb : Bool
deriving DecidableEq, Repr

/-- The clause a split is in: its header's word offset and the header's fields (R52). -/
structure Clause where
  hdr : Nat
  len : Nat
  split : Nat
  first : Nat
  second : Nat
deriving DecidableEq, Repr

/-- A slot in use of the split table (R384), with the split's clause, its stall and `bar` waits (R391)
its counter of issues passed over, and the withdrawn words it has still to issue again. `clause = none`: the split stands at a clause header. -/
structure Split where
  pc : Nat
  mask : BitVec 64
  tsp : Option Nat
  clause : Option Clause
  stall : Bool
  barWait : Option (Nat × Nat)
  entry : Bool                -- sent to a kind-4 or kind-5 header by a dispatch (R53)
  passed : Nat
  back : List (Nat × Nat × Option Clause × BitVec 64) -- words that issue again (R173), each with the word and clause to go on at, and the lanes that issued it
deriving DecidableEq, Repr

/-- The kinds of token-stack entry (R385). -/
inductive TokKind where
  | token | call | defer
deriving DecidableEq, Repr

/-- A token-stack entry in use (R385); `born` orders DEFER entries by age (R390). -/
structure Token where
  kind : TokKind
  addr : Nat
  members : BitVec 64
  arrived : BitVec 64
  parent : Option Nat
  clause : Option Clause
  born : Nat
deriving DecidableEq, Repr

/-- A record as the device writes it (R427), before it is laid out in bytes. -/
structure Rec where
  cls : Nat
  kind : Nat
  detail : Nat
  ctx : Nat
  source : Nat
  time : Nat
  addr : Nat
  pc : Nat
  who : Nat
deriving DecidableEq, Repr

/-- An atomic step on one element (R223, R228): `op` 0 to 7 are the integer operations, `fop` set makes
it a float one; `x` and `y` are the operands, `ty` the format code, `sat` and `rnd` gm's fields. -/
structure AtomReq where
  loc : Loc
  z : Nat
  fop : Bool
  op : Nat
  ty : Nat
  x : BitVec 64
  y : BitVec 64
  sat : Bool
  rnd : Nat
deriving DecidableEq, Repr

/-- A buffered operation of an idempotent region (R218). -/
inductive BufOp where
  /-- The bytes of a buffered store, in the order they are written. -/
  | bytes (ws : List (Loc × BitVec 8))
  /-- A buffered atomic without return. -/
  | atom (a : AtomReq)
  /-- A buffered ordered addition: element, format, bits and lane rank (R229). -/
  | ord (loc : Loc) (fmt : Nat) (v : BitVec 32) (lane : Nat)
deriving DecidableEq, Repr

/-- A region checkpoint (R433). -/
structure Checkpoint where
  hdr : Nat
  mask : BitVec 64
  tsp : Option Nat
  tokens : Tab Token
  gm : BitVec 64
deriving DecidableEq, Repr

/-- A long-latency result in flight (R58): the row elements, tags and scalars it will write, the tumbler
it holds, whether its value is known, and the poisoned sector it would deliver (R438). -/
structure Pending where
  id : Nat
  tumbler : Option Nat
  elems : List (Nat × BitVec 32)
  tags : List (Nat × BitVec 5)
  svals : List (Nat × BitVec 64)
  ready : Bool
  poison : Option (Nat × Nat)  -- a bad sector that would be delivered, and its lowest lane
  pc : Nat
deriving DecidableEq, Repr

/-- An outstanding operation of a counter class in issue order (R131), with its deferred fault (R129). -/
structure OutOp where
  cls : Nat
  id : Nat
  finished : Bool
  fault : Option Rec
deriving DecidableEq, Repr

/-- A waiting `waita` (R134): the virtual addresses of its word's bytes, none of a word in the core, and their places when
last checked. -/
structure WaitA where
  id : Nat
  vas : List Nat
  locs : List Loc
  cond : Nat
  cmp : BitVec 64
  dst : Nat
  lane : Nat
  scope : Nat
  since : Nat
  timeout : Nat
deriving DecidableEq, Repr

/-- What a group in SERVICE waits for beside a page request (R95, R187): a frame's backing, a tile's restore. -/
inductive Want where
  | frame (la : Nat)
  | tile (handle tile : Nat)
deriving DecidableEq, Repr

/-- Where a group stands (R430). -/
inductive Park where
  | none | service | standing
deriving DecidableEq, Repr

/-- The kinds of group (R349, R358, R168, R382). -/
inductive GroupKind where
  | ordinary | vertex | fragment | handler
deriving DecidableEq, Repr

/-- One resident group (R238 to R243, R382 to R385, and the rules each field names). -/
structure Group where
  -- identity and place
  ctx : Nat
  launch : Nat
  team : Nat
  gid : Nat
  kind : GroupKind
  harvest : Bool
  width : Nat
  regBytes : Nat
  divdepth : Nat
  core : Nat
  slot : Nat
  islot : Nat
  placed : Nat
  reloc : Nat
  -- registers
  regs : Tab (BitVec 32)      -- row elements by (byte offset) / 4, unlisted 0
  tags : Tab (BitVec 5)       -- by row number, unlisted RAW
  sregs : Tab (BitVec 64)     -- unlisted 0
  preds : Tab (BitVec 64)     -- p0 to p6, unlisted 0
  views : Tab (BitVec 64)     -- vw0 to vw3
  gm : BitVec 64
  srg : BitVec 32
  segs : Tab Seg
  mb : Tab (BitVec 8)
  tumblers : Tab Nat
  ops : List OutOp
  -- control
  splits : Tab Split
  tokens : Tab Token
  inRegion : Bool
  lost : Bool
  checkpoint : Option Checkpoint
  buf : List BufOp
  pending : List Pending
  waits : List WaitA
  susp : Option Nat           -- split whose may-fault word waits for its checks (R424)
  park : Park
  want : Option Want
  trapMask : Option (BitVec 64)   -- trap-handler mode: the lanes of the split that entered it (R435)
  never : List Nat            -- keys of never-produced traps to take (R153)
  killed : Bool
  passed : Nat                -- cycles of the slot passed over (R417)
  losses : Tab Nat            -- lost collector rounds per bank (R247)
  marks : List Nat            -- banks where the group is marked, oldest first (R247)
  lastIssue : Nat             -- device time of the last word, for the watchdog (R439)
  deadline : Nat              -- device time at which a handler's watchdog ends it (R168)
  xyz : Nat × Nat × Nat
  quads : List (Nat × Nat × Nat)  -- a fragment group's quads: draw, quad ticket, x and y packed
deriving DecidableEq, Repr

/-- The fields of a Bilsum image that the device uses (R73 to R75), read at admission. -/
structure Image where
  width : Nat
  groups : Nat
  divdepth : Nat
  regBytes : Nat
  scratch : Nat
  paired : Bool
  coop : Bool
  views : List (BitVec 64)
  text : Nat                  -- virtual address of .text
  words : Nat                 -- its size in words
  live : List (Nat × BitVec 64)
  consts : Nat                -- offset and size of .consts
  constSize : Nat
deriving DecidableEq, Repr

/-- A launch, or the vertex or fragment groups of a draw seen as one (R381, R414, R350). -/
structure Launch where
  lid : Nat
  ctx : Nat
  img : Image
  x : Nat
  y : Nat
  z : Nat
  consts : Nat
  constLen : Nat
  pvBase : Nat
  pvLane : Nat
  nextTeam : Nat
  exited : Nat
  residency : List Nat        -- of the last 16 exited teams, newest first (R440)
  killed : Bool
  queue : Nat
  cmd : Nat
  kind : GroupKind
  draw : Nat
  room : List Nat             -- cores reserved for the teams of a cooperative launch, until they are placed (R414)
  since : Option Nat          -- device time from which the next team has found no fit (R415)
deriving DecidableEq, Repr

/-- A team (R383): resident, or saved in a slot of the save area. -/
structure Team where
  launch : Nat
  tid : Nat
  core : Nat                  -- the core, or the even core of a pair
  sp0 : Nat                   -- scratchpad base on that core, and on the odd one
  sp1 : Nat
  scratch : Nat
  paired : Bool
  harvest : Bool
  placed : Nat
  started : Nat
  resident : Bool
  slot : Nat                  -- save slot when not resident
  restart : Bool              -- FLAGS[2] of the slot (R442)
  stopped : Bool              -- a harvest team parked in its latch banks (R419)
  needLent : Bool             -- rewound, waiting for lent scratchpad (R422)
  saving : Bool               -- a save has been asked for: its groups issue nothing (R441)
  moving : Bool               -- pre-empted for a core above its thermal limit (R418)
  draining : Option Nat       -- device time of the pre-emption request (R440)
  live : Nat                  -- groups that have not ended
deriving DecidableEq, Repr

/-! ### Memory side -/

/-- A line of an L1 (R204, R205): data, dirty mask, context tag, and of each of its two sectors whether it came poisoned
and whether an uncorrectable error stands in it (R97, R205). -/
structure L1Line where
  core : Nat
  line : Nat
  surf : Bool
  data : BitVec 1024
  dirty : BitVec 128
  ctx : Nat
  poison : BitVec 2
  bad : BitVec 2
deriving DecidableEq, Repr

/-- A line of a home slice (R15, R205): its dirty bytes, none of a clean line, and the context of the last store. -/
structure SLine where
  data : BitVec 1024
  dirty : BitVec 128
  ctx : Nat
deriving DecidableEq, Repr

/-- An entry of an engine's translation cache (R80). -/
structure TEntry where
  eng : Nat
  ctx : Nat
  va : Nat
  size : Nat
  t : Nat
  r : Bool
  w : Bool
  backed : BitVec 32
deriving DecidableEq, Repr

/-- A hub entry (R81), and an outstanding ATS or page request with the engines it answers. -/
structure HubEntry where
  pasid : Nat
  va : Nat
  size : Nat
  t : Nat
  r : Bool
  w : Bool
deriving DecidableEq, Repr

/-- A requester that a hub's request answers: its engine, context and key, its address, the permissions its own access
needs, and whether a page request has already been answered for that access (R82). -/
structure XWho where
  eng : Nat
  ctx : Nat
  key : Nat
  va : Nat
  need : Nat                  -- 1 read, 2 write, 3 both; a prefetch (key 0) adds 4 for its line in L1, 8 in the slice
  asked : Bool
deriving DecidableEq, Repr

structure XReq where
  pasid : Nat
  va : Nat
  need : Nat                  -- the permissions the request asks for
  page : Bool                 -- waiting for a page request, not for an ATS completion
  who : List XWho
deriving DecidableEq, Repr

/-- A first touch that has found the pool empty (R95): its engine, context and key, its virtual and device logical
address, and the permissions it needs. -/
structure Touch where
  eng : Nat
  ctx : Nat
  key : Nat
  va : Nat
  la : Nat
  need : Nat
deriving DecidableEq, Repr

/-- A translation hub with its first-touch unit and migration engine (R81, R91, R93). -/
structure Hub where
  entries : List HubEntry
  reqs : List XReq
  waiting : List XReq
  touches : List Touch
  pool : List Nat
  zeroing : List Nat
  farFree : List Nat
  counts : Tab Nat
  moves : List (Nat × Nat × Nat)   -- frame, new physical frame, device time of the lock (R92)
  cmd : BitVec 64
  data : BitVec 64
  tier : BitVec 64                  -- HOT, COLD, LOWW, MIGEN, POOLEV in place (R91)
  ended : Bool                      -- the command has made its effect; HINGE_CMD_COMPLETE ends it
deriving DecidableEq, Repr

/-- What a check that can no longer pass found, kept for its requester (R82). -/
structure XFault where
  eng : Nat
  ctx : Nat
  key : Nat
  va : Nat
  cls : Nat
deriving DecidableEq, Repr

/-- A slice-queue operation (R171): its direction, the place of the descriptor, the places of the ring's pages with
the ring's offset in the first, entry size and capacity, the lanes with what they push, the rows that receive, the
issuing split and the scope. -/
structure QOp where
  push : Bool
  nb : Bool
  desc : Loc
  ring : List Loc
  off : Nat
  esize : Nat
  cap : Nat
  vals : List (Nat × BitVec 64)
  rows : List Nat
  split : Nat
  clause : Option Clause      -- the word's clause (R173)
  scope : Nat
deriving DecidableEq, Repr

/-- A request on its way to a home slice (R110, R115). -/
inductive SReqKind where
  | atom (a : AtomReq)
  | ord (loc : Loc) (fmt : Nat) (v : BitVec 32)
  /-- A slice-queue operation that waits, or has not yet reached its slice (R172). -/
  | queue (o : QOp)
deriving DecidableEq, Repr

structure SReq where
  id : Nat
  key : Nat
  core : Nat
  ctx : Nat
  dev : Nat
  src : Nat
  seq : Nat
  lane : Nat
  kind : SReqKind
  ret : Option (Nat × List Nat)   -- pending id, and the element keys of the value's 32-bit halves, low first
  here : Bool                 -- it has reached its slice, and holds one of its 64 request entries (R110)
  waiting : Bool
deriving DecidableEq, Repr

/-- A slice's mark for one source (R115): the last store or atomic applied from it, and when. -/
structure Mark where
  slice : Nat
  dev : Nat
  src : Nat
  seq : Nat
  time : Nat
deriving DecidableEq, Repr

/-- An entry of a slice's response window (R115). -/
structure Resp where
  slice : Nat
  dev : Nat
  src : Nat
  seq : Nat
  val : Nat
deriving DecidableEq, Repr

/-- An exact-sum cell (R229). -/
structure Cell where
  addr : Nat
  host : Bool
  fmt : Nat
  creator : Nat
  ninf : Bool
  pinf : Bool
  nan : Bool
  sum : Int
  parked : Bool
  pslot : Nat                 -- its slot of the slice's share of the cell area while parked (R233)
  bad : Bool                  -- made from a bad sector or a bad image: what it rounds to is poisoned (R99)
  touched : Nat
  slice : Nat
deriving DecidableEq, Repr

/-! ### Engines -/

/-- A command in a copy, collective or near-bank queue (R120, R197): its engine, its descriptor (none yet for a host
COPY), the completion value and scope, what issued it, the places of scratchpad sides and of a completion word in a
core, the surface tiles it holds in flight (R186), the bytes it has moved, whether its payload is done, and the fault
that ends it. -/
structure EngCmd where
  id : Nat
  eng : Nat
  desc : List (BitVec 8)
  descAddr : Nat
  value : BitVec 64
  scope : Nat
  ctx : Nat
  key : Nat                   -- issuing group, 0 for a host command
  core : Nat                  -- its core at issue and its launch, 0 for a host command
  launch : Nat
  team : Nat
  member : Nat × Nat          -- queue and TEAMID of the team, for a collective (R453)
  pc : Nat
  who : Nat                   -- WHO of the issuing group (R427), which may exit first (R403); 0 for a host command
  queue : Option (Nat × Nat)  -- host queue and command index
  cls : Nat
  sloc : Option Loc
  dloc : Option Loc
  cloc : Option Loc
  tiles : List (Nat × Nat)
  moved : Nat
  paid : Bool
  failed : Option (Nat × Nat × Nat)  -- class, DETAIL, address
deriving DecidableEq, Repr

/-- Where a keyway requester or flit comes from: a waypoint is a station (R141). -/
structure Interest where
  wp : Nat
  key : Nat
  ctx : Nat
  expiry : Nat
  ret : List Nat
  locals : Bool
  fwd : Option Nat
deriving DecidableEq, Repr

/-- A requester record (R142): what the `kwant` named, the places of a scratchpad destination and of a completion
word in scratchpad or the message buffer, the flit whose delivery has begun, and the value still owed to the
completion word. -/
structure KRec where
  id : Nat
  cl : Nat
  ctx : Nat
  gkey : Nat
  team : Nat
  key : Nat
  dst : Nat
  dloc : Option Loc
  cap : Nat
  cwa : Nat
  cw : Nat
  cloc : Option Loc
  val : BitVec 64
  scope : Nat
  trapNever : Bool
  expiry : Nat
  began : Option Nat
  owe : Option Nat
  moved : Nat                 -- destination bytes written (R427)
  fault : Option Rec
  pc : Nat
  who : Nat                   -- WHO of the issuing group (R427)
deriving DecidableEq, Repr

/-- A tile held in a quadrant's store, or a directory record of one, which keeps no bytes (R147, R150); `bad` are the
bytes that came from poisoned sectors, `cl` the producer's cluster. -/
structure Tile where
  key : Nat
  ctx : Nat
  data : List (BitVec 8)
  bad : List Nat
  len : Nat
  ret : Nat
  backing : Nat
  cl : Nat
deriving DecidableEq, Repr

/-- A `kput` on its way: its result's group, pending result and operation, and where it was issued (R157); of a copy to the
keyway (`gkey` 0) its engine and its command (R123). -/
structure KPut where
  key : Nat
  ctx : Nat
  len : Nat
  ret : Nat
  backing : Nat
  gkey : Nat
  pend : Nat
  op : Nat
  cl : Nat
  pc : Nat
  who : Nat                   -- WHO of the issuing group (R427)
deriving DecidableEq, Repr

/-- Keyway traffic in flight (R141, R147, R152). -/
inductive KFlit where
  /-- An interest on its way to a waypoint from the previous one, made at cluster station `src`. -/
  | interest (wp prev src key ctx expiry : Nat)
  | refresh (wp key ctx expiry : Nat)
  /-- A `kput` whose global source has not been read yet. -/
  | source (p : KPut) (va : Nat)
  /-- A `kput`'s tile on its way to its home slice. -/
  | put (p : KPut) (data : List (BitVec 8)) (bad : List Nat)
  /-- A close notice: the slices that it has closed and that have acknowledged, the entries that received NEVER;
  held while an earlier `kput` of its group is unread (R152). -/
  | close (tensor iter ctx gkey pend cl : Nat) (shut acks : List Nat) (count : Nat) (held : Bool)
  /-- A tile or a status on its way back to a waypoint: `code` 0 for a tile. -/
  | tile (wp key ctx : Nat) (data : List (BitVec 8)) (bad : List Nat) (code : Nat)
  /-- A refetch of a tile from its backing address for the waypoints named (R151). -/
  | refetch (key ctx backing len : Nat) (ret : List Nat)
deriving DecidableEq, Repr

/-- An active message (R164); `core` is 0xFFFF where a peer sent it (R168). -/
structure Msg where
  id : Nat
  ctx : Nat
  core : Nat
  any : Bool
  target : Nat
  handler : Nat
  peer : Nat
  away : Option (Nat × Nat)   -- device and context of a peer that it goes to (R455); none, this device
  data : List (BitVec 8)
  bad : List Nat              -- payload bytes that came from bad sectors (R128)
  scope : Nat
  paired : Bool               -- the sender's team is paired (R372)
deriving DecidableEq, Repr

/-- What a peer's member of a collective has sent here (R137, R455): its place in the group, its descriptor, and its source
bytes with those of bad sectors. An input. -/
structure CollIn where
  ctx : Nat
  peer : Nat
  queue : Nat
  tid : Nat
  desc : List (BitVec 8)
  data : List (BitVec 8)
  bad : List Nat
deriving DecidableEq, Repr

/-- A surface-table entry (R176). -/
structure Surf where
  spill : Nat
  bmap : Nat
  xdim : Nat
  ydim : Nat
  layers : Nat
  format : Nat
  gran : Nat
  samples : Nat
  gbase : Nat
  ropEntry : Nat
  ropLen : Nat
  pinned : Bool
  ctx : Nat
  gen : Nat
  clear : List (BitVec 8)
  res : Nat                   -- RESBYTES: bytes charged to the quota
deriving DecidableEq, Repr

/-- A tile's slot and access record (R179, R180, R186). -/
structure TSlot where
  handle : Nat
  tile : Nat
  stack : Nat
  group : Nat
  col : Nat
  k : Nat
  last : Nat
deriving DecidableEq, Repr

/-- States of a block (R180). -/
inductive BState where
  | resident | compressed | spilled | elided
deriving DecidableEq, Repr

/-- A weight slot of a matrix engine (R308). -/
inductive WState where
  | loading | loaded | releasing | releasingOk | releasingBad
deriving DecidableEq, Repr

/-- An image read of `mbld` in progress (R311): the image's address, segment and form, and its issuer. -/
structure WLoad where
  addr : Nat
  inSp : Bool
  comp : Bool
  key : Nat
  op : Nat
  core : Nat
  who : Nat                   -- WHO of the issuing group (R427)
deriving DecidableEq, Repr

structure WSlot where
  ctx : Nat
  handle : Nat
  st : WState
  fmt : Nat
  units : Nat
  elems : List (BitVec 64)    -- element (k, n) at n·K + k
  scales : List (BitVec 8)
  stored : Nat
  load : Option WLoad
  pc : Nat
deriving DecidableEq, Repr

/-- An issued matrix tile in the reservation table (R305, R313). -/
structure MTile where
  id : Nat
  word : Nat
  key : Nat
  ctx : Nat
  cls : Nat
  harvest : Bool
  handle : Nat
  fmt : Nat
  n : Nat
  lead : Nat
  rows : BitVec 8
  f64 : Bool
  a : List (List (BitVec 64)) -- eight rows of K elements
  ascale : List (BitVec 8)
  accKeys : List (List Nat)   -- per row: the element keys of its accumulators, an F64 one's two halves low first
  accRows : List Nat
  accIn : List (List (BitVec 64))
  chain : Option Nat
  issued : Nat
  since : Option Nat          -- the cycle from which it has been eligible
  granted : Bool
  aged : Bool
  dropped : Bool              -- write-backs discarded (R318, R319)
  surfTiles : List (Nat × Nat)
deriving DecidableEq, Repr

/-- A matrix engine (R308 to R316). -/
structure Mx where
  slots : List WSlot
  free : Nat
  tiles : List MTile
  banks : Tab (Nat × Nat)     -- banks 0 and 1: the bound context with the cycle of its last grant
  spilled : List Nat
  used : Nat
  budget : Nat
  passes : Nat
  stall : Nat
  held : Option (Nat × Nat)   -- a leader that waits for budget, and the cycle up to which its wait has been counted (R315)
  clock : Nat
deriving DecidableEq, Repr

/-- A state record in a traversal unit (R332), with what the unit derives: the instance's ID and object-space ray
(R328), whether the reference in hand came from a ROOT, and whether the resume's own steps (R333) are still to be
made. Numbers are the fields' bits. -/
structure Trav where
  ray : List (BitVec 8)
  tmax : Nat
  thit : Nat
  hu : Nat
  hv : Nat
  hprim : Nat
  hinst : Nat
  hleaf : Nat
  cprim : Nat
  cuser : Nat
  cur : Nat
  cinst : Nat
  seed : Nat
  ovf : Nat
  log : Nat
  loglim : Nat
  logn : Nat
  nodes : Nat
  root : Nat
  instref : Nat
  cursor : Nat
  depth : Nat
  stack : List Nat            -- entries 0 to 9; higher ones lie at OVF
  inst : Bool
  haveHit : Bool
  phase : Nat
  cidx : Nat
  cacc : Bool
  trunc : Bool
  instid : Nat
  obj : List Nat              -- O′ and D′, six
  rooted : Bool
  resuming : Bool
deriving DecidableEq, Repr

/-- One lane of a `trav` or `trep` word in a traversal unit (R339): its group, its record's place and address, where its
status goes, how far it has come, its status once it has ended, and the fault that ended it (R336). -/
structure Ray where
  id : Nat
  cl : Nat
  key : Nat
  team : Nat
  ctx : Nat
  lane : Nat
  loc : Loc
  addr : Nat
  replay : Bool
  start : Bool                -- of a `.start` word, whose own steps are made first (R339)
  elem : Nat                  -- element key of the status register
  row : Nat
  pend : Nat
  op : Nat
  pc : Nat
  who : Nat                   -- WHO of the issuing group and lane (R427)
  prog : Trav
  status : Option Nat
  fault : Option Rec
deriving DecidableEq, Repr

/-! ### Raster -/

/-- A primitive as `gemit.prim` emits it (R360), and the stacks whose front end has not yet taken it. -/
structure Prim where
  draw : Nat
  vgroup : Nat
  verts : List (BitVec 32)
  idx : List (BitVec 32)
  left : List Nat
deriving DecidableEq, Repr

/-- Where a quad is: in the rasteriser, in the hold queue, waiting for a fragment group, in one, or in one that has
ended while tickets of the quad remain. -/
inductive QuadAt where
  | raster | held | packing | group | ended
deriving DecidableEq, Repr

/-- A quad of a stack's front end (R354, R355, R358): covered samples and depths per pixel, depth and weights at the
pixel centres, the cycle at which it left the hold queue, and the targets that `frag` has ended (R364). -/
structure Quad where
  id : Nat
  stack : Nat
  draw : Nat
  seq : Nat
  x : Nat
  y : Nat
  cover : List (BitVec 16)
  zs : List (List (BitVec 32))
  z : List (BitVec 32)
  l1 : List (BitVec 32)
  l2 : List (BitVec 32)
  idx : List (BitVec 32)
  place : QuadAt
  since : Nat
  ended : List Nat
deriving DecidableEq, Repr

/-- An order-lock entry of a bank (R356): a ticket, and the fragment once it has arrived. -/
structure Ticket where
  id : Nat
  bank : Nat
  draw : Nat
  seq : Nat
  quad : Nat
  target : Nat
  sample : Nat
  col : Nat
  handle : Nat
  tile : Nat
  sent : Bool
  arrived : Bool
  null : Bool
  mask : BitVec 4
  colour : List (BitVec 64)
  depth : List (BitVec 32)
deriving DecidableEq, Repr

/-- A draw (R345 to R350): its two images and launches, its targets with their depth secondaries, its completion word
in a core and the team and word that issued it, the vertex group each stack's setup has come to with the next sequence
number, and its running groups. -/
structure Draw where
  id : Nat                    -- model's key
  did : Nat                   -- draw ID within the context
  ctx : Nat
  queue : Option (Nat × Nat)
  desc : List (BitVec 8)
  descAddr : Nat
  targets : List (Nat × Option Nat)   -- handles of the targets and depth surfaces
  vimg : Image
  fimg : Image
  cloc : Option Loc
  gkey : Nat
  team : Nat
  pc : Nat
  vlaunch : Nat
  flaunch : Nat
  vdone : List Nat            -- vertex groups that have ended
  setup0 : Nat
  setup1 : Nat
  seq0 : Nat
  seq1 : Nat
  ndisp : Nat                 -- fragment groups dispatched
  fcount : Nat                -- fragment groups that have not ended
  accepted : Bool
  started : Bool
deriving DecidableEq, Repr

/-- A hierarchical-depth entry (R354). -/
structure HizEntry where
  stack : Nat
  handle : Nat
  tx : Nat
  ty : Nat
  layer : Nat
  sample : Nat
  cols : List (Nat × BitVec 32)
deriving DecidableEq, Repr

structure Raster where
  draws : List Draw
  prims : List Prim
  quads : List Quad
  tickets : List Ticket
  hiz : List HizEntry
deriving DecidableEq, Repr

/-! ### Contexts, queues, host registers -/

/-- A bound context (R451, R428). -/
structure Ctx where
  pasid : Nat
  prio : Nat
  harvest : Bool
  priv : Bool
  squota : Nat
  htab : Nat
  trapEntry : Nat
  fqBase : Nat
  fqPtr : Nat
  fqLog2 : Nat
  fqVec : Nat
  trapMask : BitVec 32
  wdog : Nat
  nslot : Nat
  saveBase : Nat
  slotSize : Nat
  cgTab : Nat
  peerTab : Nat
  inNow : Bool
  leaving : Bool              -- a SWITCHOUT is running (R445)
  fqCount : Nat
  fqDropped : Nat
  fqWait : List Rec           -- records waiting for a page request (R429)
  nextDraw : Nat
deriving DecidableEq, Repr

/-- A command that has started (R409, R411): its bytes, whether its start condition has been met so that the next may
start, whether its effect has been made, whether it has completed, and when it started. -/
structure Cmd where
  idx : Nat
  bytes : List (BitVec 8)
  begun : Bool
  ran : Bool
  done : Bool
  since : Nat
deriving DecidableEq, Repr

/-- A host queue that has been loaded (R406 to R413): its entry's fields, its doorbell values, the next command, whether
it is enabled, the code of its ERROR (0 none), its started commands that are not committed, its place in the active set
and when it came there, whether a DISABLE, a RESET or a kill lets it start no more, whether a kill is to disable it once
its started commands have completed, its last start, and whether PROGRESS has not yet reached PROGADDR. -/
structure Queue where
  ring : Nat
  prog : Nat
  ctx : Nat
  level : Nat
  log2n : Nat
  vec : Nat
  tail : Nat
  progress : Nat
  nextCmd : Nat
  on : Bool
  err : Nat
  started : List Cmd
  active : Bool
  stopping : Bool
  dying : Bool
  entered : Nat
  served : Nat
  dirty : Bool
  bell : Option Nat           -- a doorbell value that came while QM_QTABLE.EN was 0 (R405)
deriving DecidableEq, Repr

/-- What a fabric queue's pawls go by (R112, R113): the fabric cycle since which it has been blocked, whether its
reserve entry has been granted and not refilled, and whether a grant stands. -/
structure FQueue where
  since : Option Nat
  spent : Bool
  grant : Bool
deriving DecidableEq, Repr

structure Pawl where
  origin : Nat
  atq : Nat
  hops : Nat
deriving DecidableEq, Repr

/-- A station (R102, R116): the slots that its waiting frame has let pass, the slot of its ring that it has marked
empty-reserved, and whether it is dead. -/
structure Station where
  waited : Nat
  mark : Option Nat
  dead : Bool
deriving DecidableEq, Repr

/-- The traffic classes (R105). -/
inductive FClass where
  | request | response | keyway | message | management
deriving DecidableEq, Repr

/-- A frame that has not been delivered (R101): the request, message or keyway flit that it carries, its class, its source
and destination stations, its length in flits, and the legs of its route that it has behind it: 0 at its source, else it
stands in the buffer at the end of the last of them (R107). -/
structure Frame where
  id : Nat
  cls : FClass
  src : Nat
  dst : Nat
  flits : Nat
  leg : Nat
deriving DecidableEq, Repr

/-- Per-core and per-cluster facts (R418, R422, R462). What a core lends is the scratchpad of its harvest teams. -/
structure CoreInfo where
  hot : Bool
deriving DecidableEq, Repr

structure ClusterInfo where
  measured : Nat              -- device time of the last ageing measurement
  ceiling : Nat               -- ceiling of its clock in MHz
  emptied : Nat               -- device time at which its last group left
deriving DecidableEq, Repr

/-- Firmware and fused state (R463 to R465). -/
structure Fw where
  state : BitVec 4
  version : BitVec 32
  svn : BitVec 32          -- fused security version; HB_FWSTAT shows its low 16 bits
  keyHash : BitVec 384
  serial : BitVec 64
  flash : List (BitVec 8)
  running : List (BitVec 8)   -- the image that was booted
deriving DecidableEq, Repr

/-- The BAR0 registers that hold a value of their own. -/
structure HostRegs where
  clusterMap : BitVec 32
  hbId : BitVec 64
  ctxTab : BitVec 64
  ctxCtl : BitVec 64
  ctxData0 : BitVec 64
  ctxData1 : BitVec 64
  hostOp : BitVec 64
  hostAddr : BitVec 64
  hostLen : BitVec 64
  qtable : BitVec 64
  qctl : BitVec 64
  nbpCtl : BitVec 64
  nbpData : BitVec 64
  thRing : BitVec 64
  thCount : BitVec 64
  thHead : BitVec 64
  kwStore : Tab (BitVec 7)    -- SIZE by 4·stack + quadrant, unlisted 16
  cellArea : Tab (BitVec 64)
  cellRetired : Tab (BitVec 32)
  fbStatus : Tab (BitVec 64)
  kwCount : Tab (BitVec 64)
  sfStats : Tab (BitVec 64)
  rasStat : Tab (BitVec 64)
  cxl : Tab (BitVec 64)
  ports : Tab (BitVec 64)
  msixTab : Tab (BitVec 64)
  msixPend : Tab (BitVec 64)
  bar4 : Nat
  wval : BitVec 64            -- the value a register write hands to its command
  reply : Option (List (BitVec 8))  -- data of the last BAR4 read, none for an Unsupported Request
  signals : List Nat          -- MSI-X vectors signalled, newest first
  aer : Nat                   -- Unsupported Requests logged
deriving DecidableEq, Repr

/-- The split chosen to issue the next word (R391, R417). -/
structure Sel where
  key : Nat
  split : Nat
deriving DecidableEq, Repr

/-- The whole machine. -/
structure State where
  -- groups and work
  groups : Tab Group
  teams : Tab Team
  launches : Tab Launch
  saved : Tab Group           -- groups of saved teams, by their key
  -- core memories
  l1 : List L1Line
  icache : Tab (BitVec 32)
  scratch : Tab (BitVec 8)    -- by 2^19·core + offset, unlisted 0
  outMsgs : List Msg
  cycles : Tab Nat
  rounds : Nat                               -- rounds of the device's cycles begun (R5)
  cores : Tab CoreInfo
  clusters : Tab ClusterInfo  -- unlisted: never measured, 2,400 MHz
  -- memories: sparse bytes in canonical form (Host.Cell), unlisted 0
  near : List Host.Cell
  far : List Host.Cell
  host : List Host.Cell
  peers : List Host.Cell      -- by 2^43·DEVID + logical address
  slices : Tab SLine
  poison : List Loc           -- poisoned sectors, by the place of their first byte (R97 to R99)
  badCheck : List Loc         -- sectors whose check value is not that of their bytes
  -- translation
  tcache : List TEntry
  hub0 : Hub
  hub1 : Hub
  hinge : Tab (BitVec 64)
  inUse : List Nat            -- physical frames in use: 2·PFN + tier
  affinity : Tab (BitVec 4)   -- by granule, unlisted 8
  heldWb : List Nat                         -- lines whose write-back is held (R89)
  slotFrees : List (Nat × Nat)              -- contexts' team slots whose STATE is still to be written 0 (R442, R446)
  xfaults : List XFault
  invals : List (Nat × Nat × Nat)           -- invalidations that wait for accesses: PASID, address, size (R83)
  -- fabric and slices
  frames : List Frame                       -- in the order their sources sent them
  paused : List Instr                       -- events that inject frames, held while routes change (R116)
  beats : Tab Nat                           -- heartbeats missed in succession, by 128·(who listens) + neighbour (R116)
  drops : Tab Nat                           -- frames dropped at a reroute, by their source's station (R116)
  peerIn : List Msg                         -- messages from peers at their ports: an input (R168, R455)
  collIn : List CollIn                      -- what peers' members of collectives have sent: an input (R137)
  sreqs : List SReq
  seqs : Tab Nat
  marks : List Mark
  respWin : List Resp
  cells : List Cell
  fqueues : Tab FQueue                      -- by queue, unlisted never blocked
  pawls : List Pawl
  stations : Tab Station
  links : Tab Nat
  reroute : Option (Nat × List Nat)         -- device time of its start, and the requests dropped
  -- engines
  engCmds : List EngCmd
  mx : Tab Mx
  rays : List Ray
  interests : List Interest
  recs : List KRec
  tiles : List (Nat × Tile)                 -- by slice, in the order they were stored
  tdir : List (Nat × Tile)
  closed : List (Nat × Nat × Nat × Nat)     -- slice, context, tensor, iteration, oldest first
  kflits : List (Nat × KFlit)
  msgQ : List (Nat × Msg)                   -- by cluster, oldest first
  -- surfaces
  surfs : Tab Surf
  gens : Tab (BitVec 6)
  sbytes : Tab (BitVec 8)                   -- by 2^32·handle + linear offset, unlisted 0
  bstate : Tab BState                       -- by 2^32·handle + block, unlisted elided
  tslots : List TSlot
  tlast : Tab Nat                           -- LAST of tiles without a slot, by 2^32·handle + tile, unlisted 0
  restoring : Option Nat
  bankProg : Tab (BitVec 64)
  raster : Raster
  -- queues, contexts, host
  ctxs : Tab Ctx
  queues : Tab Queue
  qcur : List (Nat × Nat)                   -- queues and indexes of the commands whose events stand first in the agenda
  killing : List (Nat × Option Nat)         -- context, and the launch for KILLLAUNCH
  hb : HostRegs
  fw : Fw
  time : Nat
  -- the model's own scheduling fields
  issue : Option Sel
  agenda : List Instr
  rr : Nat
  fresh : Nat
  nextId : Nat
deriving DecidableEq, Repr

/-- A hub right after reset: nothing cached, XL_TIER_CTL at HOT 64, COLD 2, LOWW 1,024 (R91). XL_HINGE_DATA, which R87 gives no
reset value, is 0 (DESIGN CHOICE, log 4). -/
def Hub.reset : Hub where
  entries := []
  reqs := []
  waiting := []
  touches := []
  pool := []
  zeroing := []
  farFree := []
  counts := []
  moves := []
  cmd := 0
  data := 0
  tier := 0x0000_0000_4002_4000
  ended := false

/-- The BAR0 registers at the Reset columns of their maps. DESIGN CHOICE, log 4: the maps give no reset value for HB_CTXTAB
(R451), XL_HINGE_DATA (R87, in `Hub.reset`) and SF_NBP_DATA (R191), and the model puts 0; HB_CLUSTER_MAP is fused. No HB_CXL
holds a value: which expanders are attached and how large (R86) is not stated, no event sets one, and a run from reset has no
far frame. -/
def HostRegs.reset : HostRegs where
  clusterMap := 0x00FF_7DFF
  hbId := 0
  ctxTab := 0
  ctxCtl := 0
  ctxData0 := 0
  ctxData1 := 0
  hostOp := 0
  hostAddr := 0
  hostLen := 0
  qtable := 0
  qctl := 0
  nbpCtl := 0
  nbpData := 0
  thRing := 0
  thCount := 0
  thHead := 0
  kwStore := []
  cellArea := []
  cellRetired := []
  fbStatus := []
  kwCount := []
  sfStats := []
  rasStat := []
  cxl := []
  ports := []
  msixTab := []
  msixPend := []
  bar4 := 0x0000_1000_0000_0000
  wval := 0
  reply := none
  signals := []
  aer := 0

/-- The machine right after power-on or device reset (R6, R466): every register at its Reset value, the
boot ROM about to run (HB_FWSTAT.STATE 0), nothing bound, nothing resident, no memory listed. -/
def State.reset : State where
  groups := []
  teams := []
  launches := []
  saved := []
  l1 := []
  icache := []
  scratch := []
  outMsgs := []
  cycles := []
  rounds := 0
  cores := []
  clusters := []
  near := []
  far := []
  host := []
  peers := []
  slices := []
  poison := []
  badCheck := []
  tcache := []
  hub0 := Hub.reset
  hub1 := Hub.reset
  hinge := []
  inUse := []
  affinity := []
  heldWb := []
  slotFrees := []
  xfaults := []
  invals := []
  frames := []
  paused := []
  beats := []
  drops := []
  peerIn := []
  collIn := []
  sreqs := []
  seqs := []
  marks := []
  respWin := []
  cells := []
  fqueues := []
  pawls := []
  stations := []
  links := []
  reroute := none
  engCmds := []
  mx := []
  rays := []
  interests := []
  recs := []
  tiles := []
  tdir := []
  closed := []
  kflits := []
  msgQ := []
  surfs := []
  gens := []
  sbytes := []
  bstate := []
  tslots := []
  tlast := []
  restoring := none
  bankProg := []
  raster := { draws := [], prims := [], quads := [], tickets := [], hiz := [] }
  ctxs := []
  queues := []
  qcur := []
  killing := []
  hb := HostRegs.reset
  fw := { state := 0, version := 0, svn := 0, keyHash := 0, serial := 0, flash := [], running := [] }
  time := 0
  issue := none
  agenda := [.deviceReset]
  rr := 0
  fresh := 0
  nextId := 1

end Sys2Proof.Machine
end

