-- ==== Sys2Proof/Machine/Table.lean ====
section
/-! DEFINITION. Reading and writing the sparse tables of State: sorted by key, no key twice. `fetch` and
`store` are for tables with a default value, which never list it. -/
namespace Sys2Proof

/-- The value at a key. -/
def Tab.find {β : Type} : Tab β → Nat → Option β
  | [], _ => none
  | (j, v) :: t, k => if j = k then some v else Tab.find t k

/-- Write a key. -/
def Tab.put {β : Type} : Tab β → Nat → β → Tab β
  | [], k, v => [(k, v)]
  | (j, u) :: t, k, v =>
    if k < j then (k, v) :: (j, u) :: t else if j = k then (k, v) :: t else (j, u) :: Tab.put t k v

/-- Remove a key. -/
def Tab.del {β : Type} : Tab β → Nat → Tab β
  | [], _ => []
  | (j, u) :: t, k => if j = k then Tab.del t k else (j, u) :: Tab.del t k

/-- The value at a key of a table whose unlisted keys read as `d`. -/
def Tab.fetch {β : Type} (d : β) (t : Tab β) (k : Nat) : β := (Tab.find t k).getD d

/-- Write a key of a table whose unlisted keys read as `d`: writing `d` removes the entry. -/
def Tab.store {β : Type} [DecidableEq β] (d : β) (t : Tab β) (k : Nat) (v : β) : Tab β :=
  if v = d then Tab.del t k else Tab.put t k v

/-- Change the value at a key, if there is one. -/
def Tab.modify {β : Type} (t : Tab β) (k : Nat) (f : β → β) : Tab β :=
  match Tab.find t k with
  | some v => Tab.put t k (f v)
  | none => t

/-- The keys strictly rise: no key twice, in order. -/
def Tab.rising {β : Type} : Tab β → Bool
  | [] => true
  | [_] => true
  | (j, _) :: (k, v) :: t => decide (j < k) && Tab.rising ((k, v) :: t)

/-- The canonical form of a table with default `d`: rising keys, and no entry equal to the default. -/
def Tab.wf {β : Type} [DecidableEq β] (d : β) (t : Tab β) : Bool :=
  Tab.rising t && t.all fun e => decide (e.2 ≠ d)

end Sys2Proof

namespace Sys2Proof.Machine

/-- A memory of bytes (Host.Cell) in canonical form: rising addresses, no byte equal to the 0 that an
unlisted address reads as (log 3). -/
def Memory.wf (m : List Host.Cell) : Bool := Tab.wf (0 : BitVec 8) m

/-- One byte of a memory, and a write of one. -/
def Memory.read (m : List Host.Cell) (a : Nat) : BitVec 8 := Tab.fetch 0 m a
def Memory.write (m : List Host.Cell) (a : Nat) (b : BitVec 8) : List Host.Cell := Tab.store 0 m a b

/-- `n` bytes little-endian as a number (R4), and back. -/
def leNat : List (BitVec 8) → Nat
  | [] => 0
  | b :: bs => b.toNat + 256 * leNat bs

def leBytes : Nat → Nat → List (BitVec 8)
  | 0, _ => []
  | n + 1, v => BitVec.ofNat 8 v :: leBytes n (v / 256)

/-- A field of `n` bytes at offset `o` of a byte record. -/
def fieldAt (bs : List (BitVec 8)) (o n : Nat) : Nat := leNat ((bs.drop o).take n)

/-- Overwrite bytes at offset `o`. -/
def patchAt (bs : List (BitVec 8)) (o : Nat) (v : List (BitVec 8)) : List (BitVec 8) :=
  bs.take o ++ v ++ bs.drop (o + v.length)

end Sys2Proof.Machine
end

