-- ==== Sys2Proof/Machine/Regs.lean ====
section
/-! DEFINITION. A group's registers: the mode register gm (R61), lanes, predicates, scalars, rows through the
four views (R238 to R244), tumblers (R56), counters (R131) and results in flight (R58). -/
namespace Sys2Proof.Machine

/-! ### The mode register (R61) -/

def Group.gmF (g : Group) (hi lo : Nat) : Nat := bits g.gm.toNat hi lo
def Group.ty (g : Group) : Nat := g.gmF 8 4
def Group.rnd (g : Group) : Nat := g.gmF 11 9
def Group.sat (g : Group) : Bool := bit g.gm.toNat 12
def Group.trapFp (g : Group) : Bool := bit g.gm.toNat 13
def Group.rot (g : Group) : Nat := g.gmF 19 14
def Group.xmask (g : Group) : Nat := g.gmF 25 20
def Group.blane (g : Group) : Nat := g.gmF 31 26
def Group.nsel (g : Group) : Nat := g.gmF 33 32
/-- gm's reset value: GUARD p7, TYPE F32 (R61). -/
def gmReset : BitVec 64 := 0xB7

/-- Low bit of the field that a selector code names (R61). -/
def gmLow : Nat → Nat
  | 0 => 0 | 1 => 4 | 2 => 9 | 3 => 12 | 4 => 13 | 5 => 14 | 6 => 20 | 7 => 26 | 8 => 32 | _ => 34
/-- Width of that field. -/
def gmWid : Nat → Nat
  | 0 => 4 | 1 => 5 | 2 => 3 | 3 => 1 | 4 => 1 | 5 => 6 | 6 => 6 | 7 => 6 | 8 => 2 | _ => 0

/-- gm with one field replaced. -/
def gmPut (gm : BitVec 64) (sel v : Nat) : BitVec 64 :=
  let m := BitVec.ofNat 64 ((2 ^ gmWid sel - 1) * 2 ^ gmLow sel)
  (gm &&& ~~~m) ||| (BitVec.ofNat 64 (v * 2 ^ gmLow sel) &&& m)

/-- Whether a whole gm value is legal (R62): TYPE, ROUNDING and NSEL not reserved, [63:34] zero. -/
def gmLegal (gm : BitVec 64) : Bool :=
  decide (bits gm.toNat 8 4 ≤ 16) && decide (bits gm.toNat 11 9 ≤ 5) && decide (bits gm.toNat 33 32 ≠ 3)
    && decide (gm.toNat < 2 ^ 34)

/-! ### Lanes and predicates -/

/-- The lanes of a mask, lowest first. -/
def lanesOf (w : Nat) (m : BitVec 64) : List Nat := (List.range w).filter fun l => m.getLsbD l
/-- All lanes of a width. -/
def allLanes (w : Nat) : BitVec 64 := BitVec.ofNat 64 (2 ^ w - 1)

/-- Predicate p as a lane mask; p7 reads 1 (R51). -/
def Group.pred (g : Group) (p : Nat) : BitVec 64 :=
  if p % 8 = 7 then BitVec.allOnes 64 else Tab.fetch 0 g.preds (p % 8)
/-- A predicate exclusive-ORed with an invert bit (R45). -/
def Group.predX (g : Group) (p : Nat) (inv : Bool) : BitVec 64 := if inv then ~~~(g.pred p) else g.pred p
/-- The guard's lanes (R61). -/
def Group.guard (g : Group) : BitVec 64 := g.predX (g.gmF 2 0) (bit g.gm.toNat 3)
/-- The guard's value with every lane of the group considered, as `sel` reads it (R266). -/
def Group.setPred (g : Group) (p : Nat) (m : BitVec 64) : Group :=
  if p % 8 = 7 then g else { g with preds := Tab.store 0 g.preds (p % 8) m }
/-- Write predicate lanes `m` with the bits of `v`; p7 ignores writes. -/
def Group.mixPred (g : Group) (p : Nat) (m v : BitVec 64) : Group :=
  g.setPred p ((g.pred p &&& ~~~m) ||| (v &&& m))

/-! ### Scalars -/

def Group.s (g : Group) (i : Nat) : BitVec 64 := Tab.fetch 0 g.sregs i
def Group.setS (g : Group) (i : Nat) (v : BitVec 64) : Group := { g with sregs := Tab.store 0 g.sregs i v }

/-! ### Rows through the views (R239 to R242)

Views are numbered V 0, W 1, M 2, A 3. -/

def Group.view (g : Group) (v : Nat) : Nat := (Tab.fetch 0 g.views v).toNat
def Group.vBase (g : Group) (v : Nat) : Nat := bits (g.view v) 19 0
def Group.vStride (g : Group) (v : Nat) : Nat := bits (g.view v) 47 32
def Group.vCount (g : Group) (v : Nat) : Nat := bits (g.view v) 63 48
/-- Rows a register of a view occupies (R240). -/
def viewRows : Nat → Nat
  | 1 => 2 | 2 => 16 | _ => 1

/-- R241: whether a view value is legal for a group. -/
def viewLegal (width regBytes v : Nat) (x : BitVec 64) : Bool :=
  let n := x.toNat
  let base := bits n 19 0
  let stride := bits n 47 32
  let count := bits n 63 48
  let row := 4 * width
  decide (base % row = 0) && decide (stride % row = 0) && decide (bits n 31 20 = 0) && decide (count ≤ 112)
    && (count == 0 || (decide (row * viewRows v ≤ stride) && decide (base + (count - 1) * stride + row * viewRows v ≤ regBytes)))

/-- Row number of row `j` of register `i`. -/
def Group.rowNo (g : Group) (v i j : Nat) : Nat := (g.vBase v + i * g.vStride v) / (4 * g.width) + j
/-- Key of a row element. -/
def Group.elemKey (g : Group) (row lane : Nat) : Nat := row * g.width + lane

def Group.elem (g : Group) (row lane : Nat) : BitVec 32 := Tab.fetch 0 g.regs (g.elemKey row lane)
def Group.rowTag (g : Group) (row : Nat) : BitVec 5 := Tab.fetch 0 g.tags row

/-- Lane `l`'s value of register `i`: 32 bits, or the 64 bits of a W register (R32). -/
def Group.val (g : Group) (wide : Bool) (i l : Nat) : Nat :=
  if wide then (g.elem (g.rowNo 1 i 0) l).toNat + 2 ^ 32 * (g.elem (g.rowNo 1 i 1) l).toNat
  else (g.elem (g.rowNo 0 i 0) l).toNat

/-- The one tag of a register; `none` when its rows disagree (R245). -/
def Group.regTag (g : Group) (v i : Nat) : Option Nat :=
  let t := g.rowTag (g.rowNo v i 0)
  if (List.range (viewRows v)).all fun j => g.rowTag (g.rowNo v i j) == t then some t.toNat else none

/-- Set the tags of rows. -/
def Group.setTags (g : Group) (rows : List Nat) (t : Nat) : Group :=
  { g with tags := rows.foldl (fun a r => Tab.store 0 a r (BitVec.ofNat 5 t)) g.tags }
/-- Write row elements by key. -/
def Group.setElems (g : Group) (es : List (Nat × BitVec 32)) : Group :=
  { g with regs := es.foldl (fun a e => Tab.store 0 a e.1 e.2) g.regs }

/-- Element keys and values that writing lane values into register `i` gives. -/
def Group.laneElems (g : Group) (wide : Bool) (i : Nat) (vs : List (Nat × Nat)) : List (Nat × BitVec 32) :=
  vs.flatMap fun (l, x) =>
    if wide then [(g.elemKey (g.rowNo 1 i 0) l, BitVec.ofNat 32 x), (g.elemKey (g.rowNo 1 i 1) l, BitVec.ofNat 32 (x / 2 ^ 32))]
    else [(g.elemKey (g.rowNo 0 i 0) l, BitVec.ofNat 32 x)]
/-- Rows of register `i` of V or W. -/
def Group.regRows (g : Group) (wide : Bool) (i : Nat) : List Nat :=
  if wide then [g.rowNo 1 i 0, g.rowNo 1 i 1] else [g.rowNo 0 i 0]

/-- Write lanes of a V or W register and its tag (R244). -/
def Group.putReg (g : Group) (wide : Bool) (i : Nat) (vs : List (Nat × Nat)) (tag : Nat) : Group :=
  (g.setElems (g.laneElems wide i vs)).setTags (g.regRows wide i) tag

/-! ### Changing one group of the machine -/

def updG (s : State) (key : Nat) (f : Group → Group) : State := { s with groups := Tab.modify s.groups key f }
def setSplit (s : State) (key sp : Nat) (f : Split → Split) : State :=
  updG s key fun g => { g with splits := Tab.modify g.splits sp f }

/-! ### Results in flight (R58) -/

/-- A group as a word sees it: for each row with a pending write whose value is known, either the row before
that write or after it, whole (R58; Config.pendNew, log 11). -/
def overlay (fresh : Nat) (g : Group) (p : Pending) : Group :=
  if !p.ready then g
  else
    let rows := (p.tags.map (·.1)).filter fun r => Config.pendNew (fresh * 2 ^ 20 + r)
    let g1 := g.setElems (p.elems.filter fun e => rows.contains (e.1 / g.width))
    let g2 := { g1 with tags := (p.tags.filter fun t => rows.contains t.1).foldl (fun a t => Tab.store 0 a t.1 t.2) g1.tags }
    p.svals.foldl (fun g sv => if Config.pendNew (fresh * 2 ^ 20 + 2 ^ 19 + sv.1) then g.setS sv.1 sv.2 else g) g2

def seen (fresh : Nat) (g : Group) : Group := g.pending.foldl (overlay fresh) g

/-- A result written in full (R58). -/
def landPending (g : Group) (p : Pending) : Group :=
  let g := g.setElems p.elems
  let g := { g with tags := p.tags.foldl (fun a t => Tab.store 0 a t.1 t.2) g.tags }
  p.svals.foldl (fun g sv => g.setS sv.1 sv.2) g

/-! ### Tumblers (R56) -/

def Group.tumbler (g : Group) (t : Nat) : Nat := Tab.fetch 0 g.tumblers t
def Group.bumpT (g : Group) (t : Nat) : Group := { g with tumblers := Tab.store 0 g.tumblers t (g.tumbler t + 1) }
/-- A tumbler falls by one: splits that wait at a header look at it again (R55). -/
def Group.dropT (g : Group) : Option Nat → Group
  | some t =>
    { g with tumblers := Tab.store 0 g.tumblers t (g.tumbler t - 1),
             splits := g.splits.map fun e => (e.1, { e.2 with stall := e.2.stall && e.2.clause.isSome }) }
  | none => g

/-! ### Outstanding operations (R131) -/

/-- Operations of a class in issue order that have not retired: from the first unfinished one on. -/
def unretired (ops : List OutOp) (cls : Nat) : List OutOp :=
  (ops.filter fun o => o.cls == cls).dropWhile fun o => o.finished
/-- The counter of a class. -/
def Group.counter (g : Group) (cls : Nat) : Nat := (unretired g.ops cls).length

/-- Drop retired operations that hold no deferred fault. -/
def pruneOps (ops : List OutOp) : List OutOp :=
  ops.filter fun o => o.fault.isSome || ((unretired ops o.cls).any fun u => u.id == o.id)

/-- A new outstanding operation. -/
def Group.startOp (g : Group) (cls id : Nat) : Group := { g with ops := g.ops ++ [{ cls, id, finished := false, fault := none }] }
/-- An operation completes, with the fault it defers if any (R129, R131). -/
def Group.finishOp (g : Group) (id : Nat) (f : Option Rec) : Group :=
  { g with ops := pruneOps (g.ops.map fun o => if o.id == id && !o.finished then { o with finished := true, fault := f } else o) }

/-- The same for a resident or a saved group (R132). -/
def finishOp (s : State) (key id : Nat) (f : Option Rec) : State :=
  { s with groups := Tab.modify s.groups key fun g => g.finishOp id f
           saved := Tab.modify s.saved key fun g => g.finishOp id f }

/-- A fresh key. -/
def newId (s : State) : State × Nat := ({ s with nextId := s.nextId + 1 }, s.nextId)

/-- Append an event to the agenda (log 1). -/
def later (s : State) (e : Instr) : State := { s with agenda := s.agenda ++ [e] }
def laterAll (s : State) (es : List Instr) : State := { s with agenda := s.agenda ++ es }

end Sys2Proof.Machine
end

