-- ==== Sys2Proof/Machine/Memory.lean ====
section
/-! DEFINITION. Where things are (R11, R12, R104, R109) and the bytes of the home memories: frames behind
the hinge table, slice lines over them, exact-sum cells over those (R231), host and peer memory. -/
namespace Sys2Proof.Machine

/-! ### Numbering (R11, R12, R104) -/

/-- The enabled physical clusters in order, as 16·stack + physical index. -/
def enabledClusters (map : BitVec 32) : List Nat :=
  (List.range 24).filterMap fun i =>
    if map.getLsbD i then some (16 * (i / 12) + i % 12) else none

/-- Stack, quadrant and position of a logical cluster. -/
def clusterPlace (s : State) (cl : Nat) : Nat × Nat × Nat :=
  let p := (enabledClusters s.hb.clusterMap).getD cl 0
  (p / 16, p % 16 / 3, p % 16 % 3)

/-- Stack of a core. -/
def coreStack (s : State) (core : Nat) : Nat := (clusterPlace s (core / 4)).1
/-- Quadrant of a core within the package: 4·stack + quadrant. -/
def coreQuad (s : State) (core : Nat) : Nat :=
  let p := clusterPlace s (core / 4)
  4 * p.1 + p.2.1
/-- Station ID of a cluster station: positions 1, 4 and 7 (R103). -/
def clusterStation (s : State) (cl : Nat) : Nat :=
  let p := clusterPlace s cl
  64 * p.1 + 16 * p.2.1 + (if p.2.2 = 0 then 1 else if p.2.2 = 1 then 4 else 7)
/-- Source ID of a core (R104): its station and its position in the cluster. -/
def coreSource (s : State) (core : Nat) : Nat := clusterStation s (core / 4) * 512 + core % 4

/-- Station ID of the slice station that serves a slice (R103). -/
def sliceStation (n : Nat) : Nat := 64 * (n / 64) + 16 * (n / 16 % 4) + [2, 3, 8, 9].getD (n % 16 / 4) 2

/-- Station ID of a quadrant's engine, HBM and I/O station, by the package quadrant 4·stack + quadrant (R103). -/
def engineStation (q : Nat) : Nat := 16 * q + 6
def hbmStation (q : Nat) : Nat := 16 * q + 5
def ioStation (q : Nat) : Nat := 16 * q + 10
/-- I/O station of a CXL port (R10). -/
def cxlStation (p : Nat) : Nat := ioStation ([0, 2, 3, 4, 6, 7].getD p 0)
/-- The station behind which a physical frame lies: near frames lie in the eight HBM stacks in turn, 786,432 each, stack h in
quadrant h of the package (R10, R86); far frames at their expander's port. -/
def frameStation (tier pfn : Nat) : Nat := if tier = 0 then hbmStation (pfn / 786432) else cxlStation (pfn / 8388608)

def blankStation : Station := ⟨0, none, false⟩
def stationOf (s : State) (n : Nat) : Station := Tab.fetch blankStation s.stations n
/-- Whether a station is dead (R116). -/
def deadStation (s : State) (n : Nat) : Bool := (stationOf s n).dead

/-! ### The slice hash (R109) -/

/-- Exclusive-or of the `n` fields of `w` bits from bit `lo` up. -/
def foldXor (a lo w : Nat) : Nat → Nat
  | 0 => 0
  | n + 1 => ((a >>> (lo + w * n)) % 2 ^ w) ^^^ foldXor a lo w n

/-- Slice index within the home quadrant: the ten fields A[10:7] to A[46:43]. -/
def sliceIndex (a : Nat) : Nat := foldXor a 7 4 10
/-- The spread quadrant: the twelve fields A[15:13] to A[48:46]. -/
def spreadQuad (a : Nat) : Nat := foldXor a 13 3 12

/-- The quadrant affinity of a logical address (R90); 8 spreads. -/
def affinityOf (s : State) (la : Nat) : BitVec 4 := Tab.fetch 8 s.affinity (la / 2 ^ 21)

/-- Package-wide number of the home slice of a logical address. -/
def homeSlice (s : State) (la : Nat) : Nat :=
  let a := (affinityOf s la).toNat
  16 * (if a < 8 then a else spreadQuad la) + sliceIndex la
/-- Home slice of a host-memory line: stack 0 Q0. -/
def hostSlice (t : Nat) : Nat := sliceIndex t

/-! ### The hinge table (R85) -/

def hingeOf (s : State) (frame : Nat) : BitVec 64 := Tab.fetch 0 s.hinge frame
def hState (e : BitVec 64) : Nat := bits e.toNat 63 62
def hTier (e : BitVec 64) : Nat := bits e.toNat 61 61
def hMig (e : BitVec 64) : Bool := bit e.toNat 60
def hCtx (e : BitVec 64) : Nat := bits e.toNat 59 48
def hPfn (e : BitVec 64) : Nat := bits e.toNat 26 0
/-- An entry of given fields. -/
def hMake (st tier : Nat) (mig : Bool) (ctx pfn : Nat) : BitVec 64 :=
  BitVec.ofNat 64 (st * 2 ^ 62 + tier * 2 ^ 61 + (if mig then 2 ^ 60 else 0) + ctx * 2 ^ 48 + pfn)
/-- The placement window of a logical address (R84). -/
def windowOf (la : Nat) : Nat := bits la 42 40
/-- Windows 0b010, 0b011 and 0b100 are migratable. -/
def windowMig (w : Nat) : Bool := w == 2 || w == 3 || w == 4

/-- The frame's byte behind the hinge table; 0 where no frame backs it. -/
def frameByte (s : State) (la : Nat) : BitVec 8 :=
  let e := hingeOf s (la / 65536)
  if hState e = 0 then 0
  else
    let a := hPfn e * 65536 + la % 65536
    if hTier e = 0 then Memory.read s.near a else Memory.read s.far a

/-- Write the frame's byte; nothing where no frame backs it. -/
def setFrameByte (s : State) (la : Nat) (b : BitVec 8) : State :=
  let e := hingeOf s (la / 65536)
  if hState e = 0 then s
  else
    let a := hPfn e * 65536 + la % 65536
    if hTier e = 0 then { s with near := Memory.write s.near a b }
    else { s with far := Memory.write s.far a b }

/-! ### Lines -/

/-- Byte `i` of a 128-byte line, and a line with that byte replaced. -/
def lineByte (d : BitVec 1024) (i : Nat) : BitVec 8 := d.extractLsb' (8 * i) 8
def setLineByte (d : BitVec 1024) (i : Nat) (b : BitVec 8) : BitVec 1024 :=
  (d &&& ~~~((0xFF#1024) <<< (8 * i))) ||| (b.setWidth 1024 <<< (8 * i))

/-! ### Exact-sum cells (R229 to R231) -/

def cellBytes (c : Cell) : Nat := if c.fmt = tF32 then 4 else 2

/-- The cell's rounded value as bits of its format (R231). -/
def cellBits (c : Cell) : Nat :=
  let f := fmtOf c.fmt
  if c.nan || (c.pinf && c.ninf) then f.nanBits
  else if c.pinf then f.infBits
  else if c.ninf then f.infBits + f.signBit true
  else if c.sum = 0 then 0
  else rneTo f (ofInt c.sum 1 (-149))

/-- Whether the cell's element holds the byte. -/
def cellCovers (c : Cell) (host : Bool) (a : Nat) : Bool :=
  c.host == host && decide (c.addr ≤ a) && decide (a < c.addr + cellBytes c)

/-- The byte a read gets from a cell, if one covers it. -/
def cellByte (s : State) (host : Bool) (a : Nat) : Option (BitVec 8) :=
  match s.cells.find? (cellCovers · host a) with
  | some c => some (BitVec.ofNat 8 (cellBits c >>> (8 * (a - c.addr))))
  | none => none

/-! ### Check values (R97) -/

/-- One bit and one byte of the CRC-16 with polynomial 0x1021. -/
def crcBit (c : BitVec 16) : BitVec 16 := if c.getLsbD 15 then (c <<< 1) ^^^ 0x1021 else c <<< 1
def crcByte (c : BitVec 16) (b : BitVec 8) : BitVec 16 :=
  crcBit (crcBit (crcBit (crcBit (crcBit (crcBit (crcBit (crcBit (c ^^^ (b.setWidth 16 <<< 8)))))))))
/-- The check value of a sector's bytes in ascending order, from 0xFFFF. -/
def crc16 (bs : List (BitVec 8)) : BitVec 16 := bs.foldl crcByte 0xFFFF

/-- The sector of the frame behind a byte of device logical space. -/
def frameSector (s : State) (la : Nat) : Option Loc :=
  let e := hingeOf s (la / 65536)
  if hState e = 0 then none else some ⟨.frame (hTier e), (hPfn e * 65536 + la % 65536) / 64 * 64⟩
/-- Whether a slice holds a line (R85). -/
def held (s : State) (line : Nat) : Bool := (Tab.find s.slices line).isSome

/-- The sector that keeps a byte's check value, by the place of its first byte. In device logical space the value travels with
the bytes (R97): it is the slice's while a slice holds the line, else the frame's. Of a surface it is the linear image's; host
memory keeps none. -/
def sectorOf (s : State) (l : Loc) : Option Loc :=
  match l.sp with
  | .log => if held s (l.addr / 128) then some ⟨.log, l.addr / 64 * 64⟩ else frameSector s l.addr
  | .host => none
  | .peer dev _ => some ⟨.peer dev 0, l.addr / 64 * 64⟩
  | .surf h _ => some ⟨.surf h false, l.addr / 64 * 64⟩
  | sp => some ⟨sp, l.addr / 64 * 64⟩

/-- Poison one sector, or clear poison where a whole sector is made anew; its check value is then good. -/
def setPoison (s : State) (sector : Loc) (p : Bool) : State :=
  { s with
    poison := if p then (if s.poison.contains sector then s.poison else sector :: s.poison)
              else s.poison.filter (· ≠ sector)
    badCheck := s.badCheck.filter (· ≠ sector) }

/-- The sectors of places that are written have the poison marker. -/
def poisonPlaces (s : State) (ls : List Loc) : State := (ls.filterMap (sectorOf s)).eraseDups.foldl (fun s x => setPoison s x true) s

/-- Whether a byte's sector is poisoned, or has a check value that fails. -/
def isPoisoned (s : State) (l : Loc) : Bool :=
  match sectorOf s l with
  | some x => s.poison.contains x
  | none => false
def failsCheck (s : State) (l : Loc) : Bool :=
  match sectorOf s l with
  | some x => s.badCheck.contains x
  | none => false

/-- A physical frame's sectors are made anew. -/
def cleanFrame (s : State) (tier pfn : Nat) : State :=
  let keep := fun (x : Loc) => !(x.sp == .frame tier && x.addr / 65536 == pfn)
  { s with poison := s.poison.filter keep, badCheck := s.badCheck.filter keep }

/-- A record that the device itself makes waits in the context's list; the queue manager writes it (R429). -/
def chargeRec (s : State) (cid : Nat) (r : Rec) : State :=
  { s with ctxs := Tab.modify s.ctxs cid fun c => { c with fqWait := c.fqWait ++ [r] } }

/-- The owner of a byte's data, else the context that found the event (R100). -/
def ownerOf (s : State) (ctx : Nat) (l : Loc) : Nat :=
  match l.sp with
  | .log => if hState (hingeOf s (l.addr / 65536)) = 0 then ctx else hCtx (hingeOf s (l.addr / 65536))
  | .surf h _ => (match Tab.find s.surfs h with
    | some f => f.ctx
    | none => ctx)
  | _ => ctx

/-- SOURCE of a record about a sector (R427): the station of the home slice, the core of a core's memory, a surface's
controller (log 29). -/
def sectorSource (s : State) (l : Loc) : Nat :=
  match l.sp with
  | .core c => c
  | .mb key => (match Tab.find s.groups key with
    | some g => g.core
    | none => 0)
  | .surf _ _ => 0x0300
  | _ =>
    let n := match l.sp with
      | .log => homeSlice s l.addr
      | _ => hostSlice l.addr
    0x0800 + sliceStation n

/-- ADDR of a record about a sector (R438): its address; a surface's, with handle and GEN (R174). -/
def sectorAddr (s : State) (l : Loc) : Nat :=
  let o := l.addr / 64 * 64
  match l.sp with
  | .surf h _ => h * 2 ^ 50 + (match Tab.find s.surfs h with
    | some f => f.gen * 2 ^ 44
    | none => 0) + o
  | _ => o

/-- A record about the sector of a byte: class 0x0D an integrity fault, 0x0E an uncorrectable-memory event, charged to
the owner of the data, else to the context `ctx` that found it (R100, R438). -/
def sectorRec (s : State) (ctx cls : Nat) (l : Loc) : State :=
  let cid := ownerOf s ctx l
  chargeRec s cid { cls, kind := 0, detail := 0, ctx := cid, time := s.time, addr := sectorAddr s l, pc := 0, who := 0, source := sectorSource s l }

/-- R118: whether a byte cannot be reached: its line is homed in a slice behind a dead slice station, or it is host memory and
the I/O station of the host port is dead (R10). -/
def cutOff (s : State) (l : Loc) : Bool :=
  match l.sp with
  | .log => deadStation s (sliceStation (homeSlice s l.addr))
  | .host => deadStation s (sliceStation (hostSlice l.addr)) || deadStation s (ioStation 0)
  | _ => false

/-- Whether the frame behind a line stands behind a dead HBM or I/O station (R10, R116). -/
def frameLost (s : State) (line : Nat) : Bool :=
  let e := hingeOf s (line / 512)
  hState e != 0 && deadStation s (frameStation (hTier e) (hPfn e))

/-- R118: an access to lines that are cut off is an uncorrectable-memory event, one for each sector. -/
def chargeCut (s : State) (ctx : Nat) (ls : List Loc) : State :=
  if s.stations.isEmpty then s
  else ((ls.filter (cutOff s)).map fun l => ({ l with addr := l.addr / 64 * 64 } : Loc)).eraseDups.foldl (fun s l => sectorRec s ctx 0x0E l) s

/-- The sectors of places, each with the first place in it. -/
def sectorsOf (s : State) : List Loc → List (Loc × Loc)
  | [] => []
  | l :: ls => match sectorOf s l with
    | none => sectorsOf s ls
    | some x => (x, l) :: (sectorsOf s ls).filter fun y => y.1 != x

/-- R99: places whose check value fails are never delivered as good: an integrity fault, and the poison marker. -/
def verifyPlaces (s : State) (ctx : Nat) (ls : List Loc) : State :=
  if s.badCheck.isEmpty then s
  else (sectorsOf s ls).foldl (fun s x => if s.badCheck.contains x.1 then sectorRec (setPoison s x.1 true) ctx 0x0D x.2 else s) s

/-! ### Slices (R15, R91, R205) -/

def hubOf (s : State) (st : Nat) : Hub := if st = 0 then s.hub0 else s.hub1
def setHub (s : State) (st : Nat) (h : Hub) : State := if st = 0 then { s with hub0 := h } else { s with hub1 := h }

/-- The count of a frame's hinge entry, cached at its home hub (R91); a hub caches 16,384 entries. -/
def touchCount (s : State) (frame : Nat) : State :=
  let h := hubOf s (frame % 2)
  let old := match Tab.find h.counts frame with
    | some n => Tab.put h.counts frame (min 255 (n + 1))
    | none => Tab.put (if h.counts.length < 16384 then h.counts else h.counts.drop 1) frame 1
  setHub s (frame % 2) { h with counts := old }

/-- The two sectors of a line of device logical space. -/
def linePair (line : Nat) : List Loc := [⟨.log, 128 * line⟩, ⟨.log, 128 * line + 64⟩]

/-- A sector takes another's poison marker and state of check value along with its bytes (R97). -/
def carrySector (s : State) (src dst : Loc) : State :=
  { s with
    poison := if s.poison.contains src then dst :: s.poison.filter (· ≠ dst) else s.poison.filter (· ≠ dst)
    badCheck := if s.badCheck.contains src then dst :: s.badCheck.filter (· ≠ dst) else s.badCheck.filter (· ≠ dst) }

/-- A slice drops lines, with the check values that stand with them. -/
def dropLines (s : State) (p : Nat → Bool) : State :=
  let keep := fun (x : Loc) => !(x.sp == .log && p (x.addr / 128))
  { s with slices := s.slices.filter fun e => !p e.1, poison := s.poison.filter keep, badCheck := s.badCheck.filter keep }

/-- Write a line's dirty bytes to its frame, their sectors' check values with them (R92, R97, R205); what goes to a far frame
leaves the package and is verified (R99: a CXL write). A frame behind a dead station takes nothing: an uncorrectable-memory
event (R118). -/
def flushBytes (s : State) (line : Nat) (l : SLine) : State :=
  let two := (linePair line).filter fun x => l.dirty.extractLsb' (x.addr % 128) 64 != 0
  if frameLost s line then two.foldl (fun s x => sectorRec s l.ctx 0x0E x) s
  else
    let s := if hTier (hingeOf s (line / 512)) = 1 then verifyPlaces s l.ctx two else s
    let s := two.foldl (fun s x => match frameSector s x.addr with
      | some y => carrySector s x y
      | none => s) s
    (List.range 128).foldl (fun s i =>
      if l.dirty.getLsbD i then setFrameByte s (128 * line + i) (lineByte l.data i) else s) s

/-- Lines that a slice keeps: 8 MiB of 128 bytes, less its sixteenth of the quadrant's tile store (R15, R146). -/
def sliceLines (s : State) (slice : Nat) : Nat := 65536 - 512 * (Tab.fetch 16 s.hb.kwStore (slice / 16)).toNat
/-- Every slice keeps as many: what the largest tile store leaves. -/
abbrev sliceLeast : Nat := 512

/-- The lines of one slice. -/
def linesOf (s : State) (slice : Nat) : Tab SLine := s.slices.filter fun e => homeSlice s (128 * e.1) == slice
def sliceHasRoom (s : State) (slice : Nat) : Bool :=
  decide (s.slices.length < sliceLeast) || decide ((linesOf s slice).length < sliceLines s slice)

/-- A slice gives up one line: its lowest that is clean, else its lowest whose frame can take it, written back (DESIGN CHOICE,
log 103: the spec does not say which line a slice gives up). Lines whose frames are locked or unbacked stay. -/
def giveUpLine (s : State) (slice : Nat) : State :=
  match (linesOf s slice).find? fun e => e.2.dirty == 0 with
  | some e => dropLines s (· == e.1)
  | none => match (linesOf s slice).find? fun e => hState (hingeOf s (e.1 / 512)) == 1 with
    | some e => dropLines (flushBytes (touchCount s (e.1 / 512)) e.1 e.2) (· == e.1)
    | none => s

/-- A full slice makes room for a line. -/
def sliceRoom (s : State) (slice : Nat) : State := if sliceHasRoom s slice then s else giveUpLine s slice
/-- A slice whose share shrinks gives up lines until it holds no more than that (R146). -/
def shrinkSlice (s : State) (slice : Nat) : State :=
  if s.slices.length < sliceLeast then s
  else (List.range ((linesOf s slice).length - sliceLines s slice)).foldl (fun s _ => giveUpLine s slice) s

/-- A sector comes into a slice with its frame's check value; poisoned from behind a dead HBM or I/O station (R10, R97, R118). -/
def fillSector (s : State) (x : Loc) : State :=
  if frameLost s (x.addr / 128) then setPoison s x true
  else match frameSector s x.addr with
    | some y => carrySector s y x
    | none => s
/-- R85: a slice that misses on a line looks up its frame at the home hub and keeps the line, unless none of its own can leave. -/
def fillSlice (s : State) (line : Nat) : State :=
  if held s line then s
  else
    let s := sliceRoom (touchCount s (line / 512)) (homeSlice s (128 * line))
    if sliceHasRoom s (homeSlice s (128 * line)) then (linePair line).foldl fillSector { s with slices := Tab.put s.slices line ⟨0, 0, 0⟩ } else s
/-- The lines of places of device logical space are filled (R85); none that is cut off (R118). -/
def fillLines (s : State) (ls : List Loc) : State :=
  ((ls.filter fun l => l.sp == .log && !cutOff s l).map fun l => l.addr / 128).eraseDups.foldl fillSlice s

/-- R98: what a write of these bytes does to their sectors' check values: a whole sector is made anew, a partial one is
verified first, and poisoned with an integrity fault when it fails (R99). Sectors that are cut off are not written (R118). -/
def mergePlaces (s : State) (ctx : Nat) (ls : List Loc) : State :=
  let s := fillLines (chargeCut s ctx ls) ls
  if s.poison.isEmpty && s.badCheck.isEmpty then s
  else (sectorsOf s ls).foldl (fun s x =>
    if ((ls.filter fun l => sectorOf s l == some x.1).eraseDups).length = 64 then setPoison s x.1 false
    else if s.badCheck.contains x.1 then sectorRec (setPoison s x.1 true) ctx 0x0D x.2
    else s) s

/-! ### Bytes at their homes -/

/-- A byte of device logical space at its home slice (R231, R369). -/
def logByte (s : State) (la : Nat) : BitVec 8 :=
  match cellByte s false la with
  | some b => b
  | none =>
    match Tab.find s.slices (la / 128) with
    | some l => if l.dirty.getLsbD (la % 128) then lineByte l.data (la % 128) else frameByte s la
    | none => frameByte s la

def peerKey (dev la : Nat) : Nat := 2 ^ 43 * dev + la

/-- A byte of host memory: a slice retains none of its lines (R79). Numbers from 2^64 on name peers' memory,
2^64 + 2^43·DEVID + logical address (R455). -/
def hostByte (s : State) (t : Nat) : BitVec 8 :=
  match cellByte s true t with
  | some b => b
  | none => if t < 2 ^ 64 then Memory.read s.host t else Memory.read s.peers (t - 2 ^ 64)

/-- A byte written into its line at the home slice; one whose line the slice cannot keep goes on to the frame (R205). -/
def putSliceByte (s : State) (ctx la : Nat) (b : BitVec 8) : State :=
  let s := fillSlice s (la / 128)
  match Tab.find s.slices (la / 128) with
  | some l =>
    let l' : SLine := { data := setLineByte l.data (la % 128) b, dirty := l.dirty ||| (1#128 <<< (la % 128)), ctx }
    { s with slices := Tab.put s.slices (la / 128) l' }
  | none => if frameLost s (la / 128) then s else setFrameByte s la b

def putHostByte (s : State) (t : Nat) (b : BitVec 8) : State :=
  if t < 2 ^ 64 then { s with host := Memory.write s.host t b }
  else { s with peers := Memory.write s.peers (t - 2 ^ 64) b }

/-- Write `n` bytes of a number at a home address without touching cells. -/
def putRaw (s : State) (ctx : Nat) (host : Bool) (a : Nat) : Nat → Nat → State
  | 0, _ => s
  | n + 1, v =>
    putRaw (if host then putHostByte s a (BitVec.ofNat 8 v) else putSliceByte s ctx a (BitVec.ofNat 8 v))
      ctx host (a + 1) n (v / 256)

/-- The places of a cell's element; of peers' memory and of host memory none keeps a check value here. -/
def cellPlaces (c : Cell) : List Loc :=
  (List.range (cellBytes c)).map fun i => ⟨if c.host then .host else .log, c.addr + i⟩

/-- A cell's rounded value written into its line, merged into its sector (R98, R230, R231). -/
def roundCell (s : State) (c : Cell) : State :=
  let s := putRaw (mergePlaces s c.creator (cellPlaces c)) c.creator c.host c.addr (cellBytes c) (cellBits c)
  if c.bad then poisonPlaces s (cellPlaces c) else s

/-- Retire one cell: round it into the line and discard it (R230). -/
def retireCell (s : State) (c : Cell) : State := roundCell { s with cells := s.cells.filter (· ≠ c) } c

/-- Retire every cell that holds the byte (R231). -/
def retireAt (s : State) (host : Bool) (a : Nat) : State :=
  (s.cells.filter (cellCovers · host a)).foldl retireCell s

/-- A store of one byte at its home slice, charged to a context (R205); none at a line that is cut off (R118). -/
def setLogByte (s : State) (ctx la : Nat) (b : BitVec 8) : State :=
  if cutOff s ⟨.log, la⟩ then s else putSliceByte (retireAt s false la) ctx la b
def setHostByte (s : State) (t : Nat) (b : BitVec 8) : State :=
  if t < 2 ^ 64 ∧ cutOff s ⟨.host, t⟩ then s else putHostByte (retireAt s true t) t b

/-- Whether a byte's frame lies behind a dead HBM or I/O station and no slice holds its line (R10, R118). -/
def frameCut (s : State) (la : Nat) : Bool := frameLost s (la / 128) && !held s (la / 128)
/-- A poisoned or unreachable sector of device logical space. -/
def badLog (s : State) (la : Nat) : Option Nat :=
  if isPoisoned s ⟨.log, la⟩ || cutOff s ⟨.log, la⟩ || frameCut s la then some (la / 64 * 64) else none

/-- `n` bytes of device logical space. -/
def logBytes (s : State) (la n : Nat) : List (BitVec 8) := (List.range n).map fun i => logByte s (la + i)
/-- Consecutive bytes written at their home slices. -/
def putLogBytes (s : State) (ctx la : Nat) : List (BitVec 8) → State
  | [] => s
  | b :: bs => putLogBytes (setLogByte s ctx la b) ctx (la + 1) bs
/-- One write of consecutive bytes, merged into its sectors (R98). -/
def setLogBytes (s : State) (ctx la : Nat) (bs : List (BitVec 8)) : State :=
  putLogBytes (mergePlaces s ctx ((List.range bs.length).map fun i => ⟨.log, la + i⟩)) ctx la bs

end Sys2Proof.Machine
end

