-- ==== Sys2Proof/Machine/Fabric.lean ====
section
/-! DEFINITION. The fabric (R10, R101 to R108, R111, R113, R116): stations, ports and source IDs, routes, and the frames in
its buffers. -/
namespace Sys2Proof.Machine

/-! ### Stations (R10, R103, R104) -/

/-- Stations on a quadrant's rings. -/
def ringLen (quad : Nat) : Nat := if quad % 2 = 1 then 14 else 12

/-- IDs that name a station. -/
def stationExists (n : Nat) : Bool :=
  decide (n < 128) && (decide (n % 16 < 12) || (decide (n % 16 < 14) && n / 16 % 2 == 1))

/-- The next quadrant round the cycle Q0, Q1, Q3, Q2, and the one before (R106). -/
def quadNext : Nat → Nat
  | 0 => 1 | 1 => 3 | 3 => 2 | _ => 0
def quadPrev : Nat → Nat
  | 0 => 2 | 1 => 0 | 3 => 1 | _ => 3
/-- Position of the hinge port of `a` toward its neighbour `b`. -/
def hingePort (a b : Nat) : Nat :=
  let other := if quadNext a = b then quadPrev a else quadNext a
  if b < other then 0 else 11

/-- The other ID of a hinge station; a station's own ID otherwise. -/
def stationTwin (n : Nat) : Nat :=
  let q := n / 16 % 4
  let far := fun r => 64 * (n / 64) + 16 * r + hingePort r q
  if n % 16 = 0 ∨ n % 16 = 11 then (if hingePort q (quadNext q) = n % 16 then far (quadNext q) else far (quadPrev q)) else n

/-- The facing boundary station; a station's own ID otherwise. -/
def stationFace (n : Nat) : Nat := if 12 ≤ n % 16 then (n + 64) % 128 else n

/-- I/O station of a peer port (R10). -/
def peerStation (p : Nat) : Nat := ioStation ([0, 0, 1, 2, 2, 3, 4, 4, 5, 6, 6, 7].getD p 0)

/-- Source ID of an agent at a station (R104). -/
def sourceId (station agent : Nat) : Nat := 512 * station + agent
/-- Source ID of a slice. -/
def sliceSource (n : Nat) : Nat := sourceId (sliceStation n) (n % 4)
/-- Source ID of the unit that an engine number names: cores 0 to 87, copy engines from 100, traversal units from 200,
collective engines from 300, raster front ends from 400, matrix engines from 500, cluster stations from 600, the surface controllers from 800, and the
device's own units on the I/O station of a stack's Q0, the management cores of a stack from 900 (R104). -/
def unitSource (s : State) (eng : Nat) : Nat :=
  if eng < 100 then coreSource s eng
  else if eng < 200 then sourceId (engineStation ((eng - 100) / 4)) ((eng - 100) % 4)
  else if eng < 300 then sourceId (clusterStation s (eng - 200)) 5
  else if eng < 400 then sourceId (engineStation (eng - 300)) 4
  else if eng < 500 then sourceId (ioStation (4 * (eng % 2))) 10
  else if eng < 600 then sourceId (clusterStation s (eng - 500)) 4
  else if eng < 700 then sourceId (clusterStation s (eng - 600)) 6
  else if eng < 800 then sourceId (ioStation 0) 9
  else if eng < 900 then sourceId (ioStation (4 * (eng % 2))) 11
  else sourceId (ioStation (4 * (eng % 2))) 12
/-- Source IDs of an HBM controller, the host port, a CXL port, a peer port, a hub and a raster front end, and of a hinge or
boundary station itself (R104). -/
def hbmSource (q : Nat) : Nat := sourceId (hbmStation q) 0
def hostSource : Nat := sourceId (ioStation 0) 0
def cxlSource (p : Nat) : Nat := sourceId (cxlStation p) 1
def peerSource (p : Nat) : Nat := sourceId (peerStation p) (if p ≠ 0 ∧ peerStation (p - 1) = peerStation p then 3 else 2)
def hubSource (st : Nat) : Nat := sourceId (ioStation (4 * st)) 8
def rasterSource (st : Nat) : Nat := sourceId (ioStation (4 * st)) 10
def stationSource (n : Nat) : Nat := sourceId n 0

/-! ### What is dead (R116) -/

def setStation (s : State) (n : Nat) (f : Station → Station) : State :=
  { s with stations := Tab.store blankStation s.stations n (f (stationOf s n)) }
/-- Whether a link of a station is dead: 0 to 3 lead to the next station on that ring, 4 across a hinge or the boundary
(DESIGN CHOICE, log 109: the spec numbers no links). -/
def deadLink (s : State) (n l : Nat) : Bool := decide (16 ≤ Tab.fetch 0 s.links (16 * n + l))
/-- A loss of one of these is what routes go round. -/
def fabricWhole (s : State) : Bool := s.stations.all (fun e => !e.2.dead) && s.links.all fun e => decide (e.2 < 16)

/-! ### Routes (R105, R106, R116) -/

/-- Pair A, rings 0 and 1, carries request, message and management frames; pair B, rings 2 and 3, the rest. -/
def FClass.pair : FClass → Nat
  | .response | .keyway => 1
  | _ => 0

/-- A stretch of a route on one quadrant's rings: package quadrant, where it enters and where it leaves. -/
abbrev Leg := Nat × Nat × Nat

/-- Hops of a leg clockwise and in the shorter direction (R105). -/
def cwHops (l : Leg) : Nat := (l.2.2 + ringLen (l.1 % 4) - l.2.1) % ringLen (l.1 % 4)
def legHops (l : Leg) : Nat := min (cwHops l) ((ringLen (l.1 % 4) - cwHops l) % ringLen (l.1 % 4))
/-- The stations that a leg passes after its first, in a direction. -/
def legStations (cw : Bool) (l : Leg) : List Nat :=
  let n := ringLen (l.1 % 4)
  let k := if cw then cwHops l else (n - cwHops l) % n
  (List.range k).map fun i => 16 * l.1 + (if cw then (l.2.1 + i + 1) % n else (l.2.1 + n - i - 1) % n)
/-- Whether a ring carries a leg: every link lives, and every station but the last. -/
def legOpen (s : State) (pair : Nat) (cw : Bool) (l : Leg) : Bool :=
  let on := legStations cw l
  (on.dropLast.all fun n => !deadStation s n) && ((16 * l.1 + l.2.1) :: on.dropLast).all fun n =>
    on.isEmpty || !deadLink s n (2 * pair + if cw then 0 else 1)
/-- The direction of a leg: the shorter, clockwise on a tie, or after a reroute the counter-rotating ring (R105, R116). -/
def legCw (s : State) (pair : Nat) (l : Leg) : Bool :=
  let short := decide (2 * cwHops l ≤ ringLen (l.1 % 4))
  if fabricWhole s || legOpen s pair short l || !legOpen s pair (!short) l then short else !short

/-- The quadrants a frame visits within a stack; `fwd` for request, message and management frames. -/
def quadPath (fwd : Bool) (a b : Nat) : List Nat :=
  if a = b then [a]
  else if quadNext a = b ∨ quadPrev a = b then [a, b]
  else if fwd then [a, quadNext a, b] else [a, quadPrev a, b]
/-- The quadrants from `a` round the cycle in one direction, until `b`. -/
def walkQuads (f : Nat → Nat) (b : Nat) : Nat → Nat → List Nat
  | 0, a => [a]
  | n + 1, a => if a = b then [a] else a :: walkQuads f b n (f a)
/-- Legs of a route within one stack. -/
def stackLegs (st pos : Nat) : List Nat → Nat → List Leg
  | [], _ => []
  | [q], dst => [(4 * st + q, pos, dst)]
  | q :: r :: qs, dst => (4 * st + q, pos, hingePort q r) :: stackLegs st (hingePort r q) (r :: qs) dst

/-- Whether a route lives: its legs, and between two of them both stations and the link that joins them. -/
def routeLives (s : State) (pair : Nat) : List Leg → Bool
  | l :: m :: ls =>
    (legOpen s pair true l || legOpen s pair false l) && !deadStation s (16 * l.1 + l.2.2) && !deadStation s (16 * m.1 + m.2.1)
      && !deadLink s (16 * l.1 + l.2.2) 4 && routeLives s pair (m :: ls)
  | [l] => legOpen s pair true l || legOpen s pair false l
  | [] => true

/-- Within a stack: R106's way round, or one of the two walks round the cycle. -/
def stackRoutes (pair st pos a b dst : Nat) : List (List Leg) :=
  [quadPath (pair == 0) a b, walkQuads quadNext b 3 a, walkQuads quadPrev b 3 a].map fun p => stackLegs st pos p dst
/-- R106's crossing, the other boundary station of its quadrant, then the other boundary quadrant's. -/
def crossings (src dst : Nat) : List (Nat × Nat) :=
  let b := 12 + (src ^^^ dst) % 2
  let x := if src / 16 % 4 < 2 then 1 else 3
  [(x, b), (x, 25 - b), (4 - x, b), (4 - x, 25 - b)]
/-- The routes from one station to another, R106's first. -/
def routes (pair src dst : Nat) : List (List Leg) :=
  let q := src / 16 % 4
  let r := dst / 16 % 4
  if src / 64 = dst / 64 then stackRoutes pair (src / 64) (src % 16) q r (dst % 16)
  else (crossings src dst).flatMap fun c =>
    (stackRoutes pair (src / 64) (src % 16) q c.1 c.2).flatMap fun l => (stackRoutes pair (dst / 64) c.2 c.1 r (dst % 16)).map (l ++ ·)
/-- The route of a source, a destination and a class: R106's while the fabric is whole, else the first that lives (R116). -/
def route (s : State) (cls : FClass) (src dst : Nat) : List Leg :=
  let rs := routes cls.pair src dst
  if fabricWhole s then rs.headD [] else (rs.find? (routeLives s cls.pair)).getD (rs.headD [])
def routeHops (s : State) (cls : FClass) (src dst : Nat) : Nat := (route s cls src dst).foldl (fun a l => a + legHops l) 0
/-- The stations that a route passes, its ends among them. -/
def routeStations (s : State) (cls : FClass) (src dst : Nat) : List Nat :=
  (route s cls src dst).flatMap fun l => (16 * l.1 + l.2.1) :: legStations (legCw s cls.pair l) l

/-! ### Queues with a reserve entry (R111 to R113)

Queue numbers: cluster message queues 100 + cluster, cores' message buffers 200 + core, hold queues 300 + stack, slice
request queues 1,000 + slice, engine queues 2,000 + engine, order locks 4,000 + bank, station, hinge and boundary buffers
10,000 + 2·station + ring direction. -/

def fqOf (s : State) (q : Nat) : FQueue := Tab.fetch ⟨none, false, false⟩ s.fqueues q
def setFq (s : State) (q : Nat) (f : FQueue → FQueue) : State :=
  { s with fqueues := Tab.store ⟨none, false, false⟩ s.fqueues q (f (fqOf s q)) }
/-- Whether a queue of a capacity refuses one more entry: a grant admits one beyond it (R113). -/
def fqFull (s : State) (q cap count : Nat) : Bool := decide (cap + (if (fqOf s q).grant then 1 else 0) ≤ count)
/-- An entry comes into a queue that held `count`; one that goes into the reserve entry uses the grant up. -/
def fqTake (s : State) (q cap count : Nat) : State := if count < cap then s else setFq s q fun x => { x with grant := false }
/-- An entry has left a queue that now holds `count`: the reserve refills once it holds none (R113). -/
def fqLeave (s : State) (q count : Nat) : State :=
  if count = 0 ∧ (fqOf s q).spent then setFq s q fun x => { x with spent := false, grant := false } else s

/-! ### Frames and buffers (R101, R107, R108) -/

/-- The buffer at the end of a leg: of the station there, for the ring direction that the leg came by. -/
def legBuffer (s : State) (cls : FClass) (l : Leg) : Nat := 2 * (16 * l.1 + l.2.2) + (if legCw s cls.pair l then 0 else 1)
/-- The buffer where a frame stands; none at its source. -/
def Frame.buffer (s : State) (f : Frame) : Option Nat :=
  if f.leg = 0 then none else ((route s f.cls f.src f.dst)[f.leg - 1]?).map (legBuffer s f.cls)
def bufferFrames (s : State) (b : Nat) : List Frame := s.frames.filter fun f => f.buffer s == some b
def allClasses : List FClass := [.request, .response, .keyway, .message, .management]
/-- R107: 16 frames of each class are reserved, 176 more are shared. The spec sizes the buffers of hinge and boundary stations; that a
frame at the end of its leg stands in a buffer of the same size at every other station too is a DESIGN CHOICE (log 138). -/
def bufferOpen (s : State) (b : Nat) (cls : FClass) : Bool :=
  let n := fun c => ((bufferFrames s b).filter fun f => f.cls == c).length
  decide (n cls < 16) || decide ((allClasses.map fun c => n c - 16).sum < 176)
/-- Whether a buffer accepts a frame; a grant admits one beyond its capacity (R113). -/
def bufferRoom (s : State) (b : Nat) (cls : FClass) : Bool := bufferOpen s b cls || (fqOf s (10000 + b)).grant

/-- Fabric cycles (R5): 2.4 a nanosecond. -/
def fabricNow (s : State) : Nat := s.time * 12 / 5
/-- The slot of a ring that passes a station `k` cycles from now: slots of rings 0 and 2 go up by a position a cycle. -/
def slotAt (s : State) (n ring k : Nat) : Nat :=
  let len := ringLen (n / 16 % 4)
  let t := (fabricNow s + k) % len
  if ring % 2 = 0 then (n % 16 + len - t) % len else (n % 16 + t) % len
/-- The ring that a frame's first leg takes. -/
def Frame.ring (s : State) (f : Frame) : Nat :=
  2 * f.cls.pair + (match (route s f.cls f.src f.dst).head? with
    | some l => if legCw s f.cls.pair l then 0 else 1
    | none => 0)
/-- R102: the slot passing a frame's source is one that another station of the ring has marked. -/
def slotKept (s : State) (f : Frame) : Bool :=
  s.stations.any fun e => e.1 / 16 == f.src / 16 && e.1 != f.src && e.2.mark == some (16 * f.ring s + slotAt s f.src (f.ring s) 0)

/-- How many legs a frame gets behind it, not past `lim`, which an earlier frame of its source, destination and class has
(R108): each next buffer must have room and its station live. -/
def reachLeg (s : State) (cls : FClass) (ls : List Leg) (lim : Nat) : Nat → Nat → Nat
  | 0, k => k
  | n + 1, k =>
    match ls[k]? with
    | some l =>
      if k < lim ∧ !deadStation s (16 * l.1 + l.2.2) ∧ bufferRoom s (legBuffer s cls l) cls then reachLeg s cls ls lim n (k + 1) else k
    | none => k

def setLeg (s : State) (f : Frame) (k : Nat) : State :=
  { s with frames := s.frames.map fun x => if x = f then { x with leg := k } else x }
/-- A frame moves on, from its source only in a slot that no other station has marked; an emptied buffer's reserve refills, a
buffer's grant is used up. -/
def moveFrame (s : State) (f : Frame) (lim : Nat) : State × Nat :=
  let ls := route s f.cls f.src f.dst
  let k := if f.leg = 0 ∧ slotKept s f then 0 else reachLeg s f.cls ls lim ls.length f.leg
  if k = f.leg then (s, k)
  else
    let t := match (ls[k - 1]?).map (legBuffer s f.cls) with
      | some b => if bufferOpen s b f.cls then s else setFq s (10000 + b) fun x => { x with grant := false }
      | none => s
    let t := setLeg t f k
    (match f.buffer s with
      | some b => fqLeave t (10000 + b) (bufferFrames t b).length
      | none => t, k)

/-- Frames with a frame's source, destination and class, in the order they were sent. -/
def sameTriple (f g : Frame) : Bool := f.src == g.src && f.dst == g.dst && f.cls == g.cls
/-- The frames of a list move on in order, none past the one before it. -/
def moveFrames (lim : Nat) : List Frame → State → State
  | [], s => s
  | f :: fs, s =>
    let (s, k) := moveFrame s f lim
    moveFrames k fs s
/-- What a frame carries goes as far as it can, behind the earlier frames of its source, destination and class. -/
def bringFrame (s : State) (id : Nat) : State :=
  match s.frames.find? fun f => f.id == id with
  | some f => moveFrames (route s f.cls f.src f.dst).length (s.frames.filter (sameTriple f)) s
  | none => s

/-- Whether all frames of what an ID names stand at their destination station. -/
def atEnd (s : State) (f : Frame) : Bool := decide ((route s f.cls f.src f.dst).length ≤ f.leg)
def arrived (s : State) (id : Nat) : Bool := (s.frames.filter fun f => f.id == id).all (atEnd s)
/-- Whether what an ID names is still at its source. -/
def unsent (s : State) (id : Nat) : Bool := (s.frames.filter fun f => f.id == id).any fun f => f.leg == 0
/-- The frames of what an ID names have been delivered, or are no more. -/
def dropFrames (s : State) (id : Nat) : State :=
  let t := { s with frames := s.frames.filter fun f => f.id != id }
  ((s.frames.filter fun f => f.id == id).filterMap (Frame.buffer s)).foldl (fun t b => fqLeave t (10000 + b) (bufferFrames t b).length) t

/-- Frames for `bytes` of payload: at most 1 KiB each, in flits of 64 bytes (R101). -/
def sendFrames (s : State) (id : Nat) (cls : FClass) (src dst bytes : Nat) : State :=
  let n := max 1 ((bytes + 1023) / 1024)
  { s with frames := s.frames ++ (List.range n).map fun i =>
      { id, cls, src, dst, flits := max 1 ((min 1024 (bytes - 1024 * i) + 63) / 64), leg := 0 } }

end Sys2Proof.Machine
end

