-- ==== Sys2Proof/Machine/Surface.lean ====
section
/-! DEFINITION. Surface space (R174 to R187): formats, placement, the block encoding, the two views, slots,
quota, eviction and restore. -/
namespace Sys2Proof.Machine

/-! ### Formats and geometry (R175 to R178) -/

/-- Texel bytes, channel count and channel width of a surface format; 0 bytes for a reserved code. -/
def surfFmt : Nat → Nat × Nat × Nat
  | 0x01 => (4, 4, 8)
  | 0x02 => (4, 2, 16)
  | 0x03 | 0x04 | 0x05 => (4, 1, 32)
  | 0x06 => (4, 4, 8)
  | 0x07 | 0x08 => (8, 4, 16)
  | 0x09 => (8, 2, 32)
  | 0x0A => (16, 4, 32)
  | _ => (0, 0, 0)

/-- The tag `sld` sets (R175). -/
def surfTag : Nat → Nat
  | 0x01 => tU8 | 0x02 | 0x07 => tF16 | 0x04 => tU32 | 0x06 => tE4M3 | 0x08 => tBF16 | _ => tF32

def Surf.b (f : Surf) : Nat := (surfFmt f.format).1
def Surf.tx (f : Surf) : Nat := let n := (f.xdim + f.gran - 1) / f.gran; n + n % 2
def Surf.ty (f : Surf) : Nat := (f.ydim + f.gran - 1) / f.gran
def Surf.nt (f : Surf) : Nat := f.tx * f.ty * f.layers * f.samples
def Surf.bt (f : Surf) : Nat := f.gran * f.gran * f.b
def Surf.k (f : Surf) : Nat := (f.bt + 511) / 512
/-- Blocks of a tile, and of the surface. -/
def Surf.bpt (f : Surf) : Nat := (f.gran / 4) * (f.gran / 4)
def Surf.nb (f : Surf) : Nat := f.nt * f.bpt
def Surf.bytes (f : Surf) : Nat := f.nt * f.bt
/-- Bytes of a block. -/
def Surf.blk (f : Surf) : Nat := 16 * f.b

/-- Tile number of a texel (R177). -/
def tileOf (f : Surf) (x y l smp : Nat) : Nat := ((l * f.samples + smp) * f.ty + y / f.gran) * f.tx + x / f.gran
/-- Linear image offset of a texel (R178). -/
def texelOff (f : Surf) (x y l smp : Nat) : Nat :=
  let i := x % f.gran
  let j := y % f.gran
  let beta := j / 4 * (f.gran / 4) + i / 4
  tileOf f x y l smp * f.bt + (16 * beta + 4 * (j % 4) + i % 4) * f.b
/-- Stack and bank group of a tile (R177). -/
def tileHome (f : Surf) (t : Nat) : Nat × Nat :=
  ((t % f.tx + t / f.tx % f.ty) % 2, (f.gbase + t / 2) % 24)

/-! ### The spill area (R180) -/

def spillBmap (f : Surf) : Nat := alignUp (8 * f.nt) 128
def spillConst (f : Surf) : Nat := alignUp (spillBmap f + (f.nb + 3) / 4) 128
def spillBlocks (f : Surf) : Nat := alignUp (spillConst f + f.b * f.nb) 4096
def spillSize (f : Surf) : Nat := alignUp (spillBlocks f + (f.blk + 16) * f.nb) 65536
def constAddr (f : Surf) (n : Nat) : Nat := f.spill + spillConst f + f.b * n
def slotAddr (f : Surf) (n : Nat) : Nat := f.spill + spillBlocks f + (f.blk + 16) * n

/-! ### Block encoding (R182) -/

/-- Channel `c` of each of the 16 texels. -/
def blockChan (b w c : Nat) (tex : List (BitVec 8)) : List Nat :=
  (List.range 16).map fun k => (fieldAt tex (b * k) b >>> (w * c)) % 2 ^ w

def listMin : List Nat → Nat
  | [] => 0
  | [x] => x
  | x :: xs => min x (listMin xs)
def listMax : List Nat → Nat
  | [] => 0
  | x :: xs => max x (listMax xs)

/-- A bit stream from its fields, least significant bit first: (value, width) pairs. -/
def packBits : List (Nat × Nat) → Nat
  | [] => 0
  | (v, w) :: l => v % 2 ^ w + 2 ^ w * packBits l

def sumWidths : List (Nat × Nat) → Nat
  | [] => 0
  | (_, w) :: l => w + sumWidths l

/-- The MODE 1 encoding of a block's texels, when it is shorter than the block. -/
def encodeBlock (fmt : Nat) (tex : List (BitVec 8)) : Option (List (BitVec 8)) :=
  let (b, cn, w) := surfFmt fmt
  let chans := (List.range cn).map fun c => blockChan b w c tex
  let ns := chans.map fun vs => bitLen (listMax vs - listMin vs)
  let fields := (chans.zip ns).flatMap fun (vs, n) => (listMin vs, w) :: vs.map fun v => (v - listMin vs, n)
  let nbytes := (sumWidths fields + 7) / 8
  if 1 + cn + nbytes < 16 * b then
    some (1#8 :: ns.map (BitVec.ofNat 8) ++ leBytes nbytes (packBits fields))
  else none

/-- Texels from the MODE 1 stream: channel bases and deltas at running bit positions. -/
def decodeChans (w s : Nat) : List Nat → Nat → List (List Nat)
  | [], _ => []
  | n :: ns, p =>
    let base := (s >>> p) % 2 ^ w
    ((List.range 16).map fun k => (base + (s >>> (p + w + n * k)) % 2 ^ n) % 2 ^ w)
      :: decodeChans w s ns (p + w + 16 * n)

def joinChans (w : Nat) (k : Nat) : List (List Nat) → Nat
  | [] => 0
  | c :: cs => c.getD k 0 + 2 ^ w * joinChans w k cs

/-- R183: bytes that begin with 0x01 and parse as a MODE 1 encoding shorter than the block: its length and texels. -/
def parseBlock (fmt : Nat) (bs : List (BitVec 8)) : Option (Nat × List (BitVec 8)) :=
  let (b, cn, w) := surfFmt fmt
  let ns := ((bs.drop 1).take cn).map (·.toNat)
  let nbits := ns.foldl (fun a n => a + w + 16 * n) 0
  let len := 1 + cn + (nbits + 7) / 8
  if bs.head? = some 1#8 ∧ ns.length = cn ∧ ns.all (· ≤ w) ∧ len < 16 * b then
    let s := leNat ((bs.drop (1 + cn)).take (len - 1 - cn))
    let chans := decodeChans w s ns 0
    some (len, (List.range 16).flatMap fun k => leBytes b (joinChans w k chans))
  else none

/-- A stored form that is MODE 1: the encoding followed by zeros. -/
def padEnc (blk len : Nat) (bs : List (BitVec 8)) : List (BitVec 8) :=
  bs.take len ++ List.replicate (blk - len) 0#8

/-! ### Blocks as they stand -/

def skey (h o : Nat) : Nat := 2 ^ 32 * h + o
def blockState (s : State) (h n : Nat) : BState := Tab.fetch .elided s.bstate (skey h n)
def setBlockState (s : State) (h n : Nat) (b : BState) : State :=
  { s with bstate := Tab.store .elided s.bstate (skey h n) b }
def rawBlock (s : State) (h : Nat) (f : Surf) (n : Nat) : List (BitVec 8) :=
  (List.range f.blk).map fun i => Tab.fetch 0 s.sbytes (skey h (f.blk * n + i))
def putRawFrom (s : State) (k : Nat) : List (BitVec 8) → State
  | [] => s
  | b :: bs => putRawFrom { s with sbytes := Tab.store 0 s.sbytes k b } (k + 1) bs
def putBlock (s : State) (h : Nat) (f : Surf) (n : Nat) (st : BState) (bs : List (BitVec 8)) : State :=
  setBlockState (putRawFrom s (skey h (f.blk * n)) bs) h n st

/-- The stored form in a spill slot (R180): the state it restores to and its bytes. -/
def slotForm (s : State) (f : Surf) (n : Nat) : BState × List (BitVec 8) :=
  let bs := logBytes s (slotAddr f n) (f.blk + 1)
  match parseBlock f.format (bs.take f.blk) with
  | some (len, _) => (.compressed, padEnc f.blk len bs)
  | none => (.resident, (bs.drop 1).take f.blk)

/-- A block's stored form, as the compressed view sees it (R183). -/
def storedForm (s : State) (h : Nat) (f : Surf) (n : Nat) : List (BitVec 8) :=
  match blockState s h n with
  | .resident | .compressed => rawBlock s h f n
  | .elided => logBytes s (constAddr f n) f.b ++ List.replicate (f.blk - f.b) 0#8
  | .spilled => (slotForm s f n).2

/-- A block's texels, as the uncompressed view sees them. -/
def blockTexels (s : State) (h : Nat) (f : Surf) (n : Nat) : List (BitVec 8) :=
  let expand := fun bs => match parseBlock f.format bs with
    | some (_, t) => t
    | none => bs
  match blockState s h n with
  | .resident => rawBlock s h f n
  | .compressed => expand (rawBlock s h f n)
  | .elided => (List.range 16).flatMap fun _ => logBytes s (constAddr f n) f.b
  | .spilled => match slotForm s f n with
    | (.compressed, bs) => expand bs
    | (_, bs) => bs

/-- A byte of the linear image through a view. -/
def surfByte (s : State) (h : Nat) (compressed : Bool) (off : Nat) : BitVec 8 :=
  match Tab.find s.surfs h with
  | some f => ((if compressed then storedForm s h f (off / f.blk) else blockTexels s h f (off / f.blk)).getD (off % f.blk) 0)
  | none => 0

def setMany (bs : List (BitVec 8)) : List (Nat × BitVec 8) → List (BitVec 8)
  | [] => bs
  | (i, v) :: ws => setMany (bs.set i v) ws

/-- One access's bytes written into one block through a view (R183). -/
def writeBlock (s : State) (h : Nat) (f : Surf) (compressed : Bool) (n : Nat) (ws : List (Nat × BitVec 8)) : State :=
  if compressed then
    let bs := setMany (storedForm s h f n) ws
    match parseBlock f.format bs with
    | some (len, _) => putBlock s h f n .compressed (padEnc f.blk len bs)
    | none => putBlock s h f n .resident bs
  else putBlock s h f n .resident (setMany (blockTexels s h f n) ws)

/-- The bank sectors of a block, and the sectors that its contents come from: the bank's, CONST's or its spill slot's. -/
def bankPlaces (h : Nat) (f : Surf) (n : Nat) : List Loc := (List.range (f.blk / 64)).map fun i => ⟨.surf h false, f.blk * n + 64 * i⟩
def blockPlaces (s : State) (h : Nat) (f : Surf) (n : Nat) : List Loc :=
  match blockState s h n with
  | .elided => (List.range f.b).map fun i => ⟨.log, constAddr f n + i⟩
  | .spilled => (List.range (f.blk + 1)).map fun i => ⟨.log, slotAddr f n + i⟩
  | _ => bankPlaces h f n

/-- The places that a byte comes from: of a surface's byte, its bank sector or, where the view decodes an encoding, every sector
of the block, its CONST or its spill slot; any other byte is where it is. -/
def sourcePlaces (s : State) (l : Loc) : List Loc :=
  match l.sp with
  | .surf h cv => (match Tab.find s.surfs h with
    | some f =>
      let n := l.addr / f.blk
      match blockState s h n, cv with
      | .resident, _ | .compressed, true => [⟨.surf h false, l.addr⟩]
      | _, _ => blockPlaces s h f n
    | none => [])
  | _ => [l]

/-- A block that is about to be made anew from CONST, its spill slot or an encoding carries their poison, or a check value that
fails there, into its bank (R97 to R99); the eviction engine reads a spill area through the home slices (R20). -/
def carryPoison (h : Nat) (f : Surf) (s : State) (n : Nat) : State :=
  let src := blockPlaces s h f n
  let s := verifyPlaces (fillLines s src) f.ctx src
  let bad := src.any fun l => if l.sp = .log then (badLog s l.addr).isSome else isPoisoned s l
  (bankPlaces h f n).foldl (fun s l => setPoison s l bad) s
/-- Before a write through a view: a block that is stored where it stands keeps its sectors' check values. -/
def carryForm (h : Nat) (f : Surf) (compressed : Bool) (s : State) (n : Nat) : State :=
  match blockState s h n, compressed with
  | .resident, _ | .compressed, true => s
  | _, _ => carryPoison h f s n

/-- One access's bytes at linear offsets, block by block. -/
def writeSurf (s : State) (h : Nat) (compressed : Bool) (ws : List (Nat × BitVec 8)) : State :=
  match Tab.find s.surfs h with
  | some f =>
    let blocks := (ws.map fun w => w.1 / f.blk).eraseDups
    let s := mergePlaces (blocks.foldl (carryForm h f compressed) s) f.ctx (ws.map fun w => ⟨.surf h compressed, w.1⟩)
    blocks.foldl (fun s n =>
      writeBlock s h f compressed n ((ws.filter fun w => w.1 / f.blk == n).map fun w => (w.1 % f.blk, w.2))) s
  | none => s

/-! ### Slots, quota, eviction (R179, R181, R185) -/

def tslotOf (s : State) (h t : Nat) : Option TSlot := s.tslots.find? fun e => e.handle == h && e.tile == t

/-- Columns of a bank: 8 MiB of 64 bytes. -/
abbrev bankCols : Nat := 131072

/-- The lowest aligned free slot of `k` columns in a bank group (log 14). -/
def freeCol (s : State) (stack grp k : Nat) : Option Nat :=
  let used := s.tslots.filter fun e => e.stack == stack && e.group == grp
  let cands := 0 :: used.map fun e => alignUp (e.col + e.k) k
  let ok := cands.filter fun c => decide (c + k ≤ bankCols) && used.all fun e => decide (c + k ≤ e.col) || decide (e.col + e.k ≤ c)
  if ok.isEmpty then none else some (listMin ok)

/-- Surface bytes charged to a context (R181). -/
def charged (s : State) (ctx : Nat) : Nat :=
  s.tslots.foldl (fun a e => match Tab.find s.surfs e.handle with
    | some f => if f.ctx = ctx then a + 512 * e.k else a
    | none => a) 0

def bumpField (t : Tab (BitVec 64)) (st lo : Nat) : Tab (BitVec 64) :=
  let v := Tab.fetch 0 t st
  if bits v.toNat (lo + 15) lo = 65535 then t else Tab.put t st (v + BitVec.ofNat 64 (2 ^ lo))

/-- The stored form of a block whose bank holds an uncorrectable error goes into its spill slot, which is poisoned; the event
is charged to the surface's owner (R185). -/
def spillBad (h : Nat) (f : Surf) (s : State) (n : Nat) (bs : List (BitVec 8)) : State :=
  let s := (bankPlaces h f n).foldl (fun s l => setPoison s l false) (sectorRec s f.ctx 0x0E ⟨.surf h false, f.blk * n⟩)
  let s := poisonPlaces (setLogBytes s f.ctx (slotAddr f n) bs) ((List.range bs.length).map fun i => ⟨.log, slotAddr f n + i⟩)
  setBlockState s h n .spilled

/-- Spill one block of a victim (R185). -/
def spillBlock (h : Nat) (f : Surf) (s : State) (n : Nat) : State :=
  let err := (bankPlaces h f n).any fun l => isPoisoned s l || failsCheck s l
  match blockState s h n with
  | .elided => s
  | .spilled => s
  | .resident =>
    let tex := rawBlock s h f n
    if err then spillBad h f s n (0#8 :: tex)
    else if (List.range 16).all fun k => fieldAt tex (f.b * k) f.b == fieldAt tex 0 f.b then
      setBlockState (setLogBytes s f.ctx (constAddr f n) (tex.take f.b)) h n .elided
    else
      let enc := (encodeBlock f.format tex).getD (0#8 :: tex)
      setBlockState (setLogBytes s f.ctx (slotAddr f n) enc) h n .spilled
  | .compressed =>
    if err then spillBad h f s n (rawBlock s h f n)
    else setBlockState (setLogBytes s f.ctx (slotAddr f n) (rawBlock s h f n)) h n .spilled

/-- RESBYTES after a charge is made or returned (R176, R181). -/
def chargeTile (s : State) (h : Nat) (f : Nat → Nat) : State := { s with surfs := Tab.modify s.surfs h fun x => { x with res := f x.res } }

/-- Evict a tile: spill its blocks, free its slot, return its charge, report RES 0 and keep LAST (R185, R180). -/
def evictTile (s : State) (e : TSlot) : State :=
  match Tab.find s.surfs e.handle with
  | some f =>
    let s := (List.range f.bpt).foldl (fun s i => spillBlock e.handle f s (e.tile * f.bpt + i)) s
    let s := { s with tslots := s.tslots.filter fun x => !(x.handle == e.handle && x.tile == e.tile),
                      tlast := Tab.store 0 s.tlast (skey e.handle e.tile) e.last }
    let s := chargeTile s e.handle (· - 512 * f.k)
    let s := setLogBytes s f.ctx (f.spill + 8 * e.tile) (leBytes 8 (e.last * 2 ^ 32))
    { s with hb := { s.hb with sfStats := bumpField s.hb.sfStats e.stack 16 } }
  | none => s

/-- Whether a group's region buffer holds a store to a tile that has passed its checks. -/
def bufHolds (s : State) (h t : Nat) (g : Group) : Bool :=
  g.buf.any fun o => match o with
    | .bytes ws => ws.any fun w => match w.1.sp, Tab.find s.surfs h with
      | .surf k _, some f => k == h && w.1.addr / f.bt == t
      | _, _ => false
    | _ => false

/-- The depth surface of a ticket's target, if it has one. -/
def ticketDepth (s : State) (k : Ticket) : Option Nat :=
  match s.raster.draws.find? fun d => d.id == k.draw with
  | some d => (match d.targets[k.target]? with
    | some (_, z) => z
    | none => none)
  | none => none

/-- Whether an access to a tile has passed its checks and not completed (R186): an engine command, a fragment held in an
order lock, of its target or its depth surface, a matrix tile's reads, or a store that a region buffers. Other loads,
stores, `sld` and `sst` complete in their own step. -/
def inFlight (s : State) (h t : Nat) : Bool :=
  (s.engCmds.any fun m => m.tiles.contains (h, t))
    || (s.raster.tickets.any fun k => k.arrived && k.tile == t && (k.handle == h || ticketDepth s k == some h))
    || (s.groups.any fun e => bufHolds s h t e.2)
    || (s.mx.any fun e => e.2.tiles.any fun m => m.surfTiles.contains (h, t))

/-- Whether a tile may be evicted (R185, R186); `held` are the tiles of the access that is being made. -/
def evictable (s : State) (held : List (Nat × Nat)) (e : TSlot) : Bool :=
  match Tab.find s.surfs e.handle with
  | some f => !f.pinned && !held.contains (e.handle, e.tile) && !inFlight s e.handle e.tile && s.restoring != some e.handle
  | none => false

def slotLt (a b : TSlot) : Bool :=
  decide (a.last < b.last) || (a.last == b.last && (decide (a.handle < b.handle) || (a.handle == b.handle && decide (a.tile < b.tile))))

def bestSlot : List TSlot → Option TSlot
  | [] => none
  | e :: es => match bestSlot es with
    | some b => if slotLt b e then some b else some e
    | none => some e

/-- The victim for space in a bank group, or for a context's quota. -/
def spaceVictim (s : State) (held : List (Nat × Nat)) (stack grp : Nat) : Option TSlot :=
  bestSlot (s.tslots.filter fun e => e.stack == stack && e.group == grp && evictable s held e)
def quotaVictim (s : State) (held : List (Nat × Nat)) (ctx : Nat) : Option TSlot :=
  bestSlot (s.tslots.filter fun e => evictable s held e && (match Tab.find s.surfs e.handle with
    | some f => f.ctx == ctx
    | none => false))

/-- Make room for `need` further bytes in a context's quota. -/
def fitQuota (held : List (Nat × Nat)) (ctx quota need : Nat) : Nat → State → State × Bool
  | 0, s => (s, decide (charged s ctx + need ≤ quota))
  | fuel + 1, s =>
    if charged s ctx + need ≤ quota then (s, true)
    else match quotaVictim s held ctx with
      | some e => fitQuota held ctx quota need fuel (evictTile s e)
      | none => (s, false)

/-- Obtain a slot in a bank group. -/
def fitSlot (held : List (Nat × Nat)) (stack grp k : Nat) : Nat → State → State × Option Nat
  | 0, s => (s, freeCol s stack grp k)
  | fuel + 1, s => match freeCol s stack grp k with
    | some c => (s, some c)
    | none => match spaceVictim s held stack grp with
      | some e => fitSlot held stack grp k fuel (evictTile s e)
      | none => (s, none)

def nowUs (s : State) : Nat := s.time / 1000 % 2 ^ 32

/-- Give a tile a slot: 0 OK, 1 no slot, 2 no quota (R185, R200). -/
def placeTile (s : State) (h t : Nat) (held : List (Nat × Nat) := []) : State × Nat :=
  match Tab.find s.surfs h with
  | none => (s, 1)
  | some f =>
    if (tslotOf s h t).isSome then (s, 0)
    else
      let quota := match Tab.find s.ctxs f.ctx with
        | some c => c.squota
        | none => 0
      let fuel := s.tslots.length + 1
      match fitQuota held f.ctx quota (512 * f.k) fuel s with
      | (s, false) => (s, 2)
      | (s, true) =>
        let (st, g) := tileHome f t
        match fitSlot held st g f.k fuel s with
        | (s, none) => (s, 1)
        | (s, some c) =>
          let e : TSlot := { handle := h, tile := t, stack := st, group := g, col := c, k := f.k, last := nowUs s }
          (chargeTile { s with tslots := e :: s.tslots, tlast := Tab.del s.tlast (skey h t) } h (· + 512 * f.k), 0)

/-- Restored blocks: MODE 0 to resident, MODE 1 to resident-compressed, elided stays (R187). -/
def restoreBlock (h : Nat) (f : Surf) (s : State) (n : Nat) : State :=
  match blockState s h n with
  | .spilled =>
    let s := carryPoison h f s n
    let (st, bs) := slotForm s f n
    putBlock s h f n st bs
  | _ => s

/-- Restore a tile with RES = 0 (R187): 0 done, else why not. -/
def restoreTile (s : State) (h t : Nat) (held : List (Nat × Nat) := []) : State × Nat :=
  if (tslotOf s h t).isSome then (s, 0)
  else match placeTile s h t held with
    | (s, 0) => match Tab.find s.surfs h with
      | some f =>
        let s := (List.range f.bpt).foldl (fun s i => restoreBlock h f s (t * f.bpt + i)) s
        ({ s with hb := { s.hb with sfStats := bumpField s.hb.sfStats (tileHome f t).1 32 } }, 0)
      | none => (s, 1)
    | r => r

/-- Note an access to a tile: LAST (R180). -/
def touchTile (s : State) (h t : Nat) : State :=
  { s with tslots := s.tslots.map fun e => if e.handle == h && e.tile == t then { e with last := nowUs s } else e }

/-- LAST of a tile without a slot (R180). -/
def noteLast (s : State) (h t : Nat) : State := { s with tlast := Tab.store 0 s.tlast (skey h t) (nowUs s) }

/-- A read's effect on one block's tile (R187): elided blocks are served from CONST; a spilled one is
restored, or served from the spill area. -/
def touchRead (held : List (Nat × Nat)) (h : Nat) (s : State) (n : Nat) : State :=
  match Tab.find s.surfs h with
  | none => s
  | some f =>
    let t := n / f.bpt
    if (tslotOf s h t).isSome then touchTile s h t
    else if blockState s h n = .elided then noteLast s h t
    else match restoreTile s h t held with
      | (s, 0) => s
      | (s, _) => noteLast { s with hb := { s.hb with sfStats := bumpField s.hb.sfStats (tileHome f t).1 0 } } h t

/-- A write's need (R187): every tile restored; `none` when one cannot be, with the evictions made. -/
def touchWrites (held : List (Nat × Nat)) (s : State) (h : Nat) : List Nat → State × Bool
  | [] => (s, true)
  | t :: ts => match restoreTile s h t held with
    | (s, 0) => touchWrites held (touchTile s h t) h ts
    | (s, _) => (s, false)

/-- What the device reports in DIR and BMAP (R180): every tile's entry and every block's state (when: DESIGN CHOICE, log 126). -/
def reportSurf (s : State) (h : Nat) : State :=
  match Tab.find s.surfs h with
  | none => s
  | some f =>
    let dir := (List.range f.nt).flatMap fun t => match tslotOf s h t with
      | some e => leBytes 8 (e.col + 2 ^ 17 + e.last * 2 ^ 32)
      | none => leBytes 8 (Tab.fetch 0 s.tlast (skey h t) * 2 ^ 32)
    let code := fun n => match blockState s h n with
      | .resident => 0 | .compressed => 1 | .spilled => 2 | .elided => 3
    let bmap := (List.range ((f.nb + 3) / 4)).map fun i =>
      BitVec.ofNat 8 ((List.range 4).foldl (fun a j => if 4 * i + j < f.nb then a + code (4 * i + j) * 4 ^ j else a) 0)
    setLogBytes (setLogBytes s f.ctx f.spill dir) f.ctx (f.spill + spillBmap f) bmap

/-! ### Handles (R174) -/

/-- Fields of a surface address. -/
def saHandle (a : Nat) : Nat := bits a 63 50
def saGen (a : Nat) : Nat := bits a 49 44
def saView (a : Nat) : Bool := bit a 43
def saRsv (a : Nat) : Nat := bits a 42 32
def saOff (a : Nat) : Nat := bits a 31 0

/-- Checks 1 and 2 of R174, after the reserved field: the surface, or the class and DETAIL of the failure. -/
def surfCheck (s : State) (ctx : Nat) (a wr seg : Nat) : Except (Nat × Nat) Surf :=
  if saRsv a ≠ 0 then .error (0x08, 1)
  else match Tab.find s.surfs (saHandle a) with
    | some f => if f.gen = saGen a ∧ f.ctx = ctx then .ok f else .error (0x03, wr + 4 * seg)
    | none => .error (0x03, wr + 4 * seg)

/-- Parse a 64-byte template (R176) for a context; `none` when it breaks R176. -/
def parseTemplate (t : List (BitVec 8)) (ctx gen : Nat) : Option Surf :=
  let shape := fieldAt t 0x17 1
  let f : Surf := { spill := fieldAt t 0 8, bmap := 0, xdim := fieldAt t 0x10 2, ydim := fieldAt t 0x12 2, layers := fieldAt t 0x14 2, format := fieldAt t 0x16 1, gran := 8 * 2 ^ (shape % 4), samples := 2 ^ (shape / 4 % 8), gbase := fieldAt t 0x18 1, ropEntry := fieldAt t 0x19 1 % 64, ropLen := fieldAt t 0x1A 1, pinned := fieldAt t 0x1B 1 % 2 == 1, ctx, gen, clear := (t.drop 0x20).take 16, res := 0 }
  let b := f.b
  if f.spill % 65536 = 0 ∧ windowOf f.spill = 0 ∧ f.spill < 2 ^ 43 ∧ fieldAt t 8 8 = 0
    ∧ 1 ≤ f.xdim ∧ f.xdim ≤ 16384 ∧ 1 ≤ f.ydim ∧ f.ydim ≤ 16384 ∧ 1 ≤ f.layers ∧ f.layers ≤ 2048
    ∧ b ≠ 0 ∧ shape / 32 = 0 ∧ shape / 4 % 8 ≤ 4 ∧ f.gbase ≤ 23 ∧ fieldAt t 0x19 1 / 64 = 0
    ∧ f.ropEntry + f.ropLen ≤ 64 ∧ fieldAt t 0x1B 1 ≤ 1 ∧ fieldAt t 0x1C 4 = 0
    ∧ (t.drop (0x20 + b)).take (16 - b) = List.replicate (16 - b) 0 ∧ fieldAt t 0x30 16 = 0 then some { f with bmap := f.spill + spillBmap f }
  else none

/-- Whether the whole spill area lies in the context's pinned near frames (R180, R200). -/
def spillBacked (s : State) (ctx : Nat) (f : Surf) : Bool :=
  (List.range (spillSize f / 65536)).all fun i =>
    let e := hingeOf s (f.spill / 65536 + i)
    hState e == 1 && hTier e == 0 && hCtx e == ctx && windowOf (f.spill + 65536 * i) == 0

/-- Steps 3 and 4 of R200 over the tiles from `t` up: a slot for each. -/
def placeAll (h : Nat) : Nat → Nat → State → State × Nat
  | 0, _, s => (s, 0)
  | n + 1, t, s => match placeTile s h t with
    | (s, 0) => placeAll h n (t + 1) s
    | r => r

/-- What is known of a handle's earlier surface: L1 lines, which an address of another generation does not reach, LAST, and
check values in the banks. -/
def dropHandle (s : State) (h : Nat) : State :=
  let keep := fun (x : Loc) => x.sp != .surf h false
  { s with l1 := s.l1.filter (fun e => !(e.surf && 128 * e.line / 2 ^ 33 == h)), tlast := s.tlast.filter (fun e => e.1 / 2 ^ 32 != h),
           poison := s.poison.filter keep, badCheck := s.badCheck.filter keep }

/-- `salloc` (R200) from a checked template: the state, the status and the surface address. -/
def allocSurf (s : State) (ctx : Nat) (t : List (BitVec 8)) : State × Nat × Nat :=
  match (List.range 16384).find? fun h => (Tab.find s.surfs h).isNone with
  | none => (s, 3, 0)
  | some h =>
    let gen := ((Tab.fetch 0 s.gens h).toNat + 1) % 64
    match parseTemplate t ctx gen with
    | none => (s, 1, 0)
    | some f =>
      let quota := match Tab.find s.ctxs ctx with
        | some c => c.squota
        | none => 0
      let s1 := dropHandle s h
      let s1 := { s1 with surfs := Tab.put s.surfs h f, gens := Tab.put s.gens h (BitVec.ofNat 6 gen), restoring := some h }
      let back := fun (s2 : State) => { s2 with surfs := Tab.del s2.surfs h, restoring := none, tslots := s2.tslots.filter (·.handle ≠ h) }
      match fitQuota [] ctx quota (512 * f.k * f.nt) (s1.tslots.length + 1) s1 with
      | (s2, false) => (back s2, 2, 0)
      | (s2, true) => match placeAll h f.nt 0 s2 with
        | (s3, 0) =>
          let s3 := { s3 with restoring := none,
                              bstate := s3.bstate.filter (fun e => e.1 / 2 ^ 32 ≠ h),
                              sbytes := s3.sbytes.filter (fun e => e.1 / 2 ^ 32 ≠ h) }
          let consts := (List.range f.nb).flatMap fun _ => f.clear.take f.b
          let s3 := setLogBytes s3 ctx (f.spill + spillConst f) consts
          (reportSurf s3 h, 0, h * 2 ^ 50 + gen * 2 ^ 44)
        | (s3, st) => (back s3, st, 0)

/-- `sfree` (R201) once nothing is in flight: slots, charge and entry go; the spill area returns. -/
def freeSurf (s : State) (h : Nat) : State :=
  let s := dropHandle s h
  { s with surfs := Tab.del s.surfs h, tslots := s.tslots.filter (·.handle ≠ h),
           bstate := s.bstate.filter (fun e => e.1 / 2 ^ 32 ≠ h),
           sbytes := s.sbytes.filter (fun e => e.1 / 2 ^ 32 ≠ h) }

/-- `spin.on` (R201): every tile restored, others evicted, then PINNED. -/
def restoreAll (h : Nat) : Nat → Nat → State → State × Nat
  | 0, _, s => (s, 0)
  | n + 1, t, s => match restoreTile s h t with
    | (s, 0) => restoreAll h n (t + 1) s
    | r => r

def pinSurf (s : State) (h : Nat) : State × Nat :=
  match Tab.find s.surfs h with
  | none => (s, 1)
  | some f => match restoreAll h f.nt 0 { s with restoring := some h } with
    | (s, 0) => ({ s with restoring := none, surfs := Tab.modify s.surfs h fun f => { f with pinned := true } }, 0)
    | (s, st) => ({ s with restoring := none }, st)

end Sys2Proof.Machine
end

