-- ==== Sys2Proof/Machine/Translate.lean ====
section
/-! DEFINITION. Translation (R78 to R96, R455): engine caches, hubs, page requests, first touch, and what a
check of one byte's address answers. -/
namespace Sys2Proof.Machine

/-! ### Engines (R80)

Engine codes of the caches: core c is c, copy engine n is 100 + n, traversal unit of cluster c 200 + c,
collective engine q 300 + q, raster front end 400 + stack, matrix engine of cluster c 500 + c, cluster
station 600 + c, queue manager 700, surface controller 800 + stack (log 29). -/

abbrev engQm : Nat := 700

/-- The stack an engine stands in, whose hub its misses reach (R81). -/
def engStack (s : State) (e : Nat) : Nat :=
  if e < 88 then coreStack s e
  else if e < 200 then (e - 100) / 16 % 2
  else if e < 300 then (clusterPlace s (e - 200)).1
  else if e < 400 then (e - 300) / 4 % 2
  else if e < 500 then (e - 400) % 2
  else if e < 600 then (clusterPlace s (e - 500)).1
  else if e < 700 then (clusterPlace s (e - 600)).1
  else if e < 800 then 0
  else e - 800

/-- Entries of an engine's cache (R80). -/
def engCap (e : Nat) : Nat :=
  if e < 88 then 512 else if e < 200 then 128 else if e < 300 then 256 else if e < 500 then 128
  else if e < 700 then 64 else 256

/-- Permissions asked: 1 read, 2 write, 3 both (R82). -/
def permits (r w : Bool) (need : Nat) : Bool := (!bit need 0 || r) && (!bit need 1 || w)

def TEntry.covers (e : TEntry) (va : Nat) : Bool := decide (e.va ≤ va) && decide (va < e.va + e.size)
def HubEntry.covers (e : HubEntry) (va : Nat) : Bool := decide (e.va ≤ va) && decide (va < e.va + e.size)

/-- The engine-cache entry for an address. -/
def tlookup (s : State) (eng ctx va : Nat) : Option TEntry :=
  s.tcache.find? fun e => e.eng == eng && e.ctx == ctx && e.covers va

/-- R78: the device logical address that a translated address names, if it lies in the BAR4 window. -/
def devLogical (s : State) (t : Nat) : Option Nat :=
  if s.hb.bar4 ≤ t ∧ t < s.hb.bar4 + 2 ^ 43 then some (t - s.hb.bar4) else none

/-- The backed-mask bit of the frame that holds a logical address (R80). -/
def TEntry.backedBit (e : TEntry) (s : State) (la : Nat) : Bool :=
  match devLogical s e.t with
  | some base => e.backed.getLsbD (la / 65536 - base / 65536)
  | none => false

/-- What a check of one byte answers. -/
inductive XRes where
  | ok (l : Loc)
  /-- The check waits: on this address's translation or backing (R81, R93). -/
  | miss (va need : Nat)
  /-- A fault that stands, by class (R82, R84, R455). -/
  | fault (cls : Nat)
  /-- A migration lock (R92, R431). -/
  | stall
  /-- No port to the device is up (R456): the entry that names it in the context's peer table; 0 where a station of this device is
  dead (R118). -/
  | lost (peer : Nat)
deriving DecidableEq, Repr

/-- R93, R84, R92: the backing part of a check on a device logical address. -/
def frameCheck (s : State) (e : TEntry) (la va need : Nat) : XRes :=
  let h := hingeOf s (la / 65536)
  if 5 ≤ windowOf la then .fault 0x02
  else if hState h = 0 then (if windowOf la = 4 then .miss va need else .fault 0x02)
  else if hState h = 2 then .stall
  else if e.backedBit s la then .ok ⟨.log, la⟩
  else .miss va need

/-- Bytes of a context's peer table entry k, through the accessing engine's cache; `none`: not cached. -/
def peerEntryByte (s : State) (eng ctx va : Nat) : Option (BitVec 8) :=
  match tlookup s eng ctx va with
  | some e =>
    let t := e.t + (va - e.va)
    match devLogical s t with
    | some la => some (logByte s la)
    | none => some (hostByte s t)
  | none => none

/-- A peer-table entry: PBASE, DEVID, RCTX, VALID. -/
structure PeerEntry where
  base : Nat
  dev : Nat
  rctx : Nat
  valid : Bool
deriving DecidableEq, Repr

def peerEntry (s : State) (eng ctx tab k : Nat) : Option PeerEntry :=
  let bs := (List.range 16).map fun i => peerEntryByte s eng ctx (tab + 16 * k + i)
  if bs.all Option.isSome then
    let b := bs.map fun o => o.getD 0
    some { base := fieldAt b 0 8, dev := fieldAt b 8 2, rctx := fieldAt b 10 2 % 4096, valid := fieldAt b 12 1 % 2 == 1 }
  else none

/-- Whether an up port leads to a device (R456); the port stands on the I/O station of its quadrant (R10). -/
def portUp (s : State) (dev : Nat) : Bool :=
  (List.range 12).any fun p =>
    let v := (Tab.fetch 0 s.hb.ports p).toNat
    bit v 63 && bits v 47 32 == dev && !deadStation s (peerStation p)

/-- R455: the first valid entry whose 8 TiB range holds the address; `none` when the table is not yet cached. -/
def peerScan (s : State) (eng ctx tab t : Nat) : Nat → Option (Option (Nat × PeerEntry))
  | 0 => some none
  | n + 1 =>
    match peerEntry s eng ctx tab (255 - n) with
    | none => none
    | some p =>
      if p.valid && decide (p.base ≤ t) && decide (t < p.base + 2 ^ 43) then some (some (255 - n, p))
      else peerScan s eng ctx tab t n

/-- R455: the first valid entry that names a device and a context there, 0 for none; `none` when the table is not yet cached. -/
def peerNamed (s : State) (eng ctx tab dev rctx : Nat) : Nat → Option Nat
  | 0 => some 0
  | n + 1 =>
    match peerEntry s eng ctx tab (255 - n) with
    | none => none
    | some p => if p.valid && p.dev == dev && p.rctx == rctx then some (255 - n) else peerNamed s eng ctx tab dev rctx n

/-- Where a translated address lies outside the BAR4 window: a peer, or host memory (R78, R455). -/
def outsideCheck (s : State) (eng ctx t : Nat) : XRes :=
  match Tab.find s.ctxs ctx with
  | none => .ok ⟨.host, t⟩
  | some c =>
    if c.peerTab = 0 then .ok ⟨.host, t⟩
    else if (s.xfaults.any fun f => f.eng == eng && f.ctx == ctx && (f.va == c.peerTab / 4096 || f.va == (c.peerTab + 4095) / 4096)) then .ok ⟨.host, t⟩
    else match peerScan s eng ctx c.peerTab t 255 with
      | none => .miss (if (tlookup s eng ctx c.peerTab).isNone then c.peerTab else c.peerTab + 4095) 1
      | some none => .ok ⟨.host, t⟩
      | some (some (k, p)) =>
        if !Config.peerAdmits p.dev p.rctx ctx then .fault 0x03
        else if !portUp s p.dev then .lost k
        else .ok ⟨.peer p.dev p.rctx, t - p.base⟩

/-- R96 for one byte at a virtual address: `key` names the requester (a group, or an engine's command). A unit whose own
station is dead loses the request (R118). -/
def xlate (s : State) (eng ctx key va need : Nat) : XRes :=
  if deadStation s (unitSource s eng / 512) then .lost 0
  else match s.xfaults.find? fun f => f.eng == eng && f.ctx == ctx && f.key == key && f.va == va / 4096 with
  | some f => .fault f.cls
  | none =>
    match tlookup s eng ctx va with
    | none => .miss va need
    | some e =>
      if !permits e.r e.w need then .miss va need
      else
        let t := e.t + (va - e.va)
        match devLogical s t with
        | some la => frameCheck s e la va need
        | none => outsideCheck s eng ctx t

/-- Forget what stood against a requester, once its word or command has gone on. -/
def clearXfaults (s : State) (eng key : Nat) : State :=
  { s with xfaults := s.xfaults.filter fun f => !(f.eng == eng && f.key == key) }

/-! ### Filling the caches -/

/-- Insert an entry, the oldest leaving when the cache is full. -/
def tinsert (s : State) (e : TEntry) : State :=
  let same := s.tcache.filter fun x => x.eng == e.eng && !(x.ctx == e.ctx && x.va == e.va && x.size == e.size)
  let rest := s.tcache.filter fun x => x.eng != e.eng
  { s with tcache := e :: same.take (engCap e.eng - 1) ++ rest }

/-- The engine's piece of a hub entry: the page, or 2 MiB of a larger one (R80), with the backed mask of its
frames. -/
def enginePiece (s : State) (eng ctx : Nat) (h : HubEntry) (va : Nat) : TEntry :=
  let size := min h.size (2 ^ 21)
  let base := va / size * size
  let t := h.t + (base - h.va)
  let mask : BitVec 32 := match devLogical s t with
    | some la => BitVec.ofNat 32 ((List.range 32).foldl (fun a i =>
        if 65536 * i < size + la % 65536 ∧ hState (hingeOf s (la / 65536 + i)) ≠ 0 then a + 2 ^ i else a) 0)
    | none => 0
  { eng, ctx, va := base, size, t, r := h.r, w := h.w, backed := mask }

/-- Set the backed-mask bit of one frame in an engine's entries (R93). -/
def setBacked (s : State) (eng ctx la : Nat) : State :=
  { s with tcache := s.tcache.map fun e =>
      if e.eng == eng && e.ctx == ctx then
        match devLogical s e.t with
        | some base =>
          if base / 65536 ≤ la / 65536 ∧ la < base + e.size then
            { e with backed := e.backed ||| (1#32 <<< (la / 65536 - base / 65536)) } else e
        | none => e
      else e }

/-- Drop engine-cache entries that cover a frame (RELEASE, SETAFF). -/
def dropFrameEntries (s : State) (lo n : Nat) : State :=
  { s with tcache := s.tcache.filter fun e => match devLogical s e.t with
      | some base => !(decide (base < lo + n) && decide (lo < base + e.size))
      | none => true }

/-! ### First touch (R93 to R95) -/

/-- Physical frame marks of the in-use bitmap (R86): 2·PFN + tier. -/
def useMark (pfn tier : Nat) : Nat := 2 * pfn + tier

/-- Clear a physical near frame to zeros, every sector with a valid check value (R93). -/
def zeroNear (s : State) (pfn : Nat) : State :=
  let s := cleanFrame s 0 pfn
  { s with near := s.near.filter fun c => !(c.1 / 65536 == pfn) }

/-- XL_TIER_CTL.LOWW, and the POOLEV bit when FTPOOL falls below it (R91). -/
def loww (h : Hub) : Nat := bits h.tier.toNat 15 4

/-- The key of an incoming peer request's check in the queue manager's cache (R455). -/
abbrev peerReqKey : Nat := 2
/-- A word of the MSI-X table (R448); PCIe's vector control, [32] of an entry's second word, masks the vector and is 1 after reset
(PRESUMED, log 95). -/
def msixWord (h : HostRegs) (i : Nat) : BitVec 64 := Tab.fetch (if i % 2 = 1 then 2 ^ 32 else 0) h.msixTab i
def vecMasked (h : HostRegs) (v : Nat) : Bool := (msixWord h (2 * v + 1)).getLsbD 32
/-- A vector is signalled; of one that is masked the pending bit is set (R448, R450). -/
def signal (s : State) (v : Nat) : State :=
  { s with hb :=
      if vecMasked s.hb v then { s.hb with msixPend := Tab.store 0 s.hb.msixPend (v / 64) (Tab.fetch 0 s.hb.msixPend (v / 64) ||| BitVec.ofNat 64 (2 ^ (v % 64))) }
      else { s.hb with signals := v :: s.hb.signals } }
/-- A write of the MSI-X table: a pending vector that is no longer masked is signalled. -/
def writeMsix (s : State) (i : Nat) (w : BitVec 64) : State :=
  let s : State := { s with hb := { s.hb with msixTab := Tab.put s.hb.msixTab i w } }
  let v := i / 2
  if i % 2 = 1 ∧ !vecMasked s.hb v ∧ (Tab.fetch 0 s.hb.msixPend (v / 64)).getLsbD (v % 64) then
    signal { s with hb := { s.hb with msixPend := Tab.store 0 s.hb.msixPend (v / 64) (Tab.fetch 0 s.hb.msixPend (v / 64) &&& ~~~(BitVec.ofNat 64 (2 ^ (v % 64)))) } } v
  else s

/-- After a frame has left a pool: POOLEV is set and signalled when the pool falls below LOWW. -/
def poolFell (s : State) (st : Nat) : State :=
  let h := hubOf s st
  if h.pool.length + 1 = loww h then
    signal (setHub s st { h with tier := h.tier ||| 1 }) (2 + st)
  else s

/-- R93: the first-touch unit of the frame's home hub installs a pool frame owned by the context, the one that has been
in the pool longest (DESIGN CHOICE, log 104: the spec does not say which); `none` when FTPOOL is 0. -/
def firstTouch (s : State) (ctx la : Nat) : Option State :=
  let f := la / 65536
  let st := f % 2
  let h := hubOf s st
  match h.pool with
  | [] => none
  | p :: ps =>
    let s := setHub s st { h with pool := ps }
    some (poolFell { s with hinge := Tab.put s.hinge f (hMake 1 0 true ctx p) } st)

end Sys2Proof.Machine
end

