-- ==== Sys2Proof/Machine/CoreMem.lean ====
section
/-! DEFINITION. Bytes as a core reaches them: home bytes (R369), L1 (R204, R205), stores, atomics and their
requests at the home slices (R115, R223 to R232), release and acquire (R234), and the region store buffer
(R218 to R221). -/
namespace Sys2Proof.Machine

/-! ### Home bytes -/

/-- A byte at its home (R369). -/
def homeByte (s : State) (l : Loc) : BitVec 8 :=
  match l.sp with
  | .log => logByte s l.addr
  | .host => hostByte s l.addr
  | .peer dev _ => hostByte s (2 ^ 64 + peerKey dev l.addr)
  | .core c => Tab.fetch 0 s.scratch (2 ^ 19 * c + l.addr)
  | .mb key => match Tab.find s.groups key with
    | some g => Tab.fetch 0 g.mb l.addr
    | none => 0
  | .surf h cv => surfByte s h cv l.addr
  | .frame t => Memory.read (if t = 0 then s.near else s.far) l.addr

/-- Write one byte at its home, charged to a context (R205). -/
def putHome (s : State) (ctx : Nat) (l : Loc) (b : BitVec 8) : State :=
  match l.sp with
  | .log => setLogByte s ctx l.addr b
  | .host => setHostByte s l.addr b
  | .peer dev _ => setHostByte s (2 ^ 64 + peerKey dev l.addr) b
  | .core c => { s with scratch := Tab.store 0 s.scratch (2 ^ 19 * c + l.addr) b }
  | .mb key => updG s key fun g => { g with mb := Tab.store 0 g.mb l.addr b }
  | .surf h cv => writeSurf s h cv [(l.addr, b)]
  | .frame t => if t = 0 then { s with near := Memory.write s.near l.addr b } else { s with far := Memory.write s.far l.addr b }

def Loc.plus (l : Loc) (n : Nat) : Loc := { l with addr := l.addr + n }
/-- `n` consecutive places. -/
def Loc.span (l : Loc) (n : Nat) : List Loc := (List.range n).map l.plus
/-- A number of `n` bytes at its home, and its write. -/
def homeNat (s : State) (l : Loc) (n : Nat) : Nat := leNat ((l.span n).map (homeByte s))
def putHomeNat (s : State) (ctx : Nat) (l : Loc) : Nat → Nat → State
  | 0, _ => s
  | n + 1, v => putHomeNat (putHome s ctx l (BitVec.ofNat 8 v)) ctx (l.plus 1) n (v / 256)

/-- The poisoned or unreachable sector that holds a byte, if it is one (R438, R118), by the address of R438's record; a
surface's byte comes from the sectors that its block is made from (R182, R187). -/
def badSector (s : State) (l : Loc) : Option Nat :=
  match l.sp with
  | .log => badLog s l.addr
  | .host => if cutOff s l then some (sectorAddr s l) else none
  | .surf _ _ => (sourcePlaces s l).findSome? fun x => match x.sp with
    | .log => badLog s x.addr
    | _ => if isPoisoned s x then some (sectorAddr s x) else none
  | _ => if isPoisoned s l then some (l.addr / 64 * 64) else none

/-- One place of each sector among places. -/
def sectorHeads : List Loc → List Loc
  | [] => []
  | l :: ls => l :: (sectorHeads ls).filter fun x => !(x.sp == l.sp && x.addr / 64 == l.addr / 64)
/-- One place of each sector that the bytes of places come from. -/
def sectorSources (s : State) (ls : List Loc) : List Loc := sectorHeads ((sectorHeads ls).flatMap (sourcePlaces s))

/-- Bytes among places read that come from a poisoned or unreachable sector, or from one whose check value fails (R99, R438). -/
def poisonedAt (s : State) (ls : List Loc) : List Nat :=
  (List.range ls.length).filter fun i => match ls[i]? with
    | some l => (badSector s l).isSome || (sourcePlaces s l).any (failsCheck s)
    | none => false

/-- A sector that is read: one whose check value fails is an integrity fault, and has the poison marker from then on; a poisoned
or unreachable one is an uncorrectable-memory event; both are charged to the data's owner, else to the reader (R99, R100,
R128, R438). -/
def meetSector (ctx : Nat) (s : State) (l : Loc) : State :=
  if failsCheck s l then sectorRec (poisonPlaces s [l]) ctx 0x0D l
  else if (badSector s l).isSome then sectorRec s ctx 0x0E l else s
def chargeBad (s : State) (ctx : Nat) (ls : List Loc) : State := (sectorSources s ls).foldl (meetSector ctx) s

/-! ### Exact-sum cells (R229 to R233) -/

/-- Fabric address of an element and whether it lies outside device logical space. -/
def fabricOf (l : Loc) : Bool × Nat :=
  match l.sp with
  | .host => (true, l.addr)
  | .peer dev _ => (true, 2 ^ 64 + peerKey dev l.addr)
  | _ => (false, l.addr)

def locSlice (s : State) (l : Loc) : Nat :=
  match l.sp with
  | .log => homeSlice s l.addr
  | _ => hostSlice l.addr

/-- Element bytes of an ordered-add format. -/
def ordBytes (fmt : Nat) : Nat := if fmt = tF32 then 4 else 2

/-- An exact contribution added to a cell (R229). -/
def cellAdd (c : Cell) (v : XV) : Cell :=
  match v with
  | .nan _ => { c with nan := true }
  | .inf neg => if neg then { c with ninf := true } else { c with pinf := true }
  | .fin neg n _ e => { c with sum := c.sum + (if neg then -1 else 1) * ((n <<< (e + 149).toNat : Nat) : Int) }

/-- The least recently touched cell of a list. -/
def oldestCell : List Cell → Option Cell
  | [] => none
  | c :: cs => match oldestCell cs with
    | some d => if d.touched < c.touched then some d else some c
    | none => some c

/-- Slots for parked cells of one slice: 819 per frame, divided among 64 slices (R233). -/
def parkRoom (s : State) (slice : Nat) : Nat :=
  min 16384 (819 * bits (Tab.fetch 0 s.hb.cellArea (slice / 64)).toNat 15 0 / 64)

def bumpRetired (s : State) (st : Nat) : State :=
  let v := Tab.fetch 0 s.hb.cellRetired st
  if v = BitVec.allOnes 32 then s else { s with hb := { s.hb with cellRetired := Tab.store 0 s.hb.cellRetired st (v + 1) } }

/-- A cell's 640 bits (R229). -/
def cellImage (c : Cell) : Nat :=
  c.creator % 4096 * 2 ^ 628 + (if c.ninf then 2 ^ 626 else 0) + (if c.pinf then 2 ^ 625 else 0) + (if c.nan then 2 ^ 624 else 0)
    + (BitVec.ofInt 624 c.sum).toNat

/-- Device logical address of a slot of a slice's share of the cell area (R233). -/
def slotPlace (s : State) (slice k : Nat) : Nat :=
  let n := slice % 64 * parkRoom s slice + k
  bits (Tab.fetch 0 s.hb.cellArea (slice / 64)).toNat 63 16 * 65536 + n / 819 * 65536 + n % 819 * 80

/-- Park a cell: the first free slot of its slice's share holds its 80 bytes (R232, R233), written through the home slices
of the area's lines (R20). -/
def parkCell (s : State) (c : Cell) : State :=
  let taken := (s.cells.filter fun d => d.slice == c.slice && d.parked).map (·.pslot)
  let k := ((List.range (parkRoom s c.slice)).find? fun i => !taken.contains i).getD 0
  let s : State := { s with cells := s.cells.map fun d => if d = c then { d with parked := true, pslot := k } else d }
  setLogBytes s c.creator (slotPlace s c.slice k) (leBytes 80 (cellImage c))

/-- A cell with the value that an image of it holds. -/
def cellFrom (c : Cell) (n : Nat) : Cell :=
  { c with ninf := bit n 626, pinf := bit n 625, nan := bit n 624, creator := bits n 639 628, sum := (BitVec.ofNat 624 n).toInt }

/-- Sectors that are read at their homes: their slices fill the lines (R85), and they are verified (R99). -/
def verifyLines (s : State) (ctx : Nat) (ls : List Loc) : State :=
  let src := sectorSources s ls
  chargeBad (fillLines s src) ctx src

/-- The value of a parked cell, read back through the home slices (R20). -/
def parkedValue (s : State) (c : Cell) : State × Cell :=
  let a := slotPlace s c.slice c.pslot
  let ls := (List.range 80).map fun i => (⟨.log, a + i⟩ : Loc)
  let s := verifyLines s c.creator ls
  (s, { cellFrom c (leNat (logBytes s a 80)) with bad := c.bad || !(poisonedAt s ls).isEmpty })

/-- The least recently touched parked cell of a slice is retired and counted (R232). -/
def retireParked (s : State) (slice : Nat) : State :=
  match oldestCell (s.cells.filter fun d => d.slice == slice && d.parked) with
  | some d =>
    let (s, v) := parkedValue s d
    let s : State := { s with cells := s.cells.filter (· ≠ d) }
    bumpRetired (roundCell s v) (slice / 64)
  | none => s

/-- R232: make room for one more active cell in a slice: park the least recently touched, or retire for want
of parking room. -/
def cellRoom (s : State) (slice : Nat) : State :=
  let act := s.cells.filter fun c => c.slice == slice && !c.parked
  if act.length < 4096 then s
  else match oldestCell act with
    | none => s
    | some c =>
      if parkRoom s slice = 0 then bumpRetired (retireCell s c) (slice / 64)
      else
        let parked := s.cells.filter fun d => d.slice == slice && d.parked
        parkCell (if parked.length < parkRoom s slice then s else retireParked s slice) c

/-- A cell is touched, and brought back into its slice exactly if it was parked: it leaves its parking slot first, and
another cell parks if need be (R232). -/
def touchCell (s : State) (c : Cell) : State × Cell :=
  let (s, t) := newId s
  if c.parked then
    let (s, v) := parkedValue s c
    let v := { v with parked := false, touched := t }
    let s := cellRoom { s with cells := s.cells.filter (· ≠ c) } c.slice
    ({ s with cells := v :: s.cells }, v)
  else
    let v := { c with touched := t }
    ({ s with cells := s.cells.map fun d => if d = c then v else d }, v)

/-- R231: a read at the home slice of bytes that cells cover writes their rounded values into the line; the cells stay,
touched and brought back. -/
def readCells (s : State) (host : Bool) (a n : Nat) : State :=
  (s.cells.filter fun c => c.host == host && decide (c.addr < a + n) && decide (a < c.addr + cellBytes c)).foldl (fun s c =>
    if s.cells.contains c then
      let (s, v) := touchCell s c
      roundCell s v
    else s) s

/-- The same for places that an engine or a load reads at their homes, by their lines. -/
def readCellsAt (s : State) (ls : List Loc) : State :=
  if s.cells.isEmpty then s
  else ls.foldl (fun s l => match l.sp with
    | .log | .host | .peer _ _ => readCells s (fabricOf l).1 (fabricOf l).2 1
    | _ => s) s

/-- READING AT THE HOMES, once for every unit: the slices fill their lines (R85), the sectors are verified and the bad ones
recorded (R99, R128), cells round into their lines (R231). -/
def touchPlaces (s : State) (ctx : Nat) (ls : List Loc) : State := readCellsAt (verifyLines s ctx ls) (ls ++ sectorSources s ls)

/-- A contribution applied at the element's home slice (R229, R230). -/
def contribute (s : State) (ctx : Nat) (l : Loc) (fmt : Nat) (v : BitVec 32) : State :=
  let (ho, a) := fabricOf l
  let z := ordBytes fmt
  let other := s.cells.filter fun c => c.host == ho && decide (c.addr < a + z) && decide (a < c.addr + cellBytes c) && !(c.addr == a && c.fmt == fmt)
  let s := other.foldl retireCell s
  let x := unpack (fmtOf fmt) (v.toNat % 2 ^ (8 * z))
  match s.cells.find? fun c => c.host == ho && c.addr == a && c.fmt == fmt with
  | some c =>
    let (s, c) := touchCell s c
    { s with cells := s.cells.map fun d => if d = c then cellAdd c x else d }
  | none =>
    let slice := locSlice s l
    let s := verifyLines (cellRoom s slice) ctx (l.span z)
    let (s, t) := newId s
    let old := unpack (fmtOf fmt) (homeNat s l z)
    let c : Cell := { addr := a, host := ho, fmt, creator := ctx, ninf := false, pinf := false, nan := false, sum := 0,
                      parked := false, pslot := 0, touched := t, slice, bad := !(poisonedAt s (l.span z)).isEmpty }
    { s with cells := cellAdd (cellAdd c old) x :: s.cells }

/-! ### Atomic steps (R223, R228) -/

/-- The new value of an atomic's element. -/
def atomNew (a : AtomReq) (old : Nat) : Nat :=
  let w := 8 * a.z
  let x := a.x.toNat % 2 ^ w
  let less := if tSigned a.ty then decide (toS w old < toS w x) else decide (old < x)
  if a.fop then
    let f := fmtOf a.ty
    match a.op with
    | 1 => (roundTo f a.rnd a.sat none (xadd (a.rnd == 3) (unpack f old) (unpack f x))).bits
    | 2 => (fminmax f false old x).bits
    | _ => (fminmax f true old x).bits
  else match a.op with
    | 0 => (old + x) % 2 ^ w
    | 1 => if less then old else x
    | 2 => if less then x else old
    | 3 => old &&& x
    | 4 => old ||| x
    | 5 => old ^^^ x
    | 6 => x
    | _ => if old = x then a.y.toNat % 2 ^ w else old

/-- One indivisible step at the home: the state after it and the old value. -/
def applyAtom (s : State) (ctx : Nat) (a : AtomReq) : State × Nat :=
  let s := mergePlaces s ctx (a.loc.span a.z)
  let old := homeNat s a.loc a.z
  (putHomeNat s ctx a.loc a.z (atomNew a old), old)

/-! ### Requests at the home slices (R115, R224) -/

/-- R115: `a` at or below `b` by their difference modulo 2^32 read as signed. -/
def seqLe (a b : Nat) : Bool := decide (toS 32 (a + 2 ^ 32 - b % 2 ^ 32) ≤ 0)

/-- A pending result receives a value. -/
def setPending (s : State) (key pid : Nat) (f : Pending → Pending) : State :=
  updG s key fun g => { g with pending := g.pending.map fun p => if p.id == pid then f p else p }

/-- Where a request acts. -/
def SReq.place (r : SReq) : Option Loc :=
  match r.kind with
  | .atom a => some a.loc
  | .ord l _ _ => some l
  | .queue _ => none

/-- Of two bad sectors the one of the lower lane (R425). -/
def lowerLane : Option (Nat × Nat) → Option (Nat × Nat) → Option (Nat × Nat)
  | some a, some b => if b.2 < a.2 then some b else some a
  | none, b => b
  | a, none => a

/-- The returned value reaches its lanes; the last of a word's values makes its result ready. -/
def answer (s : State) (r : SReq) (v : Nat) : State :=
  match r.ret with
  | none => s
  | some (pid, keys) =>
    let es := (List.range keys.length).map fun i => (keys.getD i 0, BitVec.ofNat 32 (v / 2 ^ (32 * i)))
    let last := !(s.sreqs.any fun x => x.key == r.key && (match x.ret with
      | some (p, _) => p == pid
      | none => false))
    let bad := match r.place with
      | some l => (badSector s l).map fun x => (x, r.lane)
      | none => none
    let s := setPending s r.key pid fun p =>
      { p with elems := p.elems ++ es, ready := p.ready || last, poison := lowerLane p.poison bad }
    if last then later s (.longLatencyCompletion r.key pid) else s

/-- Whether a slice's mark makes a request a retry (R115). -/
def seenSeq (s : State) (slice dev src seq : Nat) : Bool :=
  s.marks.any fun m => m.slice == slice && m.dev == dev && m.src == src && seqLe seq m.seq
def isRetry (s : State) (r : SReq) (slice : Nat) : Bool := seenSeq s slice r.dev r.src r.seq


/-- Room for a returned value: 16,384 entries of the window, 64 unacknowledged from one source at one slice. -/
def windowHas (s : State) (slice dev src : Nat) : Bool :=
  decide ((s.respWin.filter fun w => w.slice == slice).length < 16384)
    && decide ((s.respWin.filter fun w => w.slice == slice && w.dev == dev && w.src == src).length < 64)
def windowRoom (s : State) (r : SReq) (slice : Nat) : Bool := r.ret.isNone || windowHas s slice r.dev r.src

/-- Room for a mark: a source's own entry, a free one of 4,096, or one that may be replaced; none, the request waits. -/
def markRoom (s : State) (slice dev src : Nat) : Option State :=
  let here := s.marks.filter fun m => m.slice == slice
  if (here.any fun m => m.dev == dev && m.src == src) ∨ here.length < 4096 then some s
  else match here.find? fun m => decide (m.time + 1000000 ≤ s.time) && !(s.respWin.any fun w => w.slice == slice && w.dev == m.dev && w.src == m.src) with
    | some m => some { s with marks := s.marks.erase m }
    | none => none

/-- A slice's mark for a source stands at a sequence number. -/
def putMark (s : State) (slice dev src seq : Nat) : State :=
  match markRoom s slice dev src with
  | some t => { t with marks := { slice, dev, src, seq, time := t.time } ::
      (t.marks.filter fun m => !(m.slice == slice && m.dev == dev && m.src == src)) }
  | none => s
/-- The slice's mark moves to the request; never back, for a queue operation that waited (R172). -/
def markReq (s : State) (r : SReq) (slice : Nat) : State := if isRetry s r slice then s else putMark s slice r.dev r.src r.seq

/-- A returned value enters the slice's response window; its release is on the way. -/
def windowPut (s : State) (slice dev src seq v : Nat) : State :=
  later { s with respWin := { slice, dev, src, seq, val := v } :: s.respWin } (.atomicResponseRelease src seq)
def windowReq (s : State) (r : SReq) (slice v : Nat) : State := windowPut s slice r.dev r.src r.seq v

/-- The step of a request itself, its mark and, for a returned value, its window entry. -/
def performReq (s : State) (r : SReq) (l : Loc) (slice : Nat) : State :=
  let s := markReq s r slice
  match r.kind with
  | .atom a =>
    let (s, old) := applyAtom (readCells (fillLines s [l]) (fabricOf l).1 (fabricOf l).2 a.z) r.ctx a
    if r.ret.isSome then windowReq (answer s r old) r slice old else s
  | .ord l fmt v => contribute s r.ctx l fmt v
  | .queue _ => s

/-- The slice that a request goes to. -/
def SReq.slice (s : State) (r : SReq) : Nat :=
  match r.kind with
  | .atom a => locSlice s a.loc
  | .ord l _ _ => locSlice s l
  | .queue o => locSlice s o.desc

/-- What a request that waits for its value receives from a line that is cut off (R118, R438). -/
def answerBad (s : State) (r : SReq) (l : Loc) : State :=
  match r.ret with
  | none => chargeCut s r.ctx [l]
  | some _ => answer s r 0

/-- One request applied at its home slice: a retry takes the recorded value (R115); an access to a line that is cut off is an
uncorrectable-memory event (R118). -/
def applyOne (s : State) (r : SReq) : State :=
  let s := dropFrames { s with sreqs := s.sreqs.filter fun x => x.id != r.id } r.id
  match r.place with
  | none => s
  | some l =>
    let slice := locSlice s l
    if cutOff s l then answerBad s r l
    else if isRetry s r slice then
      match s.respWin.find? fun w => w.slice == slice && w.dev == r.dev && w.src == r.src && w.seq == r.seq with
      | some w => answer s r w.val
      | none => s
    else performReq s r l slice

/-- Requests of the same source to the same slice that come before one, in sequence order (R115). -/
def aheadOf (s : State) (r : SReq) : List SReq :=
  (s.sreqs.takeWhile fun x => x.id != r.id).filter fun x => x.src == r.src && x.dev == r.dev && x.place.isSome && x.slice s == r.slice s

/-- A source's older returned values have arrived and are released, the oldest first, until a request has room (R115). -/
def freeWindow (s : State) (r : SReq) (slice : Nat) : State :=
  if windowRoom s r slice then s
  else
    let mine := s.respWin.filter fun w => w.slice == slice && w.dev == r.dev && w.src == r.src
    match (if mine.isEmpty then s.respWin.filter fun w => w.slice == slice else mine).getLast? with
    | some w => { s with respWin := s.respWin.erase w }
    | none => s

/-- A request applied behind those of its source that come first, each once it has room. -/
def applyReq (s : State) (r : SReq) : State :=
  if s.sreqs.any fun x => x.id == r.id then
    (aheadOf s r ++ [r]).foldl (fun s x => applyOne (freeWindow s x (x.slice s)) x) s
  else s

/-- The next sequence number of a source (R115). -/
def nextSeq (s : State) (src : Nat) : Nat := (Tab.fetch 0 s.seqs src + 1) % 2 ^ 32

/-- Requests that hold a slice's entries, and whether its 64 are taken (R110). -/
def sliceHeld (s : State) (slice : Nat) : Nat := (s.sreqs.filter fun r => r.here && r.slice s == slice).length
def sliceFull (s : State) (slice : Nat) : Bool := fqFull s (1000 + slice) 64 (sliceHeld s slice)

/-- A queue operation has come to its slice: the slice's mark (R115); what it waits for there is R172's. -/
def arriveQueue (s : State) (r : SReq) : State :=
  let s := fqTake s (1000 + r.slice s) 64 (sliceHeld s (r.slice s))
  let s := markReq (dropFrames { s with sreqs := s.sreqs.map fun x => if x.id == r.id then { x with here := true } else x } r.id) r (r.slice s)
  later s (.sliceQueueOperation r.id)

/-- A source's next number is taken. -/
def takeSeq (s : State) (src : Nat) : State × Nat := ({ s with seqs := Tab.put s.seqs src (nextSeq s src) }, nextSeq s src)

/-- A load or a store of a source reaches a slice at once: it takes the source's next sequence number, and the earlier requests
of its station to that slice station have been delivered before it (R108); a store is the slice's mark for its source
(R115). -/
def countReq (s : State) (src slice : Nat) (store : Bool) : State :=
  let s := (s.sreqs.filter fun x => x.src / 512 == src / 512 && (x.place.isSome || (!x.here && !x.waiting)) && sliceStation (x.slice s) == sliceStation slice).foldl
    (fun s x => if x.place.isSome then applyReq s x else arriveQueue s x) s
  let (s, q) := takeSeq s src
  if store then putMark s slice (s.hb.hbId.toNat % 65536) src q else s

/-- Places outside the memories of a core and the surface banks. -/
def isRemote (l : Loc) : Bool :=
  match l.sp with
  | .log | .host | .peer _ _ => true
  | _ => false
/-- The lines of places that requests go to: one for each line (R101). -/
def reqLines (ls : List Loc) : List Loc := ((ls.filter isRemote).map fun l => ({ l with addr := l.addr / 128 * 128 } : Loc)).eraseDups
/-- The requests of a unit for the lines of places, with their sequence numbers (R115); a peer keeps its own marks. -/
def countLines (s : State) (src : Nat) (store : Bool) (ls : List Loc) : State :=
  (reqLines ls).foldl (fun s l => match l.sp with
    | .peer _ _ => (takeSeq s src).1
    | _ => countReq s src (locSlice s l) store) s

/-- Whether back-pressure holds a request of a source for a line (R110, R111): its slice has no entry, or a buffer on its way
has no room. A slice that is dead holds nothing: the access is R118's. -/
def reqHeld (s : State) (src : Nat) (l : Loc) : Bool :=
  let n := locSlice s l
  let dst := sliceStation n
  !(s.sreqs.isEmpty && s.frames.isEmpty) && !deadStation s dst
    && (sliceFull s n || (route s .request (src / 512) dst).any fun g => !bufferRoom s (legBuffer s .request g) .request)
/-- Whether one holds any of the requests for the lines of places. -/
def linesHeld (s : State) (src : Nat) (ls : List Loc) : Bool :=
  !(s.sreqs.isEmpty && s.frames.isEmpty) && (reqLines ls).any fun l => (l.sp == .log || l.sp == .host) && reqHeld s src l

/-- The station that a request's frame goes to: its slice's, or the I/O station of a port to the peer that holds its
place. -/
def SReq.station (s : State) (r : SReq) : Nat :=
  match r.place.map Loc.sp with
  | some (Space.peer dev _) => (match (List.range 12).find? fun p =>
      let v := (Tab.fetch 0 s.hb.ports p).toNat
      bit v 63 && bits v 47 32 == dev && !deadStation s (peerStation p) with
    | some p => peerStation p
    | none => ioStation 0)
  | _ => sliceStation (r.slice s)

/-- A new request of a core, with the next sequence number of its source (R104, R115), in a frame of one flit; a source's first
number is 1 (DESIGN CHOICE, log 110: R115 does not state it). -/
def sendReq (s : State) (key core ctx lane : Nat) (kind : SReqKind) (ret : Option (Nat × List Nat)) : State :=
  let src := coreSource s core
  let q := nextSeq s src
  let (s, id) := newId s
  let r : SReq := { id, key, core, ctx, dev := s.hb.hbId.toNat % 65536, src, seq := q, lane, kind, ret, here := false, waiting := false }
  let s := sendFrames { s with seqs := Tab.put s.seqs src q, sreqs := s.sreqs ++ [r] } id .request (src / 512) (r.station s) 64
  later s (match kind with
    | .ord .. => .orderedAddContribution id
    | .queue _ => .sliceQueueOperation id
    | .atom _ => .sliceRequest id)

/-! ### L1 (R203 to R205) -/

/-- The L1 line that may hold a byte: surface or not, and its number; `none` where L1 holds nothing of the space. -/
def l1Key (l : Loc) : Option (Bool × Nat) :=
  match l.sp with
  | .log => some (false, l.addr / 128)
  | .surf h cv => some (true, ((2 * h + if cv then 1 else 0) * 2 ^ 32 + l.addr) / 128)
  | _ => none

def L1Line.is (e : L1Line) (core : Nat) (surf : Bool) (line : Nat) : Bool :=
  e.core == core && e.surf == surf && e.line == line
def l1Get (s : State) (core : Nat) (surf : Bool) (line : Nat) : Option L1Line :=
  s.l1.find? fun e => e.is core surf line

/-- The dirty bytes of sector `j` of a line. -/
def L1Line.dirtyIn (e : L1Line) (j : Nat) : BitVec 64 := e.dirty.extractLsb' (64 * j) 64

/-- Send a line's dirty bytes to the home slice, which keeps the line's tag (R204, R205). A sector with an uncorrectable
error is charged to the line's tag and written with the poison marker. -/
def writeBack (s : State) (e : L1Line) : State :=
  if e.dirty = 0 then s
  else
    let s := countReq s (coreSource s e.core) (homeSlice s (128 * e.line)) true
    let s := mergePlaces s e.ctx (((List.range 128).filter fun i => e.dirty.getLsbD i).map fun i => ⟨.log, 128 * e.line + i⟩)
    let s := (List.range 128).foldl (fun s i =>
      if e.dirty.getLsbD i then setLogByte s e.ctx (128 * e.line + i) (lineByte e.data i) else s) s
    ((List.range 2).filter fun j => e.bad.getLsbD j && e.dirtyIn j != 0).foldl (fun s j =>
      let l : Loc := ⟨.log, 128 * e.line + 64 * j⟩
      let r : Rec := { cls := 0x0E, kind := 0, detail := 0, ctx := e.ctx, source := e.core, time := s.time, addr := l.addr, pc := 0, who := 0 }
      chargeRec (poisonPlaces s [l]) e.ctx r) s

/-- The lines that L1 holds and drops with one: an F32x4 surface's block is two lines (R184). -/
def lineMates (s : State) (surf : Bool) (line : Nat) : List Nat :=
  if surf then
    match Tab.find s.surfs (128 * line / 2 ^ 33) with
    | some f => if f.blk = 256 then [line / 2 * 2, line / 2 * 2 + 1] else [line]
    | none => [line]
  else [line]

/-- Drop one line after writing it back. -/
def l1Evict (s : State) (e : L1Line) : State :=
  let s := writeBack s e
  { s with l1 := s.l1.filter fun x => !(lineMates s e.surf e.line).any (x.is e.core e.surf) }

/-- Byte `i` of an L1 line, at its home. -/
def linePlace (surf : Bool) (line i : Nat) : Loc :=
  if surf then
    let n := 128 * line
    ⟨.surf (n / 2 ^ 33) (n / 2 ^ 32 % 2 == 1), n % 2 ^ 32 + i⟩
  else ⟨.log, 128 * line + i⟩

/-- The line's bytes at their home. -/
def homeLine (s : State) (surf : Bool) (line : Nat) : BitVec 1024 :=
  BitVec.ofNat 1024 (leNat ((List.range 128).map fun i => homeByte s (linePlace surf line i)))

/-- Which of the line's sectors are poisoned, or cannot be read, at their home. -/
def homePoison (s : State) (surf : Bool) (line : Nat) : BitVec 2 :=
  BitVec.ofNat 2 ((if (badSector s (linePlace surf line 0)).isSome then 1 else 0) + (if (badSector s (linePlace surf line 64)).isSome then 2 else 0))

/-- Fill a line that is not held, from the sectors that its bytes come from, verified (R97); a full set of twelve ways loses its
oldest line (log 6). The read at the home slice rounds the line's cells into it (R231). -/
def l1Put (s : State) (core ctx : Nat) (surf : Bool) (line : Nat) : State :=
  let set := s.l1.filter fun e => e.core == core && e.line % 256 == line % 256
  let s := if 12 ≤ set.length then (match set.getLast? with
    | some v => l1Evict s v
    | none => s) else s
  let src := sectorSources s [linePlace surf line 0, linePlace surf line 64]
  let s := verifyPlaces (fillLines s src) ctx src
  { s with l1 := { core, line, surf, data := homeLine s surf line, dirty := 0, ctx, poison := homePoison s surf line, bad := 0 } :: s.l1 }

/-- A line that is not held is filled, with the other line of its block. -/
def l1Fill (s : State) (core ctx : Nat) (surf : Bool) (line : Nat) : State :=
  if (l1Get s core surf line).isSome then s
  else
    let s := if surf then s else readCells (fillSlice (countReq s (coreSource s core) (homeSlice s (128 * line)) false) line) false (128 * line) 128
    (lineMates s surf line).foldl (fun s n => l1Put s core ctx surf n) s

/-- Drop, after writing back, the lines of a core that a test picks. -/
def l1Drop (s : State) (core : Nat) (p : L1Line → Bool) : State :=
  let s := (s.l1.filter fun e => e.core == core && p e).foldl writeBack s
  { s with l1 := s.l1.filter fun e => !(e.core == core && p e) }

/-- Write back every dirty byte of a core's L1; the lines stay, clean. -/
def l1Clean (s : State) (core : Nat) : State :=
  let s := (s.l1.filter fun e => e.core == core).foldl writeBack s
  { s with l1 := s.l1.map fun e => if e.core == core then { e with dirty := 0, poison := e.poison ||| e.bad, bad := 0 } else e }

/-- One byte as a load of the core returns it: from L1, filled on a miss, or from its home. -/
def coreLoad (s : State) (core ctx : Nat) (l : Loc) : State × BitVec 8 :=
  match l1Key l with
  | some (surf, line) =>
    let s := l1Fill s core ctx surf line
    match l1Get s core surf line with
    | some e => (s, lineByte e.data (l.addr % 128))
    | none => (s, homeByte s l)
  | none =>
    let s := match l.sp with
      | .peer _ _ => verifyPlaces s ctx [l]
      | _ => s
    let s := readCellsAt s [l]
    (s, homeByte s l)

/-- The poisoned or unreachable sector that a load of the core met at a place (R438), once the line is held. -/
def loadBadAt (s : State) (core : Nat) (l : Loc) : Option Nat :=
  match l1Key l with
  | some (surf, line) => (match l1Get s core surf line with
    | some e => if e.poison.getLsbD (l.addr % 128 / 64) || e.bad.getLsbD (l.addr % 128 / 64) then some (sectorAddr s l) else none
    | none => badSector s l)
  | none => badSector s l
def loadBad (s : State) (core : Nat) (ls : List Loc) : Option Nat := ls.findSome? (loadBadAt s core)
/-- The bad sector of the lowest lane that met one, with the lane (R425). -/
def lanesBad (s : State) (core : Nat) (ls : List (Nat × List Loc)) : Option (Nat × Nat) := ls.findSome? fun x => (loadBad s core x.2).map (·, x.1)

def coreLoads (s : State) (core ctx : Nat) : List Loc → State × List (BitVec 8)
  | [] => (s, [])
  | l :: ls =>
    let (s, b) := coreLoad s core ctx l
    let (s, bs) := coreLoads s core ctx ls
    (s, b :: bs)

/-- A byte stored into a line; a sector whose every byte is new is good (R21). -/
def L1Line.store (e : L1Line) (ctx i : Nat) (b : BitVec 8) : L1Line :=
  let e' := { e with data := setLineByte e.data i b, dirty := e.dirty ||| (1#128 <<< i), ctx }
  if e'.dirtyIn (i / 64) = BitVec.allOnes 64 then { e' with poison := e.poison &&& ~~~(1#2 <<< (i / 64)) } else e'

/-- One stored byte that is no surface byte: into L1, write-allocate, or to its home. -/
def coreStore (s : State) (core ctx : Nat) (l : Loc) (b : BitVec 8) : State :=
  match l.sp with
  | .log =>
    let s := l1Fill s core ctx false (l.addr / 128)
    { s with l1 := s.l1.map fun e => if e.is core false (l.addr / 128) then e.store ctx (l.addr % 128) b else e }
  | _ => putHome s ctx l b

def surfOf (l : Loc) : Option (Nat × Bool) :=
  match l.sp with
  | .surf h cv => some (h, cv)
  | _ => none

/-- Surface bytes of one access: through to the bank, and this core's copy updated (R205). -/
def surfStore (s : State) (core h : Nat) (cv : Bool) (ws : List (Nat × BitVec 8)) : State :=
  let s := writeSurf s h cv ws
  ws.foldl (fun s w =>
    let line := ((2 * h + if cv then 1 else 0) * 2 ^ 32 + w.1) / 128
    { s with l1 := s.l1.map fun e => if e.is core true line then { e with data := setLineByte e.data (w.1 % 128) w.2 } else e }) s

/-- The bytes of one store in the order they are written; of two writes to a byte the later remains (R213). -/
def storeAll (s : State) (core ctx : Nat) (ws : List (Loc × BitVec 8)) : State :=
  let out := (ws.map (·.1)).filter fun l => (surfOf l).isNone && l.sp != .log
  let s := mergePlaces (countLines s (coreSource s core) true out) ctx out
  let s := ws.foldl (fun s w => if (surfOf w.1).isSome then s else coreStore s core ctx w.1 w.2) s
  (ws.filterMap fun w => surfOf w.1).eraseDups.foldl (fun s hc =>
    surfStore s core hc.1 hc.2 (ws.filterMap fun w => if surfOf w.1 == some hc then some (w.1.addr, w.2) else none)) s

/-! ### A group's own requests (R213, R234) -/

/-- A group's own requests to the lines of an access take effect before it (R213), and the core holds no older copy. -/
def settleOwn (s : State) (key : Nat) (ls : List Loc) : State :=
  let hit := fun (r : SReq) => match r.place with
    | some l => ls.any fun x => x.sp == l.sp && x.addr / 128 == l.addr / 128
    | none => false
  (s.sreqs.filter fun r => r.key == key && hit r).foldl (fun s r =>
    applyReq (match r.place with
      | some l => l1Drop s r.core fun e => !e.surf && l.sp == .log && e.line == l.addr / 128
      | none => s) r) s

/-- What a group itself has written to places stands at their homes, and its core holds no copy of their lines (R226, R369). -/
def ownFirst (s : State) (key core : Nat) (ls : List Loc) : State :=
  l1Drop (settleOwn s key ls) core fun e => !e.surf && ls.any fun l => l.sp == .log && e.line == l.addr / 128

/-- All of a group's requests that no queue wait holds take effect. -/
def settleAll (s : State) (key : Nat) : State :=
  (s.sreqs.filter fun r => r.key == key && r.place.isSome).foldl applyReq s
/-- So do those of the groups of a core, which may be ordered before a group's release (R234, R374). -/
def settleCore (s : State) (key core : Nat) : State :=
  (s.sreqs.filter fun r => (r.key == key || r.core == core) && r.place.isSome).foldl applyReq s

/-! ### Release and acquire (R234) -/

/-- Whether a scope has memory actions for a group: team only when paired, cluster and wider always. -/
def scopeActs (scope : Nat) (paired : Bool) : Bool := decide (3 ≤ scope) || (scope == 2 && paired)

def releaseAct (s : State) (key core scope : Nat) (paired : Bool) : State :=
  if scopeActs scope paired then l1Clean (settleCore s key core) core else s
def acquireAct (s : State) (core scope : Nat) (paired : Bool) : State :=
  if scopeActs scope paired then l1Drop s core fun _ => true else s

/-! ### The region store buffer (R218 to R221) -/

/-- 32-byte spans that a buffered operation covers. -/
def bufSpans : BufOp → List (Space × Nat)
  | .bytes ws => ws.map fun w => (w.1.sp, w.1.addr / 32)
  | .atom a => [(a.loc.sp, a.loc.addr / 32)]
  | .ord l _ _ _ => [(l.sp, l.addr / 32)]

/-- Entries in use: distinct spans. -/
def bufEntries (b : List BufOp) : Nat := (b.flatMap bufSpans).eraseDups.length

/-- The buffered value of a byte that the group's later loads see (R219): the latest store's. -/
def bufByte (b : List BufOp) (l : Loc) : Option (BitVec 8) :=
  let ws := b.flatMap fun o => match o with
    | .bytes ws => ws
    | _ => []
  match ws.reverse.find? fun w => w.1 == l with
  | some w => some w.2
  | none => none

/-- An atomic leaves the core: at the core for scratchpad, to the home slice for global memory after the line
has left L1 (R224, R226). `ret`: where its old value goes. -/
def startAtom (s : State) (key core ctx lane : Nat) (a : AtomReq) (ret : Option (Nat × List Nat)) : State :=
  match a.loc.sp with
  | .core _ =>
    let (s, old) := applyAtom s ctx a
    match ret with
    | some (pid, keys) => setPending s key pid fun p =>
        { p with elems := p.elems ++ (List.range keys.length).map fun i => (keys.getD i 0, BitVec.ofNat 32 (old / 2 ^ (32 * i))) }
    | none => s
  | _ =>
    let s := l1Drop s core fun e => !e.surf && e.line == a.loc.addr / 128 && a.loc.sp == .log
    sendReq s key core ctx lane (.atom a) ret

/-- Whether a result still waits for a home slice. -/
def awaits (s : State) (key pid : Nat) : Bool :=
  s.sreqs.any fun x => x.key == key && (match x.ret with
    | some (p, _) => p == pid
    | none => false)

/-- One buffered or immediate operation is performed (R220). -/
def performOp (s : State) (key core ctx : Nat) : BufOp → State
  | .bytes ws => storeAll (settleOwn s key (ws.map (·.1))) core ctx ws
  | .atom a => startAtom s key core ctx 0 a none
  | .ord l fmt v lane =>
    let s := l1Drop s core fun e => !e.surf && e.line == l.addr / 128 && l.sp == .log
    sendReq s key core ctx lane (.ord l fmt v) none

/-- Perform a group's buffered operations in program order and free the entries (R220). -/
def commitRegion (s : State) (key : Nat) : State :=
  match Tab.find s.groups key with
  | some g =>
    let s := updG s key fun g => { g with buf := [] }
    g.buf.foldl (fun s o => performOp s key g.core g.ctx o) s
  | none => s

/-- Idempotence is lost (R221): the buffered operations are performed at once. -/
def loseIdem (s : State) (key : Nat) : State :=
  match Tab.find s.groups key with
  | some g => if g.inRegion && !g.lost then updG (commitRegion s key) key fun g => { g with lost := true } else s
  | none => s

/-- Buffer entries of a team, and of a core. -/
def teamEntries (s : State) (team : Nat) : Nat :=
  s.groups.foldl (fun a e => if e.2.team = team ∧ team ≠ 0 then a + bufEntries e.2.buf else a) 0
def coreEntries (s : State) (core : Nat) : Nat :=
  s.groups.foldl (fun a e => if e.2.core = core then a + bufEntries e.2.buf else a) 0

/-- Perform an operation, or buffer it inside an intact region; an operation that would exceed an entry limit
loses idempotence first (R218, R221). -/
def doOrBuffer (s : State) (key : Nat) (o : BufOp) : State :=
  match Tab.find s.groups key with
  | none => s
  | some g =>
    if g.inRegion && !g.lost then
      let more := bufEntries (g.buf ++ [o]) - bufEntries g.buf
      if teamEntries s g.team + more ≤ 512 ∧ coreEntries s g.core + more ≤ 2048 then
        updG s key fun g => { g with buf := g.buf ++ [o] }
      else performOp (loseIdem s key) key g.core g.ctx o
    else performOp s key g.core g.ctx o

end Sys2Proof.Machine
end

