-- ==== Sys2Proof/Machine/Groups.lean ====
section
/-! DEFINITION. Splits, tokens and the lives of groups and teams: division (R388), arrival and merging (R389,
R390), barriers (R235) and the end of lanes, groups, teams and launches (R403). -/
namespace Sys2Proof.Machine

/-! ### Splits and tokens -/

/-- A split standing at a word: its clause, or a header when the clause has no such word. -/
def clauseAt (c : Option Clause) (pc : Nat) : Option Clause :=
  match c with
  | some k => if k.hdr < pc ∧ pc ≤ k.hdr + k.len + 1 then some k else none
  | none => none

def newSplit (pc : Nat) (mask : BitVec 64) (tsp : Option Nat) (c : Option Clause) : Split :=
  { pc, mask, tsp, clause := c, stall := false, barWait := none, entry := false, passed := 0, back := [] }

/-- The lowest unused key below `n` of a table. -/
def lowFree {β : Type} (t : Tab β) (n : Nat) : Option Nat :=
  (List.range n).find? fun i => (Tab.find t i).isNone

/-- An option of a division: lanes, where they go, and the clause they stay in (none at a header). -/
structure Opt where
  lanes : BitVec 64
  pc : Nat
  clause : Option Clause
deriving DecidableEq, Repr

/-- Place the later options in the free slots, lowest first; the lanes that find none come back. -/
def placeOpts (tsp : Option Nat) : List Opt → Tab Split → Tab Split × BitVec 64
  | [], t => (t, 0)
  | o :: os, t => match lowFree t 4 with
    | some i => placeOpts tsp os (Tab.put t i (newSplit o.pc o.lanes tsp o.clause))
    | none => let (t, d) := placeOpts tsp os t; (t, d ||| o.lanes)

/-- R388: division of a split; `none` is the divergence-depth trap. `push` is a call's return point, `dfr` where
deferred lanes resume. -/
def divide (g : Group) (si : Nat) (opts : List Opt) (dfr : Opt) (push : Option Nat) (born : Nat) : Option Group :=
  match Tab.find g.splits si, opts.filter fun o => o.lanes != 0 with
  | some sp, o :: os =>
    if os.isEmpty && push.isNone then
      some { g with splits := Tab.put g.splits si { sp with pc := o.pc, clause := o.clause } }
    else
      let free := 4 - g.splits.length
      let k := os.length - free
      let need := (if push.isSome then 1 else 0) + (if 0 < k then 1 else 0)
      if g.divdepth < g.tokens.length + need then none
      else
        let base := sp.tsp
        let (toks, tsp) := match push with
          | some r => match lowFree g.tokens 16 with
            | some e => (Tab.put g.tokens e { kind := .call, addr := r, members := o.lanes, arrived := 0, parent := base, clause := none, born }, some e)
            | none => (g.tokens, base)
          | none => (g.tokens, base)
        let splits := Tab.put g.splits si { sp with mask := o.lanes, pc := o.pc, clause := o.clause, tsp }
        let (splits, d) := placeOpts base os splits
        let toks := if d = 0 then toks else match lowFree toks 16 with
          | some e => Tab.put toks e { kind := .defer, addr := dfr.pc, members := d, arrived := 0, parent := base, clause := dfr.clause, born }
          | none => toks
        some { g with splits, tokens := toks }
  | _, _ => some g

/-- The most recently made DEFER entry. -/
def newestDefer : Tab Token → Option (Nat × Token)
  | [] => none
  | (i, t) :: ts => match newestDefer ts with
    | some (j, u) => if t.kind = .defer ∧ u.born < t.born then some (i, t) else some (j, u)
    | none => if t.kind = .defer then some (i, t) else none

/-- R390 for a free slot: a completed entry's merged split, which at once arrives at an outer token of the
same ADDR; else the newest DEFER entry. -/
def fillSlot (slot : Nat) : Nat → Group → Group
  | 0, g => g
  | n + 1, g =>
    match g.tokens.find? fun e => e.2.kind != .defer && e.2.arrived != 0 && e.2.members == e.2.arrived with
    | some (i, t) =>
      let toks := Tab.del g.tokens i
      let outer := match t.parent with
        | some p => match Tab.find toks p with
          | some u => if u.kind = TokKind.token ∧ u.addr = t.addr then some (p, u) else none
          | none => none
        | none => none
      match outer with
      | some (p, u) => fillSlot slot n { g with tokens := Tab.put toks p { u with arrived := u.arrived ||| t.arrived } }
      | none => { g with tokens := toks, splits := Tab.put g.splits slot (newSplit t.addr t.arrived t.parent none) }
    | none => match newestDefer g.tokens with
      | some (i, t) =>
        { g with tokens := Tab.del g.tokens i, splits := Tab.put g.splits slot (newSplit t.addr t.members t.parent t.clause) }
      | none => g

/-- R389: a split arrives at the entry its TSP names; its slot is freed. -/
def arrive (g : Group) (si : Nat) : Group :=
  match Tab.find g.splits si with
  | some sp => match sp.tsp with
    | some e =>
      let g := { g with tokens := Tab.modify g.tokens e fun t => { t with arrived := t.arrived ||| sp.mask },
                        splits := Tab.del g.splits si }
      fillSlot si 17 g
    | none => g
  | none => g

/-- Lanes leave every entry and every split; emptied entries are freed, emptied slots filled (R390, R403). -/
def exitLanes (g : Group) (ls : BitVec 64) : Group :=
  let toks := (g.tokens.map fun e => (e.1, { e.2 with members := e.2.members &&& ~~~ls, arrived := e.2.arrived &&& ~~~ls })).filter
    fun e => e.2.members != 0
  let gone := (g.splits.filter fun e => e.2.mask &&& ~~~ls == 0).map (·.1)
  let splits := (g.splits.map fun e => (e.1, { e.2 with mask := e.2.mask &&& ~~~ls })).filter fun e => e.2.mask != 0
  let g := { g with tokens := toks, splits }
  let g := gone.foldl (fun g i => fillSlot i 17 g) g
  match lowFree g.splits 4 with
  | some i => if gone.isEmpty && (g.tokens.any fun e => e.2.kind != .defer && e.2.arrived != 0 && e.2.members == e.2.arrived)
      then fillSlot i 17 g else g
  | none => g

/-- Entries without the lanes that are no longer live (R390). -/
def liveTokens (live : BitVec 64) (t : Tab Token) : Tab Token :=
  (t.map fun e => (e.1, { e.2 with members := e.2.members &&& live, arrived := e.2.arrived &&& live })).filter fun e => e.2.members != 0

/-- In trap-handler mode only lanes of the split that entered it issue (R435). -/
def modeLets (g : Group) (sp : Split) : Bool :=
  match g.trapMask with
  | some m => sp.mask &&& ~~~m == 0
  | none => true
/-- A ready split (R391). -/
def splitReady (g : Group) (sp : Split) : Bool := sp.clause.isSome && !sp.stall && sp.barWait.isNone && modeLets g sp

/-- Lanes that are still live: in a split or waiting in an entry. -/
def liveLanes (g : Group) : BitVec 64 :=
  g.tokens.foldl (fun m e => m ||| e.2.members) (g.splits.foldl (fun m e => m ||| e.2.mask) 0)

/-! ### Teams -/

def teamOf (s : State) (g : Group) : Option Team := Tab.find s.teams g.team
def pairedOf (s : State) (g : Group) : Bool :=
  match teamOf s g with
  | some t => t.paired
  | none => false
/-- The resident groups of a team. -/
def teamGroups (s : State) (team : Nat) : List (Nat × Group) := s.groups.filter fun e => e.2.team == team

/-! ### Barriers (R235) -/

/-- Whether every split of a group waits at a barrier. -/
def atBar (g : Group) (id : Nat) : Bool :=
  !g.splits.isEmpty && g.splits.all fun e => (match e.2.barWait with
    | some (i, _) => i == id
    | none => false)

/-- The phase of a barrier completes: every group acts as by a fence of ORDER 0 at its scope, and every waiting
split goes on. -/
def passBar (s : State) (team : Nat) : State :=
  let gs := teamGroups s team
  let scopes := gs.flatMap fun e => e.2.splits.filterMap fun x => x.2.barWait.map fun b => (e.1, e.2.core, b.2)
  let pr := gs.any fun e => pairedOf s e.2
  let s := scopes.foldl (fun s x => releaseAct s x.1 x.2.1 x.2.2 pr) s
  let s := scopes.foldl (fun s x => acquireAct s x.2.1 x.2.2 pr) s
  gs.foldl (fun s e => updG s e.1 fun g => { g with splits := g.splits.map fun x =>
    if x.2.barWait.isSome then (x.1, { x.2 with barWait := none, pc := x.2.pc + 1, clause := clauseAt x.2.clause (x.2.pc + 1) })
    else x }) s

/-- Complete whichever barriers of a team every live group has reached. -/
def checkBars (s : State) (team : Nat) : State :=
  (List.range 16).foldl (fun s id =>
    let gs := teamGroups s team
    if !gs.isEmpty && team != 0 && gs.all (fun e => atBar e.2 id) then passBar s team else s) s

/-! ### Ends -/

/-- The teams of a launch. -/
def Launch.total (l : Launch) : Nat := l.x * l.y * l.z

/-- Retry the placement of waiting teams: room has freed (R415). -/
def wakePlacement (s : State) : State := later s (.teamPlacement 88)

/-- What a surface's spill area says is brought up to date for a context's surfaces (R180; DESIGN CHOICE, log 126: the spec names
`dfence` and says of no other moment when the device reports, and R490 reads the area at a launch's completion). -/
def reportSurfs (s : State) (ctx : Nat) : State := (s.surfs.filter fun e => e.2.ctx == ctx).foldl (fun s e => reportSurf s e.1) s

/-- A launch all of whose teams have exited completes its command (R411); its instruction words leave the caches. While its
context is being killed it waits for that kill's completion (R446). -/
def checkLaunch (s : State) (l : Nat) : State :=
  match Tab.find s.launches l with
  | some x =>
    if x.kind = .ordinary ∧ !(s.killing.any fun k => k.1 == x.ctx && (k.2.isNone || k.2 == some x.lid)) ∧ (x.exited = x.total ∨ (x.killed ∧ (s.teams.all fun t => t.2.launch != l))) then
      let s := reportSurfs s x.ctx
      later { s with launches := Tab.del s.launches l, icache := s.icache.filter fun e => e.1 / 2 ^ 40 != l }
        (.commandComplete x.queue x.cmd)
    else s
  | none => s

/-- A team whose last group has ended frees its place (R403, R440's history). -/
def endTeam (s : State) (team : Nat) : State :=
  match Tab.find s.teams team with
  | some t =>
    let s := { s with teams := Tab.del s.teams team }
    let s := { s with launches := Tab.modify s.launches t.launch fun l =>
      { l with exited := l.exited + 1, residency := ((s.time - t.started) :: l.residency).take 16, room := if t.moving then l.room.drop 1 else l.room } }
    wakePlacement (checkLaunch s t.launch)
  | none => s

def clusterInfo (s : State) (cl : Nat) : ClusterInfo := Tab.fetch ⟨0, 2400, 0⟩ s.clusters cl
/-- A cluster that no group is left in notes the time (R462). -/
def noteEmpty (s : State) (core : Nat) : State :=
  if s.groups.any fun e => e.2.core / 4 == core / 4 then s
  else { s with clusters := Tab.put s.clusters (core / 4) { clusterInfo s (core / 4) with emptied := s.time } }

/-- The descriptor of a request that is a slice-queue operation. -/
def SReq.desc (r : SReq) : Option Loc :=
  match r.kind with
  | .queue o => some o.desc
  | _ => none

/-- A group's queue operations leave their slices; those that waited behind them are tried again (R172, R173). -/
def dropQueueOps (s : State) (key : Nat) : State :=
  let gone := s.sreqs.filter fun r => r.key == key && r.place.isNone
  let s : State := { s with sreqs := s.sreqs.filter fun r => !(r.key == key && r.place.isNone) }
  laterAll s ((s.sreqs.filter fun r => r.waiting && gone.any fun x => x.desc == r.desc).map fun r => .sliceQueueOperation r.id)

/-- A group leaves its core: its entry goes, its team counts one fewer, the team's barriers may complete. -/
def leaveGroup (s : State) (key : Nat) : State :=
  match Tab.find s.groups key with
  | some g =>
    let s := dropQueueOps { s with groups := Tab.del s.groups key } key
    let s := noteEmpty s g.core
    let s := if g.kind = .handler then
        later { s with launches := Tab.del s.launches g.launch, icache := s.icache.filter fun e => e.1 / 2 ^ 40 != g.launch }
          (.handlerDispatch (g.core / 4)) else s
    if g.team = 0 then s
    else
      let s := ({ s with teams := Tab.modify s.teams g.team fun t => { t with live := t.live - 1 } } : State)
      match Tab.find s.teams g.team with
      | some t => if t.live = 0 then endTeam s g.team else checkBars s g.team
      | none => s
  | none => s

/-- Quads of ended groups go once no ticket of theirs remains. -/
def pruneQuads (r : Raster) : Raster :=
  { r with quads := r.quads.filter fun q => q.place != .ended || r.tickets.any fun t => t.quad == q.id }

/-- The fragment group of a draw that ends: a null entry goes to every ticket of its quads that no `frag` has ended
(R359). -/
def nullFragments (s : State) (g : Group) : State :=
  let mine := fun (n : Nat) => g.quads.any fun q => q.2.1 == n
  let due := s.raster.tickets.filter fun t => mine t.quad && !t.sent
  laterAll { s with raster := pruneQuads { s.raster with
      tickets := s.raster.tickets.map fun t => if mine t.quad && !t.sent then { t with sent := true, null := true } else t
      quads := s.raster.quads.map fun q => if mine q.id then { q with place := .ended } else q } }
    (due.map fun t => .orderLockEntry t.id)

/-- What the end of a vertex or fragment group tells its draw (R348, R351, R359). -/
def drawGroupEnds (s : State) (g : Group) : State :=
  match g.kind, (s.raster.draws.find? fun d => d.vlaunch == g.launch || d.flaunch == g.launch) with
  | .vertex, some d =>
    laterAll { s with raster := { s.raster with draws := s.raster.draws.map fun e => if e.id = d.id then { e with vdone := g.xyz.1 :: e.vdone } else e } }
      [.primitiveSetup 0, .primitiveSetup 1, .drawComplete d.id]
  | .fragment, some d =>
    later (nullFragments { s with raster := { s.raster with draws := s.raster.draws.map fun e => if e.id = d.id then { e with fcount := e.fcount - 1 } else e } } g)
      (.drawComplete d.id)
  | _, _ => s

/-- The end of a group when no live lane remains (R403): its region's operations, its release, its leaving. -/
def endGroup (s : State) (key : Nat) : State :=
  match Tab.find s.groups key with
  | some g =>
    let s := commitRegion s key
    let s := releaseAct s key g.core 5 (pairedOf s g)
    leaveGroup (drawGroupEnds s g) key
  | none => s

end Sys2Proof.Machine
end

