-- ==== Sys2Proof/Machine/Ops.lean ====
section
/-! DEFINITION. The operations that every instruction's meaning is written over: fault records (R427, R429),
taking a fault (R430 to R436) and returning from it (R447), issuing a word and its ends (R45, R56, R66, R67,
R424), instruction fetch (R207) and the access checks of loads and stores (R210 to R215). -/
namespace Sys2Proof.Machine

abbrev Out := Host.Outcome State Fault Refusal

/-! ### Accesses of an engine (R80, R121) -/

/-- The places of consecutive virtual bytes, or what stops the access: a wait before a fault, the lowest fault. -/
def firstStop : List XRes → Option XRes
  | [] => none
  | .ok _ :: xs => firstStop xs
  | .fault c :: xs => match firstStop xs with
    | some (.miss v n) => some (.miss v n)
    | some .stall => some .stall
    | _ => some (.fault c)
  | x :: _ => some x

def okLocs : List XRes → List Loc
  | [] => []
  | .ok l :: xs => l :: okLocs xs
  | _ :: xs => okLocs xs

/-- The homes of `n` bytes at a virtual address for an engine. -/
def engLocs (s : State) (eng ctx key va n need : Nat) : Except XRes (List Loc) :=
  let xs := (List.range n).map fun i => xlate s eng ctx key ((va + i) % 2 ^ 64) need
  match firstStop xs with
  | some x => .error x
  | none => .ok (okLocs xs)

/-- Read bytes at their homes; cells round into their lines first (R231). -/
def readHome (s : State) (ls : List Loc) : List (BitVec 8) := ls.map (homeByte s)
/-- Bytes written one after another at their homes. -/
def putHomes (s : State) (ctx : Nat) : List (Loc × BitVec 8) → State
  | [] => s
  | (l, b) :: ws => putHomes (putHome s ctx l b) ctx ws
/-- One write of bytes at their homes, merged into its sectors (R98). -/
def writeHome (s : State) (ctx : Nat) (ws : List (Loc × BitVec 8)) : State :=
  putHomes (mergePlaces s ctx (ws.map (·.1))) ctx ws

/-- Read places as an engine, in requests of its source (R115): the bytes, and which of them are bad. -/
def engRead (s : State) (eng ctx : Nat) (ls : List Loc) : State × List (BitVec 8) × List Nat :=
  let t := touchPlaces (countLines s (unitSource s eng) false ls) ctx ls
  (t, readHome t ls, poisonedAt t ls)

/-- R99, R128 for bytes that went to places: those that came from a bad sector poison the sectors they are in. -/
def spreadBad (s : State) (ls : List Loc) (bad : List Nat) : State :=
  if bad.isEmpty then s else poisonPlaces s (bad.filterMap fun i => ls[i]?)

/-- Write places as an engine, in requests of its source (R115): a bad byte poisons the sector it goes to (R128), and a sector of host memory that would
receive one is not written (R99). -/
def engWrite (s : State) (eng ctx : Nat) (ls : List Loc) (bs : List (BitVec 8)) (bad : List Nat) : State :=
  let shut := (bad.filterMap fun i => ls[i]?).filter fun l => l.sp == .host
  let ws := (ls.zip bs).filter fun w => !(w.1.sp == .host && shut.any fun x => x.addr / 64 == w.1.addr / 64)
  spreadBad (writeHome (countLines s (unitSource s eng) true ls) ctx ws) ls bad

/-! ### Fault records (R427 to R429) -/

/-- The 32 bytes of a record; a continuation keeps OBJECT in `time` and MOVED in `addr`. -/
def recBytes (r : Rec) : List (BitVec 8) :=
  leBytes 1 r.cls ++ leBytes 1 r.kind ++ leBytes 2 r.detail ++ leBytes 2 r.ctx ++ leBytes 2 r.source
    ++ leBytes 8 r.time ++ leBytes 8 r.addr ++ leBytes 4 r.pc ++ leBytes 4 r.who

def bumpSat (n k : Nat) : Nat := min 65535 (n + k)
def setCtx (s : State) (c : Nat) (f : Ctx → Ctx) : State := { s with ctxs := Tab.modify s.ctxs c f }

/-- The queue manager's key in its own cache for fault-queue accesses. -/
abbrev fqKey : Nat := 1

/-- Write COUNT (R429): a release at system scope, then FQVEC; vector 0 when it cannot be written. `none`: it waits
on a page. -/
def writeCount (s : State) (cid : Nat) (c : Ctx) : Except XRes State :=
  match engLocs s engQm cid fqKey c.fqPtr 8 2 with
  | .error (.fault _) => .ok (signal s 0)
  | .error x => .error x
  | .ok ls => .ok (signal (engWrite s engQm cid ls (leBytes 8 (c.fqCount % 2 ^ 48 + c.fqDropped * 2 ^ 48)) []) c.fqVec)

/-- Drop `k` records. -/
def dropRecs (s : State) (cid k : Nat) : Except XRes State :=
  let s := setCtx s cid fun c => { c with fqDropped := bumpSat c.fqDropped k }
  match Tab.find s.ctxs cid with
  | some c => writeCount s cid c
  | none => .ok s

/-- R429 for one record, or a KIND 1 record with its continuation. -/
def putRecs (s : State) (cid : Nat) (c : Ctx) (rs : List Rec) : Except XRes State :=
  let cap : Nat := 2 ^ c.fqLog2
  match engLocs s engQm cid fqKey (c.fqPtr + 8) 8 1 with
  | .error (.fault _) => (dropRecs s cid rs.length).map fun s => signal s 0
  | .error x => .error x
  | .ok hl =>
    let (s, hb, _) := engRead s engQm cid hl
    let head := leNat hb
    if (cap : Int) < (c.fqCount : Int) - head + rs.length then dropRecs s cid rs.length
    else
      let slots : List (Except XRes (List Loc)) := (List.range rs.length).map fun (i : Nat) =>
        engLocs s engQm cid fqKey (c.fqBase + 32 * ((c.fqCount + i) % cap)) 32 2
      let bad := slots.filterMap fun x => match x with
        | .error e => some e
        | .ok _ => none
      match firstStop bad with
      | some (.fault _) => (dropRecs s cid rs.length).map fun s => signal s 0
      | some x => .error x
      | none =>
        let ls := slots.flatMap fun x => match x with
          | .error _ => []
          | .ok l => l
        let s := engWrite s engQm cid ls (rs.flatMap recBytes) []
        let s := setCtx s cid fun c => { c with fqCount := c.fqCount + rs.length }
        match Tab.find s.ctxs cid with
        | some c => writeCount s cid c
        | none => .ok s

/-- Write a context's waiting records in order, until one must wait for a page (R429). -/
def flushRecs : Nat → State → Nat → State
  | 0, s, _ => s
  | n + 1, s, cid =>
    match Tab.find s.ctxs cid with
    | none => s
    | some c => match c.fqWait with
      | [] => clearXfaults s engQm fqKey
      | r :: rest =>
        let k := if r.kind % 16 = 1 then 2 else 1
        let one := (r :: rest).take k
        match putRecs s cid c one with
        | .ok s => flushRecs n (setCtx s cid fun c => { c with fqWait := c.fqWait.drop k }) cid
        | .error (.miss va need) => later s (.translationMiss engQm cid fqKey va need)
        | .error _ => s

/-- Send records to a context's fault queue; nothing for a context that is not bound (R452). -/
def postRecs (s : State) (cid : Nat) (rs : List Rec) : State :=
  let s := setCtx s cid fun c => { c with fqWait := c.fqWait ++ rs }
  match Tab.find s.ctxs cid with
  | some c => if c.fqWait.length = rs.length then flushRecs (rs.length + 1) s cid else s
  | none => s

/-! ### A word being issued -/

/-- The chosen split and what it sees: its group with results in flight resolved (R58), its mask restricted by
the guard (R67). -/
structure WCtx where
  key : Nat
  si : Nat
  g : Group
  sp : Split
  eff : BitVec 64
deriving DecidableEq, Repr

/-- A fault of a word (R426): class, DETAIL, ADDR and the lane of R425. -/
structure Trap where
  cls : Nat
  detail : Nat
  addr : Nat
  lane : Nat
deriving DecidableEq, Repr

/-- Why a word does not complete. -/
inductive Stop where
  /-- A fault. -/
  | trap (t : Trap)
  /-- It does not issue now, and is tried again: a full queue, a locked frame, a counter at its bound. -/
  | stall
  /-- Fetch stops while these addresses are checked (R424): address and permissions; none of a frame that is locked (R92). -/
  | wait (pages : List (Nat × Nat))
  /-- A request to a device no port reaches (R456), by its PEER; 0 behind a dead station of this device (R118). -/
  | lost (peer : Nat)
deriving DecidableEq, Repr

abbrev Try := Except Stop

/-- The data-dependent illegal-instruction trap with a DETAIL of R427. -/
def illegal {α : Type} (detail : Nat) (addr : Nat := 0) (lane : Nat := 0) : Try α := .error (.trap ⟨0x08, detail, addr, lane⟩)
def trapIf (b : Bool) (t : Trap) : Try Unit := if b then .error (.trap t) else .ok ()

/-- The lanes that a split's word is for: the guard's, or of a word that issues again those that issued it (R60, R67). -/
def Split.lanesOf (sp : Split) (g : Group) : BitVec 64 :=
  match sp.back with
  | (w, _, _, m) :: _ => if w = sp.pc then m else g.guard
  | [] => g.guard

/-- The split that `State.issue` names. -/
def issueCtx (s : State) : Option WCtx :=
  match s.issue with
  | none => none
  | some sel => match Tab.find s.groups sel.key with
    | none => none
    | some g => match Tab.find g.splits sel.split with
      | none => none
      | some sp => some { key := sel.key, si := sel.split, g := seen s.fresh g, sp := { sp with stall := false }, eff := sp.mask &&& sp.lanesOf g }

/-- The width, the active lanes and the lowest of them. -/
def WCtx.w (c : WCtx) : Nat := c.g.width
def WCtx.lanes (c : WCtx) : List Nat := lanesOf c.g.width c.eff
def WCtx.low (c : WCtx) : Nat := c.lanes.headD 0

def launchOf (s : State) (g : Group) : Option Launch := Tab.find s.launches g.launch
def ctxOf (s : State) (g : Group) : Option Ctx := Tab.find s.ctxs g.ctx

/-- The tumbler a long-latency word of the split's position sets (R52, R56); none for codes 12 to 15. -/
def tumblerOf (sp : Split) : Option Nat :=
  match sp.clause with
  | none => none
  | some k =>
    let t := if sp.pc - k.hdr - 1 < k.split then k.first else k.second
    if t < 12 then some t else none

/-- WHO of a record (R427). -/
def whoOf (s : State) (g : Group) (lane : Nat) : Nat :=
  (match launchOf s g with
   | some l => l.queue
   | none => 0) + g.gid * 2 ^ 16 + lane * 2 ^ 22

/-- A group's KIND 0 record; NESTED in trap-handler mode (R436). -/
def groupRec (s : State) (g : Group) (t : Trap) (pc : Nat) (deferred : Bool) : Rec :=
  { cls := t.cls, kind := (if g.trapMask.isSome then 16 else 0) + (if deferred then 32 else 0), detail := t.detail,
    ctx := g.ctx, source := g.core, time := s.time, addr := t.addr, pc, who := whoOf s g t.lane }

/-! ### Instruction fetch (R46, R207, R396) -/

/-- A fetched word enters its core's instruction cache of 128 KiB (R15); a full one loses its lowest entry (DESIGN CHOICE, log 113: the
spec does not say which). -/
def cacheWord (s : State) (core k : Nat) (w : BitVec 32) : State :=
  let mine := if s.icache.length < 32768 then [] else s.icache.filter fun e => e.1 / 2 ^ 32 % 256 == core
  let kept := match mine with
    | e :: _ => if mine.length < 32768 then s.icache else Tab.del s.icache e.1
    | [] => s.icache
  { s with icache := Tab.put kept k w }

/-- The word of a launch at an offset as a core fetches it: the cached word or, when memory has another, either
(log 9); read permission is needed (R82). A word in a bad or unreachable sector is not executed (R118, R438). -/
def fetchWord (s : State) (key : Nat) (g : Group) (pc : Nat) : Try (State × BitVec 32) :=
  match launchOf s g with
  | none => illegal 1
  | some l =>
    if l.img.words ≤ pc then illegal 1
    else
      match engLocs s g.core g.ctx key (l.img.text + 4 * pc) 4 1 with
      | .error (.miss va need) => .error (.wait [(va, need)])
      | .error (.fault c) => .error (.trap ⟨c, 3, (l.img.text + 4 * pc) / 4096 * 4096, 0⟩)
      | .error (.lost d) => .error (.lost d)
      | .error _ => .error .stall
      | .ok ls =>
        let k := 2 ^ 40 * g.launch + 2 ^ 32 * g.core + pc
        match Tab.find s.icache k with
        | none =>
          let s := touchPlaces (countLines s (coreSource s g.core) false ls) g.ctx ls
          let m := BitVec.ofNat 32 (leNat (readHome s ls))
          match ls.findSome? (badSector s) with
          | some sec => .error (.trap ⟨0x0E, 0, sec, 0⟩)
          | none => .ok (cacheWord s g.core k m, m)
        | some w =>
          let m := BitVec.ofNat 32 (leNat (readHome s ls))
          .ok (s, if w = m ∨ (ls.findSome? (badSector s)).isSome then w else if Config.fetchNew s.fresh then m else w)

/-- A header's fields (R52). -/
def clauseOf (hdr : Nat) (w : BitVec 32) : Clause :=
  { hdr, len := bits w.toNat 27 24, split := bits w.toNat 23 20, first := bits w.toNat 15 12, second := bits w.toNat 19 16 }
def headerKind (w : BitVec 32) : Nat := bits w.toNat 31 28

/-! ### Parking and flushing (R430 to R434) -/

/-- Suspend fetch for the checks of a word (R424): the requests go out, the group waits. -/
def suspend (s : State) (key si : Nat) (pages : List (Nat × Nat)) : State :=
  match Tab.find s.groups key with
  | some g =>
    laterAll (updG s key fun g => { g with susp := some si })
      ((pages.map fun p => (p.1 / 4096 * 4096, p.2)).eraseDups.map fun p => .translationMiss g.core g.ctx key p.1 p.2)
  | none => s

/-- Whether a group's idempotence is intact inside a region it took a checkpoint for (R433). -/
def intact (g : Group) : Bool := g.inRegion && !g.lost && g.checkpoint.isSome

def slotIs (ctx handle : Nat) (w : WSlot) : Bool := w.ctx == ctx && w.handle == handle
def slotOf (m : Mx) (ctx handle : Nat) : Option WSlot := m.slots.find? (slotIs ctx handle)
def Mx.setSlot (m : Mx) (ctx handle : Nat) (f : WSlot → WSlot) : Mx :=
  { m with slots := m.slots.map fun w => if slotIs ctx handle w then f w else w }
/-- A slot becomes EMPTY: its units are free. -/
def Mx.dropSlot (m : Mx) (ctx handle : Nat) : Mx :=
  { m with free := m.free + ((m.slots.filter (slotIs ctx handle)).foldl (fun a w => a + w.units) 0),
           slots := m.slots.filter fun w => !slotIs ctx handle w }
/-- A tile references its slot until its pass has ended (R308). -/
def Mx.refs (m : Mx) (ctx handle : Nat) : Bool := m.tiles.any fun t => t.ctx == ctx && t.handle == handle && !t.granted
/-- RELEASING slots that neither a read nor a tile holds become EMPTY. -/
def Mx.sweep (m : Mx) : Mx :=
  (m.slots.filter fun w => (w.st == .releasing || w.st == .releasingOk || w.st == .releasingBad) && w.load.isNone && !m.refs w.ctx w.handle).foldl
    (fun m w => m.dropSlot w.ctx w.handle) m

/-- Remove a group's matrix tiles that no pass has taken; the write-backs of the others are discarded (R318). A slot
whose last tile went so is EMPTY if it was to be released (R308). -/
def dropMatrix (s : State) (key : Nat) : State :=
  { s with mx := s.mx.map fun e => (e.1, ({ e.2 with tiles := (e.2.tiles.filter fun t => t.key != key || t.granted).map fun t =>
      if t.key = key then { t with dropped := true } else t } : Mx).sweep) }

/-- The words of a group that still have matrix tiles. -/
def tileWords (s : State) (key : Nat) : List Nat :=
  s.mx.flatMap fun e => (e.2.tiles.filter fun t => t.key == key).map (·.word)

/-- R434 for one group: buffered operations, results in flight and matrix tiles are discarded, counters lowered,
tumblers cleared, the checkpoint restored. -/
def flushGroup (s : State) (key : Nat) : State :=
  let ws := tileWords s key
  let s := dropMatrix s key
  updG s key fun g => match g.checkpoint with
    | some k =>
      let live := liveLanes g
      { g with buf := [], pending := [], tumblers := [], ops := pruneOps (g.ops.filter fun o => !(o.cls == 3 && ws.contains o.id)),
               splits := [(0, newSplit k.hdr (k.mask &&& live) k.tsp none)], tokens := liveTokens live k.tokens, gm := k.gm,
               inRegion := false, lost := false, waits := [], susp := none }
    | none => g

/-- A host-serviced wait (R432, R434): SERVICE outside an intact region, where the stopping word keeps the group's fetch
(R424); inside one, the flush. -/
def hostWait (s : State) (key : Nat) : State :=
  match Tab.find s.groups key with
  | none => s
  | some g =>
    if !intact g then updG s key fun g => { g with park := .service }
    else
      let gs := teamGroups s g.team
      if g.team ≠ 0 ∧ gs.all fun e => intact e.2 then
        let s := gs.foldl (fun s e => flushGroup s e.1) s
        let s := updG s key fun g => { g with park := .service }
        let s := { s with teams := Tab.modify s.teams g.team fun t => { t with restart := true } }
        match Tab.find s.teams g.team with
        | some t => later s (.teamSave t.launch g.team)
        | none => s
      else updG (flushGroup s key) key fun g => { g with park := .service }

/-! ### Taking a fault (R430, R435, R436) -/

/-- The classes that a trap handler may receive (R426). -/
def handlerClass (c : Nat) : Bool := [1, 2, 3, 4, 6, 7, 8, 9, 10, 11, 12, 15, 17].contains c

/-- The word offset of the context's trap entry when it lies inside the group's .text (R435). -/
def trapOffset (s : State) (g : Group) : Option Nat :=
  match ctxOf s g, launchOf s g with
  | some c, some l =>
    if c.trapEntry ≠ 0 ∧ l.img.text ≤ c.trapEntry ∧ c.trapEntry < l.img.text + 4 * l.img.words ∧ (c.trapEntry - l.img.text) % 4 = 0
    then some ((c.trapEntry - l.img.text) / 4) else none
  | _, _ => none

/-- The frame of mb bytes 192 to 255: the record and the resume state (R435). -/
def trapFrame (g : Group) (sp : Split) (r : Rec) : List (BitVec 8) :=
  recBytes r ++ leBytes 4 sp.pc ++ leBytes 4 (sp.tsp.getD 0xFFFF_FFFF) ++ leBytes 8 sp.mask.toNat ++ leBytes 8 g.gm.toNat
    ++ leBytes 8 0

/-- Write bytes into a message buffer. -/
def putMb (m : Tab (BitVec 8)) (o : Nat) : List (BitVec 8) → Tab (BitVec 8)
  | [] => m
  | b :: bs => putMb (Tab.store 0 m o b) (o + 1) bs

/-- Enter the trap handler (R435): the frame written, gm reset, the split at the trap entry in trap-handler mode. -/
def enterHandler (s : State) (key si off : Nat) (r : Rec) : State :=
  updG (setPoison s ⟨.mb key, 192⟩ false) key fun g => match Tab.find g.splits si with
    | some sp =>
      { g with mb := putMb g.mb 192 (trapFrame g sp r), gm := gmReset, trapMask := some sp.mask, susp := none,
               splits := Tab.put g.splits si { sp with pc := off, clause := none, stall := false, entry := true } }
    | none => g

/-- Record a fault and park the group STANDING (R430); a handler group's fault ends it (R168). -/
def standing (s : State) (key : Nat) (r : Rec) : State :=
  match Tab.find s.groups key with
  | some g =>
    let s := postRecs s g.ctx [r]
    if g.kind = .handler then leaveGroup s key
    else updG s key fun g => { g with park := .standing, susp := none }
  | none => s

/-- Whether R435's first conditions send a class to the group's handler; a handler group has none (R168). -/
def handlerTakes (s : State) (g : Group) (cls : Nat) : Bool :=
  (match ctxOf s g with
    | some c => c.trapMask.getLsbD cls
    | none => false) && handlerClass cls && g.trapMask.isNone && g.kind != .handler

/-- Whether the handler of a class stands ready: its entry word fetched, or not needed. -/
def handlerReady (s : State) (key : Nat) (g : Group) (cls : Nat) : Try Unit :=
  match (if handlerTakes s g cls then trapOffset s g else none) with
  | none => .ok ()
  | some off => match fetchWord s key g off with
    | .error (.wait ps) => .error (.wait ps)
    | .error .stall => .error .stall
    | _ => .ok ()

/-- TAKING A FAULT, once for every fault of a group: to the trap handler when R435 lets it, else recorded with the
group parked; class 0x05 waits for its service (R432). A trap entry whose word is not yet fetched suspends the
split, which then meets the fault again. -/
def takeFault (s : State) (key si : Nat) (t : Trap) (pc : Nat) (deferred : Bool) : State :=
  match Tab.find s.groups key with
  | none => s
  | some g =>
    let s := { s with issue := none }
    let r := groupRec s g t pc deferred
    let s := clearXfaults s g.core key
    if t.cls = 0x05 ∧ !deferred then
      let h := saHandle t.addr
      let tile := match Tab.find s.surfs h with
        | some f => saOff t.addr / f.bt
        | none => 0
      hostWait (updG (postRecs s g.ctx [r]) key fun g => { g with want := some (.tile h tile), susp := some si }) key
    else
      if handlerTakes s g t.cls then
        match trapOffset s g with
        | none => standing s key r
        | some off => match fetchWord s key g off with
          | .ok (s, w) => if headerKind w = 5 then enterHandler s key si off r else standing s key r
          | .error (.wait ps) => suspend s key si ps
          | .error .stall => suspend s key si []
          | .error _ => standing s key r
      else standing s key r

/-- A request lost for want of a port (R118, R456): the loss record, which names its source, its sequence number and the
PEER, then STANDING. -/
def takeLoss (s : State) (key : Nat) (peer : Nat) : State :=
  match Tab.find s.groups key with
  | none => s
  | some g =>
    let src := coreSource s g.core
    let seq := Tab.fetch 0 s.seqs src
    standing { s with issue := none } key
      { cls := 0, kind := 2, detail := 0, ctx := g.ctx, source := 0x0800 + src / 512, time := s.time, addr := src + 65536 * peer, pc := seq, who := seq }

/-! ### Returning from a fault (R447) -/

/-- The clause that holds a word offset: by the .live offsets, its header read again; none at a header. -/
def clauseHolding (s : State) (key : Nat) (g : Group) (pc : Nat) : Try (State × Option Clause) :=
  match launchOf s g with
  | none => .ok (s, none)
  | some l =>
    let h := (l.img.live.map (·.1)).foldl (fun a o => if o ≤ pc then max a o else a) 0
    if h = pc then .ok (s, none)
    else (fetchWord s key g h).map fun (s, w) => (s, clauseAt (some (clauseOf h w)) pc)

/-- `sys tret`: the frame's checks, then gm, TSP and PC from it (R447). -/
def trapReturn (s : State) (c : WCtx) (skip : Bool) : Try State :=
  let fr := (List.range 32).map fun i => Tab.fetch 0 c.g.mb (224 + i)
  let pc := fieldAt fr 0 4 + (if skip then 1 else 0)
  let tsp := fieldAt fr 4 4
  let gm := BitVec.ofNat 64 (fieldAt fr 16 8)
  let tspOk := tsp == 0xFFFF_FFFF || (match Tab.find c.g.tokens tsp with
    | some t => t.kind != .defer
    | none => false)
  let words := match launchOf s c.g with
    | some l => l.img.words
    | none => 0
  if c.g.trapMask.isNone ∨ c.sp.mask.toNat ≠ fieldAt fr 8 8 ∨ !gmLegal gm ∨ !tspOk ∨ words ≤ pc then illegal 3 0 c.low
  else do
    let (s, k) ← clauseHolding s c.key c.g pc
    pure (updG s c.key fun g => { g with gm, trapMask := none, splits := Tab.modify g.splits c.si fun x =>
      { x with pc, clause := k, tsp := if tsp = 0xFFFF_FFFF then none else some tsp } })

/-! ### Ends of a word -/

/-- What every completed word does: the fetch stop ends, the issue is spent, splits that an instruction stalled may try again. -/
def retire (s : State) (c : WCtx) : State :=
  let s := clearXfaults s c.g.core c.key
  updG { s with issue := none, fresh := s.fresh + 1 } c.key fun g => 
    { g with susp := none, want := none, lastIssue := s.time,
             splits := g.splits.map fun e => (e.1, { e.2 with stall := e.1 != c.si && e.2.stall && e.2.clause.isNone }) }

/-- The split after a word that completes: at the next word (R52), or, where the word has issued again, where it had
come (R60, R173). -/
def nextWord (c : WCtx) (x : Split) : Split :=
  match x.back with
  | (w, pc, k, _) :: ws =>
    if w = c.sp.pc then { x with pc, clause := k, stall := false, back := ws }
    else { x with pc := c.sp.pc + 1, clause := clauseAt c.sp.clause (c.sp.pc + 1), stall := false }
  | [] => { x with pc := c.sp.pc + 1, clause := clauseAt c.sp.clause (c.sp.pc + 1), stall := false }

/-- The split goes on. -/
def advance (s : State) (c : WCtx) : State := setSplit s c.key c.si (nextWord c)

/-- A word that has taken effect, or that performs nothing. -/
def finish (s : State) (c : WCtx) : State := advance (retire s c) c

/-- A word that does not issue now: no issue of its group, so the ready splits have not been passed over for it (R391). -/
def stalled (s : State) (c : WCtx) : State :=
  updG { s with issue := none } c.key fun g =>
    { g with splits := g.splits.map fun e =>
        (e.1, if e.1 = c.si then { e.2 with stall := true } else if splitReady g e.2 then { e.2 with passed := e.2.passed - 1 } else e.2) }

/-- The end of a word by what its body answered. -/
def settle (s : State) (c : WCtx) (done : State → State) : Try State → State
  | .ok s' => done s'
  | .error (.trap t) => takeFault s c.key c.si t c.sp.pc false
  | .error .stall => stalled s c
  | .error (.wait ps) => suspend { s with issue := none } c.key c.si ps
  | .error (.lost d) => takeLoss s c.key d

/-- ISSUING A WORD, once for all words but the control words: with an empty effective mask it performs nothing
(R67). -/
def runWord (s : State) (body : WCtx → State → Try State) : Out :=
  match issueCtx s with
  | none => .fault .noIssuer
  | some c => .next (if c.eff = 0 then finish s c else settle s c (fun s' => finish s' c) (body c s))

/-- A word with a check that is made whatever the mask, since it traps at decode (R66). -/
def runWordAfter (s : State) (check : WCtx → Try Unit) (body : WCtx → State → Try State) : Out :=
  match issueCtx s with
  | none => .fault .noIssuer
  | some c => .next (settle s c (fun s' => finish s' c) (do
      check c
      if c.eff = 0 then pure s else body c s))

/-- A word whose effective mask is the split's mask (`sel`, `ssel`; R67). -/
def runSel (s : State) (body : WCtx → State → Try State) : Out :=
  match issueCtx s with
  | none => .fault .noIssuer
  | some c => .next (settle s { c with eff := c.sp.mask } (fun s' => finish s' c) (body { c with eff := c.sp.mask } s))

/-- A control word, whose body sends the split where it goes (R45, R396). -/
def runCtl (s : State) (body : WCtx → State → Try State) : Out :=
  match issueCtx s with
  | none => .fault .noIssuer
  | some c => .next (settle s c (fun s' => retire s' c) (body c s))

/-- A long-latency word: refused while its tumbler stands at 63; `body` gives the state and the result in flight
(R56, R58). -/
def runLong (s : State) (body : WCtx → State → Try (State × Pending)) : Out :=
  runWord s fun c s =>
    match tumblerOf c.sp with
    | some t =>
      if 63 ≤ c.g.tumbler t then .error .stall
      else do
        let (s, p) ← body c s
        pure (updG s c.key fun g => { g.bumpT t with pending := g.pending ++ [{ p with tumbler := some t }] })
    | none => do
      let (s, p) ← body c s
      pure (updG s c.key fun g => { g with pending := g.pending ++ [p] })

/-- A result in flight that names no destination yet. -/
def blankPending (id pc : Nat) : Pending :=
  { id, tumbler := none, elems := [], tags := [], svals := [], ready := false, poison := none, pc }

/-! ### Non-blocking results (R47) -/

/-- p[pdst] of every active lane. -/
def nbWrite (s : State) (c : WCtx) (p : Nat) (v : Bool) : State :=
  updG s c.key fun g => g.mixPred p c.eff (if v then BitVec.allOnes 64 else 0)

/-! ### Access checks of a core (R210 to R215) -/

def Group.seg (g : Group) (k : Nat) : Seg := Tab.fetch ⟨0, 0, false, false, false⟩ g.segs k

/-- DETAIL of the memory classes (R427): 0 read, 1 write, 2 atomic; segment code. -/
def memDetail (rw seg : Nat) : Nat := rw + 4 * seg
/-- Permissions an access needs (R82). -/
def needOf (rw : Nat) : Nat := if rw = 0 then 1 else if rw = 1 then 2 else 3

/-- One lane's access: its lane, and y = the segment offset before BASE (R210). -/
structure Acc where
  lane : Nat
  y : Nat
deriving DecidableEq, Repr

/-- The value in the address register (R210). -/
def addrValue (g : Group) (seg ak a lane : Nat) : Nat :=
  if seg = 0 ∨ seg = 3 then
    if ak = 0 then (g.val false a lane) + 2 ^ 32 * (g.val false (a + 1) lane) else (g.s a).toNat
  else if ak = 0 then g.val false a lane else (g.s a).toNat % 2 ^ 32

/-- x + off·z; in gl it wraps, in sf it stays in the offset field, whose carry R210 stops. -/
def accOf (g : Group) (seg ak a : Nat) (add lane : Nat) : Acc :=
  let x := addrValue g seg ak a lane
  ⟨lane, if seg = 0 then (x + add) % 2 ^ 64 else x + add⟩

/-- The virtual address or place a byte at offset y of a lane's access reaches (R210). -/
def pvAddr (g : Group) (base y lane : Nat) : Nat := (base + (y / 4 * g.width + lane) * 4 + y % 4) % 2 ^ 64

/-- Segment-limit failure of an access (R210): of limited segments, of sf's offset carry, of core arrays' ends. -/
def limitBad (g : Group) (seg ak a add z : Nat) (x : Acc) : Bool :=
  let sg := g.seg seg
  if seg = 3 then decide (2 ^ 32 ≤ addrValue g 3 ak a x.lane % 2 ^ 32 + add)
    || (!sg.unb && decide (sg.limit.toNat < x.y + z))
  else (!sg.unb && decide (sg.limit.toNat < x.y + z))
    || ((seg == 1 || seg == 2) && decide (2 ^ 19 < sg.base.toNat + x.y + z))
    || (seg == 7 && decide (256 < sg.base.toNat + x.y + z))

/-- A harvest group whose team holds lent scratchpad (R420). -/
def holdsLent (s : State) (g : Group) : Bool :=
  g.harvest && (match teamOf s g with
    | some t => decide (0 < t.scratch)
    | none => false)

/-- R211, R420: a lane-independent permission failure of a segment. -/
def permBad (s : State) (g : Group) (seg rw : Nat) : Bool :=
  let sg := g.seg seg
  (if rw = 0 then !sg.rd else !sg.wr)
    || (holdsLent s g && (seg == 1 || seg == 2) && !(g.inRegion && !g.lost))

/-- The virtual address of a byte at offset y of a lane's access (R210). -/
def byteAddr (g : Group) (seg : Nat) (x : Acc) (i : Nat) : Nat :=
  let base := (g.seg seg).base.toNat
  if seg = 5 then pvAddr g base (x.y + i) x.lane else (base + x.y + i) % 2 ^ 64

/-- The virtual page a byte's check names, for a record (R427). -/
def bytePage (g : Group) (seg : Nat) (x : Acc) (i : Nat) : Nat := byteAddr g seg x i / 4096 * 4096

/-- The virtual addresses of an access's bytes, none in the memories of a core. -/
def byteAddrs (g : Group) (seg : Nat) (x : Acc) (z : Nat) : List Nat :=
  if seg = 1 ∨ seg = 2 ∨ seg = 7 then [] else (List.range z).map (byteAddr g seg x)

/-- One byte's check: a virtual address or a place in a core. Segment sv holds virtual addresses: R77's table has it in core
SRAM, R209 and R210 translate it, and the model follows these (DEDUCED, log 105). -/
def byteCheck (s : State) (key : Nat) (g : Group) (seg need : Nat) (x : Acc) (i : Nat) : XRes :=
  let base := (g.seg seg).base.toNat
  match seg with
  | 1 => .ok ⟨.core g.core, base + x.y + i⟩
  | 2 => .ok ⟨.core (g.core ^^^ 1), base + x.y + i⟩
  | 7 => .ok ⟨.mb key, base + x.y + i⟩
  | _ => xlate s g.core g.ctx key (byteAddr g seg x i) need

/-- The misses of a list of checks. -/
def missesOf (xs : List XRes) : List (Nat × Nat) :=
  xs.filterMap fun x => match x with
    | .miss va n => some (va, n)
    | _ => none

/-- The fault of lowest page, with its lane (R96). -/
def lowFault : List (XRes × Nat × Nat) → Option (Nat × Nat × Nat)
  | [] => none
  | (.fault c, pg, lane) :: xs => match lowFault xs with
    | some (c', pg', lane') => if pg' < pg then some (c', pg', lane') else some (c, pg, lane)
    | none => some (c, pg, lane)
  | _ :: xs => lowFault xs

/-- R96 for all lanes: every page and frame checked before any lane moves data. A
request of a core whose station is dead is lost (R118). -/
def checkPages (s : State) (key : Nat) (g : Group) (seg rw z : Nat) (xs : List Acc) : Try (List (Nat × List Loc)) :=
  if deadStation s (clusterStation s (g.core / 4)) && !([1, 2, 7].contains seg) then .error (.lost 0)
  else
  let rs := xs.map fun x => (x, (List.range z).map fun i => byteCheck s key g seg (needOf rw) x i)
  let flat := rs.flatMap fun r => (List.range z).map fun i => (r.2.getD i .stall, bytePage g seg r.1 i, r.1.lane)
  let all := flat.map (·.1)
  let misses := missesOf all
  if !misses.isEmpty then .error (.wait misses)
  else if all.contains .stall then .error (.wait [])
  else match lowFault flat with
    | some (c, pg, lane) => .error (.trap ⟨c, memDetail rw seg, pg, lane⟩)
    | none => match all.find? fun x => (match x with
        | .lost _ => true
        | _ => false) with
      | some (.lost d) => .error (.lost d)
      | _ => .ok (rs.map fun r => (r.1.lane, okLocs r.2))

/-- R174's checks of lanes' surface addresses, each check over all lanes before the next, then their places. -/
def checkSurf (s : State) (g : Group) (rw z : Nat) (xs : List Acc) : Try (List (Nat × List Loc)) :=
  match xs.find? fun x => saRsv x.y != 0 with
  | some x => illegal 1 x.y x.lane
  | none =>
    match xs.find? fun x => match surfCheck s g.ctx x.y rw 3 with
      | .error _ => true
      | .ok _ => false with
    | some x => .error (.trap ⟨0x03, memDetail rw 3, x.y, x.lane⟩)
    | none =>
      match xs.find? fun x => match Tab.find s.surfs (saHandle x.y) with
        | some f => decide (f.bytes < saOff x.y + z)
        | none => true with
      | some x => .error (.trap ⟨0x04, memDetail rw 3, x.y, x.lane⟩)
      | none => .ok (xs.map fun x => (x.lane, (⟨.surf (saHandle x.y) (saView x.y), saOff x.y⟩ : Loc).span z))

/-- Blocks that places touch, of one surface. -/
def blocksOf (f : Surf) (h : Nat) (ls : List Loc) : List Nat :=
  (ls.filterMap fun l => match surfOf l with
    | some (k, _) => if k = h then some (l.addr / f.blk) else none
    | none => none).eraseDups

/-- The tiles that the places of an access lie in (R186). -/
def tilesOf (s : State) (ls : List Loc) : List (Nat × Nat) :=
  (ls.filterMap fun l => match surfOf l with
    | some (h, _) => (Tab.find s.surfs h).map fun f => (h, l.addr / f.bt)
    | none => none).eraseDups

/-- R187 for the surface places of one access, by lane: reads are served or restore, writes need every tile; the
backing-exhausted fault names the first place whose tile has no slot. -/
def touchSurf (s : State) (rw : Nat) (xs : List (Nat × List Loc)) : Try State :=
  let ls := xs.flatMap (·.2)
  (ls.filterMap fun l => (surfOf l).map (·.1)).eraseDups.foldlM (fun s h =>
    match Tab.find s.surfs h with
    | none => .ok s
    | some f =>
      let bs := blocksOf f h ls
      let held := tilesOf s ls
      if rw = 0 then .ok (bs.foldl (touchRead held h) s)
      else match touchWrites held s h (bs.map (· / f.bpt)).eraseDups with
        | (s', true) => .ok s'
        | (s', false) =>
          let bad := (xs.flatMap fun x => x.2.map fun l => (x.1, l)).find? fun x => match surfOf x.2 with
            | some (k, _) => k == h && (tslotOf s' h (x.2.addr / f.bt)).isNone
            | none => false
          let (lane, off) := match bad with
            | some x => (x.1, x.2.addr)
            | none => (0, 0)
          .error (.trap ⟨0x05, memDetail rw 3, h * 2 ^ 50 + f.gen * 2 ^ 44 + off, lane⟩)) s

/-- The places of an access that no line of its core's L1 holds: those that requests go out for. -/
def unheld (s : State) (core : Nat) (ls : List Loc) : List Loc :=
  ls.filter fun l => match l1Key l with
    | some (surf, line) => (l1Get s core surf line).isNone
    | none => true

/-- All checks of a core's access in R215's order: limits, R211, then R174 or R96; the places of every lane. A load or a store
whose requests back-pressure would hold does not issue (R111). -/
def access (s : State) (key : Nat) (g : Group) (seg ak a add rw z : Nat) (xs : List Acc) : Try (State × List (Nat × List Loc)) :=
  match xs.find? (limitBad g seg ak a add z) with
  | some x => .error (.trap ⟨0x04, memDetail rw seg, x.y, x.lane⟩)
  | none =>
    if permBad s g seg rw then .error (.trap ⟨0x03, memDetail rw seg, (xs.headD ⟨0, 0⟩).y, (xs.headD ⟨0, 0⟩).lane⟩)
    else if seg = 3 then do
      let ls ← checkSurf s g rw z (xs.map fun x => { x with y := ((g.seg 3).base.toNat + x.y) % 2 ^ 64 })
      let s ← touchSurf s rw ls
      pure (s, ls)
    else do
      let ls ← checkPages s key g seg rw z xs
      if rw ≠ 2 ∧ linesHeld s (coreSource s g.core) (unheld s g.core (ls.flatMap (·.2))) then .error .stall
      pure (s, ls)

/-- A uniform access of `n` bytes at an address in a segment, for the active lane the word counts for. -/
def uniform (s : State) (c : WCtx) (seg : Nat) (y n rw : Nat) : Try (List Loc) :=
  let x : Acc := ⟨c.low, y⟩
  let sg := c.g.seg seg
  if (!sg.unb && decide (sg.limit.toNat < y + n)) || ((seg == 1 || seg == 2) && decide (2 ^ 19 < sg.base.toNat + y + n))
      || (seg == 7 && decide (256 < sg.base.toNat + y + n)) then .error (.trap ⟨0x04, memDetail rw seg, y, c.low⟩)
  else if permBad s c.g seg rw then .error (.trap ⟨0x03, memDetail rw seg, y, c.low⟩)
  else (checkPages s c.key c.g seg rw n [x]).map fun ls => ls.flatMap (·.2)

/-- Read the group's own view of places: its requests first, then L1 and the region buffer (R213, R219); what L1 cannot hold
takes requests of its own (R115). -/
def groupLoad (s : State) (key : Nat) (g : Group) (ls : List Loc) : State × List (BitVec 8) :=
  let s := countLines (settleOwn s key ls) (coreSource s g.core) false (ls.filter fun l => l.sp != .log)
  let (s, bs) := coreLoads s g.core g.ctx ls
  (s, (ls.zip bs).map fun p => if g.inRegion && !g.lost then (bufByte g.buf p.1).getD p.2 else p.2)

/-- Words that cannot be buffered take a region's idempotence away (R221); a harvest team that holds lent
scratchpad may not (R420). -/
def unbuffered (s : State) (c : WCtx) (rw seg : Nat) : Try State :=
  if c.g.inRegion && !c.g.lost then
    if holdsLent s c.g then .error (.trap ⟨0x03, memDetail rw seg, 0, c.low⟩) else .ok (loseIdem s c.key)
  else .ok s

/-- A word's operations are performed, or wait in the region buffer. -/
def doOps (s : State) (c : WCtx) (os : List BufOp) : State := os.foldl (fun s o => doOrBuffer s c.key o) s

/-- Whether a word's operations would pass the limits of the region buffer of a group that may not lose idempotence (R420). -/
def overfills (s : State) (c : WCtx) (os : List BufOp) : Bool :=
  holdsLent s c.g && c.g.inRegion && !c.g.lost && ((Tab.find (doOps s c os).groups c.key).map (·.lost)).getD false

/-- The operations of a word that can be buffered (R218, R221); a harvest team that holds lent scratchpad may not exceed
the buffer (R420). -/
def bufferOps (s : State) (c : WCtx) (rw seg : Nat) (os : List BufOp) : Try State :=
  if overfills s c os then .error (.trap ⟨0x03, memDetail rw seg, 0, c.low⟩) else .ok (doOps s c os)

/-! ### Events held back (R92, R116) -/

/-- An event that must wait: while routes change, for a locked frame, or for a page. -/
def holdBack (s : State) (e : Instr) : State := if s.paused.contains e then s else { s with paused := s.paused ++ [e] }
/-- Such events are tried again, once stations inject (R116). -/
def resumePaused (s : State) : State := if s.reroute.isSome then s else laterAll { s with paused := [] } s.paused

end Sys2Proof.Machine
end

