-- ==== Sys2Proof/Machine/Operands.lean ====
section
/-! DEFINITION. Operand forms: the lane crossbar (R246), vector sources with their broadcasts (R48 to R50), bounds
(R243), tags (R245), packed elements (R32), scalar sources (R258), and the writing of results (R244). -/
namespace Sys2Proof.Machine

/-! ### Elements of a row (R32) -/

/-- Elements per lane of a type, and the element width. -/
def elemCount (ty : Nat) : Nat := if tWide ty then 1 else 32 / tWidth ty
/-- Element `j` of width `w`. -/
def elemAt (w v j : Nat) : Nat := (v >>> (w * j)) % 2 ^ w
/-- Elements of width `w` joined low-first. -/
def joinElems (w : Nat) : List Nat → Nat
  | [] => 0
  | e :: es => e % 2 ^ w + 2 ^ w * joinElems w es

/-- An operation applied to each element position of one or more row values. -/
def mapElems (ty v : Nat) (f : Nat → Nat) : Nat :=
  let w := tWidth ty
  joinElems w ((List.range (elemCount ty)).map fun j => f (elemAt w v j))
def zipElems (ty a b : Nat) (f : Nat → Nat → Nat) : Nat :=
  let w := tWidth ty
  joinElems w ((List.range (elemCount ty)).map fun j => f (elemAt w a j) (elemAt w b j))
def zip3Elems (ty a b c : Nat) (f : Nat → Nat → Nat → Nat) : Nat :=
  let w := tWidth ty
  joinElems w ((List.range (elemCount ty)).map fun j => f (elemAt w a j) (elemAt w b j) (elemAt w c j))

/-! ### The crossbar (R246) -/

/-- π(L). -/
def xbar (g : Group) (pat lane : Nat) : Nat :=
  match pat with
  | 1 => (lane + g.rot) % g.width
  | 2 => lane ^^^ (g.xmask &&& (g.width - 1))
  | 3 => g.blane % g.width
  | _ => lane

/-! ### Vector registers named by a word -/

/-- The tag classes of R245. -/
inductive TagCls where
  | arith | bitwise | move | free
  /-- A list of codes, for the entries that name their own. -/
  | codes (ts : List Nat)
deriving DecidableEq, Repr

/-- A register that a word names: its DETAIL code (0 dst, 1 srcA or src, 2 srcB, 3 implicit; R427), W or V view,
register code, pattern, and the tag class it is read under (`free` when it is only written). -/
structure Opnd where
  det : Nat
  wide : Bool
  code : Nat
  pat : Nat
  cls : TagCls
deriving DecidableEq, Repr

/-- R243: outside its view. Codes from 112 name scalars and have no bound. -/
def outOfView (g : Group) (wide : Bool) (i : Nat) : Bool := decide (g.vCount (if wide then 1 else 0) ≤ i)
def Opnd.bad (g : Group) (o : Opnd) : Bool := (decide (o.code < 112) || o.det == 3) && outOfView g o.wide o.code

/-- R245: the tag is not accepted, or rows disagree. -/
def Opnd.badTag (g : Group) (o : Opnd) : Bool :=
  if 112 ≤ o.code ∧ o.det ≠ 3 then false
  else
    let t := g.regTag (if o.wide then 1 else 0) o.code
    match o.cls with
    | .free => false
    | .move => t.isNone
    | .arith => t != some g.ty
    | .bitwise => t != some g.ty && t != some tRAW
    | .codes ts => !(ts.any fun x => t == some x)

/-- Steps 3a to 3c of R67 for a vector word: gm.TYPE admitted, every register within its view, every tag
accepted, each in the order dst, srcA, srcB, implicit rows. A type not admitted is DETAIL 3, a wrong mode
(DEDUCED, log 19). -/
def vecCheck (c : WCtx) (admitted : Bool) (os : List Opnd) : Try Unit :=
  if !admitted then illegal 3 0 c.low
  else match os.find? (·.bad c.g) with
    | some o => .error (.trap ⟨0x07, o.det, 0, c.low⟩)
    | none => match os.find? (·.badTag c.g) with
      | some o => .error (.trap ⟨0x06, o.det, 0, c.low⟩)
      | none => .ok ()

/-- Lane `l`'s value of a source: 32 bits, or 64 for W; a scalar gives every lane the same (R49). -/
def Opnd.val (g : Group) (o : Opnd) (l : Nat) : Nat :=
  if 112 ≤ o.code ∧ o.det ≠ 3 then (if o.wide then (g.s (o.code - 112)).toNat else (g.s (o.code - 112)).toNat % 2 ^ 32)
  else g.val o.wide o.code (xbar g o.pat l)

/-- The tag that a move carries: the source's, or gm.TYPE for a scalar (R249). -/
def Opnd.tag (g : Group) (o : Opnd) : Nat :=
  if 112 ≤ o.code then g.ty else (g.regTag (if o.wide then 1 else 0) o.code).getD 0

/-! ### Results -/

/-- Write the active lanes of a register and its tag (R244). -/
def writeVec (s : State) (c : WCtx) (wide : Bool) (i : Nat) (f : Nat → Nat) (tag : Nat) : State :=
  updG s c.key fun g => g.putReg wide i (c.lanes.map fun l => (l, f l)) tag

/-- A pending result for the active lanes of a register (R58). -/
def pendVec (c : WCtx) (p : Pending) (wide : Bool) (i : Nat) (f : Nat → Nat) (tag : Nat) : Pending :=
  { p with elems := p.elems ++ c.g.laneElems wide i (c.lanes.map fun l => (l, f l)),
           tags := p.tags ++ (c.g.regRows wide i).map fun r => (r, BitVec.ofNat 5 tag) }

/-- A lane mask from a test of the active lanes. -/
def laneMask (c : WCtx) (f : Nat → Bool) : BitVec 64 :=
  BitVec.ofNat 64 (c.lanes.foldl (fun a l => if f l then a + 2 ^ l else a) 0)

/-- Write p(PD) of the active lanes. -/
def writePred (s : State) (c : WCtx) (p : Nat) (f : Nat → Bool) : State :=
  updG s c.key fun g => g.mixPred p c.eff (laneMask c f)

/-- Write a scalar (R258). -/
def writeS (s : State) (c : WCtx) (i : Nat) (v : Nat) : State :=
  updG s c.key fun g => g.setS i (BitVec.ofNat 64 v)

/-- A scalar source: codes 64 to 127 are immediates (R258). -/
def scalarSrc (g : Group) (a : BitVec 7) : Nat := if a.toNat < 64 then (g.s a.toNat).toNat else a.toNat - 64

/-! ### The common shapes of vector words -/

/-- Sources and destination of a V-format word (R48): dst, srcA, srcB with their patterns. -/
def opD (wide : Bool) (d : BitVec 7) (cls : TagCls := .free) : Opnd := ⟨0, wide, d.toNat, 0, cls⟩
def opA (wide : Bool) (i : BitVec 2) (a : BitVec 7) (cls : TagCls) : Opnd := ⟨1, wide, a.toNat, i.toNat, cls⟩
def opB (wide : Bool) (j : BitVec 2) (b : BitVec 7) (cls : TagCls) : Opnd := ⟨2, wide, b.toNat, j.toNat, cls⟩

/-- A two-source word: checks, then a function of the lane's two values into dst. -/
def vec2 (s : State) (okTy : Nat → Bool) (ca cb : TagCls) (d : BitVec 7) (i : BitVec 2) (a : BitVec 7) (j : BitVec 2) (b : BitVec 7)
    (f : Group → Nat → Nat → Nat) : Out :=
  runWord s fun c s => do
    let w := tWide c.g.ty
    let oa := opA w i a ca
    let ob := opB w j b cb
    vecCheck c (okTy c.g.ty) [opD w d, oa, ob]
    pure (writeVec s c w d.toNat (fun l => f c.g (oa.val c.g l) (ob.val c.g l)) c.g.ty)

/-- A three-source word: dst is read as the third source. -/
def vec3 (s : State) (okTy : Nat → Bool) (cls : TagCls) (d : BitVec 7) (i : BitVec 2) (a : BitVec 7) (j : BitVec 2) (b : BitVec 7)
    (f : Group → Nat → Nat → Nat → Nat) : Out :=
  runWord s fun c s => do
    let w := tWide c.g.ty
    let od := opD w d cls
    let oa := opA w i a cls
    let ob := opB w j b cls
    vecCheck c (okTy c.g.ty) [od, oa, ob]
    pure (writeVec s c w d.toNat (fun l => f c.g (oa.val c.g l) (ob.val c.g l) (od.val c.g l)) c.g.ty)

end Sys2Proof.Machine
end

