-- ==== Sys2Proof/Machine/Flags.lean ====
section
/-! DEFINITION. Ranges, carries and conditions: the range rule of R260, the carry predicate of R263, the
conditions of R265 and R283. -/
namespace Sys2Proof.Machine

/-- An element read by its type's signedness (R24). -/
def elemInt (ty v : Nat) : Int := if tSigned ty then toS (tWidth ty) v else ((v % 2 ^ tWidth ty : Nat) : Int)

/-- The range of an integer type (R24). -/
def tyMin (ty : Nat) : Int := if tSigned ty then -(2 ^ (tWidth ty - 1) : Nat) else 0
def tyMax (ty : Nat) : Int := if tSigned ty then (2 ^ (tWidth ty - 1) : Nat) - 1 else (2 ^ tWidth ty : Nat) - 1

/-- R260: an exact result modulo 2^n, or clamped when saturating. -/
def ranged (ty : Nat) (sat : Bool) (r : Int) : Nat :=
  ofS (tWidth ty) (if sat then max (tyMin ty) (min (tyMax ty) r) else r)

/-- R263: the sum or difference with the carry or borrow in, and the carry or borrow out. -/
def addCarry (e d x c : Nat) : Nat × Bool := ((d + x + c) % 2 ^ e, decide (2 ^ e ≤ d + x + c))
def subBorrow (e d x c : Nat) : Nat × Bool := (ofS e ((d : Int) - x - c), decide ((d : Int) - x - c < 0))

/-- R265: a condition on two elements; `sgn` reads 2 to 5 as signed. -/
def condHolds (cond : Nat) (sgn : Bool) (w a b : Nat) : Bool :=
  let x := if sgn then toS w a else (a : Int)
  let y := if sgn then toS w b else (b : Int)
  match cond with
  | 0 => a == b
  | 1 => a != b
  | 2 => decide (x < y)
  | 3 => decide (x ≤ y)
  | 4 => decide (y < x)
  | 5 => decide (y ≤ x)
  | 6 => decide (a < b)
  | 7 => decide (a ≤ b)
  | 8 => decide (b < a)
  | _ => decide (b ≤ a)

/-- R283: a float condition, and whether it is an invalid operation. -/
def fcondHolds (cond : Nat) (a b : XV) : Bool × Bool :=
  let un := a.isNan || b.isNan
  let sig := a.isSig || b.isSig
  match cond with
  | 0 => (!un && xcmp a b == .eq, sig)
  | 1 => (un || xcmp a b != .eq, sig)
  | 2 => (!un && xlt a b, un)
  | 3 => (!un && xle a b, un)
  | 4 => (!un && xlt b a, un)
  | 5 => (!un && xle b a, un)
  | 6 => (!un, sig)
  | _ => (un, sig)

end Sys2Proof.Machine
end

