-- ==== Sys2Proof/Machine/Place.lean ====
section
/-! DEFINITION. Room on a core: group slots, register bytes, scratchpad and issue slots (R206, R238, R383, R415, R416). -/
namespace Sys2Proof.Machine

/-! ### Room on a core -/

/-- The kinds of slot: 0 owner, 1 harvest, 2 handler (R274, R382). -/
def slotClass (kind : GroupKind) (harvest : Bool) : Nat :=
  if kind = .handler then 2 else if harvest then 1 else 0
def Group.cls (g : Group) : Nat := slotClass g.kind g.harvest
def slotBase : Nat → Nat
  | 0 => 0 | 1 => 64 | _ => 80
def slotCount : Nat → Nat
  | 0 => 64 | 1 => 16 | _ => 4
/-- Register bytes of a core for a kind: register space, latch banks, handler store (R238). -/
def regCap : Nat → Nat
  | 0 => 2 ^ 20 | 1 => 2 ^ 18 | _ => 2 ^ 15

def coreGroups (s : State) (core : Nat) : List Group := (s.groups.filter fun e => e.2.core == core).map (·.2)
/-- Free group slots of a kind, lowest first. -/
def freeSlots (s : State) (core cls : Nat) : List Nat :=
  ((List.range (slotCount cls)).map (· + slotBase cls)).filter fun n => !((coreGroups s core).any fun g => g.slot == n)
/-- Free register bytes of a kind. -/
def regsFree (s : State) (core cls : Nat) : Nat :=
  regCap cls - (coreGroups s core).foldl (fun a g => if g.cls = cls then a + g.regBytes else a) 0

/-- Scratchpad spans of the resident teams on a core: base, bytes, harvest. -/
def padSpans (s : State) (core : Nat) : List (Nat × Nat × Bool) :=
  s.teams.filterMap fun e =>
    let t := e.2
    if !t.resident || t.needLent || t.scratch == 0 then none
    else if t.core = core then some (t.sp0, t.scratch, t.harvest)
    else if t.paired ∧ t.core + 1 = core then some (t.sp1, t.scratch, t.harvest)
    else none
def padUsed (s : State) (core : Nat) (harvest : Bool) : Nat :=
  (padSpans s core).foldl (fun a x => if x.2.2 == harvest then a + x.2.1 else a) 0

def coreInfo (s : State) (core : Nat) : CoreInfo := Tab.fetch ⟨false⟩ s.cores core
/-- Scratchpad bytes of a core that no resident team holds: an owner team may take them, and the core may lend them to a
harvest team (R421). -/
def padFree (s : State) (core : Nat) : Nat := 2 ^ 19 - padUsed s core false - padUsed s core true

/-- Whether an owner group of priority class 0 is resident on a core: its harvest groups are parked (R422). -/
def classZero (s : State) (core : Nat) : Bool :=
  s.groups.any fun e => e.2.core == core && !e.2.harvest && (match Tab.find s.ctxs e.2.ctx with
    | some c => c.prio == 0
    | none => false)

/-- The lowest base at which `n` bytes are free: a team's scratchpad is one range (R77, R204; DEDUCED, log 129). -/
def padHole (s : State) (core n : Nat) : Option Nat :=
  let used := padSpans s core
  let ok := (0 :: used.map fun x => x.1 + x.2.1).filter fun b =>
    decide (b + n ≤ 2 ^ 19) && used.all fun x => decide (b + n ≤ x.1) || decide (x.1 + x.2.1 ≤ b)
  if ok.isEmpty then none else some (listMin ok)

/-- R416: the issue slot with the fewest bound groups of a kind, harvest or not; the lowest on a tie. -/
def issueSlot (s : State) (core : Nat) (harvest : Bool) : Nat :=
  let count := fun n => ((coreGroups s core).filter fun g => g.islot == n && g.harvest == harvest).length
  (List.range 8).foldl (fun b n => if count n < count b then n else b) 0

end Sys2Proof.Machine
end

