-- ==== Sys2Proof/Machine/Sync.lean ====
section
/-! DEFINITION. Fences, barriers, waits and moves (R133, R134, R234 to R237). -/
namespace Sys2Proof.Machine

/-- Time never runs back (R16, R275): a timed event brings the device time it happens at. -/
def atTime (s : State) (t : Nat) : State := { s with time := max s.time t }

/-! ### Fences and barriers -/

/-- Whether an earlier `waita` or `qpop` of a group has not returned its value. -/
def readsOut (s : State) (key : Nat) (g : Group) : Bool :=
  !g.waits.isEmpty || s.sreqs.any fun r => r.key == key && (match r.kind with
    | .queue o => !o.push
    | _ => false)

/-- What a fence does at its scope (R234): ORDER 0 both, 1 acquire, 2 release; an acquire comes after the group's earlier atomics
(R373). -/
def fenceAct (s : State) (key core order scope : Nat) (paired : Bool) : State :=
  let s := if order = 1 then settleAll s key else releaseAct s key core scope paired
  if order = 2 then s else acquireAct s core scope paired

/-- R234, R373: an acquire fence stalls until every earlier read of the group has returned its value. -/
def execFence (x : BitVec 3) (o : BitVec 2) (s : State) : Out :=
  runWord s fun c s =>
    if o ≠ 2 ∧ readsOut s c.key c.g then .error .stall
    else pure (fenceAct s c.key c.g.core o.toNat x.toNat (pairedOf s c.g))

/-- R235: a handler group, and a group in trap-handler mode (R436), may issue no barrier. -/
def execBar (x : BitVec 3) (i : BitVec 4) (s : State) : Out :=
  runCtl s fun c s =>
    if c.g.kind = .handler ∨ c.g.trapMask.isSome then illegal 3 0 ((lanesOf c.w c.sp.mask).headD 0)
    else if c.g.splits.any fun e => (match e.2.barWait with
        | some (j, _) => j != i.toNat
        | none => false) then illegal 1 0 ((lanesOf c.w c.sp.mask).headD 0)
    else pure (checkBars (setSplit s c.key c.si fun x' => { x' with barWait := some (i.toNat, x.toNat) }) c.g.team)

/-- This core's L1 lines of the surfaces that a test of handles picks. -/
def dropSurfLines (s : State) (core : Nat) (p : Nat → Bool) : State :=
  l1Drop s core fun e => e.surf && p (128 * e.line / 2 ^ 33)

/-- R236 for the surfaces that a test picks. -/
def surfFence (s : State) (c : WCtx) (scope : Nat) (p : Nat → Bool) : State :=
  let s := (s.surfs.filter fun e => p e.1).foldl (fun s e => reportSurf s e.1) s
  let s := releaseAct s c.key c.g.core scope (pairedOf s c.g)
  let s := acquireAct s c.g.core scope (pairedOf s c.g)
  dropSurfLines s c.g.core p

/-- Checks 1 and 2 of R174 with the reserved field: the surface that an address names, for reads or writes. -/
def namedSurf (s : State) (c : WCtx) (a rw : Nat) : Try Surf :=
  match surfCheck s c.g.ctx a rw 3 with
  | .error (k, det) => .error (.trap ⟨k, det, a, c.low⟩)
  | .ok f => .ok f

/-- All of R174 for an address that names a surface as a whole. -/
def wholeSurf (s : State) (c : WCtx) (a rw : Nat) : Try Surf :=
  match namedSurf s c a rw with
  | .error e => .error e
  | .ok f => if f.bytes ≤ saOff a then .error (.trap ⟨0x04, memDetail rw 3, a, c.low⟩) else .ok f

/-- The surfaces of a context. -/
def ownSurf (s : State) (ctx h : Nat) : Bool :=
  match Tab.find s.surfs h with
  | some f => f.ctx == ctx
  | none => false

/-- R236, ALL = 0; an acquire too waits for the group's earlier reads (R373). -/
def execDfence (d : BitVec 7) (x : BitVec 3) (s : State) : Out :=
  runWord s fun c s => do
    let a := (c.g.s d.toNat).toNat
    let _ ← wholeSurf s c a 0
    if readsOut s c.key c.g then .error .stall
    else pure (surfFence s c x.toNat fun h => h == saHandle a)

/-- R236, ALL = 1. -/
def execDfenceAll (x : BitVec 3) (s : State) : Out :=
  runWord s fun c s =>
    if readsOut s c.key c.g then .error .stall
    else pure (surfFence s c x.toNat (ownSurf s c.g.ctx))

/-! ### `waita` (R134) -/

/-- The condition on the word read and the comparand. -/
def waitHolds (cond x cmp : Nat) : Bool :=
  match cond with
  | 0 => x == cmp
  | 1 => x != cmp
  | _ => decide (cmp ≤ x)

/-- The first poisoned or unreachable sector among places (R438). -/
def firstBad (s : State) (ls : List Loc) : Option Nat := ls.findSome? (badSector s)

/-- A read of `waita`, a request of the core (R115): at the home, after the group's own writes (R369), with its line filled (R85). -/
def waitRead (s : State) (key core ctx : Nat) (ls : List Loc) : State :=
  touchPlaces (countLines (ownFirst s key core ls) (coreSource s core) false ls) ctx ls

/-- R134: one read at the home; a word that meets its condition, or need not, has its result in flight, another waits. -/
def execWaita (d : BitVec 7) (x : BitVec 3) (n : BitVec 1) (p : BitVec 3) (k : BitVec 2) (g : BitVec 3) (w : BitVec 1) (s : State) : Out :=
  runLong s fun c s => do
    let z := if w = 0 then 8 else 4
    let v := (c.g.s d.toNat).toNat
    let y := (if g = 0 then v else v % 2 ^ 32) / z * z
    let ls ← uniform s c g.toNat y z 0
    let s := waitRead s c.key c.g.core c.g.ctx ls
    let cmp := c.g.s (d.toNat + 1)
    let r := leNat (readHome s ls)
    let hit := waitHolds k.toNat r cmp.toNat
    let (s, id) := newId s
    let res : Pending := { blankPending id c.sp.pc with svals := [(d.toNat + 3, BitVec.ofNat 64 r)], poison := (firstBad s ls).map (·, c.low) }
    if hit || n == 1 then
      let s := if hit then acquireAct s c.g.core x.toNat (pairedOf s c.g) else s
      let s := if n = 1 then nbWrite s c p.toNat hit else s
      pure (later s (.longLatencyCompletion c.key id), { res with ready := true })
    else
      let e : WaitA := { id, vas := byteAddrs c.g g.toNat ⟨c.low, y⟩ z, locs := ls, cond := k.toNat, cmp, dst := d.toNat + 3, lane := c.low, scope := x.toNat,
                         since := s.time, timeout := (c.g.s (d.toNat + 2)).toNat }
      pure (updG s c.key fun g => { g with waits := g.waits ++ [e] }, res)

/-- Where a waiting word is now, each byte checked anew (R83: an invalidation may have changed its translation). -/
def waitPlaces (s : State) (key : Nat) (g : Group) (e : WaitA) : Except XRes (List Loc) :=
  if e.vas.isEmpty then .ok e.locs
  else
    let xs := e.vas.map fun va => xlate s g.core g.ctx key va 1
    match firstStop xs with
    | some x => .error x
    | none => .ok (okLocs xs)

/-- A waiting `waita` ends: its result, the value last read, is on its way. -/
def endWait (s : State) (key : Nat) (e : WaitA) : State :=
  let s := updG s key fun g => { g with waits := g.waits.filter fun w => w.id != e.id }
  later (setPending s key e.id fun p => { p with ready := true }) (.longLatencyCompletion key e.id)

/-- R134: pre-emption, a kill or a never-produced trap ends a group's waits at once. -/
def endWaits (s : State) (key : Nat) : State :=
  match Tab.find s.groups key with
  | some g => g.waits.foldl (fun s e => endWait s key e) s
  | none => s

/-- R134, WAITA_RECHECK: the word is read again; its condition or its timeout ends the wait. A translation that must be
had anew is asked for; one that cannot be had ends the wait with the value last read (DESIGN CHOICE, log 106). -/
def execWaitaRecheck (key id t : Nat) (s : State) : Out :=
  let s := atTime s t
  match Tab.find s.groups key with
  | none => .next s
  | some g => match g.waits.find? fun e => e.id == id with
    | none => .next s
    | some e =>
      match waitPlaces s key g e with
      | .error (.miss va need) => .next (later s (.translationMiss g.core g.ctx key (va / 4096 * 4096) need))
      | .error .stall => .next s
      | .error _ => .next (endWait (clearXfaults s g.core key) key e)
      | .ok ls =>
        let s := waitRead s key g.core g.ctx ls
        let v := leNat (readHome s ls)
        let s := setPending s key id fun p => { p with svals := [(e.dst, BitVec.ofNat 64 v)], poison := (firstBad s ls).map (·, e.lane) }
        if waitHolds e.cond v e.cmp.toNat then .next (endWait (acquireAct s g.core e.scope (pairedOf s g)) key e)
        else if e.timeout ≠ 0 ∧ e.since + e.timeout ≤ s.time then .next (endWait s key e)
        else .next s

/-! ### `wcnt` (R133) -/

/-- The oldest retired operation of a class that still holds its deferred fault (R129). -/
def deferredOf (g : Group) (cls : Nat) : Option (OutOp × Rec) :=
  match ((g.ops.filter fun o => o.cls == cls).takeWhile fun o => o.finished).find? fun o => o.fault.isSome with
  | some o => o.fault.map fun r => (o, r)
  | none => none

def clearDeferred (g : Group) (id : Nat) : Group :=
  { g with ops := pruneOps (g.ops.map fun o => if o.id == id then { o with fault := none } else o) }

/-- R133; the fault of a traversal names its own lane (R336). -/
def execWcnt (x : BitVec 3) (n : BitVec 1) (p : BitVec 3) (k : BitVec 3) (b : BitVec 8) (s : State) : Out :=
  runCtl s fun c s =>
    if c.eff = 0 then pure (advance s c)
    else if b.toNat < c.g.counter k.toNat then
      if n = 1 then pure (advance (nbWrite s c p.toNat false) c) else .error .stall
    else match deferredOf c.g k.toNat with
      | some (o, r) => do
        handlerReady s c.key c.g r.cls
        let lane := if k = 5 then bits r.who 27 22 else c.low
        pure (takeFault (updG s c.key fun g => clearDeferred g o.id) c.key c.si ⟨r.cls, r.detail, r.addr, lane⟩ c.sp.pc true)
      | none =>
        let s := acquireAct s c.g.core x.toNat (pairedOf s c.g)
        pure (advance (if n = 1 then nbWrite s c p.toNat true else s) c)

/-! ### `gmove` (R237) -/

/-- Ring hops of a request from a core's cluster station to a slice. -/
def coreHops (s : State) (slice core : Nat) : Nat := routeHops s .request (clusterStation s (core / 4)) (sliceStation slice)

/-- The cores nearest to a slice. -/
def nearestCores (s : State) (slice : Nat) : List Nat :=
  let best := listMin ((List.range 22).map fun cl => coreHops s slice (4 * cl))
  (List.range 88).filter fun c => coreHops s slice c == best

/-- Whether `gmove` may move the group at all. -/
def movable (s : State) (g : Group) : Bool :=
  !g.harvest && g.splits.length == 1 && (match teamOf s g, launchOf s g with
    | some t, some l => l.img.groups == 1 && !t.paired && t.scratch == 0
    | _, _ => true)

/-- The group's move to a core: released, its region committed, resumed there after an acquire. -/
def moveGroup (s : State) (c : WCtx) (core slot : Nat) : State :=
  let s := loseIdem s c.key
  let s := releaseAct s c.key c.g.core 5 false
  let isl := issueSlot s core c.g.harvest
  let s := noteEmpty (updG s c.key fun g => { g with core, slot, islot := isl, reloc := g.reloc + 1 }) c.g.core
  let s : State := { s with teams := Tab.modify s.teams c.g.team fun t => { t with core } }
  acquireAct s core 5 false

/-- R237. -/
def execGmove (d : BitVec 7) (s : State) : Out :=
  runWord s fun c s => do
    let ls ← uniform s c 0 (c.g.s d.toNat).toNat 1 0
    let near := nearestCores s (locSlice s (ls.headD ⟨.log, 0⟩))
    let s ← unbuffered s c 0 0
    let say := fun (s : State) v => writeS s c (d.toNat + 1) v
    if !movable s c.g then pure (say s 2)
    else if near.contains c.g.core then pure (say s 1)
    else match near.find? fun k => !(freeSlots s k c.g.cls).isEmpty && decide (c.g.regBytes ≤ regsFree s k c.g.cls) with
      | none => pure (say s 3)
      | some k =>
        if (List.range 12).any fun t => c.g.tumbler t != 0 then .error .stall
        else pure (say (moveGroup s c k ((freeSlots s k c.g.cls).headD 0)) 0)

end Sys2Proof.Machine
end

