-- ==== Sys2Proof/Machine/Engine.lean ====
section
/-! DEFINITION. What the engines share: their accesses to memory with poison (R96, R121, R128, R438), the records of
an operation that ends by a fault (R129, R427), and an operation's completion (R131). -/
namespace Sys2Proof.Machine

/-! ### Accesses -/

/-- What an engine's access to a list of virtual addresses answers. -/
inductive EngRes where
  | ok (ls : List Loc)
  /-- Translations or backing to be had first (R82, R95). -/
  | wait (pages : List (Nat × Nat))
  | stall
  /-- The fault that stands, at an index of the list, with the places before it. -/
  | fault (cls at' : Nat) (good : List Loc)
  | lost (peer : Nat) (good : List Loc)
deriving DecidableEq, Repr

/-- The places up to the first check that fails. -/
def goodPrefix : List XRes → List Loc
  | .ok l :: xs => l :: goodPrefix xs
  | _ => []

/-- R96 for an engine's bytes: waits before faults, the first fault that stands. What an engine behind a dead station asks for is
lost (R118). -/
def engCheck (s : State) (eng ctx key need : Nat) (vas : List Nat) : EngRes :=
  if deadStation s (unitSource s eng / 512) then .lost 0 []
  else
  let xs := vas.map fun va => xlate s eng ctx key (va % 2 ^ 64) need
  let misses := missesOf xs
  if !misses.isEmpty then .wait (misses.map fun p => (p.1 / 4096 * 4096, p.2)).eraseDups
  else if xs.contains .stall then .stall
  else
    let good := goodPrefix xs
    match xs[good.length]? with
    | some (.fault c) => .fault c good.length good
    | some (.lost d) => .lost d good
    | _ => .ok good

/-- Ask for the pages an engine's work waits for; the answer wakes the work named by `key`. -/
def engAsk (s : State) (eng ctx key : Nat) (pages : List (Nat × Nat)) : State :=
  laterAll s (pages.map fun p => .translationMiss eng ctx key p.1 p.2)

/-! ### Requests that are lost (R118) -/

/-- A loss record: the source, the first and the last sequence number, the destination station, the reroute's time. -/
def lossRec (ctx src first last dst time : Nat) : Rec :=
  { cls := 0, kind := 2, detail := 0, ctx, source := 0x0800 + dst, time, addr := src, pc := first, who := last }

/-- What a lost request leaves of its result: nothing written, its tumbler count returned; its group stops. -/
def losePend (pend : Option Nat) (g : Group) : Group :=
  let g := { g with park := .standing, susp := none }
  match pend.bind fun id => g.pending.find? fun p => p.id == id with
  | some p => { g.dropT p.tumbler with pending := g.pending.filter fun q => q.id != p.id }
  | none => g

/-! ### Operations that end -/

/-- A group that still exists, resident or saved. -/
def groupOf (s : State) (key : Nat) : Option Group :=
  match Tab.find s.groups key with
  | some g => some g
  | none => Tab.find s.saved key

/-- The two records of an ended operation (R427). -/
def endedRecs (s : State) (ctx cls detail source addr pc who obj moved : Nat) (deferred : Bool) : List Rec :=
  [ { cls, kind := if deferred then 33 else 1, detail, ctx, source, time := s.time, addr, pc, who },
    { cls, kind := 7, detail := 0, ctx, source, time := obj, addr := moved, pc := 0, who := 0 } ]

/-- A group's operation ends by a fault: its records, the deferred fault if the group has not exited (R129). -/
def failOp (s : State) (ctx gkey op who cls detail source addr pc obj moved : Nat) : State :=
  let rs := endedRecs s ctx cls detail source addr pc who obj moved (groupOf s gkey).isSome
  finishOp (postRecs s ctx rs) gkey op rs.head?

/-- A result in flight has its scalar value; it lands later (R58). -/
def giveScalar (s : State) (gkey pend d v : Nat) : State :=
  let s := setPending s gkey pend fun p => { p with svals := [(d, BitVec.ofNat 64 v)], ready := true }
  later s (.longLatencyCompletion gkey pend)

/-- The value of a result in flight that waits for one, in the scalar it already names. -/
def giveValue (s : State) (gkey pend v : Nat) : State :=
  let s := setPending s gkey pend fun p => { p with svals := p.svals.map fun x => (x.1, BitVec.ofNat 64 v), ready := true }
  later s (.longLatencyCompletion gkey pend)

/-- Write bytes of a team's scratchpad or a group's message buffer; an ended team's allocation takes none. -/
def coreWrite (s : State) (eng ctx team : Nat) (l : Loc) (bs : List (BitVec 8)) (bad : List Nat := []) : State :=
  let alive := match l.sp with
    | .core _ => (Tab.find s.teams team).isSome
    | _ => true
  if alive then engWrite s eng ctx (l.span bs.length) bs bad else s

/-- A region in a core's own memory named at `y` whose highest byte lies before `top`, checked at issue: its limit, then its
permissions (R126, R160, R211); the place of the segment's first byte. -/
def padRegion (s : State) (c : WCtx) (seg y top rw : Nat) : Try Loc :=
  let sg := c.g.seg seg
  if (!sg.unb && decide (sg.limit.toNat < top)) || decide ((if seg = 7 then 256 else 2 ^ 19) < sg.base.toNat + top) then
    .error (.trap ⟨0x04, memDetail rw seg, y, c.low⟩)
  else if permBad s c.g seg rw then .error (.trap ⟨0x03, memDetail rw seg, y, c.low⟩)
  else .ok ⟨if seg = 7 then .mb c.key else if seg = 2 then .core (c.g.core ^^^ 1) else .core c.g.core, sg.base.toNat⟩
/-- A region of `n` bytes from `y`: the place of its first byte. -/
def padExtent (s : State) (c : WCtx) (seg y n rw : Nat) : Try Loc := (padRegion s c seg y (y + n) rw).map (·.plus y)

end Sys2Proof.Machine
end

