-- ==== Sys2Proof/Machine/KeywayCore.lean ====
section
/-! DEFINITION. The keyway (R139 to R154): homes and waypoints, interest tables, the home slice's decisions, delivery
to requester records and their completion words. -/
namespace Sys2Proof.Machine

/-! ### Keys, homes and waypoints (R139 to R141) -/

/-- R140: the home slice of a key. -/
def keyHome (key : Nat) : Nat :=
  let h := bits key 63 48 ^^^ bits key 47 32 ^^^ bits key 31 16 ^^^ bits key 15 0
  bits h 6 0 ^^^ bits h 13 7 ^^^ bits h 15 14
def keyTensor (key : Nat) : Nat := bits key 63 40
def keyIter (key : Nat) : Nat := bits key 15 0
/-- The home waypoint. -/
def keyStation (key : Nat) : Nat := sliceStation (keyHome key)

/-- The waypoints between two legs of a route: one hinge station, named by the lower of its two IDs, or the two
boundary stations. -/
def joint (a b : Nat × Nat × Nat) : List Nat :=
  if a.1 / 4 = b.1 / 4 then [min (16 * a.1 + a.2.2) (16 * b.1 + b.2.1)] else [16 * a.1 + a.2.2, 16 * b.1 + b.2.1]
def joints : List (Nat × Nat × Nat) → List Nat
  | a :: b :: ls => joint a b ++ joints (b :: ls)
  | _ => []
/-- R141: the waypoints of an interest from a cluster station to a home waypoint. -/
def waypoints (s : State) (src dst : Nat) : List Nat := src :: joints (route s .keyway src dst) ++ [dst]
/-- The waypoint after `wp` on the route from `src`; off that route, on the route from `wp` itself (R119). -/
def nextWay (s : State) (wp src dst : Nat) : Option Nat :=
  if wp = dst then none
  else
    let ws := waypoints s src dst
    ((if ws.contains wp then ws.dropWhile (· != wp) else waypoints s wp dst).dropWhile (· == wp)).head?

/-! ### Flits -/

/-- The events that a flit waits for. -/
def flitEvents (id : Nat) : KFlit → List Instr
  | .interest .. => [.interestArrival id]
  | .refresh .. => [.refreshArrival id]
  | .source .. => [.tileArrival id]
  | .put .. => [.kputArrival id]
  | .close _ _ _ _ _ _ _ _ _ held => if held then [] else (List.range 128).map (.closeNoticeArrival id ·)
  | .tile .. => [.tileArrival id]
  | .refetch .. => [.backingRefetchComplete id]

/-- Whether a group has an unread `kput` older than a flit. -/
def unreadBefore (s : State) (gkey id : Nat) : Bool :=
  s.kflits.any fun e => decide (e.1 < id) && (match e.2 with
    | .source p _ => p.gkey == gkey
    | _ => false)

/-- The station that sends a `kput`'s tile: its cluster's; the engine's for a copy to the keyway. -/
def KPut.station (s : State) (p : KPut) : Nat := if p.cl < 22 then clusterStation s p.cl else engineStation ((p.pend - 100) / 4)

/-- The frames of an interest, and of a tile that no unread `kput` of its group holds back (R152); the other flits are never
refused at their stations, and pass in the step of their arrival. -/
def flitFrames (s : State) (id : Nat) : KFlit → State
  | .interest wp prev .. => sendFrames s id .keyway prev wp 64
  | .put p data _ => if unreadBefore s p.gkey id then s else sendFrames s id .keyway (p.station s) (keyStation p.key) data.length
  | _ => s

def sendFlit (s : State) (f : KFlit) : State :=
  let (s, id) := newId s
  laterAll (flitFrames { s with kflits := s.kflits ++ [(id, f)] } id f) (flitEvents id f)
def dropFlit (s : State) (id : Nat) : State := dropFrames { s with kflits := s.kflits.filter fun e => e.1 != id } id
def setFlit (s : State) (id : Nat) (f : KFlit) : State :=
  { s with kflits := s.kflits.map fun e => if e.1 == id then (id, f) else e }
def flitOf (s : State) (id : Nat) : Option KFlit := (s.kflits.find? fun e => e.1 == id).map (·.2)

/-- R118 for a tile or a close notice whose retry cannot reach its station: its group stops with the loss record; a copy to the
keyway ends under R129. -/
def loseFlit (s : State) (id ctx cl gkey pend dst : Nat) : State :=
  let s := dropFlit s id
  let lose := losePend (some pend)
  let r := lossRec ctx (sourceId (clusterStation s cl) 6) 0 0 dst s.time
  postRecs { s with groups := Tab.modify s.groups gkey lose, saved := Tab.modify s.saved gkey lose } ctx [r]
def losePut (s : State) (id : Nat) (p : KPut) : State :=
  if p.gkey = 0 then
    let s := dropFlit s id
    later { s with engCmds := s.engCmds.map fun m => if m.id == p.op then { m with failed := some (0, 1, keyStation p.key) } else m }
      (.engineCommandFault p.pend p.op 0 (BitVec.ofNat 64 (keyStation p.key)))
  else finishOp (loseFlit s id p.ctx p.cl p.gkey p.pend (keyStation p.key)) p.gkey p.op none

/-! ### Interest tables (R141, R143) -/

def Interest.live (s : State) (e : Interest) (wp key ctx : Nat) : Bool :=
  e.wp == wp && e.key == key && e.ctx == ctx && decide (s.time < e.expiry)
/-- The live entries of a key at a waypoint. -/
def liveAt (s : State) (wp key ctx : Nat) : List Interest := s.interests.filter fun e => e.live s wp key ctx

def bumpKw (s : State) (st lo : Nat) : State := { s with hb := { s.hb with kwCount := bumpField s.hb.kwCount st lo } }

/-- Whether an entry can merge an interest from `prev`; a cluster station's own requesters come from itself. -/
def canMerge (e : Interest) (prev : Nat) : Bool := prev == e.wp || e.ret.contains prev || decide (e.ret.length < 8)
/-- The merged entry. -/
def mergeInto (e : Interest) (prev exp : Nat) : Interest :=
  { e with locals := e.locals || prev == e.wp, expiry := max e.expiry exp,
           ret := if prev == e.wp || e.ret.contains prev then e.ret else e.ret ++ [prev] }

/-- R143 at one waypoint: merged, or a new entry forwarded; `none` when the table refuses it. -/
def enterInterest (s : State) (wp prev src key ctx exp : Nat) : Option State :=
  match (liveAt s wp key ctx).find? fun e => canMerge e prev with
  | some e =>
    let s := { s with interests := s.interests.map fun x => if x = e then mergeInto e prev exp else x }
    let s := bumpKw s (wp / 64) 48
    match e.fwd with
    | some f => some (if e.expiry < exp then sendFlit s (.refresh f key ctx exp) else s)
    | none => some s
  | none =>
    let live := s.interests.filter fun e => e.wp != wp || decide (s.time < e.expiry)
    if 1024 ≤ (live.filter fun e => e.wp == wp).length then none
    else
      let fwd := nextWay s wp src (keyStation key)
      let e : Interest := { wp, key, ctx, expiry := exp, ret := if prev = wp then [] else [prev], locals := prev == wp, fwd }
      let s := { s with interests := live ++ [e] }
      match fwd with
      | some f => some (sendFlit s (.interest f wp src key ctx exp))
      | none => some s

/-- Interests that a full table refused are tried again when one of its entries goes. -/
def wakeInterests (s : State) (wp : Nat) : State :=
  laterAll s (s.kflits.filterMap fun e => match e.2 with
    | .interest w _ _ _ _ _ => if w = wp then some (.interestArrival e.1) else none
    | _ => none)

/-! ### Requester records (R142, R144, R148, R154) -/

abbrev kwExpired : Nat := 0xFFFF_FFFF_FFFF_FF01
abbrev kwGone : Nat := 0xFFFF_FFFF_FFFF_FF02
abbrev kwNever : Nat := 0xFFFF_FFFF_FFFF_FF03
abbrev kwDropped : Nat := 0xFFFF_FFFF_FFFF_FF04
abbrev kwTooBig : Nat := 0xFFFF_FFFF_FFFF_FF05
abbrev kwFault : Nat := 0xFFFF_FFFF_FFFF_FF06
abbrev kwPreempted : Nat := 0xFFFF_FFFF_FFFF_FF07

abbrev engStation (cl : Nat) : Nat := 600 + cl

def recOf (s : State) (id : Nat) : Option KRec := s.recs.find? fun r => r.id == id
def setRec (s : State) (id : Nat) (f : KRec → KRec) : State :=
  { s with recs := s.recs.map fun r => if r.id == id then f r else r }

/-- R153: the trap to take at the next clause header, or, for a group that has exited, its record alone. -/
def neverTrap (s : State) (r : KRec) : State :=
  match groupOf s r.gkey with
  | some _ =>
    let add := fun (g : Group) => { g with never := g.never ++ [r.key] }
    endWaits { s with groups := Tab.modify s.groups r.gkey add, saved := Tab.modify s.saved r.gkey add } r.gkey
  | none => postRecs s r.ctx [{ cls := 0x0C, kind := 0, detail := 0, ctx := r.ctx, source := 0x0800 + clusterStation s r.cl,
                                time := s.time, addr := r.key, pc := r.pc, who := r.who }]

/-- The record is freed and its `kwant` completes. -/
def closeRec (s : State) (r : KRec) (v : Nat) (fault : Option Rec) : State :=
  let s := clearXfaults { s with recs := s.recs.filter fun x => x.id != r.id } (engStation r.cl) r.id
  let st := clusterStation s r.cl / 64
  let s := if v = kwGone then bumpKw s st 16 else if v = kwNever then bumpKw s st 0 else s
  let s := finishOp s r.gkey r.id fault
  if v = kwNever ∧ r.trapNever then neverTrap s r else s

/-- The KIND 1 record and its continuation for a keyway record, charged once (R129, R148). -/
def kwFaultRecs (s : State) (r : KRec) (cls moved : Nat) : List Rec :=
  endedRecs s r.ctx cls 1 (0x0800 + clusterStation s r.cl) r.key r.pc r.who r.key moved (groupOf s r.gkey).isSome

/-- Write the value owed to a record's completion word, and free the record; it waits while a global word's page does. -/
def payRec (s : State) (id : Nat) : State :=
  match recOf s id with
  | none => s
  | some r => match r.owe with
    | none => s
    | some v =>
      match r.cw, r.cloc with
      | 0, _ => closeRec s r v r.fault
      | 2, _ => match engCheck s (engStation r.cl) r.ctx id 2 ((List.range 8).map (r.cwa + ·)) with
        | .ok ls => closeRec (engWrite s (engStation r.cl) r.ctx ls (leBytes 8 v) []) r v r.fault
        | .wait ps => engAsk s (engStation r.cl) r.ctx id ps
        | .stall => s
        | .fault c _ _ =>
          let rs := kwFaultRecs s r c r.moved
          closeRec (postRecs s r.ctx rs) r v (r.fault <|> rs.head?)
        | .lost _ _ => closeRec s r v r.fault
      | _, some l => closeRec (coreWrite s (engStation r.cl) r.ctx r.team l (leBytes 8 v)) r v r.fault
      | _, none => closeRec s r v r.fault

/-- A record ends with a value or a status (R148, R154). -/
def endRec (s : State) (id v : Nat) : State := payRec (setRec s id fun r => { r with owe := r.owe <|> some v }) id

/-- The requester's core lets its lines of a destination go, so that an acquire of the completion value at any scope reads what was
delivered (R163, R376). -/
def dropDest (s : State) (gkey : Nat) (ls : List Loc) : State :=
  match Tab.find s.groups gkey with
  | some g => l1Drop s g.core fun e => !e.surf && ls.any fun l => l.sp == .log && e.line == l.addr / 128
  | none => s

/-- A tile's bytes into a record whose delivery has begun (R148). -/
def deliverRec (s : State) (id : Nat) (data : List (BitVec 8)) (bad : List Nat) : State :=
  match recOf s id with
  | none => s
  | some r =>
    if r.owe.isSome then payRec s id
    else if r.cap < data.length then endRec s id kwTooBig
    else
      let put := fun (s : State) n => setRec s id fun r => { r with moved := n }
      match r.dloc with
      | some l => endRec (put (coreWrite s (engStation r.cl) r.ctx r.team l data bad) data.length) id r.val.toNat
      | none => match engCheck s (engStation r.cl) r.ctx id 2 ((List.range data.length).map (r.dst + ·)) with
        | .ok ls =>
          let s := dropDest s r.gkey ls
          endRec (put (engWrite s (engStation r.cl) r.ctx ls data bad) data.length) id r.val.toNat
        | .wait ps => engAsk s (engStation r.cl) r.ctx id ps
        | .stall => s
        | .fault c k ls =>
          let s := put (engWrite s (engStation r.cl) r.ctx ls data (bad.filter (· < k))) k
          let rs := kwFaultRecs s r c k
          endRec (setRec (clearXfaults (postRecs s r.ctx rs) (engStation r.cl) id) id fun r => { r with fault := rs.head? }) id kwFault
        | .lost _ ls => endRec (put (engWrite s (engStation r.cl) r.ctx ls data (bad.filter (· < ls.length))) ls.length) id kwFault

/-! ### Back along RETURN (R145, R148) -/

/-- Copies of a tile or a status for waypoints. -/
def fanOut (s : State) (wps : List Nat) (key ctx : Nat) (data : List (BitVec 8)) (bad : List Nat) (code : Nat) : State :=
  wps.foldl (fun s w => sendFlit s (.tile w key ctx data bad code)) s

/-- Clear a waypoint's entries of a key. -/
def clearAt (s : State) (wp key ctx : Nat) : State :=
  wakeInterests { s with interests := s.interests.filter fun e => !(e.wp == wp && e.key == key && e.ctx == ctx) } wp

/-- A tile or a status at a waypoint: copied to every member of RETURN, the entries cleared (R148); none, discarded
(R144). Whether local records are served comes with it. -/
def passWay (s : State) (wp key ctx : Nat) (data : List (BitVec 8)) (bad : List Nat) (code : Nat) : State × Bool :=
  let es := liveAt s wp key ctx
  if es.isEmpty then (s, false)
  else
    let s := clearAt s wp key ctx
    (fanOut s (es.flatMap (·.ret)).eraseDups key ctx data bad code, es.any (·.locals))

/-- The records of a cluster station that a delivery serves (R144). -/
def servedRecs (s : State) (wp key ctx : Nat) : List KRec :=
  s.recs.filter fun r => clusterStation s r.cl == wp && r.key == key && r.ctx == ctx && r.began.isNone && r.owe.isNone
    && decide (s.time < r.expiry)

/-! ### The home slice (R147 to R152) -/

def tileAt (s : State) (key ctx : Nat) : Option Tile := (s.tiles.find? fun e => e.2.key == key && e.2.ctx == ctx).map (·.2)
def dirAt (s : State) (key ctx : Nat) : Option Tile := (s.tdir.find? fun e => e.2.key == key && e.2.ctx == ctx).map (·.2)
def dropTile (s : State) (key ctx : Nat) : State := { s with tiles := s.tiles.filter fun e => !(e.2.key == key && e.2.ctx == ctx) }
def dropDir (s : State) (key ctx : Nat) : State := { s with tdir := s.tdir.filter fun e => !(e.2.key == key && e.2.ctx == ctx) }
def Tile.backed (t : Tile) : Bool := t.backing != 0 && t.ret != 0
def isClosed (s : State) (key ctx : Nat) : Bool := s.closed.contains (keyHome key, ctx, keyTensor key, keyIter key)

/-- A directory record of a quadrant; the oldest of 4,096 gives way (R150). -/
def addDir (s : State) (n : Nat) (t : Tile) : State :=
  let s := dropDir s t.key t.ctx
  let mine := s.tdir.filter fun e => e.1 / 16 == n / 16
  let s := if mine.length < 4096 then s else match mine with
    | o :: _ => dropDir s o.2.key o.2.ctx
    | [] => s
  { s with tdir := s.tdir ++ [(n, { t with data := [], bad := [] })] }

/-- Bytes used and available in a quadrant's store (R146). -/
def storeUsed (s : State) (q : Nat) : Nat := s.tiles.foldl (fun a e => if e.1 / 16 = q then a + e.2.len else a) 0
def storeSize (s : State) (q : Nat) : Nat := (Tab.fetch 16 s.hb.kwStore q).toNat * 2 ^ 20

/-- R150: evict the oldest held tiles until `need` more bytes fit or none is left. No tile is being read out between
two steps. -/
def storeRoom (q need : Nat) : Nat → State → State
  | 0, s => s
  | n + 1, s =>
    if storeUsed s q + need ≤ storeSize s q then s
    else match s.tiles.find? fun e => e.1 / 16 == q with
      | some (sl, t) => storeRoom q need n (addDir (dropTile s t.key t.ctx) sl (if t.backing = 0 then { t with ret := 0 } else t))
      | none => s

/-- One use of a held tile or a backed record: its count falls; at zero a GONE record stands (R147, R149). -/
def spendTile (s : State) (t : Tile) : State :=
  if t.ret ≤ 1 then addDir (dropTile s t.key t.ctx) (keyHome t.key) { t with ret := 0 }
  else { s with tiles := s.tiles.map fun e => if e.2 = t then (e.1, { t with ret := t.ret - 1 }) else e }
def spendDir (s : State) (t : Tile) : State :=
  { s with tdir := s.tdir.map fun e => if e.2 = t then (e.1, { t with ret := t.ret - 1 }) else e }

/-- R147's interest column, and R119 for a home behind a dead station; `none`: NONE or PENDING, for the table. -/
def serveInterest (s : State) (prev key ctx : Nat) : Option State :=
  if deadStation s (keyStation key) then some (fanOut s [prev] key ctx [] [] kwGone)
  else if !(liveAt s (keyStation key) key ctx).isEmpty then none
  else match tileAt s key ctx with
    | some t => some (spendTile (fanOut s [prev] key ctx t.data t.bad 0) t)
    | none => match dirAt s key ctx with
      | some t => if t.backed then some (sendFlit (spendDir s t) (.refetch key ctx t.backing t.len [prev]))
        else some (fanOut s [prev] key ctx [] [] kwGone)
      | none => if isClosed s key ctx then some (fanOut s [prev] key ctx [] [] kwNever) else none

/-- R147's `kput` column: the state and the status. -/
def putTile (s : State) (p : KPut) (data : List (BitVec 8)) (bad : List Nat) : State × Nat :=
  let n := keyHome p.key
  if (tileAt s p.key p.ctx).isSome then (s, 3)
  else
    let s := dropDir s p.key p.ctx
    if (liveAt s (keyStation p.key) p.key p.ctx).isEmpty ∧ isClosed s p.key p.ctx then (s, 4)
    else
      let sent := !(liveAt s (keyStation p.key) p.key p.ctx).isEmpty
      let s := (passWay s (keyStation p.key) p.key p.ctx data bad 0).1
      if p.ret = 0 then (s, if sent then 0 else 2)
      else
        let s := storeRoom (n / 16) data.length (s.tiles.length + 1) s
        let t : Tile := { key := p.key, ctx := p.ctx, data, bad, len := data.length, ret := p.ret, backing := p.backing, cl := p.cl }
        if storeUsed s (n / 16) + data.length ≤ storeSize s (n / 16) then ({ s with tiles := s.tiles ++ [(n, t)] }, 1)
        else if p.backing ≠ 0 then (addDir s n t, 5)
        else (s, if sent then 0 else 2)

/-! ### The injection queue (R152, R157) -/

/-- Entries that a cluster's groups hold: `kput`s that are unread, whose tile waits behind an unread one or stands at the station, and
held `kclose`s. -/
def injHeld (s : State) (cl : Nat) : Nat :=
  (s.kflits.filter fun e => match e.2 with
    | .source p _ => p.cl == cl
    | .put p _ _ => p.cl == cl && ((s.frames.any fun f => f.id == e.1 && f.leg == 0) || s.kflits.any fun x => decide (x.1 < e.1) && (match x.2 with
        | .source q _ => q.gkey == p.gkey
        | _ => false))
    | .close _ _ _ _ _ c _ _ _ held => c == cl && held
    | _ => false).length

/-- After a source is read, the group's later tiles and close notices that waited behind it go (R152). -/
def releaseFlits (s : State) (gkey : Nat) : State :=
  s.kflits.foldl (fun s e => match e.2 with
    | .put p data bad =>
      if p.gkey = gkey ∧ !unreadBefore s gkey e.1 ∧ s.frames.all fun f => f.id != e.1 then
        later (flitFrames s e.1 (.put p data bad)) (.kputArrival e.1)
      else s
    | .close a b c g p cl d k n true =>
      if g = gkey ∧ !unreadBefore s gkey e.1 then
        let f : KFlit := .close a b c g p cl d k n false
        laterAll (setFlit s e.1 f) (flitEvents e.1 f)
      else s
    | _ => s) s

/-- Read a `kput`'s global source through its cluster station (R157). -/
def readSource (s : State) (id : Nat) (p : KPut) (va : Nat) : State :=
  match engCheck s (engStation p.cl) p.ctx id 1 ((List.range p.len).map (va + ·)) with
  | .ok ls =>
    let (s, bs, bad) := engRead s (engStation p.cl) p.ctx ls
    releaseFlits (setFlit (clearXfaults s (engStation p.cl) id) id (.put p bs bad)) p.gkey
  | .wait ps => engAsk s (engStation p.cl) p.ctx id ps
  | .stall => s
  | .fault c _ _ =>
    let s := clearXfaults (dropFlit s id) (engStation p.cl) id
    let s := failOp s p.ctx p.gkey p.op p.who c 0 (0x0800 + clusterStation s p.cl) p.key p.pc p.key 0
    releaseFlits (giveValue s p.gkey p.pend 6) p.gkey
  | .lost _ _ => releaseFlits (giveValue (finishOp (dropFlit s id) p.gkey p.op none) p.gkey p.pend 6) p.gkey

/-- A tile at its home slice (R147): its status returns to the group and the `kput` completes; a copy to the keyway goes on to
its completion word (R127). -/
def arrivePut (s : State) (id : Nat) (p : KPut) (data : List (BitVec 8)) (bad : List Nat) : State :=
  let (s, st) := putTile (dropFlit s id) p data bad
  if p.gkey = 0 then
    later { s with engCmds := s.engCmds.map fun m => if m.id == p.op then { m with paid := true } else m } (.copyEngineComplete p.pend p.op)
  else giveValue (finishOp s p.gkey p.op none) p.gkey p.pend st

end Sys2Proof.Machine
end

