-- ==== Sys2Proof/Machine/KeywayEvents.lean ====
section
/-! DEFINITION. The keyway's own steps (R143, R144, R147 to R152, R159) and the size of its stores (R146). -/
namespace Sys2Proof.Machine

/-- One interest at its waypoint: served, lost, or entered in the waypoint's table; `none` where it has not come, or is refused. -/
def takeInterest (s : State) (id : Nat) : Option State :=
  match flitOf s id with
  | some (.interest wp prev src key ctx exp) =>
    if deadStation s wp ∧ wp = keyStation key then some (dropFlit (fanOut s [prev] key ctx [] [] kwGone) id)
    else if deadStation s wp then some (dropFlit s id)
    else if !arrived s id then none
    else match (if wp = keyStation key then serveInterest s prev key ctx else none) with
      | some t => some (dropFlit t id)
      | none => (enterInterest s wp prev src key ctx exp).map (dropFlit · id)
  | _ => none
/-- The interests of a station on their way to another, up to one of them, in the order they were sent (R108). -/
def interestsWith (s : State) (id : Nat) : List Nat :=
  match s.frames.find? fun f => f.id == id with
  | some f => (((s.frames.filter (sameTriple f)).map (·.id)).eraseDups.filter fun i => match flitOf s i with
    | some (.interest ..) => decide (i ≤ id)
    | _ => false)
  | none => [id]
/-- They are taken in that order; one that its waypoint refuses holds back those behind it. -/
def takeInterests : List Nat → State → State
  | [], s => s
  | id :: ids, s => match takeInterest s id with
    | some t => takeInterests ids t
    | none => s

/-- R143, R147: an interest at a waypoint; one that a full table refuses stays in the station's buffer. A dead home gives GONE;
an interest to another dead waypoint is lost, and its sender's entry forwards again (R119). -/
def execInterestArrival (id : Nat) (s : State) : Out :=
  match flitOf s id with
  | some (.interest ..) =>
    let s := bringFrame s id
    .next (takeInterests (interestsWith s id) s)
  | _ => .next s

/-- A refresh that comes to a waypoint where the interest before it still waits raises what that interest asks for (R108, R143). -/
def refreshWaiting (s : State) (wp key ctx exp : Nat) : State :=
  { s with kflits := s.kflits.map fun e => match e.2 with
      | .interest w p src k c x => if w = wp ∧ k = key ∧ c = ctx then (e.1, .interest w p src k c (max x exp)) else e
      | _ => e }

/-- R143: a refresh raises EXPIRY up to the home, and is dropped at the first entry that is already later. -/
def execRefreshArrival (id : Nat) (s : State) : Out :=
  match flitOf s id with
  | some (.refresh wp key ctx exp) =>
    let s := refreshWaiting (dropFlit s id) wp key ctx exp
    match (liveAt s wp key ctx).find? fun e => decide (e.expiry < exp) with
    | some e =>
      let s := { s with interests := s.interests.map fun x => if x = e then { e with expiry := exp } else x }
      .next (match e.fwd with
        | some f => sendFlit s (.refresh f key ctx exp)
        | none => s)
    | none => .next s
  | _ => .next s

/-- R144: an expired entry is dropped. -/
def execInterestExpiry (wp key ctx t : Nat) (s : State) : Out :=
  let s := atTime s t
  .next (wakeInterests { s with interests := s.interests.filter fun e =>
    !(e.wp == wp && e.key == key && e.ctx == ctx && decide (e.expiry ≤ s.time)) } wp)

/-- R144: an expired requester record ends EXPIRED, unless a delivery has begun. -/
def execRequesterRecordExpiry (id t : Nat) (s : State) : Out :=
  let s := atTime s t
  match recOf s id with
  | some r =>
    if r.expiry ≤ s.time ∧ r.began.isNone ∧ r.owe.isNone then
      .next (endRec (bumpKw s (clusterStation s r.cl / 64) 32) id kwExpired)
    else .next s
  | none => .next s

/-- The tiles that one station sent to a slice before a flit arrive first (R108, R152). -/
def earlierPuts (s : State) (cl slice id : Nat) : State :=
  s.kflits.foldl (fun s e => match e.2 with
    | .put p data bad => if p.cl = cl ∧ keyHome p.key = slice ∧ e.1 < id ∧ !unreadBefore s p.gkey e.1 then arrivePut s e.1 p data bad else s
    | _ => s) s

/-- R147: a tile at its home, behind every unread earlier `kput` of its group (R152); one that cannot get there is lost (R118). -/
def execKputArrival (id : Nat) (s : State) : Out :=
  match flitOf s id with
  | some (.put p data bad) =>
    if unreadBefore s p.gkey id then .next s
    else if deadStation s (keyStation p.key) ∨ deadStation s (p.station s) then .next (losePut s id p)
    else
      let s := bringFrame s id
      .next (if arrived s id then arrivePut (earlierPuts s p.cl (keyHome p.key) id) id p data bad else s)
  | _ => .next s

/-- A slice's closed table takes an entry; the oldest of 256 gives way. An iteration that is closed again becomes the newest
(DESIGN CHOICE, log 132: R152 does not say). -/
def addClosed (s : State) (slice ctx tensor iter : Nat) : State :=
  let rest := s.closed.filter fun e => e != (slice, ctx, tensor, iter)
  let mine := rest.filter fun e => e.1 == slice
  let rest := if mine.length < 256 then rest else rest.filter fun e => some e != mine.head?
  { s with closed := rest ++ [(slice, ctx, tensor, iter)] }

/-- R152: a close notice at a slice; one to a dead station is lost (R118). -/
def execCloseNoticeArrival (id slice : Nat) (s : State) : Out :=
  match flitOf s id with
  | some (.close tensor iter ctx g p cl shut acks n held) =>
    if held ∨ 128 ≤ slice ∨ shut.contains slice then .next s
    else if deadStation s (sliceStation slice) then .next (loseFlit s id ctx cl g p (sliceStation slice))
    else
      let s := addClosed (earlierPuts s cl slice id) slice ctx tensor iter
      let keys := (s.interests.filter fun e => e.wp == sliceStation slice && e.ctx == ctx && decide (s.time < e.expiry)
        && keyHome e.key == slice && keyTensor e.key == tensor && keyIter e.key == iter).map (·.key)
      let s := keys.eraseDups.foldl (fun s k => (passWay s (sliceStation slice) k ctx [] [] kwNever).1) s
      .next (later (setFlit s id (.close tensor iter ctx g p cl (slice :: shut) acks (n + keys.length) held)) (.closeAck id slice))
  | _ => .next s

/-- R159: the last of 128 acknowledgements completes the `kclose`. -/
def execCloseAck (id slice : Nat) (s : State) : Out :=
  match flitOf s id with
  | some (.close tensor iter ctx g p cl shut acks n held) =>
    if !shut.contains slice ∨ acks.contains slice then .next s
    else if acks.length + 1 = 128 then .next (giveValue (dropFlit s id) g p n)
    else .next (setFlit s id (.close tensor iter ctx g p cl shut (slice :: acks) n held))
  | _ => .next s

/-- A tile or a status serves the records of its cluster station (R148). -/
def serveRecs (s : State) (wp key ctx id : Nat) (data : List (BitVec 8)) (bad : List Nat) (code : Nat) : State :=
  (servedRecs s wp key ctx).foldl (fun s r =>
    if code ≠ 0 then endRec s r.id code
    else deliverRec (setRec s r.id fun r => { r with began := some id }) r.id data bad) s

/-- A flit's tile is kept while a delivery of it waits for a page. -/
def settleTile (s : State) (id : Nat) : State :=
  if s.recs.any fun r => r.began == some id && r.owe.isNone then s else dropFlit s id

/-- R151: the refetch of a tile in the producer's context, by the first copy engine of the home quadrant, whose SOURCE its fault record
has (DESIGN CHOICE, log 133: R151 does not say which unit reads). -/
def refetchTile (s : State) (id : Nat) : State :=
  match flitOf s id with
  | some (.refetch key ctx backing len ret) =>
    let eng := 100 + 4 * (keyHome key / 16)
    match engCheck s eng ctx id 1 ((List.range len).map (backing + ·)) with
    | .ok ls =>
      let (s, bs, bad) := engRead (clearXfaults s eng id) eng ctx ls
      fanOut (dropFlit s id) ret key ctx bs bad 0
    | .wait ps => engAsk s eng ctx id ps
    | .stall => s
    | .fault c _ _ =>
      let s := clearXfaults s eng id
      let s := postRecs s ctx (endedRecs s ctx c 0 (0x0100 + (eng - 100)) key 0 0 key 0 false)
      fanOut (dropFlit s id) ret key ctx [] [] kwGone
    | .lost _ _ => fanOut (dropFlit s id) ret key ctx [] [] kwGone
  | _ => s

/-- R148, TILE_ARRIVAL: a tile or a status at a waypoint; one for a dead waypoint is lost with it (R119). A `kput`'s source, a refetch or a record whose page has
come goes on. -/
def tileArrives (id : Nat) (s : State) : State :=
  match flitOf s id with
  | some (.tile wp key ctx data bad code) =>
    if deadStation s wp then dropFlit s id
    else
    let (s, here) := passWay s wp key ctx data bad code
    settleTile (if here then serveRecs s wp key ctx id data bad code else s) id
  | some (.source p va) => readSource s id p va
  | some (.refetch ..) => refetchTile s id
  | _ => match recOf s id with
    | some r => match r.began with
      | some f => match flitOf s f with
        | some (.tile _ _ _ data bad _) => settleTile (deliverRec s id data bad) f
        | _ => payRec s id
      | none => payRec s id
    | none => s

/-- R151. -/
def execBackingRefetchComplete (id : Nat) (s : State) : Out := .next (refetchTile s id)

/-- R146: SIZE above 64 is ignored; a smaller store evicts until its tiles fit, a larger one takes its quadrant's slices' lines. -/
def execFbKwStoreWrite (st q : Nat) (w : BitVec 64) (s : State) : Out :=
  let v := w.setWidth 7
  if 64 < v.toNat ∨ 1 < st ∨ 3 < q then .next s
  else
    let s := { s with hb := { s.hb with kwStore := Tab.store 16 s.hb.kwStore (4 * st + q) v } }
    let s := storeRoom (4 * st + q) 0 (s.tiles.length + 1) s
    .next ((List.range 16).foldl (fun s i => shrinkSlice s (16 * (4 * st + q) + i)) s)

end Sys2Proof.Machine
end

