-- ==== Sys2Proof/Machine/LoadStore.lean ====
section
/-! DEFINITION. Loads, stores, prefetch and atomics (R210 to R229). -/
namespace Sys2Proof.Machine

/-! ### Address registers and rows -/

/-- The rows that an address field names: v(a), and v(a + 1) for the 64-bit segments (R210, R216). -/
def addrRows (seg : BitVec 3) (k : BitVec 1) (a : BitVec 6) : List Opnd :=
  if k = 0 then
    ⟨1, false, a.toNat, 0, .free⟩ :: (if seg = 0 ∨ seg = 3 then [⟨3, false, a.toNat + 1, 0, .free⟩] else [])
  else []

/-- Each active lane's access at an offset in bytes. -/
def accs (c : WCtx) (seg : BitVec 3) (k : BitVec 1) (a : BitVec 6) (add : Nat) : List Acc :=
  c.lanes.map fun l => accOf c.g seg.toNat k.toNat a.toNat add l

/-- Bytes of a lane's row value. -/
def valBytes (z v : Nat) : List (BitVec 8) := leBytes z v

/-- The group's view of every lane's places, in lane order. -/
def loadLanes (s : State) (key : Nat) (g : Group) : List (Nat × List Loc) → State × List (Nat × List (BitVec 8))
  | [] => (s, [])
  | (l, ls) :: xs =>
    let (s, bs) := groupLoad s key g ls
    let (s, ys) := loadLanes s key g xs
    (s, (l, bs) :: ys)

/-- Element size of a load or store (R214). -/
def elemBytes (ty : Nat) : Nat := if ty = tRAW then 4 else tWidth ty / 8

/-! ### Loads -/

/-- A load of `z` bytes per lane: checks, bytes as they stand at issue (log 5), and the result in flight; `conv`
makes the row value, `tag` the row's tag. -/
def loadRow (s : State) (d : BitVec 7) (seg : BitVec 3) (k : BitVec 1) (a : BitVec 6) (okTy : Nat → Bool) (z : Nat → Nat)
    (add : WCtx → Nat → Nat) (conv : Nat → Nat → Nat) (tag : Nat → Nat) : Out :=
  runLong s fun c s => do
    let w := tWide c.g.ty
    vecCheck c (okTy c.g.ty) (opD w d :: addrRows seg k a)
    let n := z c.g.ty
    let xs := c.lanes.map fun l => accOf c.g seg.toNat k.toNat a.toNat (add c l) l
    let (s, ls) ← access s c.key c.g seg.toNat k.toNat a.toNat (add c c.low) 0 n xs
    let (s, bs) := loadLanes s c.key c.g ls
    let bad := lanesBad s c.g.core ls
    let (s, id) := newId s
    let vs := bs.map fun x => (x.1, conv c.g.ty (leNat x.2))
    pure (later s (.longLatencyCompletion c.key id),
      { blankPending id c.sp.pc with
          elems := c.g.laneElems w d.toNat vs,
          tags := (c.g.regRows w d.toNat).map fun r => (r, BitVec.ofNat 5 (tag c.g.ty)), ready := true, poison := bad })

/-- Row access size (R214). -/
def rowBytes (ty : Nat) : Nat := if tWide ty then 8 else 4

/-- R215, `ld`. -/
def execLd (d : BitVec 7) (x : BitVec 3) (k : BitVec 1) (a : BitVec 6) (o : BitVec 8) (s : State) : Out :=
  loadRow s d x k a (fun _ => true) rowBytes (fun c _ => o.toNat * rowBytes c.g.ty) (fun _ v => v) (fun t => t)

/-- R215, `ldb`: lane L reads row off + L of a block. -/
def execLdb (d : BitVec 7) (x : BitVec 3) (a : BitVec 6) (o : BitVec 8) (s : State) : Out :=
  loadRow s d x 1 a (fun _ => true) rowBytes (fun c l => (o.toNat + l) * rowBytes c.g.ty) (fun _ v => v) (fun t => t)

/-- R215, `ldt`: sign-extended for I8 and I16; tags I32, U32 or gm.TYPE. -/
def ldtConv (ty v : Nat) : Nat := if ty = tI8 then ofS 32 (toS 8 v) else if ty = tI16 then ofS 32 (toS 16 v) else v
def ldtTag (ty : Nat) : Nat := if ty = tI8 ∨ ty = tI16 then tI32 else if ty = tU8 ∨ ty = tU16 then tU32 else ty
def execLdt (d : BitVec 7) (x : BitVec 3) (k : BitVec 1) (a : BitVec 6) (o : BitVec 8) (s : State) : Out :=
  loadRow s d x k a (· != tQ4) elemBytes (fun c _ => o.toNat * elemBytes c.g.ty) ldtConv ldtTag

/-- Size of a uniform access (R214). -/
def uniBytes (z : BitVec 1) : Nat := if z = 0 then 8 else 4

/-- R215, `ldu`: a scalar, zero-extended. -/
def execLdu (z : BitVec 1) (d : BitVec 6) (x : BitVec 3) (a : BitVec 6) (o : BitVec 8) (s : State) : Out :=
  runLong s fun c s => do
    let n := uniBytes z
    let (s, ls) ← access s c.key c.g x.toNat 1 a.toNat (o.toNat * n) 0 n [accOf c.g x.toNat 1 a.toNat (o.toNat * n) c.low]
    let ls := ls.flatMap (·.2)
    let (s, bs) := groupLoad s c.key c.g ls
    let bad := (loadBad s c.g.core ls).map (·, c.low)
    let (s, id) := newId s
    pure (later s (.longLatencyCompletion c.key id),
      { blankPending id c.sp.pc with svals := [(d.toNat, BitVec.ofNat 64 (leNat bs))], ready := true, poison := bad })

/-! ### Stores -/

/-- The data row of a store: a 64-bit row must agree in its tags (R215). -/
def storeOpnd (w : Bool) (d : BitVec 7) : Opnd := ⟨0, w, d.toNat, 0, if w then .move else .free⟩

/-- A store of `z` bytes per lane, lanes in increasing order (R213), performed or buffered (R218). -/
def storeRow (s : State) (d : BitVec 7) (seg : BitVec 3) (k : BitVec 1) (a : BitVec 6) (o : BitVec 8) (okTy : Nat → Bool)
    (z : Nat → Nat) : Out :=
  runWord s fun c s => do
    let w := tWide c.g.ty
    let od := storeOpnd w d
    vecCheck c (okTy c.g.ty) (od :: addrRows seg k a)
    let n := z c.g.ty
    let (s, ls) ← access s c.key c.g seg.toNat k.toNat a.toNat (o.toNat * n) 1 n (accs c seg k a (o.toNat * n))
    bufferOps s c 1 seg.toNat [.bytes (ls.flatMap fun x => x.2.zip (valBytes n (od.val c.g x.1)))]

def execSt (d : BitVec 7) (x : BitVec 3) (k : BitVec 1) (a : BitVec 6) (o : BitVec 8) (s : State) : Out :=
  storeRow s d x k a o (fun _ => true) rowBytes
def execStt (d : BitVec 7) (x : BitVec 3) (k : BitVec 1) (a : BitVec 6) (o : BitVec 8) (s : State) : Out :=
  storeRow s d x k a o (· != tQ4) elemBytes

/-- R215, `stu`. -/
def execStu (z : BitVec 1) (d : BitVec 6) (x : BitVec 3) (a : BitVec 6) (o : BitVec 8) (s : State) : Out :=
  runWord s fun c s => do
    let n := uniBytes z
    let (s, ls) ← access s c.key c.g x.toNat 1 a.toNat (o.toNat * n) 1 n [accOf c.g x.toNat 1 a.toNat (o.toNat * n) c.low]
    bufferOps s c 1 x.toNat [.bytes ((ls.flatMap (·.2)).zip (leBytes n (c.g.s d.toNat).toNat))]

/-! ### Prefetch (R217) -/

/-- What stops a prefetch at one of its bytes (R215, R217): a page to be asked of the ATS, or a failed check. -/
def prefetchStop : XRes → Option (Option (Nat × Nat))
  | .ok _ => none
  | .miss va need => some (some (va, need))
  | _ => some none

/-- One lane: its line is requested, its missing translation asked for without a page request, upon which the line is
requested, or it is dropped; a lane whose first byte's page is there and a later one's is not asks for that one and is dropped
(DEDUCED, log 137). The request's `need` tells the level: bit 2 into L1, bit 3 into the slice. -/
def prefetchLane (s : State) (c : WCtx) (l : BitVec 1) (seg ak a add : Nat) (x : Acc) : State :=
  if limitBad c.g seg ak a add 128 x || permBad s c.g seg 0 then s
  else match (List.range 128).findSome? fun i => prefetchStop (byteCheck s 0 c.g seg 1 x i) with
    | none => match byteCheck s 0 c.g seg 1 x 0 with
      | .ok ⟨.log, a⟩ => if l = 0 then later s (.l1LineFill c.g.core (a / 128) c.g.ctx) else later s (.sliceLineFill (a / 128))
      | _ => s
    | some (some (va, need)) => later s (.translationMiss c.g.core c.g.ctx 0 va
        (if va = byteAddr c.g seg x 0 then need + (if l = 0 then 4 else 8) else need))
    | some none => s

/-- R217. -/
def execPrf (l : BitVec 1) (x : BitVec 3) (k : BitVec 1) (a : BitVec 6) (o : BitVec 8) (s : State) : Out :=
  runWord s fun c s => do
    vecCheck c true (addrRows x k a)
    pure ((accs c x k a (o.toNat * 128)).foldl (fun s y =>
      prefetchLane s c l x.toNat k.toNat a.toNat (o.toNat * 128) y) s)

/-! ### Atomics (R223 to R228) -/

/-- R212: the lowest misaligned lane traps. -/
def alignCheck (c : WCtx) (seg z : Nat) (xs : List Acc) : Try Unit :=
  match xs.find? fun x => ((c.g.seg seg).base.toNat + x.y) % z != 0 with
  | some x => illegal 2 x.y x.lane
  | none => .ok ()

/-- The returning form: a result in flight whose lanes' old values the executing units supply. -/
def returnAtoms (s : State) (c : WCtx) (w : Bool) (d : Nat) (as : List (Nat × AtomReq)) : State × Pending :=
  let (s, id) := newId s
  let s := updG s c.key fun g => { g with pending := g.pending ++ [blankPending id c.sp.pc] }
  let s := settleOwn s c.key (as.map (·.2.loc))
  let s : State := as.foldl (fun s x =>
    startAtom s c.key c.g.core c.g.ctx x.1 x.2 (some (id, (c.g.regRows w d).map fun r => c.g.elemKey r x.1))) s
  let p : Pending := match Tab.find s.groups c.key with
    | some g => (g.pending.find? fun p => p.id == id).getD (blankPending id c.sp.pc)
    | none => blankPending id c.sp.pc
  let s := updG s c.key fun g => { g with pending := g.pending.filter fun p => p.id != id }
  let ready := !awaits s c.key id
  let p := { p with ready := ready, tags := (c.g.regRows w d).map fun r => (r, c.g.rowTag r) }
  (if ready then later s (.longLatencyCompletion c.key id) else s, p)

/-- Checks common to `atom` and `fatom`, then the lanes with their places. -/
def atomAccess (s : State) (c : WCtx) (seg : BitVec 3) (k : BitVec 1) (a : BitVec 6) (z : Nat) : Try (State × List (Nat × Loc)) := do
  let xs := accs c seg k a 0
  alignCheck c seg.toNat z xs
  let (s, ls) ← access s c.key c.g seg.toNat k.toNat a.toNat 0 2 z xs
  pure (s, ls.filterMap fun x => x.2.head?.map fun l => (x.1, l))

/-- R223: admitted types, by operation. -/
def admAtom (op ty : Nat) : Bool := adm ty || (decide (3 ≤ op) && ty == tRAW)
where
  adm (t : Nat) : Bool := t == tU32 || t == tI32 || t == tU64 || t == tI64

/-- The word's operands: data row, address rows, and the new value's row of cmpxchg. -/
def atomOpnds (ty op : Nat) (d : BitVec 7) (seg : BitVec 3) (k : BitVec 1) (a : BitVec 6) : List Opnd :=
  let cls : TagCls := if 3 ≤ op then .codes [ty, tRAW] else .codes [ty]
  ⟨0, tWide ty, d.toNat, 0, cls⟩ :: addrRows seg k a ++ (if op = 7 then [⟨3, tWide ty, d.toNat + 1, 0, cls⟩] else [])

/-- The integer requests of the active lanes. -/
def intAtoms (c : WCtx) (op d : Nat) (ls : List (Nat × Loc)) : List (Nat × AtomReq) :=
  let w := tWide c.g.ty
  ls.map fun x => (x.1,
    { loc := x.2, z := rowBytes c.g.ty, fop := false, op, ty := c.g.ty, x := BitVec.ofNat 64 (c.g.val w d x.1),
      y := if op = 7 then BitVec.ofNat 64 (c.g.val w (d + 1) x.1) else 0, sat := false, rnd := 0 })

/-- R223. -/
def execAtom (d : BitVec 7) (x : BitVec 3) (k : BitVec 1) (a : BitVec 6) (o : BitVec 4) (r : BitVec 1) (s : State) : Out :=
  let prep := fun (c : WCtx) (s : State) => do
    vecCheck c (admAtom o.toNat c.g.ty) (atomOpnds c.g.ty o.toNat d x k a)
    let (s, ls) ← atomAccess s c x k a (rowBytes c.g.ty)
    pure (s, intAtoms c o.toNat d.toNat ls)
  if r = 0 then
    runWord s fun c s => do
      let (s, as) ← prep c s
      bufferOps s c 2 x.toNat (as.map fun y => .atom y.2)
  else
    runLong s fun c s => do
      let (s, as) ← prep c s
      let s ← unbuffered s c 2 x.toNat
      pure (returnAtoms s c (tWide c.g.ty) d.toNat as)

/-- R227: admitted types. -/
def admFatom (op ty : Nat) : Bool := tFloat ty && !(op == 0 && ty == tF64)

/-- R227, R39: a signalling NaN operand with gm.TRAPFP set stops the word. -/
def sigCheck (c : WCtx) (d : Nat) : Try Unit :=
  if c.g.trapFp then
    match c.lanes.find? fun l =>
      (unpack (fmtOf c.g.ty) (c.g.val (tWide c.g.ty) d l % 2 ^ tWidth c.g.ty)).isSig with
    | some l => .error (.trap ⟨0x0B, 1, 0, l⟩)
    | none => .ok ()
  else .ok ()

/-- The float requests of the active lanes. -/
def floatAtoms (c : WCtx) (op d : Nat) (ls : List (Nat × Loc)) : List (Nat × AtomReq) :=
  ls.map fun x => (x.1,
    { loc := x.2, z := elemBytes c.g.ty, fop := true, op, ty := c.g.ty, x := BitVec.ofNat 64 (c.g.val (tWide c.g.ty) d x.1),
      y := 0, sat := c.g.sat, rnd := c.g.rnd })

/-- R227 to R229: `add.ord` sends contributions, the others act as `atom`. Under SR, where R228 has an F16 or BF16 one round as RNE, nothing
is drawn from the generator (DEDUCED, log 17: R35 speaks of words to which SR applies). -/
def execFatom (d : BitVec 7) (x : BitVec 3) (k : BitVec 1) (a : BitVec 6) (o : BitVec 4) (r : BitVec 1) (s : State) : Out :=
  let prep := fun (c : WCtx) (s : State) => do
    vecCheck c (admFatom o.toNat c.g.ty) (⟨0, tWide c.g.ty, d.toNat, 0, .arith⟩ :: addrRows x k a)
    let (s, ls) ← atomAccess s c x k a (elemBytes c.g.ty)
    sigCheck c d.toNat
    pure (s, ls)
  if r = 0 then
    runWord s fun c s => do
      let (s, ls) ← prep c s
      if o = 0 then
        bufferOps s c 2 x.toNat (ls.map fun y => .ord y.2 c.g.ty (c.g.elem (c.g.rowNo 0 d.toNat 0) y.1) y.1)
      else bufferOps s c 2 x.toNat ((floatAtoms c o.toNat d.toNat ls).map fun y => .atom y.2)
  else
    runLong s fun c s => do
      let (s, ls) ← prep c s
      let s ← unbuffered s c 2 x.toNat
      pure (returnAtoms s c (tWide c.g.ty) d.toNat (floatAtoms c o.toNat d.toNat ls))

end Sys2Proof.Machine
end

