-- ==== Sys2Proof/Machine/KeywayOps.lean ====
section
/-! DEFINITION. The `kw` words (R155 to R160). -/
namespace Sys2Proof.Machine

/-- R131: a word whose counter stands at 255 does not issue. -/
def roomFor (c : WCtx) (cls : Nat) : Try Unit := if 255 ≤ c.g.counter cls then .error .stall else .ok ()

/-- R155's layout of `kwant`'s control scalar. -/
def kwantLegal (k : Nat) : Bool :=
  decide (1 ≤ bits k 15 0) && bits k 31 20 == 0 && decide (1 ≤ bits k 48 32) && decide (bits k 48 32 ≤ 65536) && bits k 63 49 == 0

/-- R156's operand checks; the record names the operand by its scalar. -/
def kwantChecks (c : WCtx) (d : Nat) : Try Unit :=
  if !kwantLegal (c.g.s (d + 4)).toNat then illegal 1 (d + 4) c.low
  else if 0xFFFF_FFFF_FFFF_FF00 ≤ (c.g.s (d + 3)).toNat then illegal 1 (d + 3) c.low
  else if (c.g.s (d + 2)).toNat % 8 ≠ 0 then illegal 1 (d + 2) c.low
  else .ok ()

/-- The first place of a region in sp or mb, checked at issue; `none` for a kind that is not there. -/
def regionPlace (s : State) (c : WCtx) (present : Bool) (seg a n rw : Nat) : Try (Option Loc) :=
  if present then (padExtent s c seg (a % 2 ^ 32) n rw).map some else .ok none

/-- R156. -/
def execKwant (d : BitVec 7) (x : BitVec 3) (n : BitVec 1) (p : BitVec 3) (s : State) : Out :=
  runWord s fun c s => do
    roomFor c 2
    kwantChecks c d.toNat
    let key := (c.g.s d.toNat).toNat
    let dst := (c.g.s (d.toNat + 1)).toNat
    let cwa := (c.g.s (d.toNat + 2)).toNat
    let k := (c.g.s (d.toNat + 4)).toNat
    let cw := bits k 18 17
    let dloc ← regionPlace s c (bits k 16 16 == 1) 1 dst (bits k 48 32) 1
    let cloc ← regionPlace s c (cw == 1 || cw == 3) (if cw = 1 then 1 else 7) cwa 8 1
    let cl := c.g.core / 4
    if 256 ≤ (s.recs.filter fun r => r.cl == cl).length then
      if n = 1 then (unbuffered s c 2 0).map fun s => nbWrite s c p.toNat false else .error .stall
    else
      let s ← unbuffered s c 2 0
      let (s, id) := newId s
      let expiry := s.time + 1000 * bits k 15 0
      let r : KRec := { id, cl, ctx := c.g.ctx, gkey := c.key, team := c.g.team, key, dst, dloc, cap := bits k 48 32, cwa, cw, cloc,
                        val := c.g.s (d.toNat + 3), scope := x.toNat, trapNever := bit k 19, expiry, began := none, owe := none,
                        moved := 0, fault := none, pc := c.sp.pc, who := whoOf s c.g 0 }
      let s := { s with recs := s.recs ++ [r] }
      let st := clusterStation s cl
      let s := updG (sendFlit s (.interest st st st key c.g.ctx expiry)) c.key fun g => g.startOp 2 id
      pure (if n = 1 then nbWrite s c p.toNat true else s)

/-- R155's layout of `kput`'s length scalar, and its backing address. -/
def kputChecks (c : WCtx) (d : Nat) : Try Unit :=
  let k := (c.g.s (d + 2)).toNat
  if bits k 16 0 = 0 ∨ 65536 < bits k 16 0 ∨ bits k 23 18 ≠ 0 ∨ bits k 63 32 ≠ 0 then illegal 1 (d + 2) c.low
  else if (c.g.s (d + 3)).toNat % 128 ≠ 0 then illegal 1 (d + 3) c.low
  else .ok ()

/-- A `kput` of a scratchpad source is read at issue; one of a global source by the cluster station. What the group wrote before
is at its home first (R157, R163). -/
def startPut (s : State) (c : WCtx) (q : KPut) (va : Nat) (sp : Option (List Loc)) : State :=
  let s := releaseAct s c.key c.g.core 5 (pairedOf s c.g)
  match sp with
  | some ls =>
    let (s, bs, bad) := engRead s c.g.core c.g.ctx ls
    sendFlit s (.put q bs bad)
  | none => sendFlit s (.source q va)

/-- R157; the non-blocking form that finds the queue full writes its predicate alone. -/
def execKput (d : BitVec 7) (_x : BitVec 3) (n : BitVec 1) (p : BitVec 3) (s : State) : Out :=
  let prep := fun (c : WCtx) (s : State) => do
    roomFor c 2
    kputChecks c d.toNat
    let k := (c.g.s (d.toNat + 2)).toNat
    let va := (c.g.s (d.toNat + 1)).toNat
    let sp ← if bit k 17 then (uniform s c 1 (va % 2 ^ 32) (bits k 16 0) 0).map some else pure none
    pure (k, va, sp)
  match issueCtx s with
  | none => .fault .noIssuer
  | some c =>
    if c.eff ≠ 0 ∧ n = 1 ∧ 32 ≤ injHeld s (c.g.core / 4) then
      runWord s fun c s => do
        let _ ← prep c s
        (unbuffered s c 2 0).map fun s => nbWrite s c p.toNat false
    else
      runLong s fun c s => do
        let (k, va, sp) ← prep c s
        if 32 ≤ injHeld s (c.g.core / 4) then .error .stall
        else
          let s ← unbuffered s c 2 0
          let (s, pend) := newId s
          let (s, op) := newId s
          let q : KPut := { key := (c.g.s d.toNat).toNat, ctx := c.g.ctx, len := bits k 16 0, ret := bits k 31 24,
                            backing := (c.g.s (d.toNat + 3)).toNat, gkey := c.key, pend, op, cl := c.g.core / 4, pc := c.sp.pc, who := whoOf s c.g 0 }
          let s := startPut s c q va sp
          let s := updG s c.key fun g => g.startOp 2 op
          let s := if n = 1 then nbWrite s c p.toNat true else s
          pure (s, { blankPending pend c.sp.pc with svals := [(d.toNat + 4, 0)] })

/-- R158. -/
def execKdrop (d : BitVec 7) (_x : BitVec 3) (s : State) : Out :=
  runLong s fun c s => do
    let s ← unbuffered s c 2 0
    let key := (c.g.s d.toNat).toNat
    let cwa := (c.g.s (d.toNat + 1)).toNat
    let mine := s.recs.filter fun r => r.gkey == c.key && r.cl == c.g.core / 4 && r.key == key && r.cwa == cwa && r.began.isNone
      && r.owe.isNone
    let s := mine.foldl (fun s r => endRec s r.id kwDropped) s
    let (s, id) := newId s
    pure (later s (.longLatencyCompletion c.key id),
      { blankPending id c.sp.pc with svals := [(d.toNat + 2, BitVec.ofNat 64 mine.length)], ready := true })

/-- R159. -/
def execKclose (d : BitVec 7) (_x : BitVec 3) (s : State) : Out :=
  runLong s fun c s => do
    if 32 ≤ injHeld s (c.g.core / 4) then .error .stall
    else
      let s ← unbuffered s c 2 0
      let key := (c.g.s d.toNat).toNat
      let (s, pend) := newId s
      let held := unreadBefore s c.key s.nextId
      let s := sendFlit s (.close (keyTensor key) (keyIter key) c.g.ctx c.key pend (c.g.core / 4) [] [] 0 held)
      pure (s, { blankPending pend c.sp.pc with svals := [(d.toNat + 1, 0)] })

end Sys2Proof.Machine
end

