-- ==== Sys2Proof/Machine/CopyEngine.lean ====
section
/-! DEFINITION. Copy engines (R120 to R130): `cpy`, the move, completion words, and commands that end by a fault. -/
namespace Sys2Proof.Machine

/-! ### Descriptors (R122, R123) -/

structure CopyD where
  src : Nat
  dst : Nat
  cwa : Nat
  sk : Nat
  dk : Nat
  cw : Nat
  rsv : Nat
  xb : Nat
  yc : Nat
  zc : Nat
  sys : Nat
  dys : Nat
  rsv2 : Nat
  szs : Nat
  dzs : Nat
deriving DecidableEq, Repr

def parseCopy (b : List (BitVec 8)) : CopyD :=
  let ctl := fieldAt b 0x18 4
  { src := fieldAt b 0 8, dst := fieldAt b 8 8, cwa := fieldAt b 0x10 8, sk := bits ctl 3 0, dk := bits ctl 7 4, cw := bits ctl 9 8,
    rsv := bits ctl 31 10, xb := fieldAt b 0x1C 4, yc := fieldAt b 0x20 2, zc := fieldAt b 0x22 2, sys := fieldAt b 0x24 4,
    dys := fieldAt b 0x28 4, rsv2 := fieldAt b 0x2C 4, szs := fieldAt b 0x30 8, dzs := fieldAt b 0x38 8 }

def CopyD.total (d : CopyD) : Nat := d.xb * d.yc * d.zc

/-- The offset of the field that breaks R122 or R123, if one does. -/
def CopyD.bad (d : CopyD) : Option Nat :=
  if 4 < d.sk ∨ 4 < d.dk ∨ d.rsv ≠ 0 then some 0x18
  else if d.xb = 0 ∨ 2 ^ 24 < d.xb then some 0x1C
  else if d.yc = 0 then some 0x20
  else if d.zc = 0 then some 0x22
  else if d.rsv2 ≠ 0 then some 0x2C
  else if d.cw ≠ 0 ∧ d.cwa % 8 ≠ 0 then some 0x10
  else if (d.sk = 3 ∨ d.dk = 3) ∧ 65536 < d.total then some 0x1C
  else none

/-- The addresses of every byte of a side in (z, y, i) order, modulo 2^64 (R124). -/
def sideAddrs (d : CopyD) (base ys zs : Nat) : List Nat :=
  (List.range d.zc).flatMap fun z => (List.range d.yc).flatMap fun y => (List.range d.xb).map fun i => (base + z * zs + y * ys + i) % 2 ^ 64
def CopyD.srcs (d : CopyD) : List Nat := sideAddrs d d.src d.sys d.szs
def CopyD.dsts (d : CopyD) : List Nat := sideAddrs d d.dst d.dys d.dzs
/-- One past the highest byte of a region (R126). -/
def topOf (as : List Nat) : Nat := as.foldl (fun m a => max m (a + 1)) 0

/-! ### Issue (R125, R126) -/

/-- R174 for the bytes of a surface region of an engine command: the class and DETAIL of the failure, or the tiles it covers;
bytes that wrap out of the surface's own addresses lie outside it. -/
def surfTiles (s : State) (ctx a rw : Nat) (as : List Nat) : Except (Nat × Nat) (List (Nat × Nat)) :=
  match surfCheck s ctx a rw 3 with
  | .error e => .error e
  | .ok f =>
    if as.all fun x => x / 2 ^ 32 == a / 2 ^ 32 && decide (saOff x < f.bytes) then
      .ok (as.map fun x => (saHandle a, saOff x / f.bt)).eraseDups
    else .error (0x04, memDetail rw 3)

/-- One side's issue checks: the place of its segment in scratchpad, its surface tiles. -/
def copySide (s : State) (c : WCtx) (kind a rw : Nat) (as : List Nat) : Try (Option Loc × List (Nat × Nat)) :=
  match kind with
  | 1 => (padRegion s c 1 a (topOf as) rw).map fun l => (some l, [])
  | 4 => (padRegion s c 2 a (topOf as) rw).map fun l => (some l, [])
  | 2 => match surfTiles s c.g.ctx a rw as with
    | .ok t => .ok (none, t)
    | .error (k, det) => .error (.trap ⟨k, det, a, c.low⟩)
  | _ => .ok (none, [])

/-- A completion word in sp or mb, checked at issue (R126). -/
def cwPlace (s : State) (c : WCtx) (cw cwa : Nat) : Try (Option Loc) :=
  if cw = 1 ∨ cw = 3 then (padExtent s c (if cw = 1 then 1 else 7) cwa 8 1).map some else .ok none

/-- A command's parts that the issuing word gives it; a handler group's has a queue number that no member word holds (R453). -/
def blankCmd (s : State) (c : WCtx) (d : Nat) (desc : List (BitVec 8)) (addr scope cls : Nat) : EngCmd :=
  { id := 0, eng := 0, desc, descAddr := addr, value := c.g.s (d + 1), scope, ctx := c.g.ctx, key := c.key, core := c.g.core,
    launch := c.g.launch, team := c.g.team,
    member := (match launchOf s c.g, teamOf s c.g with
      | some l, some t => (l.queue, t.tid)
      | _, _ => (65536, 0)), pc := c.sp.pc, who := whoOf s c.g 0, queue := none, cls, sloc := none, dloc := none, cloc := none, tiles := [], moved := 0, paid := false,
    failed := none }

def engEntries (s : State) (eng : Nat) : List EngCmd := s.engCmds.filter fun m => m.eng == eng
/-- The event that completes a command of an engine. -/
def engEvent (eng id : Nat) : Instr := if 800 ≤ eng then .nbxCommand (eng - 800) else .copyEngineComplete eng id

/-- A descriptor in a sector that cannot be read as good is not used: an uncorrectable-memory fault, exact (R438; DESIGN CHOICE,
log 131). -/
def goodSource (s : State) (c : WCtx) (ls : List Loc) : Try Unit :=
  match loadBad s c.g.core ls with
  | some sec => .error (.trap ⟨0x0E, 0, sec, c.low⟩)
  | none => .ok ()

/-- The common operation of `cpy`, `coll` and `nbx` (R125): `check` makes the command from its descriptor, `eng` picks
the engine's queue. -/
def engineWord (s : State) (d : BitVec 7) (x : BitVec 3) (n : BitVec 1) (p g : BitVec 3) (cls : Nat) (eng : State → WCtx → Nat)
    (check : State → WCtx → EngCmd → Try EngCmd) : Out :=
  runWord s fun c s => do
    roomFor c cls
    let v := (c.g.s d.toNat).toNat
    let y := if g = 0 then v else v % 2 ^ 32
    trapIf (y % 64 != 0) ⟨0x08, 2, y, c.low⟩
    let ls ← uniform s c g.toNat y 64 0
    let (s, bs) := groupLoad s c.key c.g ls
    goodSource s c ls
    let m ← check s c (blankCmd s c d.toNat bs y x.toNat cls)
    let e := eng s c
    let held := (engEntries s e).length
    if fqFull s (2000 + e) 64 held then
      if n = 1 then (unbuffered s c 2 g.toNat).map fun s => nbWrite s c p.toNat false else .error .stall
    else
      let s ← unbuffered s c 2 g.toNat
      let s := fqTake (releaseAct s c.key c.g.core 5 (pairedOf s c.g)) (2000 + e) 64 held
      let (s, id) := newId s
      let s := later { s with engCmds := s.engCmds ++ [{ m with id, eng := e }] } (engEvent e id)
      let s := updG s c.key fun g => g.startOp cls id
      pure (if n = 1 then nbWrite s c p.toNat true else s)

/-- R120: of a quadrant's copy engines the one with the fewest entries, the lowest on a tie. -/
def copyEngineFor (s : State) (quad : Nat) : Nat :=
  let count := fun e => (engEntries s e).length
  (List.range 4).foldl (fun b i => if count (100 + 4 * quad + i) < count b then 100 + 4 * quad + i else b) (100 + 4 * quad)

def copyCheck (s : State) (c : WCtx) (m : EngCmd) : Try EngCmd := do
  let k := parseCopy m.desc
  match k.bad with
  | some o => illegal 1 (m.descAddr + o) c.low
  | none =>
    let (sl, st) ← copySide s c k.sk k.src 0 k.srcs
    let (dl, dt) ← copySide s c k.dk k.dst 1 k.dsts
    let cl ← cwPlace s c k.cw k.cwa
    pure { m with sloc := sl, dloc := dl, cloc := cl, tiles := st ++ dt }

/-- R125. -/
def execCpy (d : BitVec 7) (x : BitVec 3) (n : BitVec 1) (p : BitVec 3) (g : BitVec 3) (s : State) : Out :=
  engineWord s d x n p g 0 (fun s c => copyEngineFor s (coreQuad s c.g.core)) copyCheck

/-! ### Ends of a command (R127, R129, R131) -/

def cmdOf (s : State) (id : Nat) : Option EngCmd := s.engCmds.find? fun m => m.id == id
def setCmd (s : State) (id : Nat) (f : EngCmd → EngCmd) : State :=
  { s with engCmds := s.engCmds.map fun m => if m.id == id then f m else m }

/-- The unit whose translation cache serves a command's addresses: its engine's; the cluster station's of its core for a
near-bank command, since the surface controller issues no virtual address (R80, log 29). -/
def EngCmd.unit (m : EngCmd) : Nat := if 800 ≤ m.eng then engStation (m.core / 4) else m.eng

/-- The command's entry is freed; the engine's next command may run (R120). -/
def freeCmd (s : State) (m : EngCmd) : State :=
  let s := clearXfaults { s with engCmds := s.engCmds.filter fun e => e.id != m.id } m.unit m.id
  let s := fqLeave s (2000 + m.eng) (engEntries s m.eng).length
  match (engEntries s m.eng)[if 800 ≤ m.eng then 0 else 15]? with
  | some e => later s (engEvent m.eng e.id)
  | none => s

/-- A command has done all it does. -/
def completeCmd (s : State) (m : EngCmd) : State :=
  match m.queue with
  | some (q, i) => later (freeCmd s m) (.commandComplete q i)
  | none => finishOp (freeCmd s m) m.key m.id none

/-- SOURCE of an engine's records (R427). -/
def engSource (eng : Nat) : Nat := if 800 ≤ eng then 0x0300 + (eng - 800) else if 300 ≤ eng then 0x0120 + (eng - 300) else 0x0100 + (eng - 100)

/-- A command ends by a fault: bytes moved stay moved, no completion word, its records (R129). -/
def failCmd (s : State) (m : EngCmd) (cls detail addr : Nat) : State :=
  match m.queue with
  | some (q, i) =>
    let s := postRecs s m.ctx (endedRecs s m.ctx cls detail (engSource m.eng) addr i q m.descAddr m.moved false)
    later (freeCmd s m) (.commandComplete q i)
  | none => failOp (freeCmd s m) m.ctx m.key m.id m.who cls detail (engSource m.eng) addr m.pc m.descAddr m.moved

/-- A command has met the fault that ends it; ENGINE_COMMAND_FAULT follows. -/
def meetFault (s : State) (m : EngCmd) (cls detail addr : Nat) : State :=
  later (setCmd s m.id fun e => { e with failed := some (cls, detail, addr) })
    (.engineCommandFault m.eng m.id (BitVec.ofNat 8 cls) (BitVec.ofNat 64 addr))

/-- R129, ENGINE_COMMAND_FAULT. -/
def execEngineCommandFault (_eng id : Nat) (cls : BitVec 8) (addr : BitVec 64) (s : State) : Out :=
  match cmdOf s id with
  | some m => match m.failed with
    | some (c, det, a) => .next (if c % 256 = cls.toNat ∧ a % 2 ^ 64 = addr.toNat then failCmd s m c det a else s)
    | none => .next s
  | none => .next s

/-- R127: the completion word, after every payload byte; a fault on a global one ends the command. -/
def payCmd (s : State) (m : EngCmd) (cw cwa : Nat) : State :=
  match cw, m.cloc with
  | 0, _ => completeCmd s m
  | 2, _ => match engCheck s m.unit m.ctx m.id 2 ((List.range 8).map (cwa + ·)) with
    | .ok ls => completeCmd (engWrite s m.unit m.ctx ls (leBytes 8 m.value.toNat) []) m
    | .wait ps => engAsk s m.unit m.ctx m.id ps
    | .stall => s
    | .fault c k _ => meetFault s m c 1 ((cwa + k) % 2 ^ 64 / 4096 * 4096)
    | .lost dev _ => meetFault s m 0 1 dev
  | _, some l => completeCmd (coreWrite s m.eng m.ctx m.team l (leBytes 8 m.value.toNat)) m
  | _, none => completeCmd s m

/-! ### The move (R124, R128, R129) -/

/-- The check of each byte of a side. -/
def sideChecks (s : State) (m : EngCmd) (kind need : Nat) (loc : Option Loc) (as : List Nat) : List XRes :=
  match kind, loc with
  | 0, _ => as.map fun a => xlate s m.eng m.ctx m.id a need
  | 2, _ => as.map fun a => .ok ⟨.surf (saHandle a) (saView a), saOff a⟩
  | _, some l => as.map fun a => .ok (l.plus a)
  | _, none => []

/-- Surface places of a side that are about to be reached: reads are served, writes need their tiles (R187); the
first place whose tile cannot be restored. -/
def touchSide (s : State) (rw : Nat) (ls : List Loc) : State × Option Nat :=
  (ls.filterMap fun l => (surfOf l).map (·.1)).eraseDups.foldl (fun (a : State × Option Nat) h =>
    match Tab.find a.1.surfs h with
    | none => a
    | some f =>
      let bs := blocksOf f h ls
      let held := tilesOf s ls
      if rw = 0 then (bs.foldl (touchRead held h) a.1, a.2)
      else match touchWrites held a.1 h (bs.map (· / f.bpt)).eraseDups with
        | (s', true) => (s', a.2)
        | (s', false) => (s', ((List.range ls.length).find? fun i => match ls[i]? with
            | some l => (surfOf l).isSome && (tslotOf s' h (l.addr / f.bt)).isNone
            | none => false))) (s, none)

/-- The bytes written, one after another; where the regions overlap a byte may already hold what this command left
(R124, log 10). -/
def moveBytes (s : State) (ctx : Nat) : List (Nat × Loc × BitVec 8 × Option Loc) → State
  | [] => s
  | (j, dst, orig, src) :: ms =>
    let b := match src with
      | some l => if Config.overlapNew s.fresh j then homeByte s l else orig
      | none => orig
    moveBytes (putHome s ctx dst b) ctx ms

/-- A surface destination receives each row as one access. Where it overlaps its source a row receives the source bytes as they stood
before the move (DESIGN CHOICE, log 10). -/
def moveRows (s : State) (ctx xb : Nat) (ms : List (Loc × BitVec 8)) : State :=
  (List.range ((ms.length + xb - 1) / xb)).foldl (fun s i =>
    let row := (ms.drop (i * xb)).take xb
    match row.head?.bind fun w => surfOf w.1 with
    | some (h, v) => writeSurf s h v (row.map fun w => (w.1.addr, w.2))
    | none => putHomes s ctx row) s

/-- Move `n` bytes between checked places, in requests of the engine (R115); bad source bytes poison their destinations
(R128), and a sector of host memory that would receive one is not written (R99). -/
def moveAll (s : State) (m : EngCmd) (k : CopyD) (srcs : List (BitVec 8 × Option Loc)) (bad : List Nat) (dsts : List Loc) : State :=
  let alive := (Tab.find s.teams m.team).isSome
  let ws := (dsts.zip srcs).zipIdx.map fun x => (x.2, x.1.1, x.1.2.1, x.1.2.2)
  let shut := (bad.filterMap fun i => dsts[i]?).filter fun l => l.sp == .host
  let go := ws.filter fun w => !(w.2.1.sp == .host && shut.any fun x => x.addr / 64 == w.2.1.addr / 64)
  let s := mergePlaces (countLines s (unitSource s m.eng) true dsts) m.ctx (go.map (·.2.1))
  let s := if k.dk = 2 then moveRows s m.ctx k.xb (dsts.zip (srcs.map (·.1)))
    else if (k.dk = 1 ∨ k.dk = 4) ∧ !alive then s
    else moveBytes s m.ctx go
  { spreadBad s dsts bad with fresh := s.fresh + 1 }

/-- How far the checks let a move go, and the fault that stops it: class, DETAIL and address. -/
def moveStop (xs : List XRes) (need : Nat) (as : List Nat) : Nat × Option (Nat × Nat × Nat) :=
  let n := (goodPrefix xs).length
  let a := as.getD n 0
  match xs[n]? with
  | some (.fault c) => (n, some (c, need - 1, a / 4096 * 4096))
  | some (.lost d) => (n, some (0, need - 1, d))
  | _ => (n, none)

/-- R128: the uncorrectable-memory event of a tile whose bytes came from bad sectors, charged to the owner of the key. -/
def badTile (s : State) (ctx key : Nat) : State :=
  chargeRec s ctx { cls := 0x0E, kind := 0, detail := 0, ctx, source := 0x0800 + keyStation key, time := s.time, addr := key, pc := 0, who := 0 }

/-- The bytes of the source side: a tile's, padded with zeros (R123), or those at the places. -/
def sourceBytes (s : State) (m : EngCmd) (k : CopyD) (n : Nat) (ls : List Loc) : State × List (BitVec 8 × Option Loc) × List Nat :=
  if k.sk = 3 then
    match tileAt s k.src m.ctx with
    | some t =>
      let bad := t.bad.filter (· < n)
      (if bad.isEmpty then s else badTile s m.ctx k.src, (List.range n).map fun i => (t.data.getD i 0, none), bad)
    | none => (s, [], [])
  else
    let (s, bs, bad) := engRead s m.eng m.ctx (ls.take n)
    (s, (bs.zip (ls.take n)).map fun x => (x.1, some x.2), bad)

/-- One attempt at a command's move: it waits for pages, or moves what the checks let it. A command whose tile is on its way
to its home slice waits for it to arrive (R127, R131). -/
def moveCmd (s : State) (m : EngCmd) (k : CopyD) : State :=
  let sx := sideChecks s m k.sk 1 m.sloc k.srcs
  let dx := sideChecks s m k.dk 2 m.dloc k.dsts
  let misses := missesOf (sx ++ dx)
  if k.dk = 3 ∧ m.moved ≠ 0 then s
  else if !misses.isEmpty then engAsk s m.eng m.ctx m.id (misses.map fun p => (p.1 / 4096 * 4096, p.2)).eraseDups
  else if (sx ++ dx).contains .stall then s
  else if k.sk = 3 ∧ (tileAt s k.src m.ctx).isNone then meetFault s m 0x11 0 k.src
  else
    let (sn, sf) := if k.sk = 3 then (k.total, none) else moveStop sx 1 k.srcs
    let (dn, df) := if k.dk = 3 then (k.total, none) else moveStop dx 2 k.dsts
    let n := min sn dn
    let dsts := (goodPrefix dx).take n
    let (s, _) := touchSide s 0 ((goodPrefix sx).take n)
    let (s, none?) := touchSide s 1 dsts
    let (n, f) := match none? with
      | some i => if i < n then (i, some (0x05, 1 + 4 * 3, k.dst / 2 ^ 32 * 2 ^ 32 + (dsts.getD i ⟨.log, 0⟩).addr)) else (n, if dn < sn then df else sf)
      | none => (n, if dn < sn then df else sf)
    let (s, bytes, bad) := sourceBytes s m k n (goodPrefix sx)
    if k.dk = 3 then
      match f with
      | some (c, det, a) => meetFault s m c det a
      | none =>
        let q : KPut := { key := k.dst, ctx := m.ctx, len := n, ret := 0, backing := 0, gkey := 0, pend := m.eng, op := m.id, cl := 22, pc := 0, who := m.who }
        sendFlit (setCmd s m.id fun e => { e with moved := n }) (.put q (bytes.map (·.1)) bad)
    else
      let s := moveAll s m k bytes bad (dsts.take n)
      match f with
      | some (c, det, a) => meetFault (setCmd s m.id fun e => { e with moved := n }) m c det a
      | none => payCmd (setCmd s m.id fun e => { e with moved := n, paid := true }) { m with moved := n, paid := true } k.cw k.cwa

/-- A host command's surface side: R174's checks, or the tiles it covers. -/
def hostSide (s : State) (m : EngCmd) (kind a rw : Nat) (as : List Nat) : Except (Nat × Nat × Nat) (List (Nat × Nat)) :=
  if kind ≠ 2 then .ok [] else (surfTiles s m.ctx a rw as).mapError fun e => (e.1, e.2, a)

/-- R412: a host COPY's descriptor is fetched and checked when an engine entry has taken it. -/
def hostDesc (s : State) (m : EngCmd) : State :=
  match engCheck s m.eng m.ctx m.id 1 ((List.range 64).map (m.descAddr + ·)) with
  | .wait ps => engAsk s m.eng m.ctx m.id ps
  | .stall => s
  | .fault c k _ => meetFault s m c 0 ((m.descAddr + k) % 2 ^ 64 / 4096 * 4096)
  | .lost d _ => meetFault s m 0 0 d
  | .ok ls =>
    let (s, b, bad) := engRead s m.eng m.ctx ls
    let k := parseCopy b
    let kindBad := k.sk = 1 ∨ k.sk = 4 ∨ k.dk = 1 ∨ k.dk = 4 ∨ k.cw = 1 ∨ k.cw = 3
    if !bad.isEmpty then meetFault s m 0x0E 0 m.descAddr
    else match (if k.bad.isNone ∧ kindBad then some 0x18 else k.bad) with
    | some o => meetFault s m 0x08 1 (m.descAddr + o)
    | none =>
      match hostSide s m k.sk k.src 0 k.srcs, hostSide s m k.dk k.dst 1 k.dsts with
      | .error (c, det, a), _ => meetFault s m c det a
      | _, .error (c, det, a) => meetFault s m c det a
      | .ok ts, .ok td =>
        later (setCmd s m.id fun e => { e with desc := b, tiles := ts ++ td }) (.copyEngineComplete m.eng m.id)

/-- Whether a command is among the 16 that its engine runs (R120). -/
def runs (s : State) (m : EngCmd) : Bool := ((engEntries s m.eng).take 16).any fun e => e.id == m.id

/-- A copy command goes on as far as it can. -/
def copyStep (s : State) (m : EngCmd) : State :=
  if m.failed.isSome then s
  else if m.desc.isEmpty then hostDesc s m
  else if !runs s m then s
  else
    let k := parseCopy m.desc
    if m.paid then payCmd s m k.cw k.cwa else moveCmd s m k

end Sys2Proof.Machine
end

