-- ==== Sys2Proof/Machine/Collective.lean ====
section
/-! DEFINITION. Collective engines (R136 to R138, R453), and COPY_ENGINE_COMPLETE for copies and collectives. -/
namespace Sys2Proof.Machine

/-! ### Descriptors (R136) -/

structure CollD where
  src : Nat
  dst : Nat
  cwa : Nat
  op : Nat
  comb : Nat
  ty : Nat
  cw : Nat
  root : Nat
  count : Nat
  group : Nat
  seq : Nat
deriving DecidableEq, Repr

def parseColl (b : List (BitVec 8)) : CollD :=
  let ctl := fieldAt b 0x18 4
  { src := fieldAt b 0 8, dst := fieldAt b 8 8, cwa := fieldAt b 0x10 8, op := bits ctl 3 0, comb := bits ctl 7 4, ty := bits ctl 12 8,
    cw := bits ctl 14 13, root := bits ctl 23 16, count := fieldAt b 0x1C 4, group := fieldAt b 0x20 4, seq := fieldAt b 0x28 8 }

/-- The offset of the field that breaks R136, if one does. -/
def collBad (b : List (BitVec 8)) : Option Nat :=
  let d := parseColl b
  let ctl := fieldAt b 0x18 4
  if 4 < d.op ∨ 2 < d.comb ∨ !([tU32, tI32, tF16, tBF16, tF32, tF64].contains d.ty) ∨ bit ctl 15 ∨ bits ctl 31 24 ≠ 0 then some 0x18
  else if d.count = 0 ∨ 268435456 < d.count then some 0x1C
  else if 255 < d.group then some 0x20
  else if fieldAt b 0x24 4 ≠ 0 then some 0x24
  else if fieldAt b 0x30 8 ≠ 0 ∨ fieldAt b 0x38 8 ≠ 0 then some 0x30
  else if d.cw ≠ 0 ∧ d.cwa % 8 ≠ 0 then some 0x10
  else none

/-- R138. -/
def execColl (d : BitVec 7) (x : BitVec 3) (n : BitVec 1) (p : BitVec 3) (g : BitVec 3) (s : State) : Out :=
  engineWord s d x n p g 1 (fun s c => 300 + coreQuad s c.g.core) fun s c m =>
    match collBad m.desc with
    | some o => illegal 1 (m.descAddr + o) c.low
    | none => do
      let k := parseColl m.desc
      let cl ← cwPlace s c k.cw k.cwa
      pure { m with cloc := cl }

/-! ### The group (R453) -/

/-- A member word: PEER, queue, TEAMID. -/
structure CMember where
  peer : Nat
  queue : Nat
  tid : Nat
deriving DecidableEq, Repr

def parseMember (v : Nat) : CMember := { peer := bits v 7 0, queue := bits v 31 16, tid := bits v 63 32 }

/-- A check of bytes from an address, its fault named by the page of the byte. -/
def checkFrom (s : State) (m : EngCmd) (base n : Nat) : EngRes :=
  match engCheck s m.eng m.ctx m.id 1 ((List.range n).map (base + ·)) with
  | .fault c i good => .fault c ((base + i) % 2 ^ 64 / 4096 * 4096) good
  | r => r

/-- The members of a command's group, read through its engine; an entry that names none is an empty list. A table in a bad sector ends
the command (R128; DESIGN CHOICE, log 131). -/
def collMembers (s : State) (m : EngCmd) (tab : Nat) : State × (EngRes ⊕ List CMember) :=
  match checkFrom s m (tab + 16 * (parseColl m.desc).group) 16 with
  | .ok ls =>
    let (s, b, bad) := engRead s m.eng m.ctx ls
    let n := fieldAt b 0 2
    if !bad.isEmpty then (s, .inl (.fault 0x0E (sectorAddr s (ls.getD (bad.headD 0) ⟨.log, 0⟩)) []))
    else if n = 0 ∨ 256 < n then (s, .inr [])
    else match checkFrom s m (fieldAt b 8 8) (8 * n) with
      | .ok ws =>
        let (s, v, bad) := engRead s m.eng m.ctx ws
        if !bad.isEmpty then (s, .inl (.fault 0x0E (sectorAddr s (ws.getD (bad.headD 0) ⟨.log, 0⟩)) []))
        else (s, .inr ((List.range n).map fun r => parseMember (fieldAt v (8 * r) 8)))
      | r => (s, .inl r)
  | r => (s, .inl r)

/-- What a member brings: its command here, or what a peer's member has sent (R455). -/
abbrev Part := EngCmd ⊕ CollIn
def Part.desc : Part → List (BitVec 8)
  | .inl e => e.desc
  | .inr c => c.desc
/-- The commands here among the members. -/
def Part.cmd : Part → Option EngCmd
  | .inl e => some e
  | .inr _ => none

/-- The part of a member of the same collective, if it has come. -/
def memberPart (s : State) (m : EngCmd) (w : CMember) : Option Part :=
  let k := parseColl m.desc
  let same := fun (b : List (BitVec 8)) => (parseColl b).group == k.group && (parseColl b).seq == k.seq
  if w.peer = 0 then
    (s.engCmds.find? fun e => e.cls == 1 && e.ctx == m.ctx && e.member == (w.queue, w.tid) && e.failed.isNone && !e.paid && same e.desc).map .inl
  else (s.collIn.find? fun c => c.ctx == m.ctx && c.peer == w.peer && c.queue == w.queue && c.tid == w.tid && same c.desc).map .inr

/-! ### Results (R137) -/

/-- Element-wise combination of two sources: `old` has the lower ranks. -/
def combElem (k : CollD) (old x : Nat) : Nat :=
  let z := tWidth k.ty / 8
  let fop := tFloat k.ty
  atomNew { loc := ⟨.log, 0⟩, z, fop, op := if fop then k.comb + 1 else k.comb, ty := k.ty, x := BitVec.ofNat 64 x, y := 0, sat := false, rnd := 0 } old

def elemsOf (z : Nat) (bs : List (BitVec 8)) : List Nat := (List.range (bs.length / z)).map fun i => fieldAt bs (z * i) z

/-- Sources combined in increasing rank, as bytes. -/
def combine (k : CollD) : List (List (BitVec 8)) → List (BitVec 8)
  | [] => []
  | b :: bs =>
    let z := tWidth k.ty / 8
    (bs.foldl (fun a x => (a.zip (elemsOf z x)).map fun p => combElem k p.1 p.2) (elemsOf z b)).flatMap (leBytes z ·)

/-- Bytes a block, a member's source and its destination hold. -/
def CollD.block (k : CollD) : Nat := k.count * (tWidth k.ty / 8)
def CollD.srcLen (k : CollD) (n : Nat) : Nat := if k.op = 4 then n * k.block else k.block
def CollD.dstLen (k : CollD) (n : Nat) : Nat := if k.op = 3 then n * k.block else k.block
/-- Whether the member of a rank is read, and written. -/
def CollD.reads (k : CollD) (r : Nat) : Bool := k.op != 0 || r == k.root
def CollD.writes (k : CollD) (r : Nat) : Bool := k.op != 1 || r == k.root

/-- What the member of rank `r` receives. -/
def collResult (k : CollD) (r : Nat) (srcs : List (List (BitVec 8))) : List (BitVec 8) :=
  match k.op with
  | 0 => srcs.getD k.root []
  | 3 => srcs.flatten
  | 4 => combine k (srcs.map fun b => (b.drop (r * k.block)).take k.block)
  | _ => combine k srcs

/-- Which of those bytes come from bad sectors. -/
def collPoison (k : CollD) (r : Nat) (bad : List (List Nat)) : List Nat :=
  match k.op with
  | 0 => bad.getD k.root []
  | 3 => bad.zipIdx.flatMap fun b => b.1.map (b.2 * k.block + ·)
  | 4 => bad.flatMap fun b => (b.filter fun i => decide (r * k.block ≤ i) && decide (i < (r + 1) * k.block)).map (· - r * k.block)
  | _ => bad.flatten

/-- R137: every member's command ends with no DST written, the record naming the mismatch. -/
def mismatch (s : State) (ms : List EngCmd) : State := ms.foldl (fun s e => meetFault s e 0x08 4 e.descAddr) s

/-- One member's places: its source or its destination. -/
def memberSide (s : State) (e : EngCmd) (base n need : Nat) : EngRes :=
  engCheck s e.eng e.ctx e.id need ((List.range n).map (base + ·))

/-- One member's result is written, or the write's fault ends its command. -/
def giveMember (s : State) (e : EngCmd) (bs : List (BitVec 8)) (bad : List Nat) : State :=
  let k := parseColl e.desc
  match memberSide s e k.dst bs.length 2 with
  | .ok ls =>
    let s := engWrite s e.eng e.ctx ls bs bad
    payCmd (setCmd s e.id fun e => { e with paid := true, moved := bs.length }) { e with paid := true, moved := bs.length } k.cw k.cwa
  | .fault c n ls =>
    meetFault (setCmd (engWrite s e.eng e.ctx ls bs (bad.filter (· < n))) e.id fun e => { e with moved := n }) e c 1
      ((k.dst + n) % 2 ^ 64 / 4096 * 4096)
  | .lost d ls => meetFault (engWrite s e.eng e.ctx ls bs (bad.filter (· < ls.length))) e 0 1 d
  | _ => s

/-- A member that receives nothing goes on to its completion word. -/
def skipMember (s : State) (e : EngCmd) : State :=
  let k := parseColl e.desc
  payCmd (setCmd s e.id fun e => { e with paid := true }) { e with paid := true } k.cw k.cwa

/-- What a member's source holds: its places here, none for a peer's. -/
def partSource (s : State) (k : CollD) (n : Nat) (p : Part × Nat) : EngRes :=
  match p.1 with
  | .inl e => if k.reads p.2 then memberSide s e (parseColl e.desc).src (k.srcLen n) 1 else .ok []
  | .inr _ => .ok []
def partDest (s : State) (k : CollD) (n : Nat) (p : Part × Nat) : EngRes :=
  match p.1 with
  | .inl e => if k.writes p.2 then memberSide s e (parseColl e.desc).dst (k.dstLen n) 2 else .ok []
  | .inr _ => .ok []
/-- The pages that a member's check waits for. -/
def partAsks (p : Part) : EngRes → Option (EngCmd × List (Nat × Nat))
  | .wait ps => p.cmd.map fun e => (e, ps)
  | _ => none
/-- The fault that stands on a member's source: class and address. -/
def partFault (p : Part) : EngRes → Option (Nat × Nat)
  | .fault c i _ => p.cmd.map fun e => (c, ((parseColl e.desc).src + i) % 2 ^ 64 / 4096 * 4096)
  | .lost d _ => some (0, d)
  | _ => none
/-- A member's source bytes, those of bad sectors, and their places. -/
def partBytes (s : State) (p : Part) (r : EngRes) : List (BitVec 8) × List Nat × List Loc :=
  match p, r with
  | .inl _, .ok ls => (readHome s ls, poisonedAt s ls, ls)
  | .inr c, _ => (c.data, c.bad, [])
  | _, _ => ([], [], [])

/-- The collective once every member's part is here: waits for pages, then moves for all. A fault that stands on a member's SRC ends
every local member's command with its class and address; one on a DST ends that member's alone (DESIGN CHOICE, log 30). What a
member on another device receives goes out on its port (R455). -/
def runColl (s : State) (k : CollD) (ms : List Part) : State :=
  let n := ms.length
  let rs := ms.zipIdx
  let cmds := ms.filterMap Part.cmd
  let srcs := rs.map (partSource s k n)
  let dsts := rs.map (partDest s k n)
  let asks := ((ms.zip srcs) ++ ms.zip dsts).filterMap fun x => partAsks x.1 x.2
  if !asks.isEmpty then asks.foldl (fun s a => engAsk s a.1.eng a.1.ctx a.1.id a.2) s
  else if (srcs ++ dsts).contains .stall then s
  else match (ms.zip srcs).findSome? fun x => partFault x.1 x.2 with
    | some (c, a) => cmds.foldl (fun s e => meetFault s e c 0 a) { s with collIn := s.collIn.filter fun c => !ms.contains (.inr c) }
    | none =>
      let got := (ms.zip srcs).map fun x => partBytes s x.1 x.2
      let s := (ms.zip got).foldl (fun s g => match g.1 with
        | .inl e => touchPlaces (countLines s (unitSource s e.eng) false g.2.2.2) e.ctx g.2.2.2
        | .inr _ => s) s
      let s : State := { s with collIn := s.collIn.filter fun c => !ms.contains (.inr c) }
      rs.foldl (fun s e => match e.1 with
        | .inl c =>
          if k.writes e.2 then giveMember s c (collResult k e.2 (got.map (·.1))) (collPoison k e.2 (got.map (·.2.1))) else skipMember s c
        | .inr _ => s) s

/-- A collective command goes on as far as it can: its group, then every member's part. A broadcast's or a reduce's ROOT that no member
has counts as a mismatch (DESIGN CHOICE, log 134: R137 does not say). -/
def collStep (s : State) (m : EngCmd) : State :=
  if m.failed.isSome ∨ !runs s m then s
  else
    let k := parseColl m.desc
    if m.paid then payCmd s m k.cw k.cwa
    else match Tab.find s.ctxs m.ctx with
      | none => s
      | some c =>
        if c.cgTab = 0 then mismatch s [m]
        else match collMembers s m c.cgTab with
          | (s, .inl (.wait ps)) => engAsk s m.eng m.ctx m.id ps
          | (s, .inl (.fault c a _)) => meetFault s m c 0 a
          | (s, .inl (.lost d _)) => meetFault s m 0 0 d
          | (s, .inl _) => s
          | (s, .inr ws) =>
            if !(ws.any fun w => w.peer == 0 && m.member == (w.queue, w.tid)) then mismatch s [m]
            else
              let ms := ws.filterMap (memberPart s m)
              if ms.length ≠ ws.length ∨ !((ms.filterMap Part.cmd).all (runs s)) then s
              else if ms.all fun e =>
                  let j := parseColl (Part.desc e)
                  j.op == k.op && j.comb == k.comb && j.ty == k.ty && j.count == k.count && j.root == k.root && (decide (k.root < ms.length) || decide (1 < k.op)) then
                runColl s k ms
              else mismatch { s with collIn := s.collIn.filter fun c => !ms.contains (.inr c) } (ms.filterMap Part.cmd)

/-- R127, COPY_ENGINE_COMPLETE, for copies and collectives; a refetch that its quadrant's engine makes goes on too. -/
def engineStep (s : State) (id : Nat) : State :=
  match cmdOf s id with
  | some m => if m.cls = 1 then collStep s m else if m.cls = 0 then copyStep s m else s
  | none => s

end Sys2Proof.Machine
end

