-- ==== Sys2Proof/Machine/ScalarInt.lean ====
section
/-! DEFINITION. Scalar integer words (R258, R261 to R266). -/
namespace Sys2Proof.Machine

/-- A scalar word: a function of its two sources and its destination's old value, modulo 2^64 (R258). -/
def scalarOp (s : State) (d a b : BitVec 7) (f : Nat → Nat → Nat → Nat) : Out :=
  runWord s fun c s => pure (writeS s c d.toNat (f (scalarSrc c.g a) (scalarSrc c.g b) (c.g.s d.toNat).toNat))

/-- The shifts of R261 at width E. -/
def shiftL (e a b : Nat) : Nat := if e ≤ b then 0 else (a <<< b) % 2 ^ e
def shiftR (e a b : Nat) : Nat := if e ≤ b then 0 else (a % 2 ^ e) >>> b
def shiftA (e a b : Nat) : Nat := ofS e (toS e a >>> (min b (e - 1)))
/-- The high half of a signed product (R261, R262). -/
def mulHighS (e a b : Nat) : Nat := ofS e ((toS e a * toS e b) >>> e)
def mulHighU (e a b : Nat) : Nat := a * b / 2 ^ e

def execSadd (d a b : BitVec 7) (s : State) : Out := scalarOp s d a b fun x y _ => x + y
def execSsub (d a b : BitVec 7) (s : State) : Out := scalarOp s d a b fun x y _ => x + 2 ^ 64 - y
def execSmul (d a b : BitVec 7) (s : State) : Out := scalarOp s d a b fun x y _ => x * y
def execSmulh (d a b : BitVec 7) (s : State) : Out := scalarOp s d a b fun x y _ => mulHighS 64 x y
/-- R262: the destination's old value is added. -/
def execSmad (d a b : BitVec 7) (s : State) : Out := scalarOp s d a b fun x y z => x * y + z
def execSand (d a b : BitVec 7) (s : State) : Out := scalarOp s d a b fun x y _ => x &&& y
def execSor (d a b : BitVec 7) (s : State) : Out := scalarOp s d a b fun x y _ => x ||| y
def execSxor (d a b : BitVec 7) (s : State) : Out := scalarOp s d a b fun x y _ => x ^^^ y
def execSshl (d a b : BitVec 7) (s : State) : Out := scalarOp s d a b fun x y _ => shiftL 64 x y
def execSshr (d a b : BitVec 7) (s : State) : Out := scalarOp s d a b fun x y _ => shiftR 64 x y
def execSsar (d a b : BitVec 7) (s : State) : Out := scalarOp s d a b fun x y _ => shiftA 64 x y
def execSmin (d a b : BitVec 7) (s : State) : Out := scalarOp s d a b fun x y _ => if toS 64 x ≤ toS 64 y then x else y
def execSmax (d a b : BitVec 7) (s : State) : Out := scalarOp s d a b fun x y _ => if toS 64 x ≤ toS 64 y then y else x

/-- R265: one comparison, the same bit for every active lane. -/
def execScmp (k : BitVec 4) (p : BitVec 3) (a b : BitVec 7) (s : State) : Out :=
  runWord s fun c s =>
    let r := condHolds k.toNat true 64 (scalarSrc c.g a) (scalarSrc c.g b)
    pure (writePred s c p.toNat fun _ => r)

/-- R266: the guard of the lowest lane of the split selects. -/
def execSsel (d a b : BitVec 7) (s : State) : Out :=
  runSel s fun c s =>
    pure (writeS s c d.toNat (if c.g.guard.getLsbD c.low then scalarSrc c.g a else scalarSrc c.g b))

/-- Leading and trailing zeros, and a bit or byte reversal, of `e` bits. -/
def countZ (p : Nat → Bool) : List Nat → Nat
  | [] => 0
  | k :: ks => if p k then 0 else 1 + countZ p ks
def popCount (e x : Nat) : Nat := ((List.range e).filter (bit x)).length
def leadZ (e x : Nat) : Nat := countZ (bit x) (List.range e).reverse
def trailZ (e x : Nat) : Nat := countZ (bit x) (List.range e)
def revBits (e x : Nat) : Nat := (List.range e).foldl (fun a i => if bit x i then a + 2 ^ (e - 1 - i) else a) 0
def revBytes (e x : Nat) : Nat :=
  (List.range (e / 8)).foldl (fun a i => a + bits x (8 * i + 7) (8 * i) * 256 ^ (e / 8 - 1 - i)) 0

/-- R264: the result of a subfunction on element x, destination d and control y, of E bits. -/
def bitOp (sub e x d y : Nat) : Nat :=
  let pos := bits y 6 0
  let len := bits y 14 8
  let hi := min (pos + len) e
  let empty := len == 0 || decide (e ≤ pos)
  let n := hi - pos
  match sub with
  | 0 => popCount e x
  | 1 => leadZ e x
  | 2 => trailZ e x
  | 3 => revBits e x
  | 4 => if empty then 0 else (x >>> pos) % 2 ^ n
  | 5 => if empty then 0 else ofS e (toS n (x >>> pos))
  | 6 => if empty then d else d % 2 ^ pos + 2 ^ pos * (x % 2 ^ n) + 2 ^ hi * (d >>> hi)
  | _ => revBytes e x

/-- R264 on scalars: the control is s(c + 1). -/
def execSbit (d x : BitVec 7) (f : BitVec 9) (s : State) : Out :=
  runWord s fun c s =>
    pure (writeS s c d.toNat (bitOp f.toNat 64 (scalarSrc c.g x) (c.g.s d.toNat).toNat (c.g.s (x.toNat + 1)).toNat))

end Sys2Proof.Machine
end

