-- ==== Sys2Proof/Machine/VectorInt.lean ====
section
/-! DEFINITION. Vector integer, logic, compare, select and address words (R259 to R268). -/
namespace Sys2Proof.Machine

/-- Admitted types of R259. -/
def admInt (ty : Nat) : Bool := tInt ty
def admAll (ty : Nat) : Bool := decide (ty ≤ 16)
def admShift (ty : Nat) : Bool := tInt ty || ty == tRAW
def adm32 (ty : Nat) : Bool := ty == tU32 || ty == tI32 || ty == tU64 || ty == tI64
def admBit (ty : Nat) : Bool := adm32 ty || ty == tRAW || ty == tF32 || ty == tF64

/-- An exact integer result of two elements under R260. -/
def exact2 (g : Group) (f : Int → Int → Int) (a b : Nat) : Nat :=
  zipElems g.ty a b fun x y => ranged g.ty g.sat (f (elemInt g.ty x) (elemInt g.ty y))
/-- A function of two elements' bits at the element width. -/
def bits2 (g : Group) (f : Nat → Nat → Nat → Nat) (a b : Nat) : Nat := zipElems g.ty a b (f (tWidth g.ty))

def execAdd (d : BitVec 7) (i : BitVec 2) (a : BitVec 7) (j : BitVec 2) (b : BitVec 7) (s : State) : Out :=
  vec2 s admInt .arith .arith d i a j b fun g => exact2 g (· + ·)
def execSub (d : BitVec 7) (i : BitVec 2) (a : BitVec 7) (j : BitVec 2) (b : BitVec 7) (s : State) : Out :=
  vec2 s admInt .arith .arith d i a j b fun g => exact2 g (· - ·)
def execMul (d : BitVec 7) (i : BitVec 2) (a : BitVec 7) (j : BitVec 2) (b : BitVec 7) (s : State) : Out :=
  vec2 s admInt .arith .arith d i a j b fun g => exact2 g (· * ·)
/-- The high half of the product, which never saturates. -/
def execMulh (d : BitVec 7) (i : BitVec 2) (a : BitVec 7) (j : BitVec 2) (b : BitVec 7) (s : State) : Out :=
  vec2 s admInt .arith .arith d i a j b fun g =>
    bits2 g fun e x y => if tSigned g.ty then mulHighS e x y else mulHighU e x y
/-- R262: the accumulator is the destination. -/
def execMad (d : BitVec 7) (i : BitVec 2) (a : BitVec 7) (j : BitVec 2) (b : BitVec 7) (s : State) : Out :=
  vec3 s admInt .arith d i a j b fun g x y z => zip3Elems g.ty x y z fun p q r =>
    ranged g.ty g.sat (elemInt g.ty p * elemInt g.ty q + elemInt g.ty r)
def execAndB (d : BitVec 7) (i : BitVec 2) (a : BitVec 7) (j : BitVec 2) (b : BitVec 7) (s : State) : Out :=
  vec2 s admAll .bitwise .bitwise d i a j b fun _ x y => x &&& y
def execOrB (d : BitVec 7) (i : BitVec 2) (a : BitVec 7) (j : BitVec 2) (b : BitVec 7) (s : State) : Out :=
  vec2 s admAll .bitwise .bitwise d i a j b fun _ x y => x ||| y
def execXorB (d : BitVec 7) (i : BitVec 2) (a : BitVec 7) (j : BitVec 2) (b : BitVec 7) (s : State) : Out :=
  vec2 s admAll .bitwise .bitwise d i a j b fun _ x y => x ^^^ y
def execShl (d : BitVec 7) (i : BitVec 2) (a : BitVec 7) (j : BitVec 2) (b : BitVec 7) (s : State) : Out :=
  vec2 s admShift .bitwise .free d i a j b fun g => bits2 g shiftL
def execShr (d : BitVec 7) (i : BitVec 2) (a : BitVec 7) (j : BitVec 2) (b : BitVec 7) (s : State) : Out :=
  vec2 s admShift .bitwise .free d i a j b fun g => bits2 g shiftR
def execSar (d : BitVec 7) (i : BitVec 2) (a : BitVec 7) (j : BitVec 2) (b : BitVec 7) (s : State) : Out :=
  vec2 s admShift .bitwise .free d i a j b fun g => bits2 g shiftA
def execMinV (d : BitVec 7) (i : BitVec 2) (a : BitVec 7) (j : BitVec 2) (b : BitVec 7) (s : State) : Out :=
  vec2 s admInt .arith .arith d i a j b fun g => zipElems g.ty (f := fun x y => if elemInt g.ty x ≤ elemInt g.ty y then x else y)
def execMaxV (d : BitVec 7) (i : BitVec 2) (a : BitVec 7) (j : BitVec 2) (b : BitVec 7) (s : State) : Out :=
  vec2 s admInt .arith .arith d i a j b fun g => zipElems g.ty (f := fun x y => if elemInt g.ty x ≤ elemInt g.ty y then y else x)
def execAbsd (d : BitVec 7) (i : BitVec 2) (a : BitVec 7) (j : BitVec 2) (b : BitVec 7) (s : State) : Out :=
  vec2 s admInt .arith .arith d i a j b fun g => exact2 g fun x y => ((x - y).natAbs : Int)

/-- R263: dst and p6 of each active lane. -/
def execAddc (d : BitVec 7) (i : BitVec 2) (x : BitVec 7) (f : BitVec 9) (s : State) : Out :=
  runWord s fun c s => do
    let w := tWide c.g.ty
    let e : Nat := if w then 64 else 32
    let od := opD w d .arith
    let os := opA w i x .arith
    vecCheck c (adm32 c.g.ty) [od, os]
    let p6 := c.g.pred 6
    let r := fun l =>
      let cin := if f.toNat % 2 = 1 ∧ p6.getLsbD l then 1 else 0
      if f.toNat < 2 then addCarry e (od.val c.g l) (os.val c.g l) cin else subBorrow e (od.val c.g l) (os.val c.g l) cin
    let s := writeVec s c w d.toNat (fun l => (r l).1) c.g.ty
    pure (writePred s c 6 fun l => (r l).2)

/-- The control operand of R264: the register after the source, or s(k + 1) after scalar k. -/
def bitControl (w : Bool) (i : BitVec 2) (x : BitVec 7) : Opnd := ⟨3, w, x.toNat + 1, i.toNat, .free⟩
def controlVal (g : Group) (w : Bool) (i : BitVec 2) (x : BitVec 7) (l : Nat) : Nat :=
  if 112 ≤ x.toNat then (g.s (x.toNat - 111)).toNat else (bitControl w i x).val g l

/-- R264. -/
def execBit (d : BitVec 7) (i : BitVec 2) (x : BitVec 7) (f : BitVec 9) (s : State) : Out :=
  runWord s fun c s => do
    let w := tWide c.g.ty
    let e : Nat := if w then 64 else 32
    let ctl := decide (4 ≤ f.toNat) && decide (f.toNat ≤ 6)
    let od := opD w d (if f.toNat = 6 then .bitwise else .free)
    let os := opA w i x .bitwise
    vecCheck c (admBit c.g.ty) ([od, os] ++ if ctl && decide (x.toNat < 112) then [bitControl w i x] else [])
    let tag := if f.toNat < 3 then (if w then tU64 else tU32) else c.g.ty
    pure (writeVec s c w d.toNat (fun l =>
      bitOp f.toNat e (os.val c.g l) (od.val c.g l) (if ctl then controlVal c.g w i x l else 0)) tag)

/-- R265. -/
def execCmp (k : BitVec 4) (p : BitVec 3) (i : BitVec 2) (a : BitVec 7) (j : BitVec 2) (b : BitVec 7) (s : State) : Out :=
  runWord s fun c s => do
    let w := tWide c.g.ty
    let oa := opA w i a .arith
    let ob := opB w j b .arith
    vecCheck c (adm32 c.g.ty) [oa, ob]
    pure (writePred s c p.toNat fun l =>
      condHolds k.toNat (tSigned c.g.ty) (if w then 64 else 32) (oa.val c.g l) (ob.val c.g l))

/-- R266: over the split's mask, the guard selects. -/
def execSel (d : BitVec 7) (i : BitVec 2) (a : BitVec 7) (j : BitVec 2) (b : BitVec 7) (s : State) : Out :=
  runSel s fun c s => do
    let w := tWide c.g.ty
    let oa := opA w i a .bitwise
    let ob := opB w j b .bitwise
    vecCheck c (admAll c.g.ty) [opD w d, oa, ob]
    pure (writeVec s c w d.toNat (fun l => if c.g.guard.getLsbD l then oa.val c.g l else ob.val c.g l) c.g.ty)

/-- R267: the pair v(d), v(d + 1) as a 64-bit address plus a scaled offset. -/
def adrSum (sub a x : Nat) : Nat :=
  let k : Int := if sub = 1 then (x : Int) else toS 32 x
  let m : Int := if sub = 2 then 4 else if sub = 3 then 8 else 1
  ofS 64 ((a : Int) + k * m)

/-- R267. -/
def execAdr (d : BitVec 7) (i : BitVec 2) (x : BitVec 7) (f : BitVec 9) (s : State) : Out :=
  runWord s fun c s => do
    let os := opA false i x .free
    let hi : Opnd := ⟨3, false, d.toNat + 1, 0, .free⟩
    vecCheck c true [opD false d, os, hi]
    let a := fun l => adrSum f.toNat ((opD false d).val c.g l + 2 ^ 32 * hi.val c.g l) (os.val c.g l)
    let s := writeVec s c false d.toNat (fun l => a l % 2 ^ 32) tU32
    pure (writeVec s c false (d.toNat + 1) (fun l => a l / 2 ^ 32) tU32)

/-- R268: the accumulator's type. -/
def dotAcc (ty : Nat) : Nat := if ty = tU8 then tU32 else tI32

/-- R268: four byte products and the accumulator. -/
def dotSum (g : Group) (x y z : Nat) : Nat :=
  let p := fun k => elemInt g.ty (elemAt 8 x k) * elemInt g.ty (elemAt 8 y k)
  ranged (dotAcc g.ty) g.sat (elemInt (dotAcc g.ty) z + p 0 + p 1 + p 2 + p 3)

/-- R268. -/
def execDot8 (d : BitVec 7) (i : BitVec 2) (a : BitVec 7) (j : BitVec 2) (b : BitVec 7) (s : State) : Out :=
  runWord s fun c s => do
    let od := opD false d (.codes [dotAcc c.g.ty])
    let oa := opA false i a .arith
    let ob := opB false j b .arith
    vecCheck c (c.g.ty == tU8 || c.g.ty == tI8) [od, oa, ob]
    pure (writeVec s c false d.toNat (fun l => dotSum c.g (oa.val c.g l) (ob.val c.g l) (od.val c.g l)) (dotAcc c.g.ty))

end Sys2Proof.Machine
end

