-- ==== Sys2Proof/Machine/FloatArith.lean ====
section
/-! DEFINITION. Floating-point arithmetic words (R276 to R291). -/
namespace Sys2Proof.Machine

/-! ### Rounding state and exceptions of a word (R35, R39, R278) -/

/-- `n` draws of the generator, and its state after them. -/
def srSeq (g : BitVec 32) : Nat → List (Option Nat) × BitVec 32
  | 0 => ([], g)
  | n + 1 =>
    let g := srStep g
    let r := srSeq g n
    (some (srBits g) :: r.1, r.2)

/-- Whether a word draws: SR is set, and SR applies to the destination (R35; log 17). -/
def drawsSr (c : WCtx) (dst : Nat) : Bool := c.g.rnd == 5 && srApplies dst

/-- `k` results per active lane, in lane and element order, each with its draw; and the generator after them. -/
def evalLanes (c : WCtx) (dst : Nat) (k : Nat) (f : Nat → Nat → Option Nat → FRes) :
    List (Nat × List FRes) × BitVec 32 :=
  let ds := if drawsSr c dst then srSeq c.g.srg (k * c.lanes.length) else ([], c.g.srg)
  (c.lanes.zipIdx.map fun x => (x.1, (List.range k).map fun j => f x.1 j (ds.1.getD (k * x.2 + j) none)), ds.2)

/-- DETAIL of an arithmetic fault (R427). -/
def fpDetail (rs : List FRes) : Nat :=
  (if rs.any (·.inv) then 1 else 0) + (if rs.any (·.dz) then 2 else 0) + (if rs.any (·.ov) then 4 else 0)

/-- R39: with gm.TRAPFP set, the lowest lane that detects a condition raises the arithmetic fault. -/
def fpCheck (c : WCtx) (xs : List (Nat × List FRes)) : Try Unit :=
  if c.g.trapFp then
    match xs.find? fun x => fpDetail x.2 != 0 with
    | some x => .error (.trap ⟨0x0B, fpDetail x.2, 0, x.1⟩)
    | none => .ok ()
  else .ok ()

/-- Lane values from element results of width `w`. -/
def laneVals (w : Nat) (xs : List (Nat × List FRes)) : List (Nat × Nat) :=
  xs.map fun x => (x.1, joinElems w (x.2.map (·.bits)))

/-- A fixed-latency float result: lanes, tag, generator. -/
def putFloat (s : State) (c : WCtx) (wide : Bool) (d : Nat) (vs : List (Nat × Nat)) (tag : Nat) (srg : BitVec 32) : State :=
  updG s c.key fun g => { g.putReg wide d vs tag with srg }

/-- A long-latency float result (R278): computed at issue, written at completion. -/
def pendFloat (s : State) (c : WCtx) (wide : Bool) (d : Nat) (vs : List (Nat × Nat)) (tag : Nat) (srg : BitVec 32) :
    State × Pending :=
  let (s, id) := newId s
  let s := updG s c.key fun g => { g with srg }
  (later s (.longLatencyCompletion c.key id),
   { blankPending id c.sp.pc with
       elems := c.g.laneElems wide d vs, tags := (c.g.regRows wide d).map fun r => (r, BitVec.ofNat 5 tag), ready := true })

/-! ### Shapes -/

/-- A rounded exact value in gm's mode. -/
def rounded (g : Group) (ty : Nat) (sr : Option Nat) (x : XV) : FRes := roundTo (fmtOf ty) g.rnd g.sat sr x
def xvOf (ty b : Nat) : XV := unpack (fmtOf ty) b

/-- Element `j` of lane `l` of an operand in gm.TYPE. -/
def elemOf (c : WCtx) (o : Opnd) (l j : Nat) : Nat := elemAt (tWidth c.g.ty) (o.val c.g l) j

/-- A fixed-latency element-wise word over operands `os` (the destination first). -/
def floatWord (s : State) (okTy : Nat → Bool) (d : BitVec 7) (os : Bool → List Opnd)
    (f : WCtx → Nat → Nat → Option Nat → FRes) : Out :=
  runWord s fun c s => do
    let w := tWide c.g.ty
    vecCheck c (okTy c.g.ty) (os w)
    let (xs, srg) := evalLanes c c.g.ty (elemCount c.g.ty) (f c)
    fpCheck c xs
    pure (putFloat s c w d.toNat (laneVals (tWidth c.g.ty) xs) c.g.ty srg)

/-- The same for a long-latency word. -/
def floatLong (s : State) (d : BitVec 7) (os : Bool → List Opnd)
    (f : WCtx → Nat → Nat → Option Nat → FRes) : Out :=
  runLong s fun c s => do
    let w := tWide c.g.ty
    vecCheck c (tFloat c.g.ty) (os w)
    let (xs, srg) := evalLanes c c.g.ty (elemCount c.g.ty) (f c)
    fpCheck c xs
    pure (pendFloat s c w d.toNat (laneVals (tWidth c.g.ty) xs) c.g.ty srg)

/-- Two sources, an exact function, one rounding. -/
def float2 (s : State) (d : BitVec 7) (i : BitVec 2) (a : BitVec 7) (j : BitVec 2) (b : BitVec 7)
    (f : Group → XV → XV → XV) : Out :=
  floatWord s tFloat d (fun w => [opD w d, opA w i a .arith, opB w j b .arith]) fun c l k sr =>
    let w := tWide c.g.ty
    rounded c.g c.g.ty sr (f c.g (xvOf c.g.ty (elemOf c (opA w i a .arith) l k)) (xvOf c.g.ty (elemOf c (opB w j b .arith) l k)))

/-- The FMA family: the destination is the third source. -/
def float3 (s : State) (d : BitVec 7) (i : BitVec 2) (a : BitVec 7) (j : BitVec 2) (b : BitVec 7)
    (f : Group → XV → XV → XV → XV) : Out :=
  floatWord s tFloat d (fun w => [opD w d .arith, opA w i a .arith, opB w j b .arith]) fun c l k sr =>
    let w := tWide c.g.ty
    rounded c.g c.g.ty sr (f c.g (xvOf c.g.ty (elemOf c (opA w i a .arith) l k)) (xvOf c.g.ty (elemOf c (opB w j b .arith) l k))
      (xvOf c.g.ty (elemOf c (opD w d .arith) l k)))

/-- One source. -/
def float1 (s : State) (d : BitVec 7) (i : BitVec 2) (x : BitVec 7) (f : Group → Option Nat → Nat → FRes) : Out :=
  floatWord s tFloat d (fun w => [opD w d, opA w i x .arith]) fun c l k sr =>
    f c.g sr (elemOf c (opA (tWide c.g.ty) i x .arith) l k)
def floatLong1 (s : State) (d : BitVec 7) (i : BitVec 2) (x : BitVec 7)
    (f : Group → Option Nat → Nat → FRes) : Out :=
  floatLong s d (fun w => [opD w d, opA w i x .arith]) fun c l k sr =>
    f c.g sr (elemOf c (opA (tWide c.g.ty) i x .arith) l k)

/-! ### R281 -/

/-- Rounding down picks −0 for an exact zero sum (R277). -/
def Group.rdn (g : Group) : Bool := g.rnd == 3

def execFadd (d : BitVec 7) (i : BitVec 2) (a : BitVec 7) (j : BitVec 2) (b : BitVec 7) (s : State) : Out :=
  float2 s d i a j b fun g x y => xadd g.rdn x y
def execFsub (d : BitVec 7) (i : BitVec 2) (a : BitVec 7) (j : BitVec 2) (b : BitVec 7) (s : State) : Out :=
  float2 s d i a j b fun g x y => xadd g.rdn x y.negate
def execFmul (d : BitVec 7) (i : BitVec 2) (a : BitVec 7) (j : BitVec 2) (b : BitVec 7) (s : State) : Out :=
  float2 s d i a j b fun _ x y => xmul x y
def execFfma (d : BitVec 7) (i : BitVec 2) (a : BitVec 7) (j : BitVec 2) (b : BitVec 7) (s : State) : Out :=
  float3 s d i a j b fun g x y z => xadd g.rdn (xmul x y) z
def execFfms (d : BitVec 7) (i : BitVec 2) (a : BitVec 7) (j : BitVec 2) (b : BitVec 7) (s : State) : Out :=
  float3 s d i a j b fun g x y z => xadd g.rdn (xmul x y) z.negate
def execFfnma (d : BitVec 7) (i : BitVec 2) (a : BitVec 7) (j : BitVec 2) (b : BitVec 7) (s : State) : Out :=
  float3 s d i a j b fun g x y z => xadd g.rdn (xmul x y).negate z
def execFfnms (d : BitVec 7) (i : BitVec 2) (a : BitVec 7) (j : BitVec 2) (b : BitVec 7) (s : State) : Out :=
  float3 s d i a j b fun g x y z => xadd g.rdn (xmul x y).negate z.negate

/-! ### R282 to R284 -/

/-- R282. -/
def minmaxWord (s : State) (mx : Bool) (d : BitVec 7) (i : BitVec 2) (a : BitVec 7) (j : BitVec 2) (b : BitVec 7) : Out :=
  floatWord s tFloat d (fun w => [opD w d, opA w i a .arith, opB w j b .arith]) fun c l k _ =>
    let w := tWide c.g.ty
    fminmax (fmtOf c.g.ty) mx (elemOf c (opA w i a .arith) l k) (elemOf c (opB w j b .arith) l k)
def execFmin (d : BitVec 7) (i : BitVec 2) (a : BitVec 7) (j : BitVec 2) (b : BitVec 7) (s : State) : Out := minmaxWord s false d i a j b
def execFmax (d : BitVec 7) (i : BitVec 2) (a : BitVec 7) (j : BitVec 2) (b : BitVec 7) (s : State) : Out := minmaxWord s true d i a j b

/-- One lane's predicate from its elements' conditions: theirs when they agree, free when packed elements differ
(log 18). -/
def lanePred (cond a b : Nat) (rs : List FRes) : Bool :=
  if rs.all (fun r => r.bits == 1) then true
  else if rs.all (fun r => r.bits == 0) then false
  else Config.fcmpMixed cond a b

/-- R283. -/
def execFcmp (k : BitVec 4) (p : BitVec 3) (i : BitVec 2) (a : BitVec 7) (j : BitVec 2) (b : BitVec 7) (s : State) : Out :=
  runWord s fun c s => do
    let w := tWide c.g.ty
    let oa := opA w i a .arith
    let ob := opB w j b .arith
    vecCheck c (tFloat c.g.ty) [oa, ob]
    let (xs, _) := evalLanes c c.g.ty (elemCount c.g.ty) fun l e _ =>
      let r := fcondHolds k.toNat (xvOf c.g.ty (elemOf c oa l e)) (xvOf c.g.ty (elemOf c ob l e))
      { bits := if r.1 then 1 else 0, inv := r.2 }
    fpCheck c xs
    pure (writePred s c p.toNat fun l => xs.any fun x => x.1 == l && lanePred k.toNat (oa.val c.g l) (ob.val c.g l) x.2)

/-- R284: the class mask of an element. -/
def classMask (f : Fmt) (b : Nat) : Nat :=
  let x := unpack f b
  let sub := bits b (f.w - 2) f.fb == 0
  match x with
  | .nan sig => if sig then 1 else 2
  | .inf neg => if neg then 4 else 512
  | .fin neg n _ _ =>
    if n = 0 then (if neg then 32 else 64)
    else if neg then (if sub then 16 else 8) else (if sub then 128 else 256)

/-- R284: a V row of masks, 32-bit or two of 16 bits. -/
def execFclass (d : BitVec 7) (i : BitVec 2) (x : BitVec 7) (s : State) : Out :=
  runWord s fun c s => do
    let w := tWide c.g.ty
    let os := opA w i x .arith
    vecCheck c (tFloat c.g.ty) [opD false d, os]
    let f := fmtOf c.g.ty
    let packed := f.w == 16
    pure (writeVec s c false d.toNat (fun l =>
      if packed then joinElems 16 [classMask f (elemOf c os l 0), classMask f (elemOf c os l 1)]
      else classMask f (elemOf c os l 0)) (if packed then tU16 else tU32))

/-! ### R285 to R289 -/

/-- R285: the subfunction's mode; infinities and zeros unchanged. -/
def execFrnd (d : BitVec 7) (i : BitVec 2) (x : BitVec 7) (f : BitVec 9) (s : State) : Out :=
  float1 s d i x fun g _ b => roundTo (fmtOf g.ty) 0 false none (xintegral f.toNat (xvOf g.ty b))

/-- A scale exponent held to ±5,000: beyond, every format's rounding of a·2^b is the same. -/
def scaleCap (k : Int) : Int := max (-5000) (min 5000 k)

/-- R286. -/
def execFscale (d : BitVec 7) (i : BitVec 2) (a : BitVec 7) (j : BitVec 2) (b : BitVec 7) (s : State) : Out :=
  floatWord s tFloat d (fun w => [opD w d, opA w i a .arith, opB w j b .free]) fun c l k sr =>
    let w := tWide c.g.ty
    rounded c.g c.g.ty sr
      (xscale (scaleCap (toS (tWidth c.g.ty) (elemOf c (opB w j b .free) l k))) (xvOf c.g.ty (elemOf c (opA w i a .arith) l k)))

/-- R287: x − ⌊x⌋, below 1.0. -/
def fractOf (g : Group) (sr : Option Nat) (b : Nat) : FRes :=
  let f := fmtOf g.ty
  let one := f.bias * 2 ^ f.fb
  match xvOf g.ty b with
  | .inf _ => { bits := f.nanBits, inv := true }
  | .nan sig => { bits := f.nanBits, inv := sig }
  | x =>
    let d := xadd false x (ofInt (-(xfloor x)) 1 0)
    if d.isZero then { bits := 0 }
    else
      let r := rounded g g.ty sr d
      if r.bits = one then { r with bits := one - 1 } else r
def execFfract (d : BitVec 7) (i : BitVec 2) (x : BitVec 7) (s : State) : Out := float1 s d i x fractOf

/-- R288: an F32 accumulator plus two exact products, one rounding. -/
def execFdot2 (d : BitVec 7) (i : BitVec 2) (a : BitVec 7) (j : BitVec 2) (b : BitVec 7) (s : State) : Out :=
  runWord s fun c s => do
    let od := opD false d (.codes [tF32])
    let oa := opA false i a .arith
    let ob := opB false j b .arith
    vecCheck c (c.g.ty == tF16 || c.g.ty == tBF16) [od, oa, ob]
    let prod := fun l k => xmul (xvOf c.g.ty (elemOf c oa l k)) (xvOf c.g.ty (elemOf c ob l k))
    let (xs, srg) := evalLanes c tF32 1 fun l _ _ =>
      rounded c.g tF32 none (xadd c.g.rdn (xadd c.g.rdn (xvOf tF32 (od.val c.g l)) (prod l 0)) (prod l 1))
    fpCheck c xs
    pure (putFloat s c false d.toNat (laneVals 32 xs) tF32 srg)

/-- R289: the sign bit of b on the bits of a; nothing is rounded, and the word draws as every one of its destination
(R35, R276). -/
def execFcsgn (d : BitVec 7) (i : BitVec 2) (a : BitVec 7) (j : BitVec 2) (b : BitVec 7) (s : State) : Out :=
  floatWord s tFloat d (fun w => [opD w d, opA w i a .arith, opB w j b .arith]) fun c l k _ =>
    let w := tWide c.g.ty
    let m := 2 ^ (tWidth c.g.ty - 1)
    { bits := elemOf c (opA w i a .arith) l k % m + elemOf c (opB w j b .arith) l k / m * m }

/-! ### R290, R291: long-latency words -/

/-- A quotient with its division-by-zero condition. -/
def divRes (g : Group) (sr : Option Nat) (x y : XV) : FRes :=
  { rounded g g.ty sr (xdiv x y) with dz := !x.isNan && !x.isInf && !x.isZero && y.isZero }

def execFdiv (d : BitVec 7) (i : BitVec 2) (a : BitVec 7) (j : BitVec 2) (b : BitVec 7) (s : State) : Out :=
  floatLong s d (fun w => [opD w d, opA w i a .arith, opB w j b .arith]) fun c l k sr =>
    let w := tWide c.g.ty
    divRes c.g sr (xvOf c.g.ty (elemOf c (opA w i a .arith) l k)) (xvOf c.g.ty (elemOf c (opB w j b .arith) l k))
def execFrcp (d : BitVec 7) (i : BitVec 2) (x : BitVec 7) (s : State) : Out :=
  floatLong1 s d i x fun g sr b => divRes g sr (.fin false 1 1 0) (xvOf g.ty b)
def execFsqrt (d : BitVec 7) (i : BitVec 2) (x : BitVec 7) (s : State) : Out :=
  floatLong1 s d i x fun g sr b => rounded g g.ty sr (xsqrt (xvOf g.ty b))

/-- R290: `frsq`; which neighbour is Config.rsqUp's (log 8). -/
def rsqOf (g : Group) (b : Nat) : FRes :=
  let f := fmtOf g.ty
  match xvOf g.ty b with
  | .nan sig => { bits := f.nanBits, inv := sig }
  | .inf neg => if neg then { bits := f.nanBits, inv := true } else { bits := 0 }
  | .fin neg n _ e =>
    if n = 0 then { bits := f.infBits + f.signBit neg, dz := true }
    else if neg then { bits := f.nanBits, inv := true }
    else rsqBits f g.sat (Config.rsqUp g.ty b) n e
def execFrsq (d : BitVec 7) (i : BitVec 2) (x : BitVec 7) (s : State) : Out := floatLong1 s d i x fun g _ b => rsqOf g b

/-- R291: `fexp2`; neighbours are Config.transUp's (log 7). -/
def exp2Of (g : Group) (b : Nat) : FRes :=
  let f := fmtOf g.ty
  match xvOf g.ty b with
  | .nan sig => { bits := f.nanBits, inv := sig }
  | .inf neg => { bits := if neg then 0 else f.infBits }
  | x =>
    if (xadd false x (ofInt (-(xfloor x)) 1 0)).isZero then
      if xfloor x < f.emin then neighbour f g.sat false (Config.transUp 0 g.ty b) 0 false
      else roundTo f 2 g.sat none (.fin false 1 1 (xfloor x))
    else exp2Bits f g.sat (Config.transUp 0 g.ty b) x
def execFexp2 (d : BitVec 7) (i : BitVec 2) (x : BitVec 7) (s : State) : Out := floatLong1 s d i x fun g _ b => exp2Of g b

/-- R291: `flog2`. -/
def log2Of (g : Group) (b : Nat) : FRes :=
  let f := fmtOf g.ty
  match xvOf g.ty b with
  | .nan sig => { bits := f.nanBits, inv := sig }
  | .inf neg => if neg then { bits := f.nanBits, inv := true } else { bits := f.infBits }
  | .fin neg n _ e =>
    if n = 0 then { bits := f.infBits + f.signBit true, dz := true }
    else if neg then { bits := f.nanBits, inv := true }
    else if 2 ^ Nat.log2 n = n then roundTo f 0 false none (ofInt ((Nat.log2 n : Int) + e) 1 0)
    else log2Bits f g.sat (Config.transUp 1 g.ty b) n e
def execFlog2 (d : BitVec 7) (i : BitVec 2) (x : BitVec 7) (s : State) : Out := floatLong1 s d i x fun g _ b => log2Of g b

/-- R291: `fsin` and `fcos` of π·x. -/
def sinOf (cos : Bool) (g : Group) (b : Nat) : FRes :=
  let f := fmtOf g.ty
  match xvOf g.ty b with
  | .nan sig => { bits := f.nanBits, inv := sig }
  | .inf _ => { bits := f.nanBits, inv := true }
  | x => sincosBits f g.sat (Config.transUp (if cos then 3 else 2) g.ty b) cos x
def execFsin (d : BitVec 7) (i : BitVec 2) (x : BitVec 7) (s : State) : Out := floatLong1 s d i x fun g _ b => sinOf false g b
def execFcos (d : BitVec 7) (i : BitVec 2) (x : BitVec 7) (s : State) : Out := floatLong1 s d i x fun g _ b => sinOf true g b

end Sys2Proof.Machine
end

