-- ==== Sys2Proof/Machine/Convert.lean ====
section
/-! DEFINITION. Conversions, Q4, packing and tags (R292 to R299). -/
namespace Sys2Proof.Machine

/-! ### Several rows at once (R292) -/

/-- The k-th row from v(code) up as an operand: the first with the field's DETAIL, the others implicit. A scalar, which a source
field may name, stands for each of the rows (R49; DEDUCED, log 20). -/
def rowAt (det code pat : Nat) (cls : TagCls) (k : Nat) : Opnd :=
  if 112 ≤ code then ⟨det, false, code, pat, cls⟩ else ⟨if k = 0 then det else 3, false, code + k, pat, cls⟩
/-- Rows `n` from v(code) up. -/
def rowsFrom (det : Nat) (code n pat : Nat) (cls : TagCls) : List Opnd := (List.range n).map (rowAt det code pat cls)

/-- The concatenation of a lane's rows, low row first; of a scalar, an element of 64 bits reads all 64 (R49). -/
def catRows (g : Group) (w : Nat) (os : List Opnd) (l : Nat) : Nat :=
  match os with
  | [] => 0
  | o :: _ =>
    if 112 ≤ o.code ∧ o.det ≠ 3 ∧ w = 64 then joinElems 64 (List.replicate (os.length / 2) (({ o with wide := true } : Opnd).val g l))
    else joinElems 32 (os.map fun o => o.val g l)

/-- Rows for `bits` bits. -/
def rowsFor (n : Nat) : Nat := (n + 31) / 32

/-- Write lane values across `n` rows from v(d), each tagged. -/
def putRows (s : State) (c : WCtx) (d n : Nat) (vs : List (Nat × Nat)) (tag : Nat) (srg : BitVec 32) : State :=
  (List.range n).foldl (fun s k =>
    putFloat s c false (d + k) (vs.map fun v => (v.1, v.2 / 2 ^ (32 * k) % 2 ^ 32)) tag srg) s

/-- Destination rows, then source rows, in R67's order: dst, src, then the implicit rows by increasing row. -/
def rowOrder (ds ss : List Opnd) : List Opnd :=
  ds.take 1 ++ ss.take 1 ++ (if ((ds.drop 1).headD ⟨0, false, 0, 0, .free⟩).code ≤ ((ss.drop 1).headD ⟨0, false, 0, 0, .free⟩).code
    then ds.drop 1 ++ ss.drop 1 else ss.drop 1 ++ ds.drop 1)

/-- The checks of several rows. -/
def rowsCheck (c : WCtx) (ds ss : List Opnd) : Try Unit := vecCheck c true (rowOrder ds ss)

/-! ### cvt (R292, R293) -/

/-- The integer type that stands for SCB. -/
def asInt (t : Nat) : Nat := if t = tSCB then tU8 else t

/-- R293: one value between two formats. -/
def cvtValue (g : Group) (st dt : Nat) (sr : Option Nat) (b : Nat) : FRes :=
  if tAnyFloat st then
    let x := unpack (fmtOf st) b
    if tAnyFloat dt then
      if st = dt ∧ !x.isNan then { bits := b } else roundTo (fmtOf dt) g.rnd g.sat sr x
    else
      let it := asInt dt
      match x with
      | .nan _ => { bits := 0, inv := true }
      | .inf neg => { bits := ofS (tWidth it) (if neg then tyMin it else tyMax it), inv := true }
      | x =>
        let r := xround (if g.rnd = 5 then 0 else g.rnd) x
        { bits := ranged it true r, inv := decide (r < tyMin it) || decide (tyMax it < r) }
  else
    let v := elemInt (asInt st) b
    if tAnyFloat dt then roundTo (fmtOf dt) g.rnd g.sat sr (ofInt v 1 0)
    else { bits := ranged (asInt dt) g.sat v }

/-- Elements per lane of a conversion. -/
def cvtCount (st dt : Nat) : Nat := max 1 (32 / min (tWidth st) (tWidth dt))

/-- R292. -/
def execCvt (d : BitVec 7) (i : BitVec 2) (x : BitVec 7) (f : BitVec 9) (s : State) : Out :=
  runWord s fun c s => do
    let st := c.g.ty
    let dt := f.toNat
    vecCheck c (st != tRAW && st != tQ4 && dt != tQ4) []
    let n := cvtCount st dt
    let sr := rowsFrom 1 x.toNat (rowsFor (n * tWidth st)) i.toNat .arith
    let dr := rowsFrom 0 d.toNat (rowsFor (n * tWidth dt)) 0 .free
    rowsCheck c dr sr
    let (xs, g) := evalLanes c dt n fun l k r => cvtValue c.g st dt r (elemAt (tWidth st) (catRows c.g (tWidth st) sr l) k)
    fpCheck c xs
    pure (putRows s c d.toNat dr.length (laneVals (tWidth dt) xs) dt g)

/-! ### Q4 (R294 to R296) -/

/-- R294: the least e in 0 to 62 from `e` up with a ≤ Mₜ·2^(e − 32). -/
def sqzFind (ty : Nat) (a : XV) : Nat → Nat → Nat
  | 0, e => e
  | fuel + 1, e => if xle a (.fin false (q4Lim ty) 1 ((e : Int) - 32)) then e else sqzFind ty a fuel (e + 1)

def sqzExp (g : Group) (ty b : Nat) : Nat :=
  match unpack (fmtOf tF32) (b % 2 ^ 31) with
  | .nan _ => 63
  | .inf _ => if g.sat then 62 else 63
  | a =>
    if a.isZero then 0
    else if xlt (.fin false (q4Lim ty) 1 30) a then (if g.sat then 62 else 63)
    else sqzFind ty a 62 0

/-- R294. -/
def execSqz (d : BitVec 7) (i : BitVec 2) (x : BitVec 7) (f : BitVec 9) (s : State) : Out :=
  runWord s fun c s => do
    let os := opA false i x .arith
    vecCheck c (c.g.ty == tF32) [opD false d, os]
    pure (writeVec s c false d.toNat (fun l => f.toNat * 64 + sqzExp c.g f.toNat (os.val c.g l)) tSCB)

/-- R295. -/
def execCvtb (d : BitVec 7) (i : BitVec 2) (x : BitVec 7) (f : BitVec 9) (s : State) : Out :=
  runWord s fun c s => do
    vecCheck c (c.g.ty == tF32 || c.g.ty == tF16 || c.g.ty == tBF16) []
    let w := tWidth c.g.ty
    let n := 8 * w / 32
    let vr := rowsFrom 1 x.toNat n i.toNat .arith
    let sc := rowAt 1 x.toNat i.toNat (.codes [tSCB]) n
    rowsCheck c [opD false d] (vr ++ [sc])
    let scale := fun l => sc.val c.g l % 256
    match c.lanes.find? fun l => scale l / 64 != f.toNat with
    | some l => illegal 1 0 l
    | none =>
      let (xs, g) := evalLanes c tQ4 8 fun l k r =>
        q4Encode c.g.rnd f.toNat (scale l % 64) r (unpack (fmtOf c.g.ty) (elemAt w (catRows c.g w vr l) k))
      fpCheck c xs
      pure (putFloat s c false d.toNat (laneVals 4 xs) tQ4 g)

/-- R296: destination formats by subfunction. -/
def cvtqType : Nat → Nat
  | 0 => tF32 | 1 => tF16 | 2 => tBF16 | _ => tE4M3

/-- R296. -/
def execCvtq (d : BitVec 7) (i : BitVec 2) (x : BitVec 7) (f : BitVec 9) (s : State) : Out :=
  runWord s fun c s => do
    let dt := cvtqType f.toNat
    let n := 8 * tWidth dt / 32
    let vr : Opnd := ⟨1, false, x.toNat, i.toNat, .codes [tQ4]⟩
    let sc := rowAt 1 x.toNat i.toNat (.codes [tSCB]) 1
    rowsCheck c (rowsFrom 0 d.toNat n 0 .free) [vr, sc]
    let (xs, g) := evalLanes c dt 8 fun l k r =>
      roundTo (fmtOf dt) c.g.rnd c.g.sat r (q4Value (sc.val c.g l % 256) (elemAt 4 (vr.val c.g l) k))
    fpCheck c xs
    pure (putRows s c d.toNat n (laneVals (tWidth dt) xs) dt g)

/-! ### funpack and fpack (R297, R298) -/

/-- R297: result and tag of a subfunction on an element of F32 or F64. -/
def funpackRes (ty sub b : Nat) : FRes × Nat :=
  let f := fmtOf ty
  let wide := ty == tF64
  let it := if wide then tI64 else tI32
  let ut := if wide then tU64 else tU32
  let ex := bits b (f.w - 2) f.fb
  let frac := b % 2 ^ f.fb
  let v := unpack f b
  match sub with
  | 0 => ({ bits := match v with
      | .fin _ n _ e => if n = 0 then 2 ^ (f.w - 1) else ofS f.w (floorLog n 1 e)
      | _ => 2 ^ (f.w - 1) - 1 }, it)
  | 1 => (match v with
      | .nan sig => { bits := f.nanBits, inv := sig }
      | .inf _ => { bits := b }
      | .fin neg n _ e => if n = 0 then { bits := b } else roundTo f 0 false none (.fin neg n 1 (e - floorLog n 1 e)), ty)
  | 2 => ({ bits := if ex = 0 then frac else 2 ^ f.fb + frac }, ut)
  | _ => ({ bits := ex }, ut)

/-- R297. -/
def execFunpack (d : BitVec 7) (i : BitVec 2) (x : BitVec 7) (f : BitVec 9) (s : State) : Out :=
  runWord s fun c s => do
    let w := tWide c.g.ty
    let os := opA w i x .arith
    vecCheck c (c.g.ty == tF32 || c.g.ty == tF64) [opD w d, os]
    let (xs, g) := evalLanes c c.g.ty 1 fun l _ _ => (funpackRes c.g.ty f.toNat (os.val c.g l)).1
    fpCheck c xs
    pure (putFloat s c w d.toNat (laneVals (tWidth c.g.ty) xs) (funpackRes c.g.ty f.toNat 0).2 g)

/-- R298: srcA's tag says whether it is signed; for a scalar it is free (log 22). -/
def execFpack (d : BitVec 7) (i : BitVec 2) (a : BitVec 7) (j : BitVec 2) (b : BitVec 7) (s : State) : Out :=
  runWord s fun c s => do
    let w := tWide c.g.ty
    let e := tWidth c.g.ty
    let oa := opA w i a (.codes (if w then [tI64, tU64] else [tI32, tU32]))
    let ob := opB w j b .free
    vecCheck c (c.g.ty == tF32 || c.g.ty == tF64) [opD w d, oa, ob]
    let sgn := if 112 ≤ a.toNat then Config.scalarSigned (oa.val c.g c.low) else tSigned (oa.tag c.g)
    let (xs, g) := evalLanes c c.g.ty 1 fun l _ sr =>
      let v := oa.val c.g l
      rounded c.g c.g.ty sr (ofInt (if sgn then toS e v else v) 1 (scaleCap (toS e (ob.val c.g l))))
    fpCheck c xs
    pure (putFloat s c w d.toNat (laneVals e xs) c.g.ty g)

/-! ### Tags (R299) -/

/-- R299: bits through the pattern, the tag from the subfunction. -/
def execTagset (d : BitVec 7) (i : BitVec 2) (x : BitVec 7) (f : BitVec 9) (s : State) : Out :=
  runWord s fun c s => do
    let os := opA false i x .free
    vecCheck c true [opD false d, os]
    pure (writeVec s c false d.toNat (fun l => os.val c.g l) f.toNat)

/-- R299: the source row's tag; free for a scalar, which has none (log 21). -/
def execTagget (d : BitVec 7) (i : BitVec 2) (x : BitVec 7) (s : State) : Out :=
  runWord s fun c s => do
    let os := opA false i x .free
    vecCheck c true [opD false d, os]
    pure (writeVec s c false d.toNat (fun _ =>
      if 112 ≤ x.toNat then (Config.scalarTag (os.val c.g c.low)).toNat else os.tag c.g) tU32)

end Sys2Proof.Machine
end

