-- ==== Sys2Proof/Machine/LaneOps.lean ====
section
/-! DEFINITION. Moves and lane words (R247 to R257). -/
namespace Sys2Proof.Machine

/-- R249, sub 0. -/
def execVmov (d : BitVec 7) (i : BitVec 2) (x : BitVec 7) (s : State) : Out :=
  runWord s fun c s => do
    let w := tWide c.g.ty
    let os := opA w i x .move
    vecCheck c true [opD w d, os]
    pure (writeVec s c w d.toNat (fun l => os.val c.g l) (os.tag c.g))

/-- R249, sub 1: the lowest active lane's operand into s(dst − 112). -/
def execVmovS (d : BitVec 7) (i : BitVec 2) (x : BitVec 7) (s : State) : Out :=
  runWord s fun c s => do
    let w := tWide c.g.ty
    let os := opA w i x .move
    vecCheck c true [os]
    pure (writeS s c (d.toNat - 112) (os.val c.g c.low))

/-- R249, sub 2: lane indices. -/
def execVmovI (d : BitVec 7) (s : State) : Out :=
  runWord s fun c s => do
    vecCheck c true [opD false d]
    pure (writeVec s c false d.toNat (fun l => l) tU32)

/-- R250. -/
def execVperm (d : BitVec 7) (i : BitVec 2) (a : BitVec 7) (j : BitVec 2) (b : BitVec 7) (s : State) : Out :=
  runWord s fun c s => do
    let w := tWide c.g.ty
    let oa := opA w i a .move
    let ob := opB w j b .free
    vecCheck c true [opD w d, oa, ob]
    pure (writeVec s c w d.toNat (fun l => oa.val c.g (ob.val c.g l % 2 ^ 32 % c.w)) (oa.tag c.g))

/-- R251: one table byte. -/
def tableByte (c : WCtx) (oa : Opnd) (x : Nat) : Nat :=
  if 112 ≤ oa.code then
    let t := x % 16
    elemAt 8 ((if t < 8 then c.g.s (oa.code - 112) else c.g.s (oa.code - 111)).toNat) (t % 8)
  else
    let t := x % (4 * c.w)
    elemAt 8 (oa.val c.g (t / 4)) (t % 4)

/-- R251. -/
def execVtbl (d : BitVec 7) (i : BitVec 2) (a : BitVec 7) (j : BitVec 2) (b : BitVec 7) (s : State) : Out :=
  runWord s fun c s => do
    let oa := opA false i a .move
    let ob := opB false j b .free
    vecCheck c (c.g.ty == tU8 || c.g.ty == tI8) [opD false d, oa, ob]
    pure (writeVec s c false d.toNat (fun l =>
      joinElems 8 ((List.range 4).map fun k => tableByte c oa (elemAt 8 (ob.val c.g l) k))) c.g.ty)

/-- R252: one byte from eight by the selector q. -/
def shufByte (x y q : Nat) : Nat := if bit q 7 then 0 else elemAt 8 (x + 2 ^ 32 * y) (q % 8)

/-- R252: the old bytes of dst select. -/
def execVshuf (d : BitVec 7) (i : BitVec 2) (a : BitVec 7) (j : BitVec 2) (b : BitVec 7) (s : State) : Out :=
  runWord s fun c s => do
    let od := opD false d
    let oa := opA false i a .bitwise
    let ob := opB false j b .bitwise
    vecCheck c (!tWide c.g.ty) [od, oa, ob]
    pure (writeVec s c false d.toNat (fun l =>
      joinElems 8 ((List.range 4).map fun k => shufByte (oa.val c.g l) (ob.val c.g l) (elemAt 8 (od.val c.g l) k))) c.g.ty)

/-! ### Reductions and scans (R41, R253 to R255) -/

/-- Admitted types: the integers and IEEE formats, and RAW for the bitwise operations. -/
def admRed (op ty : Nat) : Bool := tInt ty || tFloat ty || (decide (3 ≤ op) && ty == tRAW)

/-- The identity of an operation (R253). -/
def redIdent (op ty : Nat) : Nat :=
  let w := tWidth ty
  let f := fmtOf ty
  match op with
  | 0 => if tFloat ty then f.signBit true else 0
  | 1 => if tFloat ty then f.infBits else ofS w (tyMax ty)
  | 2 => if tFloat ty then f.infBits + f.signBit true else ofS w (tyMin ty)
  | 3 => 2 ^ w - 1
  | _ => 0

/-- One combination, its conditions with those of both operands. -/
def redOp (g : Group) (op : Nat) (x y : FRes) : FRes :=
  let ty := g.ty
  let a := x.bits
  let b := y.bits
  let r : FRes := match op with
    | 0 => if tFloat ty then rounded g ty none (xadd g.rdn (xvOf ty a) (xvOf ty b))
           else { bits := ranged ty g.sat (elemInt ty a + elemInt ty b) }
    | 1 => if tFloat ty then fminmax (fmtOf ty) false a b else { bits := if elemInt ty a ≤ elemInt ty b then a else b }
    | 2 => if tFloat ty then fminmax (fmtOf ty) true a b else { bits := if elemInt ty a ≤ elemInt ty b then b else a }
    | 3 => { bits := a &&& b }
    | 4 => { bits := a ||| b }
    | _ => { bits := a ^^^ b }
  { r with inv := r.inv || x.inv || y.inv, dz := false, ov := r.ov || x.ov || y.ov }

/-- One level of the tree of R41. -/
def redPairs (f : FRes → FRes → FRes) : List FRes → List FRes
  | x :: y :: xs => f x y :: redPairs f xs
  | xs => xs

/-- `n` levels. -/
def redTree (f : FRes → FRes → FRes) : Nat → List FRes → List FRes
  | 0, xs => xs
  | n + 1, xs => redTree f n (redPairs f xs)

/-- One step of R255 at distance k. -/
def scanStep (f : FRes → FRes → FRes) (xs : List FRes) (k : Nat) : List FRes :=
  xs.zipIdx.map fun x => if x.2 < k then x.1 else f (xs.getD (x.2 - k) x.1) x.1

/-- The element column of the whole width, inactive lanes at the identity. -/
def redColumn (c : WCtx) (op : Nat) (os : Opnd) (k : Nat) : List FRes :=
  (List.range c.w).map fun l => { bits := if c.eff.getLsbD l then elemOf c os l k else redIdent op c.g.ty }

/-- log₂ of the width. -/
def levels (w : Nat) : Nat := Nat.log2 w

/-- The common shape: checks, a result per lane and element, faults of active lanes (R39; raised for the lowest; log 23). -/
def redWord (s : State) (d : BitVec 7) (i : BitVec 2) (x : BitVec 7) (op : Nat)
    (f : WCtx → List FRes → List FRes) : Out :=
  runWord s fun c s => do
    let w := tWide c.g.ty
    let os := opA w i x (if op < 3 then .arith else .bitwise)
    vecCheck c (admRed op c.g.ty) [opD w d, os]
    let n := elemCount c.g.ty
    let cols := (List.range n).map fun k => f c (redColumn c op os k)
    fpCheck c (c.lanes.map fun l => (l, cols.map fun x => x.getD l { bits := 0 }))
    pure (writeVec s c w d.toNat (fun l => joinElems (tWidth c.g.ty) (cols.map fun x => (x.getD l { bits := 0 }).bits)) c.g.ty)

/-- R254: every active lane receives the root. -/
def execVred (d : BitVec 7) (i : BitVec 2) (x : BitVec 7) (f : BitVec 9) (s : State) : Out :=
  redWord s d i x f.toNat fun c xs =>
    let root := (redTree (redOp c.g f.toNat) (levels c.w) xs).headD { bits := 0 }
    xs.map fun _ => root

/-- R255: the inclusive prefix; a lane detects what its own combinations meet (R39). -/
def execVscan (d : BitVec 7) (i : BitVec 2) (x : BitVec 7) (f : BitVec 9) (s : State) : Out :=
  redWord s d i x f.toNat fun c xs =>
    let op := fun (x y : FRes) => redOp c.g f.toNat { bits := x.bits } y
    (List.range (levels c.w)).foldl (fun xs k => scanStep op xs (2 ^ k)) xs

/-- R256. -/
def execVballot (d : BitVec 7) (p : BitVec 3) (s : State) : Out :=
  runWord s fun c s => pure (writeS s c (d.toNat - 112) (c.eff &&& c.g.pred p.toNat &&& allLanes c.w).toNat)

/-! ### vrel (R257) -/

/-- The register each active lane names, or the bound trap of the lowest lane that leaves the view. -/
def relIndex (c : WCtx) (w : Bool) (oa : Opnd) (b : Nat) : Try (Nat → Nat) :=
  let ix := fun l => (b : Int) + toS 32 (oa.val c.g l)
  let n : Int := c.g.vCount (if w then 1 else 0)
  match c.lanes.find? fun l => decide (ix l < 0) || decide (n ≤ ix l) with
  | some l => .error (.trap ⟨0x07, 3, 0, l⟩)
  | none => .ok fun l => (ix l).toNat

/-- R257, read mode. -/
def execVrel (d : BitVec 7) (i : BitVec 2) (a : BitVec 7) (b : BitVec 7) (s : State) : Out :=
  runWord s fun c s => do
    let w := tWide c.g.ty
    let oa := opA w i a .free
    vecCheck c true [opD w d, oa]
    let ix ← relIndex c w oa b.toNat
    let tagOf := fun l => c.g.regTag (if w then 1 else 0) (ix l)
    let t := tagOf c.low
    match c.lanes.find? fun l => (tagOf l).isNone || tagOf l != t with
    | some l => .error (.trap ⟨0x06, 3, 0, l⟩)
    | none => pure (writeVec s c w d.toNat (fun l => c.g.val w (ix l) l) (t.getD 0))

/-- R257, write mode. -/
def execVrelSt (d : BitVec 7) (i : BitVec 2) (a : BitVec 7) (b : BitVec 7) (s : State) : Out :=
  runWord s fun c s => do
    let w := tWide c.g.ty
    let od := opD w d .move
    let oa := opA w i a .free
    vecCheck c true [opD w d, oa]
    let ix ← relIndex c w oa b.toNat
    vecCheck c true [od]
    pure (updG s c.key fun g =>
      let g := g.setElems (c.lanes.flatMap fun l => g.laneElems w (ix l) [(l, od.val c.g l)])
      g.setTags (c.lanes.flatMap fun l => g.regRows w (ix l)) (od.tag c.g))

end Sys2Proof.Machine
end

