-- ==== Sys2Proof/Machine/NearBank.lean ====
section
/-! DEFINITION. Near-bank units (R188 to R197): the bank program, its words, `nbx` and its commands, the scrub. -/
namespace Sys2Proof.Machine

/-! ### A near-bank word (R188 to R190) -/

/-- What a unit holds while it runs: eight column buffers of 64 bytes and the lane mask M. -/
structure NbUnit where
  cbs : List (BitVec 512)
  m : BitVec 32
deriving DecidableEq, Repr

def NbUnit.cb (u : NbUnit) (i : Nat) : BitVec 512 := u.cbs.getD i 0
def NbUnit.put (u : NbUnit) (i : Nat) (v : BitVec 512) : NbUnit := { u with cbs := u.cbs.set i v }

/-- The fields of a word. -/
structure NbWord where
  fEn : Bool
  fD : Nat
  fBase : Nat
  fOff : Int
  op : Nat
  ty : Nat
  d : Nat
  a : Nat
  b : Nat
  c : Nat
  md : Nat
  wEn : Bool
  wS : Nat
  wMask : Bool
  wBase : Nat
  wOff : Int
deriving DecidableEq, Repr

def parseNb (w : BitVec 64) : NbWord :=
  let n := w.toNat
  { fEn := bit n 63, fD := bits n 62 60, fBase := bits n 59 58, fOff := toS 14 (bits n 57 44),
    op := bits n 43 39, ty := bits n 38 37, d := bits n 36 34, a := bits n 33 31, b := bits n 30 28, c := bits n 27 25, md := bits n 24 20,
    wEn := bit n 19, wS := bits n 18 16, wMask := bit n 15, wBase := bits n 14 14, wOff := toS 14 (bits n 13 0) }

/-- R193 step 1: a reserved OP, TYPE or BASE, or a MOD that is not R189's. -/
def NbWord.bad (w : NbWord) : Bool :=
  decide (25 ≤ w.op) || decide (2 ≤ w.fBase)
    || ((w.op == 18 || w.op == 19 || w.op == 20) && (w.ty == 1 || w.ty == 2))
    || (decide (21 ≤ w.op) && w.ty != 0)
    || (if w.op = 23 ∨ w.op = 24 then decide (4 ≤ w.md) else w.md != 0)

/-- Element width and format of TYPE. -/
def nbWidth (ty : Nat) : Nat := if ty = 0 ∨ ty = 3 then 32 else 16
def nbFmt (ty : Nat) : Nat := if ty = 0 then tF32 else if ty = 1 then tBF16 else if ty = 2 then tF16 else tI32

/-- An element of a column buffer, and a column from its elements. -/
def nbElem (ty : Nat) (v : BitVec 512) (i : Nat) : Nat := elemAt (nbWidth ty) v.toNat i
def nbJoin (ty : Nat) (f : Nat → Nat) : BitVec 512 := BitVec.ofNat 512 (joinElems (nbWidth ty) ((List.range (512 / nbWidth ty)).map f))

/-- R189's arithmetic on one element of a float or integer type: `fl` over exact values, `it` over integers. -/
def nbCalc (ty : Nat) (fl : XV → XV → XV → XV) (it : Int → Int → Int → Int) (a b c : Nat) : Nat :=
  if ty = 3 then ofS 32 (it (toS 32 a) (toS 32 b) (toS 32 c))
  else
    let f := fmtOf (nbFmt ty)
    rneTo f (fl (unpack f a) (unpack f b) (unpack f c))

def nbOne : XV := .fin false 1 1 0

/-- R189: `min` and `max`. -/
def nbMinMax (ty : Nat) (mx : Bool) (a b : Nat) : Nat :=
  if ty = 3 then ofS 32 (if mx then max (toS 32 a) (toS 32 b) else min (toS 32 a) (toS 32 b))
  else (fminmax (fmtOf (nbFmt ty)) mx a b).bits

/-- R189: the conditions of the compares, 7 to 10. -/
def nbCond (ty op a b : Nat) : Bool :=
  let k := if op = 7 then 2 else if op = 8 then 3 else if op = 9 then 0 else 1
  if ty = 3 then condHolds k true 32 a b
  else
    let f := fmtOf (nbFmt ty)
    (fcondHolds k (unpack f a) (unpack f b)).1

/-- R189, `ftoi`: rounded to nearest even, clamped, NaN to 0 (log 31). -/
def nbToInt (a : Nat) : Nat :=
  match unpack (fmtOf tF32) a with
  | .nan _ => 0
  | .inf neg => ofS 32 (if neg then tyMin tI32 else tyMax tI32)
  | x => ofS 32 (max (tyMin tI32) (min (tyMax tI32) (xround 0 x)))

/-- R189, `pk8`: round(clamp(B, 0, 1)·255); a NaN clamps as R39's `max` with 0 does. -/
def nbByteOf (b : Nat) : Nat :=
  match unpack (fmtOf tF32) b with
  | .nan _ => 0
  | .inf neg => if neg then 0 else 255
  | x => (max 0 (min 255 (xround 0 (xmul (.fin false 255 1 0) (if xlt nbOne x then nbOne else x))))).toNat

/-- The value D receives for element `i`; `sel` is M[i]. -/
def nbValue (w : NbWord) (sel : Bool) (a b c : Nat) : Nat :=
  let z := nbWidth w.ty
  match w.op with
  | 1 => nbCalc w.ty (fun x y _ => xadd false x y) (fun x y _ => x + y) a b c
  | 2 => nbCalc w.ty (fun x y _ => xadd false x y.negate) (fun x y _ => x - y) a b c
  | 3 => nbCalc w.ty (fun x y _ => xmul x y) (fun x y _ => x * y) a b c
  | 4 => nbCalc w.ty (fun x y q => xadd false (xmul x y) q) (fun x y q => x * y + q) a b c
  | 5 => nbMinMax w.ty false a b
  | 6 => nbMinMax w.ty true a b
  | 7 | 8 | 9 | 10 => if nbCond w.ty w.op a b then 2 ^ z - 1 else 0
  | 11 => if sel then a else b
  | 12 => nbCalc w.ty (fun x y q => xadd false (xmul x q) (xmul y (xadd false nbOne q.negate))) (fun x y q => x * q + y * (1 - q)) a b c
  | 13 => nbCalc w.ty (fun x _ _ => xadd false nbOne x.negate) (fun x _ _ => 1 - x) a b c
  | 14 => a
  | 15 => a &&& b
  | 16 => a ||| b
  | 17 => a ^^^ b
  | 21 => rneTo (fmtOf tF32) (ofInt (toS 32 a) 1 0)
  | 22 => nbToInt a
  | 23 => rneTo (fmtOf tF32) (.fin false (elemAt 8 a w.md) 255 0)
  | _ => (a - elemAt 8 a w.md * 256 ^ w.md) + nbByteOf b * 256 ^ w.md

/-- Whether the word's arithmetic slot writes D. -/
def NbWord.writesD (w : NbWord) : Bool := w.op != 0 && !(w.op == 18 || w.op == 19 || w.op == 20)

/-- The arithmetic and fetch slots (R190): all read the unit as it stood; arithmetic prevails. -/
def nbStep (w : NbWord) (col : BitVec 512) (u : NbUnit) : NbUnit :=
  let u1 := if w.fEn then u.put w.fD col else u
  let ea := fun i => nbElem w.ty (u.cb w.a) i
  let eb := fun i => nbElem w.ty (u.cb w.b) i
  let ec := fun i => nbElem w.ty (u.cb w.c) i
  let u2 := if w.writesD then u1.put w.d (nbJoin w.ty fun i => nbValue w (u.m.getLsbD i) (ea i) (eb i) (ec i)) else u1
  if 7 ≤ w.op ∧ w.op ≤ 10 then
    { u2 with m := BitVec.ofNat 32 ((List.range (512 / nbWidth w.ty)).foldl (fun acc i =>
        if nbCond w.ty w.op (ea i) (eb i) then acc + 2 ^ i else acc) 0) ||| (if w.ty = 0 ∨ w.ty = 3 then u.m &&& 0xFFFF0000 else 0) }
  else u2

/-- Bytes of the write-back: only the elements whose M bit is 1 when masked. -/
def nbWrites (w : NbWord) (u : NbUnit) : List (Nat × BitVec 8) :=
  (List.range 64).filterMap fun i =>
    if !w.wMask || u.m.getLsbD (i / (nbWidth w.ty / 8)) then some (i, (u.cb w.wS).extractLsb' (8 * i) 8) else none

/-! ### Columns of a surface -/

/-- A place in a bank: the surface, the tile, and its column c of R178. -/
structure NbCol where
  tile : Nat
  c : Nat
deriving DecidableEq, Repr

/-- The tile column `off` bank-local columns away; none outside the tile's slot in the bank. -/
def nbMove (f : Surf) (p : NbCol) (off : Int) : Option NbCol :=
  let j : Int := (p.c / 8 : Nat) + off
  let c := 8 * j.toNat + p.c % 8
  if 0 ≤ j ∧ j < f.k ∧ 64 * c < f.bt then some { p with c } else none

/-- A column's bytes as its bank holds them: stored forms (R183), those of an elided or a compressed block that OFF reaches outside the
command's region too (DESIGN CHOICE, log 140). -/
def readCol (s : State) (h : Nat) (f : Surf) (p : NbCol) : BitVec 512 :=
  let o := p.tile * f.bt + 64 * p.c
  BitVec.ofNat 512 (leNat ((List.range 64).map fun i => (storedForm s h f ((o + i) / f.blk)).getD ((o + i) % f.blk) 0))

/-- A write of bytes of a column. A resident block stays resident; another takes the bytes into its stored form. -/
def writeCol (s : State) (h : Nat) (f : Surf) (p : NbCol) (ws : List (Nat × BitVec 8)) : State :=
  let o := p.tile * f.bt + 64 * p.c
  let n := o / f.blk
  let ws' := ws.map fun w => (o % f.blk + w.1, w.2)
  writeBlock s h f (blockState s h n != .resident) n ws'

/-! ### Running a program (R193, R194) -/

/-- A command's surfaces: primary and, when there is one, secondary. -/
structure NbPair where
  h : Nat
  f : Surf
  second : Option (Nat × Surf)
deriving DecidableEq, Repr

def NbPair.pick (q : NbPair) (base : Nat) : Option (Nat × Surf) := if base = 0 then some (q.h, q.f) else q.second

/-- A bank's sixteen accumulators with their type, or nothing to reduce. -/
structure NbRed where
  red : Nat
  ty : Nat
  acc : List Nat
deriving DecidableEq, Repr

def nbIdent (red ty : Nat) : Nat :=
  if ty = 3 then (if red = 2 then 2 ^ 31 - 1 else if red = 3 then 2 ^ 31 else 0)
  else (if red = 2 then (fmtOf tF32).infBits else if red = 3 then (fmtOf tF32).infBits + 2 ^ 31 else 2 ^ 31)

/-- One step of the command's reduction. -/
def nbFold (red ty x y : Nat) : Nat :=
  if red = 1 then nbCalc ty (fun a b _ => xadd false a b) (fun a b _ => a + b) x y 0 else nbMinMax ty (red == 3) x y

def NbRed.take (r : NbRed) (w : NbWord) (u : NbUnit) : NbRed :=
  if r.red ≠ 0 ∧ (w.op = 18 ∨ w.op = 19 ∨ w.op = 20) then
    { r with acc := r.acc.zipIdx.map fun x => nbFold r.red w.ty x.1 (nbElem w.ty (u.cb w.a) x.2) }
  else r

/-- One word at an iteration column. A word with BASE 1 while SURFB is 0 fetches zeros and writes nothing back (DESIGN CHOICE, log 139). -/
def nbWord (q : NbPair) (p : NbCol) (x : State × NbUnit × NbRed) (w : NbWord) : State × NbUnit × NbRed :=
  let (s, u, r) := x
  let col := match q.pick w.fBase with
    | some (h, f) => match nbMove f p w.fOff with
      | some p' => readCol s h f p'
      | none => 0
    | none => 0
  let s' := if w.wEn then (match q.pick w.wBase with
    | some (h, f) => match nbMove f p w.wOff with
      | some p' => writeCol s h f p' (nbWrites w u)
      | none => s
    | none => s) else s
  (s', nbStep w col u, r.take w u)

/-- R193 step 4 in one bank: the program once per column, M all ones at each start. -/
def nbBank (q : NbPair) (ws : List NbWord) (x : State × NbUnit × NbRed) (cols : List NbCol) : State × NbUnit × NbRed :=
  cols.foldl (fun x p => ws.foldl (nbWord q p) (x.1, { x.2.1 with m := BitVec.allOnes 32 }, x.2.2)) x

/-- Pairs 2i and 2i + 1 combine; an unpaired last entry passes up (R194). -/
def pairUp (f : Nat → Nat → Nat) : List Nat → List Nat
  | a :: b :: xs => f a b :: pairUp f xs
  | xs => xs

def treeUp (f : Nat → Nat → Nat) : Nat → List Nat → Nat
  | 0, xs => xs.headD 0
  | n + 1, xs => if xs.length ≤ 1 then xs.headD 0 else treeUp f n (pairUp f xs)

/-- Store a tile into its place: expand every compressed, elided or spilled block of a region in place (R193 step 3). -/
def expandBlock (h : Nat) (f : Surf) (s : State) (n : Nat) : State :=
  if blockState s h n = .resident then s else putBlock s h f n .resident (blockTexels s h f n)

/-! ### Descriptors (R192) -/

structure NbD where
  surf : Nat
  surfb : Nat
  cwa : Nat
  entry : Nat
  len : Nat
  cw : Nat
  red : Nat
  x0 : Nat
  y0 : Nat
  x1 : Nat
  y1 : Nat
  layer : Nat
  sample : Nat
  k : List (BitVec 8)
  result : Nat
deriving DecidableEq, Repr

def parseNbx (b : List (BitVec 8)) : NbD :=
  let ctl := fieldAt b 0x18 4
  { surf := fieldAt b 0 8, surfb := fieldAt b 8 8, cwa := fieldAt b 0x10 8, entry := bits ctl 5 0, len := bits ctl 12 6, cw := bits ctl 14 13,
    red := bits ctl 16 15, x0 := fieldAt b 0x1C 2, y0 := fieldAt b 0x1E 2, x1 := fieldAt b 0x20 2, y1 := fieldAt b 0x22 2,
    layer := fieldAt b 0x24 2, sample := fieldAt b 0x26 1, k := (b.drop 0x28).take 16, result := fieldAt b 0x38 8 }

/-- The offset of the field that breaks R192 by itself, if one does. -/
def nbxBad (b : List (BitVec 8)) : Option Nat :=
  let d := parseNbx b
  if d.len = 0 ∨ 64 < d.len ∨ 64 < d.entry + d.len ∨ bits (fieldAt b 0x18 4) 31 17 ≠ 0 then some 0x18
  else if saView d.surf then some 0
  else if d.cw ≠ 0 ∧ d.cwa % 8 ≠ 0 then some 0x10
  else if d.x0 % 4 ≠ 0 ∨ d.x1 ≤ d.x0 then some 0x1C
  else if d.y0 % 4 ≠ 0 ∨ d.y1 ≤ d.y0 then some 0x1E
  else if d.x1 % 4 ≠ 0 then some 0x20
  else if d.y1 % 4 ≠ 0 then some 0x22
  else if fieldAt b 0x27 1 ≠ 0 then some 0x27
  else if d.result % 8 ≠ 0 then some 0x38
  else none

/-- The offset of the field that breaks R192 against the surfaces. -/
def nbxMisfit (d : NbD) (f : Surf) (g : Option Surf) : Option Nat :=
  if alignUp f.xdim 4 < d.x1 then some 0x20
  else if alignUp f.ydim 4 < d.y1 then some 0x22
  else if f.layers ≤ d.layer then some 0x24
  else if f.samples ≤ d.sample then some 0x26
  else match g with
    | some g => if g.b = f.b ∧ g.gran = f.gran ∧ g.xdim = f.xdim ∧ g.ydim = f.ydim ∧ g.layers = f.layers ∧ g.samples = f.samples ∧ g.gbase = f.gbase
        then none else some 8
    | none => none

/-- Blocks of the region, and its columns, in increasing order. -/
def nbBlocks (f : Surf) (d : NbD) : List Nat :=
  let q := f.gran / 4
  (List.range f.nt).flatMap fun t =>
    let tx := t % f.tx
    let ty := t / f.tx % f.ty
    if t / (f.tx * f.ty) = d.layer * f.samples + d.sample then
      (List.range f.bpt).filterMap fun b =>
        let x := tx * f.gran + 4 * (b % q)
        let y := ty * f.gran + 4 * (b / q)
        if d.x0 ≤ x ∧ x < d.x1 ∧ d.y0 ≤ y ∧ y < d.y1 then some (t * f.bpt + b) else none
    else []

def nbCols (f : Surf) (blocks : List Nat) : List NbCol :=
  blocks.flatMap fun n => (List.range (f.blk / 64)).map fun i => { tile := n / f.bpt, c := n % f.bpt * (f.blk / 64) + i }

/-- A column's bank, by stack, bank group and bank. -/
def nbBankOf (f : Surf) (p : NbCol) : Nat × Nat × Nat := ((tileHome f p.tile).1, (tileHome f p.tile).2, p.c % 8)

/-- R174 for a surface a command names: its surface, exactly, before enqueue. -/
def nbxSurf (s : State) (c : WCtx) (a : Nat) : Try Surf :=
  match surfCheck s c.g.ctx a 1 3 with
  | .error (k, det) => .error (.trap ⟨k, det, a, c.low⟩)
  | .ok f => if f.bytes ≤ saOff a then .error (.trap ⟨0x04, memDetail 1 3, a, c.low⟩) else .ok f

/-- R192 and R174 for `nbx`. -/
def nbxCheck (s : State) (c : WCtx) (m : EngCmd) : Try EngCmd :=
  let d := parseNbx m.desc
  match nbxBad m.desc with
  | some o => illegal 1 (m.descAddr + o) c.low
  | none => do
    let f ← nbxSurf s c d.surf
    let g ← if d.surfb = 0 then pure none else (nbxSurf s c d.surfb).map some
    match nbxMisfit d f g with
    | some o => illegal 1 (m.descAddr + o) c.low
    | none =>
      let cl ← cwPlace s c d.cw d.cwa
      let ts := ((nbBlocks f d).map (· / f.bpt)).eraseDups
      let hs := saHandle d.surf :: (if d.surfb = 0 then [] else [saHandle d.surfb])
      pure { m with cloc := cl, tiles := hs.flatMap fun h => ts.map fun t => (h, t) }

/-- R197. -/
def execNbx (d : BitVec 7) (x : BitVec 3) (n : BitVec 1) (p : BitVec 3) (g : BitVec 3) (s : State) : Out :=
  engineWord s d x n p g 4 (fun s c => 800 + coreStack s c.g.core) nbxCheck

/-! ### Commands (R193) -/

/-- R193 step 2: every tile of the region restored in both surfaces; false when one cannot be. -/
def nbRestore (held : List (Nat × Nat)) (s : State) : List (Nat × Nat) → State × Bool
  | [] => (s, true)
  | (h, t) :: ts => match restoreTile s h t held with
    | (s, 0) => nbRestore held (touchTile s h t) ts
    | (s, _) => (s, false)

/-- R193 step 4 over every bank that holds a column of the region; the reduction value of R194. -/
def nbRunAll (s : State) (q : NbPair) (d : NbD) (ws : List NbWord) : State × Nat :=
  let cols := nbCols q.f (nbBlocks q.f d)
  let banks := (List.range 2).flatMap fun st => (List.range 24).flatMap fun g => (List.range 8).map fun b => (st, g, b)
  let ty := match ws.find? fun w => w.op == 18 || w.op == 19 || w.op == 20 with
    | some w => w.ty
    | none => 0
  let kbs := fun i => BitVec.ofNat 512 (joinElems 32 (List.replicate 16 (fieldAt d.k (4 * i) 4)))
  let u0 : NbUnit := { cbs := [0, 0, 0, 0, kbs 0, kbs 1, kbs 2, kbs 3], m := BitVec.allOnes 32 }
  let r0 : NbRed := { red := d.red, ty, acc := List.replicate 16 (nbIdent d.red ty) }
  let step := fun (a : State × List Nat) (bk : Nat × Nat × Nat) =>
    let mine := cols.filter fun p => nbBankOf q.f p == bk
    if mine.isEmpty then a
    else
      let (s', _, r) := nbBank q ws (a.1, u0, r0) mine
      (s', a.2 ++ [treeUp (nbFold d.red ty) 16 r.acc])
  let (s, vals) := banks.foldl step (s, [])
  (s, treeUp (nbFold d.red ty) 400 vals)

/-- Steps 1 to 4 of R193: the state, the status and the reduction value. -/
def nbRun (s : State) (m : EngCmd) (d : NbD) : State × Nat × Nat :=
  let ws := (List.range d.len).map fun i => parseNb (Tab.fetch 0 s.bankProg (d.entry + i))
  let none' := (Config.nbNoReduction s.fresh).toNat
  let s := { s with fresh := s.fresh + 1 }
  match Tab.find s.surfs (saHandle d.surf) with
  | none => (s, 2, none')
  | some f =>
    if ws.any (·.bad) then (s, 2, none')
    else match nbRestore m.tiles s m.tiles with
      | (s, false) => ({ s with hb := { s.hb with sfStats := bumpField s.hb.sfStats (m.eng - 800) 48 } }, 1, none')
      | (s, true) =>
        let second := if d.surfb = 0 then none else (Tab.find s.surfs (saHandle d.surfb)).map fun g => (saHandle d.surfb, g)
        let bs := nbBlocks f d
        let s := bs.foldl (expandBlock (saHandle d.surf) f) s
        let s := match second with
          | some (h, g) => bs.foldl (expandBlock h g) s
          | none => s
        let (s, v) := nbRunAll s { h := saHandle d.surf, f, second } d ws
        (s, 0, if d.red = 0 then none' else v)

/-- A command from the moment its RESULT can be written, through the cluster station of the issuing core (R80, log 29), or
its fault stands: steps 1 to 5. -/
def nbFinish (s : State) (m : EngCmd) (d : NbD) : State :=
  match engCheck s m.unit m.ctx m.id 2 ((List.range 8).map (d.result + ·)) with
  | .wait ps => engAsk s m.unit m.ctx m.id ps
  | .stall => s
  | .ok ls =>
    let (s, st, v) := nbRun s m d
    let s := engWrite s m.unit m.ctx ls (leBytes 4 st ++ leBytes 4 v) []
    payCmd (setCmd s m.id fun e => { e with paid := true, moved := 8 }) { m with paid := true, moved := 8 } d.cw d.cwa
  | .fault c i _ => meetFault (nbRun s m d).1 m c (memDetail 1 0) ((d.result + i) % 2 ^ 64 / 4096 * 4096)
  | .lost dev _ => meetFault (nbRun s m d).1 m 0 (memDetail 1 0) dev

/-- R193, NBX_COMMAND: the command at the head of a stack's near-bank queue. -/
def execNbxCommand (st : Nat) (s : State) : Out :=
  match (engEntries s (800 + st)).head? with
  | some m =>
    if m.failed.isSome then .next s
    else
      let d := parseNbx m.desc
      .next (if m.paid then payCmd s m d.cw d.cwa else nbFinish s m d)
  | none => .next s

/-- R127, COPY_ENGINE_COMPLETE: a copy or a collective command goes on; or the refetch of a tile by a quadrant's
engine (R151). -/
def execCopyEngineComplete (eng id : Nat) (s : State) : Out :=
  .next (match cmdOf s id with
    | some m => if m.eng = eng then engineStep s id else s
    | none => refetchTile s id)

/-! ### The bank program store and the scrub (R191, R195) -/

/-- R191, SF_NBP_DATA_WRITE: ignored while BUSY. -/
def execSfNbpDataWrite (s : State) : Out :=
  if bit s.hb.nbpCtl.toNat 63 then .next s
  else .next (later { s with hb := { s.hb with nbpData := s.hb.wval, nbpCtl := s.hb.nbpCtl ||| (1#64 <<< 63) } } .bankProgramInstall)

/-- R191, BANK_PROGRAM_INSTALL: no near-bank program runs between steps; the word enters every bank, WORD goes on. -/
def execBankProgramInstall (s : State) : Out :=
  if bit s.hb.nbpCtl.toNat 63 then
    let w := bits s.hb.nbpCtl.toNat 5 0
    .next { s with bankProg := Tab.store 0 s.bankProg w s.hb.nbpData,
                   hb := { s.hb with nbpCtl := BitVec.ofNat 64 ((w + 1) % 64) } }
  else .next s

/-- R195: the scrub changes timing only. -/
def execScrubBurst (_st _grp : Nat) (s : State) : Out := .next s

end Sys2Proof.Machine
end

