-- ==== Sys2Proof/Machine/SurfaceOps.lean ====
section
/-! DEFINITION. The sf words (R198 to R201), and the eviction and restore of tiles as steps of their own (R185, R187). -/
namespace Sys2Proof.Machine

/-! ### `sld` and `sst` (R199) -/

/-- Layer and sample of s[hs + 1]. -/
def layerOf (v : BitVec 64) : Nat := bits v.toNat 11 0
def sampleOf (v : BitVec 64) : Nat := bits v.toNat 15 12

/-- The checks of R199 in its order, and every lane's texel: its places through the address's view. -/
def texelPlaces (s : State) (c : WCtx) (d : Nat) (hs n rw : Nat) : Try (Surf × List (Nat × List Loc)) := do
  let a := (c.g.s hs).toNat
  let ls := c.g.s (hs + 1)
  let f ← namedSurf s c a rw
  if 2 ^ n ≠ f.b / 4 then illegal 1 a c.low
  else
    let xy := fun l => c.g.val false d l
    match c.lanes.find? fun l => decide (f.xdim ≤ xy l % 65536) || decide (f.ydim ≤ xy l / 65536) || decide (f.layers ≤ layerOf ls)
        || decide (f.samples ≤ sampleOf ls) with
    | some l => .error (.trap ⟨0x04, memDetail rw 3, a, l⟩)
    | none => .ok (f, c.lanes.map fun l =>
        (l, (⟨.surf (saHandle a) (saView a), texelOff f (xy l % 65536) (xy l / 65536) (layerOf ls) (sampleOf ls)⟩ : Loc).span f.b))

/-- `n` V registers from `d` that a word names: the first by its field, the others implied. -/
def rowRun (d n : Nat) : List Opnd :=
  (List.range n).map fun i => ⟨if i = 0 then 0 else 3, false, d + i, 0, .free⟩

/-- R199, `sld`. -/
def execSld (d : BitVec 7) (h : BitVec 6) (n : BitVec 2) (s : State) : Out :=
  runLong s fun c s => do
    let k : Nat := 2 ^ n.toNat
    vecCheck c true (rowRun d.toNat k)
    let (f, ls) ← texelPlaces s c d.toNat h.toNat n.toNat 0
    let s ← touchSurf s 0 ls
    let (s, bs) := loadLanes s c.key c.g ls
    let bad := lanesBad s c.g.core ls
    let (s, id) := newId s
    let elems := (List.range k).flatMap fun i => c.g.laneElems false (d.toNat + i) (bs.map fun x => (x.1, fieldAt x.2 (4 * i) 4))
    let tags := (List.range k).map fun i => (c.g.rowNo 0 (d.toNat + i) 0, BitVec.ofNat 5 (surfTag f.format))
    pure (later s (.longLatencyCompletion c.key id), { blankPending id c.sp.pc with elems := elems, tags := tags, ready := true, poison := bad })

/-- R199, `sst`: one lane's texel after another, in increasing order; performed, or buffered in a region (R218). -/
def execSst (d : BitVec 7) (h : BitVec 6) (n : BitVec 2) (s : State) : Out :=
  runWord s fun c s => do
    let k : Nat := 2 ^ n.toNat
    vecCheck c true (rowRun d.toNat (k + 1))
    let (_, ls) ← texelPlaces s c d.toNat h.toNat n.toNat 1
    let s ← touchSurf s 1 ls
    let data := fun l => (List.range k).flatMap fun i => leBytes 4 (c.g.val false (d.toNat + 1 + i) l)
    bufferOps s c 1 3 (ls.map fun x => .bytes (x.2.zip (data x.1)))

/-! ### `salloc`, `sfree`, `spin` (R200, R201) -/

/-- R200. -/
def execSalloc (d : BitVec 7) (h : BitVec 6) (s : State) : Out :=
  runWord s fun c s => do
    let y := (c.g.s h.toNat).toNat
    trapIf (y % 64 != 0) ⟨0x08, 2, y, c.low⟩
    let ls ← uniform s c 0 y 64 0
    let (s, t) := groupLoad s c.key c.g ls
    goodSource s c ls
    match parseTemplate t c.g.ctx 0 with
    | none => illegal 1 y c.low
    | some f =>
      trapIf (!spillBacked s c.g.ctx f) ⟨0x02, memDetail 1 3, f.spill, c.low⟩
      let (s, st, a) := allocSurf s c.g.ctx t
      pure (writeS (writeS s c d.toNat a) c (d.toNat + 1) st)

/-- R201: `sfree` waits until nothing is in flight in the surface. -/
def execSfree (h : BitVec 6) (s : State) : Out :=
  runWord s fun c s => do
    let a := (c.g.s h.toNat).toNat
    let f ← wholeSurf s c a 1
    if (List.range f.nt).any (inFlight s (saHandle a)) then .error .stall
    else pure (freeSurf s (saHandle a))

/-- R201. -/
def execSpinOn (d : BitVec 7) (h : BitVec 6) (s : State) : Out :=
  runWord s fun c s => do
    let a := (c.g.s h.toNat).toNat
    let _ ← wholeSurf s c a 1
    let (s, st) := pinSurf s (saHandle a)
    pure (writeS s c d.toNat st)

/-- R201. -/
def execSpinOff (d : BitVec 7) (h : BitVec 6) (s : State) : Out :=
  runWord s fun c s => do
    let a := (c.g.s h.toNat).toNat
    let _ ← wholeSurf s c a 1
    let s : State := { s with surfs := Tab.modify s.surfs (saHandle a) fun f => { f with pinned := false } }
    pure (writeS s c d.toNat 0)

/-! ### Tiles that wait for a slot (R185, R187, R430) -/

/-- Groups, resident or saved, that wait for a tile's restore. -/
def tileWaiters (s : State) (h t : Nat) : List Nat :=
  ((s.groups ++ s.saved).filter fun e => e.2.want == some (.tile h t)).map (·.1)

/-- A group in SERVICE goes on: its word is issued again, with its checks made anew (R424), and its watchdog counts from now
(R439); a saved one may be placed. -/
def endService (s : State) (key : Nat) : State :=
  let f := fun (g : Group) => { g with want := none, lastIssue := s.time, park := if g.park = .service then .none else g.park }
  let s := { s with groups := Tab.modify s.groups key f, saved := Tab.modify s.saved key f }
  if (Tab.find s.saved key).isSome then wakePlacement s else later s (.mayFaultChecksResolved key)

/-- Whether a tile is asked for: by a group in SERVICE, or by a fragment whose turn has come (R357). -/
def tileAsked (s : State) (h t : Nat) : Bool :=
  !(tileWaiters s h t).isEmpty || s.raster.tickets.any fun k => k.arrived && k.handle == h && k.tile == t

/-- R187, TILE_RESTORE: a tile that an access waits for is given a slot and restored, and the access goes on. -/
def execTileRestore (handle tile : Nat) (s : State) : Out :=
  if !tileAsked s handle tile then .next s
  else match Tab.find s.surfs handle with
    | none => .next ((tileWaiters s handle tile).foldl endService s)
    | some _ => match restoreTile s handle tile with
      | (s, 0) =>
        let s := (tileWaiters s handle tile).foldl endService s
        let banks := ((s.raster.tickets.filter fun k => k.arrived && k.handle == handle && k.tile == tile).map (·.bank)).eraseDups
        .next (laterAll s (banks.map .ropInvocation))
      | (s, _) => .next s

/-- R185, TILE_EVICTION: a stack's eviction engine takes the victim of a bank group that lacks space for a tile of
`handle` which an access waits for. -/
def execTileEviction (st grp handle : Nat) (s : State) : Out :=
  match Tab.find s.surfs handle with
  | none => .next s
  | some f =>
    match (List.range f.nt).find? fun t => tileHome f t == (st, grp) && (tslotOf s handle t).isNone && tileAsked s handle t with
    | none => .next s
    | some t =>
      if (freeCol s st grp f.k).isSome then .next (later s (.tileRestore handle t))
      else match spaceVictim s [] st grp with
        | some e => .next (later (evictTile s e) (.tileRestore handle t))
        | none => .next s

end Sys2Proof.Machine
end

