-- ==== Sys2Proof/Machine/MatrixCore.lean ====
section
/-! DEFINITION. Matrix engines (R301 to R319): shapes, panels, tiles, the weight buffer, the ends of tiles. -/
namespace Sys2Proof.Machine

/-- An engine that has done nothing: all units free, BUDGET at its reset value (R315). -/
def Mx.blank : Mx where
  slots := []
  free := 131072
  tiles := []
  banks := []
  spilled := []
  used := 0
  budget := 32768
  passes := 0
  stall := 0
  held := none
  clock := 0

def mxOf (s : State) (cl : Nat) : Mx := (Tab.find s.mx cl).getD Mx.blank
def setMx (s : State) (cl : Nat) (f : Mx → Mx) : State := { s with mx := Tab.put s.mx cl (f (mxOf s cl)) }
abbrev engMx (cl : Nat) : Nat := 500 + cl
/-- The engine's clock: the cycle counter of its cluster's first core. -/
def mxNow (s : State) (cl : Nat) : Nat := Tab.fetch 0 s.cycles (4 * cl)

/-! ### Shapes (R301, R302) -/

/-- K of one operation, its chunk, and the bytes of an M register that it reads, by A format. -/
def mxK (ty : Nat) : Nat := if ty = tQ4 then 128 else if ty = tE4M3 ∨ ty = tE5M2 then 64 else if ty = tF32 then 8 else if ty = tF64 then 4 else 32
def mxChunk (ty : Nat) : Nat := min 32 (mxK ty)
def mxBytes (ty : Nat) : Nat := if ty = tF32 ∨ ty = tF64 then 32 else 64
def mxAdmits (ty : Nat) : Bool := tAnyFloat ty || ty == tQ4
/-- Whether a slot's format serves an A format. -/
def mxSlotFmt (ty f : Nat) : Bool := if ty = tE4M3 ∨ ty = tE5M2 then f == tE4M3 || f == tE5M2 else f == ty

/-- N, columns per lane, octets per tile. -/
structure Shape where
  ty : Nat
  n : Nat
  c : Nat
  q : Nat
  f64 : Bool
deriving DecidableEq, Repr

def shapeOf (g : Group) : Shape :=
  let n := 32 * 2 ^ g.nsel
  let f64 := g.ty == tF64
  let c := min n (if f64 then 32 else 64)
  { ty := g.ty, n, c, q := n / c, f64 }

/-- Accumulator registers a lane's tile names. -/
def Shape.regs (h : Shape) : Nat := if h.f64 then 2 * h.c else h.c

/-- Element keys of row i of the tile with lead octet p (R302). -/
def accRow (g : Group) (h : Shape) (d p i : Nat) : List Nat :=
  (List.range h.n).flatMap fun n =>
    let l := 8 * (p + n / h.c) + i
    let c := n % h.c
    if h.f64 then [g.elemKey (g.rowNo 3 (d + 2 * c) 0) l, g.elemKey (g.rowNo 3 (d + 2 * c + 1) 0) l]
    else [g.elemKey (g.rowNo 3 (d + c) 0) l]

/-- Accumulators at keys, and keys with the halves of accumulators. -/
def accValues (g : Group) (f64 : Bool) : List Nat → List (BitVec 64)
  | lo :: hi :: ks =>
    if f64 then BitVec.ofNat 64 ((Tab.fetch 0 g.regs lo).toNat + 2 ^ 32 * (Tab.fetch 0 g.regs hi).toNat) :: accValues g f64 ks
    else BitVec.ofNat 64 (Tab.fetch 0 g.regs lo).toNat :: accValues g f64 (hi :: ks)
  | [k] => [BitVec.ofNat 64 (Tab.fetch 0 g.regs k).toNat]
  | [] => []
def accElems (f64 : Bool) (ks : List Nat) (vs : List (BitVec 64)) : List (Nat × BitVec 32) :=
  if f64 then vs.zipIdx.flatMap fun (x : BitVec 64 × Nat) => [(ks.getD (2 * x.2) 0, x.1.setWidth 32), (ks.getD (2 * x.2 + 1) 0, (x.1 >>> 32).setWidth 32)]
  else ks.zip (vs.map fun v => v.setWidth 32)

/-! ### The operation (R304, R40) -/

/-- An element of an operand: a float code, or a Q4 code with its scale. -/
def mxValue (ty scale code : Nat) : XV := if ty = tQ4 then q4Value scale code else unpack (fmtOf ty) code

/-- Exact sums. -/
def sumXV : List XV → XV
  | [] => .fin false 0 1 0
  | [x] => x
  | x :: xs => xadd false x (sumXV xs)

/-- The chunks of a dot product added to an accumulator one after another. -/
def addChunks (f : Fmt) (kc : Nat) : Nat → Nat → List XV → Nat
  | 0, acc, _ => acc
  | n + 1, acc, ps => addChunks f kc n (rneTo f (xadd false (unpack f acc) (sumXV (ps.take kc)))) (ps.drop kc)

/-- One accumulator of a tile after an operation. -/
def mxDot (aty bty : Nat) (as : List (BitVec 64)) (ascale : Nat) (bs : List (BitVec 64)) (bscale acc : Nat) : Nat :=
  let f := fmtOf (if aty = tF64 then tF64 else tF32)
  let ps := (as.zip bs).map fun x => xmul (mxValue aty ascale x.1.toNat) (mxValue bty bscale x.2.toNat)
  addChunks f (mxChunk aty) (mxK aty / mxChunk aty) acc ps

/-- A tile's result against a slot: rows that are not computed keep their input. -/
def tileResult (t : MTile) (w : WSlot) : List (List (BitVec 64)) :=
  let k := mxK t.fmt
  t.accIn.zipIdx.map fun r =>
    if t.rows.getLsbD r.2 then
      r.1.zipIdx.map fun v =>
        BitVec.ofNat 64 (mxDot t.fmt w.fmt (t.a.getD r.2 []) (t.ascale.getD r.2 0).toNat ((w.elems.drop (v.2 * k)).take k)
          (w.scales.getD v.2 0).toNat v.1.toNat)
    else r.1

/-! ### The weight buffer (R308, R309) -/

/-- Dense bytes of an image's elements (R309). -/
def denseBytes (f : Nat) : Nat := mxK f * 128 * (if f = tQ4 then 4 else tWidth f) / 8
/-- Units that an image needs at most (R311). -/
def slotNeed (f : Nat) (comp : Bool) : Nat :=
  let scales := if f = tQ4 then 128 else 0
  ((if comp then 2 * mxK f * 8 else 0) + denseBytes f + scales + 127) / 128
/-- The largest extent of an image in memory. -/
def slotExtent (f : Nat) (comp : Bool) : Nat :=
  (if comp then 2 * mxK f * 8 else 0) + denseBytes f + (if f = tQ4 then 128 else 0)

/-! ### Ends of tiles (R305, R308, R318) -/

/-- The word's last tile has ended: its tumbler falls, its operation completes (R57, R304). -/
def endWordTiles (s : State) (key word : Nat) : State :=
  let s := updG s key fun g => match g.pending.find? fun p => p.id == word with
    | some p => { g.dropT p.tumbler with pending := g.pending.filter fun q => q.id != word }
    | none => g
  finishOp s key word none

/-- The tiles of a word that have not been written back. -/
def wordTiles (m : Mx) (word : Nat) : List MTile := m.tiles.filter fun t => t.word == word

/-- A tile leaves the engine; its word ends with the last of its tiles (R304). -/
def endTile (cl : Nat) (s : State) (t : MTile) : State :=
  let s := setMx s cl fun m => ({ m with tiles := m.tiles.filter fun u => u.id != t.id }).sweep
  if !(wordTiles (mxOf s cl) t.word).isEmpty ∨ t.dropped then s else endWordTiles s t.key t.word

/-- A tile's rows and their tags are written to its group's registers (R305); a dropped tile's are not (R318). -/
def landTile (s : State) (t : MTile) : State :=
  if t.dropped then s
  else
    let es := (List.range 8).flatMap fun i =>
      if t.rows.getLsbD i then accElems t.f64 (t.accKeys.getD i []) (t.accIn.getD i []) else []
    updG s t.key fun g => landPending g { blankPending t.word 0 with
      elems := es, tags := t.accRows.map fun r => (r, BitVec.ofNat 5 (if t.f64 then tF64 else tF32)) }

/-- A word's tiles are written back together, and leave the engine. -/
def landWord (s : State) (cl word : Nat) : State :=
  let ts := wordTiles (mxOf s cl) word
  ts.foldl (endTile cl) (ts.foldl landTile s)

/-- A chain goes on from an accumulator input, or behind a further predecessor. -/
def Mx.relink (m : Mx) (id : Nat) (acc : List (List (BitVec 64))) (chain : Option Nat) : Mx :=
  { m with tiles := m.tiles.map fun u => if u.chain = some id then { u with chain, accIn := acc } else u }

/-- A tile whose slot's image read failed completes without writing back: the failed link adds nothing (R305). -/
def failTile (s : State) (cl : Nat) (t : MTile) : State :=
  let s := endTile cl (setMx s cl fun m => m.relink t.id t.accIn t.chain) t
  laterAll s ((wordTiles (mxOf s cl) t.word).map fun u => .matrixTileWriteback cl u.id)

/-- The tiles that wait for a slot, one after another as they then stand. -/
def failTiles (cl ctx handle : Nat) : Nat → State → State
  | 0, s => s
  | n + 1, s => match (mxOf s cl).tiles.find? fun t => t.ctx == ctx && t.handle == handle && !t.granted with
    | some t => failTiles cl ctx handle n (failTile s cl t)
    | none => s

/-! ### Context banks (R316) -/

def Mx.bound (m : Mx) (ctx : Nat) : Bool := m.banks.any fun b => b.2.1 == ctx
def ctxHarvest (s : State) (c : Nat) : Bool := match Tab.find s.ctxs c with
  | some x => x.harvest
  | none => false
def ctxPrio (s : State) (c : Nat) : Nat := match Tab.find s.ctxs c with
  | some x => x.prio
  | none => 3

/-- Step 1 of R316: an unbound bank is bound at once; else a spill is asked for. -/
def wantBank (s : State) (cl ctx : Nat) : State :=
  let m := mxOf s cl
  if m.bound ctx then s
  else match lowFree m.banks 2 with
    | some b => setMx s cl fun m => { m with banks := Tab.put m.banks b (ctx, mxNow s cl), spilled := m.spilled.filter (· ≠ ctx) }
    | none => later s (.contextBankSpill cl ctx)

/-- Whether a context has a locked tile between grant and write-back (R317). -/
def lockedBusy (s : State) (m : Mx) (ctx : Nat) : Bool := ctxPrio s ctx == 0 && m.tiles.any fun t => t.ctx == ctx && t.granted

/-- The bank that a context may take: the one with the older last grant (R316). -/
def bankVictim (s : State) (cl ctx : Nat) : Option (Nat × Nat × Nat) :=
  let m := mxOf s cl
  let cand := m.banks.filter fun b => !lockedBusy s m b.2.1 && (!ctxHarvest s ctx || ctxHarvest s b.2.1)
  match cand with
  | [] => none
  | [b] => some b
  | b :: c :: _ => if c.2.2 < b.2.2 then some c else some b

/-- A group outside a region loses its matrix entries all the same (R319): their words end without a write. -/
def dropTileWords (s : State) (key : Nat) : State :=
  (tileWords s key).eraseDups.foldl (fun s w =>
    let s := updG s key fun g => match g.pending.find? fun p => p.id == w with
      | some p => g.dropT p.tumbler
      | none => g
    finishOp (updG s key fun g => { g with pending := g.pending.filter fun p => p.id != w }) key w none) (dropMatrix s key)

/-- Results of words that have completed and are about to be delivered reach their registers; but not a bad sector's (R438). -/
def landReady (g : Group) : Group := (g.pending.filter fun p => p.ready && p.poison.isNone).foldl landPending g

/-- One group of a revoked team: inside an intact region it rewinds to the region's entry; what its words have loaded by then
stays in its registers (R423). -/
def rewindGroup (s : State) (key : Nat) (g : Group) : State :=
  if intact g then flushGroup (updG s key landReady) key else dropTileWords s key

/-- R423: a team rewinds to its region entries. -/
def rewindTeam (s : State) (team : Nat) : State := (teamGroups s team).foldl (fun s e => rewindGroup s e.1 e.2) s

/-- The bytes of a bank in its owner's spill area: 266,240 for each cluster (R442); what they hold is the device's
(log 33). -/
def spillBank (s : State) (cl ctx : Nat) : State :=
  match Tab.find s.ctxs ctx with
  | none => s
  | some c =>
    let n := 266240
    let xs := (List.range n).map fun i => (i, xlate s (engMx cl) ctx 0 ((c.saveBase + n * cl + i) % 2 ^ 64) 2)
    let ws := xs.filterMap fun x => match x.2 with
      | .ok l => some (l, Config.bankByte s.fresh x.1)
      | _ => none
    { writeHome s ctx ws with fresh := s.fresh + 1 }

/-- R316, CONTEXT_BANK_SPILL: a context with entries takes a bank; where both banks hold harvest contexts and an owner takes
one, its chains are lost and its teams rewind. -/
def execContextBankSpill (cl ctx : Nat) (s : State) : Out :=
  let m := mxOf s cl
  if m.bound ctx ∨ !(m.tiles.any fun t => t.ctx == ctx && !t.granted) then .next s
  else match bankVictim s cl ctx with
    | none => .next s
    | some (b, old, _) =>
      let s := spillBank s cl old
      let s := if (m.banks.all fun b => ctxHarvest s b.2.1) ∧ !ctxHarvest s ctx then
          let teams := ((m.tiles.filter fun t => t.ctx == old).filterMap fun t => (Tab.find s.groups t.key).map (·.team)).eraseDups
          teams.foldl rewindTeam s
        else s
      .next (setMx s cl fun m => { m with banks := Tab.put m.banks b (ctx, mxNow s cl), spilled := old :: m.spilled.filter (fun x => x != ctx && x != old) })

end Sys2Proof.Machine
end

