-- ==== Sys2Proof/Machine/Thermal.lean ====
section
/-! DEFINITION. Thermal records (R461). -/
namespace Sys2Proof.Machine

/-- The 32 bytes of a thermal record. -/
def thermalBytes (time sensor kind value lid aux : Nat) : List (BitVec 8) :=
  leBytes 8 time ++ leBytes 2 sensor ++ leBytes 1 kind ++ leBytes 1 0 ++ leBytes 4 value ++ leBytes 8 lid ++ leBytes 8 aux

/-- R461: a record goes to the ring, or is dropped and counted when the ring is full; vector 1. A ring of LOG2N outside 6
to 20 is disabled. -/
def thermalRec (s : State) (sensor kind value lid aux : Nat) : State :=
  let ring := s.hb.thRing.toNat
  let lg := ring % 32
  if lg < 6 ∨ 20 < lg then s
  else
    let w := bits s.hb.thCount.toNat 47 0
    let d := bits s.hb.thCount.toNat 63 48
    let put := fun (s : State) (w d : Nat) => { s with hb := { s.hb with thCount := BitVec.ofNat 64 (w + d * 2 ^ 48) } }
    if 2 ^ lg ≤ w - s.hb.thHead.toNat then put s w (bumpSat d 1)
    else
      let s := setLogBytes s 0 (ring / 4096 * 4096 + 32 * (w % 2 ^ lg)) (thermalBytes s.time sensor kind value lid aux)
      signal (put s ((w + 1) % 2 ^ 48) d) 1

/-- The LAUNCHID that a record about a core names: of a launch with a group there, all ones for none. -/
def launchOn (s : State) (core : Nat) : Nat :=
  match s.groups.find? fun e => e.2.core == core && e.2.kind != .handler with
  | some e => match launchOf s e.2 with
    | some l => l.lid
    | none => 2 ^ 64 - 1
  | none => 2 ^ 64 - 1

end Sys2Proof.Machine
end

