-- ==== Sys2Proof/Machine/MatrixOps.lean ====
section
/-! DEFINITION. Matrix words and events (R304 to R319): `mma`, `mmas`, `mbld`, `mbrel`, passes, write-backs, the governor. -/
namespace Sys2Proof.Machine

/-! ### Issue checks (R307) -/

/-- R319: a harvest group may issue only where `ok` holds: `mma` and `mmas` inside a region, whether or not it has lost
idempotence. -/
def harvestBar (c : WCtx) (ok : Bool) : Try Unit := trapIf (c.g.harvest && !ok) ⟨0x03, 0, 0, c.low⟩

/-- Step a: the type, and the shape that gm selects. -/
def mxAdmit (c : WCtx) (h : Shape) : Try Unit :=
  if !mxAdmits c.g.ty then illegal 3 0 c.low else if c.w / 8 < h.q then illegal 1 0 c.low else .ok ()

def regBound (c : WCtx) (detail : Nat) (bad : Bool) : Try Unit := trapIf bad ⟨0x07, detail, 0, c.low⟩
def regTagIs (c : WCtx) (detail : Nat) (rows : List Nat) (t : Nat) : Try Unit :=
  trapIf (rows.any fun r => (c.g.rowTag r).toNat != t) ⟨0x06, detail, 0, c.low⟩

/-- The rows of the accumulators after the first. -/
def accTail (c : WCtx) (h : Shape) (d : Nat) : List Nat := (List.range (h.regs - 1)).map fun i => c.g.rowNo 3 (d + 1 + i) 0
/-- Rows of an M register that the operation reads, and a Q4 scale row. -/
def aRows (c : WCtx) (a : Nat) : List Nat := (List.range (mxBytes c.g.ty / 4)).map fun j => c.g.rowNo 2 a j

/-- Steps b and c for `mma`: accumulators, the M register, the scale row. -/
def mmaRows (c : WCtx) (h : Shape) (d a : Nat) : Try Unit := do
  let acc := if h.f64 then tF64 else tF32
  regBound c 0 (decide (c.g.vCount 3 ≤ d))
  regBound c 1 (decide (c.g.vCount 2 ≤ a))
  regBound c 3 (decide (c.g.vCount 3 < d + h.regs) || (h.ty == tQ4 && decide (c.g.regBytes < (c.g.rowNo 2 a 16 + 1) * 4 * c.w)))
  regTagIs c 0 [c.g.rowNo 3 d 0] acc
  regTagIs c 1 (aRows c a) c.g.ty
  regTagIs c 3 (accTail c h d) acc
  if h.ty = tQ4 then regTagIs c 3 [c.g.rowNo 2 a 16] tSCB else pure ()

/-- Steps b and c for `mmas`: accumulators alone. -/
def mmasRows (c : WCtx) (h : Shape) (d : Nat) : Try Unit := do
  let acc := if h.f64 then tF64 else tF32
  regBound c 0 (decide (c.g.vCount 3 ≤ d))
  regBound c 3 (decide (c.g.vCount 3 < d + h.regs))
  regTagIs c 0 [c.g.rowNo 3 d 0] acc
  regTagIs c 3 (accTail c h d) acc

/-- R302: lanes of a tile's further octets are masked as the lead's. -/
def maskBad (c : WCtx) (h : Shape) : Bool :=
  (List.range c.w).any fun l =>
    let p := l / 8 / h.q * h.q
    c.eff.getLsbD l != c.eff.getLsbD (8 * p + l % 8)

/-- Step d common to both: the mask, the handle's slot and its format. -/
def mxSlotCheck (s : State) (c : WCtx) (h : Shape) (handle : Nat) : Try Unit :=
  if maskBad c h then illegal 1 0 c.low
  else match slotOf (mxOf s (c.g.core / 4)) c.g.ctx handle with
    | some w => if (w.st == .loading || w.st == .loaded) && mxSlotFmt c.g.ty w.fmt then .ok () else illegal 1 0 c.low
    | none => illegal 1 0 c.low

/-! ### Tiles (R302, R305, R313) -/

/-- Rows that the tile of lead octet p computes. -/
def tileRows (c : WCtx) (p : Nat) : BitVec 8 :=
  BitVec.ofNat 8 ((List.range 8).foldl (fun a i => if c.eff.getLsbD (8 * p + i) then a + 2 ^ i else a) 0)

/-- The earlier tile of the group that a tile continues, if the latest that overlaps it names exactly its accumulators. -/
def overlaps (t u : MTile) : Bool := u.key == t.key && !u.dropped && u.accKeys.flatten.any (t.accKeys.flatten.contains ·)
def sameAcc (t u : MTile) : Bool := u.accKeys == t.accKeys && u.rows == t.rows && u.n == t.n && u.f64 == t.f64
def linkTile (m : Mx) (t : MTile) : Option MTile :=
  match m.tiles.filter (overlaps t) with
  | [] => some t
  | us => if us.all (sameAcc t) then
      match us.getLast? with
      | some u => if u.granted then some { t with accIn := u.accIn } else some { t with chain := some u.id }
      | none => some t
    else none

/-- The tiles of a word enter the reservation table at once, or the split stalls (R305, R313). -/
def enterTiles (s : State) (c : WCtx) (h : Shape) (d handle word : Nat) (a : Nat → Nat → List (BitVec 64)) (scale : Nat → BitVec 8)
    (surfs : List (Nat × Nat)) : Try State :=
  let cl := c.g.core / 4
  let m := mxOf s cl
  let leads := ((List.range (c.w / (8 * h.q))).map (· * h.q)).filter fun p => tileRows c p != 0
  let mk := fun (p id : Nat) =>
    let ks := (List.range 8).map fun i => accRow c.g h d p i
    ({ id, word, key := c.key, ctx := c.g.ctx, cls := ctxPrio s c.g.ctx, harvest := c.g.harvest, handle, fmt := c.g.ty, n := h.n, lead := p,
       rows := tileRows c p, f64 := h.f64, a := (List.range 8).map fun i => a p i, ascale := (List.range 8).map fun i => scale (8 * p + i),
       accKeys := ks, accRows := (List.range h.regs).map fun r => c.g.rowNo 3 (d + r) 0, accIn := ks.map (accValues c.g h.f64), chain := none,
       issued := mxNow s cl, since := none, granted := false, aged := false, dropped := false, surfTiles := surfs } : MTile)
  let ts := leads.zipIdx.map fun x => linkTile m (mk x.1 (s.nextId + x.2))
  if ts.any Option.isNone ∨ 64 < m.tiles.length + leads.length then .error .stall
  else
    let s := { s with nextId := s.nextId + leads.length }
    let s := setMx s cl fun m => { m with tiles := m.tiles ++ ts.filterMap id }
    let s := updG s c.key fun g => g.startOp 3 word
    .ok (later (wantBank s cl c.g.ctx) (.matrixPassGrant cl))

/-- Row i of the A operand in a lane, from m(a). -/
def mmaRow (c : WCtx) (a l : Nat) : List (BitVec 64) :=
  let w := if c.g.ty = tQ4 then 4 else tWidth c.g.ty
  let n := joinElems 32 ((aRows c a).map fun r => (c.g.elem r l).toNat)
  (List.range (mxK c.g.ty)).map fun k => BitVec.ofNat 64 (elemAt w n k)

/-- R304, `mma`. -/
def execMma (d a h : BitVec 7) (s : State) : Out :=
  runLong s fun c s => do
    let sh := shapeOf c.g
    mxAdmit c sh
    mmaRows c sh d.toNat a.toNat
    mxSlotCheck s c sh h.toNat
    harvestBar c c.g.inRegion
    roomFor c 3
    let (s, word) := newId s
    let s ← enterTiles s c sh d.toNat h.toNat word (fun p i => mmaRow c a.toNat (8 * p + i))
      (fun l => BitVec.ofNat 8 (c.g.elem (c.g.rowNo 2 a.toNat 16) l).toNat) []
    pure (s, blankPending word c.sp.pc)

/-! ### `mmas` (R306) -/

/-- The byte of a tap. -/
def tapOf (c : WCtx) (x t : Nat) : Nat := bits (c.g.s (x + 2 + t / 8)).toNat (8 * (t % 8) + 7) (8 * (t % 8))
def mxTaps (ty : Nat) : Nat := if ty = tE4M3 then 16 else 8

/-- The texel that a tap of an output position reads; none outside the surface. -/
def tapTexel (f : Surf) (x y tap : Nat) : Option (Nat × Nat) :=
  let u := (x : Int) + toS 4 tap
  let v := (y : Int) + toS 4 (tap / 16)
  if 0 ≤ u ∧ u < f.xdim ∧ 0 ≤ v ∧ v < f.ydim then some (u.toNat, v.toNat) else none

/-- The surface's checks in R307's order: R174, the format and view, then layer and sample. -/
def mmasSurf (s : State) (c : WCtx) (x : Nat) : Try Surf := do
  let a := (c.g.s x).toNat
  let o := (c.g.s (x + 1)).toNat
  let f ← namedSurf s c a 0
  if saView a ∨ f.format ≠ (if c.g.ty = tE4M3 then 0x06 else 0x08) then illegal 1 a c.low
  else if f.layers ≤ bits o 43 32 ∨ f.samples ≤ bits o 47 44 then .error (.trap ⟨0x04, memDetail 0 3, a, c.low⟩)
  else .ok f

/-- A byte of the surface as the group sees it: its own buffered stores before memory (R213, R219). -/
def ownSurfByte (s : State) (g : Group) (h off : Nat) : BitVec 8 :=
  let l : Loc := ⟨.surf h false, off⟩
  if g.inRegion && !g.lost then (bufByte g.buf l).getD (homeByte s l) else homeByte s l

/-- One row of A from the surface: the channels of each tap's texel. -/
def mmasRow (s : State) (c : WCtx) (f : Surf) (x p i : Nat) : List (BitVec 64) :=
  let a := (c.g.s x).toNat
  let o := (c.g.s (x + 1)).toNat
  let q := f.b
  (List.range (mxTaps c.g.ty)).flatMap fun t =>
    match tapTexel f (bits o 15 0 + 8 * (p / (shapeOf c.g).q) + i) (bits o 31 16) (tapOf c x t) with
    | some (u, v) =>
      let off := texelOff f u v (bits o 43 32) (bits o 47 44)
      let bs := (List.range q).map fun k => ownSurfByte s c.g (saHandle a) (off + k)
      (List.range 4).map fun ch => BitVec.ofNat 64 (fieldAt bs (ch * (q / 4)) (q / 4))
    | none => List.replicate 4 0

/-- Places that the taps of every issued tile touch. -/
def mmasPlaces (c : WCtx) (f : Surf) (x : Nat) : List Loc :=
  let a := (c.g.s x).toNat
  let o := (c.g.s (x + 1)).toNat
  let h := shapeOf c.g
  (List.range (c.w / (8 * h.q))).flatMap fun τ => (List.range 8).flatMap fun i =>
    if c.eff.getLsbD (8 * (τ * h.q) + i) then
      (List.range (mxTaps c.g.ty)).filterMap fun t =>
        (tapTexel f (bits o 15 0 + 8 * τ + i) (bits o 31 16) (tapOf c x t)).map fun uv =>
          ⟨.surf (saHandle a) false, texelOff f uv.1 uv.2 (bits o 43 32) (bits o 47 44)⟩
    else []

/-- R304, R306, `mmas`. -/
def execMmas (d x h : BitVec 7) (s : State) : Out :=
  runLong s fun c s => do
    let sh := shapeOf c.g
    if c.g.ty ≠ tBF16 ∧ c.g.ty ≠ tE4M3 then illegal 3 0 c.low
    else
      mxAdmit c sh
      mmasRows c sh d.toNat
      mxSlotCheck s c sh h.toNat
      let f ← mmasSurf s c x.toNat
      harvestBar c c.g.inRegion
      roomFor c 3
      let ls := mmasPlaces c f x.toNat
      let hd := saHandle (c.g.s x.toNat).toNat
      let s ← touchSurf s 0 (ls.map fun l => (c.low, [l]))
      let (s, word) := newId s
      let s ← enterTiles s c sh d.toNat h.toNat word (fun p i => if c.eff.getLsbD (8 * p + i) then mmasRow s c f x.toNat p i else [])
        (fun _ => 0) ((ls.map fun l => (hd, l.addr / f.bt)).eraseDups)
      pure (s, blankPending word c.sp.pc)

/-! ### Passes (R313 to R317) -/

def Mx.setTile (m : Mx) (id : Nat) (f : MTile → MTile) : Mx := { m with tiles := m.tiles.map fun t => if t.id == id then f t else t }

/-- Whether an entry may take part in a pass. -/
def eligible (m : Mx) (t : MTile) : Bool :=
  !t.granted && !t.dropped && t.chain.isNone && m.bound t.ctx && (match slotOf m t.ctx t.handle with
    | some w => w.st == .loaded || w.st == .releasingOk
    | none => false)

/-- Rank of an entry: an aged one before all, then its class, then its age. -/
def rankOf (t : MTile) : Nat := if t.aged then 0 else t.cls + 1
def bestTile : List MTile → Option MTile
  | [] => none
  | t :: ts => match bestTile ts with
    | some u => if rankOf u < rankOf t ∨ (rankOf u = rankOf t ∧ u.id < t.id) then some u else some t
    | none => some t

/-- The leader's partners: the oldest seven that share its context, handle, format and N, and issued within 3 cycles. -/
def partners (m : Mx) (l : MTile) : List MTile :=
  (m.tiles.filter fun t => eligible m t && t.id != l.id && t.ctx == l.ctx && t.handle == l.handle && t.fmt == l.fmt && t.n == l.n
    && decide (t.issued ≤ l.issued + 3) && decide (l.issued ≤ t.issued + 3)).take 7

/-- Units that a pass charges (R315). -/
def passUnits (ts : List MTile) : Nat := ts.foldl (fun a t => a + t.n / 32 * (if t.f64 then 4 else 1)) 0

/-- A granted tile holds its result; its chained successors go on from it (R305). -/
def grantTile (s : State) (cl : Nat) (t : MTile) : State :=
  match slotOf (mxOf s cl) t.ctx t.handle with
  | none => s
  | some w =>
    let r := tileResult t w
    let s := setMx s cl fun m => (m.setTile t.id fun u => { u with granted := true, accIn := r }).relink t.id r none
    later s (.matrixTileWriteback cl t.id)

/-- Entries note from which cycle they have been eligible; an unbound context whose entry is the oldest of its class
asks for a bank (R313, R316). -/
def noteEligible (s : State) (cl : Nat) : State :=
  let now := mxNow s cl
  let s := setMx s cl fun m => { m with tiles := m.tiles.map fun t =>
    { t with since := if eligible m t then (if t.since.isSome then t.since else some now) else none } }
  let m := mxOf s cl
  let waiting := m.tiles.filter fun t => !t.granted && !t.dropped
  let heads := (waiting.filter fun t => waiting.all fun u => u.cls != t.cls || decide (t.id ≤ u.id)).filter fun t => !m.bound t.ctx
  let s := heads.foldl (fun s t => wantBank s cl t.ctx) s
  let old := m.tiles.filter fun t => !t.aged && (match t.since with
    | some b => decide (b + 4096 ≤ now)
    | none => false)
  laterAll s (old.map fun t => .reservationAging cl t.id)

/-- A cycle in which a leader waits for budget: every cycle since the last one counted, unless the leader that
waited then is gone (R315). -/
def countStall (m : Mx) (leader now : Nat) : Mx :=
  let n := match m.held with
    | some (id, c) => if m.tiles.any (·.id == id) then now - c else 1
    | none => 1
  { m with stall := min (2 ^ 32 - 1) (m.stall + n), held := some (leader, now) }

/-- R313, MATRIX_PASS_GRANT: the arbiter's choice of this cycle, when it may start and the governor allows it. -/
def execMatrixPassGrant (cl : Nat) (s : State) : Out :=
  let s := noteEligible s cl
  let m := mxOf s cl
  match bestTile (m.tiles.filter (eligible m)) with
  | none => .next s
  | some l =>
    let ps := partners m l
    if mxNow s cl < l.issued + 3 ∧ ps.length < 7 then .next s
    else
      let u := passUnits (l :: ps)
      if m.budget < m.used + u ∧ l.cls ≠ 0 then
        .next (setMx s cl fun m => countStall m l.id (mxNow s cl))
      else
        let s := (l :: ps).foldl (fun s t => grantTile s cl t) s
        .next (setMx s cl fun m =>
          ({ m with held := none, used := m.used + u, passes := min (2 ^ 32 - 1) (m.passes + 1),
                    banks := m.banks.map fun b => if b.2.1 = l.ctx then (b.1, b.2.1, mxNow s cl) else b } : Mx).sweep)

/-- R313, RESERVATION_AGING: eligible for 4,096 cycles without a grant. -/
def execReservationAging (cl id : Nat) (s : State) : Out :=
  let now := mxNow s cl
  .next (setMx s cl fun m => m.setTile id fun t =>
    if eligible m t && (match t.since with
      | some b => decide (b + 4096 ≤ now)
      | none => false) then { t with aged := true } else t)

/-- Whether a tile must wait with its write-back: for its pass, or for an earlier link of its chain (R305). -/
def tileWaits (m : Mx) (t : MTile) : Bool :=
  !t.granted || (m.tiles.any fun u => decide (u.id < t.id) && u.word != t.word && overlaps t u && !t.dropped)

/-- R304, MATRIX_TILE_WRITEBACK: granted tiles' accumulators; all of a word's tiles are written back together, so that no read
meets a row of which a part is written (R58), the links of a chain in their order (R305). -/
def execMatrixTileWriteback (cl id : Nat) (s : State) : Out :=
  let m := mxOf s cl
  match m.tiles.find? fun t => t.id == id with
  | none => .next s
  | some t =>
    if (wordTiles m t.word).any (tileWaits m) then .next s
    else
      let s := landWord s cl t.word
      .next (laterAll s (((mxOf s cl).tiles.filter fun u => u.granted && (wordTiles m t.word).any (overlaps · u)).map fun u =>
        .matrixTileWriteback cl u.id))

/-- R315, GOVERNOR_WINDOW: a new window of 1,024 cycles begins. -/
def execGovernorWindow (cl : Nat) (s : State) : Out :=
  let now := mxNow s cl
  .next (if (mxOf s cl).clock + 1024 ≤ now then setMx s cl fun m => { m with used := 0, clock := now / 1024 * 1024 } else s)

/-- R315, GOVERNOR_BUDGET_CHANGE: the supervisor writes BUDGET. -/
def execGovernorBudgetChange (cl : Nat) (budget : BitVec 16) (s : State) : Out :=
  .next (if cl < 22 then thermalRec (setMx s cl fun m => { m with budget := budget.toNat }) (0x100 + cl) 4 budget.toNat (2 ^ 64 - 1) cl else s)

/-! ### `mbld` and `mbrel` (R308, R311, R312) -/

/-- R311: the place of the image in scratchpad, or the exact check of a global source's first page. -/
def mbldSource (s : State) (c : WCtx) (g : Nat) (src ext : Nat) : Try Nat :=
  if g = 1 then (padExtent s c 1 (src % 2 ^ 32) ext 0).map (·.addr)
  else do
    let _ ← uniform s c 0 src 1 0
    pure src

/-- R311. -/
def execMbld (d : BitVec 7) (_x : BitVec 3) (g : BitVec 2) (h : BitVec 7) (s : State) : Out :=
  runWord s fun c s => do
    let cl := c.g.core / 4
    let src := (c.g.s d.toNat).toNat
    let k := (c.g.s (d.toNat + 1)).toNat
    let f := bits k 4 0
    let comp := bit k 5
    harvestBar c false
    if bits k 63 6 ≠ 0 ∨ !([0x09, 0x0A, 0x0B, 0x0C, 0x0D, 0x0E, 0x0F].contains f) then illegal 1 k c.low
    else if src % 128 ≠ 0 then illegal 2 src c.low
    else
      let addr ← mbldSource s c g.toNat src (slotExtent f comp)
      let s ← unbuffered s c 0 g.toNat
      let m := mxOf s cl
      let need := slotNeed f comp
      let old := slotOf m c.g.ctx h.toNat
      let say := fun (s : State) v => writeS s c (d.toNat + 2) v
      let held := match old with
        | some w => if w.st = .loaded ∧ !m.refs c.g.ctx h.toNat then some w.units else none
        | none => some 0
      match held with
      | none => pure (say s 2)
      | some u =>
        if m.free + u < need then pure (say s 1)
        else do
          roomFor c 3
          let s := releaseAct s c.key c.g.core 5 (pairedOf s c.g)
          let (s, op) := newId s
          let ld : WLoad := { addr, inSp := g == 1, comp, key := c.key, op, core := c.g.core, who := whoOf s c.g 0 }
          let w : WSlot := { ctx := c.g.ctx, handle := h.toNat, st := .loading, fmt := f, units := need, elems := [], scales := [], stored := 0,
                             load := some ld, pc := c.sp.pc }
          let s := setMx s cl fun m =>
            let m := m.dropSlot c.g.ctx h.toNat
            { m with slots := m.slots ++ [w], free := m.free - need }
          let s := updG s c.key fun g => g.startOp 3 op
          pure (say (later s (.mbldReadEnd cl c.g.ctx h.toNat)) 0)

/-- R312. -/
def execMbrel (h : BitVec 7) (s : State) : Out :=
  runWord s fun c s => do
    harvestBar c false
    let s := loseIdem s c.key
    pure (setMx s (c.g.core / 4) fun m =>
      (m.setSlot c.g.ctx h.toNat fun w =>
        if w.st = .loading then { w with st := .releasing } else if w.st = .loaded then { w with st := .releasingOk } else w).sweep)

/-- Bytes of an image, from scratchpad or through the engine's translations; with what is bad in them. -/
def imgRead (s : State) (cl ctx : Nat) (ld : WLoad) (o n : Nat) : EngRes :=
  if ld.inSp then .ok ((⟨.core ld.core, ld.addr + o⟩ : Loc).span n)
  else match engCheck s (engMx cl) ctx ld.op 1 ((List.range n).map fun i => ld.addr + o + i) with
    | .fault c i good => .fault c (o + i) good
    | r => r

/-- A compressed image's groups from offset `o`: the places read and the elements (R309). -/
def imgGroups (s : State) (cl ctx : Nat) (ld : WLoad) (w : Nat) : Nat → Nat → EngRes ⊕ (Nat × List Loc × List (BitVec 64))
  | 0, o => .inr (o, [], [])
  | n + 1, o =>
    match imgRead s cl ctx ld o 8 with
    | .ok bl =>
      let map := leNat (readHome s bl)
      let nz := ((List.range 64).filter (bit map)).length
      let len := alignUp ((nz * w + 7) / 8) 8
      match imgRead s cl ctx ld (o + 8) len with
      | .ok ls =>
        let v := leNat (readHome s ls)
        let es := (List.range 64).map fun j =>
          if bit map j then BitVec.ofNat 64 (elemAt w v ((List.range j).filter (bit map)).length) else 0
        match imgGroups s cl ctx ld w n (o + 8 + len) with
        | .inr (e, ls', es') => .inr (e, bl ++ ls ++ ls', es ++ es')
        | r => r
      | r => .inl r
    | r => .inl r

/-- The whole image: its places, elements, scales and stored bytes, or what stops the read. -/
def imgAll (s : State) (cl ctx f : Nat) (ld : WLoad) : EngRes ⊕ (List Loc × List (BitVec 64) × List (BitVec 8) × Nat) :=
  let w := if f = tQ4 then 4 else tWidth f
  let body : EngRes ⊕ (Nat × List Loc × List (BitVec 64)) :=
    if ld.comp then imgGroups s cl ctx ld w (2 * mxK f) 0
    else match imgRead s cl ctx ld 0 (denseBytes f) with
      | .ok ls =>
        let v := leNat (readHome s ls)
        .inr (denseBytes f, ls, (List.range (128 * mxK f)).map fun e => BitVec.ofNat 64 (elemAt w v e))
      | r => .inl r
  match body with
  | .inl r => .inl r
  | .inr (o, ls, es) =>
    if f = tQ4 then
      match imgRead s cl ctx ld o 128 with
      | .ok sl => .inr (ls ++ sl, es, readHome s sl, o + 128)
      | r => .inl r
    else .inr (ls, es, [], o)

/-- R308: an image read ended by a fault: units free, waiting tiles end, its record. -/
def imgFail (s : State) (cl : Nat) (w : WSlot) (ld : WLoad) (cls addr : Nat) : State :=
  let s := clearXfaults s (engMx cl) ld.op
  let s := setMx s cl fun m => (m.setSlot w.ctx w.handle fun x => { x with load := none, st := .releasingBad })
  let s := failTiles cl w.ctx w.handle 65 s
  let s := setMx s cl fun m => m.dropSlot w.ctx w.handle
  failOp s w.ctx ld.key ld.op ld.who cls 0 (0x0200 + cl) addr w.pc ld.addr 0

/-- R308: an image read that ended normally. -/
def imgDone (s : State) (cl : Nat) (w : WSlot) (ld : WLoad) (es : List (BitVec 64)) (sc : List (BitVec 8)) (stored : Nat) : State :=
  let s := clearXfaults s (engMx cl) ld.op
  let n := (stored + 127) / 128
  let s := setMx s cl fun m =>
    ({ (m.setSlot w.ctx w.handle fun x =>
        { x with load := none, st := if x.st = .loading then .loaded else .releasingOk, elems := es, scales := sc, units := n, stored })
       with free := m.free + (w.units - n) } : Mx).sweep
  later (finishOp s ld.key ld.op none) (.matrixPassGrant cl)

/-- R308, R311, MBLD_READ_END: the image is read as an engine reads, line by line through the home slices (R91, R97, R231). -/
def execMbldReadEnd (cl ctx handle : Nat) (s : State) : Out :=
  match slotOf (mxOf s cl) ctx handle with
  | none => .next s
  | some w => match w.load with
    | none => .next s
    | some ld => match imgAll s cl ctx w.fmt ld with
      | .inl (.wait ps) => .next (engAsk s (engMx cl) ctx ld.op ps)
      | .inl (.fault c i _) => .next (imgFail s cl w ld c ((ld.addr + i) % 2 ^ 64 / 4096 * 4096))
      | .inl (.lost dev _) => .next (imgFail s cl w ld 0 dev)
      | .inl _ => .next s
      | .inr (ls, es, sc, n) =>
        let t := touchPlaces (if ld.inSp then s else countLines s (unitSource s (engMx cl)) false ls) ctx ls
        match poisonedAt t ls with
        | [] => .next (imgDone t cl w ld es sc n)
        | i :: _ =>
          let l := ls.getD i ⟨.log, 0⟩
          .next (imgFail t cl w ld (if failsCheck s l then 0x0D else 0x0E) l.addr)

end Sys2Proof.Machine
end

