-- ==== Sys2Proof/Machine/ImageRead.lean ====
section
/-! DEFINITION. Bilsum images as admission and draws read them (R73 to R76): the header, the clauses of .text, and the
.live, .handlers and REGIONS tables. -/
namespace Sys2Proof.Machine

/-- Little-endian words of 32 bits. -/
def wordsOf : List (BitVec 8) → List (BitVec 32)
  | a :: b :: c :: d :: bs => (d ++ c ++ b ++ a) :: wordsOf bs
  | _ => []

/-- The clause headers of .text with their kinds: `left` words of the clause in hand are still to come. The flag says
that the last clause ends where .text does (R52, R74). -/
def clauseHeads : List (BitVec 32) → Nat → Nat → List (Nat × Nat) × Bool
  | [], _, left => ([], left == 0)
  | w :: ws, o, 0 =>
    let (hs, ok) := clauseHeads ws (o + 1) (bits w.toNat 27 24 + 1)
    ((o, headerKind w) :: hs, ok)
  | _ :: ws, o, left + 1 => clauseHeads ws (o + 1) left

/-- A section's offset and size. -/
abbrev Sect : Type := Nat × Nat

/-- What a header of 88 bytes gives: the image's fields, the four sections and the number of regions. -/
structure Header where
  img : Image
  text : Sect
  live : Sect
  hand : Sect
  cons : Sect
  regions : Nat
deriving DecidableEq, Repr

def viewOf (h : List (BitVec 8)) (i : Nat) : BitVec 64 :=
  BitVec.ofNat 64 (fieldAt h (0x14 + 8 * i) 4 + fieldAt h (0x18 + 8 * i) 2 * 2 ^ 32 + fieldAt h (0x1A + 8 * i) 2 * 2 ^ 48)

def sectOf (h : List (BitVec 8)) (i : Nat) : Sect := (fieldAt h (0x34 + 8 * i) 4, fieldAt h (0x38 + 8 * i) 4)

/-- The fields of a header (R73). -/
def parseHeader (h : List (BitVec 8)) : Header :=
  let flags := fieldAt h 6 2
  { img := { width := fieldAt h 8 1, groups := fieldAt h 9 1, divdepth := fieldAt h 0xA 1, regBytes := fieldAt h 0xC 4, scratch := fieldAt h 0x10 4,
             paired := bit flags 0, coop := bit flags 1, views := (List.range 4).map (viewOf h), text := 0, words := (sectOf h 0).2 / 4,
             live := [], consts := (sectOf h 3).1, constSize := (sectOf h 3).2 },
    text := sectOf h 0, live := sectOf h 1, hand := sectOf h 2, cons := sectOf h 3, regions := fieldAt h 0x54 2 }

/-- Whether sections follow one another from an offset, each aligned to 128 bytes. -/
def sectsOk : Nat → List Sect → Bool
  | _, [] => true
  | p, (o, n) :: xs => o % 128 == 0 && decide (p ≤ o) && sectsOk (o + n) xs

/-- R73 and R74 for the header's own fields. -/
def headerOk (h : List (BitVec 8)) : Bool :=
  let k := parseHeader h
  let i := k.img
  fieldAt h 0 4 == 0x4D534C42 && fieldAt h 4 2 == 1 && fieldAt h 6 2 / 4 == 0 && (i.width == 16 || i.width == 32 || i.width == 64)
    && decide (1 ≤ i.groups) && decide (i.groups ≤ (if i.paired then 64 else 32)) && decide (1 ≤ i.divdepth) && decide (i.divdepth ≤ 16)
    && fieldAt h 0xB 1 == 0 && i.regBytes % 2048 == 0 && decide (i.regBytes ≤ 2 ^ 20) && decide (i.scratch ≤ 2 ^ 19)
    && ((List.range 4).all fun v => viewLegal i.width i.regBytes v (viewOf h v)) && fieldAt h 0x56 2 == 0
    && sectsOk (0x58 + 8 * k.regions) [k.text, k.live, k.hand, k.cons]
    && decide (0 < k.text.2) && k.text.2 % 4 == 0 && decide (k.text.2 ≤ 2 ^ 24) && k.hand.2 % 8 == 0

/-- Entries of `n` bytes each in a table. -/
def chunks (n : Nat) (bs : List (BitVec 8)) : List (List (BitVec 8)) :=
  (List.range (bs.length / n)).map fun i => (bs.drop (n * i)).take n

/-- .live (R75): entries, then the offsets of every clause. -/
def parseLive (n : Nat) (bs : List (BitVec 8)) : List (Nat × BitVec 64) :=
  (List.range n).map fun i => (fieldAt bs (8 * n + 4 * i) 4, BitVec.ofNat 64 (fieldAt bs (8 * i) 8))

/-- R76 for .handlers: kind and index agree, the header's kind is the entry's, no index stands twice. -/
def handlersOk (heads : List (Nat × Nat)) (bs : List (BitVec 8)) : Bool :=
  let es := (chunks 8 bs).map fun e => (fieldAt e 0 2, fieldAt e 2 2, fieldAt e 4 4)
  (es.all fun e => ((e.2.1 == 4 && decide (e.1 ≤ 255)) || (e.2.1 == 5 && e.1 == 0xFFFF)) && heads.contains (e.2.2, e.2.1))
    && decide (((es.map (·.1)).eraseDups).length = es.length)

/-- R76 for REGIONS: an entry of KIND 1 and a later exit of KIND 2 each, no two overlapping. -/
def regionsOk (heads : List (Nat × Nat)) (bs : List (BitVec 8)) : Bool :=
  let rs := (chunks 8 bs).map fun e => (fieldAt e 0 4, fieldAt e 4 4)
  (rs.all fun r => heads.contains (r.1, 1) && heads.contains (r.2, 2) && decide (r.1 < r.2))
    && (rs.zipIdx.all fun a => rs.zipIdx.all fun b => a.2 == b.2 || decide (a.1.2 < b.1.1) || decide (b.1.2 < a.1.1))

/-- Reads one after another that may stop: each changes the state as a read does (R85, R115). -/
abbrev Reads (ε : Type) : Type → Type := ExceptT ε (StateM State)

/-- Read an image through `rd`, which gives the bytes at an address or what stops it; `none` for a malformed one (R76). -/
def readImage {ε : Type} (rd : Nat → Nat → Reads ε (List (BitVec 8))) (va : Nat) : Reads ε (Option Image) := do
  let h ← rd va 88
  if !headerOk h then pure none
  else
    let k := parseHeader h
    let regs ← rd (va + 88) (8 * k.regions)
    let text ← rd (va + k.text.1) k.text.2
    let live ← rd (va + k.live.1) k.live.2
    let hand ← rd (va + k.hand.1) k.hand.2
    let (heads, ends) := clauseHeads (wordsOf text) 0 0
    let n := heads.length
    let lv := parseLive n live
    if ends && k.live.2 == 12 * n && lv.map (·.1) == heads.map (·.1) && handlersOk heads hand && regionsOk heads regs then
      pure (some { k.img with text := (va + k.text.1) % 2 ^ 64, live := lv })
    else pure none

/-- Bytes at a virtual address as an engine reads them; a sector that is poisoned, or whose check value fails, is never
delivered (R99, R438). A fault comes with its address: the page, or the sector. -/
def engBytes (eng ctx key va n : Nat) : Reads EngRes (List (BitVec 8)) := fun (s : State) =>
  match engCheck s eng ctx key 1 ((List.range n).map (va + ·)) with
  | .ok ls =>
    let (s, b, bad) := engRead s eng ctx ls
    (match bad with
      | [] => .ok b
      | i :: _ => .error (.fault 0x0E (sectorAddr s (ls.getD i ⟨.log, 0⟩)) []), s)
  | .fault c i good => (.error (.fault c ((va + i) % 2 ^ 64 / 4096 * 4096) good), s)
  | r => (.error r, s)

end Sys2Proof.Machine
end

