-- ==== Sys2Proof/Machine/Start.lean ====
section
/-! DEFINITION. Starting groups (R168, R209, R349, R358, R382): the state and the segment registers they begin with. -/
namespace Sys2Proof.Machine

/-- A group as R382 starts it, on a core, a group slot and an issue slot; its one split stands at the first header. -/
def freshGroup (s : State) (ctx launch team gid : Nat) (kind : GroupKind) (harvest : Bool) (img : Image) (core slot isl : Nat) : Group where
  ctx := ctx
  launch := launch
  team := team
  gid := gid
  kind := kind
  harvest := harvest
  width := img.width
  regBytes := img.regBytes
  divdepth := img.divdepth
  core := core
  slot := slot
  islot := isl
  placed := s.time
  reloc := 0
  regs := []
  tags := []
  sregs := []
  preds := []
  views := (img.views.zipIdx.map fun v => (v.2, v.1)).filter fun v => v.2 != 0
  gm := gmReset
  srg := 0x6A09_E667
  segs := []
  mb := []
  tumblers := []
  ops := []
  splits := [(0, newSplit 0 (allLanes img.width) none none)]
  tokens := []
  inRegion := false
  lost := false
  checkpoint := none
  buf := []
  pending := []
  waits := []
  susp := none
  park := .none
  want := none
  trapMask := none
  never := []
  killed := false
  passed := 0
  losses := []
  marks := []
  lastIssue := s.time
  deadline := 0
  xyz := (0, 0, 0)
  quads := []

/-- The parts of R209 that no launch changes: gl, sf, sv and mb. -/
def baseSegs (c : Ctx) (mbWr : Bool) : List (Nat × Seg) :=
  [(0, ⟨0, 0, true, true, true⟩), (3, ⟨0, 0, true, true, true⟩),
   (6, ⟨BitVec.ofNat 64 c.saveBase, BitVec.ofNat 45 (0x60_0000 + c.nslot * c.slotSize), c.priv, c.priv, false⟩),
   (7, ⟨0, 256, true, mbWr, false⟩)]

/-- R209 for a group of a team on one of its cores. -/
def teamSegs (c : Ctx) (l : Launch) (t : Team) (gid core : Nat) : Tab Seg :=
  let own := if core = t.core then t.sp0 else t.sp1
  let other := if core = t.core then t.sp1 else t.sp0
  let pv := l.pvBase + (t.tid * l.img.groups + gid) * l.pvLane * l.img.width
  let k := BitVec.ofNat 45 t.scratch
  (baseSegs c true).foldl (fun a e => Tab.put a e.1 e.2)
    [(1, ⟨BitVec.ofNat 64 own, k, true, true, false⟩),
     (2, ⟨BitVec.ofNat 64 other, if t.paired then k else 0, true, true, false⟩),
     (4, ⟨BitVec.ofNat 64 l.consts, BitVec.ofNat 45 l.constLen, true, false, false⟩),
     (5, ⟨BitVec.ofNat 64 pv, BitVec.ofNat 45 l.pvLane, true, true, false⟩)]

/-- Segment registers of a group that belongs to no team: sp, pe and pv have limit 0 (R168). -/
def looseSegs (c : Ctx) (consts constLen : Nat) (mbWr : Bool) : Tab Seg :=
  (baseSegs c mbWr).foldl (fun a e => Tab.put a e.1 e.2)
    [(1, ⟨0, 0, true, true, false⟩), (2, ⟨0, 0, true, true, false⟩),
     (4, ⟨BitVec.ofNat 64 consts, BitVec.ofNat 45 constLen, true, false, false⟩), (5, ⟨0, 0, true, true, false⟩)]

/-- A class-0 owner or handler group's coming asks the core's harvest teams to stop (R422; handler groups are bound as owner groups, R416). -/
def claimCore (s : State) (c : Ctx) (harvest : Bool) (core : Nat) : State :=
  if c.prio = 0 ∧ !harvest ∧ (s.teams.any fun t => t.2.harvest && t.2.resident && t.2.core == core) then
    later s (.harvestRevocation core 2 0)
  else s

/-- Write bytes into a row register from lane 0, four a lane (R168, R358). -/
def rowWords (bs : List (BitVec 8)) : List (BitVec 32) :=
  (List.range ((bs.length + 3) / 4)).map fun i => BitVec.ofNat 32 (fieldAt bs (4 * i) 4)

end Sys2Proof.Machine
end

