-- ==== Sys2Proof/Machine/Distribute.lean ====
section
/-! DEFINITION. The launch distributor's choices (R383, R414 to R416, R420, R421): which core a team fits, and the start
of a team's groups there. -/
namespace Sys2Proof.Machine

/-- Whether a context's work may be placed: bound, switched in, not being switched out (R445). -/
def ctxOn (s : State) (cid : Nat) : Bool :=
  match Tab.find s.ctxs cid with
  | some c => c.inNow && !c.leaving
  | none => false

/-! ### Room (R415) -/

/-- Groups of a team on its core, and on the odd core of a pair (R383). -/
def Image.split (i : Image) : Nat × Nat := if i.paired then ((i.groups + 1) / 2, i.groups / 2) else (i.groups, 0)

/-- Whether a cluster has gone an hour without an ageing measurement (R462). -/
def unmeasured (s : State) (core : Nat) : Bool :=
  decide ((clusterInfo s (core / 4)).measured + 3_600_000_000_000 ≤ s.time)

/-- Whether one core has the slots, register bytes and scratchpad for `n` groups of an image. -/
def coreFits (s : State) (i : Image) (cls n core : Nat) : Bool :=
  !(coreInfo s core).hot && !unmeasured s core && !(cls == 1 && classZero s core) && decide (n ≤ (freeSlots s core cls).length)
    && decide (n * i.regBytes ≤ regsFree s core cls) && (i.scratch == 0 || (padHole s core i.scratch).isSome)

/-- Whether a team fits a core, or the pair it begins. -/
def teamFits (s : State) (i : Image) (cls core : Nat) : Bool :=
  coreFits s i cls i.split.1 core && (!i.paired || (core % 2 == 0 && coreFits s i cls i.split.2 (core + 1)))

/-- The figures of R415 for a fit: register bytes and scratchpad free on the worse core. -/
def fitRoom (s : State) (i : Image) (cls core : Nat) : Nat × Nat :=
  let m := fun (f : Nat → Nat) => if i.paired then min (f core) (f (core + 1)) else f core
  (m fun c => regsFree s c cls, m (padFree s))

/-- Whether fit `a` comes before fit `b` (R415); of cores alike in room `cool` is the coolest, then the lower number. -/
def fitBefore (s : State) (i : Image) (cls cool a b : Nat) : Bool :=
  let x := fitRoom s i cls a
  let y := fitRoom s i cls b
  if x.1 ≠ y.1 then decide (y.1 < x.1) else if x.2 ≠ y.2 then decide (y.2 < x.2)
  else if b = cool then false else a == cool || decide (a < b)

/-- The groups, register bytes and scratchpad that other cooperative launches have reserved on a core (R414). -/
def reservedOn (s : State) (lk core : Nat) : Nat × Nat × Nat :=
  (s.launches.filter fun e => e.1 != lk).foldl (fun a e =>
    let i := e.2.img
    e.2.room.foldl (fun a c =>
      let n := if c = core then i.split.1 else i.split.2
      if c = core ∨ (i.paired ∧ c + 1 = core) then (a.1 + n, a.2.1 + n * i.regBytes, a.2.2 + i.scratch) else a) a) (0, 0, 0)

/-- Whether `n` groups of an image and their scratchpad leave a core the room that is reserved there. -/
def leavesRoom (s : State) (lk : Nat) (i : Image) (cls n core : Nat) : Bool :=
  let r := reservedOn s lk core
  (cls != 0 || (decide (n + r.1 ≤ (freeSlots s core 0).length) && decide (n * i.regBytes + r.2.1 ≤ regsFree s core 0)))
    && (i.scratch == 0 || decide (i.scratch + r.2.2 ≤ padFree s core))

/-- The core that R415 chooses for a team of a launch; `cool` is the coolest core by the thermal map. -/
def chooseCore (s : State) (lk : Nat) (i : Image) (harvest : Bool) (cool : Nat) : Option Nat :=
  let cls := if harvest then 1 else 0
  let ok := (List.range 88).filter fun c => teamFits s i cls c && leavesRoom s lk i cls i.split.1 c && (!i.paired || leavesRoom s lk i cls i.split.2 (c + 1))
  ok.foldl (fun b c => match b with
    | none => some c
    | some d => if fitBefore s i cls cool c d then some c else some d) none

/-! ### Starting a team (R206, R209, R382, R383, R416) -/

/-- Scratchpad bytes of a core read as zero. -/
def zeroPad (s : State) (core base n : Nat) : State :=
  { s with scratch := s.scratch.filter fun e => !(decide (2 ^ 19 * core + base ≤ e.1) && decide (e.1 < 2 ^ 19 * core + base + n)) }

/-- Start the groups of a team from `gid` up, each in the lowest free slot of its core. -/
def startGroups (c : Ctx) (lk : Nat) (l : Launch) (tk : Nat) (t : Team) (init : Nat → Group → Group) : Nat → Nat → State → State
  | 0, _, s => s
  | n + 1, gid, s =>
    let core := if t.paired ∧ l.img.split.1 ≤ gid then t.core + 1 else t.core
    let (s, key) := newId s
    let slot := (freeSlots s core (if t.harvest then 1 else 0)).headD 0
    let g := freshGroup s l.ctx lk tk gid l.kind t.harvest l.img core slot (issueSlot s core t.harvest)
    let g := { g with segs := teamSegs c l t gid core, xyz := (t.tid % l.x, t.tid / l.x % l.y, t.tid / (l.x * l.y)) }
    startGroups c lk l tk t init n (gid + 1) { s with groups := Tab.put s.groups key (init gid g) }

/-- A team of a launch starts on a core. -/
def startTeam (s : State) (lk : Nat) (l : Launch) (tid core : Nat) (init : Nat → Group → Group) : State :=
  match Tab.find s.ctxs l.ctx with
  | none => s
  | some c =>
    let harvest := c.harvest && l.kind == .ordinary
    let i := l.img
    let (s, tk) := newId s
    let b0 := (padHole s core i.scratch).getD 0
    let b1 := if i.paired then (padHole s (core + 1) i.scratch).getD 0 else 0
    let t : Team := { launch := lk, tid, core, sp0 := b0, sp1 := b1, scratch := i.scratch, paired := i.paired, harvest, placed := s.time,
                      started := s.time, resident := true, slot := 0, restart := false, stopped := false, needLent := false, saving := false, moving := false, draining := none,
                      live := i.groups }
    let s := zeroPad s core b0 i.scratch
    let s := if i.paired then zeroPad s (core + 1) b1 i.scratch else s
    let s : State := { s with teams := Tab.put s.teams tk t }
    let s := startGroups c lk l tk t init i.groups 0 s
    let s := claimCore s c harvest core
    if i.paired then claimCore s c harvest (core + 1) else s

end Sys2Proof.Machine
end

