-- ==== Sys2Proof/Machine/QueueCore.lean ====
section
/-! DEFINITION. Host queues as the queue manager's steps change them (R406 to R413): queues, started commands, commit,
errors and the active set. -/
namespace Sys2Proof.Machine

def queueOf (s : State) (q : Nat) : Option Queue := Tab.find s.queues q
def setQ (s : State) (q : Nat) (f : Queue → Queue) : State := { s with queues := Tab.modify s.queues q f }
def setCmdOf (s : State) (q idx : Nat) (f : Cmd → Cmd) : State :=
  setQ s q fun x => { x with started := x.started.map fun c => if c.idx == idx then f c else c }

/-- Whether a queue may start commands (R405, R407, R411, R413). -/
def queueRuns (s : State) (x : Queue) : Bool := bit s.hb.qtable.toNat 0 && x.on && x.err == 0 && !x.stopping && x.active

/-- A command that has been read and whose start condition has not been met has not started (R411): it stands in the ring again. -/
def Queue.unread (x : Queue) : Queue :=
  match x.started.find? fun c => !c.begun with
  | some c => { x with started := x.started.filter fun c => c.begun, nextCmd := c.idx }
  | none => x
/-- A queue starts nothing more for now: what it has read and not started is put back, a draw that no front end has accepted goes. -/
def putBack (s : State) (q : Nat) : State :=
  let s := setQ s q Queue.unread
  { s with raster := { s.raster with draws := s.raster.draws.filter fun d => d.accepted || !(d.queue.any fun x => x.1 == q) } }

/-- A started command, as the event that runs it finds it. -/
def startedCmd (s : State) (q idx : Nat) : Option Cmd :=
  match queueOf s q with
  | some x => x.started.find? fun c => c.idx == idx
  | none => none

/-- A command's start condition has been met: the next of its queue may start (R411). -/
def beginCmd (s : State) (q idx : Nat) : State := later (setCmdOf s q idx fun c => { c with begun := true }) .commandStart

/-- The key of a queue's accesses in the queue manager's cache. -/
def queueKey (q : Nat) : Nat := 16 + q

/-- A command's event stands first in the agenda, for one command. -/
def runCmd (s : State) (q idx : Nat) (e : Instr) : State := { s with qcur := (q, idx) :: s.qcur, agenda := e :: s.agenda }

/-- The command that the event in hand runs, taken from the head of the list. -/
def curCmd (s : State) : Option (State × Nat × Nat × Queue × Cmd) :=
  match s.qcur with
  | [] => none
  | (q, idx) :: rest => match queueOf s q, startedCmd s q idx with
    | some x, some c => if c.ran then none else some ({ s with qcur := rest }, q, idx, x, c)
    | _, _ => none

/-- The list without its head, for an event that finds nothing to do. -/
def skipCmd (s : State) : State := { s with qcur := s.qcur.drop 1 }

/-- One command's event: `body` on the command in hand. -/
def runQueueCmd (s : State) (body : State → Nat → Nat → Queue → Cmd → State) : Out :=
  match curCmd s with
  | none => .next (skipCmd s)
  | some (s, q, i, x, c) => .next (body s q i x c)

/-- A command's effect has been made: COMMAND_COMPLETE follows (R409). -/
def cmdDone (s : State) (q idx : Nat) : State :=
  later (clearXfaults (setCmdOf s q idx fun c => { c with ran := true, begun := true }) engQm (queueKey q)) (.commandComplete q idx)

/-! ### Operands (R411) -/

def Cmd.op (c : Cmd) : Nat := fieldAt c.bytes 0 1
def Cmd.a (c : Cmd) : Nat := fieldAt c.bytes 8 8
def Cmd.b (c : Cmd) : Nat := fieldAt c.bytes 0x10 8

/-- The first reserved byte of a command and the alignments of its operands. -/
def cmdShape : Nat → Option (Nat × List (Nat × Nat))
  | 1 => some (0x2E, [(0x20, 128)])
  | 2 => some (0x10, [(8, 64)])
  | 3 => some (0x18, [(8, 64)])
  | 4 => some (0x18, [(8, 8)])
  | 5 => some (0x21, [(8, 8)])
  | 6 => some (8, [])
  | 7 => some (0x10, [(8, 8)])
  | 8 => some (0x18, [(8, 64), (0x10, 16)])
  | 9 | 10 => some (0x10, [])
  | _ => none

def zeroFrom (b : List (BitVec 8)) (o n : Nat) : Bool := ((b.drop o).take n).all (· == 0)

/-- BADCMD (R411). -/
def cmdBad (b : List (BitVec 8)) : Bool :=
  let op := fieldAt b 0 1
  match cmdShape op with
  | none => true
  | some (n, as) =>
    decide (4 ≤ fieldAt b 1 1) || !zeroFrom b 2 (if op = 1 then 2 else 6) || !zeroFrom b n 64
      || as.any (fun a => fieldAt b a.1 8 % a.2 != 0)
      || (op == 1 && (!zeroFrom b 0x1C 4 || fieldAt b 4 4 % 4 != 0 || decide (65536 < fieldAt b 4 4)))
      || (op == 5 && decide (2 < fieldAt b 0x20 1))

/-- The event that runs a command. -/
def cmdEvent : Nat → Instr
  | 1 => .queueLaunch
  | 2 => .queueDraw
  | 3 => .queueCopy
  | 4 => .queueSignal
  | 5 => .queueWait
  | 6 => .queueFence
  | 7 => .queueTimestamp
  | 8 => .queueSalloc
  | 9 => .queueSfree
  | _ => .queueResync

/-! ### Commit and errors (R409, R411) -/

/-- Commit completed commands in order. -/
def commitCmds : Nat → Queue → Queue
  | 0, x => x
  | n + 1, x =>
    if x.started.any fun c => c.idx == x.progress && c.done then
      commitCmds n { x with progress := x.progress + 1, started := x.started.filter fun c => c.idx != x.progress, dirty := x.prog != 0 }
    else x

/-- R409: PROGRESS to PROGADDR, one aligned write, a release at system scope; a fault that stands loses the write. -/
def writeProgress (s : State) (q : Nat) : State :=
  match queueOf s q with
  | none => s
  | some x =>
    if !x.dirty then s
    else
      let clean := fun (s : State) => setQ s q fun x => { x with dirty := false }
      match engCheck s engQm x.ctx (queueKey q) 2 ((List.range 8).map (x.prog + ·)) with
      | .ok ls => engWrite (clean s) engQm x.ctx ls (leBytes 8 x.progress) []
      | .wait ps => engAsk s engQm x.ctx (queueKey q) ps
      | .stall => s
      | _ => clearXfaults (clean s) engQm (queueKey q)

/-- Every started command of a queue has completed. -/
def Queue.idle (x : Queue) : Bool := x.started.all fun c => c.done

/-- A killed context's queue is disabled once nothing that it started is left (R407, R452). -/
def Queue.settleKill (x : Queue) : Queue :=
  if x.dying && x.idle then { x with on := false, active := false, stopping := false, dying := false } else x

/-- A queue enters ERROR (R411): the command at fault is not committed; its record; VEC. -/
def queueError (s : State) (q code idx : Nat) : State :=
  match queueOf s q with
  | none => s
  | some x =>
    let s := putBack (setQ s q fun x => { x with err := if x.err = 0 then code else x.err, started := x.started.filter fun c => c.idx != idx || c.done }) q
    let s := setQ s q Queue.settleKill
    let s := postRecs (clearXfaults s engQm (queueKey q)) x.ctx
      [{ cls := code, kind := 3, detail := 0, ctx := x.ctx, source := 0x0400, time := s.time, addr := 0, pc := idx % 2 ^ 32, who := q }]
    later (signal s x.vec) .qctlComplete

/-- What an access for a command's own operands answers, other than its places (R411): a wait, or FAULT. -/
def cmdStop (s : State) (q idx : Nat) (x : Queue) : EngRes → State
  | .wait ps => engAsk s engQm x.ctx (queueKey q) ps
  | .fault .. => queueError s q 2 idx
  | .lost .. => queueError s q 2 idx
  | _ => s

/-! ### The active set (R413) -/

/-- Whether a queue has a started WAIT that has not ended. -/
def Queue.waiting (x : Queue) : Bool := x.started.any fun c => c.op == 5 && !c.ran
/-- A candidate: enabled, not in ERROR, with a command to start, its context on the device. -/
def candidate (s : State) (x : Queue) : Bool :=
  x.on && x.err == 0 && !x.stopping && decide (x.nextCmd < x.tail) && ctxOn s x.ctx

/-- The queue that leaves for a candidate: one with nothing to start or on a WAIT, else the worst level's oldest when
the candidate's level is better. -/
def leaver (s : State) (level : Nat) : Option Nat :=
  let act := s.queues.filter fun e => e.2.active
  match act.find? fun e => !candidate s e.2 || e.2.waiting with
  | some e => some e.1
  | none =>
    (act.filter fun e => decide (level < e.2.level)).foldl (fun (b : Option Nat) e => match b with
      | none => some e.1
      | some j => match queueOf s j with
        | some y => if y.level < e.2.level ∨ (y.level = e.2.level ∧ e.2.entered < y.entered) then some e.1 else b
        | none => some e.1) none

/-- ACTIVE_SET_SWITCH for one queue. -/
def activate (s : State) (q : Nat) : State :=
  match queueOf s q with
  | none => s
  | some x =>
    if x.active || !candidate s x then s
    else
      let enter := fun (s : State) =>
        let (s, t) := newId s
        setQ s q fun x => { x with active := true, entered := t }
      if (s.queues.filter fun e => e.2.active).length < 1024 then enter s
      else match leaver s x.level with
        | some j => enter (putBack (setQ s j fun x => { x with active := false }) j)
        | none => s
def activeSwitch (s : State) : State := s.queues.foldl (fun s e => activate s e.1) s

end Sys2Proof.Machine
end

