-- ==== Sys2Proof/Machine/RasterCore.lean ====
section
/-! DEFINITION. The raster pipeline's parts (R345 to R358): draw descriptors, setup in exact arithmetic, hierarchical
depth, tickets, and the ROP invocation. -/
namespace Sys2Proof.Machine

/-! ### Descriptors (R345, R346) -/

structure DrawD where
  vimg : Nat
  fimg : Nat
  tgts : Nat
  cwa : Nat
  cwv : Nat
  nitems : Nat
  ntgt : Nat
  cull : Nat
  zmode : Nat
  zkeep : Bool
  cw : Nat
  scope : Nat
  fwidth : Nat
  layer : Nat
  x0 : Nat
  y0 : Nat
  x1 : Nat
  y1 : Nat
  kc0 : Nat
  kc1 : Nat
deriving DecidableEq, Repr

def parseDraw (b : List (BitVec 8)) : DrawD :=
  let ctl := fieldAt b 0x2C 4
  { vimg := fieldAt b 0 8, fimg := fieldAt b 8 8, tgts := fieldAt b 0x10 8, cwa := fieldAt b 0x18 8, cwv := fieldAt b 0x20 8,
    nitems := fieldAt b 0x28 4, ntgt := bits ctl 2 0 + 1, cull := bits ctl 4 3, zmode := bits ctl 7 5, zkeep := bit ctl 8, cw := bits ctl 10 9,
    scope := bits ctl 13 11, fwidth := 16 * 2 ^ bits ctl 15 14, layer := bits ctl 26 16, x0 := fieldAt b 0x30 2, y0 := fieldAt b 0x32 2,
    x1 := fieldAt b 0x34 2, y1 := fieldAt b 0x36 2, kc0 := fieldAt b 0x38 4, kc1 := fieldAt b 0x3C 4 }

/-- The offset of the field that breaks R345 by itself, if one does. -/
def drawBad (b : List (BitVec 8)) : Option Nat :=
  let d := parseDraw b
  if d.tgts % 16 ≠ 0 then some 0x10
  else if d.cw ≠ 0 ∧ d.cwa % 8 ≠ 0 then some 0x18
  else if d.nitems = 0 then some 0x28
  else if d.cull = 3 ∨ 5 ≤ d.zmode ∨ d.scope = 7 ∨ d.fwidth = 128 ∨ bits (fieldAt b 0x2C 4) 31 27 ≠ 0 then some 0x2C
  else none

/-- A target's SURF, whose VIEW is 0 (R345), or its DEPTH, passes R174 in a context (R346). -/
def drawSurf (s : State) (ctx a : Nat) (flat : Bool) : Option Surf :=
  match surfCheck s ctx a 1 3 with
  | .ok f => if saOff a < f.bytes ∧ (f.b = 4 ∨ f.b = 8) ∧ !(flat && saView a) then some f else none
  | .error _ => none

/-- R192's rule for a secondary surface against its primary. -/
def secondOk (f g : Surf) : Bool :=
  g.b == f.b && g.gran == f.gran && g.xdim == f.xdim && g.ydim == f.ydim && g.layers == f.layers && g.samples == f.samples && g.gbase == f.gbase

/-- One entry of the target array: the handles it names. -/
def parseTarget (s : State) (ctx : Nat) (e : List (BitVec 8)) : Option (Nat × Option Nat) :=
  let a := fieldAt e 0 8
  let z := fieldAt e 8 8
  match drawSurf s ctx a true with
  | none => none
  | some f =>
    if z = 0 then some (saHandle a, none)
    else match drawSurf s ctx z false with
      | some g => if secondOk f g then some (saHandle a, some (saHandle z)) else none
      | none => none

def parseTargets (s : State) (ctx : Nat) (es : List (List (BitVec 8))) : Option (List (Nat × Option Nat)) := es.mapM (parseTarget s ctx)

/-- The targets agree with one another and with the draw's layer (R346). -/
def targetsOk (s : State) (d : DrawD) (ts : List (Nat × Option Nat)) : Bool :=
  match (ts.head?.bind fun t => Tab.find s.surfs t.1) with
  | none => false
  | some f => (ts.all fun t => match Tab.find s.surfs t.1 with
      | some g => g.xdim == f.xdim && g.ydim == f.ydim && g.gran == f.gran && g.samples == f.samples && decide (d.layer < g.layers)
      | none => false)
    && (d.zmode == 0 || (match ts.head? with
      | some t => t.2.isSome
      | none => false))

/-- The images of a draw (R346): the fragment image's width and the reach of its V view. -/
def fragImgOk (d : DrawD) (i : Image) : Bool := i.width == d.fwidth && decide (9 ≤ bits (i.views.getD 0 0).toNat 63 48)

/-- A draw's groups form teams of one group each (R350). -/
def Image.single (i : Image) : Image := { i with groups := 1, paired := false, coop := false }

/-- Everything that a draw takes from memory, through `rd`: its target handles and its two images, or the offset of the
descriptor's field that breaks R345 or R346. -/
def readDraw {ε : Type} (s : State) (ctx : Nat) (b : List (BitVec 8)) (rd : Nat → Nat → Reads ε (List (BitVec 8))) :
    Reads ε (Except Nat (List (Nat × Option Nat) × Image × Image)) := do
  let d := parseDraw b
  match drawBad b with
  | some o => pure (.error o)
  | none =>
    let tb ← rd d.tgts (16 * d.ntgt)
    match parseTargets s ctx (chunks 16 tb) with
    | none => pure (.error 0x10)
    | some ts =>
      if !targetsOk s d ts then pure (.error 0x10)
      else match ← readImage rd d.vimg with
        | none => pure (.error 0)
        | some vi => match ← readImage rd d.fimg with
          | none => pure (.error 8)
          | some fi => pure (if fragImgOk d fi then .ok (ts, vi.single, fi.single) else .error 8)

/-! ### Draws held (R347, R350) -/

def drawOf (s : State) (id : Nat) : Option Draw := s.raster.draws.find? fun d => d.id == id
def setDraw (s : State) (id : Nat) (f : Draw → Draw) : State :=
  { s with raster := { s.raster with draws := s.raster.draws.map fun d => if d.id == id then f d else d } }

/-- A new draw joins those the front ends hold. -/
def addDraw (s : State) (ctx : Nat) (queue : Option (Nat × Nat)) (desc : List (BitVec 8)) (addr : Nat) (ts : List (Nat × Option Nat))
    (vi fi : Image) (cloc : Option Loc) (gkey team pc : Nat) : State × Nat :=
  let (s, id) := newId s
  let d : Draw := { id, did := 0, ctx, queue, desc, descAddr := addr, targets := ts, vimg := vi, fimg := fi, cloc, gkey, team, pc, vlaunch := 0,
                    flaunch := 0, vdone := [], setup0 := 0, setup1 := 0, seq0 := 0, seq1 := 0, ndisp := 0, fcount := 0, accepted := false,
                    started := false }
  ({ s with raster := { s.raster with draws := s.raster.draws ++ [d] } }, id)

/-- Acceptance: the next draw ID of the context, and the last place in the order of draws. -/
def acceptDraw (s : State) (d : Draw) : State × Nat :=
  let did := match Tab.find s.ctxs d.ctx with
    | some c => c.nextDraw
    | none => 0
  let s := setCtx s d.ctx fun c => { c with nextDraw := (c.nextDraw + 1) % 2 ^ 32 }
  let rest := s.raster.draws.filter fun e => e.id != d.id
  ({ s with raster := { s.raster with draws := rest ++ [{ d with did, accepted := true }] } }, did)

def Draw.vertexGroups (d : Draw) : Nat := ((parseDraw d.desc).nitems + d.vimg.width - 1) / d.vimg.width
def Draw.setupAt (d : Draw) (st : Nat) : Nat := if st = 0 then d.setup0 else d.setup1
def Draw.shares (d e : Draw) : Bool :=
  let hs := fun (x : Draw) => x.targets.flatMap fun t => t.1 :: t.2.toList
  d.ctx == e.ctx && (hs d).any fun h => (hs e).contains h
def Draw.zmode (d : Draw) : Nat := (parseDraw d.desc).zmode

/-- The two launches of a draw: its vertex and its fragment groups (R350). -/
def drawLaunch (d : Draw) (vertex : Bool) : Launch :=
  let q := match d.queue with
    | some x => x.1
    | none => 0xFFFF
  let i := if vertex then d.vimg else d.fimg
  let va := if vertex then (parseDraw d.desc).vimg else (parseDraw d.desc).fimg
  { lid := q * 2 ^ 48 + d.did, ctx := d.ctx, img := i, x := if vertex then d.vertexGroups else 0, y := 1, z := 1,
    consts := (va + i.consts) % 2 ^ 64, constLen := i.constSize, pvBase := 0, pvLane := 0, nextTeam := 0, exited := 0, residency := [], killed := false,
    queue := q, cmd := 0, kind := if vertex then .vertex else .fragment, draw := d.id, room := [], since := none }

/-- What a vertex group starts with (R349). -/
def vertexInit (d : Draw) (t : Nat) (g : Group) : Group :=
  let n := (parseDraw d.desc).nitems
  let ls := (List.range g.width).filter fun l => decide (g.width * t + l < n)
  let g := { g with xyz := (t, 0, 0), splits := [(0, newSplit 0 (BitVec.ofNat 64 (2 ^ ls.length - 1)) none none)] }
  g.putReg false 0 (ls.map fun l => (l, g.width * t + l)) tU32

/-! ### Setup (R352, R353) -/

/-- A finite F32 as an integer, scaled by 2^149. -/
def f32Int (b : BitVec 32) : Int :=
  match unpack (fmtOf tF32) b.toNat with
  | .fin neg n d e => let m : Int := ((n <<< (e + 149).toNat) / d : Nat); if neg then -m else m
  | _ => 0

/-- A ratio scaled by 2^e, rounded once to F32 in RNE. -/
def ratioF32 (n d : Int) (e : Int) : BitVec 32 :=
  BitVec.ofNat 32 (rneTo (fmtOf tF32) (ofInt (if d < 0 then -n else n) d.natAbs e))

/-- A primitive ready to be rasterised: snapped vertices, z and q scaled, and the area. -/
structure Tri where
  x : List Int
  y : List Int
  z : List Int
  q : List Int
  area : Int
deriving DecidableEq, Repr

/-- Vertex component `j` (0 x, 1 y, 2 z, 3 q) of vertex `k`. -/
def Prim.at' (p : Prim) (k j : Nat) : BitVec 32 := p.verts.getD (4 * k + j) 0

/-- Steps 1 to 3 of R352; `none` for a discarded primitive. -/
def setupPrim (cull : Nat) (p : Prim) : Option Tri :=
  let comp := fun j => (List.range 3).map fun k => p.at' k j
  let finite := p.verts.all fun v => match unpack (fmtOf tF32) v.toNat with
    | .fin .. => true
    | _ => false
  let far := (comp 0 ++ comp 1).any fun v => decide (2 ^ 171 ≤ (f32Int v).natAbs)
  let q := (comp 3).map f32Int
  if !finite || far || q.any (fun v => decide (v ≤ 0)) then none
  else
    let snap := fun (v : BitVec 32) => xround 0 (ofInt (f32Int v) 1 (-141))
    let x := (comp 0).map snap
    let y := (comp 1).map snap
    let c := fun (l : List Int) (k : Nat) => l.getD k 0
    let area := (c x 1 - c x 0) * (c y 2 - c y 0) - (c x 2 - c x 0) * (c y 1 - c y 0)
    if area = 0 ∨ (cull = 1 ∧ area < 0) ∨ (cull = 2 ∧ 0 < area) then none
    else some { x, y, z := (comp 2).map f32Int, q, area }

/-- The edge function from vertex `a` to vertex `b` at a point. -/
def Tri.edge (t : Tri) (a b : Nat) (px py : Int) : Int :=
  (t.x.getD b 0 - t.x.getD a 0) * (py - t.y.getD a 0) - (t.y.getD b 0 - t.y.getD a 0) * (px - t.x.getD a 0)

/-- Whether an edge covers a point: above zero, or on an edge that owns it. -/
def Tri.inside (t : Tri) (px py : Int) (e : Nat × Nat) : Bool :=
  let v := t.edge e.1 e.2 px py
  let ya := t.y.getD e.1 0
  let yb := t.y.getD e.2 0
  decide (0 < v) || (v == 0 && (decide (yb < ya) || (yb == ya && decide (t.x.getD e.1 0 < t.x.getD e.2 0))))

/-- The three edges in the order that coverage takes them: V1 and V2 change places when the area is negative. -/
def Tri.edges (t : Tri) : List (Nat × Nat) := if t.area < 0 then [(0, 2), (2, 1), (1, 0)] else [(0, 1), (1, 2), (2, 0)]
def Tri.covers (t : Tri) (p : Int × Int) : Bool := t.edges.all (t.inside p.1 p.2)

/-- Sample `k` of `n` of a pixel, in 1/256 pixel units (R353). -/
def samplePos (n k x y : Nat) : Int × Int :=
  let r := if n ≤ 2 then 1 else n / 2 + 1
  (((256 * x + (2 * (k * r % n) + 1) * 128 / n : Nat) : Int), ((256 * y + (2 * k + 1) * 128 / n : Nat) : Int))
def centrePos (x y : Nat) : Int × Int := (((256 * x + 128 : Nat) : Int), ((256 * y + 128 : Nat) : Int))

/-- The weights of the vertices at a point, times the area: the edge functions opposite to them. -/
def Tri.weights (t : Tri) (p : Int × Int) : List Int := [t.edge 1 2 p.1 p.2, t.edge 2 0 p.1 p.2, t.edge 0 1 p.1 p.2]

/-- Depth at a point (R353). -/
def Tri.depth (t : Tri) (p : Int × Int) : BitVec 32 := ratioF32 ((((t.weights p).zip t.z).map fun x => x.1 * x.2).sum) t.area (-149)

/-- λ of vertex `k` at a point (R353); a free value where the weights sum to zero. -/
def Tri.lam (t : Tri) (k fresh : Nat) (p : Int × Int) : BitVec 32 :=
  let ws := ((t.weights p).zip t.q).map fun x => x.1 * x.2
  if ws.sum = 0 then Config.lambdaZero fresh else ratioF32 (ws.getD k 0) ws.sum 0

/-- The target surface that gives a draw its dimensions, with its handle. -/
def Draw.surf (s : State) (d : Draw) : Option (Nat × Surf) :=
  match d.targets with
  | t :: _ => (Tab.find s.surfs t.1).map fun f => (t.1, f)
  | [] => none

/-- Pixels of a quad in the order of a group's lanes (R358). -/
def quadPixels (x y : Nat) : List (Nat × Nat) := [(x, y), (x + 1, y), (x, y + 1), (x + 1, y + 1)]

/-- The quad at an even place, when it has a covered sample (R352, R354). -/
def makeQuad (f : Surf) (d : DrawD) (t : Tri) (idx : List (BitVec 32)) (st draw seq fresh id x y : Nat) : Option Quad :=
  let px := quadPixels x y
  let seen := fun (p : Nat × Nat) => decide (d.x0 ≤ p.1) && decide (p.1 < d.x1) && decide (d.y0 ≤ p.2) && decide (p.2 < d.y1)
    && decide (p.1 < f.xdim) && decide (p.2 < f.ydim)
  let cover := px.map fun p => BitVec.ofNat 16 ((List.range f.samples).foldl (fun a k =>
    if seen p && t.covers (samplePos f.samples k p.1 p.2) then a + 2 ^ k else a) 0)
  if cover.all (· == 0) then none
  else
    let mid := px.map fun p => centrePos p.1 p.2
    some { id, stack := st, draw, seq, x, y, cover, zs := px.map fun p => (List.range f.samples).map fun k => t.depth (samplePos f.samples k p.1 p.2),
           z := mid.map t.depth, l1 := mid.map (t.lam 1 fresh), l2 := mid.map (t.lam 2 fresh), idx, place := .raster, since := 0, ended := [] }

/-- Even coordinates from the one below `lo` up to `hi`. -/
def evens (lo hi : Int) : List Nat :=
  let a := lo.toNat / 2
  (List.range ((hi.toNat + 2) / 2 - a)).map fun i => 2 * (a + i)

def intMin (a b : Int) : Int := if b < a then b else a
def intMax (a b : Int) : Int := if a < b then b else a

/-- The places of quads that a triangle can cover in the tiles of one stack, row by row. -/
def quadPlaces (f : Surf) (d : DrawD) (t : Tri) (st : Nat) : List (Nat × Nat) :=
  let lo := fun (l : List Int) (n : Nat) => intMax (n : Int) (l.foldl intMin (l.headD 0) / 256)
  let hi := fun (l : List Int) (n m : Nat) => intMin (min n m : Nat) (l.foldl intMax (l.headD 0) / 256)
  (evens (lo t.y d.y0) (hi t.y d.y1 f.ydim)).flatMap fun y => ((evens (lo t.x d.x0) (hi t.x d.x1 f.xdim)).filter fun x =>
    (tileHome f (tileOf f x y d.layer 0)).1 == st).map fun x => (x, y)

/-- A primitive's quads on one stack. -/
def rasterise (f : Surf) (d : DrawD) (t : Tri) (idx : List (BitVec 32)) (st draw seq fresh : Nat) : List (Nat × Nat) → Nat → List Quad
  | [], _ => []
  | (x, y) :: ps, id => match makeQuad f d t idx st draw seq fresh id x y with
    | some q => q :: rasterise f d t idx st draw seq fresh ps (id + 1)
    | none => rasterise f d t idx st draw seq fresh ps id

/-! ### Hierarchical depth (R354) -/

/-- Columns of an 8 × 8 pixel tile of a depth surface: tile number and column. -/
def hizCols (f : Surf) (tx ty layer smp : Nat) : List (Nat × Nat) :=
  let px := (List.range 4).flatMap fun j => (List.range 8).map fun i => (8 * tx + i, 8 * ty + 2 * j)
  (px.map fun p => (tileOf f p.1 p.2 layer smp, texelOff f p.1 p.2 layer smp % f.bt / 64)).eraseDups

def HizEntry.is (e : HizEntry) (st h tx ty layer smp : Nat) : Bool :=
  e.stack == st && e.handle == h && e.tx == tx && e.ty == ty && e.layer == layer && e.sample == smp
/-- A column within an entry, by tile and column. -/
def hizKey (t c : Nat) : Nat := 2 ^ 20 * t + c

/-- The farther of two depths for a ZMODE, and whether a depth lies beyond a bound. -/
def farther (zmode : Nat) (a b : BitVec 32) : BitVec 32 := BitVec.ofNat 32 (fminmax (fmtOf tF32) (decide (zmode ≤ 2)) a.toNat b.toNat).bits
def beyond (zmode : Nat) (z bound : BitVec 32) : Bool :=
  let a := unpack (fmtOf tF32) z.toNat
  let b := unpack (fmtOf tF32) bound.toNat
  match zmode with
  | 1 => xcmp a b == .gt
  | 2 => xcmp a b == .gt || xcmp a b == .eq
  | 3 => xcmp a b == .lt
  | _ => xcmp a b == .lt || xcmp a b == .eq

/-- The entries that stand for a quad's covered samples. -/
def hizSamples (q : Quad) : List Nat := (List.range 16).filter fun k => q.cover.any fun m => m.getLsbD k

def hizFind (s : State) (q : Quad) (h layer smp : Nat) : Option HizEntry :=
  s.raster.hiz.find? fun e => e.is q.stack h (q.x / 8) (q.y / 8) layer smp

/-- The depth of the quad's nearest covered sample. -/
def nearestDepth (zmode : Nat) (q : Quad) : Option (BitVec 32) :=
  let ds := (q.cover.zip q.zs).flatMap fun p => (p.2.zipIdx.filter fun z => p.1.getLsbD z.2).map (·.1)
  match ds with
  | [] => none
  | z :: zs => some (zs.foldl (fun a b => BitVec.ofNat 32 (fminmax (fmtOf tF32) (decide (3 ≤ zmode)) a.toNat b.toNat).bits) z)

/-- R354's test: every entry complete, and the nearest depth beyond the far bound of them all. -/
def hizRejects (s : State) (zmode h layer : Nat) (f : Surf) (q : Quad) : Bool :=
  let es := (hizSamples q).map fun k => (k, hizFind s q h layer k)
  let full := es.all fun e => match e.2 with
    | some x => (hizCols f (q.x / 8) (q.y / 8) layer e.1).all fun c => (Tab.find x.cols (hizKey c.1 c.2)).isSome
    | none => false
  let bounds := es.flatMap fun e => match e.2 with
    | some x => x.cols.map (·.2)
    | none => []
  match bounds, nearestDepth zmode q with
  | b :: bs, some z => full && beyond zmode z (bs.foldl (farther zmode) b)
  | _, _ => false

/-- Entries that a tested quad needs are made, the oldest leaving a full cache. -/
def hizMake (s : State) (h layer : Nat) (q : Quad) : State :=
  (hizSamples q).foldl (fun s k =>
    if (hizFind s q h layer k).isSome then s
    else
      let mine := s.raster.hiz.filter fun e => e.stack == q.stack
      let rest := s.raster.hiz.filter fun e => e.stack != q.stack
      let e : HizEntry := { stack := q.stack, handle := h, tx := q.x / 8, ty := q.y / 8, layer, sample := k, cols := [] }
      { s with raster := { s.raster with hiz := e :: mine.take 4095 ++ rest } }) s

/-- A bank reports the depth bound of a column after a ROP write (R354, R357). -/
def hizReport (s : State) (zmode st h t c : Nat) (f : Surf) : State :=
  let v := readCol s h f { tile := t, c }
  let zs := (List.range (64 / f.b)).map fun i => BitVec.ofNat 32 (fieldAt (leBytes 64 v.toNat) (f.b * i) 4)
  let bound := match zs with
    | [] => 0
    | z :: rest => rest.foldl (farther zmode) z
  { s with raster := { s.raster with hiz := s.raster.hiz.map fun e =>
      if e.stack == st && e.handle == h && (hizCols f e.tx e.ty e.layer e.sample).contains (t, c) then
        { e with cols := Tab.put e.cols (hizKey t c) bound } else e } }

/-! ### Tickets (R355) -/

/-- A bank's number: stack, bank group and bank. -/
def bankNo (f : Surf) (t c : Nat) : Nat := (24 * (tileHome f t).1 + (tileHome f t).2) * 8 + c % 8

/-- The tickets that a quad needs: bank, target, sample, column, handle, tile. -/
def ticketsFor (s : State) (d : Draw) (q : Quad) : List (Nat × Nat × Nat × Nat × Nat × Nat) :=
  let layer := (parseDraw d.desc).layer
  d.targets.zipIdx.flatMap fun t => match Tab.find s.surfs t.1.1 with
    | none => []
    | some f => (hizSamples q).map fun k =>
      let n := tileOf f q.x q.y layer k
      let c := texelOff f q.x q.y layer k % f.bt / 64
      (bankNo f n c, t.2, k, c, t.1.1, n)

/-- Whether every bank has room in its window of 256 for these tickets; a grant admits one beyond it (R113). -/
def windowsFit (s : State) (ks : List (Nat × Nat × Nat × Nat × Nat × Nat)) : Bool :=
  ks.all fun k => decide ((s.raster.tickets.filter fun t => t.bank == k.1).length + (ks.filter fun j => j.1 == k.1).length ≤ 256 + if (fqOf s (4000 + k.1)).grant then 1 else 0)

/-- Reserve them (R355). -/
def reserve (d : Draw) (q : Quad) : List (Nat × Nat × Nat × Nat × Nat × Nat) → State → State
  | [], s => s
  | (bank, target, sample, col, handle, tile) :: ks, s =>
    let s := fqTake s (4000 + bank) 256 (s.raster.tickets.filter fun t => t.bank == bank).length
    let (s, id) := newId s
    let t : Ticket := { id, bank, draw := d.id, seq := q.seq, quad := q.id, target, sample, col, handle, tile, sent := false, arrived := false,
                        null := false, mask := 0, colour := [], depth := [] }
    reserve d q ks { s with raster := { s.raster with tickets := s.raster.tickets ++ [t] } }

def setQuad (s : State) (id : Nat) (f : Quad → Quad) : State :=
  { s with raster := { s.raster with quads := s.raster.quads.map fun q => if q.id == id then f q else q } }
def dropQuad (s : State) (id : Nat) : State := { s with raster := { s.raster with quads := s.raster.quads.filter fun q => q.id != id } }
/-- A front end's quads at one place, oldest first. -/
def quadsAt (s : State) (st : Nat) (p : QuadAt) : List Quad := s.raster.quads.filter fun q => q.stack == st && q.place == p

/-- Cycles as the front ends count them: they stand at I/O stations (R5, R104). -/
def rasterNow (s : State) : Nat := fabricNow s
/-- A quad leaves the hold queue and waits to be packed, last in the order of leaving (R358). -/
def packQuad (s : State) (q : Quad) : State :=
  { s with raster := { s.raster with quads := s.raster.quads.filter (fun x => x.id != q.id) ++ [{ q with place := .packing, since := rasterNow s }] } }

/-! ### The ROP invocation (R357) -/

/-- The element at which a texel's colour and depth stand in the column's buffers, and its bits of M. -/
def texelSlots (b i : Nat) : List Nat := if b = 4 then [i] else [2 * i, 2 * i + 1]

/-- Texels of a column for the pixels of a quad. -/
def quadTexels (f : Surf) (x y : Nat) : List Nat := (quadPixels x y).map fun p => texelOff f p.1 p.2 0 0 % 64 / f.b

/-- The state an invocation starts in. -/
def ropUnit (f : Surf) (d : DrawD) (q : Quad) (t : Ticket) : NbUnit :=
  let tex := (quadTexels f q.x q.y).zipIdx.filter fun e => t.mask.getLsbD e.2
  let col := tex.foldl (fun (a : BitVec 512) e => a ||| BitVec.ofNat 512 (((t.colour.getD e.2 0).toNat % 2 ^ (8 * f.b)) <<< (8 * f.b * e.1))) 0
  let dep := (List.range 16).map fun i => match tex.find? fun e => (texelSlots f.b e.1).contains i with
    | some e => (t.depth.getD e.2 0).toNat
    | none => 0x7FC00000
  let k := fun n => BitVec.ofNat 512 (joinElems 32 (List.replicate 16 n))
  { cbs := [0, 0, 0, 0, col, BitVec.ofNat 512 (joinElems 32 dep), k d.kc0, k d.kc1],
    m := BitVec.ofNat 32 ((tex.flatMap fun e => texelSlots f.b e.1).foldl (fun a i => a + 2 ^ i) 0) }

/-- The masked write of a column buffer, as a word with a masked write-back makes it. -/
def maskWord (src base : Nat) : NbWord :=
  { fEn := false, fD := 0, fBase := 0, fOff := 0, op := 0, ty := 0, d := 0, a := 0, b := 0, c := 0, md := 0, wEn := true, wS := src, wMask := true,
    wBase := base, wOff := 0 }

/-- The words that an invocation runs: the target's ROP program, or the plain masked writes (R357). -/
def ropWords (s : State) (f : Surf) (depth : Bool) : List NbWord :=
  if f.ropLen = 0 then maskWord 4 0 :: (if depth then [maskWord 5 1] else [])
  else (List.range f.ropLen).map fun i => parseNb (Tab.fetch 0 s.bankProg (f.ropEntry + i))

/-- One invocation on the ticket's column, its tiles resident: blocks expanded, the words run, the depth bound reported. -/
def runRop (s : State) (d : Draw) (q : Quad) (t : Ticket) (f : Surf) (g : Option (Nat × Surf)) : State :=
  let k := parseDraw d.desc
  let n := (t.tile * f.bt + 64 * t.col) / f.blk
  let s := expandBlock t.handle f s n
  let s := match g with
    | some (h, z) => expandBlock h z s n
    | none => s
  let ws := ropWords s f g.isSome
  if ws.any (·.bad) then s
  else
    let p : NbPair := { h := t.handle, f, second := g }
    let (s, _, _) := ws.foldl (nbWord p { tile := t.tile, c := t.col }) (s, ropUnit f k q t, { red := 0, ty := 0, acc := [] })
    match g with
    | some (h, z) => if ws.any fun w => w.wEn && w.wBase == 1 then hizReport s k.zmode q.stack h t.tile t.col z else s
    | none => s

end Sys2Proof.Machine
end

