-- ==== Sys2Proof/Machine/RasterOps.lean ====
section
/-! DEFINITION. The raster words and steps (R347 to R364): `gemit`, `frag`, a draw's acceptance and end, setup, tickets,
fragment groups, the order lock and its ROP invocations. -/
namespace Sys2Proof.Machine

/-! ### `gemit` (R360 to R362) -/

/-- The oldest vertex group that has not ended, by draw and number. -/
def oldestVertex (s : State) : Option (Nat × Nat) :=
  s.raster.draws.findSome? fun d =>
    if !d.started ∨ d.vertexGroups ≤ d.vdone.length then none
    else ((List.range (d.vdone.length + 1)).find? fun t => !d.vdone.contains t).map fun t => (d.id, t)

/-- Whether both primitive buffers take `n` more from a vertex group (R351). -/
def primRoom (s : State) (draw vg n : Nat) : Bool :=
  let old := oldestVertex s
  (List.range 2).all fun st =>
    let held := s.raster.prims.filter fun p => p.left.contains st
    let others := held.filter fun p => some (p.draw, p.vgroup) != old
    decide (held.length + n ≤ 4096) && (some (draw, vg) == old || decide (others.length + n ≤ 3072))

/-- R360. -/
def execGemitPrim (d : BitVec 7) (n : BitVec 1) (p : BitVec 3) (s : State) : Out :=
  runWord s fun c s => do
    vecCheck c true ((List.range 15).map fun i => ⟨if i = 0 then 0 else 3, false, d.toNat + i, 0, if i < 12 then .codes [tF32] else .free⟩)
    if c.g.kind != .vertex then illegal 3 0 c.low
    let draw := match launchOf s c.g with
      | some l => l.draw
      | none => 0
    let row := fun (i l : Nat) => BitVec.ofNat 32 (c.g.val false (d.toNat + i) l)
    let ps : List Prim := c.lanes.map fun l => { draw, vgroup := c.g.xyz.1, verts := (List.range 12).map (row · l), idx := (List.range 3).map fun k => row (12 + k) l, left := [0, 1] }
    if !primRoom s draw c.g.xyz.1 ps.length then
      if n = 1 then (unbuffered s c 2 0).map fun s => nbWrite s c p.toNat false else .error .stall
    else
      let s ← unbuffered s c 2 0
      let s := laterAll { s with raster := { s.raster with prims := s.raster.prims ++ ps } } [.primitiveSetup 0, .primitiveSetup 1]
      pure (if n = 1 then nbWrite s c p.toNat true else s)

/-- Bytes that `gemit.draw` reads for its draw, as the core's requests; a sector that cannot be read as good is an uncorrectable-memory
fault (R438). -/
def drawBytes (c : WCtx) (va n : Nat) : Reads Stop (List (BitVec 8)) := fun (s : State) =>
  match uniform s c 0 (va % 2 ^ 64) n 0 with
  | .error e => (.error e, s)
  | .ok ls =>
    let (s, b, bad) := engRead s c.g.core c.g.ctx ls
    (match bad with
      | [] => .ok b
      | i :: _ => .error (.trap ⟨0x0E, 0, sectorAddr s (ls.getD i ⟨.log, 0⟩), c.low⟩), s)

/-- R361. -/
def execGemitDraw (d : BitVec 7) (_x : BitVec 3) (n : BitVec 1) (p : BitVec 3) (s : State) : Out :=
  runWord s fun c s => do
    let y := (c.g.s d.toNat).toNat
    trapIf c.g.harvest ⟨0x03, memDetail 0 0, y, c.low⟩
    trapIf (y % 64 != 0) ⟨0x08, 2, y, c.low⟩
    let _ ← uniform s c 0 y 64 0
    let s ← unbuffered s c 2 0
    let s := releaseAct s c.key c.g.core 5 (pairedOf s c.g)
    let (b, s) := drawBytes c y 64 s
    let b ← b
    let (r, s) := readDraw s c.g.ctx b (drawBytes c) s
    match ← r with
    | .error o => illegal 1 (y + o) c.low
    | .ok (ts, vi, fi) =>
      let cl ← cwPlace s c (parseDraw b).cw (parseDraw b).cwa
      if 16 ≤ s.raster.draws.length then
        if n = 1 then pure (nbWrite s c p.toNat false) else .error .stall
      else
        let (s, id) := addDraw s c.g.ctx none b y ts vi fi cl c.key c.g.team c.sp.pc
        match drawOf s id with
        | none => pure s
        | some dr =>
          let (s, did) := acceptDraw s dr
          let s := writeS (later s (.drawAccept id)) c (d.toNat + 1) did
          pure (if n = 1 then nbWrite s c p.toNat true else s)

/-! ### `frag` (R363, R364) -/

/-- What `frag` sends for one ticket: covered pixels of its sample whose lanes are active and whose mask bit is 1, their
colour and depth. -/
def fragTicket (c : WCtx) (d n : Nat) (z : Bool) (lane : Nat) (q : Quad) (t : Ticket) : Ticket :=
  let on := fun (i : Nat) => (q.cover.getD i 0).getLsbD t.sample && c.eff.getLsbD (lane + i)
    && (c.g.val false (d + n + (if z then 1 else 0)) (lane + i)).testBit t.sample
  let colour := (List.range 4).map fun i =>
    BitVec.ofNat 64 ((List.range n).foldl (fun a k => a + 2 ^ (32 * k) * c.g.val false (d + k) (lane + i)) 0)
  let depth := (List.range 4).map fun i =>
    if z then BitVec.ofNat 32 (c.g.val false (d + n) (lane + i)) else (q.zs.getD i []).getD t.sample 0
  { t with sent := true, mask := BitVec.ofNat 4 ((List.range 4).foldl (fun a i => if on i then a + 2 ^ i else a) 0), colour, depth }

/-- The fragments of one quad for a target. -/
def fragQuad (c : WCtx) (d n : Nat) (z : Bool) (tgt : Nat) (s : State) (e : Nat × Quad) : State :=
  let (lane, q) := e
  let mine := fun (t : Ticket) => t.quad == q.id && t.target == tgt
  let ids := (s.raster.tickets.filter mine).map (·.id)
  let s : State := { s with raster := { s.raster with tickets := s.raster.tickets.map fun t => if mine t then fragTicket c d n z lane q t else t } }
  laterAll (setQuad s q.id fun x => { x with ended := tgt :: x.ended }) (ids.map .orderLockEntry)

/-- The quads of a fragment group that have an active lane, with their first lanes. -/
def activeQuads (s : State) (c : WCtx) : List (Nat × Quad) :=
  (c.g.quads.zipIdx.filterMap fun e => (s.raster.quads.find? fun q => q.id == e.1.2.1).map fun q => (4 * e.2, q)).filter fun e =>
    (List.range 4).any fun i => c.eff.getLsbD (e.1 + i)

/-- The surface that a fragment group's target names. -/
def fragTarget (s : State) (g : Group) (t : Nat) : Option Surf :=
  match s.raster.draws.find? fun e => g.kind == .fragment && e.flaunch == g.launch with
  | some e => (e.targets[t]?).bind fun x => Tab.find s.surfs x.1
  | none => none
/-- R364: a colour of n rows, with the depth that follows it, that would pass v111 traps at decode, whatever the mask (R66). -/
def fragRows (s : State) (d t z : Nat) (c : WCtx) : Try Unit :=
  match fragTarget s c.g t with
  | some f => if 111 < d + f.b / 4 + z then illegal 0 0 ((lanesOf c.w c.sp.mask).headD 0) else .ok ()
  | none => .ok ()

/-- R363. -/
def execFrag (d : BitVec 7) (t : BitVec 3) (z : BitVec 1) (s : State) : Out :=
  runWordAfter s (fragRows s d.toNat t.toNat z.toNat) fun c s => do
    if c.g.kind != .fragment then
      vecCheck c true [⟨0, false, d.toNat, 0, .free⟩]
      illegal 3 0 c.low
    match fragTarget s c.g t.toNat with
    | none =>
      vecCheck c true [⟨0, false, d.toNat, 0, .free⟩]
      illegal 1 0 c.low
    | some f =>
      let n := f.b / 4
      let k := n + z.toNat
      vecCheck c true ((List.range (k + 1)).map fun i => ⟨if i = 0 then 0 else 3, false, d.toNat + i, 0, if z = 1 ∧ i = n then .codes [tF32] else .free⟩)
      let qs := activeQuads s c
      if qs.any fun e => e.2.ended.contains t.toNat then illegal 1 0 c.low
      pure (qs.foldl (fragQuad c d.toNat n (z == 1) t.toNat) s)

/-! ### Acceptance (R347, R349) -/

/-- R347, DRAW_ACCEPT: the draw ID, if it has none yet; the depth entries it does not keep go; its vertex groups may be
placed. -/
def execDrawAccept (id : Nat) (s : State) : Out :=
  match drawOf s id with
  | none => .next s
  | some d0 =>
    if d0.started ∨ !(match d0.queue with
      | some (q, _) => (queueOf s q).any (queueRuns s)
      | none => true) then .next s
    else
      let s := if d0.accepted then s else (acceptDraw s d0).1
      match drawOf s id with
      | none => .next s
      | some d =>
        let (s, vk) := newId s
        let (s, fk) := newId s
        let s : State := { s with launches := Tab.put (Tab.put s.launches vk (drawLaunch d true)) fk (drawLaunch d false) }
        let s := setDraw s id fun x => { x with vlaunch := vk, flaunch := fk, started := true }
        let zs := d.targets.filterMap (·.2)
        let s : State := if (parseDraw d.desc).zkeep then s else
          { s with raster := { s.raster with hiz := s.raster.hiz.filter fun e => !zs.contains e.handle } }
        let s := match d.queue with
          | some (q, i) => beginCmd s q i
          | none => s
        .next (wakePlacement s)

/-! ### Setup (R351, R352) -/

/-- The vertex group that a stack's setup stands at: the first that has not ended, or that has primitives left. -/
def setupGroup (s : State) (d : Draw) (st : Nat) : Nat → Nat → Nat
  | 0, g => g
  | n + 1, g =>
    if d.vdone.contains g ∧ !(s.raster.prims.any fun p => p.draw == d.id && p.vgroup == g && p.left.contains st) then setupGroup s d st n (g + 1) else g
def setupNow (s : State) (d : Draw) (st : Nat) : Nat := setupGroup s d st (d.vdone.length + 1) (d.setupAt st)
def setupOver (s : State) (d : Draw) (st : Nat) : Bool := decide (d.vertexGroups ≤ setupNow s d st)
def setupPrimOf (s : State) (d : Draw) (st : Nat) : Option Prim :=
  s.raster.prims.find? fun p => p.draw == d.id && p.vgroup == setupNow s d st && p.left.contains st

/-- The draw whose primitive a stack sets up next: draws that share a surface in draw order (R347). -/
def setupDraw (s : State) (st : Nat) : Option (Draw × Prim) :=
  let open' := s.raster.draws.filter fun d => d.started && !setupOver s d st
  open'.findSome? fun d =>
    if (open'.takeWhile fun e => e.id != d.id).any fun e => e.shares d then none
    else (setupPrimOf s d st).map fun p => (d, p)

/-- A primitive leaves a stack's buffer, and the buffer once both stacks have taken it. -/
def takePrim (ps : List Prim) (p : Prim) (st : Nat) : List Prim :=
  match ps with
  | [] => []
  | q :: qs => if q = p then (let r := p.left.filter (· != st); if r.isEmpty then qs else { p with left := r } :: qs) else q :: takePrim qs p st

def bumpRas (s : State) (st lo : Nat) : State := { s with hb := { s.hb with rasStat := bumpField s.hb.rasStat st lo } }

/-- R352, PRIMITIVE_SETUP: one primitive of a stack is set up and rasterised, once its rasteriser is free. -/
def execPrimitiveSetup (st : Nat) (s : State) : Out :=
  if !(quadsAt s st .raster).isEmpty then .next s
  else match setupDraw s st with
    | none => .next s
    | some (d, p) =>
      let seq := if st = 0 then d.seq0 else d.seq1
      let g := setupNow s d st
      let s := setDraw s d.id fun x => if st = 0 then { x with setup0 := g, seq0 := seq + 1 } else { x with setup1 := g, seq1 := seq + 1 }
      let s : State := { s with raster := { s.raster with prims := takePrim s.raster.prims p st } }
      let s := bumpRas s st 0
      match setupPrim (parseDraw d.desc).cull p, d.surf s with
      | some t, some (_, f) =>
        let k := parseDraw d.desc
        let at' := quadPlaces f k t st
        let qs := rasterise f k t p.idx st d.id seq s.fresh at' s.nextId
        .next (laterAll { s with fresh := s.fresh + 1, nextId := s.nextId + at'.length, raster := { s.raster with quads := s.raster.quads ++ qs } }
          [.quadTicketReserve st, .primitiveSetup st, .drawComplete d.id])
      | _, _ => .next (laterAll (bumpRas s st 16) [.primitiveSetup st, .drawComplete d.id])

/-! ### Tickets (R354, R355) -/

/-- Whether two quads lie in one 8 × 8 tile of draws of one context. -/
def sameTile (s : State) (a b : Quad) : Bool :=
  a.x / 8 == b.x / 8 && a.y / 8 == b.y / 8 && (match drawOf s a.draw, drawOf s b.draw with
    | some d, some e => d.shares e
    | _, _ => true)

/-- Whether a quad may reserve now: no quad of its tile is held before it, and every bank has room. -/
def mayReserve (s : State) (before : List Quad) (q : Quad) : Bool :=
  !(before.any (sameTile s q)) && (match drawOf s q.draw with
    | some d => windowsFit s (ticketsFor s d q)
    | none => true)

/-- The first held quad of a stack that may go. -/
def nextHeld (s : State) : List Quad → List Quad → Option Quad
  | _, [] => none
  | before, q :: qs => if mayReserve s before q then some q else nextHeld s (before ++ [q]) qs

/-- A quad takes its tickets and waits for its fragment group. -/
def ticketQuad (s : State) (q : Quad) : State :=
  match drawOf s q.draw with
  | none => dropQuad s q.id
  | some d =>
    let s := reserve d q (ticketsFor s d q) s
    let s := packQuad s q
    laterAll (fqLeave s (300 + q.stack) (quadsAt s q.stack .held).length) [.quadTicketReserve q.stack, .fragmentGroupDispatch q.stack]

/-- R354's test of a quad that comes from the rasteriser: rejected, or its entries made. -/
def hizTest (s : State) (q : Quad) : State × Bool :=
  match drawOf s q.draw with
  | none => (s, false)
  | some d => match d.targets.head?.bind (·.2), (parseDraw d.desc).layer with
    | some h, layer => match Tab.find s.surfs h with
      | some f => if d.zmode = 0 then (s, false) else if hizRejects s d.zmode h layer f q then (s, true) else (hizMake s h layer q, false)
      | none => (s, false)
    | none, _ => (s, false)

/-- When the rasteriser has no quad left its next primitive may come. -/
def rasterOn (s : State) (st : Nat) : State :=
  if (quadsAt s st .raster).isEmpty then later s (.primitiveSetup st) else later s (.quadTicketReserve st)

/-- Rasterisation stops on a full hold queue, no quad of which may go (R355). -/
def rasterStopped (s : State) (st : Nat) : Bool :=
  let held := quadsAt s st .held
  (nextHeld s [] held).isNone && !(quadsAt s st .raster).isEmpty && fqFull s (300 + st) 64 held.length
/-- SF_RAS_STAT.STALL counts the cycles in which it does (R365). -/
def countStops (s : State) : State := [0, 1].foldl (fun s st => if rasterStopped s st then bumpRas s st 48 else s) s

/-- R355, QUAD_TICKET_RESERVE: held quads first; a full hold queue stops rasterisation. -/
def execQuadTicketReserve (st : Nat) (s : State) : Out :=
  let held := quadsAt s st .held
  match nextHeld s [] held with
  | some q => .next (ticketQuad s q)
  | none => match (quadsAt s st .raster).head? with
    | none => .next s
    | some q =>
      if fqFull s (300 + st) 64 held.length then .next s
      else match hizTest s q with
      | (s, true) => .next (later (rasterOn (bumpRas (dropQuad s q.id) st 32) st) (.drawComplete q.draw))
      | (s, false) =>
        if mayReserve s held q then .next (rasterOn (ticketQuad s q) st)
        else .next (rasterOn (setQuad (fqTake s (300 + st) 64 held.length) q.id fun x => { x with place := .held }) st)

/-! ### Fragment groups (R358) -/

/-- What a fragment group starts with: its quads' lanes. -/
def fragmentInit (qs : List Quad) (g : Group) : Group :=
  let n := 4 * qs.length
  let g := { g with quads := qs.map fun q => (q.draw, q.id, q.x + 65536 * q.y), splits := [(0, newSplit 0 (BitVec.ofNat 64 (2 ^ n - 1)) none none)] }
  let lanes := fun (f : Quad → Nat → Nat) => qs.zipIdx.flatMap fun q => (List.range 4).map fun i => (4 * q.2 + i, f q.1 i)
  let rows : List (Nat × (Quad → Nat → Nat)) :=
    [(tU32, fun q i => q.x + i % 2 + 65536 * (q.y + i / 2)), (tU32, fun q i => (q.cover.getD i 0).toNat), (tF32, fun q i => (q.z.getD i 0).toNat),
     (tF32, fun q i => (q.l1.getD i 0).toNat), (tF32, fun q i => (q.l2.getD i 0).toNat), (tU32, fun q _ => q.seq % 2 ^ 32),
     (tU32, fun q _ => (q.idx.getD 0 0).toNat), (tU32, fun q _ => (q.idx.getD 1 0).toNat), (tU32, fun q _ => (q.idx.getD 2 0).toNat)]
  rows.zipIdx.foldl (fun g r => g.putReg false r.2 (lanes r.1.2) r.1.1) g

/-- R358, FRAGMENT_GROUP_DISPATCH: the oldest quads of one draw, when they fill a group or 64 cycles have passed. -/
def execFragmentGroupDispatch (st : Nat) (s : State) : Out :=
  match quadsAt s st .packing with
  | [] => .next s
  | q :: qs => match drawOf s q.draw with
    | none => .next (dropQuad s q.id)
    | some d =>
      let k := d.fimg.width / 4
      let mine := ((q :: qs).takeWhile fun x => x.draw == q.draw).take k
      if !ctxOn s d.ctx ∨ (mine.length < k ∧ rasterNow s < q.since + 64) then .next s
      else match chooseCore s d.flaunch d.fimg false 88, Tab.find s.launches d.flaunch with
        | some core, some l =>
          let s := startTeam s d.flaunch l d.ndisp core fun _ g => fragmentInit mine g
          let s := setDraw s d.id fun x => { x with ndisp := x.ndisp + 1, fcount := x.fcount + 1 }
          let s := mine.foldl (fun s x => setQuad s x.id fun y => { y with place := .group }) s
          .next (later s (.fragmentGroupDispatch st))
        | _, _ => .next s

/-! ### The order lock (R356, R357) -/

/-- R356, ORDER_LOCK_ENTRY: a fragment or null entry arrives in its bank's window. -/
def execOrderLockEntry (id : Nat) (s : State) : Out :=
  match s.raster.tickets.find? fun t => t.id == id && t.sent && !t.arrived with
  | none => .next s
  | some t =>
    .next (later { s with raster := { s.raster with tickets := s.raster.tickets.map fun x => if x.id == id then { x with arrived := true } else x } }
      (.ropInvocation t.bank))

def Ticket.sameCol (a b : Ticket) : Bool := a.handle == b.handle && a.tile == b.tile && a.col == b.col

/-- The surfaces that a ticket's entry writes: its target's colour surface and its depth surface. -/
def ticketSurfs (s : State) (t : Ticket) : List Nat := t.handle :: ((drawOf s t.draw).bind fun d => (d.targets[t.target]?).bind (·.2)).toList
/-- The tiles of a ticket's column. -/
def ticketTiles (s : State) (t : Ticket) : List (Nat × Nat) := (ticketSurfs s t).map fun h => (h, t.tile)
/-- Tickets whose entries go to one column of a surface, colour or depth (R347, R356). -/
def Ticket.clashes (s : State) (a b : Ticket) : Bool :=
  a.sameCol b || (a.tile == b.tile && a.col == b.col && (ticketSurfs s a).any fun h => (ticketSurfs s b).contains h)

/-- The first arrived entry of a bank that no earlier ticket of its column precedes, in whatever bank that one stands. -/
def nextEntry (bank : Nat) (s : State) : List Ticket → List Ticket → Option Ticket
  | _, [] => none
  | before, t :: ts => if t.bank == bank && t.arrived && !(before.any (t.clashes s)) then some t else nextEntry bank s (before ++ [t]) ts

/-- An entry leaves its bank's window; what waited for the room goes on. -/
def endTicket (s : State) (t : Ticket) : State :=
  let rest := s.raster.tickets.filter fun x => x.id != t.id
  let next := (((rest.filter fun x => x.arrived && x.clashes s t).map (·.bank)).filter (· != t.bank)).eraseDups
  let s : State := { s with raster := pruneQuads { s.raster with tickets := rest } }
  let s := fqLeave s (4000 + t.bank) (rest.filter fun x => x.bank == t.bank).length
  laterAll s (.ropInvocation t.bank :: next.map .ropInvocation ++ [.quadTicketReserve 0, .quadTicketReserve 1, .drawComplete t.draw])

/-- R357, ROP_INVOCATION: the next entry of a bank is applied; it waits while a tile of its column cannot be restored. -/
def execRopInvocation (bank : Nat) (s : State) : Out :=
  match nextEntry bank s [] s.raster.tickets with
  | none => .next s
  | some t =>
    if t.null then .next (endTicket s t)
    else match drawOf s t.draw, s.raster.quads.find? (fun q => q.id == t.quad), Tab.find s.surfs t.handle with
      | some d, some q, some f =>
        let dh := (d.targets[t.target]?).bind (·.2)
        let (s, ok) := nbRestore (ticketTiles s t) s (ticketTiles s t)
        if !ok then .next s
        else
          let g := dh.bind fun h => (Tab.find s.surfs h).map fun z => (h, z)
          .next (endTicket (runRop s d q t f g) t)
      | _, _, _ => .next (endTicket s t)

/-! ### Completion (R348) -/

/-- Whether everything that a draw started has ended. -/
def drawOver (s : State) (d : Draw) : Bool :=
  d.started && decide (d.vertexGroups ≤ d.vdone.length) && setupOver s d 0 && setupOver s d 1 && d.fcount == 0
    && !(s.raster.quads.any fun q => q.draw == d.id) && !(s.raster.tickets.any fun t => t.draw == d.id)

/-- A killed draw: it ends once its groups and its tickets have (R350, R446). -/
def drawKilled (s : State) (d : Draw) : Bool :=
  match Tab.find s.launches d.vlaunch with
  | some l => l.killed
  | none => false
def drawGone (s : State) (d : Draw) : Bool :=
  !(s.teams.any fun t => t.2.launch == d.vlaunch || t.2.launch == d.flaunch) && !(s.raster.tickets.any fun t => t.draw == d.id)

/-- A draw leaves the front ends with its launches. -/
def endDraw (s : State) (d : Draw) : State :=
  let s : State := { s with raster := { s.raster with draws := s.raster.draws.filter fun e => e.id != d.id },
                            launches := Tab.del (Tab.del s.launches d.vlaunch) d.flaunch,
                            icache := s.icache.filter fun e => e.1 / 2 ^ 40 != d.vlaunch && e.1 / 2 ^ 40 != d.flaunch }
  let s := match d.queue with
    | some (q, i) => cmdDone s q i
    | none => s
  later (clearXfaults s 400 d.id) .commandStart

/-- A draw whose completion word meets a fault ends with its records (R129, R427). -/
def failDraw (s : State) (d : Draw) (cls detail addr : Nat) : State :=
  let (who, pc) := match d.queue with
    | some (q, i) => (q, i)
    | none => (0xFFFF, d.pc)
  endDraw (postRecs s d.ctx (endedRecs s d.ctx cls detail 0x0400 addr pc who d.descAddr 0 false)) d

/-- R348, DRAW_COMPLETE: CWVAL to CWADDR as R127 gives. -/
def execDrawComplete (id : Nat) (s : State) : Out :=
  match drawOf s id with
  | none => .next s
  | some d =>
    if drawKilled s d then .next (if drawGone s d then endDraw s d else s)
    else if !drawOver s d then .next s
    else
      let k := parseDraw d.desc
      .next (match k.cw, d.cloc with
        | 0, _ => endDraw s d
        | 2, _ => match engCheck s 400 d.ctx d.id 2 ((List.range 8).map (k.cwa + ·)) with
          | .ok ls => endDraw (engWrite s 400 d.ctx ls (leBytes 8 k.cwv) []) d
          | .wait ps => engAsk s 400 d.ctx d.id ps
          | .stall => s
          | .fault c i _ => failDraw s d c 1 ((k.cwa + i) % 2 ^ 64 / 4096 * 4096)
          | .lost dev _ => failDraw s d 0 1 dev
        | _, some l => endDraw (coreWrite s 400 d.ctx d.team l (leBytes 8 k.cwv)) d
        | _, none => endDraw s d)

end Sys2Proof.Machine
end

