-- ==== Sys2Proof/Machine/QueueMgr.lean ====
section
/-! DEFINITION. The queue manager (R405 to R415): the queue table and its commands, doorbells, the start and the
completion of host-queue commands, launch admission. -/
namespace Sys2Proof.Machine

/-! ### QM_QTABLE and QM_QCTL (R405 to R407) -/

/-- A doorbell value is judged (R408). -/
def takeTail (s : State) (q v : Nat) : State :=
  match queueOf s q with
  | none => s
  | some x =>
    let s := setQ s q fun x => { x with bell := none }
    if x.progress ≤ v ∧ v ≤ x.progress + 2 ^ x.log2n ∧ x.tail ≤ v then later (activate (setQ s q fun x => { x with tail := v }) q) .commandStart
    else queueError s q 1 x.nextCmd

/-- R405: BASE is kept while EN is 1. Once EN is 1, the last value that each doorbell has been given is judged. -/
def execQmQtableWrite (s : State) : Out :=
  let old := s.hb.qtable.toNat
  let v := s.hb.wval.toNat
  let base := if bit old 0 then old / 65536 else v / 65536
  let s : State := { s with hb := { s.hb with qtable := BitVec.ofNat 64 (base * 65536 + v % 2) } }
  .next (later (if v % 2 = 1 then (s.queues.filter fun e => e.2.bell.isSome).foldl (fun s e => takeTail s e.1 (e.2.bell.getD 0)) s else s) .commandStart)

def qctlQueue (s : State) : Nat := bits s.hb.qctl.toNat 15 0
def qctlOp (s : State) : Nat := bits s.hb.qctl.toNat 39 32
def qctlBusy (s : State) : Bool := bit s.hb.qctl.toNat 63
/-- QM_QCTL with BUSY and STATUS. -/
def setQctl (s : State) (busy : Bool) (status : Nat) : State :=
  { s with hb := { s.hb with qctl := BitVec.ofNat 64 ((if busy then 2 ^ 63 else 0) + status * 2 ^ 48 + qctlOp s * 2 ^ 32 + qctlQueue s) } }
/-- A command of QM_QCTL ends with a status. -/
def qctlEnd (s : State) (status : Nat) : State := later (setQctl s true status) .qctlComplete

/-- Entry q of the queue table, when it keeps R406 and names a bound context. -/
def readEntry (s : State) (q : Nat) : Option Queue :=
  let b := logBytes s (s.hb.qtable.toNat / 65536 * 65536 + 32 * q) 32
  let log2n := fieldAt b 0x13 1
  let x : Queue := { ring := fieldAt b 0 8, prog := fieldAt b 8 8, ctx := fieldAt b 0x10 2, level := fieldAt b 0x12 1, log2n, vec := fieldAt b 0x14 2,
                     tail := 0, progress := 0, nextCmd := 0, on := true, err := 0, started := [], active := false, stopping := false, dying := false, entered := 0,
                     served := 0, dirty := false, bell := none }
  if x.ctx < 4096 ∧ x.level < 8 ∧ 4 ≤ log2n ∧ log2n ≤ 16 ∧ 16 ≤ x.vec ∧ x.vec < 2048 ∧ zeroFrom b 0x16 10 ∧ x.prog % 8 = 0
      ∧ x.ring % 2 ^ (6 + log2n) = 0 ∧ (Tab.find s.ctxs x.ctx).isSome then some x else none

def queueOn (s : State) (q : Nat) : Bool :=
  match queueOf s q with
  | some x => x.on
  | none => false

/-- R407, LOAD. -/
def execQueueLoad (s : State) : Out :=
  let q := qctlQueue s
  if queueOn s q then .next (qctlEnd s 3)
  else match readEntry s q with
    | none => .next (qctlEnd s 2)
    | some x => .next (qctlEnd { s with queues := Tab.put s.queues q x } 0)

/-- R407, DISABLE: the queue starts nothing more; QCTL_COMPLETE waits for what it has started. -/
def execQueueDisable (s : State) : Out := .next (qctlEnd (putBack (setQ s (qctlQueue s) fun x => { x with stopping := true }) (qctlQueue s)) 0)

/-- R407, RESET. -/
def execQueueReset (s : State) : Out :=
  match queueOf s (qctlQueue s) with
  | some x =>
    if x.on ∧ x.err ≠ 0 then .next (qctlEnd (setQ (putBack s (qctlQueue s)) (qctlQueue s) fun x => { x with nextCmd := x.tail, stopping := true }) 0)
    else .next (qctlEnd s 3)
  | none => .next (qctlEnd s 3)

/-- R407, QCTL_COMPLETE: BUSY clears; a DISABLE and a RESET that have begun end here once nothing started is left. -/
def execQctlComplete (s : State) : Out :=
  if !qctlBusy s then .next s
  else
    let q := qctlQueue s
    let st := bits s.hb.qctl.toNat 55 48
    match queueOf s q with
    | some x =>
      if st = 0 ∧ x.stopping ∧ (qctlOp s = 2 ∨ qctlOp s = 3) then
        if !x.idle then .next s
        else if qctlOp s = 2 then .next (setQctl (setQ s q fun x => { x with on := false, active := false, stopping := false }) false 0)
        else
          .next (later (writeProgress (setQctl (setQ s q fun x =>
            { x with stopping := false, err := 0, started := [], progress := x.tail, nextCmd := x.tail, dirty := x.prog != 0 }) false 0) q) .commandStart)
      else .next (setQctl s false st)
    | none => .next (setQctl s false st)

/-! ### Doorbells (R408, R410) -/

/-- R408, R409: what a register of a queue's doorbell page reads. -/
def readDoorbell (s : State) (q off : Nat) : BitVec 64 :=
  match queueOf s q with
  | some x => if off = 0 then BitVec.ofNat 64 x.tail else if off = 8 then BitVec.ofNat 64 x.progress else 0
  | none => 0

/-- R408, TAIL: an 8-byte write of a queue's doorbell; while EN is 0 the queue manager does not read it (R405; DESIGN CHOICE, log 135:
the last value written then is judged once EN is 1). -/
def execQueueTail (q : Nat) (v : BitVec 64) (s : State) : Out :=
  match queueOf s q with
  | none => .next s
  | some x =>
    if !x.on then .next s
    else if !bit s.hb.qtable.toNat 0 then .next (setQ s q fun x => { x with bell := some v.toNat })
    else .next (takeTail s q v.toNat)

/-! ### Starting a command (R410, R411, R413) -/

/-- Copy engines that take another host command: fewer than 32 of them and room (R412). -/
def hostEngine (s : State) : Option Nat :=
  let n := fun e => (engEntries s e).length
  (((List.range 32).map (100 + ·)).filter fun e => decide (((engEntries s e).filter fun m => m.queue.isSome).length < 32) && !fqFull s (2000 + e) 64 (n e)).foldl
    (fun (b : Option Nat) e => match b with
      | none => some e
      | some d => if n e < n d then some e else some d) none

/-- A queue's next command is not read while the one before it has not started or a WAIT holds it (R410, R411). -/
def Queue.holdsBack (x : Queue) : Bool := !(x.started.all fun c => c.begun) || x.waiting

/-- Whether a command that has been read may start now (R411): what it waits for has completed, and the unit that takes it
has room. -/
def mayStart (s : State) (x : Queue) (b : List (BitVec 8)) : Bool :=
  let op := fieldAt b 0 1
  ((!bit (fieldAt b 1 1) 0 && op != 4 && op != 6 && op != 7) || x.idle)
    && (op != 2 || decide (s.raster.draws.length < 16)) && (op != 3 || (hostEngine s).isSome)

/-- Queues that may start a command, in the order of R413. -/
def startOrder (s : State) : List Nat :=
  let before := fun (a b : Nat × Queue) =>
    decide (a.2.level < b.2.level) || (a.2.level == b.2.level && (decide (a.2.served < b.2.served) || (a.2.served == b.2.served && decide (a.1 < b.1))))
  let ins := fun (e : Nat × Queue) (l : List (Nat × Queue)) => l.takeWhile (fun f => before f e) ++ e :: l.dropWhile (fun f => before f e)
  ((s.queues.filter fun e => e.2.active && candidate s e.2).foldr ins []).map (·.1)

/-- A command starts: it is read whole, and its event follows at once. -/
def startCmd (s : State) (q : Nat) (x : Queue) (b : List (BitVec 8)) : State :=
  if cmdBad b then queueError s q 4 x.nextCmd
  else
    let op := fieldAt b 0 1
    let (s, t) := newId s
    let c : Cmd := { idx := x.nextCmd, bytes := b, begun := !(op == 1 || op == 2 || op == 3), ran := false, done := false, since := s.time }
    runCmd (later (setQ s q fun x => { x with nextCmd := x.nextCmd + 1, started := x.started ++ [c], served := t }) .commandStart) q x.nextCmd (cmdEvent op)

/-- Look at queues in order until one starts; a ring read that must wait asks, one whose fault stands is an ERROR. -/
def startFirst : List Nat → State → State
  | [], s => s
  | q :: qs, s => match queueOf s q with
    | none => startFirst qs s
    | some x =>
      if x.holdsBack then startFirst qs s
      else match engBytes engQm x.ctx (queueKey q) (x.ring + 64 * (x.nextCmd % 2 ^ x.log2n)) 64 s with
      | (.ok b, s) => if mayStart s x b then startCmd s q x b else startFirst qs s
      | (.error (.wait ps), s) => startFirst qs (engAsk s engQm x.ctx (queueKey q) ps)
      | (.error (.fault ..), s) => startFirst qs (queueError s q 2 x.nextCmd)
      | (.error (.lost ..), s) => startFirst qs (queueError s q 2 x.nextCmd)
      | (.error _, s) => startFirst qs s

/-- Whether a started command's event is to be tried again: its start condition is still to be met, while its queue may start commands;
or what it does waits for a surface, a page or a locked frame. A WAIT looks again by itself. -/
def Cmd.open (s : State) (x : Queue) (c : Cmd) : Bool :=
  !c.ran && (if c.begun then [4, 7, 8, 9, 10].contains c.op else queueRuns s x)
def openCmds (s : State) : List (Nat × Nat × Nat) :=
  s.queues.flatMap fun e => (e.2.started.filter (Cmd.open s e.2)).map fun c => (e.1, c.idx, c.op)

/-- R411, COMMAND_START: one command of the best level that has one ready. -/
def execCommandStart (s : State) : Out :=
  if !bit s.hb.qtable.toNat 0 then .next s
  else
    let s := activeSwitch s
    .next (startFirst (startOrder s) s)

/-- A queue goes on after its accesses have been answered, or what its commands wait for has changed. -/
def wakeQueue (s : State) (q : Nat) : State :=
  match queueOf s q with
  | none => s
  | some x =>
    let s := (x.started.filter fun c => Cmd.open s x c || (!c.ran && c.op == 5)).foldr (fun c s => runCmd s q c.idx (cmdEvent c.op)) s
    later (writeProgress s q) .commandStart

/-- Whether all that a command started has ended: its own work, its launch, its copy. -/
def cmdEnded (s : State) (q : Nat) (c : Cmd) : Bool :=
  c.ran || (c.begun && (match c.op with
    | 1 => !(s.launches.any fun e => e.2.kind == .ordinary && e.2.queue == q && e.2.cmd == c.idx)
    | 3 => !(s.engCmds.any fun m => m.queue == some (q, c.idx))
    | _ => false))

/-- R409, COMMAND_COMPLETE: the command completes, completed ones commit in order, PROGRESS is written. -/
def execCommandComplete (q idx : Nat) (s : State) : Out :=
  match queueOf s q with
  | none => .next s
  | some x =>
    let s := match x.started.find? fun c => c.idx == idx && !c.done && cmdEnded s q c with
      | some c =>
        let s := setQ s q fun x => commitCmds (x.started.length + 1) { x with started := x.started.map fun e =>
          if e.idx == idx then { e with begun := true, ran := true, done := true } else e }
        let s := setQ s q Queue.settleKill
        if bit (fieldAt c.bytes 1 1) 1 then signal s x.vec else s
      | none => s
    .next (laterAll (writeProgress s q) [.qctlComplete, .commandStart])

/-! ### The simple commands (R411) -/

/-- R411, SIGNAL: a release at system scope. -/
def execQueueSignal (s : State) : Out :=
  runQueueCmd s fun s q i x c =>
    match engCheck s engQm x.ctx (queueKey q) 2 ((List.range 8).map (c.a + ·)) with
    | .ok ls => cmdDone (engWrite s engQm x.ctx ls (leBytes 8 c.b) []) q i
    | r => cmdStop s q i x r

/-- R411, FENCE. -/
def execQueueFence (s : State) : Out := runQueueCmd s fun s q i _ _ => cmdDone s q i

/-- R411, TIMESTAMP. -/
def execQueueTimestamp (s : State) : Out :=
  runQueueCmd s fun s q i x c =>
    match engCheck s engQm x.ctx (queueKey q) 2 ((List.range 8).map (c.a + ·)) with
    | .ok ls => cmdDone (engWrite s engQm x.ctx ls (leBytes 8 s.time) []) q i
    | r => cmdStop s q i x r

/-- A WAIT's condition on the word it names. -/
def waitMet (c : Cmd) (v : Nat) : Bool :=
  match fieldAt c.bytes 0x20 1 with
  | 0 => v == c.b
  | 1 => v != c.b
  | _ => decide (c.b ≤ v)

/-- One look at the word of a WAIT, at its home. -/
def lookWait (s : State) (q i : Nat) (x : Queue) (c : Cmd) : State :=
  match engCheck s engQm x.ctx (queueKey q) 1 ((List.range 8).map (c.a + ·)) with
  | .ok ls =>
    let (s, b, bad) := engRead s engQm x.ctx ls
    if !bad.isEmpty then queueError s q 2 i else if waitMet c (leNat b) then cmdDone s q i else s
  | r => cmdStop s q i x r

/-- R411, WAIT. -/
def execQueueWait (s : State) : Out := runQueueCmd s lookWait

/-- The started WAIT of a queue that has not ended. -/
def waitOf (x : Queue) : Option Cmd := x.started.find? fun c => c.op == 5 && !c.ran

/-- R411, WAIT_COMPLETE: a started WAIT looks again. -/
def execWaitComplete (q : Nat) (s : State) : Out :=
  match queueOf s q with
  | none => .next s
  | some x => match waitOf x with
    | some c => .next (lookWait s q c.idx x c)
    | none => .next s

/-- R411, WAIT_TIMEOUT: the WAIT ends without completing. -/
def execWaitTimeout (q t : Nat) (s : State) : Out :=
  let s := atTime s t
  match queueOf s q with
  | none => .next s
  | some x => match waitOf x with
    | some c =>
      let n := fieldAt c.bytes 0x18 8
      if n ≠ 0 ∧ c.since + n ≤ s.time then .next (queueError s q 3 c.idx) else .next s
    | none => .next s

/-- R411, SALLOC: as `salloc`; the surface address and the status go to RESULT. A template that `salloc` would trap on
ends the command with its record. -/
def execQueueSalloc (s : State) : Out :=
  runQueueCmd s fun s q i x c =>
    match engBytes engQm x.ctx (queueKey q) c.a 64 s with
    | (.error r, s) => cmdStop s q i x r
    | (.ok t, s) => match engCheck s engQm x.ctx (queueKey q) 2 ((List.range 16).map (c.b + ·)) with
      | .ok ls =>
        let bad := fun (cls det a : Nat) => cmdDone (postRecs s x.ctx (endedRecs s x.ctx cls det 0x0400 a (i % 2 ^ 32) q c.a 0 false)) q i
        match parseTemplate t x.ctx 0 with
        | none => bad 0x08 1 c.a
        | some f =>
          if !spillBacked s x.ctx f then bad 0x02 (memDetail 1 3) f.spill
          else
            let (s, st, a) := allocSurf s x.ctx t
            cmdDone (engWrite s engQm x.ctx ls (leBytes 8 a ++ leBytes 8 st) []) q i
      | r => cmdStop s q i x r

/-- R411, SFREE: as `sfree`; it waits until nothing is in flight in the surface. -/
def execQueueSfree (s : State) : Out :=
  runQueueCmd s fun s q i x c =>
    match surfCheck s x.ctx c.a 1 3 with
    | .error _ => queueError s q 2 i
    | .ok f =>
      if f.bytes ≤ saOff c.a then queueError s q 2 i
      else if (List.range f.nt).any (inFlight s (saHandle c.a)) then s
      else cmdDone (freeSurf s (saHandle c.a)) q i

/-! ### COPY and DRAW (R347, R412) -/

/-- R412, COPY: an engine entry takes it, and its descriptor is fetched. -/
def execQueueCopy (s : State) : Out :=
  runQueueCmd s fun s q i x c =>
    if c.begun then s
    else match hostEngine s with
      | none => s
      | some e =>
        let (s, id) := newId (fqTake s (2000 + e) 64 (engEntries s e).length)
        let m : EngCmd := { id, eng := e, desc := [], descAddr := c.a, value := BitVec.ofNat 64 c.b, scope := 6, ctx := x.ctx, core := 0, launch := 0, key := 0, team := 0,
                            member := (0, 0), pc := i, who := 0, queue := some (q, i), cls := 0, sloc := none, dloc := none, cloc := none, tiles := [], moved := 0, paid := false, failed := none }
        beginCmd (hostDesc { s with engCmds := s.engCmds ++ [m] } m) q i

/-- A host draw that is malformed, or whose reads fault, is not accepted: its records name the descriptor. -/
def refuseDraw (s : State) (q i : Nat) (x : Queue) (c : Cmd) (cls det addr : Nat) : State :=
  cmdDone (postRecs s x.ctx (endedRecs s x.ctx cls det 0x0400 addr (i % 2 ^ 32) q c.a 0 false)) q i

/-- R347, DRAW: the descriptor is read and checked, and goes to the front ends when they have room. -/
def execQueueDraw (s : State) : Out :=
  runQueueCmd s fun s q i x c =>
    if c.begun ∨ 16 ≤ s.raster.draws.length ∨ (s.raster.draws.any fun d => d.queue == some (q, i)) then s
    else
      let stop := fun (s : State) (r : EngRes) => match r with
        | .fault k a _ => refuseDraw s q i x c k 0 a
        | .lost d _ => refuseDraw s q i x c 0 0 d
        | r => cmdStop s q i x r
      match engBytes engQm x.ctx (queueKey q) c.a 64 s with
      | (.error r, s) => stop s r
      | (.ok b, s) => match readDraw s x.ctx b (fun va n => engBytes engQm x.ctx (queueKey q) (va % 2 ^ 64) n) s with
        | (.error r, s) => stop s r
        | (.ok (.error o), s) => refuseDraw s q i x c 0x08 1 (c.a + o)
        | (.ok (.ok (ts, vi, fi)), s) =>
          if (parseDraw b).cw = 1 ∨ (parseDraw b).cw = 3 then refuseDraw s q i x c 0x08 1 (c.a + 0x2C)
          else
            let (s, id) := addDraw s x.ctx (some (q, i)) b c.a ts vi fi none 0 0 (i % 2 ^ 32)
            later (clearXfaults s engQm (queueKey q)) (.drawAccept id)

/-! ### LAUNCH (R414) -/

/-- Bytes of a team slot that a launch needs (R442). -/
def saveNeed (i : Image) : Nat := 256 + i.groups * (18432 + i.regBytes) + i.scratch * (if i.paired then 2 else 1)

/-- R414 but for the room of a cooperative launch. -/
def admits (c : Ctx) (i : Image) (x y z : Nat) : Bool :=
  decide (1 ≤ x) && decide (1 ≤ y) && decide (1 ≤ z) && decide (i.split.1 * i.regBytes ≤ 2 ^ 20)
    && (if c.harvest then !i.paired && !i.coop && decide (i.groups ≤ 16) && decide (i.groups * i.regBytes ≤ 2 ^ 18)
        else decide (saveNeed i ≤ c.slotSize))

/-- Cores for `n` teams placed one after another from team `tid`, if all find a place. -/
def planTeams (lk : Nat) (l : Launch) : Nat → Nat → State → Option (List Nat)
  | 0, _, _ => some []
  | n + 1, tid, s => match chooseCore s lk l.img false 88 with
    | none => none
    | some core => (planTeams lk l n (tid + 1) (startTeam s lk l tid core fun _ g => g)).map (core :: ·)

/-- The device as admission measures a cooperative launch against it (R414): nothing resident, every core below its limit, every
cluster measured. -/
def emptied (s : State) : State :=
  { s with groups := [], teams := [], launches := [], cores := [],
           clusters := (List.range 22).map fun cl => (cl, { clusterInfo s cl with measured := s.time }) }

/-- R414, LAUNCH. -/
def execQueueLaunch (s : State) : Out :=
  runQueueCmd s fun s q i x c =>
    if c.begun then s
    else match readImage (fun va n => engBytes engQm x.ctx (queueKey q) (va % 2 ^ 64) n) c.a s, Tab.find s.ctxs x.ctx with
      | (.error r, s), _ => cmdStop s q i x r
      | (_, s), none => queueError s q 5 i
      | (.ok none, s), _ => queueError s q 5 i
      | (.ok (some img), s), some k =>
        let f := fun o n => fieldAt c.bytes o n
        let l : Launch := { lid := q * 2 ^ 48 + i % 2 ^ 48, ctx := x.ctx, img, x := f 0x28 2, y := f 0x2A 2, z := f 0x2C 2, consts := c.b, constLen := f 0x18 4,
                            pvBase := f 0x20 8, pvLane := f 4 4, nextTeam := 0, exited := 0, residency := [], killed := false, queue := q, cmd := i,
                            kind := .ordinary, draw := 0, room := [], since := none }
        if l.constLen < img.constSize then queueError s q 4 i
        else if !admits k img l.x l.y l.z then queueError s q 5 i
        else
          let (s, lk) := newId s
          let s := clearXfaults s engQm (queueKey q)
          let add := fun (l : Launch) => wakePlacement (beginCmd { s with launches := Tab.put s.launches lk l } q i)
          if img.coop then
            match planTeams lk l l.total 0 (emptied s) with
            | some cores => add { l with room := cores }
            | none => queueError s q 5 i
          else add l

end Sys2Proof.Machine
end

