-- ==== Sys2Proof/Machine/TraceTests.lean ====
section
/-! DEFINITION. The arithmetic of traversal: rays and boxes (R320 to R325), instances (R328), triangles (R329, R330), levels of
detail (R331). -/
namespace Sys2Proof.Machine

/-! ### Exact values -/

def f32 (b : Nat) : XV := unpack (fmtOf tF32) (b % 2 ^ 32)
def f64 (b : Nat) : XV := unpack (fmtOf tF64) (b % 2 ^ 64)
/-- One rounding in RNE, as a value. -/
def r32 (x : XV) : XV := f32 (rneTo (fmtOf tF32) x)
def r64 (x : XV) : XV := f64 (rneTo (fmtOf tF64) x)
def xsub (a b : XV) : XV := xadd false a b.negate
def xzero : XV := .fin false 0 1 0
def xabs : XV → XV
  | .fin _ n d e => .fin false n d e
  | .inf _ => .inf false
  | x => x
/-- Comparisons that are false with a NaN. -/
def tle (a b : XV) : Bool := !a.isNan && !b.isNan && xle a b
def tlt (a b : XV) : Bool := !a.isNan && !b.isNan && xlt a b
def finite : XV → Bool
  | .fin .. => true
  | _ => false
def xmax (a b : XV) : XV := if tlt a b then b else a
def xmin (a b : XV) : XV := if tlt b a then b else a
def isPos (x : XV) : Bool := tlt xzero x
def isNegV (x : XV) : Bool := tlt x xzero

/-- R325's rounding to a 24-bit significand, downward or upward, with no lower limit of the exponent and overflow to
infinity. -/
def round24 (up : Bool) : XV → XV
  | .fin neg n d e =>
    if n = 0 then .fin neg 0 1 0
    else
      let q := floorLog n d e - 23
      let sh := e - q
      let num := if sh < 0 then n else n <<< sh.natAbs
      let den := if sh < 0 then d <<< sh.natAbs else d
      let k := num / den
      let k := if num % den ≠ 0 ∧ neg ≠ up then k + 1 else k
      if (2 ^ 24 - 1) * 2 ^ 104 < (if 0 ≤ q then k * 2 ^ q.toNat else 0) then .inf neg else .fin neg k 1 q
  | x => x

/-! ### The ray (R320, R321) -/

def coord (l : List Nat) (a : Nat) : Nat := l.getD a 0
/-- Origin and direction as bits. -/
def rayO (r : List (BitVec 8)) : List Nat := (List.range 3).map fun a => fieldAt r (8 * a) 8
def rayD (r : List (BitVec 8)) : List Nat := (List.range 3).map fun a => fieldAt r (0x18 + 4 * a) 4
def raySpread (r : List (BitVec 8)) : XV := f32 (fieldAt r 0x24 4)
def rayTmin (r : List (BitVec 8)) : XV := f64 (fieldAt r 0x28 8)
def rayWidth (r : List (BitVec 8)) : XV := f32 (fieldAt r 0x38 4)
def rayId (r : List (BitVec 8)) : Nat := fieldAt r 0x3C 3
def rayFlags (r : List (BitVec 8)) : Nat := fieldAt r 0x3F 1
def flagAny (r : List (BitVec 8)) : Bool := bit (rayFlags r) 0
def flagCullBack (r : List (BitVec 8)) : Bool := bit (rayFlags r) 1
def flagCullFront (r : List (BitVec 8)) : Bool := bit (rayFlags r) 2
def flagLod (r : List (BitVec 8)) : Bool := bit (rayFlags r) 3
def flagLog (r : List (BitVec 8)) : Bool := bit (rayFlags r) 4

/-- An origin and a direction that R321 calls degenerate. -/
def badSpace (o d : List Nat) : Bool :=
  !(o.all fun x => finite (f64 x)) || !(d.all fun x => finite (f32 x)) || d.all fun x => (f32 x).isZero

/-- R321 for a world ray. The TMAX of a held hit is the distance accepted, no longer the ray's own, and is not tested
(DEDUCED, log 115). -/
def degenerate (t : Trav) : Bool :=
  badSpace (rayO t.ray) (rayD t.ray) || (rayTmin t.ray).isNan
    || (!t.haveHit && ((f64 t.tmax).isNan || tlt (f64 t.tmax) (rayTmin t.ray)))

/-- The ray of the space the traversal stands in. -/
def Trav.o (t : Trav) : List Nat := if t.inst then t.obj.take 3 else rayO t.ray
def Trav.d (t : Trav) : List Nat := if t.inst then t.obj.drop 3 else rayD t.ray

/-! ### The box test (R325) -/

/-- One axis: `none` when the box is missed, else the slab. -/
def slab (o d lo hi : XV) : Option (XV × XV) :=
  if d.isZero then (if tle lo o && tle o hi then some (.inf true, .inf false) else none)
  else
    let q1 := xdiv (xsub lo o) d
    let q2 := xdiv (xsub hi o) d
    if q1.isNan || q2.isNan then none else some (round24 false (xmin q1 q2), round24 true (xmax q1 q2))

/-- Whether the box is hit, its entry, and tnear. -/
def boxTest (t : Trav) (lo hi : List XV) : Bool × XV × XV :=
  let at' := fun (l : List XV) a => l.getD a xzero
  if !((List.range 3).all fun a => tle (at' lo a) (at' hi a)) then (false, .inf true, .inf true)
  else
    let ss := (List.range 3).map fun a => slab (f64 (coord t.o a)) (f32 (coord t.d a)) (at' lo a) (at' hi a)
    if ss.any Option.isNone then (false, .inf true, .inf true)
    else
      let ss := ss.filterMap id
      let entry := ss.foldl (fun m x => xmax m x.1) (.inf true)
      let exit' := ss.foldl (fun m x => xmin m x.2) (.inf false)
      let tn := xmax entry (round24 false (rayTmin t.ray))
      let tf := xmin exit' (round24 true (f64 t.tmax))
      (tle tn tf, entry, tn)

/-! ### Instances (R328) -/

/-- The object-space ray that an instance record's transform gives. -/
def objectRay (t : Trav) (rc : List (BitVec 8)) : List Nat :=
  let m := fun r k => f64 (fieldAt rc (8 * (4 * r + k)) 8)
  let o := rayO t.ray
  let d := rayD t.ray
  ((List.range 3).map fun r => rneTo (fmtOf tF64) (sumXV (((List.range 3).map fun k => xmul (m r k) (f64 (coord o k))) ++ [m r 3])))
    ++ (List.range 3).map fun r => rneTo (fmtOf tF32) (sumXV ((List.range 3).map fun k => xmul (m r k) (f32 (coord d k))))

/-! ### The triangle test (R329, R330) -/

structure TriRes where
  found : Bool
  pos : Bool
  fallback : Bool
  t : XV
  hu : XV
  hv : XV
deriving DecidableEq, Repr

/-- The axis of largest |D|, ties to the lowest. -/
def mainAxis (d : List Nat) : Nat :=
  let m := fun a => xabs (f32 (coord d a))
  if tle (m 1) (m 0) && tle (m 2) (m 0) then 0 else if tle (m 2) (m 1) then 1 else 2

/-- A vertex in the sheared space. -/
structure Shear where
  x : XV
  y : XV
  z : XV
deriving DecidableEq, Repr

/-- An edge whose function is zero owns the point by its sheared vector, turned by the sign of det (R330). -/
def ownsEdge (neg : Bool) (a b : Shear) : Bool :=
  let turn := fun (x : XV) => if neg then x.negate else x
  let x := turn (xsub b.x a.x)
  let y := turn (xsub b.y a.y)
  isPos y || (y.isZero && isNegV x)

/-- R329 for one triangle against a ray: what is computed, found or not. -/
def triTest (o d : List Nat) (vs : List (List XV)) : TriRes :=
  let kz := mainAxis d
  let kx := (kz + 1) % 3
  let ky := (kx + 1) % 3
  let dd := fun a => f32 (coord d a)
  let (kx, ky) := if isNegV (dd kz) then (ky, kx) else (kx, ky)
  let sx := r32 (xdiv (dd kx) (dd kz))
  let sy := r32 (xdiv (dd ky) (dd kz))
  let sz := r32 (xdiv (.fin false 1 1 0) (dd kz))
  let shear := fun (v : List XV) =>
    let p := fun a => r32 (xsub (v.getD a xzero) (f64 (coord o a)))
    ({ x := r32 (xsub (p kx) (xmul sx (p kz))), y := r32 (xsub (p ky) (xmul sy (p kz))), z := r32 (xmul sz (p kz)) } : Shear)
  let a := shear (vs.getD 0 [])
  let b := shear (vs.getD 1 [])
  let c := shear (vs.getD 2 [])
  let eu := xsub (xmul c.x b.y) (xmul c.y b.x)
  let ev := xsub (xmul a.x c.y) (xmul a.y c.x)
  let ew := xsub (xmul b.x a.y) (xmul b.y a.x)
  let fb := (r32 eu).isZero || (r32 ev).isZero || (r32 ew).isZero
  let rd := if fb then r64 else r32
  let u := rd eu
  let v := rd ev
  let w := rd ew
  let det := xadd false (xadd false u v) w
  let t := r64 (xdiv (xadd false (xadd false (xmul u a.z) (xmul v b.z)) (xmul w c.z)) det)
  let plus := fun (x : XV) => if x.isZero then xzero else x
  let hu := plus (r32 (xdiv v det))
  let hv := plus (r32 (xdiv w det))
  let neg := isNegV det
  let okAll := [sx, sy, sz, a.x, a.y, a.z, b.x, b.y, b.z, c.x, c.y, c.z, u, v, w, det].all finite
  let side := fun (x : XV) (p q : Shear) => if x.isZero then ownsEdge neg p q else isNegV x == neg
  let found := okAll && !det.isZero && side u b c && side v c a && side w a b && finite t
  { found, pos := isPos det, fallback := fb, t, hu, hv }

/-! ### Level of detail (R331) -/

/-- A node's fields (R322). -/
def nodeBox (n : List (BitVec 8)) (q0 : Nat) : List XV :=
  (List.range 3).map fun a => xadd false (f32 (fieldAt n (4 * a) 4)) (.fin false (fieldAt n (q0 + a) 1) 1 (toS 8 (fieldAt n (0x0C + a) 1)))
def frameHigh (n : List (BitVec 8)) : List XV :=
  (List.range 3).map fun a => xadd false (f32 (fieldAt n (4 * a) 4)) (.fin false 255 1 (toS 8 (fieldAt n (0x0C + a) 1)))
def nodeCount (n : List (BitVec 8)) : Nat := fieldAt n 0x0F 1 % 8
def nodeLod (n : List (BitVec 8)) : Bool := bit (fieldAt n 0x0F 1) 3
def nodeRef (n : List (BitVec 8)) (i : Nat) : Nat := fieldAt n (0x10 + 8 * i) 8
def nodeSet (n : List (BitVec 8)) (j : Nat) : Nat := fieldAt n (0x64 + j) 1
def nodeThr (n : List (BitVec 8)) (i : Nat) : XV := f32 (fieldAt n (0x68 + 4 * (i - 1)) 4)
def nodeBand (n : List (BitVec 8)) (i : Nat) : XV := f32 (fieldAt n (0x74 + 4 * (i - 1)) 4)
/-- Valid sets. -/
def validSets (n : List (BitVec 8)) : Nat := ((List.range 4).filter fun j => bit (nodeSet n j) 7).length

/-- tL: the entry of the frame box, or TMIN rounded down to F32. -/
def nodeTL (t : Trav) (n : List (BitVec 8)) : XV :=
  let tm := f32 ((roundTo (fmtOf tF32) 3 false none (rayTmin t.ray)).bits)
  let frame := (List.range 3).map fun a => f32 (fieldAt n (4 * a) 4)
  let (hit, entry, _) := boxTest t frame (frameHigh n)
  if hit then xmax tm entry else tm

/-- The 24-bit hash u of a seed, a ray and a node. -/
def lodHash (seed rayid addr : Nat) : Nat :=
  let m := 2 ^ 32
  let h := seed ^^^ (rayid * 0x2C9F85A1 % m) ^^^ (bits addr 38 7 ^^^ bits addr 63 39)
  let h := (h ^^^ h / 2 ^ 16) * 0x6C8E9CF5 % m
  let h := (h ^^^ h / 2 ^ 13) * 0x9A3D2B67 % m
  (h ^^^ h / 2 ^ 16) / 2 ^ 8

/-- The chosen set j. -/
def lodSet (t : Trav) (n : List (BitVec 8)) (addr : Nat) : Nat :=
  let w := r32 (xadd false (xmul (raySpread t.ray) (nodeTL t n)) (rayWidth t.ray))
  let u := lodHash t.seed (rayId t.ray) addr
  (List.range (validSets n - 1)).foldl (fun j k =>
    let i := k + 1
    let b := nodeBand n i
    let taken := if b.isZero then tle (nodeThr n i) w
      else tlt (xmul (ofInt u 1 0) b) (xmul (ofInt (2 ^ 24) 1 0) (xadd false (xsub w (nodeThr n i)) (xscale (-1) b)))
    if taken then j + 1 else j) 0

end Sys2Proof.Machine
end

