-- ==== Sys2Proof/Machine/Traversal.lean ====
section
/-! DEFINITION. Traversal units (R326 to R340): state records, visits, the log, suspension, resume and replay. -/
namespace Sys2Proof.Machine

/-! ### State records (R332) -/

def missing32 : Nat := 2 ^ 32 - 1

/-- The fields of a record's bytes. -/
def parseTrav (b : List (BitVec 8)) : Trav :=
  let st := fieldAt b 0x94 4
  { ray := b.take 64, tmax := fieldAt b 0x30 8, thit := fieldAt b 0x40 8, hu := fieldAt b 0x48 4, hv := fieldAt b 0x4C 4,
    hprim := fieldAt b 0x50 4, hinst := fieldAt b 0x54 4, hleaf := fieldAt b 0x58 8, cprim := fieldAt b 0x60 4, cuser := fieldAt b 0x64 4,
    cur := fieldAt b 0x68 8, cinst := fieldAt b 0x70 4, seed := fieldAt b 0x74 4, ovf := fieldAt b 0x78 8, log := fieldAt b 0x80 8,
    loglim := fieldAt b 0x88 4, logn := fieldAt b 0x8C 4, nodes := fieldAt b 0x90 4, root := fieldAt b 0x98 8, instref := fieldAt b 0xA0 8,
    cursor := fieldAt b 0xA8 4, depth := bits st 6 0, stack := (List.range (min 10 (bits st 6 0))).map fun i => fieldAt b (0xB0 + 8 * i) 8,
    inst := bit st 7, haveHit := bit st 8, phase := bits st 11 9, cidx := bits st 15 12, cacc := bit st 16, trunc := bit st 17,
    instid := missing32, obj := [], rooted := false, resuming := true }

def Trav.state (t : Trav) : Nat :=
  let b := fun (x : Bool) => if x then 1 else 0
  t.depth + 2 ^ 7 * b t.inst + 2 ^ 8 * b t.haveHit + 2 ^ 9 * t.phase + 2 ^ 12 * t.cidx + 2 ^ 16 * b t.cacc + 2 ^ 17 * b t.trunc

/-- The 256 bytes of a record. -/
def travBytes (t : Trav) : List (BitVec 8) :=
  patchAt t.ray 0x30 (leBytes 8 t.tmax) ++ leBytes 8 t.thit ++ leBytes 4 t.hu ++ leBytes 4 t.hv ++ leBytes 4 t.hprim ++ leBytes 4 t.hinst
    ++ leBytes 8 t.hleaf ++ leBytes 4 t.cprim ++ leBytes 4 t.cuser ++ leBytes 8 t.cur ++ leBytes 4 t.cinst ++ leBytes 4 t.seed
    ++ leBytes 8 t.ovf ++ leBytes 8 t.log ++ leBytes 4 t.loglim ++ leBytes 4 t.logn ++ leBytes 4 t.nodes ++ leBytes 4 t.state
    ++ leBytes 8 t.root ++ leBytes 8 t.instref ++ leBytes 4 t.cursor ++ leBytes 4 0
    ++ (List.range 10).flatMap fun i => leBytes 8 (t.stack.getD i 0)

/-- R339, `trav.start`: every field but RAY, OVF, LOG and LOGLIM reset; the HIT fields as for a miss. -/
def startTrav (b : List (BitVec 8)) (root seed : Nat) : Trav :=
  { parseTrav b with thit := 0, hu := 0, hv := 0, hprim := missing32, hinst := missing32, hleaf := 0, cprim := 0, cuser := 0, cur := root,
                     cinst := 0, seed, logn := 0, nodes := 0, root, instref := 0, cursor := 0, depth := 0, stack := [], inst := false,
                     haveHit := false, phase := 0, cidx := 0, cacc := false, trunc := false, rooted := true }

/-- R340, `trep.start`: the replay begins in the world space with no hit (log 36). -/
def startTrep (b : List (BitVec 8)) : Trav :=
  { parseTrav b with thit := 0, hu := 0, hv := 0, hprim := missing32, hinst := missing32, hleaf := 0, instref := 0, cursor := 0,
                     inst := false, haveHit := false, cacc := false }

/-! ### Fetches (R336) -/

/-- Why a visit makes no decision now. -/
inductive TStop where
  | wait (pages : List (Nat × Nat))
  | stall
  /-- A fault that stands, with the reference it names if that is not CUR. -/
  | fault (cls detail addr : Nat) (ref : Option Nat)
  /-- A poisoned sector, in the state in which its line has been verified (R99, R438). -/
  | bad (s : State) (sector : Nat) (ref : Option Nat)
  /-- The same in the lane's own record, which could not be read: it is not written. -/
  | badRec (s : State) (sector : Nat)

/-- How a lane goes on or ends. -/
inductive TOut where
  | go (t : Trav)
  /-- An end whose record is written. -/
  | ended (t : Trav) (code : Nat)
  /-- R333: MALFORMED, the record not written. -/
  | unfit
deriving DecidableEq, Repr

abbrev TTry := Except TStop
abbrev engTrav (cl : Nat) : Nat := 200 + cl

def travPlaces (s : State) (r : Ray) (va n need : Nat) : TTry (List Loc) :=
  match engCheck s (engTrav r.cl) r.ctx r.id need ((List.range n).map (va + ·)) with
  | .ok ls => .ok ls
  | .wait ps => .error (.wait ps)
  | .stall => .error .stall
  | .fault c i _ => .error (.fault c (need - 1) ((va + i) % 2 ^ 64 / 4096 * 4096) none)
  | .lost dev _ => .error (.fault 0 (need - 1) dev none)

/-- A read, in requests of the unit's source (R115) that fill the slices' lines (R85); a poisoned sector is a fault that
stands (R438). -/
def travGet (s : State) (r : Ray) (va n : Nat) : TTry (State × List (BitVec 8)) := do
  let ls ← travPlaces s r va n 1
  let s := touchPlaces (countLines s (unitSource s (engTrav r.cl)) false ls) r.ctx ls
  match firstBad s ls with
  | some sec => .error (.bad s sec none)
  | none => pure (s, readHome s ls)

/-- A fetch whose fault leaves CUR naming the reference `ref` (R336). -/
def naming (ref : Nat) : TTry (State × List (BitVec 8)) → TTry (State × List (BitVec 8))
  | .error (.fault c d a _) => .error (.fault c d a (some ref))
  | .error (.bad s x _) => .error (.bad s x (some ref))
  | x => x

def travPut (s : State) (r : Ray) (va : Nat) (bs : List (BitVec 8)) : TTry State := do
  let ls ← travPlaces s r va bs.length 2
  pure (writeHome (countLines s (unitSource s (engTrav r.cl)) true ls) r.ctx (ls.zip bs))

/-! ### The log (R338) -/

/-- The T of a log record: an F32 rounded in RNE, or the canonical NaN. -/
def logT : Option XV → Nat
  | some x => rneTo (fmtOf tF32) x
  | none => (fmtOf tF32).nanBits

def travLog (s : State) (r : Ray) (t : Trav) (kind addr idx dec : Nat) (v : Option XV) : TTry (State × Trav) :=
  if t.log = 0 ∨ !flagLog t.ray ∨ t.trunc ∨ r.replay then .ok (s, t)
  else if t.loglim < 16 * t.logn + 16 then .ok (s, { t with trunc := true })
  else do
    let s ← travPut s r (t.log + 16 * t.logn) (leBytes 8 (addr / 128 * 128 + 16 * kind + idx) ++ leBytes 4 dec ++ leBytes 4 (logT v))
    pure (s, { t with logn := t.logn + 1 })

/-! ### The stack (R326, R332) -/

def depthLimit (t : Trav) : Nat := if t.ovf = 0 then 10 else 64

/-- A push; the Bool is false for one that would exceed the limit. -/
def travPush (s : State) (r : Ray) (t : Trav) (ref : Nat) : TTry (State × Trav × Bool) :=
  if depthLimit t ≤ t.depth then .ok (s, t, false)
  else if t.depth < 10 then .ok (s, { t with stack := t.stack.take t.depth ++ [ref], depth := t.depth + 1 }, true)
  else do
    let s ← travPut s r (t.ovf + 8 * (t.depth - 10)) (leBytes 8 ref)
    pure (s, { t with depth := t.depth + 1 }, true)

def travPushes (s : State) (r : Ray) (t : Trav) : List Nat → TTry (State × Trav × Bool)
  | [] => .ok (s, t, true)
  | x :: xs => do
    let (s, t, ok) ← travPush s r t x
    if ok then travPushes s r t xs else pure (s, t, false)

/-- Pop the top entry into CUR; an empty stack ends the traversal. -/
def travPop (s : State) (r : Ray) (t : Trav) : TTry (State × TOut) := do
  let t := { t with cidx := 0, rooted := false }
  if t.depth = 0 then pure (s, .ended t (if t.haveHit then 0 else 1))
  else
    let i := t.depth - 1
    let (s, ref) ← if i < 10 then pure (s, t.stack.getD i 0) else (travGet s r (t.ovf + 8 * (i - 10)) 8).map fun x => (x.1, leNat x.2)
    pure (s, .go { t with cur := ref, depth := i, stack := t.stack.take i })

/-! ### References (R323) -/

def refKind (x : Nat) : Nat := x % 8
def refCount (x : Nat) : Nat := bits x 6 3 + 1
def refAddr (x : Nat) : Nat := x / 128 * 128

/-! ### Visits (R326, R327) -/

/-- R327: acceptance of a candidate at a distance. -/
def accepts (t : Trav) (x : XV) : Bool :=
  tle (rayTmin t.ray) x && tle x (f64 t.tmax) && (!t.haveHit || tlt x (f64 t.thit))

/-- R324 at a node. -/
def nodeBad (n : List (BitVec 8)) : Bool :=
  let nf := fieldAt n 0x0F 1
  let valid := (List.range 4).map fun j => bit (nodeSet n j) 7
  nodeCount n == 7 || decide (16 ≤ nf) || (List.range 4).any (fun j => bit (nodeSet n j) 6)
    || (nodeLod n && (!(valid.getD 0 false) || (List.range 3).any fun j => !(valid.getD j false) && valid.getD (j + 1) false))
    || (List.range 3).any (fun i => (nodeBand n (i + 1)).isNan || isNegV (nodeBand n (i + 1)))
    || (List.range (nodeCount n)).any fun i =>
        let x := nodeRef n i
        decide (5 ≤ refKind x) || (refKind x == 1 && refCount x != 1)

/-- A hit child in its place: decreasing tnear, ties by decreasing index. -/
def insertHit (x : XV × Nat) : List (XV × Nat) → List (XV × Nat)
  | [] => [x]
  | y :: ys => if tlt y.1 x.1 || (!tlt x.1 y.1 && decide (y.2 < x.2)) then x :: y :: ys else y :: insertHit x ys

/-- The hit children of a node in push order, and the chosen set. -/
def nodeHits (t : Trav) (n : List (BitVec 8)) (addr : Nat) : List (XV × Nat) × Nat :=
  let lod := nodeLod n && flagLod t.ray
  let j := if lod then lodSet t n addr else 0
  let mask := if lod then nodeSet n j % 64 else 63
  let hs := (List.range (nodeCount n)).filterMap fun i =>
    if bit mask i && refKind (nodeRef n i) != 0 then
      let (hit, _, tn) := boxTest t (nodeBox n (0x40 + 6 * i)) (nodeBox n (0x43 + 6 * i))
      if hit then some (tn, i) else none
    else none
  (hs.foldl (fun l x => insertHit x l) [], j)

/-- ORDER of a node record: nearest first, 7 in the fields after the last (R338, R485). -/
def nodeOrder (hs : List (XV × Nat)) : Nat :=
  let is := (hs.reverse.map (·.2)) ++ List.replicate (6 - hs.length) 7
  (is.zipIdx).foldl (fun a x => a + x.1 * 8 ^ x.2) 0

def visitNode (s : State) (r : Ray) (t : Trav) : TTry (State × TOut) := do
  if refCount t.cur ≠ 1 then pure (s, .ended t 5)
  else
    let addr := refAddr t.cur
    let (s, n) ← travGet s r addr 128
    let t := { t with nodes := (t.nodes + 1) % 2 ^ 32 }
    if nodeBad n then pure (s, .ended t 5)
    else
      let (hs, j) := nodeHits t n addr
      let (s, t) ← travLog s r t 0 addr 0 (nodeOrder hs + 2 ^ 18 * j) (some (nodeTL t n))
      let (s, t, ok) ← travPushes s r t (hs.map fun x => nodeRef n x.2)
      if ok then travPop s r t else pure (s, .ended t 4)

/-- A triangle record's vertices. -/
def triVerts (b : List (BitVec 8)) : List (List XV) :=
  (List.range 3).map fun v => (List.range 3).map fun a => f32 (fieldAt b (12 * v + 4 * a) 4)

/-- The HIT fields of an accepted triangle (R327, R332). -/
def takeTri (t : Trav) (x : TriRes) (prim : Nat) : Trav :=
  let tb := rneTo (fmtOf tF64) x.t
  { t with thit := tb, tmax := tb, haveHit := true, hu := rneTo (fmtOf tF32) x.hu, hv := rneTo (fmtOf tF32) x.hv, hprim := prim,
           hinst := t.instid, hleaf := t.cur }

def b2n (x : Bool) : Nat := if x then 1 else 0

def visitTri (s : State) (r : Ray) (t : Trav) : TTry (State × TOut) := do
  let addr := refAddr t.cur
  let (s, b) ← travGet s r (addr + 48 * t.cidx) 48
  let x := triTest t.o t.d (triVerts b)
  let culled := (flagCullBack t.ray && !x.pos) || (flagCullFront t.ray && x.pos)
  let acc := x.found && !culled && accepts t x.t
  let t1 := if acc then takeTri t x (fieldAt b 0x24 4) else t
  let dec := b2n acc + 2 * b2n x.pos + 4 * b2n x.fallback + 8 * b2n x.found
  let (s, t1) ← travLog s r t1 1 addr t.cidx dec (if x.found then some x.t else none)
  if acc && flagAny t.ray then pure (s, .ended t1 0)
  else if t.cidx + 1 < refCount t.cur then pure (s, .go { t1 with cidx := t.cidx + 1 })
  else travPop s r t1

/-- R335: the traversal suspends at a user item. -/
def visitUser (s : State) (r : Ray) (t : Trav) : TTry (State × TOut) := do
  let (s, b) ← travGet s r (refAddr t.cur + 8 * t.cidx) 8
  pure (s, .ended { t with cprim := fieldAt b 0 4, cuser := fieldAt b 4 4, cinst := t.instid, cacc := false } 2)

/-- R326, R328: an instance leaf's first item: the pushes, then the record's fetch; while the fetch waits, or faults, the lane stands
before both (R336). -/
def visitInst (s : State) (r : Ray) (t : Trav) : TTry (State × TOut) := do
  if t.inst then pure (s, .ended t 5)
  else
    let addr := refAddr t.cur
    let rest := if 1 < refCount t.cur then [addr + 128 + 8 * (refCount t.cur - 2) + 3] else []
    let (s, t, ok) ← travPushes s r t (rest ++ [addr + 7])
    if !ok then pure (s, .ended t 4)
    else
      let (s, b) ← travGet s r addr 128
      let root := fieldAt b 0x60 8
      if refKind root = 3 then pure (s, .ended t 5)
      else
        let o := objectRay t b
        if badSpace (o.take 3) (o.drop 3) then
          travPop s r { t with depth := t.depth - 1, stack := t.stack.take (t.depth - 1) }
        else
          let (s, t) ← travLog s r t 3 addr 0 0 none
          let t := { t with inst := true, instref := addr, instid := fieldAt b 0x68 4, obj := o, cur := root, cidx := 0 }
          pure (s, if refKind root = 7 then .ended t 5 else .go t)

/-- Leaving an instance (R328). -/
def leaveInst (t : Trav) : Trav := { t with inst := false, instref := 0, instid := missing32, obj := [] }

/-- One action of R326 on CUR. -/
def visit (s : State) (r : Ray) (t : Trav) : TTry (State × TOut) :=
  match refKind t.cur with
  | 0 => travPop s r t
  | 1 => visitNode s r t
  | 2 => visitTri s r t
  | 3 => visitInst s r t
  | 4 => visitUser s r t
  | 7 => if t.rooted then .ok (s, .ended t 5)
    else do
      let (s, t) ← travLog s r t 4 (refAddr t.cur) 0 0 none
      travPop s r (leaveInst t)
  | _ => .ok (s, .ended t 5)

/-! ### Resume (R333, R335) -/

/-- The stack's entries, those in the overflow area read back. -/
def travEntries (s : State) (r : Ray) (t : Trav) : TTry (State × List Nat) := do
  if t.depth ≤ 10 then pure (s, t.stack)
  else
    let (s, b) ← travGet s r t.ovf (8 * (t.depth - 10))
    pure (s, t.stack ++ (List.range (t.depth - 10)).map fun i => fieldAt b (8 * i) 8)

/-- The object-space ray of a record with INST = 1; `none` when it is degenerate. -/
def reenter (s : State) (r : Ray) (t : Trav) : TTry (State × Option Trav) := do
  if !t.inst then pure (s, some t)
  else
    let (s, b) ← travGet s r t.instref 128
    let o := objectRay t b
    if badSpace (o.take 3) (o.drop 3) then pure (s, none) else pure (s, some { t with obj := o, instid := fieldAt b 0x68 4 })

/-- Entries of a KIND that no push leaves (R333). -/
def badEntries (es : List Nat) : Bool := es.any fun e => refKind e == 0 || refKind e == 5 || refKind e == 6

/-- R333, as far as the record itself shows: PHASE, DEPTH and the entries in it. -/
def admitted (replay : Bool) (t : Trav) : Bool :=
  (if replay then decide (4 ≤ t.phase ∧ t.phase ≤ 6) else decide (1 ≤ t.phase ∧ t.phase ≤ 3)) && decide (t.depth ≤ depthLimit t)
    && !badEntries t.stack

/-- A user candidate that is decided and not yet logged: PHASE 1, or a record that a fault or a pre-emption has marked
before the log was written. The mark is a CURSOR that is not zero, which `trav` uses for nothing else (log 37). -/
def decidedUser (t : Trav) : Bool := t.phase == 1 || (refKind t.cur == 4 && t.cursor != 0)

/-- The record as it stands when a fault or a pre-emption ends the lane (R336, R337), with the mark of `decidedUser`. -/
def stopped (r : Ray) (t : Trav) (phase : Nat) : Trav :=
  if r.replay then { t with phase := phase + 3 }
  else { t with phase, cursor := if t.resuming && decidedUser t then 1 else t.cursor }

def resumeTrav (s : State) (r : Ray) (t : Trav) : TTry (State × TOut) := do
  if !admitted false t then pure (s, .unfit)
  else if bits (rayFlags t.ray) 7 5 ≠ 0 then pure (s, .ended t 5)
  else
    let (s, es) ← travEntries s r t
    if badEntries es then pure (s, .unfit)
    else match ← reenter s r t with
      | (s, none) => pure (s, .unfit)
      | (s, some t) =>
        let decided := decidedUser t
        let t := { t with resuming := false, cursor := if decided then 0 else t.cursor }
        if !decided then pure (s, .go t)
        else
          let (s, t) ← travLog s r t 2 (refAddr t.cur) t.cidx (b2n t.cacc) (if t.cacc then some (f64 t.thit) else none)
          if t.cacc && flagAny t.ray then pure (s, .ended t 0)
          else if t.cidx + 1 < refCount t.cur then pure (s, .go { t with cidx := t.cidx + 1 })
          else travPop s r t

/-! ### Replay (R340) -/

/-- The HIT fields as for a miss (R321, R332). -/
def missTrav (t : Trav) : Trav :=
  { t with thit := 0, hu := 0, hv := 0, hprim := missing32, hinst := missing32, hleaf := 0, haveHit := false }

/-- The first thing a `.start` word's lane does (R321). -/
def startLane (t : Trav) : TOut :=
  if degenerate t then .ended (missTrav t) 3 else .go { t with resuming := false }

/-- A resumed replay: the record is admitted (R333), then its ray is tested (R340). -/
def resumeTrep (s : State) (r : Ray) (t : Trav) : TTry (State × TOut) := do
  if !admitted true t then pure (s, .unfit)
  else
    let (s, es) ← travEntries s r t
    if badEntries es then pure (s, .unfit)
    else if degenerate t then pure (s, .ended (missTrav t) 3)
    else match ← reenter s r t with
      | (s, none) => pure (s, .unfit)
      | (s, some t) => pure (s, .go { t with resuming := false })

/-- One log record of a replay. -/
def replay (s : State) (r : Ray) (t : Trav) : TTry (State × TOut) := do
  if t.trunc ∨ t.logn < t.cursor then pure (s, .ended t 5)
  else if t.cursor = t.logn then pure (s, .ended t (if t.haveHit then 0 else 1))
  else
    let (s, b) ← travGet s r (t.log + 16 * t.cursor) 16
    let w := fieldAt b 0 8
    let addr := refAddr w
    let next := { t with cursor := t.cursor + 1 }
    match bits w 6 4 with
    | 0 => pure (s, .go next)
    | 1 =>
      let (s, x) ← naming (addr + 8 * (w % 16) + 2) (travGet s r (addr + 48 * (w % 16)) 48)
      let tri := triTest t.o t.d (triVerts x)
      if bit (fieldAt b 8 4) 0 then pure (s, .go (takeTri { next with cur := addr + 8 * (w % 16) + 2 } tri (fieldAt x 0x24 4)))
      else pure (s, .go next)
    | 2 =>
      let (s, x) ← naming (addr + 8 * (w % 16) + 4) (travGet s r (addr + 8 * (w % 16)) 8)
      pure (s, .ended { next with cprim := fieldAt x 0 4, cuser := fieldAt x 4 4, cinst := t.instid, cur := addr + 8 * (w % 16) + 4, cidx := w % 16,
                                  cacc := bit (fieldAt b 8 4) 0 } 2)
    | 3 =>
      let (s, x) ← naming (addr + 3) (travGet s r addr 128)
      let o := objectRay t x
      pure (s, .go (if badSpace (o.take 3) (o.drop 3) then next
        else { next with inst := true, instref := addr, instid := fieldAt x 0x68 4, obj := o }))
    | 4 => pure (s, .go (leaveInst next))
    | _ => pure (s, .ended t 5)

/-! ### A lane (R334 to R337) -/

/-- The next thing a lane does. -/
def laneStep (s : State) (r : Ray) (t : Trav) : TTry (State × TOut) :=
  if t.resuming then match firstBad s (r.loc.span 256) with
    | some sec => .error (.badRec s sec)
    | none => (if r.start then .ok (s, startLane t) else if r.replay then resumeTrep s r t else resumeTrav s r t)
  else if bits (rayFlags t.ray) 7 5 ≠ 0 then .ok (s, .ended t 5)
  else if r.replay then replay s r t
  else visit s r t

def setRay (s : State) (id : Nat) (f : Ray → Ray) : State := { s with rays := s.rays.map fun r => if r.id == id then f r else r }

/-- Write a record at its home; in sp while its team stands on the core, even once the group has exited (R403). -/
def putTrav (s : State) (r : Ray) (t : Trav) : State :=
  let alive := match r.loc.sp with
    | .core _ => match Tab.find s.teams r.team with
      | some t => t.resident
      | none => (Tab.find s.groups r.key).isSome
    | _ => true
  if alive then writeHome s r.ctx ((r.loc.span 256).zip (travBytes t)) else s

/-- The word completes when every lane is done: the records' L1 lines are dropped, the status lands (R339). -/
def endTravWord (s : State) (r : Ray) : State :=
  let mine := s.rays.filter fun x => x.op == r.op
  if mine.any fun x => x.status.isNone then s
  else
    let s := { s with rays := s.rays.filter fun x => x.op != r.op }
    let lines := mine.filterMap fun x => if x.loc.sp = .log then some (x.loc.addr / 128) else none
    let s := match Tab.find s.groups r.key with
      | some g => l1Drop s g.core fun e => !e.surf && lines.any fun l => e.line == l || e.line == l + 1
      | none => s
    let s := setPending s r.key r.pend fun p =>
      { p with elems := mine.map fun x => (x.elem, BitVec.ofNat 32 (x.status.getD 0)), tags := [(r.row, BitVec.ofNat 5 tU32)], ready := true }
    let f := mine.foldl (fun (b : Option (Nat × Rec)) x => match x.fault, b with
      | some k, some (l, k') => if x.lane < l then some (x.lane, k) else some (l, k')
      | some k, none => some (x.lane, k)
      | none, b => b) none
    later (finishOp s r.key r.op (f.map (·.2))) (.longLatencyCompletion r.key r.pend)

/-- A lane ends with a status; LOGTRUNC stands in bit 8 (R334). -/
def endLane (s : State) (r : Ray) (t : Trav) (code : Nat) : State :=
  let s := clearXfaults s (engTrav r.cl) r.id
  let s := setRay s r.id fun x => { x with prog := t, status := some (code + 256 * b2n t.trunc) }
  endTravWord s r

/-- R336: a fault that stands: the record as it stood (not of a lane whose record could not be read), its pair of records, the status
FAULT. -/
def faultLane (s : State) (r : Ray) (t : Trav) (cls detail addr : Nat) (put : Bool) : State :=
  let t := stopped r t 2
  let s := if put then putTrav s r t else s
  let rs := endedRecs s r.ctx cls detail (0x0200 + r.cl) addr r.pc r.who r.addr 0 (groupOf s r.key).isSome
  let s := setRay (postRecs s r.ctx rs) r.id fun x => { x with fault := rs.head? }
  endLane s r t 6

/-- A lane goes on, at most `n` actions at a time: it ends, parks on a page, or is left to go on later. -/
def runLane (s : State) (r : Ray) (t : Trav) : Nat → State
  | 0 => setRay s r.id fun x => { x with prog := t }
  | n + 1 => match laneStep s r t with
    | .error (.wait ps) => engAsk (setRay s r.id fun x => { x with prog := t }) (engTrav r.cl) r.ctx r.id ps
    | .error .stall => setRay s r.id fun x => { x with prog := t }
    | .error (.fault c det a ref) => faultLane s r { t with cur := ref.getD t.cur } c det a true
    | .error (.bad s x ref) => faultLane s r { t with cur := ref.getD t.cur } 0x0E 0 x true
    | .error (.badRec s x) => faultLane s r t 0x0E 0 x false
    | .ok (s, .go t) => runLane s r t n
    | .ok (s, .unfit) => endLane s r { t with trunc := false } 5
    | .ok (s, .ended t code) =>
      let t := { t with phase := if code = 2 then (if r.replay then 4 else 1) else 7 }
      endLane (putTrav s r t) r t code

/-- R339, TRAVERSAL_LANE_END: a lane traverses as far as it can. -/
def execTraversalLaneEnd (cl id : Nat) (s : State) : Out :=
  match s.rays.find? fun r => r.id == id && r.cl == cl with
  | none => .next s
  | some r =>
    if r.status.isSome then .next s
    else .next (runLane s r r.prog 4096)

/-- A lane that has not begun, as a pre-emption finds it: one that needs no fetch to end has ended (R321, R324, R333). -/
def unbegun (r : Ray) : Option TOut :=
  if r.start then (match startLane r.prog with
    | .go t => if !r.replay && refKind t.cur == 7 then some (.ended t 5) else none
    | o => some o)
  else if !admitted r.replay r.prog then some .unfit
  else if !r.replay && bits (rayFlags r.prog.ray) 7 5 != 0 then some (.ended r.prog 5) else none

/-- R337: a group's lanes write their records and end with PREEMPTED. -/
def preemptRays (s : State) (key : Nat) : State :=
  (s.rays.filter fun r => r.key == key && r.status.isNone).foldl (fun s r =>
    match (if r.prog.resuming then unbegun r else none) with
    | some .unfit => endLane s r { r.prog with trunc := false } 5
    | some (.ended t code) => endLane (putTrav s r { t with phase := 7 }) r { t with phase := 7 } code
    | _ => endLane (putTrav s r (stopped r r.prog 3)) r (stopped r r.prog 3) 7) s

/-- R337: a kill drops a group's traversals. -/
def dropRays (s : State) (key : Nat) : State := { s with rays := s.rays.filter fun r => r.key != key }

end Sys2Proof.Machine
end

