-- ==== Sys2Proof/Machine/TraversalOps.lean ====
section
/-! DEFINITION. The words of traversal and of builds (R339 to R344): `trav`, `trep`, `thit`, `bld`. -/
namespace Sys2Proof.Machine

/-! ### Records named by lanes (R339) -/

/-- R339's checks of the records that row `a` names: aligned, no two equal, every byte readable and writable; the place of
each lane's record. -/
def recPlaces (s : State) (c : WCtx) (seg a : Nat) : Try (State × List (Nat × Nat × Loc)) := do
  let xs := c.lanes.map fun l => accOf c.g seg 0 a 0 l
  match xs.find? fun x => x.y % 256 != 0 with
  | some x => illegal 2 x.y x.lane
  | none =>
    match (xs.zipIdx.find? fun x => (xs.take x.2).any fun z => z.y == x.1.y) with
    | some x => illegal 1 x.1.y x.1.lane
    | none =>
      let (s, _) ← access s c.key c.g seg 0 a 0 0 256 xs
      let (s, ls) ← access s c.key c.g seg 0 a 0 1 256 xs
      pure (s, (xs.zip ls).map fun x => (x.1.lane, x.1.y, x.2.2.headD ⟨.log, 0⟩))

/-- Rays a unit holds. -/
def unitRays (s : State) (cl : Nat) : Nat := (s.rays.filter fun r => r.cl == cl && r.status.isNone).length

/-- The common operation of `trav` and `trep`: `mk` makes a lane's state from its record's bytes. -/
def travWord (s : State) (d : BitVec 7) (g : BitVec 2) (replays start : Bool) (mk : WCtx → List (BitVec 8) → Trav) : Out :=
  runLong s fun c s => do
    let os : List Opnd := [⟨0, false, d.toNat, 0, .free⟩, ⟨3, false, d.toNat + 1, 0, .free⟩, ⟨3, false, d.toNat + 2, 0, .free⟩]
    vecCheck c true os
    let (s, rs) ← recPlaces s c g.toNat d.toNat
    roomFor c 5
    let cl := c.g.core / 4
    if 2048 < unitRays s cl + rs.length then .error .stall
    else
      let s ← unbuffered s c 1 g.toNat
      let s := releaseAct s c.key c.g.core 5 (pairedOf s c.g)
      let spans := rs.flatMap fun r => r.2.2.span 256
      let s := touchPlaces (countLines s (unitSource s (engTrav cl)) false spans) c.g.ctx spans
      let (s, op) := newId s
      let row := c.g.rowNo 0 (d.toNat + 2) 0
      let rays := rs.zipIdx.map fun x =>
        ({ id := s.nextId + x.2, cl, key := c.key, team := c.g.team, ctx := c.g.ctx, lane := x.1.1, loc := x.1.2.2, addr := x.1.2.1, replay := replays, start,
           elem := c.g.elemKey row x.1.1, row, pend := op, op, pc := c.sp.pc, who := whoOf s c.g x.1.1,
           prog := mk c (readHome s (x.1.2.2.span 256)), status := none, fault := none } : Ray)
      let s := { s with nextId := s.nextId + rs.length, rays := s.rays ++ rays }
      let s := updG s c.key fun g => g.startOp 5 op
      pure (laterAll s (rays.map fun r => .traversalLaneEnd cl r.id), blankPending op c.sp.pc)

/-- R339, `trav.start`. -/
def execTravStart (d : BitVec 7) (g : BitVec 2) (x : BitVec 6) (s : State) : Out :=
  travWord s d g false true fun c b => startTrav b (c.g.s x.toNat).toNat ((c.g.s (x.toNat + 1)).toNat % 2 ^ 32)
/-- R339, `trav`. -/
def execTrav (d : BitVec 7) (g : BitVec 2) (s : State) : Out := travWord s d g false false fun _ b => parseTrav b
/-- R340, `trep.start`. -/
def execTrepStart (d : BitVec 7) (g : BitVec 2) (s : State) : Out := travWord s d g true true fun _ b => startTrep b
/-- R340, `trep`. -/
def execTrep (d : BitVec 7) (g : BitVec 2) (s : State) : Out := travWord s d g true false fun _ b => parseTrav b

/-! ### `thit` (R342) -/

/-- The record after a candidate at distance `tb`, if it is accepted. -/
def thitTrav (t : Trav) (tb : Nat) : Option Trav :=
  let acc := if t.phase = 1 then accepts t (f64 tb) else if t.phase = 4 then t.cacc else false
  if acc then
    some { t with thit := tb, hu := 0, hv := 0, hprim := t.cprim, hinst := t.cinst, hleaf := t.cur, haveHit := true, cacc := true,
                  tmax := if t.phase = 1 then tb else t.tmax }
  else none

/-- The bytes of a record that `thit` changes, by offset: TMAX, the HIT fields, HAVEHIT and CACC. -/
def thitBytes (old : List (BitVec 8)) (t : Trav) : List (Nat × List (BitVec 8)) :=
  [(0x30, leBytes 8 t.tmax), (0x40, leBytes 8 t.thit ++ leBytes 8 0 ++ leBytes 4 t.hprim ++ leBytes 4 t.hinst ++ leBytes 8 t.hleaf),
   (0x94, leBytes 4 (fieldAt old 0x94 4 ||| 2 ^ 8 ||| 2 ^ 16))]

/-- One lane's read-modify-write: for a global record at its home, after the core has let its lines go. A record in a bad sector is
not accepted and stays as it is (DESIGN CHOICE, log 131). -/
def thitLane (c : WCtx) (o : Opnd) (x : State × List Nat) (p : Nat × Nat × Loc) : State × List Nat :=
  let (s, acc) := x
  let l := p.2.2
  let s := if l.sp = .log then l1Drop s c.g.core fun e => !e.surf && (e.line == l.addr / 128 || e.line == l.addr / 128 + 1) else s
  let s := touchPlaces (countLines s (coreSource s c.g.core) true (l.span 256)) c.g.ctx (l.span 256)
  let old := readHome s (l.span 256)
  match (if (firstBad s (l.span 256)).isSome then none else thitTrav (parseTrav old) (o.val c.g p.1)) with
  | some t => (writeHome s c.g.ctx ((thitBytes old t).flatMap fun x => ((l.plus x.1).span x.2.length).zip x.2), p.1 :: acc)
  | none => (s, acc)

/-- R342. -/
def execThit (g : BitVec 2) (p : BitVec 3) (a : BitVec 7) (j : BitVec 2) (b : BitVec 7) (s : State) : Out :=
  runWord s fun c s => do
    let ob := opB true j b (.codes [tF64])
    let hi : List Opnd := if g = 0 then [⟨3, false, a.toNat + 1, 0, .free⟩] else []
    vecCheck c true (⟨1, false, a.toNat, 0, .free⟩ :: ob :: hi)
    let (s, rs) ← recPlaces s c g.toNat a.toNat
    let s ← unbuffered s c 1 g.toNat
    let s := settleOwn s c.key (rs.flatMap fun r => r.2.2.span 256)
    let (s, acc) := rs.foldl (thitLane c ob) (s, [])
    pure (writePred s c p.toNat fun l => acc.contains l)

/-! ### Builds (R343, R344) -/

/-- One row's value as F32, of the source or of the destination. -/
def rowF (c : WCtx) (o : Opnd) (l : Nat) : Nat := o.val c.g l % 2 ^ 32
/-- Write several rows from v(d), each with its tag. -/
def putTagged (s : State) (c : WCtx) (rows : List (Nat × Nat × (Nat → Nat))) : State :=
  rows.foldl (fun s x => writeVec s c false x.1 x.2.2 x.2.1) s
/-- Sources of a build word. -/
def buildSrc (i : BitVec 2) (x : BitVec 7) (n : Nat) (cls : TagCls) : List Opnd := rowsFrom 1 x.toNat n i.toNat cls

/-- R344, `bunion`: both boxes carry F32 (R343). -/
def execBunion (d : BitVec 7) (i : BitVec 2) (x : BitVec 7) (s : State) : Out :=
  runWord s fun c s => do
    let ds := rowsFrom 0 d.toNat 6 0 (.codes [tF32])
    let ss := buildSrc i x 6 (.codes [tF32])
    vecCheck c true (rowOrder ds ss)
    pure (putTagged s c ((List.range 6).map fun k =>
      let a := ds.getD k ⟨0, false, 0, 0, .free⟩
      let b := ss.getD k ⟨0, false, 0, 0, .free⟩
      (d.toNat + k, tF32, fun l => (fminmax (fmtOf tF32) (decide (3 ≤ k)) (rowF c a l) (rowF c b l)).bits)))

/-- The surface area of a box, rounded once. -/
def boxArea (lo hi : List XV) : Nat :=
  let del := (List.range 3).map fun a => xsub (hi.getD a xzero) (lo.getD a xzero)
  let g := fun a => del.getD a xzero
  if del.any isNegV then 0
  else if (lo ++ hi).any XV.isNan then (fmtOf tF32).nanBits
  else rneTo (fmtOf tF32) (xscale 1 (sumXV [xmul (g 0) (g 1), xmul (g 1) (g 2), xmul (g 2) (g 0)]))

/-- R344, `bsah`. -/
def execBsah (d : BitVec 7) (i : BitVec 2) (x : BitVec 7) (s : State) : Out :=
  runWord s fun c s => do
    let ss := buildSrc i x 6 (.codes [tF32])
    vecCheck c true (opD false d :: ss)
    let v := fun l => ss.map fun o => f32 (rowF c o l)
    pure (writeVec s c false d.toNat (fun l => boxArea ((v l).take 3) ((v l).drop 3)) tF32)

/-- The least E with lo + 255·2^E at or above hi; an axis that has none gets the origin and E of R344. -/
def frameExp (lo hi : XV) : Option Int :=
  if !finite lo || !finite hi || tlt hi lo then none
  else
    match (List.range 256).find? fun (k : Nat) => tle hi (xadd false lo (.fin false 255 1 ((k : Int) - 128))) with
    | some k => some ((k : Int) - 128)
    | none => some 127

/-- A quantised bound: floor or ceiling of (x − NO)/2^E, clamped to a byte. -/
def quantBound (up : Bool) (x no : XV) (e : Int) : Nat :=
  match xscale (-e) (xsub x no) with
  | .nan _ => if up then 255 else 0
  | .inf neg => if neg then 0 else 255
  | q => (max 0 (min 255 (xround (if up then 2 else 3) q))).toNat

/-- The six bytes that a child box gets, QLO then QHI. -/
def childBytes (no : List XV) (es : List Int) (lo hi : List XV) : List Nat :=
  let at' := fun (l : List XV) a => l.getD a xzero
  if (List.range 3).any fun a => tlt (at' hi a) (at' lo a) then [255, 255, 255, 0, 0, 0]
  else
    let nan := fun a => (at' lo a).isNan || (at' hi a).isNan
    ((List.range 3).map fun a => if nan a then 0 else quantBound false (at' lo a) (at' no a) (es.getD a 0))
      ++ (List.range 3).map fun a => if nan a then 255 else quantBound true (at' hi a) (at' no a) (es.getD a 0)

/-- R344, `npack`. -/
def execNpack (d : BitVec 7) (i : BitVec 2) (x : BitVec 7) (s : State) : Out :=
  runWord s fun c s => do
    let ds := rowsFrom 0 d.toNat 3 0 (.codes [tF32]) ++ [⟨3, false, d.toNat + 3, 0, .codes [tU32]⟩, ⟨3, false, d.toNat + 4, 0, .free⟩, ⟨3, false, d.toNat + 5, 0, .free⟩]
    let ss := buildSrc i x 6 (.codes [tF32])
    vecCheck c true (rowOrder ds ss)
    let dv := fun k l => rowF c (ds.getD k ⟨0, false, 0, 0, .free⟩) l
    let box := fun l => ss.map fun o => f32 (rowF c o l)
    let raw := fun l => ss.map fun o => rowF c o l
    let frame := fun l => bit (dv 3 l) 31
    let fe := fun l a => frameExp ((box l).getD a xzero) ((box l).getD (a + 3) xzero)
    let origin := fun a l => if frame l then (match fe l a with
      | some _ => (raw l).getD a 0
      | none => 0xFF7FFFFF) else dv a l
    let exps := fun l => if frame l then
        ((List.range 3).foldl (fun acc a => acc + ofS 8 ((fe l a).getD 127) * 256 ^ a) 0) + bits (dv 3 l) 30 24 * 2 ^ 24
      else dv 3 l
    let child := fun l => childBytes ((List.range 3).map fun a => f32 (dv a l)) ((List.range 3).map fun a => toS 8 (dv 3 l / 256 ^ a))
      ((box l).take 3) ((box l).drop 3)
    let s := putTagged s c [(d.toNat, tF32, origin 0), (d.toNat + 1, tF32, origin 1), (d.toNat + 2, tF32, origin 2), (d.toNat + 3, tU32, exps)]
    let c' := { c with eff := laneMask c fun l => !frame l }
    if c'.eff = 0 then pure s
    else pure (putTagged s c' [(d.toNat + 4, tU8, fun l => joinElems 8 ((child l).take 4)), (d.toNat + 5, tU8, fun l => joinElems 8 ((child l).drop 4))])

/-- A coordinate clamped to [0, 1] and quantised to 21 bits (R344). -/
def mortonQ (b : Nat) : Nat :=
  match f32 b with
  | .nan _ => 0
  | x => (max 0 (min (2 ^ 21 - 1) (xfloor (xscale 21 (xmin (xmax x xzero) (.fin false 1 1 0)))))).toNat

/-- The Morton code of three coordinates. -/
def morton (qs : List Nat) : Nat :=
  (List.range 21).foldl (fun a i => a + (List.range 3).foldl (fun b k => if bit (qs.getD k 0) i then b + 2 ^ (3 * i + k) else b) 0) 0

/-- R344, `mcode`. -/
def execMcode (d : BitVec 7) (i : BitVec 2) (x : BitVec 7) (s : State) : Out :=
  runWord s fun c s => do
    let ss := buildSrc i x 3 .free
    vecCheck c true (rowOrder (rowsFrom 0 d.toNat 2 0 .free) ss)
    let code := fun l => morton (ss.map fun o => mortonQ (rowF c o l))
    pure (putTagged s c [(d.toNat, tU64, fun l => code l % 2 ^ 32), (d.toNat + 1, tU64, fun l => code l / 2 ^ 32)])

end Sys2Proof.Machine
end

