-- ==== Sys2Proof/Machine/Kill.lean ====
section
/-! DEFINITION. Kills (R446, R132, R318, R337, R350): of a group, a saved team, a launch, a draw, a context. -/
namespace Sys2Proof.Machine

/-- A group's matrix entries go, with no write-back (R318). -/
def dropTiles (s : State) (key : Nat) : State :=
  { s with mx := s.mx.map fun e => (e.1, ({ e.2 with tiles := e.2.tiles.filter fun t => t.key != key } : Mx).sweep) }

/-- Engine commands of groups, of groups that have exited among them, are cancelled (R132). -/
def dropCmdsOf (s : State) (p : EngCmd → Bool) : State := (s.engCmds.filter fun m => m.queue.isNone && p m).foldl freeCmd s
def dropCmds (s : State) (key : Nat) : State := dropCmdsOf s fun m => m.key == key

/-- The injected exit of every live lane (R446): no buffered operation, no release, no result, no completion word. -/
def killGroup (s : State) (key : Nat) : State :=
  match Tab.find s.groups key with
  | none => s
  | some g =>
    let s := dropCmds (dropRays (dropTiles s key) key) key
    let s := updG s key fun g => { g with buf := [], pending := [], waits := [], splits := [], tokens := [], tumblers := [], ops := [] }
    leaveGroup (drawGroupEnds (clearXfaults s g.core key) g) key

/-- The address of team slot n (R442). -/
def saveAddr (c : Ctx) (n : Nat) : Nat := c.saveBase + 0x60_0000 + n * c.slotSize
/-- The places of a team slot's STATE, as the queue manager finds them (R442). -/
def slotPlaces (s : State) (cid slot : Nat) : EngRes :=
  match Tab.find s.ctxs cid with
  | some c => engCheck s engQm cid (2 ^ 32 + slot) 2 ((List.range 4).map (saveAddr c slot + ·))
  | none => .fault 0 0 []
/-- STATE of a team slot is written. -/
def putSlotState (s : State) (cid slot v : Nat) (ls : List Loc) : State :=
  engWrite (clearXfaults s engQm (2 ^ 32 + slot)) engQm cid ls (leBytes 4 v) []

/-- STATE of a freed team slot becomes 0 once the slot's page can be had; a slot that faults keeps what it holds (R442). -/
def freeSlotState (s : State) (x : Nat × Nat) : State :=
  let gone := fun (s : State) => { s with slotFrees := s.slotFrees.filter (· != x) }
  match slotPlaces s x.1 x.2 with
  | .ok ls => gone (putSlotState s x.1 x.2 0 ls)
  | .wait ps => engAsk s engQm x.1 (2 ^ 32 + x.2) ps
  | .stall => s
  | _ => gone (clearXfaults s engQm (2 ^ 32 + x.2))

/-- The slot that a saved team holds. -/
def slotOfTeam (s : State) (tk : Nat) : List (Nat × Nat) :=
  match Tab.find s.teams tk with
  | some t => (match Tab.find s.launches t.launch with
    | some l => if t.resident then [] else [(l.ctx, t.slot)]
    | none => [])
  | none => []

/-- A saved team is discarded and its slot freed (R446). -/
def dropSaved (s : State) (tk : Nat) : State :=
  let mine := s.saved.filter fun e => e.2.team == tk
  let slots := slotOfTeam s tk
  let s := mine.foldl (fun s e => drawGroupEnds (dropCmds s e.1) e.2) s
  let s : State := { s with saved := s.saved.filter fun e => e.2.team != tk, slotFrees := s.slotFrees ++ slots }
  slots.foldl freeSlotState (endTeam s tk)

/-- Groups that a test picks are to be killed at their next issue slot; saved teams that another picks go at once. -/
def killWhere (s : State) (p : Group → Bool) (q : Team → Bool) : State :=
  let s : State := { s with groups := s.groups.map fun e => (e.1, if p e.2 then { e.2 with killed := true } else e.2) }
  (s.teams.filter fun e => !e.2.resident && q e.2).foldl (fun s e => dropSaved s e.1) s

/-- A draw is ended without its completion word: its quads and primitives go, its unended tickets receive null
entries (R350). -/
def killDraw (s : State) (d : Draw) : State :=
  if !d.started then endDraw s d
  else
    let due := s.raster.tickets.filter fun t => t.draw == d.id && !t.sent
    let kept := fun (q : Quad) => q.draw != d.id || (s.raster.tickets.any fun t => t.quad == q.id)
    let s : State := { s with raster := { s.raster with
      prims := s.raster.prims.filter fun p => p.draw != d.id
      quads := (s.raster.quads.filter kept).map fun q => if q.draw = d.id then { q with place := .ended } else q
      tickets := s.raster.tickets.map fun t => if t.draw == d.id && !t.sent then { t with sent := true, null := true } else t } }
    let s : State := { s with launches := Tab.modify (Tab.modify s.launches d.vlaunch fun l => { l with killed := true }) d.flaunch fun l => { l with killed := true } }
    laterAll s ((due.map fun t => .orderLockEntry t.id) ++ [.drawComplete d.id])

/-- A launch is killed: its groups, its saved teams, the room kept for it; no further team of it is placed (R446). -/
def killLaunch (s : State) (lk : Nat) : State :=
  let s : State := { s with launches := Tab.modify s.launches lk fun l => { l with killed := true, room := [] } }
  let s := dropCmdsOf s fun m => m.launch == lk
  let s := match s.raster.draws.find? fun d => d.started && (d.vlaunch == lk || d.flaunch == lk) with
    | some d => killDraw s d
    | none => s
  wakePlacement (checkLaunch (killWhere s (fun g => g.launch == lk) fun t => t.launch == lk) lk)

/-- Host commands of a context in the copy engines are cancelled, and complete (R132). -/
def dropHostCmds (s : State) (cid : Nat) : State :=
  (s.engCmds.filter fun m => m.ctx == cid && m.queue.isSome).foldl (fun s m => match m.queue with
    | some (q, i) => later (freeCmd s m) (.commandComplete q i)
    | none => s) s

/-- A context is killed: its groups, handler groups among them, its launches, its draws, its host commands; its queues
start nothing more (R446, R452). -/
def killCtx (s : State) (cid : Nat) : State :=
  let s := (s.queues.filter fun e => e.2.ctx == cid && e.2.on).foldl (fun s e => setQ (putBack s e.1) e.1 fun x => ({ x with stopping := true, dying := true } : Queue).settleKill) s
  let s := dropCmdsOf (dropHostCmds s cid) fun m => m.ctx == cid
  let s := (s.raster.draws.filter fun d => d.ctx == cid).foldl killDraw s
  let s := (s.launches.filter fun e => e.2.ctx == cid && e.2.kind != .handler).foldl (fun s e => killLaunch s e.1) s
  killWhere s (fun g => g.ctx == cid) fun _ => false

/-! ### Completion (R446) -/

/-- Whether every group that a kill names has ended. -/
def killDone (s : State) (k : Nat × Option Nat) : Bool :=
  match k with
  | (cid, none) => !((s.groups ++ s.saved).any fun e => e.2.ctx == cid) && !(s.raster.draws.any fun d => d.ctx == cid)
  | (cid, some lid) => !(s.launches.any fun e => e.2.ctx == cid && e.2.lid == lid && e.2.killed && (s.teams.any fun t => t.2.launch == e.1))

/-- HB_CTXCTL with BUSY and STATUS. -/
def ctxOp (s : State) : Nat := bits s.hb.ctxCtl.toNat 47 40
def ctxNo (s : State) : Nat := bits s.hb.ctxCtl.toNat 11 0
def ctxBusy (s : State) : Bool := bit s.hb.ctxCtl.toNat 63
def setCtxCtl (s : State) (busy : Bool) (status : Nat) : State :=
  { s with hb := { s.hb with ctxCtl := BitVec.ofNat 64 ((if busy then 2 ^ 63 else 0) + status * 2 ^ 56 + ctxOp s * 2 ^ 40 + ctxNo s) } }

/-- R446: KILLDONE, for one kill that is complete; the LAUNCH commands of the launches that it killed complete with it. -/
def finishKill (s : State) (k : Nat × Option Nat) : State :=
  let s := postRecs { s with killing := s.killing.filter (· != k) } k.1
    [{ cls := 1, kind := 5, detail := 0, ctx := k.1, source := 0x0400, time := s.time, addr := k.2.getD 0, pc := 0, who := 0 }]
  let s := (s.launches.filter fun e => e.2.ctx == k.1 && e.2.killed).foldl (fun s e => checkLaunch s e.1) s
  if ctxBusy s && ctxOp s == 3 && ctxNo s == k.1 && k.2.isNone then setCtxCtl s false 0 else s

/-- R446, KILL_COMPLETE. -/
def execKillComplete (s : State) : Out := .next ((s.killing.filter (killDone s)).foldl finishKill s)

end Sys2Proof.Machine
end

