-- ==== Sys2Proof/Machine/ModeSys.lean ====
section
/-! DEFINITION. The mode register, scalar immediates, predicates, views and system values (R270 to R275). -/
namespace Sys2Proof.Machine

/-- Write the field of gm that a selector names (R61, R63). -/
def writeMode (s : State) (c : WCtx) (sel v : Nat) : State :=
  updG s c.key fun g => { g with gm := gmPut g.gm sel v }

/-- R270, REG = 0. -/
def execMset (x : BitVec 7) (v : BitVec 17) (s : State) : Out :=
  runWord s fun c s => pure (writeMode s c x.toNat v.toNat)

/-- R270, REG = 1. -/
def execMsetReg (x : BitVec 7) (r : BitVec 6) (s : State) : Out :=
  runWord s fun c s =>
    let v := (c.g.s r.toNat).toNat
    if 2 ^ gmWid x.toNat ≤ v ∨ gmForbidden x.toNat v then illegal 1 0 c.low
    else pure (writeMode s c x.toNat v)

/-- R270: one field of gm, zero-extended. -/
def execMget (d : BitVec 7) (x : BitVec 9) (s : State) : Out :=
  runWord s fun c s =>
    pure (writeS s c d.toNat (bits c.g.gm.toNat (gmLow x.toNat + gmWid x.toNat - 1) (gmLow x.toNat)))

/-- R271. -/
def execSli (d : BitVec 7) (i : BitVec 18) (s : State) : Out :=
  runWord s fun c s => pure (writeS s c d.toNat (i.signExtend 64).toNat)

/-- R271. -/
def execSlih (d : BitVec 7) (i : BitVec 18) (s : State) : Out :=
  runWord s fun c s => pure (writeS s c d.toNat ((c.g.s d.toNat).toNat * 2 ^ 18 + i.toNat))

/-- R272, CONST. -/
def execPset (p : BitVec 3) (v : BitVec 1) (s : State) : Out :=
  runWord s fun c s => pure (writePred s c p.toNat fun _ => v == 1)

/-- R272, SCALAR: lane L takes bit L. -/
def execPsetS (p : BitVec 3) (x : BitVec 6) (s : State) : Out :=
  runWord s fun c s => pure (writePred s c p.toNat fun l => (c.g.s x.toNat).getLsbD l)

/-- R272, LANELT. -/
def execPsetLt (p : BitVec 3) (b : BitVec 7) (s : State) : Out :=
  runWord s fun c s => pure (writePred s c p.toNat fun l => decide (l < b.toNat))

/-- R272: a predicate operation by its subfunction. -/
def predOp (sub : Nat) (a b : Bool) : Bool :=
  match sub with
  | 0 => a
  | 1 => a && b
  | 2 => a || b
  | _ => a != b

/-- R272. -/
def execPmov (d : BitVec 3) (i : BitVec 1) (a : BitVec 3) (j : BitVec 1) (b : BitVec 3) (x : BitVec 9) (s : State) : Out :=
  runWord s fun c s =>
    let pa := c.g.predX a.toNat (i == 1)
    let pb := c.g.predX b.toNat (j == 1)
    pure (writePred s c d.toNat fun l => predOp x.toNat (pa.getLsbD l) (pb.getLsbD l))

/-- R273, R241. -/
def execVwset (v : BitVec 2) (x : BitVec 6) (s : State) : Out :=
  runWord s fun c s =>
    let n := c.g.s x.toNat
    if viewLegal c.g.width c.g.regBytes v.toNat n then
      pure (updG s c.key fun g => { g with views := Tab.store 0 g.views v.toNat n })
    else illegal 1 0 c.low

/-- Bytes c of COUNTERS, bits i of TUMBLERS (R274). -/
def counterBytes (g : Group) : Nat := (List.range 6).foldl (fun a k => a + g.counter k * 256 ^ k) 0
def tumblerBits (g : Group) : Nat := (List.range 12).foldl (fun a t => if g.tumbler t = 0 then a else a + 2 ^ t) 0

/-- SEGLIM's layout (R274). -/
def segLim (x : Seg) : Nat :=
  x.limit.toNat + (if x.rd then 2 ^ 45 else 0) + (if x.wr then 2 ^ 46 else 0) + (if x.unb then 2 ^ 47 else 0)

/-- STATUS (R274). -/
def statusBits (s : State) (g : Group) (l : Option Launch) : Nat :=
  (if g.inRegion then 1 else 0) + (if g.inRegion && g.lost then 2 else 0) + (if g.harvest then 4 else 0)
    + (if g.kind = .handler then 8 else 0) + (if pairedOf s g then 16 else 0)
    + (match l with
       | some l => if l.img.coop then 32 else 0
       | none => 0)

/-- The values that describe a launch and a team; a handler group has neither (log 16). -/
def launchValue (g : Group) (l : Launch) (t : Team) : Nat → Nat
  | 5 => t.tid
  | 6 => g.xyz.1 % 2 ^ 16 + g.xyz.2.1 % 2 ^ 16 * 2 ^ 16 + g.xyz.2.2 % 2 ^ 16 * 2 ^ 32
  | 7 => l.x % 2 ^ 16 + l.y % 2 ^ 16 * 2 ^ 16 + l.z % 2 ^ 16 * 2 ^ 32
  | 8 => g.gid
  | 9 => l.img.groups
  | 14 => l.lid
  | _ => t.scratch

/-- R274: the value of a code, from the group as the word sees it. -/
def sysValue (s : State) (c : WCtx) (src : Nat) : Nat → Nat
  | 0 => c.g.core
  | 1 => c.g.core / 4
  | 2 =>
    let p := clusterPlace s (c.g.core / 4)
    p.2.1 + 4 * p.1 + 8 * p.2.2 + 32 * (c.g.core % 4)
  | 3 => c.g.slot
  | 4 => c.g.width
  | 10 => c.g.reloc
  | 11 => s.time
  | 12 => Tab.fetch 0 s.cycles c.g.core
  | 13 => c.g.ctx
  | 15 => statusBits s c.g (launchOf s c.g)
  | 16 => c.sp.mask.toNat
  | 17 => (liveLanes c.g).toNat
  | 18 => c.g.tokens.length
  | 19 => c.g.regBytes
  | 21 => match ctxOf s c.g with
    | some x => x.prio
    | none => 0
  | 22 => c.g.srg.toNat
  | 23 => (c.g.seg (src % 8)).base.toNat
  | 24 => segLim (c.g.seg (src % 8))
  | 25 => counterBytes c.g
  | 26 => tumblerBits c.g
  | 27 => if pairedOf s c.g then c.g.core ^^^ 1 else 0xFFFF
  | 28 => c.g.view (src % 4)
  | 29 => c.g.splits.length
  | 30 => c.g.divdepth
  | 31 => 88 + 22 * 256
  | k =>
    match launchOf s c.g, teamOf s c.g with
    | some l, some t => launchValue c.g l t k
    | _, _ => (Config.noTeam k s.fresh).toNat

/-- R274. -/
def execSysr (d : BitVec 7) (x : BitVec 3) (k : BitVec 9) (s : State) : Out :=
  runWord s fun c s => pure (writeS s c d.toNat (sysValue s c x.toNat k.toNat))

end Sys2Proof.Machine
end

