-- ==== Sys2Proof/Machine/SysOps.lean ====
section
/-! DEFINITION. The sys words (R447). -/
namespace Sys2Proof.Machine

/-- `sys.srseed`. -/
def execSysSrseed (r : BitVec 7) (s : State) : Out :=
  runWord s fun c s =>
    let v := (c.g.s r.toNat).setWidth 32
    pure (updG s c.key fun g => { g with srg := if v = 0 then 0x6A09_E667 else v })

/-- The segment that two scalars describe: BASE, then LIMIT, RD, WR and UNB. -/
def segOf (base attr : BitVec 64) : Seg :=
  { base, limit := attr.setWidth 45, rd := bit attr.toNat 45, wr := bit attr.toNat 46, unb := bit attr.toNat 47 }

/-- `sys.segset`: for a privileged context. -/
def execSysSegset (k : BitVec 3) (r : BitVec 7) (s : State) : Out :=
  runWord s fun c s => do
    let priv := match ctxOf s c.g with
      | some x => x.priv
      | none => false
    trapIf (!priv) ⟨0x03, memDetail 1 k.toNat, 0, c.low⟩
    let a := c.g.s (r.toNat + 1)
    if bits a.toNat 63 48 ≠ 0 then illegal 1 0 c.low
    else pure (updG s c.key fun g => { g with segs := Tab.put g.segs k.toNat (segOf (c.g.s r.toNat) a) })

/-- `sys.tret`, `sys.tret.skip`: back from the trap handler; the split stays where the frame sends it. -/
def execSysTret (k : BitVec 1) (s : State) : Out :=
  runCtl s fun c s => if c.eff = 0 then pure (advance s c) else trapReturn s c (k == 1)

end Sys2Proof.Machine
end

