-- ==== Sys2Proof/Machine/SaveArea.lean ====
section
/-! DEFINITION. The save area (R75, R441 to R444): what is written of a team and its groups, and what is read back. -/
namespace Sys2Proof.Machine

/-- Bytes to be written, with their offset. -/
abbrev Seg8 : Type := Nat × List (BitVec 8)

/-! ### Liveness (R75) -/

/-- The .live entry of the clause that holds a word offset. -/
def liveEntry (i : Image) (off : Nat) : BitVec 64 := i.live.foldl (fun b e => if e.1 ≤ off then e.2 else b) 0

/-- The union over the clauses at which a group's splits and waiting lanes resume, those to which a split returns after a
withdrawn word among them; for a restart, its region entry's. -/
def groupLive (i : Image) (restart : Bool) (g : Group) : BitVec 64 :=
  let at' := g.splits.flatMap (fun e => e.2.pc :: e.2.back.map (·.2.1)) ++ (if restart then [] else (g.tokens.filter fun e => e.2.kind == .defer || e.2.arrived != 0).map (·.2.addr))
  at'.foldl (fun m o => m ||| liveEntry i o) 0

/-- Whether a row of 4W bytes has a byte in a live chunk of A/64 bytes. -/
def rowLive (live : BitVec 64) (regBytes width row : Nat) : Bool :=
  let k := regBytes / 64
  (List.range 64).any fun i => live.getLsbD i && decide (i * k < (row + 1) * (4 * width)) && decide (row * (4 * width) < (i + 1) * k)
def liveRows (live : BitVec 64) (regBytes width : Nat) : List Nat :=
  (List.range (regBytes / (4 * width))).filter (rowLive live regBytes width)

/-! ### A group's record (R443) -/

def tspWord : Option Nat → Nat
  | some e => e
  | none => 0xFFFF_FFFF
def tspOf (v : Nat) : Option Nat := if v = 0xFFFF_FFFF then none else some (v % 16)

def kindCode : TokKind → Nat
  | .token => 0
  | .call => 1
  | .defer => 2
def kindOf : Nat → TokKind
  | 0 => .token
  | 1 => .call
  | _ => .defer

/-- The 384 bytes of a token stack. -/
def packTokens (ts : Tab Token) : List (BitVec 8) :=
  (List.range 16).flatMap fun i => match Tab.find ts i with
    | some t => leBytes 4 t.addr ++ leBytes 4 (kindCode t.kind + (match t.parent with
        | some p => 16 * p
        | none => 256)) ++ leBytes 8 t.members.toNat ++ leBytes 8 t.arrived.toNat
    | none => leBytes 4 0 ++ leBytes 4 0x103 ++ leBytes 16 0

/-- A token stack read back: the clause and the age of an entry, which the layout does not hold, are those it had. -/
def unpackTokens (old : Tab Token) (b : List (BitVec 8)) : Tab Token :=
  (List.range 16).foldl (fun a i =>
    let k := fieldAt b (24 * i + 4) 4
    if k % 4 = 3 then a
    else
      let (cl, born) := match Tab.find old i with
        | some t => (t.clause, t.born)
        | none => (none, 0)
      Tab.put a i ({ kind := kindOf (k % 4), addr := fieldAt b (24 * i) 4, parent := if bit k 8 then none else some (bits k 7 4),
                     members := BitVec.ofNat 64 (fieldAt b (24 * i + 8) 8), arrived := BitVec.ofNat 64 (fieldAt b (24 * i + 16) 8),
                     clause := cl, born } : Token)) []

/-- The flag word of a group record. -/
def recFlags (g : Group) : Nat :=
  2 * b2n g.inRegion + 4 * b2n g.lost + 8 * b2n g.trapMask.isSome + 16 * b2n (g.park == .standing) + 32 * b2n (g.park == .service)

/-- The fixed part of a group record, to the row tags. -/
def packFixed (g : Group) (live : BitVec 64) : List (BitVec 8) :=
  let b8 := fun (v : BitVec 64) => leBytes 8 v.toNat
  let splits := (List.range 4).map fun i => Tab.find g.splits i
  b8 g.gm ++ ((List.range 4).flatMap fun v => b8 (Tab.fetch 0 g.views v)) ++ leBytes 4 g.srg.toNat ++ leBytes 4 (recFlags g)
    ++ ((List.range 6).flatMap fun k => leBytes 1 (g.counter k)) ++ leBytes 2 0 ++ b8 live
    ++ ((List.range 8).flatMap fun k => leBytes 8 (g.seg k).base.toNat ++ leBytes 8 (segLim (g.seg k)))
    ++ ((List.range 64).flatMap fun i => b8 (g.s i)) ++ ((List.range 8).flatMap fun p => b8 (g.pred p &&& allLanes g.width))
    ++ (splits.flatMap fun x => match x with
        | some p => leBytes 4 p.pc ++ leBytes 4 (tspWord p.tsp) ++ b8 p.mask
        | none => leBytes 16 0)
    ++ (splits.flatMap fun x => match x with
        | some p => leBytes 4 (p.passed % 2 ^ 31 + 2 ^ 31)
        | none => leBytes 4 0)
    ++ packTokens g.tokens
    ++ (match g.checkpoint with
        | some k => leBytes 4 k.hdr ++ leBytes 4 (tspWord k.tsp) ++ b8 k.mask ++ packTokens k.tokens
        | none => leBytes 400 0)

/-- A group's record at an offset of the slot. -/
def packGroup (i : Image) (restart : Bool) (o : Nat) (g : Group) : List Seg8 :=
  let live := groupLive i restart g
  (o, packFixed g live) :: (liveRows live g.regBytes g.width).flatMap fun r =>
    [(o + 0x800 + r, leBytes 1 (g.rowTag r).toNat),
     (o + 0x4800 + 4 * g.width * r, (List.range g.width).flatMap fun l => leBytes 4 (g.elem r l).toNat)]

/-- A split read back: its clause and its barrier wait, which the layout does not hold, are those it had. -/
def unpackSplit (g : Group) (pc i : Nat) (b : List (BitVec 8)) : Split :=
  let mask := BitVec.ofNat 64 (fieldAt b (0x308 + 16 * i) 8)
  let tsp := tspOf (fieldAt b (0x304 + 16 * i) 4)
  let passed := fieldAt b (0x340 + 4 * i) 4 % 2 ^ 31
  match Tab.find g.splits i with
  | some x => { x with pc, mask, tsp, passed, stall := false, clause := if x.pc = pc then x.clause else clauseAt x.clause pc }
  | none => { newSplit pc mask tsp none with passed }
def unpackSplits (g : Group) (b : List (BitVec 8)) : Tab Split :=
  (List.range 4).foldl (fun a i => if bit (fieldAt b (0x343 + 4 * i) 1) 7 then Tab.put a i (unpackSplit g (fieldAt b (0x300 + 16 * i) 4) i b) else a) []

/-- The code of a row's tag, and a gm, as a saved record holds them. A program that has written the record may have left a
reserved code there, of which the spec says nothing and which no row and no gm ever carry (R23, R62): a free legal code
stands for it; reserved bits of gm are 0 (DESIGN CHOICE, log 108). -/
def restoredTag (v : Nat) : BitVec 5 := BitVec.ofNat 5 (if v ≤ 16 then v else Config.restoredCode v % 17)
def restoredGm (v : BitVec 64) : BitVec 64 :=
  let fix := fun (gm : BitVec 64) (sel hi lo n : Nat) =>
    let x := bits gm.toNat hi lo
    if x < n then gm else gmPut gm sel (Config.restoredCode x % n)
  fix (fix (fix (v &&& 0x3_FFFF_FFFF) 1 8 4 17) 2 11 9 6) 8 33 32 3

/-- R444: a group as its record gives it, over what the device kept of it, where a stop may have ended since the save;
`rd` reads bytes of the record. -/
def unpackGroup (g : Group) (rd : Nat → Nat → List (BitVec 8)) : Group :=
  let b := rd 0 0x660
  let f := fun (o n : Nat) => fieldAt b o n
  let w := fun (o : Nat) => BitVec.ofNat 64 (f o 8)
  let flags := f 0x2C 4
  let rows := liveRows (w 0x38) g.regBytes g.width
  let g := { g with
    gm := restoredGm (w 0)
    views := (List.range 4).foldl (fun a v => Tab.store 0 a v (w (8 + 8 * v))) []
    srg := BitVec.ofNat 32 (f 0x28 4)
    inRegion := bit flags 1
    lost := bit flags 2
    trapMask := if bit flags 3 then g.trapMask else none
    park := if bit flags 4 || bit flags 5 then g.park else .none
    segs := (List.range 8).foldl (fun a k => Tab.put a k (segOf (w (0x40 + 16 * k)) (w (0x48 + 16 * k)))) []
    sregs := (List.range 64).foldl (fun a i => Tab.store 0 a i (w (0xC0 + 8 * i))) []
    preds := (List.range 7).foldl (fun a p => Tab.store 0 a p (w (0x2C0 + 8 * p))) []
    splits := unpackSplits g b
    tokens := unpackTokens g.tokens (b.drop 0x350)
    checkpoint := g.checkpoint.map fun k => { k with hdr := f 0x4D0 4, tsp := tspOf (f 0x4D4 4), mask := w 0x4D8, tokens := unpackTokens k.tokens (b.drop 0x4E0) }
    tags := rows.foldl (fun a r => Tab.store 0 a r (restoredTag (fieldAt (rd (0x800 + r) 1) 0 1))) []
    regs := [] }
  rows.foldl (fun g r => g.setElems ((rowWords (rd (0x4800 + 4 * g.width * r) (4 * g.width))).zipIdx.map fun x => (g.elemKey r x.2, x.1))) g

/-! ### A team's slot (R442) -/

def recSize (i : Image) : Nat := 18432 + i.regBytes
def padOff (i : Image) : Nat := 256 + i.groups * recSize i
/-- The key of a team's save-area accesses in the queue manager's cache. -/
def saveKey (tk : Nat) : Nat := 2 ^ 20 + tk

/-- The lowest team slot of a context that no saved team holds and whose STATE is 0. -/
def freeTeamSlot (s : State) (cid : Nat) (c : Ctx) : Option Nat :=
  let used := s.teams.filterMap fun e => match Tab.find s.launches e.2.launch with
    | some l => if l.ctx = cid ∧ !e.2.resident then some e.2.slot else none
    | none => none
  let used := used ++ (s.slotFrees.filter fun x => x.1 == cid).map (·.2)
  (List.range (min c.nslot (used.length + 1))).find? fun n => !used.contains n

/-- Groups of a team that have arrived at a barrier. -/
def arrivals (gs : List (Nat × Group)) (id : Nat) : Nat := (gs.filter fun e => atBar e.2 id).length

def padBytes (s : State) (core base n : Nat) : List (BitVec 8) := (List.range n).map fun i => Tab.fetch 0 s.scratch (2 ^ 19 * core + base + i)

/-- What a save writes into a slot. -/
def packTeam (s : State) (l : Launch) (t : Team) (gs : List (Nat × Group)) : List Seg8 :=
  let i := l.img
  let gone := (List.range i.groups).filter fun k => !(gs.any fun e => e.2.gid == k)
  (0, leBytes 4 1 ++ leBytes 4 (b2n t.paired + 2 * b2n i.coop + 4 * b2n t.restart) ++ leBytes 8 l.lid ++ leBytes 8 t.tid ++ leBytes 4 i.groups
        ++ leBytes 4 t.scratch ++ (List.range 16).flatMap fun id => leBytes 1 (arrivals gs id))
    :: gs.flatMap (fun e => packGroup i t.restart (0x100 + e.2.gid * recSize i) e.2)
    ++ gone.map (fun k => (0x100 + k * recSize i + 0x2C, leBytes 4 1))
    ++ (padOff i, padBytes s t.core t.sp0 t.scratch)
    :: (if t.paired then [(padOff i + t.scratch, padBytes s (t.core + 1) t.sp1 t.scratch)] else [])

def segAddrs (base : Nat) (ss : List Seg8) : List Nat := ss.flatMap fun x => (List.range x.2.length).map fun i => (base + x.1 + i) % 2 ^ 64

end Sys2Proof.Machine
end

