-- ==== Sys2Proof/Machine/SliceQueue.lean ====
section
/-! DEFINITION. Slice queues (R170 to R173). -/
namespace Sys2Proof.Machine

/-! ### The descriptor (R170) -/

/-- Entries used, entries free, and the ones an operation counts. -/
def QOp.head (o : QOp) (s : State) : Nat := homeNat s (o.desc.plus 0x10) 8
def QOp.tail (o : QOp) (s : State) : Nat := homeNat s (o.desc.plus 0x18) 8
def QOp.avail (o : QOp) (s : State) : Nat :=
  let occ := (o.tail s + 2 ^ 64 - o.head s) % 2 ^ 64
  if o.push then o.cap - occ else occ
/-- The place of entry `n`. -/
def QOp.entry (o : QOp) (n : Nat) : Loc :=
  let y := o.off + n % o.cap * o.esize
  (o.ring.getD (y / 4096) ⟨.log, 0⟩).plus (y % 4096)

/-- R170: a well-formed descriptor's base, entry size and capacity. -/
def parseQueue (bs : List (BitVec 8)) : Option (Nat × Nat × Nat) :=
  let base := fieldAt bs 0 8
  let lg := fieldAt bs 8 1
  let e := fieldAt bs 9 1
  let occ := (fieldAt bs 0x18 8 + 2 ^ 64 - fieldAt bs 0x10 8) % 2 ^ 64
  if (e = 4 ∨ e = 8) ∧ lg ≤ 20 ∧ base % e = 0 ∧ occ ≤ 2 ^ lg ∧ fieldAt bs 0x0A 6 = 0 ∧ fieldAt bs 0x20 32 = 0
  then some (base, e, 2 ^ lg) else none

/-- The accesses of the ring's pages: the first byte of the ring, then each further page. -/
def ringAccs (c : WCtx) (base n : Nat) : List Acc :=
  (List.range ((base % 4096 + n + 4095) / 4096)).map fun i => ⟨c.low, if i = 0 then base else base / 4096 * 4096 + 4096 * i⟩

/-- The checks of `qpush` and `qpop` (R173): descriptor, register, ring pages; the operation they describe. -/
def queueOp (s : State) (c : WCtx) (push nb : Bool) (d a scope : Nat) : Try (State × QOp) := do
  let y := (c.g.s a).toNat
  trapIf (y % 64 != 0) ⟨0x08, 2, y, c.low⟩
  let ls ← uniform s c 0 y 64 2
  let s := touchPlaces (ownFirst s c.key c.g.core ls) c.g.ctx ls
  if let some sec := firstBad s ls then .error (.trap ⟨0x0E, 0, sec, c.low⟩)
  match parseQueue (readHome s ls) with
  | none => illegal 1 y c.low
  | some (base, e, cap) =>
    let w := e == 8
    let od := storeOpnd w (BitVec.ofNat 7 d)
    vecCheck c true [if push then od else { od with cls := .free }]
    let rs ← checkPages s c.key c.g 0 2 1 (ringAccs c base (cap * e))
    let places := rs.flatMap (·.2)
    let ring := match places with
      | l :: ls => { l with addr := l.addr - base % 4096 } :: ls
      | [] => []
    let o : QOp := { push, nb, desc := ls.headD ⟨.log, 0⟩, ring, off := base % 4096, esize := e, cap,
                     vals := c.lanes.map fun l => (l, BitVec.ofNat 64 (if push then od.val c.g l else 0)),
                     rows := c.g.regRows w d, split := c.si, clause := c.sp.clause, scope }
    pure (s, o)

/-! ### The atomic move (R171) -/

/-- A word of `n` bytes written at its home, merged into its sector (R98). -/
def putHomeWord (s : State) (ctx : Nat) (l : Loc) (n v : Nat) : State := putHomeNat (mergePlaces s ctx (l.span n)) ctx l n v

/-- The first `m` lanes' entries are pushed, in lane order. -/
def pushEntries (s : State) (ctx : Nat) (o : QOp) (m : Nat) : State :=
  let t := o.tail s
  let s := ((o.vals.take m).zipIdx).foldl (fun s x => putHomeWord s ctx (o.entry (t + x.2)) o.esize x.1.2.toNat) s
  putHomeWord s ctx (o.desc.plus 0x18) 8 ((t + m) % 2 ^ 64)

/-- The first `m` lanes take entries, in lane order: the state, each lane's value, and a poisoned sector met, with its lane. -/
def popEntries (s : State) (ctx : Nat) (o : QOp) (m : Nat) : State × List (Nat × Nat) × Option (Nat × Nat) :=
  let h := o.head s
  let ps := ((o.vals.take m).zipIdx).map fun x => (x.1.1, o.entry (h + x.2))
  let s := touchPlaces s ctx (ps.flatMap fun x => x.2.span o.esize)
  let vs := ps.map fun x => (x.1, homeNat s x.2 o.esize)
  (putHomeWord s ctx (o.desc.plus 0x10) 8 ((h + m) % 2 ^ 64), vs, ps.findSome? fun x => (firstBad s (x.2.span o.esize)).map (·, x.1))

/-- What the lanes of a pop receive: the destination elements and the tag U32 or U64. -/
def popResult (width : Nat) (o : QOp) (vs : List (Nat × Nat)) (bad : Option (Nat × Nat)) (p : Pending) : Pending :=
  { p with
    elems := vs.flatMap fun x => o.rows.zipIdx.map fun r => (r.1 * width + x.1, BitVec.ofNat 32 (x.2 / 2 ^ (32 * r.2)))
    tags := if vs.isEmpty then [] else o.rows.map fun r => (r, BitVec.ofNat 5 (if o.esize = 8 then tU64 else tU32))
    ready := true, poison := bad }

/-- The returned values as one number, for the response window (R115). -/
def packVals (o : QOp) (vs : List (Nat × Nat)) : Nat := vs.foldr (fun v a => v.2 + 2 ^ (8 * o.esize) * a) 0

/-- The lowest `m` active lanes. -/
def lowLanes (o : QOp) (m : Nat) : BitVec 64 := BitVec.ofNat 64 ((o.vals.take m).foldl (fun a x => a + 2 ^ x.1) 0)

/-- Waiters on a descriptor in one direction, in arrival order (DEDUCED, log 125: a waiting pop does not hold up the push that it
waits for). -/
def waiters (s : State) (desc : Loc) (push : Bool) : List SReq :=
  s.sreqs.filter fun r => r.waiting && (match r.kind with
    | .queue o => o.desc == desc && o.push == push
    | _ => false)

/-- After a move the first waiters of each direction are tried again. -/
def wakeWaiters (s : State) (desc : Loc) : State :=
  laterAll s (((waiters s desc true).take 1 ++ (waiters s desc false).take 1).map fun r => .sliceQueueOperation r.id)

/-- The waiting push of a split, if its word has already gone to the slice. -/
def waitingPush (s : State) (key si : Nat) : Bool :=
  s.sreqs.any fun r => r.key == key && (match r.kind with
    | .queue o => o.push && o.split == si
    | _ => false)

/-! ### The words -/

/-- R171, R172, `qpush`: the split stays at the word until the slice has moved the entries. -/
def execQpush (d : BitVec 7) (x : BitVec 3) (n : BitVec 1) (p : BitVec 3) (a : BitVec 6) (s : State) : Out :=
  runCtl s fun c s =>
    if c.eff = 0 then pure (advance s c)
    else if waitingPush s c.key c.si then .error .stall
    else do
      let (s, o) ← queueOp s c true (n == 1) d.toNat a.toNat x.toNat
      let s ← unbuffered s c 2 0
      let s := releaseAct s c.key c.g.core x.toNat (pairedOf s c.g)
      if n = 1 then
        let s := countReq s (coreSource s c.g.core) (locSlice s o.desc) true
        let m := min o.vals.length (o.avail s)
        let s := wakeWaiters (pushEntries s c.g.ctx o m) o.desc
        pure (advance (updG s c.key fun g => g.mixPred p.toNat c.eff (lowLanes o m)) c)
      else pure (sendReq s c.key c.g.core c.g.ctx 0 (.queue o) none)

/-- R171, R172, `qpop`. -/
def execQpop (d : BitVec 7) (x : BitVec 3) (n : BitVec 1) (p : BitVec 3) (a : BitVec 6) (s : State) : Out :=
  runLong s fun c s => do
    let (s, o) ← queueOp s c false (n == 1) d.toNat a.toNat x.toNat
    let s ← unbuffered s c 2 0
    let (s, id) := newId s
    if n = 1 then
      let src := coreSource s c.g.core
      let slice := locSlice s o.desc
      let dev := s.hb.hbId.toNat % 65536
      if !windowHas s slice dev src then .error .stall
      let s := countReq s src slice true
      let m := min o.vals.length (o.avail s)
      let (s, vs, bad) := popEntries s c.g.ctx o m
      let s := windowPut s slice dev src (Tab.fetch 0 s.seqs src) (packVals o vs)
      let s := acquireAct (wakeWaiters s o.desc) c.g.core x.toNat (pairedOf s c.g)
      let s := updG s c.key fun g => g.mixPred p.toNat c.eff (lowLanes o m)
      pure (later s (.longLatencyCompletion c.key id), popResult c.w o vs bad (blankPending id c.sp.pc))
    else pure (sendReq s c.key c.g.core c.g.ctx 0 (.queue o) (some (id, [])), blankPending id c.sp.pc)

/-! ### The operation at the slice -/

/-- A queue operation on its way comes to its slice, when its frame has and the slice has an entry for it; its source's earlier
requests to the slice are applied before it. -/
def comeQueue (s : State) (id : Nat) : State :=
  match s.sreqs.find? fun r => r.id == id with
  | some r =>
    let cut := match r.kind with
      | .queue o => cutOff s o.desc
      | _ => false
    if r.here ∨ r.waiting then s
    else if cut then { s with sreqs := s.sreqs.map fun x => if x.id == id then { x with here := true } else x }
    else
      let s := bringFrame s id
      if arrived s id ∧ !sliceFull s (r.slice s) then arriveQueue ((aheadOf s r).foldl applyReq s) r else s
  | none => s


/-- A queue operation that may move moves: the entries, and what its issuer sees. -/
def moveQueue (s : State) (r : SReq) (o : QOp) : State :=
  let slice := locSlice s o.desc
  let s : State := { s with sreqs := s.sreqs.filter fun y => y.id != r.id }
  let k := o.vals.length
  if o.push then
    let s := pushEntries s r.ctx o k
    let s := setSplit s r.key o.split fun sp =>
      { sp with pc := sp.pc + 1, clause := clauseAt sp.clause (sp.pc + 1), stall := false }
    wakeWaiters s o.desc
  else
    let (s, vs, bad) := popEntries s r.ctx o k
    let s := wakeWaiters s o.desc
    match r.ret, Tab.find s.groups r.key with
    | some (pid, _), some g =>
      let s := acquireAct s g.core o.scope (pairedOf s g)
      let s := setPending s r.key pid (popResult g.width o vs bad)
      later (windowReq s r slice (packVals o vs)) (.longLatencyCompletion r.key pid)
    | _, _ => s

/-- R118: a queue operation on a descriptor that is cut off is an uncorrectable-memory event: a push's split goes on, a pop's
result is bad (R438). -/
def cutQueue (s : State) (r : SReq) (o : QOp) : State :=
  let s := dropFrames { s with sreqs := s.sreqs.filter fun y => y.id != r.id } r.id
  match r.ret with
  | none => setSplit (chargeCut s r.ctx [o.desc]) r.key o.split fun sp =>
      { sp with pc := sp.pc + 1, clause := clauseAt sp.clause (sp.pc + 1), stall := false }
  | some (pid, _) => later (setPending s r.key pid fun p => { p with ready := true, poison := some (sectorAddr s o.desc, (o.vals.headD (0, 0)).1) }) (.longLatencyCompletion r.key pid)

/-- R171, SLICE_QUEUE_OPERATION: it comes to its slice behind the earlier requests of its source there (R108, R115); then all
`k` entries at once, or the operation waits behind earlier waiters and for room in the response window, out of the
slice's request entries (DEDUCED, log 112). -/
def execSliceQueueOperation (id : Nat) (s : State) : Out :=
  let s := comeQueue s id
  match s.sreqs.find? fun r => r.id == id && (r.here || r.waiting) with
  | none => .next s
  | some r => match r.kind with
    | .queue o =>
      if cutOff s o.desc then .next (cutQueue s r o)
      else
      let ahead := (waiters s o.desc o.push).takeWhile fun w => w.id != id
      if ahead.isEmpty ∧ o.vals.length ≤ o.avail s ∧ windowRoom s r (r.slice s) then .next (moveQueue s r o)
      else if r.waiting then .next s
      else .next { s with sreqs := (s.sreqs.filter fun y => y.id != id) ++ [{ r with here := false, waiting := true }] }
    | _ => .next s

/-- The lanes that issued a queue operation. -/
def QOp.lanes (o : QOp) : BitVec 64 := BitVec.ofNat 64 (o.vals.foldl (fun a x => a + 2 ^ x.1) 0)

/-- Lanes of `m` that wait in a token entry become a split again, at the header where they arrived, while a slot is free. -/
def unarrive (m : BitVec 64) (g : Group) (e : Nat) : Group :=
  match Tab.find g.tokens e, lowFree g.splits 4 with
  | some t, some i =>
    if t.kind ≠ .token ∨ t.arrived &&& m = 0 then g
    else { g with tokens := Tab.put g.tokens e { t with arrived := t.arrived &&& ~~~m },
                  splits := Tab.put g.splits i (newSplit t.addr (t.arrived &&& m) (some e) none) }
  | _, _ => g

/-- The word of a withdrawn `qpop` is to issue again: its tumbler count is returned and its result forgotten (R60), and every
split that holds lanes which issued it stands at the word for those lanes, from which it goes on to where it had come
(log 27). -/
def reissue (o : QOp) (pid : Nat) (g : Group) : Group :=
  match g.pending.find? fun p => p.id == pid with
  | none => g
  | some p =>
    let g := { g.dropT p.tumbler with pending := g.pending.filter fun q => q.id != pid }
    let g := (g.tokens.map (·.1)).foldl (unarrive o.lanes) g
    { g with splits := g.splits.map fun e =>
        (e.1, if e.2.mask &&& o.lanes = 0 then e.2
              else { e.2 with pc := p.pc, clause := o.clause, stall := false, barWait := none, back := (p.pc, e.2.pc, e.2.clause, o.lanes) :: e.2.back }) }

/-- R173: a group's waiting operations are withdrawn at the slice, the latest first, so that their words issue again in
program order; a `qpush` has not left its word. -/
def withdrawQueue (s : State) (key : Nat) : State :=
  let mine := (s.sreqs.filter fun r => r.key == key && r.place.isNone).reverse
  let s := mine.foldl (fun s r => match r.kind, r.ret with
    | .queue o, some (pid, _) => updG s key (reissue o pid)
    | _, _ => s) s
  dropQueueOps s key

end Sys2Proof.Machine
end

