-- ==== Sys2Proof/Machine/Preempt.lean ====
section
/-! DEFINITION. Pre-emption (R440), the save and the restore of a team (R441 to R444), and the revocation of harvest teams
(R319, R419 to R423). -/
namespace Sys2Proof.Machine

def setTeam (s : State) (tk : Nat) (f : Team → Team) : State := { s with teams := Tab.modify s.teams tk f }

/-! ### Harvest teams (R419 to R423) -/

/-- The revocation of one team on its core (R422): a team that holds lent scratchpad returns it and rewinds, and so does one
whose matrix entries are removed (R319). No engine reads or writes the scratchpad that it returns: a team that holds lent
scratchpad issues no engine word (R420). -/
def revokeTeam (s : State) (tk : Nat) : State :=
  match Tab.find s.teams tk with
  | none => s
  | some t =>
    let rewinds := t.scratch ≠ 0 ∨ (teamGroups s tk).any fun e => !(tileWords s e.1).isEmpty
    let s := if rewinds then rewindTeam s tk else s
    if t.scratch = 0 then s else setTeam s tk fun t => { t with needLent := true }

/-- A team that is about to be pre-empted: its waiting `waita` end, its waiting queue words are withdrawn (R134, R173). -/
def endTeamWaits (s : State) (tk : Nat) : State := (teamGroups s tk).foldl (fun s e => withdrawQueue (endWaits s e.1) e.1) s

/-- A harvest team is parked whole (R419). -/
def parkTeam (s : State) (tk : Nat) : State := revokeTeam (setTeam (endTeamWaits s tk) tk fun t => { t with stopped := true }) tk

/-- Harvest teams on a core that a test picks. -/
def harvestTeams (s : State) (core : Nat) (p : Team → Bool) : List (Nat × Team) :=
  s.teams.filter fun e => e.2.harvest && e.2.resident && e.2.core == core && p e.2

/-- Teams that hold lent scratchpad, fewest bytes first, until `need` bytes are free in one piece. -/
def revokeFor (core need : Nat) : Nat → State → State
  | 0, s => s
  | n + 1, s =>
    if (padHole s core need).isSome then s
    else
      let hold := harvestTeams s core fun t => t.scratch != 0 && !t.needLent
      match hold.foldl (fun (b : Option (Nat × Team)) e => match b with
          | some x => if e.2.scratch < x.2.scratch then some e else b
          | none => some e) none with
      | some e => revokeFor core need n (revokeTeam s e.1)
      | none => s

/-- R422, HARVEST_REVOCATION: 0, an owner team needs `amount` bytes of scratchpad; 1, the harvest context `amount` is
pre-empted, switched out or killed; 2, a class-0 owner group comes. -/
def execHarvestRevocation (core reason amount : Nat) (s : State) : Out :=
  let s := match reason with
    | 0 => revokeFor core amount 16 s
    | 1 => (harvestTeams s core fun t => (match Tab.find s.launches t.launch with
        | some l => l.ctx == amount
        | none => false)).foldl (fun s e => parkTeam s e.1) s
    | _ => (harvestTeams s core fun _ => true).foldl (fun s e => revokeTeam (endTeamWaits s e.1) e.1) s
  .next (wakePlacement s)

/-! ### Routes (R440) -/

/-- Whether a group of a team has a locked tile between grant and write-back (R317). -/
def teamLocked (s : State) (tk : Nat) : Bool :=
  (teamGroups s tk).any fun e => s.mx.any fun m => m.2.tiles.any fun t => t.key == e.1 && t.granted && ctxPrio s t.ctx == 0

/-- E of R440: the mean residency of the launch's last exited teams, less this team's so far. -/
def expectLeft (s : State) (l : Launch) (t : Team) : Option Int :=
  if l.residency.isEmpty then none
  else some ((l.residency.sum / l.residency.length : Nat) - ((s.time - t.started : Nat) : Int))

/-- R440: the route for one team. -/
def preemptTeam (s : State) (tk : Nat) (drain : Bool) : State :=
  match Tab.find s.teams tk with
  | none => s
  | some t => match Tab.find s.launches t.launch with
    | none => s
    | some l =>
      if !t.resident ∨ t.saving then s
      else if t.harvest then parkTeam s tk
      else
        let short := match expectLeft s l t with
          | some e => decide (e ≤ 20000)
          | none => false
        if (drain && !l.img.coop && short) || teamLocked s tk then setTeam s tk fun t => { t with draining := some s.time }
        else
          let s := setTeam s tk fun t => { t with saving := true, draining := none }
          let gs := teamGroups s tk
          let s := if gs.all fun e => intact e.2 then
              setTeam (gs.foldl (fun s e => flushGroup s e.1) s) tk fun t => { t with restart := true }
            else s
          later s (.teamSave t.launch tk)

/-- R440, PREEMPTION_REQUEST. -/
def execPreemptionRequest (lid tk : Nat) (s : State) : Out :=
  match Tab.find s.teams tk with
  | some t => .next (if t.launch = lid ∧ t.draining.isNone then preemptTeam s tk true else s)
  | none => .next s

/-- R440, DRAIN_TIMEOUT: a team still there 20 µs after the request is stopped by another route. -/
def execDrainTimeout (lid tk t : Nat) (s : State) : Out :=
  let s := atTime s t
  match Tab.find s.teams tk with
  | some x => match x.draining with
    | some r => .next (if x.launch = lid ∧ r + 20000 ≤ s.time then preemptTeam s tk false else s)
    | none => .next s
  | none => .next s

/-! ### Saving (R441) -/

/-- A keyway record of a group, or of one of its team that has exited, that writes its core's memories (R132). -/
def padRec (key : Nat) (g : Group) (r : KRec) : Bool :=
  (r.gkey == key || (g.team != 0 && r.team == g.team)) && (r.dloc.isSome || r.cw == 1 || r.cw == 3)

/-- Whether an image read takes its bytes from a team's scratchpad. -/
def readsPad (t : Team) (ld : WLoad) : Bool :=
  ld.inSp && ((ld.core == t.core && decide (t.sp0 ≤ ld.addr) && decide (ld.addr < t.sp0 + t.scratch))
    || (t.paired && ld.core == t.core + 1 && decide (t.sp1 ≤ ld.addr) && decide (ld.addr < t.sp1 + t.scratch)))

/-- Steps 1 to 3 of R441 for one group; made again while the save waits, they change nothing more. -/
def quiesce (s : State) (key : Nat) : State :=
  match Tab.find s.groups key with
  | none => s
  | some g =>
    let s := withdrawQueue (endWaits s key) key
    let s := preemptRays (settleAll (clearXfaults s g.core key) key) key
    let s := (s.recs.filter (padRec key g)).foldl (fun s r => endRec s r.id kwPreempted) s
    updG s key fun g => { g with susp := none, splits := g.splits.map fun e => (e.1, { e.2 with stall := false }) }

/-- Whether nothing that R441 waits for is left of a group. -/
def quiet (s : State) (tk key : Nat) (g : Group) : Bool :=
  g.pending.isEmpty && (tileWords s key).isEmpty && !(s.rays.any fun r => r.key == key)
    && !s.recs.any (padRec key g)
    && !(s.mx.any fun e => e.2.slots.any fun w => w.load.any fun ld => (Tab.find s.teams tk).any (readsPad · ld))
    && !(s.engCmds.any fun m => m.team == tk && (m.sloc.isSome || m.dloc.isSome || m.cloc.isSome))
    && !(s.raster.draws.any fun d => d.gkey == key && d.cloc.isSome) && !(s.sreqs.any fun r => r.key == key)

/-- A fault on the save area ends the team as a kill does, with SAVEFAULT (R441, R444). -/
def saveFault (s : State) (tk cid lid : Nat) : State :=
  let s := ((teamGroups s tk).map (·.1)).foldl killGroup s
  let s := if (s.saved.any fun e => e.2.team == tk) then dropSaved s tk else s
  postRecs s cid [{ cls := 2, kind := 5, detail := 0, ctx := cid, source := 0x0400, time := s.time, addr := lid, pc := 0, who := 0 }]

/-- Steps 4 and 5 of R441, once the slot has been written: the groups leave their cores. -/
def leaveCore (s : State) (tk : Nat) (t : Team) (slot : Nat) (gs : List (Nat × Group)) : State :=
  let s := gs.foldl (fun s e => l1Clean s e.2.core) s
  let gone := gs.map fun e => (e.1, { e.2 with tumblers := [], susp := none })
  let s : State := { s with saved := gone.foldl (fun a e => Tab.put a e.1 e.2) s.saved, groups := s.groups.filter fun e => e.2.team != tk }
  let s := gs.foldl (fun s e => noteEmpty s e.2.core) s
  wakePlacement (setTeam s tk fun x => { x with resident := false, saving := false, slot, started := s.time - t.started })

/-- R441, TEAM_SAVE: the team's groups stop; the save is made when their operations have ended and a slot is free. -/
def execTeamSave (lid tk : Nat) (s : State) : Out :=
  match Tab.find s.teams tk with
  | none => .next s
  | some t => match Tab.find s.launches t.launch with
    | none => .next s
    | some l => match Tab.find s.ctxs l.ctx with
      | none => .next s
      | some c =>
        if t.launch ≠ lid ∨ !t.resident ∨ t.harvest then .next s
        else
          let s := setTeam s tk fun t => { t with saving := true }
          let s := ((teamGroups s tk).map (·.1)).foldl quiesce s
          let gs := teamGroups s tk
          if !(gs.all fun e => quiet s tk e.1 e.2) then .next s
          else match freeTeamSlot s l.ctx c with
            | none => .next s
            | some n =>
              let ss := packTeam s l t gs
              match engCheck s engQm l.ctx (saveKey tk) 2 (segAddrs (saveAddr c n) ss) with
              | .wait ps => .next (engAsk s engQm l.ctx (saveKey tk) ps)
              | .stall => .next s
              | .ok ls => .next (leaveCore (engWrite (clearXfaults s engQm (saveKey tk)) engQm l.ctx ls (ss.flatMap (·.2)) []) tk t n gs)
              | _ => .next (saveFault (clearXfaults s engQm (saveKey tk)) tk l.ctx l.lid)

/-! ### Restoring (R444, R394) -/

/-- A segment of sp or pe follows its allocation to the new core. -/
def moveSeg (segs : Tab Seg) (k old new : Nat) : Tab Seg :=
  Tab.modify segs k fun x => { x with base := x.base - BitVec.ofNat 64 old + BitVec.ofNat 64 new }

/-- One group of a restored team; what the host has refused it follows it to its core (R432). -/
def restoreGroup (t old : Team) (i : Image) (rd : Nat → Nat → List (BitVec 8)) (s : State) (e : Nat × Group) : State :=
  let core := if t.paired ∧ i.split.1 ≤ e.2.gid then t.core + 1 else t.core
  let odd := core != t.core
  let g := unpackGroup e.2 fun o n => rd (0x100 + e.2.gid * recSize i + o) n
  let own := fun (x : Team) => if odd then x.sp1 else x.sp0
  let far := fun (x : Team) => if odd then x.sp0 else x.sp1
  let segs := moveSeg (moveSeg g.segs 1 (own old) (own t)) 2 (far old) (far t)
  let g := { g with core, slot := (freeSlots s core 0).headD 0, islot := issueSlot s core false, placed := s.time, lastIssue := s.time,
                    reloc := if core = e.2.core then g.reloc else g.reloc + 1, passed := 0, losses := [], marks := [], segs }
  { s with groups := Tab.put s.groups e.1 g, saved := Tab.del s.saved e.1,
           xfaults := s.xfaults.map fun f => if f.eng = e.2.core ∧ f.key = e.1 then { f with eng := core } else f }

/-- Scratchpad bytes of a core. -/
def putPad (s : State) (core base : Nat) : List (BitVec 8) → State
  | [] => s
  | b :: bs => putPad { s with scratch := Tab.store 0 s.scratch (2 ^ 19 * core + base) b } core (base + 1) bs

/-- R444: a team read back from its slot onto a core. -/
def restoreTeam (s : State) (tk : Nat) (l : Launch) (c : Ctx) (old : Team) (core : Nat) (ls : List Loc) : State :=
  let i := l.img
  let rd := fun (o n : Nat) => readHome s ((ls.drop o).take n)
  let b0 := (padHole s core i.scratch).getD 0
  let b1 := if i.paired then (padHole s (core + 1) i.scratch).getD 0 else 0
  let t := { old with core, sp0 := b0, sp1 := b1, resident := true, restart := false, moving := false, placed := s.time,
                      started := s.time - old.started }
  let s := if old.moving then thermalRec s old.core 3 core l.lid old.tid else s
  let pad := fun (k : Nat) => rd (padOff i + k * i.scratch) i.scratch
  let s := l1Drop (putPad { s with teams := Tab.put s.teams tk t } core b0 (pad 0)) core fun _ => true
  let s := if i.paired then l1Drop (putPad s (core + 1) b1 (pad 1)) (core + 1) fun _ => true else s
  let s := (s.saved.filter fun e => e.2.team == tk).foldl (restoreGroup t old i rd) s
  let s := putSlotState s l.ctx old.slot 0 (ls.take 4)
  claimCore s c false core

/-- A saved team is placed on a core, when its slot can be read; until then its STATE says that it is being restored (R442). -/
def placeSaved (s : State) (tk : Nat) (l : Launch) (c : Ctx) (t : Team) (core : Nat) : State :=
  let s := match slotPlaces s l.ctx t.slot with
    | .ok ls => putSlotState s l.ctx t.slot 2 ls
    | _ => s
  match engCheck s engQm l.ctx (saveKey tk) 3 ((List.range (padOff l.img + (if t.paired then 2 else 1) * t.scratch)).map (saveAddr c t.slot + ·)) with
  | .wait ps => engAsk s engQm l.ctx (saveKey tk) ps
  | .stall => s
  | .ok ls =>
    let s := touchPlaces (clearXfaults s engQm (saveKey tk)) l.ctx ls
    if (poisonedAt s ls).isEmpty then wakePlacement (restoreTeam s tk l c t core ls)
    else saveFault s tk l.ctx l.lid
  | _ => saveFault (clearXfaults s engQm (saveKey tk)) tk l.ctx l.lid

end Sys2Proof.Machine
end

