-- ==== Sys2Proof/Machine/Sched.lean ====
section
/-! DEFINITION. The launch distributor's steps (R414, R415, R418 to R422, R444): placement, starvation, thermal migration. -/
namespace Sys2Proof.Machine

/-! ### What waits for a place -/

/-- A team that waits: of which LEVEL, launch and TEAMID, and, if it has started before, its key. -/
structure Waiting where
  level : Nat
  lk : Nat
  tid : Nat
  team : Option Nat
deriving DecidableEq, Repr

/-- The LEVEL of a launch: its queue's (R415); best for one from no queue. -/
def launchLevel (s : State) (l : Launch) : Nat :=
  match queueOf s l.queue with
  | some q => q.level
  | none => 0

/-- Whether a team that has started waits: saved, or a harvest team parked or without its scratchpad; one that was
saved at a host-serviced wait waits for the answer first (R434), and a parked harvest team, which no other core can take (R419), for its
core to cool (R418). -/
def teamWaits (s : State) (tk : Nat) (t : Team) : Bool :=
  if t.harvest then t.resident && (t.stopped || t.needLent) && !classZero s t.core && !(t.stopped && (coreInfo s t.core).hot)
  else !t.resident && !(t.restart && s.saved.any fun e => e.2.team == tk && e.2.park == .service)

/-- The next team of each launch, and the teams that have started and wait. -/
def waiting (s : State) : List Waiting :=
  (s.launches.filterMap fun e =>
    let l := e.2
    if (l.kind = .ordinary ∨ l.kind = .vertex) ∧ l.nextTeam < l.total ∧ !l.killed ∧ ctxOn s l.ctx then
      some { level := launchLevel s l, lk := e.1, tid := l.nextTeam, team := none } else none)
  ++ s.teams.filterMap fun e => match Tab.find s.launches e.2.launch with
    | some l => if teamWaits s e.1 e.2 ∧ ctxOn s l.ctx then some { level := launchLevel s l, lk := e.2.launch, tid := e.2.tid, team := some e.1 } else none
    | none => none

/-- R415: better LEVELs first, then launches in their order, then increasing TEAMID. -/
def waitsBefore (a b : Waiting) : Bool :=
  decide (a.level < b.level) || (a.level == b.level && (decide (a.lk < b.lk) || (a.lk == b.lk && decide (a.tid < b.tid))))
def insertWaiting (w : Waiting) : List Waiting → List Waiting
  | [] => [w]
  | v :: vs => if waitsBefore w v then w :: v :: vs else v :: insertWaiting w vs

/-! ### Placing one team -/

/-- What a group of a launch starts with beside R382. -/
def launchInit (s : State) (l : Launch) (tid : Nat) (g : Group) : Group :=
  match l.kind, drawOf s l.draw with
  | .vertex, some d => vertexInit d tid g
  | _, _ => g

/-- The next team of a launch starts on a core. -/
def placeNext (s : State) (lk : Nat) (l : Launch) (core : Nat) : State :=
  let s := startTeam s lk l l.nextTeam core fun _ g => launchInit s l l.nextTeam g
  { s with launches := Tab.modify s.launches lk fun l => { l with nextTeam := l.nextTeam + 1, since := none } }

/-- The teams of a cooperative launch on the cores reserved for them, all or none (R414). -/
def placeCoop (lk : Nat) : List Nat → State → Option State
  | [], s => some { s with launches := Tab.modify s.launches lk fun l => { l with room := [] } }
  | c :: cs, s => match Tab.find s.launches lk with
    | none => none
    | some l => if teamFits s l.img 0 c then placeCoop lk cs (placeNext s lk l c) else none

/-- A parked harvest team goes on where its latch banks hold it, once it has lent scratchpad again. -/
def resumeHarvest (s : State) (tk : Nat) (t : Team) : Option State :=
  let ok := fun (s : State) => setTeam s tk fun t => { t with stopped := false }
  if !t.needLent then some (ok s)
  else match padHole s t.core t.scratch with
    | none => none
    | some b =>
      let s := zeroPad s t.core b t.scratch
      let s : State := { s with groups := s.groups.map fun e => (e.1, if e.2.team = tk then { e.2 with segs := moveSeg e.2.segs 1 t.sp0 b } else e.2) }
      some (ok (setTeam s tk fun t => { t with needLent := false, sp0 := b }))

/-- A team of a launch has found a fit: the wait of its next one counts from when it finds none (R415). -/
def foundFit (s : State) (lk : Nat) : State := { s with launches := Tab.modify s.launches lk fun l => { l with since := none } }

/-- Where a saved team goes: a cooperative launch's team that was moved, where room was reserved for it (R418). -/
def coreBack (s : State) (lk : Nat) (l : Launch) (t : Team) (cool : Nat) : Option Nat :=
  match l.room with
  | k :: _ => if t.moving ∧ teamFits s l.img 0 k then some k else chooseCore s lk l.img false cool
  | [] => chooseCore s lk l.img false cool
/-- The room reserved for a team that is back on its cores is spent. -/
def takeRoom (s : State) (lk tk core : Nat) : State :=
  if (Tab.find s.teams tk).any (·.resident) then { s with launches := Tab.modify s.launches lk fun l => { l with room := l.room.erase core } } else s

/-- Try to place one waiting team; `none`: it finds no fit. -/
def placeOne (s : State) (cool : Nat) (w : Waiting) : Option State :=
  match Tab.find s.launches w.lk with
  | none => none
  | some l => match Tab.find s.ctxs l.ctx with
    | none => none
    | some c => match w.team with
      | none =>
        if l.img.coop then (if l.room.isEmpty then none else placeCoop w.lk l.room s)
        else (chooseCore s w.lk l.img (c.harvest && l.kind == .ordinary) cool).map fun k => placeNext s w.lk l k
      | some tk => match Tab.find s.teams tk with
        | none => none
        | some t =>
          if t.harvest then (resumeHarvest s tk t).map (foundFit · w.lk)
          else (coreBack s w.lk l t cool).map fun k => takeRoom (foundFit (placeSaved s tk l c t k) w.lk) w.lk tk k

/-- The first waiting team that finds a place. -/
def placeFirst (s : State) (cool : Nat) : List Waiting → Option State
  | [] => none
  | w :: ws => match placeOne s cool w with
    | some s' => some s'
    | none => placeFirst s cool ws

/-! ### When none finds a place -/

/-- A core where an owner team would fit but for scratchpad that is lent (R422). -/
def lentShort (s : State) (i : Image) : Option Nat :=
  let bare := { i with scratch := 0 }
  (List.range 88).find? fun k => i.scratch != 0 && teamFits s bare 0 k
    && (let on := fun c => decide (padUsed s c false + i.scratch ≤ 2 ^ 19)
        on k && (!i.paired || on (k + 1)))

/-- A waiting team that finds no fit asks for lent scratchpad back; from when it has waited is noted (R415, R422). -/
def noteWaiting (s : State) (w : Waiting) : State :=
  match Tab.find s.launches w.lk with
  | none => s
  | some l =>
    let owner := !ctxHarvest s l.ctx || l.kind != .ordinary
    let s := match (if owner then lentShort s l.img else none) with
      | some k =>
        if (padHole s k l.img.scratch).isNone then later s (.harvestRevocation k 0 l.img.scratch)
        else if l.img.paired then later s (.harvestRevocation (k + 1) 0 l.img.scratch) else s
      | none => s
    { s with launches := Tab.modify s.launches w.lk fun l => { l with since := l.since <|> some s.time } }

/-- R415, TEAM_PLACEMENT: one team is placed, and the next is looked for, unless its slot's pages must be had first; `cool` is the coolest core by the thermal map. -/
def execTeamPlacement (cool : Nat) (s : State) : Out :=
  let ws := (waiting s).foldr insertWaiting []
  let packs := ([0, 1].filter fun st => !(quadsAt s st .packing).isEmpty).map Instr.fragmentGroupDispatch
  .next (match placeFirst s cool ws with
    | some s' => if waiting s' = waiting s then s' else later s' (.teamPlacement cool)
    | none => laterAll (ws.foldl noteWaiting s) packs)

/-! ### Starvation (R415) -/

/-- Priority class of a team's context. -/
def teamClass (s : State) (t : Team) : Nat :=
  match Tab.find s.launches t.launch with
  | some l => ctxPrio s l.ctx
  | none => 0

/-- Whether a launch's team would fit a core once one resident team had left it. -/
def fitsWithout (s : State) (i : Image) (cls tk core : Nat) : Bool :=
  teamFits { s with teams := Tab.del s.teams tk, groups := s.groups.filter fun e => e.2.team != tk } i cls core

/-- The team to be stopped for a waiting one: of the worst class, where that then fits. -/
def starvationVictim (s : State) (cls : Nat) (i : Image) (harvest : Bool) : Option (Nat × Team) :=
  let ok := s.teams.filter fun e => e.2.resident && !e.2.harvest && !e.2.saving && decide (cls < teamClass s e.2)
    && (List.range 88).any fun k => (e.2.core == k || e.2.core == k + 1 || (e.2.paired && e.2.core + 1 == k)) && fitsWithout s i (b2n harvest) e.1 k
  ok.foldl (fun (b : Option (Nat × Team)) e => match b with
    | some x => if teamClass s x.2 < teamClass s e.2 then some e else b
    | none => some e) none

/-- R415, PLACEMENT_STARVATION: a launch with a team that waits and has found no fit for 100 µs. -/
def execPlacementStarvation (lk t : Nat) (s : State) : Out :=
  let s := atTime s t
  match Tab.find s.launches lk with
  | none => .next s
  | some l => match l.since with
    | none => .next s
    | some b =>
      if s.time < b + 100000 ∨ !(waiting s).any (fun w => w.lk == lk) then .next s
      else match starvationVictim s (ctxPrio s l.ctx) l.img (ctxHarvest s l.ctx && l.kind == .ordinary) with
        | some (tk, v) =>
          .next (later { s with launches := Tab.modify s.launches lk fun l => { l with since := some s.time } } (.preemptionRequest v.launch tk))
        | none => .next s

/-! ### Thermal migration (R418) -/

/-- R418, THERMAL_MIGRATION: a team resident for 2 ms with a group on a core above its limit; one of a cooperative launch
only when a place is there at once, which is reserved for it. -/
def execThermalMigration (lid tk : Nat) (s : State) : Out :=
  match Tab.find s.teams tk with
  | none => .next s
  | some t => match Tab.find s.launches t.launch with
    | none => .next s
    | some l =>
      let hot := (teamGroups s tk).any fun e => (coreInfo s e.2.core).hot
      if t.launch ≠ lid ∨ !t.resident ∨ t.saving ∨ !hot ∨ s.time < t.placed + 2000000 ∨ t.draining.isSome then .next s
      else
        let go := fun (s : State) => Host.Outcome.next (preemptTeam (setTeam s tk fun t => { t with moving := !t.harvest }) tk true)
        if !l.img.coop ∨ t.harvest then go s
        else match chooseCore s t.launch l.img false 88 with
          | none => .next s
          | some k => go { s with launches := Tab.modify s.launches t.launch fun l => { l with room := l.room ++ [k] } }

end Sys2Proof.Machine
end

