-- ==== Sys2Proof/Machine/ContextOps.lean ====
section
/-! DEFINITION. Contexts (R445, R446, R451, R452): the context table and the context commands of HB_CTXCTL. -/
namespace Sys2Proof.Machine

/-- R451: a write while a context is bound is ignored. -/
def execHbCtxtabWrite (s : State) : Out :=
  .next (if s.ctxs.isEmpty then { s with hb := { s.hb with ctxTab := BitVec.ofNat 64 (s.hb.wval.toNat / 2 ^ 20 * 2 ^ 20) } } else s)

/-- A context command ends with a status. -/
def ctxEnd (s : State) (status : Nat) : Out := .next (setCtxCtl s false status)

/-! ### BIND and UNBIND -/

/-- TRAPMASK bits of the classes that a handler may receive (R426). -/
def trapMaskOk (m : Nat) : Bool := (List.range 32).all fun c => !bit m c || handlerClass c

/-- The context that a descriptor describes, when it keeps R428, R442, R450 and R451. -/
def parseCtx (b : List (BitVec 8)) : Option Ctx :=
  let f := fun (o n : Nat) => fieldAt b o n
  let flags := f 4 4
  let c : Ctx := { pasid := f 0 4, prio := flags % 8, harvest := bit flags 3, priv := bit flags 4, squota := f 8 8, htab := f 0x10 8, trapEntry := f 0x18 8,
                   fqBase := f 0x20 8, fqPtr := f 0x28 8, fqLog2 := f 0x30 1, fqVec := f 0x32 2, trapMask := BitVec.ofNat 32 (f 0x34 4), wdog := f 0x38 4,
                   nslot := f 0x3C 4, saveBase := f 0x40 8, slotSize := f 0x48 8, cgTab := f 0x50 8, peerTab := f 0x58 8, inNow := true, leaving := false,
                   fqCount := 0, fqDropped := 0, fqWait := [], nextDraw := 0 }
  if c.pasid < 2 ^ 20 ∧ flags < 32 ∧ f 0x31 1 = 0 ∧ zeroFrom b 0x60 160 ∧ trapMaskOk (f 0x34 4) ∧ 6 ≤ c.fqLog2 ∧ c.fqLog2 ≤ 16 ∧ 16 ≤ c.fqVec
      ∧ c.fqVec ≤ 2047 ∧ 1 ≤ c.nslot ∧ c.nslot ≤ 65535 ∧ c.fqBase % 4096 = 0 ∧ c.fqPtr % 16 = 0 ∧ c.htab % 2048 = 0 ∧ c.saveBase % 65536 = 0
      ∧ c.slotSize % 65536 = 0 then some c else none

/-- R452, BIND. -/
def execCtxBind (s : State) : Out :=
  let n := ctxNo s
  if (Tab.find s.ctxs n).isSome then ctxEnd s 3
  else match parseCtx (logBytes s (s.hb.ctxTab.toNat + 256 * n) 256) with
    | none => ctxEnd s 2
    | some c => if s.ctxs.any fun e => e.2.pasid == c.pasid then ctxEnd s 2 else ctxEnd { s with ctxs := Tab.put s.ctxs n c } 0

/-- What keeps a context from being unbound: a loaded queue, a surface, a team resident or saved (R452). -/
def ctxHeld (s : State) (n : Nat) : Bool :=
  (s.queues.any fun e => e.2.ctx == n && e.2.on) || (s.surfs.any fun e => e.2.ctx == n)
    || s.teams.any fun e => match Tab.find s.launches e.2.launch with
      | some l => l.ctx == n
      | none => false

/-- A context's weight-buffer slots and banks on one matrix engine go, without a spill (R308, R452). -/
def unbindMx (n : Nat) (m : Mx) : Mx :=
  let m := (m.slots.filter fun w => w.ctx == n).foldl (fun m w => m.dropSlot n w.handle) m
  { m with banks := m.banks.filter fun b => b.2.1 != n, spilled := m.spilled.filter (· != n), tiles := m.tiles.filter fun t => t.ctx != n }

/-- A context's draws leave the front ends. -/
def Raster.without (r : Raster) (n : Nat) : Raster :=
  let kept := fun (k : Nat) => !(r.draws.any fun d => d.id == k && d.ctx == n)
  { r with draws := r.draws.filter (fun d => d.ctx != n), prims := r.prims.filter (fun p => kept p.draw)
           quads := r.quads.filter (fun q => kept q.draw), tickets := r.tickets.filter fun t => kept t.draw }

/-- The context's existence on the device ends (R452): its handler groups end, and its messages and draws go with it. -/
def dropCtx (s : State) (n : Nat) (c : Ctx) : State :=
  let s := (s.cells.filter fun x => x.creator == n).foldl retireCell s
  let hub := fun (h : Hub) => { h with
    entries := h.entries.filter fun e => e.pasid != c.pasid
    reqs := h.reqs.filter fun x => x.pasid != c.pasid
    waiting := h.waiting.filter fun x => x.pasid != c.pasid
    touches := h.touches.filter fun t => t.ctx != n }
  { s with
    mx := s.mx.map fun e => (e.1, unbindMx n e.2)
    tcache := s.tcache.filter fun e => e.ctx != n
    xfaults := s.xfaults.filter fun f => f.ctx != n
    hub0 := hub s.hub0
    hub1 := hub s.hub1
    interests := s.interests.filter fun e => e.ctx != n
    recs := s.recs.filter fun r => r.ctx != n
    tiles := s.tiles.filter fun e => e.2.ctx != n
    tdir := s.tdir.filter fun e => e.2.ctx != n
    collIn := s.collIn.filter fun p => p.ctx != n
    slotFrees := s.slotFrees.filter fun x => x.1 != n
    closed := s.closed.filter fun e => e.2.1 != n
    groups := s.groups.map fun e => (e.1, if e.2.ctx = n then { e.2 with killed := true } else e.2)
    msgQ := s.msgQ.filter fun m => m.2.ctx != n
    outMsgs := s.outMsgs.filter fun m => m.ctx != n
    launches := s.launches.filter fun e => e.2.ctx != n || e.2.kind == .handler
    raster := s.raster.without n
    ctxs := Tab.del s.ctxs n }

/-- R452, UNBIND. -/
def execCtxUnbind (s : State) : Out :=
  let n := ctxNo s
  match Tab.find s.ctxs n with
  | none => ctxEnd s 3
  | some c => if ctxHeld s n then ctxEnd s 3 else ctxEnd (dropCtx s n c) 0

/-! ### Kills and resumption -/

/-- R446, R452, KILL: BUSY stands until KILLDONE. -/
def execCtxKill (s : State) : Out :=
  let n := ctxNo s
  if (Tab.find s.ctxs n).isNone then ctxEnd s 3
  else .next (later (killCtx { s with killing := s.killing ++ [(n, none)] } n) .killComplete)

/-- The launches that DATA0 names; a draw that device code made is named within context CTX (R350). -/
def namedLaunches (s : State) : List (Nat × Launch) :=
  let d := s.hb.ctxData0.toNat
  s.launches.filter fun e => e.2.lid == d && e.2.kind != .handler && !e.2.killed && (d / 2 ^ 48 != 0xFFFF || e.2.ctx == ctxNo s)

/-- R452, KILLLAUNCH. -/
def execCtxKillLaunch (s : State) : Out :=
  match namedLaunches s with
  | [] => ctxEnd s 4
  | (k, l) :: rest =>
    let s := ((k, l) :: rest).foldl (fun s e => killLaunch s e.1) { s with killing := s.killing ++ [(l.ctx, some l.lid)] }
    ctxEnd (later s .killComplete) 0

/-- Whether a group is the one that a RESUME names; one that a kill names is no longer there (R452). -/
def resumeNamed (s : State) (g : Group) : Bool :=
  let d := s.hb.ctxData1.toNat
  g.park == .standing && !g.killed && g.gid == bits d 53 48 && (match Tab.find s.launches g.launch, Tab.find s.teams g.team with
    | some l, some t => l.lid == s.hb.ctxData0.toNat && t.tid == bits d 47 0
    | _, _ => false)

/-- R430, R452, RESUME: the group goes on at its splits' PCs; its watchdog counts anew (R439). -/
def execCtxResume (s : State) : Out :=
  if (s.groups ++ s.saved).any fun e => resumeNamed s e.2 then
    let go := fun (e : Nat × Group) => (e.1, if resumeNamed s e.2 then { e.2 with park := .none, lastIssue := s.time } else e.2)
    ctxEnd { s with groups := s.groups.map go, saved := s.saved.map go } 0
  else ctxEnd s 4

/-! ### Switching (R445) -/

/-- A context's teams are pre-empted, its harvest teams parked, its queues leave the active set. -/
def leaveCtx (s : State) (n : Nat) : State :=
  let s : State := setCtx s n fun c => { c with leaving := true }
  let s := (s.queues.filter fun e => e.2.ctx == n).foldl (fun s e => putBack (setQ s e.1 fun x => { x with active := false }) e.1) s
  (s.teams.filter fun e => e.2.resident && (match Tab.find s.launches e.2.launch with
    | some l => l.ctx == n
    | none => false)).foldl (fun s e => if e.2.harvest then (if e.2.stopped then s else parkTeam s e.1)
      else if e.2.draining.isSome then s else preemptTeam s e.1 true) s

/-- Whether nothing of a context is left on the cores: its teams saved or parked, its messages dispatched, its handler
groups ended. -/
def ctxLeft (s : State) (n : Nat) : Bool :=
  !(s.groups.any fun e => e.2.ctx == n && !e.2.harvest) && !(s.msgQ.any fun m => m.2.ctx == n)

/-- R445, SWITCHOUT: begun once, and looked at again until it is complete. -/
def execCtxSwitchOut (s : State) : Out :=
  let n := ctxNo s
  if !ctxBusy s ∨ ctxOp s ≠ 6 then .next s
  else match Tab.find s.ctxs n with
    | none => ctxEnd s 3
    | some _ =>
      let s := leaveCtx s n
      if ctxLeft s n then ctxEnd (setCtx s n fun c => { c with inNow := false, leaving := false }) 0 else .next s

/-- R445, R452, SWITCHIN. -/
def execCtxSwitchIn (s : State) : Out :=
  let n := ctxNo s
  if (Tab.find s.ctxs n).isNone then ctxEnd s 3
  else ctxEnd (laterAll (setCtx s n fun c => { c with inNow := true }) [.teamPlacement 88, .commandStart]) 0

/-- R440, R452, PREEMPT. -/
def execCtxPreempt (s : State) : Out :=
  let named := s.teams.filter fun e => e.2.tid == bits s.hb.ctxData1.toNat 47 0 && (match Tab.find s.launches e.2.launch with
    | some l => l.lid == s.hb.ctxData0.toNat
    | none => false)
  match named with
  | [] => ctxEnd s 4
  | (tk, _) :: _ => ctxEnd (preemptTeam s tk true) 0

end Sys2Proof.Machine
end

