-- ==== Sys2Proof/Machine/HingeOps.lean ====
section
/-! DEFINITION. The hinge table's commands (R85 to R90), write-backs of slices (R89) and the migration engine (R91, R92). -/
namespace Sys2Proof.Machine

/-! ### Waits on a frame (R93 to R95) -/

/-- A check that waited for a frame of the pool is made again; `p` picks by device logical address. -/
def retryTouches (s : State) (st : Nat) (p : Nat → Bool) : State :=
  let mine := (hubOf s st).touches.filter fun t => p t.la
  laterAll s (mine.map fun t => .translationMiss t.eng t.ctx t.key t.va t.need)

/-- Write-backs that are held or that wait on a lock are tried again. -/
def retryWritebacks (s : State) (p : Nat → Bool) : State :=
  laterAll s ((s.slices.filter fun e => p (128 * e.1) && e.2.dirty != 0 && (s.heldWb.contains e.1 || hState (hingeOf s (e.1 / 512)) == 2)).map fun e => .sliceWriteBack e.1)

/-- The command that a hub's XL_HINGE_CMD holds (R87). -/
def hingeOp (s : State) (st : Nat) : Nat := bits (hubOf s st).cmd.toNat 55 52
def hingeFrame (s : State) (st : Nat) : Nat := bits (hubOf s st).cmd.toNat 26 0
def hingeBusy (s : State) (st : Nat) : Bool := bit (hubOf s st).cmd.toNat 63

/-- A RELEASE or a SETAFF that waits is tried again. -/
def retryHinge (s : State) (st : Nat) : State :=
  if hingeBusy s st && !(hubOf s st).ended then
    match hingeOp s st with
    | 2 => later s (.hingeRelease st)
    | 5 => later s (.hingeSetaff st)
    | _ => s
  else s

/-- Words whose checks met a locked frame are issued again (R92, R424). -/
def retryChecks (s : State) : State := laterAll s ((s.groups.filter fun e => e.2.susp.isSome).map fun e => .mayFaultChecksResolved e.1)

/-- After a frame has been backed, unlocked or taken into a pool. -/
def frameFreed (s : State) (f : Nat) : State :=
  let s := retryChecks s
  let here := fun la => la / 65536 == f
  retryHinge (retryHinge (retryWritebacks (retryTouches s (f % 2) here) here) 0) 1
def poolFilled (s : State) (st : Nat) : State :=
  let here := fun la => la / 65536 % 2 == st
  retryHinge (retryHinge (retryWritebacks (retryTouches s st here) here) 0) 1

/-! ### Write-backs (R89) -/

/-- A slice drops a line, with the check values that stand with it. -/
def dropSline (s : State) (line : Nat) : State :=
  let s := dropLines s (· == line)
  { s with heldWb := s.heldWb.filter (· != line) }

/-- SOURCE of the fabric station of a line's home slice. -/
def sliceSourceOf (s : State) (la : Nat) : Nat :=
  let n := homeSlice s la
  0x0800 + 64 * (n / 64) + 16 * (n / 16 % 4) + [2, 3, 8, 9].getD (n % 16 / 4) 2

/-- A dirty line's write-back: to its frame; discarded with a placement record; a first touch; or held, with one record.
A locked frame makes it wait (R92). It is counted once, when it reaches the hub (R91). A clean line only leaves. -/
def writeBackLine (s : State) (line : Nat) : State :=
  match Tab.find s.slices line with
  | none => s
  | some l =>
    let la := 128 * line
    let s := if l.dirty = 0 ∨ s.heldWb.contains line ∨ hState (hingeOf s (la / 65536)) = 2 then s else touchCount s (la / 65536)
    let h := hingeOf s (la / 65536)
    let r : Rec := { cls := 2, kind := 0, detail := 1, ctx := l.ctx, source := sliceSourceOf s la, time := s.time, addr := la, pc := 0, who := 0 }
    if l.dirty = 0 then dropSline s line
    else if hState h = 2 then s
    else if hState h ≠ 0 then dropSline (flushBytes s line l) line
    else if windowOf la ≠ 4 then postRecs (dropSline s line) l.ctx [r]
    else match firstTouch s l.ctx la with
      | some s => dropSline (flushBytes s line l) line
      | none =>
        if s.heldWb.contains line then s
        else signal (postRecs { s with heldWb := s.heldWb ++ [line] } l.ctx [{ r with cls := 5, kind := 6 }]) (2 + la / 65536 % 2)

/-- R89, SLICE_WRITE_BACK. -/
def execSliceWriteBack (line : Nat) (s : State) : Out := .next (writeBackLine s line)

/-! ### Frames (R86) -/

/-- A physical frame that exists and is not reserved. -/
def frameExists (s : State) (tier pfn : Nat) : Bool :=
  if tier = 0 then decide (pfn < 6291456) && !(decide (3137408 ≤ pfn) && decide (pfn ≤ 3145727)) && !decide (6283136 ≤ pfn)
  else
    let x := (Tab.fetch 0 s.hb.cxl (pfn / 8388608)).toNat
    bit x 63 && decide (pfn % 8388608 < bits x 31 0)

def frameUsed (s : State) (tier pfn : Nat) : Bool := s.inUse.contains (useMark pfn tier)
def markUse (s : State) (tier pfn : Nat) : State := { s with inUse := useMark pfn tier :: s.inUse }
def freeUse (s : State) (tier pfn : Nat) : State := { s with inUse := s.inUse.filter (· != useMark pfn tier) }

/-- Room that moves in progress hold for the frame they vacate (R92): of the pool (tier 0) or the far list (tier 1). -/
def moveRoom (s : State) (st tier : Nat) : Nat := ((hubOf s st).moves.filter fun m => hTier (hingeOf s m.1) == tier).length

/-! ### Commands (R87, R88) -/

/-- A command has made its effect with a status; HINGE_CMD_COMPLETE follows. -/
def hingeEnd (s : State) (st status : Nat) : State :=
  let h := hubOf s st
  later (setHub s st { h with cmd := (h.cmd &&& ~~~(0xF#64 <<< 59)) ||| BitVec.ofNat 64 (status * 2 ^ 59), ended := true }) (.hingeCmdComplete st)

/-- BADOP of R88: a frame of the other hub, or a reserved bit, of the register and of the operand's `mask`. -/
def hingeBad (s : State) (st : Nat) (mask : BitVec 64) : Bool :=
  let h := hubOf s st
  hingeFrame s st % 2 != st || bits h.cmd.toNat 58 56 != 0 || bits h.cmd.toNat 51 27 != 0 || h.data &&& ~~~mask != 0

/-- Whether a command of an OP is running and has still to be made. -/
def hingeOpen (s : State) (st op : Nat) : Bool := decide (st < 2) && hingeBusy s st && hingeOp s st == op && !(hubOf s st).ended

/-- One command of a hub. -/
def hingeCmd (s : State) (st op : Nat) (mask : BitVec 64) (body : State → Nat → BitVec 64 → State) : Out :=
  if !hingeOpen s st op then .next s
  else if hingeBad s st mask then .next (hingeEnd s st 1)
  else .next (body s (hingeFrame s st) (hubOf s st).data)

def setHingeData (s : State) (st : Nat) (v : BitVec 64) : State := setHub s st { hubOf s st with data := v }

/-- R88, INSTALL. -/
def execHingeInstall (st : Nat) (s : State) : Out :=
  hingeCmd s st 1 0x2FFF_0000_07FF_FFFF fun s f d =>
    let w := windowOf (f * 65536)
    let tier := hTier d
    if hState (hingeOf s f) ≠ 0 then hingeEnd s st 2
    else if 5 ≤ w ∨ ((w = 0 ∨ w = 3) ∧ tier = 1) ∨ ((w = 1 ∨ w = 2) ∧ tier = 0) then hingeEnd s st 3
    else if !frameExists s tier (hPfn d) then hingeEnd s st 4
    else if frameUsed s tier (hPfn d) then hingeEnd s st 7
    else
      let s := markUse { s with hinge := Tab.put s.hinge f (hMake 1 tier (windowMig w) (hCtx d) (hPfn d)) } tier (hPfn d)
      frameFreed (hingeEnd s st 0) f

/-- The lines of a frame leave every slice without write-back, its cells are discarded (R231). -/
def dropFrame (s : State) (f : Nat) : State :=
  let s := dropLines s (· / 512 == f)
  { s with
    heldWb := s.heldWb.filter fun l => l / 512 != f
    cells := s.cells.filter fun c => c.host || c.addr / 65536 != f }

/-- R88, RELEASE: it waits out a lock. -/
def execHingeRelease (st : Nat) (s : State) : Out :=
  hingeCmd s st 2 (BitVec.allOnes 64) fun s f _ =>
    let h := hingeOf s f
    if hState h = 0 then hingeEnd s st 6
    else if hState h = 2 then s
    else
      let s := dropFrame (dropFrameEntries s (f * 65536) 65536) f
      hingeEnd (setHingeData (freeUse { s with hinge := Tab.store 0 s.hinge f (h &&& 0x3FFF_FFFF_FFFF_FFFF) } (hTier h) (hPfn h)) st h) st 0

/-- R88, READ. -/
def execHingeRead (st : Nat) (s : State) : Out :=
  hingeCmd s st 3 (BitVec.allOnes 64) fun s f _ => hingeEnd (setHingeData s st (hingeOf s f)) st 0

/-- R88, DONATE: a near frame is zeroed first. -/
def execHingeDonate (st : Nat) (s : State) : Out :=
  hingeCmd s st 4 0x2000_0000_07FF_FFFF fun s _ d =>
    let tier := hTier d
    let h := hubOf s st
    if !frameExists s tier (hPfn d) then hingeEnd s st 4
    else if frameUsed s tier (hPfn d) then hingeEnd s st 7
    else if 4096 ≤ (if tier = 0 then h.pool.length + h.zeroing.length else h.farFree.length) + moveRoom s st tier then hingeEnd s st 5
    else
      let s := markUse s tier (hPfn d)
      if tier = 0 then hingeEnd (later (setHub s st { h with zeroing := h.zeroing ++ [hPfn d] }) (.backgroundZeroingComplete st)) st 0
      else hingeEnd (setHub s st { h with farFree := h.farFree ++ [hPfn d] }) st 0

/-- Every slice writes back and drops the lines of a granule; cells go into their lines first (R90, R230). -/
def flushGranule (s : State) (g : Nat) : State :=
  let s := (s.cells.filter fun c => !c.host && c.addr / 2 ^ 21 == g).foldl retireCell s
  (s.slices.filter fun e => e.1 / 16384 == g).foldl (fun s e => writeBackLine s e.1) s

/-- R90, SETAFF: it waits until every line of the granule has left the slices. -/
def execHingeSetaff (st : Nat) (s : State) : Out :=
  hingeCmd s st 5 0xF fun s f d =>
    let v := d.setWidth 4
    if 9 ≤ v.toNat then hingeEnd s st 3
    else
      let g := f / 32
      let s := flushGranule s g
      if s.slices.any fun e => e.1 / 16384 == g then s
      else hingeEnd { dropFrameEntries s (g * 2 ^ 21) (2 ^ 21) with affinity := Tab.store 8 s.affinity g v } st 0

/-- R88, GETAFF. -/
def execHingeGetaff (st : Nat) (s : State) : Out :=
  hingeCmd s st 6 (BitVec.allOnes 64) fun s f _ => hingeEnd (setHingeData s st ((affinityOf s (f * 65536)).setWidth 64)) st 0

/-- R87, HINGE_CMD_COMPLETE: BUSY clears, OP and FRAME stay. -/
def execHingeCmdComplete (st : Nat) (s : State) : Out :=
  if !hingeBusy s st ∨ !(hubOf s st).ended ∨ 2 ≤ st then .next s
  else
    let h := hubOf s st
    .next (setHub s st { h with cmd := h.cmd &&& 0x78F0_0000_07FF_FFFF, ended := false })

/-! ### Background zeroing (R95) -/

/-- R95: a donated or vacated near frame enters the first-touch pool. -/
def execBackgroundZeroingComplete (st : Nat) (s : State) : Out :=
  if 2 ≤ st then .next s
  else
    let h := hubOf s st
    match h.zeroing with
    | [] => .next s
    | p :: ps => .next (poolFilled (zeroNear (setHub s st { h with zeroing := ps, pool := h.pool ++ [p] }) p) st)

/-! ### Migration (R91, R92) -/

def tierHot (h : Hub) : Nat := bits h.tier.toNat 31 24
def tierCold (h : Hub) : Nat := bits h.tier.toNat 23 16

/-- Step 1 of a move: the frame is locked, the new frame taken. -/
def beginMove (s : State) (st f pfn : Nat) : State :=
  let e := hingeOf s f
  let h := hubOf s st
  let s := setHub s st { h with moves := h.moves ++ [(f, pfn, s.time)] }
  later { s with hinge := Tab.put s.hinge f (hMake 2 (hTier e) (hMig e) (hCtx e) (hPfn e)) } (.migrationCopyComplete st f)

/-- Promotion and demotion of one cached entry: the frame taken is the one that has been in the pool or on the far list
longest (DESIGN CHOICE, log 104). -/
def epochFrame (st : Nat) (s : State) (c : Nat × Nat) : State :=
  let e := hingeOf s c.1
  let h := hubOf s st
  if !hMig e ∨ hState e ≠ 1 then s
  else if hTier e = 1 then
    match h.pool with
    | p :: ps =>
      if tierHot h ≤ c.2 ∧ 512 < h.pool.length ∧ h.farFree.length + moveRoom s st 1 < 4096 then
        beginMove (poolFell (setHub s st { h with pool := ps }) st) st c.1 p
      else s
    | [] => s
  else
    match h.farFree with
    | p :: ps =>
      if c.2 ≤ tierCold h ∧ h.pool.length < loww h ∧ h.pool.length + h.zeroing.length + moveRoom s st 0 < 4096 then
        beginMove (setHub s st { h with farFree := ps }) st c.1 p
      else s
    | [] => s

/-- R91, MIGRATION_EPOCH_END: the cached entries in rising order of frame, which matters when frames run short (DESIGN
CHOICE, log 104). -/
def execMigrationEpochEnd (st : Nat) (s : State) : Out :=
  if 2 ≤ st then .next s
  else
    let cached := (hubOf s st).counts
    let s := if bit (hubOf s st).tier.toNat 1 then cached.foldl (epochFrame st) s else s
    .next (setHub s st { hubOf s st with counts := (hubOf s st).counts.map fun c => (c.1, c.2 / 2) })

def moveOf (s : State) (st f : Nat) : Option (Nat × Nat × Nat) := (hubOf s st).moves.find? fun m => m.1 == f
def dropMove (s : State) (st f : Nat) : State := setHub s st { hubOf s st with moves := (hubOf s st).moves.filter fun m => m.1 != f }

/-- Bytes of a physical frame put in another's place. -/
def copyFrame (src dst : List Host.Cell) (old new : Nat) : List Host.Cell :=
  (src.filter fun c => c.1 / 65536 == old).foldl (fun m c => Memory.write m (new * 65536 + c.1 % 65536) c.2)
    (dst.filter fun c => c.1 / 65536 != new)

/-- A frame taken for a move goes back to where it came from: still zeroed, or on the far list. -/
def returnFrame (s : State) (st tier pfn : Nat) : State :=
  let h := hubOf s st
  if tier = 0 then poolFilled (setHub s st { h with pool := pfn :: h.pool }) st else setHub s st { h with farFree := pfn :: h.farFree }

/-- The move is given up: the entry as before, the waiting accesses go on (R92). -/
def abortMove (s : State) (st f pfn : Nat) : State :=
  let e := hingeOf s f
  let s : State := { dropMove s st f with hinge := Tab.put s.hinge f (hMake 1 (hTier e) (hMig e) (hCtx e) (hPfn e)) }
  frameFreed (returnFrame s st (1 - hTier e) pfn) f

/-- Steps 3 and 4 of a move. -/
def finishMove (s : State) (st f pfn : Nat) : State :=
  let e := hingeOf s f
  let old := hPfn e
  let s := cleanFrame s (1 - hTier e) pfn
  let s : State := if hTier e = 1 then { s with near := copyFrame s.far s.near old pfn } else { s with far := copyFrame s.near s.far old pfn }
  let s : State := { dropMove s st f with hinge := Tab.put s.hinge f (hMake 1 (1 - hTier e) (hMig e) (hCtx e) pfn) }
  let h := hubOf s st
  let s := if hTier e = 0 then later (setHub s st { h with zeroing := h.zeroing ++ [old] }) (.backgroundZeroingComplete st)
    else setHub s st { h with farFree := h.farFree ++ [old] }
  frameFreed s f

/-- Whether the frame that a move copies stands behind a dead HBM or I/O station, or the one it copies to does (R10). -/
def moveSourceDead (s : State) (f : Nat) : Bool := deadStation s (frameStation (hTier (hingeOf s f)) (hPfn (hingeOf s f)))
def moveTargetDead (s : State) (f pfn : Nat) : Bool := deadStation s (frameStation (1 - hTier (hingeOf s f)) pfn)

/-- R92, MIGRATION_COPY_COMPLETE: a sector that fails its check value, or cannot be read, aborts the move (R99, R100), and
so do a frame behind a dead station, which cannot be read or written at all (R116, R118), and a copy that completes more
than 40 µs after the lock. -/
def execMigrationCopyComplete (st f : Nat) (s : State) : Out :=
  match moveOf s st f with
  | none => .next s
  | some (_, pfn, b) =>
    if 2 ≤ st then .next s
    else if b + 40000 < s.time ∨ moveTargetDead s f pfn then .next (abortMove s st f pfn)
    else if moveSourceDead s f then .next (abortMove (sectorRec s 0 0x0E ⟨.log, 65536 * f⟩) st f pfn)
    else
      let e := hingeOf s f
      let bad := (s.badCheck ++ s.poison).filter fun x => x.sp == .frame (hTier e) && x.addr / 65536 == hPfn e
      if bad.isEmpty then .next (finishMove s st f pfn)
      else .next (abortMove (bad.foldl (fun s x =>
        sectorRec s 0 (if s.badCheck.contains x then 0x0D else 0x0E) ⟨.log, 65536 * f + x.addr % 65536⟩) s) st f pfn)

/-- R92, MIGRATION_LOCK_TIMEOUT: 40 µs after the lock. -/
def execMigrationLockTimeout (st f t : Nat) (s : State) : Out :=
  let s := atTime s t
  match moveOf s st f with
  | some (_, pfn, b) => .next (if b + 40000 ≤ s.time ∧ st < 2 then abortMove s st f pfn else s)
  | none => .next s

end Sys2Proof.Machine
end

