-- ==== Sys2Proof/Machine/SliceOps.lean ====
section
/-! DEFINITION. Requests at the home slices (R110, R115, R229), their loss (R118), line fills (R85, R204) and the release of
a returned value (R115). -/
namespace Sys2Proof.Machine

def reqEvent (r : SReq) : Instr :=
  match r.kind with
  | .ord .. => .orderedAddContribution r.id
  | .queue _ => .sliceQueueOperation r.id
  | .atom _ => .sliceRequest r.id

/-! ### Loss (R118) -/

def loseFor (r : SReq) (g : Group) : Group := losePend (r.ret.map (·.1)) g
def endLost (s : State) (r : SReq) : State :=
  let t : State :=
    { s with sreqs := s.sreqs.filter fun x => x.id != r.id
             groups := Tab.modify s.groups r.key (loseFor r)
             saved := Tab.modify s.saved r.key (loseFor r) }
  match Tab.find t.groups r.key with
  | some g => if g.kind = .handler then leaveGroup t r.key else t
  | none => t

/-- Requests are lost, with one record for each source and context. -/
def loseReqs (s : State) (time : Nat) (rs : List SReq) : State :=
  let ends := rs.foldl endLost s
  let ks := (rs.map fun r => (r.src, r.ctx, sliceStation (r.slice s))).eraseDups
  ks.foldl (fun t k =>
    let mine := rs.filter fun r => (r.src, r.ctx, sliceStation (r.slice s)) == k
    postRecs t k.2.1 [lossRec k.2.1 k.1 (match mine.head? with
      | some r => r.seq
      | none => 0) (match mine.getLast? with
      | some r => r.seq
      | none => 0) k.2.2 time]) ends

/-! ### Delivery (R108, R110, R115) -/

/-- The slot that a station had marked is taken (R102). -/
def takeSlot (s : State) (station : Nat) : State :=
  { s with stations := Tab.modify s.stations station fun x => { x with waited := 0, mark := none } }

/-- A request holds an entry of its slice. -/
def takeEntry (s : State) (r : SReq) : State :=
  let s := fqTake s (1000 + r.slice s) 64 (sliceHeld s (r.slice s))
  dropFrames { s with sreqs := s.sreqs.map fun x => if x.id == r.id then { x with here := true } else x } r.id

/-- Requests whose frames have come to a slice station enter their slices in the order they were sent; one that its slice
refuses holds back those behind it (R108, R110). -/
def enterReqs : List Nat → State → State
  | [], s => s
  | id :: ids, s => match s.sreqs.find? fun r => r.id == id with
    | none => enterReqs ids s
    | some r =>
      if !arrived s id ∨ sliceFull s (r.slice s) then s
      else enterReqs ids (if r.place.isSome then takeEntry s r else arriveQueue s r)

/-- A slice serves its requests of one source in order; one without room for its value or its mark waits (R115). -/
def serveReqs (slice : Nat) : List SReq → State → State
  | [], s => s
  | r :: rs, s =>
    if !windowRoom s r slice then s
    else match markRoom s slice r.dev r.src with
      | some t =>
        let t := applyOne t r
        serveReqs slice rs (fqLeave t (1000 + slice) (sliceHeld t slice))
      | none => s

/-- The requests that a slice holds of a request's source. -/
def entriesOf (s : State) (x : SReq) : List SReq :=
  s.sreqs.filter fun r => r.here && r.place.isSome && r.src == x.src && r.dev == x.dev && r.slice s == x.slice s

/-- A request that its slice refused is tried again once the slice has an entry. -/
def wakeRefused (s : State) (slice : Nat) : State :=
  match s.frames.find? fun f => f.cls == .request && f.dst == sliceStation slice && atEnd s f with
  | some f => (match s.sreqs.find? fun r => r.id == f.id with
    | some r => later s (reqEvent r)
    | none => s)
  | none => s

/-- A request goes on: its frame to the slice station behind the earlier ones of its source and destination, then its slice's
entries, which are served. No station injects while routes change (R116); a source whose station is dead loses its requests,
and a line that is cut off is an uncorrectable-memory event (R118). -/
def deliverReq (s : State) (id : Nat) : State :=
  match s.sreqs.find? fun r => r.id == id with
  | none => s
  | some x =>
    if s.reroute.isSome then s
    else if deadStation s (x.src / 512) then loseReqs s s.time [x]
    else if deadStation s (x.station s) then applyReq s x
    else
      let t := bringFrame s id
      let t := if unsent s id ∧ !unsent t id then takeSlot t (x.src / 512) else t
      let ids := match t.frames.find? fun f => f.id == id with
        | some f => ((t.frames.filter (sameTriple f)).map (·.id)).eraseDups
        | none => []
      let t := enterReqs ids t
      wakeRefused (serveReqs (x.slice t) (entriesOf t x) t) (x.slice t)

/-- R110, SLICE_REQUEST. -/
def execSliceRequest (id : Nat) (s : State) : Out := .next (deliverReq s id)
/-- R229, ORDERED_ADD_CONTRIBUTION. -/
def execOrderedAddContribution (id : Nat) (s : State) : Out := .next (deliverReq s id)

/-- R115: the release of a returned value frees its entry; requests that waited for room are tried again. -/
def execAtomicResponseRelease (src seq : Nat) (s : State) : Out :=
  let s : State := { s with respWin := s.respWin.filter fun w => !(w.src == src && w.seq == seq && w.dev == s.hb.hbId.toNat % 65536) }
  .next (laterAll s ((s.sreqs.filter fun r => r.src == src).map reqEvent))

/-! ### Lines (R85, R204) -/

/-- R85, SLICE_LINE_FILL. -/
def execSliceLineFill (line : Nat) (s : State) : Out := .next (verifyPlaces (fillSlice s line) 0 (linePair line))

/-- R204, L1_LINE_FILL: a line that a prefetch asked for. -/
def execL1LineFill (core line ctx : Nat) (s : State) : Out := .next (if core < 88 then l1Fill s core ctx false line else s)

end Sys2Proof.Machine
end

