-- ==== Sys2Proof/Machine/Ats.lean ====
section
/-! DEFINITION. The translation hubs' steps (R81 to R83, R93 to R95): misses, ATS completions, page requests, first touches,
invalidations; and what an answer wakes. -/
namespace Sys2Proof.Machine

/-! ### What an answer wakes -/

/-- The handle of the weight slot whose image read has a key. -/
def loadingSlot (s : State) (cl key : Nat) : Option WSlot :=
  (mxOf s cl).slots.find? fun w => match w.load with
    | some l => l.op == key
    | none => false

/-- The work of an engine that a key names goes on (the engine codes of R80's table). -/
def wakeWork (s : State) (eng ctx key : Nat) : State :=
  if key = 0 then s
  else if eng < 88 then later s (.mayFaultChecksResolved key)
  else if eng < 200 then later s (.copyEngineComplete eng key)
  else if eng < 300 then later s (.traversalLaneEnd (eng - 200) key)
  else if eng < 400 then later s (.copyEngineComplete eng key)
  else if eng < 500 then later s (.drawComplete key)
  else if eng < 600 then (match loadingSlot s (eng - 500) key with
    | some w => later s (.mbldReadEnd (eng - 500) w.ctx w.handle)
    | none => s)
  else if eng < 700 then later s (match s.engCmds.find? fun m => m.id == key with
    | some m => engEvent m.eng m.id
    | none => .tileArrival key)
  else if 800 ≤ eng then later s (.nbxCommand (eng - 800))
  else if key = fqKey then (match Tab.find s.ctxs ctx with
    | some c => flushRecs (c.fqWait.length + 1) s ctx
    | none => s)
  else if key = peerReqKey then s
  else if key < 2 ^ 20 then wakeQueue s (key - 16)
  else match Tab.find s.teams (key - 2 ^ 20) with
    | some t => laterAll s [.teamSave t.launch (key - 2 ^ 20), .teamPlacement 88]
    | none => s

/-- A check that needs the host stops a group (R432, R434); other engines' work only waits. -/
def waitHost (s : State) (eng key : Nat) : State := if eng < 88 ∧ key ≠ 0 then hostWait s key else s

/-! ### First touch (R93 to R95) -/

/-- The segment that a word names, for DETAIL (R427). -/
def wordSeg : Instr → Nat
  | .ld _ x .. | .st _ x .. | .ldu _ _ x .. | .stu _ _ x .. | .ldt _ x .. | .stt _ x .. | .ldb _ x .. => x.toNat
  | .atom _ x .. | .fatom _ x .. => x.toNat
  | .waita _ _ _ _ _ g _ | .cpy _ _ _ _ g | .coll _ _ _ _ g | .nbx _ _ _ _ g | .amsend _ _ _ _ g => g.toNat
  | _ => 0

/-- DETAIL of a group's check that a word, or its fetch, makes: 3 for a word that is not yet in the instruction cache. -/
def missDetail (s : State) (g : Group) (pc need : Nat) : Nat :=
  match Tab.find s.icache (2 ^ 40 * g.launch + 2 ^ 32 * g.core + pc) with
  | none => 3
  | some w => memDetail (need - 1) (match decode w with
    | .ok i => wordSeg i
    | .error _ => 0)

/-- SOURCE of an engine's check (R427). -/
def checkSource (s : State) (eng : Nat) : Nat :=
  if eng < 88 then eng
  else if eng < 200 then 0x0100 + (eng - 100)
  else if eng < 300 then 0x0200 + (eng - 200)
  else if eng < 400 then 0x0120 + (eng - 300)
  else if eng < 500 then 0x0800 + 64 * (eng - 400) + 10
  else if eng < 600 then 0x0200 + (eng - 500)
  else if eng < 700 then 0x0800 + clusterStation s (eng - 600)
  else if eng < 800 then 0x0400 else 0x0300 + (eng - 800)

/-- R95: the backing-exhausted record of a check, whose ADDR is the page. -/
def touchRec (s : State) (t : Touch) : Rec :=
  let blank : Rec := { cls := 5, kind := 0, detail := memDetail (t.need - 1) 0, ctx := t.ctx, source := checkSource s t.eng, time := s.time,
                       addr := t.va / 4096 * 4096, pc := 0, who := 0 }
  match (if t.eng < 88 then groupOf s t.key else none) with
  | none => blank
  | some g => match g.susp.bind fun i => Tab.find g.splits i with
    | some sp => groupRec s g ⟨5, missDetail s g sp.pc t.need, t.va / 4096 * 4096, (lanesOf g.width sp.mask).headD 0⟩ sp.pc false
    | none => blank

/-- R95: FTPOOL is 0. The record and the signal come once; the group waits as at a host-serviced fault. -/
def touchDry (s : State) (t : Touch) (again : Bool) : State :=
  let st := t.la / 65536 % 2
  let s1 := setHub s st { hubOf s st with touches := (hubOf s st).touches ++ [t] }
  if again then s1
  else
    let s2 := signal (postRecs s1 t.ctx [touchRec s t]) (2 + st)
    waitHost (if t.eng < 88 then updG s2 t.key fun g => { g with want := some (.frame t.la) } else s2) t.eng t.key

/-- Forget a check that waited for a frame; whether it did. -/
def dropTouch (s : State) (eng ctx key va : Nat) : State × Bool :=
  let is := fun (t : Touch) => t.eng == eng && t.ctx == ctx && t.key == key && t.va == va
  let seen := s.hub0.touches.any is || s.hub1.touches.any is
  ({ s with hub0 := { s.hub0 with touches := s.hub0.touches.filter fun t => !is t },
            hub1 := { s.hub1 with touches := s.hub1.touches.filter fun t => !is t } }, seen)

/-- The line that a prefetch asks for, once its translation has come (R217). -/
def prefetchLine (s : State) (eng ctx need la : Nat) : State :=
  if bit need 2 then later s (.l1LineFill eng (la / 128) ctx)
  else if bit need 3 then later s (.sliceLineFill (la / 128))
  else s

/-- R93: the backing part of a check whose translation is cached. A prefetch (key 0) touches no frame. -/
def touchFrame (s : State) (eng ctx key va need : Nat) : State :=
  let (s, again) := dropTouch s eng ctx key va
  match (tlookup s eng ctx va).bind fun e => devLogical s (e.t + (va - e.va)) with
  | none => wakeWork s eng ctx key
  | some la =>
    if hState (hingeOf s (la / 65536)) ≠ 0 then
      wakeWork (if key = 0 then prefetchLine (setBacked s eng ctx la) eng ctx need la else setBacked s eng ctx la) eng ctx key
    else if windowOf la ≠ 4 then wakeWork s eng ctx key
    else if key = 0 then s
    else match firstTouch s ctx la with
      | some s => wakeWork (setBacked (frameFreed s (la / 65536)) eng ctx la) eng ctx key
      | none => touchDry s { eng, ctx, key, va, la, need } again

/-! ### Requests to the host (R81, R82) -/

/-- Outstanding requests of one kind, and its limit. -/
def hubCount (h : Hub) (page : Bool) : Nat := (h.reqs.filter fun x => x.page == page).length
def hubLimit (page : Bool) : Nat := if page then 1024 else 4096

/-- A request goes out, or waits in arrival order. -/
def hubSend (s : State) (st : Nat) (x : XReq) : State :=
  let h := hubOf s st
  if hubCount h x.page < hubLimit x.page ∧ !(h.waiting.any fun y => y.page == x.page) then setHub s st { h with reqs := h.reqs ++ [x] }
  else setHub s st { h with waiting := h.waiting ++ [x] }

/-- Whether a request asks for all the permissions of a need. -/
def asks (have' need : Nat) : Bool := (!bit need 0 || bit have' 0) && (!bit need 1 || bit have' 1)

/-- Whether one request is answered by what another asks for: misses by an ATS request for at least their permissions
(R81), page requests by an identical one (R82). -/
def XReq.serves (y x : XReq) : Bool :=
  y.page == x.page && y.pasid == x.pasid && y.va == x.va && (if x.page then y.need == x.need else asks y.need x.need)

/-- A list of requests in which the first that serves a further one takes its requesters; none, if none serves it. -/
def mergeReq (x : XReq) : List XReq → Option (List XReq)
  | [] => none
  | y :: ys => if y.serves x then some ({ y with who := y.who ++ x.who.filter fun w => !y.who.contains w } :: ys)
    else (mergeReq x ys).map (y :: ·)

/-- Waiting requests go out as room comes, or join one that is out. -/
def hubDrain (s : State) (st : Nat) : State :=
  let h := hubOf s st
  let h' := h.waiting.foldl (fun (a : Hub) x => match mergeReq x a.reqs with
    | some rs => { a with reqs := rs }
    | none => if hubCount a x.page < hubLimit x.page then { a with reqs := a.reqs ++ [x] } else { a with waiting := a.waiting ++ [x] })
    { h with waiting := [] }
  setHub s st h'

/-- A request joins one that is out, or one that waits, and else goes out or waits itself. -/
def hubJoin (s : State) (st : Nat) (x : XReq) : State :=
  let h := hubOf s st
  match mergeReq x h.reqs with
  | some rs => setHub s st { h with reqs := rs }
  | none => match mergeReq x h.waiting with
    | some ws => setHub s st { h with waiting := ws }
    | none => hubSend s st x

/-- A hub miss (R81): merged with an outstanding request, or a new one. -/
def hubAsk (s : State) (st pasid eng ctx key va need : Nat) : State :=
  hubJoin s st { pasid, va := va / 4096 * 4096, need := need % 4, page := false, who := [⟨eng, ctx, key, va, need, false⟩] }

def hubEntry (h : Hub) (pasid va : Nat) : Option HubEntry := h.entries.find? fun e => e.pasid == pasid && e.covers va

/-- Whether the requester of a check is still there. -/
def requesterLives (s : State) (eng key : Nat) : Bool := decide (88 ≤ eng) || key == 0 || (groupOf s key).isSome

/-- R81, TRANSLATION_MISS. -/
def execTranslationMiss (eng ctx key va need : Nat) (s : State) : Out :=
  match Tab.find s.ctxs ctx with
  | none => .next s
  | some c =>
    if !requesterLives s eng key ∨ 802 ≤ eng ∨ (engStack s eng) ≥ 2 then .next (dropTouch s eng ctx key va).1
    else
      let have' := match tlookup s eng ctx va with
        | some e => permits e.r e.w need
        | none => false
      if have' then .next (touchFrame s eng ctx key va need)
      else
        let st := engStack s eng
        match hubEntry (hubOf s st) c.pasid va with
        | some x =>
          if permits x.r x.w need then .next (touchFrame (tinsert s (enginePiece s eng ctx x va)) eng ctx key va need)
          else .next (hubAsk s st c.pasid eng ctx key va need)
        | none => .next (hubAsk s st c.pasid eng ctx key va need)

/-- A check that can no longer pass: its requester meets the fault (R82). A prefetch is dropped (R217). -/
def failWho (s : State) (va cls : Nat) (w : XWho) : State :=
  if w.key = 0 then s
  else wakeWork { s with xfaults := { eng := w.eng, ctx := w.ctx, key := w.key, va := va / 4096, cls } :: s.xfaults } w.eng w.ctx w.key

/-- R82: one page request for what is missing; no prefetch makes one. Identical ones merge. -/
def askPage (s : State) (st : Nat) (x : XReq) (w : XWho) : State :=
  if w.key = 0 then s
  else waitHost (hubJoin s st { x with page := true, need := w.need % 4, who := [w] }) w.eng w.key

/-- One requester of a request that the host has answered with a translation that lets `r` and `w`, or with none: it goes on
through its own cache (R81), meets its fault, or has a page request made (R82), each by its own need. -/
def answerWho (st : Nat) (x : XReq) (e : Option HubEntry) (s : State) (w : XWho) : State :=
  match e with
  | some e =>
    if permits e.r e.w w.need then touchFrame (tinsert s (enginePiece s w.eng w.ctx e w.va)) w.eng w.ctx w.key w.va w.need
    else if w.asked then failWho s x.va 3 w else askPage s st x w
  | none => if w.asked then failWho s x.va 1 w else askPage s st x w

/-- Page sizes that are accepted (R81). -/
def pageSizeOk (n : Nat) : Bool := n == 2 ^ 12 || n == 2 ^ 21 || n == 2 ^ 30

/-- R81, R82, ATS_COMPLETION: the host's answer for one page, which answers every merged requester. A translation with
neither permission counts as no valid translation (DESIGN CHOICE, log 107: R82 has both a missing translation and a missing
permission end in a page request, and then in faults of different classes). -/
def execAtsCompletion (st pasid va : Nat) (ok : Bool) (t size : Nat) (r w : Bool) (s : State) : Out :=
  if 2 ≤ st then .next s
  else match (hubOf s st).reqs.find? fun x => !x.page && x.pasid == pasid && x.va == va / 4096 * 4096 with
    | none => .next s
    | some x =>
      let h := hubOf s st
      let s := setHub s st { h with reqs := h.reqs.erase x }
      if ok ∧ pageSizeOk size ∧ (r ∨ w) then
        let e : HubEntry := { pasid, va := va / size * size, size, t := t / size * size, r, w }
        let h := hubOf s st
        let s := setHub s st { h with entries := (e :: h.entries.filter fun y => !(y.pasid == pasid && y.va == e.va && y.size == size)).take 65536 }
        .next (hubDrain (x.who.foldl (answerWho st x (some e)) s) st)
      else .next (hubDrain (x.who.foldl (answerWho st x none) s) st)

/-- R82, PAGE_REQUEST_RESPONSE: the ATS request is repeated once, or the translation fault is raised. -/
def execPageRequestResponse (st pasid va : Nat) (ok : Bool) (s : State) : Out :=
  if 2 ≤ st then .next s
  else match (hubOf s st).reqs.find? fun x => x.page && x.pasid == pasid && x.va == va / 4096 * 4096 with
    | none => .next s
    | some x =>
      let h := hubOf s st
      let s := setHub s st { h with reqs := h.reqs.erase x }
      .next (hubDrain (if ok then hubJoin s st { x with page := false, who := x.who.map fun w => { w with asked := true } }
        else x.who.foldl (fun s w => failWho s x.va 1 w) s) st)

/-! ### Invalidation (R83) -/

/-- Whether a context has a PASID. -/
def hasPasid (s : State) (pasid cid : Nat) : Bool :=
  match Tab.find s.ctxs cid with
  | some c => c.pasid == pasid
  | none => false

/-- Whether an access of the PASID that has passed its check has still to act at its destination: a request on its way, or
a store that a region buffers. -/
def accessesLeft (s : State) (pasid : Nat) : Bool :=
  (s.sreqs.any fun r => hasPasid s pasid r.ctx) || (s.groups.any fun e => hasPasid s pasid e.2.ctx && !e.2.buf.isEmpty)
    || s.rays.any fun r => hasPasid s pasid r.ctx && r.status.isNone

/-- R83: every matching entry of both hubs and of every engine cache goes, and the accesses that passed their checks are
brought to their ends; while one is left, the invalidation is not complete and is gone on with (State.invals). -/
def execAtsInvalidation (pasid va size : Nat) (s : State) : Out :=
  let hits := fun (a n : Nat) => decide (a < va + size) && decide (va < a + n)
  let hub := fun (h : Hub) => { h with entries := h.entries.filter fun e => !(e.pasid == pasid && hits e.va e.size) }
  let s1 : State := { s with
    tcache := s.tcache.filter fun e => !(hasPasid s pasid e.ctx && hits e.va e.size)
    hub0 := hub s.hub0
    hub1 := hub s.hub1
    invals := s.invals.filter (· != (pasid, va, size)) }
  let s2 := (s1.sreqs.filter fun r => hasPasid s1 pasid r.ctx && r.place.isSome).foldl (fun s r => deliverReq s r.id) s1
  .next (if accessesLeft s2 pasid then { s2 with invals := s2.invals ++ [(pasid, va, size)] } else s2)

end Sys2Proof.Machine
end

