-- ==== Sys2Proof/Machine/Control.lean ====
section
/-! DEFINITION. The control words (R396 to R404). -/
namespace Sys2Proof.Machine

/-- The lanes of the split that a control word's predicate selects (R45). -/
def selected (c : WCtx) (p : BitVec 3) (i : BitVec 1) : BitVec 64 := c.sp.mask &&& c.g.predX p.toNat (i == 1)

/-- A control word with its selected lanes in place of the guard's (R45, R396). -/
def runSelected (s : State) (p : BitVec 3) (i : BitVec 1) (body : WCtx → State → Try State) : Out :=
  runCtl s fun c s => body { c with eff := selected c p i } s

/-- Words of the launch's .text. -/
def textWords (s : State) (g : Group) : Nat :=
  match launchOf s g with
  | some l => l.img.words
  | none => 0

/-- The word offset `n` words from the control word (R46). -/
def wordAway (c : WCtx) (n : Int) : Int := (c.sp.pc : Int) + n

/-- R396: a transfer outside .text traps. -/
def inTextOf (s : State) (c : WCtx) (lane : Nat) (t : Int) : Try Nat :=
  if t < 0 ∨ (textWords s c.g : Int) ≤ t then illegal 1 0 lane else .ok t.toNat
def inText (s : State) (c : WCtx) (t : Int) : Try Nat := inTextOf s c c.low t

/-- The lanes that go on with the next word of the clause (R387). -/
def goesOn (c : WCtx) (lanes : BitVec 64) : Opt := ⟨lanes, c.sp.pc + 1, clauseAt c.sp.clause (c.sp.pc + 1)⟩

/-- R388 on the issuing split. -/
def branch (s : State) (c : WCtx) (opts : List Opt) (dfr : Opt) (push : Option Nat) : Try State :=
  match Tab.find s.groups c.key with
  | none => .ok s
  | some g => match divide g c.si opts dfr push s.fresh with
    | some g' => .ok { s with groups := Tab.put s.groups c.key g' }
    | none => .error (.trap ⟨0x0A, 0, 0, c.low⟩)

/-- R397. -/
def execNop (_p : BitVec 3) (_i : BitVec 1) (_o : BitVec 21) (s : State) : Out :=
  runCtl s fun c s => pure (advance s c)

/-- R398. -/
def execBra (p : BitVec 3) (i : BitVec 1) (o : BitVec 21) (s : State) : Out :=
  runSelected s p i fun c s =>
    if c.eff = 0 then pure (advance s c)
    else do
      let t ← inText s c (wordAway c o.toInt)
      let f := goesOn c (c.sp.mask &&& ~~~c.eff)
      branch s c [⟨c.eff, t, none⟩, f] f none

/-- A number put in its place in a rising list without repeats. -/
def insertNat (n : Nat) : List Nat → List Nat
  | [] => [n]
  | m :: ms => if n < m then n :: m :: ms else if n = m then m :: ms else m :: insertNat n ms

/-- The distinct targets of R399 in rising order, with their lanes. -/
def brxOpts (c : WCtx) (off : Nat → Int) : List Opt :=
  let ts := (c.lanes.map fun l => (wordAway c (off l)).toNat)
  (ts.foldr insertNat []).map fun t =>
    ⟨laneMask c fun l => (wordAway c (off l)).toNat == t, t, none⟩

/-- R399. -/
def execBrx (p : BitVec 3) (i : BitVec 1) (r : BitVec 7) (s : State) : Out :=
  runSelected s p i fun c s =>
    if c.eff = 0 then pure (advance s c)
    else do
      let o : Opnd := ⟨1, false, r.toNat, 0, .free⟩
      vecCheck c true [o]
      let off := fun l => toS 32 (o.val c.g l)
      let _ ← c.lanes.mapM fun l => inTextOf s c l (wordAway c (off l))
      branch s c (brxOpts c off ++ [goesOn c (c.sp.mask &&& ~~~c.eff)]) ⟨0, c.sp.pc, c.sp.clause⟩ none

/-- The header after the split's clause: a call's return point (R401). -/
def returnPoint (c : WCtx) : Nat :=
  match c.sp.clause with
  | some k => k.hdr + k.len + 2
  | none => c.sp.pc + 1

/-- R401. -/
def execCall (p : BitVec 3) (i : BitVec 1) (o : BitVec 21) (s : State) : Out :=
  runSelected s p i fun c s =>
    if c.eff = 0 then pure (advance s c)
    else do
      let t ← inText s c (wordAway c o.toInt)
      let f := goesOn c (c.sp.mask &&& ~~~c.eff)
      branch s c [⟨c.eff, t, none⟩, f] f (some (returnPoint c))

/-- R402: arrival at the call, or the trap. -/
def execRet (s : State) : Out :=
  runCtl s fun c s =>
    let called : Bool := match c.sp.tsp with
      | some e => match Tab.find c.g.tokens e with
        | some t => t.kind == .call
        | none => false
      | none => false
    if called then pure (checkBars (updG s c.key fun g => arrive g c.si) c.g.team) else illegal 1 0 ((lanesOf c.w c.sp.mask).headD 0)

/-- R400. -/
def execJset (o : BitVec 21) (s : State) : Out :=
  runCtl s fun c s =>
    if c.g.divdepth < c.g.tokens.length + 1 then .error (.trap ⟨0x0A, 0, 0, (lanesOf c.w c.sp.mask).headD 0⟩)
    else
      let s := updG s c.key fun g => match lowFree g.tokens 16 with
        | some e =>
          { g with tokens := Tab.put g.tokens e { kind := .token, addr := ofS 32 (wordAway c o.toInt), members := c.sp.mask,
                                                  arrived := 0, parent := c.sp.tsp, clause := none, born := s.fresh },
                   splits := Tab.modify g.splits c.si fun x => { x with tsp := some e } }
        | none => g
      pure (advance s c)

/-- The group ends when its last lane has (R403). -/
def endIfEmpty (s : State) (key : Nat) : State :=
  match Tab.find s.groups key with
  | some g => if liveLanes g = 0 then endGroup s key else checkBars s g.team
  | none => s

/-- R403. -/
def execExit (p : BitVec 3) (i : BitVec 1) (s : State) : Out :=
  runSelected s p i fun c s =>
    let s := advance s c
    if c.eff = 0 then pure s
    else pure (endIfEmpty (updG s c.key fun g => exitLanes g c.eff) c.key)

/-- R404: the split moves on, then the breakpoint is taken; the handler's header is fetched beforehand. -/
def execTrap (p : BitVec 3) (i : BitVec 1) (code : BitVec 16) (s : State) : Out :=
  runSelected s p i fun c s =>
    if c.eff = 0 then pure (advance s c)
    else do
      handlerReady s c.key c.g 0x0F
      pure (takeFault (advance s c) c.key c.si ⟨0x0F, code.toNat, c.eff.toNat, c.low⟩ c.sp.pc false)

end Sys2Proof.Machine
end

