-- ==== Sys2Proof/Machine/Messages.lean ====
section
/-! DEFINITION. Active messages (R164 to R169): `amsend`, arrival in a cluster's queue, the start of a handler group. -/
namespace Sys2Proof.Machine

/-! ### Sending (R164, R165) -/

/-- R165's checks of the target scalar; the record names the operand by its scalar. -/
def amTargetLegal (t : Nat) : Bool :=
  bits t 31 25 == 0 && bits t 63 40 == 0 && decide (bits t 24 16 ≤ 256)
    && (if bit t 7 then decide (bits t 6 0 < 22) else decide (bits t 6 0 < 88))

/-- The device and context of the peer-table entry that a message names (R455); none for this device. -/
def amPeer (s : State) (c : WCtx) (d k : Nat) : Try (Option (Nat × Nat)) :=
  if k = 0 then .ok none
  else match ctxOf s c.g with
    | none => illegal 1 d c.low
    | some x =>
      if x.peerTab = 0 then illegal 1 d c.low
      else match uniform s c 0 ((x.peerTab + 16 * k) % 2 ^ 64) 16 0 with
        | .error (.trap _) => illegal 1 d c.low
        | .error e => .error e
        | .ok ls =>
          let b := readHome s ls
          if fieldAt b 12 1 % 2 = 1 then .ok (some (fieldAt b 8 2, fieldAt b 10 2 % 4096)) else illegal 1 d c.low

/-- The cluster a message goes to. -/
def Msg.cluster (m : Msg) : Nat := if m.any then m.target else m.target / 4
/-- The station that a message's frame goes to: its cluster's, or the I/O station of a port to its device. -/
def Msg.station (s : State) (m : Msg) : Nat :=
  match m.away with
  | none => clusterStation s m.cluster
  | some d => match (List.range 12).find? fun p =>
      let v := (Tab.fetch 0 s.hb.ports p).toNat
      bit v 63 && bits v 47 32 == d.1 && !deadStation s (peerStation p) with
    | some p => peerStation p
    | none => ioStation 0
/-- The messages that a core's outgoing buffer still holds: those that the fabric has not taken. -/
def heldMsgs (s : State) (core : Nat) : List Msg := s.outMsgs.filter fun m => m.core == core && unsent s m.id

/-- R164. -/
def execAmsend (d : BitVec 7) (x : BitVec 3) (n : BitVec 1) (p : BitVec 3) (g : BitVec 3) (s : State) : Out :=
  runWord s fun c s => do
    let t := (c.g.s d.toNat).toNat
    if !amTargetLegal t then illegal 1 d.toNat c.low
    let away ← amPeer s c d.toNat (bits t 39 32)
    let a := (c.g.s (d.toNat + 1)).toNat
    let ls ← uniform s c g.toNat (if g = 0 then a else a % 2 ^ 32) (bits t 24 16) 0
    let held := (heldMsgs s c.g.core).length
    if fqFull s (200 + c.g.core) 16 held then
      if n = 1 then (unbuffered s c 0 g.toNat).map fun s => nbWrite s c p.toNat false else .error .stall
    else
      let s ← unbuffered s c 0 g.toNat
      let s := releaseAct s c.key c.g.core (max 5 x.toNat) (pairedOf s c.g)
      let (s, data, bad) := engRead s c.g.core c.g.ctx ls
      let (s, id) := newId s
      let m : Msg := { id, ctx := c.g.ctx, core := c.g.core, any := bit t 7, target := bits t 6 0, handler := bits t 15 8,
                       peer := bits t 39 32, away, data, bad, scope := x.toNat, paired := pairedOf s c.g }
      let s := sendFrames { fqTake s (200 + c.g.core) 16 held with outMsgs := s.outMsgs ++ [m] } id .message
        (clusterStation s (c.g.core / 4)) (m.station s) data.length
      let s := later s (.messageArrival id)
      pure (if n = 1 then nbWrite s c p.toNat true else s)

/-! ### Arrival (R166, R169) -/

/-- R169: a message is discarded with a loss record naming the sender and the handler index. -/
def loseMsg (s : State) (m : Msg) : State :=
  postRecs s m.ctx [{ cls := 0, kind := 2, detail := 0, ctx := m.ctx, source := m.core, time := s.time, addr := m.handler, pc := 0, who := 0 }]

/-- Whether a context is resident: bound and switched in. -/
def ctxResident (s : State) (cid : Nat) : Bool :=
  match Tab.find s.ctxs cid with
  | some c => c.inNow
  | none => false

/-- A message is no longer on its way; its core's buffer may be empty now (R113). -/
def takeOut (s : State) (m : Msg) : State :=
  let s := dropFrames { s with outMsgs := s.outMsgs.filter fun e => e.id != m.id, peerIn := s.peerIn.filter fun e => e.id != m.id } m.id
  fqLeave s (200 + m.core) (heldMsgs s m.core).length

/-- One message at its station: out to another device, discarded, or into the cluster's queue of 64, which refuses when full. -/
def arriveMsg (s : State) (m : Msg) : State :=
  match m.away with
  | some d => if portUp s d.1 then takeOut s m else loseMsg (takeOut s m) m
  | none =>
    let held := (s.msgQ.filter fun e => e.1 == m.cluster).length
    if !ctxResident s m.ctx then loseMsg (takeOut s m) m
    else if fqFull s (100 + m.cluster) 64 held then s
    else
      let t := takeOut (fqTake s (100 + m.cluster) 64 held) m
      later { t with msgQ := t.msgQ ++ [(m.cluster, m)] } (.handlerDispatch m.cluster)

/-- R166, MESSAGE_ARRIVAL: messages of one station to another arrive in the order they were sent (R108); one from a peer
comes in at its port, if its context is resident (R168, R455); one that cannot reach its station is lost (R118). -/
def execMessageArrival (id : Nat) (s : State) : Out :=
  match s.outMsgs.find? fun m => m.id == id with
  | none => .next (match s.peerIn.find? fun m => m.id == id with
    | some m => arriveMsg s m
    | none => s)
  | some m => match s.outMsgs.find? fun e => e.core / 4 == m.core / 4 && e.station s == m.station s with
    | some e =>
      let s := bringFrame s e.id
      let s := fqLeave s (200 + e.core) (heldMsgs s e.core).length
      .next (if deadStation s (e.station s) ∨ deadStation s (clusterStation s (e.core / 4)) then loseMsg (takeOut s e) e
        else if arrived s e.id then arriveMsg s e else s)
    | none => .next s

/-! ### Dispatch (R166 to R168) -/

/-- A core with a free handler group for a message: its core or, with ANY, the lowest of the cluster. -/
def handlerCore (s : State) (m : Msg) : Option Nat :=
  let ok := fun k => !(freeSlots s k 2).isEmpty && decide (8192 ≤ regsFree s k 2)
  if m.any then ((List.range 4).map (4 * m.target + ·)).find? ok else if ok m.target then some m.target else none

/-- Words of 4 bytes on either side of a handler's entry that its group can reach when no image holds it (log 28). -/
abbrev handlerReach : Nat := 2 ^ 21

/-- The .text that a handler group fetches from: that of the context's launch whose .text holds the entry, else the
words around it; and the entry's word offset. -/
def handlerImage (s : State) (ctx entry : Nat) : Image × Nat :=
  let base : Image := { width := 16, groups := 1, divdepth := 16, regBytes := 8192, scratch := 0, paired := false, coop := false,
                        views := [0x0070_0040_0000_0000, 0x0038_0080_0000_0000, 0, 0], text := entry, words := handlerReach,
                        live := [], consts := 0, constSize := 0 }
  match s.launches.find? fun e => e.2.ctx == ctx && e.2.kind != .handler && decide (e.2.img.text ≤ entry)
      && decide (entry < e.2.img.text + 4 * e.2.img.words) && (entry - e.2.img.text) % 4 == 0 with
  | some (_, l) => ({ base with text := l.img.text, words := l.img.words, live := l.img.live }, (entry - l.img.text) / 4)
  | none =>
    let back := min handlerReach (entry / 4)
    ({ base with text := entry - 4 * back, words := back + handlerReach }, back)

/-- R168: a handler group's registers. -/
def handlerGroup (s : State) (m : Msg) (c : Ctx) (lk core off : Nat) (img : Image) : Group :=
  let g := freshGroup s m.ctx lk 0 0 .handler false img core ((freeSlots s core 2).headD 80) (issueSlot s core false)
  let rows := rowWords ((m.data ++ List.replicate (256 - m.data.length) 0).take 256)
  let g := g.setElems (rows.zipIdx.map fun r => (r.2, r.1))
  let g := g.setTags [0, 1, 2, 3] tU32
  let g := [m.core, m.data.length, m.handler, m.peer].zipIdx.foldl (fun g v => g.setS v.2 (BitVec.ofNat 64 v.1)) g
  { g with segs := looseSegs c 0 0 false, mb := putMb [] 0 m.data, deadline := s.time + 1_000_000,
           splits := [(0, { newSplit off (allLanes 16) none none with entry := true })] }

/-- A message's handler starts on a core, in its sender's position (R372); payload bytes that came from a bad sector poison theirs in the message buffer, and are
not delivered to its registers as good: the group ends by an uncorrectable-memory fault (DEDUCED from R99, R168, R438; log 111). -/
def startHandler (s : State) (m : Msg) (c : Ctx) (core entry : Nat) : State :=
  let (img, off) := handlerImage s m.ctx entry
  let (s, lk) := newId s
  let (s, key) := newId s
  let l : Launch := { lid := 0, ctx := m.ctx, img, x := 1, y := 1, z := 1, consts := 0, constLen := 0, pvBase := 0, pvLane := 0, nextTeam := 1,
                      exited := 0, residency := [], killed := false, queue := 0, cmd := 0, kind := .handler, draw := 0, room := [], since := none }
  let g := handlerGroup s m c lk core off img
  let s : State := { s with launches := Tab.put s.launches lk l, groups := Tab.put s.groups key g }
  let s := acquireAct (spreadBad s ((⟨.mb key, 0⟩ : Loc).span m.data.length) m.bad) core m.scope m.paired
  let s := claimCore s c false core
  match m.bad with
  | [] => s
  | b :: _ => standing s key (groupRec s g ⟨0x0E, 0, b / 64 * 64, 0⟩ off false)

/-- Take a message from its queue; a message that a full queue refused, and the next dispatch, are tried. -/
def takeMsg (s : State) (m : Msg) : State :=
  let s : State := { s with msgQ := s.msgQ.filter fun e => e.2.id != m.id }
  let s := fqLeave s (100 + m.cluster) (s.msgQ.filter fun e => e.1 == m.cluster).length
  laterAll (clearXfaults s (engStation m.cluster) m.id)
    ((((s.outMsgs ++ s.peerIn).filter fun e => e.cluster == m.cluster).map fun e => .messageArrival e.id) ++ [.handlerDispatch m.cluster])

/-- R167: a message whose entry is not valid is discarded, with a record naming the handler index. -/
def discardMsg (s : State) (m : Msg) : State :=
  postRecs (takeMsg s m) m.ctx [{ cls := 0, kind := 4, detail := 0, ctx := m.ctx, source := 0x0800 + clusterStation s m.cluster, time := s.time,
                                  addr := m.handler, pc := 0, who := 0 }]

/-- Dispatch one message to a core: its handler-table entry and its header are read through the cluster station; a table at
HTAB 0, none (R451), and a fault on either read, or a bad sector under it, discard it as an entry that is not valid does (DESIGN CHOICE, log 136). -/
def dispatchMsg (s : State) (m : Msg) (core : Nat) : State :=
  match Tab.find s.ctxs m.ctx with
  | none => loseMsg (takeMsg s m) m
  | some c =>
    let eng := engStation m.cluster
    if c.htab = 0 then discardMsg s m
    else match engCheck s eng m.ctx m.id 1 ((List.range 8).map (c.htab + 8 * m.handler + ·)) with
    | .wait ps => engAsk s eng m.ctx m.id ps
    | .stall => s
    | .ok ls =>
      let (s, es, bad) := engRead s eng m.ctx ls
      let e := leNat es
      let entry := e / 4 * 4
      if e % 2 = 0 ∨ !bad.isEmpty then discardMsg s m
      else match engCheck s eng m.ctx m.id 1 ((List.range 4).map (entry + ·)) with
        | .wait ps => engAsk s eng m.ctx m.id ps
        | .stall => s
        | .ok hs =>
          let (s, ws, bad) := engRead s eng m.ctx hs
          if headerKind (BitVec.ofNat 32 (leNat ws)) = 4 ∧ bad.isEmpty then startHandler (takeMsg s m) m c core entry else discardMsg s m
        | _ => discardMsg s m
    | _ => discardMsg s m

/-- R166: the oldest message of a cluster that can be placed. -/
def dispatchCluster (s : State) (cl : Nat) : State :=
  match (s.msgQ.filter fun e => e.1 == cl).findSome? fun e => (handlerCore s e.2).map fun k => (e.2, k) with
  | some (m, k) => dispatchMsg s m k
  | none => s
def execHandlerDispatch (cl : Nat) (s : State) : Out := .next (dispatchCluster s cl)

/-- R168: a handler group that still runs 1 ms after dispatch takes a watchdog fault and ends. -/
def execHandlerWatchdog (key t : Nat) (s : State) : Out :=
  let s := atTime s t
  match Tab.find s.groups key with
  | some g =>
    if g.kind = .handler ∧ g.deadline ≤ s.time then
      .next (standing s key (groupRec s g ⟨0x10, 0, 0, 0⟩ ((g.splits.head?.map (·.2.pc)).getD 0) false))
    else .next s
  | none => .next s

/-- R148, TILE_ARRIVAL; the same event goes on with a message whose handler's page has come. -/
def execTileArrival (id : Nat) (s : State) : Out :=
  match s.msgQ.find? fun e => e.2.id == id with
  | some e => .next (dispatchCluster s e.1)
  | none => .next (tileArrives id s)

end Sys2Proof.Machine
end

