-- ==== Sys2Proof/Machine/FabricOps.lean ====
section
/-! DEFINITION. The fabric's own steps (R102, R111 to R119): slots, pawls, heartbeats, dead links and stations, reroutes. -/
namespace Sys2Proof.Machine

/-! ### Neighbours (R103) -/

/-- Neighbours on a ring, or across a hinge or the boundary. -/
def neighbours (a b : Nat) : Bool :=
  (a / 16 == b / 16 && legHops (a / 16, a % 16, b % 16) == 1) || (a != b && (stationTwin a == b || stationFace a == b))

def bumpFb (s : State) (st lo : Nat) : State := { s with hb := { s.hb with fbStatus := bumpField s.hb.fbStatus st lo } }

/-- The events that go on with what a frame carries. -/
def frameEvents (s : State) (id : Nat) : List Instr :=
  ((s.sreqs.filter fun r => r.id == id).map reqEvent) ++ ((s.kflits.filter fun e => e.1 == id).flatMap fun e => flitEvents e.1 e.2)
    ++ (s.outMsgs.filter fun m => m.id == id).map fun m => .messageArrival m.id

/-! ### Slots (R102) -/

/-- Frames that wait for injection at a station. -/
def waitingAt (s : State) (n : Nat) : List Frame := s.frames.filter fun f => f.src == n && f.leg == 0

/-- R102, INJECTION_RESERVE: 64 slots passed; the next slot is marked, and taken when it comes round. -/
def execInjectionReserve (n : Nat) (s : State) : Out :=
  match waitingAt s n with
  | [] => .next s
  | f :: _ =>
    if !stationExists n ∨ deadStation s n ∨ s.reroute.isSome then .next s
    else if (stationOf s n).mark.isSome then
      let t := bringFrame s f.id
      .next (if unsent t f.id then s else laterAll (takeSlot t n) (frameEvents s f.id))
    else .next (setStation s n fun x => { x with waited := 64, mark := some (16 * f.ring s + slotAt s n (f.ring s) 1) })

/-! ### Pawls (R111 to R113) -/

/-- Entries that a queue holds. -/
def fqCount (s : State) (q : Nat) : Nat :=
  if q < 200 then (s.msgQ.filter fun e => e.1 + 100 == q).length
  else if q < 300 then (heldMsgs s (q - 200)).length
  else if q < 1000 then (quadsAt s (q - 300) .held).length
  else if q < 2000 then sliceHeld s (q - 1000)
  else if q < 4000 then (engEntries s (q - 2000)).length
  else if q < 10000 then (s.raster.tickets.filter fun t => t.bank + 4000 == q).length
  else (bufferFrames s (q - 10000)).length

/-- The queue that holds up a frame: the next buffer on its way, or what it is for at its station. -/
def frameBlocked (s : State) (f : Frame) : Option Nat :=
  match (route s f.cls f.src f.dst)[f.leg]? with
  | some l => if bufferRoom s (legBuffer s f.cls l) f.cls then none else some (10000 + legBuffer s f.cls l)
  | none => match s.sreqs.find? fun r => r.id == f.id with
    | some r => if sliceFull s (r.slice s) then some (1000 + r.slice s) else none
    | none => match s.outMsgs.find? fun m => m.id == f.id with
      | some m =>
        if m.away.isNone ∧ fqFull s (100 + m.cluster) 64 (s.msgQ.filter fun e => e.1 == m.cluster).length then some (100 + m.cluster) else none
      | none => none
/-- The frame of what an ID names that is still at its source. -/
def sourceFrame (s : State) (id : Nat) : Option Frame := s.frames.find? fun f => f.id == id && f.leg == 0

/-- A cluster queue's oldest message waits for a handler group of its core; while all four are there and the core's own message
buffer is full, it waits for that buffer (DEDUCED, log 116). -/
def dispatchBlocked (s : State) (cl : Nat) : Option Nat :=
  match s.msgQ.find? fun e => e.1 == cl with
  | some (_, m) =>
    if !m.any ∧ (freeSlots s m.target 2).isEmpty ∧ fqFull s (200 + m.target) 16 (heldMsgs s m.target).length then some (200 + m.target) else none
  | none => none

/-- A hold queue's first quad waits for the order lock of a bank without room. -/
def holdBlocked (s : State) (st : Nat) : Option Nat :=
  match (quadsAt s st .held).head? with
  | some x => match drawOf s x.draw with
    | some d =>
      let ks := ticketsFor s d x
      (ks.find? fun k => !windowsFit s (ks.filter fun j => j.1 == k.1)).map fun k => 4000 + k.1
    | none => none
  | none => none

/-- An order lock's next entry waits while a tile cannot be restored: it is its stack's surface controller that it waits for
(R187, R357; DEDUCED, log 116). -/
def lockBlocked (s : State) (bank : Nat) : Option Nat :=
  match nextEntry bank s [] s.raster.tickets with
  | some t => if !t.null && !(nbRestore (ticketTiles s t) s (ticketTiles s t)).2 then some (2800 + bank / 192 % 2) else none
  | none => none

/-- The queue that a queue's head targets and that refuses it; `none`: it is not blocked (R111). -/
def fqBlocked (s : State) (q : Nat) : Option Nat :=
  if q < 200 then dispatchBlocked s (q - 100)
  else if q < 300 then ((heldMsgs s (q - 200)).head?.bind fun m => sourceFrame s m.id).bind (frameBlocked s)
  else if q < 1000 then holdBlocked s (q - 300)
  else if q < 2000 then none
  else if q < 4000 then
    (s.kflits.findSome? fun e => match e.2 with
      | .put p _ _ => if p.gkey = 0 ∧ p.pend + 2000 = q then sourceFrame s e.1 else none
      | _ => none).bind (frameBlocked s)
  else if q < 10000 then lockBlocked s (q - 4000)
  else (bufferFrames s (q - 10000)).head?.bind (frameBlocked s)

/-- The stack whose FB_STATUS counts a queue's pawls. -/
def fqStack (s : State) (q : Nat) : Nat :=
  if q < 200 then clusterStation s (q - 100) / 64
  else if q < 300 then coreStack s (q - 200)
  else if q < 1000 then (q - 300) % 2
  else if q < 2000 then (q - 1000) / 64
  else if q < 4000 then unitSource s (q - 2000) / 32768 % 2
  else if q < 10000 then (q - 4000) / 192 % 2
  else (q - 10000) / 128 % 2

/-- A queue's clock of blocked cycles; the reserve refills once it has held no entries (R113). -/
def noteQueue (s : State) (q : Nat) : State :=
  let empty := fqCount s q == 0
  let blocked := (fqBlocked s q).isSome
  setFq s q fun x => { since := if blocked then x.since <|> some (fabricNow s) else none, spent := x.spent && !empty, grant := x.grant && !empty }

/-- Queues that hold entries whose heads may target another, and those that pawls have gone by. -/
def feedingQueues (s : State) : List Nat :=
  let own : List Nat := s.msgQ.map (100 + ·.1) ++ s.outMsgs.map (200 + ·.core) ++ [300, 301] ++ s.engCmds.map (2000 + ·.eng) ++ s.raster.tickets.map (4000 + ·.bank)
  (own ++ (s.frames.filterMap (Frame.buffer s)).map (10000 + ·) ++ s.fqueues.map fun (e : Nat × FQueue) => e.1).eraseDups

/-- R112, PAWL_LAUNCH: 512 cycles blocked, and again every 512. -/
def execPawlLaunch (q : Nat) (s : State) : Out :=
  match fqBlocked s q, (fqOf s q).since with
  | some t, some b =>
    if fabricNow s < b + 512 then .next s
    else
      let s := setFq (bumpFb s (fqStack s q) 0) q fun x => { x with since := some (fabricNow s) }
      .next (later { s with pawls := s.pawls ++ [{ origin := q, atq := t, hops := 0 }] } (.pawl 0))
  | _, _ => .next s

/-- R112, PAWL: the i-th pawl in flight comes to a queue. One that reaches its origin with a hop count of 1,024 has returned
(DESIGN CHOICE, log 117: the first and the last row of R112's table both apply). -/
def execPawl (i : Nat) (s : State) : Out :=
  match s.pawls[i]? with
  | none => .next s
  | some p =>
    let s : State := { s with pawls := s.pawls.eraseIdx i }
    if p.atq = p.origin then
      if (fqOf s p.origin).spent then .next (bumpFb s (fqStack s p.origin) 32)
      else .next (setFq (bumpFb s (fqStack s p.origin) 16) p.origin fun x => { x with spent := true, grant := true })
    else if 1024 ≤ p.hops then .next s
    else match fqBlocked s p.atq with
      | some t => .next (later { s with pawls := s.pawls ++ [{ p with atq := t, hops := p.hops + 1 }] } (.pawl 0))
      | none => .next s

/-! ### Dead links and stations (R116) -/

/-- Whether a frame on its way can no longer take the rest of the route it had: where it stands, a leg, or a crossing is dead. -/
def frameCutOff (old s : State) (f : Frame) : Bool :=
  let ls := route old f.cls f.src f.dst
  let ends := ls.drop (f.leg - 1)
  f.leg != 0 && ((ends.any fun l => deadStation s (16 * l.1 + l.2.2))
    || (ends.dropLast.any fun l => deadLink s (16 * l.1 + l.2.2) 4)
    || (ls.drop f.leg).any fun l => deadStation s (16 * l.1 + l.2.1) || !legOpen s f.cls.pair (legCw old f.cls.pair l) l)

/-- Where a reroute leaves a frame: dropped at its source, at its destination if it was on its way there, else as it was. -/
def reroutedFrame (old s : State) (f : Frame) : Frame :=
  if frameCutOff old s f then { f with leg := 0 }
  else if f.leg ≠ 0 ∧ route s f.cls f.src f.dst ≠ route old f.cls f.src f.dst then
    { f with leg := max (route old f.cls f.src f.dst).length (route s f.cls f.src f.dst).length }
  else f

/-- R116, step 1: injection pauses; frames on their way come to their destinations, or are dropped before the dead point and
counted against their source. A further death during a reroute joins it, and counts none (DESIGN CHOICE, log 118:
R114 and R116 do not say). -/
def startReroute (old s : State) : State :=
  let cut := s.frames.filter (frameCutOff old s)
  let r := match s.reroute with
    | some (b, ds) => (b, (ds ++ cut.map (·.id)).eraseDups)
    | none => (s.time, (cut.map (·.id)).eraseDups)
  let t := if s.reroute.isNone then bumpFb (bumpFb s 0 48) 1 48 else s
  { t with reroute := some r, frames := s.frames.map (reroutedFrame old s),
           drops := cut.foldl (fun d f => Tab.put d f.src (Tab.fetch 0 d f.src + 1)) s.drops }

/-- R116, HEARTBEAT: a station's neighbours, and the links it used, have heard from it. -/
def execHeartbeat (n : Nat) (s : State) : Out :=
  if !stationExists n ∨ deadStation s n then .next s
  else .next { s with beats := s.beats.filter fun e => e.1 % 128 != n, links := s.links.filter fun e => e.1 / 16 != n || decide (16 ≤ e.2) }

/-- R116, HEARTBEAT_MISS: at the third heartbeat that a station misses of its neighbour, the neighbour is dead. -/
def execHeartbeatMiss (n m : Nat) (s : State) : Out :=
  if !stationExists n ∨ !stationExists m ∨ deadStation s n ∨ deadStation s m ∨ !neighbours n m then .next s
  else
    let k := Tab.fetch 0 s.beats (128 * n + m) + 1
    let t : State := { s with beats := Tab.put s.beats (128 * n + m) k }
    if k < 3 then .next t
    else
      let kill := fun (s : State) (k : Nat) => setStation s k fun x => { x with dead := true }
      .next (startReroute s (kill (kill t m) (stationTwin m)))

/-- R116, LINK_RETRY_FAILURE: the sixteenth in succession makes the link dead; a station has links 0 to 4 (DESIGN CHOICE, log 109). -/
def execLinkRetryFailure (n l : Nat) (s : State) : Out :=
  if !stationExists n ∨ deadStation s n ∨ 5 ≤ l then .next s
  else
    let k := Tab.fetch 0 s.links (16 * n + l)
    if 16 ≤ k then .next s
    else
      let t : State := { s with links := Tab.put s.links (16 * n + l) (k + 1) }
      .next (if k + 1 = 16 then startReroute s t else t)

/-! ### Resumption (R117 to R119) -/

/-- R119: a dead station leaves every RETURN, and an entry that returns to nobody is dropped; an entry whose next station
is dead is forwarded again by the new route; one whose home is dead completes GONE. -/
def repairEntry (s : State) (e : Interest) : State :=
  let ret := e.ret.filter fun n => !deadStation s n
  let e' := { e with ret }
  let s : State := { s with interests := s.interests.erase e }
  if deadStation s e.wp ∨ (ret.isEmpty ∧ !e.locals) then s
  else
    let back := fun (s : State) (e : Interest) => ({ s with interests := s.interests ++ [e] } : State)
    if deadStation s (keyStation e.key) then
      let s := fanOut s ret e.key e.ctx [] [] kwGone
      if e.locals then sendFlit (back s { e' with ret := [] }) (.tile e.wp e.key e.ctx [] [] kwGone) else s
    else match e.fwd with
      | some f =>
        if deadStation s f then
          let fwd := nextWay s e.wp e.wp (keyStation e.key)
          let s := back s { e' with fwd }
          match fwd with
          | some n => sendFlit s (.interest n e.wp e.wp e.key e.ctx e.expiry)
          | none => s
        else back s e'
      | none => back s e'

/-- Flits to a dead waypoint are lost with it, except an interest to its home, which gets GONE; so are those that their own dead
station had not sent. -/
def dropDeadFlits (s : State) : State :=
  (s.kflits.filter fun e => match e.2 with
    | .interest wp prev _ key _ _ => deadStation s prev || (deadStation s wp && wp != keyStation key)
    | .refresh wp _ _ _ => deadStation s wp
    | .tile wp _ _ _ _ _ => deadStation s wp
    | _ => false).foldl (fun s e => dropFlit s e.1) s

/-- Requests that are lost: dropped or in their slice when it died, or dropped or unsent where their source died (R118). -/
def lostReqs (s : State) (dropped : List Nat) : List SReq :=
  s.sreqs.filter fun r => (deadStation s (r.station s) && (dropped.contains r.id || r.here || arrived s r.id))
    || (deadStation s (r.src / 512) && (dropped.contains r.id || unsent s r.id))

/-- R118, R129: a command of an engine whose station is dead ends. -/
def endDeadCmds (s : State) : State :=
  (s.engCmds.filter fun m => m.failed.isNone && deadStation s (unitSource s m.unit / 512)).foldl
    (fun s m => meetFault s m 0 0 (unitSource s m.unit / 512)) s

/-- R117, R118, REROUTE_RESUME: what can no longer reach its destination is lost; what was dropped goes out again first, in its
order, then what the pause has held back, before what else stands to be injected. -/
def execRerouteResume (t : Nat) (s : State) : Out :=
  let s := atTime s t
  match s.reroute with
  | none => .next s
  | some (b, dropped) =>
    let held := s.paused
    let s := loseReqs { s with reroute := none, paused := [] } b (lostReqs s dropped)
    let s := endDeadCmds (dropDeadFlits s)
    let s := s.interests.foldl repairEntry s
    let ids := ((s.frames.filter fun f => f.leg == 0).map (·.id)).eraseDups
    let again := (ids.filter dropped.contains) ++ ids.filter fun i => !dropped.contains i
    .next { s with agenda := again.flatMap (frameEvents s) ++ held ++ s.agenda }

end Sys2Proof.Machine
end

