-- ==== Sys2Proof/Machine/ThermalPeer.lean ====
section
/-! DEFINITION. Thermal limits and ageing (R461, R462), peer ports and what arrives on them (R454, R456, R457). -/
namespace Sys2Proof.Machine

/-! ### Thermal limits (R461) -/

/-- Sensors that report. -/
def sensorExists (n : Nat) : Bool :=
  decide (n < 88) || (decide (0x100 ≤ n) && decide (n < 0x116)) || (decide (0x200 ≤ n) && decide (n < 0x208)) || n == 0x300 || n == 0x301

/-- The LAUNCHID of a record about a sensor: its core's, all ones for a sensor of no core. -/
def sensorLaunch (s : State) (n : Nat) : Nat := if n < 88 then launchOn s n else 2 ^ 64 - 1

/-- R461, THERMAL_LIMIT_CROSSING: a core above its limit is marked for R415 and R418. -/
def execThermalLimitCrossing (sensor : Nat) (up : Bool) (value limit : BitVec 32) (s : State) : Out :=
  if !sensorExists sensor ∨ (sensor < 88 ∧ (coreInfo s sensor).hot = up) then .next s
  else
    let s : State := if sensor < 88 then { s with cores := Tab.put s.cores sensor { coreInfo s sensor with hot := up } } else s
    let s := thermalRec s sensor (if up then 1 else 2) value.toNat (sensorLaunch s sensor) (limit.signExtend 64).toNat
    .next (if up then s else wakePlacement s)

/-! ### Ageing (R462) -/

/-- A measurement: its record, and a new ceiling in steps of 25 MHz with its own. -/
def measure (s : State) (cl : Nat) (shift slack : BitVec 32) (ceiling : Nat) : State :=
  let old := (clusterInfo s cl).ceiling
  let new := if ceiling % 25 = 0 ∧ 0 < ceiling ∧ ceiling ≤ 2400 then ceiling else old
  let s := thermalRec s (0x100 + cl) 6 shift.toNat (2 ^ 64 - 1) (slack.signExtend 64).toNat
  let s : State := { s with clusters := Tab.put s.clusters cl { clusterInfo s cl with measured := s.time, ceiling := new } }
  wakePlacement (if new = old then s else thermalRec s (0x100 + cl) 5 new (2 ^ 64 - 1) old)

/-- R462, AGEING_MEASUREMENT: of a cluster that has held no group for 10 ms. -/
def execAgeingMeasurement (cl t : Nat) (shift slack : BitVec 32) (ceiling : Nat) (s : State) : Out :=
  let s := atTime s t
  if 22 ≤ cl ∨ (s.groups.any fun e => e.2.core / 4 == cl) ∨ s.time < (clusterInfo s cl).emptied + 10000000 then .next s
  else .next (measure s cl shift slack ceiling)

/-- R462, FORCED_AGEING_MEASUREMENT: of a cluster unmeasured for two hours, under a pause of its issue. -/
def execForcedAgeingMeasurement (cl t : Nat) (shift slack : BitVec 32) (ceiling : Nat) (s : State) : Out :=
  let s := atTime s t
  if 22 ≤ cl ∨ s.time < (clusterInfo s cl).measured + 7200000000000 then .next s
  else .next (measure s cl shift slack ceiling)

/-! ### Peer ports (R454, R456) -/

def portOf (s : State) (p : Nat) : BitVec 64 := Tab.fetch 0 s.hb.ports p
def setPort (s : State) (p : Nat) (v : BitVec 64) : State := { s with hb := { s.hb with ports := Tab.store 0 s.hb.ports p v } }
/-- HB_PORT of its fields. -/
def portWord (up : Bool) (remote retry : Nat) : BitVec 64 := BitVec.ofNat 64 ((if up then 2 ^ 63 else 0) + remote * 2 ^ 32 + retry)
def portRetry (v : BitVec 64) : Nat := bits v.toNat 31 0
def portRemote (v : BitVec 64) : Nat := bits v.toNat 47 32

/-- R454, PEER_PORT_TRAINED. -/
def execPeerPortTrained (p dev : Nat) (s : State) : Out :=
  .next (if p < 12 then setPort s p (portWord true (dev % 65536) (portRetry (portOf s p))) else s)

/-- R454, HB_ID_WRITE: DEVID, and every port trains anew. -/
def execHbIdWrite (s : State) : Out :=
  let s : State := { s with hb := { s.hb with hbId := BitVec.ofNat 64 (s.hb.wval.toNat % 65536) } }
  .next ((List.range 12).foldl (fun s p => setPort s p (portWord false 0 (portRetry (portOf s p)))) s)

/-- The device that a request goes to, if it is another. -/
def SReq.peer (r : SReq) : Option Nat :=
  match r.place with
  | some l => match l.sp with
    | .peer d _ => some d
    | _ => none
  | none => none

/-- The entry of its context's peer table that a request went by (R455); 0 where the table can no longer be read. -/
def peerEntryOf (s : State) (r : SReq) : Nat :=
  match r.place, Tab.find s.ctxs r.ctx with
  | some ⟨.peer dev rctx, _⟩, some c => (peerNamed s r.core r.ctx c.peerTab dev rctx 255).getD 0
  | _, _ => 0

/-- R456: with no port left to a device, its unacknowledged requests are lost, with records that name the PEER. -/
def losePeer (s : State) (dev : Nat) : State :=
  let rs := s.sreqs.filter fun r => r.peer == some dev
  let ends := rs.foldl endLost s
  let keyOf := fun (r : SReq) => (r.src, r.ctx, peerEntryOf s r)
  (rs.map keyOf).eraseDups.foldl (fun t k =>
    let mine := (rs.filter fun r => keyOf r == k).map (·.seq)
    postRecs t k.2.1 [lossRec k.2.1 (k.1 + 65536 * k.2.2) (mine.headD 0) (mine.getLastD 0) (k.1 / 512) s.time]) ends

/-- R456, PEER_PORT_DOWN: requests are retried on the other ports to the device, whose slices apply each once. -/
def execPeerPortDown (p : Nat) (s : State) : Out :=
  let v := portOf s p
  if 12 ≤ p ∨ !bit v.toNat 63 then .next s
  else
    let s := setPort s p (portWord false (portRemote v) (min (2 ^ 32 - 1) (portRetry v + 16)))
    .next (if portUp s (portRemote v) then s else losePeer s (portRemote v))

/-- One sector that another device writes here. It is applied once (R115); a check value that differs, or poison, is stored as
poison and charged to the frame's owner (R100). `none`: its frame is locked (R92), or its slice has no mark for its source. -/
def peerStore (s : State) (dev src seq la : Nat) (data : List (BitVec 8)) (bad : Bool) : Option State :=
  let h := hingeOf s (la / 65536)
  let l : Loc := ⟨.log, la⟩
  let slice := homeSlice s la
  if data.length ≠ 64 ∨ la % 64 ≠ 0 ∨ 2 ^ 43 ≤ la ∨ hState h = 0 ∨ seenSeq s slice dev src seq then some s
  else if hState h = 2 then none
  else (markRoom s slice dev src).map fun s =>
    let s := putMark (setLogBytes s (hCtx h) la data) slice dev src seq
    if bad then sectorRec (poisonPlaces s [l]) (hCtx h) 0x0D l else s

/-- What another device's member of a collective sends (R137, R455): its descriptor's 64 bytes, then its part; the place names its
queue and TEAMID. -/
def peerPart (s : State) (ctx peer who : Nat) (data : List (BitVec 8)) (bad : Bool) : State :=
  let spoilt := if bad then List.range (data.length - 64) else []
  { s with collIn := s.collIn ++ [{ ctx, peer, queue := who % 65536, tid := who / 65536, desc := data.take 64, data := data.drop 64, bad := spoilt }] }

/-- R455, R457, PEER_RECEIVE: what another device sends on a port, after its link-level retries (R454), from a source there (R115) in
context `ctx` to context `rctx` here. That context must be bound, and its peer table must name the sender's device and context
(R455), which is read through the queue manager's translation cache (DESIGN CHOICE, log 128). -/
def execPeerReceive (dev : PeerHead) (la : Nat) (data : List (BitVec 8)) (crc : BitVec 16) (poisoned : Bool) (s : State) : Out :=
  let ⟨port, src, seq, ctx, rctx, retries, coll⟩ := dev
  let v := portOf s port
  if 12 ≤ port ∨ !bit v.toNat 63 ∨ deadStation s (peerStation port) then .next s
  else
    let again : Instr := .peerReceive { dev with retries := 0 } la data crc poisoned
    let dev := portRemote v
    let s := setPort s port (portWord true dev (min (2 ^ 32 - 1) (portRetry v + retries)))
    let bad := poisoned || crc16 data != crc
    match Tab.find s.ctxs rctx with
    | none => .next s
    | some c =>
      if c.peerTab = 0 ∨ (s.xfaults.any fun f => f.eng == engQm && f.ctx == rctx && f.key == peerReqKey) then .next (clearXfaults s engQm peerReqKey)
      else match peerNamed s engQm rctx c.peerTab dev ctx 255 with
        | none => .next (holdBack (later s (.translationMiss engQm rctx peerReqKey
            (if (tlookup s engQm rctx c.peerTab).isNone then c.peerTab else c.peerTab + 4095) 1)) again)
        | some 0 => .next s
        | some k =>
          if coll then .next (peerPart s rctx k la data bad)
          else match peerStore s dev src seq la data bad with
            | some t => .next t
            | none => .next (holdBack s again)

end Sys2Proof.Machine
end

