-- ==== Sys2Proof/Machine/HostRegs.lean ====
section
/-! DEFINITION. BAR0 and BAR4 (R6, R78, R449, the register maps), host operations, resync, firmware and attestation (R459 to
R465), device reset (R466). -/
namespace Sys2Proof.Machine

/-! ### Reading a register -/

/-- XL_TIER_CTL with its computed fields (R91). -/
def tierCtl (h : Hub) : BitVec 64 :=
  (h.tier &&& 0xFFFF_FFF3) ||| BitVec.ofNat 64 (h.farFree.length % 8192 * 2 ^ 48 + h.pool.length % 8192 * 2 ^ 32)

/-- FB_KW_STORE of a quadrant (R146). -/
def kwStoreReg (s : State) (q : Nat) : BitVec 64 :=
  let used := (storeUsed s q + 2 ^ 20 - 1) / 2 ^ 20
  BitVec.ofNat 64 ((s.tiles.filter fun e => e.1 / 16 == q).length % 65536 * 2 ^ 32 + used % 256 * 2 ^ 16 + (Tab.fetch 16 s.hb.kwStore q).toNat)

/-- FB_CELL_STAT (R233). -/
def cellStat (s : State) (st : Nat) : BitVec 64 :=
  BitVec.ofNat 64 ((Tab.fetch 0 s.hb.cellRetired st).toNat * 2 ^ 32 + min 32767 (s.cells.filter fun c => c.parked && c.slice / 64 == st).length)

/-- MX_GOV, MX_GOV_STALL and MX_WB (R308, R315, R316). -/
def mxGov (m : Mx) : BitVec 64 := BitVec.ofNat 64 (m.used % 65536 * 2 ^ 32 + m.budget % 65536)
def mxStall (m : Mx) : BitVec 64 := BitVec.ofNat 64 (min m.passes (2 ^ 32 - 1) * 2 ^ 32 + min m.stall (2 ^ 32 - 1))
def mxWb (m : Mx) : BitVec 64 :=
  let b := fun i => match Tab.find m.banks i with
    | some (c, _) => 2 ^ 15 + c % 4096
    | none => 0
  BitVec.ofNat 64 (b 1 * 2 ^ 48 + b 0 * 2 ^ 32 + m.free % 2 ^ 18)

/-- HB_FWSTAT (R464). -/
def fwStat (s : State) : BitVec 64 := BitVec.ofNat 64 (s.fw.version.toNat * 2 ^ 32 + s.fw.svn.toNat % 65536 * 2 ^ 16 + s.fw.state.toNat)

/-- The registers of one stack's block at 0x2_0000, 0x3_0000 or 0x4_0000. R191 gives SF_NBP_DATA no access code: it reads back
the last word written (DESIGN CHOICE, log 121). -/
def readBlock (s : State) (blk st o : Nat) : BitVec 64 :=
  let h := hubOf s st
  if blk = 2 then (if o = 0 then h.cmd &&& 0xF8F0_0000_07FF_FFFF else if o = 8 then h.data else if o = 16 then tierCtl h else 0)
  else if blk = 3 then
    (if o = 0 then Tab.fetch 0 s.hb.fbStatus st else if o = 8 then Tab.fetch 0 s.hb.kwCount st
     else if 16 ≤ o ∧ o < 48 then kwStoreReg s (4 * st + (o - 16) / 8) else if o = 48 then Tab.fetch 0 s.hb.cellArea st
     else if o = 56 then cellStat s st else 0)
  else
    (if o = 0 ∧ st = 0 then s.hb.nbpCtl else if o = 8 ∧ st = 0 then s.hb.nbpData else if o = 16 then Tab.fetch 0 s.hb.sfStats st
     else if o = 32 then Tab.fetch 0 s.hb.rasStat st else 0)

/-- The 64-bit register at an offset of BAR0; an offset that no register occupies reads zero (R449). -/
def readReg (s : State) (off : Nat) : BitVec 64 :=
  if off < 0x1_0000 then
    match off with
    | 0x10 => s.hb.clusterMap.setWidth 64
    | 0x18 => s.hb.hbId
    | 0x20 => fwStat s
    | 0x40 => s.hb.hostAddr
    | 0x48 => s.hb.hostOp
    | 0x50 => s.hb.hostLen
    | 0x100 => s.hb.ctxTab
    | 0x108 => s.hb.ctxCtl
    | 0x110 => s.hb.ctxData0
    | 0x118 => s.hb.ctxData1
    | _ => if 0x200 ≤ off ∧ off < 0x230 then Tab.fetch 0 s.hb.cxl ((off - 0x200) / 8)
           else if 0x300 ≤ off ∧ off < 0x360 then Tab.fetch 0 s.hb.ports ((off - 0x300) / 8) else 0
  else if off < 0x2_0000 then (if off = 0x1_0000 then s.hb.qtable else if off = 0x1_0008 then s.hb.qctl else 0)
  else if off < 0x5_0000 then (if off / 0x1000 % 16 < 2 then readBlock s (off / 0x1_0000) (off / 0x1000 % 16) (off % 0x1000) else 0)
  else if off < 0x6_0000 then
    let m := mxOf s ((off - 0x5_0000) / 0x100)
    if 22 ≤ (off - 0x5_0000) / 0x100 then 0
    else if off % 0x100 = 0 then mxGov m else if off % 0x100 = 8 then mxStall m else if off % 0x100 = 16 then mxWb m else 0
  else if off = 0x6_0000 then s.hb.thRing else if off = 0x6_0008 then s.hb.thCount else if off = 0x6_0010 then s.hb.thHead
  else if 0x38_0000 ≤ off ∧ off < 0x38_8000 then msixWord s.hb ((off - 0x38_0000) / 8)
  else if 0x38_8000 ≤ off ∧ off < 0x38_8100 then Tab.fetch 0 s.hb.msixPend ((off - 0x38_8000) / 8) else 0

/-- R449: what a naturally aligned read of BAR0 returns; of 4 bytes, that half of the register. `none`: an Unsupported Request. -/
def readBar0 (s : State) (off n : Nat) : Option (BitVec 64) :=
  if n = 8 ∧ off % 8 = 0 then some (readReg s off)
  else if n = 4 ∧ off % 4 = 0 then some (readReg s (off / 8 * 8) >>> (off % 8 * 8) &&& 0xFFFF_FFFF)
  else none

/-! ### Writing a register -/

/-- The event that a command write starts stands first in the agenda. -/
def now (s : State) (e : Instr) : State := { s with agenda := e :: s.agenda }
/-- The value goes with it. -/
def nowWith (s : State) (v : BitVec 64) (e : Instr) : State := now { s with hb := { s.hb with wval := v } } e

/-- HB_CTXCTL (R452). -/
def writeCtxCtl (s : State) (v : Nat) : State :=
  let op := bits v 47 40
  let set := fun (s : State) (x : Nat) => ({ s with hb := { s.hb with ctxCtl := BitVec.ofNat 64 (x + op * 2 ^ 40 + bits v 11 0) } } : State)
  if ctxBusy s then s
  else if 9 ≤ op then set s (2 ^ 56)
  else match op with
    | 1 => now (set s (2 ^ 63)) .ctxBind
    | 2 => now (set s (2 ^ 63)) .ctxUnbind
    | 3 => now (set s (2 ^ 63)) .ctxKill
    | 4 => now (set s (2 ^ 63)) .ctxKillLaunch
    | 5 => now (set s (2 ^ 63)) .ctxResume
    | 6 => now (set s (2 ^ 63)) .ctxSwitchOut
    | 7 => now (set s (2 ^ 63)) .ctxSwitchIn
    | 8 => now (set s (2 ^ 63)) .ctxPreempt
    | _ => set s (bits s.hb.ctxCtl.toNat 62 56 * 2 ^ 56)

/-- QM_QCTL (R407). -/
def writeQctl (s : State) (v : Nat) : State :=
  let op := bits v 39 32
  let set := fun (s : State) (x : Nat) => ({ s with hb := { s.hb with qctl := BitVec.ofNat 64 (x + op * 2 ^ 32 + bits v 15 0) } } : State)
  if qctlBusy s then s
  else match op with
    | 0 => set s (bits s.hb.qctl.toNat 55 48 * 2 ^ 48)
    | 1 => now (set s (2 ^ 63)) .queueLoad
    | 2 => now (set s (2 ^ 63)) .queueDisable
    | 3 => now (set s (2 ^ 63)) .queueReset
    | _ => qctlEnd (set s 0) 1

/-- HB_HOSTOP with BUSY, a status and an OP. -/
def setHostOp (s : State) (busy : Bool) (status op : Nat) : State :=
  { s with hb := { s.hb with hostOp := BitVec.ofNat 64 ((if busy then 2 ^ 63 else 0) + status * 2 ^ 56 + op) } }
def hostOpNo (s : State) : Nat := bits s.hb.hostOp.toNat 7 0
def hostBusy (s : State) : Bool := bit s.hb.hostOp.toNat 63
/-- A host operation has ended with a status; HOSTOP_COMPLETE follows. -/
def hostEnd (s : State) (status : Nat) : State := later (setHostOp s true status (hostOpNo s)) .hostopComplete

/-- HB_HOSTOP (R459). -/
def writeHostOp (s : State) (v : Nat) : State :=
  let op := bits v 7 0
  if hostBusy s then s
  else match op with
    | 1 => now (setHostOp s true 0 op) .hostopResync
    | 2 => now (setHostOp s true 0 op) .fwload
    | 3 => now (setHostOp s true 0 op) .attest
    | _ => hostEnd (setHostOp s true 0 op) 1

/-- XL_HINGE_CMD (R87): the reserved bits written stay until the command has looked at them. -/
def writeHingeCmd (s : State) (st : Nat) (v : BitVec 64) : State :=
  let h := hubOf s st
  let op := bits v.toNat 55 52
  if hingeBusy s st then s
  else if op = 0 then setHub s st { h with cmd := (h.cmd &&& (0xF#64 <<< 59)) ||| (v &&& 0x7FF_FFFF) }
  else
    let s := setHub s st { h with cmd := (v &&& 0x07FF_FFFF_FFFF_FFFF) ||| (1#64 <<< 63), ended := false }
    match op with
    | 1 => now s (.hingeInstall st)
    | 2 => now s (.hingeRelease st)
    | 3 => now s (.hingeRead st)
    | 4 => now s (.hingeDonate st)
    | 5 => now s (.hingeSetaff st)
    | 6 => now s (.hingeGetaff st)
    | _ => hingeEnd s st 1

/-- The registers of one stack's block. XL_HINGE_DATA takes a write while BUSY is 1 (R87's 'A write while BUSY
is 1 is ignored' is read of XL_HINGE_CMD alone), so a SETAFF that waits takes the new operand (DESIGN CHOICE, log 122). -/
def writeQBlock (s : State) (blk st o : Nat) (v : BitVec 64) : State :=
  let h := hubOf s st
  if blk = 2 then
    (if o = 0 then writeHingeCmd s st v
     else if o = 8 then setHub s st { h with data := v }
     else if o = 16 then setHub s st { h with tier := (v &&& 0xFFFF_FFF2) ||| (h.tier &&& 1 &&& ~~~v) }
     else s)
  else if blk = 3 then
    (if 16 ≤ o ∧ o < 48 ∧ o % 8 = 0 then now s (.fbKwStoreWrite st ((o - 16) / 8) v)
     else if o = 48 then now s (.fbCellAreaWrite st v) else s)
  else if st = 0 then
    (if o = 0 then { s with hb := { s.hb with nbpCtl := (s.hb.nbpCtl &&& (1#64 <<< 63)) ||| (v &&& 63) } }
     else if o = 8 then nowWith s v .sfNbpDataWrite else s)
  else s

/-- An 8-byte write, or the whole of a register that a 4-byte write has been merged into. -/
def writeReg (s : State) (off : Nat) (v : BitVec 64) : State :=
  if off < 0x1_0000 then
    match off with
    | 0x18 => nowWith s v .hbIdWrite
    | 0x40 => { s with hb := { s.hb with hostAddr := v } }
    | 0x48 => writeHostOp s v.toNat
    | 0x50 => { s with hb := { s.hb with hostLen := v } }
    | 0x100 => nowWith s v .hbCtxtabWrite
    | 0x108 => writeCtxCtl s v.toNat
    | 0x110 => { s with hb := { s.hb with ctxData0 := v } }
    | 0x118 => { s with hb := { s.hb with ctxData1 := v } }
    | _ => s
  else if off < 0x2_0000 then (if off = 0x1_0000 then nowWith s v .qmQtableWrite else if off = 0x1_0008 then writeQctl s v.toNat else s)
  else if off < 0x5_0000 then (if off / 0x1000 % 16 < 2 then writeQBlock s (off / 0x1_0000) (off / 0x1000 % 16) (off % 0x1000) v else s)
  else if off = 0x6_0000 then { s with hb := { s.hb with thRing := v &&& 0xFFFF_FFFF_FFFF_F01F } }
  else if off = 0x6_0010 then { s with hb := { s.hb with thHead := v } }
  else if 0x38_0000 ≤ off ∧ off < 0x38_8000 then writeMsix s ((off - 0x38_0000) / 8) v
  else s

/-- Registers that a command's BUSY and OP stand in (R449). -/
def commandReg (off : Nat) : Bool := [0x48, 0x108, 0x1_0008, 0x2_0000, 0x2_1000].contains off
/-- The offset of a register's W1C bits, which a write to its other half leaves (R6). -/
def w1cMask (off : Nat) : BitVec 64 := if off = 0x2_0010 ∨ off = 0x2_1010 then 1 else 0

/-- A 4-byte write replaces one half of the register. -/
def mergeHalf (s : State) (off : Nat) (v : BitVec 64) : BitVec 64 :=
  let old := readReg s (off / 8 * 8) &&& ~~~(w1cMask (off / 8 * 8))
  if off % 8 = 0 then (old &&& (0xFFFF_FFFF#64 <<< 32)) ||| (v &&& 0xFFFF_FFFF) else (old &&& 0xFFFF_FFFF) ||| (v <<< 32)

/-- Whether the firmware lets a write through (R459, R466). -/
def regOpen (s : State) (off : Nat) : Bool := s.fw.state == 3 || (s.fw.state == 4 && [0x40, 0x48, 0x50].contains (off / 8 * 8))

/-- An Unsupported Request is logged (R78, R449). -/
def unsupported (s : State) (write : Bool) : State :=
  { s with hb := { s.hb with aer := s.hb.aer + 1, reply := if write then s.hb.reply else none } }

def barAligned (off size : Nat) : Bool := (size == 4 || size == 8) && off % size == 0

/-- R6, R449, REGISTER_WRITE. -/
def execRegisterWrite (off size : Nat) (v : BitVec 64) (s : State) : Out :=
  if 0x40_0000 ≤ off then .next s
  else if !barAligned off size then .next (unsupported s true)
  else if !regOpen s off then .next s
  else if size = 8 then .next (writeReg s off v)
  else if commandReg (off / 8 * 8) then .next s
  else .next (writeReg s (off / 8 * 8) (mergeHalf s off v))

/-- R449, BAR0_UNSUPPORTED_ACCESS. -/
def execBar0UnsupportedAccess (off size : Nat) (write : Bool) (s : State) : Out :=
  .next (if barAligned off size then s else unsupported s write)

/-- R233, FB_CELL_AREA_WRITE. -/
def execFbCellAreaWrite (st : Nat) (w : BitVec 64) (s : State) : Out :=
  .next (if 2 ≤ st ∨ (s.cells.any fun c => c.parked && c.slice / 64 == st) then s
    else { s with hb := { s.hb with cellArea := Tab.store 0 s.hb.cellArea st w } })

/-! ### BAR4 (R78, R98) -/

/-- Frames of a BAR4 access: all backed in an open window, one locked, or neither. -/
def barFrames (la n : Nat) : List Nat := ((List.range n).map fun i => (la + i) / 65536).eraseDups
def barBacked (s : State) (la n : Nat) : Bool :=
  decide (la + n ≤ 2 ^ 43) && (barFrames la n).all fun f => hState (hingeOf s f) != 0 && decide (windowOf (f * 65536) < 5)
def barLocked (s : State) (la n : Nat) : Bool := (barFrames la n).any fun f => hState (hingeOf s f) == 2

/-- R78, BAR4_READ: a locked frame makes it wait (R92); a sector that cannot be read as good gives no data (R99). -/
def execBar4Read (la n : Nat) (s : State) : Out :=
  if !barBacked s la n then .next (unsupported s false)
  else if barLocked s la n then .next (holdBack s (.bar4Read la n))
  else
    let ls := (List.range n).map fun i => (⟨.log, la + i⟩ : Loc)
    let s := touchPlaces (countLines s hostSource false ls) 0 ls
    let good := (poisonedAt s ls).isEmpty
    .next { s with hb := { s.hb with reply := if good then some (logBytes s la n) else none } }

/-- R78, BAR4_WRITE: the line keeps the tag of the frame's owner. -/
def execBar4Write (la : Nat) (data : List (BitVec 8)) (s : State) : Out :=
  if !barBacked s la data.length then .next (unsupported s true)
  else if barLocked s la data.length then .next (holdBack s (.bar4Write la data))
  else
    let ls := (List.range data.length).map fun i => (⟨.log, la + i⟩ : Loc)
    .next (setLogBytes (countLines s hostSource true ls) (hCtx (hingeOf s (la / 65536))) la data)

/-! ### Resync (R460) -/

/-- A queue's record: TAIL, STATE, error code, PROGRESS. -/
def queueRec (x : Queue) : List (BitVec 8) :=
  let st := if !x.on then 0 else if x.err ≠ 0 then 4 else if x.waiting then 3 else if x.tail ≤ x.progress then 1 else 2
  leBytes 6 x.tail ++ leBytes 1 st ++ leBytes 1 x.err ++ leBytes 8 x.progress

/-- The bit map of the contexts that a test picks. -/
def ctxMap (s : State) (p : Ctx → Bool) : List (BitVec 8) :=
  leBytes 512 (s.ctxs.foldl (fun a e => if p e.2 ∧ e.1 < 4096 then a + 2 ^ e.1 else a) 0)

/-- The parts of the summary that are not zero, by offset. -/
def resyncParts (s : State) : List (Nat × List (BitVec 8)) :=
  let b8 := fun (v : BitVec 64) => leBytes 8 v.toNat
  let stack := fun (st : Nat) => (0x40 + 128 * st,
    b8 (readBlock s 3 st 0) ++ b8 (readBlock s 3 st 8) ++ ((List.range 4).flatMap fun q => b8 (readBlock s 3 st (16 + 8 * q))) ++ b8 (readBlock s 3 st 48)
      ++ b8 (readBlock s 3 st 56) ++ b8 (readBlock s 2 st 16) ++ b8 (readBlock s 4 st 16) ++ b8 (readBlock s 4 st 32))
  let clus := fun (cl : Nat) => (0x140 + 24 * cl, b8 (mxGov (mxOf s cl)) ++ b8 (mxStall (mxOf s cl)) ++ b8 (mxWb (mxOf s cl)))
  [(0, leBytes 4 0x5953_4E52 ++ leBytes 2 1), (8, leBytes 8 1052672 ++ leBytes 8 s.time ++ b8 (fwStat s) ++ b8 (readReg s 0x10)), stack 0, stack 1]
    ++ (List.range 22).map clus ++ [(0x400, ctxMap s fun _ => true), (0x600, ctxMap s fun c => c.inNow)]
    ++ (s.queues.filter fun e => decide (e.1 < 65536)).map fun e => (0x1000 + 16 * e.1, queueRec e.2)

abbrev resyncSize : Nat := 1052672

/-- Bytes of host memory written at an untranslated address, the rest of the region zero (R459). -/
def hostFill (s : State) (a n : Nat) (parts : List (Nat × List (BitVec 8))) : State :=
  let s := (s.cells.filter fun c => c.host && decide (c.addr < a + n) && decide (a < c.addr + cellBytes c)).foldl retireCell s
  { s with host := parts.foldl (fun m p => p.2.zipIdx.foldl (fun m b => Memory.write m (a + p.1 + b.2) b.1) m)
            (s.host.filter fun c => decide (c.1 < a) || decide (a + n ≤ c.1)) }

/-- Whether accesses to host memory fail: the host port's station is dead (R116, R459). -/
def hostCut (s : State) : Bool := deadStation s (ioStation 0)

/-- R460, HOSTOP_RESYNC; the low seven bits of the address count as zero. -/
def execHostopResync (s : State) : Out :=
  .next (if hostBusy s ∧ hostOpNo s = 1 then if hostCut s then hostEnd s 3 else hostEnd (hostFill s (s.hb.hostAddr.toNat / 128 * 128) resyncSize (resyncParts s)) 0 else s)

/-- The places of a buffer by pages, or what stops one. -/
def bufferPages (s : State) (ctx key va n : Nat) : EngRes :=
  let first := va / 4096
  engCheck s engQm ctx key 2 ((List.range ((va + n + 4095) / 4096 - first)).map fun i => if i = 0 then va else (first + i) * 4096)

/-- The place of byte `i` of a buffer whose pages' first bytes are given. -/
def bufferLoc (ls : List Loc) (va i : Nat) : Loc :=
  let p := (va + i) / 4096 - va / 4096
  (ls.getD p ⟨.log, 0⟩).plus (if p = 0 then i else (va + i) % 4096)

/-- R460, RESYNC of a queue. -/
def execQueueResync (s : State) : Out :=
  runQueueCmd s fun s q i x c =>
    match bufferPages s x.ctx (queueKey q) c.a resyncSize with
    | .ok ls =>
      let zero := (List.range resyncSize).map fun k => (bufferLoc ls c.a k, (0 : BitVec 8))
      let full := (resyncParts s).flatMap fun p => p.2.zipIdx.map fun b => (bufferLoc ls c.a (p.1 + b.2), b.1)
      cmdDone (writeHome (writeHome s x.ctx zero) x.ctx full) q i
    | r => cmdStop s q i x r

/-- R459, HOSTOP_COMPLETE. -/
def execHostopComplete (s : State) : Out :=
  .next (if hostBusy s then signal (setHostOp s false (bits s.hb.hostOp.toNat 62 56) (hostOpNo s)) 4 else s)

/-! ### Firmware (R463, R464) -/

/-- R463: whether the boot ROM accepts an image. -/
def imageOk (f : Fw) (b : List (BitVec 8)) : Bool :=
  let key := (b.drop 0x10).take 96
  decide (256 ≤ b.length) && fieldAt b 0 4 == 0x4657_4C4D && fieldAt b 0x0C 4 == b.length - 256 && decide (b.length ≤ 256 + 2 ^ 26)
    && zeroFrom b 0xD0 48 && leNat (sha384 key) == f.keyHash.toNat && ecdsaOk key ((b.drop 0x70).take 96) (b.take 0x70 ++ b.drop 256)
    && decide (f.svn.toNat ≤ fieldAt b 8 4)

/-- An image boots: it runs, and the fused version rises to its own. -/
def bootImage (f : Fw) (b : List (BitVec 8)) : Fw :=
  { f with state := 3, version := BitVec.ofNat 32 (fieldAt b 4 4), svn := BitVec.ofNat 32 (max f.svn.toNat (fieldAt b 8 4)), running := b }

/-- The boot ROM's check of the flash image. -/
def bootFlash (f : Fw) : Fw := if imageOk f f.flash then bootImage f f.flash else { f with state := 4, version := 0, running := [] }

/-- R458: HB_CXL as the supervisor fills it before it sets READY: what stands on each port, as `Config.expander` has it. -/
def expanders : Tab (BitVec 64) :=
  ((List.range 6).filter fun e => Config.expander e ≠ 0).map fun e => (e, BitVec.ofNat 64 (2 ^ 63 + min 8388608 (Config.expander e)))

/-- R464, FWLOAD. -/
def execFwload (s : State) : Out :=
  if !hostBusy s ∨ hostOpNo s ≠ 2 then .next s
  else if s.fw.state ≠ 3 ∧ s.fw.state ≠ 4 then .next (hostEnd s 4)
  else
    let n := s.hb.hostLen.toNat
    if n < 256 ∨ 256 + 2 ^ 26 < n then .next (hostEnd s 2)
    else if hostCut s then .next (hostEnd s 3)
    else
      let b := (List.range n).map fun i => hostByte s ((s.hb.hostAddr.toNat + i) % 2 ^ 64)
      if !imageOk s.fw b then .next (hostEnd s 2)
      else
        let f := { s.fw with flash := b }
        .next (hostEnd (if s.fw.state = 4 then { s with fw := bootImage f b, hb := { s.hb with cxl := expanders } } else { s with fw := f }) 0)

/-! ### Attestation (R465) -/

/-- The report without its signature. -/
def attestBody (s : State) (nonce : List (BitVec 8)) : List (BitVec 8) :=
  leBytes 4 0x5454_4154 ++ leBytes 4 1 ++ leBytes 8 s.fw.serial.toNat ++ nonce ++ sha384 Config.bootRom
    ++ sha384 s.fw.running ++ leBytes 4 s.fw.svn.toNat ++ leBytes 4 s.fw.version.toNat
    ++ leBytes 8 s.hb.clusterMap.toNat ++ leBytes 96 Config.identityKey.toNat

/-- R465, ATTEST. -/
def execAttest (s : State) : Out :=
  if !hostBusy s ∨ hostOpNo s ≠ 3 then .next s
  else if s.fw.state ≠ 3 then .next (hostEnd s 4)
  else if hostCut s then .next (hostEnd s 3)
  else
    let a := s.hb.hostAddr.toNat
    let body := attestBody s ((List.range 48).map fun i => hostByte s (a + i))
    let put := fun (s : State) (o : Nat) (bs : List (BitVec 8)) => bs.zipIdx.foldl (fun (s : State) b => setHostByte s (a + o + b.2) b.1) s
    .next (hostEnd (put (put s 0 (body ++ leBytes 96 (Config.sign body).toNat)) 0x200 (leBytes 1536 Config.certificate.toNat)) 0)

/-! ### Reset (R448, R466) -/

/-- Sectors whose check values lie outside the SRAM that a reset clears. -/
def keptSector (l : Loc) : Bool :=
  match l.sp with
  | .frame _ | .peer _ _ | .host => true
  | _ => false

/-- What a reset leaves: memories outside the device, HBM's and the expanders' bytes with their check values, the flash and the
fuses, the ports' and expanders' wiring. -/
def freshState (s : State) : State :=
  { State.reset with
    agenda := []
    near := s.near
    far := s.far
    host := s.host
    peers := s.peers
    poison := s.poison.filter keptSector
    badCheck := s.badCheck.filter keptSector
    fw := { s.fw with state := 0, version := 0, running := [] }
    hb := { HostRegs.reset with clusterMap := s.hb.clusterMap, bar4 := s.hb.bar4, cxl := s.hb.cxl } }

/-- Whether FWLOAD is writing the flash: its end has not been reported, and the image does not run yet (R464). -/
def writingFlash (s : State) : Bool :=
  hostBusy s && hostOpNo s == 2 && bits s.hb.hostOp.toNat 62 56 == 0 && s.agenda.contains .hostopComplete && s.fw.running != s.fw.flash

/-- R466, DEVICE_RESET: the boot ROM's check, then bring-up with every register at its reset value. A write of the flash that it
interrupts leaves an image that is refused (R464). -/
def execDeviceReset (s : State) : Out :=
  let t := freshState s
  let fw := bootFlash { t.fw with flash := if writingFlash s then [] else t.fw.flash }
  .next { t with fw, hb := { t.hb with cxl := if fw.state = 3 then expanders else [] } }

/-- What only a device reset clears: counters of the fabric, the keyway, surfaces, cells, raster and the matrix engines (R114,
R162, R202, R233, R315, R365), the cycle counters (R274), and what is dead (R118). -/
def keepCounts (s t : State) : State :=
  { t with
    cycles := s.cycles
    rounds := s.rounds
    clusters := s.clusters
    stations := (s.stations.filter fun e => e.2.dead).map fun e => (e.1, { blankStation with dead := true })
    links := s.links.filter fun e => decide (16 ≤ e.2)
    mx := s.mx.map fun e => (e.1, { Mx.blank with passes := e.2.passes, stall := e.2.stall })
    hb := { t.hb with fbStatus := s.hb.fbStatus, kwCount := s.hb.kwCount, sfStats := s.hb.sfStats, rasStat := s.hb.rasStat,
                      cellRetired := s.hb.cellRetired } }

/-- R448, FUNCTION_LEVEL_RESET: the function's registers and all its work are gone; the firmware, the clock and the counters that
a device reset alone clears go on. -/
def execFunctionLevelReset (s : State) : Out := .next { keepCounts s (freshState s) with fw := s.fw, time := s.time }

end Sys2Proof.Machine
end

