-- ==== Sys2Proof/Machine/Issue.lean ====
section
/-! DEFINITION. Issue (R55, R391, R416, R417, R247): a cycle of an issue slot, the start of a clause, the guards; the ends of
checks and of results in flight (R58, R424); the watchdog (R439); and what each cycle of the device looks at again. -/
namespace Sys2Proof.Machine

/-! ### What may issue -/

/-- Whether a group's team lets it issue: not being saved, not parked in its latch banks, no class-0 group on its core. -/
def teamGoes (s : State) (g : Group) : Bool :=
  (match Tab.find s.teams g.team with
    | some t => !t.saving && !t.stopped && !t.needLent
    | none => true) && !(g.harvest && classZero s g.core)

/-- Whether the watchdog counts for a group: its team is not parked, nor kept from its lent scratchpad; one whose save goes on is
still resident (R439). -/
def watched (s : State) (g : Group) : Bool :=
  (match Tab.find s.teams g.team with
    | some t => !t.stopped && !t.needLent
    | none => true) && !(g.harvest && classZero s g.core)

/-- Whether a fault record of a group still waits to be written: until then it does not resume (R429). -/
def recWaits (s : State) (g : Group) : Bool :=
  match ctxOf s g with
  | some c => c.fqWait.any fun r => r.kind % 16 == 0 && r.source == g.core && bits r.who 21 16 == g.gid
  | none => false

/-- A group that runs: neither parked nor waiting for its checks (R424, R430). While routes change no core's request would be
injected, and no word is issued (R116; DESIGN CHOICE, log 120). -/
def groupRuns (s : State) (g : Group) : Bool :=
  g.park == .none && g.susp.isNone && !g.killed && teamGoes s g && s.reroute.isNone && !recWaits s g

/-- A split that stands at a header and waits for nothing but its clause's start. -/
def atHeader (g : Group) (sp : Split) : Bool := sp.clause.isNone && !sp.stall && sp.barWait.isNone && modeLets g sp
def readySplits (g : Group) : List (Nat × Split) := g.splits.filter fun e => splitReady g e.2
def groupReady (s : State) (g : Group) : Bool := groupRuns s g && !(readySplits g).isEmpty

/-- The groups bound to an issue slot. -/
def slotGroups (s : State) (core slot : Nat) : List (Nat × Group) := s.groups.filter fun e => e.2.core == core && e.2.islot == slot

/-- R391: the split passed over for 64 issues, the longest first; else the lowest PC, the lower slot on a tie. -/
def guardedSplit (rs : List (Nat × Split)) : Option Nat :=
  ((rs.filter fun e => decide (64 ≤ e.2.passed)).foldl (fun (b : Option (Nat × Split)) e => match b with
    | some x => if x.2.passed < e.2.passed then some e else b
    | none => some e) none).map (·.1)
/-- R391: the ready split of lowest PC, in the table's order (R477's trace orders some ties of its own otherwise: DEDUCED, log 127). -/
def lowestSplit (rs : List (Nat × Split)) : Option Nat :=
  (rs.foldl (fun (b : Option (Nat × Split)) e => match b with
    | some x => if e.2.pc < x.2.pc then some e else b
    | none => some e) none).map (·.1)

/-- The order of R417's second choice: class, placement time, SLOT. -/
def goesBefore (s : State) (a b : Group) : Bool :=
  let ca := ctxPrio s a.ctx
  let cb := ctxPrio s b.ctx
  decide (ca < cb) || (ca == cb && (decide (a.placed < b.placed) || (a.placed == b.placed && decide (a.slot < b.slot))))
def firstGroup (s : State) (gs : List (Nat × Group)) : Option (Nat × Group) :=
  gs.foldl (fun (b : Option (Nat × Group)) e => match b with
    | some x => if goesBefore s e.2 x.2 then some e else b
    | none => some e) none

/-- R417's first choice. -/
def starvedGroup (gs : List (Nat × Group)) : Option (Nat × Group) :=
  (gs.filter fun e => decide (1024 ≤ e.2.passed)).foldl (fun (b : Option (Nat × Group)) e => match b with
    | some x => if x.2.passed < e.2.passed then some e else b
    | none => some e) none

/-- An issue of a group in which a split is not chosen: a ready one has been passed over once more, one that waits begins anew
(R391). -/
def Split.passedOver (g : Group) (sp : Split) : Split :=
  { sp with passed := if splitReady g sp then sp.passed + 1 else if sp.stall || sp.barWait.isSome then 0 else sp.passed }

/-- One split issues the next word; the group's other splits are passed over (R391), and its marks at banks and collectors
have been used (R247). -/
def issueSplit (s : State) (key si : Nat) : State :=
  let s := updG s key fun g =>
    { g with passed := 0, losses := [], marks := [],
             splits := g.splits.map fun e => (e.1, if e.1 = si then { e.2 with passed := 0 } else e.2.passedOver g) }
  { s with issue := some ⟨key, si⟩ }

/-- A group has been chosen: its split is, or the guard of R391 chooses. -/
def issueGroup (s : State) (key : Nat) (g : Group) : State :=
  match guardedSplit (readySplits g) with
  | some i => now s (.splitGuardExpiry key i)
  | none => match lowestSplit (readySplits g) with
    | some i => issueSplit s key i
    | none => s

/-- R391, SPLIT_GUARD_EXPIRY. -/
def execSplitGuardExpiry (key si : Nat) (s : State) : Out :=
  match Tab.find s.groups key with
  | some g => match Tab.find g.splits si with
    | some sp => .next (if groupReady s g ∧ splitReady g sp ∧ 64 ≤ sp.passed then issueSplit s key si else s)
    | none => .next s
  | none => .next s

/-- R417, SLOT_STARVATION_GUARD. -/
def execSlotStarvationGuard (core slot key : Nat) (s : State) : Out :=
  match Tab.find s.groups key with
  | some g => .next (if g.core = core ∧ g.islot = slot ∧ !g.harvest ∧ groupReady s g ∧ 1024 ≤ g.passed then issueGroup s key g else s)
  | none => .next s

/-- One more round lost at a bank (0 to 15) or a collector (16 to 18): the seventh in succession marks the group there. -/
def loseRound (bank : Nat) (g : Group) : Group :=
  if g.marks.contains bank then g
  else
    let n := Tab.fetch 0 g.losses bank + 1
    { g with losses := Tab.put g.losses bank n, marks := if 7 ≤ n then g.marks ++ [bank] else g.marks }

/-- R247, COLLECTOR_MARK: a round that a group loses. Which group wins a round changes timing and no value, and issue cycles here
gather a word's sources at once (DESIGN CHOICE, log 119). -/
def execCollectorMark (key bank : Nat) (s : State) : Out := .next (if bank < 19 then updG s key (loseRound bank) else s)

/-! ### The start of a clause (R52 to R55) -/

/-- R220, R433: a region's entry, and its exit. -/
def enterRegion (s : State) (key : Nat) (sp : Split) : State :=
  updG (commitRegion s key) key fun g =>
    if g.splits.length = 1 then
      { g with inRegion := true, lost := false,
               checkpoint := some { hdr := sp.pc, mask := sp.mask, tsp := sp.tsp, tokens := g.tokens, gm := g.gm } }
    else { g with inRegion := true, lost := true, checkpoint := none }
def leaveRegion (s : State) (key : Nat) : State :=
  updG (commitRegion s key) key fun g => { g with inRegion := false, lost := false, checkpoint := none }

/-- Whether a split arrives at its token's join clause (R389). -/
def arrives (g : Group) (sp : Split) (kind : Nat) : Bool :=
  kind == 3 && (match sp.tsp.bind fun e => Tab.find g.tokens e with
    | some t => t.kind == .token && t.addr == sp.pc
    | none => false)

/-- The tumblers that a header waits for are clear (R55). -/
def waitClear (g : Group) (w : BitVec 32) : Bool := (List.range 12).all fun i => !w.getLsbD i || g.tumbler i == 0

/-- A header that has been fetched: an illegal kind, a never-produced trap, an arrival, a wait, or the clause starts. -/
def reachHeader (s : State) (key si : Nat) (g : Group) (sp : Split) (w : BitVec 32) : State :=
  let k := headerKind w
  let low := (lanesOf g.width sp.mask).headD 0
  if 6 ≤ k ∨ (4 ≤ k ∧ !sp.entry) then takeFault s key si ⟨0x09, 0, 0, low⟩ sp.pc false
  else match g.never with
    | n :: ns => match handlerReady s key g 0x0C with
      | .error (.wait ps) => suspend s key si ps
      | .error .stall => suspend s key si []
      | _ => takeFault (updG s key fun g => { g with never := ns }) key si ⟨0x0C, 0, n, low⟩ sp.pc false
    | [] =>
      if arrives g sp k then checkBars (updG s key fun g => arrive g si) g.team
      else if !waitClear g w then setSplit s key si fun x => { x with stall := true }
      else
        let s := if k = 1 then enterRegion s key sp else if k = 2 then leaveRegion s key else s
        setSplit s key si fun x => { x with pc := sp.pc + 1, clause := some (clauseOf sp.pc w), stall := false, entry := false }

/-- Whether a split has fallen through past the last word of .text: it is ready, and traps when it is chosen (R396). -/
def pastText (s : State) (g : Group) (sp : Split) : Bool :=
  match launchOf s g with
  | some l => decide (l.img.words ≤ sp.pc)
  | none => false

/-- A split at a header starts its clause when it can (R55). -/
def startClause (s : State) (key si : Nat) : State :=
  match Tab.find s.groups key with
  | none => s
  | some g => match Tab.find g.splits si with
    | none => s
    | some sp =>
      if !groupRuns s g ∨ !atHeader g sp then s
      else if pastText s g sp then setSplit s key si fun x => { x with clause := some ⟨sp.pc, 0, 0, 15, 15⟩ }
      else match fetchWord s key g sp.pc with
        | .ok (s, w) => reachHeader s key si g sp w
        | .error (.trap t) => takeFault s key si { t with lane := (lanesOf g.width sp.mask).headD 0 } sp.pc false
        | .error .stall => suspend s key si []
        | .error (.wait ps) => suspend s key si ps
        | .error (.lost d) => takeLoss s key d

/-- R55, CLAUSE_START. -/
def execClauseStart (key si : Nat) (s : State) : Out := .next (startClause s key si)

/-! ### Ends of checks and of results -/

/-- Whether what a group in SERVICE waits for is there (R430). -/
def serviceOver (s : State) (g : Group) : Bool :=
  match g.want with
  | some (.tile h t) => (tslotOf s h t).isSome
  | _ => true

/-- R424, MAY_FAULT_CHECKS_RESOLVED: the word is issued again, its checks made anew; a group in SERVICE goes on, and a saved
team's may be placed again. -/
def execMayFaultChecksResolved (key : Nat) (s : State) : Out :=
  match Tab.find s.groups key with
  | none => match Tab.find s.saved key with
    | some g => .next (if g.park = .service ∧ serviceOver s g then endService s key else s)
    | none => .next s
  | some g =>
    if g.park = .service then .next (if serviceOver s g then updG (endService s key) key fun g => { g with lastIssue := s.time } else s)
    else match g.susp with
      | none => .next s
      | some si =>
        let s := updG s key fun g => { g with susp := none }
        if g.park ≠ .none ∨ g.killed ∨ !teamGoes s g ∨ recWaits s g then .next s
        else match Tab.find g.splits si with
          | some sp => .next (if sp.clause.isSome then { s with issue := some ⟨key, si⟩ } else later s (.clauseStart key si))
          | none => .next s

/-- R58, R438, LONG_LATENCY_COMPLETION: the result lands and its tumbler falls; one that would deliver a poisoned sector
leaves its destination as it is, and the group stops. -/
def execLongLatencyCompletion (key id : Nat) (s : State) : Out :=
  match Tab.find s.groups key with
  | none => .next s
  | some g => match g.pending.find? fun p => p.id == id with
    | none => .next s
    | some p =>
      if !p.ready then .next s
      else
        let go := fun (g : Group) => { g.dropT p.tumbler with
          pending := g.pending.filter fun q => q.id != id, splits := g.splits.map fun e => (e.1, { e.2 with stall := e.2.stall && e.2.clause.isNone }) }
        match p.poison with
        | none => .next (updG s key fun g => go (landPending g p))
        | some (sec, lane) => .next (standing (updG s key go) key (groupRec s g ⟨0x0E, 0, sec, lane⟩ p.pc false))

/-- R439, WATCHDOG_EXPIRY. -/
def execWatchdogExpiry (key t : Nat) (s : State) : Out :=
  let s := atTime s t
  match Tab.find s.groups key with
  | none => .next s
  | some g => match ctxOf s g with
    | none => .next s
    | some c =>
      if c.wdog = 0 ∨ g.park ≠ .none ∨ g.kind = .handler ∨ !watched s g ∨ s.time < g.lastIssue + c.wdog * 1000000 then .next s
      else .next (standing s key (groupRec s g ⟨0x10, 0, 0, 0⟩ ((g.splits.head?.map (·.2.pc)).getD 0) false))

/-! ### What each round of cycles looks at again (log 1) -/

/-- Events whose device time has come. What an ageing measurement finds, and the ceiling that the supervisor then sets (R462), are
free values (log 130). -/
def dueByTime (s : State) : List Instr :=
  let t := s.time
  (s.interests.filter fun e => decide (e.expiry ≤ t)).map (fun e => .interestExpiry e.wp e.key e.ctx t)
  ++ (s.recs.filter fun r => decide (r.expiry ≤ t) && r.began.isNone && r.owe.isNone).map (fun r => .requesterRecordExpiry r.id t)
  ++ (s.groups.filter fun e => e.2.kind == .handler && decide (e.2.deadline ≤ t)).map (fun e => .handlerWatchdog e.1 t)
  ++ (s.groups.filter fun e => e.2.park == .none && (match ctxOf s e.2 with
      | some c => c.wdog != 0 && decide (e.2.lastIssue + c.wdog * 1000000 ≤ t)
      | none => false)).map (fun e => .watchdogExpiry e.1 t)
  ++ (s.queues.filter fun e => e.2.waiting).flatMap (fun e => [.waitComplete e.1, .waitTimeout e.1 t])
  ++ s.teams.filterMap (fun e => match e.2.draining with
      | some r => if r + 20000 ≤ t then some (.drainTimeout e.2.launch e.1 t) else none
      | none => none)
  ++ [0, 1].flatMap (fun st => ((hubOf s st).moves.filter fun m => decide (m.2.2 + 40000 ≤ t)).map fun m => Instr.migrationLockTimeout st m.1 t)
  ++ s.launches.filterMap (fun e => match e.2.since with
      | some b => if b + 100000 ≤ t then some (.placementStarvation e.1 t) else none
      | none => none)
  ++ (s.teams.filter fun e => e.2.resident && decide (e.2.placed + 2000000 ≤ t) && ((coreInfo s e.2.core).hot || (e.2.paired && (coreInfo s (e.2.core + 1)).hot))).map (fun e => .thermalMigration e.2.launch e.1)
  ++ (List.range 22).flatMap (fun cl =>
      let i := clusterInfo s cl
      if !(s.groups.any fun e => e.2.core / 4 == cl) && decide (i.emptied + 10000000 ≤ t) && decide (i.measured ≤ i.emptied) then
        [.ageingMeasurement cl t (Config.ageShift cl t) (Config.ageSlack cl t) (Config.ageCeiling cl t)]
      else if i.measured + 7200000000000 ≤ t then [.forcedAgeingMeasurement cl t (Config.ageShift cl t) (Config.ageSlack cl t) (Config.ageCeiling cl t)]
      else [])
  ++ (match s.reroute with
      | some (b, _) => if b + 20000 ≤ t then [.rerouteResume t] else []
      | none => [])

/-- Work that a locked frame or a full queue made wait: it is tried again. -/
def retries (s : State) : List Instr :=
  (s.engCmds.filter fun m => m.failed.isNone).map (fun m => engEvent m.eng m.id)
  ++ (s.recs.filter fun r => r.began.isSome || r.owe.isSome).map (fun r => .tileArrival r.id)
  ++ s.kflits.flatMap (fun e => match e.2 with
      | .source .. => flitEvents e.1 e.2
      | .refetch .. => flitEvents e.1 e.2
      | _ => [])
  ++ (s.groups ++ s.saved).filterMap (fun e => match e.2.want with
      | some (.tile h t) => some (.tileRestore h t)
      | _ => none)
  ++ (s.raster.tickets.filter fun t => t.arrived).map (fun t => .ropInvocation t.bank)
  ++ (s.teams.filter fun e => e.2.saving).map (fun e => .teamSave e.2.launch e.1)
  ++ (if s.killing.isEmpty then [] else [.killComplete])
  ++ (s.raster.draws.flatMap fun d => if d.started then [.drawComplete d.id] else [.drawAccept d.id])
  ++ (if s.raster.draws.isEmpty then [] else
      [.primitiveSetup 0, .primitiveSetup 1, .quadTicketReserve 0, .quadTicketReserve 1, .fragmentGroupDispatch 0, .fragmentGroupDispatch 1])
  ++ (if ctxBusy s && ctxOp s == 6 then [.ctxSwitchOut] else [])
  ++ (if qctlBusy s then [.qctlComplete] else [])
  ++ (if (waiting s).isEmpty then [] else [.teamPlacement 88])
  ++ (if s.queues.isEmpty then [] else [.commandStart])
  ++ (feedingQueues s).filterMap (fun q => match (fqOf s q).since with
      | some b => if b + 512 ≤ fabricNow s then some (.pawlLaunch q) else none
      | none => none)
  ++ (s.slices.filter fun e => e.2.dirty != 0 && !s.heldWb.contains e.1).head?.toList.map (fun e => .sliceWriteBack e.1)
  ++ s.invals.map (fun x => .atsInvalidation x.1 x.2.1 x.2.2)

/-- What happens every microsecond, and every millisecond, of device time. -/
def periodic (s : State) (before : Nat) : List Instr :=
  (if before / 1000 = s.time / 1000 then [] else
    ((List.range 128).filter stationExists).map .heartbeat ++ (s.sreqs.filter fun r => r.place.isSome).map reqEvent
      ++ ((s.frames.map (·.id)).eraseDups.flatMap (frameEvents s)))
  ++ (if before / 1000000 = s.time / 1000000 then [] else [.migrationEpochEnd 0, .migrationEpochEnd 1])

/-- Nanoseconds from the `n`-th cycle of a clock of `mhz` to the next (R5). -/
def cycleNs (mhz n : Nat) : Nat := (n + 1) * 1000 / mhz - n * 1000 / mhz
/-- Whether a cluster's core clock, of at most 2,400 MHz, has a cycle in this round of the fabric clock (R5, R462). -/
def clusterTicks (s : State) (cl : Nat) : Bool :=
  let mhz := (clusterInfo s cl).ceiling
  decide (s.rounds * mhz / 2400 < (s.rounds + 1) * mhz / 2400)

/-- One round of the device's cycles begins: time goes on by a cycle of the fabric clock (R5). -/
def deviceRound (s : State) : State :=
  let before := s.time
  let s : State := { s with time := s.time + cycleNs 2400 s.rounds, rounds := s.rounds + 1 }
  let s := countStops ((feedingQueues s).foldl noteQueue s)
  let s := (s.ctxs.filter fun e => !e.2.fqWait.isEmpty).foldl (fun s e => flushRecs (e.2.fqWait.length + 1) s e.1) s
  let s := retryHinge (retryHinge s 0) 1
  let s := s.slotFrees.foldl freeSlotState (resumePaused s)
  let s := (s.queues.filter fun e => e.2.dirty).foldl (fun s e => writeProgress s e.1) s
  let s := (openCmds s).foldr (fun c s => runCmd s c.1 c.2.1 (cmdEvent c.2.2)) s
  laterAll s (dueByTime s ++ retries s ++ periodic s before)

/-- One cycle of a cluster's matrix engine, traversal unit and message queue. -/
def clusterRound (s : State) (cl : Nat) : State :=
  let m := mxOf s cl
  let mx : List Instr :=
    if (Tab.find s.mx cl).isNone then []
    else
      (if m.clock + 1024 ≤ mxNow s cl then [.governorWindow cl] else [])
      ++ (if m.tiles.isEmpty then [] else [.matrixPassGrant cl])
      ++ (m.tiles.filter fun t => !t.granted && !t.aged && (match t.since with
          | some b => decide (b + 4096 ≤ mxNow s cl)
          | none => false)).map (fun t => .reservationAging cl t.id)
      ++ (m.tiles.filter fun t => t.granted).map (fun t => .matrixTileWriteback cl t.id)
      ++ (m.slots.filter fun w => w.load.isSome).map (fun w => .mbldReadEnd cl w.ctx w.handle)
  laterAll s (mx ++ (s.rays.filter fun r => r.cl == cl && r.status.isNone).map (fun r => .traversalLaneEnd cl r.id)
    ++ (if s.msgQ.any fun e => e.1 == cl then [.handlerDispatch cl] else []))

/-- A core's first slot counts its cycle. -/
def coreCycle (s : State) (core slot : Nat) : State :=
  if slot ≠ 0 then s
  else
    let s := if core % 4 = 0 then clusterRound s (core / 4) else s
    { s with cycles := Tab.put s.cycles core (Tab.fetch 0 s.cycles core + 1) }

/-! ### One cycle of a slot (R417) -/

/-- The slot's killed groups end here (R446). -/
def killSlot (s : State) (core slot : Nat) : State :=
  ((slotGroups s core slot).filter fun e => e.2.killed).foldl (fun s e => killGroup s e.1) s

/-- The waits of a slot's groups. -/
def slotEvents (s : State) (core slot : Nat) : List Instr :=
  (slotGroups s core slot).flatMap fun e => e.2.waits.map fun w => Instr.waitaRecheck e.1 w.id s.time

/-- The splits of a slot's groups that stand at headers start their clauses, before the slot chooses (R55). -/
def startClauses (s : State) (core slot : Nat) : State :=
  (slotGroups s core slot).foldl (fun s e => (e.2.splits.filter fun x => atHeader e.2 x.2).foldl (fun s x => startClause s e.1 x.1) s) s

/-- Groups that could issue in this cycle. -/
def readyGroups (s : State) (core slot : Nat) : List (Nat × Group) := (slotGroups s core slot).filter fun e => groupReady s e.2

/-- A cycle in which a group is not chosen: a ready owner or handler group has been passed over once more, and one that is not
ready begins anew (R417); the watchdog of a group whose team is stopped counts from its resumption (R439). -/
def standBy (s : State) (g : Group) : Group :=
  { g with passed := if !groupReady s g then 0 else if g.harvest then g.passed else g.passed + 1,
           lastIssue := if watched s g then g.lastIssue else s.time }
/-- The groups of a slot that were not chosen in its cycle. -/
def passOver (s : State) (core slot : Nat) (but : Option Nat) : State :=
  (slotGroups s core slot).foldl (fun s e => if some e.1 = but then s else updG s e.1 (standBy s)) s

/-- What has stalled in a slot's groups is tried again in the cycles after; not in the group that issues now. -/
def unstall (s : State) (core slot : Nat) (but : Option Nat) : State :=
  ((slotGroups s core slot).filter fun e => some e.1 != but && e.2.splits.any fun x => x.2.stall).foldl
    (fun s e => updG s e.1 fun g => { g with splits := g.splits.map fun x => (x.1, { x.2 with stall := x.2.stall && x.2.clause.isNone }) }) s

/-- The word that a slot issues in a cycle. -/
def chooseWord (s : State) (core slot : Nat) : State :=
  let rs := readyGroups s core slot
  let own := rs.filter fun e => !e.2.harvest
  match starvedGroup own with
  | some e => now (passOver s core slot (some e.1)) (.slotStarvationGuard core slot e.1)
  | none => match firstGroup s (if own.isEmpty then rs else own) with
    | some e => issueGroup (unstall (passOver s core slot (some e.1)) core slot (some e.1)) e.1 e.2
    | none => unstall (passOver s core slot none) core slot none

/-- R417, ISSUE_CYCLE: a slot's cycle, if its cluster's clock has one in this round of the fabric clock. -/
def execIssueCycle (core slot : Nat) (s : State) : Out :=
  if 88 ≤ core ∨ 8 ≤ slot then .next s
  else
    let s := if core = 0 ∧ slot = 0 then deviceRound s else s
    if !clusterTicks s (core / 4) then .next s
    else
      let s := killSlot (coreCycle s core slot) core slot
      .next (chooseWord (startClauses (laterAll s (slotEvents s core slot)) core slot) core slot)

end Sys2Proof.Machine
end

