-- ==== Sys2Proof/Machine/Dispatch.lean ====
section
/-! DEFINITION. The dispatcher: one arm per constructor, each a direct call of the instruction's meaning. -/
namespace Sys2Proof.Machine

/-- The meaning of every instruction and event of the opcode table. -/
def exec (i : Instr) (s : State) : Host.Outcome State Fault Refusal :=
  match i with
  | .deviceReset => Sys2Proof.Machine.execDeviceReset s
  | .functionLevelReset => Sys2Proof.Machine.execFunctionLevelReset s
  | .registerWrite off size v => Sys2Proof.Machine.execRegisterWrite off size v s
  | .bar0UnsupportedAccess off size write => Sys2Proof.Machine.execBar0UnsupportedAccess off size write s
  | .bar4Read la n => Sys2Proof.Machine.execBar4Read la n s
  | .bar4Write la data => Sys2Proof.Machine.execBar4Write la data s
  | .hingeInstall st => Sys2Proof.Machine.execHingeInstall st s
  | .hingeRelease st => Sys2Proof.Machine.execHingeRelease st s
  | .hingeRead st => Sys2Proof.Machine.execHingeRead st s
  | .hingeDonate st => Sys2Proof.Machine.execHingeDonate st s
  | .hingeSetaff st => Sys2Proof.Machine.execHingeSetaff st s
  | .hingeGetaff st => Sys2Proof.Machine.execHingeGetaff st s
  | .hingeCmdComplete st => Sys2Proof.Machine.execHingeCmdComplete st s
  | .qmQtableWrite => Sys2Proof.Machine.execQmQtableWrite s
  | .queueLoad => Sys2Proof.Machine.execQueueLoad s
  | .queueDisable => Sys2Proof.Machine.execQueueDisable s
  | .queueReset => Sys2Proof.Machine.execQueueReset s
  | .qctlComplete => Sys2Proof.Machine.execQctlComplete s
  | .queueTail q v => Sys2Proof.Machine.execQueueTail q v s
  | .commandStart => Sys2Proof.Machine.execCommandStart s
  | .queueLaunch => Sys2Proof.Machine.execQueueLaunch s
  | .queueDraw => Sys2Proof.Machine.execQueueDraw s
  | .queueCopy => Sys2Proof.Machine.execQueueCopy s
  | .queueSignal => Sys2Proof.Machine.execQueueSignal s
  | .queueWait => Sys2Proof.Machine.execQueueWait s
  | .waitComplete q => Sys2Proof.Machine.execWaitComplete q s
  | .waitTimeout q t => Sys2Proof.Machine.execWaitTimeout q t s
  | .queueFence => Sys2Proof.Machine.execQueueFence s
  | .queueTimestamp => Sys2Proof.Machine.execQueueTimestamp s
  | .queueSalloc => Sys2Proof.Machine.execQueueSalloc s
  | .queueSfree => Sys2Proof.Machine.execQueueSfree s
  | .queueResync => Sys2Proof.Machine.execQueueResync s
  | .commandComplete q idx => Sys2Proof.Machine.execCommandComplete q idx s
  | .hbCtxtabWrite => Sys2Proof.Machine.execHbCtxtabWrite s
  | .ctxBind => Sys2Proof.Machine.execCtxBind s
  | .ctxUnbind => Sys2Proof.Machine.execCtxUnbind s
  | .ctxKill => Sys2Proof.Machine.execCtxKill s
  | .ctxKillLaunch => Sys2Proof.Machine.execCtxKillLaunch s
  | .ctxResume => Sys2Proof.Machine.execCtxResume s
  | .ctxSwitchOut => Sys2Proof.Machine.execCtxSwitchOut s
  | .ctxSwitchIn => Sys2Proof.Machine.execCtxSwitchIn s
  | .ctxPreempt => Sys2Proof.Machine.execCtxPreempt s
  | .killComplete => Sys2Proof.Machine.execKillComplete s
  | .hostopResync => Sys2Proof.Machine.execHostopResync s
  | .fwload => Sys2Proof.Machine.execFwload s
  | .attest => Sys2Proof.Machine.execAttest s
  | .hostopComplete => Sys2Proof.Machine.execHostopComplete s
  | .sfNbpDataWrite => Sys2Proof.Machine.execSfNbpDataWrite s
  | .bankProgramInstall => Sys2Proof.Machine.execBankProgramInstall s
  | .fbKwStoreWrite st q w => Sys2Proof.Machine.execFbKwStoreWrite st q w s
  | .fbCellAreaWrite st w => Sys2Proof.Machine.execFbCellAreaWrite st w s
  | .hbIdWrite => Sys2Proof.Machine.execHbIdWrite s
  | .atsCompletion st pasid va ok t size r w => Sys2Proof.Machine.execAtsCompletion st pasid va ok t size r w s
  | .translationMiss eng ctx key va need => Sys2Proof.Machine.execTranslationMiss eng ctx key va need s
  | .pageRequestResponse st pasid va ok => Sys2Proof.Machine.execPageRequestResponse st pasid va ok s
  | .atsInvalidation pasid va size => Sys2Proof.Machine.execAtsInvalidation pasid va size s
  | .backgroundZeroingComplete st => Sys2Proof.Machine.execBackgroundZeroingComplete st s
  | .migrationEpochEnd st => Sys2Proof.Machine.execMigrationEpochEnd st s
  | .migrationCopyComplete st frame => Sys2Proof.Machine.execMigrationCopyComplete st frame s
  | .migrationLockTimeout st frame t => Sys2Proof.Machine.execMigrationLockTimeout st frame t s
  | .sliceRequest id => Sys2Proof.Machine.execSliceRequest id s
  | .sliceLineFill line => Sys2Proof.Machine.execSliceLineFill line s
  | .sliceWriteBack line => Sys2Proof.Machine.execSliceWriteBack line s
  | .l1LineFill core line ctx => Sys2Proof.Machine.execL1LineFill core line ctx s
  | .atomicResponseRelease src seq => Sys2Proof.Machine.execAtomicResponseRelease src seq s
  | .orderedAddContribution id => Sys2Proof.Machine.execOrderedAddContribution id s
  | .injectionReserve station => Sys2Proof.Machine.execInjectionReserve station s
  | .pawlLaunch q => Sys2Proof.Machine.execPawlLaunch q s
  | .pawl xi => Sys2Proof.Machine.execPawl xi s
  | .heartbeat station => Sys2Proof.Machine.execHeartbeat station s
  | .heartbeatMiss station neighbour => Sys2Proof.Machine.execHeartbeatMiss station neighbour s
  | .linkRetryFailure station link => Sys2Proof.Machine.execLinkRetryFailure station link s
  | .rerouteResume t => Sys2Proof.Machine.execRerouteResume t s
  | .copyEngineComplete eng id => Sys2Proof.Machine.execCopyEngineComplete eng id s
  | .engineCommandFault eng id cls addr => Sys2Proof.Machine.execEngineCommandFault eng id cls addr s
  | .interestArrival id => Sys2Proof.Machine.execInterestArrival id s
  | .refreshArrival id => Sys2Proof.Machine.execRefreshArrival id s
  | .interestExpiry wp key ctx t => Sys2Proof.Machine.execInterestExpiry wp key ctx t s
  | .requesterRecordExpiry id t => Sys2Proof.Machine.execRequesterRecordExpiry id t s
  | .kputArrival id => Sys2Proof.Machine.execKputArrival id s
  | .closeNoticeArrival id slice => Sys2Proof.Machine.execCloseNoticeArrival id slice s
  | .closeAck id slice => Sys2Proof.Machine.execCloseAck id slice s
  | .tileArrival id => Sys2Proof.Machine.execTileArrival id s
  | .backingRefetchComplete id => Sys2Proof.Machine.execBackingRefetchComplete id s
  | .messageArrival id => Sys2Proof.Machine.execMessageArrival id s
  | .handlerDispatch cl => Sys2Proof.Machine.execHandlerDispatch cl s
  | .handlerWatchdog key t => Sys2Proof.Machine.execHandlerWatchdog key t s
  | .sliceQueueOperation id => Sys2Proof.Machine.execSliceQueueOperation id s
  | .tileEviction st grp handle => Sys2Proof.Machine.execTileEviction st grp handle s
  | .tileRestore handle tile => Sys2Proof.Machine.execTileRestore handle tile s
  | .scrubBurst st grp => Sys2Proof.Machine.execScrubBurst st grp s
  | .nbxCommand st => Sys2Proof.Machine.execNbxCommand st s
  | .orderLockEntry id => Sys2Proof.Machine.execOrderLockEntry id s
  | .ropInvocation bank => Sys2Proof.Machine.execRopInvocation bank s
  | .matrixPassGrant cl => Sys2Proof.Machine.execMatrixPassGrant cl s
  | .reservationAging cl id => Sys2Proof.Machine.execReservationAging cl id s
  | .matrixTileWriteback cl id => Sys2Proof.Machine.execMatrixTileWriteback cl id s
  | .governorWindow cl => Sys2Proof.Machine.execGovernorWindow cl s
  | .contextBankSpill cl ctx => Sys2Proof.Machine.execContextBankSpill cl ctx s
  | .mbldReadEnd cl ctx handle => Sys2Proof.Machine.execMbldReadEnd cl ctx handle s
  | .traversalLaneEnd cl id => Sys2Proof.Machine.execTraversalLaneEnd cl id s
  | .drawAccept id => Sys2Proof.Machine.execDrawAccept id s
  | .primitiveSetup st => Sys2Proof.Machine.execPrimitiveSetup st s
  | .quadTicketReserve st => Sys2Proof.Machine.execQuadTicketReserve st s
  | .fragmentGroupDispatch st => Sys2Proof.Machine.execFragmentGroupDispatch st s
  | .drawComplete id => Sys2Proof.Machine.execDrawComplete id s
  | .issueCycle core slot => Sys2Proof.Machine.execIssueCycle core slot s
  | .splitGuardExpiry key split => Sys2Proof.Machine.execSplitGuardExpiry key split s
  | .slotStarvationGuard core slot key => Sys2Proof.Machine.execSlotStarvationGuard core slot key s
  | .collectorMark key bank => Sys2Proof.Machine.execCollectorMark key bank s
  | .clauseStart key split => Sys2Proof.Machine.execClauseStart key split s
  | .mayFaultChecksResolved key => Sys2Proof.Machine.execMayFaultChecksResolved key s
  | .longLatencyCompletion key id => Sys2Proof.Machine.execLongLatencyCompletion key id s
  | .watchdogExpiry key t => Sys2Proof.Machine.execWatchdogExpiry key t s
  | .teamPlacement core => Sys2Proof.Machine.execTeamPlacement core s
  | .placementStarvation lid t => Sys2Proof.Machine.execPlacementStarvation lid t s
  | .preemptionRequest lid team => Sys2Proof.Machine.execPreemptionRequest lid team s
  | .drainTimeout lid team t => Sys2Proof.Machine.execDrainTimeout lid team t s
  | .teamSave lid team => Sys2Proof.Machine.execTeamSave lid team s
  | .harvestRevocation core reason amount => Sys2Proof.Machine.execHarvestRevocation core reason amount s
  | .thermalLimitCrossing sensor up value limit => Sys2Proof.Machine.execThermalLimitCrossing sensor up value limit s
  | .thermalMigration lid team => Sys2Proof.Machine.execThermalMigration lid team s
  | .ageingMeasurement cl t shift slack ceiling => Sys2Proof.Machine.execAgeingMeasurement cl t shift slack ceiling s
  | .forcedAgeingMeasurement cl t shift slack ceiling => Sys2Proof.Machine.execForcedAgeingMeasurement cl t shift slack ceiling s
  | .peerPortDown p => Sys2Proof.Machine.execPeerPortDown p s
  | .peerReceive dev la data crc poisoned => Sys2Proof.Machine.execPeerReceive dev la data crc poisoned s
  | .nop p xi o => Sys2Proof.Machine.execNop p xi o s
  | .bra p xi o => Sys2Proof.Machine.execBra p xi o s
  | .brx p xi r => Sys2Proof.Machine.execBrx p xi r s
  | .call p xi o => Sys2Proof.Machine.execCall p xi o s
  | .ret => Sys2Proof.Machine.execRet s
  | .jset o => Sys2Proof.Machine.execJset o s
  | .exit p xi => Sys2Proof.Machine.execExit p xi s
  | .trap p xi c => Sys2Proof.Machine.execTrap p xi c s
  | .mset xs v => Sys2Proof.Machine.execMset xs v s
  | .msetReg xs r => Sys2Proof.Machine.execMsetReg xs r s
  | .mget d xs => Sys2Proof.Machine.execMget d xs s
  | .sli d xi => Sys2Proof.Machine.execSli d xi s
  | .slih d xi => Sys2Proof.Machine.execSlih d xi s
  | .pset p v => Sys2Proof.Machine.execPset p v s
  | .psetS p xs => Sys2Proof.Machine.execPsetS p xs s
  | .psetLt p b => Sys2Proof.Machine.execPsetLt p b s
  | .pmov d xi a j b xs => Sys2Proof.Machine.execPmov d xi a j b xs s
  | .vwset v xs => Sys2Proof.Machine.execVwset v xs s
  | .sysr d xs c => Sys2Proof.Machine.execSysr d xs c s
  | .sadd d a b => Sys2Proof.Machine.execSadd d a b s
  | .ssub d a b => Sys2Proof.Machine.execSsub d a b s
  | .smul d a b => Sys2Proof.Machine.execSmul d a b s
  | .smulh d a b => Sys2Proof.Machine.execSmulh d a b s
  | .smad d a b => Sys2Proof.Machine.execSmad d a b s
  | .sand d a b => Sys2Proof.Machine.execSand d a b s
  | .sor d a b => Sys2Proof.Machine.execSor d a b s
  | .sxor d a b => Sys2Proof.Machine.execSxor d a b s
  | .sshl d a b => Sys2Proof.Machine.execSshl d a b s
  | .sshr d a b => Sys2Proof.Machine.execSshr d a b s
  | .ssar d a b => Sys2Proof.Machine.execSsar d a b s
  | .smin d a b => Sys2Proof.Machine.execSmin d a b s
  | .smax d a b => Sys2Proof.Machine.execSmax d a b s
  | .scmp c p a b => Sys2Proof.Machine.execScmp c p a b s
  | .ssel d a b => Sys2Proof.Machine.execSsel d a b s
  | .sbit d xs f => Sys2Proof.Machine.execSbit d xs f s
  | .add d xi a j b => Sys2Proof.Machine.execAdd d xi a j b s
  | .sub d xi a j b => Sys2Proof.Machine.execSub d xi a j b s
  | .mul d xi a j b => Sys2Proof.Machine.execMul d xi a j b s
  | .mulh d xi a j b => Sys2Proof.Machine.execMulh d xi a j b s
  | .mad d xi a j b => Sys2Proof.Machine.execMad d xi a j b s
  | .andB d xi a j b => Sys2Proof.Machine.execAndB d xi a j b s
  | .orB d xi a j b => Sys2Proof.Machine.execOrB d xi a j b s
  | .xorB d xi a j b => Sys2Proof.Machine.execXorB d xi a j b s
  | .shl d xi a j b => Sys2Proof.Machine.execShl d xi a j b s
  | .shr d xi a j b => Sys2Proof.Machine.execShr d xi a j b s
  | .sar d xi a j b => Sys2Proof.Machine.execSar d xi a j b s
  | .minV d xi a j b => Sys2Proof.Machine.execMinV d xi a j b s
  | .maxV d xi a j b => Sys2Proof.Machine.execMaxV d xi a j b s
  | .absd d xi a j b => Sys2Proof.Machine.execAbsd d xi a j b s
  | .addc d xi xs f => Sys2Proof.Machine.execAddc d xi xs f s
  | .bit d xi xs f => Sys2Proof.Machine.execBit d xi xs f s
  | .cmp c p xi a j b => Sys2Proof.Machine.execCmp c p xi a j b s
  | .sel d xi a j b => Sys2Proof.Machine.execSel d xi a j b s
  | .adr d xi xs f => Sys2Proof.Machine.execAdr d xi xs f s
  | .dot8 d xi a j b => Sys2Proof.Machine.execDot8 d xi a j b s
  | .fadd d xi a j b => Sys2Proof.Machine.execFadd d xi a j b s
  | .fsub d xi a j b => Sys2Proof.Machine.execFsub d xi a j b s
  | .fmul d xi a j b => Sys2Proof.Machine.execFmul d xi a j b s
  | .ffma d xi a j b => Sys2Proof.Machine.execFfma d xi a j b s
  | .ffms d xi a j b => Sys2Proof.Machine.execFfms d xi a j b s
  | .ffnma d xi a j b => Sys2Proof.Machine.execFfnma d xi a j b s
  | .ffnms d xi a j b => Sys2Proof.Machine.execFfnms d xi a j b s
  | .fmin d xi a j b => Sys2Proof.Machine.execFmin d xi a j b s
  | .fmax d xi a j b => Sys2Proof.Machine.execFmax d xi a j b s
  | .fcmp c p xi a j b => Sys2Proof.Machine.execFcmp c p xi a j b s
  | .fclass d xi xs => Sys2Proof.Machine.execFclass d xi xs s
  | .frcp d xi xs => Sys2Proof.Machine.execFrcp d xi xs s
  | .frsq d xi xs => Sys2Proof.Machine.execFrsq d xi xs s
  | .fsqrt d xi xs => Sys2Proof.Machine.execFsqrt d xi xs s
  | .fdiv d xi a j b => Sys2Proof.Machine.execFdiv d xi a j b s
  | .fexp2 d xi xs => Sys2Proof.Machine.execFexp2 d xi xs s
  | .flog2 d xi xs => Sys2Proof.Machine.execFlog2 d xi xs s
  | .fsin d xi xs => Sys2Proof.Machine.execFsin d xi xs s
  | .fcos d xi xs => Sys2Proof.Machine.execFcos d xi xs s
  | .frnd d xi xs f => Sys2Proof.Machine.execFrnd d xi xs f s
  | .fscale d xi a j b => Sys2Proof.Machine.execFscale d xi a j b s
  | .ffract d xi xs => Sys2Proof.Machine.execFfract d xi xs s
  | .fdot2 d xi a j b => Sys2Proof.Machine.execFdot2 d xi a j b s
  | .fcsgn d xi a j b => Sys2Proof.Machine.execFcsgn d xi a j b s
  | .cvt d xi xs f => Sys2Proof.Machine.execCvt d xi xs f s
  | .cvtb d xi xs f => Sys2Proof.Machine.execCvtb d xi xs f s
  | .cvtq d xi xs f => Sys2Proof.Machine.execCvtq d xi xs f s
  | .tagset d xi xs f => Sys2Proof.Machine.execTagset d xi xs f s
  | .tagget d xi xs => Sys2Proof.Machine.execTagget d xi xs s
  | .fpack d xi a j b => Sys2Proof.Machine.execFpack d xi a j b s
  | .funpack d xi xs f => Sys2Proof.Machine.execFunpack d xi xs f s
  | .sqz d xi xs f => Sys2Proof.Machine.execSqz d xi xs f s
  | .vmov d xi xs => Sys2Proof.Machine.execVmov d xi xs s
  | .vmovS d xi xs => Sys2Proof.Machine.execVmovS d xi xs s
  | .vmovI d => Sys2Proof.Machine.execVmovI d s
  | .vperm d xi a j b => Sys2Proof.Machine.execVperm d xi a j b s
  | .vtbl d xi a j b => Sys2Proof.Machine.execVtbl d xi a j b s
  | .vshuf d xi a j b => Sys2Proof.Machine.execVshuf d xi a j b s
  | .vred d xi xs f => Sys2Proof.Machine.execVred d xi xs f s
  | .vscan d xi xs f => Sys2Proof.Machine.execVscan d xi xs f s
  | .vballot d p => Sys2Proof.Machine.execVballot d p s
  | .vrel d xi a b => Sys2Proof.Machine.execVrel d xi a b s
  | .vrelSt d xi a b => Sys2Proof.Machine.execVrelSt d xi a b s
  | .ld d xs k a o => Sys2Proof.Machine.execLd d xs k a o s
  | .st d xs k a o => Sys2Proof.Machine.execSt d xs k a o s
  | .ldu z d xs a o => Sys2Proof.Machine.execLdu z d xs a o s
  | .stu z d xs a o => Sys2Proof.Machine.execStu z d xs a o s
  | .ldt d xs k a o => Sys2Proof.Machine.execLdt d xs k a o s
  | .stt d xs k a o => Sys2Proof.Machine.execStt d xs k a o s
  | .ldb d xs a o => Sys2Proof.Machine.execLdb d xs a o s
  | .prf l xs k a o => Sys2Proof.Machine.execPrf l xs k a o s
  | .atom d xs k a o r => Sys2Proof.Machine.execAtom d xs k a o r s
  | .fatom d xs k a o r => Sys2Proof.Machine.execFatom d xs k a o r s
  | .fence xs o => Sys2Proof.Machine.execFence xs o s
  | .bar xs xi => Sys2Proof.Machine.execBar xs xi s
  | .waita d xs n p c g w => Sys2Proof.Machine.execWaita d xs n p c g w s
  | .waitaRecheck key id t => Sys2Proof.Machine.execWaitaRecheck key id t s
  | .wcnt xs n p c k => Sys2Proof.Machine.execWcnt xs n p c k s
  | .dfence d xs => Sys2Proof.Machine.execDfence d xs s
  | .dfenceAll xs => Sys2Proof.Machine.execDfenceAll xs s
  | .gmove d => Sys2Proof.Machine.execGmove d s
  | .qpush d xs n p a => Sys2Proof.Machine.execQpush d xs n p a s
  | .qpop d xs n p a => Sys2Proof.Machine.execQpop d xs n p a s
  | .kwant d xs n p => Sys2Proof.Machine.execKwant d xs n p s
  | .kput d xs n p => Sys2Proof.Machine.execKput d xs n p s
  | .kdrop d xs => Sys2Proof.Machine.execKdrop d xs s
  | .kclose d xs => Sys2Proof.Machine.execKclose d xs s
  | .amsend d xs n p g => Sys2Proof.Machine.execAmsend d xs n p g s
  | .cpy d xs n p g => Sys2Proof.Machine.execCpy d xs n p g s
  | .coll d xs n p g => Sys2Proof.Machine.execColl d xs n p g s
  | .nbx d xs n p g => Sys2Proof.Machine.execNbx d xs n p g s
  | .sld d h n => Sys2Proof.Machine.execSld d h n s
  | .sst d h n => Sys2Proof.Machine.execSst d h n s
  | .salloc d h => Sys2Proof.Machine.execSalloc d h s
  | .sfree h => Sys2Proof.Machine.execSfree h s
  | .spinOn d h => Sys2Proof.Machine.execSpinOn d h s
  | .spinOff d h => Sys2Proof.Machine.execSpinOff d h s
  | .mma d a h => Sys2Proof.Machine.execMma d a h s
  | .mmas d a h => Sys2Proof.Machine.execMmas d a h s
  | .mbld d xs g h => Sys2Proof.Machine.execMbld d xs g h s
  | .mbrel h => Sys2Proof.Machine.execMbrel h s
  | .travStart d g c => Sys2Proof.Machine.execTravStart d g c s
  | .trav d g => Sys2Proof.Machine.execTrav d g s
  | .trepStart d g => Sys2Proof.Machine.execTrepStart d g s
  | .trep d g => Sys2Proof.Machine.execTrep d g s
  | .bunion d xi xs => Sys2Proof.Machine.execBunion d xi xs s
  | .bsah d xi xs => Sys2Proof.Machine.execBsah d xi xs s
  | .npack d xi xs => Sys2Proof.Machine.execNpack d xi xs s
  | .mcode d xi xs => Sys2Proof.Machine.execMcode d xi xs s
  | .thit g p a j b => Sys2Proof.Machine.execThit g p a j b s
  | .gemitPrim d n p => Sys2Proof.Machine.execGemitPrim d n p s
  | .gemitDraw d xs n p => Sys2Proof.Machine.execGemitDraw d xs n p s
  | .frag d t z => Sys2Proof.Machine.execFrag d t z s
  | .sysSrseed xs => Sys2Proof.Machine.execSysSrseed xs s
  | .sysSegset g xs => Sys2Proof.Machine.execSysSegset g xs s
  | .sysTret k => Sys2Proof.Machine.execSysTret k s
  | .peerPortTrained p dev => Sys2Proof.Machine.execPeerPortTrained p dev s
  | .governorBudgetChange cl budget => Sys2Proof.Machine.execGovernorBudgetChange cl budget s

end Sys2Proof.Machine
end

