-- ==== Sys2Proof/Machine/Fetch.lean ====
section
/-! DEFINITION. What a step runs: the word of the split that an issue cycle has chosen, or the next event (log 1). -/
namespace Sys2Proof.Machine

/-- The word at the chosen split, decoded; an illegal word traps at decode (R66), a fetch that must wait or
fails ends as R67 and R424 give. -/
def chosenWord (s : State) (sel : Sel) : State ⊕ (Instr × State) :=
  match Tab.find s.groups sel.key with
  | none => .inl { s with issue := none }
  | some g => match Tab.find g.splits sel.split with
    | none => .inl { s with issue := none }
    | some sp => match fetchWord s sel.key g sp.pc with
      | .ok (s, w) => match decode w with
        | .ok i => .inr (i, s)
        | .error _ => .inl (takeFault s sel.key sel.split ⟨0x08, 0, 0, (lanesOf g.width sp.mask).headD 0⟩ sp.pc false)
      | .error (.trap t) => .inl (takeFault s sel.key sel.split t sp.pc false)
      | .error .stall => .inl (suspend { s with issue := none } sel.key sel.split [])
      | .error (.wait ps) => .inl (suspend { s with issue := none } sel.key sel.split ps)
      | .error (.lost d) => .inl (takeLoss s sel.key d)

/-- Events whose first act is a frame that a station of the rings injects. -/
def injects : Instr → Bool
  | .bar4Read .. | .bar4Write .. | .peerReceive .. => true
  | .sliceRequest .. | .orderedAddContribution .. | .sliceQueueOperation .. | .atomicResponseRelease .. => true
  | .sliceLineFill .. | .sliceWriteBack .. | .l1LineFill .. | .waitaRecheck .. => true
  | .copyEngineComplete .. | .nbxCommand .. | .traversalLaneEnd .. | .mbldReadEnd .. | .drawComplete .. => true
  | .interestArrival .. | .refreshArrival .. | .kputArrival .. | .closeNoticeArrival .. | .closeAck .. | .tileArrival .. => true
  | .backingRefetchComplete .. | .messageArrival .. | .handlerDispatch .. | .teamSave .. | .waitComplete .. => true
  | .queueSignal .. | .queueTimestamp .. | .commandStart | .commandComplete .. | .mayFaultChecksResolved .. => true
  | _ => false

/-- R116: while routes change no station injects; such an event is held back until injection resumes. -/
def heldBack (s : State) (e : Instr) : Bool := s.reroute.isSome && injects e

/-- The instruction of the next step, or the state a failed fetch leaves. With nothing chosen the agenda's first
event is next, or is held back (R116); with an empty agenda the 8 issue slots of the 88 cores take their cycles in turn. -/
def pick (s : State) : State ⊕ (Instr × State) :=
  match s.issue with
  | some sel => chosenWord s sel
  | none => match s.agenda with
    | e :: es => if heldBack s e then .inl (holdBack { s with agenda := es } e) else .inr (e, { s with agenda := es })
    | [] => .inr (.issueCycle (s.rr / 8 % 88) (s.rr % 8), { s with rr := (s.rr + 1) % 704 })

end Sys2Proof.Machine
end

