-- ==== Sys2Proof/Machine/Step.lean ====
section
/-! DEFINITION. One step of the machine. -/
namespace Sys2Proof.Machine

/-- One step: the chosen word, or the next event. -/
def step (s : State) : Host.Outcome State Fault Refusal :=
  match pick s with
  | .inl t => .next t
  | .inr (i, t) => exec i t

/-- A group of 16 lanes as R382 starts one, with its clause started at the header (word 0) and the split at word 1. -/
def State.probeGroup : Group where
  ctx := 1
  launch := 1
  team := 2
  gid := 0
  kind := .ordinary
  harvest := false
  width := 16
  regBytes := 16384
  divdepth := 16
  core := 0
  slot := 0
  islot := 0
  placed := 0
  reloc := 0
  regs := []
  tags := []
  sregs := []
  preds := []
  views := [(0, 0x0070_0040_0000_0000), (1, 0x0020_0080_0000_2000), (2, 0x0004_0400_0000_3000), (3, 0x0070_0040_0000_0000)]
  gm := gmReset
  srg := 0x6A09_E667
  segs := [(0, ⟨0, 0, true, true, true⟩), (7, ⟨0, 256, true, true, false⟩)]
  mb := []
  tumblers := []
  ops := []
  splits := [(0, { pc := 1, mask := 0xFFFF, tsp := none, clause := some ⟨0, 15, 15, 0, 0⟩, stall := false, back := [],
                   barWait := none, entry := false, passed := 0 })]
  tokens := []
  inRegion := false
  lost := false
  checkpoint := none
  buf := []
  pending := []
  waits := []
  susp := none
  park := .none
  want := none
  trapMask := none
  never := []
  killed := false
  passed := 0
  losses := []
  marks := []
  lastIssue := 0
  deadline := 0
  xyz := (0, 0, 0)
  quads := []

/-- The launch of that group: 64 words of text in host memory at address 65,536. -/
def State.probeLaunch : Launch where
  lid := 0
  ctx := 1
  img := { width := 16, groups := 1, divdepth := 16, regBytes := 16384, scratch := 0, paired := false, coop := false,
           views := [], text := 65536, words := 64, live := [], consts := 0, constSize := 0 }
  x := 1
  y := 1
  z := 1
  consts := 0
  constLen := 0
  pvBase := 0
  pvLane := 0
  nextTeam := 1
  exited := 0
  residency := []
  killed := false
  queue := 0
  cmd := 0
  kind := .ordinary
  draw := 0
  room := []
  since := none

def State.probeTeam : Team where
  launch := 1
  tid := 0
  core := 0
  sp0 := 0
  sp1 := 0
  scratch := 0
  paired := false
  harvest := false
  placed := 0
  started := 0
  resident := true
  slot := 0
  restart := false
  stopped := false
  needLent := false
  saving := false
  moving := false
  draining := none
  live := 1

def State.probeCtx : Ctx where
  pasid := 1
  prio := 0
  harvest := false
  priv := true
  squota := 0
  htab := 0
  trapEntry := 0
  fqBase := 0
  fqPtr := 0
  fqLog2 := 6
  fqVec := 0
  trapMask := 0
  wdog := 0
  nslot := 0
  saveBase := 0
  slotSize := 0
  cgTab := 0
  peerTab := 0
  inNow := true
  leaving := false
  fqCount := 0
  fqDropped := 0
  fqWait := []
  nextDraw := 0

/-- `s` with the word `w` at a resident group's split that is chosen to issue: a context, a launch, a team and a
group of it on core 0, the word in host memory and in the core's instruction cache, its page in the core's
translation cache (log 2). -/
def State.withFetchWord (s : State) (_nbits w : Nat) : State :=
  { s with
    groups := Tab.put s.groups 3 State.probeGroup
    teams := Tab.put s.teams 2 State.probeTeam
    launches := Tab.put s.launches 1 State.probeLaunch
    ctxs := Tab.put s.ctxs 1 State.probeCtx
    host := putBytes s.host (65536 + 4) (leBytes 4 w)
    icache := Tab.put s.icache (2 ^ 40 + 1) (BitVec.ofNat 32 w)
    tcache := { eng := 0, ctx := 1, va := 65536, size := 4096, t := 65536, r := true, w := true, backed := 0 } :: s.tcache
    nextId := max s.nextId 4
    agenda := []
    issue := some ⟨3, 0⟩ }
where
  /-- Bytes written one after another. -/
  putBytes (m : List Host.Cell) (a : Nat) : List (BitVec 8) → List Host.Cell
    | [] => m
    | b :: bs => putBytes (Memory.write m a b) (a + 1) bs

end Sys2Proof.Machine
end

