-- ==== Sys2Proof/Safety.lean ====
section
/-! DEFINITION. What counts as a safe run, and the terms in which claims speak of a step. -/
namespace Sys2Proof.Machine

/-- A step that goes on: neither a fault nor a refusal. -/
def Safe (s : State) : Prop := ∃ t, step s = .next t

/-- The four sparse memories are in canonical form. -/
def State.memWf (s : State) : Bool :=
  Memory.wf s.near && Memory.wf s.far && Memory.wf s.host && Memory.wf s.peers

/-- The split that `State.issue` names, its group and its effective mask are those of `c`. -/
def Issues (s : State) (c : WCtx) : Prop := issueCtx s = some c

/-! ### What a word leaves alone -/

/-- The machine outside the issuing group after a word: everything is as it was but the scheduling fields (the issue is
spent, the counter of free values has gone on), the group's spent check results, the events `ag` that the word appends
and the `ids` keys it hands out. No other group changes, and no byte of any memory. -/
structure OnlyGroup (s t : State) (c : WCtx) (ag : List Instr) (ids : Nat) : Prop where
  rest : t = { s with groups := t.groups, xfaults := t.xfaults, issue := none, fresh := s.fresh + 1,
                      agenda := s.agenda ++ ag, nextId := s.nextId + ids }
  others : ∀ k, k ≠ c.key → Tab.find t.groups k = Tab.find s.groups k
  bytes : ∀ l, homeByte t l = homeByte s l

/-- A split after another of its group has issued a word: one that stalls at a word may try again; one that waits at a header
goes on waiting for what it waits for. -/
def Split.awake (x : Split) : Split := { x with stall := x.stall && x.clause.isNone }

/-- The issuing split has gone on to the next word (R45, R52), or, where the word was one that issued again (R60), back
to where the split stood; splits that stall at a word may try again; nothing else of the split table has changed. -/
structure NextWord (c : WCtx) (g g' : Group) : Prop where
  here : ∀ sp, Tab.find g.splits c.si = some sp → (∀ b ∈ sp.back.head?, b.1 ≠ c.sp.pc) →
    Tab.find g'.splits c.si = some { sp with pc := c.sp.pc + 1, clause := clauseAt c.sp.clause (c.sp.pc + 1), stall := false }
  again : ∀ sp pc k ls ws, Tab.find g.splits c.si = some sp → sp.back = (c.sp.pc, pc, k, ls) :: ws →
    Tab.find g'.splits c.si = some { sp with pc := pc, clause := k, stall := false, back := ws }
  there : ∀ k, k ≠ c.si → Tab.find g'.splits k = (Tab.find g.splits k).map Split.awake

/-- A word that completes: `o` is a next state in which the split has gone on, only the issuing group has changed, and
`R` holds between the group before and after. -/
def Completes (o : Out) (s : State) (c : WCtx) (ag : List Instr) (ids : Nat) (R : Group → Group → Prop) : Prop :=
  ∃ t, o = .next t ∧ OnlyGroup s t c ag ids ∧
    ∀ g, Tab.find s.groups c.key = some g → ∃ g', Tab.find t.groups c.key = some g' ∧ NextWord c g g' ∧ R g g'

/-- The group is unchanged but for its split table and the marks that every completed word clears. -/
def Kept (s : State) (g g' : Group) : Prop :=
  g' = { g with splits := g'.splits, susp := none, want := none, lastIssue := s.time }

/-! ### What a word writes -/

/-- Of the group only the active lanes of `rows` and those rows' tags, now `tag`, have changed (R244), and the generator
holds `srg`. -/
structure RowsOnly (s : State) (c : WCtx) (rows : List Nat) (tag : Nat) (srg : BitVec 32) (g g' : Group) : Prop where
  rest : g' = { g with regs := g'.regs, tags := g'.tags, srg := srg, splits := g'.splits, susp := none, want := none,
                       lastIssue := s.time }
  kept : ∀ row lane, lane < g.width → (row ∉ rows ∨ lane ∉ c.lanes) → g'.elem row lane = g.elem row lane
  tag : ∀ row, g'.rowTag row = if row ∈ rows then BitVec.ofNat 5 tag else g.rowTag row

/-- Register `d` (of V, or of W when `wide`) holds in every active lane `l` a value of which `P l` holds, and its rows
carry `tag`; no other row element or register has changed. -/
def WritesRow (s : State) (c : WCtx) (wide : Bool) (d : Nat) (P : Nat → Nat → Prop) (tag : Nat) (srg : BitVec 32)
    (g g' : Group) : Prop :=
  RowsOnly s c (g.regRows wide d) tag srg g g' ∧ ∀ l ∈ c.lanes, P l (g'.val wide d l)

/-- Scalar register `d` holds `v`; every other register is as it was. -/
structure WritesScalar (s : State) (d : Nat) (v : BitVec 64) (g g' : Group) : Prop where
  rest : g' = { g with sregs := g'.sregs, splits := g'.splits, susp := none, want := none, lastIssue := s.time }
  value : ∀ i, g'.s i = if i = d then v else g.s i

/-- Predicate `p` holds `f l` in every active lane `l`, but p7 keeps reading 1 (R51); every other predicate and lane is
as it was. -/
def PredIs (c : WCtx) (p : Nat) (f : Nat → Bool) (g g' : Group) : Prop :=
  ∀ q l, q < 8 → l < g.width →
    (g'.pred q).getLsbD l = if q = p ∧ p ≠ 7 ∧ l ∈ c.lanes then f l else (g.pred q).getLsbD l

/-- The same, and no other register has changed. -/
def WritesPred (s : State) (c : WCtx) (p : Nat) (f : Nat → Bool) (g g' : Group) : Prop :=
  g' = { g with preds := g'.preds, splits := g'.splits, susp := none, want := none, lastIssue := s.time } ∧ PredIs c p f g g'

/-- A long-latency word at its issue (R56, R58): one result in flight is added, under the next key, counted by the
tumbler of the word's position; nothing of the group but the generator, which holds `srg`, has changed yet. `L` says what
the group is once the result has landed, and `poison` the poisoned sector that the result carries, with the lane that read it. -/
def Pends (s : State) (c : WCtx) (srg : BitVec 32) (poison : Option (Nat × Nat)) (L : Group → Group → Prop) (g g' : Group) : Prop :=
  ∃ p, g'.pending = g.pending ++ [p] ∧ p.id = s.nextId ∧ p.ready = true ∧ p.poison = poison ∧ p.tumbler = tumblerOf c.sp
    ∧ p.pc = c.sp.pc
    ∧ g' = { g with pending := g'.pending, tumblers := g'.tumblers, srg := srg, splits := g'.splits, susp := none, want := none,
                    lastIssue := s.time }
    ∧ (∀ t, g'.tumbler t = g.tumbler t + if tumblerOf c.sp = some t then 1 else 0)
    ∧ L g { landPending g' p with pending := g.pending, tumblers := g.tumblers }

/-- The tumbler that the word would set can count one more (R56). -/
def TumblerFree (c : WCtx) : Prop := ∀ t, tumblerOf c.sp = some t → c.g.tumbler t < 63

/-- The value that a lane holds across `n` rows from v(d) up, low row first (R292). -/
def catVal (g : Group) (d n l : Nat) : Nat := joinElems 32 ((List.range n).map fun j => g.val false (d + j) l)

/-- The rows of `n` V registers from v(d) up, and that they are distinct, as every legal view makes them (R241). -/
def rowsUp (g : Group) (d n : Nat) : List Nat := (List.range n).map fun j => g.rowNo 0 (d + j) 0

/-! ### What a word reads -/

/-- The value of a scalar source code: a register, or an immediate from 64 up (R258). -/
def srcVal (g : Group) (a : BitVec 7) : BitVec 64 := if a.toNat < 64 then g.s a.toNat else BitVec.ofNat 64 (a.toNat - 64)

/-- Every register that a word names lies in its view and has an accepted tag (R243, R245). -/
def Readable (c : WCtx) (os : List Opnd) : Prop := ∀ o ∈ os, o.bad c.g = false ∧ o.badTag c.g = false

/-- Element `k` of a row value under a type, as a number (R24, R32). -/
def elemNum (ty v k : Nat) : Int := elemInt ty (elemAt (tWidth ty) v k)

/-- R260: the element's bits `v` for the exact result `r`. -/
def Narrowed (ty : Nat) (sat : Bool) (r : Int) (v : Nat) : Prop :=
  if sat then v < 2 ^ tWidth ty ∧ elemInt ty v = max (tyMin ty) (min (tyMax ty) r) else (v : Int) = r % ((2 ^ tWidth ty : Nat) : Int)

/-- The conditions of R265 on two scalars. -/
def scalarCond (k : Nat) (x y : BitVec 64) : Bool :=
  match k with
  | 0 => x == y
  | 1 => x != y
  | 2 => x.slt y
  | 3 => x.sle y
  | 4 => y.slt x
  | 5 => y.sle x
  | 6 => x.ult y
  | 7 => x.ule y
  | 8 => y.ult x
  | _ => y.ule x

/-- R35: the draw of element `k` of lane `l` in a word of `n` results per lane, in lane and element order; none when
gm.ROUNDING is not SR or SR does not apply to the destination. -/
def srDrawOf (c : WCtx) (dst n l k : Nat) : Option Nat :=
  if c.g.rnd = 5 ∧ srApplies dst then some (srBits (srStep^[n * c.lanes.idxOf l + k + 1] c.g.srg)) else none

/-- R35: the generator after that word. -/
def srgAfter (c : WCtx) (dst n : Nat) : BitVec 32 :=
  if c.g.rnd = 5 ∧ srApplies dst then srStep^[n * c.lanes.length] c.g.srg else c.g.srg

/-- No element of an active lane detects a condition, or conditions do not trap (R39). -/
def Quiet (c : WCtx) (n : Nat) (f : Nat → Nat → FRes) : Prop :=
  c.g.trapFp = true → ∀ l ∈ c.lanes, ∀ k < n, (f l k).inv = false ∧ (f l k).dz = false ∧ (f l k).ov = false

/-! ### What a control word does -/

/-- The split table: the splits `new` under their keys, every other key as before (R388, R390). -/
def SplitsAre (new : List (Nat × Split)) (g g' : Group) : Prop :=
  ∀ k, Tab.find g'.splits k = (Tab.find new k).or ((Tab.find g.splits k).map Split.awake)

/-- The token table: the entries `new` under their keys, every other key as before. -/
def TokensAre (new : List (Nat × Token)) (g g' : Group) : Prop :=
  ∀ k, Tab.find g'.tokens k = (Tab.find new k).or (Tab.find g.tokens k)

/-- A control word that completes: a next state in which of all groups only the issuing one has changed, and of it only
the split table and the token table, between which `R` holds. -/
def Redirects (o : Out) (s : State) (c : WCtx) (R : Group → Group → Prop) : Prop :=
  ∃ t, o = .next t ∧ OnlyGroup s t c [] 0 ∧
    ∀ g, Tab.find s.groups c.key = some g → ∃ g', Tab.find t.groups c.key = some g'
      ∧ g' = { g with splits := g'.splits, tokens := g'.tokens, susp := none, want := none, lastIssue := s.time } ∧ R g g'

/-- No split anywhere waits at a barrier. -/
def NoBarrier (s : State) : Prop := ∀ e ∈ s.groups, ∀ x ∈ e.2.splits, x.2.barWait = none

/-- A word whose result is in flight under `id`: of the group only the results in flight, to which one of which `P` holds
is added, the word's tumbler and the split table have changed (R56, R58). -/
def InFlight (s : State) (c : WCtx) (id : Nat) (P : Pending → Prop) (g g' : Group) : Prop :=
  ∃ p, g'.pending = g.pending ++ [p] ∧ p.id = id ∧ p.tumbler = tumblerOf c.sp ∧ p.pc = c.sp.pc ∧ P p
    ∧ g' = { g with pending := g'.pending, tumblers := g'.tumblers, splits := g'.splits, susp := none, want := none, lastIssue := s.time }
    ∧ ∀ t, g'.tumbler t = g.tumbler t + if tumblerOf c.sp = some t then 1 else 0

/-- A group that has started one operation of a class: its counter is one higher, nothing else has changed (R131). -/
def StartsOp (s : State) (cls : Nat) (g g' : Group) : Prop :=
  g' = { g with ops := g'.ops, splits := g'.splits, susp := none, want := none, lastIssue := s.time }
    ∧ ∀ k, g'.counter k = g.counter k + if k = cls then 1 else 0

/-- The fault that a word's check answers: `takeFault` at the word, before any effect of it (R67). -/
def Traps (o : Out) (s : State) (c : WCtx) (cls detail addr lane : Nat) : Prop :=
  o = .next (takeFault s c.key c.si ⟨cls, detail, addr, lane⟩ c.sp.pc false)

end Sys2Proof.Machine
end

