-- ==== Sys2Proof/Certificates/Slice0/Obligations.lean ====
section
/-! DEFINITION. The statements for the provers. -/

open Sys2Proof Sys2Proof.Machine

/-- R258, R261, R262: the scalar integer words. -/
def Obligations.ScalarIntegerResults : Prop :=
  ∀ (s : State) (c : WCtx) (d a b : BitVec 7), Issues s c → c.eff ≠ 0 →
    let x := srcVal c.g a
    let y := srcVal c.g b
    let puts (i : Instr) (v : BitVec 64) : Prop := Completes (exec i s) s c [] 0 (WritesScalar s d.toNat v)
    puts (.sadd d a b) (x + y) ∧ puts (.ssub d a b) (x - y) ∧ puts (.smul d a b) (x * y)
      ∧ puts (.smulh d a b) (BitVec.ofInt 64 (x.toInt * y.toInt / 2 ^ 64))
      ∧ puts (.smad d a b) (x * y + c.g.s d.toNat)
      ∧ puts (.sand d a b) (x &&& y) ∧ puts (.sor d a b) (x ||| y) ∧ puts (.sxor d a b) (x ^^^ y)
      ∧ puts (.sshl d a b) (x <<< y.toNat) ∧ puts (.sshr d a b) (x >>> y.toNat) ∧ puts (.ssar d a b) (x.sshiftRight y.toNat)
      ∧ puts (.smin d a b) (if x.sle y then x else y) ∧ puts (.smax d a b) (if x.sle y then y else x)

/-- R264 to R266 on scalars. -/
def Obligations.ScalarCompareSelectBits : Prop :=
  ∀ (s : State) (c : WCtx) (k : BitVec 4) (p : BitVec 3) (d a b : BitVec 7) (f : BitVec 9), Issues s c →
    let x := srcVal c.g a
    let old := c.g.s d.toNat
    let y := c.g.s (a.toNat + 1)
    let pos := bits y.toNat 6 0
    let len := bits y.toNat 14 8
    let hi := min (pos + len) 64
    let field := if len = 0 ∨ 64 ≤ pos then none else some (hi - pos)
    (c.eff ≠ 0 → k.toNat ≤ 9 →
      Completes (exec (.scmp k p a b) s) s c [] 0 (WritesPred s c p.toNat fun _ => scalarCond k.toNat x (srcVal c.g b)))
    ∧ Completes (exec (.ssel d a b) s) s c [] 0
        (WritesScalar s d.toNat (if c.g.guard.getLsbD ((lanesOf c.g.width c.sp.mask).headD 0) then x else srcVal c.g b))
    ∧ (c.eff ≠ 0 → f.toNat ≤ 7 → ∃ r : BitVec 64, Completes (exec (.sbit d a f) s) s c [] 0 (WritesScalar s d.toNat r)
      ∧ (f = 0 → r = BitVec.ofNat 64 ((List.range 64).countP x.getLsbD))
      ∧ (f = 1 → r = x.clz) ∧ (f = 2 → r = x.reverse.clz) ∧ (f = 3 → r = x.reverse)
      ∧ (f = 4 → r = match field with
          | none => 0
          | some n => BitVec.ofNat 64 (x.toNat / 2 ^ pos % 2 ^ n))
      ∧ (f = 5 → r = match field with
          | none => 0
          | some n => BitVec.ofInt 64 (toS n (x.toNat / 2 ^ pos)))
      ∧ (f = 6 → r = match field with
          | none => old
          | some n => BitVec.ofNat 64 (old.toNat % 2 ^ pos + 2 ^ pos * (x.toNat % 2 ^ n) + old.toNat / 2 ^ hi * 2 ^ hi))
      ∧ (f = 7 → ∀ i < 8, r.extractLsb' (8 * i) 8 = x.extractLsb' (8 * (7 - i)) 8))

/-- R61, R62, R270 and `sys.srseed` of R447. -/
def Obligations.ModeRegisterWords : Prop :=
  ∀ (s : State) (c : WCtx) (d x r : BitVec 7) (v : BitVec 17) (q : BitVec 6) (n : BitVec 9), Issues s c → c.eff ≠ 0 →
    let setGm (g g' : Group) (sel val : Nat) : Prop :=
      g' = { g with gm := g'.gm, splits := g'.splits, susp := none, want := none, lastIssue := s.time }
        ∧ bits g'.gm.toNat (gmLow sel + gmWid sel - 1) (gmLow sel) = val
        ∧ ∀ k, (k < gmLow sel ∨ gmLow sel + gmWid sel ≤ k) → g'.gm.getLsbD k = g.gm.getLsbD k
    (msetBad x.toNat v.toNat = false →
      Completes (exec (.mset x v) s) s c [] 0 fun g g' => setGm g g' x.toNat v.toNat)
    ∧ (x.toNat ≤ 8 → (c.g.s q.toNat).toNat < 2 ^ gmWid x.toNat → gmForbidden x.toNat (c.g.s q.toNat).toNat = false →
      Completes (exec (.msetReg x q) s) s c [] 0 fun g g' => setGm g g' x.toNat (c.g.s q.toNat).toNat)
    ∧ (n.toNat ≤ 8 → Completes (exec (.mget d n) s) s c [] 0
        (WritesScalar s d.toNat (BitVec.ofNat 64 (bits c.g.gm.toNat (gmLow n.toNat + gmWid n.toNat - 1) (gmLow n.toNat)))))
    ∧ Completes (exec (.sysSrseed r) s) s c [] 0 fun g g' =>
        g' = { g with srg := if (c.g.s r.toNat).setWidth 32 = 0 then 0x6A09_E667 else (c.g.s r.toNat).setWidth 32,
                      splits := g'.splits, susp := none, want := none, lastIssue := s.time }

/-- R51, R272. -/
def Obligations.PredicateWords : Prop :=
  ∀ (s : State) (c : WCtx) (p a b : BitVec 3) (v i j : BitVec 1) (q : BitVec 6) (n : BitVec 7) (x : BitVec 9), Issues s c → c.eff ≠ 0 →
    let P (k : BitVec 3) (inv : BitVec 1) (l : Nat) : Bool := (c.g.pred k.toNat).getLsbD l != (inv == 1)
    ((∀ w : BitVec 32, (w.toNat / 2 ^ 25 = 0x0C ∧ (w.toNat / 2 ^ 16 % 4 = 3 ∨ (w.toNat / 2 ^ 16 % 4 = 2 ∧ 64 < w.toNat % 2 ^ 16)))
        ∨ (w.toNat / 2 ^ 25 = 0x0D ∧ w.getLsbD 9 = true) → ∃ e, decode w = .error e)
      ∧ ((x.toNat ≤ 3) ↔ WellFormed (.pmov p i a j b x)) ∧ (n.toNat ≤ 64 ↔ WellFormed (.psetLt p n))
      ∧ WellFormed (.pset p v) ∧ WellFormed (.psetS p q))
    ∧ Completes (exec (.pset p v) s) s c [] 0 (WritesPred s c p.toNat fun _ => v == 1)
    ∧ Completes (exec (.psetS p q) s) s c [] 0 (WritesPred s c p.toNat fun l => (c.g.s q.toNat).getLsbD l)
    ∧ Completes (exec (.psetLt p n) s) s c [] 0 (WritesPred s c p.toNat fun l => decide (l < n.toNat))
    ∧ (c.g.width ≤ 64 → x.toNat ≤ 3 → Completes (exec (.pmov p i a j b x) s) s c [] 0 (WritesPred s c p.toNat fun l =>
        match x.toNat with
        | 0 => P a i l
        | 1 => P a i l && P b j l
        | 2 => P a i l || P b j l
        | _ => P a i l != P b j l))

/-- R241, R273, and `sys.segset` of R447. R274: what `sysr` reads. -/
def Obligations.ViewSegmentSystemWords : Prop :=
  (
    ∀ (s : State) (c : WCtx) (v : BitVec 2) (q : BitVec 6) (k : BitVec 3) (r : BitVec 7), Issues s c → c.eff ≠ 0 →
      let x := c.g.s q.toNat
      let at1 := c.g.s (r.toNat + 1)
      let trap (t : Trap) : Out := .next (takeFault s c.key c.si t c.sp.pc false)
      let priv := ∃ k, ctxOf s c.g = some k ∧ k.priv = true
      (viewLegal c.g.width c.g.regBytes v.toNat x = true → Completes (exec (.vwset v q) s) s c [] 0 fun g g' =>
        g' = { g with views := g'.views, splits := g'.splits, susp := none, want := none, lastIssue := s.time }
          ∧ ∀ n, g'.view n = if n = v.toNat then x.toNat else g.view n)
      ∧ (viewLegal c.g.width c.g.regBytes v.toNat x = false → exec (.vwset v q) s = trap ⟨0x08, 1, 0, c.low⟩)
      ∧ (priv → bits at1.toNat 63 48 = 0 → Completes (exec (.sysSegset k r) s) s c [] 0 fun g g' =>
        g' = { g with segs := g'.segs, splits := g'.splits, susp := none, want := none, lastIssue := s.time }
          ∧ (g'.seg k.toNat).base = c.g.s r.toNat ∧ (g'.seg k.toNat).limit = at1.extractLsb' 0 45
          ∧ (g'.seg k.toNat).rd = at1.getLsbD 45 ∧ (g'.seg k.toNat).wr = at1.getLsbD 46
          ∧ (g'.seg k.toNat).unb = at1.getLsbD 47 ∧ ∀ n, n ≠ k.toNat → g'.seg n = g.seg n)
      ∧ (¬ priv → exec (.sysSegset k r) s = trap ⟨0x03, 1 + 4 * k.toNat, 0, c.low⟩))
  ∧ (
    ∀ (s : State) (c : WCtx) (d : BitVec 7) (x : BitVec 3) (k : BitVec 9), Issues s c → c.eff ≠ 0 →
      ∃ v : BitVec 64, Completes (exec (.sysr d x k) s) s c [] 0 (WritesScalar s d.toNat v)
        ∧ (k = 0 → v = BitVec.ofNat 64 c.g.core) ∧ (k = 1 → v = BitVec.ofNat 64 (c.g.core / 4))
        ∧ (k = 3 → v = BitVec.ofNat 64 c.g.slot) ∧ (k = 4 → v = BitVec.ofNat 64 c.g.width)
        ∧ (k = 10 → v = BitVec.ofNat 64 c.g.reloc) ∧ (k = 11 → v = BitVec.ofNat 64 s.time)
        ∧ (k = 12 → v = BitVec.ofNat 64 (Tab.fetch 0 s.cycles c.g.core)) ∧ (k = 13 → v = BitVec.ofNat 64 c.g.ctx)
        ∧ (k = 16 → v = c.sp.mask) ∧ (k = 17 → v = liveLanes c.g) ∧ (k = 18 → v = BitVec.ofNat 64 c.g.tokens.length)
        ∧ (k = 19 → v = BitVec.ofNat 64 c.g.regBytes) ∧ (k = 22 → v = c.g.srg.setWidth 64)
        ∧ (k = 23 → v = (c.g.seg x.toNat).base)
        ∧ (k = 24 → v.extractLsb' 0 45 = (c.g.seg x.toNat).limit ∧ v.getLsbD 45 = (c.g.seg x.toNat).rd
            ∧ v.getLsbD 46 = (c.g.seg x.toNat).wr ∧ v.getLsbD 47 = (c.g.seg x.toNat).unb ∧ v.extractLsb' 48 16 = 0)
        ∧ (k = 28 → v = BitVec.ofNat 64 (c.g.view (x.toNat % 4))) ∧ (k = 29 → v = BitVec.ofNat 64 c.g.splits.length)
        ∧ (k = 30 → v = BitVec.ofNat 64 c.g.divdepth) ∧ (k = 31 → v = 0x1658)
        ∧ ∀ (l : Launch) (t : Team), launchOf s c.g = some l → teamOf s c.g = some t →
            (k = 5 → v = BitVec.ofNat 64 t.tid) ∧ (k = 8 → v = BitVec.ofNat 64 c.g.gid) ∧ (k = 9 → v = BitVec.ofNat 64 l.img.groups)
            ∧ (k = 14 → v = BitVec.ofNat 64 l.lid))

/-- R259 to R262: the arithmetic integer words, element by element. -/
def Obligations.IntegerElementResults : Prop :=
  ∀ (s : State) (c : WCtx) (d : BitVec 7) (i : BitVec 2) (a : BitVec 7) (j : BitVec 2) (b : BitVec 7),
    Issues s c → c.eff ≠ 0 → tInt c.g.ty = true →
    let ty := c.g.ty
    let w := tWide ty
    let oa := opA w i a .arith
    let ob := opB w j b .arith
    let od := opD w d .arith
    let E (v k : Nat) : Nat := elemAt (tWidth ty) v k
    let X (l k : Nat) : Int := elemNum ty (oa.val c.g l) k
    let Y (l k : Nat) : Int := elemNum ty (ob.val c.g l) k
    let Z (l k : Nat) : Int := elemNum ty (od.val c.g l) k
    let puts (n : Instr) (P : Nat → Nat → Nat → Prop) : Prop :=
      Completes (exec n s) s c [] 0 (WritesRow s c w d.toNat (fun l v => ∀ k < elemCount ty, P l k (E v k)) ty c.g.srg)
    (Readable c [opD w d, oa, ob] →
      puts (.add d i a j b) (fun l k v => Narrowed ty c.g.sat (X l k + Y l k) v)
      ∧ puts (.sub d i a j b) (fun l k v => Narrowed ty c.g.sat (X l k - Y l k) v)
      ∧ puts (.mul d i a j b) (fun l k v => Narrowed ty c.g.sat (X l k * Y l k) v)
      ∧ puts (.absd d i a j b) (fun l k v => Narrowed ty c.g.sat ((X l k - Y l k).natAbs : Int) v)
      ∧ puts (.mulh d i a j b) (fun l k v => (v : Int) = X l k * Y l k / ((2 ^ tWidth ty : Nat) : Int) % ((2 ^ tWidth ty : Nat) : Int))
      ∧ puts (.minV d i a j b) (fun l k v => v = if X l k ≤ Y l k then E (oa.val c.g l) k else E (ob.val c.g l) k)
      ∧ puts (.maxV d i a j b) (fun l k v => v = if X l k ≤ Y l k then E (ob.val c.g l) k else E (oa.val c.g l) k))
    ∧ (Readable c [od, oa, ob] → puts (.mad d i a j b) (fun l k v => Narrowed ty c.g.sat (X l k * Y l k + Z l k) v))

/-- R259, R261, R266: logic, shifts and `sel`. -/
def Obligations.LogicAndShiftResults : Prop :=
  ∀ (s : State) (c : WCtx) (d : BitVec 7) (i : BitVec 2) (a : BitVec 7) (j : BitVec 2) (b : BitVec 7), Issues s c →
    let ty := c.g.ty
    let w := tWide ty
    let e := tWidth ty
    let oa := opA w i a .bitwise
    let ob := opB w j b .bitwise
    let oc := opB w j b .free
    let puts (n : Instr) (P : Nat → Nat → Prop) : Prop := Completes (exec n s) s c [] 0 (WritesRow s c w d.toNat P ty c.g.srg)
    let shifts (n : Instr) (f : Nat → Nat → Nat → Prop) : Prop :=
      puts n fun l v => ∀ k < elemCount ty, f (elemAt e (oa.val c.g l) k) (elemAt e (oc.val c.g l) k) (elemAt e v k)
    (c.eff ≠ 0 → ty ≤ 16 → Readable c [opD w d, oa, ob] →
      puts (.andB d i a j b) (fun l v => v = oa.val c.g l &&& ob.val c.g l)
      ∧ puts (.orB d i a j b) (fun l v => v = oa.val c.g l ||| ob.val c.g l)
      ∧ puts (.xorB d i a j b) (fun l v => v = oa.val c.g l ^^^ ob.val c.g l))
    ∧ (c.eff ≠ 0 → (tInt ty = true ∨ ty = tRAW) → Readable c [opD w d, oa, oc] →
      shifts (.shl d i a j b) (fun x n v => v = if e ≤ n then 0 else x * 2 ^ n % 2 ^ e)
      ∧ shifts (.shr d i a j b) (fun x n v => v = x / 2 ^ n)
      ∧ shifts (.sar d i a j b) (fun x n v => (v : Int) = toS e x / ((2 ^ n : Nat) : Int) % ((2 ^ e : Nat) : Int)))
    ∧ (ty ≤ 16 → Readable c [opD w d, oa, ob] →
      Completes (exec (.sel d i a j b) s) s c [] 0 (WritesRow s { c with eff := c.sp.mask } w d.toNat
        (fun l v => v = if c.g.guard.getLsbD l then oa.val c.g l else ob.val c.g l) ty c.g.srg))

/-- R263 to R265, R267, R268. -/
def Obligations.CarryBitsCompareAddress : Prop :=
  ∀ (s : State) (c : WCtx) (d : BitVec 7) (i : BitVec 2) (a : BitVec 7) (j : BitVec 2) (b : BitVec 7) (f : BitVec 9)
    (k : BitVec 4) (p : BitVec 3), Issues s c → c.eff ≠ 0 →
    let ty := c.g.ty
    let w := tWide ty
    let e : Nat := if w then 64 else 32
    let od := opD w d .arith
    let oa := opA w i a .arith
    let ob := opB w j b .arith
    let ox := opA w i a .bitwise
    let ctl := 4 ≤ f.toNat ∧ f.toNat ≤ 6
    let y (l : Nat) : Nat := if ctl then controlVal c.g w i a l else 0
    let oo := opA false i a .free
    let hi : Opnd := ⟨3, false, d.toNat + 1, 0, .free⟩
    let acc := dotAcc ty
    let sum (l : Nat) : Int := (if 2 ≤ f.toNat then -1 else 1) * ((oa.val c.g l : Int)
      + (if f.toNat % 2 = 1 ∧ (c.g.pred 6).getLsbD l then 1 else 0)) + od.val c.g l
    (adm32 ty = true → f.toNat ≤ 3 → Readable c [od, oa] →
      Completes (exec (.addc d i a f) s) s c [] 0 fun g g' =>
        WritesRow s c w d.toNat (fun l v => (v : Int) = sum l % ((2 ^ e : Nat) : Int)) ty c.g.srg g { g' with preds := g.preds }
          ∧ PredIs c 6 (fun l => decide (sum l < 0 ∨ ((2 ^ e : Nat) : Int) ≤ sum l)) g g')
    ∧ (admBit ty = true → f.toNat ≤ 7 →
      Readable c ([opD w d (if f.toNat = 6 then .bitwise else .free), ox] ++ if ctl ∧ a.toNat < 112 then [bitControl w i a] else []) →
      Completes (exec (.bit d i a f) s) s c [] 0 (WritesRow s c w d.toNat
        (fun l v => v = bitOp f.toNat e (ox.val c.g l) ((opD w d).val c.g l) (y l) % 2 ^ e)
        (if f.toNat < 3 then (if w then tU64 else tU32) else ty) c.g.srg))
    ∧ (adm32 ty = true → k.toNat ≤ 9 → Readable c [oa, ob] →
      Completes (exec (.cmp k p i a j b) s) s c [] 0 (WritesPred s c p.toNat fun l =>
        condHolds k.toNat (tSigned ty) e (oa.val c.g l) (ob.val c.g l)))
    ∧ (f.toNat ≤ 3 → c.g.rowNo 0 (d.toNat + 1) 0 ≠ c.g.rowNo 0 d.toNat 0 → Readable c [opD false d, oo, hi] →
      Completes (exec (.adr d i a f) s) s c [] 0 fun g g' =>
        RowsOnly s c [g.rowNo 0 d.toNat 0, g.rowNo 0 (d.toNat + 1) 0] tU32 c.g.srg g g' ∧ ∀ l ∈ c.lanes,
          let x := oo.val c.g l
          let n : Int := if f = 1 then (x : Int) else toS 32 x
          ((g'.val false d.toNat l + 2 ^ 32 * g'.val false (d.toNat + 1) l : Nat) : Int)
            = (((opD false d).val c.g l + 2 ^ 32 * hi.val c.g l : Nat) + n * (if f = 2 then 4 else if f = 3 then 8 else 1)) % 2 ^ 64)
    ∧ ((ty = tU8 ∨ ty = tI8) → Readable c [opD false d (.codes [acc]), opA false i a .arith, opB false j b .arith] →
      Completes (exec (.dot8 d i a j b) s) s c [] 0 (WritesRow s c false d.toNat (fun l v =>
        Narrowed acc c.g.sat (elemInt acc ((opD false d).val c.g l)
          + ((List.range 4).map fun n => elemNum ty (oa.val c.g l) n * elemNum ty (ob.val c.g l) n).sum) v) acc c.g.srg))

/-- R249 to R252. -/
def Obligations.MoveWords : Prop :=
  ∀ (s : State) (c : WCtx) (d : BitVec 7) (i : BitVec 2) (a : BitVec 7) (j : BitVec 2) (b : BitVec 7), Issues s c → c.eff ≠ 0 →
    let ty := c.g.ty
    let w := tWide ty
    let om := opA w i a .move
    let oi := opB w j b .free
    let nm := opA false i a .move
    let ni := opB false j b .free
    let xa := opA false i a .bitwise
    let xb := opB false j b .bitwise
    (Readable c [opD w d, om] →
      Completes (exec (.vmov d i a) s) s c [] 0 (WritesRow s c w d.toNat (fun l v => v = om.val c.g l) (om.tag c.g) c.g.srg))
    ∧ (Readable c [om] →
      Completes (exec (.vmovS d i a) s) s c [] 0 (WritesScalar s (d.toNat - 112) (BitVec.ofNat 64 (om.val c.g c.low))))
    ∧ (Readable c [opD false d] →
      Completes (exec (.vmovI d) s) s c [] 0 (WritesRow s c false d.toNat (fun l v => v = l % 2 ^ 32) tU32 c.g.srg))
    ∧ (Readable c [opD w d, om, oi] →
      Completes (exec (.vperm d i a j b) s) s c [] 0 (WritesRow s c w d.toNat
        (fun l v => v = om.val c.g (oi.val c.g l % 2 ^ 32 % c.g.width)) (om.tag c.g) c.g.srg))
    ∧ ((ty = tU8 ∨ ty = tI8) → Readable c [opD false d, nm, ni] →
      Completes (exec (.vtbl d i a j b) s) s c [] 0 (WritesRow s c false d.toNat (fun l v => ∀ k < 4,
        let x := elemAt 8 (ni.val c.g l) k
        elemAt 8 v k = if 112 ≤ a.toNat
          then ((c.g.s (a.toNat - 111) ++ c.g.s (a.toNat - 112)).extractLsb' (8 * (x % 16)) 8).toNat
          else elemAt 8 (nm.val c.g (x % (4 * c.g.width) / 4)) (x % 4)) ty c.g.srg))
    ∧ (w = false → Readable c [opD false d, xa, xb] →
      Completes (exec (.vshuf d i a j b) s) s c [] 0 (WritesRow s c false d.toNat (fun l v => ∀ k < 4,
        let q := elemAt 8 ((opD false d).val c.g l) k
        elemAt 8 v k = if 128 ≤ q then 0 else if q % 8 < 4 then elemAt 8 (xa.val c.g l) (q % 8) else elemAt 8 (xb.val c.g l) (q % 8 - 4))
        ty c.g.srg))

/-- R41, R253 to R257. -/
def Obligations.LaneWords : Prop :=
  ∀ (s : State) (c : WCtx) (d : BitVec 7) (i : BitVec 2) (a b : BitVec 7) (f : BitVec 9) (p : BitVec 3), Issues s c → c.eff ≠ 0 →
    let ty := c.g.ty
    let w := tWide ty
    let op := f.toNat
    let oa := opA w i a (if op < 3 then .arith else .bitwise)
    let tree (k : Nat) : FRes := (redTree (redOp c.g op) (levels c.w) (redColumn c op oa k)).headD { bits := 0 }
    let scan (k : Nat) : List FRes :=
      (List.range (levels c.w)).foldl (fun xs n => scanStep (fun x y => redOp c.g op { bits := x.bits } y) xs (2 ^ n)) (redColumn c op oa k)
    let oi := opA w i a .free
    let ix (l : Nat) : Int := (b.toNat : Int) + toS 32 (oi.val c.g l)
    let view := if w then 1 else 0
    let inView := ∀ l ∈ c.lanes, 0 ≤ ix l ∧ ix l < c.g.vCount view
    (admRed op ty = true → Readable c [opD w d, oa] → c.g.trapFp = false →
      Completes (exec (.vred d i a f) s) s c [] 0 (WritesRow s c w d.toNat (fun l v => l < c.g.width → ∀ k < elemCount ty,
        elemAt (tWidth ty) v k = (tree k).bits % 2 ^ tWidth ty) ty c.g.srg)
      ∧ Completes (exec (.vscan d i a f) s) s c [] 0 (WritesRow s c w d.toNat (fun l v => ∀ k < elemCount ty,
        elemAt (tWidth ty) v k = ((scan k).getD l { bits := 0 }).bits % 2 ^ tWidth ty) ty c.g.srg))
    ∧ (112 ≤ d.toNat → c.g.width ≤ 64 → ∃ m : BitVec 64, Completes (exec (.vballot d p) s) s c [] 0 (WritesScalar s (d.toNat - 112) m)
      ∧ ∀ l < 64, m.getLsbD l = (decide (l ∈ c.lanes) && (c.g.pred p.toNat).getLsbD l))
    ∧ (Readable c [opD w d, oi] → inView →
      (∀ l ∈ c.lanes, ∀ m ∈ c.lanes, c.g.regTag view (ix l).toNat = c.g.regTag view (ix m).toNat ∧ c.g.regTag view (ix l).toNat ≠ none) →
      Completes (exec (.vrel d i a b) s) s c [] 0 (WritesRow s c w d.toNat (fun l v => v = c.g.val w (ix l).toNat l)
        ((c.g.regTag view (ix c.low).toNat).getD 0) c.g.srg))
    ∧ (Readable c [opD w d .move, oi] → inView →
      Completes (exec (.vrelSt d i a b) s) s c [] 0 fun g g' =>
        g' = { g with regs := g'.regs, tags := g'.tags, splits := g'.splits, susp := none, want := none, lastIssue := s.time }
          ∧ (∀ l ∈ c.lanes, g'.val w (ix l).toNat l = (opD w d).val c.g l)
          ∧ (∀ row lane, lane < g.width → (∀ l ∈ c.lanes, lane = l → row ∉ g.regRows w (ix l).toNat) → g'.elem row lane = g.elem row lane)
          ∧ ∀ row, g'.rowTag row = if ∃ l ∈ c.lanes, row ∈ g.regRows w (ix l).toNat
              then BitVec.ofNat 5 ((opD w d).tag c.g) else g.rowTag row)

/-- R276 to R289: the element-wise floating-point words. -/
def Obligations.FloatElementResults : Prop :=
  ∀ (s : State) (c : WCtx) (d : BitVec 7) (i : BitVec 2) (a : BitVec 7) (j : BitVec 2) (b : BitVec 7) (m : BitVec 9),
    Issues s c → c.eff ≠ 0 → tFloat c.g.ty = true →
    let ty := c.g.ty
    let w := tWide ty
    let e := tWidth ty
    let n := elemCount ty
    let rdn := c.g.rnd == 3
    let oa := opA w i a .arith
    let ob := opB w j b .arith
    let od := opD w d .arith
    let V (o : Opnd) (l k : Nat) : Nat := elemAt e (o.val c.g l) k
    let X (l k : Nat) : XV := unpack (fmtOf ty) (V oa l k)
    let Y (l k : Nat) : XV := unpack (fmtOf ty) (V ob l k)
    let Z (l k : Nat) : XV := unpack (fmtOf ty) (V od l k)
    let puts (n' : Instr) (os : List Opnd) (f : Nat → Nat → FRes) : Prop :=
      Readable c os → Quiet c n f → Completes (exec n' s) s c [] 0
        (WritesRow s c w d.toNat (fun l v => ∀ k < n, elemAt e v k = (f l k).bits % 2 ^ e) ty (srgAfter c ty n))
    let rounds (x : Nat → Nat → XV) (l k : Nat) : FRes := roundTo (fmtOf ty) c.g.rnd c.g.sat (srDrawOf c ty n l k) (x l k)
    let two := [opD w d, oa, ob]
    let three := [od, oa, ob]
    puts (.fadd d i a j b) two (rounds fun l k => xadd rdn (X l k) (Y l k))
    ∧ puts (.fsub d i a j b) two (rounds fun l k => xadd rdn (X l k) (Y l k).negate)
    ∧ puts (.fmul d i a j b) two (rounds fun l k => xmul (X l k) (Y l k))
    ∧ puts (.ffma d i a j b) three (rounds fun l k => xadd rdn (xmul (X l k) (Y l k)) (Z l k))
    ∧ puts (.ffms d i a j b) three (rounds fun l k => xadd rdn (xmul (X l k) (Y l k)) (Z l k).negate)
    ∧ puts (.ffnma d i a j b) three (rounds fun l k => xadd rdn (xmul (X l k) (Y l k)).negate (Z l k))
    ∧ puts (.ffnms d i a j b) three (rounds fun l k => xadd rdn (xmul (X l k) (Y l k)).negate (Z l k).negate)
    ∧ puts (.fscale d i a j b) [opD w d, oa, opB w j b .free]
        (rounds fun l k => xscale (scaleCap (toS e (V (opB w j b .free) l k))) (X l k))
    ∧ puts (.ffract d i a) [opD w d, oa] (fun l k => fractOf c.g (srDrawOf c ty n l k) (V oa l k))
    ∧ puts (.frnd d i a m) [opD w d, oa] (fun l k => roundTo (fmtOf ty) 0 false none (xintegral m.toNat (X l k)))
    ∧ puts (.fmin d i a j b) two (fun l k => fminmax (fmtOf ty) false (V oa l k) (V ob l k))
    ∧ puts (.fmax d i a j b) two (fun l k => fminmax (fmtOf ty) true (V oa l k) (V ob l k))
    ∧ (Readable c two → Completes (exec (.fcsgn d i a j b) s) s c [] 0 (WritesRow s c w d.toNat (fun l v => ∀ k < n,
        ∀ q < e, bit (elemAt e v k) q = if q = e - 1 then bit (V ob l k) q else bit (V oa l k) q) ty (srgAfter c ty n)))

/-- R283, R284, R288. The predicate of a lane whose packed elements differ is a free value (log 18). -/
def Obligations.FloatCompareClassDot : Prop :=
  ∀ (s : State) (c : WCtx) (d : BitVec 7) (k : BitVec 4) (p : BitVec 3) (i : BitVec 2) (a : BitVec 7) (j : BitVec 2) (b : BitVec 7),
    Issues s c → c.eff ≠ 0 →
    let ty := c.g.ty
    let w := tWide ty
    let e := tWidth ty
    let n := elemCount ty
    let oa := opA w i a .arith
    let ob := opB w j b .arith
    let V (o : Opnd) (l q : Nat) : Nat := elemAt e (o.val c.g l) q
    let holds (l q : Nat) : Bool × Bool := fcondHolds k.toNat (unpack (fmtOf ty) (V oa l q)) (unpack (fmtOf ty) (V ob l q))
    (tFloat ty = true → Readable c [oa, ob] → (c.g.trapFp = true → ∀ l ∈ c.lanes, ∀ q < n, (holds l q).2 = false) →
      ∃ f : Nat → Bool, Completes (exec (.fcmp k p i a j b) s) s c [] 0 (WritesPred s c p.toNat f)
        ∧ ∀ l ∈ c.lanes, ∀ v, (∀ q < n, (holds l q).1 = v) → f l = v)
    ∧ (tFloat ty = true → Readable c [opD false d, oa] →
      Completes (exec (.fclass d i a) s) s c [] 0 (WritesRow s c false d.toNat
        (fun l v => if e = 16 then ∀ q < 2, elemAt 16 v q = classMask (fmtOf ty) (V oa l q) else v = classMask (fmtOf ty) (V oa l 0))
        (if e = 16 then tU16 else tU32) c.g.srg))
    ∧ ((ty = tF16 ∨ ty = tBF16) → Readable c [opD false d (.codes [tF32]), opA false i a .arith, opB false j b .arith] →
      let prod (l q : Nat) : XV := xmul (unpack (fmtOf ty) (V oa l q)) (unpack (fmtOf ty) (V ob l q))
      let r (l : Nat) : FRes := roundTo (fmtOf tF32) c.g.rnd c.g.sat none
        (xadd (c.g.rnd == 3) (xadd (c.g.rnd == 3) (unpack (fmtOf tF32) ((opD false d).val c.g l)) (prod l 0)) (prod l 1))
      Quiet c 1 (fun l _ => r l) →
      Completes (exec (.fdot2 d i a j b) s) s c [] 0 (WritesRow s c false d.toNat (fun l v => v = (r l).bits % 2 ^ 32) tF32 c.g.srg))

/-- R56, R58, R278, R290, R291: which neighbour `frsq` and the transcendentals return is a free value (logs 7 and 8). -/
def Obligations.LongFloatResults : Prop :=
  ∀ (s : State) (c : WCtx) (d : BitVec 7) (i : BitVec 2) (a : BitVec 7) (j : BitVec 2) (b : BitVec 7),
    Issues s c → c.eff ≠ 0 → tFloat c.g.ty = true → TumblerFree c →
    let ty := c.g.ty
    let w := tWide ty
    let e := tWidth ty
    let n := elemCount ty
    let oa := opA w i a .arith
    let ob := opB w j b .arith
    let V (o : Opnd) (l k : Nat) : Nat := elemAt e (o.val c.g l) k
    let X (l k : Nat) : XV := unpack (fmtOf ty) (V oa l k)
    let puts (n' : Instr) (os : List Opnd) (f : Nat → Nat → FRes) : Prop :=
      Readable c os → Quiet c n f → Completes (exec n' s) s c [.longLatencyCompletion c.key s.nextId] 1
        (Pends s c (srgAfter c ty n) none
          (WritesRow s c w d.toNat (fun l v => ∀ k < n, elemAt e v k = (f l k).bits % 2 ^ e) ty (srgAfter c ty n)))
    let draw (l k : Nat) := srDrawOf c ty n l k
    puts (.fdiv d i a j b) [opD w d, oa, ob] (fun l k => divRes c.g (draw l k) (X l k) (unpack (fmtOf ty) (V ob l k)))
    ∧ puts (.frcp d i a) [opD w d, oa] (fun l k => divRes c.g (draw l k) (.fin false 1 1 0) (X l k))
    ∧ puts (.fsqrt d i a) [opD w d, oa] (fun l k => roundTo (fmtOf ty) c.g.rnd c.g.sat (draw l k) (xsqrt (X l k)))
    ∧ puts (.frsq d i a) [opD w d, oa] (fun l k => rsqOf c.g (V oa l k))
    ∧ puts (.fexp2 d i a) [opD w d, oa] (fun l k => exp2Of c.g (V oa l k))
    ∧ puts (.flog2 d i a) [opD w d, oa] (fun l k => log2Of c.g (V oa l k))
    ∧ puts (.fsin d i a) [opD w d, oa] (fun l k => sinOf false c.g (V oa l k))
    ∧ puts (.fcos d i a) [opD w d, oa] (fun l k => sinOf true c.g (V oa l k))

/-- R39, R425, R427. -/
def Obligations.ArithmeticFaults : Prop :=
  ∀ (s : State) (c : WCtx) (d : BitVec 7) (i : BitVec 2) (a : BitVec 7) (j : BitVec 2) (b : BitVec 7) (l : Nat),
    Issues s c → c.eff ≠ 0 → tFloat c.g.ty = true → c.g.trapFp = true → l ∈ c.lanes →
    let ty := c.g.ty
    let w := tWide ty
    let n := elemCount ty
    let rdn := c.g.rnd == 3
    let oa := opA w i a .arith
    let ob := opB w j b .arith
    let od := opD w d .arith
    let V (o : Opnd) (m k : Nat) : Nat := elemAt (tWidth ty) (o.val c.g m) k
    let U (o : Opnd) (m k : Nat) : XV := unpack (fmtOf ty) (V o m k)
    let rounds (x : XV) (m k : Nat) : FRes := roundTo (fmtOf ty) c.g.rnd c.g.sat (srDrawOf c ty n m k) x
    let cond (p : FRes → Bool) (f : Nat → Nat → FRes) (m : Nat) : Bool := (List.range n).any fun k => p (f m k)
    let hit (f : Nat → Nat → FRes) (m : Nat) : Bool := cond (·.inv) f m || cond (·.dz) f m || cond (·.ov) f m
    let traps (n' : Instr) (os : List Opnd) (f : Nat → Nat → FRes) : Prop :=
      Readable c os → hit f l = true → (∀ m ∈ c.lanes, m < l → hit f m = false) →
      exec n' s = .next (takeFault s c.key c.si ⟨0x0B, (if cond (·.inv) f l then 1 else 0) + (if cond (·.dz) f l then 2 else 0)
        + (if cond (·.ov) f l then 4 else 0), 0, l⟩ c.sp.pc false)
    traps (.fadd d i a j b) [opD w d, oa, ob] (fun m k => rounds (xadd rdn (U oa m k) (U ob m k)) m k)
    ∧ traps (.fsub d i a j b) [opD w d, oa, ob] (fun m k => rounds (xadd rdn (U oa m k) (U ob m k).negate) m k)
    ∧ traps (.fmul d i a j b) [opD w d, oa, ob] (fun m k => rounds (xmul (U oa m k) (U ob m k)) m k)
    ∧ traps (.ffma d i a j b) [od, oa, ob] (fun m k => rounds (xadd rdn (xmul (U oa m k) (U ob m k)) (U od m k)) m k)
    ∧ traps (.fmin d i a j b) [opD w d, oa, ob] (fun m k => fminmax (fmtOf ty) false (V oa m k) (V ob m k))
    ∧ traps (.fmax d i a j b) [opD w d, oa, ob] (fun m k => fminmax (fmtOf ty) true (V oa m k) (V ob m k))
    ∧ (TumblerFree c → traps (.fdiv d i a j b) [opD w d, oa, ob]
        (fun m k => divRes c.g (srDrawOf c ty n m k) (U oa m k) (U ob m k)))

/-- R25 to R28, R34, R38: a value that the format holds is its own rounding. R292 to R299. A scalar's tag and signedness are free values (logs
21 and 22), and that a scalar source stands for each row is the model's reading (log 20). -/
def Obligations.ConversionResults : Prop :=
  (
    ∀ (ty rm : Nat) (sat : Bool) (sr : Option Nat) (b : Nat), tAnyFloat ty = true → b < 2 ^ (fmtOf ty).w →
      let x := unpack (fmtOf ty) b
      (x.isNan = false → x.isInf = false → roundTo (fmtOf ty) rm sat sr x = { bits := b })
      ∧ (x.isInf = true → (fmtOf ty).noInf = false → roundTo (fmtOf ty) rm sat sr x = { bits := b })
      ∧ (x.isNan = true → (roundTo (fmtOf ty) rm sat sr x).bits = (fmtOf ty).nanBits))
  ∧ (
    ∀ (s : State) (c : WCtx) (d : BitVec 7) (i : BitVec 2) (x : BitVec 7) (f : BitVec 9) (j : BitVec 2) (b : BitVec 7),
      Issues s c → c.eff ≠ 0 →
      let ty := c.g.ty
      let dt := f.toNat
      let rows (dn tag : Nat) (srg : BitVec 32) (n ew : Nat) (r : Nat → Nat → FRes) (g g' : Group) : Prop :=
        RowsOnly s c (rowsUp g d.toNat dn) tag srg g g' ∧ ∀ l ∈ c.lanes, ∀ k < n, elemAt ew (catVal g' d.toNat dn l) k = (r l k).bits % 2 ^ ew
      let one (a : Nat → Nat) (tag : Nat) : Group → Group → Prop := WritesRow s c false d.toNat (fun l v => v = a l % 2 ^ 32) tag c.g.srg
      let nodup (n : Nat) : Prop := (rowsUp c.g d.toNat n).Nodup
      (let n := cvtCount ty dt
       let sn := rowsFor (n * tWidth ty)
       let dn := rowsFor (n * tWidth dt)
       let ss := rowsFrom 1 x.toNat sn i.toNat .arith
       let r (l k : Nat) : FRes := cvtValue c.g ty dt (srDrawOf c dt n l k) (elemAt (tWidth ty) (catRows c.g (tWidth ty) ss l) k)
       ty ≠ tRAW → ty ≠ tQ4 → dt ≠ tQ4 → 1 ≤ dt → dt ≤ 16 → ty ≤ 16 → nodup dn →
        Readable c (rowsFrom 0 d.toNat dn 0 .free ++ ss) → Quiet c n r →
        Completes (exec (.cvt d i x f) s) s c [] 0 (rows dn dt (srgAfter c dt n) n (tWidth dt) r))
      ∧ (let w := tWidth ty
         let vr := rowsFrom 1 x.toNat (8 * w / 32) i.toNat .arith
         let sc : Opnd := rowAt 1 x.toNat i.toNat (.codes [tSCB]) (8 * w / 32)
         let r (l k : Nat) : FRes := q4Encode c.g.rnd dt (sc.val c.g l % 256 % 64) (srDrawOf c tQ4 8 l k)
           (unpack (fmtOf ty) (elemAt w (catRows c.g w vr l) k))
         (ty = tF32 ∨ ty = tF16 ∨ ty = tBF16) → Readable c ([opD false d] ++ vr ++ [sc]) →
         (∀ l ∈ c.lanes, sc.val c.g l % 256 / 64 = dt) → Quiet c 8 r →
         Completes (exec (.cvtb d i x f) s) s c [] 0 (WritesRow s c false d.toNat
           (fun l v => ∀ k < 8, elemAt 4 v k = (r l k).bits % 16) tQ4 (srgAfter c tQ4 8)))
      ∧ (let t := cvtqType dt
         let dn := 8 * tWidth t / 32
         let vr : Opnd := ⟨1, false, x.toNat, i.toNat, .codes [tQ4]⟩
         let sc : Opnd := rowAt 1 x.toNat i.toNat (.codes [tSCB]) 1
         let r (l k : Nat) : FRes := roundTo (fmtOf t) c.g.rnd c.g.sat (srDrawOf c t 8 l k)
           (q4Value (sc.val c.g l % 256) (elemAt 4 (vr.val c.g l) k))
         nodup dn → Readable c (rowsFrom 0 d.toNat dn 0 .free ++ [vr, sc]) → Quiet c 8 r →
         Completes (exec (.cvtq d i x f) s) s c [] 0 (rows dn t (srgAfter c t 8) 8 (tWidth t) r))
      ∧ (ty = tF32 → dt ≤ 3 → Readable c [opD false d, opA false i x .arith] →
         Completes (exec (.sqz d i x f) s) s c [] 0 (one (fun l => dt * 64 + sqzExp c.g dt ((opA false i x .arith).val c.g l)) tSCB))
      ∧ (let w := tWide ty
         let os := opA w i x .arith
         let r (l _k : Nat) : FRes := (funpackRes ty dt (os.val c.g l)).1
         (ty = tF32 ∨ ty = tF64) → Readable c [opD w d, os] → Quiet c 1 r →
         Completes (exec (.funpack d i x f) s) s c [] 0 (WritesRow s c w d.toNat (fun l v => v = (r l 0).bits % 2 ^ tWidth ty)
           (if dt = 0 then (if w then tI64 else tI32) else if dt = 1 then ty else if w then tU64 else tU32) c.g.srg))
      ∧ (let w := tWide ty
         let e := tWidth ty
         let oa := opA w i x (.codes (if w then [tI64, tU64] else [tI32, tU32]))
         let ob := opB w j b .free
         let sgn := if 112 ≤ x.toNat then Config.scalarSigned (oa.val c.g c.low) else tSigned (oa.tag c.g)
         let r (l k : Nat) : FRes := roundTo (fmtOf ty) c.g.rnd c.g.sat (srDrawOf c ty 1 l k)
           (ofInt (if sgn then toS e (oa.val c.g l) else oa.val c.g l) 1 (scaleCap (toS e (ob.val c.g l))))
         (ty = tF32 ∨ ty = tF64) → Readable c [opD w d, oa, ob] → Quiet c 1 r →
         Completes (exec (.fpack d i x j b) s) s c [] 0 (WritesRow s c w d.toNat (fun l v => v = (r l 0).bits % 2 ^ e) ty (srgAfter c ty 1)))
      ∧ (Readable c [opD false d, opA false i x .free] →
         Completes (exec (.tagset d i x f) s) s c [] 0 (one (fun l => (opA false i x .free).val c.g l) dt)
         ∧ ∃ t, Completes (exec (.tagget d i x) s) s c [] 0 (one (fun _ => t) tU32)
             ∧ (x.toNat < 112 → t = (c.g.rowTag (c.g.rowNo 0 x.toNat 0)).toNat)))

/-- R210, R214, R215: loads. `s2` is the machine after the reads (fills of L1, the group's own requests to the lines). -/
def Obligations.LoadWords : Prop :=
  ∀ (s : State) (c : WCtx) (d : BitVec 7) (x : BitVec 3) (k : BitVec 1) (a : BitVec 6) (o : BitVec 8) (z : BitVec 1) (e : BitVec 6),
    Issues s c → c.eff ≠ 0 → TumblerFree c →
    let ty := c.g.ty
    let w := tWide ty
    let reads (i : Instr) (ak n : Nat) (off : Nat → Nat) (conv : Nat → Nat) (tag : Nat) : Prop :=
      ∀ s1 ls, access s c.key c.g x.toNat ak a.toNat (off c.low) 0 n (c.lanes.map fun l => accOf c.g x.toNat ak a.toNat (off l) l)
        = .ok (s1, ls) →
      let s2 := (loadLanes s1 c.key c.g ls).1
      let got := (loadLanes s1 c.key c.g ls).2
      Completes (exec i s) s2 c [.longLatencyCompletion c.key s2.nextId] 1 fun g g' =>
        ∃ p, g'.pending = g.pending ++ [p] ∧ p.id = s2.nextId ∧ p.ready = true ∧ p.tumbler = tumblerOf c.sp
          ∧ p.poison = lanesBad s2 c.g.core ls
          ∧ g' = { g with pending := g'.pending, tumblers := g'.tumblers, splits := g'.splits, susp := none, want := none,
                          lastIssue := s2.time }
          ∧ ∀ l bs, (l, bs) ∈ got → l < c.g.width → (∀ bs', (l, bs') ∈ got → bs' = bs) →
              (landPending c.g p).val w d.toNat l = conv (leNat bs) % 2 ^ (if w then 64 else 32)
                ∧ ∀ row ∈ c.g.regRows w d.toNat, (landPending c.g p).rowTag row = BitVec.ofNat 5 tag
    (Readable c (opD w d :: addrRows x k a) → reads (.ld d x k a o) k.toNat (rowBytes ty) (fun _ => o.toNat * rowBytes ty) id ty)
    ∧ (ty ≠ tQ4 → Readable c (opD w d :: addrRows x k a) →
        reads (.ldt d x k a o) k.toNat (elemBytes ty) (fun _ => o.toNat * elemBytes ty)
          (fun v => if ty = tI8 then ofS 32 (toS 8 v) else if ty = tI16 then ofS 32 (toS 16 v) else v)
          (if ty = tI8 ∨ ty = tI16 then tI32 else if ty = tU8 ∨ ty = tU16 then tU32 else ty))
    ∧ (Readable c [opD w d] → reads (.ldb d x a o) 1 (rowBytes ty) (fun l => (o.toNat + l) * rowBytes ty) id ty)
    ∧ (let n := if z = 0 then 8 else 4
       ∀ s1 ls, access s c.key c.g x.toNat 1 a.toNat (o.toNat * n) 0 n [accOf c.g x.toNat 1 a.toNat (o.toNat * n) c.low] = .ok (s1, ls) →
       let r := groupLoad s1 c.key c.g (ls.flatMap (·.2))
       Completes (exec (.ldu z e x a o) s) r.1 c [.longLatencyCompletion c.key r.1.nextId] 1 fun g g' =>
         ∃ p, g'.pending = g.pending ++ [p] ∧ p.id = r.1.nextId ∧ p.ready = true ∧ p.tumbler = tumblerOf c.sp ∧ p.elems = []
           ∧ p.tags = [] ∧ p.poison = (loadBad r.1 c.g.core (ls.flatMap (·.2))).map (·, c.low) ∧ p.svals = [(e.toNat, BitVec.ofNat 64 (leNat r.2))]
           ∧ g' = { g with pending := g'.pending, tumblers := g'.tumblers, splits := g'.splits, susp := none, want := none,
                           lastIssue := r.1.time })

/-- R210, R213 to R215, R218, R221, R420: stores, as one operation. -/
def Obligations.StoreWords : Prop :=
  ∀ (s : State) (c : WCtx) (d : BitVec 7) (x : BitVec 3) (k : BitVec 1) (a : BitVec 6) (o : BitVec 8) (z : BitVec 1) (e : BitVec 6),
    Issues s c → c.eff ≠ 0 →
    let ty := c.g.ty
    let w := tWide ty
    let od := storeOpnd w d
    let writes (i : Instr) (ak n : Nat) (xs : List Acc) (v : Nat → Nat) : Prop :=
      ∀ s1 ls, access s c.key c.g x.toNat ak a.toNat (o.toNat * n) 1 n xs = .ok (s1, ls) →
      let os : List BufOp := [.bytes (ls.flatMap fun y => y.2.zip (leBytes n (v y.1)))]
      (overfills s1 c os = false → Completes (exec i s) (doOps s1 c os) c [] 0 (Kept (doOps s1 c os)))
      ∧ (overfills s1 c os = true → Traps (exec i s) s c 0x03 (memDetail 1 x.toNat) 0 c.low)
    let lanes (n : Nat) : List Acc := c.lanes.map fun l => accOf c.g x.toNat k.toNat a.toNat (o.toNat * n) l
    (Readable c (od :: addrRows x k a) → writes (.st d x k a o) k.toNat (rowBytes ty) (lanes (rowBytes ty)) (od.val c.g))
    ∧ (ty ≠ tQ4 → Readable c (od :: addrRows x k a) →
        writes (.stt d x k a o) k.toNat (elemBytes ty) (lanes (elemBytes ty)) (od.val c.g))
    ∧ (let n := if z = 0 then 8 else 4
       writes (.stu z e x a o) 1 n [accOf c.g x.toNat 1 a.toNat (o.toNat * n) c.low] (fun _ => (c.g.s e.toNat).toNat))

/-- R206, R210, R211, R213, R215 for segment sp: the places are `BASE + y` in the core's scratchpad. R206, R210, R211, R215 for loads through segment sp. -/
def Obligations.ScratchpadWords : Prop :=
  (
    ∀ (s : State) (c : WCtx) (d : BitVec 7) (k : BitVec 1) (a : BitVec 6) (o : BitVec 8),
      Issues s c → c.eff ≠ 0 → c.g.inRegion = false → c.g.harvest = false → (∀ r ∈ s.sreqs, r.key ≠ c.key) →
      let n := rowBytes c.g.ty
      let od := storeOpnd (tWide c.g.ty) d
      let sg := c.g.seg 1
      let y (l : Nat) : Nat := addrValue c.g 1 k.toNat a.toNat l + o.toNat * n
      let place (l i : Nat) : Loc := ⟨.core c.g.core, sg.base.toNat + y l + i⟩
      Readable c (od :: addrRows 1 k a) → sg.wr = true → (∀ l ∈ c.lanes, sg.base.toNat + y l + n ≤ 2 ^ 19) →
      (sg.unb = true ∨ ∀ l ∈ c.lanes, y l + n ≤ sg.limit.toNat) →
      ∃ t, exec (.st d 1 k a o) s = .next t
        ∧ t = { s with groups := t.groups, scratch := t.scratch, xfaults := t.xfaults, poison := t.poison, badCheck := t.badCheck,
                       ctxs := t.ctxs, issue := none, fresh := s.fresh + 1 }
        ∧ ((∀ x ∈ s.badCheck, x.sp ≠ .core c.g.core) → t.ctxs = s.ctxs)
        ∧ (∀ q, q ≠ c.key → Tab.find t.groups q = Tab.find s.groups q)
        ∧ (∀ g, Tab.find s.groups c.key = some g → ∃ g', Tab.find t.groups c.key = some g' ∧ NextWord c g g' ∧ Kept s g g')
        ∧ (∀ p, (∀ l ∈ c.lanes, ∀ i < n, p ≠ place l i) → (∀ q, p.sp = .core q → p.addr < 2 ^ 19) → homeByte t p = homeByte s p)
        ∧ ∀ l ∈ c.lanes, ∀ i < n, (∀ m ∈ c.lanes, l < m → ∀ j < n, place m j ≠ place l i) →
            homeByte t (place l i) = BitVec.ofNat 8 (od.val c.g l / 256 ^ i))
  ∧ (
    ∀ (s : State) (c : WCtx) (d : BitVec 7) (k : BitVec 1) (a : BitVec 6) (o : BitVec 8),
      Issues s c → c.eff ≠ 0 → TumblerFree c → c.g.inRegion = false → c.g.harvest = false → (∀ r ∈ s.sreqs, r.key ≠ c.key) →
      let ty := c.g.ty
      let w := tWide ty
      let n := rowBytes ty
      let sg := c.g.seg 1
      let y (l : Nat) : Nat := addrValue c.g 1 k.toNat a.toNat l + o.toNat * n
      let place (l i : Nat) : Loc := ⟨.core c.g.core, sg.base.toNat + y l + i⟩
      Readable c (opD w d :: addrRows 1 k a) → sg.rd = true → (∀ l ∈ c.lanes, sg.base.toNat + y l + n ≤ 2 ^ 19) →
      (sg.unb = true ∨ ∀ l ∈ c.lanes, y l + n ≤ sg.limit.toNat) →
      Completes (exec (.ld d 1 k a o) s) s c [.longLatencyCompletion c.key s.nextId] 1
        (Pends s c c.g.srg (lanesBad s c.g.core (c.lanes.map fun l => (l, (List.range n).map (place l)))) (WritesRow s c w d.toNat
          (fun l v => v = leNat ((List.range n).map fun i => homeByte s (place l i))) ty c.g.srg)))

/-- R67, R210, R211, R215, R427. -/
def Obligations.AccessFaults : Prop :=
  ∀ (s : State) (c : WCtx) (d : BitVec 7) (x : BitVec 3) (k : BitVec 1) (a : BitVec 6) (o : BitVec 8) (l : Nat),
    Issues s c → c.eff ≠ 0 → TumblerFree c → x.toNat ≠ 3 → l ∈ c.lanes →
    let ty := c.g.ty
    let n := rowBytes ty
    let seg := x.toNat
    let sg := c.g.seg seg
    let y (m : Nat) : Nat :=
      let v := addrValue c.g seg k.toNat a.toNat m + o.toNat * n
      if seg = 0 then v % 2 ^ 64 else v
    let beyond (m : Nat) : Prop := (sg.unb = false ∧ sg.limit.toNat < y m + n)
      ∨ ((seg = 1 ∨ seg = 2) ∧ 2 ^ 19 < sg.base.toNat + y m + n) ∨ (seg = 7 ∧ 256 < sg.base.toNat + y m + n)
    let faults (i : Instr) (cls rw : Nat) : Prop :=
      exec i s = .next (takeFault s c.key c.si ⟨cls, rw + 4 * seg, y l, l⟩ c.sp.pc false)
    let lowest := ∀ m ∈ c.lanes, m < l → ¬ beyond m
    (Readable c (opD (tWide ty) d :: addrRows x k a) →
      (beyond l → lowest → faults (.ld d x k a o) 0x04 0)
      ∧ ((∀ m ∈ c.lanes, ¬ beyond m) → l = c.low → sg.rd = false → faults (.ld d x k a o) 0x03 0))
    ∧ (Readable c (storeOpnd (tWide ty) d :: addrRows x k a) →
      (beyond l → lowest → faults (.st d x k a o) 0x04 1)
      ∧ ((∀ m ∈ c.lanes, ¬ beyond m) → l = c.low → sg.wr = false → faults (.st d x k a o) 0x03 1))

/-- R212, R217, R223 to R229: the atomics' issue and the prefetch. R223, R226: the executing unit's step. -/
def Obligations.AtomicWords : Prop :=
  (
    ∀ (s : State) (c : WCtx) (d : BitVec 7) (x : BitVec 3) (k : BitVec 1) (a : BitVec 6) (op : BitVec 4) (lv : BitVec 1) (o : BitVec 8),
      Issues s c → c.eff ≠ 0 →
      let ty := c.g.ty
      let w := tWide ty
      let xs := c.lanes.map fun l => accOf c.g x.toNat k.toNat a.toNat 0 l
      let aligned (n : Nat) : Prop := ∀ y ∈ xs, ((c.g.seg x.toNat).base.toNat + y.y) % n = 0
      let places (ls : List (Nat × List Loc)) : List (Nat × Loc) := ls.filterMap fun y => y.2.head?.map fun l => (y.1, l)
      let quiet := c.g.trapFp = true → ∀ l ∈ c.lanes, (unpack (fmtOf ty) (c.g.val w d.toNat l % 2 ^ tWidth ty)).isSig = false
      let leaves (i : Instr) (s1 : State) (os : List BufOp) : Prop :=
        (overfills s1 c os = false → Completes (exec i s) (doOps s1 c os) c [] 0 (Kept (doOps s1 c os)))
        ∧ (overfills s1 c os = true → Traps (exec i s) s c 0x03 (memDetail 2 x.toNat) 0 c.low)
      let returns (i : Instr) (s1 : State) (as : List (Nat × AtomReq)) : Prop :=
        let r := returnAtoms s1 c w d.toNat as
        Completes (exec i s) r.1 c [] 0 fun g g' =>
          g' = { g with pending := g.pending ++ [{ r.2 with tumbler := (tumblerOf c.sp).or r.2.tumbler }], tumblers := g'.tumblers, splits := g'.splits,
                        susp := none, want := none, lastIssue := r.1.time }
          ∧ ∀ t, g'.tumbler t = g.tumbler t + if tumblerOf c.sp = some t then 1 else 0
      (∀ n s1 ls, n = rowBytes ty → admAtom op.toNat ty = true → Readable c (atomOpnds ty op.toNat d x k a) → aligned n →
        access s c.key c.g x.toNat k.toNat a.toNat 0 2 n xs = .ok (s1, ls) →
        let as := intAtoms c op.toNat d.toNat (places ls)
        leaves (.atom d x k a op 0) s1 (as.map fun y => .atom y.2)
        ∧ (TumblerFree c → c.g.inRegion = false → returns (.atom d x k a op 1) s1 as))
      ∧ (∀ n s1 ls, n = elemBytes ty → admFatom op.toNat ty = true → Readable c (⟨0, w, d.toNat, 0, .arith⟩ :: addrRows x k a) → aligned n →
        quiet → access s c.key c.g x.toNat k.toNat a.toNat 0 2 n xs = .ok (s1, ls) →
        let as := floatAtoms c op.toNat d.toNat (places ls)
        leaves (.fatom d x k a op 0) s1 (if op = 0
            then (places ls).map fun y => .ord y.2 ty (c.g.elem (c.g.rowNo 0 d.toNat 0) y.1) y.1 else as.map fun y => .atom y.2)
        ∧ (TumblerFree c → c.g.inRegion = false → returns (.fatom d x k a op 1) s1 as))
      ∧ (Readable c (addrRows x k a) → ∃ ag, Completes (exec (.prf lv x k a o) s) s c ag 0 (Kept s)
          ∧ ∀ e ∈ ag, (∃ n, e = .l1LineFill c.g.core n c.g.ctx) ∨ (∃ n, e = .sliceLineFill n)
            ∨ ∃ va need, e = .translationMiss c.g.core c.g.ctx 0 va need))
  ∧ (
    ∀ (s : State) (ctx core addr z op ty : Nat) (x y : BitVec 64), (z = 4 ∨ z = 8) → addr + z ≤ 2 ^ 19 → op ≤ 7 →
      let l : Loc := ⟨.core core, addr⟩
      let r := applyAtom s ctx { loc := l, z, fop := false, op, ty, x, y, sat := false, rnd := 0 }
      let old := homeNat s l z
      let m := 2 ^ (8 * z)
      let sgn := tSigned ty
      let lt (p q : Nat) : Prop := if sgn then toS (8 * z) p < toS (8 * z) q else p < q
      let xv := x.toNat % m
      let new := homeNat r.1 l z
      r.2 = old ∧ old < m
        ∧ (op = 0 → new = (old + xv) % m)
        ∧ (op = 1 → (lt old xv → new = old) ∧ (¬ lt old xv → new = xv))
        ∧ (op = 2 → (lt old xv → new = xv) ∧ (¬ lt old xv → new = old))
        ∧ (op = 3 → new = old &&& xv) ∧ (op = 4 → new = old ||| xv) ∧ (op = 5 → new = old ^^^ xv) ∧ (op = 6 → new = xv)
        ∧ (op = 7 → new = if old = xv then y.toNat % m else old)
        ∧ ∀ p : Loc, (∀ q, p.sp = .core q → p.addr < 2 ^ 19) → (∀ i < z, p ≠ ⟨.core core, addr + i⟩) → homeByte r.1 p = homeByte s p)

/-- R388, R396 to R398, R401. R388, R396, R399. -/
def Obligations.BranchWords : Prop :=
  (
    ∀ (s : State) (c : WCtx) (p : BitVec 3) (i : BitVec 1) (o : BitVec 21), Issues s c →
      let T := selected c p i
      let F := c.sp.mask &&& ~~~T
      let at' : Int := (c.sp.pc : Int) + o.toInt
      let inside : Prop := 0 ≤ at' ∧ at' < textWords s c.g
      let taken : Split := { c.sp with mask := T, pc := at'.toNat, clause := none, stall := false }
      let rest := newSplit (c.sp.pc + 1) F c.sp.tsp (clauseAt c.sp.clause (c.sp.pc + 1))
      let trap (cls detail : Nat) : Out := .next (takeFault s c.key c.si ⟨cls, detail, 0, (lanesOf c.g.width T).headD 0⟩ c.sp.pc false)
      let keeps (i : Instr) : Prop := Completes (exec i s) s c [] 0 (Kept s)
      keeps (.nop p i o) ∧ (T = 0 → keeps (.bra p i o) ∧ keeps (.call p i o))
      ∧ (T ≠ 0 → ¬ inside → exec (.bra p i o) s = trap 0x08 1 ∧ exec (.call p i o) s = trap 0x08 1)
      ∧ (T ≠ 0 → inside →
        (F = 0 → Redirects (exec (.bra p i o) s) s c fun g g' =>
          SplitsAre [(c.si, { taken with mask := c.sp.mask })] g g' ∧ TokensAre [] g g')
        ∧ (F ≠ 0 → c.g.splits.length < 4 → c.g.tokens.length ≤ c.g.divdepth →
            ∃ k, k < 4 ∧ lowFree c.g.splits 4 = some k ∧ Redirects (exec (.bra p i o) s) s c fun g g' =>
              SplitsAre [(c.si, taken), (k, rest)] g g' ∧ TokensAre [] g g')
        ∧ (F ≠ 0 → 4 ≤ c.g.splits.length → lowFree c.g.splits 4 = none →
            (c.g.tokens.length < c.g.divdepth → c.g.divdepth ≤ 16 → ∃ e, e < 16 ∧ Tab.find c.g.tokens e = none
              ∧ Redirects (exec (.bra p i o) s) s c fun g g' => SplitsAre [(c.si, taken)] g g'
                  ∧ TokensAre [(e, { kind := .defer, addr := c.sp.pc + 1, members := F, arrived := 0, parent := c.sp.tsp,
                                     clause := clauseAt c.sp.clause (c.sp.pc + 1), born := s.fresh })] g g')
            ∧ (c.g.divdepth ≤ c.g.tokens.length → exec (.bra p i o) s = trap 0x0A 0))
        ∧ (F = 0 → c.g.tokens.length < c.g.divdepth → c.g.divdepth ≤ 16 → ∃ e, e < 16 ∧ Tab.find c.g.tokens e = none
            ∧ Redirects (exec (.call p i o) s) s c fun g g' =>
                SplitsAre [(c.si, { taken with mask := T, tsp := some e })] g g'
                ∧ TokensAre [(e, { kind := .call, addr := returnPoint c, members := T, arrived := 0, parent := c.sp.tsp, clause := none,
                                   born := s.fresh })] g g')
        ∧ (c.g.divdepth ≤ c.g.tokens.length → exec (.call p i o) s = trap 0x0A 0)))
  ∧ (
    ∀ (s : State) (c : WCtx) (p : BitVec 3) (i : BitVec 1) (r : BitVec 7), Issues s c → c.g.width ≤ 64 →
      let T := selected c p i
      let F := c.sp.mask &&& ~~~T
      let ls := lanesOf c.g.width T
      let off (l : Nat) : Int := (c.sp.pc : Int) + toS 32 ((⟨1, false, r.toNat, 0, .free⟩ : Opnd).val c.g l)
      let targets := (ls.map off).dedup.length + if F = 0 then 0 else 1
      (T = 0 → Completes (exec (.brx p i r) s) s c [] 0 (Kept s))
      ∧ (ls ≠ [] → Readable c [⟨1, false, r.toNat, 0, .free⟩] → (∀ l ∈ ls, 0 ≤ off l ∧ off l < textWords s c.g) →
        c.g.splits.length + targets ≤ 5 → c.g.tokens.length ≤ c.g.divdepth →
        Redirects (exec (.brx p i r) s) s c fun g g' =>
          (∀ l ∈ ls, ∃ k x, Tab.find g'.splits k = some x ∧ x.mask.getLsbD l = true ∧ (x.pc : Int) = off l)
          ∧ (∀ l, F.getLsbD l = true → ∃ k x, Tab.find g'.splits k = some x ∧ x.mask.getLsbD l = true ∧ x.pc = c.sp.pc + 1)
          ∧ (∀ k x, k ≠ c.si → Tab.find g.splits k = some x → Tab.find g'.splits k = some x.awake)
          ∧ TokensAre [] g g'))

/-- R389, R390, R400, R402. -/
def Obligations.JoinsAndReturns : Prop :=
  ∀ (s : State) (c : WCtx) (o : BitVec 21), Issues s c →
    let low := (lanesOf c.g.width c.sp.mask).headD 0
    (c.g.tokens.length < c.g.divdepth → c.g.divdepth ≤ 16 → ∃ e, e < 16 ∧ Tab.find c.g.tokens e = none
      ∧ Redirects (exec (.jset o) s) s c fun g g' =>
          SplitsAre [(c.si, { nextWord c c.sp with tsp := some e })] g g'
          ∧ TokensAre [(e, { kind := .token, addr := ((c.sp.pc + o.toInt) % 2 ^ 32).toNat, members := c.sp.mask, arrived := 0,
                             parent := c.sp.tsp, clause := none, born := s.fresh })] g g')
    ∧ (c.g.divdepth ≤ c.g.tokens.length → exec (.jset o) s = .next (takeFault s c.key c.si ⟨0x0A, 0, 0, low⟩ c.sp.pc false))
    ∧ ((∀ e t, c.sp.tsp = some e → Tab.find c.g.tokens e = some t → t.kind ≠ .call) →
        exec .ret s = .next (takeFault s c.key c.si ⟨0x08, 1, 0, low⟩ c.sp.pc false))
    ∧ ∀ e t, c.sp.tsp = some e → Tab.find c.g.tokens e = some t → t.kind = .call → NoBarrier s →
        Tab.rising c.g.tokens = true →
        (∀ k u, Tab.find c.g.tokens k = some u → k ≠ e → u.kind = .defer ∨ u.arrived = 0 ∨ u.arrived ≠ u.members) →
        (t.arrived ||| c.sp.mask = t.members → t.members ≠ 0 → Redirects (exec .ret s) s c fun g g' =>
          SplitsAre [(c.si, newSplit t.addr t.members t.parent none)] g g'
          ∧ ∀ k, Tab.find g'.tokens k = if k = e then none else Tab.find g.tokens k)
        ∧ (t.arrived ||| c.sp.mask ≠ t.members → (∀ k u, Tab.find c.g.tokens k = some u → u.kind ≠ .defer) →
          Redirects (exec .ret s) s c fun g g' =>
            (∀ k, Tab.find g'.splits k = if k = c.si then none else (Tab.find g.splits k).map Split.awake)
            ∧ TokensAre [(e, { t with arrived := t.arrived ||| c.sp.mask })] g g')

/-- R390, R403. -/
def Obligations.ExitWord : Prop :=
  ∀ (s : State) (c : WCtx) (p : BitVec 3) (i : BitVec 1), Issues s c →
    let T := selected c p i
    let F := c.sp.mask &&& ~~~T
    let next : Split := nextWord c c.sp
    (T = 0 → Completes (exec (.exit p i) s) s c [] 0 (Kept s))
    ∧ (T ≠ 0 → F ≠ 0 → c.g.tokens = [] → (c.g.splits.map (·.1)).Nodup → NoBarrier s →
        (∀ x ∈ c.g.splits, x.1 ≠ c.si → x.2.mask &&& T = 0 ∧ x.2.mask ≠ 0) →
        Redirects (exec (.exit p i) s) s c fun g g' => SplitsAre [(c.si, { next with mask := F })] g g' ∧ TokensAre [] g g')
    ∧ (T ≠ 0 → c.g.tokens = [] → (∀ x ∈ c.g.splits, x.2.mask &&& ~~~T = 0) →
        ∃ t, exec (.exit p i) s = .next t ∧ Tab.find t.groups c.key = none)

/-- R404, R430, R435, R447. -/
def Obligations.BreakpointAndReturn : Prop :=
  ∀ (s : State) (c : WCtx) (p : BitVec 3) (i : BitVec 1) (code : BitVec 16) (k : BitVec 1), Issues s c →
    let T := selected c p i
    let fr := (List.range 32).map fun i => Tab.fetch 0 c.g.mb (224 + i)
    let pc := fieldAt fr 0 4 + if k = 1 then 1 else 0
    let tsp := fieldAt fr 4 4
    let gm := BitVec.ofNat 64 (fieldAt fr 16 8)
    let legal : Prop := c.g.trapMask.isSome = true ∧ c.sp.mask.toNat = fieldAt fr 8 8 ∧ gmLegal gm = true
      ∧ (tsp = 0xFFFF_FFFF ∨ ∃ t, Tab.find c.g.tokens tsp = some t ∧ t.kind ≠ .defer) ∧ pc < textWords s c.g
    (T = 0 → Completes (exec (.trap p i code) s) s c [] 0 (Kept s))
    ∧ (T ≠ 0 → handlerTakes s c.g 0x0F = false →
        exec (.trap p i code) s = .next (retire (standing (clearXfaults (advance { s with issue := none } c) c.g.core c.key) c.key
          (groupRec s c.g ⟨0x0F, code.toNat, T.toNat, (lanesOf c.g.width T).headD 0⟩ c.sp.pc false)) c))
    ∧ (c.eff = 0 → Completes (exec (.sysTret k) s) s c [] 0 (Kept s))
    ∧ (c.eff ≠ 0 → ¬ legal → exec (.sysTret k) s = .next (takeFault s c.key c.si ⟨0x08, 3, 0, c.low⟩ c.sp.pc false))
    ∧ (c.eff ≠ 0 → legal → (∀ l, launchOf s c.g = some l → pc = (l.img.live.map (·.1)).foldl (fun a o => if o ≤ pc then max a o else a) 0) →
        ∃ t, exec (.sysTret k) s = .next t ∧ OnlyGroup s t c [] 0 ∧ ∀ g, Tab.find s.groups c.key = some g →
          ∃ g', Tab.find t.groups c.key = some g'
            ∧ g' = { g with gm, trapMask := none, splits := g'.splits, susp := none, want := none, lastIssue := s.time }
            ∧ SplitsAre [(c.si, { c.sp with pc, clause := none, tsp := if tsp = 0xFFFF_FFFF then none else some tsp, stall := false })] g g')

/-- R234, R236, R373. Which lines of L1 the two actions touch is the model's reading (log 92). -/
def Obligations.FenceWords : Prop :=
  ∀ (s : State) (c : WCtx) (x : BitVec 3) (o : BitVec 2) (d : BitVec 7), Issues s c → c.eff ≠ 0 →
    let pairs := pairedOf s c.g
    let core := c.g.core
    let acts : Prop := 3 ≤ x.toNat ∨ (x = 2 ∧ pairs = true)
    let a := (c.g.s d.toNat).toNat
    let out := readsOut s c.key c.g
    let clean (s2 : State) : Prop := ∀ e ∈ s2.l1, e.core = core → e.dirty = 0
    let empty (s2 : State) : Prop := ∀ e ∈ s2.l1, e.core ≠ core
    let none' (s2 : State) : Prop := ∀ e ∈ s2.l1, ¬ (e.core = core ∧ e.surf = true ∧ 128 * e.line / 2 ^ 33 = saHandle a)
    let mine := s.l1.filter fun e => e.core == core && e.dirty != 0
    let s1 := if o = 1 then settleAll s c.key else releaseAct s c.key core x.toNat pairs
    let s2 := if o = 2 then s1 else acquireAct s1 core x.toNat pairs
    let s3 := surfFence s c x.toNat fun h => h == saHandle a
    let s4 := surfFence s c x.toNat (ownSurf s c.g.ctx)
    (o = 2 ∨ out = false → Completes (exec (.fence x o) s) s2 c [] 0 (Kept s2))
    ∧ (o ≠ 2 → out = true → exec (.fence x o) s = .next (stalled s c))
    ∧ (¬ acts → o ≠ 1 → s2 = s) ∧ (acts → o ≠ 1 → clean s2) ∧ (acts → o ≠ 2 → empty s2)
    ∧ (s.sreqs = [] → s2.groups = s.groups)
    ∧ (acts → s.sreqs = [] → s.cells = [] → s.stations = [] → s.slices.length + mine.length < sliceLeast → (mine.map (·.line)).Nodup →
        ∀ e ∈ mine, ∀ i < 128, e.dirty.getLsbD i = true → logByte s2 (128 * e.line + i) = lineByte e.data i)
    ∧ (∀ f, surfCheck s c.g.ctx a 0 3 = .ok f → saOff a < f.bytes →
        (out = false → Completes (exec (.dfence d x) s) s3 c [] 0 (Kept s3)) ∧ (out = true → exec (.dfence d x) s = .next (stalled s c))
        ∧ (3 ≤ x.toNat → empty s3) ∧ none' s3)
    ∧ (∀ f, surfCheck s c.g.ctx a 0 3 = .ok f → f.bytes ≤ saOff a → Traps (exec (.dfence d x) s) s c 0x04 12 a c.low)
    ∧ (∀ k det, surfCheck s c.g.ctx a 0 3 = .error (k, det) → Traps (exec (.dfence d x) s) s c k det a c.low)
    ∧ (out = false → Completes (exec (.dfenceAll x) s) s4 c [] 0 (Kept s4)) ∧ (out = true → exec (.dfenceAll x) s = .next (stalled s c))
    ∧ (3 ≤ x.toNat → empty s4)

/-- R235. -/
def Obligations.BarrierWord : Prop :=
  ∀ (s : State) (c : WCtx) (x : BitVec 3) (i : BitVec 4), Issues s c →
    let low := (lanesOf c.g.width c.sp.mask).headD 0
    let may : Prop := c.g.kind ≠ .handler ∧ c.g.trapMask = none
    let same : Prop := ∀ e ∈ c.g.splits, ∀ j y, e.2.barWait = some (j, y) → j = i.toNat
    let mine (e : Nat × Group) (y : Nat × Split) : Prop := e.1 = c.key ∧ y.1 = c.si
    (¬ may → Traps (exec (.bar x i) s) s c 0x08 3 0 low)
    ∧ (may → ¬ same → Traps (exec (.bar x i) s) s c 0x08 1 0 low)
    ∧ (may → same → (∃ e ∈ teamGroups s c.g.team, ∃ y ∈ e.2.splits, ¬ mine e y ∧ y.2.barWait = none) →
        Redirects (exec (.bar x i) s) s c fun g g' =>
          SplitsAre [(c.si, { c.sp with barWait := some (i.toNat, x.toNat), stall := false })] g g' ∧ TokensAre [] g g')
    ∧ (may → same → x = 2 → pairedOf s c.g = false → c.g.team ≠ 0 →
        Tab.rising s.groups = true → Tab.rising c.g.splits = true →
        (∀ e ∈ teamGroups s c.g.team, e.2.splits ≠ [] ∧ ∀ y ∈ e.2.splits, mine e y ∨ y.2.barWait = some (i.toNat, 2)) →
        ∃ t, exec (.bar x i) s = .next t ∧ ∀ k g, Tab.find s.groups k = some g → g.team = c.g.team →
          ∃ g', Tab.find t.groups k = some g' ∧ ∀ j y, Tab.find g.splits j = some y →
            ∃ y', Tab.find g'.splits j = some y' ∧ y'.pc = y.pc + 1 ∧ y'.barWait = none ∧ y'.mask = y.mask)

/-- R133. R134. `s1` is the machine after the wait's request for its word: the group's own requests and dirty bytes of that line
have taken effect first (R369), and the line's cells and check values have been read (R98, R231). -/
def Obligations.WaitWords : Prop :=
  (
    ∀ (s : State) (c : WCtx) (x p k : BitVec 3) (n : BitVec 1) (b : BitVec 8), Issues s c →
      let i : Instr := .wcnt x n p k b
      let s2 := acquireAct s c.g.core x.toNat (pairedOf s c.g)
      (c.eff = 0 → Completes (exec i s) s c [] 0 (Kept s))
      ∧ (c.eff ≠ 0 → b.toNat < c.g.counter k.toNat →
          (n = 0 → exec i s = .next (stalled s c)) ∧ (n = 1 → Completes (exec i s) s c [] 0 (WritesPred s c p.toNat fun _ => false)))
      ∧ (c.eff ≠ 0 → c.g.counter k.toNat ≤ b.toNat →
          (deferredOf c.g k.toNat = none →
            (n = 0 → Completes (exec i s) s2 c [] 0 (Kept s2)) ∧ (n = 1 → Completes (exec i s) s2 c [] 0 (WritesPred s2 c p.toNat fun _ => true)))
          ∧ ∀ o r, deferredOf c.g k.toNat = some (o, r) → handlerReady s c.key c.g r.cls = .ok () →
              exec i s = .next (retire (takeFault (updG s c.key fun g => clearDeferred g o.id) c.key c.si ⟨r.cls, r.detail, r.addr, if k = 5 then bits r.who 27 22 else c.low⟩ c.sp.pc true) c)))
  ∧ (
    ∀ (s : State) (c : WCtx) (d : BitVec 7) (x p g : BitVec 3) (n w : BitVec 1) (k : BitVec 2), Issues s c → c.eff ≠ 0 → TumblerFree c →
      let i : Instr := .waita d x n p k g w
      let z := if w = 0 then 8 else 4
      let v := (c.g.s d.toNat).toNat
      let y := (if g = 0 then v else v % 2 ^ 32) / z * z
      let cmp := c.g.s (d.toNat + 1)
      (∀ e, uniform s c g.toNat y z 0 = .error (.trap e) → Traps (exec i s) s c e.cls e.detail e.addr e.lane)
      ∧ ∀ ls, uniform s c g.toNat y z 0 = .ok ls →
        let s1 := waitRead s c.key c.g.core c.g.ctx ls
        let r := leNat (readHome s1 ls)
        let holds := match k.toNat with
          | 0 => decide (r = cmp.toNat)
          | 1 => decide (r ≠ cmp.toNat)
          | _ => decide (cmp.toNat ≤ r)
        let carries (q : Pending) : Prop := q.svals = [(d.toNat + 3, BitVec.ofNat 64 r)] ∧ q.elems = [] ∧ q.tags = [] ∧ q.poison = (firstBad s1 ls).map (·, c.low)
        let vas := byteAddrs c.g g.toNat ⟨c.low, y⟩ z
        let s2 : State := { s1 with nextId := s1.nextId + 1 }
        let s3 := if holds then acquireAct s2 c.g.core x.toNat (pairedOf s2 c.g) else s2
        let s4 := if n = 1 then nbWrite s3 c p.toNat holds else s3
        (holds = true ∨ n = 1 → Completes (exec i s) s4 c [.longLatencyCompletion c.key s1.nextId] 0
          (InFlight s4 c s1.nextId fun q => q.ready = true ∧ carries q))
        ∧ (holds = false → n = 0 → Completes (exec i s) s2 c [] 0 fun g g' =>
            InFlight s2 c s1.nextId (fun q => q.ready = false ∧ carries q) { g with waits := g'.waits } g'
            ∧ ∃ e, g'.waits = g.waits ++ [e] ∧ e.id = s1.nextId ∧ e.locs = ls ∧ e.vas = vas ∧ e.cond = k.toNat ∧ e.cmp = cmp
                ∧ e.dst = d.toNat + 3 ∧ e.lane = c.low ∧ e.scope = x.toNat ∧ e.since = s1.time ∧ e.timeout = (c.g.s (d.toNat + 2)).toNat))

/-- R237. -/
def Obligations.GroupMove : Prop :=
  ∀ (s : State) (c : WCtx) (d : BitVec 7) (ls : List Loc), Issues s c → c.eff ≠ 0 → c.g.inRegion = false →
    uniform s c 0 (c.g.s d.toNat).toNat 1 0 = .ok ls →
    let near := nearestCores s (locSlice s (ls.headD ⟨.log, 0⟩))
    let room (k : Nat) : Prop := freeSlots s k c.g.cls ≠ [] ∧ c.g.regBytes ≤ regsFree s k c.g.cls
    let tells (s2 : State) (v : BitVec 64) : Prop := Completes (exec (.gmove d) s) s2 c [] 0 (WritesScalar s2 (d.toNat + 1) v)
    (movable s c.g = false → tells s 2)
    ∧ (movable s c.g = true → c.g.core ∈ near → tells s 1)
    ∧ (movable s c.g = true → c.g.core ∉ near → (∀ k ∈ near, ¬ room k) → tells s 3)
    ∧ ∀ k, movable s c.g = true → c.g.core ∉ near → k ∈ near → room k → (∀ j ∈ near, j < k → ¬ room j) → (∀ t < 12, c.g.tumbler t = 0) →
        let s2 := moveGroup s c k ((freeSlots s k c.g.cls).headD 0)
        tells s2 0 ∧ ((∀ r ∈ s.sreqs, r.key ≠ c.key) → (∀ e ∈ s.l1, e.dirty = 0) → ∃ g', Tab.find s2.groups c.key = some g' ∧ g'.core = k ∧ g'.reloc = c.g.reloc + 1)

/-- R170 to R173. `q` is the machine after the descriptor's read at its home (R369), `s0` is the machine once the operation has come to the slice behind its source's earlier requests
(R108, R115). The trap at a bad sector is the model's reading (log 131). -/
def Obligations.SliceQueueWords : Prop :=
  ∀ (s : State) (c : WCtx) (d : BitVec 7) (x p : BitVec 3) (n : BitVec 1) (a : BitVec 6), Issues s c → c.eff ≠ 0 → c.g.inRegion = false →
    waitingPush s c.key c.si = false →
    let y := (c.g.s a.toNat).toNat
    let pairs := pairedOf s c.g
    (y % 64 ≠ 0 → Traps (exec (.qpush d x n p a) s) s c 0x08 2 y c.low ∧ (TumblerFree c → Traps (exec (.qpop d x n p a) s) s c 0x08 2 y c.low))
    ∧ (∀ ls, y % 64 = 0 → uniform s c 0 y 64 2 = .ok ls → let s1 := touchPlaces (ownFirst s c.key c.g.core ls) c.g.ctx ls
        firstBad s1 ls = none → parseQueue (readHome s1 ls) = none →
        Traps (exec (.qpush d x n p a) s) s c 0x08 1 y c.low ∧ (TumblerFree c → Traps (exec (.qpop d x n p a) s) s c 0x08 1 y c.low))
    ∧ (∀ ls k, y % 64 = 0 → uniform s c 0 y 64 2 = .ok ls → firstBad (touchPlaces (ownFirst s c.key c.g.core ls) c.g.ctx ls) ls = some k →
        Traps (exec (.qpush d x n p a) s) s c 0x0E 0 k c.low ∧ (TumblerFree c → Traps (exec (.qpop d x n p a) s) s c 0x0E 0 k c.low))
    ∧ (∀ q o, queueOp s c true (n == 1) d.toNat a.toNat x.toNat = .ok (q, o) →
        let s1 := releaseAct q c.key c.g.core x.toNat pairs
        let s0 := countReq s1 (coreSource s1 c.g.core) (locSlice s1 o.desc) true
        let m := min o.vals.length (o.avail s0)
        let s2 := wakeWaiters (pushEntries s0 c.g.ctx o m) o.desc
        o.vals.map (·.1) = c.lanes
        ∧ (n = 1 → Completes (exec (.qpush d x n p a) s) s2 c [] 0 (WritesPred s2 c p.toNat fun l => decide (l ∈ (o.vals.take m).map (·.1))))
        ∧ (n = 0 → exec (.qpush d x n p a) s = .next (retire (sendReq s1 c.key c.g.core c.g.ctx 0 (.queue o) none) c)))
    ∧ (∀ q o, TumblerFree c → queueOp s c false (n == 1) d.toNat a.toNat x.toNat = .ok (q, o) →
        let s1 : State := { q with nextId := q.nextId + 1 }
        let src := coreSource s1 c.g.core
        let slice := locSlice s1 o.desc
        let dev := s1.hb.hbId.toNat % 65536
        let s0 := countReq s1 src slice true
        let m := min o.vals.length (o.avail s0)
        let got := popEntries s0 c.g.ctx o m
        let w := windowPut got.1 slice dev src (Tab.fetch 0 got.1.seqs src) (packVals o got.2.1)
        let s2 := acquireAct (wakeWaiters w o.desc) c.g.core x.toNat (pairedOf w c.g)
        let s3 := updG s2 c.key fun g => g.mixPred p.toNat c.eff (lowLanes o m)
        let s4 := sendReq s1 c.key c.g.core c.g.ctx 0 (.queue o) (some (q.nextId, []))
        (n = 1 → windowHas s1 slice dev src = false → exec (.qpop d x n p a) s = .next (stalled s c))
        ∧ (n = 1 → windowHas s1 slice dev src = true → Completes (exec (.qpop d x n p a) s) s3 c [.longLatencyCompletion c.key q.nextId] 0
          (InFlight s3 c q.nextId fun p => p.ready = true ∧ p.poison = got.2.2 ∧ ∀ l v, (l, v) ∈ got.2.1 →
            ∀ r ∈ o.rows.zipIdx, (r.1 * c.g.width + l, BitVec.ofNat 32 (v / 2 ^ (32 * r.2))) ∈ p.elems))
        ∧ (n = 0 → Completes (exec (.qpop d x n p a) s) s4 c [] 0 (InFlight s4 c q.nextId fun p => p.ready = false)))

/-- R131, R142, R155, R156. -/
def Obligations.KeywayRequests : Prop :=
  ∀ (s : State) (c : WCtx) (d : BitVec 7) (x p : BitVec 3) (n : BitVec 1), Issues s c → c.eff ≠ 0 → c.g.inRegion = false → c.g.counter 2 < 255 →
    let i : Instr := .kwant d x n p
    let v (j : Nat) : Nat := (c.g.s (d.toNat + j)).toNat
    let k := v 4
    let legal : Prop := 1 ≤ bits k 15 0 ∧ bits k 31 20 = 0 ∧ 1 ≤ bits k 48 32 ∧ bits k 48 32 ≤ 65536 ∧ bits k 63 49 = 0
    let cw := bits k 18 17
    let cl := c.g.core / 4
    let used := (s.recs.filter fun r => r.cl == cl).length
    (¬ legal → Traps (exec i s) s c 0x08 1 (d.toNat + 4) c.low)
    ∧ (legal → 0xFFFF_FFFF_FFFF_FF00 ≤ v 3 → Traps (exec i s) s c 0x08 1 (d.toNat + 3) c.low)
    ∧ (legal → v 3 < 0xFFFF_FFFF_FFFF_FF00 → v 2 % 8 ≠ 0 → Traps (exec i s) s c 0x08 1 (d.toNat + 2) c.low)
    ∧ (legal → v 3 < 0xFFFF_FFFF_FFFF_FF00 → v 2 % 8 = 0 → ∀ dloc cloc,
        regionPlace s c (bits k 16 16 == 1) 1 (v 1) (bits k 48 32) 1 = .ok dloc →
        regionPlace s c (cw == 1 || cw == 3) (if cw = 1 then 1 else 7) (v 2) 8 1 = .ok cloc →
        (256 ≤ used → (n = 0 → exec i s = .next (stalled s c))
          ∧ (n = 1 → Completes (exec i s) s c [] 0 (WritesPred s c p.toNat fun _ => false)))
        ∧ (used < 256 →
          let t := s.time + 1000 * bits k 15 0
          let r : KRec := { id := s.nextId, cl, ctx := c.g.ctx, gkey := c.key, team := c.g.team, key := v 0, dst := v 1, dloc, cap := bits k 48 32,
                            cwa := v 2, cw, cloc, val := c.g.s (d.toNat + 3), scope := x.toNat, trapNever := bit k 19, expiry := t, began := none,
                            owe := none, moved := 0, fault := none, pc := c.sp.pc, who := whoOf s c.g 0 }
          let st := clusterStation s cl
          let s2 := sendFlit { s with recs := s.recs ++ [r], nextId := s.nextId + 1 } (.interest st st st (v 0) c.g.ctx t)
          let s3 := if n = 1 then nbWrite s2 c p.toNat true else s2
          Completes (exec i s) s3 c [] 0 (StartsOp s3 2)))

/-- R131, R155, R157 to R159. -/
def Obligations.KeywayProducers : Prop :=
  ∀ (s : State) (c : WCtx) (d : BitVec 7) (x p : BitVec 3) (n : BitVec 1),
    Issues s c → c.eff ≠ 0 → TumblerFree c → c.g.inRegion = false →
    let v (j : Nat) : Nat := (c.g.s (d.toNat + j)).toNat
    let k := v 2
    let room : Prop := injHeld s (c.g.core / 4) < 32
    let badLen : Prop := bits k 16 0 = 0 ∨ 65536 < bits k 16 0 ∨ bits k 23 18 ≠ 0 ∨ bits k 63 32 ≠ 0
    let put : Instr := .kput d x n p
    (c.g.counter 2 < 255 →
      (badLen → Traps (exec put s) s c 0x08 1 (d.toNat + 2) c.low)
      ∧ (¬ badLen → v 3 % 128 ≠ 0 → Traps (exec put s) s c 0x08 1 (d.toNat + 3) c.low)
      ∧ (¬ badLen → v 3 % 128 = 0 → ∀ sp : Option (List Loc),
          (if bit k 17 then ∃ ls, uniform s c 1 (v 1 % 2 ^ 32) (bits k 16 0) 0 = .ok ls ∧ sp = some ls else sp = none) →
          (¬ room → (n = 0 → exec put s = .next (stalled s c)) ∧ (n = 1 → Completes (exec put s) s c [] 0 (WritesPred s c p.toNat fun _ => false)))
          ∧ (room →
            let q : KPut := { key := v 0, ctx := c.g.ctx, len := bits k 16 0, ret := bits k 31 24, backing := v 3, gkey := c.key, pend := s.nextId,
                              op := s.nextId + 1, cl := c.g.core / 4, pc := c.sp.pc, who := whoOf s c.g 0 }
            let s2 := startPut { s with nextId := s.nextId + 2 } c q (v 1) sp
            let s3 := if n = 1 then nbWrite s2 c p.toNat true else s2
            Completes (exec put s) s3 c [] 0 fun g g' =>
              InFlight s3 c s.nextId (fun r => r.ready = false ∧ r.svals = [(d.toNat + 4, 0)] ∧ r.elems = []) { g with ops := g'.ops } g'
                ∧ ∀ j, g'.counter j = g.counter j + if j = 2 then 1 else 0)))
    ∧ (let mine := s.recs.filter fun r => r.gkey == c.key && r.cl == c.g.core / 4 && r.key == v 0 && r.cwa == v 1 && r.began.isNone && r.owe.isNone
       let s2 := mine.foldl (fun s r => endRec s r.id kwDropped) s
       Completes (exec (.kdrop d x) s) s2 c [.longLatencyCompletion c.key s2.nextId] 1
         (InFlight s2 c s2.nextId fun r => r.ready = true ∧ r.svals = [(d.toNat + 2, BitVec.ofNat 64 mine.length)] ∧ r.elems = []))
    ∧ (¬ room → exec (.kclose d x) s = .next (stalled s c))
    ∧ (room →
       let s1 : State := { s with nextId := s.nextId + 1 }
       let s2 := sendFlit s1 (.close (keyTensor (v 0)) (keyIter (v 0)) c.g.ctx c.key s.nextId (c.g.core / 4) [] [] 0 (unreadBefore s1 c.key s1.nextId))
       Completes (exec (.kclose d x) s) s2 c [] 0 (InFlight s2 c s.nextId fun r => r.ready = false ∧ r.svals = [(d.toNat + 1, 0)]))

/-- R164, R165. -/
def Obligations.MessageSend : Prop :=
  ∀ (s : State) (c : WCtx) (d : BitVec 7) (x p g : BitVec 3) (n : BitVec 1), Issues s c → c.eff ≠ 0 → c.g.inRegion = false →
    let i : Instr := .amsend d x n p g
    let t := (c.g.s d.toNat).toNat
    let a := (c.g.s (d.toNat + 1)).toNat
    let legal : Prop := bits t 31 25 = 0 ∧ bits t 63 40 = 0 ∧ bits t 24 16 ≤ 256 ∧ bits t 6 0 < if bit t 7 then 22 else 88
    let held := (heldMsgs s c.g.core).length
    (¬ legal → Traps (exec i s) s c 0x08 1 d.toNat c.low)
    ∧ (legal → ∀ away ls, amPeer s c d.toNat (bits t 39 32) = .ok away → uniform s c g.toNat (if g = 0 then a else a % 2 ^ 32) (bits t 24 16) 0 = .ok ls →
        (fqFull s (200 + c.g.core) 16 held = true →
          (n = 0 → exec i s = .next (stalled s c)) ∧ (n = 1 → Completes (exec i s) s c [] 0 (WritesPred s c p.toNat fun _ => false)))
        ∧ (fqFull s (200 + c.g.core) 16 held = false →
          let r := engRead (releaseAct s c.key c.g.core (max 5 x.toNat) (pairedOf s c.g)) c.g.core c.g.ctx ls
          let m : Msg := { id := r.1.nextId, ctx := c.g.ctx, core := c.g.core, any := bit t 7, target := bits t 6 0, handler := bits t 15 8,
                           peer := bits t 39 32, away, data := r.2.1, bad := r.2.2, scope := x.toNat,
                           paired := pairedOf r.1 c.g }
          let s2 := fqTake { r.1 with nextId := r.1.nextId + 1 } (200 + c.g.core) 16 held
          let s3 := sendFrames { s2 with outMsgs := r.1.outMsgs ++ [m] } m.id .message (clusterStation r.1 (c.g.core / 4)) (m.station r.1)
            r.2.1.length
          let s4 := if n = 1 then nbWrite s3 c p.toNat true else s3
          Completes (exec i s) s4 c [.messageArrival m.id] 0 (Kept s4)))

/-- R120, R125, R131, R136, R138, R197. `s1` is the machine after the descriptor's read; the end at a bad sector is
the model's reading (log 131). -/
def Obligations.EngineCommandWords : Prop :=
  ∀ (s : State) (c : WCtx) (d : BitVec 7) (x p g : BitVec 3) (n : BitVec 1), Issues s c → c.eff ≠ 0 → c.g.inRegion = false →
    let v := (c.g.s d.toNat).toNat
    let y := if g = 0 then v else v % 2 ^ 32
    let word (i : Instr) (cls : Nat) (eng : State → WCtx → Nat) (check : State → WCtx → EngCmd → Try EngCmd) : Prop :=
      c.g.counter cls < 255 →
      (y % 64 ≠ 0 → Traps (exec i s) s c 0x08 2 y c.low)
      ∧ ∀ ls, y % 64 = 0 → uniform s c g.toNat y 64 0 = .ok ls →
        let r := groupLoad s c.key c.g ls
        (∀ sec, loadBad r.1 c.g.core ls = some sec → Traps (exec i s) s c 0x0E 0 sec c.low)
        ∧ (loadBad r.1 c.g.core ls = none →
        (∀ e, check r.1 c (blankCmd r.1 c d.toNat r.2 y x.toNat cls) = .error (.trap e) → Traps (exec i s) s c e.cls e.detail e.addr e.lane)
        ∧ ∀ m, check r.1 c (blankCmd r.1 c d.toNat r.2 y x.toNat cls) = .ok m →
          let e := eng r.1 c
          (fqFull r.1 (2000 + e) 64 (engEntries r.1 e).length = true →
            (n = 0 → exec i s = .next (stalled s c)) ∧ (n = 1 → Completes (exec i s) r.1 c [] 0 (WritesPred r.1 c p.toNat fun _ => false)))
          ∧ (fqFull r.1 (2000 + e) 64 (engEntries r.1 e).length = false →
            let s1 := fqTake (releaseAct r.1 c.key c.g.core 5 (pairedOf r.1 c.g)) (2000 + e) 64 (engEntries r.1 e).length
            let s2 : State := { s1 with nextId := s1.nextId + 1, engCmds := s1.engCmds ++ [{ m with id := s1.nextId, eng := e }] }
            let s3 := if n = 1 then nbWrite s2 c p.toNat true else s2
            Completes (exec i s) s3 c [if 800 ≤ e then .nbxCommand (e - 800) else .copyEngineComplete e s1.nextId] 0 (StartsOp s3 cls)))
    word (.cpy d x n p g) 0 (fun s c => copyEngineFor s (coreQuad s c.g.core)) copyCheck
    ∧ (word (.coll d x n p g) 1 (fun s c => 300 + coreQuad s c.g.core) fun s c m => match collBad m.desc with
        | some o => illegal 1 (m.descAddr + o) c.low
        | none => do
          let cl ← cwPlace s c (parseColl m.desc).cw (parseColl m.desc).cwa
          pure { m with cloc := cl })
    ∧ word (.nbx d x n p g) 4 (fun s c => 800 + coreStack s c.g.core) nbxCheck

/-- R174, R187, R199 to R201. -/
def Obligations.SurfaceWords : Prop :=
  ∀ (s : State) (c : WCtx) (d : BitVec 7) (h : BitVec 6) (n : BitVec 2), Issues s c → c.eff ≠ 0 →
    let k : Nat := 2 ^ n.toNat
    let a := (c.g.s h.toNat).toNat
    let hd := saHandle a
    (TumblerFree c → Readable c (rowRun d.toNat k) → ∀ f ls s1, texelPlaces s c d.toNat h.toNat n.toNat 0 = .ok (f, ls) → touchSurf s 0 ls = .ok s1 →
      let r := loadLanes s1 c.key c.g ls
      Completes (exec (.sld d h n) s) r.1 c [.longLatencyCompletion c.key r.1.nextId] 1
        (InFlight r.1 c r.1.nextId fun q => q.ready = true ∧ q.svals = [] ∧ q.poison = lanesBad r.1 c.g.core ls
          ∧ q.elems = ((List.range k).flatMap fun i => c.g.laneElems false (d.toNat + i) (r.2.map fun y => (y.1, fieldAt y.2 (4 * i) 4)))
          ∧ q.tags = (List.range k).map fun i => (c.g.rowNo 0 (d.toNat + i) 0, BitVec.ofNat 5 (surfTag f.format))))
    ∧ (Readable c (rowRun d.toNat (k + 1)) → ∀ f ls s1, texelPlaces s c d.toNat h.toNat n.toNat 1 = .ok (f, ls) → touchSurf s 1 ls = .ok s1 →
      let data (l : Nat) : List (BitVec 8) := (List.range k).flatMap fun i => leBytes 4 (c.g.val false (d.toNat + 1 + i) l)
      let os : List BufOp := ls.map fun y => .bytes (y.2.zip (data y.1))
      (overfills s1 c os = false → Completes (exec (.sst d h n) s) (doOps s1 c os) c [] 0 (Kept (doOps s1 c os)))
      ∧ (overfills s1 c os = true → Traps (exec (.sst d h n) s) s c 0x03 (memDetail 1 3) 0 c.low))
    ∧ (a % 64 ≠ 0 → Traps (exec (.salloc d h) s) s c 0x08 2 a c.low)
    ∧ (∀ ls, a % 64 = 0 → uniform s c 0 a 64 0 = .ok ls →
        let r := groupLoad s c.key c.g ls
        (∀ sec, loadBad r.1 c.g.core ls = some sec → Traps (exec (.salloc d h) s) s c 0x0E 0 sec c.low)
        ∧ (loadBad r.1 c.g.core ls = none → parseTemplate r.2 c.g.ctx 0 = none → Traps (exec (.salloc d h) s) s c 0x08 1 a c.low)
        ∧ (∀ f, loadBad r.1 c.g.core ls = none → parseTemplate r.2 c.g.ctx 0 = some f → spillBacked r.1 c.g.ctx f = true →
            let q := allocSurf r.1 c.g.ctx r.2
            Completes (exec (.salloc d h) s) q.1 c [] 0 fun g g' =>
              g' = { g with sregs := g'.sregs, splits := g'.splits, susp := none, want := none, lastIssue := q.1.time }
                ∧ ∀ j, g'.s j = if j = d.toNat + 1 then BitVec.ofNat 64 q.2.1 else if j = d.toNat then BitVec.ofNat 64 q.2.2 else g.s j))
    ∧ (∀ f, wholeSurf s c a 1 = .ok f →
        (((List.range f.nt).any (inFlight s hd) = true → exec (.sfree h) s = .next (stalled s c))
          ∧ ((List.range f.nt).any (inFlight s hd) = false → Completes (exec (.sfree h) s) (freeSurf s hd) c [] 0 (Kept (freeSurf s hd))))
        ∧ (let r := pinSurf s hd
           Completes (exec (.spinOn d h) s) r.1 c [] 0 (WritesScalar r.1 d.toNat (BitVec.ofNat 64 r.2)))
        ∧ (let s2 : State := { s with surfs := Tab.modify s.surfs hd fun f => { f with pinned := false } }
           Completes (exec (.spinOff d h) s) s2 c [] 0 (WritesScalar s2 d.toNat 0)))

/-- R301, R302, R304, R306, R307, R313. `s2` is the machine after the tiles have entered: `enterTiles` of the machine at issue. R308,
R311, R312, R319. -/
def Obligations.MatrixWords : Prop :=
  (
    ∀ (s : State) (c : WCtx) (d a x h : BitVec 7), Issues s c → c.eff ≠ 0 → TumblerFree c →
      let sh := shapeOf c.g
      let cl := c.g.core / 4
      let leads := ((List.range (c.g.width / (8 * sh.q))).map (· * sh.q)).filter fun p => tileRows c p != 0
      let room (s1 : State) : Prop := (∀ t ∈ (mxOf s1 cl).tiles, t.key ≠ c.key) ∧ (mxOf s1 cl).tiles.length + leads.length ≤ 64 ∧ c.g.counter 3 < 255
        ∧ (c.g.harvest = true → c.g.inRegion = true)
      let enters (i : Instr) (s1 : State) (rowA : Nat → Nat → List (BitVec 64)) (scale : Nat → BitVec 8) (surfs : List (Nat × Nat)) : Prop := ∃ s2,
        enterTiles { s1 with nextId := s1.nextId + 1 } c sh d.toNat h.toNat s1.nextId rowA scale surfs = .ok s2
        ∧ Completes (exec i s) s2 c [] 0 (InFlight s2 c s1.nextId fun q => q.ready = false ∧ q.elems = [] ∧ q.svals = [])
        ∧ (∀ g, Tab.find s1.groups c.key = some g → Tab.find s2.groups c.key = some (g.startOp 3 s1.nextId))
        ∧ ∃ ts, (mxOf s2 cl).tiles = (mxOf s1 cl).tiles ++ ts ∧ ts.map (·.lead) = leads ∧ ∀ t ∈ ts, t.key = c.key ∧ t.word = s1.nextId
            ∧ t.ctx = c.g.ctx ∧ t.handle = h.toNat ∧ t.fmt = c.g.ty ∧ t.n = sh.n ∧ t.granted = false ∧ t.chain = none ∧ t.rows = tileRows c t.lead
            ∧ t.a = (List.range 8).map (rowA t.lead) ∧ t.accKeys = ((List.range 8).map fun i => accRow c.g sh d.toNat t.lead i)
            ∧ t.accIn = t.accKeys.map (accValues c.g sh.f64)
      (mxAdmits c.g.ty = false → Traps (exec (.mma d a h) s) s c 0x08 3 0 c.low)
      ∧ (c.g.ty ≠ tBF16 → c.g.ty ≠ tE4M3 → Traps (exec (.mmas d x h) s) s c 0x08 3 0 c.low)
      ∧ (mxAdmits c.g.ty = true → c.g.width / 8 < sh.q → Traps (exec (.mma d a h) s) s c 0x08 1 0 c.low)
      ∧ (mxAdmits c.g.ty = true → sh.q ≤ c.g.width / 8 → room s → mmaRows c sh d.toNat a.toNat = .ok () → mxSlotCheck s c sh h.toNat = .ok () →
          enters (.mma d a h) s (fun p i => mmaRow c a.toNat (8 * p + i)) (fun l => BitVec.ofNat 8 (c.g.elem (c.g.rowNo 2 a.toNat 16) l).toNat) [])
      ∧ (c.g.ty = tBF16 ∨ c.g.ty = tE4M3 → sh.q ≤ c.g.width / 8 → mmasRows c sh d.toNat = .ok () → mxSlotCheck s c sh h.toNat = .ok () →
          ∀ f s1, mmasSurf s c x.toNat = .ok f →
          let ls := mmasPlaces c f x.toNat
          touchSurf s 0 (ls.map fun l => (c.low, [l])) = .ok s1 → room s1 →
          enters (.mmas d x h) s1 (fun p i => if c.eff.getLsbD (8 * p + i) then mmasRow { s1 with nextId := s1.nextId + 1 } c f x.toNat p i else [])
            (fun _ => 0) ((ls.map fun l => (saHandle (c.g.s x.toNat).toNat, l.addr / f.bt)).eraseDups)))
  ∧ (
    ∀ (s : State) (c : WCtx) (d h : BitVec 7) (x : BitVec 3) (g : BitVec 2), Issues s c → c.eff ≠ 0 →
      let i : Instr := .mbld d x g h
      let cl := c.g.core / 4
      let src := (c.g.s d.toNat).toNat
      let k := (c.g.s (d.toNat + 1)).toNat
      let f := bits k 4 0
      let comp := bit k 5
      let legal : Prop := bits k 63 6 = 0 ∧ 9 ≤ f ∧ f ≤ 15
      let m := mxOf s cl
      let need := slotNeed f comp
      let mine (w : WSlot) : Prop := w.ctx = c.g.ctx ∧ w.handle = h.toNat
      let status (s2 : State) (v : BitVec 64) (g g' : Group) : Prop :=
        g' = { g with ops := g'.ops, sregs := g'.sregs, splits := g'.splits, susp := none, want := none, lastIssue := s2.time }
          ∧ ∀ j, g'.s j = if j = d.toNat + 2 then v else g.s j
      (c.g.harvest = true → Traps (exec i s) s c 0x03 0 0 c.low ∧ Traps (exec (.mbrel h) s) s c 0x03 0 0 c.low)
      ∧ (c.g.harvest = false →
        (¬ legal → Traps (exec i s) s c 0x08 1 k c.low)
        ∧ (legal → src % 128 ≠ 0 → Traps (exec i s) s c 0x08 2 src c.low)
        ∧ (legal → src % 128 = 0 → c.g.inRegion = false → ∀ addr, mbldSource s c g.toNat src (slotExtent f comp) = .ok addr →
            (∀ w, slotOf m c.g.ctx h.toNat = some w → w.st ≠ .loaded ∨ m.refs c.g.ctx h.toNat = true →
              Completes (exec i s) s c [] 0 (WritesScalar s (d.toNat + 2) 2))
            ∧ ∀ units, (slotOf m c.g.ctx h.toNat = none ∧ units = 0
                  ∨ ∃ w, slotOf m c.g.ctx h.toNat = some w ∧ w.st = .loaded ∧ m.refs c.g.ctx h.toNat = false ∧ units = w.units) →
              (m.free + units < need → Completes (exec i s) s c [] 0 (WritesScalar s (d.toNat + 2) 1))
              ∧ (need ≤ m.free + units → c.g.counter 3 < 255 →
                  let s1 := releaseAct s c.key c.g.core 5 (pairedOf s c.g)
                  let ld : WLoad := { addr, inSp := g == 1, comp, key := c.key, op := s1.nextId, core := c.g.core, who := whoOf s1 c.g 0 }
                  let w : WSlot := { ctx := c.g.ctx, handle := h.toNat, st := .loading, fmt := f, units := need, elems := [], scales := [], stored := 0,
                                     load := some ld, pc := c.sp.pc }
                  let s2 := setMx { s1 with nextId := s1.nextId + 1 } cl fun m =>
                    let m := m.dropSlot c.g.ctx h.toNat
                    { m with slots := m.slots ++ [w], free := m.free - need }
                  Completes (exec i s) s2 c [.mbldReadEnd cl c.g.ctx h.toNat] 0 (fun g g' =>
                    status s2 0 g g' ∧ ∀ j, g'.counter j = g.counter j + if j = 3 then 1 else 0)
                  ∧ slotOf (mxOf s2 cl) c.g.ctx h.toNat = some w
                  ∧ (s.sreqs = [] → ((m.slots.filter (slotIs c.g.ctx h.toNat)).length ≤ 1) → (mxOf s2 cl).free + need = m.free + units
                      ∧ ∀ k ≠ cl, mxOf s2 k = mxOf s k))))
      ∧ (c.g.harvest = false → c.g.inRegion = false →
          let s2 := setMx s cl fun m => (m.setSlot c.g.ctx h.toNat fun w =>
            if w.st = .loading then { w with st := .releasing } else if w.st = .loaded then { w with st := .releasingOk } else w).sweep
          Completes (exec (.mbrel h) s) s2 c [] 0 (Kept s2)
          ∧ ((∀ w ∈ m.slots, mine w → w.st = .loaded ∧ w.load = none) → m.refs c.g.ctx h.toNat = false → slotOf (mxOf s2 cl) c.g.ctx h.toNat = none)))

/-- R40, R302 to R304: `dot` is the accumulator after chunk `j`. -/
def Obligations.MatrixTileResult : Prop :=
  ∀ (t : MTile) (w : WSlot) (i n : Nat) (row : List (BitVec 64)) (v : BitVec 64), t.accIn[i]? = some row → row[n]? = some v →
    let k := mxK t.fmt
    let kc := mxChunk t.fmt
    let f := fmtOf (if t.fmt = tF64 then tF64 else tF32)
    let av (j : Nat) : XV := mxValue t.fmt (t.ascale.getD i 0).toNat ((t.a.getD i []).getD j 0).toNat
    let bv (j : Nat) : XV := mxValue w.fmt (w.scales.getD n 0).toNat (w.elems.getD (n * k + j) 0).toNat
    let out := (tileResult t w)[i]?.bind (·[n]?)
    (t.rows.getLsbD i = false → out = some v)
    ∧ (t.rows.getLsbD i = true → (t.a.getD i []).length = k → n * k + k ≤ w.elems.length →
        ∃ dot : Nat → Nat, dot 0 = v.toNat ∧ out = some (BitVec.ofNat 64 (dot (k / kc)))
          ∧ ∀ h, h < k / kc → dot (h + 1) = rneTo f (xadd false (unpack f (dot h)) (sumXV ((List.range kc).map fun j => xmul (av (h * kc + j)) (bv (h * kc + j))))))

/-- R131, R339, R340. `s1` is the machine after the records' checks. -/
def Obligations.TraversalWords : Prop :=
  ∀ (s : State) (c : WCtx) (d : BitVec 7) (g : BitVec 2) (x : BitVec 6), Issues s c → c.eff ≠ 0 → TumblerFree c → c.g.inRegion = false →
    c.g.counter 5 < 255 → Readable c [⟨0, false, d.toNat, 0, .free⟩, ⟨3, false, d.toNat + 1, 0, .free⟩, ⟨3, false, d.toNat + 2, 0, .free⟩] →
    ∀ s1 rs, recPlaces s c g.toNat d.toNat = .ok (s1, rs) →
      let cl := c.g.core / 4
      let goes (i : Instr) (replays start : Bool) (mk : List (BitVec 8) → Trav) : Prop :=
        (2048 < unitRays s1 cl + rs.length → exec i s = .next (stalled s c))
        ∧ (unitRays s1 cl + rs.length ≤ 2048 →
          let s2 := releaseAct s1 c.key c.g.core 5 (pairedOf s1 c.g)
          ∃ rays : List Ray,
            (let s3 : State := { s2 with nextId := s2.nextId + 1 + rs.length, rays := s2.rays ++ rays }
             Completes (exec i s) s3 c (rays.map fun r => .traversalLaneEnd cl r.id) 0 fun g g' =>
              InFlight s3 c s2.nextId (fun q => q.ready = false ∧ q.elems = []) { g with ops := g'.ops } g'
                ∧ ∀ j, g'.counter j = g.counter j + if j = 5 then 1 else 0)
            ∧ rays.map (fun r => (r.lane, r.addr, r.loc)) = rs
            ∧ ∀ r ∈ rays, r.cl = cl ∧ r.key = c.key ∧ r.ctx = c.g.ctx ∧ r.replay = replays ∧ r.start = start ∧ r.status = none ∧ r.op = s2.nextId
                ∧ r.prog = mk (readHome { s2 with nextId := s2.nextId + 1 } (r.loc.span 256)))
      goes (.travStart d g x) false true (fun b => startTrav b (c.g.s x.toNat).toNat ((c.g.s (x.toNat + 1)).toNat % 2 ^ 32))
      ∧ goes (.trav d g) false false parseTrav ∧ goes (.trepStart d g) true true startTrep ∧ goes (.trep d g) true false parseTrav

/-- R343, R344. -/
def Obligations.BuildWords : Prop :=
  ∀ (s : State) (c : WCtx) (d x : BitVec 7) (i : BitVec 2), Issues s c → c.eff ≠ 0 → d.toNat < 112 →
    let f32s (n : Nat) : List Opnd := buildSrc i x n (.codes [tF32])
    let src (n k l : Nat) : Nat := rowF c ((f32s n).getD k ⟨0, false, 0, 0, .free⟩) l
    let old (k l : Nat) : Nat := c.g.val false (d.toNat + k) l % 2 ^ 32
    let box (l : Nat) : List XV := (List.range 6).map fun k => f32 (src 6 k l)
    let rows (n : Nat) : List Nat := rowsUp c.g d.toNat n
    (Readable c (rowOrder (rowsFrom 0 d.toNat 6 0 (.codes [tF32])) (f32s 6)) → (rows 6).Nodup →
      Completes (exec (.bunion d i x) s) s c [] 0 fun g g' => RowsOnly s c (rows 6) tF32 c.g.srg g g' ∧ ∀ l ∈ c.lanes, ∀ k < 6,
        g'.val false (d.toNat + k) l = (fminmax (fmtOf tF32) (decide (3 ≤ k)) (old k l) (src 6 k l)).bits)
    ∧ (Readable c (opD false d :: f32s 6) →
      Completes (exec (.bsah d i x) s) s c [] 0 (WritesRow s c false d.toNat (fun l v =>
        let ext (a : Nat) : XV := xsub ((box l).getD (a + 3) xzero) ((box l).getD a xzero)
        ((∃ a < 3, isNegV (ext a) = true) → v = 0)
        ∧ ((∀ a < 3, isNegV (ext a) = false) → (∃ k < 6, ((box l).getD k xzero).isNan = true) → v = 0x7FC0_0000)
        ∧ ((∀ a < 3, isNegV (ext a) = false) → (∀ k < 6, ((box l).getD k xzero).isNan = false) →
            v = rneTo (fmtOf tF32) (xscale 1 (sumXV [xmul (ext 0) (ext 1), xmul (ext 1) (ext 2), xmul (ext 2) (ext 0)])))) tF32 c.g.srg))
    ∧ (Readable c (rowOrder (rowsFrom 0 d.toNat 3 0 (.codes [tF32]) ++ [⟨3, false, d.toNat + 3, 0, .codes [tU32]⟩, ⟨3, false, d.toNat + 4, 0, .free⟩,
          ⟨3, false, d.toNat + 5, 0, .free⟩]) (f32s 6)) → (rows 6).Nodup →
      Completes (exec (.npack d i x) s) s c [] 0 fun g g' =>
        g' = { g with regs := g'.regs, tags := g'.tags, splits := g'.splits, susp := none, want := none, lastIssue := s.time }
        ∧ (∀ k < 4, g'.rowTag (c.g.rowNo 0 (d.toNat + k) 0) = BitVec.ofNat 5 (if k = 3 then tU32 else tF32))
        ∧ (∀ row lane, lane < g.width → (row ∉ rows 6 ∨ lane ∉ c.lanes) → g'.elem row lane = g.elem row lane)
        ∧ ∀ l ∈ c.lanes,
          (bit (old 3 l) 31 = true → (∀ k, k = 4 ∨ k = 5 → g'.val false (d.toNat + k) l = g.val false (d.toNat + k) l)
            ∧ bits (g'.val false (d.toNat + 3) l) 31 24 = bits (old 3 l) 30 24
            ∧ bit (g'.val false (d.toNat + 3) l) 31 = false
            ∧ ∀ a < 3,
              let lo := (box l).getD a xzero
              let hi := (box l).getD (a + 3) xzero
              let spans (e : Int) : Prop := tle hi (xadd false lo (.fin false 255 1 e)) = true
              let e := toS 8 (g'.val false (d.toNat + 3) l / 256 ^ a % 256)
              (finite lo = true → finite hi = true → tlt hi lo = false → (∃ e, -128 ≤ e ∧ e ≤ 127 ∧ spans e) →
                g'.val false (d.toNat + a) l = src 6 a l ∧ spans e ∧ ∀ e' : Int, -128 ≤ e' → e' < e → ¬ spans e')
              ∧ (finite lo = false ∨ finite hi = false ∨ tlt hi lo = true → g'.val false (d.toNat + a) l = 0xFF7F_FFFF ∧ e = 127))
          ∧ (bit (old 3 l) 31 = false → (∀ k < 4, g'.val false (d.toNat + k) l = old k l)
            ∧ g'.rowTag (c.g.rowNo 0 (d.toNat + 4) 0) = BitVec.ofNat 5 tU8 ∧ g'.rowTag (c.g.rowNo 0 (d.toNat + 5) 0) = BitVec.ofNat 5 tU8
            ∧ let lo (a : Nat) : XV := (box l).getD a xzero
              let hi (a : Nat) : XV := (box l).getD (a + 3) xzero
              let q (up : Bool) (a : Nat) (v : XV) : Nat := quantBound up v (f32 (old a l)) (toS 8 (old 3 l / 256 ^ a))
              let inverted : Prop := ∃ a < 3, tlt (hi a) (lo a) = true
              let byte (k : Nat) : Nat := (g'.val false (d.toNat + 4) l + 2 ^ 32 * g'.val false (d.toNat + 5) l) / 256 ^ k % 256
              byte 6 = 0 ∧ byte 7 = 0 ∧ ∀ a < 3, (inverted → byte a = 255 ∧ byte (a + 3) = 0)
                ∧ (¬ inverted → byte a = (if (lo a).isNan || (hi a).isNan then 0 else q false a (lo a))
                    ∧ byte (a + 3) = if (lo a).isNan || (hi a).isNan then 255 else q true a (hi a))))
    ∧ (Readable c (rowOrder (rowsFrom 0 d.toNat 2 0 .free) (buildSrc i x 3 .free)) → (rows 2).Nodup →
      Completes (exec (.mcode d i x) s) s c [] 0 fun g g' => RowsOnly s c (rows 2) tU64 c.g.srg g g' ∧ ∀ l ∈ c.lanes,
        let quant (v : XV) : Nat := match v with
          | .nan _ => 0
          | .inf neg => if neg then 0 else 2 ^ 21 - 1
          | v => (max 0 (min (2 ^ 21 - 1) (xfloor (xscale 21 v)))).toNat
        (catVal g' d.toNat 2 l).testBit 63 = false ∧ ∀ j < 21, ∀ k < 3,
          (catVal g' d.toNat 2 l).testBit (3 * j + k) = (quant (f32 (rowF c ((buildSrc i x 3 .free).getD k ⟨0, false, 0, 0, .free⟩) l))).testBit j)

/-- R342, R360, R361, R363. -/
def Obligations.HitAndRasterWords : Prop :=
  ∀ (s : State) (c : WCtx) (d a b : BitVec 7) (x p t : BitVec 3) (g j : BitVec 2) (n z : BitVec 1), Issues s c → c.eff ≠ 0 → c.g.inRegion = false →
    let ob := opB true j b (.codes [tF64])
    let hi : List Opnd := if g = 0 then [⟨3, false, a.toNat + 1, 0, .free⟩] else []
    let prim : Instr := .gemitPrim d n p
    let draw : Instr := .gemitDraw d x n p
    let frag : Instr := .frag d t z
    let y := (c.g.s d.toNat).toNat
    let rows15 : List Opnd := (List.range 15).map fun i => ⟨if i = 0 then 0 else 3, false, d.toNat + i, 0, if i < 12 then .codes [tF32] else .free⟩
    (∀ s1 rs, Readable c (⟨1, false, a.toNat, 0, .free⟩ :: ob :: hi) → recPlaces s c g.toNat a.toNat = .ok (s1, rs) →
      let r := rs.foldl (thitLane c ob) (settleOwn s1 c.key (rs.flatMap fun r => r.2.2.span 256), [])
      Completes (exec (.thit g p a j b) s) r.1 c [] 0 (WritesPred r.1 c p.toNat fun l => r.2.contains l))
    ∧ (c.g.kind ≠ .vertex → Readable c rows15 → Traps (exec prim s) s c 0x08 3 0 c.low)
    ∧ (∀ l, c.g.kind = .vertex → launchOf s c.g = some l →
        Readable c rows15 →
        let v (i l : Nat) : BitVec 32 := BitVec.ofNat 32 (c.g.val false (d.toNat + i) l)
        let ps : List Prim := c.lanes.map fun m => { draw := l.draw, vgroup := c.g.xyz.1, verts := (List.range 12).map (v · m),
                                                     idx := (List.range 3).map fun k => v (12 + k) m, left := [0, 1] }
        (primRoom s l.draw c.g.xyz.1 ps.length = true →
          let s2 : State := { s with raster := { s.raster with prims := s.raster.prims ++ ps } }
          let s3 := if n = 1 then nbWrite s2 c p.toNat true else s2
          Completes (exec prim s) s3 c [.primitiveSetup 0, .primitiveSetup 1] 0 (Kept s3))
        ∧ (primRoom s l.draw c.g.xyz.1 ps.length = false →
          (n = 0 → exec prim s = .next (stalled s c)) ∧ (n = 1 → Completes (exec prim s) s c [] 0 (WritesPred s c p.toNat fun _ => false))))
    ∧ (c.g.harvest = true → Traps (exec draw s) s c 0x03 0 y c.low)
    ∧ (c.g.harvest = false → y % 64 ≠ 0 → Traps (exec draw s) s c 0x08 2 y c.low)
    ∧ (∀ ls b s2 ts vi fi s3 cl, c.g.harvest = false → y % 64 = 0 → uniform s c 0 y 64 0 = .ok ls →
        drawBytes c y 64 (releaseAct s c.key c.g.core 5 (pairedOf s c.g)) = (.ok b, s2) →
        readDraw s2 c.g.ctx b (drawBytes c) s2 = (.ok (.ok (ts, vi, fi)), s3) →
        cwPlace s3 c (parseDraw b).cw (parseDraw b).cwa = .ok cl → s3.raster.draws.length < 16 →
        let q := addDraw s3 c.g.ctx none b y ts vi fi cl c.key c.g.team c.sp.pc
        ∀ dr, drawOf q.1 q.2 = some dr →
          let r := acceptDraw q.1 dr
          let s4 := if n = 1 then nbWrite r.1 c p.toNat true else r.1
          Completes (exec draw s) s4 c [.drawAccept q.2] 0 (WritesScalar s4 (d.toNat + 1) (BitVec.ofNat 64 r.2)))
    ∧ (c.g.kind ≠ .fragment → Readable c [⟨0, false, d.toNat, 0, .free⟩] → Traps (exec frag s) s c 0x08 3 0 c.low)
    ∧ (∀ f, fragTarget s c.g t.toNat = some f →
        let n := f.b / 4
        let qs := activeQuads s c
        (111 < d.toNat + n + z.toNat → Traps (exec frag s) s c 0x08 0 0 ((lanesOf c.g.width c.sp.mask).headD 0))
        ∧ (d.toNat + n + z.toNat ≤ 111 → Readable c ((List.range (n + z.toNat + 1)).map fun i =>
            ⟨if i = 0 then 0 else 3, false, d.toNat + i, 0, if z = 1 ∧ i = n then .codes [tF32] else .free⟩) →
          ((∃ q ∈ qs, t.toNat ∈ q.2.ended) → Traps (exec frag s) s c 0x08 1 0 c.low)
          ∧ ((∀ q ∈ qs, t.toNat ∉ q.2.ended) →
            let s2 := qs.foldl (fragQuad c d.toNat n (z == 1) t.toNat) s
            Completes (exec frag s) s2 c [] 0 (Kept s2)
            ∧ s2.raster.tickets.map (·.id) = s.raster.tickets.map (·.id)
            ∧ (∀ k ∈ s.raster.tickets, (k.target ≠ t.toNat ∨ ∀ e ∈ qs, k.quad ≠ e.2.id) → k ∈ s2.raster.tickets)
            ∧ ((qs.map (·.2.id)).Nodup → ∀ e ∈ qs, ∀ k ∈ s.raster.tickets, k.quad = e.2.id → k.target = t.toNat →
              ∃ k' ∈ s2.raster.tickets, k' = { k with sent := true, mask := k'.mask, colour := k'.colour, depth := k'.depth } ∧ ∀ i < 4,
                k'.mask.getLsbD i = ((e.2.cover.getD i 0).getLsbD k.sample && c.eff.getLsbD (e.1 + i)
                  && (c.g.val false (d.toNat + n + z.toNat) (e.1 + i)).testBit k.sample)
                ∧ k'.colour[i]? = some (BitVec.ofNat 64 (catVal c.g d.toNat n (e.1 + i)))
                ∧ k'.depth[i]? = some (if z = 1 then BitVec.ofNat 32 (c.g.val false (d.toNat + n) (e.1 + i)) else (e.2.zs.getD i []).getD k.sample 0)))))

/-- R6, R449, R78. -/
def Obligations.HostRegisterEvents : Prop :=
  ∀ (s : State) (off size la st q n : Nat) (v : BitVec 64) (w : Bool) (data : List (BitVec 8)),
    let ur (keep : Bool) (o : Out) : Prop := o = .next { s with hb := { s.hb with aer := s.hb.aer + 1, reply := if keep then s.hb.reply else none } }
    let quiet (n : Nat) : Prop := s.badCheck = [] ∧ s.cells = [] ∧ s.sreqs = [] ∧ s.slices.length + n < sliceLeast
    (off < 0x40_0000 → ¬ ((size = 4 ∨ size = 8) ∧ off % size = 0) →
        ur true (exec (.registerWrite off size v) s) ∧ ur w (exec (.bar0UnsupportedAccess off size w) s))
    ∧ (s.fw.state = 0 → size = 8 → off % 8 = 0 → exec (.registerWrite off size v) s = .next s)
    ∧ (s.fw.state = 3 ∨ s.fw.state = 4 → exec (.registerWrite 0x40 8 v) s = .next { s with hb := { s.hb with hostAddr := v } }
        ∧ ∃ t, exec (.registerWrite 0x44 4 v) s = .next t ∧ t = { s with hb := { s.hb with hostAddr := t.hb.hostAddr } }
            ∧ t.hb.hostAddr.toNat = v.toNat % 2 ^ 32 * 2 ^ 32 + s.hb.hostAddr.toNat % 2 ^ 32)
    ∧ (∃ t, exec .hbIdWrite s = .next t ∧ t.hb.hbId.toNat = s.hb.wval.toNat % 65536
        ∧ ∀ p < 12, bit (portOf t p).toNat 63 = false ∧ portRetry (portOf t p) = portRetry (portOf s p))
    ∧ (∃ t, exec .hbCtxtabWrite s = .next t ∧ t = { s with hb := { s.hb with ctxTab := t.hb.ctxTab } }
        ∧ (s.ctxs ≠ [] → t = s) ∧ (s.ctxs = [] → t.hb.ctxTab.toNat = s.hb.wval.toNat / 2 ^ 20 * 2 ^ 20))
    ∧ (∃ t, exec .qmQtableWrite s = .next t ∧ t.hb.qtable.toNat % 65536 = s.hb.wval.toNat % 2
        ∧ t.hb.qtable.toNat / 65536 = (if s.hb.qtable.toNat % 2 = 1 then s.hb.qtable.toNat else s.hb.wval.toNat) / 65536)
    ∧ (st < 2 → q < 4 → (v.setWidth 7).toNat ≤ 64 → s.tiles.all (fun e => e.1 / 16 ≠ 4 * st + q) → s.slices.length < sliceLeast →
        exec (.fbKwStoreWrite st q v) s = .next { s with hb := { s.hb with kwStore := Tab.store 16 s.hb.kwStore (4 * st + q) (v.setWidth 7) } })
    ∧ (st < 2 → (∀ c ∈ s.cells, c.parked = true → c.slice / 64 ≠ st) →
        exec (.fbCellAreaWrite st v) s = .next { s with hb := { s.hb with cellArea := Tab.store 0 s.hb.cellArea st v } })
    ∧ (bit s.hb.nbpCtl.toNat 63 = false → ∃ t, exec .sfNbpDataWrite s = .next t ∧ t.hb.nbpData = s.hb.wval
        ∧ bit t.hb.nbpCtl.toNat 63 = true ∧ t.agenda = s.agenda ++ [.bankProgramInstall])
    ∧ (bit s.hb.nbpCtl.toNat 63 = true → ∃ t, exec .bankProgramInstall s = .next t
        ∧ Tab.fetch 0 t.bankProg (s.hb.nbpCtl.toNat % 64) = s.hb.nbpData ∧ t.hb.nbpCtl.toNat = (s.hb.nbpCtl.toNat % 64 + 1) % 64
        ∧ ∀ k, k ≠ s.hb.nbpCtl.toNat % 64 → Tab.fetch 0 t.bankProg k = Tab.fetch 0 s.bankProg k)
    ∧ (barBacked s la n = false → ur false (exec (.bar4Read la n) s))
    ∧ (barBacked s la n = true → barLocked s la n = false → (∀ i < n, badLog s (la + i) = none) → quiet n →
        ∃ t, exec (.bar4Read la n) s = .next t ∧ t.hb = { s.hb with reply := some ((List.range n).map fun i => logByte s (la + i)) }
          ∧ ∀ a, logByte t a = logByte s a)
    ∧ (barBacked s la data.length = false → ur true (exec (.bar4Write la data) s))
    ∧ (barBacked s la data.length = true → barLocked s la data.length = false → s.stations = [] → s.poison = [] → quiet data.length →
        ∃ t, exec (.bar4Write la data) s = .next t ∧ ∀ a, logByte t a = if la ≤ a ∧ a < la + data.length then data.getD (a - la) 0 else logByte s a)

/-- R459 to R466, R448. The place of a vector's mask bit (log 95) and the expanders (log 4) are the model's. -/
def Obligations.HostOperationEvents : Prop :=
  ∀ (s : State),
    let ends (t : State) (k : Nat) : Prop := hostBusy t = true ∧ bits t.hb.hostOp.toNat 62 56 = k ∧ hostOpNo t = hostOpNo s
      ∧ t.agenda = s.agenda ++ [.hostopComplete]
    let a := s.hb.hostAddr.toNat / 128 * 128
    let image := (List.range s.hb.hostLen.toNat).map fun i => hostByte s ((s.hb.hostAddr.toNat + i) % 2 ^ 64)
    let sized : Prop := 256 ≤ s.hb.hostLen.toNat ∧ s.hb.hostLen.toNat ≤ 256 + 2 ^ 26
    let cleared (t : State) (hb : HostRegs) : Prop := t.ctxs = [] ∧ t.queues = [] ∧ t.groups = [] ∧ t.teams = [] ∧ t.l1 = [] ∧ t.slices = [] ∧ t.tcache = []
      ∧ t.surfs = [] ∧ t.hinge = [] ∧ t.agenda = [] ∧ t.issue = none
      ∧ t.hb = { hb with clusterMap := s.hb.clusterMap, bar4 := s.hb.bar4 }
      ∧ t.near = s.near ∧ t.far = s.far ∧ t.host = s.host
    (hostCut s = true → s.fw.state = 3 → sized → hostBusy s = true → ∀ e ∈ [(1, Instr.hostopResync), (2, .fwload), (3, .attest)], hostOpNo s = e.1 →
        ∃ t, exec e.2 s = .next t ∧ ends t 3 ∧ t.host = s.host ∧ t.fw = s.fw)
    ∧ (hostBusy s = true → hostOpNo s = 1 → hostCut s = false → s.cells = [] → ∃ t, exec .hostopResync s = .next t ∧ ends t 0
        ∧ Memory.read t.host a = 0x52#8
        ∧ ∀ b, (b < a ∨ a + 1052672 ≤ b) → Memory.read t.host b = Memory.read s.host b)
    ∧ (hostBusy s = true → hostOpNo s = 2 → hostCut s = false → s.fw.state = 3 ∨ s.fw.state = 4 →
        (sized → imageOk s.fw image = true → ∃ t, exec .fwload s = .next t ∧ ends t 0 ∧ t.fw.flash = image
            ∧ (s.fw.state = 3 → t.fw = { s.fw with flash := image })
            ∧ (s.fw.state = 4 → t.fw.state = 3 ∧ t.fw.running = image ∧ s.fw.svn.toNat ≤ t.fw.svn.toNat))
        ∧ (¬ (sized ∧ imageOk s.fw image = true) → ∃ t, exec .fwload s = .next t ∧ ends t 2 ∧ t.fw = s.fw))
    ∧ (hostBusy s = true → hostOpNo s = 3 → s.fw.state ≠ 3 → ∃ t, exec .attest s = .next t ∧ ends t 4 ∧ t.host = s.host)
    ∧ (hostBusy s = true → hostOpNo s = 3 → s.fw.state = 3 → hostCut s = false → s.cells = [] → ∃ t, exec .attest s = .next t ∧ ends t 0 ∧ t.near = s.near ∧ t.groups = s.groups)
    ∧ (hostBusy s = true → ∃ t, exec .hostopComplete s = .next t ∧ hostBusy t = false
        ∧ bits t.hb.hostOp.toNat 62 56 = bits s.hb.hostOp.toNat 62 56 ∧ hostOpNo t = hostOpNo s
        ∧ (vecMasked s.hb 4 = false → 4 ∈ t.hb.signals) ∧ (vecMasked s.hb 4 = true → (Tab.fetch 0 t.hb.msixPend 0).getLsbD 4 = true))
    ∧ (∃ t, exec .deviceReset s = .next t ∧ cleared t { HostRegs.reset with cxl := t.hb.cxl } ∧ t.time = 0 ∧ t.cycles = [] ∧ t.mx = []
        ∧ (writingFlash s = false → t.fw.flash = s.fw.flash) ∧ (writingFlash s = true → t.fw.flash = [])
        ∧ (imageOk s.fw t.fw.flash = true → t.fw.state = 3 ∧ t.fw.running = t.fw.flash ∧ t.hb.cxl = expanders)
        ∧ (imageOk s.fw t.fw.flash = false → t.fw.state = 4 ∧ t.fw.running = [] ∧ t.hb.cxl = []))
    ∧ (∃ t, exec .functionLevelReset s = .next t ∧ t.time = s.time ∧ t.fw = s.fw ∧ t.cycles = s.cycles
        ∧ cleared t { HostRegs.reset with fbStatus := s.hb.fbStatus, kwCount := s.hb.kwCount, sfStats := s.hb.sfStats, rasStat := s.hb.rasStat,
                                          cellRetired := s.hb.cellRetired, cxl := s.hb.cxl })

/-- R86 to R95. -/
def Obligations.HingeEvents : Prop :=
  ∀ (s : State) (st : Nat), st < 2 →
    let h := hubOf s st
    let f := hingeFrame s st
    let d := h.data
    let e := hingeOf s f
    let w := windowOf (f * 65536)
    let near := hTier d = 0
    let ended (t : State) (k : Nat) : Prop := bits (hubOf t st).cmd.toNat 62 59 = k ∧ hingeBusy t st = true ∧ (hubOf t st).ended = true
      ∧ .hingeCmdComplete st ∈ t.agenda
    let same (t : State) : Prop := t.hinge = s.hinge ∧ t.inUse = s.inUse ∧ t.affinity = s.affinity ∧ t.near = s.near ∧ t.far = s.far
    let placed : Prop := w < 5 ∧ (w = 0 ∨ w = 3 → near) ∧ (w = 1 ∨ w = 2 → ¬ near)
    (∀ op i, (op, i) ∈ [(1, Instr.hingeInstall st), (4, .hingeDonate st), (5, .hingeSetaff st)] → hingeOpen s st op = true →
        d.toNat / 2 ^ 62 ≠ 0 → ∃ t, exec i s = .next t ∧ ended t 1 ∧ same t)
    ∧ (hingeOpen s st 1 = true → hingeBad s st 0x2FFF_0000_07FF_FFFF = false →
        (hState e ≠ 0 → ∃ t, exec (.hingeInstall st) s = .next t ∧ ended t 2 ∧ same t)
        ∧ (hState e = 0 → ¬ placed → ∃ t, exec (.hingeInstall st) s = .next t ∧ ended t 3 ∧ same t)
        ∧ (hState e = 0 → placed → frameExists s (hTier d) (hPfn d) = false → ∃ t, exec (.hingeInstall st) s = .next t ∧ ended t 4 ∧ same t)
        ∧ (hState e = 0 → placed → frameExists s (hTier d) (hPfn d) = true → frameUsed s (hTier d) (hPfn d) = true →
            ∃ t, exec (.hingeInstall st) s = .next t ∧ ended t 7 ∧ same t)
        ∧ (hState e = 0 → placed → frameExists s (hTier d) (hPfn d) = true → frameUsed s (hTier d) (hPfn d) = false →
            ∃ t, exec (.hingeInstall st) s = .next t ∧ ended t 0 ∧ frameUsed t (hTier d) (hPfn d) = true
              ∧ hState (hingeOf t f) = 1 ∧ hTier (hingeOf t f) = hTier d ∧ hPfn (hingeOf t f) = hPfn d ∧ hCtx (hingeOf t f) = hCtx d
              ∧ hMig (hingeOf t f) = windowMig w ∧ ∀ k, k ≠ f → hingeOf t k = hingeOf s k))
    ∧ (hingeOpen s st 2 = true → hingeBad s st (BitVec.allOnes 64) = false →
        (hState e = 2 → exec (.hingeRelease st) s = .next s)
        ∧ (hState e = 0 → ∃ t, exec (.hingeRelease st) s = .next t ∧ ended t 6 ∧ same t)
        ∧ (hState e = 1 → ∃ t, exec (.hingeRelease st) s = .next t ∧ ended t 0 ∧ hingeOf t f = e &&& 0x3FFF_FFFF_FFFF_FFFF ∧ hState (hingeOf t f) = 0 ∧ (hubOf t st).data = e
            ∧ frameUsed t (hTier e) (hPfn e) = false ∧ (∀ k, k ≠ f → hingeOf t k = hingeOf s k) ∧ ∀ l ∈ t.slices, l.1 / 512 ≠ f))
    ∧ (hingeOpen s st 3 = true → hingeBad s st (BitVec.allOnes 64) = false →
        ∃ t, exec (.hingeRead st) s = .next t ∧ ended t 0 ∧ same t ∧ (hubOf t st).data = e)
    ∧ (hingeOpen s st 4 = true → hingeBad s st 0x2000_0000_07FF_FFFF = false → frameExists s (hTier d) (hPfn d) = true →
        frameUsed s (hTier d) (hPfn d) = false → h.moves = [] →
        (near → h.pool.length + h.zeroing.length < 4096 → ∃ t, exec (.hingeDonate st) s = .next t ∧ ended t 0
            ∧ (hubOf t st).zeroing = h.zeroing ++ [hPfn d] ∧ frameUsed t 0 (hPfn d) = true ∧ .backgroundZeroingComplete st ∈ t.agenda)
        ∧ (¬ near → h.farFree.length < 4096 → ∃ t, exec (.hingeDonate st) s = .next t ∧ ended t 0
            ∧ (hubOf t st).farFree = h.farFree ++ [hPfn d] ∧ frameUsed t 1 (hPfn d) = true)
        ∧ (4096 ≤ (if near then h.pool.length + h.zeroing.length else h.farFree.length) → ∃ t, exec (.hingeDonate st) s = .next t ∧ ended t 5 ∧ same t))
    ∧ (hingeOpen s st 5 = true → hingeBad s st 0xF = false →
        (9 ≤ d.toNat → ∃ t, exec (.hingeSetaff st) s = .next t ∧ ended t 3 ∧ same t)
        ∧ (d.toNat < 9 → s.slices = [] → s.cells = [] → ∃ t, exec (.hingeSetaff st) s = .next t ∧ ended t 0
            ∧ ∀ la, (affinityOf t la).toNat = if la / 2 ^ 21 = f / 32 then d.toNat else (affinityOf s la).toNat))
    ∧ (hingeOpen s st 6 = true → hingeBad s st (BitVec.allOnes 64) = false →
        ∃ t, exec (.hingeGetaff st) s = .next t ∧ ended t 0 ∧ same t ∧ (hubOf t st).data.toNat = (affinityOf s (f * 65536)).toNat)
    ∧ (hingeBusy s st = true → h.ended = true → ∃ t, exec (.hingeCmdComplete st) s = .next t ∧ same t ∧ hingeBusy t st = false
        ∧ bits (hubOf t st).cmd.toNat 62 59 = bits h.cmd.toNat 62 59 ∧ hingeOp t st = hingeOp s st ∧ hingeFrame t st = f)
    ∧ (∀ p ps, h.zeroing = p :: ps → ∃ t, exec (.backgroundZeroingComplete st) s = .next t ∧ (hubOf t st).zeroing = ps
        ∧ (hubOf t st).pool = h.pool ++ [p] ∧ ∀ a, Memory.read t.near a = if a / 65536 = p then 0 else Memory.read s.near a)
    ∧ (bit h.tier.toNat 1 = false → ∃ t, exec (.migrationEpochEnd st) s = .next t ∧ same t
        ∧ (hubOf t st).counts = h.counts.map fun c => (c.1, c.2 / 2))
    ∧ (∀ k pfn b, s.memWf = true → moveOf s st k = some (k, pfn, b) → hState (hingeOf s k) = 2 → pfn < 2 ^ 27 → s.time ≤ b + 40000 →
        moveSourceDead s k = false → moveTargetDead s k pfn = false →
        (∀ x ∈ s.badCheck ++ s.poison, ¬ (x.sp = .frame (hTier (hingeOf s k)) ∧ x.addr / 65536 = hPfn (hingeOf s k))) →
        ∃ t, exec (.migrationCopyComplete st k) s = .next t ∧ hState (hingeOf t k) = 1 ∧ hTier (hingeOf t k) = 1 - hTier (hingeOf s k)
          ∧ hPfn (hingeOf t k) = pfn ∧ moveOf t st k = none ∧ ∀ i < 65536, frameByte t (65536 * k + i) = frameByte s (65536 * k + i))
    ∧ (∀ k pfn b, moveOf s st k = some (k, pfn, b) → b + 40000 < s.time ∨ moveTargetDead s k pfn = true →
        ∃ t, exec (.migrationCopyComplete st k) s = .next t ∧ hState (hingeOf t k) = 1 ∧ hTier (hingeOf t k) = hTier (hingeOf s k)
          ∧ hPfn (hingeOf t k) = hPfn (hingeOf s k) ∧ moveOf t st k = none ∧ t.near = s.near ∧ t.far = s.far)
    ∧ (∀ k pfn b n, moveOf s st k = some (k, pfn, b) → b + 40000 ≤ max s.time n →
        ∃ t, exec (.migrationLockTimeout st k n) s = .next t ∧ hState (hingeOf t k) = 1 ∧ hTier (hingeOf t k) = hTier (hingeOf s k)
          ∧ hPfn (hingeOf t k) = hPfn (hingeOf s k) ∧ moveOf t st k = none ∧ t.near = s.near ∧ t.far = s.far)

/-- R81 to R83. -/
def Obligations.TranslationEvents : Prop :=
  ∀ (s : State) (st pasid va eng ctx key need : Nat), st < 2 → 100 ≤ eng → eng < 132 → key ≠ 0 → need < 4 →
    let h := hubOf s st
    let pg := va / 4096 * 4096
    let who (a : Bool) : XWho := ⟨eng, ctx, key, va, need, a⟩
    (∀ c, Tab.find s.ctxs ctx = some c → engStack s eng = st → tlookup s eng ctx va = none → hubEntry h c.pasid va = none →
        ((∀ x ∈ h.reqs, ¬ (x.pasid = c.pasid ∧ x.va = pg)) → hubCount h false < 4096 → h.waiting = [] →
          ∃ t, exec (.translationMiss eng ctx key va need) s = .next t ∧ (hubOf t st).reqs = h.reqs ++
            [{ pasid := c.pasid, va := pg, need, page := false, who := [who false] }])
        ∧ (∀ x, h.reqs = [x] → x.page = false → x.pasid = c.pasid → x.va = pg → x.need = need → who false ∉ x.who →
          ∃ t, exec (.translationMiss eng ctx key va need) s = .next t ∧ (hubOf t st).reqs = [{ x with who := x.who ++ [who false] }]))
    ∧ (∀ x t size r w a, h.reqs = [x] → x.page = false → x.pasid = pasid → x.va = pg → x.who = [who a] → h.waiting = [] →
        pageSizeOk size = true → r = true ∨ w = true → permits r w need = true → t + size ≤ s.hb.bar4 →
        ∃ u, exec (.atsCompletion st pasid va true t size r w) s = .next u ∧ .copyEngineComplete eng key ∈ u.agenda
          ∧ (hubOf u st).reqs = [] ∧ (hubEntry (hubOf u st) pasid va).map (fun e => (e.size, e.t, e.r, e.w)) = some (size, t / size * size, r, w)
          ∧ (tlookup u eng ctx va).map (fun e => (e.t + (va - e.va), e.r, e.w)) = some (t / size * size + va % size, r, w))
    ∧ (∀ x a, h.reqs = [x] → x.page = true → x.pasid = pasid → x.va = pg → x.who = [who a] → h.waiting = [] → s.stations = [] →
        (∃ u, exec (.pageRequestResponse st pasid va true) s = .next u ∧ (hubOf u st).reqs = [{ x with page := false, who := [who true] }])
        ∧ ∃ u, exec (.pageRequestResponse st pasid va false) s = .next u ∧ (hubOf u st).reqs = [] ∧ .copyEngineComplete eng key ∈ u.agenda
          ∧ xlate u eng ctx key va need = .fault 1)
    ∧ ∀ size, (∀ r ∈ s.sreqs, hasPasid s pasid r.ctx = false) → ∃ t, exec (.atsInvalidation pasid va size) s = .next t
        ∧ (∀ e, e ∈ t.tcache ↔ e ∈ s.tcache ∧ ¬ ((∃ c, Tab.find s.ctxs e.ctx = some c ∧ c.pasid = pasid) ∧ e.va < va + size ∧ va < e.va + e.size))
        ∧ (∀ k < 2, ∀ e, e ∈ (hubOf t k).entries ↔ e ∈ (hubOf s k).entries ∧ ¬ (e.pasid = pasid ∧ e.va < va + size ∧ va < e.va + e.size))
        ∧ t.agenda = s.agenda ∧ t.groups = s.groups
        ∧ ((pasid, va, size) ∈ t.invals ↔ (∃ e ∈ s.groups, hasPasid s pasid e.2.ctx = true ∧ e.2.buf ≠ [])
            ∨ ∃ r ∈ s.rays, hasPasid s pasid r.ctx = true ∧ r.status = none)

/-- R407 to R414. A doorbell while EN is 0 is the model's choice (log 135). -/
def Obligations.QueueEvents : Prop :=
  (∀ (s : State), qctlBusy s = true →
    let q := qctlQueue s
    let ends (t : State) (k : Nat) : Prop := bits t.hb.qctl.toNat 55 48 = k ∧ qctlBusy t = true ∧ qctlQueue t = q ∧ .qctlComplete ∈ t.agenda
    (queueOn s q = false → ∀ x, readEntry s q = some x → ∃ t, exec .queueLoad s = .next t ∧ ends t 0 ∧ queueOf t q = some x)
    ∧ (queueOn s q = false → readEntry s q = none → ∃ t, exec .queueLoad s = .next t ∧ ends t 2 ∧ t.queues = s.queues)
    ∧ (queueOn s q = true → ∃ t, exec .queueLoad s = .next t ∧ ends t 3 ∧ t.queues = s.queues)
    ∧ ∀ x, queueOf s q = some x →
      (∃ t, exec .queueDisable s = .next t ∧ ends t 0 ∧ queueOf t q = some ({ x with stopping := true } : Queue).unread)
      ∧ (x.on = true → x.err ≠ 0 → ∃ t, exec .queueReset s = .next t ∧ ends t 0 ∧ queueOf t q = some { x.unread with nextCmd := x.tail, stopping := true })
      ∧ (¬ (x.on = true ∧ x.err ≠ 0) → ∃ t, exec .queueReset s = .next t ∧ ends t 3 ∧ t.queues = s.queues)
      ∧ (qctlOp s = 2 → bits s.hb.qctl.toNat 55 48 = 0 → x.stopping = true → x.idle = false → exec .qctlComplete s = .next s)
      ∧ (qctlOp s = 2 → bits s.hb.qctl.toNat 55 48 = 0 → x.stopping = true → x.idle = true → ∃ t, exec .qctlComplete s = .next t
          ∧ qctlBusy t = false ∧ queueOf t q = some { x with on := false, active := false, stopping := false })
      ∧ (qctlOp s = 3 → bits s.hb.qctl.toNat 55 48 = 0 → x.stopping = true → x.idle = true → x.prog = 0 → ∃ t, exec .qctlComplete s = .next t
          ∧ qctlBusy t = false ∧ queueOf t q = some { x with stopping := false, err := 0, started := [], progress := x.tail, nextCmd := x.tail, dirty := false })
      ∧ (bits s.hb.qctl.toNat 55 48 ≠ 0 → ∃ t, exec .qctlComplete s = .next t ∧ qctlBusy t = false ∧ t.queues = s.queues
          ∧ bits t.hb.qctl.toNat 55 48 = bits s.hb.qctl.toNat 55 48))
  ∧ (∀ (s : State) (q code idx : Nat) (x : Queue), queueOf s q = some x → x.dying = false → vecMasked s.hb x.vec = false →
      (queueOf (queueError s q code idx) q).map (·.err) = some (if x.err = 0 then code else x.err) ∧ x.vec ∈ (queueError s q code idx).hb.signals)
  ∧ (∀ (s : State) (q : Nat) (v : BitVec 64) (x : Queue), queueOf s q = some x →
    let enabled := bit s.hb.qtable.toNat 0
    let inRange : Prop := x.progress ≤ v.toNat ∧ v.toNat ≤ x.progress + 2 ^ x.log2n ∧ x.tail ≤ v.toNat
    (x.on = false → exec (.queueTail q v) s = .next s)
    ∧ (x.on = true → enabled = false → exec (.queueTail q v) s = .next (setQ s q fun x => { x with bell := some v.toNat }))
    ∧ (x.on = true → enabled = true → x.active = true → inRange → ∃ t, exec (.queueTail q v) s = .next t
        ∧ t = { s with queues := t.queues, agenda := s.agenda ++ [.commandStart] }
        ∧ ∀ k, queueOf t k = if k = q then some { x with tail := v.toNat, bell := none } else queueOf s k)
    ∧ (x.on = true → enabled = true → ¬ inRange → exec (.queueTail q v) s = .next (queueError (setQ s q fun x => { x with bell := none }) q 1 x.nextCmd))
    ∧ (∀ b s1, s.queues = [(q, x)] → x.active = true → candidate s x = true → enabled = true → x.holdsBack = false → cmdBad b = false →
        engBytes engQm x.ctx (queueKey q) (x.ring + 64 * (x.nextCmd % 2 ^ x.log2n)) 64 s = (.ok b, s1) → queueOf s1 q = some x → mayStart s1 x b = true →
        ∃ t, exec .commandStart s = .next t ∧ t.agenda = cmdEvent (fieldAt b 0 1) :: (s1.agenda ++ [.commandStart])
          ∧ t.qcur = (q, x.nextCmd) :: s1.qcur ∧ (queueOf t q).map (·.nextCmd) = some (x.nextCmd + 1)
          ∧ (startedCmd t q x.nextCmd).isSome = true)
    ∧ (∀ c ls, waitOf x = some c → engCheck s engQm x.ctx (queueKey q) 1 ((List.range 8).map (c.a + ·)) = .ok ls →
        let r := engRead s engQm x.ctx ls
        r.2.2 = [] → waitMet c (leNat r.2.1) = true → exec (.waitComplete q) s = .next (cmdDone r.1 q c.idx))
    ∧ (∀ c n, waitOf x = some c → fieldAt c.bytes 0x18 8 ≠ 0 → c.since + fieldAt c.bytes 0x18 8 ≤ max s.time n →
        exec (.waitTimeout q n) s = .next (queueError { s with time := max s.time n } q 3 c.idx))
    ∧ (∀ c, x.started = [c] → c.idx = x.progress → c.ran = true → c.done = false → x.prog = 0 → x.dying = false → x.dirty = false →
        ∃ t, exec (.commandComplete q c.idx) s = .next t ∧ queueOf t q = some { x with progress := x.progress + 1, started := [] }))
  ∧ ∀ (s s1 : State) (q i : Nat) (x : Queue) (c : Cmd), curCmd s = some (s1, q, i, x, c) →
    let eight := (List.range 8).map (c.a + ·)
    (∀ t, (startedCmd t q i).isSome = true → (startedCmd (cmdDone t q i) q i).map (·.ran) = some true
        ∧ (cmdDone t q i).agenda = t.agenda ++ [.commandComplete q i])
    ∧ exec .queueFence s = .next (cmdDone s1 q i)
    ∧ (∀ ls, engCheck s1 engQm x.ctx (queueKey q) 2 eight = .ok ls →
        exec .queueSignal s = .next (cmdDone (engWrite s1 engQm x.ctx ls (leBytes 8 c.b) []) q i)
        ∧ exec .queueTimestamp s = .next (cmdDone (engWrite s1 engQm x.ctx ls (leBytes 8 s.time) []) q i))
    ∧ (∀ ls, engCheck s1 engQm x.ctx (queueKey q) 1 eight = .ok ls →
        let r := engRead s1 engQm x.ctx ls
        (r.2.2 = [] → waitMet c (leNat r.2.1) = true → exec .queueWait s = .next (cmdDone r.1 q i))
        ∧ (r.2.2 = [] → waitMet c (leNat r.2.1) = false → exec .queueWait s = .next r.1))
    ∧ (∀ f, surfCheck s1 x.ctx c.a 1 3 = .ok f → saOff c.a < f.bytes → (∀ j < f.nt, inFlight s1 (saHandle c.a) j = false) →
        exec .queueSfree s = .next (cmdDone (freeSurf s1 (saHandle c.a)) q i) ∧ Tab.find (freeSurf s1 (saHandle c.a)).surfs (saHandle c.a) = none)
    ∧ (∀ b s2 ls f, engBytes engQm x.ctx (queueKey q) c.a 64 s1 = (.ok b, s2) → engCheck s2 engQm x.ctx (queueKey q) 2 ((List.range 16).map (c.b + ·)) = .ok ls →
        parseTemplate b x.ctx 0 = some f → spillBacked s2 x.ctx f = true → exec .queueSalloc s = .next
          (cmdDone (engWrite (allocSurf s2 x.ctx b).1 engQm x.ctx ls (leBytes 8 (allocSurf s2 x.ctx b).2.2 ++ leBytes 8 (allocSurf s2 x.ctx b).2.1) []) q i))
    ∧ (∀ ls, bufferPages s1 x.ctx (queueKey q) c.a resyncSize = .ok ls → ∃ t, exec .queueResync s = .next t ∧ .commandComplete q i ∈ t.agenda)
    ∧ (∀ e, c.begun = false → hostEngine s1 = some e → ∃ m s2, exec .queueCopy s = .next (beginCmd (hostDesc s2 m) q i)
        ∧ s2 = { fqTake s1 (2000 + e) 64 (engEntries s1 e).length with nextId := s1.nextId + 1, engCmds := s1.engCmds ++ [m] }
        ∧ m.id = s1.nextId ∧ m.eng = e ∧ m.desc = [] ∧ m.descAddr = c.a ∧ m.value = BitVec.ofNat 64 c.b ∧ m.ctx = x.ctx ∧ m.queue = some (q, i))
    ∧ (∀ k img s2, c.begun = false → Tab.find s.ctxs x.ctx = some k →
        readImage (fun va n => engBytes engQm x.ctx (queueKey q) (va % 2 ^ 64) n) c.a s1 = (.ok (some img), s2) →
        img.constSize ≤ fieldAt c.bytes 0x18 4 → admits k img (fieldAt c.bytes 0x28 2) (fieldAt c.bytes 0x2A 2) (fieldAt c.bytes 0x2C 2) = true →
        img.coop = false → ∃ t, exec .queueLaunch s = .next t ∧ .teamPlacement 88 ∈ t.agenda ∧ ∃ l, Tab.find t.launches s2.nextId = some l
          ∧ l.lid = q * 2 ^ 48 + i % 2 ^ 48 ∧ l.ctx = x.ctx ∧ l.img = img ∧ l.nextTeam = 0 ∧ (l.x, l.y, l.z) = (fieldAt c.bytes 0x28 2, fieldAt c.bytes 0x2A 2, fieldAt c.bytes 0x2C 2))
    ∧ ∀ b s2 ts vi fi s3, c.begun = false → s.raster.draws = [] → engBytes engQm x.ctx (queueKey q) c.a 64 s1 = (.ok b, s2) →
        readDraw s2 x.ctx b (fun va n => engBytes engQm x.ctx (queueKey q) (va % 2 ^ 64) n) s2 = (.ok (.ok (ts, vi, fi)), s3) → s3.raster.draws = [] →
        (parseDraw b).cw ≠ 1 → (parseDraw b).cw ≠ 3 → ∃ t, exec .queueDraw s = .next t ∧ t.agenda = s3.agenda ++ [.drawAccept s3.nextId]
          ∧ ∃ d, t.raster.draws = [d] ∧ d.id = s3.nextId ∧ d.ctx = x.ctx ∧ d.queue = some (q, i) ∧ d.vimg = vi ∧ d.fimg = fi

/-- R415 to R422, R440 to R446, R452, R461, R462. -/
def Obligations.ContextEvents : Prop :=
  (∀ (s : State), ctxBusy s = true →
    let n := ctxNo s
    let ends (t : State) (k : Nat) : Prop := bits t.hb.ctxCtl.toNat 62 56 = k ∧ ctxBusy t = false ∧ ctxNo t = n
    (Tab.find s.ctxs n ≠ none → ∃ t, exec .ctxBind s = .next t ∧ ends t 3 ∧ t.ctxs = s.ctxs)
    ∧ (∀ c, Tab.find s.ctxs n = none → parseCtx (logBytes s (s.hb.ctxTab.toNat + 256 * n) 256) = some c →
        ((∃ e ∈ s.ctxs, e.2.pasid = c.pasid) → ∃ t, exec .ctxBind s = .next t ∧ ends t 2 ∧ t.ctxs = s.ctxs)
        ∧ ((∀ e ∈ s.ctxs, e.2.pasid ≠ c.pasid) → ∃ t, exec .ctxBind s = .next t ∧ ends t 0 ∧ Tab.find t.ctxs n = some c))
    ∧ (Tab.find s.ctxs n = none → ∀ i ∈ [Instr.ctxUnbind, .ctxKill, .ctxSwitchIn], ∃ t, exec i s = .next t ∧ ends t 3 ∧ t.ctxs = s.ctxs)
    ∧ (∀ c, Tab.find s.ctxs n = some c →
        (ctxHeld s n = true → ∃ t, exec .ctxUnbind s = .next t ∧ ends t 3 ∧ t.ctxs = s.ctxs)
        ∧ (ctxHeld s n = false → ∃ t, exec .ctxUnbind s = .next t ∧ ends t 0 ∧ Tab.find t.ctxs n = none ∧ ∀ e ∈ t.tcache, e.ctx ≠ n)
        ∧ (∃ t, exec .ctxKill s = .next t ∧ .killComplete ∈ t.agenda ∧ ∀ e ∈ t.groups, e.2.ctx = n → e.2.killed = true)
        ∧ (∃ t, exec .ctxSwitchIn s = .next t ∧ ends t 0 ∧ Tab.find t.ctxs n = some { c with inNow := true } ∧ .teamPlacement 88 ∈ t.agenda)
        ∧ (ctxOp s = 6 → s.teams = [] → ctxLeft s n = true → ∃ t, exec .ctxSwitchOut s = .next t ∧ ends t 0
            ∧ Tab.find t.ctxs n = some { c with inNow := false, leaving := false }))
    ∧ (namedLaunches s = [] → ∃ t, exec .ctxKillLaunch s = .next t ∧ ends t 4 ∧ t.groups = s.groups)
    ∧ (∀ k l, namedLaunches s = [(k, l)] → s.raster.draws = [] → (∀ e ∈ s.teams, e.2.resident = true) → ∃ t, exec .ctxKillLaunch s = .next t ∧ ends t 0
        ∧ .killComplete ∈ t.agenda ∧ (l.ctx, some l.lid) ∈ t.killing ∧ ∀ e ∈ t.groups, e.2.launch = k → e.2.killed = true)
    ∧ ((∀ e ∈ s.groups ++ s.saved, resumeNamed s e.2 = false) → ∃ t, exec .ctxResume s = .next t ∧ ends t 4 ∧ t.groups = s.groups)
    ∧ (∀ key g, Tab.find s.groups key = some g → resumeNamed s g = true → ∃ t, exec .ctxResume s = .next t ∧ ends t 0
        ∧ Tab.find t.groups key = some { g with park := .none, lastIssue := s.time })
    ∧ ((∀ e ∈ s.teams, ∀ l, Tab.find s.launches e.2.launch = some l → l.lid ≠ s.hb.ctxData0.toNat) →
        ∃ t, exec .ctxPreempt s = .next t ∧ ends t 4 ∧ t.teams = s.teams)
    ∧ (∀ tk x l, s.teams = [(tk, x)] → Tab.find s.launches x.launch = some l → l.lid = s.hb.ctxData0.toNat → x.tid = bits s.hb.ctxData1.toNat 47 0 →
        exec .ctxPreempt s = .next (setCtxCtl (preemptTeam s tk true) false 0))
    ∧ (∀ c, s.killing = [(c, none)] → killDone s (c, none) = true → ∃ t, exec .killComplete s = .next t ∧ t.killing = [] ∧ (ctxOp s = 3 → n = c → ends t 0)))
  ∧ (∀ (s : State) (w : Waiting) (l : Launch) (c : Ctx) (core cool : Nat), waiting s = [w] → w.team = none → Tab.find s.launches w.lk = some l →
      w.tid = l.nextTeam → Tab.find s.ctxs l.ctx = some c → l.img.coop = false →
      chooseCore s w.lk l.img (c.harvest && l.kind == .ordinary) cool = some core →
      ∃ t, exec (.teamPlacement cool) s = .next t ∧ (∃ x, Tab.find t.teams s.nextId = some x ∧ x.launch = w.lk ∧ x.tid = l.nextTeam ∧ x.core = core
          ∧ x.resident = true ∧ x.live = l.img.groups)
        ∧ Tab.find t.launches w.lk = some { l with nextTeam := l.nextTeam + 1, since := none })
  ∧ (∀ (s : State) (tk n : Nat) (x : Team) (l : Launch), Tab.find s.teams tk = some x → Tab.find s.launches x.launch = some l →
    let s2 : State := { s with time := max s.time n }
    let ready : Prop := x.resident = true ∧ x.saving = false ∧ x.harvest = false ∧ l.residency = [] ∧ teamLocked s tk = false
      ∧ ∃ e ∈ teamGroups s tk, intact e.2 = false
    let saves (t : State) : Prop := .teamSave x.launch tk ∈ t.agenda ∧ (Tab.find t.teams tk).map (fun y => (y.saving, y.draining)) = some (true, none)
    (∀ lk v b vk vt, Tab.find s.launches lk = some v → v.since = some b → b + 100000 ≤ s2.time → (∃ w ∈ waiting s2, w.lk = lk) → starvationVictim s2 (ctxPrio s v.ctx) v.img (ctxHarvest s v.ctx && v.kind == .ordinary) = some (vk, vt) →
        ∃ t, exec (.placementStarvation lk n) s = .next t ∧ t.agenda = s.agenda ++ [.preemptionRequest vt.launch vk])
    ∧ (x.draining = none → ready → ∃ t, exec (.preemptionRequest x.launch tk) s = .next t ∧ saves t)
    ∧ (x.resident = true → x.saving = false → x.harvest = false → x.draining = none → teamLocked s tk = true →
        exec (.preemptionRequest x.launch tk) s = .next { s with teams := Tab.put s.teams tk { x with draining := some s.time } })
    ∧ (∀ r, x.draining = some r → r + 20000 ≤ s2.time → ready → ∃ t, exec (.drainTimeout x.launch tk n) s = .next t ∧ saves t)
    ∧ ((∃ e ∈ teamGroups s tk, (coreInfo s e.2.core).hot = true) → x.placed + 2000000 ≤ s.time → x.draining = none → l.img.coop = false → ready →
        ∃ t, exec (.thermalMigration x.launch tk) s = .next t ∧ saves t ∧ (Tab.find t.teams tk).map (·.moving) = some true)
    ∧ (∀ c k ls,
        let s3 := ((teamGroups s tk).map (·.1)).foldl quiesce (setTeam s tk fun t => { t with saving := true })
        Tab.find s.ctxs l.ctx = some c → x.resident = true → x.harvest = false → (∀ e ∈ teamGroups s3 tk, quiet s3 tk e.1 e.2 = true) →
        freeTeamSlot s3 l.ctx c = some k → engCheck s3 engQm l.ctx (saveKey tk) 2 (segAddrs (saveAddr c k) (packTeam s3 l x (teamGroups s3 tk))) = .ok ls →
        ∃ t, exec (.teamSave x.launch tk) s = .next t ∧ (∀ y, Tab.find t.teams tk = some y → y.resident = false ∧ y.saving = false ∧ y.slot = k)
          ∧ (∀ e ∈ t.groups, e.2.team ≠ tk) ∧ .teamPlacement 88 ∈ t.agenda)
    ∧ (harvestTeams s x.core (fun t => match Tab.find s.launches t.launch with
          | some l => l.ctx == n
          | none => false) = [(tk, x)] → x.scratch = 0 → (∀ e ∈ teamGroups s tk, tileWords s e.1 = [] ∧ e.2.waits = [] ∧ ∀ r ∈ s.sreqs, r.key ≠ e.1) →
        exec (.harvestRevocation x.core 1 n) s = .next { s with teams := Tab.put s.teams tk { x with stopped := true }, agenda := s.agenda ++ [.teamPlacement 88] }))
  ∧ ∀ (s : State) (k n ceil : Nat) (up : Bool) (v w : BitVec 32),
    let tt := max s.time n
    let measured (o : Out) : Prop := ∃ t, o = .next t ∧ (clusterInfo t k).measured = tt ∧ (clusterInfo t k).ceiling =
      if ceil % 25 = 0 ∧ 0 < ceil ∧ ceil ≤ 2400 then ceil else (clusterInfo s k).ceiling
    (k < 88 → (coreInfo s k).hot ≠ up → ∃ t, exec (.thermalLimitCrossing k up v w) s = .next t ∧ (coreInfo t k).hot = up ∧ (up = false → .teamPlacement 88 ∈ t.agenda))
    ∧ (k < 22 → (∀ e ∈ s.groups, e.2.core / 4 ≠ k) → (clusterInfo s k).emptied + 10000000 ≤ tt → measured (exec (.ageingMeasurement k n v w ceil) s))
    ∧ (k < 22 → (clusterInfo s k).measured + 7200000000000 ≤ tt → measured (exec (.forcedAgeingMeasurement k n v w ceil) s))

/-- R85, R89, R102, R112 to R117, R127, R129, R204, R454 to R457. The unit that reads a peer table is the model's choice (log 128). -/
def Obligations.FabricEvents : Prop :=
  (∀ (s : State) (r : SReq), s.sreqs = [r] → r.ret = none → s.reroute = none → s.stations = [] → s.links = [] → s.fqueues = [] →
    (s.frames = [] ∧ r.here = true ∨ ∃ f, s.frames = [f] ∧ f.id = r.id ∧ f.cls = .request ∧ f.dst = r.station s) →
    let mk : Mark := { slice := r.slice s, dev := r.dev, src := r.src, seq := r.seq, time := s.time }
    let s3 : State := { s with sreqs := [], frames := [], marks := [mk] }
    (∀ a, r.kind = .atom a → s.marks = [] → exec (.sliceRequest r.id) s =
        .next (applyAtom (readCells (fillLines s3 [a.loc]) (fabricOf a.loc).1 (fabricOf a.loc).2 a.z) r.ctx a).1)
    ∧ (∀ l fmt v, r.kind = .ord l fmt v → s.marks = [] → exec (.orderedAddContribution r.id) s = .next (contribute s3 r.ctx l fmt v))
    ∧ (∀ m, (∃ a, r.kind = .atom a) → s.marks = [m] → m.slice = r.slice s → m.dev = r.dev → m.src = r.src → m.seq = r.seq →
        exec (.sliceRequest r.id) s = .next { s with sreqs := [], frames := [] }))
  ∧ (∀ (s : State) (src seq : Nat), ∃ t, exec (.atomicResponseRelease src seq) s = .next t
      ∧ ∀ w, w ∈ t.respWin ↔ w ∈ s.respWin ∧ ¬ (w.src = src ∧ w.seq = seq ∧ w.dev = s.hb.hbId.toNat % 65536))
  ∧ (∀ (s : State) (line core ctx : Nat), s.badCheck = [] →
      (s.slices.length < sliceLeast → ∃ t, exec (.sliceLineFill line) s = .next t ∧ (Tab.find t.slices line).isSome = true ∧ ∀ a, logByte t a = logByte s a)
      ∧ (s.slices.length < sliceLeast → core < 88 → l1Get s core false line = none → s.sreqs = [] → s.cells = [] →
          (s.l1.filter fun e => e.core == core && e.line % 256 == line % 256).length < 12 →
          ∃ t e, exec (.l1LineFill core line ctx) s = .next t ∧ l1Get t core false line = some e ∧ e.dirty = 0 ∧ e.data = homeLine s false line)
      ∧ ∀ l, Tab.find s.slices line = some l →
        (hState (hingeOf s (line / 512)) = 1 → frameLost s line = false → ∃ t, exec (.sliceWriteBack line) s = .next t ∧ Tab.find t.slices line = none
          ∧ ∀ i < 128, frameByte t (128 * line + i) = if l.dirty.getLsbD i then lineByte l.data i else frameByte s (128 * line + i))
        ∧ (hState (hingeOf s (line / 512)) = 0 → windowOf (128 * line) ≠ 4 → l.dirty ≠ 0 → s.heldWb = [] →
          let r : Rec := { cls := 2, kind := 0, detail := 1, ctx := l.ctx, source := 0x0800 + sliceStation (homeSlice s (128 * line)), time := s.time,
                           addr := 128 * line, pc := 0, who := 0 }
          exec (.sliceWriteBack line) s = .next (postRecs (dropSline (touchCount s (line / 512)) line) l.ctx [r])))
  ∧ (∀ (s : State) (n m l q : Nat), stationExists n = true → deadStation s n = false →
      (∀ f fs, waitingAt s n = f :: fs → s.reroute = none →
        ((stationOf s n).mark = none → ∃ t, exec (.injectionReserve n) s = .next t ∧ (stationOf t n).waited = 64
          ∧ (stationOf t n).mark = some (16 * f.ring s + slotAt s n (f.ring s) 1) ∧ t.frames = s.frames ∧ t.agenda = s.agenda)
        ∧ ((stationOf s n).mark.isSome = true → s.frames = [f] → fabricWhole s = true → slotKept s f = false →
          ∃ t, exec (.injectionReserve n) s = .next t ∧ (stationOf t n).mark = none ∧ arrived t f.id = true
            ∧ t.agenda = s.agenda ++ frameEvents s f.id))
      ∧ (∃ t, exec (.heartbeat n) s = .next t ∧ (∀ k < 128, Tab.fetch 0 t.beats (128 * k + n) = 0) ∧ t.frames = s.frames
          ∧ t.links = s.links.filter fun e => e.1 / 16 != n || decide (16 ≤ e.2))
      ∧ (stationExists m = true → deadStation s m = false → neighbours n m = true →
        let k := Tab.fetch 0 s.beats (128 * n + m)
        (k < 2 → ∃ t, exec (.heartbeatMiss n m) s = .next t ∧ Tab.fetch 0 t.beats (128 * n + m) = k + 1
            ∧ t.stations = s.stations ∧ t.reroute = s.reroute)
        ∧ (2 ≤ k → ∃ t, exec (.heartbeatMiss n m) s = .next t ∧ deadStation t m = true ∧ deadStation t (stationTwin m) = true
            ∧ t.reroute.isSome = true))
      ∧ (l < 5 → Tab.fetch 0 s.links (16 * n + l) < 16 → ∃ t, exec (.linkRetryFailure n l) s = .next t
          ∧ Tab.fetch 0 t.links (16 * n + l) = Tab.fetch 0 s.links (16 * n + l) + 1
          ∧ (Tab.fetch 0 s.links (16 * n + l) = 15 → t.reroute.isSome = true) ∧ (Tab.fetch 0 s.links (16 * n + l) < 15 → t.reroute = s.reroute))
      ∧ (∀ b ds, s.reroute = some (b, ds) → s.interests = [] →
          let ids := ((s.frames.filter fun f => f.leg == 0).map (·.id)).eraseDups
          (s.stations = [] → ∃ t, exec (.rerouteResume m) s = .next t ∧ t.reroute = none ∧ t.paused = [] ∧ t.sreqs = s.sreqs ∧ t.frames = s.frames
            ∧ t.agenda = (ids.filter ds.contains ++ ids.filter fun i => !ds.contains i).flatMap (frameEvents s) ++ s.paused ++ s.agenda)
          ∧ (∀ r, s.sreqs = [r] → deadStation s (r.station s) = true → ds.contains r.id = true → s.kflits = [] → s.engCmds = [] → Tab.find s.groups r.key = none →
            ∃ t, exec (.rerouteResume m) s = .next t ∧ t.reroute = none ∧ t.sreqs = []))
      ∧ (∀ k b, fqBlocked s q = some k → (fqOf s q).since = some b → b + 512 ≤ fabricNow s → ∃ t, exec (.pawlLaunch q) s = .next t
          ∧ t.pawls = s.pawls ++ [{ origin := q, atq := k, hops := 0 }] ∧ t.agenda = s.agenda ++ [.pawl 0] ∧ (fqOf t q).since = some (fabricNow s))
      ∧ (∀ p, s.pawls = [p] → p.atq = p.origin → ∃ t, exec (.pawl 0) s = .next t ∧ t.pawls = []
          ∧ ((fqOf s p.origin).spent = false → (fqOf t p.origin).grant = true ∧ (fqOf t p.origin).spent = true)
          ∧ ((fqOf s p.origin).spent = true → t.fqueues = s.fqueues))
      ∧ (∀ p k, s.pawls = [p] → p.atq ≠ p.origin → p.hops < 1024 → fqBlocked { s with pawls := [] } p.atq = some k → ∃ t, exec (.pawl 0) s = .next t
          ∧ t.pawls = [{ p with atq := k, hops := p.hops + 1 }] ∧ t.agenda = s.agenda ++ [.pawl 0]))
  ∧ (∀ (s : State) (m : EngCmd) (q i : Nat), cmdOf s m.id = some m → m.cls = 0 → m.queue = some (q, i) →
      let gone (t : State) : Prop := (∀ e ∈ t.engCmds, e.id ≠ m.id) ∧ .commandComplete q i ∈ t.agenda
      (m.failed = none → runs s m = true → m.desc ≠ [] → m.paid = true → (parseCopy m.desc).cw = 0 →
        ∃ t, exec (.copyEngineComplete m.eng m.id) s = .next t ∧ gone t ∧ t.near = s.near ∧ t.slices = s.slices)
      ∧ (m.failed = none → runs s m = true → m.desc ≠ [] → m.paid = false →
        exec (.copyEngineComplete m.eng m.id) s = .next (moveCmd s m (parseCopy m.desc)))
      ∧ ∀ c det a, m.failed = some (c, det, a) → ∃ t, exec (.engineCommandFault m.eng m.id (BitVec.ofNat 8 c) (BitVec.ofNat 64 a)) s = .next t ∧ gone t)
  ∧ ∀ (s : State) (p dev la : Nat) (data : List (BitVec 8)) (crc : BitVec 16),
      (p < 12 → dev < 65536 → ∃ t, exec (.peerPortTrained p dev) s = .next t ∧ bit (portOf t p).toNat 63 = true ∧ portRemote (portOf t p) = dev
        ∧ portRetry (portOf t p) = portRetry (portOf s p))
      ∧ (p < 12 → bit (portOf s p).toNat 63 = true → portRetry (portOf s p) < 2 ^ 31 →
          (∃ k < 12, k ≠ p ∧ bit (portOf s k).toNat 63 = true ∧ portRemote (portOf s k) = portRemote (portOf s p) ∧ deadStation s (peerStation k) = false) →
          ∃ t, exec (.peerPortDown p) s = .next t ∧ bit (portOf t p).toNat 63 = false ∧ portRetry (portOf t p) = portRetry (portOf s p) + 16 ∧ t.sreqs = s.sreqs)
      ∧ ∀ src seq ctx rctx retries c k, p < 12 → bit (portOf s p).toNat 63 = true → s.stations = [] → s.xfaults = [] → Tab.find s.ctxs rctx = some c → c.peerTab ≠ 0 →
          let s0 := setPort s p (portWord true (portRemote (portOf s p)) (min (2 ^ 32 - 1) (portRetry (portOf s p) + retries)))
          let slice := homeSlice s la
          let ev (coll : Bool) := exec (.peerReceive ⟨p, src, seq, ctx, rctx, retries, coll⟩ la data crc false) s
          peerNamed s0 engQm rctx c.peerTab (portRemote (portOf s p)) ctx 255 = some k →
          (k = 0 → ∀ coll, ev coll = .next s0)
          ∧ (k ≠ 0 → ev true = .next (peerPart s0 rctx k la data (crc16 data != crc)))
          ∧ (k ≠ 0 → data.length = 64 → la % 64 = 0 → la < 2 ^ 43 → hState (hingeOf s (la / 65536)) = 1 → s.cells = [] →
              s.slices.length < sliceLeast → s.poison = [] → s.badCheck = [] → (markRoom s slice (portRemote (portOf s p)) src).isSome = true →
              (seenSeq s slice (portRemote (portOf s p)) src seq = true → ev false = .next s0)
              ∧ (seenSeq s slice (portRemote (portOf s p)) src seq = false →
                (crc16 data = crc → ∃ t, ev false = .next t ∧ isPoisoned t ⟨.log, la⟩ = false ∧ seenSeq t slice (portRemote (portOf s p)) src seq = true
                  ∧ ∀ a, logByte t a = if la ≤ a ∧ a < la + 64 then data.getD (a - la) 0 else logByte s a)
                ∧ (crc16 data ≠ crc → ∃ t, ev false = .next t ∧ isPoisoned t ⟨.log, la⟩ = true)))

/-- R143 to R152, R159. The unit that reads a backing address is the model's choice (log 133). -/
def Obligations.KeywayEvents : Prop :=
  ∀ (s : State) (id n key ctx : Nat), id < s.nextId →
    let s1 := bringFrame s id
    (∀ wp prev src exp, flitOf s id = some (.interest wp prev src key ctx exp) → deadStation s wp = false → arrived s1 id = true →
        interestsWith s1 id = [id] → liveAt s wp key ctx = [] →
      (∀ x, wp = keyStation key → tileAt s key ctx = some x → 1 < x.ret →
        exec (.interestArrival id) s = .next (dropFlit (spendTile (fanOut s1 [prev] key ctx x.data x.bad 0) x) id))
      ∧ (wp ≠ keyStation key → prev ≠ wp → (s.interests.filter fun e => e.wp == wp && decide (s.time < e.expiry)).length < 1024 →
        ∃ t, exec (.interestArrival id) s = .next t ∧ flitOf t id = none
          ∧ ∃ e ∈ t.interests, e.wp = wp ∧ e.key = key ∧ e.ctx = ctx ∧ e.expiry = exp ∧ e.ret = [prev] ∧ e.locals = false)
      ∧ (wp ≠ keyStation key → 1024 ≤ (s.interests.filter fun e => e.wp == wp && decide (s.time < e.expiry)).length →
        exec (.interestArrival id) s = .next s1))
    ∧ (∀ wp exp e, flitOf s id = some (.refresh wp key ctx exp) → s.interests = [e] → e.live s wp key ctx = true → e.expiry < exp → e.fwd = none →
        ∃ t, exec (.refreshArrival id) s = .next t ∧ flitOf t id = none ∧ t.interests = [{ e with expiry := exp }])
    ∧ (∀ wp, ∃ t, exec (.interestExpiry wp key ctx n) s = .next t ∧ ∀ e, e ∈ t.interests ↔ e ∈ s.interests
        ∧ ¬ (e.wp = wp ∧ e.key = key ∧ e.ctx = ctx ∧ e.expiry ≤ max s.time n))
    ∧ (∀ r, recOf s id = some r → r.expiry ≤ max s.time n → r.began = none → r.owe = none → r.cw = 0 →
        ∃ t, exec (.requesterRecordExpiry id n) s = .next t ∧ recOf t id = none)
    ∧ (∀ p data bad, flitOf s id = some (.put p data bad) → unreadBefore s p.gkey id = false → deadStation s (keyStation p.key) = false →
        deadStation s (p.station s) = false → arrived s1 id = true → earlierPuts s1 p.cl (keyHome p.key) id = s1 →
        ((tileAt s p.key p.ctx).isSome = true →
          (p.gkey = 0 → ∃ t, exec (.kputArrival id) s = .next t ∧ flitOf t id = none ∧ t.tiles = s.tiles ∧ .copyEngineComplete p.pend p.op ∈ t.agenda)
          ∧ (p.gkey ≠ 0 → exec (.kputArrival id) s = .next (giveValue (finishOp (dropFlit s1 id) p.gkey p.op none) p.gkey p.pend 3)))
        ∧ (p.gkey = 0 → tileAt s p.key p.ctx = none → dirAt s p.key p.ctx = none → liveAt s (keyStation p.key) p.key p.ctx = [] → isClosed s p.key p.ctx = false →
            p.ret ≠ 0 → storeUsed s (keyHome p.key / 16) + data.length ≤ storeSize s (keyHome p.key / 16) →
            ∃ t, exec (.kputArrival id) s = .next t ∧ flitOf t id = none ∧ t.tiles = s.tiles ++
              [(keyHome p.key, { key := p.key, ctx := p.ctx, data, bad, len := data.length, ret := p.ret, backing := p.backing, cl := p.cl })]))
    ∧ (∀ wp data bad code, flitOf s id = some (.tile wp key ctx data bad code) → deadStation s wp = false → (s.msgQ.find? fun e => e.2.id == id) = none →
        (liveAt s wp key ctx = [] → s.recs = [] → exec (.tileArrival id) s = .next (dropFlit s id))
        ∧ (∀ e w, liveAt s wp key ctx = [e] → e.ret = [w] → e.locals = false → s.recs = [] → ∃ t, exec (.tileArrival id) s = .next t
            ∧ flitOf t id = none ∧ (s.nextId, .tile w key ctx data bad code) ∈ t.kflits ∧ ∀ e' ∈ t.interests, ¬ (e'.wp = wp ∧ e'.key = key ∧ e'.ctx = ctx)))
    ∧ (∀ b len ret ls, flitOf s id = some (.refetch key ctx b len ret) →
        let eng := 100 + 4 * (keyHome key / 16)
        let x := engRead (clearXfaults s eng id) eng ctx ls
        engCheck s eng ctx id 1 ((List.range len).map (b + ·)) = .ok ls →
        exec (.backingRefetchComplete id) s = .next (fanOut (dropFlit x.1 id) ret key ctx x.2.1 x.2.2 0))
    ∧ (∀ tensor iter g p cl shut acks k slice, let f := KFlit.close tensor iter ctx g p cl shut acks k false
        s.kflits = [(id, f)] → slice < 128 →
        (slice ∉ shut → s.interests = [] → deadStation s (sliceStation slice) = false → ∃ t, exec (.closeNoticeArrival id slice) s = .next t ∧ .closeAck id slice ∈ t.agenda
          ∧ (slice, ctx, tensor, iter) ∈ t.closed ∧ flitOf t id = some (.close tensor iter ctx g p cl (slice :: shut) acks k false))
        ∧ (slice ∈ shut → slice ∉ acks →
          (acks.length < 127 → exec (.closeAck id slice) s = .next (setFlit s id (.close tensor iter ctx g p cl shut (slice :: acks) k false)))
          ∧ (acks.length = 127 → exec (.closeAck id slice) s = .next (giveValue (dropFlit s id) g p k))))

/-- R166 to R169, R171. The discard at a bad sector (log 136) and the order of waiters (log 125) are the model's. -/
def Obligations.MessageEvents : Prop :=
  (∀ (s : State) (m : Msg), s.outMsgs = [m] → m.away = none → deadStation s (m.station s) = false → deadStation s (clusterStation s (m.core / 4)) = false →
    let s1 := fqLeave (bringFrame s m.id) (200 + m.core) (heldMsgs (bringFrame s m.id) m.core).length
    let full := fqFull s1 (100 + m.cluster) 64 (s.msgQ.filter fun e => e.1 == m.cluster).length
    arrived s1 m.id = true →
    (ctxResident s m.ctx = true → full = false →
      ∃ t, exec (.messageArrival m.id) s = .next t ∧ t.outMsgs = [] ∧ t.msgQ = s.msgQ ++ [(m.cluster, m)] ∧ .handlerDispatch m.cluster ∈ t.agenda)
    ∧ (ctxResident s m.ctx = true → full = true → exec (.messageArrival m.id) s = .next s1)
    ∧ (ctxResident s m.ctx = false → exec (.messageArrival m.id) s = .next (loseMsg (takeOut s1 m) m)))
  ∧ (∀ (s : State) (m : Msg) (cl k : Nat) (c : Ctx) (ls : List Loc), s.msgQ = [(cl, m)] → m.cluster = cl → handlerCore s m = some k →
    Tab.find s.ctxs m.ctx = some c → m.data.length ≤ 256 → engCheck s (engStation cl) m.ctx m.id 1 ((List.range 8).map (c.htab + 8 * m.handler + ·)) = .ok ls →
    let r := engRead s (engStation cl) m.ctx ls
    let e := leNat r.2.1
    (c.htab = 0 → exec (.handlerDispatch cl) s = .next (discardMsg s m))
    ∧ (c.htab ≠ 0 → (e % 2 = 0 ∨ r.2.2 ≠ []) → exec (.handlerDispatch cl) s = .next (discardMsg r.1 m))
    ∧ ∀ hs, c.htab ≠ 0 → e % 2 = 1 → r.2.2 = [] → engCheck r.1 (engStation cl) m.ctx m.id 1 ((List.range 4).map (e / 4 * 4 + ·)) = .ok hs →
      let h := engRead r.1 (engStation cl) m.ctx hs
      let good := headerKind (BitVec.ofNat 32 (leNat h.2.1)) = 4 ∧ h.2.2 = []
      (¬ good → exec (.handlerDispatch cl) s = .next (discardMsg h.1 m))
      ∧ (good → m.bad = [] → ∃ t g, exec (.handlerDispatch cl) s = .next t ∧ t = startHandler (takeMsg h.1 m) m c k (e / 4 * 4)
        ∧ t.msgQ = [] ∧ Tab.find t.groups (h.1.nextId + 1) = some g ∧ g.kind = .handler ∧ g.core = k ∧ g.ctx = m.ctx ∧ g.width = 16
        ∧ (g.s 0, g.s 1, g.s 2, g.s 3) = (BitVec.ofNat 64 m.core, BitVec.ofNat 64 m.data.length, BitVec.ofNat 64 m.handler, BitVec.ofNat 64 m.peer)
        ∧ g.deadline = s.time + 1000000))
  ∧ (∀ (s : State) (key n : Nat) (g : Group), Tab.find s.groups key = some g → g.kind = .handler →
    let s2 : State := { s with time := max s.time n }
    (s2.time < g.deadline → exec (.handlerWatchdog key n) s = .next s2)
    ∧ (g.deadline ≤ s2.time → exec (.handlerWatchdog key n) s =
        .next (standing s2 key (groupRec s2 g ⟨0x10, 0, 0, 0⟩ ((g.splits.head?.map (·.2.pc)).getD 0) false))))
  ∧ ∀ (s : State) (r : SReq) (o : QOp), s.sreqs = [r] → r.kind = .queue o → cutOff s o.desc = false →
    (r.waiting = false → (r.here = false → arrived (bringFrame s r.id) r.id = true ∧ sliceFull (bringFrame s r.id) (r.slice (bringFrame s r.id)) = false) →
      let s2 := if r.here then s else arriveQueue (bringFrame s r.id) r
      (o.vals.length ≤ o.avail s2 → windowRoom s2 r (r.slice s2) = true → exec (.sliceQueueOperation r.id) s = .next (moveQueue s2 { r with here := true } o))
      ∧ (o.avail s2 < o.vals.length → exec (.sliceQueueOperation r.id) s = .next { s2 with sreqs := [{ r with here := false, waiting := true }] }))
    ∧ (r.waiting = true → r.here = false → (o.vals.length ≤ o.avail s → windowRoom s r (r.slice s) = true → exec (.sliceQueueOperation r.id) s = .next (moveQueue s r o))
      ∧ (o.avail s < o.vals.length → exec (.sliceQueueOperation r.id) s = .next s))

/-- R185, R187, R193, R195, R304, R311, R313, R315, R316, R339. -/
def Obligations.EngineEvents : Prop :=
  (∀ (s : State) (cl : Nat) (x : MTile) (w : WSlot) (b : Nat), (mxOf s cl).tiles = [x] → eligible (mxOf s cl) x = true →
    slotOf (mxOf s cl) x.ctx x.handle = some w → x.since = some b →
    (mxNow s cl < b + 4096 → x.issued + 3 ≤ mxNow s cl → (mxOf s cl).used + passUnits [x] ≤ (mxOf s cl).budget →
      ∃ t, exec (.matrixPassGrant cl) s = .next t ∧ .matrixTileWriteback cl x.id ∈ t.agenda ∧ (mxOf t cl).used = (mxOf s cl).used + passUnits [x]
        ∧ (mxOf t cl).tiles = [{ x with granted := true, accIn := tileResult x w }])
    ∧ (mxNow s cl < b + 4096 → x.issued + 3 ≤ mxNow s cl → (mxOf s cl).budget < (mxOf s cl).used + passUnits [x] → x.cls ≠ 0 →
      ∃ t, exec (.matrixPassGrant cl) s = .next t ∧ (mxOf t cl).tiles = [x] ∧ (mxOf t cl).held = some (x.id, mxNow s cl)
        ∧ (mxOf t cl).stall = min (2 ^ 32 - 1) ((mxOf s cl).stall + (match (mxOf s cl).held with
          | some (i, k) => if i = x.id then mxNow s cl - k else 1
          | none => 1)))
    ∧ (b + 4096 ≤ mxNow s cl → ∃ t, exec (.reservationAging cl x.id) s = .next t ∧ (mxOf t cl).tiles = [{ x with aged := true }]))
  ∧ (∀ (s : State) (cl : Nat) (x : MTile), (mxOf s cl).tiles = [x] →
    (x.granted = false → exec (.matrixTileWriteback cl x.id) s = .next s)
    ∧ (x.granted = true → ∃ t, exec (.matrixTileWriteback cl x.id) s = .next t ∧ (mxOf t cl).tiles = []))
  ∧ (∀ (s : State) (cl : Nat) (v : BitVec 16),
    ((mxOf s cl).clock + 1024 ≤ mxNow s cl → ∃ t, exec (.governorWindow cl) s = .next t ∧ (mxOf t cl).used = 0
      ∧ (mxOf t cl).clock = mxNow s cl / 1024 * 1024 ∧ (mxOf t cl).budget = (mxOf s cl).budget)
    ∧ (mxNow s cl < (mxOf s cl).clock + 1024 → exec (.governorWindow cl) s = .next s)
    ∧ (cl < 22 → ∃ t, exec (.governorBudgetChange cl v) s = .next t ∧ (mxOf t cl).budget = v.toNat ∧ (mxOf t cl).used = (mxOf s cl).used))
  ∧ (∀ (s : State) (cl ctx b old g : Nat), (mxOf s cl).bound ctx = false → (∃ x ∈ (mxOf s cl).tiles, x.ctx = ctx ∧ x.granted = false) →
    bankVictim s cl ctx = some (b, old, g) → ctxHarvest s old = false → ∃ t, exec (.contextBankSpill cl ctx) s = .next t
      ∧ Tab.find (mxOf t cl).banks b = some (ctx, mxNow s cl) ∧ old ∈ (mxOf t cl).spilled)
  ∧ (∀ (s : State) (cl ctx handle : Nat) (w : WSlot) (ld : WLoad) (ls : List Loc) (es : List (BitVec 64)) (sc : List (BitVec 8)) (n : Nat),
    slotOf (mxOf s cl) ctx handle = some w → w.load = some ld → imgAll s cl ctx w.fmt ld = .inr (ls, es, sc, n) →
    let r := touchPlaces (if ld.inSp then s else countLines s (unitSource s (engMx cl)) false ls) ctx ls
    poisonedAt r ls = [] → ∃ t, exec (.mbldReadEnd cl ctx handle) s = .next t ∧ t = imgDone r cl w ld es sc n ∧ .matrixPassGrant cl ∈ t.agenda)
  ∧ (∀ (s s2 : State) (h n key : Nat) (g : Group) (f : Surf), Tab.find s.surfs h = some f → Tab.find s.groups key = some g → g.want = some (.tile h n) →
    restoreTile s h n = (s2, 0) →
      ∃ t, exec (.tileRestore h n) s = .next t ∧ ∀ x, Tab.find s2.groups key = some x → x.want = some (.tile h n) → (Tab.find t.groups key).map (·.want) = some none)
  ∧ (∀ (s : State) (st grp h n : Nat) (f : Surf), Tab.find s.surfs h = some f →
    (List.range f.nt).find? (fun x => tileHome f x == (st, grp) && (tslotOf s h x).isNone && tileAsked s h x) = some n →
    ((freeCol s st grp f.k).isSome = true → exec (.tileEviction st grp h) s = .next { s with agenda := s.agenda ++ [.tileRestore h n] })
    ∧ (∀ v, freeCol s st grp f.k = none → spaceVictim s [] st grp = some v → ∃ t, exec (.tileEviction st grp h) s = .next t
        ∧ tslotOf t v.handle v.tile = none ∧ Tab.fetch 0 t.tlast (skey v.handle v.tile) = v.last ∧ .tileRestore h n ∈ t.agenda)
    ∧ (freeCol s st grp f.k = none → spaceVictim s [] st grp = none → exec (.tileEviction st grp h) s = .next s))
  ∧ (∀ (s : State) (st grp : Nat), exec (.scrubBurst st grp) s = .next s)
  ∧ (∀ (s : State) (st : Nat) (m : EngCmd), (engEntries s (800 + st)).head? = some m → m.failed = none →
    (m.paid = true → exec (.nbxCommand st) s = .next (payCmd s m (parseNbx m.desc).cw (parseNbx m.desc).cwa))
    ∧ (m.paid = false → exec (.nbxCommand st) s = .next (nbFinish s m (parseNbx m.desc))))
  ∧ ∀ (s : State) (r : Ray), s.rays = [r] → r.status = none →
    exec (.traversalLaneEnd r.cl r.id) s = .next (runLane s r r.prog 4096)
    ∧ (r.start = true → r.prog.resuming = true → firstBad s (r.loc.span 256) = none → degenerate r.prog = true →
      let x := { missTrav r.prog with phase := 7 }
      exec (.traversalLaneEnd r.cl r.id) s = .next (endLane (putTrav s r x) r x 3))

/-- R347, R348, R352, R355 to R358. -/
def Obligations.RasterEvents : Prop :=
  (∀ (s : State) (d : Draw), s.raster.draws = [d] → d.started = false → d.accepted = true →
      (∀ q i, d.queue = some (q, i) → (queueOf s q).any (queueRuns s) = true) → ∃ t, exec (.drawAccept d.id) s = .next t
    ∧ .teamPlacement 88 ∈ t.agenda ∧ (drawOf t d.id).map (fun x => (x.started, x.vlaunch, x.flaunch)) = some (true, s.nextId, s.nextId + 1)
    ∧ Tab.find t.launches s.nextId = some (drawLaunch d true) ∧ Tab.find t.launches (s.nextId + 1) = some (drawLaunch d false))
  ∧ (∀ (s : State) (st : Nat),
    (quadsAt s st .raster ≠ [] ∨ setupDraw s st = none → exec (.primitiveSetup st) s = .next s)
    ∧ ∀ d p, quadsAt s st .raster = [] → setupDraw s st = some (d, p) →
      (setupPrim (parseDraw d.desc).cull p = none → ∃ t, exec (.primitiveSetup st) s = .next t ∧ t.raster.quads = s.raster.quads
        ∧ t.raster.prims = takePrim s.raster.prims p st ∧ t.agenda = s.agenda ++ [.primitiveSetup st, .drawComplete d.id])
      ∧ ∀ tr h f, setupPrim (parseDraw d.desc).cull p = some tr → d.surf s = some (h, f) → ∃ t, exec (.primitiveSetup st) s = .next t
        ∧ t.raster.prims = takePrim s.raster.prims p st
        ∧ t.raster.quads = s.raster.quads ++ rasterise f (parseDraw d.desc) tr p.idx st d.id (if st = 0 then d.seq0 else d.seq1) s.fresh
            (quadPlaces f (parseDraw d.desc) tr st) s.nextId)
  ∧ (∀ (s : State) (st : Nat) (q : Quad) (d : Draw), nextHeld s [] (quadsAt s st .held) = some q → drawOf s q.draw = some d →
    ∃ t, exec (.quadTicketReserve st) s = .next t ∧ t.raster.tickets.length = s.raster.tickets.length + (ticketsFor s d q).length
      ∧ t.raster.quads = s.raster.quads.filter (fun x => x.id != q.id) ++ [{ q with place := .packing, since := rasterNow s }] ∧ .fragmentGroupDispatch q.stack ∈ t.agenda)
  ∧ (∀ (s : State) (st : Nat), nextHeld s [] (quadsAt s st .held) = none → quadsAt s st .raster ≠ [] →
    fqFull s (300 + st) 64 (quadsAt s st .held).length = true → exec (.quadTicketReserve st) s = .next s)
  ∧ (∀ (s : State) (st : Nat) (q : Quad) (qs : List Quad) (d : Draw), quadsAt s st .packing = q :: qs → drawOf s q.draw = some d → ctxOn s d.ctx = true →
    let mine := ((q :: qs).takeWhile fun x => x.draw == q.draw).take (d.fimg.width / 4)
    (mine.length < d.fimg.width / 4 → rasterNow s < q.since + 64 → exec (.fragmentGroupDispatch st) s = .next s)
    ∧ ∀ core l c, (mine.length = d.fimg.width / 4 ∨ q.since + 64 ≤ rasterNow s) → chooseCore s d.flaunch d.fimg false 88 = some core →
      Tab.find s.launches d.flaunch = some l → Tab.find s.ctxs l.ctx = some c → ∃ t, exec (.fragmentGroupDispatch st) s = .next t
        ∧ (∃ x, Tab.find t.teams s.nextId = some x ∧ x.launch = d.flaunch ∧ x.core = core ∧ x.tid = d.ndisp)
        ∧ ∀ x ∈ mine, ∀ y ∈ t.raster.quads, y.id = x.id → y.place = .group)
  ∧ (∀ (s : State) (k : Ticket), s.raster.tickets = [k] →
    (k.sent = true → k.arrived = false → exec (.orderLockEntry k.id) s =
      .next { s with raster := { s.raster with tickets := [{ k with arrived := true }] }, agenda := s.agenda ++ [.ropInvocation k.bank] })
    ∧ (k.sent = false → exec (.orderLockEntry k.id) s = .next s)
    ∧ (k.arrived = false → exec (.ropInvocation k.bank) s = .next s))
  ∧ (∀ (s : State) (bank : Nat) (k : Ticket), nextEntry bank s [] s.raster.tickets = some k →
    (k.null = true → ∃ t, exec (.ropInvocation bank) s = .next t ∧ t.raster.tickets = s.raster.tickets.filter (fun x => x.id != k.id)
        ∧ t.sbytes = s.sbytes ∧ t.tslots = s.tslots ∧ .drawComplete k.draw ∈ t.agenda)
    ∧ ∀ d q f s2 ok, k.null = false → drawOf s k.draw = some d → s.raster.quads.find? (fun x => x.id == k.quad) = some q →
        Tab.find s.surfs k.handle = some f → nbRestore (ticketTiles s k) s (ticketTiles s k) = (s2, ok) →
      let z := ((d.targets[k.target]?).bind (·.2)).bind fun h => (Tab.find s2.surfs h).map fun z => (h, z)
      exec (.ropInvocation bank) s = .next (if ok then endTicket (runRop s2 d q k f z) k else s2))
  ∧ ∀ (s : State) (d : Draw), s.raster.draws = [d] → drawKilled s d = false →
    (drawOver s d = false → exec (.drawComplete d.id) s = .next s)
    ∧ ∀ q i, drawOver s d = true → (parseDraw d.desc).cw = 0 → d.queue = some (q, i) → ∃ t, exec (.drawComplete d.id) s = .next t
        ∧ t.raster.draws = [] ∧ .commandComplete q i ∈ t.agenda

/-- R54, R55, R58, R134, R247, R391, R417, R424, R438, R439. That a run of passes ends when a split is not ready is the model's reading (log 124). -/
def Obligations.IssueEvents : Prop :=
  (∀ (s : State) (core slot key : Nat) (g : Group), core < 88 → 0 < slot → slot < 8 →
    (slotGroups s core slot = [] → clusterTicks s (core / 4) = true → exec (.issueCycle core slot) s = .next s)
    ∧ (clusterTicks s (core / 4) = false → exec (.issueCycle core slot) s = .next s)
    ∧ ∀ si sp, slotGroups s core slot = [(key, g)] → Tab.find s.groups key = some g → g.killed = false → g.waits = [] → g.passed < 1024 →
      groupReady s g = true → g.splits = [(si, sp)] → sp.passed < 64 → clusterTicks s (core / 4) = true →
      ∃ t, exec (.issueCycle core slot) s = .next t ∧ t.issue = some ⟨key, si⟩ ∧ t.agenda = s.agenda ∧ t.slices = s.slices)
  ∧ (∀ (s : State) (key : Nat) (g : Group), Tab.find s.groups key = some g →
    (∀ si sp, Tab.find g.splits si = some sp → groupReady s g = true → splitReady g sp = true → 64 ≤ sp.passed →
      ∃ t, exec (.splitGuardExpiry key si) s = .next t ∧ t.issue = some ⟨key, si⟩)
    ∧ (∀ si sp, g.splits = [(si, sp)] → sp.passed < 64 → groupReady s g = true → g.harvest = false → 1024 ≤ g.passed →
      ∃ t, exec (.slotStarvationGuard g.core g.islot key) s = .next t ∧ t.issue = some ⟨key, si⟩)
    ∧ (∀ bank, bank < 19 → bank ∉ g.marks → ∃ t g', exec (.collectorMark key bank) s = .next t ∧ Tab.find t.groups key = some g'
        ∧ Tab.find g'.losses bank = some (Tab.fetch 0 g.losses bank + 1)
        ∧ g'.marks = if 7 ≤ Tab.fetch 0 g.losses bank + 1 then g.marks ++ [bank] else g.marks)
    ∧ (∀ si sp s2 w, Tab.find g.splits si = some sp → groupRuns s g = true → atHeader g sp = true → pastText s g sp = false → fetchWord s key g sp.pc = .ok (s2, w) →
        Tab.find s2.groups key = some g → g.never = [] →
      (6 ≤ headerKind w ∨ (4 ≤ headerKind w ∧ sp.entry = false) →
        exec (.clauseStart key si) s = .next (takeFault s2 key si ⟨0x09, 0, 0, (lanesOf g.width sp.mask).headD 0⟩ sp.pc false))
      ∧ (headerKind w = 0 → waitClear g w = false → ∃ t, exec (.clauseStart key si) s = .next t
          ∧ ∃ g', Tab.find t.groups key = some g' ∧ Tab.find g'.splits si = some { sp with stall := true })
      ∧ (headerKind w = 0 → waitClear g w = true → ∃ t, exec (.clauseStart key si) s = .next t ∧ ∃ g', Tab.find t.groups key = some g'
          ∧ Tab.find g'.splits si = some { sp with pc := sp.pc + 1, clause := some (clauseOf sp.pc w), stall := false, entry := false }))
    ∧ (∀ si sp, let s2 := updG s key fun g => { g with susp := none }
        g.susp = some si → g.park = .none → g.killed = false → teamGoes s2 g = true → recWaits s2 g = false → Tab.find g.splits si = some sp →
        (sp.clause ≠ none → exec (.mayFaultChecksResolved key) s = .next { s2 with issue := some ⟨key, si⟩ })
        ∧ (sp.clause = none → exec (.mayFaultChecksResolved key) s = .next (later s2 (.clauseStart key si))))
    ∧ (∀ p, g.pending.find? (fun q => q.id == p.id) = some p →
        (p.ready = false → exec (.longLatencyCompletion key p.id) s = .next s)
        ∧ (p.ready = true → p.poison = none → ∃ t, exec (.longLatencyCompletion key p.id) s = .next t ∧ Tab.find t.groups key =
            some { (landPending g p).dropT p.tumbler with pending := g.pending.filter (fun q => q.id != p.id), splits := g.splits.map fun e => (e.1, e.2.awake) }))
    ∧ (∀ c n, ctxOf s g = some c → c.wdog ≠ 0 → g.park = .none → g.kind ≠ .handler → watched s g = true → g.lastIssue + c.wdog * 1000000 ≤ max s.time n →
        let s2 : State := { s with time := max s.time n }
        exec (.watchdogExpiry key n) s = .next (standing s2 key (groupRec s2 g ⟨0x10, 0, 0, 0⟩ ((g.splits.head?.map (·.2.pc)).getD 0) false)))
    ∧ ∀ e n, g.waits = [e] →
        let s2 : State := { s with time := max s.time n }
        ∀ ls, waitPlaces s2 key g e = .ok ls →
        let s1 := waitRead s2 key g.core g.ctx ls
        let v := leNat (readHome s1 ls)
        let s3 := setPending s1 key e.id fun p => { p with svals := [(e.dst, BitVec.ofNat 64 v)], poison := (firstBad s1 ls).map (·, e.lane) }
        (waitHolds e.cond v e.cmp.toNat = true → exec (.waitaRecheck key e.id n) s = .next (endWait (acquireAct s3 g.core e.scope (pairedOf s3 g)) key e))
        ∧ (waitHolds e.cond v e.cmp.toNat = false → e.timeout ≠ 0 → e.since + e.timeout ≤ s2.time → exec (.waitaRecheck key e.id n) s = .next (endWait s3 key e))
        ∧ (waitHolds e.cond v e.cmp.toNat = false → ¬ (e.timeout ≠ 0 ∧ e.since + e.timeout ≤ s2.time) → exec (.waitaRecheck key e.id n) s = .next s3))

/-- R271, R397. -/
def Obligations.NopAndScalarImmediates : Prop :=
  (∀ w : BitVec 32, w.toNat < 2 ^ 25 → ∃ p i o, decode w = .ok (.nop p i o))
  ∧ decode 0 = .ok (.nop 0 0 0)
  ∧ (∀ (s : State) (c : WCtx) (p : BitVec 3) (i : BitVec 1) (o : BitVec 21), Issues s c →
      Completes (exec (.nop p i o) s) s c [] 0 (Kept s))
  ∧ (∀ (s : State) (c : WCtx) (d : BitVec 7) (i : BitVec 18), Issues s c → c.eff ≠ 0 →
      Completes (exec (.sli d i) s) s c [] 0 (WritesScalar s d.toNat (BitVec.ofInt 64 i.toInt))
      ∧ Completes (exec (.slih d i) s) s c [] 0
          (WritesScalar s d.toNat (BitVec.ofNat 64 ((c.g.s d.toNat).toNat * 2 ^ 18 + i.toNat))))
  ∧ ∀ v : BitVec 64, ∃ i j k l : BitVec 18,
      let shift (x : BitVec 64) (n : BitVec 18) : BitVec 64 := BitVec.ofNat 64 (x.toNat * 2 ^ 18 + n.toNat)
      shift (shift (shift (BitVec.ofInt 64 i.toInt) j) k) l = v

/-- R67, R243, R245: what a word does that performs nothing, and the checks of step 3a to 3c. -/
def Obligations.EmptyMaskAndOperandTraps : Prop :=
  (∀ (s : State) (c : WCtx) (i : Instr) (w : BitVec 32), Issues s c → c.eff = 0 → encode i = some w →
    (match i with
      | .bra .. | .brx .. | .call .. | .ret | .jset .. | .exit .. | .trap .. | .sel .. | .ssel .. | .bar .. => False
      | _ => True) →
    Completes (exec i s) s c [] 0 (Kept s))
  ∧ ∀ (s : State) (c : WCtx) (d : BitVec 7) (i : BitVec 2) (a : BitVec 7) (j : BitVec 2) (b : BitVec 7), Issues s c → c.eff ≠ 0 →
    let ty := c.g.ty
    let w := tWide ty
    let two (x y : TagCls) : List Opnd := [opD w d, opA w i a x, opB w j b y]
    let three : List Opnd := [opD w d .arith, opA w i a .arith, opB w j b .arith]
    let checks (n : Instr) (admitted : Bool) (os : List Opnd) : Prop :=
      (admitted = false → Traps (exec n s) s c 0x08 3 0 c.low)
      ∧ (∀ o, admitted = true → os.find? (·.bad c.g) = some o → Traps (exec n s) s c 0x07 o.det 0 c.low)
      ∧ (∀ o, admitted = true → (∀ x ∈ os, x.bad c.g = false) → os.find? (·.badTag c.g) = some o →
          Traps (exec n s) s c 0x06 o.det 0 c.low)
    (∀ n ∈ [Instr.add d i a j b, .sub d i a j b, .mul d i a j b, .mulh d i a j b, .minV d i a j b, .maxV d i a j b, .absd d i a j b],
      checks n (tInt ty) (two .arith .arith))
    ∧ (∀ n ∈ [Instr.andB d i a j b, .orB d i a j b, .xorB d i a j b], checks n (decide (ty ≤ 16)) (two .bitwise .bitwise))
    ∧ (∀ n ∈ [Instr.shl d i a j b, .shr d i a j b, .sar d i a j b], checks n (tInt ty || ty == tRAW) (two .bitwise .free))
    ∧ (∀ n ∈ [Instr.fadd d i a j b, .fsub d i a j b, .fmul d i a j b, .fmin d i a j b, .fmax d i a j b],
      checks n (tFloat ty) (two .arith .arith))
    ∧ checks (.mad d i a j b) (tInt ty) three
    ∧ ∀ n ∈ [Instr.ffma d i a j b, .ffms d i a j b, .ffnma d i a j b, .ffnms d i a j b], checks n (tFloat ty) three

/-- R168, R430, R435: the one operation that takes a fault. -/
def Obligations.TakingAFault : Prop :=
  ∀ (s : State) (key si : Nat) (t : Trap) (pc : Nat) (deferred : Bool) (g : Group), Tab.find s.groups key = some g → t.cls ≠ 5 →
    let u := takeFault s key si t pc deferred
    let r := groupRec s g t pc deferred
    let s0 := clearXfaults { s with issue := none } g.core key
    (handlerTakes s g t.cls = false → g.kind ≠ .handler →
      u.issue = none ∧ Tab.find u.groups key = some { g with park := .standing, susp := none }
        ∧ ∀ k, k ≠ key → Tab.find u.groups k = Tab.find s.groups k)
    ∧ (g.kind = .handler → g.team = 0 → Tab.find u.groups key = none ∧ ∀ k, k ≠ key → Tab.find u.groups k = Tab.find s.groups k)
    ∧ ∀ off s2 w sp, handlerTakes s g t.cls = true → trapOffset s g = some off → fetchWord s0 key g off = .ok (s2, w) → headerKind w = 5 →
        Tab.find g.splits si = some sp →
        u.issue = none ∧ (∀ k, k ≠ key → Tab.find u.groups k = Tab.find s.groups k) ∧ ∃ g', Tab.find u.groups key = some g'
          ∧ g' = { g with mb := g'.mb, gm := 0xB7, trapMask := some sp.mask, susp := none, splits := g'.splits }
          ∧ Tab.find g'.splits si = some { sp with pc := off, clause := none, stall := false, entry := true }
          ∧ (∀ k, k ≠ si → Tab.find g'.splits k = Tab.find g.splits k)
          ∧ (let mb (a n : Nat) : Nat := leNat ((List.range n).map fun i => Tab.fetch 0 g'.mb (a + i))
             mb 192 32 = leNat (recBytes r) ∧ mb 224 4 = sp.pc % 2 ^ 32 ∧ mb 228 4 = sp.tsp.getD 0xFFFF_FFFF % 2 ^ 32
              ∧ mb 232 8 = sp.mask.toNat ∧ mb 240 8 = g.gm.toNat ∧ mb 248 8 = 0)
          ∧ ∀ k < 192, Tab.fetch 0 g'.mb k = Tab.fetch 0 g.mb k

/-- R63 to R66: both directions of the round trip. -/
def Obligations.DecodeEncode : Prop :=
  ∀ (i : Instr) (w : BitVec 32),
    (WellFormed i → encode i = some w → decode w = .ok i)
    ∧ (decode w = .ok i → encode i = some w ∧ WellFormed i)
    ∧ (¬ WellFormed i → encode i = some w → ∃ e, decode w = .error e)

/-- Words from the worked examples of the spec. -/
def Obligations.DecodeWords : Prop :=
  ∀ e ∈ ([(0x40180883, Instr.add 6 0 4 1 3), (0x400C0202, .add 3 0 1 0 2), (0x14180123, .sli 6 0x123), (0x16189ABC, .slih 6 0x9ABC),
      (0x200C0245, .sadd 3 1 69), (0xB8100210, .ld 4 0 0 2 16), (0xA8190600, .vmov 6 1 3), (0xAC14E404, .vtbl 5 0 114 0 4),
      (0xB6500A28, .vrel 20 0 5 40), (0xE0110100, .cpy 4 2 0 0 1), (0xD0210440, .waita 8 2 0 0 2 1 0),
      (0xDC210000, .kwant 8 2 0 0), (0xE6280280, .sld 10 20 0), (0xC820C478, .atom 8 1 1 4 7 1), (0xCA180200, .fatom 6 0 0 2 0 0),
      (0x6E0C0202, .ffma 3 0 1 0 2), (0x9850100D, .cvt 20 0 8 13), (0xA6703E01, .sqz 28 0 31 1), (0xF0500108, .travStart 20 0 8),
      (0xF60C280C, .thit 0 3 20 0 12), (0xF4282000, .bunion 10 0 16), (0x09C00000, .ret)] : List (BitVec 32 × Instr)),
    decode e.1 = .ok e.2 ∧ decode 0xFE000000 = .error .noRow

/-- R46, R66, and the order of events of log 1. -/
def Obligations.StepRunsTheDecodedWord : Prop :=
  ∀ (s : State),
    (∀ sel g sp s2 w, s.issue = some sel → Tab.find s.groups sel.key = some g → Tab.find g.splits sel.split = some sp →
      fetchWord s sel.key g sp.pc = .ok (s2, w) →
      (∀ i, decode w = .ok i → step s = exec i s2)
      ∧ ∀ e, decode w = .error e →
          step s = .next (takeFault s2 sel.key sel.split ⟨0x08, 0, 0, (lanesOf g.width sp.mask).headD 0⟩ sp.pc false))
    ∧ (∀ e es, s.issue = none → s.agenda = e :: es →
        (heldBack s e = false → step s = exec e { s with agenda := es })
        ∧ (heldBack s e = true → step s = .next (holdBack { s with agenda := es } e)))
    ∧ (s.issue = none → s.agenda = [] → step s = exec (.issueCycle (s.rr / 8 % 88) (s.rr % 8)) { s with rr := (s.rr + 1) % 704 })

/-- R67, R424: nothing stops the machine. -/
def Obligations.EveryStepGoesOn : Prop :=
  ∀ s : State, (s.issue = none → ∀ e es, s.agenda = e :: es → encode e = none) → ∃ t, step s = .next t

/-- The memories' canonical form is kept by every word, every event and every fetch. -/
def Obligations.StepKeepsMemoryForm : Prop :=
  ∀ s t : State, s.memWf = true → step s = .next t → t.memWf = true

/-- R6, R61, R91, R146, R315, R316, R466. -/
def Obligations.ResetValues : Prop :=
  let fresh (s : State) : Prop := s.memWf = true ∧ s.groups = [] ∧ s.teams = [] ∧ s.launches = [] ∧ s.ctxs = [] ∧ s.hinge = []
    ∧ (∀ st < 2, readReg s (0x2_0010 + 0x1000 * st) = 64 <<< 24 ||| 2 <<< 16 ||| 1024 <<< 4)
    ∧ (∀ st < 2, ∀ q < 4, readReg s (0x3_0010 + 0x1000 * st + 8 * q) = 16)
    ∧ (∀ n < 22, readReg s (0x5_0000 + 0x100 * n) = 32768 ∧ readReg s (0x5_0008 + 0x100 * n) = 0 ∧ readReg s (0x5_0010 + 0x100 * n) = 131072)
    ∧ ∀ off ∈ [0x18, 0x40, 0x48, 0x50, 0x100, 0x108, 0x110, 0x118, 0x1_0000, 0x1_0008, 0x2_0000, 0x2_1000, 0x3_0000, 0x3_1000, 0x3_0008,
        0x3_1008, 0x3_0030, 0x3_1030, 0x3_0038, 0x3_1038, 0x4_0000, 0x4_0008, 0x4_0010, 0x4_1010, 0x4_0020, 0x4_1020, 0x6_0000, 0x6_0008,
        0x6_0010], readReg s off = 0
  fresh State.reset ∧ (∃ t, step State.reset = .next t ∧ fresh t)
    ∧ gmReset = 0b0111 ||| 0x0B <<< 4
end

