-- ==== Sys2Proof/Laws/Cut.lean ====
section
/-! SUPPORT. Cutting fields out of concatenated bits. -/
namespace Sys2Proof

theorem cut_hi {m n : Nat} (a : BitVec m) (b : BitVec n) (lo k : Nat) (h : n ≤ lo) :
    (a ++ b).extractLsb' lo k = a.extractLsb' (lo - n) k := by
  apply BitVec.eq_of_getLsbD_eq
  intro i hi
  have : ¬ lo + i < n := by omega
  simp only [BitVec.getLsbD_extractLsb', hi, decide_true, BitVec.getLsbD_append, this, if_false, Bool.true_and]
  congr 1; omega

theorem cut_lo {m n : Nat} (a : BitVec m) (b : BitVec n) (lo k : Nat) (h : lo + k ≤ n) :
    (a ++ b).extractLsb' lo k = b.extractLsb' lo k := by
  apply BitVec.eq_of_getLsbD_eq
  intro i hi
  have : lo + i < n := by omega
  simp only [BitVec.getLsbD_extractLsb', hi, decide_true, BitVec.getLsbD_append, this, if_true, Bool.true_and]

theorem cut_all {n : Nat} (a : BitVec n) : a.extractLsb' 0 n = a := by simp

/-- Words that differ in a bit under a mask differ under the mask. -/
theorem differs {n : Nat} (w m f : BitVec n) (k : Nat) (h : (w &&& m).getLsbD k ≠ f.getLsbD k) : ¬ w &&& m = f :=
  fun e => h (by rw [e])

end Sys2Proof
end

