-- ==== Sys2Proof/Laws/Dispatch.lean ====
section
/-! SUPPORT. What the dispatcher calls, one equation per constructor. -/
namespace Sys2Proof.Machine
set_option Elab.async false

theorem exec_deviceReset (s : State) : exec (.deviceReset) s = execDeviceReset s := rfl
theorem exec_functionLevelReset (s : State) : exec (.functionLevelReset) s = execFunctionLevelReset s := rfl
theorem exec_registerWrite (x0 : Nat) (x1 : Nat) (x2 : BitVec 64) (s : State) : exec (.registerWrite x0 x1 x2) s = execRegisterWrite x0 x1 x2 s := rfl
theorem exec_bar0UnsupportedAccess (x0 : Nat) (x1 : Nat) (x2 : Bool) (s : State) : exec (.bar0UnsupportedAccess x0 x1 x2) s = execBar0UnsupportedAccess x0 x1 x2 s := rfl
theorem exec_bar4Read (x0 : Nat) (x1 : Nat) (s : State) : exec (.bar4Read x0 x1) s = execBar4Read x0 x1 s := rfl
theorem exec_bar4Write (x0 : Nat) (x1 : List (BitVec 8)) (s : State) : exec (.bar4Write x0 x1) s = execBar4Write x0 x1 s := rfl
theorem exec_hingeInstall (x0 : Nat) (s : State) : exec (.hingeInstall x0) s = execHingeInstall x0 s := rfl
theorem exec_hingeRelease (x0 : Nat) (s : State) : exec (.hingeRelease x0) s = execHingeRelease x0 s := rfl
theorem exec_hingeRead (x0 : Nat) (s : State) : exec (.hingeRead x0) s = execHingeRead x0 s := rfl
theorem exec_hingeDonate (x0 : Nat) (s : State) : exec (.hingeDonate x0) s = execHingeDonate x0 s := rfl
theorem exec_hingeSetaff (x0 : Nat) (s : State) : exec (.hingeSetaff x0) s = execHingeSetaff x0 s := rfl
theorem exec_hingeGetaff (x0 : Nat) (s : State) : exec (.hingeGetaff x0) s = execHingeGetaff x0 s := rfl
theorem exec_hingeCmdComplete (x0 : Nat) (s : State) : exec (.hingeCmdComplete x0) s = execHingeCmdComplete x0 s := rfl
theorem exec_qmQtableWrite (s : State) : exec (.qmQtableWrite) s = execQmQtableWrite s := rfl
theorem exec_queueLoad (s : State) : exec (.queueLoad) s = execQueueLoad s := rfl
theorem exec_queueDisable (s : State) : exec (.queueDisable) s = execQueueDisable s := rfl
theorem exec_queueReset (s : State) : exec (.queueReset) s = execQueueReset s := rfl
theorem exec_qctlComplete (s : State) : exec (.qctlComplete) s = execQctlComplete s := rfl
theorem exec_queueTail (x0 : Nat) (x1 : BitVec 64) (s : State) : exec (.queueTail x0 x1) s = execQueueTail x0 x1 s := rfl
theorem exec_commandStart (s : State) : exec (.commandStart) s = execCommandStart s := rfl
theorem exec_queueLaunch (s : State) : exec (.queueLaunch) s = execQueueLaunch s := rfl
theorem exec_queueDraw (s : State) : exec (.queueDraw) s = execQueueDraw s := rfl
theorem exec_queueCopy (s : State) : exec (.queueCopy) s = execQueueCopy s := rfl
theorem exec_queueSignal (s : State) : exec (.queueSignal) s = execQueueSignal s := rfl
theorem exec_queueWait (s : State) : exec (.queueWait) s = execQueueWait s := rfl
theorem exec_waitComplete (x0 : Nat) (s : State) : exec (.waitComplete x0) s = execWaitComplete x0 s := rfl
theorem exec_waitTimeout (x0 : Nat) (x1 : Nat) (s : State) : exec (.waitTimeout x0 x1) s = execWaitTimeout x0 x1 s := rfl
theorem exec_queueFence (s : State) : exec (.queueFence) s = execQueueFence s := rfl
theorem exec_queueTimestamp (s : State) : exec (.queueTimestamp) s = execQueueTimestamp s := rfl
theorem exec_queueSalloc (s : State) : exec (.queueSalloc) s = execQueueSalloc s := rfl
theorem exec_queueSfree (s : State) : exec (.queueSfree) s = execQueueSfree s := rfl
theorem exec_queueResync (s : State) : exec (.queueResync) s = execQueueResync s := rfl
theorem exec_commandComplete (x0 : Nat) (x1 : Nat) (s : State) : exec (.commandComplete x0 x1) s = execCommandComplete x0 x1 s := rfl
theorem exec_hbCtxtabWrite (s : State) : exec (.hbCtxtabWrite) s = execHbCtxtabWrite s := rfl
theorem exec_ctxBind (s : State) : exec (.ctxBind) s = execCtxBind s := rfl
theorem exec_ctxUnbind (s : State) : exec (.ctxUnbind) s = execCtxUnbind s := rfl
theorem exec_ctxKill (s : State) : exec (.ctxKill) s = execCtxKill s := rfl
theorem exec_ctxKillLaunch (s : State) : exec (.ctxKillLaunch) s = execCtxKillLaunch s := rfl
theorem exec_ctxResume (s : State) : exec (.ctxResume) s = execCtxResume s := rfl
theorem exec_ctxSwitchOut (s : State) : exec (.ctxSwitchOut) s = execCtxSwitchOut s := rfl
theorem exec_ctxSwitchIn (s : State) : exec (.ctxSwitchIn) s = execCtxSwitchIn s := rfl
theorem exec_ctxPreempt (s : State) : exec (.ctxPreempt) s = execCtxPreempt s := rfl
theorem exec_killComplete (s : State) : exec (.killComplete) s = execKillComplete s := rfl
theorem exec_hostopResync (s : State) : exec (.hostopResync) s = execHostopResync s := rfl
theorem exec_fwload (s : State) : exec (.fwload) s = execFwload s := rfl
theorem exec_attest (s : State) : exec (.attest) s = execAttest s := rfl
theorem exec_hostopComplete (s : State) : exec (.hostopComplete) s = execHostopComplete s := rfl
theorem exec_sfNbpDataWrite (s : State) : exec (.sfNbpDataWrite) s = execSfNbpDataWrite s := rfl
theorem exec_bankProgramInstall (s : State) : exec (.bankProgramInstall) s = execBankProgramInstall s := rfl
theorem exec_fbKwStoreWrite (x0 : Nat) (x1 : Nat) (x2 : BitVec 64) (s : State) : exec (.fbKwStoreWrite x0 x1 x2) s = execFbKwStoreWrite x0 x1 x2 s := rfl
theorem exec_fbCellAreaWrite (x0 : Nat) (x1 : BitVec 64) (s : State) : exec (.fbCellAreaWrite x0 x1) s = execFbCellAreaWrite x0 x1 s := rfl
theorem exec_hbIdWrite (s : State) : exec (.hbIdWrite) s = execHbIdWrite s := rfl
theorem exec_atsCompletion (x0 : Nat) (x1 : Nat) (x2 : Nat) (x3 : Bool) (x4 : Nat) (x5 : Nat) (x6 : Bool) (x7 : Bool) (s : State) : exec (.atsCompletion x0 x1 x2 x3 x4 x5 x6 x7) s = execAtsCompletion x0 x1 x2 x3 x4 x5 x6 x7 s := rfl
theorem exec_translationMiss (x0 : Nat) (x1 : Nat) (x2 : Nat) (x3 : Nat) (x4 : Nat) (s : State) : exec (.translationMiss x0 x1 x2 x3 x4) s = execTranslationMiss x0 x1 x2 x3 x4 s := rfl
theorem exec_pageRequestResponse (x0 : Nat) (x1 : Nat) (x2 : Nat) (x3 : Bool) (s : State) : exec (.pageRequestResponse x0 x1 x2 x3) s = execPageRequestResponse x0 x1 x2 x3 s := rfl
theorem exec_atsInvalidation (x0 : Nat) (x1 : Nat) (x2 : Nat) (s : State) : exec (.atsInvalidation x0 x1 x2) s = execAtsInvalidation x0 x1 x2 s := rfl
theorem exec_backgroundZeroingComplete (x0 : Nat) (s : State) : exec (.backgroundZeroingComplete x0) s = execBackgroundZeroingComplete x0 s := rfl
theorem exec_migrationEpochEnd (x0 : Nat) (s : State) : exec (.migrationEpochEnd x0) s = execMigrationEpochEnd x0 s := rfl
theorem exec_migrationCopyComplete (x0 : Nat) (x1 : Nat) (s : State) : exec (.migrationCopyComplete x0 x1) s = execMigrationCopyComplete x0 x1 s := rfl
theorem exec_migrationLockTimeout (x0 : Nat) (x1 : Nat) (x2 : Nat) (s : State) : exec (.migrationLockTimeout x0 x1 x2) s = execMigrationLockTimeout x0 x1 x2 s := rfl
theorem exec_sliceRequest (x0 : Nat) (s : State) : exec (.sliceRequest x0) s = execSliceRequest x0 s := rfl
theorem exec_sliceLineFill (x0 : Nat) (s : State) : exec (.sliceLineFill x0) s = execSliceLineFill x0 s := rfl
theorem exec_sliceWriteBack (x0 : Nat) (s : State) : exec (.sliceWriteBack x0) s = execSliceWriteBack x0 s := rfl
theorem exec_l1LineFill (x0 : Nat) (x1 : Nat) (x2 : Nat) (s : State) : exec (.l1LineFill x0 x1 x2) s = execL1LineFill x0 x1 x2 s := rfl
theorem exec_atomicResponseRelease (x0 : Nat) (x1 : Nat) (s : State) : exec (.atomicResponseRelease x0 x1) s = execAtomicResponseRelease x0 x1 s := rfl
theorem exec_orderedAddContribution (x0 : Nat) (s : State) : exec (.orderedAddContribution x0) s = execOrderedAddContribution x0 s := rfl
theorem exec_injectionReserve (x0 : Nat) (s : State) : exec (.injectionReserve x0) s = execInjectionReserve x0 s := rfl
theorem exec_pawlLaunch (x0 : Nat) (s : State) : exec (.pawlLaunch x0) s = execPawlLaunch x0 s := rfl
theorem exec_pawl (x0 : Nat) (s : State) : exec (.pawl x0) s = execPawl x0 s := rfl
theorem exec_heartbeat (x0 : Nat) (s : State) : exec (.heartbeat x0) s = execHeartbeat x0 s := rfl
theorem exec_heartbeatMiss (x0 : Nat) (x1 : Nat) (s : State) : exec (.heartbeatMiss x0 x1) s = execHeartbeatMiss x0 x1 s := rfl
theorem exec_linkRetryFailure (x0 : Nat) (x1 : Nat) (s : State) : exec (.linkRetryFailure x0 x1) s = execLinkRetryFailure x0 x1 s := rfl
theorem exec_rerouteResume (x0 : Nat) (s : State) : exec (.rerouteResume x0) s = execRerouteResume x0 s := rfl
theorem exec_copyEngineComplete (x0 : Nat) (x1 : Nat) (s : State) : exec (.copyEngineComplete x0 x1) s = execCopyEngineComplete x0 x1 s := rfl
theorem exec_engineCommandFault (x0 : Nat) (x1 : Nat) (x2 : BitVec 8) (x3 : BitVec 64) (s : State) : exec (.engineCommandFault x0 x1 x2 x3) s = execEngineCommandFault x0 x1 x2 x3 s := rfl
theorem exec_interestArrival (x0 : Nat) (s : State) : exec (.interestArrival x0) s = execInterestArrival x0 s := rfl
theorem exec_refreshArrival (x0 : Nat) (s : State) : exec (.refreshArrival x0) s = execRefreshArrival x0 s := rfl
theorem exec_interestExpiry (x0 : Nat) (x1 : Nat) (x2 : Nat) (x3 : Nat) (s : State) : exec (.interestExpiry x0 x1 x2 x3) s = execInterestExpiry x0 x1 x2 x3 s := rfl
theorem exec_requesterRecordExpiry (x0 : Nat) (x1 : Nat) (s : State) : exec (.requesterRecordExpiry x0 x1) s = execRequesterRecordExpiry x0 x1 s := rfl
theorem exec_kputArrival (x0 : Nat) (s : State) : exec (.kputArrival x0) s = execKputArrival x0 s := rfl
theorem exec_closeNoticeArrival (x0 : Nat) (x1 : Nat) (s : State) : exec (.closeNoticeArrival x0 x1) s = execCloseNoticeArrival x0 x1 s := rfl
theorem exec_closeAck (x0 : Nat) (x1 : Nat) (s : State) : exec (.closeAck x0 x1) s = execCloseAck x0 x1 s := rfl
theorem exec_tileArrival (x0 : Nat) (s : State) : exec (.tileArrival x0) s = execTileArrival x0 s := rfl
theorem exec_backingRefetchComplete (x0 : Nat) (s : State) : exec (.backingRefetchComplete x0) s = execBackingRefetchComplete x0 s := rfl
theorem exec_messageArrival (x0 : Nat) (s : State) : exec (.messageArrival x0) s = execMessageArrival x0 s := rfl
theorem exec_handlerDispatch (x0 : Nat) (s : State) : exec (.handlerDispatch x0) s = execHandlerDispatch x0 s := rfl
theorem exec_handlerWatchdog (x0 : Nat) (x1 : Nat) (s : State) : exec (.handlerWatchdog x0 x1) s = execHandlerWatchdog x0 x1 s := rfl
theorem exec_sliceQueueOperation (x0 : Nat) (s : State) : exec (.sliceQueueOperation x0) s = execSliceQueueOperation x0 s := rfl
theorem exec_tileEviction (x0 : Nat) (x1 : Nat) (x2 : Nat) (s : State) : exec (.tileEviction x0 x1 x2) s = execTileEviction x0 x1 x2 s := rfl
theorem exec_tileRestore (x0 : Nat) (x1 : Nat) (s : State) : exec (.tileRestore x0 x1) s = execTileRestore x0 x1 s := rfl
theorem exec_scrubBurst (x0 : Nat) (x1 : Nat) (s : State) : exec (.scrubBurst x0 x1) s = execScrubBurst x0 x1 s := rfl
theorem exec_nbxCommand (x0 : Nat) (s : State) : exec (.nbxCommand x0) s = execNbxCommand x0 s := rfl
theorem exec_orderLockEntry (x0 : Nat) (s : State) : exec (.orderLockEntry x0) s = execOrderLockEntry x0 s := rfl
theorem exec_ropInvocation (x0 : Nat) (s : State) : exec (.ropInvocation x0) s = execRopInvocation x0 s := rfl
theorem exec_matrixPassGrant (x0 : Nat) (s : State) : exec (.matrixPassGrant x0) s = execMatrixPassGrant x0 s := rfl
theorem exec_reservationAging (x0 : Nat) (x1 : Nat) (s : State) : exec (.reservationAging x0 x1) s = execReservationAging x0 x1 s := rfl
theorem exec_matrixTileWriteback (x0 : Nat) (x1 : Nat) (s : State) : exec (.matrixTileWriteback x0 x1) s = execMatrixTileWriteback x0 x1 s := rfl
theorem exec_governorWindow (x0 : Nat) (s : State) : exec (.governorWindow x0) s = execGovernorWindow x0 s := rfl
theorem exec_contextBankSpill (x0 : Nat) (x1 : Nat) (s : State) : exec (.contextBankSpill x0 x1) s = execContextBankSpill x0 x1 s := rfl
theorem exec_mbldReadEnd (x0 : Nat) (x1 : Nat) (x2 : Nat) (s : State) : exec (.mbldReadEnd x0 x1 x2) s = execMbldReadEnd x0 x1 x2 s := rfl
theorem exec_traversalLaneEnd (x0 : Nat) (x1 : Nat) (s : State) : exec (.traversalLaneEnd x0 x1) s = execTraversalLaneEnd x0 x1 s := rfl
theorem exec_drawAccept (x0 : Nat) (s : State) : exec (.drawAccept x0) s = execDrawAccept x0 s := rfl
theorem exec_primitiveSetup (x0 : Nat) (s : State) : exec (.primitiveSetup x0) s = execPrimitiveSetup x0 s := rfl
theorem exec_quadTicketReserve (x0 : Nat) (s : State) : exec (.quadTicketReserve x0) s = execQuadTicketReserve x0 s := rfl
theorem exec_fragmentGroupDispatch (x0 : Nat) (s : State) : exec (.fragmentGroupDispatch x0) s = execFragmentGroupDispatch x0 s := rfl
theorem exec_drawComplete (x0 : Nat) (s : State) : exec (.drawComplete x0) s = execDrawComplete x0 s := rfl
theorem exec_issueCycle (x0 : Nat) (x1 : Nat) (s : State) : exec (.issueCycle x0 x1) s = execIssueCycle x0 x1 s := rfl
theorem exec_splitGuardExpiry (x0 : Nat) (x1 : Nat) (s : State) : exec (.splitGuardExpiry x0 x1) s = execSplitGuardExpiry x0 x1 s := rfl
theorem exec_slotStarvationGuard (x0 : Nat) (x1 : Nat) (x2 : Nat) (s : State) : exec (.slotStarvationGuard x0 x1 x2) s = execSlotStarvationGuard x0 x1 x2 s := rfl
theorem exec_collectorMark (x0 : Nat) (x1 : Nat) (s : State) : exec (.collectorMark x0 x1) s = execCollectorMark x0 x1 s := rfl
theorem exec_clauseStart (x0 : Nat) (x1 : Nat) (s : State) : exec (.clauseStart x0 x1) s = execClauseStart x0 x1 s := rfl
theorem exec_mayFaultChecksResolved (x0 : Nat) (s : State) : exec (.mayFaultChecksResolved x0) s = execMayFaultChecksResolved x0 s := rfl
theorem exec_longLatencyCompletion (x0 : Nat) (x1 : Nat) (s : State) : exec (.longLatencyCompletion x0 x1) s = execLongLatencyCompletion x0 x1 s := rfl
theorem exec_watchdogExpiry (x0 : Nat) (x1 : Nat) (s : State) : exec (.watchdogExpiry x0 x1) s = execWatchdogExpiry x0 x1 s := rfl
theorem exec_teamPlacement (x0 : Nat) (s : State) : exec (.teamPlacement x0) s = execTeamPlacement x0 s := rfl
theorem exec_placementStarvation (x0 : Nat) (x1 : Nat) (s : State) : exec (.placementStarvation x0 x1) s = execPlacementStarvation x0 x1 s := rfl
theorem exec_preemptionRequest (x0 : Nat) (x1 : Nat) (s : State) : exec (.preemptionRequest x0 x1) s = execPreemptionRequest x0 x1 s := rfl
theorem exec_drainTimeout (x0 : Nat) (x1 : Nat) (x2 : Nat) (s : State) : exec (.drainTimeout x0 x1 x2) s = execDrainTimeout x0 x1 x2 s := rfl
theorem exec_teamSave (x0 : Nat) (x1 : Nat) (s : State) : exec (.teamSave x0 x1) s = execTeamSave x0 x1 s := rfl
theorem exec_harvestRevocation (x0 : Nat) (x1 : Nat) (x2 : Nat) (s : State) : exec (.harvestRevocation x0 x1 x2) s = execHarvestRevocation x0 x1 x2 s := rfl
theorem exec_thermalLimitCrossing (x0 : Nat) (x1 : Bool) (x2 : BitVec 32) (x3 : BitVec 32) (s : State) : exec (.thermalLimitCrossing x0 x1 x2 x3) s = execThermalLimitCrossing x0 x1 x2 x3 s := rfl
theorem exec_thermalMigration (x0 : Nat) (x1 : Nat) (s : State) : exec (.thermalMigration x0 x1) s = execThermalMigration x0 x1 s := rfl
theorem exec_ageingMeasurement (x0 : Nat) (x1 : Nat) (x2 : BitVec 32) (x3 : BitVec 32) (x4 : Nat) (s : State) : exec (.ageingMeasurement x0 x1 x2 x3 x4) s = execAgeingMeasurement x0 x1 x2 x3 x4 s := rfl
theorem exec_forcedAgeingMeasurement (x0 : Nat) (x1 : Nat) (x2 : BitVec 32) (x3 : BitVec 32) (x4 : Nat) (s : State) : exec (.forcedAgeingMeasurement x0 x1 x2 x3 x4) s = execForcedAgeingMeasurement x0 x1 x2 x3 x4 s := rfl
theorem exec_peerPortDown (x0 : Nat) (s : State) : exec (.peerPortDown x0) s = execPeerPortDown x0 s := rfl
theorem exec_peerReceive (x0 : PeerHead) (x1 : Nat) (x2 : List (BitVec 8)) (x3 : BitVec 16) (x4 : Bool) (s : State) : exec (.peerReceive x0 x1 x2 x3 x4) s = execPeerReceive x0 x1 x2 x3 x4 s := rfl
theorem exec_nop (x0 : BitVec 3) (x1 : BitVec 1) (x2 : BitVec 21) (s : State) : exec (.nop x0 x1 x2) s = execNop x0 x1 x2 s := rfl
theorem exec_bra (x0 : BitVec 3) (x1 : BitVec 1) (x2 : BitVec 21) (s : State) : exec (.bra x0 x1 x2) s = execBra x0 x1 x2 s := rfl
theorem exec_brx (x0 : BitVec 3) (x1 : BitVec 1) (x2 : BitVec 7) (s : State) : exec (.brx x0 x1 x2) s = execBrx x0 x1 x2 s := rfl
theorem exec_call (x0 : BitVec 3) (x1 : BitVec 1) (x2 : BitVec 21) (s : State) : exec (.call x0 x1 x2) s = execCall x0 x1 x2 s := rfl
theorem exec_ret (s : State) : exec (.ret) s = execRet s := rfl
theorem exec_jset (x0 : BitVec 21) (s : State) : exec (.jset x0) s = execJset x0 s := rfl
theorem exec_exit (x0 : BitVec 3) (x1 : BitVec 1) (s : State) : exec (.exit x0 x1) s = execExit x0 x1 s := rfl
theorem exec_trap (x0 : BitVec 3) (x1 : BitVec 1) (x2 : BitVec 16) (s : State) : exec (.trap x0 x1 x2) s = execTrap x0 x1 x2 s := rfl
theorem exec_mset (x0 : BitVec 7) (x1 : BitVec 17) (s : State) : exec (.mset x0 x1) s = execMset x0 x1 s := rfl
theorem exec_msetReg (x0 : BitVec 7) (x1 : BitVec 6) (s : State) : exec (.msetReg x0 x1) s = execMsetReg x0 x1 s := rfl
theorem exec_mget (x0 : BitVec 7) (x1 : BitVec 9) (s : State) : exec (.mget x0 x1) s = execMget x0 x1 s := rfl
theorem exec_sli (x0 : BitVec 7) (x1 : BitVec 18) (s : State) : exec (.sli x0 x1) s = execSli x0 x1 s := rfl
theorem exec_slih (x0 : BitVec 7) (x1 : BitVec 18) (s : State) : exec (.slih x0 x1) s = execSlih x0 x1 s := rfl
theorem exec_pset (x0 : BitVec 3) (x1 : BitVec 1) (s : State) : exec (.pset x0 x1) s = execPset x0 x1 s := rfl
theorem exec_psetS (x0 : BitVec 3) (x1 : BitVec 6) (s : State) : exec (.psetS x0 x1) s = execPsetS x0 x1 s := rfl
theorem exec_psetLt (x0 : BitVec 3) (x1 : BitVec 7) (s : State) : exec (.psetLt x0 x1) s = execPsetLt x0 x1 s := rfl
theorem exec_pmov (x0 : BitVec 3) (x1 : BitVec 1) (x2 : BitVec 3) (x3 : BitVec 1) (x4 : BitVec 3) (x5 : BitVec 9) (s : State) : exec (.pmov x0 x1 x2 x3 x4 x5) s = execPmov x0 x1 x2 x3 x4 x5 s := rfl
theorem exec_vwset (x0 : BitVec 2) (x1 : BitVec 6) (s : State) : exec (.vwset x0 x1) s = execVwset x0 x1 s := rfl
theorem exec_sysr (x0 : BitVec 7) (x1 : BitVec 3) (x2 : BitVec 9) (s : State) : exec (.sysr x0 x1 x2) s = execSysr x0 x1 x2 s := rfl
theorem exec_sadd (x0 : BitVec 7) (x1 : BitVec 7) (x2 : BitVec 7) (s : State) : exec (.sadd x0 x1 x2) s = execSadd x0 x1 x2 s := rfl
theorem exec_ssub (x0 : BitVec 7) (x1 : BitVec 7) (x2 : BitVec 7) (s : State) : exec (.ssub x0 x1 x2) s = execSsub x0 x1 x2 s := rfl
theorem exec_smul (x0 : BitVec 7) (x1 : BitVec 7) (x2 : BitVec 7) (s : State) : exec (.smul x0 x1 x2) s = execSmul x0 x1 x2 s := rfl
theorem exec_smulh (x0 : BitVec 7) (x1 : BitVec 7) (x2 : BitVec 7) (s : State) : exec (.smulh x0 x1 x2) s = execSmulh x0 x1 x2 s := rfl
theorem exec_smad (x0 : BitVec 7) (x1 : BitVec 7) (x2 : BitVec 7) (s : State) : exec (.smad x0 x1 x2) s = execSmad x0 x1 x2 s := rfl
theorem exec_sand (x0 : BitVec 7) (x1 : BitVec 7) (x2 : BitVec 7) (s : State) : exec (.sand x0 x1 x2) s = execSand x0 x1 x2 s := rfl
theorem exec_sor (x0 : BitVec 7) (x1 : BitVec 7) (x2 : BitVec 7) (s : State) : exec (.sor x0 x1 x2) s = execSor x0 x1 x2 s := rfl
theorem exec_sxor (x0 : BitVec 7) (x1 : BitVec 7) (x2 : BitVec 7) (s : State) : exec (.sxor x0 x1 x2) s = execSxor x0 x1 x2 s := rfl
theorem exec_sshl (x0 : BitVec 7) (x1 : BitVec 7) (x2 : BitVec 7) (s : State) : exec (.sshl x0 x1 x2) s = execSshl x0 x1 x2 s := rfl
theorem exec_sshr (x0 : BitVec 7) (x1 : BitVec 7) (x2 : BitVec 7) (s : State) : exec (.sshr x0 x1 x2) s = execSshr x0 x1 x2 s := rfl
theorem exec_ssar (x0 : BitVec 7) (x1 : BitVec 7) (x2 : BitVec 7) (s : State) : exec (.ssar x0 x1 x2) s = execSsar x0 x1 x2 s := rfl
theorem exec_smin (x0 : BitVec 7) (x1 : BitVec 7) (x2 : BitVec 7) (s : State) : exec (.smin x0 x1 x2) s = execSmin x0 x1 x2 s := rfl
theorem exec_smax (x0 : BitVec 7) (x1 : BitVec 7) (x2 : BitVec 7) (s : State) : exec (.smax x0 x1 x2) s = execSmax x0 x1 x2 s := rfl
theorem exec_scmp (x0 : BitVec 4) (x1 : BitVec 3) (x2 : BitVec 7) (x3 : BitVec 7) (s : State) : exec (.scmp x0 x1 x2 x3) s = execScmp x0 x1 x2 x3 s := rfl
theorem exec_ssel (x0 : BitVec 7) (x1 : BitVec 7) (x2 : BitVec 7) (s : State) : exec (.ssel x0 x1 x2) s = execSsel x0 x1 x2 s := rfl
theorem exec_sbit (x0 : BitVec 7) (x1 : BitVec 7) (x2 : BitVec 9) (s : State) : exec (.sbit x0 x1 x2) s = execSbit x0 x1 x2 s := rfl
theorem exec_add (x0 : BitVec 7) (x1 : BitVec 2) (x2 : BitVec 7) (x3 : BitVec 2) (x4 : BitVec 7) (s : State) : exec (.add x0 x1 x2 x3 x4) s = execAdd x0 x1 x2 x3 x4 s := rfl
theorem exec_sub (x0 : BitVec 7) (x1 : BitVec 2) (x2 : BitVec 7) (x3 : BitVec 2) (x4 : BitVec 7) (s : State) : exec (.sub x0 x1 x2 x3 x4) s = execSub x0 x1 x2 x3 x4 s := rfl
theorem exec_mul (x0 : BitVec 7) (x1 : BitVec 2) (x2 : BitVec 7) (x3 : BitVec 2) (x4 : BitVec 7) (s : State) : exec (.mul x0 x1 x2 x3 x4) s = execMul x0 x1 x2 x3 x4 s := rfl
theorem exec_mulh (x0 : BitVec 7) (x1 : BitVec 2) (x2 : BitVec 7) (x3 : BitVec 2) (x4 : BitVec 7) (s : State) : exec (.mulh x0 x1 x2 x3 x4) s = execMulh x0 x1 x2 x3 x4 s := rfl
theorem exec_mad (x0 : BitVec 7) (x1 : BitVec 2) (x2 : BitVec 7) (x3 : BitVec 2) (x4 : BitVec 7) (s : State) : exec (.mad x0 x1 x2 x3 x4) s = execMad x0 x1 x2 x3 x4 s := rfl
theorem exec_andB (x0 : BitVec 7) (x1 : BitVec 2) (x2 : BitVec 7) (x3 : BitVec 2) (x4 : BitVec 7) (s : State) : exec (.andB x0 x1 x2 x3 x4) s = execAndB x0 x1 x2 x3 x4 s := rfl
theorem exec_orB (x0 : BitVec 7) (x1 : BitVec 2) (x2 : BitVec 7) (x3 : BitVec 2) (x4 : BitVec 7) (s : State) : exec (.orB x0 x1 x2 x3 x4) s = execOrB x0 x1 x2 x3 x4 s := rfl
theorem exec_xorB (x0 : BitVec 7) (x1 : BitVec 2) (x2 : BitVec 7) (x3 : BitVec 2) (x4 : BitVec 7) (s : State) : exec (.xorB x0 x1 x2 x3 x4) s = execXorB x0 x1 x2 x3 x4 s := rfl
theorem exec_shl (x0 : BitVec 7) (x1 : BitVec 2) (x2 : BitVec 7) (x3 : BitVec 2) (x4 : BitVec 7) (s : State) : exec (.shl x0 x1 x2 x3 x4) s = execShl x0 x1 x2 x3 x4 s := rfl
theorem exec_shr (x0 : BitVec 7) (x1 : BitVec 2) (x2 : BitVec 7) (x3 : BitVec 2) (x4 : BitVec 7) (s : State) : exec (.shr x0 x1 x2 x3 x4) s = execShr x0 x1 x2 x3 x4 s := rfl
theorem exec_sar (x0 : BitVec 7) (x1 : BitVec 2) (x2 : BitVec 7) (x3 : BitVec 2) (x4 : BitVec 7) (s : State) : exec (.sar x0 x1 x2 x3 x4) s = execSar x0 x1 x2 x3 x4 s := rfl
theorem exec_minV (x0 : BitVec 7) (x1 : BitVec 2) (x2 : BitVec 7) (x3 : BitVec 2) (x4 : BitVec 7) (s : State) : exec (.minV x0 x1 x2 x3 x4) s = execMinV x0 x1 x2 x3 x4 s := rfl
theorem exec_maxV (x0 : BitVec 7) (x1 : BitVec 2) (x2 : BitVec 7) (x3 : BitVec 2) (x4 : BitVec 7) (s : State) : exec (.maxV x0 x1 x2 x3 x4) s = execMaxV x0 x1 x2 x3 x4 s := rfl
theorem exec_absd (x0 : BitVec 7) (x1 : BitVec 2) (x2 : BitVec 7) (x3 : BitVec 2) (x4 : BitVec 7) (s : State) : exec (.absd x0 x1 x2 x3 x4) s = execAbsd x0 x1 x2 x3 x4 s := rfl
theorem exec_addc (x0 : BitVec 7) (x1 : BitVec 2) (x2 : BitVec 7) (x3 : BitVec 9) (s : State) : exec (.addc x0 x1 x2 x3) s = execAddc x0 x1 x2 x3 s := rfl
theorem exec_bit (x0 : BitVec 7) (x1 : BitVec 2) (x2 : BitVec 7) (x3 : BitVec 9) (s : State) : exec (.bit x0 x1 x2 x3) s = execBit x0 x1 x2 x3 s := rfl
theorem exec_cmp (x0 : BitVec 4) (x1 : BitVec 3) (x2 : BitVec 2) (x3 : BitVec 7) (x4 : BitVec 2) (x5 : BitVec 7) (s : State) : exec (.cmp x0 x1 x2 x3 x4 x5) s = execCmp x0 x1 x2 x3 x4 x5 s := rfl
theorem exec_sel (x0 : BitVec 7) (x1 : BitVec 2) (x2 : BitVec 7) (x3 : BitVec 2) (x4 : BitVec 7) (s : State) : exec (.sel x0 x1 x2 x3 x4) s = execSel x0 x1 x2 x3 x4 s := rfl
theorem exec_adr (x0 : BitVec 7) (x1 : BitVec 2) (x2 : BitVec 7) (x3 : BitVec 9) (s : State) : exec (.adr x0 x1 x2 x3) s = execAdr x0 x1 x2 x3 s := rfl
theorem exec_dot8 (x0 : BitVec 7) (x1 : BitVec 2) (x2 : BitVec 7) (x3 : BitVec 2) (x4 : BitVec 7) (s : State) : exec (.dot8 x0 x1 x2 x3 x4) s = execDot8 x0 x1 x2 x3 x4 s := rfl
theorem exec_fadd (x0 : BitVec 7) (x1 : BitVec 2) (x2 : BitVec 7) (x3 : BitVec 2) (x4 : BitVec 7) (s : State) : exec (.fadd x0 x1 x2 x3 x4) s = execFadd x0 x1 x2 x3 x4 s := rfl
theorem exec_fsub (x0 : BitVec 7) (x1 : BitVec 2) (x2 : BitVec 7) (x3 : BitVec 2) (x4 : BitVec 7) (s : State) : exec (.fsub x0 x1 x2 x3 x4) s = execFsub x0 x1 x2 x3 x4 s := rfl
theorem exec_fmul (x0 : BitVec 7) (x1 : BitVec 2) (x2 : BitVec 7) (x3 : BitVec 2) (x4 : BitVec 7) (s : State) : exec (.fmul x0 x1 x2 x3 x4) s = execFmul x0 x1 x2 x3 x4 s := rfl
theorem exec_ffma (x0 : BitVec 7) (x1 : BitVec 2) (x2 : BitVec 7) (x3 : BitVec 2) (x4 : BitVec 7) (s : State) : exec (.ffma x0 x1 x2 x3 x4) s = execFfma x0 x1 x2 x3 x4 s := rfl
theorem exec_ffms (x0 : BitVec 7) (x1 : BitVec 2) (x2 : BitVec 7) (x3 : BitVec 2) (x4 : BitVec 7) (s : State) : exec (.ffms x0 x1 x2 x3 x4) s = execFfms x0 x1 x2 x3 x4 s := rfl
theorem exec_ffnma (x0 : BitVec 7) (x1 : BitVec 2) (x2 : BitVec 7) (x3 : BitVec 2) (x4 : BitVec 7) (s : State) : exec (.ffnma x0 x1 x2 x3 x4) s = execFfnma x0 x1 x2 x3 x4 s := rfl
theorem exec_ffnms (x0 : BitVec 7) (x1 : BitVec 2) (x2 : BitVec 7) (x3 : BitVec 2) (x4 : BitVec 7) (s : State) : exec (.ffnms x0 x1 x2 x3 x4) s = execFfnms x0 x1 x2 x3 x4 s := rfl
theorem exec_fmin (x0 : BitVec 7) (x1 : BitVec 2) (x2 : BitVec 7) (x3 : BitVec 2) (x4 : BitVec 7) (s : State) : exec (.fmin x0 x1 x2 x3 x4) s = execFmin x0 x1 x2 x3 x4 s := rfl
theorem exec_fmax (x0 : BitVec 7) (x1 : BitVec 2) (x2 : BitVec 7) (x3 : BitVec 2) (x4 : BitVec 7) (s : State) : exec (.fmax x0 x1 x2 x3 x4) s = execFmax x0 x1 x2 x3 x4 s := rfl
theorem exec_fcmp (x0 : BitVec 4) (x1 : BitVec 3) (x2 : BitVec 2) (x3 : BitVec 7) (x4 : BitVec 2) (x5 : BitVec 7) (s : State) : exec (.fcmp x0 x1 x2 x3 x4 x5) s = execFcmp x0 x1 x2 x3 x4 x5 s := rfl
theorem exec_fclass (x0 : BitVec 7) (x1 : BitVec 2) (x2 : BitVec 7) (s : State) : exec (.fclass x0 x1 x2) s = execFclass x0 x1 x2 s := rfl
theorem exec_frcp (x0 : BitVec 7) (x1 : BitVec 2) (x2 : BitVec 7) (s : State) : exec (.frcp x0 x1 x2) s = execFrcp x0 x1 x2 s := rfl
theorem exec_frsq (x0 : BitVec 7) (x1 : BitVec 2) (x2 : BitVec 7) (s : State) : exec (.frsq x0 x1 x2) s = execFrsq x0 x1 x2 s := rfl
theorem exec_fsqrt (x0 : BitVec 7) (x1 : BitVec 2) (x2 : BitVec 7) (s : State) : exec (.fsqrt x0 x1 x2) s = execFsqrt x0 x1 x2 s := rfl
theorem exec_fdiv (x0 : BitVec 7) (x1 : BitVec 2) (x2 : BitVec 7) (x3 : BitVec 2) (x4 : BitVec 7) (s : State) : exec (.fdiv x0 x1 x2 x3 x4) s = execFdiv x0 x1 x2 x3 x4 s := rfl
theorem exec_fexp2 (x0 : BitVec 7) (x1 : BitVec 2) (x2 : BitVec 7) (s : State) : exec (.fexp2 x0 x1 x2) s = execFexp2 x0 x1 x2 s := rfl
theorem exec_flog2 (x0 : BitVec 7) (x1 : BitVec 2) (x2 : BitVec 7) (s : State) : exec (.flog2 x0 x1 x2) s = execFlog2 x0 x1 x2 s := rfl
theorem exec_fsin (x0 : BitVec 7) (x1 : BitVec 2) (x2 : BitVec 7) (s : State) : exec (.fsin x0 x1 x2) s = execFsin x0 x1 x2 s := rfl
theorem exec_fcos (x0 : BitVec 7) (x1 : BitVec 2) (x2 : BitVec 7) (s : State) : exec (.fcos x0 x1 x2) s = execFcos x0 x1 x2 s := rfl
theorem exec_frnd (x0 : BitVec 7) (x1 : BitVec 2) (x2 : BitVec 7) (x3 : BitVec 9) (s : State) : exec (.frnd x0 x1 x2 x3) s = execFrnd x0 x1 x2 x3 s := rfl
theorem exec_fscale (x0 : BitVec 7) (x1 : BitVec 2) (x2 : BitVec 7) (x3 : BitVec 2) (x4 : BitVec 7) (s : State) : exec (.fscale x0 x1 x2 x3 x4) s = execFscale x0 x1 x2 x3 x4 s := rfl
theorem exec_ffract (x0 : BitVec 7) (x1 : BitVec 2) (x2 : BitVec 7) (s : State) : exec (.ffract x0 x1 x2) s = execFfract x0 x1 x2 s := rfl
theorem exec_fdot2 (x0 : BitVec 7) (x1 : BitVec 2) (x2 : BitVec 7) (x3 : BitVec 2) (x4 : BitVec 7) (s : State) : exec (.fdot2 x0 x1 x2 x3 x4) s = execFdot2 x0 x1 x2 x3 x4 s := rfl
theorem exec_fcsgn (x0 : BitVec 7) (x1 : BitVec 2) (x2 : BitVec 7) (x3 : BitVec 2) (x4 : BitVec 7) (s : State) : exec (.fcsgn x0 x1 x2 x3 x4) s = execFcsgn x0 x1 x2 x3 x4 s := rfl
theorem exec_cvt (x0 : BitVec 7) (x1 : BitVec 2) (x2 : BitVec 7) (x3 : BitVec 9) (s : State) : exec (.cvt x0 x1 x2 x3) s = execCvt x0 x1 x2 x3 s := rfl
theorem exec_cvtb (x0 : BitVec 7) (x1 : BitVec 2) (x2 : BitVec 7) (x3 : BitVec 9) (s : State) : exec (.cvtb x0 x1 x2 x3) s = execCvtb x0 x1 x2 x3 s := rfl
theorem exec_cvtq (x0 : BitVec 7) (x1 : BitVec 2) (x2 : BitVec 7) (x3 : BitVec 9) (s : State) : exec (.cvtq x0 x1 x2 x3) s = execCvtq x0 x1 x2 x3 s := rfl
theorem exec_tagset (x0 : BitVec 7) (x1 : BitVec 2) (x2 : BitVec 7) (x3 : BitVec 9) (s : State) : exec (.tagset x0 x1 x2 x3) s = execTagset x0 x1 x2 x3 s := rfl
theorem exec_tagget (x0 : BitVec 7) (x1 : BitVec 2) (x2 : BitVec 7) (s : State) : exec (.tagget x0 x1 x2) s = execTagget x0 x1 x2 s := rfl
theorem exec_fpack (x0 : BitVec 7) (x1 : BitVec 2) (x2 : BitVec 7) (x3 : BitVec 2) (x4 : BitVec 7) (s : State) : exec (.fpack x0 x1 x2 x3 x4) s = execFpack x0 x1 x2 x3 x4 s := rfl
theorem exec_funpack (x0 : BitVec 7) (x1 : BitVec 2) (x2 : BitVec 7) (x3 : BitVec 9) (s : State) : exec (.funpack x0 x1 x2 x3) s = execFunpack x0 x1 x2 x3 s := rfl
theorem exec_sqz (x0 : BitVec 7) (x1 : BitVec 2) (x2 : BitVec 7) (x3 : BitVec 9) (s : State) : exec (.sqz x0 x1 x2 x3) s = execSqz x0 x1 x2 x3 s := rfl
theorem exec_vmov (x0 : BitVec 7) (x1 : BitVec 2) (x2 : BitVec 7) (s : State) : exec (.vmov x0 x1 x2) s = execVmov x0 x1 x2 s := rfl
theorem exec_vmovS (x0 : BitVec 7) (x1 : BitVec 2) (x2 : BitVec 7) (s : State) : exec (.vmovS x0 x1 x2) s = execVmovS x0 x1 x2 s := rfl
theorem exec_vmovI (x0 : BitVec 7) (s : State) : exec (.vmovI x0) s = execVmovI x0 s := rfl
theorem exec_vperm (x0 : BitVec 7) (x1 : BitVec 2) (x2 : BitVec 7) (x3 : BitVec 2) (x4 : BitVec 7) (s : State) : exec (.vperm x0 x1 x2 x3 x4) s = execVperm x0 x1 x2 x3 x4 s := rfl
theorem exec_vtbl (x0 : BitVec 7) (x1 : BitVec 2) (x2 : BitVec 7) (x3 : BitVec 2) (x4 : BitVec 7) (s : State) : exec (.vtbl x0 x1 x2 x3 x4) s = execVtbl x0 x1 x2 x3 x4 s := rfl
theorem exec_vshuf (x0 : BitVec 7) (x1 : BitVec 2) (x2 : BitVec 7) (x3 : BitVec 2) (x4 : BitVec 7) (s : State) : exec (.vshuf x0 x1 x2 x3 x4) s = execVshuf x0 x1 x2 x3 x4 s := rfl
theorem exec_vred (x0 : BitVec 7) (x1 : BitVec 2) (x2 : BitVec 7) (x3 : BitVec 9) (s : State) : exec (.vred x0 x1 x2 x3) s = execVred x0 x1 x2 x3 s := rfl
theorem exec_vscan (x0 : BitVec 7) (x1 : BitVec 2) (x2 : BitVec 7) (x3 : BitVec 9) (s : State) : exec (.vscan x0 x1 x2 x3) s = execVscan x0 x1 x2 x3 s := rfl
theorem exec_vballot (x0 : BitVec 7) (x1 : BitVec 3) (s : State) : exec (.vballot x0 x1) s = execVballot x0 x1 s := rfl
theorem exec_vrel (x0 : BitVec 7) (x1 : BitVec 2) (x2 : BitVec 7) (x3 : BitVec 7) (s : State) : exec (.vrel x0 x1 x2 x3) s = execVrel x0 x1 x2 x3 s := rfl
theorem exec_vrelSt (x0 : BitVec 7) (x1 : BitVec 2) (x2 : BitVec 7) (x3 : BitVec 7) (s : State) : exec (.vrelSt x0 x1 x2 x3) s = execVrelSt x0 x1 x2 x3 s := rfl
theorem exec_ld (x0 : BitVec 7) (x1 : BitVec 3) (x2 : BitVec 1) (x3 : BitVec 6) (x4 : BitVec 8) (s : State) : exec (.ld x0 x1 x2 x3 x4) s = execLd x0 x1 x2 x3 x4 s := rfl
theorem exec_st (x0 : BitVec 7) (x1 : BitVec 3) (x2 : BitVec 1) (x3 : BitVec 6) (x4 : BitVec 8) (s : State) : exec (.st x0 x1 x2 x3 x4) s = execSt x0 x1 x2 x3 x4 s := rfl
theorem exec_ldu (x0 : BitVec 1) (x1 : BitVec 6) (x2 : BitVec 3) (x3 : BitVec 6) (x4 : BitVec 8) (s : State) : exec (.ldu x0 x1 x2 x3 x4) s = execLdu x0 x1 x2 x3 x4 s := rfl
theorem exec_stu (x0 : BitVec 1) (x1 : BitVec 6) (x2 : BitVec 3) (x3 : BitVec 6) (x4 : BitVec 8) (s : State) : exec (.stu x0 x1 x2 x3 x4) s = execStu x0 x1 x2 x3 x4 s := rfl
theorem exec_ldt (x0 : BitVec 7) (x1 : BitVec 3) (x2 : BitVec 1) (x3 : BitVec 6) (x4 : BitVec 8) (s : State) : exec (.ldt x0 x1 x2 x3 x4) s = execLdt x0 x1 x2 x3 x4 s := rfl
theorem exec_stt (x0 : BitVec 7) (x1 : BitVec 3) (x2 : BitVec 1) (x3 : BitVec 6) (x4 : BitVec 8) (s : State) : exec (.stt x0 x1 x2 x3 x4) s = execStt x0 x1 x2 x3 x4 s := rfl
theorem exec_ldb (x0 : BitVec 7) (x1 : BitVec 3) (x2 : BitVec 6) (x3 : BitVec 8) (s : State) : exec (.ldb x0 x1 x2 x3) s = execLdb x0 x1 x2 x3 s := rfl
theorem exec_prf (x0 : BitVec 1) (x1 : BitVec 3) (x2 : BitVec 1) (x3 : BitVec 6) (x4 : BitVec 8) (s : State) : exec (.prf x0 x1 x2 x3 x4) s = execPrf x0 x1 x2 x3 x4 s := rfl
theorem exec_atom (x0 : BitVec 7) (x1 : BitVec 3) (x2 : BitVec 1) (x3 : BitVec 6) (x4 : BitVec 4) (x5 : BitVec 1) (s : State) : exec (.atom x0 x1 x2 x3 x4 x5) s = execAtom x0 x1 x2 x3 x4 x5 s := rfl
theorem exec_fatom (x0 : BitVec 7) (x1 : BitVec 3) (x2 : BitVec 1) (x3 : BitVec 6) (x4 : BitVec 4) (x5 : BitVec 1) (s : State) : exec (.fatom x0 x1 x2 x3 x4 x5) s = execFatom x0 x1 x2 x3 x4 x5 s := rfl
theorem exec_fence (x0 : BitVec 3) (x1 : BitVec 2) (s : State) : exec (.fence x0 x1) s = execFence x0 x1 s := rfl
theorem exec_bar (x0 : BitVec 3) (x1 : BitVec 4) (s : State) : exec (.bar x0 x1) s = execBar x0 x1 s := rfl
theorem exec_waita (x0 : BitVec 7) (x1 : BitVec 3) (x2 : BitVec 1) (x3 : BitVec 3) (x4 : BitVec 2) (x5 : BitVec 3) (x6 : BitVec 1) (s : State) : exec (.waita x0 x1 x2 x3 x4 x5 x6) s = execWaita x0 x1 x2 x3 x4 x5 x6 s := rfl
theorem exec_waitaRecheck (x0 : Nat) (x1 : Nat) (x2 : Nat) (s : State) : exec (.waitaRecheck x0 x1 x2) s = execWaitaRecheck x0 x1 x2 s := rfl
theorem exec_wcnt (x0 : BitVec 3) (x1 : BitVec 1) (x2 : BitVec 3) (x3 : BitVec 3) (x4 : BitVec 8) (s : State) : exec (.wcnt x0 x1 x2 x3 x4) s = execWcnt x0 x1 x2 x3 x4 s := rfl
theorem exec_dfence (x0 : BitVec 7) (x1 : BitVec 3) (s : State) : exec (.dfence x0 x1) s = execDfence x0 x1 s := rfl
theorem exec_dfenceAll (x0 : BitVec 3) (s : State) : exec (.dfenceAll x0) s = execDfenceAll x0 s := rfl
theorem exec_gmove (x0 : BitVec 7) (s : State) : exec (.gmove x0) s = execGmove x0 s := rfl
theorem exec_qpush (x0 : BitVec 7) (x1 : BitVec 3) (x2 : BitVec 1) (x3 : BitVec 3) (x4 : BitVec 6) (s : State) : exec (.qpush x0 x1 x2 x3 x4) s = execQpush x0 x1 x2 x3 x4 s := rfl
theorem exec_qpop (x0 : BitVec 7) (x1 : BitVec 3) (x2 : BitVec 1) (x3 : BitVec 3) (x4 : BitVec 6) (s : State) : exec (.qpop x0 x1 x2 x3 x4) s = execQpop x0 x1 x2 x3 x4 s := rfl
theorem exec_kwant (x0 : BitVec 7) (x1 : BitVec 3) (x2 : BitVec 1) (x3 : BitVec 3) (s : State) : exec (.kwant x0 x1 x2 x3) s = execKwant x0 x1 x2 x3 s := rfl
theorem exec_kput (x0 : BitVec 7) (x1 : BitVec 3) (x2 : BitVec 1) (x3 : BitVec 3) (s : State) : exec (.kput x0 x1 x2 x3) s = execKput x0 x1 x2 x3 s := rfl
theorem exec_kdrop (x0 : BitVec 7) (x1 : BitVec 3) (s : State) : exec (.kdrop x0 x1) s = execKdrop x0 x1 s := rfl
theorem exec_kclose (x0 : BitVec 7) (x1 : BitVec 3) (s : State) : exec (.kclose x0 x1) s = execKclose x0 x1 s := rfl
theorem exec_amsend (x0 : BitVec 7) (x1 : BitVec 3) (x2 : BitVec 1) (x3 : BitVec 3) (x4 : BitVec 3) (s : State) : exec (.amsend x0 x1 x2 x3 x4) s = execAmsend x0 x1 x2 x3 x4 s := rfl
theorem exec_cpy (x0 : BitVec 7) (x1 : BitVec 3) (x2 : BitVec 1) (x3 : BitVec 3) (x4 : BitVec 3) (s : State) : exec (.cpy x0 x1 x2 x3 x4) s = execCpy x0 x1 x2 x3 x4 s := rfl
theorem exec_coll (x0 : BitVec 7) (x1 : BitVec 3) (x2 : BitVec 1) (x3 : BitVec 3) (x4 : BitVec 3) (s : State) : exec (.coll x0 x1 x2 x3 x4) s = execColl x0 x1 x2 x3 x4 s := rfl
theorem exec_nbx (x0 : BitVec 7) (x1 : BitVec 3) (x2 : BitVec 1) (x3 : BitVec 3) (x4 : BitVec 3) (s : State) : exec (.nbx x0 x1 x2 x3 x4) s = execNbx x0 x1 x2 x3 x4 s := rfl
theorem exec_sld (x0 : BitVec 7) (x1 : BitVec 6) (x2 : BitVec 2) (s : State) : exec (.sld x0 x1 x2) s = execSld x0 x1 x2 s := rfl
theorem exec_sst (x0 : BitVec 7) (x1 : BitVec 6) (x2 : BitVec 2) (s : State) : exec (.sst x0 x1 x2) s = execSst x0 x1 x2 s := rfl
theorem exec_salloc (x0 : BitVec 7) (x1 : BitVec 6) (s : State) : exec (.salloc x0 x1) s = execSalloc x0 x1 s := rfl
theorem exec_sfree (x0 : BitVec 6) (s : State) : exec (.sfree x0) s = execSfree x0 s := rfl
theorem exec_spinOn (x0 : BitVec 7) (x1 : BitVec 6) (s : State) : exec (.spinOn x0 x1) s = execSpinOn x0 x1 s := rfl
theorem exec_spinOff (x0 : BitVec 7) (x1 : BitVec 6) (s : State) : exec (.spinOff x0 x1) s = execSpinOff x0 x1 s := rfl
theorem exec_mma (x0 : BitVec 7) (x1 : BitVec 7) (x2 : BitVec 7) (s : State) : exec (.mma x0 x1 x2) s = execMma x0 x1 x2 s := rfl
theorem exec_mmas (x0 : BitVec 7) (x1 : BitVec 7) (x2 : BitVec 7) (s : State) : exec (.mmas x0 x1 x2) s = execMmas x0 x1 x2 s := rfl
theorem exec_mbld (x0 : BitVec 7) (x1 : BitVec 3) (x2 : BitVec 2) (x3 : BitVec 7) (s : State) : exec (.mbld x0 x1 x2 x3) s = execMbld x0 x1 x2 x3 s := rfl
theorem exec_mbrel (x0 : BitVec 7) (s : State) : exec (.mbrel x0) s = execMbrel x0 s := rfl
theorem exec_travStart (x0 : BitVec 7) (x1 : BitVec 2) (x2 : BitVec 6) (s : State) : exec (.travStart x0 x1 x2) s = execTravStart x0 x1 x2 s := rfl
theorem exec_trav (x0 : BitVec 7) (x1 : BitVec 2) (s : State) : exec (.trav x0 x1) s = execTrav x0 x1 s := rfl
theorem exec_trepStart (x0 : BitVec 7) (x1 : BitVec 2) (s : State) : exec (.trepStart x0 x1) s = execTrepStart x0 x1 s := rfl
theorem exec_trep (x0 : BitVec 7) (x1 : BitVec 2) (s : State) : exec (.trep x0 x1) s = execTrep x0 x1 s := rfl
theorem exec_bunion (x0 : BitVec 7) (x1 : BitVec 2) (x2 : BitVec 7) (s : State) : exec (.bunion x0 x1 x2) s = execBunion x0 x1 x2 s := rfl
theorem exec_bsah (x0 : BitVec 7) (x1 : BitVec 2) (x2 : BitVec 7) (s : State) : exec (.bsah x0 x1 x2) s = execBsah x0 x1 x2 s := rfl
theorem exec_npack (x0 : BitVec 7) (x1 : BitVec 2) (x2 : BitVec 7) (s : State) : exec (.npack x0 x1 x2) s = execNpack x0 x1 x2 s := rfl
theorem exec_mcode (x0 : BitVec 7) (x1 : BitVec 2) (x2 : BitVec 7) (s : State) : exec (.mcode x0 x1 x2) s = execMcode x0 x1 x2 s := rfl
theorem exec_thit (x0 : BitVec 2) (x1 : BitVec 3) (x2 : BitVec 7) (x3 : BitVec 2) (x4 : BitVec 7) (s : State) : exec (.thit x0 x1 x2 x3 x4) s = execThit x0 x1 x2 x3 x4 s := rfl
theorem exec_gemitPrim (x0 : BitVec 7) (x1 : BitVec 1) (x2 : BitVec 3) (s : State) : exec (.gemitPrim x0 x1 x2) s = execGemitPrim x0 x1 x2 s := rfl
theorem exec_gemitDraw (x0 : BitVec 7) (x1 : BitVec 3) (x2 : BitVec 1) (x3 : BitVec 3) (s : State) : exec (.gemitDraw x0 x1 x2 x3) s = execGemitDraw x0 x1 x2 x3 s := rfl
theorem exec_frag (x0 : BitVec 7) (x1 : BitVec 3) (x2 : BitVec 1) (s : State) : exec (.frag x0 x1 x2) s = execFrag x0 x1 x2 s := rfl
theorem exec_sysSrseed (x0 : BitVec 7) (s : State) : exec (.sysSrseed x0) s = execSysSrseed x0 s := rfl
theorem exec_sysSegset (x0 : BitVec 3) (x1 : BitVec 7) (s : State) : exec (.sysSegset x0 x1) s = execSysSegset x0 x1 s := rfl
theorem exec_sysTret (x0 : BitVec 1) (s : State) : exec (.sysTret x0) s = execSysTret x0 s := rfl
theorem exec_peerPortTrained (x0 : Nat) (x1 : Nat) (s : State) : exec (.peerPortTrained x0 x1) s = execPeerPortTrained x0 x1 s := rfl
theorem exec_governorBudgetChange (x0 : Nat) (x1 : BitVec 16) (s : State) : exec (.governorBudgetChange x0 x1) s = execGovernorBudgetChange x0 x1 s := rfl

end Sys2Proof.Machine
end

