-- ==== Sys2Proof/Laws/Table.lean ====
section
/-! SUPPORT. Laws of the sparse tables: reading after writing and removing, and the canonical form. -/
namespace Sys2Proof

theorem Tab.find_put {β : Type} (t : Tab β) (k j : Nat) (v : β) :
    Tab.find (Tab.put t k v) j = if j = k then some v else Tab.find t j := by
  induction t with
  | nil => by_cases h : k = j <;> simp [Tab.put, Tab.find, h, eq_comm]
  | cons e t ih =>
    obtain ⟨i, u⟩ := e
    simp only [Tab.put]
    split
    · by_cases h : k = j
      · simp [Tab.find, h]
      · simp [Tab.find, h, Ne.symm h]
    · split
      · subst i
        by_cases h : k = j
        · simp [Tab.find, h]
        · simp [Tab.find, h, Ne.symm h]
      · simp only [Tab.find, ih]
        by_cases h : j = k
        · subst j; simp [*]
        · simp [h]

@[simp] theorem Tab.find_put_same {β : Type} (t : Tab β) (k : Nat) (v : β) : Tab.find (Tab.put t k v) k = some v := by
  simp [Tab.find_put]

theorem Tab.find_put_ne {β : Type} (t : Tab β) {k j : Nat} (v : β) (h : j ≠ k) : Tab.find (Tab.put t k v) j = Tab.find t j := by
  simp [Tab.find_put, h]

theorem Tab.find_del {β : Type} (t : Tab β) (k j : Nat) :
    Tab.find (Tab.del t k) j = if j = k then none else Tab.find t j := by
  induction t with
  | nil => simp [Tab.del, Tab.find]
  | cons e t ih =>
    obtain ⟨i, u⟩ := e
    simp only [Tab.del]
    split
    · subst i
      rw [ih]
      by_cases h : j = k
      · simp [h]
      · simp [Tab.find, h, Ne.symm h]
    · simp only [Tab.find, ih]
      by_cases h : j = k
      · subst j; simp [*]
      · simp [h]

theorem Tab.fetch_store {β : Type} [DecidableEq β] (d : β) (t : Tab β) (k j : Nat) (v : β) :
    Tab.fetch d (Tab.store d t k v) j = if j = k then v else Tab.fetch d t j := by
  unfold Tab.fetch Tab.store
  split <;> rename_i hv
  · rw [Tab.find_del]; by_cases h : j = k <;> simp [h, hv]
  · rw [Tab.find_put]; by_cases h : j = k <;> simp [h]

@[simp] theorem Tab.fetch_store_same {β : Type} [DecidableEq β] (d : β) (t : Tab β) (k : Nat) (v : β) :
    Tab.fetch d (Tab.store d t k v) k = v := by simp [Tab.fetch_store]

theorem Tab.find_modify {β : Type} (t : Tab β) (k j : Nat) (f : β → β) :
    Tab.find (Tab.modify t k f) j = if j = k then (Tab.find t k).map f else Tab.find t j := by
  unfold Tab.modify
  cases h : Tab.find t k with
  | none => by_cases hj : j = k <;> simp [hj, h]
  | some v => rw [Tab.find_put]; by_cases hj : j = k <;> simp [hj]

@[simp] theorem Tab.find_modify_same {β : Type} (t : Tab β) (k : Nat) (f : β → β) :
    Tab.find (Tab.modify t k f) k = (Tab.find t k).map f := by simp [Tab.find_modify]

theorem Tab.find_modify_ne {β : Type} (t : Tab β) {k j : Nat} (f : β → β) (h : j ≠ k) :
    Tab.find (Tab.modify t k f) j = Tab.find t j := by simp [Tab.find_modify, h]

theorem Tab.find_map {β : Type} (t : Tab β) (k : Nat) (f : β → β) :
    Tab.find (t.map fun e => (e.1, f e.2)) k = (Tab.find t k).map f := by
  induction t with
  | nil => simp [Tab.find]
  | cons e t ih => simp only [List.map_cons, Tab.find, ih]; split <;> simp

/-- The same where the change depends on the key. -/
theorem Tab.find_mapKey {β : Type} (t : Tab β) (k : Nat) (f : Nat → β → β) :
    Tab.find (t.map fun e => (e.1, f e.1 e.2)) k = (Tab.find t k).map (f k) := by
  induction t with
  | nil => simp [Tab.find]
  | cons e t ih =>
    simp only [List.map_cons, Tab.find, ih]
    split
    · rename_i h; simp [h]
    · rfl

/-! ### The canonical form -/

/-- The canonical form in terms of the standard library: the keys rise strictly. -/
theorem Tab.rising_iff {β : Type} (t : Tab β) : Tab.rising t = true ↔ t.Pairwise fun a b => a.1 < b.1 := by
  induction t with
  | nil => simp [Tab.rising]
  | cons e t ih =>
    cases t with
    | nil => simp [Tab.rising]
    | cons e' t =>
      simp only [Tab.rising, Bool.and_eq_true, decide_eq_true_eq, ih, List.pairwise_cons, List.mem_cons, forall_eq_or_imp]
      constructor
      · rintro ⟨h, h', p⟩; exact ⟨⟨h, fun x hx => Nat.lt_trans h (h' x hx)⟩, h', p⟩
      · rintro ⟨⟨h, _⟩, p⟩; exact ⟨h, p⟩

theorem Tab.mem_put {β : Type} {t : Tab β} {k : Nat} {v : β} {e : Nat × β} (h : e ∈ Tab.put t k v) : e = (k, v) ∨ e ∈ t := by
  induction t with
  | nil => simpa [Tab.put] using h
  | cons x t ih =>
    simp only [Tab.put] at h
    split at h
    · simpa using h
    · split at h
      · rcases List.mem_cons.mp h with h | h
        · exact .inl h
        · exact .inr (List.mem_cons_of_mem _ h)
      · rcases List.mem_cons.mp h with h | h
        · exact .inr (h ▸ List.mem_cons_self ..)
        · exact (ih h).imp id (List.mem_cons_of_mem _)

theorem Tab.rising_put {β : Type} (t : Tab β) (k : Nat) (v : β) (h : Tab.rising t = true) : Tab.rising (Tab.put t k v) = true := by
  rw [Tab.rising_iff] at *
  induction t with
  | nil => simp [Tab.put]
  | cons e t ih =>
    rw [List.pairwise_cons] at h
    simp only [Tab.put]
    split
    · rename_i hk
      refine List.pairwise_cons.mpr ⟨?_, List.pairwise_cons.mpr h⟩
      intro x hx
      rcases List.mem_cons.mp hx with hx | hx
      · exact hx ▸ hk
      · exact Nat.lt_trans hk (h.1 x hx)
    · split
      · rename_i he; exact List.pairwise_cons.mpr ⟨he ▸ h.1, h.2⟩
      · rename_i h1 h2
        refine List.pairwise_cons.mpr ⟨fun x hx => ?_, ih h.2⟩
        rcases Tab.mem_put hx with hx | hx
        · subst hx; simp only at *; omega
        · exact h.1 x hx

theorem Tab.del_sublist {β : Type} (t : Tab β) (k : Nat) : (Tab.del t k).Sublist t := by
  induction t with
  | nil => simp [Tab.del]
  | cons e t ih =>
    simp only [Tab.del]
    split
    · exact ih.trans (List.sublist_cons_self ..)
    · exact ih.cons_cons _

/-- A write of a table with a default keeps its canonical form. -/
theorem Tab.wf_store {β : Type} [DecidableEq β] (d : β) (t : Tab β) (k : Nat) (v : β) (h : Tab.wf d t = true) :
    Tab.wf d (Tab.store d t k v) = true := by
  simp only [Tab.wf, Bool.and_eq_true, List.all_eq_true, decide_eq_true_eq] at *
  unfold Tab.store
  split
  · refine ⟨?_, fun x hx => h.2 x ((Tab.del_sublist t k).subset hx)⟩
    rw [Tab.rising_iff] at *
    exact h.1.sublist (Tab.del_sublist t k)
  · refine ⟨Tab.rising_put t k v h.1, fun x hx => ?_⟩
    rcases Tab.mem_put hx with hx | hx
    · subst hx; assumption
    · exact h.2 x hx

namespace Machine

/-- Read after write (R8). -/
theorem Memory.read_write (m : List Host.Cell) (a b : Nat) (v : BitVec 8) :
    Memory.read (Memory.write m a v) b = if b = a then v else Memory.read m b := Tab.fetch_store 0 m a b v

/-- A write keeps the canonical form. -/
theorem Memory.wf_write (m : List Host.Cell) (a : Nat) (v : BitVec 8) (h : Memory.wf m = true) :
    Memory.wf (Memory.write m a v) = true := Tab.wf_store 0 m a v h

/-- Little-endian bytes, and back. -/
theorem leNat_leBytes (n v : Nat) : leNat (leBytes n v) = v % 256 ^ n := by
  induction n generalizing v with
  | zero => simp [leNat, leBytes, Nat.mod_one]
  | succ n ih =>
    have h : v % 256 ^ (n + 1) = v % 256 + 256 * (v / 256 % 256 ^ n) := by
      rw [Nat.pow_succ, Nat.mul_comm (256 ^ n), Nat.mod_mul]
    simp [leBytes, leNat, ih, h]

@[simp] theorem leBytes_length (n v : Nat) : (leBytes n v).length = n := by
  induction n generalizing v with
  | zero => rfl
  | succ n ih => simp [leBytes, ih]

end Machine
end Sys2Proof
end

