-- ==== Sys2Proof/Laws/Words.lean ====
section
/-! SUPPORT. What the shared operations of a word do: changing one group, the ends of a word, and the runners. -/
namespace Sys2Proof.Machine

/-! ### Changing one group -/

theorem find_updG (s : State) (key k : Nat) (f : Group → Group) :
    Tab.find (updG s key f).groups k = if k = key then (Tab.find s.groups key).map f else Tab.find s.groups k :=
  Tab.find_modify _ _ _ _

@[simp] theorem find_updG_same (s : State) (key : Nat) (f : Group → Group) :
    Tab.find (updG s key f).groups key = (Tab.find s.groups key).map f := by simp [find_updG]

/-- Nothing outside the table of groups changes. -/
theorem updG_rest (s : State) (key : Nat) (f : Group → Group) : updG s key f = { s with groups := (updG s key f).groups } := rfl

/-- Bytes at their homes do not depend on the groups beyond their message buffers, nor on the scheduling fields. -/
theorem homeByte_groups (s t : State)
    (h : t = { s with groups := t.groups, xfaults := t.xfaults, issue := t.issue, fresh := t.fresh, agenda := t.agenda, nextId := t.nextId })
    (hm : ∀ k, (Tab.find t.groups k).map (·.mb) = (Tab.find s.groups k).map (·.mb)) (l : Loc) :
    homeByte t l = homeByte s l := by
  obtain ⟨sp, a⟩ := l
  cases sp with
  | mb key =>
    clear h
    have := hm key
    simp only [homeByte]
    cases h1 : Tab.find t.groups key <;> cases h2 : Tab.find s.groups key <;> simp_all
  | log => rw [h]; rfl
  | host => rw [h]; rfl
  | peer d r => rw [h]; rfl
  | core c => rw [h]; rfl
  | surf n v => rw [h]; rfl
  | frame t => rw [h]; rfl

/-! ### The issuing split -/

theorem Issues.group {s : State} {c : WCtx} (h : Issues s c) :
    ∃ g sp, Tab.find s.groups c.key = some g ∧ c.g = seen s.fresh g ∧ Tab.find g.splits c.si = some sp
      ∧ c.sp = { sp with stall := false } ∧ c.eff = c.sp.mask &&& sp.lanesOf g ∧ s.issue = some ⟨c.key, c.si⟩ := by
  unfold Issues issueCtx at h
  split at h; · cases h
  rename_i sel hs
  split at h; · cases h
  rename_i g hg
  split at h; · cases h
  rename_i sp hsp
  cases h
  exact ⟨g, sp, hg, rfl, hsp, rfl, rfl, hs⟩

/-! ### The runners: what they answer, by what the body answers -/

theorem runWord_eq {s : State} {c : WCtx} (h : Issues s c) (body : WCtx → State → Try State) :
    runWord s body = .next (if c.eff = 0 then finish s c else settle s c (fun s' => finish s' c) (body c s)) := by
  unfold runWord; rw [show issueCtx s = some c from h]

theorem runWord_ok {s s' : State} {c : WCtx} (h : Issues s c) (he : c.eff ≠ 0) (body : WCtx → State → Try State)
    (hb : body c s = .ok s') : runWord s body = .next (finish s' c) := by
  rw [runWord_eq h, if_neg he, hb]; rfl

theorem runWord_idle {s : State} {c : WCtx} (h : Issues s c) (he : c.eff = 0) (body : WCtx → State → Try State) :
    runWord s body = .next (finish s c) := by
  rw [runWord_eq h, if_pos he]

theorem runWord_trap {s : State} {c : WCtx} {t : Trap} (h : Issues s c) (he : c.eff ≠ 0) (body : WCtx → State → Try State)
    (hb : body c s = .error (.trap t)) : runWord s body = .next (takeFault s c.key c.si t c.sp.pc false) := by
  rw [runWord_eq h, if_neg he, hb]; rfl

theorem runSel_eq {s : State} {c : WCtx} (h : Issues s c) (body : WCtx → State → Try State) :
    runSel s body = .next (settle s { c with eff := c.sp.mask } (fun s' => finish s' c) (body { c with eff := c.sp.mask } s)) := by
  unfold runSel; rw [show issueCtx s = some c from h]

theorem runCtl_eq {s : State} {c : WCtx} (h : Issues s c) (body : WCtx → State → Try State) :
    runCtl s body = .next (settle s c (fun s' => retire s' c) (body c s)) := by
  unfold runCtl; rw [show issueCtx s = some c from h]

/-! ### A word that completes -/

theorem nextWord_on (c : WCtx) (x : Split) (h : ∀ b ∈ x.back.head?, b.1 ≠ c.sp.pc) :
    nextWord c x = { x with pc := c.sp.pc + 1, clause := clauseAt c.sp.clause (c.sp.pc + 1), stall := false } := by
  unfold nextWord
  split
  · rename_i w pc k ls ws hb
    have hw : w ≠ c.sp.pc := h (w, pc, k, ls) (by rw [hb]; rfl)
    rw [if_neg hw]
  · rfl

theorem nextWord_again (c : WCtx) (x : Split) {pc : Nat} {k : Option Clause} {ls : BitVec 64}
    {ws : List (Nat × Nat × Option Clause × BitVec 64)} (h : x.back = (c.sp.pc, pc, k, ls) :: ws) : nextWord c x = { x with pc := pc, clause := k, stall := false, back := ws } := by
  unfold nextWord; rw [h]; simp

/-- A split of the group of a word that retires: the issuing one goes on, the others may try again. -/
def woken (c : WCtx) (k : Nat) (x : Split) : Split := { x with stall := k != c.si && x.stall && x.clause.isNone }

theorem woken_self (c : WCtx) (x : Split) : woken c c.si x = { x with stall := false } := by simp [woken]
theorem woken_other {c : WCtx} {k : Nat} (h : k ≠ c.si) (x : Split) : woken c k x = x.awake := by
  have : (k != c.si) = true := by simp [h]
  simp [woken, Split.awake, this]

/-- The split tables of a word that completes. -/
theorem nextWord_splits {c : WCtx} {g g' : Group}
    (hs : g'.splits = Tab.modify (g.splits.map fun e => (e.1, woken c e.1 e.2)) c.si (nextWord c)) : NextWord c g g' := by
  refine ⟨fun sp h hb => ?_, fun sp pc k ls ws h hb => ?_, fun k hk => ?_⟩
  · rw [hs, Tab.find_modify_same, Tab.find_mapKey, h, Option.map_some, Option.map_some, woken_self]
    exact congrArg some (nextWord_on c { sp with stall := false } hb)
  · rw [hs, Tab.find_modify_same, Tab.find_mapKey, h, Option.map_some, Option.map_some, woken_self]
    exact congrArg some (nextWord_again c { sp with stall := false } hb)
  · rw [hs, Tab.find_modify_ne _ _ hk, Tab.find_mapKey]
    exact congrArg (Option.map · _) (funext (woken_other hk))

/-- What `finish` leaves of the machine. -/
theorem finish_rest (s : State) (c : WCtx) :
    finish s c = { s with groups := (finish s c).groups, xfaults := (finish s c).xfaults, issue := none, fresh := s.fresh + 1 } := rfl

theorem find_finish_ne (s : State) (c : WCtx) {k : Nat} (h : k ≠ c.key) :
    Tab.find (finish s c).groups k = Tab.find s.groups k := by
  simp [finish, advance, retire, setSplit, find_updG, h, clearXfaults]

theorem find_finish (s : State) (c : WCtx) :
    Tab.find (finish s c).groups c.key = (Tab.find s.groups c.key).map fun g =>
      { g with susp := none, want := none, lastIssue := s.time,
               splits := Tab.modify (g.splits.map fun e => (e.1, woken c e.1 e.2)) c.si (nextWord c) } := by
  simp only [finish, advance, retire, setSplit, find_updG_same, Option.map_map, clearXfaults]
  rfl

/-- A word whose body changes only its group by `f`, which leaves split table and message buffer alone. -/
theorem completes_updG {s : State} {c : WCtx} (h : Issues s c) (f : Group → Group) (ag : List Instr) (ids : Nat)
    (hs : ∀ g, (f g).splits = g.splits) (hm : ∀ g, (f g).mb = g.mb) :
    Completes (.next (finish { updG s c.key f with agenda := s.agenda ++ ag, nextId := s.nextId + ids } c)) s c ag ids fun g g' =>
      g' = { f g with splits := g'.splits, susp := none, want := none, lastIssue := s.time } := by
  obtain ⟨g, _, hg, -⟩ := h.group
  refine ⟨_, rfl, ⟨rfl, ?_, ?_⟩, ?_⟩
  · intro k hk
    rw [find_finish_ne _ _ hk]; exact Tab.find_modify_ne _ _ hk
  · intro l
    refine homeByte_groups s _ rfl (fun k => ?_) l
    by_cases hk : k = c.key
    · subst hk
      rw [find_finish]; simp [updG, hg, hm]
    · rw [find_finish_ne _ _ hk]; congr 1; exact Tab.find_modify_ne _ _ hk
  · intro g0 hg0
    rw [hg] at hg0; cases hg0
    exact ⟨_, by rw [find_finish]; simp [updG, hg]; rfl, nextWord_splits (by simp only [hs]), rfl⟩

theorem Completes.mono {o : Out} {s : State} {c : WCtx} {ag : List Instr} {ids : Nat} {R R' : Group → Group → Prop}
    (h : Completes o s c ag ids R) (hr : ∀ g g', Tab.find s.groups c.key = some g → R g g' → R' g g') : Completes o s c ag ids R' := by
  obtain ⟨t, ho, hf, hg⟩ := h
  refine ⟨t, ho, hf, fun g hg0 => ?_⟩
  obtain ⟨g', h1, h2, h3⟩ := hg g hg0
  exact ⟨g', h1, h2, hr _ _ hg0 h3⟩

/-! ### Buffered operations and issue slots -/

/-- What a word's operations can do: they take effect or wait in the region buffer, or a harvest group faults (R420). -/
theorem bufferOps_ok {s t : State} {c : WCtx} {rw seg : Nat} {os : List BufOp} :
    bufferOps s c rw seg os = .ok t ↔ overfills s c os = false ∧ t = doOps s c os := by
  unfold bufferOps
  cases h : overfills s c os <;> simp [eq_comm]

/-- A group that holds no lent scratchpad is never stopped by the limits of its buffer. -/
theorem overfills_of_not_lent {s : State} {c : WCtx} {os : List BufOp} (h : holdsLent s c.g = false) : overfills s c os = false := by
  simp [overfills, h]

theorem doOps_nil (s : State) (c : WCtx) : doOps s c [] = s := rfl
theorem doOps_single (s : State) (c : WCtx) (o : BufOp) : doOps s c [o] = doOrBuffer s c.key o := rfl

/-- A slot with no group passes nobody over. -/
theorem passOver_of_empty {s : State} {core slot : Nat} {k : Option Nat} (h : slotGroups s core slot = []) : passOver s core slot k = s := by
  simp [passOver, h]

/-- A slot's only group, chosen, is not passed over. -/
theorem passOver_of_single {s : State} {core slot key : Nat} {g : Group} (h : slotGroups s core slot = [(key, g)]) :
    passOver s core slot (some key) = s := by
  simp [passOver, h]

end Sys2Proof.Machine
end

