-- ==== Sys2Proof/Laws/Writes.lean ====
section
/-! SUPPORT. What a word that writes registers leaves of its group: scalars, predicates, rows and results in flight. -/
namespace Sys2Proof.Machine
set_option Elab.async false

/-! ### Scalars -/

theorem Group.s_setS (g : Group) (i j : Nat) (v : BitVec 64) : (g.setS i v).s j = if j = i then v else g.s j :=
  Tab.fetch_store 0 g.sregs i j v

/-- A word whose body changes its group by `f` and nothing else. -/
theorem completes_group {s : State} {c : WCtx} (h : Issues s c) (f : Group → Group)
    (hs : ∀ g, (f g).splits = g.splits) (hm : ∀ g, (f g).mb = g.mb) :
    Completes (.next (finish (updG s c.key f) c)) s c [] 0 fun g g' =>
      g' = { f g with splits := g'.splits, susp := none, want := none, lastIssue := s.time } := by
  have := completes_updG h f [] 0 hs hm
  rw [List.append_nil] at this
  exact this

/-- A word whose body writes one scalar register. -/
theorem completes_writeS {s : State} {c : WCtx} (h : Issues s c) (d v : Nat) :
    Completes (.next (finish (writeS s c d v) c)) s c [] 0 (WritesScalar s d (BitVec.ofNat 64 v)) := by
  refine (completes_group h (fun g => g.setS d (BitVec.ofNat 64 v)) (fun _ => rfl) fun _ => rfl).mono fun g g' _ e => ⟨?_, fun i => ?_⟩
  · rw [e]; rfl
  · rw [e]; exact Group.s_setS g d i _

/-- A word that does nothing. -/
theorem completes_kept {s : State} {c : WCtx} (h : Issues s c) : Completes (.next (finish s c)) s c [] 0 (Kept s) := by
  obtain ⟨g, _, hg, -⟩ := h.group
  refine ⟨_, rfl, ⟨by rw [List.append_nil]; rfl, fun k hk => find_finish_ne s c hk, fun l => ?_⟩, fun g hg => ?_⟩
  · refine homeByte_groups s _ rfl (fun k => ?_) l
    by_cases hk : k = c.key
    · subst hk; rw [find_finish]; simp [hg]
    · rw [find_finish_ne _ _ hk]
  · exact ⟨_, by rw [find_finish, hg, Option.map_some], nextWord_splits rfl, by unfold Kept; rfl⟩

/-! ### What results in flight leave of a group -/

theorem foldl_setS_rest (svs : List (Nat × BitVec 64)) (p : Nat × BitVec 64 → Bool) (g : Group) :
    ∃ r, svs.foldl (fun g sv => if p sv then g.setS sv.1 sv.2 else g) g = { g with sregs := r } := by
  induction svs generalizing g with
  | nil => exact ⟨g.sregs, rfl⟩
  | cons x l ih =>
    simp only [List.foldl_cons]
    split
    · obtain ⟨r, h⟩ := ih (g.setS x.1 x.2)
      exact ⟨r, h⟩
    · exact ih g

theorem overlay_rest (n : Nat) (g : Group) (p : Pending) :
    ∃ a b r, overlay n g p = { g with regs := a, tags := b, sregs := r } := by
  unfold overlay
  split
  · exact ⟨g.regs, g.tags, g.sregs, rfl⟩
  · simp only
    obtain ⟨r, h⟩ := foldl_setS_rest p.svals (fun sv => Config.pendNew (n * 2 ^ 20 + 2 ^ 19 + sv.1)) _
    exact ⟨_, _, r, h⟩

/-- A word sees its group with other contents of rows, tags and scalars at most (R58). -/
theorem seen_rest (n : Nat) (g : Group) : ∃ a b r, seen n g = { g with regs := a, tags := b, sregs := r } := by
  have key : ∀ (ps : List Pending) (g : Group), ∃ a b r, ps.foldl (overlay n) g = { g with regs := a, tags := b, sregs := r } := by
    intro ps
    induction ps with
    | nil => exact fun g => ⟨g.regs, g.tags, g.sregs, rfl⟩
    | cons p ps ih =>
      intro g
      obtain ⟨a, b, r, h⟩ := overlay_rest n g p
      obtain ⟨a', b', r', h'⟩ := ih (overlay n g p)
      exact ⟨a', b', r', by rw [List.foldl_cons, h', h]⟩
  exact key g.pending g

/-- The fields of the seen group that results in flight cannot touch. -/
theorem seen_same (n : Nat) (g : Group) : { seen n g with regs := g.regs, tags := g.tags, sregs := g.sregs } = g := by
  obtain ⟨a, b, r, h⟩ := seen_rest n g
  rw [h]

/-! ### Predicates -/

theorem lanesOf_lt {w : Nat} {m : BitVec 64} {l : Nat} (h : l ∈ lanesOf w m) : l < w := List.mem_range.1 (List.mem_filter.1 h).1
theorem mem_lanesOf {w : Nat} {m : BitVec 64} {l : Nat} : l ∈ lanesOf w m ↔ l < w ∧ m.getLsbD l = true := by
  simp [lanesOf]
theorem lanesOf_lt64 {w : Nat} {m : BitVec 64} {l : Nat} (h : l ∈ lanesOf w m) : l < 64 :=
  BitVec.lt_of_getLsbD (mem_lanesOf.1 h).2

/-- The bits of a sum of distinct powers of two below a bound. -/
theorem testBit_sumBits (f : Nat → Bool) (n k : Nat) :
    (((List.range n).foldl (fun a l => if f l then a + 2 ^ l else a) 0).testBit k = (decide (k < n) && f k))
      ∧ (List.range n).foldl (fun a l => if f l then a + 2 ^ l else a) 0 < 2 ^ n := by
  induction n generalizing k with
  | zero => simp
  | succ n ih =>
    rw [List.range_succ, List.foldl_append]
    simp only [List.foldl_cons, List.foldl_nil]
    generalize hx : List.foldl (fun a l => if f l then a + 2 ^ l else a) 0 (List.range n) = x at ih
    have hlt : x < 2 ^ n := (ih 0).2
    by_cases hf : f n = true
    · simp only [hf, if_true]
      refine ⟨?_, by rw [Nat.pow_succ]; omega⟩
      rw [Nat.add_comm]
      by_cases hk : k = n
      · subst hk
        rw [Nat.testBit_two_pow_add_eq, Nat.testBit_lt_two_pow hlt]
        simp [hf]
      · by_cases hk' : k < n
        · rw [Nat.testBit_two_pow_add_gt hk', (ih k).1]
          simp [hk', Nat.lt_succ_of_lt hk']
        · have : ¬ k < n + 1 := by omega
          rw [Nat.testBit_lt_two_pow (lt_of_lt_of_le (by rw [Nat.pow_succ]; omega : 2 ^ n + x < 2 ^ (n + 1)) (Nat.pow_le_pow_right (by decide) (by omega)))]
          simp [this]
    · simp only [hf, Bool.false_eq_true, if_false]
      refine ⟨?_, by rw [Nat.pow_succ]; omega⟩
      rw [(ih k).1]
      by_cases hk : k = n
      · subst hk; simp [hf]
      · have : k < n + 1 ↔ k < n := by omega
        simp [this]

theorem foldl_filter_if (p f : Nat → Bool) (xs : List Nat) (a : Nat) :
    (xs.filter p).foldl (fun a l => if f l then a + 2 ^ l else a) a = xs.foldl (fun a l => if p l && f l then a + 2 ^ l else a) a := by
  induction xs generalizing a with
  | nil => rfl
  | cons x xs ih =>
    simp only [List.filter_cons, List.foldl_cons]
    cases hp : p x
    · simp [ih]
    · simp [ih]

/-- A lane mask made from a test. -/
theorem getLsbD_laneMask (c : WCtx) (f : Nat → Bool) (l : Nat) : (laneMask c f).getLsbD l = (decide (l ∈ c.lanes) && f l) := by
  unfold laneMask WCtx.lanes lanesOf
  rw [foldl_filter_if, BitVec.getLsbD_ofNat, (testBit_sumBits (fun l => c.eff.getLsbD l && f l) c.g.width l).1]
  by_cases h64 : l < 64
  · by_cases hw : l < c.g.width <;> cases he : c.eff.getLsbD l <;> simp [-BitVec.getLsbD_eq_getElem, h64, hw, he]
  · have : c.eff.getLsbD l = false := BitVec.getLsbD_of_ge _ _ (by omega)
    simp [h64, this]

/-- Predicates after some lanes of one have been written. -/
theorem Group.pred_mixPred (g : Group) (p q : Nat) (m v : BitVec 64) (hp : p < 8) (hq : q < 8) :
    (g.mixPred p m v).pred q = if q = p ∧ p ≠ 7 then (g.pred p &&& ~~~m) ||| (v &&& m) else g.pred q := by
  unfold Group.mixPred Group.setPred
  rw [Nat.mod_eq_of_lt hp]
  by_cases h7 : p = 7
  · simp [h7]
  · simp only [h7, if_false, ne_eq, not_false_eq_true, and_true]
    by_cases hqp : q = p
    · subst hqp
      simp [Group.pred, Nat.mod_eq_of_lt hq, h7]
    · simp only [hqp, if_false]
      unfold Group.pred
      split
      · rfl
      · simp only [Nat.mod_eq_of_lt hq]
        rw [Tab.fetch_store]
        simp [hqp]

theorem predIs_mixPred (c : WCtx) (p : Nat) (f : Nat → Bool) (v : BitVec 64) (g : Group) (hp : p < 8)
    (hw : c.g.width = g.width) (hv : ∀ l ∈ c.lanes, v.getLsbD l = f l) : PredIs c p f g (g.mixPred p c.eff v) := by
  intro q l hq hl
  rw [Group.pred_mixPred _ _ _ _ _ hp hq]
  have hmem : l ∈ c.lanes ↔ c.eff.getLsbD l = true := by simp [WCtx.lanes, mem_lanesOf, hw, hl]
  by_cases hc : q = p ∧ p ≠ 7
  · obtain ⟨hqp, h7⟩ := hc
    subst hqp
    simp only [true_and, ne_eq, h7, not_false_eq_true, if_true, true_and]
    by_cases hm : l ∈ c.lanes
    · have he := hmem.1 hm
      simp [hm, he, hv l hm]
    · have he : c.eff.getLsbD l = false := by
        cases h : c.eff.getLsbD l
        · rfl
        · exact absurd (hmem.2 h) hm
      by_cases h64 : l < 64
      · simp [-BitVec.getLsbD_eq_getElem, hm, he, h64]
      · simp [hm, BitVec.getLsbD_of_ge _ _ (show 64 ≤ l by omega)]
  · have : ¬ (q = p ∧ p ≠ 7 ∧ l ∈ c.lanes) := fun h => hc ⟨h.1, h.2.1⟩
    simp [hc, this]

theorem Issues.width {s : State} {c : WCtx} (h : Issues s c) {g : Group} (hg : Tab.find s.groups c.key = some g) : c.g.width = g.width := by
  obtain ⟨g', _, hg', e, -⟩ := h.group
  rw [hg] at hg'; cases hg'
  obtain ⟨a, b, r, hr⟩ := seen_rest s.fresh g
  rw [e, hr]

/-- A word that writes lanes of one predicate. -/
theorem completes_mixPred {s : State} {c : WCtx} (h : Issues s c) (p : Nat) (hp : p < 8) (f : Nat → Bool) (v : BitVec 64)
    (hv : ∀ l ∈ c.lanes, v.getLsbD l = f l) :
    Completes (.next (finish (updG s c.key fun g => g.mixPred p c.eff v) c)) s c [] 0 (WritesPred s c p f) := by
  have hr : ∀ g : Group, ∃ q, g.mixPred p c.eff v = { g with preds := q } := by
    intro g
    unfold Group.mixPred Group.setPred
    split
    · exact ⟨g.preds, rfl⟩
    · exact ⟨_, rfl⟩
  refine (completes_group h (fun g => g.mixPred p c.eff v) (fun g => ?_) fun g => ?_).mono fun g g' hg e => ⟨?_, ?_⟩
  · obtain ⟨q, e⟩ := hr g; rw [e]
  · obtain ⟨q, e⟩ := hr g; rw [e]
  · obtain ⟨q, e'⟩ := hr g
    rw [e, e']
  · have := predIs_mixPred c p f v g hp (h.width hg) hv
    intro q l hq hl
    rw [← this q l hq hl, e]
    rfl
theorem completes_writePred {s : State} {c : WCtx} (h : Issues s c) (p : BitVec 3) (f : Nat → Bool) :
    Completes (.next (finish (writePred s c p.toNat f) c)) s c [] 0 (WritesPred s c p.toNat f) :=
  completes_mixPred h p.toNat p.isLt f _ fun l hl => by rw [getLsbD_laneMask]; simp [hl]

/-! ### Rows -/

theorem fetch_foldl_store {β : Type} [DecidableEq β] (d : β) (es : List (Nat × β)) (t : Tab β) (k : Nat) (v : β)
    (h : ∀ e ∈ es, e.1 = k → e.2 = v) :
    Tab.fetch d (es.foldl (fun a e => Tab.store d a e.1 e.2) t) k = if ∃ e ∈ es, e.1 = k then v else Tab.fetch d t k := by
  induction es generalizing t with
  | nil => simp
  | cons e es ih =>
    rw [List.foldl_cons, ih _ fun x hx => h x (List.mem_cons_of_mem _ hx), Tab.fetch_store]
    by_cases hx : ∃ x ∈ es, x.1 = k
    · simp [hx]
    · by_cases hk : k = e.1
      · have hm : ∃ x ∈ e :: es, x.1 = k := ⟨e, List.mem_cons_self .., hk.symm⟩
        rw [if_neg hx, if_pos hk, if_pos hm]
        exact h e (List.mem_cons_self ..) hk.symm
      · have hm : ¬ ∃ x ∈ e :: es, x.1 = k := by
          rintro ⟨x, hx', e'⟩
          rcases List.mem_cons.1 hx' with rfl | hx'
          · exact hk e'.symm
          · exact hx ⟨x, hx', e'⟩
        rw [if_neg hx, if_neg hk, if_neg hm]

theorem elemKey_inj {g : Group} {r r' l l' : Nat} (h : l < g.width) (h' : l' < g.width) (e : g.elemKey r l = g.elemKey r' l') :
    r = r' ∧ l = l' := by
  unfold Group.elemKey at e
  have hw : 0 < g.width := by omega
  have h1 : (r * g.width + l) / g.width = r := by
    rw [Nat.mul_comm, Nat.mul_add_div hw, Nat.div_eq_of_lt h, Nat.add_zero]
  have h2 : (r' * g.width + l') / g.width = r' := by
    rw [Nat.mul_comm, Nat.mul_add_div hw, Nat.div_eq_of_lt h', Nat.add_zero]
  have : r = r' := by rw [← h1, ← h2, e]
  subst this
  exact ⟨rfl, by omega⟩

/-- The elements of a group after lanes of a register have been written: `vs` gives a lane one value at most. -/
theorem elem_putReg (g : Group) (wide : Bool) (i : Nat) (ls : List Nat) (f : Nat → Nat) (tag row lane : Nat)
    (hl : lane < g.width) (hls : ∀ l ∈ ls, l < g.width) :
    (g.putReg wide i (ls.map fun l => (l, f l)) tag).elem row lane =
      if lane ∈ ls ∧ row ∈ g.regRows wide i then BitVec.ofNat 32 (if wide ∧ row = g.rowNo 1 i 1 then f lane / 2 ^ 32 else f lane)
      else g.elem row lane := by
  have hk : (g.putReg wide i (ls.map fun l => (l, f l)) tag).elem row lane
      = Tab.fetch 0 ((g.laneElems wide i (ls.map fun l => (l, f l))).foldl (fun a e => Tab.store 0 a e.1 e.2) g.regs) (g.elemKey row lane) := rfl
  have hne : g.rowNo 1 i 0 ≠ g.rowNo 1 i 1 := by simp [Group.rowNo]
  rw [hk, fetch_foldl_store 0 _ _ _ (BitVec.ofNat 32 (if wide ∧ row = g.rowNo 1 i 1 then f lane / 2 ^ 32 else f lane))]
  · have : (∃ e ∈ g.laneElems wide i (ls.map fun l => (l, f l)), e.1 = g.elemKey row lane) ↔ lane ∈ ls ∧ row ∈ g.regRows wide i := by
      constructor
      · rintro ⟨e, he, hek⟩
        simp only [Group.laneElems, List.mem_flatMap, List.mem_map] at he
        obtain ⟨x, ⟨l, hl', rfl⟩, hx⟩ := he
        cases wide
        · simp only [Bool.false_eq_true, if_false, List.mem_cons, List.not_mem_nil, or_false] at hx
          subst hx
          obtain ⟨rfl, rfl⟩ := elemKey_inj (hls l hl') hl hek
          exact ⟨hl', by simp [Group.regRows]⟩
        · simp only [if_true, List.mem_cons, List.not_mem_nil, or_false] at hx
          rcases hx with rfl | rfl <;>
          · obtain ⟨rfl, rfl⟩ := elemKey_inj (hls l hl') hl hek
            exact ⟨hl', by simp [Group.regRows]⟩
      · rintro ⟨hl', hr⟩
        cases wide
        · simp only [Group.regRows, Bool.false_eq_true, if_false, List.mem_cons, List.not_mem_nil, or_false] at hr
          subst hr
          exact ⟨_, by simp only [Group.laneElems, List.mem_flatMap, List.mem_map]; exact ⟨_, ⟨lane, hl', rfl⟩, by simp; rfl⟩, rfl⟩
        · simp only [Group.regRows, if_true, List.mem_cons, List.not_mem_nil, or_false] at hr
          rcases hr with rfl | rfl
          · exact ⟨(g.elemKey (g.rowNo 1 i 0) lane, BitVec.ofNat 32 (f lane)), by
              simp only [Group.laneElems, List.mem_flatMap, List.mem_map]; exact ⟨_, ⟨lane, hl', rfl⟩, by simp⟩, rfl⟩
          · exact ⟨(g.elemKey (g.rowNo 1 i 1) lane, BitVec.ofNat 32 (f lane / 2 ^ 32)), by
              simp only [Group.laneElems, List.mem_flatMap, List.mem_map]; exact ⟨_, ⟨lane, hl', rfl⟩, by simp⟩, rfl⟩
    simp only [this]
    rfl
  · intro e he hek
    simp only [Group.laneElems, List.mem_flatMap, List.mem_map] at he
    obtain ⟨x, ⟨l, hl', rfl⟩, hx⟩ := he
    cases wide
    · simp only [Bool.false_eq_true, if_false, List.mem_cons, List.not_mem_nil, or_false] at hx
      subst hx
      obtain ⟨rfl, rfl⟩ := elemKey_inj (hls l hl') hl hek
      simp
    · simp only [if_true, List.mem_cons, List.not_mem_nil, or_false] at hx
      rcases hx with rfl | rfl
      · obtain ⟨rfl, rfl⟩ := elemKey_inj (hls l hl') hl hek
        simp [hne]
      · obtain ⟨rfl, rfl⟩ := elemKey_inj (hls l hl') hl hek
        simp

theorem rowTag_foldl (rows : List Nat) (t : Tab (BitVec 5)) (v : BitVec 5) (row : Nat) :
    Tab.fetch 0 (rows.foldl (fun a r => Tab.store 0 a r v) t) row = if row ∈ rows then v else Tab.fetch 0 t row := by
  induction rows generalizing t with
  | nil => simp
  | cons r rows ih =>
    rw [List.foldl_cons, ih, Tab.fetch_store]
    by_cases h : row ∈ rows
    · simp [h]
    · by_cases h' : row = r <;> simp [h, h']

theorem rowTag_putReg (g : Group) (wide : Bool) (i : Nat) (vs : List (Nat × Nat)) (tag row : Nat) :
    (g.putReg wide i vs tag).rowTag row = if row ∈ g.regRows wide i then BitVec.ofNat 5 tag else g.rowTag row :=
  rowTag_foldl _ _ _ _

/-- The value of a lane after the write of its register. -/
theorem val_putReg (g : Group) (wide : Bool) (i : Nat) (ls : List Nat) (f : Nat → Nat) (tag lane : Nat)
    (hl : lane ∈ ls) (hls : ∀ l ∈ ls, l < g.width) :
    (g.putReg wide i (ls.map fun l => (l, f l)) tag).val wide i lane = f lane % 2 ^ (if wide then 64 else 32) := by
  have hn : ∀ v j, (g.putReg wide i (ls.map fun l => (l, f l)) tag).rowNo v i j = g.rowNo v i j := fun _ _ => rfl
  have hne : g.rowNo 1 i 0 ≠ g.rowNo 1 i 1 := by simp [Group.rowNo]
  unfold Group.val
  cases wide
  · simp only [Bool.false_eq_true, if_false, hn, elem_putReg g false i ls f tag _ _ (hls lane hl) hls]
    simp [hl, Group.regRows]
  · simp only [if_true, hn, elem_putReg g true i ls f tag _ _ (hls lane hl) hls]
    simp only [hl, Group.regRows, if_true, List.mem_cons, true_or, or_true, true_and, and_self, hne, if_false, BitVec.toNat_ofNat]
    have : f lane % 2 ^ 64 = f lane % 2 ^ 32 + 2 ^ 32 * (f lane / 2 ^ 32 % 2 ^ 32) := by
      rw [show (2 : Nat) ^ 64 = 2 ^ 32 * 2 ^ 32 by decide, Nat.mod_mul]
    exact this.symm

/-- What `RowsOnly` and `WritesRow` say of a written register. -/
theorem writesRow_putReg {s : State} {c : WCtx} (g g' : Group) (hw : c.g.width = g.width) (wide : Bool) (d : Nat) (f : Nat → Nat)
    (tag : Nat) (srg : BitVec 32) (P : Nat → Nat → Prop) (hP : ∀ l ∈ c.lanes, P l (f l % 2 ^ (if wide then 64 else 32)))
    (e : g' = { g.putReg wide d (c.lanes.map fun l => (l, f l)) tag with srg, splits := g'.splits, susp := none, want := none,
                                                                         lastIssue := s.time }) :
    WritesRow s c wide d P tag srg g g' := by
  have hls : ∀ l ∈ c.lanes, l < g.width := fun l hl => hw ▸ lanesOf_lt hl
  have helem : ∀ row lane, g'.elem row lane = (g.putReg wide d (c.lanes.map fun l => (l, f l)) tag).elem row lane := by
    intro row lane; rw [e]; rfl
  have hval : ∀ l, g'.val wide d l = (g.putReg wide d (c.lanes.map fun l => (l, f l)) tag).val wide d l := by
    intro l; rw [e]; rfl
  refine ⟨⟨by rw [e]; rfl, fun row lane hl h => ?_, fun row => ?_⟩, fun l hl => ?_⟩
  · rw [helem, elem_putReg g wide d _ f tag row lane hl hls, if_neg]
    rintro ⟨h1, h2⟩
    rcases h with h | h
    · exact h h2
    · exact h h1
  · rw [← rowTag_putReg g wide d (c.lanes.map fun l => (l, f l)) tag row, e]; rfl
  · rw [hval, val_putReg g wide d _ f tag l hl hls]; exact hP l hl

/-- A word that writes the active lanes of one register. -/
theorem completes_writeVec {s : State} {c : WCtx} (h : Issues s c) (wide : Bool) (d : Nat) (f : Nat → Nat) (tag : Nat)
    (P : Nat → Nat → Prop) (hP : ∀ l ∈ c.lanes, P l (f l % 2 ^ (if wide then 64 else 32))) :
    Completes (.next (finish (writeVec s c wide d f tag) c)) s c [] 0 (WritesRow s c wide d P tag c.g.srg) := by
  obtain ⟨g0, _, hg0, hs, -⟩ := h.group
  have hsrg : c.g.srg = g0.srg := by
    obtain ⟨a, b, r, hr⟩ := seen_rest s.fresh g0
    rw [hs, hr]
  refine (completes_group h (fun g => g.putReg wide d (c.lanes.map fun l => (l, f l)) tag) (fun _ => rfl) fun _ => rfl).mono fun g g' hg e => ?_
  refine writesRow_putReg g g' (h.width hg) wide d f tag _ P hP ?_
  rw [hg0] at hg; cases hg
  rw [e, hsrg]; rfl

end Sys2Proof.Machine
end

