-- ==== Sys2Proof/Laws/Elems.lean ====
section
/-! SUPPORT. Packed elements (R32), the range rule (R260), operand checks (R243, R245), and the shapes of vector words. -/
namespace Sys2Proof.Machine
set_option Elab.async false

/-! ### Packed elements -/

theorem joinElems_lt (w : Nat) (xs : List Nat) : joinElems w xs < 2 ^ (w * xs.length) := by
  induction xs with
  | nil => simp [joinElems]
  | cons x xs ih =>
    simp only [joinElems, List.length_cons, Nat.mul_succ, Nat.pow_add]
    have h : x % 2 ^ w < 2 ^ w := Nat.mod_lt _ (Nat.two_pow_pos w)
    calc x % 2 ^ w + 2 ^ w * joinElems w xs < 2 ^ w * (joinElems w xs + 1) := by rw [Nat.mul_add]; omega
      _ ≤ 2 ^ w * 2 ^ (w * xs.length) := Nat.mul_le_mul_left _ ih
      _ = 2 ^ (w * xs.length) * 2 ^ w := Nat.mul_comm _ _

/-- An element of joined elements. -/
theorem elemAt_joinElems (w : Nat) (xs : List Nat) (k : Nat) : elemAt w (joinElems w xs) k = xs.getD k 0 % 2 ^ w := by
  induction xs generalizing k with
  | nil => simp [joinElems, elemAt]
  | cons x xs ih =>
    have h : x % 2 ^ w < 2 ^ w := Nat.mod_lt _ (Nat.two_pow_pos w)
    cases k with
    | zero => simp [joinElems, elemAt, Nat.add_mul_mod_self_left]
    | succ k =>
      rw [List.getD_cons_succ, ← ih k]
      unfold elemAt
      rw [Nat.shiftRight_eq_div_pow, Nat.shiftRight_eq_div_pow, joinElems, Nat.mul_succ, Nat.add_comm (w * k) w, Nat.pow_add,
        ← Nat.div_div_eq_div_mul, Nat.add_mul_div_left _ _ (Nat.two_pow_pos w), Nat.div_eq_of_lt h, Nat.zero_add]

theorem getD_map_range {α : Type} (n : Nat) (f : Nat → α) (d : α) {k : Nat} (h : k < n) : ((List.range n).map f).getD k d = f k := by
  simp [List.getD, h]

theorem elemAt_mapElems (ty v : Nat) (f : Nat → Nat) {k : Nat} (h : k < elemCount ty) :
    elemAt (tWidth ty) (mapElems ty v f) k = f (elemAt (tWidth ty) v k) % 2 ^ tWidth ty := by
  unfold mapElems; rw [elemAt_joinElems, getD_map_range _ _ _ h]
theorem elemAt_zipElems (ty a b : Nat) (f : Nat → Nat → Nat) {k : Nat} (h : k < elemCount ty) :
    elemAt (tWidth ty) (zipElems ty a b f) k = f (elemAt (tWidth ty) a k) (elemAt (tWidth ty) b k) % 2 ^ tWidth ty := by
  unfold zipElems; rw [elemAt_joinElems, getD_map_range _ _ _ h]
theorem elemAt_zip3Elems (ty a b c : Nat) (f : Nat → Nat → Nat → Nat) {k : Nat} (h : k < elemCount ty) :
    elemAt (tWidth ty) (zip3Elems ty a b c f) k
      = f (elemAt (tWidth ty) a k) (elemAt (tWidth ty) b k) (elemAt (tWidth ty) c k) % 2 ^ tWidth ty := by
  unfold zip3Elems; rw [elemAt_joinElems, getD_map_range _ _ _ h]

theorem elemAt_lt (w v k : Nat) : elemAt w v k < 2 ^ w := Nat.mod_lt _ (Nat.two_pow_pos w)

/-- An element does not see the bits above the register's width. -/
theorem elemAt_mod {w v k n : Nat} (h : w * (k + 1) ≤ n) : elemAt w (v % 2 ^ n) k = elemAt w v k := by
  unfold elemAt
  apply Nat.eq_of_testBit_eq
  intro i
  simp only [Nat.testBit_mod_two_pow, Nat.testBit_shiftRight]
  by_cases hi : i < w
  · have : w * k + i < n := by rw [Nat.mul_succ] at h; omega
    simp [hi, this]
  · simp [hi]

/-- A register's width holds its elements exactly. -/
theorem elemCount_width {ty k : Nat} (hw : (if tWide ty then 64 else 32) = elemCount ty * tWidth ty) (h : k < elemCount ty) :
    tWidth ty * (k + 1) ≤ (if tWide ty then 64 else 32) := by
  rw [hw, Nat.mul_comm]; exact Nat.mul_le_mul_right _ h

theorem elem_width (ty : Nat) : (if tWide ty then 64 else 32) = elemCount ty * tWidth ty := by
  by_cases h : ty < 17
  · revert h; revert ty; decide
  · have hw : tWidth ty = 32 := by
      unfold tWidth; split <;> omega
    have hf : tWide ty = false := by simp [tWide, tU64, tI64, tF64]; omega
    simp [elemCount, hw, hf]
theorem tWidth_pos (ty : Nat) : 0 < tWidth ty := by unfold tWidth; split <;> omega

/-- Element `k` of what a register keeps of a lane's value. -/
theorem elemAt_kept (ty v : Nat) {k : Nat} (h : k < elemCount ty) :
    elemAt (tWidth ty) (v % 2 ^ (if tWide ty then 64 else 32)) k = elemAt (tWidth ty) v k :=
  elemAt_mod (elemCount_width (elem_width ty) h)

/-! ### The range rule -/

theorem ofS_mod (w : Nat) (x : Int) : ofS w x % 2 ^ w = ofS w x := by
  unfold ofS
  apply Nat.mod_eq_of_lt
  have h : (0 : Int) < ((2 ^ w : Nat) : Int) := by exact_mod_cast Nat.two_pow_pos w
  have := Int.emod_lt_of_pos x h
  have := Int.emod_nonneg x (ne_of_gt h)
  omega
theorem ofS_cast (w : Nat) (x : Int) : ((ofS w x : Nat) : Int) = x % ((2 ^ w : Nat) : Int) := by
  have h : (0 : Int) < ((2 ^ w : Nat) : Int) := by exact_mod_cast Nat.two_pow_pos w
  have := Int.emod_nonneg x (ne_of_gt h)
  unfold ofS; omega

theorem toS_ofS {w : Nat} {x : Int} (hw : 0 < w) (h1 : -(2 ^ (w - 1) : Nat) ≤ x) (h2 : x ≤ (2 ^ (w - 1) : Nat) - 1) : toS w (ofS w x) = x := by
  have hp : 2 ^ w = 2 * 2 ^ (w - 1) := by
    obtain ⟨n, rfl⟩ : ∃ n, w = n + 1 := ⟨w - 1, by omega⟩
    rw [Nat.pow_succ, Nat.add_sub_cancel, Nat.mul_comm]
  have hpos : 0 < 2 ^ (w - 1) := Nat.two_pow_pos _
  have hm := ofS_mod w x
  have hc := ofS_cast w x
  unfold toS
  simp only [hm]
  generalize hP : 2 ^ (w - 1) = P at *
  rw [hp] at hc ⊢
  push_cast at hc h1 h2 ⊢
  by_cases hx : 0 ≤ x
  · rw [Int.emod_eq_of_lt hx (by omega)] at hc
    rw [if_pos (by omega)]; exact hc
  · have : x % (2 * (P : Int)) = x + 2 * P := by
      rw [← Int.add_emod_right x, Int.emod_eq_of_lt (by omega) (by omega)]
    rw [this] at hc
    rw [if_neg (by omega)]; omega

/-- What `ranged` gives is the result of R260. -/
theorem narrowed_ranged (ty : Nat) (sat : Bool) (r : Int) : Narrowed ty sat r (ranged ty sat r) := by
  have hw := tWidth_pos ty
  unfold Narrowed ranged
  cases sat
  · simp only [Bool.false_eq_true, if_false]; exact ofS_cast _ _
  · simp only [if_true]
    refine ⟨by rw [← ofS_mod]; exact Nat.mod_lt _ (Nat.two_pow_pos _), ?_⟩
    have hpos : (0 : Int) < (2 ^ (tWidth ty - 1) : Nat) := by exact_mod_cast Nat.two_pow_pos _
    have hpos' : (0 : Int) < (2 ^ tWidth ty : Nat) := by exact_mod_cast Nat.two_pow_pos _
    unfold elemInt tyMin tyMax
    cases hs : tSigned ty
    · simp only [Bool.false_eq_true, if_false]
      rw [ofS_mod, ofS_cast, Int.emod_eq_of_lt]
      · omega
      · omega
    · simp only [if_true]
      refine toS_ofS hw ?_ ?_ <;> omega

theorem ranged_mod (ty : Nat) (sat : Bool) (r : Int) : ranged ty sat r % 2 ^ tWidth ty = ranged ty sat r := ofS_mod _ _

/-! ### Operand checks -/

theorem vecCheck_ok {c : WCtx} {os : List Opnd} {adm : Bool} (ha : adm = true) (h : Readable c os) : vecCheck c adm os = .ok () := by
  have h1 : os.find? (·.bad c.g) = none := by
    rw [List.find?_eq_none]; intro o ho; simp [(h o ho).1]
  have h2 : os.find? (·.badTag c.g) = none := by
    rw [List.find?_eq_none]; intro o ho; simp [(h o ho).2]
  simp [vecCheck, ha, h1, h2]

/-! ### Words of two and three vector sources -/

theorem vec2_completes {s : State} {c : WCtx} (h : Issues s c) (e : c.eff ≠ 0) {okTy : Nat → Bool} (ha : okTy c.g.ty = true)
    {ca cb : TagCls} {d : BitVec 7} {i : BitVec 2} {a : BitVec 7} {j : BitVec 2} {b : BitVec 7}
    (hr : Readable c [opD (tWide c.g.ty) d, opA (tWide c.g.ty) i a ca, opB (tWide c.g.ty) j b cb])
    (f : Group → Nat → Nat → Nat) (P : Nat → Nat → Prop)
    (hP : ∀ l ∈ c.lanes, P l (f c.g ((opA (tWide c.g.ty) i a ca).val c.g l) ((opB (tWide c.g.ty) j b cb).val c.g l)
      % 2 ^ (if tWide c.g.ty then 64 else 32))) :
    Completes (vec2 s okTy ca cb d i a j b f) s c [] 0 (WritesRow s c (tWide c.g.ty) d.toNat P c.g.ty c.g.srg) := by
  unfold vec2
  rw [runWord_ok h e _ (by simp only [vecCheck_ok ha hr]; rfl)]
  exact completes_writeVec h _ _ _ _ P hP

theorem vec3_completes {s : State} {c : WCtx} (h : Issues s c) (e : c.eff ≠ 0) {okTy : Nat → Bool} (ha : okTy c.g.ty = true)
    {cls : TagCls} {d : BitVec 7} {i : BitVec 2} {a : BitVec 7} {j : BitVec 2} {b : BitVec 7}
    (hr : Readable c [opD (tWide c.g.ty) d cls, opA (tWide c.g.ty) i a cls, opB (tWide c.g.ty) j b cls])
    (f : Group → Nat → Nat → Nat → Nat) (P : Nat → Nat → Prop)
    (hP : ∀ l ∈ c.lanes, P l (f c.g ((opA (tWide c.g.ty) i a cls).val c.g l) ((opB (tWide c.g.ty) j b cls).val c.g l)
      ((opD (tWide c.g.ty) d cls).val c.g l) % 2 ^ (if tWide c.g.ty then 64 else 32))) :
    Completes (vec3 s okTy cls d i a j b f) s c [] 0 (WritesRow s c (tWide c.g.ty) d.toNat P c.g.ty c.g.srg) := by
  unfold vec3
  rw [runWord_ok h e _ (by simp only [vecCheck_ok ha hr]; rfl)]
  exact completes_writeVec h _ _ _ _ P hP

end Sys2Proof.Machine
end

