-- ==== Sys2Proof/Laws/Memory.lean ====
section
/-! SUPPORT. Every operation on memory keeps the canonical form of the four sparse memories, and reset has it. -/
namespace Sys2Proof.Machine

/-- A property that every round of a loop keeps holds after the loop. -/
theorem foldl_keeps {α β : Type} (P : β → Prop) (f : β → α → β) (l : List α) (b : β) (hb : P b) (hf : ∀ b, P b → ∀ x ∈ l, P (f b x)) :
    P (l.foldl f b) := by
  induction l generalizing b with
  | nil => exact hb
  | cons x l ih =>
    exact ih _ (hf b hb x (List.mem_cons_self ..)) fun b hb y hy => hf b hb y (List.mem_cons_of_mem _ hy)

theorem State.memWf_iff (s : State) : s.memWf = true ↔
    Memory.wf s.near = true ∧ Memory.wf s.far = true ∧ Memory.wf s.host = true ∧ Memory.wf s.peers = true := by
  simp [State.memWf, and_assoc]

/-- A change of other fields keeps the form. -/
theorem State.memWf_of {s t : State} (h : (t.near, t.far, t.host, t.peers) = (s.near, s.far, s.host, s.peers)) (hs : s.memWf = true) :
    t.memWf = true := by
  simp only [Prod.mk.injEq] at h
  simpa [State.memWf, h] using hs

theorem State.memWf_reset : State.reset.memWf = true := by decide

/-! ### The places where a memory changes -/

theorem Memory.wf_filter (m : List Host.Cell) (p : Host.Cell → Bool) (h : Memory.wf m = true) : Memory.wf (m.filter p) = true := by
  simp only [Memory.wf, Tab.wf, Bool.and_eq_true, List.all_eq_true, Tab.rising_iff] at *
  exact ⟨h.1.sublist List.filter_sublist, fun x hx => h.2 x (List.mem_filter.1 hx).1⟩

theorem memWf_setFrameByte (s : State) (la : Nat) (b : BitVec 8) (h : s.memWf = true) : (setFrameByte s la b).memWf = true := by
  rw [State.memWf_iff] at h
  unfold setFrameByte
  simp only
  split
  · rwa [State.memWf_iff]
  · split <;> rw [State.memWf_iff]
    · exact ⟨Memory.wf_write _ _ _ h.1, h.2⟩
    · exact ⟨h.1, Memory.wf_write _ _ _ h.2.1, h.2.2⟩

theorem memWf_putHostByte (s : State) (t : Nat) (b : BitVec 8) (h : s.memWf = true) : (putHostByte s t b).memWf = true := by
  rw [State.memWf_iff] at h
  unfold putHostByte
  split <;> rw [State.memWf_iff]
  · exact ⟨h.1, h.2.1, Memory.wf_write _ _ _ h.2.2.1, h.2.2.2⟩
  · exact ⟨h.1, h.2.1, h.2.2.1, Memory.wf_write _ _ _ h.2.2.2⟩

theorem memWf_zeroNear (s : State) (p : Nat) (h : s.memWf = true) : (zeroNear s p).memWf = true := by
  rw [State.memWf_iff] at *
  exact ⟨Memory.wf_filter _ _ h.1, h.2⟩

theorem wf_copyFrame (src dst : List Host.Cell) (old new : Nat) (h : Memory.wf dst = true) : Memory.wf (copyFrame src dst old new) = true :=
  foldl_keeps (fun m => Memory.wf m = true) _ _ _ (Memory.wf_filter _ _ h) fun _ hm _ _ => Memory.wf_write _ _ _ hm

theorem memWf_sectorRec (s : State) (ctx cls : Nat) (l : Loc) (h : s.memWf = true) : (sectorRec s ctx cls l).memWf = true :=
  State.memWf_of rfl h

theorem memWf_setPoison (s : State) (x : Loc) (p : Bool) (h : s.memWf = true) : (setPoison s x p).memWf = true :=
  State.memWf_of rfl h

theorem memWf_touchCount (s : State) (frame : Nat) (h : s.memWf = true) : (touchCount s frame).memWf = true := by
  simp only [touchCount, setHub]
  split <;> exact State.memWf_of rfl h

theorem memWf_verifyPlaces (s : State) (ctx : Nat) (ls : List Loc) (h : s.memWf = true) : (verifyPlaces s ctx ls).memWf = true := by
  unfold verifyPlaces
  split
  · exact h
  · refine foldl_keeps (fun s : State => s.memWf = true) _ _ _ h fun s hs x _ => ?_
    split
    · exact memWf_sectorRec _ _ _ _ (memWf_setPoison _ _ _ hs)
    · exact hs

theorem memWf_chargeCut (s : State) (ctx : Nat) (ls : List Loc) (h : s.memWf = true) : (chargeCut s ctx ls).memWf = true := by
  unfold chargeCut
  split
  · exact h
  · exact foldl_keeps (fun s : State => s.memWf = true) _ _ _ h fun s hs x _ => memWf_sectorRec _ _ _ _ hs

theorem memWf_dropLines (s : State) (p : Nat → Bool) (h : s.memWf = true) : (dropLines s p).memWf = true := State.memWf_of rfl h

theorem memWf_flushBytes (s : State) (line : Nat) (l : SLine) (h : s.memWf = true) : (flushBytes s line l).memWf = true := by
  unfold flushBytes
  simp only
  split
  · exact foldl_keeps (fun s : State => s.memWf = true) _ _ _ h fun s hs x _ => memWf_sectorRec _ _ _ _ hs
  · refine foldl_keeps (fun s : State => s.memWf = true) _ _ _ ?_ fun s hs i _ => by
      split
      · exact memWf_setFrameByte _ _ _ hs
      · exact hs
    refine foldl_keeps (fun s : State => s.memWf = true) _ _ _ ?_ fun s hs x _ => by
      split
      · exact State.memWf_of rfl hs
      · exact hs
    split
    · exact memWf_verifyPlaces _ _ _ h
    · exact h

theorem memWf_giveUpLine (s : State) (slice : Nat) (h : s.memWf = true) : (giveUpLine s slice).memWf = true := by
  unfold giveUpLine
  split
  · exact memWf_dropLines _ _ h
  · split
    · exact memWf_dropLines _ _ (memWf_flushBytes _ _ _ (memWf_touchCount _ _ h))
    · exact h

theorem memWf_sliceRoom (s : State) (slice : Nat) (h : s.memWf = true) : (sliceRoom s slice).memWf = true := by
  unfold sliceRoom
  split
  · exact h
  · exact memWf_giveUpLine _ _ h

theorem memWf_withSlices (s : State) (x : Tab SLine) (h : s.memWf = true) : ({ s with slices := x } : State).memWf = true :=
  State.memWf_of rfl h

theorem memWf_fillSector (s : State) (x : Loc) (h : s.memWf = true) : (fillSector s x).memWf = true := by
  unfold fillSector
  split
  · exact memWf_setPoison _ _ _ h
  · split
    · exact State.memWf_of rfl h
    · exact h

theorem memWf_fillSlice (s : State) (line : Nat) (h : s.memWf = true) : (fillSlice s line).memWf = true := by
  have hr := memWf_sliceRoom _ (homeSlice s (128 * line)) (memWf_touchCount _ (line / 512) h)
  unfold fillSlice
  simp only
  split
  · exact h
  · split
    · exact foldl_keeps (fun s : State => s.memWf = true) _ _ _ (memWf_withSlices _ _ hr) fun s hs x _ => memWf_fillSector _ _ hs
    · exact hr

theorem memWf_fillLines (s : State) (ls : List Loc) (h : s.memWf = true) : (fillLines s ls).memWf = true :=
  foldl_keeps (fun s : State => s.memWf = true) _ _ _ h fun _ hs _ _ => memWf_fillSlice _ _ hs

theorem memWf_mergePlaces (s : State) (ctx : Nat) (ls : List Loc) (h : s.memWf = true) : (mergePlaces s ctx ls).memWf = true := by
  have hf := memWf_fillLines _ ls (memWf_chargeCut _ ctx ls h)
  unfold mergePlaces
  simp only
  split
  · exact hf
  · refine foldl_keeps (fun s : State => s.memWf = true) _ _ _ hf fun s hs x _ => ?_
    split
    · exact memWf_setPoison _ _ _ hs
    · split
      · exact memWf_sectorRec _ _ _ _ (memWf_setPoison _ _ _ hs)
      · exact hs

theorem memWf_putSliceByte (s : State) (ctx la : Nat) (b : BitVec 8) (h : s.memWf = true) : (putSliceByte s ctx la b).memWf = true := by
  have hf := memWf_fillSlice s (la / 128) h
  unfold putSliceByte
  simp only
  split
  · exact memWf_withSlices _ _ hf
  · split
    · exact hf
    · exact memWf_setFrameByte _ _ _ hf

theorem memWf_putRaw (s : State) (ctx : Nat) (host : Bool) (a n v : Nat) (h : s.memWf = true) : (putRaw s ctx host a n v).memWf = true := by
  induction n generalizing s a v with
  | zero => exact h
  | succ n ih =>
    refine ih _ _ _ ?_
    cases host
    · exact memWf_putSliceByte _ _ _ _ h
    · exact memWf_putHostByte _ _ _ h

theorem memWf_poisonPlaces (s : State) (ls : List Loc) (h : s.memWf = true) : (poisonPlaces s ls).memWf = true :=
  foldl_keeps (fun s : State => s.memWf = true) _ _ _ h fun _ hs _ _ => memWf_setPoison _ _ _ hs

theorem memWf_roundCell (s : State) (c : Cell) (h : s.memWf = true) : (roundCell s c).memWf = true := by
  have hp := memWf_putRaw _ c.creator c.host c.addr (cellBytes c) (cellBits c) (memWf_mergePlaces s c.creator (cellPlaces c) h)
  unfold roundCell
  simp only
  split
  · exact memWf_poisonPlaces _ _ hp
  · exact hp

theorem memWf_retireCell (s : State) (c : Cell) (h : s.memWf = true) : (retireCell s c).memWf = true :=
  memWf_roundCell _ _ (State.memWf_of rfl h)

theorem memWf_hostFill (s : State) (a n : Nat) (parts : List (Nat × List (BitVec 8))) (h : s.memWf = true) :
    (hostFill s a n parts).memWf = true := by
  have h1 : ∀ l : List Cell, (l.foldl retireCell s).memWf = true := fun l =>
    foldl_keeps (fun s : State => s.memWf = true) _ l _ h fun s hs c _ => memWf_retireCell s c hs
  unfold hostFill
  simp only
  generalize hu : List.foldl retireCell s _ = u
  have hw : u.memWf = true := hu ▸ h1 _
  rw [State.memWf_iff] at hw ⊢
  exact ⟨hw.1, hw.2.1, foldl_keeps (fun m => Memory.wf m = true) _ _ _ (Memory.wf_filter _ _ hw.2.2.1) fun _ hm _ _ =>
    foldl_keeps (fun m => Memory.wf m = true) _ _ _ hm fun _ hm _ _ => Memory.wf_write _ _ _ hm, hw.2.2.2⟩

/-! ### Bytes at their homes -/

theorem memWf_retireAt (s : State) (host : Bool) (a : Nat) (h : s.memWf = true) : (retireAt s host a).memWf = true :=
  foldl_keeps (fun s : State => s.memWf = true) _ _ _ h fun s hs c _ => memWf_retireCell s c hs

theorem memWf_setLogByte (s : State) (ctx la : Nat) (b : BitVec 8) (h : s.memWf = true) : (setLogByte s ctx la b).memWf = true := by
  unfold setLogByte
  split
  · exact h
  · exact memWf_putSliceByte _ _ _ _ (memWf_retireAt _ _ _ h)

theorem memWf_setHostByte (s : State) (t : Nat) (b : BitVec 8) (h : s.memWf = true) : (setHostByte s t b).memWf = true := by
  unfold setHostByte
  split
  · exact h
  · exact memWf_putHostByte _ _ _ (memWf_retireAt _ _ _ h)

theorem memWf_putLogBytes (s : State) (ctx la : Nat) (bs : List (BitVec 8)) (h : s.memWf = true) : (putLogBytes s ctx la bs).memWf = true := by
  induction bs generalizing s la with
  | nil => exact h
  | cons b bs ih => exact ih _ _ (memWf_setLogByte _ _ _ _ h)

theorem memWf_setLogBytes (s : State) (ctx la : Nat) (bs : List (BitVec 8)) (h : s.memWf = true) : (setLogBytes s ctx la bs).memWf = true :=
  memWf_putLogBytes _ _ _ _ (memWf_mergePlaces _ _ _ h)

end Sys2Proof.Machine
end

