-- ==== Sys2Proof/Laws/PerInstr.lean ====
section
/-! SUPPORT. The family Encoding: for every instruction, its encoding names its own row of the opcode map, with every
operand bit in its place. -/
namespace Sys2Proof.Laws.Encoding
set_option Elab.async false
set_option linter.unusedSimpArgs false
set_option linter.unnecessarySeqFocus false
set_option linter.unusedTactic false
set_option linter.unreachableTactic false

/-- The word that an instruction is encoded to is read as that instruction (R44, R64). -/
def Statement (i : Instr) : Prop := ∀ w, encode i = some w → decodeRaw w = some i

theorem deviceReset : Statement (.deviceReset) := nofun
theorem functionLevelReset : Statement (.functionLevelReset) := nofun
theorem registerWrite (x0 : Nat) (x1 : Nat) (x2 : BitVec 64) : Statement (.registerWrite x0 x1 x2) := nofun
theorem bar0UnsupportedAccess (x0 : Nat) (x1 : Nat) (x2 : Bool) : Statement (.bar0UnsupportedAccess x0 x1 x2) := nofun
theorem bar4Read (x0 : Nat) (x1 : Nat) : Statement (.bar4Read x0 x1) := nofun
theorem bar4Write (x0 : Nat) (x1 : List (BitVec 8)) : Statement (.bar4Write x0 x1) := nofun
theorem hingeInstall (x0 : Nat) : Statement (.hingeInstall x0) := nofun
theorem hingeRelease (x0 : Nat) : Statement (.hingeRelease x0) := nofun
theorem hingeRead (x0 : Nat) : Statement (.hingeRead x0) := nofun
theorem hingeDonate (x0 : Nat) : Statement (.hingeDonate x0) := nofun
theorem hingeSetaff (x0 : Nat) : Statement (.hingeSetaff x0) := nofun
theorem hingeGetaff (x0 : Nat) : Statement (.hingeGetaff x0) := nofun
theorem hingeCmdComplete (x0 : Nat) : Statement (.hingeCmdComplete x0) := nofun
theorem qmQtableWrite : Statement (.qmQtableWrite) := nofun
theorem queueLoad : Statement (.queueLoad) := nofun
theorem queueDisable : Statement (.queueDisable) := nofun
theorem queueReset : Statement (.queueReset) := nofun
theorem qctlComplete : Statement (.qctlComplete) := nofun
theorem queueTail (x0 : Nat) (x1 : BitVec 64) : Statement (.queueTail x0 x1) := nofun
theorem commandStart : Statement (.commandStart) := nofun
theorem queueLaunch : Statement (.queueLaunch) := nofun
theorem queueDraw : Statement (.queueDraw) := nofun
theorem queueCopy : Statement (.queueCopy) := nofun
theorem queueSignal : Statement (.queueSignal) := nofun
theorem queueWait : Statement (.queueWait) := nofun
theorem waitComplete (x0 : Nat) : Statement (.waitComplete x0) := nofun
theorem waitTimeout (x0 : Nat) (x1 : Nat) : Statement (.waitTimeout x0 x1) := nofun
theorem queueFence : Statement (.queueFence) := nofun
theorem queueTimestamp : Statement (.queueTimestamp) := nofun
theorem queueSalloc : Statement (.queueSalloc) := nofun
theorem queueSfree : Statement (.queueSfree) := nofun
theorem queueResync : Statement (.queueResync) := nofun
theorem commandComplete (x0 : Nat) (x1 : Nat) : Statement (.commandComplete x0 x1) := nofun
theorem hbCtxtabWrite : Statement (.hbCtxtabWrite) := nofun
theorem ctxBind : Statement (.ctxBind) := nofun
theorem ctxUnbind : Statement (.ctxUnbind) := nofun
theorem ctxKill : Statement (.ctxKill) := nofun
theorem ctxKillLaunch : Statement (.ctxKillLaunch) := nofun
theorem ctxResume : Statement (.ctxResume) := nofun
theorem ctxSwitchOut : Statement (.ctxSwitchOut) := nofun
theorem ctxSwitchIn : Statement (.ctxSwitchIn) := nofun
theorem ctxPreempt : Statement (.ctxPreempt) := nofun
theorem killComplete : Statement (.killComplete) := nofun
theorem hostopResync : Statement (.hostopResync) := nofun
theorem fwload : Statement (.fwload) := nofun
theorem attest : Statement (.attest) := nofun
theorem hostopComplete : Statement (.hostopComplete) := nofun
theorem sfNbpDataWrite : Statement (.sfNbpDataWrite) := nofun
theorem bankProgramInstall : Statement (.bankProgramInstall) := nofun
theorem fbKwStoreWrite (x0 : Nat) (x1 : Nat) (x2 : BitVec 64) : Statement (.fbKwStoreWrite x0 x1 x2) := nofun
theorem fbCellAreaWrite (x0 : Nat) (x1 : BitVec 64) : Statement (.fbCellAreaWrite x0 x1) := nofun
theorem hbIdWrite : Statement (.hbIdWrite) := nofun
theorem atsCompletion (x0 : Nat) (x1 : Nat) (x2 : Nat) (x3 : Bool) (x4 : Nat) (x5 : Nat) (x6 : Bool) (x7 : Bool) : Statement (.atsCompletion x0 x1 x2 x3 x4 x5 x6 x7) := nofun
theorem translationMiss (x0 : Nat) (x1 : Nat) (x2 : Nat) (x3 : Nat) (x4 : Nat) : Statement (.translationMiss x0 x1 x2 x3 x4) := nofun
theorem pageRequestResponse (x0 : Nat) (x1 : Nat) (x2 : Nat) (x3 : Bool) : Statement (.pageRequestResponse x0 x1 x2 x3) := nofun
theorem atsInvalidation (x0 : Nat) (x1 : Nat) (x2 : Nat) : Statement (.atsInvalidation x0 x1 x2) := nofun
theorem backgroundZeroingComplete (x0 : Nat) : Statement (.backgroundZeroingComplete x0) := nofun
theorem migrationEpochEnd (x0 : Nat) : Statement (.migrationEpochEnd x0) := nofun
theorem migrationCopyComplete (x0 : Nat) (x1 : Nat) : Statement (.migrationCopyComplete x0 x1) := nofun
theorem migrationLockTimeout (x0 : Nat) (x1 : Nat) (x2 : Nat) : Statement (.migrationLockTimeout x0 x1 x2) := nofun
theorem sliceRequest (x0 : Nat) : Statement (.sliceRequest x0) := nofun
theorem sliceLineFill (x0 : Nat) : Statement (.sliceLineFill x0) := nofun
theorem sliceWriteBack (x0 : Nat) : Statement (.sliceWriteBack x0) := nofun
theorem l1LineFill (x0 : Nat) (x1 : Nat) (x2 : Nat) : Statement (.l1LineFill x0 x1 x2) := nofun
theorem atomicResponseRelease (x0 : Nat) (x1 : Nat) : Statement (.atomicResponseRelease x0 x1) := nofun
theorem orderedAddContribution (x0 : Nat) : Statement (.orderedAddContribution x0) := nofun
theorem injectionReserve (x0 : Nat) : Statement (.injectionReserve x0) := nofun
theorem pawlLaunch (x0 : Nat) : Statement (.pawlLaunch x0) := nofun
theorem pawl (x0 : Nat) : Statement (.pawl x0) := nofun
theorem heartbeat (x0 : Nat) : Statement (.heartbeat x0) := nofun
theorem heartbeatMiss (x0 : Nat) (x1 : Nat) : Statement (.heartbeatMiss x0 x1) := nofun
theorem linkRetryFailure (x0 : Nat) (x1 : Nat) : Statement (.linkRetryFailure x0 x1) := nofun
theorem rerouteResume (x0 : Nat) : Statement (.rerouteResume x0) := nofun
theorem copyEngineComplete (x0 : Nat) (x1 : Nat) : Statement (.copyEngineComplete x0 x1) := nofun
theorem engineCommandFault (x0 : Nat) (x1 : Nat) (x2 : BitVec 8) (x3 : BitVec 64) : Statement (.engineCommandFault x0 x1 x2 x3) := nofun
theorem interestArrival (x0 : Nat) : Statement (.interestArrival x0) := nofun
theorem refreshArrival (x0 : Nat) : Statement (.refreshArrival x0) := nofun
theorem interestExpiry (x0 : Nat) (x1 : Nat) (x2 : Nat) (x3 : Nat) : Statement (.interestExpiry x0 x1 x2 x3) := nofun
theorem requesterRecordExpiry (x0 : Nat) (x1 : Nat) : Statement (.requesterRecordExpiry x0 x1) := nofun
theorem kputArrival (x0 : Nat) : Statement (.kputArrival x0) := nofun
theorem closeNoticeArrival (x0 : Nat) (x1 : Nat) : Statement (.closeNoticeArrival x0 x1) := nofun
theorem closeAck (x0 : Nat) (x1 : Nat) : Statement (.closeAck x0 x1) := nofun
theorem tileArrival (x0 : Nat) : Statement (.tileArrival x0) := nofun
theorem backingRefetchComplete (x0 : Nat) : Statement (.backingRefetchComplete x0) := nofun
theorem messageArrival (x0 : Nat) : Statement (.messageArrival x0) := nofun
theorem handlerDispatch (x0 : Nat) : Statement (.handlerDispatch x0) := nofun
theorem handlerWatchdog (x0 : Nat) (x1 : Nat) : Statement (.handlerWatchdog x0 x1) := nofun
theorem sliceQueueOperation (x0 : Nat) : Statement (.sliceQueueOperation x0) := nofun
theorem tileEviction (x0 : Nat) (x1 : Nat) (x2 : Nat) : Statement (.tileEviction x0 x1 x2) := nofun
theorem tileRestore (x0 : Nat) (x1 : Nat) : Statement (.tileRestore x0 x1) := nofun
theorem scrubBurst (x0 : Nat) (x1 : Nat) : Statement (.scrubBurst x0 x1) := nofun
theorem nbxCommand (x0 : Nat) : Statement (.nbxCommand x0) := nofun
theorem orderLockEntry (x0 : Nat) : Statement (.orderLockEntry x0) := nofun
theorem ropInvocation (x0 : Nat) : Statement (.ropInvocation x0) := nofun
theorem matrixPassGrant (x0 : Nat) : Statement (.matrixPassGrant x0) := nofun
theorem reservationAging (x0 : Nat) (x1 : Nat) : Statement (.reservationAging x0 x1) := nofun
theorem matrixTileWriteback (x0 : Nat) (x1 : Nat) : Statement (.matrixTileWriteback x0 x1) := nofun
theorem governorWindow (x0 : Nat) : Statement (.governorWindow x0) := nofun
theorem contextBankSpill (x0 : Nat) (x1 : Nat) : Statement (.contextBankSpill x0 x1) := nofun
theorem mbldReadEnd (x0 : Nat) (x1 : Nat) (x2 : Nat) : Statement (.mbldReadEnd x0 x1 x2) := nofun
theorem traversalLaneEnd (x0 : Nat) (x1 : Nat) : Statement (.traversalLaneEnd x0 x1) := nofun
theorem drawAccept (x0 : Nat) : Statement (.drawAccept x0) := nofun
theorem primitiveSetup (x0 : Nat) : Statement (.primitiveSetup x0) := nofun
theorem quadTicketReserve (x0 : Nat) : Statement (.quadTicketReserve x0) := nofun
theorem fragmentGroupDispatch (x0 : Nat) : Statement (.fragmentGroupDispatch x0) := nofun
theorem drawComplete (x0 : Nat) : Statement (.drawComplete x0) := nofun
theorem issueCycle (x0 : Nat) (x1 : Nat) : Statement (.issueCycle x0 x1) := nofun
theorem splitGuardExpiry (x0 : Nat) (x1 : Nat) : Statement (.splitGuardExpiry x0 x1) := nofun
theorem slotStarvationGuard (x0 : Nat) (x1 : Nat) (x2 : Nat) : Statement (.slotStarvationGuard x0 x1 x2) := nofun
theorem collectorMark (x0 : Nat) (x1 : Nat) : Statement (.collectorMark x0 x1) := nofun
theorem clauseStart (x0 : Nat) (x1 : Nat) : Statement (.clauseStart x0 x1) := nofun
theorem mayFaultChecksResolved (x0 : Nat) : Statement (.mayFaultChecksResolved x0) := nofun
theorem longLatencyCompletion (x0 : Nat) (x1 : Nat) : Statement (.longLatencyCompletion x0 x1) := nofun
theorem watchdogExpiry (x0 : Nat) (x1 : Nat) : Statement (.watchdogExpiry x0 x1) := nofun
theorem teamPlacement (x0 : Nat) : Statement (.teamPlacement x0) := nofun
theorem placementStarvation (x0 : Nat) (x1 : Nat) : Statement (.placementStarvation x0 x1) := nofun
theorem preemptionRequest (x0 : Nat) (x1 : Nat) : Statement (.preemptionRequest x0 x1) := nofun
theorem drainTimeout (x0 : Nat) (x1 : Nat) (x2 : Nat) : Statement (.drainTimeout x0 x1 x2) := nofun
theorem teamSave (x0 : Nat) (x1 : Nat) : Statement (.teamSave x0 x1) := nofun
theorem harvestRevocation (x0 : Nat) (x1 : Nat) (x2 : Nat) : Statement (.harvestRevocation x0 x1 x2) := nofun
theorem thermalLimitCrossing (x0 : Nat) (x1 : Bool) (x2 : BitVec 32) (x3 : BitVec 32) : Statement (.thermalLimitCrossing x0 x1 x2 x3) := nofun
theorem thermalMigration (x0 : Nat) (x1 : Nat) : Statement (.thermalMigration x0 x1) := nofun
theorem ageingMeasurement (x0 : Nat) (x1 : Nat) (x2 : BitVec 32) (x3 : BitVec 32) (x4 : Nat) : Statement (.ageingMeasurement x0 x1 x2 x3 x4) := nofun
theorem forcedAgeingMeasurement (x0 : Nat) (x1 : Nat) (x2 : BitVec 32) (x3 : BitVec 32) (x4 : Nat) : Statement (.forcedAgeingMeasurement x0 x1 x2 x3 x4) := nofun
theorem peerPortDown (x0 : Nat) : Statement (.peerPortDown x0) := nofun
theorem peerReceive (x0 : PeerHead) (x1 : Nat) (x2 : List (BitVec 8)) (x3 : BitVec 16) (x4 : Bool) : Statement (.peerReceive x0 x1 x2 x3 x4) := nofun
theorem nop (p : BitVec 3) (i : BitVec 1) (o : BitVec 21) : Statement (.nop p i o) := by
  intro w h; cases h
  have hm : (0x0#7 ++ p ++ i ++ o : BitVec 32) &&& 0xfe000000 = 0x0 := by
    rw [show (0xfe000000 : BitVec 32) = 0x7f#7 ++ 0x0#3 ++ 0x0#1 ++ 0x0#21 from rfl]
    simp only [BitVec.and_append, BitVec.and_zero]; rfl
  have ho : ((0x0#7 ++ p ++ i ++ o : BitVec 32).extractLsb' 25 7).toNat = 0x0 := by
    simp (disch := decide) only [cut_hi, cut_lo, cut_all]; rfl
  have hr : ∀ w : BitVec 32, (w.extractLsb' 25 7).toNat = 0x0 → decodeRaw w = (row w 0xFE000000 0x00000000 (.nop (w.extractLsb' 22 3) (w.extractLsb' 21 1) (w.extractLsb' 0 21))) := by
    intro w h; unfold decodeRaw; rw [h]; rfl
  rw [hr _ ho]
  simp (disch := decide) only [row, hm, cut_hi, cut_lo, cut_all, if_true, if_false, Nat.reduceSub] <;> rfl
theorem bra (p : BitVec 3) (i : BitVec 1) (o : BitVec 21) : Statement (.bra p i o) := by
  intro w h; cases h
  have hm : (0x1#7 ++ p ++ i ++ o : BitVec 32) &&& 0xfe000000 = 0x2000000 := by
    rw [show (0xfe000000 : BitVec 32) = 0x7f#7 ++ 0x0#3 ++ 0x0#1 ++ 0x0#21 from rfl]
    simp only [BitVec.and_append, BitVec.and_zero]; rfl
  have ho : ((0x1#7 ++ p ++ i ++ o : BitVec 32).extractLsb' 25 7).toNat = 0x1 := by
    simp (disch := decide) only [cut_hi, cut_lo, cut_all]; rfl
  have hr : ∀ w : BitVec 32, (w.extractLsb' 25 7).toNat = 0x1 → decodeRaw w = (row w 0xFE000000 0x02000000 (.bra (w.extractLsb' 22 3) (w.extractLsb' 21 1) (w.extractLsb' 0 21))) := by
    intro w h; unfold decodeRaw; rw [h]; rfl
  rw [hr _ ho]
  simp (disch := decide) only [row, hm, cut_hi, cut_lo, cut_all, if_true, if_false, Nat.reduceSub] <;> rfl
theorem brx (p : BitVec 3) (i : BitVec 1) (r : BitVec 7) : Statement (.brx p i r) := by
  intro w h; cases h
  have hm : (0x2#7 ++ p ++ i ++ 0x0#14 ++ r : BitVec 32) &&& 0xfe1fff80 = 0x4000000 := by
    rw [show (0xfe1fff80 : BitVec 32) = 0x7f#7 ++ 0x0#3 ++ 0x0#1 ++ 0x3fff#14 ++ 0x0#7 from rfl]
    simp only [BitVec.and_append, BitVec.and_zero]; rfl
  have ho : ((0x2#7 ++ p ++ i ++ 0x0#14 ++ r : BitVec 32).extractLsb' 25 7).toNat = 0x2 := by
    simp (disch := decide) only [cut_hi, cut_lo, cut_all]; rfl
  have hr : ∀ w : BitVec 32, (w.extractLsb' 25 7).toNat = 0x2 → decodeRaw w = (row w 0xFE1FFF80 0x04000000 (.brx (w.extractLsb' 22 3) (w.extractLsb' 21 1) (w.extractLsb' 0 7))) := by
    intro w h; unfold decodeRaw; rw [h]; rfl
  rw [hr _ ho]
  simp (disch := decide) only [row, hm, cut_hi, cut_lo, cut_all, if_true, if_false, Nat.reduceSub] <;> rfl
theorem call (p : BitVec 3) (i : BitVec 1) (o : BitVec 21) : Statement (.call p i o) := by
  intro w h; cases h
  have hm : (0x3#7 ++ p ++ i ++ o : BitVec 32) &&& 0xfe000000 = 0x6000000 := by
    rw [show (0xfe000000 : BitVec 32) = 0x7f#7 ++ 0x0#3 ++ 0x0#1 ++ 0x0#21 from rfl]
    simp only [BitVec.and_append, BitVec.and_zero]; rfl
  have ho : ((0x3#7 ++ p ++ i ++ o : BitVec 32).extractLsb' 25 7).toNat = 0x3 := by
    simp (disch := decide) only [cut_hi, cut_lo, cut_all]; rfl
  have hr : ∀ w : BitVec 32, (w.extractLsb' 25 7).toNat = 0x3 → decodeRaw w = (row w 0xFE000000 0x06000000 (.call (w.extractLsb' 22 3) (w.extractLsb' 21 1) (w.extractLsb' 0 21))) := by
    intro w h; unfold decodeRaw; rw [h]; rfl
  rw [hr _ ho]
  simp (disch := decide) only [row, hm, cut_hi, cut_lo, cut_all, if_true, if_false, Nat.reduceSub] <;> rfl
theorem ret : Statement (.ret) := by
  intro w h; cases h
  have hm : (0x9C00000#32 : BitVec 32) &&& 0xffffffff = 0x9c00000 := rfl
  have ho : ((0x9C00000#32 : BitVec 32).extractLsb' 25 7).toNat = 0x4 := rfl
  have hr : ∀ w : BitVec 32, (w.extractLsb' 25 7).toNat = 0x4 → decodeRaw w = (row w 0xFFFFFFFF 0x09C00000 (.ret)) := by
    intro w h; unfold decodeRaw; rw [h]; rfl
  rw [hr _ ho]
  simp (disch := decide) only [row, hm, cut_hi, cut_lo, cut_all, if_true, if_false, Nat.reduceSub] <;> rfl
theorem jset (o : BitVec 21) : Statement (.jset o) := by
  intro w h; cases h
  have hm : (0x5E#11 ++ o : BitVec 32) &&& 0xffe00000 = 0xbc00000 := by
    rw [show (0xffe00000 : BitVec 32) = 0x7ff#11 ++ 0x0#21 from rfl]
    simp only [BitVec.and_append, BitVec.and_zero]; rfl
  have ho : ((0x5E#11 ++ o : BitVec 32).extractLsb' 25 7).toNat = 0x5 := by
    simp (disch := decide) only [cut_hi, cut_lo, cut_all]; rfl
  have hr : ∀ w : BitVec 32, (w.extractLsb' 25 7).toNat = 0x5 → decodeRaw w = (row w 0xFFE00000 0x0BC00000 (.jset (w.extractLsb' 0 21))) := by
    intro w h; unfold decodeRaw; rw [h]; rfl
  rw [hr _ ho]
  simp (disch := decide) only [row, hm, cut_hi, cut_lo, cut_all, if_true, if_false, Nat.reduceSub] <;> rfl
theorem exit (p : BitVec 3) (i : BitVec 1) : Statement (.exit p i) := by
  intro w h; cases h
  have hm : (0x6#7 ++ p ++ i ++ 0x0#21 : BitVec 32) &&& 0xfe1fffff = 0xc000000 := by
    rw [show (0xfe1fffff : BitVec 32) = 0x7f#7 ++ 0x0#3 ++ 0x0#1 ++ 0x1fffff#21 from rfl]
    simp only [BitVec.and_append, BitVec.and_zero]; rfl
  have ho : ((0x6#7 ++ p ++ i ++ 0x0#21 : BitVec 32).extractLsb' 25 7).toNat = 0x6 := by
    simp (disch := decide) only [cut_hi, cut_lo, cut_all]; rfl
  have hr : ∀ w : BitVec 32, (w.extractLsb' 25 7).toNat = 0x6 → decodeRaw w = (row w 0xFE1FFFFF 0x0C000000 (.exit (w.extractLsb' 22 3) (w.extractLsb' 21 1))) := by
    intro w h; unfold decodeRaw; rw [h]; rfl
  rw [hr _ ho]
  simp (disch := decide) only [row, hm, cut_hi, cut_lo, cut_all, if_true, if_false, Nat.reduceSub] <;> rfl
theorem trap (p : BitVec 3) (i : BitVec 1) (c : BitVec 16) : Statement (.trap p i c) := by
  intro w h; cases h
  have hm : (0x7#7 ++ p ++ i ++ 0x0#5 ++ c : BitVec 32) &&& 0xfe1f0000 = 0xe000000 := by
    rw [show (0xfe1f0000 : BitVec 32) = 0x7f#7 ++ 0x0#3 ++ 0x0#1 ++ 0x1f#5 ++ 0x0#16 from rfl]
    simp only [BitVec.and_append, BitVec.and_zero]; rfl
  have ho : ((0x7#7 ++ p ++ i ++ 0x0#5 ++ c : BitVec 32).extractLsb' 25 7).toNat = 0x7 := by
    simp (disch := decide) only [cut_hi, cut_lo, cut_all]; rfl
  have hr : ∀ w : BitVec 32, (w.extractLsb' 25 7).toNat = 0x7 → decodeRaw w = (row w 0xFE1F0000 0x0E000000 (.trap (w.extractLsb' 22 3) (w.extractLsb' 21 1) (w.extractLsb' 0 16))) := by
    intro w h; unfold decodeRaw; rw [h]; rfl
  rw [hr _ ho]
  simp (disch := decide) only [row, hm, cut_hi, cut_lo, cut_all, if_true, if_false, Nat.reduceSub] <;> rfl
theorem mset (s : BitVec 7) (v : BitVec 17) : Statement (.mset s v) := by
  intro w h; cases h
  have hm : (0x8#7 ++ s ++ 0x0#1 ++ v : BitVec 32) &&& 0xfe020000 = 0x10000000 := by
    rw [show (0xfe020000 : BitVec 32) = 0x7f#7 ++ 0x0#7 ++ 0x1#1 ++ 0x0#17 from rfl]
    simp only [BitVec.and_append, BitVec.and_zero]; rfl
  have ho : ((0x8#7 ++ s ++ 0x0#1 ++ v : BitVec 32).extractLsb' 25 7).toNat = 0x8 := by
    simp (disch := decide) only [cut_hi, cut_lo, cut_all]; rfl
  have hr : ∀ w : BitVec 32, (w.extractLsb' 25 7).toNat = 0x8 → decodeRaw w = (row w 0xFE020000 0x10000000 (.mset (w.extractLsb' 18 7) (w.extractLsb' 0 17)) <|> row w 0xFE03FFC0 0x10020000 (.msetReg (w.extractLsb' 18 7) (w.extractLsb' 0 6))) := by
    intro w h; unfold decodeRaw; rw [h]; rfl
  rw [hr _ ho]
  simp (disch := decide) only [row, hm, cut_hi, cut_lo, cut_all, if_true, if_false, Nat.reduceSub] <;> rfl
theorem msetReg (s : BitVec 7) (r : BitVec 6) : Statement (.msetReg s r) := by
  intro w h; cases h
  have hm : (0x8#7 ++ s ++ 0x800#12 ++ r : BitVec 32) &&& 0xfe03ffc0 = 0x10020000 := by
    rw [show (0xfe03ffc0 : BitVec 32) = 0x7f#7 ++ 0x0#7 ++ 0xfff#12 ++ 0x0#6 from rfl]
    simp only [BitVec.and_append, BitVec.and_zero]; rfl
  have h0 : ¬ (0x8#7 ++ s ++ 0x800#12 ++ r : BitVec 32) &&& 0xfe020000 = 0x10000000 := differs _ _ _ 17 (by simp only [BitVec.getLsbD_and, BitVec.getLsbD_append, Nat.reduceLT, Nat.reduceSub, if_true, if_false]; decide)
  have ho : ((0x8#7 ++ s ++ 0x800#12 ++ r : BitVec 32).extractLsb' 25 7).toNat = 0x8 := by
    simp (disch := decide) only [cut_hi, cut_lo, cut_all]; rfl
  have hr : ∀ w : BitVec 32, (w.extractLsb' 25 7).toNat = 0x8 → decodeRaw w = (row w 0xFE020000 0x10000000 (.mset (w.extractLsb' 18 7) (w.extractLsb' 0 17)) <|> row w 0xFE03FFC0 0x10020000 (.msetReg (w.extractLsb' 18 7) (w.extractLsb' 0 6))) := by
    intro w h; unfold decodeRaw; rw [h]; rfl
  rw [hr _ ho]
  simp (disch := decide) only [row, hm, h0, cut_hi, cut_lo, cut_all, if_true, if_false, Nat.reduceSub] <;> rfl
theorem mget (d : BitVec 7) (s : BitVec 9) : Statement (.mget d s) := by
  intro w h; cases h
  have hm : (0x9#7 ++ d ++ 0x0#9 ++ s : BitVec 32) &&& 0xfe03fe00 = 0x12000000 := by
    rw [show (0xfe03fe00 : BitVec 32) = 0x7f#7 ++ 0x0#7 ++ 0x1ff#9 ++ 0x0#9 from rfl]
    simp only [BitVec.and_append, BitVec.and_zero]; rfl
  have ho : ((0x9#7 ++ d ++ 0x0#9 ++ s : BitVec 32).extractLsb' 25 7).toNat = 0x9 := by
    simp (disch := decide) only [cut_hi, cut_lo, cut_all]; rfl
  have hr : ∀ w : BitVec 32, (w.extractLsb' 25 7).toNat = 0x9 → decodeRaw w = (row w 0xFE03FE00 0x12000000 (.mget (w.extractLsb' 18 7) (w.extractLsb' 0 9))) := by
    intro w h; unfold decodeRaw; rw [h]; rfl
  rw [hr _ ho]
  simp (disch := decide) only [row, hm, cut_hi, cut_lo, cut_all, if_true, if_false, Nat.reduceSub] <;> rfl
theorem sli (d : BitVec 7) (i : BitVec 18) : Statement (.sli d i) := by
  intro w h; cases h
  have hm : (0xA#7 ++ d ++ i : BitVec 32) &&& 0xfe000000 = 0x14000000 := by
    rw [show (0xfe000000 : BitVec 32) = 0x7f#7 ++ 0x0#7 ++ 0x0#18 from rfl]
    simp only [BitVec.and_append, BitVec.and_zero]; rfl
  have ho : ((0xA#7 ++ d ++ i : BitVec 32).extractLsb' 25 7).toNat = 0xa := by
    simp (disch := decide) only [cut_hi, cut_lo, cut_all]; rfl
  have hr : ∀ w : BitVec 32, (w.extractLsb' 25 7).toNat = 0xa → decodeRaw w = (row w 0xFE000000 0x14000000 (.sli (w.extractLsb' 18 7) (w.extractLsb' 0 18))) := by
    intro w h; unfold decodeRaw; rw [h]; rfl
  rw [hr _ ho]
  simp (disch := decide) only [row, hm, cut_hi, cut_lo, cut_all, if_true, if_false, Nat.reduceSub] <;> rfl
theorem slih (d : BitVec 7) (i : BitVec 18) : Statement (.slih d i) := by
  intro w h; cases h
  have hm : (0xB#7 ++ d ++ i : BitVec 32) &&& 0xfe000000 = 0x16000000 := by
    rw [show (0xfe000000 : BitVec 32) = 0x7f#7 ++ 0x0#7 ++ 0x0#18 from rfl]
    simp only [BitVec.and_append, BitVec.and_zero]; rfl
  have ho : ((0xB#7 ++ d ++ i : BitVec 32).extractLsb' 25 7).toNat = 0xb := by
    simp (disch := decide) only [cut_hi, cut_lo, cut_all]; rfl
  have hr : ∀ w : BitVec 32, (w.extractLsb' 25 7).toNat = 0xb → decodeRaw w = (row w 0xFE000000 0x16000000 (.slih (w.extractLsb' 18 7) (w.extractLsb' 0 18))) := by
    intro w h; unfold decodeRaw; rw [h]; rfl
  rw [hr _ ho]
  simp (disch := decide) only [row, hm, cut_hi, cut_lo, cut_all, if_true, if_false, Nat.reduceSub] <;> rfl
theorem pset (p : BitVec 3) (v : BitVec 1) : Statement (.pset p v) := by
  intro w h; cases h
  have hm : (0xC0#11 ++ p ++ 0x0#17 ++ v : BitVec 32) &&& 0xffe3fffe = 0x18000000 := by
    rw [show (0xffe3fffe : BitVec 32) = 0x7ff#11 ++ 0x0#3 ++ 0x1ffff#17 ++ 0x0#1 from rfl]
    simp only [BitVec.and_append, BitVec.and_zero]; rfl
  have ho : ((0xC0#11 ++ p ++ 0x0#17 ++ v : BitVec 32).extractLsb' 25 7).toNat = 0xc := by
    simp (disch := decide) only [cut_hi, cut_lo, cut_all]; rfl
  have hr : ∀ w : BitVec 32, (w.extractLsb' 25 7).toNat = 0xc → decodeRaw w = (row w 0xFFE3FFFE 0x18000000 (.pset (w.extractLsb' 18 3) (w.extractLsb' 0 1)) <|> row w 0xFFE3FFC0 0x18010000 (.psetS (w.extractLsb' 18 3) (w.extractLsb' 0 6)) <|> row w 0xFFE3FF80 0x18020000 (.psetLt (w.extractLsb' 18 3) (w.extractLsb' 0 7))) := by
    intro w h; unfold decodeRaw; rw [h]; rfl
  rw [hr _ ho]
  simp (disch := decide) only [row, hm, cut_hi, cut_lo, cut_all, if_true, if_false, Nat.reduceSub] <;> rfl
theorem psetS (p : BitVec 3) (s : BitVec 6) : Statement (.psetS p s) := by
  intro w h; cases h
  have hm : (0xC0#11 ++ p ++ 0x400#12 ++ s : BitVec 32) &&& 0xffe3ffc0 = 0x18010000 := by
    rw [show (0xffe3ffc0 : BitVec 32) = 0x7ff#11 ++ 0x0#3 ++ 0xfff#12 ++ 0x0#6 from rfl]
    simp only [BitVec.and_append, BitVec.and_zero]; rfl
  have h0 : ¬ (0xC0#11 ++ p ++ 0x400#12 ++ s : BitVec 32) &&& 0xffe3fffe = 0x18000000 := differs _ _ _ 16 (by simp only [BitVec.getLsbD_and, BitVec.getLsbD_append, Nat.reduceLT, Nat.reduceSub, if_true, if_false]; decide)
  have ho : ((0xC0#11 ++ p ++ 0x400#12 ++ s : BitVec 32).extractLsb' 25 7).toNat = 0xc := by
    simp (disch := decide) only [cut_hi, cut_lo, cut_all]; rfl
  have hr : ∀ w : BitVec 32, (w.extractLsb' 25 7).toNat = 0xc → decodeRaw w = (row w 0xFFE3FFFE 0x18000000 (.pset (w.extractLsb' 18 3) (w.extractLsb' 0 1)) <|> row w 0xFFE3FFC0 0x18010000 (.psetS (w.extractLsb' 18 3) (w.extractLsb' 0 6)) <|> row w 0xFFE3FF80 0x18020000 (.psetLt (w.extractLsb' 18 3) (w.extractLsb' 0 7))) := by
    intro w h; unfold decodeRaw; rw [h]; rfl
  rw [hr _ ho]
  simp (disch := decide) only [row, hm, h0, cut_hi, cut_lo, cut_all, if_true, if_false, Nat.reduceSub] <;> rfl
theorem psetLt (p : BitVec 3) (b : BitVec 7) : Statement (.psetLt p b) := by
  intro w h; cases h
  have hm : (0xC0#11 ++ p ++ 0x400#11 ++ b : BitVec 32) &&& 0xffe3ff80 = 0x18020000 := by
    rw [show (0xffe3ff80 : BitVec 32) = 0x7ff#11 ++ 0x0#3 ++ 0x7ff#11 ++ 0x0#7 from rfl]
    simp only [BitVec.and_append, BitVec.and_zero]; rfl
  have h0 : ¬ (0xC0#11 ++ p ++ 0x400#11 ++ b : BitVec 32) &&& 0xffe3fffe = 0x18000000 := differs _ _ _ 17 (by simp only [BitVec.getLsbD_and, BitVec.getLsbD_append, Nat.reduceLT, Nat.reduceSub, if_true, if_false]; decide)
  have h1 : ¬ (0xC0#11 ++ p ++ 0x400#11 ++ b : BitVec 32) &&& 0xffe3ffc0 = 0x18010000 := differs _ _ _ 17 (by simp only [BitVec.getLsbD_and, BitVec.getLsbD_append, Nat.reduceLT, Nat.reduceSub, if_true, if_false]; decide)
  have ho : ((0xC0#11 ++ p ++ 0x400#11 ++ b : BitVec 32).extractLsb' 25 7).toNat = 0xc := by
    simp (disch := decide) only [cut_hi, cut_lo, cut_all]; rfl
  have hr : ∀ w : BitVec 32, (w.extractLsb' 25 7).toNat = 0xc → decodeRaw w = (row w 0xFFE3FFFE 0x18000000 (.pset (w.extractLsb' 18 3) (w.extractLsb' 0 1)) <|> row w 0xFFE3FFC0 0x18010000 (.psetS (w.extractLsb' 18 3) (w.extractLsb' 0 6)) <|> row w 0xFFE3FF80 0x18020000 (.psetLt (w.extractLsb' 18 3) (w.extractLsb' 0 7))) := by
    intro w h; unfold decodeRaw; rw [h]; rfl
  rw [hr _ ho]
  simp (disch := decide) only [row, hm, h0, h1, cut_hi, cut_lo, cut_all, if_true, if_false, Nat.reduceSub] <;> rfl
theorem pmov (d : BitVec 3) (i : BitVec 1) (a : BitVec 3) (j : BitVec 1) (b : BitVec 3) (s : BitVec 9) : Statement (.pmov d i a j b s) := by
  intro w h; cases h
  have hm : (0xD0#11 ++ d ++ i ++ a ++ j ++ b ++ 0x0#1 ++ s : BitVec 32) &&& 0xffe00200 = 0x1a000000 := by
    rw [show (0xffe00200 : BitVec 32) = 0x7ff#11 ++ 0x0#3 ++ 0x0#1 ++ 0x0#3 ++ 0x0#1 ++ 0x0#3 ++ 0x1#1 ++ 0x0#9 from rfl]
    simp only [BitVec.and_append, BitVec.and_zero]; rfl
  have ho : ((0xD0#11 ++ d ++ i ++ a ++ j ++ b ++ 0x0#1 ++ s : BitVec 32).extractLsb' 25 7).toNat = 0xd := by
    simp (disch := decide) only [cut_hi, cut_lo, cut_all]; rfl
  have hr : ∀ w : BitVec 32, (w.extractLsb' 25 7).toNat = 0xd → decodeRaw w = (row w 0xFFE00200 0x1A000000 (.pmov (w.extractLsb' 18 3) (w.extractLsb' 17 1) (w.extractLsb' 14 3) (w.extractLsb' 13 1) (w.extractLsb' 10 3) (w.extractLsb' 0 9))) := by
    intro w h; unfold decodeRaw; rw [h]; rfl
  rw [hr _ ho]
  simp (disch := decide) only [row, hm, cut_hi, cut_lo, cut_all, if_true, if_false, Nat.reduceSub] <;> rfl
theorem vwset (v : BitVec 2) (s : BitVec 6) : Statement (.vwset v s) := by
  intro w h; cases h
  have hm : (0x1C0#12 ++ v ++ 0x0#12 ++ s : BitVec 32) &&& 0xfff3ffc0 = 0x1c000000 := by
    rw [show (0xfff3ffc0 : BitVec 32) = 0xfff#12 ++ 0x0#2 ++ 0xfff#12 ++ 0x0#6 from rfl]
    simp only [BitVec.and_append, BitVec.and_zero]; rfl
  have ho : ((0x1C0#12 ++ v ++ 0x0#12 ++ s : BitVec 32).extractLsb' 25 7).toNat = 0xe := by
    simp (disch := decide) only [cut_hi, cut_lo, cut_all]; rfl
  have hr : ∀ w : BitVec 32, (w.extractLsb' 25 7).toNat = 0xe → decodeRaw w = (row w 0xFFF3FFC0 0x1C000000 (.vwset (w.extractLsb' 18 2) (w.extractLsb' 0 6))) := by
    intro w h; unfold decodeRaw; rw [h]; rfl
  rw [hr _ ho]
  simp (disch := decide) only [row, hm, cut_hi, cut_lo, cut_all, if_true, if_false, Nat.reduceSub] <;> rfl
theorem sysr (d : BitVec 7) (s : BitVec 3) (c : BitVec 9) : Statement (.sysr d s c) := by
  intro w h; cases h
  have hm : (0xF#7 ++ d ++ 0x0#6 ++ s ++ c : BitVec 32) &&& 0xfe03f000 = 0x1e000000 := by
    rw [show (0xfe03f000 : BitVec 32) = 0x7f#7 ++ 0x0#7 ++ 0x3f#6 ++ 0x0#3 ++ 0x0#9 from rfl]
    simp only [BitVec.and_append, BitVec.and_zero]; rfl
  have ho : ((0xF#7 ++ d ++ 0x0#6 ++ s ++ c : BitVec 32).extractLsb' 25 7).toNat = 0xf := by
    simp (disch := decide) only [cut_hi, cut_lo, cut_all]; rfl
  have hr : ∀ w : BitVec 32, (w.extractLsb' 25 7).toNat = 0xf → decodeRaw w = (row w 0xFE03F000 0x1E000000 (.sysr (w.extractLsb' 18 7) (w.extractLsb' 9 3) (w.extractLsb' 0 9))) := by
    intro w h; unfold decodeRaw; rw [h]; rfl
  rw [hr _ ho]
  simp (disch := decide) only [row, hm, cut_hi, cut_lo, cut_all, if_true, if_false, Nat.reduceSub] <;> rfl
theorem sadd (d : BitVec 7) (a : BitVec 7) (b : BitVec 7) : Statement (.sadd d a b) := by
  intro w h; cases h
  have hm : (0x10#7 ++ d ++ 0x0#2 ++ a ++ 0x0#2 ++ b : BitVec 32) &&& 0xfe030180 = 0x20000000 := by
    rw [show (0xfe030180 : BitVec 32) = 0x7f#7 ++ 0x0#7 ++ 0x3#2 ++ 0x0#7 ++ 0x3#2 ++ 0x0#7 from rfl]
    simp only [BitVec.and_append, BitVec.and_zero]; rfl
  have ho : ((0x10#7 ++ d ++ 0x0#2 ++ a ++ 0x0#2 ++ b : BitVec 32).extractLsb' 25 7).toNat = 0x10 := by
    simp (disch := decide) only [cut_hi, cut_lo, cut_all]; rfl
  have hr : ∀ w : BitVec 32, (w.extractLsb' 25 7).toNat = 0x10 → decodeRaw w = (row w 0xFE030180 0x20000000 (.sadd (w.extractLsb' 18 7) (w.extractLsb' 9 7) (w.extractLsb' 0 7))) := by
    intro w h; unfold decodeRaw; rw [h]; rfl
  rw [hr _ ho]
  simp (disch := decide) only [row, hm, cut_hi, cut_lo, cut_all, if_true, if_false, Nat.reduceSub] <;> rfl
theorem ssub (d : BitVec 7) (a : BitVec 7) (b : BitVec 7) : Statement (.ssub d a b) := by
  intro w h; cases h
  have hm : (0x11#7 ++ d ++ 0x0#2 ++ a ++ 0x0#2 ++ b : BitVec 32) &&& 0xfe030180 = 0x22000000 := by
    rw [show (0xfe030180 : BitVec 32) = 0x7f#7 ++ 0x0#7 ++ 0x3#2 ++ 0x0#7 ++ 0x3#2 ++ 0x0#7 from rfl]
    simp only [BitVec.and_append, BitVec.and_zero]; rfl
  have ho : ((0x11#7 ++ d ++ 0x0#2 ++ a ++ 0x0#2 ++ b : BitVec 32).extractLsb' 25 7).toNat = 0x11 := by
    simp (disch := decide) only [cut_hi, cut_lo, cut_all]; rfl
  have hr : ∀ w : BitVec 32, (w.extractLsb' 25 7).toNat = 0x11 → decodeRaw w = (row w 0xFE030180 0x22000000 (.ssub (w.extractLsb' 18 7) (w.extractLsb' 9 7) (w.extractLsb' 0 7))) := by
    intro w h; unfold decodeRaw; rw [h]; rfl
  rw [hr _ ho]
  simp (disch := decide) only [row, hm, cut_hi, cut_lo, cut_all, if_true, if_false, Nat.reduceSub] <;> rfl
theorem smul (d : BitVec 7) (a : BitVec 7) (b : BitVec 7) : Statement (.smul d a b) := by
  intro w h; cases h
  have hm : (0x12#7 ++ d ++ 0x0#2 ++ a ++ 0x0#2 ++ b : BitVec 32) &&& 0xfe030180 = 0x24000000 := by
    rw [show (0xfe030180 : BitVec 32) = 0x7f#7 ++ 0x0#7 ++ 0x3#2 ++ 0x0#7 ++ 0x3#2 ++ 0x0#7 from rfl]
    simp only [BitVec.and_append, BitVec.and_zero]; rfl
  have ho : ((0x12#7 ++ d ++ 0x0#2 ++ a ++ 0x0#2 ++ b : BitVec 32).extractLsb' 25 7).toNat = 0x12 := by
    simp (disch := decide) only [cut_hi, cut_lo, cut_all]; rfl
  have hr : ∀ w : BitVec 32, (w.extractLsb' 25 7).toNat = 0x12 → decodeRaw w = (row w 0xFE030180 0x24000000 (.smul (w.extractLsb' 18 7) (w.extractLsb' 9 7) (w.extractLsb' 0 7))) := by
    intro w h; unfold decodeRaw; rw [h]; rfl
  rw [hr _ ho]
  simp (disch := decide) only [row, hm, cut_hi, cut_lo, cut_all, if_true, if_false, Nat.reduceSub] <;> rfl
theorem smulh (d : BitVec 7) (a : BitVec 7) (b : BitVec 7) : Statement (.smulh d a b) := by
  intro w h; cases h
  have hm : (0x13#7 ++ d ++ 0x0#2 ++ a ++ 0x0#2 ++ b : BitVec 32) &&& 0xfe030180 = 0x26000000 := by
    rw [show (0xfe030180 : BitVec 32) = 0x7f#7 ++ 0x0#7 ++ 0x3#2 ++ 0x0#7 ++ 0x3#2 ++ 0x0#7 from rfl]
    simp only [BitVec.and_append, BitVec.and_zero]; rfl
  have ho : ((0x13#7 ++ d ++ 0x0#2 ++ a ++ 0x0#2 ++ b : BitVec 32).extractLsb' 25 7).toNat = 0x13 := by
    simp (disch := decide) only [cut_hi, cut_lo, cut_all]; rfl
  have hr : ∀ w : BitVec 32, (w.extractLsb' 25 7).toNat = 0x13 → decodeRaw w = (row w 0xFE030180 0x26000000 (.smulh (w.extractLsb' 18 7) (w.extractLsb' 9 7) (w.extractLsb' 0 7))) := by
    intro w h; unfold decodeRaw; rw [h]; rfl
  rw [hr _ ho]
  simp (disch := decide) only [row, hm, cut_hi, cut_lo, cut_all, if_true, if_false, Nat.reduceSub] <;> rfl
theorem smad (d : BitVec 7) (a : BitVec 7) (b : BitVec 7) : Statement (.smad d a b) := by
  intro w h; cases h
  have hm : (0x14#7 ++ d ++ 0x0#2 ++ a ++ 0x0#2 ++ b : BitVec 32) &&& 0xfe030180 = 0x28000000 := by
    rw [show (0xfe030180 : BitVec 32) = 0x7f#7 ++ 0x0#7 ++ 0x3#2 ++ 0x0#7 ++ 0x3#2 ++ 0x0#7 from rfl]
    simp only [BitVec.and_append, BitVec.and_zero]; rfl
  have ho : ((0x14#7 ++ d ++ 0x0#2 ++ a ++ 0x0#2 ++ b : BitVec 32).extractLsb' 25 7).toNat = 0x14 := by
    simp (disch := decide) only [cut_hi, cut_lo, cut_all]; rfl
  have hr : ∀ w : BitVec 32, (w.extractLsb' 25 7).toNat = 0x14 → decodeRaw w = (row w 0xFE030180 0x28000000 (.smad (w.extractLsb' 18 7) (w.extractLsb' 9 7) (w.extractLsb' 0 7))) := by
    intro w h; unfold decodeRaw; rw [h]; rfl
  rw [hr _ ho]
  simp (disch := decide) only [row, hm, cut_hi, cut_lo, cut_all, if_true, if_false, Nat.reduceSub] <;> rfl
theorem sand (d : BitVec 7) (a : BitVec 7) (b : BitVec 7) : Statement (.sand d a b) := by
  intro w h; cases h
  have hm : (0x15#7 ++ d ++ 0x0#2 ++ a ++ 0x0#2 ++ b : BitVec 32) &&& 0xfe030180 = 0x2a000000 := by
    rw [show (0xfe030180 : BitVec 32) = 0x7f#7 ++ 0x0#7 ++ 0x3#2 ++ 0x0#7 ++ 0x3#2 ++ 0x0#7 from rfl]
    simp only [BitVec.and_append, BitVec.and_zero]; rfl
  have ho : ((0x15#7 ++ d ++ 0x0#2 ++ a ++ 0x0#2 ++ b : BitVec 32).extractLsb' 25 7).toNat = 0x15 := by
    simp (disch := decide) only [cut_hi, cut_lo, cut_all]; rfl
  have hr : ∀ w : BitVec 32, (w.extractLsb' 25 7).toNat = 0x15 → decodeRaw w = (row w 0xFE030180 0x2A000000 (.sand (w.extractLsb' 18 7) (w.extractLsb' 9 7) (w.extractLsb' 0 7))) := by
    intro w h; unfold decodeRaw; rw [h]; rfl
  rw [hr _ ho]
  simp (disch := decide) only [row, hm, cut_hi, cut_lo, cut_all, if_true, if_false, Nat.reduceSub] <;> rfl
theorem sor (d : BitVec 7) (a : BitVec 7) (b : BitVec 7) : Statement (.sor d a b) := by
  intro w h; cases h
  have hm : (0x16#7 ++ d ++ 0x0#2 ++ a ++ 0x0#2 ++ b : BitVec 32) &&& 0xfe030180 = 0x2c000000 := by
    rw [show (0xfe030180 : BitVec 32) = 0x7f#7 ++ 0x0#7 ++ 0x3#2 ++ 0x0#7 ++ 0x3#2 ++ 0x0#7 from rfl]
    simp only [BitVec.and_append, BitVec.and_zero]; rfl
  have ho : ((0x16#7 ++ d ++ 0x0#2 ++ a ++ 0x0#2 ++ b : BitVec 32).extractLsb' 25 7).toNat = 0x16 := by
    simp (disch := decide) only [cut_hi, cut_lo, cut_all]; rfl
  have hr : ∀ w : BitVec 32, (w.extractLsb' 25 7).toNat = 0x16 → decodeRaw w = (row w 0xFE030180 0x2C000000 (.sor (w.extractLsb' 18 7) (w.extractLsb' 9 7) (w.extractLsb' 0 7))) := by
    intro w h; unfold decodeRaw; rw [h]; rfl
  rw [hr _ ho]
  simp (disch := decide) only [row, hm, cut_hi, cut_lo, cut_all, if_true, if_false, Nat.reduceSub] <;> rfl
theorem sxor (d : BitVec 7) (a : BitVec 7) (b : BitVec 7) : Statement (.sxor d a b) := by
  intro w h; cases h
  have hm : (0x17#7 ++ d ++ 0x0#2 ++ a ++ 0x0#2 ++ b : BitVec 32) &&& 0xfe030180 = 0x2e000000 := by
    rw [show (0xfe030180 : BitVec 32) = 0x7f#7 ++ 0x0#7 ++ 0x3#2 ++ 0x0#7 ++ 0x3#2 ++ 0x0#7 from rfl]
    simp only [BitVec.and_append, BitVec.and_zero]; rfl
  have ho : ((0x17#7 ++ d ++ 0x0#2 ++ a ++ 0x0#2 ++ b : BitVec 32).extractLsb' 25 7).toNat = 0x17 := by
    simp (disch := decide) only [cut_hi, cut_lo, cut_all]; rfl
  have hr : ∀ w : BitVec 32, (w.extractLsb' 25 7).toNat = 0x17 → decodeRaw w = (row w 0xFE030180 0x2E000000 (.sxor (w.extractLsb' 18 7) (w.extractLsb' 9 7) (w.extractLsb' 0 7))) := by
    intro w h; unfold decodeRaw; rw [h]; rfl
  rw [hr _ ho]
  simp (disch := decide) only [row, hm, cut_hi, cut_lo, cut_all, if_true, if_false, Nat.reduceSub] <;> rfl
theorem sshl (d : BitVec 7) (a : BitVec 7) (b : BitVec 7) : Statement (.sshl d a b) := by
  intro w h; cases h
  have hm : (0x18#7 ++ d ++ 0x0#2 ++ a ++ 0x0#2 ++ b : BitVec 32) &&& 0xfe030180 = 0x30000000 := by
    rw [show (0xfe030180 : BitVec 32) = 0x7f#7 ++ 0x0#7 ++ 0x3#2 ++ 0x0#7 ++ 0x3#2 ++ 0x0#7 from rfl]
    simp only [BitVec.and_append, BitVec.and_zero]; rfl
  have ho : ((0x18#7 ++ d ++ 0x0#2 ++ a ++ 0x0#2 ++ b : BitVec 32).extractLsb' 25 7).toNat = 0x18 := by
    simp (disch := decide) only [cut_hi, cut_lo, cut_all]; rfl
  have hr : ∀ w : BitVec 32, (w.extractLsb' 25 7).toNat = 0x18 → decodeRaw w = (row w 0xFE030180 0x30000000 (.sshl (w.extractLsb' 18 7) (w.extractLsb' 9 7) (w.extractLsb' 0 7))) := by
    intro w h; unfold decodeRaw; rw [h]; rfl
  rw [hr _ ho]
  simp (disch := decide) only [row, hm, cut_hi, cut_lo, cut_all, if_true, if_false, Nat.reduceSub] <;> rfl
theorem sshr (d : BitVec 7) (a : BitVec 7) (b : BitVec 7) : Statement (.sshr d a b) := by
  intro w h; cases h
  have hm : (0x19#7 ++ d ++ 0x0#2 ++ a ++ 0x0#2 ++ b : BitVec 32) &&& 0xfe030180 = 0x32000000 := by
    rw [show (0xfe030180 : BitVec 32) = 0x7f#7 ++ 0x0#7 ++ 0x3#2 ++ 0x0#7 ++ 0x3#2 ++ 0x0#7 from rfl]
    simp only [BitVec.and_append, BitVec.and_zero]; rfl
  have ho : ((0x19#7 ++ d ++ 0x0#2 ++ a ++ 0x0#2 ++ b : BitVec 32).extractLsb' 25 7).toNat = 0x19 := by
    simp (disch := decide) only [cut_hi, cut_lo, cut_all]; rfl
  have hr : ∀ w : BitVec 32, (w.extractLsb' 25 7).toNat = 0x19 → decodeRaw w = (row w 0xFE030180 0x32000000 (.sshr (w.extractLsb' 18 7) (w.extractLsb' 9 7) (w.extractLsb' 0 7))) := by
    intro w h; unfold decodeRaw; rw [h]; rfl
  rw [hr _ ho]
  simp (disch := decide) only [row, hm, cut_hi, cut_lo, cut_all, if_true, if_false, Nat.reduceSub] <;> rfl
theorem ssar (d : BitVec 7) (a : BitVec 7) (b : BitVec 7) : Statement (.ssar d a b) := by
  intro w h; cases h
  have hm : (0x1A#7 ++ d ++ 0x0#2 ++ a ++ 0x0#2 ++ b : BitVec 32) &&& 0xfe030180 = 0x34000000 := by
    rw [show (0xfe030180 : BitVec 32) = 0x7f#7 ++ 0x0#7 ++ 0x3#2 ++ 0x0#7 ++ 0x3#2 ++ 0x0#7 from rfl]
    simp only [BitVec.and_append, BitVec.and_zero]; rfl
  have ho : ((0x1A#7 ++ d ++ 0x0#2 ++ a ++ 0x0#2 ++ b : BitVec 32).extractLsb' 25 7).toNat = 0x1a := by
    simp (disch := decide) only [cut_hi, cut_lo, cut_all]; rfl
  have hr : ∀ w : BitVec 32, (w.extractLsb' 25 7).toNat = 0x1a → decodeRaw w = (row w 0xFE030180 0x34000000 (.ssar (w.extractLsb' 18 7) (w.extractLsb' 9 7) (w.extractLsb' 0 7))) := by
    intro w h; unfold decodeRaw; rw [h]; rfl
  rw [hr _ ho]
  simp (disch := decide) only [row, hm, cut_hi, cut_lo, cut_all, if_true, if_false, Nat.reduceSub] <;> rfl
theorem smin (d : BitVec 7) (a : BitVec 7) (b : BitVec 7) : Statement (.smin d a b) := by
  intro w h; cases h
  have hm : (0x1B#7 ++ d ++ 0x0#2 ++ a ++ 0x0#2 ++ b : BitVec 32) &&& 0xfe030180 = 0x36000000 := by
    rw [show (0xfe030180 : BitVec 32) = 0x7f#7 ++ 0x0#7 ++ 0x3#2 ++ 0x0#7 ++ 0x3#2 ++ 0x0#7 from rfl]
    simp only [BitVec.and_append, BitVec.and_zero]; rfl
  have ho : ((0x1B#7 ++ d ++ 0x0#2 ++ a ++ 0x0#2 ++ b : BitVec 32).extractLsb' 25 7).toNat = 0x1b := by
    simp (disch := decide) only [cut_hi, cut_lo, cut_all]; rfl
  have hr : ∀ w : BitVec 32, (w.extractLsb' 25 7).toNat = 0x1b → decodeRaw w = (row w 0xFE030180 0x36000000 (.smin (w.extractLsb' 18 7) (w.extractLsb' 9 7) (w.extractLsb' 0 7))) := by
    intro w h; unfold decodeRaw; rw [h]; rfl
  rw [hr _ ho]
  simp (disch := decide) only [row, hm, cut_hi, cut_lo, cut_all, if_true, if_false, Nat.reduceSub] <;> rfl
theorem smax (d : BitVec 7) (a : BitVec 7) (b : BitVec 7) : Statement (.smax d a b) := by
  intro w h; cases h
  have hm : (0x1C#7 ++ d ++ 0x0#2 ++ a ++ 0x0#2 ++ b : BitVec 32) &&& 0xfe030180 = 0x38000000 := by
    rw [show (0xfe030180 : BitVec 32) = 0x7f#7 ++ 0x0#7 ++ 0x3#2 ++ 0x0#7 ++ 0x3#2 ++ 0x0#7 from rfl]
    simp only [BitVec.and_append, BitVec.and_zero]; rfl
  have ho : ((0x1C#7 ++ d ++ 0x0#2 ++ a ++ 0x0#2 ++ b : BitVec 32).extractLsb' 25 7).toNat = 0x1c := by
    simp (disch := decide) only [cut_hi, cut_lo, cut_all]; rfl
  have hr : ∀ w : BitVec 32, (w.extractLsb' 25 7).toNat = 0x1c → decodeRaw w = (row w 0xFE030180 0x38000000 (.smax (w.extractLsb' 18 7) (w.extractLsb' 9 7) (w.extractLsb' 0 7))) := by
    intro w h; unfold decodeRaw; rw [h]; rfl
  rw [hr _ ho]
  simp (disch := decide) only [row, hm, cut_hi, cut_lo, cut_all, if_true, if_false, Nat.reduceSub] <;> rfl
theorem scmp (c : BitVec 4) (p : BitVec 3) (a : BitVec 7) (b : BitVec 7) : Statement (.scmp c p a b) := by
  intro w h; cases h
  have hm : (0x1D#7 ++ c ++ p ++ 0x0#2 ++ a ++ 0x0#2 ++ b : BitVec 32) &&& 0xfe030180 = 0x3a000000 := by
    rw [show (0xfe030180 : BitVec 32) = 0x7f#7 ++ 0x0#4 ++ 0x0#3 ++ 0x3#2 ++ 0x0#7 ++ 0x3#2 ++ 0x0#7 from rfl]
    simp only [BitVec.and_append, BitVec.and_zero]; rfl
  have ho : ((0x1D#7 ++ c ++ p ++ 0x0#2 ++ a ++ 0x0#2 ++ b : BitVec 32).extractLsb' 25 7).toNat = 0x1d := by
    simp (disch := decide) only [cut_hi, cut_lo, cut_all]; rfl
  have hr : ∀ w : BitVec 32, (w.extractLsb' 25 7).toNat = 0x1d → decodeRaw w = (row w 0xFE030180 0x3A000000 (.scmp (w.extractLsb' 21 4) (w.extractLsb' 18 3) (w.extractLsb' 9 7) (w.extractLsb' 0 7))) := by
    intro w h; unfold decodeRaw; rw [h]; rfl
  rw [hr _ ho]
  simp (disch := decide) only [row, hm, cut_hi, cut_lo, cut_all, if_true, if_false, Nat.reduceSub] <;> rfl
theorem ssel (d : BitVec 7) (a : BitVec 7) (b : BitVec 7) : Statement (.ssel d a b) := by
  intro w h; cases h
  have hm : (0x1E#7 ++ d ++ 0x0#2 ++ a ++ 0x0#2 ++ b : BitVec 32) &&& 0xfe030180 = 0x3c000000 := by
    rw [show (0xfe030180 : BitVec 32) = 0x7f#7 ++ 0x0#7 ++ 0x3#2 ++ 0x0#7 ++ 0x3#2 ++ 0x0#7 from rfl]
    simp only [BitVec.and_append, BitVec.and_zero]; rfl
  have ho : ((0x1E#7 ++ d ++ 0x0#2 ++ a ++ 0x0#2 ++ b : BitVec 32).extractLsb' 25 7).toNat = 0x1e := by
    simp (disch := decide) only [cut_hi, cut_lo, cut_all]; rfl
  have hr : ∀ w : BitVec 32, (w.extractLsb' 25 7).toNat = 0x1e → decodeRaw w = (row w 0xFE030180 0x3C000000 (.ssel (w.extractLsb' 18 7) (w.extractLsb' 9 7) (w.extractLsb' 0 7))) := by
    intro w h; unfold decodeRaw; rw [h]; rfl
  rw [hr _ ho]
  simp (disch := decide) only [row, hm, cut_hi, cut_lo, cut_all, if_true, if_false, Nat.reduceSub] <;> rfl
theorem sbit (d : BitVec 7) (s : BitVec 7) (f : BitVec 9) : Statement (.sbit d s f) := by
  intro w h; cases h
  have hm : (0x1F#7 ++ d ++ 0x0#2 ++ s ++ f : BitVec 32) &&& 0xfe030000 = 0x3e000000 := by
    rw [show (0xfe030000 : BitVec 32) = 0x7f#7 ++ 0x0#7 ++ 0x3#2 ++ 0x0#7 ++ 0x0#9 from rfl]
    simp only [BitVec.and_append, BitVec.and_zero]; rfl
  have ho : ((0x1F#7 ++ d ++ 0x0#2 ++ s ++ f : BitVec 32).extractLsb' 25 7).toNat = 0x1f := by
    simp (disch := decide) only [cut_hi, cut_lo, cut_all]; rfl
  have hr : ∀ w : BitVec 32, (w.extractLsb' 25 7).toNat = 0x1f → decodeRaw w = (row w 0xFE030000 0x3E000000 (.sbit (w.extractLsb' 18 7) (w.extractLsb' 9 7) (w.extractLsb' 0 9))) := by
    intro w h; unfold decodeRaw; rw [h]; rfl
  rw [hr _ ho]
  simp (disch := decide) only [row, hm, cut_hi, cut_lo, cut_all, if_true, if_false, Nat.reduceSub] <;> rfl
theorem add (d : BitVec 7) (i : BitVec 2) (a : BitVec 7) (j : BitVec 2) (b : BitVec 7) : Statement (.add d i a j b) := by
  intro w h; cases h
  have hm : (0x20#7 ++ d ++ i ++ a ++ j ++ b : BitVec 32) &&& 0xfe000000 = 0x40000000 := by
    rw [show (0xfe000000 : BitVec 32) = 0x7f#7 ++ 0x0#7 ++ 0x0#2 ++ 0x0#7 ++ 0x0#2 ++ 0x0#7 from rfl]
    simp only [BitVec.and_append, BitVec.and_zero]; rfl
  have ho : ((0x20#7 ++ d ++ i ++ a ++ j ++ b : BitVec 32).extractLsb' 25 7).toNat = 0x20 := by
    simp (disch := decide) only [cut_hi, cut_lo, cut_all]; rfl
  have hr : ∀ w : BitVec 32, (w.extractLsb' 25 7).toNat = 0x20 → decodeRaw w = (row w 0xFE000000 0x40000000 (.add (w.extractLsb' 18 7) (w.extractLsb' 16 2) (w.extractLsb' 9 7) (w.extractLsb' 7 2) (w.extractLsb' 0 7))) := by
    intro w h; unfold decodeRaw; rw [h]; rfl
  rw [hr _ ho]
  simp (disch := decide) only [row, hm, cut_hi, cut_lo, cut_all, if_true, if_false, Nat.reduceSub] <;> rfl
theorem sub (d : BitVec 7) (i : BitVec 2) (a : BitVec 7) (j : BitVec 2) (b : BitVec 7) : Statement (.sub d i a j b) := by
  intro w h; cases h
  have hm : (0x21#7 ++ d ++ i ++ a ++ j ++ b : BitVec 32) &&& 0xfe000000 = 0x42000000 := by
    rw [show (0xfe000000 : BitVec 32) = 0x7f#7 ++ 0x0#7 ++ 0x0#2 ++ 0x0#7 ++ 0x0#2 ++ 0x0#7 from rfl]
    simp only [BitVec.and_append, BitVec.and_zero]; rfl
  have ho : ((0x21#7 ++ d ++ i ++ a ++ j ++ b : BitVec 32).extractLsb' 25 7).toNat = 0x21 := by
    simp (disch := decide) only [cut_hi, cut_lo, cut_all]; rfl
  have hr : ∀ w : BitVec 32, (w.extractLsb' 25 7).toNat = 0x21 → decodeRaw w = (row w 0xFE000000 0x42000000 (.sub (w.extractLsb' 18 7) (w.extractLsb' 16 2) (w.extractLsb' 9 7) (w.extractLsb' 7 2) (w.extractLsb' 0 7))) := by
    intro w h; unfold decodeRaw; rw [h]; rfl
  rw [hr _ ho]
  simp (disch := decide) only [row, hm, cut_hi, cut_lo, cut_all, if_true, if_false, Nat.reduceSub] <;> rfl
theorem mul (d : BitVec 7) (i : BitVec 2) (a : BitVec 7) (j : BitVec 2) (b : BitVec 7) : Statement (.mul d i a j b) := by
  intro w h; cases h
  have hm : (0x22#7 ++ d ++ i ++ a ++ j ++ b : BitVec 32) &&& 0xfe000000 = 0x44000000 := by
    rw [show (0xfe000000 : BitVec 32) = 0x7f#7 ++ 0x0#7 ++ 0x0#2 ++ 0x0#7 ++ 0x0#2 ++ 0x0#7 from rfl]
    simp only [BitVec.and_append, BitVec.and_zero]; rfl
  have ho : ((0x22#7 ++ d ++ i ++ a ++ j ++ b : BitVec 32).extractLsb' 25 7).toNat = 0x22 := by
    simp (disch := decide) only [cut_hi, cut_lo, cut_all]; rfl
  have hr : ∀ w : BitVec 32, (w.extractLsb' 25 7).toNat = 0x22 → decodeRaw w = (row w 0xFE000000 0x44000000 (.mul (w.extractLsb' 18 7) (w.extractLsb' 16 2) (w.extractLsb' 9 7) (w.extractLsb' 7 2) (w.extractLsb' 0 7))) := by
    intro w h; unfold decodeRaw; rw [h]; rfl
  rw [hr _ ho]
  simp (disch := decide) only [row, hm, cut_hi, cut_lo, cut_all, if_true, if_false, Nat.reduceSub] <;> rfl
theorem mulh (d : BitVec 7) (i : BitVec 2) (a : BitVec 7) (j : BitVec 2) (b : BitVec 7) : Statement (.mulh d i a j b) := by
  intro w h; cases h
  have hm : (0x23#7 ++ d ++ i ++ a ++ j ++ b : BitVec 32) &&& 0xfe000000 = 0x46000000 := by
    rw [show (0xfe000000 : BitVec 32) = 0x7f#7 ++ 0x0#7 ++ 0x0#2 ++ 0x0#7 ++ 0x0#2 ++ 0x0#7 from rfl]
    simp only [BitVec.and_append, BitVec.and_zero]; rfl
  have ho : ((0x23#7 ++ d ++ i ++ a ++ j ++ b : BitVec 32).extractLsb' 25 7).toNat = 0x23 := by
    simp (disch := decide) only [cut_hi, cut_lo, cut_all]; rfl
  have hr : ∀ w : BitVec 32, (w.extractLsb' 25 7).toNat = 0x23 → decodeRaw w = (row w 0xFE000000 0x46000000 (.mulh (w.extractLsb' 18 7) (w.extractLsb' 16 2) (w.extractLsb' 9 7) (w.extractLsb' 7 2) (w.extractLsb' 0 7))) := by
    intro w h; unfold decodeRaw; rw [h]; rfl
  rw [hr _ ho]
  simp (disch := decide) only [row, hm, cut_hi, cut_lo, cut_all, if_true, if_false, Nat.reduceSub] <;> rfl
theorem mad (d : BitVec 7) (i : BitVec 2) (a : BitVec 7) (j : BitVec 2) (b : BitVec 7) : Statement (.mad d i a j b) := by
  intro w h; cases h
  have hm : (0x24#7 ++ d ++ i ++ a ++ j ++ b : BitVec 32) &&& 0xfe000000 = 0x48000000 := by
    rw [show (0xfe000000 : BitVec 32) = 0x7f#7 ++ 0x0#7 ++ 0x0#2 ++ 0x0#7 ++ 0x0#2 ++ 0x0#7 from rfl]
    simp only [BitVec.and_append, BitVec.and_zero]; rfl
  have ho : ((0x24#7 ++ d ++ i ++ a ++ j ++ b : BitVec 32).extractLsb' 25 7).toNat = 0x24 := by
    simp (disch := decide) only [cut_hi, cut_lo, cut_all]; rfl
  have hr : ∀ w : BitVec 32, (w.extractLsb' 25 7).toNat = 0x24 → decodeRaw w = (row w 0xFE000000 0x48000000 (.mad (w.extractLsb' 18 7) (w.extractLsb' 16 2) (w.extractLsb' 9 7) (w.extractLsb' 7 2) (w.extractLsb' 0 7))) := by
    intro w h; unfold decodeRaw; rw [h]; rfl
  rw [hr _ ho]
  simp (disch := decide) only [row, hm, cut_hi, cut_lo, cut_all, if_true, if_false, Nat.reduceSub] <;> rfl
theorem andB (d : BitVec 7) (i : BitVec 2) (a : BitVec 7) (j : BitVec 2) (b : BitVec 7) : Statement (.andB d i a j b) := by
  intro w h; cases h
  have hm : (0x25#7 ++ d ++ i ++ a ++ j ++ b : BitVec 32) &&& 0xfe000000 = 0x4a000000 := by
    rw [show (0xfe000000 : BitVec 32) = 0x7f#7 ++ 0x0#7 ++ 0x0#2 ++ 0x0#7 ++ 0x0#2 ++ 0x0#7 from rfl]
    simp only [BitVec.and_append, BitVec.and_zero]; rfl
  have ho : ((0x25#7 ++ d ++ i ++ a ++ j ++ b : BitVec 32).extractLsb' 25 7).toNat = 0x25 := by
    simp (disch := decide) only [cut_hi, cut_lo, cut_all]; rfl
  have hr : ∀ w : BitVec 32, (w.extractLsb' 25 7).toNat = 0x25 → decodeRaw w = (row w 0xFE000000 0x4A000000 (.andB (w.extractLsb' 18 7) (w.extractLsb' 16 2) (w.extractLsb' 9 7) (w.extractLsb' 7 2) (w.extractLsb' 0 7))) := by
    intro w h; unfold decodeRaw; rw [h]; rfl
  rw [hr _ ho]
  simp (disch := decide) only [row, hm, cut_hi, cut_lo, cut_all, if_true, if_false, Nat.reduceSub] <;> rfl
theorem orB (d : BitVec 7) (i : BitVec 2) (a : BitVec 7) (j : BitVec 2) (b : BitVec 7) : Statement (.orB d i a j b) := by
  intro w h; cases h
  have hm : (0x26#7 ++ d ++ i ++ a ++ j ++ b : BitVec 32) &&& 0xfe000000 = 0x4c000000 := by
    rw [show (0xfe000000 : BitVec 32) = 0x7f#7 ++ 0x0#7 ++ 0x0#2 ++ 0x0#7 ++ 0x0#2 ++ 0x0#7 from rfl]
    simp only [BitVec.and_append, BitVec.and_zero]; rfl
  have ho : ((0x26#7 ++ d ++ i ++ a ++ j ++ b : BitVec 32).extractLsb' 25 7).toNat = 0x26 := by
    simp (disch := decide) only [cut_hi, cut_lo, cut_all]; rfl
  have hr : ∀ w : BitVec 32, (w.extractLsb' 25 7).toNat = 0x26 → decodeRaw w = (row w 0xFE000000 0x4C000000 (.orB (w.extractLsb' 18 7) (w.extractLsb' 16 2) (w.extractLsb' 9 7) (w.extractLsb' 7 2) (w.extractLsb' 0 7))) := by
    intro w h; unfold decodeRaw; rw [h]; rfl
  rw [hr _ ho]
  simp (disch := decide) only [row, hm, cut_hi, cut_lo, cut_all, if_true, if_false, Nat.reduceSub] <;> rfl
theorem xorB (d : BitVec 7) (i : BitVec 2) (a : BitVec 7) (j : BitVec 2) (b : BitVec 7) : Statement (.xorB d i a j b) := by
  intro w h; cases h
  have hm : (0x27#7 ++ d ++ i ++ a ++ j ++ b : BitVec 32) &&& 0xfe000000 = 0x4e000000 := by
    rw [show (0xfe000000 : BitVec 32) = 0x7f#7 ++ 0x0#7 ++ 0x0#2 ++ 0x0#7 ++ 0x0#2 ++ 0x0#7 from rfl]
    simp only [BitVec.and_append, BitVec.and_zero]; rfl
  have ho : ((0x27#7 ++ d ++ i ++ a ++ j ++ b : BitVec 32).extractLsb' 25 7).toNat = 0x27 := by
    simp (disch := decide) only [cut_hi, cut_lo, cut_all]; rfl
  have hr : ∀ w : BitVec 32, (w.extractLsb' 25 7).toNat = 0x27 → decodeRaw w = (row w 0xFE000000 0x4E000000 (.xorB (w.extractLsb' 18 7) (w.extractLsb' 16 2) (w.extractLsb' 9 7) (w.extractLsb' 7 2) (w.extractLsb' 0 7))) := by
    intro w h; unfold decodeRaw; rw [h]; rfl
  rw [hr _ ho]
  simp (disch := decide) only [row, hm, cut_hi, cut_lo, cut_all, if_true, if_false, Nat.reduceSub] <;> rfl
theorem shl (d : BitVec 7) (i : BitVec 2) (a : BitVec 7) (j : BitVec 2) (b : BitVec 7) : Statement (.shl d i a j b) := by
  intro w h; cases h
  have hm : (0x28#7 ++ d ++ i ++ a ++ j ++ b : BitVec 32) &&& 0xfe000000 = 0x50000000 := by
    rw [show (0xfe000000 : BitVec 32) = 0x7f#7 ++ 0x0#7 ++ 0x0#2 ++ 0x0#7 ++ 0x0#2 ++ 0x0#7 from rfl]
    simp only [BitVec.and_append, BitVec.and_zero]; rfl
  have ho : ((0x28#7 ++ d ++ i ++ a ++ j ++ b : BitVec 32).extractLsb' 25 7).toNat = 0x28 := by
    simp (disch := decide) only [cut_hi, cut_lo, cut_all]; rfl
  have hr : ∀ w : BitVec 32, (w.extractLsb' 25 7).toNat = 0x28 → decodeRaw w = (row w 0xFE000000 0x50000000 (.shl (w.extractLsb' 18 7) (w.extractLsb' 16 2) (w.extractLsb' 9 7) (w.extractLsb' 7 2) (w.extractLsb' 0 7))) := by
    intro w h; unfold decodeRaw; rw [h]; rfl
  rw [hr _ ho]
  simp (disch := decide) only [row, hm, cut_hi, cut_lo, cut_all, if_true, if_false, Nat.reduceSub] <;> rfl
theorem shr (d : BitVec 7) (i : BitVec 2) (a : BitVec 7) (j : BitVec 2) (b : BitVec 7) : Statement (.shr d i a j b) := by
  intro w h; cases h
  have hm : (0x29#7 ++ d ++ i ++ a ++ j ++ b : BitVec 32) &&& 0xfe000000 = 0x52000000 := by
    rw [show (0xfe000000 : BitVec 32) = 0x7f#7 ++ 0x0#7 ++ 0x0#2 ++ 0x0#7 ++ 0x0#2 ++ 0x0#7 from rfl]
    simp only [BitVec.and_append, BitVec.and_zero]; rfl
  have ho : ((0x29#7 ++ d ++ i ++ a ++ j ++ b : BitVec 32).extractLsb' 25 7).toNat = 0x29 := by
    simp (disch := decide) only [cut_hi, cut_lo, cut_all]; rfl
  have hr : ∀ w : BitVec 32, (w.extractLsb' 25 7).toNat = 0x29 → decodeRaw w = (row w 0xFE000000 0x52000000 (.shr (w.extractLsb' 18 7) (w.extractLsb' 16 2) (w.extractLsb' 9 7) (w.extractLsb' 7 2) (w.extractLsb' 0 7))) := by
    intro w h; unfold decodeRaw; rw [h]; rfl
  rw [hr _ ho]
  simp (disch := decide) only [row, hm, cut_hi, cut_lo, cut_all, if_true, if_false, Nat.reduceSub] <;> rfl
theorem sar (d : BitVec 7) (i : BitVec 2) (a : BitVec 7) (j : BitVec 2) (b : BitVec 7) : Statement (.sar d i a j b) := by
  intro w h; cases h
  have hm : (0x2A#7 ++ d ++ i ++ a ++ j ++ b : BitVec 32) &&& 0xfe000000 = 0x54000000 := by
    rw [show (0xfe000000 : BitVec 32) = 0x7f#7 ++ 0x0#7 ++ 0x0#2 ++ 0x0#7 ++ 0x0#2 ++ 0x0#7 from rfl]
    simp only [BitVec.and_append, BitVec.and_zero]; rfl
  have ho : ((0x2A#7 ++ d ++ i ++ a ++ j ++ b : BitVec 32).extractLsb' 25 7).toNat = 0x2a := by
    simp (disch := decide) only [cut_hi, cut_lo, cut_all]; rfl
  have hr : ∀ w : BitVec 32, (w.extractLsb' 25 7).toNat = 0x2a → decodeRaw w = (row w 0xFE000000 0x54000000 (.sar (w.extractLsb' 18 7) (w.extractLsb' 16 2) (w.extractLsb' 9 7) (w.extractLsb' 7 2) (w.extractLsb' 0 7))) := by
    intro w h; unfold decodeRaw; rw [h]; rfl
  rw [hr _ ho]
  simp (disch := decide) only [row, hm, cut_hi, cut_lo, cut_all, if_true, if_false, Nat.reduceSub] <;> rfl
theorem minV (d : BitVec 7) (i : BitVec 2) (a : BitVec 7) (j : BitVec 2) (b : BitVec 7) : Statement (.minV d i a j b) := by
  intro w h; cases h
  have hm : (0x2B#7 ++ d ++ i ++ a ++ j ++ b : BitVec 32) &&& 0xfe000000 = 0x56000000 := by
    rw [show (0xfe000000 : BitVec 32) = 0x7f#7 ++ 0x0#7 ++ 0x0#2 ++ 0x0#7 ++ 0x0#2 ++ 0x0#7 from rfl]
    simp only [BitVec.and_append, BitVec.and_zero]; rfl
  have ho : ((0x2B#7 ++ d ++ i ++ a ++ j ++ b : BitVec 32).extractLsb' 25 7).toNat = 0x2b := by
    simp (disch := decide) only [cut_hi, cut_lo, cut_all]; rfl
  have hr : ∀ w : BitVec 32, (w.extractLsb' 25 7).toNat = 0x2b → decodeRaw w = (row w 0xFE000000 0x56000000 (.minV (w.extractLsb' 18 7) (w.extractLsb' 16 2) (w.extractLsb' 9 7) (w.extractLsb' 7 2) (w.extractLsb' 0 7))) := by
    intro w h; unfold decodeRaw; rw [h]; rfl
  rw [hr _ ho]
  simp (disch := decide) only [row, hm, cut_hi, cut_lo, cut_all, if_true, if_false, Nat.reduceSub] <;> rfl
theorem maxV (d : BitVec 7) (i : BitVec 2) (a : BitVec 7) (j : BitVec 2) (b : BitVec 7) : Statement (.maxV d i a j b) := by
  intro w h; cases h
  have hm : (0x2C#7 ++ d ++ i ++ a ++ j ++ b : BitVec 32) &&& 0xfe000000 = 0x58000000 := by
    rw [show (0xfe000000 : BitVec 32) = 0x7f#7 ++ 0x0#7 ++ 0x0#2 ++ 0x0#7 ++ 0x0#2 ++ 0x0#7 from rfl]
    simp only [BitVec.and_append, BitVec.and_zero]; rfl
  have ho : ((0x2C#7 ++ d ++ i ++ a ++ j ++ b : BitVec 32).extractLsb' 25 7).toNat = 0x2c := by
    simp (disch := decide) only [cut_hi, cut_lo, cut_all]; rfl
  have hr : ∀ w : BitVec 32, (w.extractLsb' 25 7).toNat = 0x2c → decodeRaw w = (row w 0xFE000000 0x58000000 (.maxV (w.extractLsb' 18 7) (w.extractLsb' 16 2) (w.extractLsb' 9 7) (w.extractLsb' 7 2) (w.extractLsb' 0 7))) := by
    intro w h; unfold decodeRaw; rw [h]; rfl
  rw [hr _ ho]
  simp (disch := decide) only [row, hm, cut_hi, cut_lo, cut_all, if_true, if_false, Nat.reduceSub] <;> rfl
theorem absd (d : BitVec 7) (i : BitVec 2) (a : BitVec 7) (j : BitVec 2) (b : BitVec 7) : Statement (.absd d i a j b) := by
  intro w h; cases h
  have hm : (0x2D#7 ++ d ++ i ++ a ++ j ++ b : BitVec 32) &&& 0xfe000000 = 0x5a000000 := by
    rw [show (0xfe000000 : BitVec 32) = 0x7f#7 ++ 0x0#7 ++ 0x0#2 ++ 0x0#7 ++ 0x0#2 ++ 0x0#7 from rfl]
    simp only [BitVec.and_append, BitVec.and_zero]; rfl
  have ho : ((0x2D#7 ++ d ++ i ++ a ++ j ++ b : BitVec 32).extractLsb' 25 7).toNat = 0x2d := by
    simp (disch := decide) only [cut_hi, cut_lo, cut_all]; rfl
  have hr : ∀ w : BitVec 32, (w.extractLsb' 25 7).toNat = 0x2d → decodeRaw w = (row w 0xFE000000 0x5A000000 (.absd (w.extractLsb' 18 7) (w.extractLsb' 16 2) (w.extractLsb' 9 7) (w.extractLsb' 7 2) (w.extractLsb' 0 7))) := by
    intro w h; unfold decodeRaw; rw [h]; rfl
  rw [hr _ ho]
  simp (disch := decide) only [row, hm, cut_hi, cut_lo, cut_all, if_true, if_false, Nat.reduceSub] <;> rfl
theorem addc (d : BitVec 7) (i : BitVec 2) (s : BitVec 7) (f : BitVec 9) : Statement (.addc d i s f) := by
  intro w h; cases h
  have hm : (0x2E#7 ++ d ++ i ++ s ++ f : BitVec 32) &&& 0xfe000000 = 0x5c000000 := by
    rw [show (0xfe000000 : BitVec 32) = 0x7f#7 ++ 0x0#7 ++ 0x0#2 ++ 0x0#7 ++ 0x0#9 from rfl]
    simp only [BitVec.and_append, BitVec.and_zero]; rfl
  have ho : ((0x2E#7 ++ d ++ i ++ s ++ f : BitVec 32).extractLsb' 25 7).toNat = 0x2e := by
    simp (disch := decide) only [cut_hi, cut_lo, cut_all]; rfl
  have hr : ∀ w : BitVec 32, (w.extractLsb' 25 7).toNat = 0x2e → decodeRaw w = (row w 0xFE000000 0x5C000000 (.addc (w.extractLsb' 18 7) (w.extractLsb' 16 2) (w.extractLsb' 9 7) (w.extractLsb' 0 9))) := by
    intro w h; unfold decodeRaw; rw [h]; rfl
  rw [hr _ ho]
  simp (disch := decide) only [row, hm, cut_hi, cut_lo, cut_all, if_true, if_false, Nat.reduceSub] <;> rfl
theorem bit (d : BitVec 7) (i : BitVec 2) (s : BitVec 7) (f : BitVec 9) : Statement (.bit d i s f) := by
  intro w h; cases h
  have hm : (0x2F#7 ++ d ++ i ++ s ++ f : BitVec 32) &&& 0xfe000000 = 0x5e000000 := by
    rw [show (0xfe000000 : BitVec 32) = 0x7f#7 ++ 0x0#7 ++ 0x0#2 ++ 0x0#7 ++ 0x0#9 from rfl]
    simp only [BitVec.and_append, BitVec.and_zero]; rfl
  have ho : ((0x2F#7 ++ d ++ i ++ s ++ f : BitVec 32).extractLsb' 25 7).toNat = 0x2f := by
    simp (disch := decide) only [cut_hi, cut_lo, cut_all]; rfl
  have hr : ∀ w : BitVec 32, (w.extractLsb' 25 7).toNat = 0x2f → decodeRaw w = (row w 0xFE000000 0x5E000000 (.bit (w.extractLsb' 18 7) (w.extractLsb' 16 2) (w.extractLsb' 9 7) (w.extractLsb' 0 9))) := by
    intro w h; unfold decodeRaw; rw [h]; rfl
  rw [hr _ ho]
  simp (disch := decide) only [row, hm, cut_hi, cut_lo, cut_all, if_true, if_false, Nat.reduceSub] <;> rfl
theorem cmp (c : BitVec 4) (p : BitVec 3) (i : BitVec 2) (a : BitVec 7) (j : BitVec 2) (b : BitVec 7) : Statement (.cmp c p i a j b) := by
  intro w h; cases h
  have hm : (0x30#7 ++ c ++ p ++ i ++ a ++ j ++ b : BitVec 32) &&& 0xfe000000 = 0x60000000 := by
    rw [show (0xfe000000 : BitVec 32) = 0x7f#7 ++ 0x0#4 ++ 0x0#3 ++ 0x0#2 ++ 0x0#7 ++ 0x0#2 ++ 0x0#7 from rfl]
    simp only [BitVec.and_append, BitVec.and_zero]; rfl
  have ho : ((0x30#7 ++ c ++ p ++ i ++ a ++ j ++ b : BitVec 32).extractLsb' 25 7).toNat = 0x30 := by
    simp (disch := decide) only [cut_hi, cut_lo, cut_all]; rfl
  have hr : ∀ w : BitVec 32, (w.extractLsb' 25 7).toNat = 0x30 → decodeRaw w = (row w 0xFE000000 0x60000000 (.cmp (w.extractLsb' 21 4) (w.extractLsb' 18 3) (w.extractLsb' 16 2) (w.extractLsb' 9 7) (w.extractLsb' 7 2) (w.extractLsb' 0 7))) := by
    intro w h; unfold decodeRaw; rw [h]; rfl
  rw [hr _ ho]
  simp (disch := decide) only [row, hm, cut_hi, cut_lo, cut_all, if_true, if_false, Nat.reduceSub] <;> rfl
theorem sel (d : BitVec 7) (i : BitVec 2) (a : BitVec 7) (j : BitVec 2) (b : BitVec 7) : Statement (.sel d i a j b) := by
  intro w h; cases h
  have hm : (0x31#7 ++ d ++ i ++ a ++ j ++ b : BitVec 32) &&& 0xfe000000 = 0x62000000 := by
    rw [show (0xfe000000 : BitVec 32) = 0x7f#7 ++ 0x0#7 ++ 0x0#2 ++ 0x0#7 ++ 0x0#2 ++ 0x0#7 from rfl]
    simp only [BitVec.and_append, BitVec.and_zero]; rfl
  have ho : ((0x31#7 ++ d ++ i ++ a ++ j ++ b : BitVec 32).extractLsb' 25 7).toNat = 0x31 := by
    simp (disch := decide) only [cut_hi, cut_lo, cut_all]; rfl
  have hr : ∀ w : BitVec 32, (w.extractLsb' 25 7).toNat = 0x31 → decodeRaw w = (row w 0xFE000000 0x62000000 (.sel (w.extractLsb' 18 7) (w.extractLsb' 16 2) (w.extractLsb' 9 7) (w.extractLsb' 7 2) (w.extractLsb' 0 7))) := by
    intro w h; unfold decodeRaw; rw [h]; rfl
  rw [hr _ ho]
  simp (disch := decide) only [row, hm, cut_hi, cut_lo, cut_all, if_true, if_false, Nat.reduceSub] <;> rfl
theorem adr (d : BitVec 7) (i : BitVec 2) (s : BitVec 7) (f : BitVec 9) : Statement (.adr d i s f) := by
  intro w h; cases h
  have hm : (0x32#7 ++ d ++ i ++ s ++ f : BitVec 32) &&& 0xfe000000 = 0x64000000 := by
    rw [show (0xfe000000 : BitVec 32) = 0x7f#7 ++ 0x0#7 ++ 0x0#2 ++ 0x0#7 ++ 0x0#9 from rfl]
    simp only [BitVec.and_append, BitVec.and_zero]; rfl
  have ho : ((0x32#7 ++ d ++ i ++ s ++ f : BitVec 32).extractLsb' 25 7).toNat = 0x32 := by
    simp (disch := decide) only [cut_hi, cut_lo, cut_all]; rfl
  have hr : ∀ w : BitVec 32, (w.extractLsb' 25 7).toNat = 0x32 → decodeRaw w = (row w 0xFE000000 0x64000000 (.adr (w.extractLsb' 18 7) (w.extractLsb' 16 2) (w.extractLsb' 9 7) (w.extractLsb' 0 9))) := by
    intro w h; unfold decodeRaw; rw [h]; rfl
  rw [hr _ ho]
  simp (disch := decide) only [row, hm, cut_hi, cut_lo, cut_all, if_true, if_false, Nat.reduceSub] <;> rfl
theorem dot8 (d : BitVec 7) (i : BitVec 2) (a : BitVec 7) (j : BitVec 2) (b : BitVec 7) : Statement (.dot8 d i a j b) := by
  intro w h; cases h
  have hm : (0x33#7 ++ d ++ i ++ a ++ j ++ b : BitVec 32) &&& 0xfe000000 = 0x66000000 := by
    rw [show (0xfe000000 : BitVec 32) = 0x7f#7 ++ 0x0#7 ++ 0x0#2 ++ 0x0#7 ++ 0x0#2 ++ 0x0#7 from rfl]
    simp only [BitVec.and_append, BitVec.and_zero]; rfl
  have ho : ((0x33#7 ++ d ++ i ++ a ++ j ++ b : BitVec 32).extractLsb' 25 7).toNat = 0x33 := by
    simp (disch := decide) only [cut_hi, cut_lo, cut_all]; rfl
  have hr : ∀ w : BitVec 32, (w.extractLsb' 25 7).toNat = 0x33 → decodeRaw w = (row w 0xFE000000 0x66000000 (.dot8 (w.extractLsb' 18 7) (w.extractLsb' 16 2) (w.extractLsb' 9 7) (w.extractLsb' 7 2) (w.extractLsb' 0 7))) := by
    intro w h; unfold decodeRaw; rw [h]; rfl
  rw [hr _ ho]
  simp (disch := decide) only [row, hm, cut_hi, cut_lo, cut_all, if_true, if_false, Nat.reduceSub] <;> rfl
theorem fadd (d : BitVec 7) (i : BitVec 2) (a : BitVec 7) (j : BitVec 2) (b : BitVec 7) : Statement (.fadd d i a j b) := by
  intro w h; cases h
  have hm : (0x34#7 ++ d ++ i ++ a ++ j ++ b : BitVec 32) &&& 0xfe000000 = 0x68000000 := by
    rw [show (0xfe000000 : BitVec 32) = 0x7f#7 ++ 0x0#7 ++ 0x0#2 ++ 0x0#7 ++ 0x0#2 ++ 0x0#7 from rfl]
    simp only [BitVec.and_append, BitVec.and_zero]; rfl
  have ho : ((0x34#7 ++ d ++ i ++ a ++ j ++ b : BitVec 32).extractLsb' 25 7).toNat = 0x34 := by
    simp (disch := decide) only [cut_hi, cut_lo, cut_all]; rfl
  have hr : ∀ w : BitVec 32, (w.extractLsb' 25 7).toNat = 0x34 → decodeRaw w = (row w 0xFE000000 0x68000000 (.fadd (w.extractLsb' 18 7) (w.extractLsb' 16 2) (w.extractLsb' 9 7) (w.extractLsb' 7 2) (w.extractLsb' 0 7))) := by
    intro w h; unfold decodeRaw; rw [h]; rfl
  rw [hr _ ho]
  simp (disch := decide) only [row, hm, cut_hi, cut_lo, cut_all, if_true, if_false, Nat.reduceSub] <;> rfl
theorem fsub (d : BitVec 7) (i : BitVec 2) (a : BitVec 7) (j : BitVec 2) (b : BitVec 7) : Statement (.fsub d i a j b) := by
  intro w h; cases h
  have hm : (0x35#7 ++ d ++ i ++ a ++ j ++ b : BitVec 32) &&& 0xfe000000 = 0x6a000000 := by
    rw [show (0xfe000000 : BitVec 32) = 0x7f#7 ++ 0x0#7 ++ 0x0#2 ++ 0x0#7 ++ 0x0#2 ++ 0x0#7 from rfl]
    simp only [BitVec.and_append, BitVec.and_zero]; rfl
  have ho : ((0x35#7 ++ d ++ i ++ a ++ j ++ b : BitVec 32).extractLsb' 25 7).toNat = 0x35 := by
    simp (disch := decide) only [cut_hi, cut_lo, cut_all]; rfl
  have hr : ∀ w : BitVec 32, (w.extractLsb' 25 7).toNat = 0x35 → decodeRaw w = (row w 0xFE000000 0x6A000000 (.fsub (w.extractLsb' 18 7) (w.extractLsb' 16 2) (w.extractLsb' 9 7) (w.extractLsb' 7 2) (w.extractLsb' 0 7))) := by
    intro w h; unfold decodeRaw; rw [h]; rfl
  rw [hr _ ho]
  simp (disch := decide) only [row, hm, cut_hi, cut_lo, cut_all, if_true, if_false, Nat.reduceSub] <;> rfl
theorem fmul (d : BitVec 7) (i : BitVec 2) (a : BitVec 7) (j : BitVec 2) (b : BitVec 7) : Statement (.fmul d i a j b) := by
  intro w h; cases h
  have hm : (0x36#7 ++ d ++ i ++ a ++ j ++ b : BitVec 32) &&& 0xfe000000 = 0x6c000000 := by
    rw [show (0xfe000000 : BitVec 32) = 0x7f#7 ++ 0x0#7 ++ 0x0#2 ++ 0x0#7 ++ 0x0#2 ++ 0x0#7 from rfl]
    simp only [BitVec.and_append, BitVec.and_zero]; rfl
  have ho : ((0x36#7 ++ d ++ i ++ a ++ j ++ b : BitVec 32).extractLsb' 25 7).toNat = 0x36 := by
    simp (disch := decide) only [cut_hi, cut_lo, cut_all]; rfl
  have hr : ∀ w : BitVec 32, (w.extractLsb' 25 7).toNat = 0x36 → decodeRaw w = (row w 0xFE000000 0x6C000000 (.fmul (w.extractLsb' 18 7) (w.extractLsb' 16 2) (w.extractLsb' 9 7) (w.extractLsb' 7 2) (w.extractLsb' 0 7))) := by
    intro w h; unfold decodeRaw; rw [h]; rfl
  rw [hr _ ho]
  simp (disch := decide) only [row, hm, cut_hi, cut_lo, cut_all, if_true, if_false, Nat.reduceSub] <;> rfl
theorem ffma (d : BitVec 7) (i : BitVec 2) (a : BitVec 7) (j : BitVec 2) (b : BitVec 7) : Statement (.ffma d i a j b) := by
  intro w h; cases h
  have hm : (0x37#7 ++ d ++ i ++ a ++ j ++ b : BitVec 32) &&& 0xfe000000 = 0x6e000000 := by
    rw [show (0xfe000000 : BitVec 32) = 0x7f#7 ++ 0x0#7 ++ 0x0#2 ++ 0x0#7 ++ 0x0#2 ++ 0x0#7 from rfl]
    simp only [BitVec.and_append, BitVec.and_zero]; rfl
  have ho : ((0x37#7 ++ d ++ i ++ a ++ j ++ b : BitVec 32).extractLsb' 25 7).toNat = 0x37 := by
    simp (disch := decide) only [cut_hi, cut_lo, cut_all]; rfl
  have hr : ∀ w : BitVec 32, (w.extractLsb' 25 7).toNat = 0x37 → decodeRaw w = (row w 0xFE000000 0x6E000000 (.ffma (w.extractLsb' 18 7) (w.extractLsb' 16 2) (w.extractLsb' 9 7) (w.extractLsb' 7 2) (w.extractLsb' 0 7))) := by
    intro w h; unfold decodeRaw; rw [h]; rfl
  rw [hr _ ho]
  simp (disch := decide) only [row, hm, cut_hi, cut_lo, cut_all, if_true, if_false, Nat.reduceSub] <;> rfl
theorem ffms (d : BitVec 7) (i : BitVec 2) (a : BitVec 7) (j : BitVec 2) (b : BitVec 7) : Statement (.ffms d i a j b) := by
  intro w h; cases h
  have hm : (0x38#7 ++ d ++ i ++ a ++ j ++ b : BitVec 32) &&& 0xfe000000 = 0x70000000 := by
    rw [show (0xfe000000 : BitVec 32) = 0x7f#7 ++ 0x0#7 ++ 0x0#2 ++ 0x0#7 ++ 0x0#2 ++ 0x0#7 from rfl]
    simp only [BitVec.and_append, BitVec.and_zero]; rfl
  have ho : ((0x38#7 ++ d ++ i ++ a ++ j ++ b : BitVec 32).extractLsb' 25 7).toNat = 0x38 := by
    simp (disch := decide) only [cut_hi, cut_lo, cut_all]; rfl
  have hr : ∀ w : BitVec 32, (w.extractLsb' 25 7).toNat = 0x38 → decodeRaw w = (row w 0xFE000000 0x70000000 (.ffms (w.extractLsb' 18 7) (w.extractLsb' 16 2) (w.extractLsb' 9 7) (w.extractLsb' 7 2) (w.extractLsb' 0 7))) := by
    intro w h; unfold decodeRaw; rw [h]; rfl
  rw [hr _ ho]
  simp (disch := decide) only [row, hm, cut_hi, cut_lo, cut_all, if_true, if_false, Nat.reduceSub] <;> rfl
theorem ffnma (d : BitVec 7) (i : BitVec 2) (a : BitVec 7) (j : BitVec 2) (b : BitVec 7) : Statement (.ffnma d i a j b) := by
  intro w h; cases h
  have hm : (0x39#7 ++ d ++ i ++ a ++ j ++ b : BitVec 32) &&& 0xfe000000 = 0x72000000 := by
    rw [show (0xfe000000 : BitVec 32) = 0x7f#7 ++ 0x0#7 ++ 0x0#2 ++ 0x0#7 ++ 0x0#2 ++ 0x0#7 from rfl]
    simp only [BitVec.and_append, BitVec.and_zero]; rfl
  have ho : ((0x39#7 ++ d ++ i ++ a ++ j ++ b : BitVec 32).extractLsb' 25 7).toNat = 0x39 := by
    simp (disch := decide) only [cut_hi, cut_lo, cut_all]; rfl
  have hr : ∀ w : BitVec 32, (w.extractLsb' 25 7).toNat = 0x39 → decodeRaw w = (row w 0xFE000000 0x72000000 (.ffnma (w.extractLsb' 18 7) (w.extractLsb' 16 2) (w.extractLsb' 9 7) (w.extractLsb' 7 2) (w.extractLsb' 0 7))) := by
    intro w h; unfold decodeRaw; rw [h]; rfl
  rw [hr _ ho]
  simp (disch := decide) only [row, hm, cut_hi, cut_lo, cut_all, if_true, if_false, Nat.reduceSub] <;> rfl
theorem ffnms (d : BitVec 7) (i : BitVec 2) (a : BitVec 7) (j : BitVec 2) (b : BitVec 7) : Statement (.ffnms d i a j b) := by
  intro w h; cases h
  have hm : (0x3A#7 ++ d ++ i ++ a ++ j ++ b : BitVec 32) &&& 0xfe000000 = 0x74000000 := by
    rw [show (0xfe000000 : BitVec 32) = 0x7f#7 ++ 0x0#7 ++ 0x0#2 ++ 0x0#7 ++ 0x0#2 ++ 0x0#7 from rfl]
    simp only [BitVec.and_append, BitVec.and_zero]; rfl
  have ho : ((0x3A#7 ++ d ++ i ++ a ++ j ++ b : BitVec 32).extractLsb' 25 7).toNat = 0x3a := by
    simp (disch := decide) only [cut_hi, cut_lo, cut_all]; rfl
  have hr : ∀ w : BitVec 32, (w.extractLsb' 25 7).toNat = 0x3a → decodeRaw w = (row w 0xFE000000 0x74000000 (.ffnms (w.extractLsb' 18 7) (w.extractLsb' 16 2) (w.extractLsb' 9 7) (w.extractLsb' 7 2) (w.extractLsb' 0 7))) := by
    intro w h; unfold decodeRaw; rw [h]; rfl
  rw [hr _ ho]
  simp (disch := decide) only [row, hm, cut_hi, cut_lo, cut_all, if_true, if_false, Nat.reduceSub] <;> rfl
theorem fmin (d : BitVec 7) (i : BitVec 2) (a : BitVec 7) (j : BitVec 2) (b : BitVec 7) : Statement (.fmin d i a j b) := by
  intro w h; cases h
  have hm : (0x3B#7 ++ d ++ i ++ a ++ j ++ b : BitVec 32) &&& 0xfe000000 = 0x76000000 := by
    rw [show (0xfe000000 : BitVec 32) = 0x7f#7 ++ 0x0#7 ++ 0x0#2 ++ 0x0#7 ++ 0x0#2 ++ 0x0#7 from rfl]
    simp only [BitVec.and_append, BitVec.and_zero]; rfl
  have ho : ((0x3B#7 ++ d ++ i ++ a ++ j ++ b : BitVec 32).extractLsb' 25 7).toNat = 0x3b := by
    simp (disch := decide) only [cut_hi, cut_lo, cut_all]; rfl
  have hr : ∀ w : BitVec 32, (w.extractLsb' 25 7).toNat = 0x3b → decodeRaw w = (row w 0xFE000000 0x76000000 (.fmin (w.extractLsb' 18 7) (w.extractLsb' 16 2) (w.extractLsb' 9 7) (w.extractLsb' 7 2) (w.extractLsb' 0 7))) := by
    intro w h; unfold decodeRaw; rw [h]; rfl
  rw [hr _ ho]
  simp (disch := decide) only [row, hm, cut_hi, cut_lo, cut_all, if_true, if_false, Nat.reduceSub] <;> rfl
theorem fmax (d : BitVec 7) (i : BitVec 2) (a : BitVec 7) (j : BitVec 2) (b : BitVec 7) : Statement (.fmax d i a j b) := by
  intro w h; cases h
  have hm : (0x3C#7 ++ d ++ i ++ a ++ j ++ b : BitVec 32) &&& 0xfe000000 = 0x78000000 := by
    rw [show (0xfe000000 : BitVec 32) = 0x7f#7 ++ 0x0#7 ++ 0x0#2 ++ 0x0#7 ++ 0x0#2 ++ 0x0#7 from rfl]
    simp only [BitVec.and_append, BitVec.and_zero]; rfl
  have ho : ((0x3C#7 ++ d ++ i ++ a ++ j ++ b : BitVec 32).extractLsb' 25 7).toNat = 0x3c := by
    simp (disch := decide) only [cut_hi, cut_lo, cut_all]; rfl
  have hr : ∀ w : BitVec 32, (w.extractLsb' 25 7).toNat = 0x3c → decodeRaw w = (row w 0xFE000000 0x78000000 (.fmax (w.extractLsb' 18 7) (w.extractLsb' 16 2) (w.extractLsb' 9 7) (w.extractLsb' 7 2) (w.extractLsb' 0 7))) := by
    intro w h; unfold decodeRaw; rw [h]; rfl
  rw [hr _ ho]
  simp (disch := decide) only [row, hm, cut_hi, cut_lo, cut_all, if_true, if_false, Nat.reduceSub] <;> rfl
theorem fcmp (c : BitVec 4) (p : BitVec 3) (i : BitVec 2) (a : BitVec 7) (j : BitVec 2) (b : BitVec 7) : Statement (.fcmp c p i a j b) := by
  intro w h; cases h
  have hm : (0x3D#7 ++ c ++ p ++ i ++ a ++ j ++ b : BitVec 32) &&& 0xfe000000 = 0x7a000000 := by
    rw [show (0xfe000000 : BitVec 32) = 0x7f#7 ++ 0x0#4 ++ 0x0#3 ++ 0x0#2 ++ 0x0#7 ++ 0x0#2 ++ 0x0#7 from rfl]
    simp only [BitVec.and_append, BitVec.and_zero]; rfl
  have ho : ((0x3D#7 ++ c ++ p ++ i ++ a ++ j ++ b : BitVec 32).extractLsb' 25 7).toNat = 0x3d := by
    simp (disch := decide) only [cut_hi, cut_lo, cut_all]; rfl
  have hr : ∀ w : BitVec 32, (w.extractLsb' 25 7).toNat = 0x3d → decodeRaw w = (row w 0xFE000000 0x7A000000 (.fcmp (w.extractLsb' 21 4) (w.extractLsb' 18 3) (w.extractLsb' 16 2) (w.extractLsb' 9 7) (w.extractLsb' 7 2) (w.extractLsb' 0 7))) := by
    intro w h; unfold decodeRaw; rw [h]; rfl
  rw [hr _ ho]
  simp (disch := decide) only [row, hm, cut_hi, cut_lo, cut_all, if_true, if_false, Nat.reduceSub] <;> rfl
theorem fclass (d : BitVec 7) (i : BitVec 2) (s : BitVec 7) : Statement (.fclass d i s) := by
  intro w h; cases h
  have hm : (0x3E#7 ++ d ++ i ++ s ++ 0x0#9 : BitVec 32) &&& 0xfe0001ff = 0x7c000000 := by
    rw [show (0xfe0001ff : BitVec 32) = 0x7f#7 ++ 0x0#7 ++ 0x0#2 ++ 0x0#7 ++ 0x1ff#9 from rfl]
    simp only [BitVec.and_append, BitVec.and_zero]; rfl
  have ho : ((0x3E#7 ++ d ++ i ++ s ++ 0x0#9 : BitVec 32).extractLsb' 25 7).toNat = 0x3e := by
    simp (disch := decide) only [cut_hi, cut_lo, cut_all]; rfl
  have hr : ∀ w : BitVec 32, (w.extractLsb' 25 7).toNat = 0x3e → decodeRaw w = (row w 0xFE0001FF 0x7C000000 (.fclass (w.extractLsb' 18 7) (w.extractLsb' 16 2) (w.extractLsb' 9 7))) := by
    intro w h; unfold decodeRaw; rw [h]; rfl
  rw [hr _ ho]
  simp (disch := decide) only [row, hm, cut_hi, cut_lo, cut_all, if_true, if_false, Nat.reduceSub] <;> rfl
theorem frcp (d : BitVec 7) (i : BitVec 2) (s : BitVec 7) : Statement (.frcp d i s) := by
  intro w h; cases h
  have hm : (0x3F#7 ++ d ++ i ++ s ++ 0x0#9 : BitVec 32) &&& 0xfe0001ff = 0x7e000000 := by
    rw [show (0xfe0001ff : BitVec 32) = 0x7f#7 ++ 0x0#7 ++ 0x0#2 ++ 0x0#7 ++ 0x1ff#9 from rfl]
    simp only [BitVec.and_append, BitVec.and_zero]; rfl
  have ho : ((0x3F#7 ++ d ++ i ++ s ++ 0x0#9 : BitVec 32).extractLsb' 25 7).toNat = 0x3f := by
    simp (disch := decide) only [cut_hi, cut_lo, cut_all]; rfl
  have hr : ∀ w : BitVec 32, (w.extractLsb' 25 7).toNat = 0x3f → decodeRaw w = (row w 0xFE0001FF 0x7E000000 (.frcp (w.extractLsb' 18 7) (w.extractLsb' 16 2) (w.extractLsb' 9 7))) := by
    intro w h; unfold decodeRaw; rw [h]; rfl
  rw [hr _ ho]
  simp (disch := decide) only [row, hm, cut_hi, cut_lo, cut_all, if_true, if_false, Nat.reduceSub] <;> rfl
theorem frsq (d : BitVec 7) (i : BitVec 2) (s : BitVec 7) : Statement (.frsq d i s) := by
  intro w h; cases h
  have hm : (0x40#7 ++ d ++ i ++ s ++ 0x0#9 : BitVec 32) &&& 0xfe0001ff = 0x80000000 := by
    rw [show (0xfe0001ff : BitVec 32) = 0x7f#7 ++ 0x0#7 ++ 0x0#2 ++ 0x0#7 ++ 0x1ff#9 from rfl]
    simp only [BitVec.and_append, BitVec.and_zero]; rfl
  have ho : ((0x40#7 ++ d ++ i ++ s ++ 0x0#9 : BitVec 32).extractLsb' 25 7).toNat = 0x40 := by
    simp (disch := decide) only [cut_hi, cut_lo, cut_all]; rfl
  have hr : ∀ w : BitVec 32, (w.extractLsb' 25 7).toNat = 0x40 → decodeRaw w = (row w 0xFE0001FF 0x80000000 (.frsq (w.extractLsb' 18 7) (w.extractLsb' 16 2) (w.extractLsb' 9 7))) := by
    intro w h; unfold decodeRaw; rw [h]; rfl
  rw [hr _ ho]
  simp (disch := decide) only [row, hm, cut_hi, cut_lo, cut_all, if_true, if_false, Nat.reduceSub] <;> rfl
theorem fsqrt (d : BitVec 7) (i : BitVec 2) (s : BitVec 7) : Statement (.fsqrt d i s) := by
  intro w h; cases h
  have hm : (0x41#7 ++ d ++ i ++ s ++ 0x0#9 : BitVec 32) &&& 0xfe0001ff = 0x82000000 := by
    rw [show (0xfe0001ff : BitVec 32) = 0x7f#7 ++ 0x0#7 ++ 0x0#2 ++ 0x0#7 ++ 0x1ff#9 from rfl]
    simp only [BitVec.and_append, BitVec.and_zero]; rfl
  have ho : ((0x41#7 ++ d ++ i ++ s ++ 0x0#9 : BitVec 32).extractLsb' 25 7).toNat = 0x41 := by
    simp (disch := decide) only [cut_hi, cut_lo, cut_all]; rfl
  have hr : ∀ w : BitVec 32, (w.extractLsb' 25 7).toNat = 0x41 → decodeRaw w = (row w 0xFE0001FF 0x82000000 (.fsqrt (w.extractLsb' 18 7) (w.extractLsb' 16 2) (w.extractLsb' 9 7))) := by
    intro w h; unfold decodeRaw; rw [h]; rfl
  rw [hr _ ho]
  simp (disch := decide) only [row, hm, cut_hi, cut_lo, cut_all, if_true, if_false, Nat.reduceSub] <;> rfl
theorem fdiv (d : BitVec 7) (i : BitVec 2) (a : BitVec 7) (j : BitVec 2) (b : BitVec 7) : Statement (.fdiv d i a j b) := by
  intro w h; cases h
  have hm : (0x42#7 ++ d ++ i ++ a ++ j ++ b : BitVec 32) &&& 0xfe000000 = 0x84000000 := by
    rw [show (0xfe000000 : BitVec 32) = 0x7f#7 ++ 0x0#7 ++ 0x0#2 ++ 0x0#7 ++ 0x0#2 ++ 0x0#7 from rfl]
    simp only [BitVec.and_append, BitVec.and_zero]; rfl
  have ho : ((0x42#7 ++ d ++ i ++ a ++ j ++ b : BitVec 32).extractLsb' 25 7).toNat = 0x42 := by
    simp (disch := decide) only [cut_hi, cut_lo, cut_all]; rfl
  have hr : ∀ w : BitVec 32, (w.extractLsb' 25 7).toNat = 0x42 → decodeRaw w = (row w 0xFE000000 0x84000000 (.fdiv (w.extractLsb' 18 7) (w.extractLsb' 16 2) (w.extractLsb' 9 7) (w.extractLsb' 7 2) (w.extractLsb' 0 7))) := by
    intro w h; unfold decodeRaw; rw [h]; rfl
  rw [hr _ ho]
  simp (disch := decide) only [row, hm, cut_hi, cut_lo, cut_all, if_true, if_false, Nat.reduceSub] <;> rfl
theorem fexp2 (d : BitVec 7) (i : BitVec 2) (s : BitVec 7) : Statement (.fexp2 d i s) := by
  intro w h; cases h
  have hm : (0x43#7 ++ d ++ i ++ s ++ 0x0#9 : BitVec 32) &&& 0xfe0001ff = 0x86000000 := by
    rw [show (0xfe0001ff : BitVec 32) = 0x7f#7 ++ 0x0#7 ++ 0x0#2 ++ 0x0#7 ++ 0x1ff#9 from rfl]
    simp only [BitVec.and_append, BitVec.and_zero]; rfl
  have ho : ((0x43#7 ++ d ++ i ++ s ++ 0x0#9 : BitVec 32).extractLsb' 25 7).toNat = 0x43 := by
    simp (disch := decide) only [cut_hi, cut_lo, cut_all]; rfl
  have hr : ∀ w : BitVec 32, (w.extractLsb' 25 7).toNat = 0x43 → decodeRaw w = (row w 0xFE0001FF 0x86000000 (.fexp2 (w.extractLsb' 18 7) (w.extractLsb' 16 2) (w.extractLsb' 9 7))) := by
    intro w h; unfold decodeRaw; rw [h]; rfl
  rw [hr _ ho]
  simp (disch := decide) only [row, hm, cut_hi, cut_lo, cut_all, if_true, if_false, Nat.reduceSub] <;> rfl
theorem flog2 (d : BitVec 7) (i : BitVec 2) (s : BitVec 7) : Statement (.flog2 d i s) := by
  intro w h; cases h
  have hm : (0x44#7 ++ d ++ i ++ s ++ 0x0#9 : BitVec 32) &&& 0xfe0001ff = 0x88000000 := by
    rw [show (0xfe0001ff : BitVec 32) = 0x7f#7 ++ 0x0#7 ++ 0x0#2 ++ 0x0#7 ++ 0x1ff#9 from rfl]
    simp only [BitVec.and_append, BitVec.and_zero]; rfl
  have ho : ((0x44#7 ++ d ++ i ++ s ++ 0x0#9 : BitVec 32).extractLsb' 25 7).toNat = 0x44 := by
    simp (disch := decide) only [cut_hi, cut_lo, cut_all]; rfl
  have hr : ∀ w : BitVec 32, (w.extractLsb' 25 7).toNat = 0x44 → decodeRaw w = (row w 0xFE0001FF 0x88000000 (.flog2 (w.extractLsb' 18 7) (w.extractLsb' 16 2) (w.extractLsb' 9 7))) := by
    intro w h; unfold decodeRaw; rw [h]; rfl
  rw [hr _ ho]
  simp (disch := decide) only [row, hm, cut_hi, cut_lo, cut_all, if_true, if_false, Nat.reduceSub] <;> rfl
theorem fsin (d : BitVec 7) (i : BitVec 2) (s : BitVec 7) : Statement (.fsin d i s) := by
  intro w h; cases h
  have hm : (0x45#7 ++ d ++ i ++ s ++ 0x0#9 : BitVec 32) &&& 0xfe0001ff = 0x8a000000 := by
    rw [show (0xfe0001ff : BitVec 32) = 0x7f#7 ++ 0x0#7 ++ 0x0#2 ++ 0x0#7 ++ 0x1ff#9 from rfl]
    simp only [BitVec.and_append, BitVec.and_zero]; rfl
  have ho : ((0x45#7 ++ d ++ i ++ s ++ 0x0#9 : BitVec 32).extractLsb' 25 7).toNat = 0x45 := by
    simp (disch := decide) only [cut_hi, cut_lo, cut_all]; rfl
  have hr : ∀ w : BitVec 32, (w.extractLsb' 25 7).toNat = 0x45 → decodeRaw w = (row w 0xFE0001FF 0x8A000000 (.fsin (w.extractLsb' 18 7) (w.extractLsb' 16 2) (w.extractLsb' 9 7))) := by
    intro w h; unfold decodeRaw; rw [h]; rfl
  rw [hr _ ho]
  simp (disch := decide) only [row, hm, cut_hi, cut_lo, cut_all, if_true, if_false, Nat.reduceSub] <;> rfl
theorem fcos (d : BitVec 7) (i : BitVec 2) (s : BitVec 7) : Statement (.fcos d i s) := by
  intro w h; cases h
  have hm : (0x46#7 ++ d ++ i ++ s ++ 0x0#9 : BitVec 32) &&& 0xfe0001ff = 0x8c000000 := by
    rw [show (0xfe0001ff : BitVec 32) = 0x7f#7 ++ 0x0#7 ++ 0x0#2 ++ 0x0#7 ++ 0x1ff#9 from rfl]
    simp only [BitVec.and_append, BitVec.and_zero]; rfl
  have ho : ((0x46#7 ++ d ++ i ++ s ++ 0x0#9 : BitVec 32).extractLsb' 25 7).toNat = 0x46 := by
    simp (disch := decide) only [cut_hi, cut_lo, cut_all]; rfl
  have hr : ∀ w : BitVec 32, (w.extractLsb' 25 7).toNat = 0x46 → decodeRaw w = (row w 0xFE0001FF 0x8C000000 (.fcos (w.extractLsb' 18 7) (w.extractLsb' 16 2) (w.extractLsb' 9 7))) := by
    intro w h; unfold decodeRaw; rw [h]; rfl
  rw [hr _ ho]
  simp (disch := decide) only [row, hm, cut_hi, cut_lo, cut_all, if_true, if_false, Nat.reduceSub] <;> rfl
theorem frnd (d : BitVec 7) (i : BitVec 2) (s : BitVec 7) (f : BitVec 9) : Statement (.frnd d i s f) := by
  intro w h; cases h
  have hm : (0x47#7 ++ d ++ i ++ s ++ f : BitVec 32) &&& 0xfe000000 = 0x8e000000 := by
    rw [show (0xfe000000 : BitVec 32) = 0x7f#7 ++ 0x0#7 ++ 0x0#2 ++ 0x0#7 ++ 0x0#9 from rfl]
    simp only [BitVec.and_append, BitVec.and_zero]; rfl
  have ho : ((0x47#7 ++ d ++ i ++ s ++ f : BitVec 32).extractLsb' 25 7).toNat = 0x47 := by
    simp (disch := decide) only [cut_hi, cut_lo, cut_all]; rfl
  have hr : ∀ w : BitVec 32, (w.extractLsb' 25 7).toNat = 0x47 → decodeRaw w = (row w 0xFE000000 0x8E000000 (.frnd (w.extractLsb' 18 7) (w.extractLsb' 16 2) (w.extractLsb' 9 7) (w.extractLsb' 0 9))) := by
    intro w h; unfold decodeRaw; rw [h]; rfl
  rw [hr _ ho]
  simp (disch := decide) only [row, hm, cut_hi, cut_lo, cut_all, if_true, if_false, Nat.reduceSub] <;> rfl
theorem fscale (d : BitVec 7) (i : BitVec 2) (a : BitVec 7) (j : BitVec 2) (b : BitVec 7) : Statement (.fscale d i a j b) := by
  intro w h; cases h
  have hm : (0x48#7 ++ d ++ i ++ a ++ j ++ b : BitVec 32) &&& 0xfe000000 = 0x90000000 := by
    rw [show (0xfe000000 : BitVec 32) = 0x7f#7 ++ 0x0#7 ++ 0x0#2 ++ 0x0#7 ++ 0x0#2 ++ 0x0#7 from rfl]
    simp only [BitVec.and_append, BitVec.and_zero]; rfl
  have ho : ((0x48#7 ++ d ++ i ++ a ++ j ++ b : BitVec 32).extractLsb' 25 7).toNat = 0x48 := by
    simp (disch := decide) only [cut_hi, cut_lo, cut_all]; rfl
  have hr : ∀ w : BitVec 32, (w.extractLsb' 25 7).toNat = 0x48 → decodeRaw w = (row w 0xFE000000 0x90000000 (.fscale (w.extractLsb' 18 7) (w.extractLsb' 16 2) (w.extractLsb' 9 7) (w.extractLsb' 7 2) (w.extractLsb' 0 7))) := by
    intro w h; unfold decodeRaw; rw [h]; rfl
  rw [hr _ ho]
  simp (disch := decide) only [row, hm, cut_hi, cut_lo, cut_all, if_true, if_false, Nat.reduceSub] <;> rfl
theorem ffract (d : BitVec 7) (i : BitVec 2) (s : BitVec 7) : Statement (.ffract d i s) := by
  intro w h; cases h
  have hm : (0x49#7 ++ d ++ i ++ s ++ 0x0#9 : BitVec 32) &&& 0xfe0001ff = 0x92000000 := by
    rw [show (0xfe0001ff : BitVec 32) = 0x7f#7 ++ 0x0#7 ++ 0x0#2 ++ 0x0#7 ++ 0x1ff#9 from rfl]
    simp only [BitVec.and_append, BitVec.and_zero]; rfl
  have ho : ((0x49#7 ++ d ++ i ++ s ++ 0x0#9 : BitVec 32).extractLsb' 25 7).toNat = 0x49 := by
    simp (disch := decide) only [cut_hi, cut_lo, cut_all]; rfl
  have hr : ∀ w : BitVec 32, (w.extractLsb' 25 7).toNat = 0x49 → decodeRaw w = (row w 0xFE0001FF 0x92000000 (.ffract (w.extractLsb' 18 7) (w.extractLsb' 16 2) (w.extractLsb' 9 7))) := by
    intro w h; unfold decodeRaw; rw [h]; rfl
  rw [hr _ ho]
  simp (disch := decide) only [row, hm, cut_hi, cut_lo, cut_all, if_true, if_false, Nat.reduceSub] <;> rfl
theorem fdot2 (d : BitVec 7) (i : BitVec 2) (a : BitVec 7) (j : BitVec 2) (b : BitVec 7) : Statement (.fdot2 d i a j b) := by
  intro w h; cases h
  have hm : (0x4A#7 ++ d ++ i ++ a ++ j ++ b : BitVec 32) &&& 0xfe000000 = 0x94000000 := by
    rw [show (0xfe000000 : BitVec 32) = 0x7f#7 ++ 0x0#7 ++ 0x0#2 ++ 0x0#7 ++ 0x0#2 ++ 0x0#7 from rfl]
    simp only [BitVec.and_append, BitVec.and_zero]; rfl
  have ho : ((0x4A#7 ++ d ++ i ++ a ++ j ++ b : BitVec 32).extractLsb' 25 7).toNat = 0x4a := by
    simp (disch := decide) only [cut_hi, cut_lo, cut_all]; rfl
  have hr : ∀ w : BitVec 32, (w.extractLsb' 25 7).toNat = 0x4a → decodeRaw w = (row w 0xFE000000 0x94000000 (.fdot2 (w.extractLsb' 18 7) (w.extractLsb' 16 2) (w.extractLsb' 9 7) (w.extractLsb' 7 2) (w.extractLsb' 0 7))) := by
    intro w h; unfold decodeRaw; rw [h]; rfl
  rw [hr _ ho]
  simp (disch := decide) only [row, hm, cut_hi, cut_lo, cut_all, if_true, if_false, Nat.reduceSub] <;> rfl
theorem fcsgn (d : BitVec 7) (i : BitVec 2) (a : BitVec 7) (j : BitVec 2) (b : BitVec 7) : Statement (.fcsgn d i a j b) := by
  intro w h; cases h
  have hm : (0x4B#7 ++ d ++ i ++ a ++ j ++ b : BitVec 32) &&& 0xfe000000 = 0x96000000 := by
    rw [show (0xfe000000 : BitVec 32) = 0x7f#7 ++ 0x0#7 ++ 0x0#2 ++ 0x0#7 ++ 0x0#2 ++ 0x0#7 from rfl]
    simp only [BitVec.and_append, BitVec.and_zero]; rfl
  have ho : ((0x4B#7 ++ d ++ i ++ a ++ j ++ b : BitVec 32).extractLsb' 25 7).toNat = 0x4b := by
    simp (disch := decide) only [cut_hi, cut_lo, cut_all]; rfl
  have hr : ∀ w : BitVec 32, (w.extractLsb' 25 7).toNat = 0x4b → decodeRaw w = (row w 0xFE000000 0x96000000 (.fcsgn (w.extractLsb' 18 7) (w.extractLsb' 16 2) (w.extractLsb' 9 7) (w.extractLsb' 7 2) (w.extractLsb' 0 7))) := by
    intro w h; unfold decodeRaw; rw [h]; rfl
  rw [hr _ ho]
  simp (disch := decide) only [row, hm, cut_hi, cut_lo, cut_all, if_true, if_false, Nat.reduceSub] <;> rfl
theorem cvt (d : BitVec 7) (i : BitVec 2) (s : BitVec 7) (f : BitVec 9) : Statement (.cvt d i s f) := by
  intro w h; cases h
  have hm : (0x4C#7 ++ d ++ i ++ s ++ f : BitVec 32) &&& 0xfe000000 = 0x98000000 := by
    rw [show (0xfe000000 : BitVec 32) = 0x7f#7 ++ 0x0#7 ++ 0x0#2 ++ 0x0#7 ++ 0x0#9 from rfl]
    simp only [BitVec.and_append, BitVec.and_zero]; rfl
  have ho : ((0x4C#7 ++ d ++ i ++ s ++ f : BitVec 32).extractLsb' 25 7).toNat = 0x4c := by
    simp (disch := decide) only [cut_hi, cut_lo, cut_all]; rfl
  have hr : ∀ w : BitVec 32, (w.extractLsb' 25 7).toNat = 0x4c → decodeRaw w = (row w 0xFE000000 0x98000000 (.cvt (w.extractLsb' 18 7) (w.extractLsb' 16 2) (w.extractLsb' 9 7) (w.extractLsb' 0 9))) := by
    intro w h; unfold decodeRaw; rw [h]; rfl
  rw [hr _ ho]
  simp (disch := decide) only [row, hm, cut_hi, cut_lo, cut_all, if_true, if_false, Nat.reduceSub] <;> rfl
theorem cvtb (d : BitVec 7) (i : BitVec 2) (s : BitVec 7) (f : BitVec 9) : Statement (.cvtb d i s f) := by
  intro w h; cases h
  have hm : (0x4D#7 ++ d ++ i ++ s ++ f : BitVec 32) &&& 0xfe000000 = 0x9a000000 := by
    rw [show (0xfe000000 : BitVec 32) = 0x7f#7 ++ 0x0#7 ++ 0x0#2 ++ 0x0#7 ++ 0x0#9 from rfl]
    simp only [BitVec.and_append, BitVec.and_zero]; rfl
  have ho : ((0x4D#7 ++ d ++ i ++ s ++ f : BitVec 32).extractLsb' 25 7).toNat = 0x4d := by
    simp (disch := decide) only [cut_hi, cut_lo, cut_all]; rfl
  have hr : ∀ w : BitVec 32, (w.extractLsb' 25 7).toNat = 0x4d → decodeRaw w = (row w 0xFE000000 0x9A000000 (.cvtb (w.extractLsb' 18 7) (w.extractLsb' 16 2) (w.extractLsb' 9 7) (w.extractLsb' 0 9))) := by
    intro w h; unfold decodeRaw; rw [h]; rfl
  rw [hr _ ho]
  simp (disch := decide) only [row, hm, cut_hi, cut_lo, cut_all, if_true, if_false, Nat.reduceSub] <;> rfl
theorem cvtq (d : BitVec 7) (i : BitVec 2) (s : BitVec 7) (f : BitVec 9) : Statement (.cvtq d i s f) := by
  intro w h; cases h
  have hm : (0x4E#7 ++ d ++ i ++ s ++ f : BitVec 32) &&& 0xfe000000 = 0x9c000000 := by
    rw [show (0xfe000000 : BitVec 32) = 0x7f#7 ++ 0x0#7 ++ 0x0#2 ++ 0x0#7 ++ 0x0#9 from rfl]
    simp only [BitVec.and_append, BitVec.and_zero]; rfl
  have ho : ((0x4E#7 ++ d ++ i ++ s ++ f : BitVec 32).extractLsb' 25 7).toNat = 0x4e := by
    simp (disch := decide) only [cut_hi, cut_lo, cut_all]; rfl
  have hr : ∀ w : BitVec 32, (w.extractLsb' 25 7).toNat = 0x4e → decodeRaw w = (row w 0xFE000000 0x9C000000 (.cvtq (w.extractLsb' 18 7) (w.extractLsb' 16 2) (w.extractLsb' 9 7) (w.extractLsb' 0 9))) := by
    intro w h; unfold decodeRaw; rw [h]; rfl
  rw [hr _ ho]
  simp (disch := decide) only [row, hm, cut_hi, cut_lo, cut_all, if_true, if_false, Nat.reduceSub] <;> rfl
theorem tagset (d : BitVec 7) (i : BitVec 2) (s : BitVec 7) (f : BitVec 9) : Statement (.tagset d i s f) := by
  intro w h; cases h
  have hm : (0x4F#7 ++ d ++ i ++ s ++ f : BitVec 32) &&& 0xfe000000 = 0x9e000000 := by
    rw [show (0xfe000000 : BitVec 32) = 0x7f#7 ++ 0x0#7 ++ 0x0#2 ++ 0x0#7 ++ 0x0#9 from rfl]
    simp only [BitVec.and_append, BitVec.and_zero]; rfl
  have ho : ((0x4F#7 ++ d ++ i ++ s ++ f : BitVec 32).extractLsb' 25 7).toNat = 0x4f := by
    simp (disch := decide) only [cut_hi, cut_lo, cut_all]; rfl
  have hr : ∀ w : BitVec 32, (w.extractLsb' 25 7).toNat = 0x4f → decodeRaw w = (row w 0xFE000000 0x9E000000 (.tagset (w.extractLsb' 18 7) (w.extractLsb' 16 2) (w.extractLsb' 9 7) (w.extractLsb' 0 9))) := by
    intro w h; unfold decodeRaw; rw [h]; rfl
  rw [hr _ ho]
  simp (disch := decide) only [row, hm, cut_hi, cut_lo, cut_all, if_true, if_false, Nat.reduceSub] <;> rfl
theorem tagget (d : BitVec 7) (i : BitVec 2) (s : BitVec 7) : Statement (.tagget d i s) := by
  intro w h; cases h
  have hm : (0x50#7 ++ d ++ i ++ s ++ 0x0#9 : BitVec 32) &&& 0xfe0001ff = 0xa0000000 := by
    rw [show (0xfe0001ff : BitVec 32) = 0x7f#7 ++ 0x0#7 ++ 0x0#2 ++ 0x0#7 ++ 0x1ff#9 from rfl]
    simp only [BitVec.and_append, BitVec.and_zero]; rfl
  have ho : ((0x50#7 ++ d ++ i ++ s ++ 0x0#9 : BitVec 32).extractLsb' 25 7).toNat = 0x50 := by
    simp (disch := decide) only [cut_hi, cut_lo, cut_all]; rfl
  have hr : ∀ w : BitVec 32, (w.extractLsb' 25 7).toNat = 0x50 → decodeRaw w = (row w 0xFE0001FF 0xA0000000 (.tagget (w.extractLsb' 18 7) (w.extractLsb' 16 2) (w.extractLsb' 9 7))) := by
    intro w h; unfold decodeRaw; rw [h]; rfl
  rw [hr _ ho]
  simp (disch := decide) only [row, hm, cut_hi, cut_lo, cut_all, if_true, if_false, Nat.reduceSub] <;> rfl
theorem fpack (d : BitVec 7) (i : BitVec 2) (a : BitVec 7) (j : BitVec 2) (b : BitVec 7) : Statement (.fpack d i a j b) := by
  intro w h; cases h
  have hm : (0x51#7 ++ d ++ i ++ a ++ j ++ b : BitVec 32) &&& 0xfe000000 = 0xa2000000 := by
    rw [show (0xfe000000 : BitVec 32) = 0x7f#7 ++ 0x0#7 ++ 0x0#2 ++ 0x0#7 ++ 0x0#2 ++ 0x0#7 from rfl]
    simp only [BitVec.and_append, BitVec.and_zero]; rfl
  have ho : ((0x51#7 ++ d ++ i ++ a ++ j ++ b : BitVec 32).extractLsb' 25 7).toNat = 0x51 := by
    simp (disch := decide) only [cut_hi, cut_lo, cut_all]; rfl
  have hr : ∀ w : BitVec 32, (w.extractLsb' 25 7).toNat = 0x51 → decodeRaw w = (row w 0xFE000000 0xA2000000 (.fpack (w.extractLsb' 18 7) (w.extractLsb' 16 2) (w.extractLsb' 9 7) (w.extractLsb' 7 2) (w.extractLsb' 0 7))) := by
    intro w h; unfold decodeRaw; rw [h]; rfl
  rw [hr _ ho]
  simp (disch := decide) only [row, hm, cut_hi, cut_lo, cut_all, if_true, if_false, Nat.reduceSub] <;> rfl
theorem funpack (d : BitVec 7) (i : BitVec 2) (s : BitVec 7) (f : BitVec 9) : Statement (.funpack d i s f) := by
  intro w h; cases h
  have hm : (0x52#7 ++ d ++ i ++ s ++ f : BitVec 32) &&& 0xfe000000 = 0xa4000000 := by
    rw [show (0xfe000000 : BitVec 32) = 0x7f#7 ++ 0x0#7 ++ 0x0#2 ++ 0x0#7 ++ 0x0#9 from rfl]
    simp only [BitVec.and_append, BitVec.and_zero]; rfl
  have ho : ((0x52#7 ++ d ++ i ++ s ++ f : BitVec 32).extractLsb' 25 7).toNat = 0x52 := by
    simp (disch := decide) only [cut_hi, cut_lo, cut_all]; rfl
  have hr : ∀ w : BitVec 32, (w.extractLsb' 25 7).toNat = 0x52 → decodeRaw w = (row w 0xFE000000 0xA4000000 (.funpack (w.extractLsb' 18 7) (w.extractLsb' 16 2) (w.extractLsb' 9 7) (w.extractLsb' 0 9))) := by
    intro w h; unfold decodeRaw; rw [h]; rfl
  rw [hr _ ho]
  simp (disch := decide) only [row, hm, cut_hi, cut_lo, cut_all, if_true, if_false, Nat.reduceSub] <;> rfl
theorem sqz (d : BitVec 7) (i : BitVec 2) (s : BitVec 7) (f : BitVec 9) : Statement (.sqz d i s f) := by
  intro w h; cases h
  have hm : (0x53#7 ++ d ++ i ++ s ++ f : BitVec 32) &&& 0xfe000000 = 0xa6000000 := by
    rw [show (0xfe000000 : BitVec 32) = 0x7f#7 ++ 0x0#7 ++ 0x0#2 ++ 0x0#7 ++ 0x0#9 from rfl]
    simp only [BitVec.and_append, BitVec.and_zero]; rfl
  have ho : ((0x53#7 ++ d ++ i ++ s ++ f : BitVec 32).extractLsb' 25 7).toNat = 0x53 := by
    simp (disch := decide) only [cut_hi, cut_lo, cut_all]; rfl
  have hr : ∀ w : BitVec 32, (w.extractLsb' 25 7).toNat = 0x53 → decodeRaw w = (row w 0xFE000000 0xA6000000 (.sqz (w.extractLsb' 18 7) (w.extractLsb' 16 2) (w.extractLsb' 9 7) (w.extractLsb' 0 9))) := by
    intro w h; unfold decodeRaw; rw [h]; rfl
  rw [hr _ ho]
  simp (disch := decide) only [row, hm, cut_hi, cut_lo, cut_all, if_true, if_false, Nat.reduceSub] <;> rfl
theorem vmov (d : BitVec 7) (i : BitVec 2) (s : BitVec 7) : Statement (.vmov d i s) := by
  intro w h; cases h
  have hm : (0x54#7 ++ d ++ i ++ s ++ 0x0#9 : BitVec 32) &&& 0xfe0001ff = 0xa8000000 := by
    rw [show (0xfe0001ff : BitVec 32) = 0x7f#7 ++ 0x0#7 ++ 0x0#2 ++ 0x0#7 ++ 0x1ff#9 from rfl]
    simp only [BitVec.and_append, BitVec.and_zero]; rfl
  have ho : ((0x54#7 ++ d ++ i ++ s ++ 0x0#9 : BitVec 32).extractLsb' 25 7).toNat = 0x54 := by
    simp (disch := decide) only [cut_hi, cut_lo, cut_all]; rfl
  have hr : ∀ w : BitVec 32, (w.extractLsb' 25 7).toNat = 0x54 → decodeRaw w = (row w 0xFE0001FF 0xA8000000 (.vmov (w.extractLsb' 18 7) (w.extractLsb' 16 2) (w.extractLsb' 9 7)) <|> row w 0xFE0001FF 0xA8000001 (.vmovS (w.extractLsb' 18 7) (w.extractLsb' 16 2) (w.extractLsb' 9 7)) <|> row w 0xFE03FFFF 0xA8000002 (.vmovI (w.extractLsb' 18 7))) := by
    intro w h; unfold decodeRaw; rw [h]; rfl
  rw [hr _ ho]
  simp (disch := decide) only [row, hm, cut_hi, cut_lo, cut_all, if_true, if_false, Nat.reduceSub] <;> rfl
theorem vmovS (d : BitVec 7) (i : BitVec 2) (s : BitVec 7) : Statement (.vmovS d i s) := by
  intro w h; cases h
  have hm : (0x54#7 ++ d ++ i ++ s ++ 0x1#9 : BitVec 32) &&& 0xfe0001ff = 0xa8000001 := by
    rw [show (0xfe0001ff : BitVec 32) = 0x7f#7 ++ 0x0#7 ++ 0x0#2 ++ 0x0#7 ++ 0x1ff#9 from rfl]
    simp only [BitVec.and_append, BitVec.and_zero]; rfl
  have h0 : ¬ (0x54#7 ++ d ++ i ++ s ++ 0x1#9 : BitVec 32) &&& 0xfe0001ff = 0xa8000000 := differs _ _ _ 0 (by simp only [BitVec.getLsbD_and, BitVec.getLsbD_append, Nat.reduceLT, Nat.reduceSub, if_true, if_false]; decide)
  have ho : ((0x54#7 ++ d ++ i ++ s ++ 0x1#9 : BitVec 32).extractLsb' 25 7).toNat = 0x54 := by
    simp (disch := decide) only [cut_hi, cut_lo, cut_all]; rfl
  have hr : ∀ w : BitVec 32, (w.extractLsb' 25 7).toNat = 0x54 → decodeRaw w = (row w 0xFE0001FF 0xA8000000 (.vmov (w.extractLsb' 18 7) (w.extractLsb' 16 2) (w.extractLsb' 9 7)) <|> row w 0xFE0001FF 0xA8000001 (.vmovS (w.extractLsb' 18 7) (w.extractLsb' 16 2) (w.extractLsb' 9 7)) <|> row w 0xFE03FFFF 0xA8000002 (.vmovI (w.extractLsb' 18 7))) := by
    intro w h; unfold decodeRaw; rw [h]; rfl
  rw [hr _ ho]
  simp (disch := decide) only [row, hm, h0, cut_hi, cut_lo, cut_all, if_true, if_false, Nat.reduceSub] <;> rfl
theorem vmovI (d : BitVec 7) : Statement (.vmovI d) := by
  intro w h; cases h
  have hm : (0x54#7 ++ d ++ 0x2#18 : BitVec 32) &&& 0xfe03ffff = 0xa8000002 := by
    rw [show (0xfe03ffff : BitVec 32) = 0x7f#7 ++ 0x0#7 ++ 0x3ffff#18 from rfl]
    simp only [BitVec.and_append, BitVec.and_zero]; rfl
  have h0 : ¬ (0x54#7 ++ d ++ 0x2#18 : BitVec 32) &&& 0xfe0001ff = 0xa8000000 := differs _ _ _ 1 (by simp only [BitVec.getLsbD_and, BitVec.getLsbD_append, Nat.reduceLT, Nat.reduceSub, if_true, if_false]; decide)
  have h1 : ¬ (0x54#7 ++ d ++ 0x2#18 : BitVec 32) &&& 0xfe0001ff = 0xa8000001 := differs _ _ _ 1 (by simp only [BitVec.getLsbD_and, BitVec.getLsbD_append, Nat.reduceLT, Nat.reduceSub, if_true, if_false]; decide)
  have ho : ((0x54#7 ++ d ++ 0x2#18 : BitVec 32).extractLsb' 25 7).toNat = 0x54 := by
    simp (disch := decide) only [cut_hi, cut_lo, cut_all]; rfl
  have hr : ∀ w : BitVec 32, (w.extractLsb' 25 7).toNat = 0x54 → decodeRaw w = (row w 0xFE0001FF 0xA8000000 (.vmov (w.extractLsb' 18 7) (w.extractLsb' 16 2) (w.extractLsb' 9 7)) <|> row w 0xFE0001FF 0xA8000001 (.vmovS (w.extractLsb' 18 7) (w.extractLsb' 16 2) (w.extractLsb' 9 7)) <|> row w 0xFE03FFFF 0xA8000002 (.vmovI (w.extractLsb' 18 7))) := by
    intro w h; unfold decodeRaw; rw [h]; rfl
  rw [hr _ ho]
  simp (disch := decide) only [row, hm, h0, h1, cut_hi, cut_lo, cut_all, if_true, if_false, Nat.reduceSub] <;> rfl
theorem vperm (d : BitVec 7) (i : BitVec 2) (a : BitVec 7) (j : BitVec 2) (b : BitVec 7) : Statement (.vperm d i a j b) := by
  intro w h; cases h
  have hm : (0x55#7 ++ d ++ i ++ a ++ j ++ b : BitVec 32) &&& 0xfe000000 = 0xaa000000 := by
    rw [show (0xfe000000 : BitVec 32) = 0x7f#7 ++ 0x0#7 ++ 0x0#2 ++ 0x0#7 ++ 0x0#2 ++ 0x0#7 from rfl]
    simp only [BitVec.and_append, BitVec.and_zero]; rfl
  have ho : ((0x55#7 ++ d ++ i ++ a ++ j ++ b : BitVec 32).extractLsb' 25 7).toNat = 0x55 := by
    simp (disch := decide) only [cut_hi, cut_lo, cut_all]; rfl
  have hr : ∀ w : BitVec 32, (w.extractLsb' 25 7).toNat = 0x55 → decodeRaw w = (row w 0xFE000000 0xAA000000 (.vperm (w.extractLsb' 18 7) (w.extractLsb' 16 2) (w.extractLsb' 9 7) (w.extractLsb' 7 2) (w.extractLsb' 0 7))) := by
    intro w h; unfold decodeRaw; rw [h]; rfl
  rw [hr _ ho]
  simp (disch := decide) only [row, hm, cut_hi, cut_lo, cut_all, if_true, if_false, Nat.reduceSub] <;> rfl
theorem vtbl (d : BitVec 7) (i : BitVec 2) (a : BitVec 7) (j : BitVec 2) (b : BitVec 7) : Statement (.vtbl d i a j b) := by
  intro w h; cases h
  have hm : (0x56#7 ++ d ++ i ++ a ++ j ++ b : BitVec 32) &&& 0xfe000000 = 0xac000000 := by
    rw [show (0xfe000000 : BitVec 32) = 0x7f#7 ++ 0x0#7 ++ 0x0#2 ++ 0x0#7 ++ 0x0#2 ++ 0x0#7 from rfl]
    simp only [BitVec.and_append, BitVec.and_zero]; rfl
  have ho : ((0x56#7 ++ d ++ i ++ a ++ j ++ b : BitVec 32).extractLsb' 25 7).toNat = 0x56 := by
    simp (disch := decide) only [cut_hi, cut_lo, cut_all]; rfl
  have hr : ∀ w : BitVec 32, (w.extractLsb' 25 7).toNat = 0x56 → decodeRaw w = (row w 0xFE000000 0xAC000000 (.vtbl (w.extractLsb' 18 7) (w.extractLsb' 16 2) (w.extractLsb' 9 7) (w.extractLsb' 7 2) (w.extractLsb' 0 7))) := by
    intro w h; unfold decodeRaw; rw [h]; rfl
  rw [hr _ ho]
  simp (disch := decide) only [row, hm, cut_hi, cut_lo, cut_all, if_true, if_false, Nat.reduceSub] <;> rfl
theorem vshuf (d : BitVec 7) (i : BitVec 2) (a : BitVec 7) (j : BitVec 2) (b : BitVec 7) : Statement (.vshuf d i a j b) := by
  intro w h; cases h
  have hm : (0x57#7 ++ d ++ i ++ a ++ j ++ b : BitVec 32) &&& 0xfe000000 = 0xae000000 := by
    rw [show (0xfe000000 : BitVec 32) = 0x7f#7 ++ 0x0#7 ++ 0x0#2 ++ 0x0#7 ++ 0x0#2 ++ 0x0#7 from rfl]
    simp only [BitVec.and_append, BitVec.and_zero]; rfl
  have ho : ((0x57#7 ++ d ++ i ++ a ++ j ++ b : BitVec 32).extractLsb' 25 7).toNat = 0x57 := by
    simp (disch := decide) only [cut_hi, cut_lo, cut_all]; rfl
  have hr : ∀ w : BitVec 32, (w.extractLsb' 25 7).toNat = 0x57 → decodeRaw w = (row w 0xFE000000 0xAE000000 (.vshuf (w.extractLsb' 18 7) (w.extractLsb' 16 2) (w.extractLsb' 9 7) (w.extractLsb' 7 2) (w.extractLsb' 0 7))) := by
    intro w h; unfold decodeRaw; rw [h]; rfl
  rw [hr _ ho]
  simp (disch := decide) only [row, hm, cut_hi, cut_lo, cut_all, if_true, if_false, Nat.reduceSub] <;> rfl
theorem vred (d : BitVec 7) (i : BitVec 2) (s : BitVec 7) (f : BitVec 9) : Statement (.vred d i s f) := by
  intro w h; cases h
  have hm : (0x58#7 ++ d ++ i ++ s ++ f : BitVec 32) &&& 0xfe000000 = 0xb0000000 := by
    rw [show (0xfe000000 : BitVec 32) = 0x7f#7 ++ 0x0#7 ++ 0x0#2 ++ 0x0#7 ++ 0x0#9 from rfl]
    simp only [BitVec.and_append, BitVec.and_zero]; rfl
  have ho : ((0x58#7 ++ d ++ i ++ s ++ f : BitVec 32).extractLsb' 25 7).toNat = 0x58 := by
    simp (disch := decide) only [cut_hi, cut_lo, cut_all]; rfl
  have hr : ∀ w : BitVec 32, (w.extractLsb' 25 7).toNat = 0x58 → decodeRaw w = (row w 0xFE000000 0xB0000000 (.vred (w.extractLsb' 18 7) (w.extractLsb' 16 2) (w.extractLsb' 9 7) (w.extractLsb' 0 9))) := by
    intro w h; unfold decodeRaw; rw [h]; rfl
  rw [hr _ ho]
  simp (disch := decide) only [row, hm, cut_hi, cut_lo, cut_all, if_true, if_false, Nat.reduceSub] <;> rfl
theorem vscan (d : BitVec 7) (i : BitVec 2) (s : BitVec 7) (f : BitVec 9) : Statement (.vscan d i s f) := by
  intro w h; cases h
  have hm : (0x59#7 ++ d ++ i ++ s ++ f : BitVec 32) &&& 0xfe000000 = 0xb2000000 := by
    rw [show (0xfe000000 : BitVec 32) = 0x7f#7 ++ 0x0#7 ++ 0x0#2 ++ 0x0#7 ++ 0x0#9 from rfl]
    simp only [BitVec.and_append, BitVec.and_zero]; rfl
  have ho : ((0x59#7 ++ d ++ i ++ s ++ f : BitVec 32).extractLsb' 25 7).toNat = 0x59 := by
    simp (disch := decide) only [cut_hi, cut_lo, cut_all]; rfl
  have hr : ∀ w : BitVec 32, (w.extractLsb' 25 7).toNat = 0x59 → decodeRaw w = (row w 0xFE000000 0xB2000000 (.vscan (w.extractLsb' 18 7) (w.extractLsb' 16 2) (w.extractLsb' 9 7) (w.extractLsb' 0 9))) := by
    intro w h; unfold decodeRaw; rw [h]; rfl
  rw [hr _ ho]
  simp (disch := decide) only [row, hm, cut_hi, cut_lo, cut_all, if_true, if_false, Nat.reduceSub] <;> rfl
theorem vballot (d : BitVec 7) (p : BitVec 3) : Statement (.vballot d p) := by
  intro w h; cases h
  have hm : (0x5A#7 ++ d ++ 0x0#6 ++ p ++ 0x0#9 : BitVec 32) &&& 0xfe03f1ff = 0xb4000000 := by
    rw [show (0xfe03f1ff : BitVec 32) = 0x7f#7 ++ 0x0#7 ++ 0x3f#6 ++ 0x0#3 ++ 0x1ff#9 from rfl]
    simp only [BitVec.and_append, BitVec.and_zero]; rfl
  have ho : ((0x5A#7 ++ d ++ 0x0#6 ++ p ++ 0x0#9 : BitVec 32).extractLsb' 25 7).toNat = 0x5a := by
    simp (disch := decide) only [cut_hi, cut_lo, cut_all]; rfl
  have hr : ∀ w : BitVec 32, (w.extractLsb' 25 7).toNat = 0x5a → decodeRaw w = (row w 0xFE03F1FF 0xB4000000 (.vballot (w.extractLsb' 18 7) (w.extractLsb' 9 3))) := by
    intro w h; unfold decodeRaw; rw [h]; rfl
  rw [hr _ ho]
  simp (disch := decide) only [row, hm, cut_hi, cut_lo, cut_all, if_true, if_false, Nat.reduceSub] <;> rfl
theorem vrel (d : BitVec 7) (i : BitVec 2) (a : BitVec 7) (b : BitVec 7) : Statement (.vrel d i a b) := by
  intro w h; cases h
  have hm : (0x5B#7 ++ d ++ i ++ a ++ 0x0#2 ++ b : BitVec 32) &&& 0xfe000180 = 0xb6000000 := by
    rw [show (0xfe000180 : BitVec 32) = 0x7f#7 ++ 0x0#7 ++ 0x0#2 ++ 0x0#7 ++ 0x3#2 ++ 0x0#7 from rfl]
    simp only [BitVec.and_append, BitVec.and_zero]; rfl
  have ho : ((0x5B#7 ++ d ++ i ++ a ++ 0x0#2 ++ b : BitVec 32).extractLsb' 25 7).toNat = 0x5b := by
    simp (disch := decide) only [cut_hi, cut_lo, cut_all]; rfl
  have hr : ∀ w : BitVec 32, (w.extractLsb' 25 7).toNat = 0x5b → decodeRaw w = (row w 0xFE000180 0xB6000000 (.vrel (w.extractLsb' 18 7) (w.extractLsb' 16 2) (w.extractLsb' 9 7) (w.extractLsb' 0 7)) <|> row w 0xFE000180 0xB6000080 (.vrelSt (w.extractLsb' 18 7) (w.extractLsb' 16 2) (w.extractLsb' 9 7) (w.extractLsb' 0 7))) := by
    intro w h; unfold decodeRaw; rw [h]; rfl
  rw [hr _ ho]
  simp (disch := decide) only [row, hm, cut_hi, cut_lo, cut_all, if_true, if_false, Nat.reduceSub] <;> rfl
theorem vrelSt (d : BitVec 7) (i : BitVec 2) (a : BitVec 7) (b : BitVec 7) : Statement (.vrelSt d i a b) := by
  intro w h; cases h
  have hm : (0x5B#7 ++ d ++ i ++ a ++ 0x1#2 ++ b : BitVec 32) &&& 0xfe000180 = 0xb6000080 := by
    rw [show (0xfe000180 : BitVec 32) = 0x7f#7 ++ 0x0#7 ++ 0x0#2 ++ 0x0#7 ++ 0x3#2 ++ 0x0#7 from rfl]
    simp only [BitVec.and_append, BitVec.and_zero]; rfl
  have h0 : ¬ (0x5B#7 ++ d ++ i ++ a ++ 0x1#2 ++ b : BitVec 32) &&& 0xfe000180 = 0xb6000000 := differs _ _ _ 7 (by simp only [BitVec.getLsbD_and, BitVec.getLsbD_append, Nat.reduceLT, Nat.reduceSub, if_true, if_false]; decide)
  have ho : ((0x5B#7 ++ d ++ i ++ a ++ 0x1#2 ++ b : BitVec 32).extractLsb' 25 7).toNat = 0x5b := by
    simp (disch := decide) only [cut_hi, cut_lo, cut_all]; rfl
  have hr : ∀ w : BitVec 32, (w.extractLsb' 25 7).toNat = 0x5b → decodeRaw w = (row w 0xFE000180 0xB6000000 (.vrel (w.extractLsb' 18 7) (w.extractLsb' 16 2) (w.extractLsb' 9 7) (w.extractLsb' 0 7)) <|> row w 0xFE000180 0xB6000080 (.vrelSt (w.extractLsb' 18 7) (w.extractLsb' 16 2) (w.extractLsb' 9 7) (w.extractLsb' 0 7))) := by
    intro w h; unfold decodeRaw; rw [h]; rfl
  rw [hr _ ho]
  simp (disch := decide) only [row, hm, h0, cut_hi, cut_lo, cut_all, if_true, if_false, Nat.reduceSub] <;> rfl
theorem ld (d : BitVec 7) (s : BitVec 3) (k : BitVec 1) (a : BitVec 6) (o : BitVec 8) : Statement (.ld d s k a o) := by
  intro w h; cases h
  have hm : (0x5C#7 ++ d ++ s ++ k ++ a ++ o : BitVec 32) &&& 0xfe000000 = 0xb8000000 := by
    rw [show (0xfe000000 : BitVec 32) = 0x7f#7 ++ 0x0#7 ++ 0x0#3 ++ 0x0#1 ++ 0x0#6 ++ 0x0#8 from rfl]
    simp only [BitVec.and_append, BitVec.and_zero]; rfl
  have ho : ((0x5C#7 ++ d ++ s ++ k ++ a ++ o : BitVec 32).extractLsb' 25 7).toNat = 0x5c := by
    simp (disch := decide) only [cut_hi, cut_lo, cut_all]; rfl
  have hr : ∀ w : BitVec 32, (w.extractLsb' 25 7).toNat = 0x5c → decodeRaw w = (row w 0xFE000000 0xB8000000 (.ld (w.extractLsb' 18 7) (w.extractLsb' 15 3) (w.extractLsb' 14 1) (w.extractLsb' 8 6) (w.extractLsb' 0 8))) := by
    intro w h; unfold decodeRaw; rw [h]; rfl
  rw [hr _ ho]
  simp (disch := decide) only [row, hm, cut_hi, cut_lo, cut_all, if_true, if_false, Nat.reduceSub] <;> rfl
theorem st (d : BitVec 7) (s : BitVec 3) (k : BitVec 1) (a : BitVec 6) (o : BitVec 8) : Statement (.st d s k a o) := by
  intro w h; cases h
  have hm : (0x5D#7 ++ d ++ s ++ k ++ a ++ o : BitVec 32) &&& 0xfe000000 = 0xba000000 := by
    rw [show (0xfe000000 : BitVec 32) = 0x7f#7 ++ 0x0#7 ++ 0x0#3 ++ 0x0#1 ++ 0x0#6 ++ 0x0#8 from rfl]
    simp only [BitVec.and_append, BitVec.and_zero]; rfl
  have ho : ((0x5D#7 ++ d ++ s ++ k ++ a ++ o : BitVec 32).extractLsb' 25 7).toNat = 0x5d := by
    simp (disch := decide) only [cut_hi, cut_lo, cut_all]; rfl
  have hr : ∀ w : BitVec 32, (w.extractLsb' 25 7).toNat = 0x5d → decodeRaw w = (row w 0xFE000000 0xBA000000 (.st (w.extractLsb' 18 7) (w.extractLsb' 15 3) (w.extractLsb' 14 1) (w.extractLsb' 8 6) (w.extractLsb' 0 8))) := by
    intro w h; unfold decodeRaw; rw [h]; rfl
  rw [hr _ ho]
  simp (disch := decide) only [row, hm, cut_hi, cut_lo, cut_all, if_true, if_false, Nat.reduceSub] <;> rfl
theorem ldu (z : BitVec 1) (d : BitVec 6) (s : BitVec 3) (a : BitVec 6) (o : BitVec 8) : Statement (.ldu z d s a o) := by
  intro w h; cases h
  have hm : (0x5E#7 ++ z ++ d ++ s ++ 0x1#1 ++ a ++ o : BitVec 32) &&& 0xfe004000 = 0xbc004000 := by
    rw [show (0xfe004000 : BitVec 32) = 0x7f#7 ++ 0x0#1 ++ 0x0#6 ++ 0x0#3 ++ 0x1#1 ++ 0x0#6 ++ 0x0#8 from rfl]
    simp only [BitVec.and_append, BitVec.and_zero]; rfl
  have ho : ((0x5E#7 ++ z ++ d ++ s ++ 0x1#1 ++ a ++ o : BitVec 32).extractLsb' 25 7).toNat = 0x5e := by
    simp (disch := decide) only [cut_hi, cut_lo, cut_all]; rfl
  have hr : ∀ w : BitVec 32, (w.extractLsb' 25 7).toNat = 0x5e → decodeRaw w = (row w 0xFE004000 0xBC004000 (.ldu (w.extractLsb' 24 1) (w.extractLsb' 18 6) (w.extractLsb' 15 3) (w.extractLsb' 8 6) (w.extractLsb' 0 8))) := by
    intro w h; unfold decodeRaw; rw [h]; rfl
  rw [hr _ ho]
  simp (disch := decide) only [row, hm, cut_hi, cut_lo, cut_all, if_true, if_false, Nat.reduceSub] <;> rfl
theorem stu (z : BitVec 1) (d : BitVec 6) (s : BitVec 3) (a : BitVec 6) (o : BitVec 8) : Statement (.stu z d s a o) := by
  intro w h; cases h
  have hm : (0x5F#7 ++ z ++ d ++ s ++ 0x1#1 ++ a ++ o : BitVec 32) &&& 0xfe004000 = 0xbe004000 := by
    rw [show (0xfe004000 : BitVec 32) = 0x7f#7 ++ 0x0#1 ++ 0x0#6 ++ 0x0#3 ++ 0x1#1 ++ 0x0#6 ++ 0x0#8 from rfl]
    simp only [BitVec.and_append, BitVec.and_zero]; rfl
  have ho : ((0x5F#7 ++ z ++ d ++ s ++ 0x1#1 ++ a ++ o : BitVec 32).extractLsb' 25 7).toNat = 0x5f := by
    simp (disch := decide) only [cut_hi, cut_lo, cut_all]; rfl
  have hr : ∀ w : BitVec 32, (w.extractLsb' 25 7).toNat = 0x5f → decodeRaw w = (row w 0xFE004000 0xBE004000 (.stu (w.extractLsb' 24 1) (w.extractLsb' 18 6) (w.extractLsb' 15 3) (w.extractLsb' 8 6) (w.extractLsb' 0 8))) := by
    intro w h; unfold decodeRaw; rw [h]; rfl
  rw [hr _ ho]
  simp (disch := decide) only [row, hm, cut_hi, cut_lo, cut_all, if_true, if_false, Nat.reduceSub] <;> rfl
theorem ldt (d : BitVec 7) (s : BitVec 3) (k : BitVec 1) (a : BitVec 6) (o : BitVec 8) : Statement (.ldt d s k a o) := by
  intro w h; cases h
  have hm : (0x60#7 ++ d ++ s ++ k ++ a ++ o : BitVec 32) &&& 0xfe000000 = 0xc0000000 := by
    rw [show (0xfe000000 : BitVec 32) = 0x7f#7 ++ 0x0#7 ++ 0x0#3 ++ 0x0#1 ++ 0x0#6 ++ 0x0#8 from rfl]
    simp only [BitVec.and_append, BitVec.and_zero]; rfl
  have ho : ((0x60#7 ++ d ++ s ++ k ++ a ++ o : BitVec 32).extractLsb' 25 7).toNat = 0x60 := by
    simp (disch := decide) only [cut_hi, cut_lo, cut_all]; rfl
  have hr : ∀ w : BitVec 32, (w.extractLsb' 25 7).toNat = 0x60 → decodeRaw w = (row w 0xFE000000 0xC0000000 (.ldt (w.extractLsb' 18 7) (w.extractLsb' 15 3) (w.extractLsb' 14 1) (w.extractLsb' 8 6) (w.extractLsb' 0 8))) := by
    intro w h; unfold decodeRaw; rw [h]; rfl
  rw [hr _ ho]
  simp (disch := decide) only [row, hm, cut_hi, cut_lo, cut_all, if_true, if_false, Nat.reduceSub] <;> rfl
theorem stt (d : BitVec 7) (s : BitVec 3) (k : BitVec 1) (a : BitVec 6) (o : BitVec 8) : Statement (.stt d s k a o) := by
  intro w h; cases h
  have hm : (0x61#7 ++ d ++ s ++ k ++ a ++ o : BitVec 32) &&& 0xfe000000 = 0xc2000000 := by
    rw [show (0xfe000000 : BitVec 32) = 0x7f#7 ++ 0x0#7 ++ 0x0#3 ++ 0x0#1 ++ 0x0#6 ++ 0x0#8 from rfl]
    simp only [BitVec.and_append, BitVec.and_zero]; rfl
  have ho : ((0x61#7 ++ d ++ s ++ k ++ a ++ o : BitVec 32).extractLsb' 25 7).toNat = 0x61 := by
    simp (disch := decide) only [cut_hi, cut_lo, cut_all]; rfl
  have hr : ∀ w : BitVec 32, (w.extractLsb' 25 7).toNat = 0x61 → decodeRaw w = (row w 0xFE000000 0xC2000000 (.stt (w.extractLsb' 18 7) (w.extractLsb' 15 3) (w.extractLsb' 14 1) (w.extractLsb' 8 6) (w.extractLsb' 0 8))) := by
    intro w h; unfold decodeRaw; rw [h]; rfl
  rw [hr _ ho]
  simp (disch := decide) only [row, hm, cut_hi, cut_lo, cut_all, if_true, if_false, Nat.reduceSub] <;> rfl
theorem ldb (d : BitVec 7) (s : BitVec 3) (a : BitVec 6) (o : BitVec 8) : Statement (.ldb d s a o) := by
  intro w h; cases h
  have hm : (0x62#7 ++ d ++ s ++ 0x1#1 ++ a ++ o : BitVec 32) &&& 0xfe004000 = 0xc4004000 := by
    rw [show (0xfe004000 : BitVec 32) = 0x7f#7 ++ 0x0#7 ++ 0x0#3 ++ 0x1#1 ++ 0x0#6 ++ 0x0#8 from rfl]
    simp only [BitVec.and_append, BitVec.and_zero]; rfl
  have ho : ((0x62#7 ++ d ++ s ++ 0x1#1 ++ a ++ o : BitVec 32).extractLsb' 25 7).toNat = 0x62 := by
    simp (disch := decide) only [cut_hi, cut_lo, cut_all]; rfl
  have hr : ∀ w : BitVec 32, (w.extractLsb' 25 7).toNat = 0x62 → decodeRaw w = (row w 0xFE004000 0xC4004000 (.ldb (w.extractLsb' 18 7) (w.extractLsb' 15 3) (w.extractLsb' 8 6) (w.extractLsb' 0 8))) := by
    intro w h; unfold decodeRaw; rw [h]; rfl
  rw [hr _ ho]
  simp (disch := decide) only [row, hm, cut_hi, cut_lo, cut_all, if_true, if_false, Nat.reduceSub] <;> rfl
theorem prf (l : BitVec 1) (s : BitVec 3) (k : BitVec 1) (a : BitVec 6) (o : BitVec 8) : Statement (.prf l s k a o) := by
  intro w h; cases h
  have hm : (0x18C0#13 ++ l ++ s ++ k ++ a ++ o : BitVec 32) &&& 0xfff80000 = 0xc6000000 := by
    rw [show (0xfff80000 : BitVec 32) = 0x1fff#13 ++ 0x0#1 ++ 0x0#3 ++ 0x0#1 ++ 0x0#6 ++ 0x0#8 from rfl]
    simp only [BitVec.and_append, BitVec.and_zero]; rfl
  have ho : ((0x18C0#13 ++ l ++ s ++ k ++ a ++ o : BitVec 32).extractLsb' 25 7).toNat = 0x63 := by
    simp (disch := decide) only [cut_hi, cut_lo, cut_all]; rfl
  have hr : ∀ w : BitVec 32, (w.extractLsb' 25 7).toNat = 0x63 → decodeRaw w = (row w 0xFFF80000 0xC6000000 (.prf (w.extractLsb' 18 1) (w.extractLsb' 15 3) (w.extractLsb' 14 1) (w.extractLsb' 8 6) (w.extractLsb' 0 8))) := by
    intro w h; unfold decodeRaw; rw [h]; rfl
  rw [hr _ ho]
  simp (disch := decide) only [row, hm, cut_hi, cut_lo, cut_all, if_true, if_false, Nat.reduceSub] <;> rfl
theorem atom (d : BitVec 7) (s : BitVec 3) (k : BitVec 1) (a : BitVec 6) (o : BitVec 4) (r : BitVec 1) : Statement (.atom d s k a o r) := by
  intro w h; cases h
  have hm : (0x64#7 ++ d ++ s ++ k ++ a ++ o ++ r ++ 0x0#3 : BitVec 32) &&& 0xfe000007 = 0xc8000000 := by
    rw [show (0xfe000007 : BitVec 32) = 0x7f#7 ++ 0x0#7 ++ 0x0#3 ++ 0x0#1 ++ 0x0#6 ++ 0x0#4 ++ 0x0#1 ++ 0x7#3 from rfl]
    simp only [BitVec.and_append, BitVec.and_zero]; rfl
  have ho : ((0x64#7 ++ d ++ s ++ k ++ a ++ o ++ r ++ 0x0#3 : BitVec 32).extractLsb' 25 7).toNat = 0x64 := by
    simp (disch := decide) only [cut_hi, cut_lo, cut_all]; rfl
  have hr : ∀ w : BitVec 32, (w.extractLsb' 25 7).toNat = 0x64 → decodeRaw w = (row w 0xFE000007 0xC8000000 (.atom (w.extractLsb' 18 7) (w.extractLsb' 15 3) (w.extractLsb' 14 1) (w.extractLsb' 8 6) (w.extractLsb' 4 4) (w.extractLsb' 3 1))) := by
    intro w h; unfold decodeRaw; rw [h]; rfl
  rw [hr _ ho]
  simp (disch := decide) only [row, hm, cut_hi, cut_lo, cut_all, if_true, if_false, Nat.reduceSub] <;> rfl
theorem fatom (d : BitVec 7) (s : BitVec 3) (k : BitVec 1) (a : BitVec 6) (o : BitVec 4) (r : BitVec 1) : Statement (.fatom d s k a o r) := by
  intro w h; cases h
  have hm : (0x65#7 ++ d ++ s ++ k ++ a ++ o ++ r ++ 0x0#3 : BitVec 32) &&& 0xfe000007 = 0xca000000 := by
    rw [show (0xfe000007 : BitVec 32) = 0x7f#7 ++ 0x0#7 ++ 0x0#3 ++ 0x0#1 ++ 0x0#6 ++ 0x0#4 ++ 0x0#1 ++ 0x7#3 from rfl]
    simp only [BitVec.and_append, BitVec.and_zero]; rfl
  have ho : ((0x65#7 ++ d ++ s ++ k ++ a ++ o ++ r ++ 0x0#3 : BitVec 32).extractLsb' 25 7).toNat = 0x65 := by
    simp (disch := decide) only [cut_hi, cut_lo, cut_all]; rfl
  have hr : ∀ w : BitVec 32, (w.extractLsb' 25 7).toNat = 0x65 → decodeRaw w = (row w 0xFE000007 0xCA000000 (.fatom (w.extractLsb' 18 7) (w.extractLsb' 15 3) (w.extractLsb' 14 1) (w.extractLsb' 8 6) (w.extractLsb' 4 4) (w.extractLsb' 3 1))) := by
    intro w h; unfold decodeRaw; rw [h]; rfl
  rw [hr _ ho]
  simp (disch := decide) only [row, hm, cut_hi, cut_lo, cut_all, if_true, if_false, Nat.reduceSub] <;> rfl
theorem fence (s : BitVec 3) (o : BitVec 2) : Statement (.fence s o) := by
  intro w h; cases h
  have hm : (0x3300#14 ++ s ++ 0x0#4 ++ o ++ 0x0#9 : BitVec 32) &&& 0xfffc79ff = 0xcc000000 := by
    rw [show (0xfffc79ff : BitVec 32) = 0x3fff#14 ++ 0x0#3 ++ 0xf#4 ++ 0x0#2 ++ 0x1ff#9 from rfl]
    simp only [BitVec.and_append, BitVec.and_zero]; rfl
  have ho : ((0x3300#14 ++ s ++ 0x0#4 ++ o ++ 0x0#9 : BitVec 32).extractLsb' 25 7).toNat = 0x66 := by
    simp (disch := decide) only [cut_hi, cut_lo, cut_all]; rfl
  have hr : ∀ w : BitVec 32, (w.extractLsb' 25 7).toNat = 0x66 → decodeRaw w = (row w 0xFFFC79FF 0xCC000000 (.fence (w.extractLsb' 15 3) (w.extractLsb' 9 2))) := by
    intro w h; unfold decodeRaw; rw [h]; rfl
  rw [hr _ ho]
  simp (disch := decide) only [row, hm, cut_hi, cut_lo, cut_all, if_true, if_false, Nat.reduceSub] <;> rfl
theorem bar (s : BitVec 3) (i : BitVec 4) : Statement (.bar s i) := by
  intro w h; cases h
  have hm : (0x3380#14 ++ s ++ 0x0#11 ++ i : BitVec 32) &&& 0xfffc7ff0 = 0xce000000 := by
    rw [show (0xfffc7ff0 : BitVec 32) = 0x3fff#14 ++ 0x0#3 ++ 0x7ff#11 ++ 0x0#4 from rfl]
    simp only [BitVec.and_append, BitVec.and_zero]; rfl
  have ho : ((0x3380#14 ++ s ++ 0x0#11 ++ i : BitVec 32).extractLsb' 25 7).toNat = 0x67 := by
    simp (disch := decide) only [cut_hi, cut_lo, cut_all]; rfl
  have hr : ∀ w : BitVec 32, (w.extractLsb' 25 7).toNat = 0x67 → decodeRaw w = (row w 0xFFFC7FF0 0xCE000000 (.bar (w.extractLsb' 15 3) (w.extractLsb' 0 4))) := by
    intro w h; unfold decodeRaw; rw [h]; rfl
  rw [hr _ ho]
  simp (disch := decide) only [row, hm, cut_hi, cut_lo, cut_all, if_true, if_false, Nat.reduceSub] <;> rfl
theorem waita (d : BitVec 7) (s : BitVec 3) (n : BitVec 1) (p : BitVec 3) (c : BitVec 2) (g : BitVec 3) (w : BitVec 1) : Statement (.waita d s n p c g w) := by
  intro w h; cases h
  have hm : (0x68#7 ++ d ++ s ++ n ++ p ++ c ++ g ++ w ++ 0x0#5 : BitVec 32) &&& 0xfe00001f = 0xd0000000 := by
    rw [show (0xfe00001f : BitVec 32) = 0x7f#7 ++ 0x0#7 ++ 0x0#3 ++ 0x0#1 ++ 0x0#3 ++ 0x0#2 ++ 0x0#3 ++ 0x0#1 ++ 0x1f#5 from rfl]
    simp only [BitVec.and_append, BitVec.and_zero]; rfl
  have ho : ((0x68#7 ++ d ++ s ++ n ++ p ++ c ++ g ++ w ++ 0x0#5 : BitVec 32).extractLsb' 25 7).toNat = 0x68 := by
    simp (disch := decide) only [cut_hi, cut_lo, cut_all]; rfl
  have hr : ∀ w : BitVec 32, (w.extractLsb' 25 7).toNat = 0x68 → decodeRaw w = (row w 0xFE00001F 0xD0000000 (.waita (w.extractLsb' 18 7) (w.extractLsb' 15 3) (w.extractLsb' 14 1) (w.extractLsb' 11 3) (w.extractLsb' 9 2) (w.extractLsb' 6 3) (w.extractLsb' 5 1))) := by
    intro w h; unfold decodeRaw; rw [h]; rfl
  rw [hr _ ho]
  simp (disch := decide) only [row, hm, cut_hi, cut_lo, cut_all, if_true, if_false, Nat.reduceSub] <;> rfl
theorem waitaRecheck (x0 : Nat) (x1 : Nat) (x2 : Nat) : Statement (.waitaRecheck x0 x1 x2) := nofun
theorem wcnt (s : BitVec 3) (n : BitVec 1) (p : BitVec 3) (c : BitVec 3) (k : BitVec 8) : Statement (.wcnt s n p c k) := by
  intro w h; cases h
  have hm : (0x3480#14 ++ s ++ n ++ p ++ c ++ k : BitVec 32) &&& 0xfffc0000 = 0xd2000000 := by
    rw [show (0xfffc0000 : BitVec 32) = 0x3fff#14 ++ 0x0#3 ++ 0x0#1 ++ 0x0#3 ++ 0x0#3 ++ 0x0#8 from rfl]
    simp only [BitVec.and_append, BitVec.and_zero]; rfl
  have ho : ((0x3480#14 ++ s ++ n ++ p ++ c ++ k : BitVec 32).extractLsb' 25 7).toNat = 0x69 := by
    simp (disch := decide) only [cut_hi, cut_lo, cut_all]; rfl
  have hr : ∀ w : BitVec 32, (w.extractLsb' 25 7).toNat = 0x69 → decodeRaw w = (row w 0xFFFC0000 0xD2000000 (.wcnt (w.extractLsb' 15 3) (w.extractLsb' 14 1) (w.extractLsb' 11 3) (w.extractLsb' 8 3) (w.extractLsb' 0 8))) := by
    intro w h; unfold decodeRaw; rw [h]; rfl
  rw [hr _ ho]
  simp (disch := decide) only [row, hm, cut_hi, cut_lo, cut_all, if_true, if_false, Nat.reduceSub] <;> rfl
theorem dfence (d : BitVec 7) (s : BitVec 3) : Statement (.dfence d s) := by
  intro w h; cases h
  have hm : (0x6A#7 ++ d ++ s ++ 0x0#15 : BitVec 32) &&& 0xfe007fff = 0xd4000000 := by
    rw [show (0xfe007fff : BitVec 32) = 0x7f#7 ++ 0x0#7 ++ 0x0#3 ++ 0x7fff#15 from rfl]
    simp only [BitVec.and_append, BitVec.and_zero]; rfl
  have ho : ((0x6A#7 ++ d ++ s ++ 0x0#15 : BitVec 32).extractLsb' 25 7).toNat = 0x6a := by
    simp (disch := decide) only [cut_hi, cut_lo, cut_all]; rfl
  have hr : ∀ w : BitVec 32, (w.extractLsb' 25 7).toNat = 0x6a → decodeRaw w = (row w 0xFE007FFF 0xD4000000 (.dfence (w.extractLsb' 18 7) (w.extractLsb' 15 3)) <|> row w 0xFFFC7FFF 0xD4000400 (.dfenceAll (w.extractLsb' 15 3))) := by
    intro w h; unfold decodeRaw; rw [h]; rfl
  rw [hr _ ho]
  simp (disch := decide) only [row, hm, cut_hi, cut_lo, cut_all, if_true, if_false, Nat.reduceSub] <;> rfl
theorem dfenceAll (s : BitVec 3) : Statement (.dfenceAll s) := by
  intro w h; cases h
  have hm : (0x3500#14 ++ s ++ 0x400#15 : BitVec 32) &&& 0xfffc7fff = 0xd4000400 := by
    rw [show (0xfffc7fff : BitVec 32) = 0x3fff#14 ++ 0x0#3 ++ 0x7fff#15 from rfl]
    simp only [BitVec.and_append, BitVec.and_zero]; rfl
  have h0 : ¬ (0x3500#14 ++ s ++ 0x400#15 : BitVec 32) &&& 0xfe007fff = 0xd4000000 := differs _ _ _ 10 (by simp only [BitVec.getLsbD_and, BitVec.getLsbD_append, Nat.reduceLT, Nat.reduceSub, if_true, if_false]; decide)
  have ho : ((0x3500#14 ++ s ++ 0x400#15 : BitVec 32).extractLsb' 25 7).toNat = 0x6a := by
    simp (disch := decide) only [cut_hi, cut_lo, cut_all]; rfl
  have hr : ∀ w : BitVec 32, (w.extractLsb' 25 7).toNat = 0x6a → decodeRaw w = (row w 0xFE007FFF 0xD4000000 (.dfence (w.extractLsb' 18 7) (w.extractLsb' 15 3)) <|> row w 0xFFFC7FFF 0xD4000400 (.dfenceAll (w.extractLsb' 15 3))) := by
    intro w h; unfold decodeRaw; rw [h]; rfl
  rw [hr _ ho]
  simp (disch := decide) only [row, hm, h0, cut_hi, cut_lo, cut_all, if_true, if_false, Nat.reduceSub] <;> rfl
theorem gmove (d : BitVec 7) : Statement (.gmove d) := by
  intro w h; cases h
  have hm : (0x6B#7 ++ d ++ 0x0#18 : BitVec 32) &&& 0xfe03ffff = 0xd6000000 := by
    rw [show (0xfe03ffff : BitVec 32) = 0x7f#7 ++ 0x0#7 ++ 0x3ffff#18 from rfl]
    simp only [BitVec.and_append, BitVec.and_zero]; rfl
  have ho : ((0x6B#7 ++ d ++ 0x0#18 : BitVec 32).extractLsb' 25 7).toNat = 0x6b := by
    simp (disch := decide) only [cut_hi, cut_lo, cut_all]; rfl
  have hr : ∀ w : BitVec 32, (w.extractLsb' 25 7).toNat = 0x6b → decodeRaw w = (row w 0xFE03FFFF 0xD6000000 (.gmove (w.extractLsb' 18 7))) := by
    intro w h; unfold decodeRaw; rw [h]; rfl
  rw [hr _ ho]
  simp (disch := decide) only [row, hm, cut_hi, cut_lo, cut_all, if_true, if_false, Nat.reduceSub] <;> rfl
theorem qpush (d : BitVec 7) (s : BitVec 3) (n : BitVec 1) (p : BitVec 3) (a : BitVec 6) : Statement (.qpush d s n p a) := by
  intro w h; cases h
  have hm : (0x6C#7 ++ d ++ s ++ n ++ p ++ a ++ 0x0#5 : BitVec 32) &&& 0xfe00001f = 0xd8000000 := by
    rw [show (0xfe00001f : BitVec 32) = 0x7f#7 ++ 0x0#7 ++ 0x0#3 ++ 0x0#1 ++ 0x0#3 ++ 0x0#6 ++ 0x1f#5 from rfl]
    simp only [BitVec.and_append, BitVec.and_zero]; rfl
  have ho : ((0x6C#7 ++ d ++ s ++ n ++ p ++ a ++ 0x0#5 : BitVec 32).extractLsb' 25 7).toNat = 0x6c := by
    simp (disch := decide) only [cut_hi, cut_lo, cut_all]; rfl
  have hr : ∀ w : BitVec 32, (w.extractLsb' 25 7).toNat = 0x6c → decodeRaw w = (row w 0xFE00001F 0xD8000000 (.qpush (w.extractLsb' 18 7) (w.extractLsb' 15 3) (w.extractLsb' 14 1) (w.extractLsb' 11 3) (w.extractLsb' 5 6))) := by
    intro w h; unfold decodeRaw; rw [h]; rfl
  rw [hr _ ho]
  simp (disch := decide) only [row, hm, cut_hi, cut_lo, cut_all, if_true, if_false, Nat.reduceSub] <;> rfl
theorem qpop (d : BitVec 7) (s : BitVec 3) (n : BitVec 1) (p : BitVec 3) (a : BitVec 6) : Statement (.qpop d s n p a) := by
  intro w h; cases h
  have hm : (0x6D#7 ++ d ++ s ++ n ++ p ++ a ++ 0x0#5 : BitVec 32) &&& 0xfe00001f = 0xda000000 := by
    rw [show (0xfe00001f : BitVec 32) = 0x7f#7 ++ 0x0#7 ++ 0x0#3 ++ 0x0#1 ++ 0x0#3 ++ 0x0#6 ++ 0x1f#5 from rfl]
    simp only [BitVec.and_append, BitVec.and_zero]; rfl
  have ho : ((0x6D#7 ++ d ++ s ++ n ++ p ++ a ++ 0x0#5 : BitVec 32).extractLsb' 25 7).toNat = 0x6d := by
    simp (disch := decide) only [cut_hi, cut_lo, cut_all]; rfl
  have hr : ∀ w : BitVec 32, (w.extractLsb' 25 7).toNat = 0x6d → decodeRaw w = (row w 0xFE00001F 0xDA000000 (.qpop (w.extractLsb' 18 7) (w.extractLsb' 15 3) (w.extractLsb' 14 1) (w.extractLsb' 11 3) (w.extractLsb' 5 6))) := by
    intro w h; unfold decodeRaw; rw [h]; rfl
  rw [hr _ ho]
  simp (disch := decide) only [row, hm, cut_hi, cut_lo, cut_all, if_true, if_false, Nat.reduceSub] <;> rfl
theorem kwant (d : BitVec 7) (s : BitVec 3) (n : BitVec 1) (p : BitVec 3) : Statement (.kwant d s n p) := by
  intro w h; cases h
  have hm : (0x6E#7 ++ d ++ s ++ n ++ p ++ 0x0#11 : BitVec 32) &&& 0xfe0007ff = 0xdc000000 := by
    rw [show (0xfe0007ff : BitVec 32) = 0x7f#7 ++ 0x0#7 ++ 0x0#3 ++ 0x0#1 ++ 0x0#3 ++ 0x7ff#11 from rfl]
    simp only [BitVec.and_append, BitVec.and_zero]; rfl
  have ho : ((0x6E#7 ++ d ++ s ++ n ++ p ++ 0x0#11 : BitVec 32).extractLsb' 25 7).toNat = 0x6e := by
    simp (disch := decide) only [cut_hi, cut_lo, cut_all]; rfl
  have hr : ∀ w : BitVec 32, (w.extractLsb' 25 7).toNat = 0x6e → decodeRaw w = (row w 0xFE0007FF 0xDC000000 (.kwant (w.extractLsb' 18 7) (w.extractLsb' 15 3) (w.extractLsb' 14 1) (w.extractLsb' 11 3)) <|> row w 0xFE0007FF 0xDC000001 (.kput (w.extractLsb' 18 7) (w.extractLsb' 15 3) (w.extractLsb' 14 1) (w.extractLsb' 11 3)) <|> row w 0xFE007FFF 0xDC000002 (.kdrop (w.extractLsb' 18 7) (w.extractLsb' 15 3)) <|> row w 0xFE007FFF 0xDC000003 (.kclose (w.extractLsb' 18 7) (w.extractLsb' 15 3))) := by
    intro w h; unfold decodeRaw; rw [h]; rfl
  rw [hr _ ho]
  simp (disch := decide) only [row, hm, cut_hi, cut_lo, cut_all, if_true, if_false, Nat.reduceSub] <;> rfl
theorem kput (d : BitVec 7) (s : BitVec 3) (n : BitVec 1) (p : BitVec 3) : Statement (.kput d s n p) := by
  intro w h; cases h
  have hm : (0x6E#7 ++ d ++ s ++ n ++ p ++ 0x1#11 : BitVec 32) &&& 0xfe0007ff = 0xdc000001 := by
    rw [show (0xfe0007ff : BitVec 32) = 0x7f#7 ++ 0x0#7 ++ 0x0#3 ++ 0x0#1 ++ 0x0#3 ++ 0x7ff#11 from rfl]
    simp only [BitVec.and_append, BitVec.and_zero]; rfl
  have h0 : ¬ (0x6E#7 ++ d ++ s ++ n ++ p ++ 0x1#11 : BitVec 32) &&& 0xfe0007ff = 0xdc000000 := differs _ _ _ 0 (by simp only [BitVec.getLsbD_and, BitVec.getLsbD_append, Nat.reduceLT, Nat.reduceSub, if_true, if_false]; decide)
  have ho : ((0x6E#7 ++ d ++ s ++ n ++ p ++ 0x1#11 : BitVec 32).extractLsb' 25 7).toNat = 0x6e := by
    simp (disch := decide) only [cut_hi, cut_lo, cut_all]; rfl
  have hr : ∀ w : BitVec 32, (w.extractLsb' 25 7).toNat = 0x6e → decodeRaw w = (row w 0xFE0007FF 0xDC000000 (.kwant (w.extractLsb' 18 7) (w.extractLsb' 15 3) (w.extractLsb' 14 1) (w.extractLsb' 11 3)) <|> row w 0xFE0007FF 0xDC000001 (.kput (w.extractLsb' 18 7) (w.extractLsb' 15 3) (w.extractLsb' 14 1) (w.extractLsb' 11 3)) <|> row w 0xFE007FFF 0xDC000002 (.kdrop (w.extractLsb' 18 7) (w.extractLsb' 15 3)) <|> row w 0xFE007FFF 0xDC000003 (.kclose (w.extractLsb' 18 7) (w.extractLsb' 15 3))) := by
    intro w h; unfold decodeRaw; rw [h]; rfl
  rw [hr _ ho]
  simp (disch := decide) only [row, hm, h0, cut_hi, cut_lo, cut_all, if_true, if_false, Nat.reduceSub] <;> rfl
theorem kdrop (d : BitVec 7) (s : BitVec 3) : Statement (.kdrop d s) := by
  intro w h; cases h
  have hm : (0x6E#7 ++ d ++ s ++ 0x2#15 : BitVec 32) &&& 0xfe007fff = 0xdc000002 := by
    rw [show (0xfe007fff : BitVec 32) = 0x7f#7 ++ 0x0#7 ++ 0x0#3 ++ 0x7fff#15 from rfl]
    simp only [BitVec.and_append, BitVec.and_zero]; rfl
  have h0 : ¬ (0x6E#7 ++ d ++ s ++ 0x2#15 : BitVec 32) &&& 0xfe0007ff = 0xdc000000 := differs _ _ _ 1 (by simp only [BitVec.getLsbD_and, BitVec.getLsbD_append, Nat.reduceLT, Nat.reduceSub, if_true, if_false]; decide)
  have h1 : ¬ (0x6E#7 ++ d ++ s ++ 0x2#15 : BitVec 32) &&& 0xfe0007ff = 0xdc000001 := differs _ _ _ 1 (by simp only [BitVec.getLsbD_and, BitVec.getLsbD_append, Nat.reduceLT, Nat.reduceSub, if_true, if_false]; decide)
  have ho : ((0x6E#7 ++ d ++ s ++ 0x2#15 : BitVec 32).extractLsb' 25 7).toNat = 0x6e := by
    simp (disch := decide) only [cut_hi, cut_lo, cut_all]; rfl
  have hr : ∀ w : BitVec 32, (w.extractLsb' 25 7).toNat = 0x6e → decodeRaw w = (row w 0xFE0007FF 0xDC000000 (.kwant (w.extractLsb' 18 7) (w.extractLsb' 15 3) (w.extractLsb' 14 1) (w.extractLsb' 11 3)) <|> row w 0xFE0007FF 0xDC000001 (.kput (w.extractLsb' 18 7) (w.extractLsb' 15 3) (w.extractLsb' 14 1) (w.extractLsb' 11 3)) <|> row w 0xFE007FFF 0xDC000002 (.kdrop (w.extractLsb' 18 7) (w.extractLsb' 15 3)) <|> row w 0xFE007FFF 0xDC000003 (.kclose (w.extractLsb' 18 7) (w.extractLsb' 15 3))) := by
    intro w h; unfold decodeRaw; rw [h]; rfl
  rw [hr _ ho]
  simp (disch := decide) only [row, hm, h0, h1, cut_hi, cut_lo, cut_all, if_true, if_false, Nat.reduceSub] <;> rfl
theorem kclose (d : BitVec 7) (s : BitVec 3) : Statement (.kclose d s) := by
  intro w h; cases h
  have hm : (0x6E#7 ++ d ++ s ++ 0x3#15 : BitVec 32) &&& 0xfe007fff = 0xdc000003 := by
    rw [show (0xfe007fff : BitVec 32) = 0x7f#7 ++ 0x0#7 ++ 0x0#3 ++ 0x7fff#15 from rfl]
    simp only [BitVec.and_append, BitVec.and_zero]; rfl
  have h0 : ¬ (0x6E#7 ++ d ++ s ++ 0x3#15 : BitVec 32) &&& 0xfe0007ff = 0xdc000000 := differs _ _ _ 1 (by simp only [BitVec.getLsbD_and, BitVec.getLsbD_append, Nat.reduceLT, Nat.reduceSub, if_true, if_false]; decide)
  have h1 : ¬ (0x6E#7 ++ d ++ s ++ 0x3#15 : BitVec 32) &&& 0xfe0007ff = 0xdc000001 := differs _ _ _ 1 (by simp only [BitVec.getLsbD_and, BitVec.getLsbD_append, Nat.reduceLT, Nat.reduceSub, if_true, if_false]; decide)
  have h2 : ¬ (0x6E#7 ++ d ++ s ++ 0x3#15 : BitVec 32) &&& 0xfe007fff = 0xdc000002 := differs _ _ _ 0 (by simp only [BitVec.getLsbD_and, BitVec.getLsbD_append, Nat.reduceLT, Nat.reduceSub, if_true, if_false]; decide)
  have ho : ((0x6E#7 ++ d ++ s ++ 0x3#15 : BitVec 32).extractLsb' 25 7).toNat = 0x6e := by
    simp (disch := decide) only [cut_hi, cut_lo, cut_all]; rfl
  have hr : ∀ w : BitVec 32, (w.extractLsb' 25 7).toNat = 0x6e → decodeRaw w = (row w 0xFE0007FF 0xDC000000 (.kwant (w.extractLsb' 18 7) (w.extractLsb' 15 3) (w.extractLsb' 14 1) (w.extractLsb' 11 3)) <|> row w 0xFE0007FF 0xDC000001 (.kput (w.extractLsb' 18 7) (w.extractLsb' 15 3) (w.extractLsb' 14 1) (w.extractLsb' 11 3)) <|> row w 0xFE007FFF 0xDC000002 (.kdrop (w.extractLsb' 18 7) (w.extractLsb' 15 3)) <|> row w 0xFE007FFF 0xDC000003 (.kclose (w.extractLsb' 18 7) (w.extractLsb' 15 3))) := by
    intro w h; unfold decodeRaw; rw [h]; rfl
  rw [hr _ ho]
  simp (disch := decide) only [row, hm, h0, h1, h2, cut_hi, cut_lo, cut_all, if_true, if_false, Nat.reduceSub] <;> rfl
theorem amsend (d : BitVec 7) (s : BitVec 3) (n : BitVec 1) (p : BitVec 3) (g : BitVec 3) : Statement (.amsend d s n p g) := by
  intro w h; cases h
  have hm : (0x6F#7 ++ d ++ s ++ n ++ p ++ g ++ 0x0#8 : BitVec 32) &&& 0xfe0000ff = 0xde000000 := by
    rw [show (0xfe0000ff : BitVec 32) = 0x7f#7 ++ 0x0#7 ++ 0x0#3 ++ 0x0#1 ++ 0x0#3 ++ 0x0#3 ++ 0xff#8 from rfl]
    simp only [BitVec.and_append, BitVec.and_zero]; rfl
  have ho : ((0x6F#7 ++ d ++ s ++ n ++ p ++ g ++ 0x0#8 : BitVec 32).extractLsb' 25 7).toNat = 0x6f := by
    simp (disch := decide) only [cut_hi, cut_lo, cut_all]; rfl
  have hr : ∀ w : BitVec 32, (w.extractLsb' 25 7).toNat = 0x6f → decodeRaw w = (row w 0xFE0000FF 0xDE000000 (.amsend (w.extractLsb' 18 7) (w.extractLsb' 15 3) (w.extractLsb' 14 1) (w.extractLsb' 11 3) (w.extractLsb' 8 3))) := by
    intro w h; unfold decodeRaw; rw [h]; rfl
  rw [hr _ ho]
  simp (disch := decide) only [row, hm, cut_hi, cut_lo, cut_all, if_true, if_false, Nat.reduceSub] <;> rfl
theorem cpy (d : BitVec 7) (s : BitVec 3) (n : BitVec 1) (p : BitVec 3) (g : BitVec 3) : Statement (.cpy d s n p g) := by
  intro w h; cases h
  have hm : (0x70#7 ++ d ++ s ++ n ++ p ++ g ++ 0x0#8 : BitVec 32) &&& 0xfe0000ff = 0xe0000000 := by
    rw [show (0xfe0000ff : BitVec 32) = 0x7f#7 ++ 0x0#7 ++ 0x0#3 ++ 0x0#1 ++ 0x0#3 ++ 0x0#3 ++ 0xff#8 from rfl]
    simp only [BitVec.and_append, BitVec.and_zero]; rfl
  have ho : ((0x70#7 ++ d ++ s ++ n ++ p ++ g ++ 0x0#8 : BitVec 32).extractLsb' 25 7).toNat = 0x70 := by
    simp (disch := decide) only [cut_hi, cut_lo, cut_all]; rfl
  have hr : ∀ w : BitVec 32, (w.extractLsb' 25 7).toNat = 0x70 → decodeRaw w = (row w 0xFE0000FF 0xE0000000 (.cpy (w.extractLsb' 18 7) (w.extractLsb' 15 3) (w.extractLsb' 14 1) (w.extractLsb' 11 3) (w.extractLsb' 8 3))) := by
    intro w h; unfold decodeRaw; rw [h]; rfl
  rw [hr _ ho]
  simp (disch := decide) only [row, hm, cut_hi, cut_lo, cut_all, if_true, if_false, Nat.reduceSub] <;> rfl
theorem coll (d : BitVec 7) (s : BitVec 3) (n : BitVec 1) (p : BitVec 3) (g : BitVec 3) : Statement (.coll d s n p g) := by
  intro w h; cases h
  have hm : (0x71#7 ++ d ++ s ++ n ++ p ++ g ++ 0x0#8 : BitVec 32) &&& 0xfe0000ff = 0xe2000000 := by
    rw [show (0xfe0000ff : BitVec 32) = 0x7f#7 ++ 0x0#7 ++ 0x0#3 ++ 0x0#1 ++ 0x0#3 ++ 0x0#3 ++ 0xff#8 from rfl]
    simp only [BitVec.and_append, BitVec.and_zero]; rfl
  have ho : ((0x71#7 ++ d ++ s ++ n ++ p ++ g ++ 0x0#8 : BitVec 32).extractLsb' 25 7).toNat = 0x71 := by
    simp (disch := decide) only [cut_hi, cut_lo, cut_all]; rfl
  have hr : ∀ w : BitVec 32, (w.extractLsb' 25 7).toNat = 0x71 → decodeRaw w = (row w 0xFE0000FF 0xE2000000 (.coll (w.extractLsb' 18 7) (w.extractLsb' 15 3) (w.extractLsb' 14 1) (w.extractLsb' 11 3) (w.extractLsb' 8 3))) := by
    intro w h; unfold decodeRaw; rw [h]; rfl
  rw [hr _ ho]
  simp (disch := decide) only [row, hm, cut_hi, cut_lo, cut_all, if_true, if_false, Nat.reduceSub] <;> rfl
theorem nbx (d : BitVec 7) (s : BitVec 3) (n : BitVec 1) (p : BitVec 3) (g : BitVec 3) : Statement (.nbx d s n p g) := by
  intro w h; cases h
  have hm : (0x72#7 ++ d ++ s ++ n ++ p ++ g ++ 0x0#8 : BitVec 32) &&& 0xfe0000ff = 0xe4000000 := by
    rw [show (0xfe0000ff : BitVec 32) = 0x7f#7 ++ 0x0#7 ++ 0x0#3 ++ 0x0#1 ++ 0x0#3 ++ 0x0#3 ++ 0xff#8 from rfl]
    simp only [BitVec.and_append, BitVec.and_zero]; rfl
  have ho : ((0x72#7 ++ d ++ s ++ n ++ p ++ g ++ 0x0#8 : BitVec 32).extractLsb' 25 7).toNat = 0x72 := by
    simp (disch := decide) only [cut_hi, cut_lo, cut_all]; rfl
  have hr : ∀ w : BitVec 32, (w.extractLsb' 25 7).toNat = 0x72 → decodeRaw w = (row w 0xFE0000FF 0xE4000000 (.nbx (w.extractLsb' 18 7) (w.extractLsb' 15 3) (w.extractLsb' 14 1) (w.extractLsb' 11 3) (w.extractLsb' 8 3))) := by
    intro w h; unfold decodeRaw; rw [h]; rfl
  rw [hr _ ho]
  simp (disch := decide) only [row, hm, cut_hi, cut_lo, cut_all, if_true, if_false, Nat.reduceSub] <;> rfl
theorem sld (d : BitVec 7) (h : BitVec 6) (n : BitVec 2) : Statement (.sld d h n) := by
  intro w h; cases h
  have hm : (0x73#7 ++ d ++ 0x0#7 ++ h ++ n ++ 0x0#3 : BitVec 32) &&& 0xfe03f807 = 0xe6000000 := by
    rw [show (0xfe03f807 : BitVec 32) = 0x7f#7 ++ 0x0#7 ++ 0x7f#7 ++ 0x0#6 ++ 0x0#2 ++ 0x7#3 from rfl]
    simp only [BitVec.and_append, BitVec.and_zero]; rfl
  have ho : ((0x73#7 ++ d ++ 0x0#7 ++ h ++ n ++ 0x0#3 : BitVec 32).extractLsb' 25 7).toNat = 0x73 := by
    simp (disch := decide) only [cut_hi, cut_lo, cut_all]; rfl
  have hr : ∀ w : BitVec 32, (w.extractLsb' 25 7).toNat = 0x73 → decodeRaw w = (row w 0xFE03F807 0xE6000000 (.sld (w.extractLsb' 18 7) (w.extractLsb' 5 6) (w.extractLsb' 3 2)) <|> row w 0xFE03F807 0xE6000001 (.sst (w.extractLsb' 18 7) (w.extractLsb' 5 6) (w.extractLsb' 3 2)) <|> row w 0xFE03F81F 0xE6000002 (.salloc (w.extractLsb' 18 7) (w.extractLsb' 5 6)) <|> row w 0xFFFFF81F 0xE6000003 (.sfree (w.extractLsb' 5 6)) <|> row w 0xFE03F81F 0xE600000C (.spinOn (w.extractLsb' 18 7) (w.extractLsb' 5 6)) <|> row w 0xFE03F81F 0xE6000004 (.spinOff (w.extractLsb' 18 7) (w.extractLsb' 5 6))) := by
    intro w h; unfold decodeRaw; rw [h]; rfl
  rw [hr _ ho]
  simp (disch := decide) only [row, hm, cut_hi, cut_lo, cut_all, if_true, if_false, Nat.reduceSub] <;> rfl
theorem sst (d : BitVec 7) (h : BitVec 6) (n : BitVec 2) : Statement (.sst d h n) := by
  intro w h; cases h
  have hm : (0x73#7 ++ d ++ 0x0#7 ++ h ++ n ++ 0x1#3 : BitVec 32) &&& 0xfe03f807 = 0xe6000001 := by
    rw [show (0xfe03f807 : BitVec 32) = 0x7f#7 ++ 0x0#7 ++ 0x7f#7 ++ 0x0#6 ++ 0x0#2 ++ 0x7#3 from rfl]
    simp only [BitVec.and_append, BitVec.and_zero]; rfl
  have h0 : ¬ (0x73#7 ++ d ++ 0x0#7 ++ h ++ n ++ 0x1#3 : BitVec 32) &&& 0xfe03f807 = 0xe6000000 := differs _ _ _ 0 (by simp only [BitVec.getLsbD_and, BitVec.getLsbD_append, Nat.reduceLT, Nat.reduceSub, if_true, if_false]; decide)
  have ho : ((0x73#7 ++ d ++ 0x0#7 ++ h ++ n ++ 0x1#3 : BitVec 32).extractLsb' 25 7).toNat = 0x73 := by
    simp (disch := decide) only [cut_hi, cut_lo, cut_all]; rfl
  have hr : ∀ w : BitVec 32, (w.extractLsb' 25 7).toNat = 0x73 → decodeRaw w = (row w 0xFE03F807 0xE6000000 (.sld (w.extractLsb' 18 7) (w.extractLsb' 5 6) (w.extractLsb' 3 2)) <|> row w 0xFE03F807 0xE6000001 (.sst (w.extractLsb' 18 7) (w.extractLsb' 5 6) (w.extractLsb' 3 2)) <|> row w 0xFE03F81F 0xE6000002 (.salloc (w.extractLsb' 18 7) (w.extractLsb' 5 6)) <|> row w 0xFFFFF81F 0xE6000003 (.sfree (w.extractLsb' 5 6)) <|> row w 0xFE03F81F 0xE600000C (.spinOn (w.extractLsb' 18 7) (w.extractLsb' 5 6)) <|> row w 0xFE03F81F 0xE6000004 (.spinOff (w.extractLsb' 18 7) (w.extractLsb' 5 6))) := by
    intro w h; unfold decodeRaw; rw [h]; rfl
  rw [hr _ ho]
  simp (disch := decide) only [row, hm, h0, cut_hi, cut_lo, cut_all, if_true, if_false, Nat.reduceSub] <;> rfl
theorem salloc (d : BitVec 7) (h : BitVec 6) : Statement (.salloc d h) := by
  intro w h; cases h
  have hm : (0x73#7 ++ d ++ 0x0#7 ++ h ++ 0x2#5 : BitVec 32) &&& 0xfe03f81f = 0xe6000002 := by
    rw [show (0xfe03f81f : BitVec 32) = 0x7f#7 ++ 0x0#7 ++ 0x7f#7 ++ 0x0#6 ++ 0x1f#5 from rfl]
    simp only [BitVec.and_append, BitVec.and_zero]; rfl
  have h0 : ¬ (0x73#7 ++ d ++ 0x0#7 ++ h ++ 0x2#5 : BitVec 32) &&& 0xfe03f807 = 0xe6000000 := differs _ _ _ 1 (by simp only [BitVec.getLsbD_and, BitVec.getLsbD_append, Nat.reduceLT, Nat.reduceSub, if_true, if_false]; decide)
  have h1 : ¬ (0x73#7 ++ d ++ 0x0#7 ++ h ++ 0x2#5 : BitVec 32) &&& 0xfe03f807 = 0xe6000001 := differs _ _ _ 1 (by simp only [BitVec.getLsbD_and, BitVec.getLsbD_append, Nat.reduceLT, Nat.reduceSub, if_true, if_false]; decide)
  have ho : ((0x73#7 ++ d ++ 0x0#7 ++ h ++ 0x2#5 : BitVec 32).extractLsb' 25 7).toNat = 0x73 := by
    simp (disch := decide) only [cut_hi, cut_lo, cut_all]; rfl
  have hr : ∀ w : BitVec 32, (w.extractLsb' 25 7).toNat = 0x73 → decodeRaw w = (row w 0xFE03F807 0xE6000000 (.sld (w.extractLsb' 18 7) (w.extractLsb' 5 6) (w.extractLsb' 3 2)) <|> row w 0xFE03F807 0xE6000001 (.sst (w.extractLsb' 18 7) (w.extractLsb' 5 6) (w.extractLsb' 3 2)) <|> row w 0xFE03F81F 0xE6000002 (.salloc (w.extractLsb' 18 7) (w.extractLsb' 5 6)) <|> row w 0xFFFFF81F 0xE6000003 (.sfree (w.extractLsb' 5 6)) <|> row w 0xFE03F81F 0xE600000C (.spinOn (w.extractLsb' 18 7) (w.extractLsb' 5 6)) <|> row w 0xFE03F81F 0xE6000004 (.spinOff (w.extractLsb' 18 7) (w.extractLsb' 5 6))) := by
    intro w h; unfold decodeRaw; rw [h]; rfl
  rw [hr _ ho]
  simp (disch := decide) only [row, hm, h0, h1, cut_hi, cut_lo, cut_all, if_true, if_false, Nat.reduceSub] <;> rfl
theorem sfree (h : BitVec 6) : Statement (.sfree h) := by
  intro w h; cases h
  have hm : (0x1CC000#21 ++ h ++ 0x3#5 : BitVec 32) &&& 0xfffff81f = 0xe6000003 := by
    rw [show (0xfffff81f : BitVec 32) = 0x1fffff#21 ++ 0x0#6 ++ 0x1f#5 from rfl]
    simp only [BitVec.and_append, BitVec.and_zero]; rfl
  have h0 : ¬ (0x1CC000#21 ++ h ++ 0x3#5 : BitVec 32) &&& 0xfe03f807 = 0xe6000000 := differs _ _ _ 1 (by simp only [BitVec.getLsbD_and, BitVec.getLsbD_append, Nat.reduceLT, Nat.reduceSub, if_true, if_false]; decide)
  have h1 : ¬ (0x1CC000#21 ++ h ++ 0x3#5 : BitVec 32) &&& 0xfe03f807 = 0xe6000001 := differs _ _ _ 1 (by simp only [BitVec.getLsbD_and, BitVec.getLsbD_append, Nat.reduceLT, Nat.reduceSub, if_true, if_false]; decide)
  have h2 : ¬ (0x1CC000#21 ++ h ++ 0x3#5 : BitVec 32) &&& 0xfe03f81f = 0xe6000002 := differs _ _ _ 0 (by simp only [BitVec.getLsbD_and, BitVec.getLsbD_append, Nat.reduceLT, Nat.reduceSub, if_true, if_false]; decide)
  have ho : ((0x1CC000#21 ++ h ++ 0x3#5 : BitVec 32).extractLsb' 25 7).toNat = 0x73 := by
    simp (disch := decide) only [cut_hi, cut_lo, cut_all]; rfl
  have hr : ∀ w : BitVec 32, (w.extractLsb' 25 7).toNat = 0x73 → decodeRaw w = (row w 0xFE03F807 0xE6000000 (.sld (w.extractLsb' 18 7) (w.extractLsb' 5 6) (w.extractLsb' 3 2)) <|> row w 0xFE03F807 0xE6000001 (.sst (w.extractLsb' 18 7) (w.extractLsb' 5 6) (w.extractLsb' 3 2)) <|> row w 0xFE03F81F 0xE6000002 (.salloc (w.extractLsb' 18 7) (w.extractLsb' 5 6)) <|> row w 0xFFFFF81F 0xE6000003 (.sfree (w.extractLsb' 5 6)) <|> row w 0xFE03F81F 0xE600000C (.spinOn (w.extractLsb' 18 7) (w.extractLsb' 5 6)) <|> row w 0xFE03F81F 0xE6000004 (.spinOff (w.extractLsb' 18 7) (w.extractLsb' 5 6))) := by
    intro w h; unfold decodeRaw; rw [h]; rfl
  rw [hr _ ho]
  simp (disch := decide) only [row, hm, h0, h1, h2, cut_hi, cut_lo, cut_all, if_true, if_false, Nat.reduceSub] <;> rfl
theorem spinOn (d : BitVec 7) (h : BitVec 6) : Statement (.spinOn d h) := by
  intro w h; cases h
  have hm : (0x73#7 ++ d ++ 0x0#7 ++ h ++ 0xC#5 : BitVec 32) &&& 0xfe03f81f = 0xe600000c := by
    rw [show (0xfe03f81f : BitVec 32) = 0x7f#7 ++ 0x0#7 ++ 0x7f#7 ++ 0x0#6 ++ 0x1f#5 from rfl]
    simp only [BitVec.and_append, BitVec.and_zero]; rfl
  have h0 : ¬ (0x73#7 ++ d ++ 0x0#7 ++ h ++ 0xC#5 : BitVec 32) &&& 0xfe03f807 = 0xe6000000 := differs _ _ _ 2 (by simp only [BitVec.getLsbD_and, BitVec.getLsbD_append, Nat.reduceLT, Nat.reduceSub, if_true, if_false]; decide)
  have h1 : ¬ (0x73#7 ++ d ++ 0x0#7 ++ h ++ 0xC#5 : BitVec 32) &&& 0xfe03f807 = 0xe6000001 := differs _ _ _ 2 (by simp only [BitVec.getLsbD_and, BitVec.getLsbD_append, Nat.reduceLT, Nat.reduceSub, if_true, if_false]; decide)
  have h2 : ¬ (0x73#7 ++ d ++ 0x0#7 ++ h ++ 0xC#5 : BitVec 32) &&& 0xfe03f81f = 0xe6000002 := differs _ _ _ 3 (by simp only [BitVec.getLsbD_and, BitVec.getLsbD_append, Nat.reduceLT, Nat.reduceSub, if_true, if_false]; decide)
  have h3 : ¬ (0x73#7 ++ d ++ 0x0#7 ++ h ++ 0xC#5 : BitVec 32) &&& 0xfffff81f = 0xe6000003 := differs _ _ _ 3 (by simp only [BitVec.getLsbD_and, BitVec.getLsbD_append, Nat.reduceLT, Nat.reduceSub, if_true, if_false]; decide)
  have ho : ((0x73#7 ++ d ++ 0x0#7 ++ h ++ 0xC#5 : BitVec 32).extractLsb' 25 7).toNat = 0x73 := by
    simp (disch := decide) only [cut_hi, cut_lo, cut_all]; rfl
  have hr : ∀ w : BitVec 32, (w.extractLsb' 25 7).toNat = 0x73 → decodeRaw w = (row w 0xFE03F807 0xE6000000 (.sld (w.extractLsb' 18 7) (w.extractLsb' 5 6) (w.extractLsb' 3 2)) <|> row w 0xFE03F807 0xE6000001 (.sst (w.extractLsb' 18 7) (w.extractLsb' 5 6) (w.extractLsb' 3 2)) <|> row w 0xFE03F81F 0xE6000002 (.salloc (w.extractLsb' 18 7) (w.extractLsb' 5 6)) <|> row w 0xFFFFF81F 0xE6000003 (.sfree (w.extractLsb' 5 6)) <|> row w 0xFE03F81F 0xE600000C (.spinOn (w.extractLsb' 18 7) (w.extractLsb' 5 6)) <|> row w 0xFE03F81F 0xE6000004 (.spinOff (w.extractLsb' 18 7) (w.extractLsb' 5 6))) := by
    intro w h; unfold decodeRaw; rw [h]; rfl
  rw [hr _ ho]
  simp (disch := decide) only [row, hm, h0, h1, h2, h3, cut_hi, cut_lo, cut_all, if_true, if_false, Nat.reduceSub] <;> rfl
theorem spinOff (d : BitVec 7) (h : BitVec 6) : Statement (.spinOff d h) := by
  intro w h; cases h
  have hm : (0x73#7 ++ d ++ 0x0#7 ++ h ++ 0x4#5 : BitVec 32) &&& 0xfe03f81f = 0xe6000004 := by
    rw [show (0xfe03f81f : BitVec 32) = 0x7f#7 ++ 0x0#7 ++ 0x7f#7 ++ 0x0#6 ++ 0x1f#5 from rfl]
    simp only [BitVec.and_append, BitVec.and_zero]; rfl
  have h0 : ¬ (0x73#7 ++ d ++ 0x0#7 ++ h ++ 0x4#5 : BitVec 32) &&& 0xfe03f807 = 0xe6000000 := differs _ _ _ 2 (by simp only [BitVec.getLsbD_and, BitVec.getLsbD_append, Nat.reduceLT, Nat.reduceSub, if_true, if_false]; decide)
  have h1 : ¬ (0x73#7 ++ d ++ 0x0#7 ++ h ++ 0x4#5 : BitVec 32) &&& 0xfe03f807 = 0xe6000001 := differs _ _ _ 2 (by simp only [BitVec.getLsbD_and, BitVec.getLsbD_append, Nat.reduceLT, Nat.reduceSub, if_true, if_false]; decide)
  have h2 : ¬ (0x73#7 ++ d ++ 0x0#7 ++ h ++ 0x4#5 : BitVec 32) &&& 0xfe03f81f = 0xe6000002 := differs _ _ _ 2 (by simp only [BitVec.getLsbD_and, BitVec.getLsbD_append, Nat.reduceLT, Nat.reduceSub, if_true, if_false]; decide)
  have h3 : ¬ (0x73#7 ++ d ++ 0x0#7 ++ h ++ 0x4#5 : BitVec 32) &&& 0xfffff81f = 0xe6000003 := differs _ _ _ 2 (by simp only [BitVec.getLsbD_and, BitVec.getLsbD_append, Nat.reduceLT, Nat.reduceSub, if_true, if_false]; decide)
  have h4 : ¬ (0x73#7 ++ d ++ 0x0#7 ++ h ++ 0x4#5 : BitVec 32) &&& 0xfe03f81f = 0xe600000c := differs _ _ _ 3 (by simp only [BitVec.getLsbD_and, BitVec.getLsbD_append, Nat.reduceLT, Nat.reduceSub, if_true, if_false]; decide)
  have ho : ((0x73#7 ++ d ++ 0x0#7 ++ h ++ 0x4#5 : BitVec 32).extractLsb' 25 7).toNat = 0x73 := by
    simp (disch := decide) only [cut_hi, cut_lo, cut_all]; rfl
  have hr : ∀ w : BitVec 32, (w.extractLsb' 25 7).toNat = 0x73 → decodeRaw w = (row w 0xFE03F807 0xE6000000 (.sld (w.extractLsb' 18 7) (w.extractLsb' 5 6) (w.extractLsb' 3 2)) <|> row w 0xFE03F807 0xE6000001 (.sst (w.extractLsb' 18 7) (w.extractLsb' 5 6) (w.extractLsb' 3 2)) <|> row w 0xFE03F81F 0xE6000002 (.salloc (w.extractLsb' 18 7) (w.extractLsb' 5 6)) <|> row w 0xFFFFF81F 0xE6000003 (.sfree (w.extractLsb' 5 6)) <|> row w 0xFE03F81F 0xE600000C (.spinOn (w.extractLsb' 18 7) (w.extractLsb' 5 6)) <|> row w 0xFE03F81F 0xE6000004 (.spinOff (w.extractLsb' 18 7) (w.extractLsb' 5 6))) := by
    intro w h; unfold decodeRaw; rw [h]; rfl
  rw [hr _ ho]
  simp (disch := decide) only [row, hm, h0, h1, h2, h3, h4, cut_hi, cut_lo, cut_all, if_true, if_false, Nat.reduceSub] <;> rfl
theorem mma (d : BitVec 7) (a : BitVec 7) (h : BitVec 7) : Statement (.mma d a h) := by
  intro w h; cases h
  have hm : (0x74#7 ++ d ++ 0x0#2 ++ a ++ 0x0#2 ++ h : BitVec 32) &&& 0xfe030180 = 0xe8000000 := by
    rw [show (0xfe030180 : BitVec 32) = 0x7f#7 ++ 0x0#7 ++ 0x3#2 ++ 0x0#7 ++ 0x3#2 ++ 0x0#7 from rfl]
    simp only [BitVec.and_append, BitVec.and_zero]; rfl
  have ho : ((0x74#7 ++ d ++ 0x0#2 ++ a ++ 0x0#2 ++ h : BitVec 32).extractLsb' 25 7).toNat = 0x74 := by
    simp (disch := decide) only [cut_hi, cut_lo, cut_all]; rfl
  have hr : ∀ w : BitVec 32, (w.extractLsb' 25 7).toNat = 0x74 → decodeRaw w = (row w 0xFE030180 0xE8000000 (.mma (w.extractLsb' 18 7) (w.extractLsb' 9 7) (w.extractLsb' 0 7))) := by
    intro w h; unfold decodeRaw; rw [h]; rfl
  rw [hr _ ho]
  simp (disch := decide) only [row, hm, cut_hi, cut_lo, cut_all, if_true, if_false, Nat.reduceSub] <;> rfl
theorem mmas (d : BitVec 7) (a : BitVec 7) (h : BitVec 7) : Statement (.mmas d a h) := by
  intro w h; cases h
  have hm : (0x75#7 ++ d ++ 0x0#2 ++ a ++ 0x0#2 ++ h : BitVec 32) &&& 0xfe030180 = 0xea000000 := by
    rw [show (0xfe030180 : BitVec 32) = 0x7f#7 ++ 0x0#7 ++ 0x3#2 ++ 0x0#7 ++ 0x3#2 ++ 0x0#7 from rfl]
    simp only [BitVec.and_append, BitVec.and_zero]; rfl
  have ho : ((0x75#7 ++ d ++ 0x0#2 ++ a ++ 0x0#2 ++ h : BitVec 32).extractLsb' 25 7).toNat = 0x75 := by
    simp (disch := decide) only [cut_hi, cut_lo, cut_all]; rfl
  have hr : ∀ w : BitVec 32, (w.extractLsb' 25 7).toNat = 0x75 → decodeRaw w = (row w 0xFE030180 0xEA000000 (.mmas (w.extractLsb' 18 7) (w.extractLsb' 9 7) (w.extractLsb' 0 7))) := by
    intro w h; unfold decodeRaw; rw [h]; rfl
  rw [hr _ ho]
  simp (disch := decide) only [row, hm, cut_hi, cut_lo, cut_all, if_true, if_false, Nat.reduceSub] <;> rfl
theorem mbld (d : BitVec 7) (s : BitVec 3) (g : BitVec 2) (h : BitVec 7) : Statement (.mbld d s g h) := by
  intro w h; cases h
  have hm : (0x76#7 ++ d ++ s ++ 0x0#4 ++ g ++ 0x0#2 ++ h : BitVec 32) &&& 0xfe007980 = 0xec000000 := by
    rw [show (0xfe007980 : BitVec 32) = 0x7f#7 ++ 0x0#7 ++ 0x0#3 ++ 0xf#4 ++ 0x0#2 ++ 0x3#2 ++ 0x0#7 from rfl]
    simp only [BitVec.and_append, BitVec.and_zero]; rfl
  have ho : ((0x76#7 ++ d ++ s ++ 0x0#4 ++ g ++ 0x0#2 ++ h : BitVec 32).extractLsb' 25 7).toNat = 0x76 := by
    simp (disch := decide) only [cut_hi, cut_lo, cut_all]; rfl
  have hr : ∀ w : BitVec 32, (w.extractLsb' 25 7).toNat = 0x76 → decodeRaw w = (row w 0xFE007980 0xEC000000 (.mbld (w.extractLsb' 18 7) (w.extractLsb' 15 3) (w.extractLsb' 9 2) (w.extractLsb' 0 7))) := by
    intro w h; unfold decodeRaw; rw [h]; rfl
  rw [hr _ ho]
  simp (disch := decide) only [row, hm, cut_hi, cut_lo, cut_all, if_true, if_false, Nat.reduceSub] <;> rfl
theorem mbrel (h : BitVec 7) : Statement (.mbrel h) := by
  intro w h; cases h
  have hm : (0x1DC0000#25 ++ h : BitVec 32) &&& 0xffffff80 = 0xee000000 := by
    rw [show (0xffffff80 : BitVec 32) = 0x1ffffff#25 ++ 0x0#7 from rfl]
    simp only [BitVec.and_append, BitVec.and_zero]; rfl
  have ho : ((0x1DC0000#25 ++ h : BitVec 32).extractLsb' 25 7).toNat = 0x77 := by
    simp (disch := decide) only [cut_hi, cut_lo, cut_all]; rfl
  have hr : ∀ w : BitVec 32, (w.extractLsb' 25 7).toNat = 0x77 → decodeRaw w = (row w 0xFFFFFF80 0xEE000000 (.mbrel (w.extractLsb' 0 7))) := by
    intro w h; unfold decodeRaw; rw [h]; rfl
  rw [hr _ ho]
  simp (disch := decide) only [row, hm, cut_hi, cut_lo, cut_all, if_true, if_false, Nat.reduceSub] <;> rfl
theorem travStart (d : BitVec 7) (g : BitVec 2) (c : BitVec 6) : Statement (.travStart d g c) := by
  intro w h; cases h
  have hm : (0x78#7 ++ d ++ 0x0#7 ++ g ++ 0x4#3 ++ c : BitVec 32) &&& 0xfe03f9c0 = 0xf0000100 := by
    rw [show (0xfe03f9c0 : BitVec 32) = 0x7f#7 ++ 0x0#7 ++ 0x7f#7 ++ 0x0#2 ++ 0x7#3 ++ 0x0#6 from rfl]
    simp only [BitVec.and_append, BitVec.and_zero]; rfl
  have ho : ((0x78#7 ++ d ++ 0x0#7 ++ g ++ 0x4#3 ++ c : BitVec 32).extractLsb' 25 7).toNat = 0x78 := by
    simp (disch := decide) only [cut_hi, cut_lo, cut_all]; rfl
  have hr : ∀ w : BitVec 32, (w.extractLsb' 25 7).toNat = 0x78 → decodeRaw w = (row w 0xFE03F9C0 0xF0000100 (.travStart (w.extractLsb' 18 7) (w.extractLsb' 9 2) (w.extractLsb' 0 6)) <|> row w 0xFE03F9FF 0xF0000000 (.trav (w.extractLsb' 18 7) (w.extractLsb' 9 2))) := by
    intro w h; unfold decodeRaw; rw [h]; rfl
  rw [hr _ ho]
  simp (disch := decide) only [row, hm, cut_hi, cut_lo, cut_all, if_true, if_false, Nat.reduceSub] <;> rfl
theorem trav (d : BitVec 7) (g : BitVec 2) : Statement (.trav d g) := by
  intro w h; cases h
  have hm : (0x78#7 ++ d ++ 0x0#7 ++ g ++ 0x0#9 : BitVec 32) &&& 0xfe03f9ff = 0xf0000000 := by
    rw [show (0xfe03f9ff : BitVec 32) = 0x7f#7 ++ 0x0#7 ++ 0x7f#7 ++ 0x0#2 ++ 0x1ff#9 from rfl]
    simp only [BitVec.and_append, BitVec.and_zero]; rfl
  have h0 : ¬ (0x78#7 ++ d ++ 0x0#7 ++ g ++ 0x0#9 : BitVec 32) &&& 0xfe03f9c0 = 0xf0000100 := differs _ _ _ 8 (by simp only [BitVec.getLsbD_and, BitVec.getLsbD_append, Nat.reduceLT, Nat.reduceSub, if_true, if_false]; decide)
  have ho : ((0x78#7 ++ d ++ 0x0#7 ++ g ++ 0x0#9 : BitVec 32).extractLsb' 25 7).toNat = 0x78 := by
    simp (disch := decide) only [cut_hi, cut_lo, cut_all]; rfl
  have hr : ∀ w : BitVec 32, (w.extractLsb' 25 7).toNat = 0x78 → decodeRaw w = (row w 0xFE03F9C0 0xF0000100 (.travStart (w.extractLsb' 18 7) (w.extractLsb' 9 2) (w.extractLsb' 0 6)) <|> row w 0xFE03F9FF 0xF0000000 (.trav (w.extractLsb' 18 7) (w.extractLsb' 9 2))) := by
    intro w h; unfold decodeRaw; rw [h]; rfl
  rw [hr _ ho]
  simp (disch := decide) only [row, hm, h0, cut_hi, cut_lo, cut_all, if_true, if_false, Nat.reduceSub] <;> rfl
theorem trepStart (d : BitVec 7) (g : BitVec 2) : Statement (.trepStart d g) := by
  intro w h; cases h
  have hm : (0x79#7 ++ d ++ 0x0#7 ++ g ++ 0x100#9 : BitVec 32) &&& 0xfe03f9ff = 0xf2000100 := by
    rw [show (0xfe03f9ff : BitVec 32) = 0x7f#7 ++ 0x0#7 ++ 0x7f#7 ++ 0x0#2 ++ 0x1ff#9 from rfl]
    simp only [BitVec.and_append, BitVec.and_zero]; rfl
  have ho : ((0x79#7 ++ d ++ 0x0#7 ++ g ++ 0x100#9 : BitVec 32).extractLsb' 25 7).toNat = 0x79 := by
    simp (disch := decide) only [cut_hi, cut_lo, cut_all]; rfl
  have hr : ∀ w : BitVec 32, (w.extractLsb' 25 7).toNat = 0x79 → decodeRaw w = (row w 0xFE03F9FF 0xF2000100 (.trepStart (w.extractLsb' 18 7) (w.extractLsb' 9 2)) <|> row w 0xFE03F9FF 0xF2000000 (.trep (w.extractLsb' 18 7) (w.extractLsb' 9 2))) := by
    intro w h; unfold decodeRaw; rw [h]; rfl
  rw [hr _ ho]
  simp (disch := decide) only [row, hm, cut_hi, cut_lo, cut_all, if_true, if_false, Nat.reduceSub] <;> rfl
theorem trep (d : BitVec 7) (g : BitVec 2) : Statement (.trep d g) := by
  intro w h; cases h
  have hm : (0x79#7 ++ d ++ 0x0#7 ++ g ++ 0x0#9 : BitVec 32) &&& 0xfe03f9ff = 0xf2000000 := by
    rw [show (0xfe03f9ff : BitVec 32) = 0x7f#7 ++ 0x0#7 ++ 0x7f#7 ++ 0x0#2 ++ 0x1ff#9 from rfl]
    simp only [BitVec.and_append, BitVec.and_zero]; rfl
  have h0 : ¬ (0x79#7 ++ d ++ 0x0#7 ++ g ++ 0x0#9 : BitVec 32) &&& 0xfe03f9ff = 0xf2000100 := differs _ _ _ 8 (by simp only [BitVec.getLsbD_and, BitVec.getLsbD_append, Nat.reduceLT, Nat.reduceSub, if_true, if_false]; decide)
  have ho : ((0x79#7 ++ d ++ 0x0#7 ++ g ++ 0x0#9 : BitVec 32).extractLsb' 25 7).toNat = 0x79 := by
    simp (disch := decide) only [cut_hi, cut_lo, cut_all]; rfl
  have hr : ∀ w : BitVec 32, (w.extractLsb' 25 7).toNat = 0x79 → decodeRaw w = (row w 0xFE03F9FF 0xF2000100 (.trepStart (w.extractLsb' 18 7) (w.extractLsb' 9 2)) <|> row w 0xFE03F9FF 0xF2000000 (.trep (w.extractLsb' 18 7) (w.extractLsb' 9 2))) := by
    intro w h; unfold decodeRaw; rw [h]; rfl
  rw [hr _ ho]
  simp (disch := decide) only [row, hm, h0, cut_hi, cut_lo, cut_all, if_true, if_false, Nat.reduceSub] <;> rfl
theorem bunion (d : BitVec 7) (i : BitVec 2) (s : BitVec 7) : Statement (.bunion d i s) := by
  intro w h; cases h
  have hm : (0x7A#7 ++ d ++ i ++ s ++ 0x0#9 : BitVec 32) &&& 0xfe0001ff = 0xf4000000 := by
    rw [show (0xfe0001ff : BitVec 32) = 0x7f#7 ++ 0x0#7 ++ 0x0#2 ++ 0x0#7 ++ 0x1ff#9 from rfl]
    simp only [BitVec.and_append, BitVec.and_zero]; rfl
  have ho : ((0x7A#7 ++ d ++ i ++ s ++ 0x0#9 : BitVec 32).extractLsb' 25 7).toNat = 0x7a := by
    simp (disch := decide) only [cut_hi, cut_lo, cut_all]; rfl
  have hr : ∀ w : BitVec 32, (w.extractLsb' 25 7).toNat = 0x7a → decodeRaw w = (row w 0xFE0001FF 0xF4000000 (.bunion (w.extractLsb' 18 7) (w.extractLsb' 16 2) (w.extractLsb' 9 7)) <|> row w 0xFE0001FF 0xF4000001 (.bsah (w.extractLsb' 18 7) (w.extractLsb' 16 2) (w.extractLsb' 9 7)) <|> row w 0xFE0001FF 0xF4000002 (.npack (w.extractLsb' 18 7) (w.extractLsb' 16 2) (w.extractLsb' 9 7)) <|> row w 0xFE0001FF 0xF4000003 (.mcode (w.extractLsb' 18 7) (w.extractLsb' 16 2) (w.extractLsb' 9 7))) := by
    intro w h; unfold decodeRaw; rw [h]; rfl
  rw [hr _ ho]
  simp (disch := decide) only [row, hm, cut_hi, cut_lo, cut_all, if_true, if_false, Nat.reduceSub] <;> rfl
theorem bsah (d : BitVec 7) (i : BitVec 2) (s : BitVec 7) : Statement (.bsah d i s) := by
  intro w h; cases h
  have hm : (0x7A#7 ++ d ++ i ++ s ++ 0x1#9 : BitVec 32) &&& 0xfe0001ff = 0xf4000001 := by
    rw [show (0xfe0001ff : BitVec 32) = 0x7f#7 ++ 0x0#7 ++ 0x0#2 ++ 0x0#7 ++ 0x1ff#9 from rfl]
    simp only [BitVec.and_append, BitVec.and_zero]; rfl
  have h0 : ¬ (0x7A#7 ++ d ++ i ++ s ++ 0x1#9 : BitVec 32) &&& 0xfe0001ff = 0xf4000000 := differs _ _ _ 0 (by simp only [BitVec.getLsbD_and, BitVec.getLsbD_append, Nat.reduceLT, Nat.reduceSub, if_true, if_false]; decide)
  have ho : ((0x7A#7 ++ d ++ i ++ s ++ 0x1#9 : BitVec 32).extractLsb' 25 7).toNat = 0x7a := by
    simp (disch := decide) only [cut_hi, cut_lo, cut_all]; rfl
  have hr : ∀ w : BitVec 32, (w.extractLsb' 25 7).toNat = 0x7a → decodeRaw w = (row w 0xFE0001FF 0xF4000000 (.bunion (w.extractLsb' 18 7) (w.extractLsb' 16 2) (w.extractLsb' 9 7)) <|> row w 0xFE0001FF 0xF4000001 (.bsah (w.extractLsb' 18 7) (w.extractLsb' 16 2) (w.extractLsb' 9 7)) <|> row w 0xFE0001FF 0xF4000002 (.npack (w.extractLsb' 18 7) (w.extractLsb' 16 2) (w.extractLsb' 9 7)) <|> row w 0xFE0001FF 0xF4000003 (.mcode (w.extractLsb' 18 7) (w.extractLsb' 16 2) (w.extractLsb' 9 7))) := by
    intro w h; unfold decodeRaw; rw [h]; rfl
  rw [hr _ ho]
  simp (disch := decide) only [row, hm, h0, cut_hi, cut_lo, cut_all, if_true, if_false, Nat.reduceSub] <;> rfl
theorem npack (d : BitVec 7) (i : BitVec 2) (s : BitVec 7) : Statement (.npack d i s) := by
  intro w h; cases h
  have hm : (0x7A#7 ++ d ++ i ++ s ++ 0x2#9 : BitVec 32) &&& 0xfe0001ff = 0xf4000002 := by
    rw [show (0xfe0001ff : BitVec 32) = 0x7f#7 ++ 0x0#7 ++ 0x0#2 ++ 0x0#7 ++ 0x1ff#9 from rfl]
    simp only [BitVec.and_append, BitVec.and_zero]; rfl
  have h0 : ¬ (0x7A#7 ++ d ++ i ++ s ++ 0x2#9 : BitVec 32) &&& 0xfe0001ff = 0xf4000000 := differs _ _ _ 1 (by simp only [BitVec.getLsbD_and, BitVec.getLsbD_append, Nat.reduceLT, Nat.reduceSub, if_true, if_false]; decide)
  have h1 : ¬ (0x7A#7 ++ d ++ i ++ s ++ 0x2#9 : BitVec 32) &&& 0xfe0001ff = 0xf4000001 := differs _ _ _ 1 (by simp only [BitVec.getLsbD_and, BitVec.getLsbD_append, Nat.reduceLT, Nat.reduceSub, if_true, if_false]; decide)
  have ho : ((0x7A#7 ++ d ++ i ++ s ++ 0x2#9 : BitVec 32).extractLsb' 25 7).toNat = 0x7a := by
    simp (disch := decide) only [cut_hi, cut_lo, cut_all]; rfl
  have hr : ∀ w : BitVec 32, (w.extractLsb' 25 7).toNat = 0x7a → decodeRaw w = (row w 0xFE0001FF 0xF4000000 (.bunion (w.extractLsb' 18 7) (w.extractLsb' 16 2) (w.extractLsb' 9 7)) <|> row w 0xFE0001FF 0xF4000001 (.bsah (w.extractLsb' 18 7) (w.extractLsb' 16 2) (w.extractLsb' 9 7)) <|> row w 0xFE0001FF 0xF4000002 (.npack (w.extractLsb' 18 7) (w.extractLsb' 16 2) (w.extractLsb' 9 7)) <|> row w 0xFE0001FF 0xF4000003 (.mcode (w.extractLsb' 18 7) (w.extractLsb' 16 2) (w.extractLsb' 9 7))) := by
    intro w h; unfold decodeRaw; rw [h]; rfl
  rw [hr _ ho]
  simp (disch := decide) only [row, hm, h0, h1, cut_hi, cut_lo, cut_all, if_true, if_false, Nat.reduceSub] <;> rfl
theorem mcode (d : BitVec 7) (i : BitVec 2) (s : BitVec 7) : Statement (.mcode d i s) := by
  intro w h; cases h
  have hm : (0x7A#7 ++ d ++ i ++ s ++ 0x3#9 : BitVec 32) &&& 0xfe0001ff = 0xf4000003 := by
    rw [show (0xfe0001ff : BitVec 32) = 0x7f#7 ++ 0x0#7 ++ 0x0#2 ++ 0x0#7 ++ 0x1ff#9 from rfl]
    simp only [BitVec.and_append, BitVec.and_zero]; rfl
  have h0 : ¬ (0x7A#7 ++ d ++ i ++ s ++ 0x3#9 : BitVec 32) &&& 0xfe0001ff = 0xf4000000 := differs _ _ _ 1 (by simp only [BitVec.getLsbD_and, BitVec.getLsbD_append, Nat.reduceLT, Nat.reduceSub, if_true, if_false]; decide)
  have h1 : ¬ (0x7A#7 ++ d ++ i ++ s ++ 0x3#9 : BitVec 32) &&& 0xfe0001ff = 0xf4000001 := differs _ _ _ 1 (by simp only [BitVec.getLsbD_and, BitVec.getLsbD_append, Nat.reduceLT, Nat.reduceSub, if_true, if_false]; decide)
  have h2 : ¬ (0x7A#7 ++ d ++ i ++ s ++ 0x3#9 : BitVec 32) &&& 0xfe0001ff = 0xf4000002 := differs _ _ _ 0 (by simp only [BitVec.getLsbD_and, BitVec.getLsbD_append, Nat.reduceLT, Nat.reduceSub, if_true, if_false]; decide)
  have ho : ((0x7A#7 ++ d ++ i ++ s ++ 0x3#9 : BitVec 32).extractLsb' 25 7).toNat = 0x7a := by
    simp (disch := decide) only [cut_hi, cut_lo, cut_all]; rfl
  have hr : ∀ w : BitVec 32, (w.extractLsb' 25 7).toNat = 0x7a → decodeRaw w = (row w 0xFE0001FF 0xF4000000 (.bunion (w.extractLsb' 18 7) (w.extractLsb' 16 2) (w.extractLsb' 9 7)) <|> row w 0xFE0001FF 0xF4000001 (.bsah (w.extractLsb' 18 7) (w.extractLsb' 16 2) (w.extractLsb' 9 7)) <|> row w 0xFE0001FF 0xF4000002 (.npack (w.extractLsb' 18 7) (w.extractLsb' 16 2) (w.extractLsb' 9 7)) <|> row w 0xFE0001FF 0xF4000003 (.mcode (w.extractLsb' 18 7) (w.extractLsb' 16 2) (w.extractLsb' 9 7))) := by
    intro w h; unfold decodeRaw; rw [h]; rfl
  rw [hr _ ho]
  simp (disch := decide) only [row, hm, h0, h1, h2, cut_hi, cut_lo, cut_all, if_true, if_false, Nat.reduceSub] <;> rfl
theorem thit (g : BitVec 2) (p : BitVec 3) (a : BitVec 7) (j : BitVec 2) (b : BitVec 7) : Statement (.thit g p a j b) := by
  intro w h; cases h
  have hm : (0x7B#7 ++ g ++ 0x0#2 ++ p ++ 0x0#2 ++ a ++ j ++ b : BitVec 32) &&& 0xfe630000 = 0xf6000000 := by
    rw [show (0xfe630000 : BitVec 32) = 0x7f#7 ++ 0x0#2 ++ 0x3#2 ++ 0x0#3 ++ 0x3#2 ++ 0x0#7 ++ 0x0#2 ++ 0x0#7 from rfl]
    simp only [BitVec.and_append, BitVec.and_zero]; rfl
  have ho : ((0x7B#7 ++ g ++ 0x0#2 ++ p ++ 0x0#2 ++ a ++ j ++ b : BitVec 32).extractLsb' 25 7).toNat = 0x7b := by
    simp (disch := decide) only [cut_hi, cut_lo, cut_all]; rfl
  have hr : ∀ w : BitVec 32, (w.extractLsb' 25 7).toNat = 0x7b → decodeRaw w = (row w 0xFE630000 0xF6000000 (.thit (w.extractLsb' 23 2) (w.extractLsb' 18 3) (w.extractLsb' 9 7) (w.extractLsb' 7 2) (w.extractLsb' 0 7))) := by
    intro w h; unfold decodeRaw; rw [h]; rfl
  rw [hr _ ho]
  simp (disch := decide) only [row, hm, cut_hi, cut_lo, cut_all, if_true, if_false, Nat.reduceSub] <;> rfl
theorem gemitPrim (d : BitVec 7) (n : BitVec 1) (p : BitVec 3) : Statement (.gemitPrim d n p) := by
  intro w h; cases h
  have hm : (0x7C#7 ++ d ++ 0x0#3 ++ n ++ p ++ 0x0#11 : BitVec 32) &&& 0xfe0387ff = 0xf8000000 := by
    rw [show (0xfe0387ff : BitVec 32) = 0x7f#7 ++ 0x0#7 ++ 0x7#3 ++ 0x0#1 ++ 0x0#3 ++ 0x7ff#11 from rfl]
    simp only [BitVec.and_append, BitVec.and_zero]; rfl
  have ho : ((0x7C#7 ++ d ++ 0x0#3 ++ n ++ p ++ 0x0#11 : BitVec 32).extractLsb' 25 7).toNat = 0x7c := by
    simp (disch := decide) only [cut_hi, cut_lo, cut_all]; rfl
  have hr : ∀ w : BitVec 32, (w.extractLsb' 25 7).toNat = 0x7c → decodeRaw w = (row w 0xFE0387FF 0xF8000000 (.gemitPrim (w.extractLsb' 18 7) (w.extractLsb' 14 1) (w.extractLsb' 11 3)) <|> row w 0xFE0007FF 0xF8000100 (.gemitDraw (w.extractLsb' 18 7) (w.extractLsb' 15 3) (w.extractLsb' 14 1) (w.extractLsb' 11 3))) := by
    intro w h; unfold decodeRaw; rw [h]; rfl
  rw [hr _ ho]
  simp (disch := decide) only [row, hm, cut_hi, cut_lo, cut_all, if_true, if_false, Nat.reduceSub] <;> rfl
theorem gemitDraw (d : BitVec 7) (s : BitVec 3) (n : BitVec 1) (p : BitVec 3) : Statement (.gemitDraw d s n p) := by
  intro w h; cases h
  have hm : (0x7C#7 ++ d ++ s ++ n ++ p ++ 0x100#11 : BitVec 32) &&& 0xfe0007ff = 0xf8000100 := by
    rw [show (0xfe0007ff : BitVec 32) = 0x7f#7 ++ 0x0#7 ++ 0x0#3 ++ 0x0#1 ++ 0x0#3 ++ 0x7ff#11 from rfl]
    simp only [BitVec.and_append, BitVec.and_zero]; rfl
  have h0 : ¬ (0x7C#7 ++ d ++ s ++ n ++ p ++ 0x100#11 : BitVec 32) &&& 0xfe0387ff = 0xf8000000 := differs _ _ _ 8 (by simp only [BitVec.getLsbD_and, BitVec.getLsbD_append, Nat.reduceLT, Nat.reduceSub, if_true, if_false]; decide)
  have ho : ((0x7C#7 ++ d ++ s ++ n ++ p ++ 0x100#11 : BitVec 32).extractLsb' 25 7).toNat = 0x7c := by
    simp (disch := decide) only [cut_hi, cut_lo, cut_all]; rfl
  have hr : ∀ w : BitVec 32, (w.extractLsb' 25 7).toNat = 0x7c → decodeRaw w = (row w 0xFE0387FF 0xF8000000 (.gemitPrim (w.extractLsb' 18 7) (w.extractLsb' 14 1) (w.extractLsb' 11 3)) <|> row w 0xFE0007FF 0xF8000100 (.gemitDraw (w.extractLsb' 18 7) (w.extractLsb' 15 3) (w.extractLsb' 14 1) (w.extractLsb' 11 3))) := by
    intro w h; unfold decodeRaw; rw [h]; rfl
  rw [hr _ ho]
  simp (disch := decide) only [row, hm, h0, cut_hi, cut_lo, cut_all, if_true, if_false, Nat.reduceSub] <;> rfl
theorem frag (d : BitVec 7) (t : BitVec 3) (z : BitVec 1) : Statement (.frag d t z) := by
  intro w h; cases h
  have hm : (0x7D#7 ++ d ++ 0x0#7 ++ t ++ z ++ 0x0#7 : BitVec 32) &&& 0xfe03f87f = 0xfa000000 := by
    rw [show (0xfe03f87f : BitVec 32) = 0x7f#7 ++ 0x0#7 ++ 0x7f#7 ++ 0x0#3 ++ 0x0#1 ++ 0x7f#7 from rfl]
    simp only [BitVec.and_append, BitVec.and_zero]; rfl
  have ho : ((0x7D#7 ++ d ++ 0x0#7 ++ t ++ z ++ 0x0#7 : BitVec 32).extractLsb' 25 7).toNat = 0x7d := by
    simp (disch := decide) only [cut_hi, cut_lo, cut_all]; rfl
  have hr : ∀ w : BitVec 32, (w.extractLsb' 25 7).toNat = 0x7d → decodeRaw w = (row w 0xFE03F87F 0xFA000000 (.frag (w.extractLsb' 18 7) (w.extractLsb' 8 3) (w.extractLsb' 7 1))) := by
    intro w h; unfold decodeRaw; rw [h]; rfl
  rw [hr _ ho]
  simp (disch := decide) only [row, hm, cut_hi, cut_lo, cut_all, if_true, if_false, Nat.reduceSub] <;> rfl
theorem sysSrseed (s : BitVec 7) : Statement (.sysSrseed s) := by
  intro w h; cases h
  have hm : (0xFC00#16 ++ s ++ 0x0#9 : BitVec 32) &&& 0xffff01ff = 0xfc000000 := by
    rw [show (0xffff01ff : BitVec 32) = 0xffff#16 ++ 0x0#7 ++ 0x1ff#9 from rfl]
    simp only [BitVec.and_append, BitVec.and_zero]; rfl
  have ho : ((0xFC00#16 ++ s ++ 0x0#9 : BitVec 32).extractLsb' 25 7).toNat = 0x7e := by
    simp (disch := decide) only [cut_hi, cut_lo, cut_all]; rfl
  have hr : ∀ w : BitVec 32, (w.extractLsb' 25 7).toNat = 0x7e → decodeRaw w = (row w 0xFFFF01FF 0xFC000000 (.sysSrseed (w.extractLsb' 9 7)) <|> row w 0xFFE301FF 0xFC000001 (.sysSegset (w.extractLsb' 18 3) (w.extractLsb' 9 7)) <|> row w 0xFFFBFFFF 0xFC000002 (.sysTret (w.extractLsb' 18 1))) := by
    intro w h; unfold decodeRaw; rw [h]; rfl
  rw [hr _ ho]
  simp (disch := decide) only [row, hm, cut_hi, cut_lo, cut_all, if_true, if_false, Nat.reduceSub] <;> rfl
theorem sysSegset (g : BitVec 3) (s : BitVec 7) : Statement (.sysSegset g s) := by
  intro w h; cases h
  have hm : (0x7E0#11 ++ g ++ 0x0#2 ++ s ++ 0x1#9 : BitVec 32) &&& 0xffe301ff = 0xfc000001 := by
    rw [show (0xffe301ff : BitVec 32) = 0x7ff#11 ++ 0x0#3 ++ 0x3#2 ++ 0x0#7 ++ 0x1ff#9 from rfl]
    simp only [BitVec.and_append, BitVec.and_zero]; rfl
  have h0 : ¬ (0x7E0#11 ++ g ++ 0x0#2 ++ s ++ 0x1#9 : BitVec 32) &&& 0xffff01ff = 0xfc000000 := differs _ _ _ 0 (by simp only [BitVec.getLsbD_and, BitVec.getLsbD_append, Nat.reduceLT, Nat.reduceSub, if_true, if_false]; decide)
  have ho : ((0x7E0#11 ++ g ++ 0x0#2 ++ s ++ 0x1#9 : BitVec 32).extractLsb' 25 7).toNat = 0x7e := by
    simp (disch := decide) only [cut_hi, cut_lo, cut_all]; rfl
  have hr : ∀ w : BitVec 32, (w.extractLsb' 25 7).toNat = 0x7e → decodeRaw w = (row w 0xFFFF01FF 0xFC000000 (.sysSrseed (w.extractLsb' 9 7)) <|> row w 0xFFE301FF 0xFC000001 (.sysSegset (w.extractLsb' 18 3) (w.extractLsb' 9 7)) <|> row w 0xFFFBFFFF 0xFC000002 (.sysTret (w.extractLsb' 18 1))) := by
    intro w h; unfold decodeRaw; rw [h]; rfl
  rw [hr _ ho]
  simp (disch := decide) only [row, hm, h0, cut_hi, cut_lo, cut_all, if_true, if_false, Nat.reduceSub] <;> rfl
theorem sysTret (k : BitVec 1) : Statement (.sysTret k) := by
  intro w h; cases h
  have hm : (0x1F80#13 ++ k ++ 0x2#18 : BitVec 32) &&& 0xfffbffff = 0xfc000002 := by
    rw [show (0xfffbffff : BitVec 32) = 0x1fff#13 ++ 0x0#1 ++ 0x3ffff#18 from rfl]
    simp only [BitVec.and_append, BitVec.and_zero]; rfl
  have h0 : ¬ (0x1F80#13 ++ k ++ 0x2#18 : BitVec 32) &&& 0xffff01ff = 0xfc000000 := differs _ _ _ 1 (by simp only [BitVec.getLsbD_and, BitVec.getLsbD_append, Nat.reduceLT, Nat.reduceSub, if_true, if_false]; decide)
  have h1 : ¬ (0x1F80#13 ++ k ++ 0x2#18 : BitVec 32) &&& 0xffe301ff = 0xfc000001 := differs _ _ _ 1 (by simp only [BitVec.getLsbD_and, BitVec.getLsbD_append, Nat.reduceLT, Nat.reduceSub, if_true, if_false]; decide)
  have ho : ((0x1F80#13 ++ k ++ 0x2#18 : BitVec 32).extractLsb' 25 7).toNat = 0x7e := by
    simp (disch := decide) only [cut_hi, cut_lo, cut_all]; rfl
  have hr : ∀ w : BitVec 32, (w.extractLsb' 25 7).toNat = 0x7e → decodeRaw w = (row w 0xFFFF01FF 0xFC000000 (.sysSrseed (w.extractLsb' 9 7)) <|> row w 0xFFE301FF 0xFC000001 (.sysSegset (w.extractLsb' 18 3) (w.extractLsb' 9 7)) <|> row w 0xFFFBFFFF 0xFC000002 (.sysTret (w.extractLsb' 18 1))) := by
    intro w h; unfold decodeRaw; rw [h]; rfl
  rw [hr _ ho]
  simp (disch := decide) only [row, hm, h0, h1, cut_hi, cut_lo, cut_all, if_true, if_false, Nat.reduceSub] <;> rfl
theorem peerPortTrained (x0 : Nat) (x1 : Nat) : Statement (.peerPortTrained x0 x1) := nofun
theorem governorBudgetChange (x0 : Nat) (x1 : BitVec 16) : Statement (.governorBudgetChange x0 x1) := nofun

end Sys2Proof.Laws.Encoding
end

