-- ==== Sys2Proof/Laws/State.lean ====
section
/-! SUPPORT. The fields that each small update of the state leaves alone. -/
namespace Sys2Proof.Machine
set_option Elab.async false

/-! ### `updG` -/

@[simp] theorem updG_teams (s : State) (key : Nat) (f : Group → Group) : (updG s key f).teams = s.teams := rfl
@[simp] theorem updG_launches (s : State) (key : Nat) (f : Group → Group) : (updG s key f).launches = s.launches := rfl
@[simp] theorem updG_saved (s : State) (key : Nat) (f : Group → Group) : (updG s key f).saved = s.saved := rfl
@[simp] theorem updG_l1 (s : State) (key : Nat) (f : Group → Group) : (updG s key f).l1 = s.l1 := rfl
@[simp] theorem updG_icache (s : State) (key : Nat) (f : Group → Group) : (updG s key f).icache = s.icache := rfl
@[simp] theorem updG_scratch (s : State) (key : Nat) (f : Group → Group) : (updG s key f).scratch = s.scratch := rfl
@[simp] theorem updG_outMsgs (s : State) (key : Nat) (f : Group → Group) : (updG s key f).outMsgs = s.outMsgs := rfl
@[simp] theorem updG_cycles (s : State) (key : Nat) (f : Group → Group) : (updG s key f).cycles = s.cycles := rfl
@[simp] theorem updG_rounds (s : State) (key : Nat) (f : Group → Group) : (updG s key f).rounds = s.rounds := rfl
@[simp] theorem updG_cores (s : State) (key : Nat) (f : Group → Group) : (updG s key f).cores = s.cores := rfl
@[simp] theorem updG_clusters (s : State) (key : Nat) (f : Group → Group) : (updG s key f).clusters = s.clusters := rfl
@[simp] theorem updG_near (s : State) (key : Nat) (f : Group → Group) : (updG s key f).near = s.near := rfl
@[simp] theorem updG_far (s : State) (key : Nat) (f : Group → Group) : (updG s key f).far = s.far := rfl
@[simp] theorem updG_host (s : State) (key : Nat) (f : Group → Group) : (updG s key f).host = s.host := rfl
@[simp] theorem updG_peers (s : State) (key : Nat) (f : Group → Group) : (updG s key f).peers = s.peers := rfl
@[simp] theorem updG_slices (s : State) (key : Nat) (f : Group → Group) : (updG s key f).slices = s.slices := rfl
@[simp] theorem updG_poison (s : State) (key : Nat) (f : Group → Group) : (updG s key f).poison = s.poison := rfl
@[simp] theorem updG_badCheck (s : State) (key : Nat) (f : Group → Group) : (updG s key f).badCheck = s.badCheck := rfl
@[simp] theorem updG_tcache (s : State) (key : Nat) (f : Group → Group) : (updG s key f).tcache = s.tcache := rfl
@[simp] theorem updG_hub0 (s : State) (key : Nat) (f : Group → Group) : (updG s key f).hub0 = s.hub0 := rfl
@[simp] theorem updG_hub1 (s : State) (key : Nat) (f : Group → Group) : (updG s key f).hub1 = s.hub1 := rfl
@[simp] theorem updG_hinge (s : State) (key : Nat) (f : Group → Group) : (updG s key f).hinge = s.hinge := rfl
@[simp] theorem updG_inUse (s : State) (key : Nat) (f : Group → Group) : (updG s key f).inUse = s.inUse := rfl
@[simp] theorem updG_affinity (s : State) (key : Nat) (f : Group → Group) : (updG s key f).affinity = s.affinity := rfl
@[simp] theorem updG_heldWb (s : State) (key : Nat) (f : Group → Group) : (updG s key f).heldWb = s.heldWb := rfl
@[simp] theorem updG_slotFrees (s : State) (key : Nat) (f : Group → Group) : (updG s key f).slotFrees = s.slotFrees := rfl
@[simp] theorem updG_xfaults (s : State) (key : Nat) (f : Group → Group) : (updG s key f).xfaults = s.xfaults := rfl
@[simp] theorem updG_invals (s : State) (key : Nat) (f : Group → Group) : (updG s key f).invals = s.invals := rfl
@[simp] theorem updG_frames (s : State) (key : Nat) (f : Group → Group) : (updG s key f).frames = s.frames := rfl
@[simp] theorem updG_paused (s : State) (key : Nat) (f : Group → Group) : (updG s key f).paused = s.paused := rfl
@[simp] theorem updG_beats (s : State) (key : Nat) (f : Group → Group) : (updG s key f).beats = s.beats := rfl
@[simp] theorem updG_drops (s : State) (key : Nat) (f : Group → Group) : (updG s key f).drops = s.drops := rfl
@[simp] theorem updG_peerIn (s : State) (key : Nat) (f : Group → Group) : (updG s key f).peerIn = s.peerIn := rfl
@[simp] theorem updG_collIn (s : State) (key : Nat) (f : Group → Group) : (updG s key f).collIn = s.collIn := rfl
@[simp] theorem updG_sreqs (s : State) (key : Nat) (f : Group → Group) : (updG s key f).sreqs = s.sreqs := rfl
@[simp] theorem updG_seqs (s : State) (key : Nat) (f : Group → Group) : (updG s key f).seqs = s.seqs := rfl
@[simp] theorem updG_marks (s : State) (key : Nat) (f : Group → Group) : (updG s key f).marks = s.marks := rfl
@[simp] theorem updG_respWin (s : State) (key : Nat) (f : Group → Group) : (updG s key f).respWin = s.respWin := rfl
@[simp] theorem updG_cells (s : State) (key : Nat) (f : Group → Group) : (updG s key f).cells = s.cells := rfl
@[simp] theorem updG_fqueues (s : State) (key : Nat) (f : Group → Group) : (updG s key f).fqueues = s.fqueues := rfl
@[simp] theorem updG_pawls (s : State) (key : Nat) (f : Group → Group) : (updG s key f).pawls = s.pawls := rfl
@[simp] theorem updG_stations (s : State) (key : Nat) (f : Group → Group) : (updG s key f).stations = s.stations := rfl
@[simp] theorem updG_links (s : State) (key : Nat) (f : Group → Group) : (updG s key f).links = s.links := rfl
@[simp] theorem updG_reroute (s : State) (key : Nat) (f : Group → Group) : (updG s key f).reroute = s.reroute := rfl
@[simp] theorem updG_engCmds (s : State) (key : Nat) (f : Group → Group) : (updG s key f).engCmds = s.engCmds := rfl
@[simp] theorem updG_mx (s : State) (key : Nat) (f : Group → Group) : (updG s key f).mx = s.mx := rfl
@[simp] theorem updG_rays (s : State) (key : Nat) (f : Group → Group) : (updG s key f).rays = s.rays := rfl
@[simp] theorem updG_interests (s : State) (key : Nat) (f : Group → Group) : (updG s key f).interests = s.interests := rfl
@[simp] theorem updG_recs (s : State) (key : Nat) (f : Group → Group) : (updG s key f).recs = s.recs := rfl
@[simp] theorem updG_tiles (s : State) (key : Nat) (f : Group → Group) : (updG s key f).tiles = s.tiles := rfl
@[simp] theorem updG_tdir (s : State) (key : Nat) (f : Group → Group) : (updG s key f).tdir = s.tdir := rfl
@[simp] theorem updG_closed (s : State) (key : Nat) (f : Group → Group) : (updG s key f).closed = s.closed := rfl
@[simp] theorem updG_kflits (s : State) (key : Nat) (f : Group → Group) : (updG s key f).kflits = s.kflits := rfl
@[simp] theorem updG_msgQ (s : State) (key : Nat) (f : Group → Group) : (updG s key f).msgQ = s.msgQ := rfl
@[simp] theorem updG_surfs (s : State) (key : Nat) (f : Group → Group) : (updG s key f).surfs = s.surfs := rfl
@[simp] theorem updG_gens (s : State) (key : Nat) (f : Group → Group) : (updG s key f).gens = s.gens := rfl
@[simp] theorem updG_sbytes (s : State) (key : Nat) (f : Group → Group) : (updG s key f).sbytes = s.sbytes := rfl
@[simp] theorem updG_bstate (s : State) (key : Nat) (f : Group → Group) : (updG s key f).bstate = s.bstate := rfl
@[simp] theorem updG_tslots (s : State) (key : Nat) (f : Group → Group) : (updG s key f).tslots = s.tslots := rfl
@[simp] theorem updG_tlast (s : State) (key : Nat) (f : Group → Group) : (updG s key f).tlast = s.tlast := rfl
@[simp] theorem updG_restoring (s : State) (key : Nat) (f : Group → Group) : (updG s key f).restoring = s.restoring := rfl
@[simp] theorem updG_bankProg (s : State) (key : Nat) (f : Group → Group) : (updG s key f).bankProg = s.bankProg := rfl
@[simp] theorem updG_raster (s : State) (key : Nat) (f : Group → Group) : (updG s key f).raster = s.raster := rfl
@[simp] theorem updG_ctxs (s : State) (key : Nat) (f : Group → Group) : (updG s key f).ctxs = s.ctxs := rfl
@[simp] theorem updG_queues (s : State) (key : Nat) (f : Group → Group) : (updG s key f).queues = s.queues := rfl
@[simp] theorem updG_qcur (s : State) (key : Nat) (f : Group → Group) : (updG s key f).qcur = s.qcur := rfl
@[simp] theorem updG_killing (s : State) (key : Nat) (f : Group → Group) : (updG s key f).killing = s.killing := rfl
@[simp] theorem updG_hb (s : State) (key : Nat) (f : Group → Group) : (updG s key f).hb = s.hb := rfl
@[simp] theorem updG_fw (s : State) (key : Nat) (f : Group → Group) : (updG s key f).fw = s.fw := rfl
@[simp] theorem updG_time (s : State) (key : Nat) (f : Group → Group) : (updG s key f).time = s.time := rfl
@[simp] theorem updG_issue (s : State) (key : Nat) (f : Group → Group) : (updG s key f).issue = s.issue := rfl
@[simp] theorem updG_agenda (s : State) (key : Nat) (f : Group → Group) : (updG s key f).agenda = s.agenda := rfl
@[simp] theorem updG_rr (s : State) (key : Nat) (f : Group → Group) : (updG s key f).rr = s.rr := rfl
@[simp] theorem updG_fresh (s : State) (key : Nat) (f : Group → Group) : (updG s key f).fresh = s.fresh := rfl
@[simp] theorem updG_nextId (s : State) (key : Nat) (f : Group → Group) : (updG s key f).nextId = s.nextId := rfl

/-! ### `setSplit` -/

@[simp] theorem setSplit_teams (s : State) (key si : Nat) (f : Split → Split) : (setSplit s key si f).teams = s.teams := rfl
@[simp] theorem setSplit_launches (s : State) (key si : Nat) (f : Split → Split) : (setSplit s key si f).launches = s.launches := rfl
@[simp] theorem setSplit_saved (s : State) (key si : Nat) (f : Split → Split) : (setSplit s key si f).saved = s.saved := rfl
@[simp] theorem setSplit_l1 (s : State) (key si : Nat) (f : Split → Split) : (setSplit s key si f).l1 = s.l1 := rfl
@[simp] theorem setSplit_icache (s : State) (key si : Nat) (f : Split → Split) : (setSplit s key si f).icache = s.icache := rfl
@[simp] theorem setSplit_scratch (s : State) (key si : Nat) (f : Split → Split) : (setSplit s key si f).scratch = s.scratch := rfl
@[simp] theorem setSplit_outMsgs (s : State) (key si : Nat) (f : Split → Split) : (setSplit s key si f).outMsgs = s.outMsgs := rfl
@[simp] theorem setSplit_cycles (s : State) (key si : Nat) (f : Split → Split) : (setSplit s key si f).cycles = s.cycles := rfl
@[simp] theorem setSplit_rounds (s : State) (key si : Nat) (f : Split → Split) : (setSplit s key si f).rounds = s.rounds := rfl
@[simp] theorem setSplit_cores (s : State) (key si : Nat) (f : Split → Split) : (setSplit s key si f).cores = s.cores := rfl
@[simp] theorem setSplit_clusters (s : State) (key si : Nat) (f : Split → Split) : (setSplit s key si f).clusters = s.clusters := rfl
@[simp] theorem setSplit_near (s : State) (key si : Nat) (f : Split → Split) : (setSplit s key si f).near = s.near := rfl
@[simp] theorem setSplit_far (s : State) (key si : Nat) (f : Split → Split) : (setSplit s key si f).far = s.far := rfl
@[simp] theorem setSplit_host (s : State) (key si : Nat) (f : Split → Split) : (setSplit s key si f).host = s.host := rfl
@[simp] theorem setSplit_peers (s : State) (key si : Nat) (f : Split → Split) : (setSplit s key si f).peers = s.peers := rfl
@[simp] theorem setSplit_slices (s : State) (key si : Nat) (f : Split → Split) : (setSplit s key si f).slices = s.slices := rfl
@[simp] theorem setSplit_poison (s : State) (key si : Nat) (f : Split → Split) : (setSplit s key si f).poison = s.poison := rfl
@[simp] theorem setSplit_badCheck (s : State) (key si : Nat) (f : Split → Split) : (setSplit s key si f).badCheck = s.badCheck := rfl
@[simp] theorem setSplit_tcache (s : State) (key si : Nat) (f : Split → Split) : (setSplit s key si f).tcache = s.tcache := rfl
@[simp] theorem setSplit_hub0 (s : State) (key si : Nat) (f : Split → Split) : (setSplit s key si f).hub0 = s.hub0 := rfl
@[simp] theorem setSplit_hub1 (s : State) (key si : Nat) (f : Split → Split) : (setSplit s key si f).hub1 = s.hub1 := rfl
@[simp] theorem setSplit_hinge (s : State) (key si : Nat) (f : Split → Split) : (setSplit s key si f).hinge = s.hinge := rfl
@[simp] theorem setSplit_inUse (s : State) (key si : Nat) (f : Split → Split) : (setSplit s key si f).inUse = s.inUse := rfl
@[simp] theorem setSplit_affinity (s : State) (key si : Nat) (f : Split → Split) : (setSplit s key si f).affinity = s.affinity := rfl
@[simp] theorem setSplit_heldWb (s : State) (key si : Nat) (f : Split → Split) : (setSplit s key si f).heldWb = s.heldWb := rfl
@[simp] theorem setSplit_slotFrees (s : State) (key si : Nat) (f : Split → Split) : (setSplit s key si f).slotFrees = s.slotFrees := rfl
@[simp] theorem setSplit_xfaults (s : State) (key si : Nat) (f : Split → Split) : (setSplit s key si f).xfaults = s.xfaults := rfl
@[simp] theorem setSplit_invals (s : State) (key si : Nat) (f : Split → Split) : (setSplit s key si f).invals = s.invals := rfl
@[simp] theorem setSplit_frames (s : State) (key si : Nat) (f : Split → Split) : (setSplit s key si f).frames = s.frames := rfl
@[simp] theorem setSplit_paused (s : State) (key si : Nat) (f : Split → Split) : (setSplit s key si f).paused = s.paused := rfl
@[simp] theorem setSplit_beats (s : State) (key si : Nat) (f : Split → Split) : (setSplit s key si f).beats = s.beats := rfl
@[simp] theorem setSplit_drops (s : State) (key si : Nat) (f : Split → Split) : (setSplit s key si f).drops = s.drops := rfl
@[simp] theorem setSplit_peerIn (s : State) (key si : Nat) (f : Split → Split) : (setSplit s key si f).peerIn = s.peerIn := rfl
@[simp] theorem setSplit_collIn (s : State) (key si : Nat) (f : Split → Split) : (setSplit s key si f).collIn = s.collIn := rfl
@[simp] theorem setSplit_sreqs (s : State) (key si : Nat) (f : Split → Split) : (setSplit s key si f).sreqs = s.sreqs := rfl
@[simp] theorem setSplit_seqs (s : State) (key si : Nat) (f : Split → Split) : (setSplit s key si f).seqs = s.seqs := rfl
@[simp] theorem setSplit_marks (s : State) (key si : Nat) (f : Split → Split) : (setSplit s key si f).marks = s.marks := rfl
@[simp] theorem setSplit_respWin (s : State) (key si : Nat) (f : Split → Split) : (setSplit s key si f).respWin = s.respWin := rfl
@[simp] theorem setSplit_cells (s : State) (key si : Nat) (f : Split → Split) : (setSplit s key si f).cells = s.cells := rfl
@[simp] theorem setSplit_fqueues (s : State) (key si : Nat) (f : Split → Split) : (setSplit s key si f).fqueues = s.fqueues := rfl
@[simp] theorem setSplit_pawls (s : State) (key si : Nat) (f : Split → Split) : (setSplit s key si f).pawls = s.pawls := rfl
@[simp] theorem setSplit_stations (s : State) (key si : Nat) (f : Split → Split) : (setSplit s key si f).stations = s.stations := rfl
@[simp] theorem setSplit_links (s : State) (key si : Nat) (f : Split → Split) : (setSplit s key si f).links = s.links := rfl
@[simp] theorem setSplit_reroute (s : State) (key si : Nat) (f : Split → Split) : (setSplit s key si f).reroute = s.reroute := rfl
@[simp] theorem setSplit_engCmds (s : State) (key si : Nat) (f : Split → Split) : (setSplit s key si f).engCmds = s.engCmds := rfl
@[simp] theorem setSplit_mx (s : State) (key si : Nat) (f : Split → Split) : (setSplit s key si f).mx = s.mx := rfl
@[simp] theorem setSplit_rays (s : State) (key si : Nat) (f : Split → Split) : (setSplit s key si f).rays = s.rays := rfl
@[simp] theorem setSplit_interests (s : State) (key si : Nat) (f : Split → Split) : (setSplit s key si f).interests = s.interests := rfl
@[simp] theorem setSplit_recs (s : State) (key si : Nat) (f : Split → Split) : (setSplit s key si f).recs = s.recs := rfl
@[simp] theorem setSplit_tiles (s : State) (key si : Nat) (f : Split → Split) : (setSplit s key si f).tiles = s.tiles := rfl
@[simp] theorem setSplit_tdir (s : State) (key si : Nat) (f : Split → Split) : (setSplit s key si f).tdir = s.tdir := rfl
@[simp] theorem setSplit_closed (s : State) (key si : Nat) (f : Split → Split) : (setSplit s key si f).closed = s.closed := rfl
@[simp] theorem setSplit_kflits (s : State) (key si : Nat) (f : Split → Split) : (setSplit s key si f).kflits = s.kflits := rfl
@[simp] theorem setSplit_msgQ (s : State) (key si : Nat) (f : Split → Split) : (setSplit s key si f).msgQ = s.msgQ := rfl
@[simp] theorem setSplit_surfs (s : State) (key si : Nat) (f : Split → Split) : (setSplit s key si f).surfs = s.surfs := rfl
@[simp] theorem setSplit_gens (s : State) (key si : Nat) (f : Split → Split) : (setSplit s key si f).gens = s.gens := rfl
@[simp] theorem setSplit_sbytes (s : State) (key si : Nat) (f : Split → Split) : (setSplit s key si f).sbytes = s.sbytes := rfl
@[simp] theorem setSplit_bstate (s : State) (key si : Nat) (f : Split → Split) : (setSplit s key si f).bstate = s.bstate := rfl
@[simp] theorem setSplit_tslots (s : State) (key si : Nat) (f : Split → Split) : (setSplit s key si f).tslots = s.tslots := rfl
@[simp] theorem setSplit_tlast (s : State) (key si : Nat) (f : Split → Split) : (setSplit s key si f).tlast = s.tlast := rfl
@[simp] theorem setSplit_restoring (s : State) (key si : Nat) (f : Split → Split) : (setSplit s key si f).restoring = s.restoring := rfl
@[simp] theorem setSplit_bankProg (s : State) (key si : Nat) (f : Split → Split) : (setSplit s key si f).bankProg = s.bankProg := rfl
@[simp] theorem setSplit_raster (s : State) (key si : Nat) (f : Split → Split) : (setSplit s key si f).raster = s.raster := rfl
@[simp] theorem setSplit_ctxs (s : State) (key si : Nat) (f : Split → Split) : (setSplit s key si f).ctxs = s.ctxs := rfl
@[simp] theorem setSplit_queues (s : State) (key si : Nat) (f : Split → Split) : (setSplit s key si f).queues = s.queues := rfl
@[simp] theorem setSplit_qcur (s : State) (key si : Nat) (f : Split → Split) : (setSplit s key si f).qcur = s.qcur := rfl
@[simp] theorem setSplit_killing (s : State) (key si : Nat) (f : Split → Split) : (setSplit s key si f).killing = s.killing := rfl
@[simp] theorem setSplit_hb (s : State) (key si : Nat) (f : Split → Split) : (setSplit s key si f).hb = s.hb := rfl
@[simp] theorem setSplit_fw (s : State) (key si : Nat) (f : Split → Split) : (setSplit s key si f).fw = s.fw := rfl
@[simp] theorem setSplit_time (s : State) (key si : Nat) (f : Split → Split) : (setSplit s key si f).time = s.time := rfl
@[simp] theorem setSplit_issue (s : State) (key si : Nat) (f : Split → Split) : (setSplit s key si f).issue = s.issue := rfl
@[simp] theorem setSplit_agenda (s : State) (key si : Nat) (f : Split → Split) : (setSplit s key si f).agenda = s.agenda := rfl
@[simp] theorem setSplit_rr (s : State) (key si : Nat) (f : Split → Split) : (setSplit s key si f).rr = s.rr := rfl
@[simp] theorem setSplit_fresh (s : State) (key si : Nat) (f : Split → Split) : (setSplit s key si f).fresh = s.fresh := rfl
@[simp] theorem setSplit_nextId (s : State) (key si : Nat) (f : Split → Split) : (setSplit s key si f).nextId = s.nextId := rfl

/-! ### `later` -/

@[simp] theorem later_groups (s : State) (e : Instr) : (later s e).groups = s.groups := rfl
@[simp] theorem later_teams (s : State) (e : Instr) : (later s e).teams = s.teams := rfl
@[simp] theorem later_launches (s : State) (e : Instr) : (later s e).launches = s.launches := rfl
@[simp] theorem later_saved (s : State) (e : Instr) : (later s e).saved = s.saved := rfl
@[simp] theorem later_l1 (s : State) (e : Instr) : (later s e).l1 = s.l1 := rfl
@[simp] theorem later_icache (s : State) (e : Instr) : (later s e).icache = s.icache := rfl
@[simp] theorem later_scratch (s : State) (e : Instr) : (later s e).scratch = s.scratch := rfl
@[simp] theorem later_outMsgs (s : State) (e : Instr) : (later s e).outMsgs = s.outMsgs := rfl
@[simp] theorem later_cycles (s : State) (e : Instr) : (later s e).cycles = s.cycles := rfl
@[simp] theorem later_rounds (s : State) (e : Instr) : (later s e).rounds = s.rounds := rfl
@[simp] theorem later_cores (s : State) (e : Instr) : (later s e).cores = s.cores := rfl
@[simp] theorem later_clusters (s : State) (e : Instr) : (later s e).clusters = s.clusters := rfl
@[simp] theorem later_near (s : State) (e : Instr) : (later s e).near = s.near := rfl
@[simp] theorem later_far (s : State) (e : Instr) : (later s e).far = s.far := rfl
@[simp] theorem later_host (s : State) (e : Instr) : (later s e).host = s.host := rfl
@[simp] theorem later_peers (s : State) (e : Instr) : (later s e).peers = s.peers := rfl
@[simp] theorem later_slices (s : State) (e : Instr) : (later s e).slices = s.slices := rfl
@[simp] theorem later_poison (s : State) (e : Instr) : (later s e).poison = s.poison := rfl
@[simp] theorem later_badCheck (s : State) (e : Instr) : (later s e).badCheck = s.badCheck := rfl
@[simp] theorem later_tcache (s : State) (e : Instr) : (later s e).tcache = s.tcache := rfl
@[simp] theorem later_hub0 (s : State) (e : Instr) : (later s e).hub0 = s.hub0 := rfl
@[simp] theorem later_hub1 (s : State) (e : Instr) : (later s e).hub1 = s.hub1 := rfl
@[simp] theorem later_hinge (s : State) (e : Instr) : (later s e).hinge = s.hinge := rfl
@[simp] theorem later_inUse (s : State) (e : Instr) : (later s e).inUse = s.inUse := rfl
@[simp] theorem later_affinity (s : State) (e : Instr) : (later s e).affinity = s.affinity := rfl
@[simp] theorem later_heldWb (s : State) (e : Instr) : (later s e).heldWb = s.heldWb := rfl
@[simp] theorem later_slotFrees (s : State) (e : Instr) : (later s e).slotFrees = s.slotFrees := rfl
@[simp] theorem later_xfaults (s : State) (e : Instr) : (later s e).xfaults = s.xfaults := rfl
@[simp] theorem later_invals (s : State) (e : Instr) : (later s e).invals = s.invals := rfl
@[simp] theorem later_frames (s : State) (e : Instr) : (later s e).frames = s.frames := rfl
@[simp] theorem later_paused (s : State) (e : Instr) : (later s e).paused = s.paused := rfl
@[simp] theorem later_beats (s : State) (e : Instr) : (later s e).beats = s.beats := rfl
@[simp] theorem later_drops (s : State) (e : Instr) : (later s e).drops = s.drops := rfl
@[simp] theorem later_peerIn (s : State) (e : Instr) : (later s e).peerIn = s.peerIn := rfl
@[simp] theorem later_collIn (s : State) (e : Instr) : (later s e).collIn = s.collIn := rfl
@[simp] theorem later_sreqs (s : State) (e : Instr) : (later s e).sreqs = s.sreqs := rfl
@[simp] theorem later_seqs (s : State) (e : Instr) : (later s e).seqs = s.seqs := rfl
@[simp] theorem later_marks (s : State) (e : Instr) : (later s e).marks = s.marks := rfl
@[simp] theorem later_respWin (s : State) (e : Instr) : (later s e).respWin = s.respWin := rfl
@[simp] theorem later_cells (s : State) (e : Instr) : (later s e).cells = s.cells := rfl
@[simp] theorem later_fqueues (s : State) (e : Instr) : (later s e).fqueues = s.fqueues := rfl
@[simp] theorem later_pawls (s : State) (e : Instr) : (later s e).pawls = s.pawls := rfl
@[simp] theorem later_stations (s : State) (e : Instr) : (later s e).stations = s.stations := rfl
@[simp] theorem later_links (s : State) (e : Instr) : (later s e).links = s.links := rfl
@[simp] theorem later_reroute (s : State) (e : Instr) : (later s e).reroute = s.reroute := rfl
@[simp] theorem later_engCmds (s : State) (e : Instr) : (later s e).engCmds = s.engCmds := rfl
@[simp] theorem later_mx (s : State) (e : Instr) : (later s e).mx = s.mx := rfl
@[simp] theorem later_rays (s : State) (e : Instr) : (later s e).rays = s.rays := rfl
@[simp] theorem later_interests (s : State) (e : Instr) : (later s e).interests = s.interests := rfl
@[simp] theorem later_recs (s : State) (e : Instr) : (later s e).recs = s.recs := rfl
@[simp] theorem later_tiles (s : State) (e : Instr) : (later s e).tiles = s.tiles := rfl
@[simp] theorem later_tdir (s : State) (e : Instr) : (later s e).tdir = s.tdir := rfl
@[simp] theorem later_closed (s : State) (e : Instr) : (later s e).closed = s.closed := rfl
@[simp] theorem later_kflits (s : State) (e : Instr) : (later s e).kflits = s.kflits := rfl
@[simp] theorem later_msgQ (s : State) (e : Instr) : (later s e).msgQ = s.msgQ := rfl
@[simp] theorem later_surfs (s : State) (e : Instr) : (later s e).surfs = s.surfs := rfl
@[simp] theorem later_gens (s : State) (e : Instr) : (later s e).gens = s.gens := rfl
@[simp] theorem later_sbytes (s : State) (e : Instr) : (later s e).sbytes = s.sbytes := rfl
@[simp] theorem later_bstate (s : State) (e : Instr) : (later s e).bstate = s.bstate := rfl
@[simp] theorem later_tslots (s : State) (e : Instr) : (later s e).tslots = s.tslots := rfl
@[simp] theorem later_tlast (s : State) (e : Instr) : (later s e).tlast = s.tlast := rfl
@[simp] theorem later_restoring (s : State) (e : Instr) : (later s e).restoring = s.restoring := rfl
@[simp] theorem later_bankProg (s : State) (e : Instr) : (later s e).bankProg = s.bankProg := rfl
@[simp] theorem later_raster (s : State) (e : Instr) : (later s e).raster = s.raster := rfl
@[simp] theorem later_ctxs (s : State) (e : Instr) : (later s e).ctxs = s.ctxs := rfl
@[simp] theorem later_queues (s : State) (e : Instr) : (later s e).queues = s.queues := rfl
@[simp] theorem later_qcur (s : State) (e : Instr) : (later s e).qcur = s.qcur := rfl
@[simp] theorem later_killing (s : State) (e : Instr) : (later s e).killing = s.killing := rfl
@[simp] theorem later_hb (s : State) (e : Instr) : (later s e).hb = s.hb := rfl
@[simp] theorem later_fw (s : State) (e : Instr) : (later s e).fw = s.fw := rfl
@[simp] theorem later_time (s : State) (e : Instr) : (later s e).time = s.time := rfl
@[simp] theorem later_issue (s : State) (e : Instr) : (later s e).issue = s.issue := rfl
@[simp] theorem later_rr (s : State) (e : Instr) : (later s e).rr = s.rr := rfl
@[simp] theorem later_fresh (s : State) (e : Instr) : (later s e).fresh = s.fresh := rfl
@[simp] theorem later_nextId (s : State) (e : Instr) : (later s e).nextId = s.nextId := rfl

/-! ### `laterAll` -/

@[simp] theorem laterAll_groups (s : State) (es : List Instr) : (laterAll s es).groups = s.groups := rfl
@[simp] theorem laterAll_teams (s : State) (es : List Instr) : (laterAll s es).teams = s.teams := rfl
@[simp] theorem laterAll_launches (s : State) (es : List Instr) : (laterAll s es).launches = s.launches := rfl
@[simp] theorem laterAll_saved (s : State) (es : List Instr) : (laterAll s es).saved = s.saved := rfl
@[simp] theorem laterAll_l1 (s : State) (es : List Instr) : (laterAll s es).l1 = s.l1 := rfl
@[simp] theorem laterAll_icache (s : State) (es : List Instr) : (laterAll s es).icache = s.icache := rfl
@[simp] theorem laterAll_scratch (s : State) (es : List Instr) : (laterAll s es).scratch = s.scratch := rfl
@[simp] theorem laterAll_outMsgs (s : State) (es : List Instr) : (laterAll s es).outMsgs = s.outMsgs := rfl
@[simp] theorem laterAll_cycles (s : State) (es : List Instr) : (laterAll s es).cycles = s.cycles := rfl
@[simp] theorem laterAll_rounds (s : State) (es : List Instr) : (laterAll s es).rounds = s.rounds := rfl
@[simp] theorem laterAll_cores (s : State) (es : List Instr) : (laterAll s es).cores = s.cores := rfl
@[simp] theorem laterAll_clusters (s : State) (es : List Instr) : (laterAll s es).clusters = s.clusters := rfl
@[simp] theorem laterAll_near (s : State) (es : List Instr) : (laterAll s es).near = s.near := rfl
@[simp] theorem laterAll_far (s : State) (es : List Instr) : (laterAll s es).far = s.far := rfl
@[simp] theorem laterAll_host (s : State) (es : List Instr) : (laterAll s es).host = s.host := rfl
@[simp] theorem laterAll_peers (s : State) (es : List Instr) : (laterAll s es).peers = s.peers := rfl
@[simp] theorem laterAll_slices (s : State) (es : List Instr) : (laterAll s es).slices = s.slices := rfl
@[simp] theorem laterAll_poison (s : State) (es : List Instr) : (laterAll s es).poison = s.poison := rfl
@[simp] theorem laterAll_badCheck (s : State) (es : List Instr) : (laterAll s es).badCheck = s.badCheck := rfl
@[simp] theorem laterAll_tcache (s : State) (es : List Instr) : (laterAll s es).tcache = s.tcache := rfl
@[simp] theorem laterAll_hub0 (s : State) (es : List Instr) : (laterAll s es).hub0 = s.hub0 := rfl
@[simp] theorem laterAll_hub1 (s : State) (es : List Instr) : (laterAll s es).hub1 = s.hub1 := rfl
@[simp] theorem laterAll_hinge (s : State) (es : List Instr) : (laterAll s es).hinge = s.hinge := rfl
@[simp] theorem laterAll_inUse (s : State) (es : List Instr) : (laterAll s es).inUse = s.inUse := rfl
@[simp] theorem laterAll_affinity (s : State) (es : List Instr) : (laterAll s es).affinity = s.affinity := rfl
@[simp] theorem laterAll_heldWb (s : State) (es : List Instr) : (laterAll s es).heldWb = s.heldWb := rfl
@[simp] theorem laterAll_slotFrees (s : State) (es : List Instr) : (laterAll s es).slotFrees = s.slotFrees := rfl
@[simp] theorem laterAll_xfaults (s : State) (es : List Instr) : (laterAll s es).xfaults = s.xfaults := rfl
@[simp] theorem laterAll_invals (s : State) (es : List Instr) : (laterAll s es).invals = s.invals := rfl
@[simp] theorem laterAll_frames (s : State) (es : List Instr) : (laterAll s es).frames = s.frames := rfl
@[simp] theorem laterAll_paused (s : State) (es : List Instr) : (laterAll s es).paused = s.paused := rfl
@[simp] theorem laterAll_beats (s : State) (es : List Instr) : (laterAll s es).beats = s.beats := rfl
@[simp] theorem laterAll_drops (s : State) (es : List Instr) : (laterAll s es).drops = s.drops := rfl
@[simp] theorem laterAll_peerIn (s : State) (es : List Instr) : (laterAll s es).peerIn = s.peerIn := rfl
@[simp] theorem laterAll_collIn (s : State) (es : List Instr) : (laterAll s es).collIn = s.collIn := rfl
@[simp] theorem laterAll_sreqs (s : State) (es : List Instr) : (laterAll s es).sreqs = s.sreqs := rfl
@[simp] theorem laterAll_seqs (s : State) (es : List Instr) : (laterAll s es).seqs = s.seqs := rfl
@[simp] theorem laterAll_marks (s : State) (es : List Instr) : (laterAll s es).marks = s.marks := rfl
@[simp] theorem laterAll_respWin (s : State) (es : List Instr) : (laterAll s es).respWin = s.respWin := rfl
@[simp] theorem laterAll_cells (s : State) (es : List Instr) : (laterAll s es).cells = s.cells := rfl
@[simp] theorem laterAll_fqueues (s : State) (es : List Instr) : (laterAll s es).fqueues = s.fqueues := rfl
@[simp] theorem laterAll_pawls (s : State) (es : List Instr) : (laterAll s es).pawls = s.pawls := rfl
@[simp] theorem laterAll_stations (s : State) (es : List Instr) : (laterAll s es).stations = s.stations := rfl
@[simp] theorem laterAll_links (s : State) (es : List Instr) : (laterAll s es).links = s.links := rfl
@[simp] theorem laterAll_reroute (s : State) (es : List Instr) : (laterAll s es).reroute = s.reroute := rfl
@[simp] theorem laterAll_engCmds (s : State) (es : List Instr) : (laterAll s es).engCmds = s.engCmds := rfl
@[simp] theorem laterAll_mx (s : State) (es : List Instr) : (laterAll s es).mx = s.mx := rfl
@[simp] theorem laterAll_rays (s : State) (es : List Instr) : (laterAll s es).rays = s.rays := rfl
@[simp] theorem laterAll_interests (s : State) (es : List Instr) : (laterAll s es).interests = s.interests := rfl
@[simp] theorem laterAll_recs (s : State) (es : List Instr) : (laterAll s es).recs = s.recs := rfl
@[simp] theorem laterAll_tiles (s : State) (es : List Instr) : (laterAll s es).tiles = s.tiles := rfl
@[simp] theorem laterAll_tdir (s : State) (es : List Instr) : (laterAll s es).tdir = s.tdir := rfl
@[simp] theorem laterAll_closed (s : State) (es : List Instr) : (laterAll s es).closed = s.closed := rfl
@[simp] theorem laterAll_kflits (s : State) (es : List Instr) : (laterAll s es).kflits = s.kflits := rfl
@[simp] theorem laterAll_msgQ (s : State) (es : List Instr) : (laterAll s es).msgQ = s.msgQ := rfl
@[simp] theorem laterAll_surfs (s : State) (es : List Instr) : (laterAll s es).surfs = s.surfs := rfl
@[simp] theorem laterAll_gens (s : State) (es : List Instr) : (laterAll s es).gens = s.gens := rfl
@[simp] theorem laterAll_sbytes (s : State) (es : List Instr) : (laterAll s es).sbytes = s.sbytes := rfl
@[simp] theorem laterAll_bstate (s : State) (es : List Instr) : (laterAll s es).bstate = s.bstate := rfl
@[simp] theorem laterAll_tslots (s : State) (es : List Instr) : (laterAll s es).tslots = s.tslots := rfl
@[simp] theorem laterAll_tlast (s : State) (es : List Instr) : (laterAll s es).tlast = s.tlast := rfl
@[simp] theorem laterAll_restoring (s : State) (es : List Instr) : (laterAll s es).restoring = s.restoring := rfl
@[simp] theorem laterAll_bankProg (s : State) (es : List Instr) : (laterAll s es).bankProg = s.bankProg := rfl
@[simp] theorem laterAll_raster (s : State) (es : List Instr) : (laterAll s es).raster = s.raster := rfl
@[simp] theorem laterAll_ctxs (s : State) (es : List Instr) : (laterAll s es).ctxs = s.ctxs := rfl
@[simp] theorem laterAll_queues (s : State) (es : List Instr) : (laterAll s es).queues = s.queues := rfl
@[simp] theorem laterAll_qcur (s : State) (es : List Instr) : (laterAll s es).qcur = s.qcur := rfl
@[simp] theorem laterAll_killing (s : State) (es : List Instr) : (laterAll s es).killing = s.killing := rfl
@[simp] theorem laterAll_hb (s : State) (es : List Instr) : (laterAll s es).hb = s.hb := rfl
@[simp] theorem laterAll_fw (s : State) (es : List Instr) : (laterAll s es).fw = s.fw := rfl
@[simp] theorem laterAll_time (s : State) (es : List Instr) : (laterAll s es).time = s.time := rfl
@[simp] theorem laterAll_issue (s : State) (es : List Instr) : (laterAll s es).issue = s.issue := rfl
@[simp] theorem laterAll_rr (s : State) (es : List Instr) : (laterAll s es).rr = s.rr := rfl
@[simp] theorem laterAll_fresh (s : State) (es : List Instr) : (laterAll s es).fresh = s.fresh := rfl
@[simp] theorem laterAll_nextId (s : State) (es : List Instr) : (laterAll s es).nextId = s.nextId := rfl

/-! ### `signal` -/

@[simp] theorem signal_groups (s : State) (v : Nat) : (signal s v).groups = s.groups := rfl
@[simp] theorem signal_teams (s : State) (v : Nat) : (signal s v).teams = s.teams := rfl
@[simp] theorem signal_launches (s : State) (v : Nat) : (signal s v).launches = s.launches := rfl
@[simp] theorem signal_saved (s : State) (v : Nat) : (signal s v).saved = s.saved := rfl
@[simp] theorem signal_l1 (s : State) (v : Nat) : (signal s v).l1 = s.l1 := rfl
@[simp] theorem signal_icache (s : State) (v : Nat) : (signal s v).icache = s.icache := rfl
@[simp] theorem signal_scratch (s : State) (v : Nat) : (signal s v).scratch = s.scratch := rfl
@[simp] theorem signal_outMsgs (s : State) (v : Nat) : (signal s v).outMsgs = s.outMsgs := rfl
@[simp] theorem signal_cycles (s : State) (v : Nat) : (signal s v).cycles = s.cycles := rfl
@[simp] theorem signal_rounds (s : State) (v : Nat) : (signal s v).rounds = s.rounds := rfl
@[simp] theorem signal_cores (s : State) (v : Nat) : (signal s v).cores = s.cores := rfl
@[simp] theorem signal_clusters (s : State) (v : Nat) : (signal s v).clusters = s.clusters := rfl
@[simp] theorem signal_near (s : State) (v : Nat) : (signal s v).near = s.near := rfl
@[simp] theorem signal_far (s : State) (v : Nat) : (signal s v).far = s.far := rfl
@[simp] theorem signal_host (s : State) (v : Nat) : (signal s v).host = s.host := rfl
@[simp] theorem signal_peers (s : State) (v : Nat) : (signal s v).peers = s.peers := rfl
@[simp] theorem signal_slices (s : State) (v : Nat) : (signal s v).slices = s.slices := rfl
@[simp] theorem signal_poison (s : State) (v : Nat) : (signal s v).poison = s.poison := rfl
@[simp] theorem signal_badCheck (s : State) (v : Nat) : (signal s v).badCheck = s.badCheck := rfl
@[simp] theorem signal_tcache (s : State) (v : Nat) : (signal s v).tcache = s.tcache := rfl
@[simp] theorem signal_hub0 (s : State) (v : Nat) : (signal s v).hub0 = s.hub0 := rfl
@[simp] theorem signal_hub1 (s : State) (v : Nat) : (signal s v).hub1 = s.hub1 := rfl
@[simp] theorem signal_hinge (s : State) (v : Nat) : (signal s v).hinge = s.hinge := rfl
@[simp] theorem signal_inUse (s : State) (v : Nat) : (signal s v).inUse = s.inUse := rfl
@[simp] theorem signal_affinity (s : State) (v : Nat) : (signal s v).affinity = s.affinity := rfl
@[simp] theorem signal_heldWb (s : State) (v : Nat) : (signal s v).heldWb = s.heldWb := rfl
@[simp] theorem signal_slotFrees (s : State) (v : Nat) : (signal s v).slotFrees = s.slotFrees := rfl
@[simp] theorem signal_xfaults (s : State) (v : Nat) : (signal s v).xfaults = s.xfaults := rfl
@[simp] theorem signal_invals (s : State) (v : Nat) : (signal s v).invals = s.invals := rfl
@[simp] theorem signal_frames (s : State) (v : Nat) : (signal s v).frames = s.frames := rfl
@[simp] theorem signal_paused (s : State) (v : Nat) : (signal s v).paused = s.paused := rfl
@[simp] theorem signal_beats (s : State) (v : Nat) : (signal s v).beats = s.beats := rfl
@[simp] theorem signal_drops (s : State) (v : Nat) : (signal s v).drops = s.drops := rfl
@[simp] theorem signal_peerIn (s : State) (v : Nat) : (signal s v).peerIn = s.peerIn := rfl
@[simp] theorem signal_collIn (s : State) (v : Nat) : (signal s v).collIn = s.collIn := rfl
@[simp] theorem signal_sreqs (s : State) (v : Nat) : (signal s v).sreqs = s.sreqs := rfl
@[simp] theorem signal_seqs (s : State) (v : Nat) : (signal s v).seqs = s.seqs := rfl
@[simp] theorem signal_marks (s : State) (v : Nat) : (signal s v).marks = s.marks := rfl
@[simp] theorem signal_respWin (s : State) (v : Nat) : (signal s v).respWin = s.respWin := rfl
@[simp] theorem signal_cells (s : State) (v : Nat) : (signal s v).cells = s.cells := rfl
@[simp] theorem signal_fqueues (s : State) (v : Nat) : (signal s v).fqueues = s.fqueues := rfl
@[simp] theorem signal_pawls (s : State) (v : Nat) : (signal s v).pawls = s.pawls := rfl
@[simp] theorem signal_stations (s : State) (v : Nat) : (signal s v).stations = s.stations := rfl
@[simp] theorem signal_links (s : State) (v : Nat) : (signal s v).links = s.links := rfl
@[simp] theorem signal_reroute (s : State) (v : Nat) : (signal s v).reroute = s.reroute := rfl
@[simp] theorem signal_engCmds (s : State) (v : Nat) : (signal s v).engCmds = s.engCmds := rfl
@[simp] theorem signal_mx (s : State) (v : Nat) : (signal s v).mx = s.mx := rfl
@[simp] theorem signal_rays (s : State) (v : Nat) : (signal s v).rays = s.rays := rfl
@[simp] theorem signal_interests (s : State) (v : Nat) : (signal s v).interests = s.interests := rfl
@[simp] theorem signal_recs (s : State) (v : Nat) : (signal s v).recs = s.recs := rfl
@[simp] theorem signal_tiles (s : State) (v : Nat) : (signal s v).tiles = s.tiles := rfl
@[simp] theorem signal_tdir (s : State) (v : Nat) : (signal s v).tdir = s.tdir := rfl
@[simp] theorem signal_closed (s : State) (v : Nat) : (signal s v).closed = s.closed := rfl
@[simp] theorem signal_kflits (s : State) (v : Nat) : (signal s v).kflits = s.kflits := rfl
@[simp] theorem signal_msgQ (s : State) (v : Nat) : (signal s v).msgQ = s.msgQ := rfl
@[simp] theorem signal_surfs (s : State) (v : Nat) : (signal s v).surfs = s.surfs := rfl
@[simp] theorem signal_gens (s : State) (v : Nat) : (signal s v).gens = s.gens := rfl
@[simp] theorem signal_sbytes (s : State) (v : Nat) : (signal s v).sbytes = s.sbytes := rfl
@[simp] theorem signal_bstate (s : State) (v : Nat) : (signal s v).bstate = s.bstate := rfl
@[simp] theorem signal_tslots (s : State) (v : Nat) : (signal s v).tslots = s.tslots := rfl
@[simp] theorem signal_tlast (s : State) (v : Nat) : (signal s v).tlast = s.tlast := rfl
@[simp] theorem signal_restoring (s : State) (v : Nat) : (signal s v).restoring = s.restoring := rfl
@[simp] theorem signal_bankProg (s : State) (v : Nat) : (signal s v).bankProg = s.bankProg := rfl
@[simp] theorem signal_raster (s : State) (v : Nat) : (signal s v).raster = s.raster := rfl
@[simp] theorem signal_ctxs (s : State) (v : Nat) : (signal s v).ctxs = s.ctxs := rfl
@[simp] theorem signal_queues (s : State) (v : Nat) : (signal s v).queues = s.queues := rfl
@[simp] theorem signal_qcur (s : State) (v : Nat) : (signal s v).qcur = s.qcur := rfl
@[simp] theorem signal_killing (s : State) (v : Nat) : (signal s v).killing = s.killing := rfl
@[simp] theorem signal_fw (s : State) (v : Nat) : (signal s v).fw = s.fw := rfl
@[simp] theorem signal_time (s : State) (v : Nat) : (signal s v).time = s.time := rfl
@[simp] theorem signal_issue (s : State) (v : Nat) : (signal s v).issue = s.issue := rfl
@[simp] theorem signal_agenda (s : State) (v : Nat) : (signal s v).agenda = s.agenda := rfl
@[simp] theorem signal_rr (s : State) (v : Nat) : (signal s v).rr = s.rr := rfl
@[simp] theorem signal_fresh (s : State) (v : Nat) : (signal s v).fresh = s.fresh := rfl
@[simp] theorem signal_nextId (s : State) (v : Nat) : (signal s v).nextId = s.nextId := rfl

/-! ### `setCtx` -/

@[simp] theorem setCtx_groups (s : State) (c : Nat) (f : Ctx → Ctx) : (setCtx s c f).groups = s.groups := rfl
@[simp] theorem setCtx_teams (s : State) (c : Nat) (f : Ctx → Ctx) : (setCtx s c f).teams = s.teams := rfl
@[simp] theorem setCtx_launches (s : State) (c : Nat) (f : Ctx → Ctx) : (setCtx s c f).launches = s.launches := rfl
@[simp] theorem setCtx_saved (s : State) (c : Nat) (f : Ctx → Ctx) : (setCtx s c f).saved = s.saved := rfl
@[simp] theorem setCtx_l1 (s : State) (c : Nat) (f : Ctx → Ctx) : (setCtx s c f).l1 = s.l1 := rfl
@[simp] theorem setCtx_icache (s : State) (c : Nat) (f : Ctx → Ctx) : (setCtx s c f).icache = s.icache := rfl
@[simp] theorem setCtx_scratch (s : State) (c : Nat) (f : Ctx → Ctx) : (setCtx s c f).scratch = s.scratch := rfl
@[simp] theorem setCtx_outMsgs (s : State) (c : Nat) (f : Ctx → Ctx) : (setCtx s c f).outMsgs = s.outMsgs := rfl
@[simp] theorem setCtx_cycles (s : State) (c : Nat) (f : Ctx → Ctx) : (setCtx s c f).cycles = s.cycles := rfl
@[simp] theorem setCtx_rounds (s : State) (c : Nat) (f : Ctx → Ctx) : (setCtx s c f).rounds = s.rounds := rfl
@[simp] theorem setCtx_cores (s : State) (c : Nat) (f : Ctx → Ctx) : (setCtx s c f).cores = s.cores := rfl
@[simp] theorem setCtx_clusters (s : State) (c : Nat) (f : Ctx → Ctx) : (setCtx s c f).clusters = s.clusters := rfl
@[simp] theorem setCtx_near (s : State) (c : Nat) (f : Ctx → Ctx) : (setCtx s c f).near = s.near := rfl
@[simp] theorem setCtx_far (s : State) (c : Nat) (f : Ctx → Ctx) : (setCtx s c f).far = s.far := rfl
@[simp] theorem setCtx_host (s : State) (c : Nat) (f : Ctx → Ctx) : (setCtx s c f).host = s.host := rfl
@[simp] theorem setCtx_peers (s : State) (c : Nat) (f : Ctx → Ctx) : (setCtx s c f).peers = s.peers := rfl
@[simp] theorem setCtx_slices (s : State) (c : Nat) (f : Ctx → Ctx) : (setCtx s c f).slices = s.slices := rfl
@[simp] theorem setCtx_poison (s : State) (c : Nat) (f : Ctx → Ctx) : (setCtx s c f).poison = s.poison := rfl
@[simp] theorem setCtx_badCheck (s : State) (c : Nat) (f : Ctx → Ctx) : (setCtx s c f).badCheck = s.badCheck := rfl
@[simp] theorem setCtx_tcache (s : State) (c : Nat) (f : Ctx → Ctx) : (setCtx s c f).tcache = s.tcache := rfl
@[simp] theorem setCtx_hub0 (s : State) (c : Nat) (f : Ctx → Ctx) : (setCtx s c f).hub0 = s.hub0 := rfl
@[simp] theorem setCtx_hub1 (s : State) (c : Nat) (f : Ctx → Ctx) : (setCtx s c f).hub1 = s.hub1 := rfl
@[simp] theorem setCtx_hinge (s : State) (c : Nat) (f : Ctx → Ctx) : (setCtx s c f).hinge = s.hinge := rfl
@[simp] theorem setCtx_inUse (s : State) (c : Nat) (f : Ctx → Ctx) : (setCtx s c f).inUse = s.inUse := rfl
@[simp] theorem setCtx_affinity (s : State) (c : Nat) (f : Ctx → Ctx) : (setCtx s c f).affinity = s.affinity := rfl
@[simp] theorem setCtx_heldWb (s : State) (c : Nat) (f : Ctx → Ctx) : (setCtx s c f).heldWb = s.heldWb := rfl
@[simp] theorem setCtx_slotFrees (s : State) (c : Nat) (f : Ctx → Ctx) : (setCtx s c f).slotFrees = s.slotFrees := rfl
@[simp] theorem setCtx_xfaults (s : State) (c : Nat) (f : Ctx → Ctx) : (setCtx s c f).xfaults = s.xfaults := rfl
@[simp] theorem setCtx_invals (s : State) (c : Nat) (f : Ctx → Ctx) : (setCtx s c f).invals = s.invals := rfl
@[simp] theorem setCtx_frames (s : State) (c : Nat) (f : Ctx → Ctx) : (setCtx s c f).frames = s.frames := rfl
@[simp] theorem setCtx_paused (s : State) (c : Nat) (f : Ctx → Ctx) : (setCtx s c f).paused = s.paused := rfl
@[simp] theorem setCtx_beats (s : State) (c : Nat) (f : Ctx → Ctx) : (setCtx s c f).beats = s.beats := rfl
@[simp] theorem setCtx_drops (s : State) (c : Nat) (f : Ctx → Ctx) : (setCtx s c f).drops = s.drops := rfl
@[simp] theorem setCtx_peerIn (s : State) (c : Nat) (f : Ctx → Ctx) : (setCtx s c f).peerIn = s.peerIn := rfl
@[simp] theorem setCtx_collIn (s : State) (c : Nat) (f : Ctx → Ctx) : (setCtx s c f).collIn = s.collIn := rfl
@[simp] theorem setCtx_sreqs (s : State) (c : Nat) (f : Ctx → Ctx) : (setCtx s c f).sreqs = s.sreqs := rfl
@[simp] theorem setCtx_seqs (s : State) (c : Nat) (f : Ctx → Ctx) : (setCtx s c f).seqs = s.seqs := rfl
@[simp] theorem setCtx_marks (s : State) (c : Nat) (f : Ctx → Ctx) : (setCtx s c f).marks = s.marks := rfl
@[simp] theorem setCtx_respWin (s : State) (c : Nat) (f : Ctx → Ctx) : (setCtx s c f).respWin = s.respWin := rfl
@[simp] theorem setCtx_cells (s : State) (c : Nat) (f : Ctx → Ctx) : (setCtx s c f).cells = s.cells := rfl
@[simp] theorem setCtx_fqueues (s : State) (c : Nat) (f : Ctx → Ctx) : (setCtx s c f).fqueues = s.fqueues := rfl
@[simp] theorem setCtx_pawls (s : State) (c : Nat) (f : Ctx → Ctx) : (setCtx s c f).pawls = s.pawls := rfl
@[simp] theorem setCtx_stations (s : State) (c : Nat) (f : Ctx → Ctx) : (setCtx s c f).stations = s.stations := rfl
@[simp] theorem setCtx_links (s : State) (c : Nat) (f : Ctx → Ctx) : (setCtx s c f).links = s.links := rfl
@[simp] theorem setCtx_reroute (s : State) (c : Nat) (f : Ctx → Ctx) : (setCtx s c f).reroute = s.reroute := rfl
@[simp] theorem setCtx_engCmds (s : State) (c : Nat) (f : Ctx → Ctx) : (setCtx s c f).engCmds = s.engCmds := rfl
@[simp] theorem setCtx_mx (s : State) (c : Nat) (f : Ctx → Ctx) : (setCtx s c f).mx = s.mx := rfl
@[simp] theorem setCtx_rays (s : State) (c : Nat) (f : Ctx → Ctx) : (setCtx s c f).rays = s.rays := rfl
@[simp] theorem setCtx_interests (s : State) (c : Nat) (f : Ctx → Ctx) : (setCtx s c f).interests = s.interests := rfl
@[simp] theorem setCtx_recs (s : State) (c : Nat) (f : Ctx → Ctx) : (setCtx s c f).recs = s.recs := rfl
@[simp] theorem setCtx_tiles (s : State) (c : Nat) (f : Ctx → Ctx) : (setCtx s c f).tiles = s.tiles := rfl
@[simp] theorem setCtx_tdir (s : State) (c : Nat) (f : Ctx → Ctx) : (setCtx s c f).tdir = s.tdir := rfl
@[simp] theorem setCtx_closed (s : State) (c : Nat) (f : Ctx → Ctx) : (setCtx s c f).closed = s.closed := rfl
@[simp] theorem setCtx_kflits (s : State) (c : Nat) (f : Ctx → Ctx) : (setCtx s c f).kflits = s.kflits := rfl
@[simp] theorem setCtx_msgQ (s : State) (c : Nat) (f : Ctx → Ctx) : (setCtx s c f).msgQ = s.msgQ := rfl
@[simp] theorem setCtx_surfs (s : State) (c : Nat) (f : Ctx → Ctx) : (setCtx s c f).surfs = s.surfs := rfl
@[simp] theorem setCtx_gens (s : State) (c : Nat) (f : Ctx → Ctx) : (setCtx s c f).gens = s.gens := rfl
@[simp] theorem setCtx_sbytes (s : State) (c : Nat) (f : Ctx → Ctx) : (setCtx s c f).sbytes = s.sbytes := rfl
@[simp] theorem setCtx_bstate (s : State) (c : Nat) (f : Ctx → Ctx) : (setCtx s c f).bstate = s.bstate := rfl
@[simp] theorem setCtx_tslots (s : State) (c : Nat) (f : Ctx → Ctx) : (setCtx s c f).tslots = s.tslots := rfl
@[simp] theorem setCtx_tlast (s : State) (c : Nat) (f : Ctx → Ctx) : (setCtx s c f).tlast = s.tlast := rfl
@[simp] theorem setCtx_restoring (s : State) (c : Nat) (f : Ctx → Ctx) : (setCtx s c f).restoring = s.restoring := rfl
@[simp] theorem setCtx_bankProg (s : State) (c : Nat) (f : Ctx → Ctx) : (setCtx s c f).bankProg = s.bankProg := rfl
@[simp] theorem setCtx_raster (s : State) (c : Nat) (f : Ctx → Ctx) : (setCtx s c f).raster = s.raster := rfl
@[simp] theorem setCtx_queues (s : State) (c : Nat) (f : Ctx → Ctx) : (setCtx s c f).queues = s.queues := rfl
@[simp] theorem setCtx_qcur (s : State) (c : Nat) (f : Ctx → Ctx) : (setCtx s c f).qcur = s.qcur := rfl
@[simp] theorem setCtx_killing (s : State) (c : Nat) (f : Ctx → Ctx) : (setCtx s c f).killing = s.killing := rfl
@[simp] theorem setCtx_hb (s : State) (c : Nat) (f : Ctx → Ctx) : (setCtx s c f).hb = s.hb := rfl
@[simp] theorem setCtx_fw (s : State) (c : Nat) (f : Ctx → Ctx) : (setCtx s c f).fw = s.fw := rfl
@[simp] theorem setCtx_time (s : State) (c : Nat) (f : Ctx → Ctx) : (setCtx s c f).time = s.time := rfl
@[simp] theorem setCtx_issue (s : State) (c : Nat) (f : Ctx → Ctx) : (setCtx s c f).issue = s.issue := rfl
@[simp] theorem setCtx_agenda (s : State) (c : Nat) (f : Ctx → Ctx) : (setCtx s c f).agenda = s.agenda := rfl
@[simp] theorem setCtx_rr (s : State) (c : Nat) (f : Ctx → Ctx) : (setCtx s c f).rr = s.rr := rfl
@[simp] theorem setCtx_fresh (s : State) (c : Nat) (f : Ctx → Ctx) : (setCtx s c f).fresh = s.fresh := rfl
@[simp] theorem setCtx_nextId (s : State) (c : Nat) (f : Ctx → Ctx) : (setCtx s c f).nextId = s.nextId := rfl

/-! ### `clearXfaults` -/

@[simp] theorem clearXfaults_groups (s : State) (e k : Nat) : (clearXfaults s e k).groups = s.groups := rfl
@[simp] theorem clearXfaults_teams (s : State) (e k : Nat) : (clearXfaults s e k).teams = s.teams := rfl
@[simp] theorem clearXfaults_launches (s : State) (e k : Nat) : (clearXfaults s e k).launches = s.launches := rfl
@[simp] theorem clearXfaults_saved (s : State) (e k : Nat) : (clearXfaults s e k).saved = s.saved := rfl
@[simp] theorem clearXfaults_l1 (s : State) (e k : Nat) : (clearXfaults s e k).l1 = s.l1 := rfl
@[simp] theorem clearXfaults_icache (s : State) (e k : Nat) : (clearXfaults s e k).icache = s.icache := rfl
@[simp] theorem clearXfaults_scratch (s : State) (e k : Nat) : (clearXfaults s e k).scratch = s.scratch := rfl
@[simp] theorem clearXfaults_outMsgs (s : State) (e k : Nat) : (clearXfaults s e k).outMsgs = s.outMsgs := rfl
@[simp] theorem clearXfaults_cycles (s : State) (e k : Nat) : (clearXfaults s e k).cycles = s.cycles := rfl
@[simp] theorem clearXfaults_rounds (s : State) (e k : Nat) : (clearXfaults s e k).rounds = s.rounds := rfl
@[simp] theorem clearXfaults_cores (s : State) (e k : Nat) : (clearXfaults s e k).cores = s.cores := rfl
@[simp] theorem clearXfaults_clusters (s : State) (e k : Nat) : (clearXfaults s e k).clusters = s.clusters := rfl
@[simp] theorem clearXfaults_near (s : State) (e k : Nat) : (clearXfaults s e k).near = s.near := rfl
@[simp] theorem clearXfaults_far (s : State) (e k : Nat) : (clearXfaults s e k).far = s.far := rfl
@[simp] theorem clearXfaults_host (s : State) (e k : Nat) : (clearXfaults s e k).host = s.host := rfl
@[simp] theorem clearXfaults_peers (s : State) (e k : Nat) : (clearXfaults s e k).peers = s.peers := rfl
@[simp] theorem clearXfaults_slices (s : State) (e k : Nat) : (clearXfaults s e k).slices = s.slices := rfl
@[simp] theorem clearXfaults_poison (s : State) (e k : Nat) : (clearXfaults s e k).poison = s.poison := rfl
@[simp] theorem clearXfaults_badCheck (s : State) (e k : Nat) : (clearXfaults s e k).badCheck = s.badCheck := rfl
@[simp] theorem clearXfaults_tcache (s : State) (e k : Nat) : (clearXfaults s e k).tcache = s.tcache := rfl
@[simp] theorem clearXfaults_hub0 (s : State) (e k : Nat) : (clearXfaults s e k).hub0 = s.hub0 := rfl
@[simp] theorem clearXfaults_hub1 (s : State) (e k : Nat) : (clearXfaults s e k).hub1 = s.hub1 := rfl
@[simp] theorem clearXfaults_hinge (s : State) (e k : Nat) : (clearXfaults s e k).hinge = s.hinge := rfl
@[simp] theorem clearXfaults_inUse (s : State) (e k : Nat) : (clearXfaults s e k).inUse = s.inUse := rfl
@[simp] theorem clearXfaults_affinity (s : State) (e k : Nat) : (clearXfaults s e k).affinity = s.affinity := rfl
@[simp] theorem clearXfaults_heldWb (s : State) (e k : Nat) : (clearXfaults s e k).heldWb = s.heldWb := rfl
@[simp] theorem clearXfaults_slotFrees (s : State) (e k : Nat) : (clearXfaults s e k).slotFrees = s.slotFrees := rfl
@[simp] theorem clearXfaults_invals (s : State) (e k : Nat) : (clearXfaults s e k).invals = s.invals := rfl
@[simp] theorem clearXfaults_frames (s : State) (e k : Nat) : (clearXfaults s e k).frames = s.frames := rfl
@[simp] theorem clearXfaults_paused (s : State) (e k : Nat) : (clearXfaults s e k).paused = s.paused := rfl
@[simp] theorem clearXfaults_beats (s : State) (e k : Nat) : (clearXfaults s e k).beats = s.beats := rfl
@[simp] theorem clearXfaults_drops (s : State) (e k : Nat) : (clearXfaults s e k).drops = s.drops := rfl
@[simp] theorem clearXfaults_peerIn (s : State) (e k : Nat) : (clearXfaults s e k).peerIn = s.peerIn := rfl
@[simp] theorem clearXfaults_collIn (s : State) (e k : Nat) : (clearXfaults s e k).collIn = s.collIn := rfl
@[simp] theorem clearXfaults_sreqs (s : State) (e k : Nat) : (clearXfaults s e k).sreqs = s.sreqs := rfl
@[simp] theorem clearXfaults_seqs (s : State) (e k : Nat) : (clearXfaults s e k).seqs = s.seqs := rfl
@[simp] theorem clearXfaults_marks (s : State) (e k : Nat) : (clearXfaults s e k).marks = s.marks := rfl
@[simp] theorem clearXfaults_respWin (s : State) (e k : Nat) : (clearXfaults s e k).respWin = s.respWin := rfl
@[simp] theorem clearXfaults_cells (s : State) (e k : Nat) : (clearXfaults s e k).cells = s.cells := rfl
@[simp] theorem clearXfaults_fqueues (s : State) (e k : Nat) : (clearXfaults s e k).fqueues = s.fqueues := rfl
@[simp] theorem clearXfaults_pawls (s : State) (e k : Nat) : (clearXfaults s e k).pawls = s.pawls := rfl
@[simp] theorem clearXfaults_stations (s : State) (e k : Nat) : (clearXfaults s e k).stations = s.stations := rfl
@[simp] theorem clearXfaults_links (s : State) (e k : Nat) : (clearXfaults s e k).links = s.links := rfl
@[simp] theorem clearXfaults_reroute (s : State) (e k : Nat) : (clearXfaults s e k).reroute = s.reroute := rfl
@[simp] theorem clearXfaults_engCmds (s : State) (e k : Nat) : (clearXfaults s e k).engCmds = s.engCmds := rfl
@[simp] theorem clearXfaults_mx (s : State) (e k : Nat) : (clearXfaults s e k).mx = s.mx := rfl
@[simp] theorem clearXfaults_rays (s : State) (e k : Nat) : (clearXfaults s e k).rays = s.rays := rfl
@[simp] theorem clearXfaults_interests (s : State) (e k : Nat) : (clearXfaults s e k).interests = s.interests := rfl
@[simp] theorem clearXfaults_recs (s : State) (e k : Nat) : (clearXfaults s e k).recs = s.recs := rfl
@[simp] theorem clearXfaults_tiles (s : State) (e k : Nat) : (clearXfaults s e k).tiles = s.tiles := rfl
@[simp] theorem clearXfaults_tdir (s : State) (e k : Nat) : (clearXfaults s e k).tdir = s.tdir := rfl
@[simp] theorem clearXfaults_closed (s : State) (e k : Nat) : (clearXfaults s e k).closed = s.closed := rfl
@[simp] theorem clearXfaults_kflits (s : State) (e k : Nat) : (clearXfaults s e k).kflits = s.kflits := rfl
@[simp] theorem clearXfaults_msgQ (s : State) (e k : Nat) : (clearXfaults s e k).msgQ = s.msgQ := rfl
@[simp] theorem clearXfaults_surfs (s : State) (e k : Nat) : (clearXfaults s e k).surfs = s.surfs := rfl
@[simp] theorem clearXfaults_gens (s : State) (e k : Nat) : (clearXfaults s e k).gens = s.gens := rfl
@[simp] theorem clearXfaults_sbytes (s : State) (e k : Nat) : (clearXfaults s e k).sbytes = s.sbytes := rfl
@[simp] theorem clearXfaults_bstate (s : State) (e k : Nat) : (clearXfaults s e k).bstate = s.bstate := rfl
@[simp] theorem clearXfaults_tslots (s : State) (e k : Nat) : (clearXfaults s e k).tslots = s.tslots := rfl
@[simp] theorem clearXfaults_tlast (s : State) (e k : Nat) : (clearXfaults s e k).tlast = s.tlast := rfl
@[simp] theorem clearXfaults_restoring (s : State) (e k : Nat) : (clearXfaults s e k).restoring = s.restoring := rfl
@[simp] theorem clearXfaults_bankProg (s : State) (e k : Nat) : (clearXfaults s e k).bankProg = s.bankProg := rfl
@[simp] theorem clearXfaults_raster (s : State) (e k : Nat) : (clearXfaults s e k).raster = s.raster := rfl
@[simp] theorem clearXfaults_ctxs (s : State) (e k : Nat) : (clearXfaults s e k).ctxs = s.ctxs := rfl
@[simp] theorem clearXfaults_queues (s : State) (e k : Nat) : (clearXfaults s e k).queues = s.queues := rfl
@[simp] theorem clearXfaults_qcur (s : State) (e k : Nat) : (clearXfaults s e k).qcur = s.qcur := rfl
@[simp] theorem clearXfaults_killing (s : State) (e k : Nat) : (clearXfaults s e k).killing = s.killing := rfl
@[simp] theorem clearXfaults_hb (s : State) (e k : Nat) : (clearXfaults s e k).hb = s.hb := rfl
@[simp] theorem clearXfaults_fw (s : State) (e k : Nat) : (clearXfaults s e k).fw = s.fw := rfl
@[simp] theorem clearXfaults_time (s : State) (e k : Nat) : (clearXfaults s e k).time = s.time := rfl
@[simp] theorem clearXfaults_issue (s : State) (e k : Nat) : (clearXfaults s e k).issue = s.issue := rfl
@[simp] theorem clearXfaults_agenda (s : State) (e k : Nat) : (clearXfaults s e k).agenda = s.agenda := rfl
@[simp] theorem clearXfaults_rr (s : State) (e k : Nat) : (clearXfaults s e k).rr = s.rr := rfl
@[simp] theorem clearXfaults_fresh (s : State) (e k : Nat) : (clearXfaults s e k).fresh = s.fresh := rfl
@[simp] theorem clearXfaults_nextId (s : State) (e k : Nat) : (clearXfaults s e k).nextId = s.nextId := rfl

/-! ### `newId` -/

@[simp] theorem newId_groups (s : State) : ((newId s).1).groups = s.groups := rfl
@[simp] theorem newId_teams (s : State) : ((newId s).1).teams = s.teams := rfl
@[simp] theorem newId_launches (s : State) : ((newId s).1).launches = s.launches := rfl
@[simp] theorem newId_saved (s : State) : ((newId s).1).saved = s.saved := rfl
@[simp] theorem newId_l1 (s : State) : ((newId s).1).l1 = s.l1 := rfl
@[simp] theorem newId_icache (s : State) : ((newId s).1).icache = s.icache := rfl
@[simp] theorem newId_scratch (s : State) : ((newId s).1).scratch = s.scratch := rfl
@[simp] theorem newId_outMsgs (s : State) : ((newId s).1).outMsgs = s.outMsgs := rfl
@[simp] theorem newId_cycles (s : State) : ((newId s).1).cycles = s.cycles := rfl
@[simp] theorem newId_rounds (s : State) : ((newId s).1).rounds = s.rounds := rfl
@[simp] theorem newId_cores (s : State) : ((newId s).1).cores = s.cores := rfl
@[simp] theorem newId_clusters (s : State) : ((newId s).1).clusters = s.clusters := rfl
@[simp] theorem newId_near (s : State) : ((newId s).1).near = s.near := rfl
@[simp] theorem newId_far (s : State) : ((newId s).1).far = s.far := rfl
@[simp] theorem newId_host (s : State) : ((newId s).1).host = s.host := rfl
@[simp] theorem newId_peers (s : State) : ((newId s).1).peers = s.peers := rfl
@[simp] theorem newId_slices (s : State) : ((newId s).1).slices = s.slices := rfl
@[simp] theorem newId_poison (s : State) : ((newId s).1).poison = s.poison := rfl
@[simp] theorem newId_badCheck (s : State) : ((newId s).1).badCheck = s.badCheck := rfl
@[simp] theorem newId_tcache (s : State) : ((newId s).1).tcache = s.tcache := rfl
@[simp] theorem newId_hub0 (s : State) : ((newId s).1).hub0 = s.hub0 := rfl
@[simp] theorem newId_hub1 (s : State) : ((newId s).1).hub1 = s.hub1 := rfl
@[simp] theorem newId_hinge (s : State) : ((newId s).1).hinge = s.hinge := rfl
@[simp] theorem newId_inUse (s : State) : ((newId s).1).inUse = s.inUse := rfl
@[simp] theorem newId_affinity (s : State) : ((newId s).1).affinity = s.affinity := rfl
@[simp] theorem newId_heldWb (s : State) : ((newId s).1).heldWb = s.heldWb := rfl
@[simp] theorem newId_slotFrees (s : State) : ((newId s).1).slotFrees = s.slotFrees := rfl
@[simp] theorem newId_xfaults (s : State) : ((newId s).1).xfaults = s.xfaults := rfl
@[simp] theorem newId_invals (s : State) : ((newId s).1).invals = s.invals := rfl
@[simp] theorem newId_frames (s : State) : ((newId s).1).frames = s.frames := rfl
@[simp] theorem newId_paused (s : State) : ((newId s).1).paused = s.paused := rfl
@[simp] theorem newId_beats (s : State) : ((newId s).1).beats = s.beats := rfl
@[simp] theorem newId_drops (s : State) : ((newId s).1).drops = s.drops := rfl
@[simp] theorem newId_peerIn (s : State) : ((newId s).1).peerIn = s.peerIn := rfl
@[simp] theorem newId_collIn (s : State) : ((newId s).1).collIn = s.collIn := rfl
@[simp] theorem newId_sreqs (s : State) : ((newId s).1).sreqs = s.sreqs := rfl
@[simp] theorem newId_seqs (s : State) : ((newId s).1).seqs = s.seqs := rfl
@[simp] theorem newId_marks (s : State) : ((newId s).1).marks = s.marks := rfl
@[simp] theorem newId_respWin (s : State) : ((newId s).1).respWin = s.respWin := rfl
@[simp] theorem newId_cells (s : State) : ((newId s).1).cells = s.cells := rfl
@[simp] theorem newId_fqueues (s : State) : ((newId s).1).fqueues = s.fqueues := rfl
@[simp] theorem newId_pawls (s : State) : ((newId s).1).pawls = s.pawls := rfl
@[simp] theorem newId_stations (s : State) : ((newId s).1).stations = s.stations := rfl
@[simp] theorem newId_links (s : State) : ((newId s).1).links = s.links := rfl
@[simp] theorem newId_reroute (s : State) : ((newId s).1).reroute = s.reroute := rfl
@[simp] theorem newId_engCmds (s : State) : ((newId s).1).engCmds = s.engCmds := rfl
@[simp] theorem newId_mx (s : State) : ((newId s).1).mx = s.mx := rfl
@[simp] theorem newId_rays (s : State) : ((newId s).1).rays = s.rays := rfl
@[simp] theorem newId_interests (s : State) : ((newId s).1).interests = s.interests := rfl
@[simp] theorem newId_recs (s : State) : ((newId s).1).recs = s.recs := rfl
@[simp] theorem newId_tiles (s : State) : ((newId s).1).tiles = s.tiles := rfl
@[simp] theorem newId_tdir (s : State) : ((newId s).1).tdir = s.tdir := rfl
@[simp] theorem newId_closed (s : State) : ((newId s).1).closed = s.closed := rfl
@[simp] theorem newId_kflits (s : State) : ((newId s).1).kflits = s.kflits := rfl
@[simp] theorem newId_msgQ (s : State) : ((newId s).1).msgQ = s.msgQ := rfl
@[simp] theorem newId_surfs (s : State) : ((newId s).1).surfs = s.surfs := rfl
@[simp] theorem newId_gens (s : State) : ((newId s).1).gens = s.gens := rfl
@[simp] theorem newId_sbytes (s : State) : ((newId s).1).sbytes = s.sbytes := rfl
@[simp] theorem newId_bstate (s : State) : ((newId s).1).bstate = s.bstate := rfl
@[simp] theorem newId_tslots (s : State) : ((newId s).1).tslots = s.tslots := rfl
@[simp] theorem newId_tlast (s : State) : ((newId s).1).tlast = s.tlast := rfl
@[simp] theorem newId_restoring (s : State) : ((newId s).1).restoring = s.restoring := rfl
@[simp] theorem newId_bankProg (s : State) : ((newId s).1).bankProg = s.bankProg := rfl
@[simp] theorem newId_raster (s : State) : ((newId s).1).raster = s.raster := rfl
@[simp] theorem newId_ctxs (s : State) : ((newId s).1).ctxs = s.ctxs := rfl
@[simp] theorem newId_queues (s : State) : ((newId s).1).queues = s.queues := rfl
@[simp] theorem newId_qcur (s : State) : ((newId s).1).qcur = s.qcur := rfl
@[simp] theorem newId_killing (s : State) : ((newId s).1).killing = s.killing := rfl
@[simp] theorem newId_hb (s : State) : ((newId s).1).hb = s.hb := rfl
@[simp] theorem newId_fw (s : State) : ((newId s).1).fw = s.fw := rfl
@[simp] theorem newId_time (s : State) : ((newId s).1).time = s.time := rfl
@[simp] theorem newId_issue (s : State) : ((newId s).1).issue = s.issue := rfl
@[simp] theorem newId_agenda (s : State) : ((newId s).1).agenda = s.agenda := rfl
@[simp] theorem newId_rr (s : State) : ((newId s).1).rr = s.rr := rfl
@[simp] theorem newId_fresh (s : State) : ((newId s).1).fresh = s.fresh := rfl

/-! ### `retire` -/

@[simp] theorem retire_teams (s : State) (c : WCtx) : (retire s c).teams = s.teams := rfl
@[simp] theorem retire_launches (s : State) (c : WCtx) : (retire s c).launches = s.launches := rfl
@[simp] theorem retire_saved (s : State) (c : WCtx) : (retire s c).saved = s.saved := rfl
@[simp] theorem retire_l1 (s : State) (c : WCtx) : (retire s c).l1 = s.l1 := rfl
@[simp] theorem retire_icache (s : State) (c : WCtx) : (retire s c).icache = s.icache := rfl
@[simp] theorem retire_scratch (s : State) (c : WCtx) : (retire s c).scratch = s.scratch := rfl
@[simp] theorem retire_outMsgs (s : State) (c : WCtx) : (retire s c).outMsgs = s.outMsgs := rfl
@[simp] theorem retire_cycles (s : State) (c : WCtx) : (retire s c).cycles = s.cycles := rfl
@[simp] theorem retire_rounds (s : State) (c : WCtx) : (retire s c).rounds = s.rounds := rfl
@[simp] theorem retire_cores (s : State) (c : WCtx) : (retire s c).cores = s.cores := rfl
@[simp] theorem retire_clusters (s : State) (c : WCtx) : (retire s c).clusters = s.clusters := rfl
@[simp] theorem retire_near (s : State) (c : WCtx) : (retire s c).near = s.near := rfl
@[simp] theorem retire_far (s : State) (c : WCtx) : (retire s c).far = s.far := rfl
@[simp] theorem retire_host (s : State) (c : WCtx) : (retire s c).host = s.host := rfl
@[simp] theorem retire_peers (s : State) (c : WCtx) : (retire s c).peers = s.peers := rfl
@[simp] theorem retire_slices (s : State) (c : WCtx) : (retire s c).slices = s.slices := rfl
@[simp] theorem retire_poison (s : State) (c : WCtx) : (retire s c).poison = s.poison := rfl
@[simp] theorem retire_badCheck (s : State) (c : WCtx) : (retire s c).badCheck = s.badCheck := rfl
@[simp] theorem retire_tcache (s : State) (c : WCtx) : (retire s c).tcache = s.tcache := rfl
@[simp] theorem retire_hub0 (s : State) (c : WCtx) : (retire s c).hub0 = s.hub0 := rfl
@[simp] theorem retire_hub1 (s : State) (c : WCtx) : (retire s c).hub1 = s.hub1 := rfl
@[simp] theorem retire_hinge (s : State) (c : WCtx) : (retire s c).hinge = s.hinge := rfl
@[simp] theorem retire_inUse (s : State) (c : WCtx) : (retire s c).inUse = s.inUse := rfl
@[simp] theorem retire_affinity (s : State) (c : WCtx) : (retire s c).affinity = s.affinity := rfl
@[simp] theorem retire_heldWb (s : State) (c : WCtx) : (retire s c).heldWb = s.heldWb := rfl
@[simp] theorem retire_slotFrees (s : State) (c : WCtx) : (retire s c).slotFrees = s.slotFrees := rfl
@[simp] theorem retire_invals (s : State) (c : WCtx) : (retire s c).invals = s.invals := rfl
@[simp] theorem retire_frames (s : State) (c : WCtx) : (retire s c).frames = s.frames := rfl
@[simp] theorem retire_paused (s : State) (c : WCtx) : (retire s c).paused = s.paused := rfl
@[simp] theorem retire_beats (s : State) (c : WCtx) : (retire s c).beats = s.beats := rfl
@[simp] theorem retire_drops (s : State) (c : WCtx) : (retire s c).drops = s.drops := rfl
@[simp] theorem retire_peerIn (s : State) (c : WCtx) : (retire s c).peerIn = s.peerIn := rfl
@[simp] theorem retire_collIn (s : State) (c : WCtx) : (retire s c).collIn = s.collIn := rfl
@[simp] theorem retire_sreqs (s : State) (c : WCtx) : (retire s c).sreqs = s.sreqs := rfl
@[simp] theorem retire_seqs (s : State) (c : WCtx) : (retire s c).seqs = s.seqs := rfl
@[simp] theorem retire_marks (s : State) (c : WCtx) : (retire s c).marks = s.marks := rfl
@[simp] theorem retire_respWin (s : State) (c : WCtx) : (retire s c).respWin = s.respWin := rfl
@[simp] theorem retire_cells (s : State) (c : WCtx) : (retire s c).cells = s.cells := rfl
@[simp] theorem retire_fqueues (s : State) (c : WCtx) : (retire s c).fqueues = s.fqueues := rfl
@[simp] theorem retire_pawls (s : State) (c : WCtx) : (retire s c).pawls = s.pawls := rfl
@[simp] theorem retire_stations (s : State) (c : WCtx) : (retire s c).stations = s.stations := rfl
@[simp] theorem retire_links (s : State) (c : WCtx) : (retire s c).links = s.links := rfl
@[simp] theorem retire_reroute (s : State) (c : WCtx) : (retire s c).reroute = s.reroute := rfl
@[simp] theorem retire_engCmds (s : State) (c : WCtx) : (retire s c).engCmds = s.engCmds := rfl
@[simp] theorem retire_mx (s : State) (c : WCtx) : (retire s c).mx = s.mx := rfl
@[simp] theorem retire_rays (s : State) (c : WCtx) : (retire s c).rays = s.rays := rfl
@[simp] theorem retire_interests (s : State) (c : WCtx) : (retire s c).interests = s.interests := rfl
@[simp] theorem retire_recs (s : State) (c : WCtx) : (retire s c).recs = s.recs := rfl
@[simp] theorem retire_tiles (s : State) (c : WCtx) : (retire s c).tiles = s.tiles := rfl
@[simp] theorem retire_tdir (s : State) (c : WCtx) : (retire s c).tdir = s.tdir := rfl
@[simp] theorem retire_closed (s : State) (c : WCtx) : (retire s c).closed = s.closed := rfl
@[simp] theorem retire_kflits (s : State) (c : WCtx) : (retire s c).kflits = s.kflits := rfl
@[simp] theorem retire_msgQ (s : State) (c : WCtx) : (retire s c).msgQ = s.msgQ := rfl
@[simp] theorem retire_surfs (s : State) (c : WCtx) : (retire s c).surfs = s.surfs := rfl
@[simp] theorem retire_gens (s : State) (c : WCtx) : (retire s c).gens = s.gens := rfl
@[simp] theorem retire_sbytes (s : State) (c : WCtx) : (retire s c).sbytes = s.sbytes := rfl
@[simp] theorem retire_bstate (s : State) (c : WCtx) : (retire s c).bstate = s.bstate := rfl
@[simp] theorem retire_tslots (s : State) (c : WCtx) : (retire s c).tslots = s.tslots := rfl
@[simp] theorem retire_tlast (s : State) (c : WCtx) : (retire s c).tlast = s.tlast := rfl
@[simp] theorem retire_restoring (s : State) (c : WCtx) : (retire s c).restoring = s.restoring := rfl
@[simp] theorem retire_bankProg (s : State) (c : WCtx) : (retire s c).bankProg = s.bankProg := rfl
@[simp] theorem retire_raster (s : State) (c : WCtx) : (retire s c).raster = s.raster := rfl
@[simp] theorem retire_ctxs (s : State) (c : WCtx) : (retire s c).ctxs = s.ctxs := rfl
@[simp] theorem retire_queues (s : State) (c : WCtx) : (retire s c).queues = s.queues := rfl
@[simp] theorem retire_qcur (s : State) (c : WCtx) : (retire s c).qcur = s.qcur := rfl
@[simp] theorem retire_killing (s : State) (c : WCtx) : (retire s c).killing = s.killing := rfl
@[simp] theorem retire_hb (s : State) (c : WCtx) : (retire s c).hb = s.hb := rfl
@[simp] theorem retire_fw (s : State) (c : WCtx) : (retire s c).fw = s.fw := rfl
@[simp] theorem retire_time (s : State) (c : WCtx) : (retire s c).time = s.time := rfl
@[simp] theorem retire_agenda (s : State) (c : WCtx) : (retire s c).agenda = s.agenda := rfl
@[simp] theorem retire_rr (s : State) (c : WCtx) : (retire s c).rr = s.rr := rfl
@[simp] theorem retire_nextId (s : State) (c : WCtx) : (retire s c).nextId = s.nextId := rfl

/-! ### `finish` -/

@[simp] theorem finish_teams (s : State) (c : WCtx) : (finish s c).teams = s.teams := rfl
@[simp] theorem finish_launches (s : State) (c : WCtx) : (finish s c).launches = s.launches := rfl
@[simp] theorem finish_saved (s : State) (c : WCtx) : (finish s c).saved = s.saved := rfl
@[simp] theorem finish_l1 (s : State) (c : WCtx) : (finish s c).l1 = s.l1 := rfl
@[simp] theorem finish_icache (s : State) (c : WCtx) : (finish s c).icache = s.icache := rfl
@[simp] theorem finish_scratch (s : State) (c : WCtx) : (finish s c).scratch = s.scratch := rfl
@[simp] theorem finish_outMsgs (s : State) (c : WCtx) : (finish s c).outMsgs = s.outMsgs := rfl
@[simp] theorem finish_cycles (s : State) (c : WCtx) : (finish s c).cycles = s.cycles := rfl
@[simp] theorem finish_rounds (s : State) (c : WCtx) : (finish s c).rounds = s.rounds := rfl
@[simp] theorem finish_cores (s : State) (c : WCtx) : (finish s c).cores = s.cores := rfl
@[simp] theorem finish_clusters (s : State) (c : WCtx) : (finish s c).clusters = s.clusters := rfl
@[simp] theorem finish_near (s : State) (c : WCtx) : (finish s c).near = s.near := rfl
@[simp] theorem finish_far (s : State) (c : WCtx) : (finish s c).far = s.far := rfl
@[simp] theorem finish_host (s : State) (c : WCtx) : (finish s c).host = s.host := rfl
@[simp] theorem finish_peers (s : State) (c : WCtx) : (finish s c).peers = s.peers := rfl
@[simp] theorem finish_slices (s : State) (c : WCtx) : (finish s c).slices = s.slices := rfl
@[simp] theorem finish_poison (s : State) (c : WCtx) : (finish s c).poison = s.poison := rfl
@[simp] theorem finish_badCheck (s : State) (c : WCtx) : (finish s c).badCheck = s.badCheck := rfl
@[simp] theorem finish_tcache (s : State) (c : WCtx) : (finish s c).tcache = s.tcache := rfl
@[simp] theorem finish_hub0 (s : State) (c : WCtx) : (finish s c).hub0 = s.hub0 := rfl
@[simp] theorem finish_hub1 (s : State) (c : WCtx) : (finish s c).hub1 = s.hub1 := rfl
@[simp] theorem finish_hinge (s : State) (c : WCtx) : (finish s c).hinge = s.hinge := rfl
@[simp] theorem finish_inUse (s : State) (c : WCtx) : (finish s c).inUse = s.inUse := rfl
@[simp] theorem finish_affinity (s : State) (c : WCtx) : (finish s c).affinity = s.affinity := rfl
@[simp] theorem finish_heldWb (s : State) (c : WCtx) : (finish s c).heldWb = s.heldWb := rfl
@[simp] theorem finish_slotFrees (s : State) (c : WCtx) : (finish s c).slotFrees = s.slotFrees := rfl
@[simp] theorem finish_invals (s : State) (c : WCtx) : (finish s c).invals = s.invals := rfl
@[simp] theorem finish_frames (s : State) (c : WCtx) : (finish s c).frames = s.frames := rfl
@[simp] theorem finish_paused (s : State) (c : WCtx) : (finish s c).paused = s.paused := rfl
@[simp] theorem finish_beats (s : State) (c : WCtx) : (finish s c).beats = s.beats := rfl
@[simp] theorem finish_drops (s : State) (c : WCtx) : (finish s c).drops = s.drops := rfl
@[simp] theorem finish_peerIn (s : State) (c : WCtx) : (finish s c).peerIn = s.peerIn := rfl
@[simp] theorem finish_collIn (s : State) (c : WCtx) : (finish s c).collIn = s.collIn := rfl
@[simp] theorem finish_sreqs (s : State) (c : WCtx) : (finish s c).sreqs = s.sreqs := rfl
@[simp] theorem finish_seqs (s : State) (c : WCtx) : (finish s c).seqs = s.seqs := rfl
@[simp] theorem finish_marks (s : State) (c : WCtx) : (finish s c).marks = s.marks := rfl
@[simp] theorem finish_respWin (s : State) (c : WCtx) : (finish s c).respWin = s.respWin := rfl
@[simp] theorem finish_cells (s : State) (c : WCtx) : (finish s c).cells = s.cells := rfl
@[simp] theorem finish_fqueues (s : State) (c : WCtx) : (finish s c).fqueues = s.fqueues := rfl
@[simp] theorem finish_pawls (s : State) (c : WCtx) : (finish s c).pawls = s.pawls := rfl
@[simp] theorem finish_stations (s : State) (c : WCtx) : (finish s c).stations = s.stations := rfl
@[simp] theorem finish_links (s : State) (c : WCtx) : (finish s c).links = s.links := rfl
@[simp] theorem finish_reroute (s : State) (c : WCtx) : (finish s c).reroute = s.reroute := rfl
@[simp] theorem finish_engCmds (s : State) (c : WCtx) : (finish s c).engCmds = s.engCmds := rfl
@[simp] theorem finish_mx (s : State) (c : WCtx) : (finish s c).mx = s.mx := rfl
@[simp] theorem finish_rays (s : State) (c : WCtx) : (finish s c).rays = s.rays := rfl
@[simp] theorem finish_interests (s : State) (c : WCtx) : (finish s c).interests = s.interests := rfl
@[simp] theorem finish_recs (s : State) (c : WCtx) : (finish s c).recs = s.recs := rfl
@[simp] theorem finish_tiles (s : State) (c : WCtx) : (finish s c).tiles = s.tiles := rfl
@[simp] theorem finish_tdir (s : State) (c : WCtx) : (finish s c).tdir = s.tdir := rfl
@[simp] theorem finish_closed (s : State) (c : WCtx) : (finish s c).closed = s.closed := rfl
@[simp] theorem finish_kflits (s : State) (c : WCtx) : (finish s c).kflits = s.kflits := rfl
@[simp] theorem finish_msgQ (s : State) (c : WCtx) : (finish s c).msgQ = s.msgQ := rfl
@[simp] theorem finish_surfs (s : State) (c : WCtx) : (finish s c).surfs = s.surfs := rfl
@[simp] theorem finish_gens (s : State) (c : WCtx) : (finish s c).gens = s.gens := rfl
@[simp] theorem finish_sbytes (s : State) (c : WCtx) : (finish s c).sbytes = s.sbytes := rfl
@[simp] theorem finish_bstate (s : State) (c : WCtx) : (finish s c).bstate = s.bstate := rfl
@[simp] theorem finish_tslots (s : State) (c : WCtx) : (finish s c).tslots = s.tslots := rfl
@[simp] theorem finish_tlast (s : State) (c : WCtx) : (finish s c).tlast = s.tlast := rfl
@[simp] theorem finish_restoring (s : State) (c : WCtx) : (finish s c).restoring = s.restoring := rfl
@[simp] theorem finish_bankProg (s : State) (c : WCtx) : (finish s c).bankProg = s.bankProg := rfl
@[simp] theorem finish_raster (s : State) (c : WCtx) : (finish s c).raster = s.raster := rfl
@[simp] theorem finish_ctxs (s : State) (c : WCtx) : (finish s c).ctxs = s.ctxs := rfl
@[simp] theorem finish_queues (s : State) (c : WCtx) : (finish s c).queues = s.queues := rfl
@[simp] theorem finish_qcur (s : State) (c : WCtx) : (finish s c).qcur = s.qcur := rfl
@[simp] theorem finish_killing (s : State) (c : WCtx) : (finish s c).killing = s.killing := rfl
@[simp] theorem finish_hb (s : State) (c : WCtx) : (finish s c).hb = s.hb := rfl
@[simp] theorem finish_fw (s : State) (c : WCtx) : (finish s c).fw = s.fw := rfl
@[simp] theorem finish_time (s : State) (c : WCtx) : (finish s c).time = s.time := rfl
@[simp] theorem finish_agenda (s : State) (c : WCtx) : (finish s c).agenda = s.agenda := rfl
@[simp] theorem finish_rr (s : State) (c : WCtx) : (finish s c).rr = s.rr := rfl
@[simp] theorem finish_nextId (s : State) (c : WCtx) : (finish s c).nextId = s.nextId := rfl

/-! ### `stalled` -/

@[simp] theorem stalled_teams (s : State) (c : WCtx) : (stalled s c).teams = s.teams := rfl
@[simp] theorem stalled_launches (s : State) (c : WCtx) : (stalled s c).launches = s.launches := rfl
@[simp] theorem stalled_saved (s : State) (c : WCtx) : (stalled s c).saved = s.saved := rfl
@[simp] theorem stalled_l1 (s : State) (c : WCtx) : (stalled s c).l1 = s.l1 := rfl
@[simp] theorem stalled_icache (s : State) (c : WCtx) : (stalled s c).icache = s.icache := rfl
@[simp] theorem stalled_scratch (s : State) (c : WCtx) : (stalled s c).scratch = s.scratch := rfl
@[simp] theorem stalled_outMsgs (s : State) (c : WCtx) : (stalled s c).outMsgs = s.outMsgs := rfl
@[simp] theorem stalled_cycles (s : State) (c : WCtx) : (stalled s c).cycles = s.cycles := rfl
@[simp] theorem stalled_rounds (s : State) (c : WCtx) : (stalled s c).rounds = s.rounds := rfl
@[simp] theorem stalled_cores (s : State) (c : WCtx) : (stalled s c).cores = s.cores := rfl
@[simp] theorem stalled_clusters (s : State) (c : WCtx) : (stalled s c).clusters = s.clusters := rfl
@[simp] theorem stalled_near (s : State) (c : WCtx) : (stalled s c).near = s.near := rfl
@[simp] theorem stalled_far (s : State) (c : WCtx) : (stalled s c).far = s.far := rfl
@[simp] theorem stalled_host (s : State) (c : WCtx) : (stalled s c).host = s.host := rfl
@[simp] theorem stalled_peers (s : State) (c : WCtx) : (stalled s c).peers = s.peers := rfl
@[simp] theorem stalled_slices (s : State) (c : WCtx) : (stalled s c).slices = s.slices := rfl
@[simp] theorem stalled_poison (s : State) (c : WCtx) : (stalled s c).poison = s.poison := rfl
@[simp] theorem stalled_badCheck (s : State) (c : WCtx) : (stalled s c).badCheck = s.badCheck := rfl
@[simp] theorem stalled_tcache (s : State) (c : WCtx) : (stalled s c).tcache = s.tcache := rfl
@[simp] theorem stalled_hub0 (s : State) (c : WCtx) : (stalled s c).hub0 = s.hub0 := rfl
@[simp] theorem stalled_hub1 (s : State) (c : WCtx) : (stalled s c).hub1 = s.hub1 := rfl
@[simp] theorem stalled_hinge (s : State) (c : WCtx) : (stalled s c).hinge = s.hinge := rfl
@[simp] theorem stalled_inUse (s : State) (c : WCtx) : (stalled s c).inUse = s.inUse := rfl
@[simp] theorem stalled_affinity (s : State) (c : WCtx) : (stalled s c).affinity = s.affinity := rfl
@[simp] theorem stalled_heldWb (s : State) (c : WCtx) : (stalled s c).heldWb = s.heldWb := rfl
@[simp] theorem stalled_slotFrees (s : State) (c : WCtx) : (stalled s c).slotFrees = s.slotFrees := rfl
@[simp] theorem stalled_xfaults (s : State) (c : WCtx) : (stalled s c).xfaults = s.xfaults := rfl
@[simp] theorem stalled_invals (s : State) (c : WCtx) : (stalled s c).invals = s.invals := rfl
@[simp] theorem stalled_frames (s : State) (c : WCtx) : (stalled s c).frames = s.frames := rfl
@[simp] theorem stalled_paused (s : State) (c : WCtx) : (stalled s c).paused = s.paused := rfl
@[simp] theorem stalled_beats (s : State) (c : WCtx) : (stalled s c).beats = s.beats := rfl
@[simp] theorem stalled_drops (s : State) (c : WCtx) : (stalled s c).drops = s.drops := rfl
@[simp] theorem stalled_peerIn (s : State) (c : WCtx) : (stalled s c).peerIn = s.peerIn := rfl
@[simp] theorem stalled_collIn (s : State) (c : WCtx) : (stalled s c).collIn = s.collIn := rfl
@[simp] theorem stalled_sreqs (s : State) (c : WCtx) : (stalled s c).sreqs = s.sreqs := rfl
@[simp] theorem stalled_seqs (s : State) (c : WCtx) : (stalled s c).seqs = s.seqs := rfl
@[simp] theorem stalled_marks (s : State) (c : WCtx) : (stalled s c).marks = s.marks := rfl
@[simp] theorem stalled_respWin (s : State) (c : WCtx) : (stalled s c).respWin = s.respWin := rfl
@[simp] theorem stalled_cells (s : State) (c : WCtx) : (stalled s c).cells = s.cells := rfl
@[simp] theorem stalled_fqueues (s : State) (c : WCtx) : (stalled s c).fqueues = s.fqueues := rfl
@[simp] theorem stalled_pawls (s : State) (c : WCtx) : (stalled s c).pawls = s.pawls := rfl
@[simp] theorem stalled_stations (s : State) (c : WCtx) : (stalled s c).stations = s.stations := rfl
@[simp] theorem stalled_links (s : State) (c : WCtx) : (stalled s c).links = s.links := rfl
@[simp] theorem stalled_reroute (s : State) (c : WCtx) : (stalled s c).reroute = s.reroute := rfl
@[simp] theorem stalled_engCmds (s : State) (c : WCtx) : (stalled s c).engCmds = s.engCmds := rfl
@[simp] theorem stalled_mx (s : State) (c : WCtx) : (stalled s c).mx = s.mx := rfl
@[simp] theorem stalled_rays (s : State) (c : WCtx) : (stalled s c).rays = s.rays := rfl
@[simp] theorem stalled_interests (s : State) (c : WCtx) : (stalled s c).interests = s.interests := rfl
@[simp] theorem stalled_recs (s : State) (c : WCtx) : (stalled s c).recs = s.recs := rfl
@[simp] theorem stalled_tiles (s : State) (c : WCtx) : (stalled s c).tiles = s.tiles := rfl
@[simp] theorem stalled_tdir (s : State) (c : WCtx) : (stalled s c).tdir = s.tdir := rfl
@[simp] theorem stalled_closed (s : State) (c : WCtx) : (stalled s c).closed = s.closed := rfl
@[simp] theorem stalled_kflits (s : State) (c : WCtx) : (stalled s c).kflits = s.kflits := rfl
@[simp] theorem stalled_msgQ (s : State) (c : WCtx) : (stalled s c).msgQ = s.msgQ := rfl
@[simp] theorem stalled_surfs (s : State) (c : WCtx) : (stalled s c).surfs = s.surfs := rfl
@[simp] theorem stalled_gens (s : State) (c : WCtx) : (stalled s c).gens = s.gens := rfl
@[simp] theorem stalled_sbytes (s : State) (c : WCtx) : (stalled s c).sbytes = s.sbytes := rfl
@[simp] theorem stalled_bstate (s : State) (c : WCtx) : (stalled s c).bstate = s.bstate := rfl
@[simp] theorem stalled_tslots (s : State) (c : WCtx) : (stalled s c).tslots = s.tslots := rfl
@[simp] theorem stalled_tlast (s : State) (c : WCtx) : (stalled s c).tlast = s.tlast := rfl
@[simp] theorem stalled_restoring (s : State) (c : WCtx) : (stalled s c).restoring = s.restoring := rfl
@[simp] theorem stalled_bankProg (s : State) (c : WCtx) : (stalled s c).bankProg = s.bankProg := rfl
@[simp] theorem stalled_raster (s : State) (c : WCtx) : (stalled s c).raster = s.raster := rfl
@[simp] theorem stalled_ctxs (s : State) (c : WCtx) : (stalled s c).ctxs = s.ctxs := rfl
@[simp] theorem stalled_queues (s : State) (c : WCtx) : (stalled s c).queues = s.queues := rfl
@[simp] theorem stalled_qcur (s : State) (c : WCtx) : (stalled s c).qcur = s.qcur := rfl
@[simp] theorem stalled_killing (s : State) (c : WCtx) : (stalled s c).killing = s.killing := rfl
@[simp] theorem stalled_hb (s : State) (c : WCtx) : (stalled s c).hb = s.hb := rfl
@[simp] theorem stalled_fw (s : State) (c : WCtx) : (stalled s c).fw = s.fw := rfl
@[simp] theorem stalled_time (s : State) (c : WCtx) : (stalled s c).time = s.time := rfl
@[simp] theorem stalled_agenda (s : State) (c : WCtx) : (stalled s c).agenda = s.agenda := rfl
@[simp] theorem stalled_rr (s : State) (c : WCtx) : (stalled s c).rr = s.rr := rfl
@[simp] theorem stalled_fresh (s : State) (c : WCtx) : (stalled s c).fresh = s.fresh := rfl
@[simp] theorem stalled_nextId (s : State) (c : WCtx) : (stalled s c).nextId = s.nextId := rfl

@[simp] theorem later_agenda (s : State) (e : Instr) : (later s e).agenda = s.agenda ++ [e] := rfl
@[simp] theorem laterAll_agenda (s : State) (es : List Instr) : (laterAll s es).agenda = s.agenda ++ es := rfl
@[simp] theorem retire_issue (s : State) (c : WCtx) : (retire s c).issue = none := rfl
@[simp] theorem finish_issue (s : State) (c : WCtx) : (finish s c).issue = none := rfl
@[simp] theorem finish_fresh (s : State) (c : WCtx) : (finish s c).fresh = s.fresh + 1 := rfl
@[simp] theorem stalled_issue (s : State) (c : WCtx) : (stalled s c).issue = none := rfl
@[simp] theorem newId_id (s : State) : (newId s).2 = s.nextId := rfl
@[simp] theorem newId_nextId (s : State) : (newId s).1.nextId = s.nextId + 1 := rfl

end Sys2Proof.Machine
end

