-- ==== Sys2Proof/Tests/Slice0.lean ====
section
/-! SUPPORT. Tests: ill-formed terms that the checks refuse, words written out from the spec's encodings, single steps on
small states, and states that meet the hypotheses of each statement. -/
namespace Sys2Proof.Tests
open Sys2Proof Sys2Proof.Machine
set_option Elab.async false

/-! ### Small states -/

/-- A machine whose core 0 is about to issue a word of a 16-lane group, changed by `f`. -/
def probe (f : Group → Group := id) : State := updG (State.reset.withFetchWord 32 0) 3 f

/-- The group's element type, every row of its registers tagged with it. -/
def typed (ty : Nat) (g : Group) : Group :=
  { g with gm := BitVec.ofNat 64 (7 + 16 * ty), tags := (List.range 256).map fun r => (r, BitVec.ofNat 5 ty) }

/-- A group whose guard is p0, which is 0 in every lane. -/
def idle (g : Group) : Group := { g with gm := 0xB0 }
/-- The group with one scalar register set. -/
def withS (i : Nat) (v : BitVec 64) (g : Group) : Group := g.setS i v
/-- A 4 KiB scratchpad segment. -/
def withSp (g : Group) : Group := { g with segs := Tab.put g.segs 1 ⟨0, 4096, true, true, false⟩ }
/-- A fifth, sixth … split at a word, and a token entry. -/
def oneSplit (pc : Nat) (mask : BitVec 64) : Split :=
  { pc, mask, tsp := none, clause := none, stall := false, back := [], barWait := none, entry := false, passed := 0 }
def oneToken (k : TokKind) (m a : BitVec 64) : Token :=
  { kind := k, addr := 9, members := m, arrived := a, parent := none, clause := none, born := 0 }
/-- The issuing split's lanes are the lower eight, another split's the upper eight. -/
def halves (g : Group) : Group :=
  { g with splits := (g.splits.map fun e => (e.1, { e.2 with mask := 0x00FF })) ++ [(1, oneSplit 5 0xFF00)] }
/-- Four splits of four lanes. -/
def quarters (g : Group) : Group :=
  { g with splits := (g.splits.map fun e => (e.1, { e.2 with mask := 0x000F })) ++ [(1, oneSplit 5 0x00F0), (2, oneSplit 6 0x0F00), (3, oneSplit 7 0xF000)] }
/-- p1 is 1 in the lanes of `m`. -/
def withP1 (m : BitVec 64) (g : Group) : Group := { g with preds := [(1, m)] }

/-- Bytes of host memory from an address, which the probe's page maps to itself. -/
def hostAt (s : State) (a : Nat) (bs : List (BitVec 8)) : State := { s with host := State.withFetchWord.putBytes s.host a bs }

/-- What holds of the word that the machine is about to issue. -/
def issuing (s : State) (p : WCtx → Bool) : Bool :=
  match issueCtx s with
  | some c => p c
  | none => false
/-- The machine after a word, when it answers a next state. -/
def after (i : Instr) (s : State) (p : State → Group → Bool) : Bool :=
  match exec i s with
  | .next t => match Tab.find t.groups 3 with
    | some g => p t g
    | none => false
  | _ => false

def readable (c : WCtx) (os : List Opnd) : Bool := os.all fun o => !o.bad c.g && !o.badTag c.g
def roomy (c : WCtx) : Bool :=
  match tumblerOf c.sp with
  | some t => decide (c.g.tumbler t < 63)
  | none => true
def good {ε α : Type} (x : Except ε α) : Bool :=
  match x with
  | .ok _ => true
  | .error _ => false
def two (c : WCtx) (cls : TagCls := .arith) : List Opnd := [opD (tWide c.g.ty) 3, opA (tWide c.g.ty) 1 1 cls, opB (tWide c.g.ty) 0 2 cls]
def three (c : WCtx) : List Opnd := [opD (tWide c.g.ty) 3 .arith, opA (tWide c.g.ty) 1 1 .arith, opB (tWide c.g.ty) 0 2 .arith]

/-! ### The hypotheses of the statements about words can be met -/

theorem test_meets_ScalarIntegerResults : (issuing (probe (withS 1 7)) fun c => c.eff != 0) = true := by decide +kernel
theorem test_meets_ScalarCompareSelectBits : (issuing (probe) fun c => c.eff != 0 && decide ((9#4).toNat ≤ 9) && decide ((7#9).toNat ≤ 7)) = true := by decide +kernel
theorem test_meets_ModeRegisterWords : (issuing (probe (withS 2 63)) fun c => c.eff != 0 && !msetBad 8 2 && decide ((7#7).toNat ≤ 8)
    && decide ((c.g.s 2).toNat < 2 ^ gmWid 7) && !gmForbidden 7 (c.g.s 2).toNat) = true := by decide +kernel
theorem test_meets_PredicateWords : (issuing (probe) fun c => c.eff != 0 && decide (c.g.width ≤ 64)) = true := by decide +kernel
theorem test_meets_PredicateWords_decode :
    let lanelt65 : BitVec 32 := 0x18020041
    let mode3 : BitVec 32 := 0x18030000
    let pmov9 : BitVec 32 := 0x1A000200
    lanelt65.toNat / 2 ^ 25 = 0x0C ∧ lanelt65.toNat / 2 ^ 16 % 4 = 2 ∧ 64 < lanelt65.toNat % 2 ^ 16
      ∧ mode3.toNat / 2 ^ 25 = 0x0C ∧ mode3.toNat / 2 ^ 16 % 4 = 3 ∧ pmov9.toNat / 2 ^ 25 = 0x0D ∧ pmov9.getLsbD 9 = true := by decide +kernel
theorem test_meets_ViewSegmentSystemWords_views :
    (issuing (probe (withS 1 0x0070_0040_0000_0000 ∘ withS 2 0x0070_0040_0000_0001)) fun c => c.eff != 0
      && viewLegal c.g.width c.g.regBytes 0 (c.g.s 1) && !viewLegal c.g.width c.g.regBytes 0 (c.g.s 2)) = true := by decide +kernel
theorem test_meets_ViewSegmentSystemWords_privilege :
    (issuing (probe) fun c => c.eff != 0 && (match ctxOf (probe) c.g with | some k => k.priv | none => false) && bits (c.g.s 4).toNat 63 48 == 0) = true
    ∧ (issuing { probe with ctxs := [] } fun c => c.eff != 0 && (ctxOf { probe with ctxs := [] } c.g).isNone) = true
    ∧ (issuing probe fun c => (launchOf probe c.g).isSome && (teamOf probe c.g).isSome) = true := by decide +kernel

theorem test_meets_IntegerElementResults :
    (issuing (probe (typed tI64)) fun c => c.eff != 0 && tInt c.g.ty && readable c (two c) && readable c (three c)) = true := by decide +kernel
theorem test_meets_LogicAndShiftResults :
    (issuing (probe (typed tSCB)) fun c => c.eff != 0 && decide (c.g.ty ≤ 16) && readable c (two c .bitwise)) = true
    ∧ (issuing (probe (typed tRAW)) fun c => c.eff != 0 && c.g.ty == tRAW && readable c [opD false 3, opA false 1 1 .bitwise, opB false 0 2 .free]) = true := by
  decide +kernel
theorem test_meets_CarryBitsCompareAddress :
    (issuing (probe (typed tU32)) fun c => c.eff != 0 && adm32 c.g.ty && readable c (three c) && c.g.rowNo 0 4 0 != c.g.rowNo 0 3 0
      && readable c [opD false 3, opA false 1 1 .free, ⟨3, false, 4, 0, .free⟩]) = true
    ∧ (issuing (probe (typed tF64)) fun c => c.eff != 0 && admBit c.g.ty && readable c ([opD true 3 .bitwise, opA true 0 1 .bitwise] ++ [bitControl true 0 1])) = true := by
  decide +kernel
theorem test_meets_CarryBitsCompareAddress_dot8 :
    (issuing (probe (fun g => { typed tI8 g with tags := Tab.put (typed tI8 g).tags 3 (BitVec.ofNat 5 tI32) })) fun c => c.eff != 0
      && c.g.ty == tI8 && readable c [opD false 3 (.codes [dotAcc c.g.ty]), opA false 0 1 .arith, opB false 0 2 .arith]) = true := by decide +kernel
theorem test_meets_MoveWords :
    (issuing (probe (typed tU8)) fun c => c.eff != 0 && readable c [opD false 3, opA false 1 1 .move, opB false 0 2 .free] && c.g.ty == tU8
      && !tWide c.g.ty && readable c [opD false 3, opA false 0 1 .bitwise, opB false 0 2 .bitwise]) = true := by decide +kernel
theorem test_meets_LaneWords :
    (issuing (probe (typed tI16)) fun c => c.eff != 0 && admRed 0 c.g.ty && readable c [opD false 3, opA false 0 1 .arith] && !c.g.trapFp
      && decide (112 ≤ (112#7).toNat) && decide (c.g.width ≤ 64)) = true
    ∧ (issuing (probe (typed tU32)) fun c => c.eff != 0 && readable c [opD false 3 .move, opA false 0 1 .free]
      && c.lanes.all (fun l => decide (toS 32 ((opA false 0 1 .free).val c.g l) + 5 < c.g.vCount 0)) && c.lanes.all fun l => c.g.regTag 0 5 != none && l != 99) = true := by
  decide +kernel

theorem test_meets_FloatElementResults :
    (issuing (probe (typed tF16)) fun c => c.eff != 0 && tFloat c.g.ty && readable c (two c) && readable c (three c) && !c.g.trapFp) = true := by decide +kernel
theorem test_meets_FloatCompareClassDot :
    (issuing (probe (typed tF64)) fun c => c.eff != 0 && tFloat c.g.ty && readable c [opA true 0 1 .arith, opB true 0 2 .arith] && !c.g.trapFp
      && readable c [opD false 3, opA true 0 1 .arith]) = true
    ∧ (issuing (probe (fun g => { typed tBF16 g with tags := Tab.put (typed tBF16 g).tags 3 (BitVec.ofNat 5 tF32) })) fun c => c.eff != 0
      && c.g.ty == tBF16 && !c.g.trapFp && readable c [opD false 3 (.codes [tF32]), opA false 0 1 .arith, opB false 0 2 .arith]) = true := by decide +kernel
theorem test_meets_LongFloatResults :
    (issuing (probe (typed tF32)) fun c => c.eff != 0 && tFloat c.g.ty && roomy c && readable c (two c) && !c.g.trapFp) = true := by decide +kernel

/-- With TRAPFP set, a NaN-making product of infinity (in v1) and zero (in v2) in lane 0. -/
def trapping (g : Group) : Group :=
  let g := typed tF32 g
  { g with gm := g.gm ||| 0x2000, regs := (List.range 16).map fun l => (16 + l, if l = 5 then 0x7F80_0000 else 0x3F80_0000) }

theorem test_meets_ArithmeticFaults :
    (issuing (probe trapping) fun c => c.eff != 0 && tFloat c.g.ty && c.g.trapFp && c.lanes.contains 5 && readable c (two c)
      && (roundTo (fmtOf tF32) 0 false none (xmul (unpack (fmtOf tF32) ((opA false 0 1 .arith).val c.g 5)) (unpack (fmtOf tF32) ((opB false 0 2 .arith).val c.g 5)))).inv
      && c.lanes.all fun m => decide (5 ≤ m) || !(roundTo (fmtOf tF32) 0 false none
        (xmul (unpack (fmtOf tF32) ((opA false 0 1 .arith).val c.g m)) (unpack (fmtOf tF32) ((opB false 0 2 .arith).val c.g m)))).inv) = true := by decide +kernel
theorem test_meets_ConversionResults_rounding :
    tAnyFloat tE4M3 = true ∧ 0x7E < 2 ^ (fmtOf tE4M3).w ∧ (unpack (fmtOf tE4M3) 0x7E).isNan = false ∧ (unpack (fmtOf tE4M3) 0x7F).isNan = true
      ∧ (unpack (fmtOf tF32) 0x7F80_0000).isInf = true ∧ (fmtOf tF32).noInf = false := by decide +kernel
theorem test_meets_ConversionResults_cvt :
    (issuing (probe (typed tF64)) fun c => c.eff != 0 && readable c (rowsFrom 0 3 (rowsFor (cvtCount tF64 tF32 * 32)) 0 .free
        ++ rowsFrom 1 4 (rowsFor (cvtCount tF64 tF32 * 64)) 0 .arith) && decide ((rowsUp c.g 3 (rowsFor (cvtCount tF64 tF32 * 32))).Nodup) && !c.g.trapFp) = true
    ∧ (issuing (probe (typed tF32)) fun c => c.eff != 0 && readable c [opD false 3, opA false 0 4 .arith]) = true := by decide +kernel
theorem test_meets_ConversionResults_blocks :
    (issuing (probe (fun g => { typed tF32 g with tags := Tab.put (typed tF32 g).tags 12 (BitVec.ofNat 5 tSCB) })) fun c => c.eff != 0
      && readable c ([opD false 3] ++ rowsFrom 1 4 8 0 .arith ++ [⟨3, false, 12, 0, .codes [tSCB]⟩]) && !c.g.trapFp
      && c.lanes.all fun l => (⟨3, false, 12, 0, .codes [tSCB]⟩ : Opnd).val c.g l % 256 / 64 == 0) = true
    ∧ (issuing (probe (fun g => { typed tQ4 g with tags := Tab.put (typed tQ4 g).tags 21 (BitVec.ofNat 5 tSCB) })) fun c => c.eff != 0
      && decide ((rowsUp c.g 3 8).Nodup) && readable c (rowsFrom 0 3 8 0 .free ++ [⟨1, false, 20, 0, .codes [tQ4]⟩, ⟨3, false, 21, 0, .codes [tSCB]⟩])) = true
    ∧ (issuing (probe (fun g => { typed tF32 g with tags := Tab.put (typed tF32 g).tags 4 (BitVec.ofNat 5 tI32) })) fun c => c.eff != 0 && c.g.ty == tF32
      && readable c [opD false 3, opA false 0 4 (.codes [tI32, tU32]), opB false 0 5 .free]) = true := by decide +kernel

/-- s5 names the probe's page. -/
def onPage (g : Group) : Group := withS 5 65792 (typed tF32 g)
def accs (c : WCtx) (seg ak a add : Nat) : List Acc := c.lanes.map fun l => accOf c.g seg ak a add l

theorem test_meets_LoadWords :
    (issuing (probe onPage) fun c => c.eff != 0 && roomy c && readable c (opD false 3 :: addrRows 0 1 5) && c.g.ty != tQ4
      && good (access (probe onPage) c.key c.g 0 1 5 4 0 4 (accs c 0 1 5 4))
      && good (access (probe onPage) c.key c.g 0 1 5 0 0 8 [accOf c.g 0 1 5 0 c.low])) = true := by decide +kernel
theorem test_meets_StoreWords :
    (issuing (probe onPage) fun c => c.eff != 0 && readable c (storeOpnd false 3 :: addrRows 0 1 5)
      && good (access (probe onPage) c.key c.g 0 1 5 4 1 4 (accs c 0 1 5 4))) = true := by decide +kernel
/-- The word's group is a harvest group whose team holds lent scratchpad, inside an intact region, and the team's other
groups fill its 512 buffer entries. -/
def fullBuffers (s : State) : State :=
  let crowd := (Tab.find s.groups 3).toList.flatMap fun g => (List.range 32).map fun j =>
    (100 + j, { g with buf := [.bytes ((List.range 16).map fun i => (⟨.core 0, 32 * i⟩, 0))] })
  { updG s 3 fun g => { g with harvest := true, inRegion := true, lost := false } with
      teams := [(2, { State.probeTeam with scratch := 16, harvest := true })], groups := (updG s 3 fun g => { g with harvest := true, inRegion := true, lost := false }).groups ++ crowd }
/-- Whether a word's operations overfill, when its access passes: no for the probe, yes with the buffers full. -/
def overflows (s : State) (rw : Nat) (mk : List (Nat × List Loc) → List BufOp) : Bool :=
  issuing s fun c => match access s c.key c.g 0 1 5 0 rw 4 (accs c 0 1 5 0) with
    | .ok (s1, ls) => overfills s1 c (mk ls)
    | .error _ => false
theorem test_meets_StoreWords_overfull :
    overflows (fullBuffers (probe onPage)) 1 (fun ls => [.bytes (ls.flatMap fun y => y.2.zip (leBytes 4 1))]) = true
      ∧ overflows (probe onPage) 1 (fun ls => [.bytes (ls.flatMap fun y => y.2.zip (leBytes 4 1))]) = false
      ∧ overflows (fullBuffers (probe onPage)) 2 (fun ls => ls.map fun y => .ord (y.2.headD ⟨.log, 0⟩) tF32 1 y.1) = true := by decide +kernel
theorem test_meets_ScratchpadWords :
    (issuing (probe (typed tF32 ∘ withSp ∘ withS 5 4092)) fun c => c.eff != 0 && roomy c && !c.g.inRegion && !c.g.harvest
      && readable c (storeOpnd false 3 :: opD false 4 :: addrRows 1 1 5) && (c.g.seg 1).wr && (c.g.seg 1).rd
      && c.lanes.all fun l => decide (addrValue c.g 1 1 5 l + 4 ≤ (c.g.seg 1).limit.toNat)) = true := by decide +kernel
theorem test_meets_AccessFaults :
    (issuing (probe (typed tF32 ∘ withSp ∘ withS 5 4093)) fun c => c.eff != 0 && roomy c && c.lanes.contains 0 && readable c (opD false 3 :: addrRows 1 1 5)
      && !(c.g.seg 1).unb && decide ((c.g.seg 1).limit.toNat < addrValue c.g 1 1 5 0 + 4)) = true
    ∧ (issuing (probe (fun g => { typed tF32 g with segs := [(1, ⟨0, 4096, false, false, false⟩)] })) fun c => c.eff != 0 && c.low == 0
      && readable c (storeOpnd false 3 :: addrRows 1 1 5) && !(c.g.seg 1).rd && !(c.g.seg 1).wr
      && c.lanes.all fun l => decide (addrValue c.g 1 1 5 l + 4 ≤ (c.g.seg 1).limit.toNat)) = true := by decide +kernel
theorem test_meets_AtomicWords :
    (issuing (probe (fun g => withSp (typed tU32 g))) fun c => c.eff != 0 && roomy c && admAtom 7 c.g.ty && !c.g.inRegion
      && readable c (atomOpnds c.g.ty 7 3 1 1 5) && (accs c 1 1 5 0).all (fun y => ((c.g.seg 1).base.toNat + y.y) % 4 == 0)
      && good (access (probe (fun g => withSp (typed tU32 g))) c.key c.g 1 1 5 0 2 4 (accs c 1 1 5 0))) = true
    ∧ (issuing (probe (fun g => withSp (typed tF32 g))) fun c => c.eff != 0 && roomy c && admFatom 0 c.g.ty && !c.g.trapFp
      && readable c (⟨0, false, 3, 0, .arith⟩ :: addrRows 1 1 5)
      && good (access (probe (fun g => withSp (typed tF32 g))) c.key c.g 1 1 5 0 2 4 (accs c 1 1 5 0))) = true := by decide +kernel
theorem test_meets_AtomicWords_step : (0x7FFFC + 4 ≤ 2 ^ 19) ∧ (7 ≤ 7) := by decide

theorem test_meets_BranchWords_inside :
    (issuing (probe (withP1 0x0F)) fun c => selected c 1 0 != 0 && (c.sp.mask &&& ~~~selected c 1 0) != 0 && (c.sp.mask &&& ~~~selected c 7 0) == 0
      && selected c 0 0 == 0 && decide ((c.sp.pc : Int) + 62 < textWords (probe (withP1 0x0F)) c.g) && decide (c.g.splits.length < 4)
      && decide (c.g.tokens.length ≤ c.g.divdepth) && decide (c.g.tokens.length < c.g.divdepth) && decide (c.g.divdepth ≤ 16)
      && !decide ((c.sp.pc : Int) + 63 < textWords (probe (withP1 0x0F)) c.g)) = true := by decide +kernel
theorem test_meets_BranchWords_full :
    (issuing (probe (withP1 0x03 ∘ quarters)) fun c => selected c 1 0 != 0 && (c.sp.mask &&& ~~~selected c 1 0) != 0 && decide (4 ≤ c.g.splits.length)
      && (lowFree c.g.splits 4).isNone && decide (c.g.tokens.length < c.g.divdepth)) = true
    ∧ (issuing (probe (fun g => { withP1 0x03 (quarters g) with divdepth := 0 })) fun c => selected c 1 0 != 0 && decide (c.g.divdepth ≤ c.g.tokens.length)
      && (lowFree c.g.splits 4).isNone) = true := by decide +kernel
theorem test_meets_BranchWords_indexed :
    (issuing (probe (typed tI32)) fun c => decide (c.g.width ≤ 64) && selected c 0 0 == 0 && !(lanesOf c.g.width (selected c 7 0)).isEmpty
      && readable c [⟨1, false, 3, 0, .free⟩] && (lanesOf c.g.width (selected c 7 0)).all (fun l =>
        decide (0 ≤ (c.sp.pc : Int) + toS 32 ((⟨1, false, 3, 0, .free⟩ : Opnd).val c.g l))) && decide (c.g.splits.length + 1 ≤ 5)) = true := by decide +kernel
theorem test_meets_JoinsAndReturns_room :
    (issuing probe fun c => decide (c.g.tokens.length < c.g.divdepth) && decide (c.g.divdepth ≤ 16) && c.sp.tsp.isNone) = true
    ∧ (issuing (probe (fun g => { g with divdepth := 0 })) fun c => decide (c.g.divdepth ≤ c.g.tokens.length)) = true := by decide +kernel

/-- The split returns to a CALL entry that holds the lanes of `m`, of which `a` have arrived. -/
def called (m a : BitVec 64) (g : Group) : Group :=
  { halves g with tokens := [(2, oneToken .call m a)], splits := ((halves g).splits.map fun e => (e.1, { e.2 with tsp := some 2 })) }

theorem test_meets_JoinsAndReturns_return :
    (issuing (probe (called 0x00FF 0)) fun c => c.sp.tsp == some 2 && Tab.rising c.g.tokens && (match Tab.find c.g.tokens 2 with
      | some t => t.kind == .call && (t.arrived ||| c.sp.mask) == t.members && t.members != 0
      | none => false) && (probe (called 0x00FF 0)).groups.all (fun e => e.2.splits.all fun x => x.2.barWait.isNone)) = true
    ∧ (issuing (probe (called 0xFFFF 0)) fun c => (match Tab.find c.g.tokens 2 with
      | some t => t.kind == .call && (t.arrived ||| c.sp.mask) != t.members
      | none => false) && c.g.tokens.all fun e => e.2.kind != .defer) = true := by decide +kernel
theorem test_meets_ExitWord :
    (issuing (probe (withP1 0x0F ∘ halves)) fun c => selected c 0 0 == 0 && selected c 1 0 != 0 && (c.sp.mask &&& ~~~selected c 1 0) != 0 && c.g.tokens.isEmpty
      && decide ((c.g.splits.map (·.1)).Nodup) && c.g.splits.all fun x => x.1 == c.si || ((x.2.mask &&& selected c 1 0) == 0 && x.2.mask != 0)) = true
    ∧ (issuing probe fun c => selected c 7 0 != 0 && c.g.tokens.isEmpty && c.g.splits.all fun x => (x.2.mask &&& ~~~selected c 7 0) == 0) = true := by
  decide +kernel

/-- Trap-handler mode, with a frame that returns to word 0, a clause header. -/
def inHandler (g : Group) : Group :=
  { g with trapMask := some 0xFFFF,
           mb := ((leBytes 4 0 ++ leBytes 4 0xFFFF_FFFF ++ leBytes 8 0xFFFF ++ leBytes 8 0xB7).zipIdx.map fun b => (224 + b.2, b.1)) }

theorem test_meets_BreakpointAndReturn :
    (issuing probe fun c => selected c 0 0 == 0 && selected c 7 0 != 0 && !handlerTakes probe c.g 0x0F && c.eff != 0 && c.g.trapMask.isNone) = true
    ∧ (issuing (probe idle) fun c => c.eff == 0) = true
    ∧ (issuing (probe inHandler) fun c =>
        let fr := (List.range 32).map fun i => Tab.fetch 0 c.g.mb (224 + i)
        c.eff != 0 && c.g.trapMask.isSome && c.sp.mask.toNat == fieldAt fr 8 8 && gmLegal (BitVec.ofNat 64 (fieldAt fr 16 8))
          && fieldAt fr 4 4 == 0xFFFF_FFFF && fieldAt fr 0 4 == 0 && decide (0 < textWords (probe inHandler) c.g)
          && (match launchOf (probe inHandler) c.g with | some l => l.img.live.isEmpty | none => false)) = true := by decide +kernel

theorem test_meets_FenceWords :
    (issuing probe fun c => c.eff != 0 && !good (surfCheck probe c.g.ctx 0 0 3)) = true
    ∧ (issuing probe fun c => c.eff != 0 && !pairedOf probe c.g) = true := by decide +kernel

/-- A 4 × 4 surface of 4-byte texels in context 1, handle 0. -/
def aSurf : Surf :=
  { spill := 0, bmap := 0, xdim := 4, ydim := 4, layers := 1, format := 0x08, gran := 8, samples := 1, gbase := 0, ropEntry := 0, ropLen := 0,
    pinned := false, ctx := 1, gen := 0, clear := List.replicate 16 0, res := 0 }
def withSurf (s : State) : State := { s with surfs := [(0, aSurf)] }

theorem test_meets_FenceWords_surface :
    (issuing (withSurf probe) fun c => c.eff != 0 && good (surfCheck (withSurf probe) c.g.ctx 0 0 3)) = true := by decide +kernel
theorem test_meets_BarrierWord :
    (issuing (probe halves) fun c => c.g.kind != .handler && c.g.trapMask.isNone && (c.g.splits.all fun x => x.2.barWait.isNone)
      && (teamGroups (probe halves) c.g.team).any fun e => e.2.splits.any fun y => !(e.1 == c.key && y.1 == c.si) && y.2.barWait.isNone) = true
    ∧ (issuing probe fun c => Tab.rising probe.groups && Tab.rising c.g.splits && c.g.kind != .handler && c.g.trapMask.isNone && c.g.team != 0 && !pairedOf probe c.g
      && (teamGroups probe c.g.team).all fun e => !e.2.splits.isEmpty && e.2.splits.all fun y => e.1 == c.key && y.1 == c.si) = true
    ∧ (issuing (probe inHandler) fun c => c.g.trapMask.isSome) = true := by decide +kernel
theorem test_meets_BarrierWord_ids :
    let g := fun g : Group => { halves g with splits := (halves g).splits.map fun e => if e.1 = 1 then (1, { e.2 with barWait := some (3, 2) }) else e }
    (issuing (probe g) fun c => c.g.trapMask.isNone && c.g.splits.any fun e => e.2.barWait == some (3, 2)) = true := by decide +kernel

def counting (n k : Nat) (f : Option Rec) (g : Group) : Group := { g with ops := (List.range n).map fun i => ⟨k, i + 1, f.isSome, f⟩ }
def aRec : Rec := { cls := 1, kind := 0, detail := 0, ctx := 1, source := 0, time := 0, addr := 4096, pc := 1, who := 0 }

theorem test_meets_WaitWords_counter :
    (issuing (probe (counting 3 2 none)) fun c => c.eff != 0 && decide ((2#8).toNat < c.g.counter 2) && decide (c.g.counter 2 ≤ (3#8).toNat) && (deferredOf c.g 2).isNone) = true
    ∧ (issuing (probe idle) fun c => c.eff == 0) = true
    ∧ (issuing (probe (counting 1 2 (some aRec))) fun c => c.eff != 0 && decide (c.g.counter 2 ≤ 255) && (match deferredOf c.g 2 with
      | some (_, r) => good (handlerReady (probe (counting 1 2 (some aRec))) c.key c.g r.cls)
      | none => false)) = true := by decide +kernel
theorem test_meets_WaitWords_address :
    (issuing (hostAt (probe (withS 8 65800 ∘ withS 9 0)) 65800 [1]) fun c =>
      let s := hostAt (probe (withS 8 65800 ∘ withS 9 0)) 65800 [1]
      c.eff != 0 && roomy c && (match uniform s c 0 (65800 / 8 * 8) 8 0 with
        | .ok ls => leNat (readHome (settleOwn s c.key ls) ls) == 1
        | .error _ => false)) = true
    ∧ (issuing (probe (withS 8 4096)) fun c => match uniform (probe (withS 8 4096)) c 1 4096 8 0 with
      | .error (.trap _) => true
      | _ => false) = true := by decide +kernel

def lone (s : State) (f : Launch → Launch) : State := { s with launches := [(1, f State.probeLaunch)] }
theorem test_meets_GroupMove :
    (issuing (probe (withS 8 65800)) fun c => c.eff != 0 && !c.g.inRegion && (match uniform (probe (withS 8 65800)) c 0 65800 1 0 with
      | .ok ls => !movable (probe (fun g => { g with harvest := true })) { c.g with harvest := true } && movable (probe (withS 8 65800)) c.g
          && ((nearestCores (probe (withS 8 65800)) (locSlice (probe (withS 8 65800)) (ls.headD ⟨.log, 0⟩))).contains c.g.core
            || ((nearestCores (probe (withS 8 65800)) (locSlice (probe (withS 8 65800)) (ls.headD ⟨.log, 0⟩))).any fun k =>
                 !(freeSlots (probe (withS 8 65800)) k c.g.cls).isEmpty && decide (c.g.regBytes ≤ regsFree (probe (withS 8 65800)) k c.g.cls)))
      | .error _ => false)) = true := by decide +kernel
/-- A queue of 2 entries of 4 bytes at 66,048, its descriptor at 65,984, one entry held. -/
def withQueue (s : State) : State := hostAt s 65984 (leBytes 8 66048 ++ leBytes 8 (1 + 4 * 256) ++ leBytes 8 0 ++ leBytes 8 1)
theorem test_meets_SliceQueueWords :
    (issuing (withQueue (probe (withS 8 65984 ∘ typed tU32))) fun c =>
      let s := withQueue (probe (withS 8 65984 ∘ typed tU32))
      c.eff != 0 && !c.g.inRegion && roomy c && !waitingPush s c.key c.si && good (queueOp s c true true 3 8 5) && good (queueOp s c false true 3 8 5)) = true
    ∧ (issuing (probe (withS 8 65985)) fun c => (c.g.s 8).toNat % 64 != 0 && roomy c && !waitingPush (probe (withS 8 65985)) c.key c.si) = true
    ∧ (issuing (probe (withS 8 65984)) fun c => match uniform (probe (withS 8 65984)) c 0 65984 64 2 with
      | .ok ls => (parseQueue (readHome (probe (withS 8 65984)) ls)).isNone
      | .error _ => false) = true := by decide +kernel

def wanting (ctl : BitVec 64) (a v : BitVec 64) : State := probe (withS 8 77 ∘ withS 10 a ∘ withS 11 v ∘ withS 12 ctl)
def legalWant (k : Nat) : Bool := decide (1 ≤ bits k 15 0) && bits k 31 20 == 0 && decide (1 ≤ bits k 48 32) && decide (bits k 48 32 ≤ 65536) && bits k 63 49 == 0
theorem test_meets_KeywayRequests :
    (issuing (wanting 0x1_0000_0000_0000 0 0) fun c => c.eff != 0 && !c.g.inRegion && decide (c.g.counter 2 < 255) && !legalWant (c.g.s 12).toNat) = true
    ∧ (issuing (wanting 0x1_0000_0000_FFFF 0 0) fun c => legalWant (c.g.s 12).toNat) = true := by decide +kernel
theorem test_meets_KeywayRequests_legal :
    (issuing (wanting 0x0000_1000_0000_0005 8 5) fun c => legalWant (c.g.s 12).toNat && decide ((c.g.s 11).toNat < 0xFFFF_FFFF_FFFF_FF00)
      && (c.g.s 10).toNat % 8 == 0
      && good (regionPlace (wanting 0x0000_1000_0000_0005 8 5) c false 1 0 0x1000 1)
      && decide (((wanting 0x0000_1000_0000_0005 8 5).recs.filter fun r => r.cl == c.g.core / 4).length < 256)) = true
    ∧ (issuing (wanting 0x0000_1000_0000_0005 4 5) fun c => legalWant (c.g.s 12).toNat && (c.g.s 10).toNat % 8 != 0) = true
    ∧ (issuing (wanting 0x0000_1000_0000_0005 8 0xFFFF_FFFF_FFFF_FF00) fun c => legalWant (c.g.s 12).toNat && decide (0xFFFF_FFFF_FFFF_FF00 ≤ (c.g.s 11).toNat)) = true := by
  decide +kernel
/-- Every record of cluster 0 is in use. -/
def fullRecs (s : State) : State :=
  { s with recs := List.replicate 256 { id := 0, cl := 0, ctx := 1, gkey := 9, team := 0, key := 0, dst := 0, dloc := none, cap := 0, cwa := 0, cw := 0, cloc := none, val := 0, scope := 0, trapNever := false, expiry := 0, began := none, owe := none, moved := 0, fault := none, pc := 0, who := 0 } }
theorem test_meets_KeywayRequests_full :
    (issuing (fullRecs (wanting 0x0000_1000_0000_0005 8 5)) fun c => legalWant (c.g.s 12).toNat
      && decide (256 ≤ ((fullRecs (wanting 0x0000_1000_0000_0005 8 5)).recs.filter fun r => r.cl == c.g.core / 4).length)) = true := by decide +kernel

def putting (ctl b : BitVec 64) : State := probe (withS 8 77 ∘ withS 9 65800 ∘ withS 10 ctl ∘ withS 11 b)
/-- The injection queue of cluster 0 holds 32 producers. -/
def fullPort (s : State) : State :=
  { s with kflits := (List.range 32).map fun i => (i, .source { key := 0, ctx := 1, len := 1, ret := 0, backing := 0, gkey := 9, pend := 0, op := 0, cl := 0, pc := 0, who := 0 } 0) }
theorem test_meets_KeywayProducers :
    (issuing (putting 0 0) fun c => c.eff != 0 && roomy c && !c.g.inRegion && decide (c.g.counter 2 < 255) && bits (c.g.s 10).toNat 16 0 == 0) = true
    ∧ (issuing (putting 0x1_0000 127) fun c => bits (c.g.s 10).toNat 16 0 == 65536 && (c.g.s 11).toNat % 128 != 0) = true
    ∧ (issuing (putting 64 128) fun c => bits (c.g.s 10).toNat 16 0 == 64 && bits (c.g.s 10).toNat 23 18 == 0 && bits (c.g.s 10).toNat 63 32 == 0
        && (c.g.s 11).toNat % 128 == 0 && !bit (c.g.s 10).toNat 17 && decide (injHeld (putting 64 128) (c.g.core / 4) < 32)) = true
    ∧ (issuing (fullPort (putting 64 128)) fun c => !decide (injHeld (fullPort (putting 64 128)) (c.g.core / 4) < 32)) = true := by decide +kernel

def sending (t : BitVec 64) : State := probe (withS 8 t ∘ withS 9 65800)
theorem test_meets_MessageSend :
    (issuing (sending 88) fun c => c.eff != 0 && !c.g.inRegion && !decide (bits (c.g.s 8).toNat 6 0 < 88)) = true
    ∧ (issuing (sending (87 + 256 * 2 ^ 16)) fun c => bits (c.g.s 8).toNat 31 25 == 0 && bits (c.g.s 8).toNat 63 40 == 0 && bits (c.g.s 8).toNat 24 16 == 256
        && decide (bits (c.g.s 8).toNat 6 0 < 88) && good (amPeer (sending 87) c 8 0) && good (uniform (sending 87) c 0 65800 256 0)
        && !fqFull (sending 87) (200 + c.g.core) 16 0) = true
    ∧ fqFull (sending 87) 200 16 16 = true := by decide +kernel

/-- A well-formed collective descriptor at 65,792: U32 sum over 8 elements. -/
def withDesc (b : List (BitVec 8)) : State := hostAt (probe (withS 8 65792)) 65792 b
def collDesc : List (BitVec 8) := List.replicate 24 0 ++ leBytes 4 (5 * 256) ++ leBytes 4 8 ++ List.replicate 32 0
theorem test_meets_EngineCommandWords :
    (issuing (probe (withS 8 65793)) fun c => c.eff != 0 && !c.g.inRegion && decide (c.g.counter 1 < 255) && (c.g.s 8).toNat % 64 != 0) = true
    ∧ (issuing (withDesc collDesc) fun c => (c.g.s 8).toNat % 64 == 0 && (match uniform (withDesc collDesc) c 0 65792 64 0 with
      | .ok ls =>
        let r := groupLoad (withDesc collDesc) c.key c.g ls
        (collBad r.2).isNone && decide ((engEntries r.1 (300 + coreQuad r.1 c.g.core)).length < 64)
      | .error _ => false)) = true
    ∧ (issuing (withDesc (leBytes 8 0)) fun c => match uniform (withDesc (leBytes 8 0)) c 0 65792 64 0 with
      | .ok ls => (collBad (groupLoad (withDesc (leBytes 8 0)) c.key c.g ls).2).isSome
      | .error _ => false) = true := by decide +kernel
theorem test_meets_SurfaceWords_texels :
    (issuing (withSurf (probe (typed tU32))) fun c => c.eff != 0 && roomy c && readable c (rowRun 20 2) && readable c (rowRun 10 3)
      && (match texelPlaces (withSurf (probe (typed tU32))) c 20 6 1 0 with
        | .ok (_, ls) => good (touchSurf (withSurf (probe (typed tU32))) 0 ls)
        | .error _ => false)
      && (match wholeSurf (withSurf (probe (typed tU32))) c 0 1 with
        | .ok f => !(List.range f.nt).any (inFlight (withSurf (probe (typed tU32))) 0)
        | .error _ => false)) = true := by decide +kernel
/-- A well-formed surface template: a 4 × 4 surface of format 0x08 at spill 0. -/
def template : List (BitVec 8) := List.replicate 16 0 ++ leBytes 2 4 ++ leBytes 2 4 ++ leBytes 2 1 ++ leBytes 1 0x08 ++ List.replicate 41 0
def pinnedSpill (s : State) : State := { s with hinge := [(0, hMake 1 0 false 1 7)] }
theorem test_meets_SurfaceWords_template :
    (issuing (withDesc template) fun c => (match uniform (withDesc template) c 0 65792 64 0 with
      | .ok ls => (match parseTemplate (groupLoad (withDesc template) c.key c.g ls).2 c.g.ctx 0 with
        | some f => spillBacked (pinnedSpill (withDesc template)) c.g.ctx f
        | none => false)
      | .error _ => false)) = true
    ∧ (issuing (withDesc [1]) fun c => (match uniform (withDesc [1]) c 0 65792 64 0 with
      | .ok ls => (parseTemplate (groupLoad (withDesc [1]) c.key c.g ls).2 c.g.ctx 0).isNone
      | .error _ => false)) = true := by decide +kernel

/-- Row elements of one register: lane `l` of row `r` holds `f l`. -/
def withRow (r : Nat) (f : Nat → BitVec 32) (g : Group) : Group := { g with regs := g.regs ++ (List.range 16).map fun l => (16 * r + l, f l) }
/-- A weight slot of context 1, handle 5, loaded with zeros. -/
def aSlot (f : Nat) : WSlot :=
  { ctx := 1, handle := 5, st := .loaded, fmt := f, units := 64, elems := List.replicate 64 0, scales := [], stored := 0, load := none, pc := 1 }
def withMx (s : State) (f : Mx → Mx) : State := setMx s 0 f
/-- A group whose tags serve an `mma` of a type: accumulators F32, M register of the type. -/
def mmaTags (ty : Nat) (g : Group) : Group :=
  { typed ty g with tags := (List.range 256).map fun r => (r, BitVec.ofNat 5 (if r < 112 then tF32 else ty)) }
def mmaState : State := withMx (probe (mmaTags tBF16)) fun m => { m with slots := [aSlot tBF16] }

theorem test_meets_MatrixWords_mma :
    (issuing mmaState fun c =>
      let sh := shapeOf c.g
      c.eff != 0 && roomy c && mxAdmits c.g.ty && decide (sh.q ≤ c.g.width / 8) && good (mmaRows c sh 0 0) && good (mxSlotCheck mmaState c sh 5)
        && decide (c.g.counter 3 < 255) && (mxOf mmaState 0).tiles.isEmpty && !c.g.harvest) = true
    ∧ (issuing (probe (typed tU8)) fun c => c.eff != 0 && roomy c && !mxAdmits c.g.ty && c.g.ty != tBF16 && c.g.ty != tE4M3) = true
    ∧ (issuing (probe (fun g => { typed tF64 g with gm := (typed tF64 g).gm ||| 0x3_0000_0000 })) fun c =>
        c.eff != 0 && mxAdmits c.g.ty && decide (c.g.width / 8 < (shapeOf c.g).q)) = true := by decide +kernel
theorem test_meets_MatrixWords_mmas :
    let s := withSurf mmaState
    (issuing s fun c =>
      let sh := shapeOf c.g
      c.eff != 0 && c.g.ty == tBF16 && good (mmasRows c sh 0) && good (mxSlotCheck s c sh 5) && (match mmasSurf s c 10 with
        | .ok f => !(mmasPlaces c f 10).isEmpty && (match touchSurf s 0 ((mmasPlaces c f 10).map fun l => (c.low, [l])) with
          | .ok s1 => (mxOf s1 0).tiles.isEmpty
          | .error _ => false)
        | .error _ => false)) = true := by decide +kernel
/-- An `mbld` of a 2-KiB-aligned image of E4M3 (format 0x0D) at 66,048 by handle 5. -/
def loading (f : Mx → Mx) : State := withMx (probe (withS 8 66048 ∘ withS 9 0x0D)) f
theorem test_meets_MatrixWords_mbld :
    (issuing (loading id) fun c => c.eff != 0 && !c.g.harvest && !c.g.inRegion && decide (c.g.counter 3 < 255) && good (mbldSource (loading id) c 0 66048 (slotExtent 0x0D false))
      && (slotOf (mxOf (loading id) 0) 1 5).isNone && decide (slotNeed 0x0D false ≤ (mxOf (loading id) 0).free)
      && !(mxOf (loading id) 0).refs 1 5) = true
    ∧ (issuing (loading fun m => { m with free := slotNeed 0x0D false - 1 }) fun _ => (slotOf (mxOf (loading fun m => { m with free := slotNeed 0x0D false - 1 }) 0) 1 5).isNone) = true
    ∧ (issuing (loading fun m => { m with free := slotNeed 0x0D false - 1, slots := [{ aSlot tBF16 with units := 1 }] }) fun _ => true) = true
    ∧ (issuing (loading fun m => { m with slots := [{ aSlot tBF16 with st := .loading }] }) fun _ => true) = true
    ∧ (issuing (probe (withS 8 66049 ∘ withS 9 0x0D)) fun c => (c.g.s 8).toNat % 128 != 0) = true
    ∧ (issuing (probe (withS 9 0x10)) fun c => !(decide (bits (c.g.s 9).toNat 4 0 ≤ 15))) = true
    ∧ (issuing (probe (fun g => { g with harvest := true })) fun c => c.g.harvest) = true := by decide +kernel

/-- A granted or waiting tile of the slot, with one row of two columns. -/
def aTile (f : Nat) : MTile :=
  { id := 7, word := 6, key := 3, ctx := 1, cls := 2, harvest := false, handle := 5, fmt := f, n := 32, lead := 0, rows := 1, f64 := f == tF64,
    a := List.replicate 8 (List.replicate (mxK f) 0), ascale := [], accKeys := [[0, 1]], accRows := [0], accIn := [[5, 6]], chain := none, issued := 0,
    since := some 0, granted := false, aged := false, dropped := false, surfTiles := [] }
theorem test_meets_MatrixTileResult :
    ((aTile tF64).accIn[0]?.bind (·[1]?)) = some 6 ∧ (aTile tF64).rows.getLsbD 0 = true ∧ ((aTile tF64).a.getD 0 []).length = mxK tF64
      ∧ 1 * mxK tF64 + mxK tF64 ≤ (aSlot tF64).elems.length ∧ (aTile tF64).rows.getLsbD 1 = false := by decide +kernel

/-- One lane is active; the lanes' state records lie 256 bytes apart from 65,536 up, named by v20 and v21. -/
def recorded (g : Group) : Group :=
  { withRow 20 (fun l => BitVec.ofNat 32 (65536 + 256 * l)) (typed tU64 g) with splits := g.splits.map fun e => (e.1, { e.2 with mask := 1 }) }
theorem test_meets_TraversalWords :
    (issuing (probe recorded) fun c => c.eff != 0 && roomy c && !c.g.inRegion && decide (c.g.counter 5 < 255)
      && readable c [⟨0, false, 20, 0, .free⟩, ⟨3, false, 21, 0, .free⟩, ⟨3, false, 22, 0, .free⟩] && (match recPlaces (probe recorded) c 0 20 with
        | .ok (s1, rs) => rs.length == 1 && decide (unitRays s1 0 + rs.length ≤ 2048)
        | .error _ => false)) = true := by decide +kernel
theorem test_meets_BuildWords :
    (issuing (probe (typed tF32)) fun c =>
      c.eff != 0 && decide (c.g.width ≤ 64) && readable c (rowOrder (rowsFrom 0 10 6 0 (.codes [tF32])) (buildSrc 0 16 6 (.codes [tF32])))
        && decide (rowsUp c.g 10 6).Nodup && readable c (opD false 10 :: buildSrc 0 16 6 (.codes [tF32]))
        && readable c (rowOrder (rowsFrom 0 10 2 0 .free) (buildSrc 0 16 3 .free)) && decide (rowsUp c.g 10 2).Nodup) = true
    ∧ (issuing (probe (fun g => { typed tF32 g with tags := Tab.put (typed tF32 g).tags 13 (BitVec.ofNat 5 tU32) })) fun c =>
        readable c (rowOrder (rowsFrom 0 10 3 0 (.codes [tF32]) ++ [⟨3, false, 13, 0, .codes [tU32]⟩, ⟨3, false, 14, 0, .free⟩, ⟨3, false, 15, 0, .free⟩])
          (buildSrc 0 16 6 (.codes [tF32])))) = true := by decide +kernel
theorem test_meets_HitAndRasterWords_thit :
    (issuing (probe (recorded ∘ typed tF64)) fun c => c.eff != 0 && !c.g.inRegion) = true
    ∧ (issuing (probe fun g => { recorded g with tags := (typed tF64 g).tags }) fun c =>
        readable c (⟨1, false, 20, 0, .free⟩ :: opB true 0 12 (.codes [tF64]) :: [⟨3, false, 21, 0, .free⟩])
          && good (recPlaces (probe fun g => { recorded g with tags := (typed tF64 g).tags }) c 0 20)) = true := by decide +kernel
/-- A vertex group's, and a fragment group's, launch and draw. -/
def drawing (k : GroupKind) (f : Group → Group) : State := lone (probe (fun g => { f g with kind := k })) fun l => { l with kind := k, draw := 9 }
def aDraw : Draw :=
  { id := 9, did := 0, ctx := 1, queue := none, desc := List.replicate 64 0, descAddr := 0, targets := [(0, none)], vimg := State.probeLaunch.img,
    fimg := State.probeLaunch.img, cloc := none, gkey := 0, team := 0, pc := 0, vlaunch := 20, flaunch := 1, vdone := [], setup0 := 0, setup1 := 0,
    seq0 := 0, seq1 := 0, ndisp := 0, fcount := 0, accepted := true, started := false }
def withDraw (s : State) (d : Draw) : State := { s with raster := { s.raster with draws := [d] } }
theorem test_meets_HitAndRasterWords_prim :
    (issuing probe fun c => c.eff != 0 && c.g.kind != .vertex && c.g.kind != .fragment) = true
    ∧ (issuing (withDraw (drawing .vertex (typed tF32)) aDraw) fun c => c.g.kind == .vertex && (launchOf (drawing .vertex (typed tF32)) c.g).isSome
      && readable c ((List.range 15).map fun i => ⟨if i = 0 then 0 else 3, false, 0 + i, 0, if i < 12 then .codes [tF32] else .free⟩)
      && primRoom (withDraw (drawing .vertex (typed tF32)) aDraw) 9 c.g.xyz.1 c.lanes.length) = true := by decide +kernel
theorem test_meets_HitAndRasterWords_frag :
    let s := withDraw (withSurf (drawing .fragment (typed tF32))) aDraw
    (issuing s fun c => c.eff != 0 && c.g.kind == .fragment && (s.raster.draws.find? (fun e => e.flaunch == c.g.launch) == some aDraw)
      && (aDraw.targets[0]? == some (0, none)) && (Tab.find s.surfs 0 == some aSurf) && decide (0 + (aSurf.b / 4 + 1) ≤ 111)
      && readable c ((List.range (aSurf.b / 4 + 1 + 1)).map fun i => ⟨if i = 0 then 0 else 3, false, 0 + i, 0, if i = aSurf.b / 4 then .codes [tF32] else .free⟩)
      && (activeQuads s c).all fun q => !q.2.ended.contains 0) = true := by decide +kernel

/-! ### The hypotheses of the statements about events can be met -/

/-- The machine after reset with an empty agenda. -/
def quietOne : State := { State.reset with agenda := [] }
/-- A context 1, its pages at 65,536 known to an engine. -/
def knows (s : State) (eng : Nat) : State :=
  { s with ctxs := [(1, State.probeCtx)], tcache := [{ eng, ctx := 1, va := 65536, size := 4096, t := 65536, r := true, w := true, backed := 0 }], nextId := 100 }
def near7 : BitVec 64 := hMake 1 0 false 1 7

/-- An image with one clause of one word, at 66,048. -/
def anImage : List (BitVec 8) :=
  leBytes 4 0x4D534C42 ++ leBytes 2 1 ++ leBytes 2 0 ++ [16, 1, 16, 0] ++ leBytes 4 16384 ++ leBytes 4 0
    ++ leBytes 8 0x0070_0040_0000_0000 ++ leBytes 8 0x0020_0080_0000_2000 ++ leBytes 8 0x0004_0400_0000_3000 ++ leBytes 8 0x0070_0040_0000_0000
    ++ leBytes 4 128 ++ leBytes 4 8 ++ leBytes 4 256 ++ leBytes 4 12 ++ leBytes 4 384 ++ leBytes 4 0 ++ leBytes 4 384 ++ leBytes 4 0 ++ leBytes 4 0
    ++ List.replicate 40 0 ++ leBytes 4 0 ++ leBytes 4 0 ++ List.replicate 120 0 ++ leBytes 8 0 ++ leBytes 4 0
/-- A draw of it into the surface of handle 0, its descriptor at 65,792 and its target array at 65,856. -/
def drawDesc : List (BitVec 8) :=
  leBytes 8 66048 ++ leBytes 8 66048 ++ leBytes 8 65856 ++ leBytes 8 0 ++ leBytes 8 0 ++ leBytes 4 1 ++ leBytes 4 0 ++ List.replicate 16 0 ++ List.replicate 16 0
def withDrawDesc (s : State) : State := hostAt (hostAt (withSurf s) 65792 drawDesc) 66048 anImage
theorem test_meets_HitAndRasterWords_draw :
    (issuing (withDrawDesc (probe (withS 8 65792))) fun c =>
      let s := withDrawDesc (probe (withS 8 65792))
      c.eff != 0 && !c.g.harvest && (match uniform s c 0 65792 64 0 with
        | .ok _ => (match drawBytes c 65792 64 (releaseAct s c.key c.g.core 5 (pairedOf s c.g)) with
          | (.ok b, s2) => (match readDraw s2 c.g.ctx b (drawBytes c) s2 with
            | (.ok (.ok _), s3) => good (cwPlace s3 c (parseDraw b).cw 0) && decide (s3.raster.draws.length < 16)
            | _ => false)
          | _ => false)
        | .error _ => false)) = true
    ∧ (issuing (probe (withS 8 65793)) fun c => (c.g.s 8).toNat % 64 != 0) = true
    ∧ (issuing (probe fun g => { g with harvest := true }) fun c => c.g.harvest) = true := by decide +kernel

def running (f : BitVec 4) : State := { quietOne with fw := { quietOne.fw with state := f } }
def backed (s : State) : State := { s with hinge := [(0, near7)] }
theorem test_meets_HostRegisterEvents :
    (¬ ((4 = 4 ∨ 4 = 8) ∧ 0x42 % 4 = 0)) ∧ quietOne.fw.state = 0 ∧ (running 3).fw.state = 3 ∧ quietOne.ctxs = [] ∧ (knows quietOne 0).ctxs ≠ []
      ∧ bit quietOne.hb.nbpCtl.toNat 63 = false ∧ bit (2 ^ 63 : BitVec 64).toNat 63 = true ∧ (64#64 : BitVec 64).toNat ≤ 64
      ∧ barBacked quietOne 0 8 = false ∧ barBacked (backed quietOne) 65528 8 = true ∧ barLocked (backed quietOne) 65528 8 = false
      ∧ (∀ i < 8, badLog (backed quietOne) (65528 + i) = none) ∧ (backed quietOne).badCheck = [] ∧ (backed quietOne).cells = [] := by decide +kernel

def hostRuns (op : Nat) (len : BitVec 64) (s : State) : State :=
  { s with hb := { s.hb with hostOp := BitVec.ofNat 64 (2 ^ 63 + op), hostAddr := 65536, hostLen := len } }
/-- Which images are good rests on the hash and the signature, which the model leaves free (log 12). -/
theorem test_meets_HostOperationEvents :
    hostBusy (hostRuns 1 0 quietOne) = true ∧ hostOpNo (hostRuns 1 0 quietOne) = 1 ∧ (hostRuns 1 0 quietOne).cells = []
      ∧ hostOpNo (hostRuns 2 256 (running 4)) = 2 ∧ (running 4).fw.state = 4 ∧ (running 3).fw.state = 3
      ∧ 256 ≤ (256#64).toNat ∧ (256#64).toNat ≤ 256 + 2 ^ 26 ∧ ¬ 256 ≤ (255#64).toNat ∧ hostOpNo (hostRuns 3 0 (running 3)) = 3
      ∧ imageOk quietOne.fw [] = false := by decide +kernel

def hinging (op frame : Nat) (d : BitVec 64) (f : State → State) : State :=
  f { quietOne with hub0 := { Hub.reset with cmd := BitVec.ofNat 64 (2 ^ 63 + op * 2 ^ 52 + frame), data := d } }
def used7 (s : State) : State := { s with inUse := [useMark 7 0] }
def entry2 (e : BitVec 64) (s : State) : State := { s with hinge := [(2, e)] }
theorem test_meets_HingeEvents_install :
    hingeOpen (hinging 1 2 (2 ^ 62) id) 0 1 = true ∧ (2 ^ 62 : BitVec 64).toNat / 2 ^ 62 ≠ 0
      ∧ hingeOpen (hinging 1 2 (hMake 0 0 false 1 7) id) 0 1 = true ∧ hingeBad (hinging 1 2 (hMake 0 0 false 1 7) id) 0 0x2FFF_0000_07FF_FFFF = false
      ∧ hState (hingeOf (hinging 1 2 (hMake 0 0 false 1 7) id) 2) = 0 ∧ windowOf (2 * 65536) = 0 ∧ hTier (hMake 0 0 false 1 7) = 0
      ∧ hTier (hMake 0 1 false 1 7) = 1 ∧ hingeBad (hinging 1 2 (hMake 0 1 false 1 7) id) 0 0x2FFF_0000_07FF_FFFF = false
      ∧ frameExists (hinging 1 2 (hMake 0 0 false 1 7) id) 0 7 = true ∧ frameUsed (hinging 1 2 (hMake 0 0 false 1 7) id) 0 7 = false
      ∧ frameUsed (hinging 1 2 (hMake 0 0 false 1 7) used7) 0 7 = true ∧ frameExists quietOne 0 3137408 = false ∧ hPfn (hMake 0 0 false 1 3137408) = 3137408
      ∧ hState (hingeOf (hinging 1 2 0 (entry2 near7)) 2) = 1 := by decide +kernel
theorem test_meets_HingeEvents_others :
    hingeOpen (hinging 2 2 0 (entry2 near7)) 0 2 = true ∧ hingeBad (hinging 2 2 0 (entry2 near7)) 0 (BitVec.allOnes 64) = false
      ∧ hState (hMake 2 0 false 1 7) = 2 ∧ hingeOpen (hinging 3 2 5 id) 0 3 = true ∧ hingeOpen (hinging 6 2 5 id) 0 6 = true
      ∧ hingeOpen (hinging 4 2 7 id) 0 4 = true ∧ hingeBad (hinging 4 2 7 id) 0 0x2000_0000_07FF_FFFF = false ∧ frameExists quietOne 0 (hPfn 7) = true
      ∧ hingeOpen (hinging 5 2 9 id) 0 5 = true ∧ hingeBad (hinging 5 2 9 id) 0 0xF = false ∧ hingeBad (hinging 5 2 8 id) 0 0xF = false
      ∧ hingeBusy (hinging 3 2 0 id) 0 = true ∧ bit Hub.reset.tier.toNat 1 = false := by decide +kernel
/-- A frame of far memory, so that a far frame can be donated: a CXL window of 16 frames. -/
def farOpen (s : State) : State := { s with hb := { s.hb with cxl := [(0, BitVec.ofNat 64 (2 ^ 63 + 16))] } }
def moving (e : BitVec 64) : State := { entry2 e quietOne with hub0 := { Hub.reset with moves := [(2, 9, 0)], zeroing := [7] } }
theorem test_meets_HingeEvents_moves :
    frameExists (farOpen quietOne) 1 15 = true ∧ frameExists (farOpen quietOne) 1 16 = false ∧ moveOf (moving (hMake 2 0 true 1 7)) 0 2 = some (2, 9, 0)
      ∧ hState (hingeOf (moving (hMake 2 0 true 1 7)) 2) = 2 ∧ (hubOf (moving near7) 0).zeroing = [7] ∧ 0 + 40000 ≤ max quietOne.time 40000
      ∧ (quietOne.badCheck ++ quietOne.poison) = [] ∧ (moving (hMake 2 0 true 1 7)).memWf = true := by decide +kernel

def aWho (eng need : Nat) : XWho := { eng, ctx := 1, key := 7, va := 65536, need, asked := false }
def oneReq (page : Bool) (need : Nat) : XReq := { pasid := 1, va := 65536, need, page, who := [aWho 100 need] }
def hubWith (r : XReq) : State := { knows quietOne 101 with hub0 := { Hub.reset with reqs := [r] } }
theorem test_meets_TranslationEvents :
    Tab.find (knows quietOne 101).ctxs 1 = some State.probeCtx ∧ engStack (knows quietOne 101) 100 = 0 ∧ tlookup (knows quietOne 101) 100 1 65540 = none
      ∧ hubEntry Hub.reset 1 65540 = none ∧ hubCount Hub.reset false < 4096 ∧ Hub.reset.waiting = [] ∧ (hubOf (hubWith (oneReq false 3)) 0).reqs = [oneReq false 3]
      ∧ aWho 101 3 ∉ (oneReq false 3).who ∧ pageSizeOk 4096 = true ∧ permits true true 3 = true ∧ 65536 + 4096 ≤ (hubWith (oneReq false 3)).hb.bar4
      ∧ (hubOf (hubWith (oneReq true 1)) 0).reqs = [oneReq true 1] ∧ engStack (knows quietOne 101) 116 = 1 := by decide +kernel

def aQueue : Queue :=
  { ring := 65536, prog := 0, ctx := 1, level := 0, log2n := 4, vec := 16, tail := 1, progress := 0, nextCmd := 0, on := true, err := 0, started := [],
    active := true, stopping := false, dying := false, entered := 0, served := 0, dirty := false, bell := none }
def queued (x : Queue) : State := { knows quietOne engQm with queues := [(5, x)], hb := { quietOne.hb with qtable := 1 } }
def qctl (op : Nat) (s : State) : State := { s with hb := { s.hb with qctl := BitVec.ofNat 64 (2 ^ 63 + op * 2 ^ 32 + 5) } }
/-- Entry 5 of the queue table at 0, in a backed frame. -/
def entry5 (s : State) : State :=
  { backed s with near := State.withFetchWord.putBytes s.near (7 * 65536 + 160)
                    (leBytes 8 65536 ++ leBytes 8 0 ++ leBytes 2 1 ++ leBytes 1 0 ++ leBytes 1 4 ++ leBytes 2 16 ++ List.replicate 10 0) }
theorem test_meets_QueueEvents_table :
    qctlBusy (qctl 1 (queued aQueue)) = true ∧ qctlQueue (qctl 1 (queued aQueue)) = 5 ∧ queueOn (qctl 1 (queued aQueue)) 5 = true
      ∧ queueOn (qctl 1 (knows quietOne engQm)) 5 = false ∧ (readEntry (qctl 1 (entry5 (knows quietOne engQm))) 5).isSome = true
      ∧ readEntry (qctl 1 (knows quietOne engQm)) 5 = none ∧ queueOf (qctl 2 (queued { aQueue with stopping := true })) 5 = some { aQueue with stopping := true }
      ∧ qctlOp (qctl 2 (queued aQueue)) = 2 ∧ bits (qctl 2 (queued aQueue)).hb.qctl.toNat 55 48 = 0 ∧ aQueue.idle = true := by decide +kernel
def command (op : Nat) (rest : List (BitVec 8)) : List (BitVec 8) := leBytes 8 op ++ rest ++ List.replicate (56 - rest.length) 0
def aCmd (op : Nat) (rest : List (BitVec 8)) : Cmd := { idx := 0, bytes := command op rest, begun := false, ran := false, done := false, since := 0 }
theorem test_meets_QueueEvents_doorbell :
    let x := { aQueue with tail := 0 }
    queueOf (queued x) 5 = some x ∧ (x.progress ≤ 16 ∧ 16 ≤ x.progress + 2 ^ x.log2n ∧ x.tail ≤ 16) ∧ ¬ 17 ≤ x.progress + 2 ^ x.log2n
      ∧ candidate (hostAt (queued aQueue) 65536 (command 6 [])) aQueue = true ∧ (hostAt (queued aQueue) 65536 (command 6 [])).hb.qtable.toNat % 2 = 1 ∧ aQueue.holdsBack = false
      ∧ (match engBytes engQm 1 (queueKey 5) 65536 64 (hostAt (queued aQueue) 65536 (command 6 [])) with
          | (.ok b, s1) => b == command 6 [] && !cmdBad b && mayStart s1 aQueue b && queueOf s1 5 == some aQueue
          | _ => false) = true := by decide +kernel
/-- The queue's one command has started and its event stands first. -/
def started (c : Cmd) : State :=
  hostAt (hostAt { withSurf (queued { aQueue with nextCmd := 1, started := [c] }) with qcur := [(5, 0)] } 65792 drawDesc) 66048 anImage
theorem test_meets_QueueEvents_commands :
    let w := aCmd 5 (leBytes 8 66040 ++ leBytes 8 7 ++ leBytes 8 100 ++ [0])
    (curCmd (started w)).isSome = true ∧ (waitOf { aQueue with started := [w] } = some w) ∧ waitMet w 7 = true ∧ waitMet w 0 = false
      ∧ (match engCheck (started w) engQm 1 (queueKey 5) 1 ((List.range 8).map (w.a + ·)) with | .ok _ => true | _ => false) = true
      ∧ (match engCheck (started w) engQm 1 (queueKey 5) 2 ((List.range 16).map (w.a + ·)) with | .ok _ => true | _ => false) = true
      ∧ fieldAt w.bytes 0x18 8 = 100 ∧ (hostEngine (started w)).isSome = true ∧ w.idx = aQueue.progress
      ∧ (match surfCheck (started w) 1 0 1 3 with | .ok f => decide (0 < f.bytes) && (List.range f.nt).all fun j => !inFlight (started w) 0 j | .error _ => false) = true := by
  decide +kernel
theorem test_meets_QueueEvents_resync :
    (match bufferPages ({ queued aQueue with tcache := [{ eng := engQm, ctx := 1, va := 2 ^ 30, size := 2 ^ 30, t := 2 ^ 30, r := true, w := true, backed := 0 }] }) 1 (queueKey 5) (2 ^ 30) resyncSize with
      | .ok _ => true
      | _ => false) = true := by decide +kernel
theorem test_meets_QueueEvents_launch_draw :
    let s := started (aCmd 1 (leBytes 8 66048))
    (match readImage (fun va n => engBytes engQm 1 (queueKey 5) (va % 2 ^ 64) n) 66048 s with
      | (.ok (some i), _) => decide (i.constSize ≤ 0) && admits { State.probeCtx with slotSize := 65536 } i 1 1 1 && !i.coop
      | _ => false) = true
    ∧ (match engBytes engQm 1 (queueKey 5) 65792 64 s with
      | (.ok b, s2) => (match readDraw s2 1 b (fun va n => engBytes engQm 1 (queueKey 5) (va % 2 ^ 64) n) s2 with
          | (.ok (.ok _), s3) => decide ((parseDraw b).cw = 0) && s3.raster.draws.isEmpty
          | _ => false)
      | _ => false) = true := by decide +kernel
theorem test_meets_QueueEvents_salloc :
    let s := pinnedSpill (hostAt (queued aQueue) 65792 template)
    (match engBytes engQm 1 (queueKey 5) 65792 64 s with
      | (.ok b, s2) => (match parseTemplate b 1 0 with
          | some f => spillBacked s2 1 f
          | none => false)
      | _ => false) = true := by decide +kernel

def ctxRuns (op : Nat) (s : State) : State := { s with hb := { s.hb with ctxCtl := BitVec.ofNat 64 (2 ^ 63 + op * 2 ^ 40 + 1) } }
/-- A context descriptor for context 1 at 256, of the context table at 0, in a backed frame. -/
def descriptor (s : State) : State :=
  { backed s with near := State.withFetchWord.putBytes s.near (7 * 65536 + 256)
                    (leBytes 4 9 ++ leBytes 4 0 ++ List.replicate 40 0 ++ [6, 0] ++ leBytes 2 16 ++ leBytes 8 0 ++ leBytes 4 1) }
theorem test_meets_ContextEvents_bind :
    ctxBusy (ctxRuns 1 quietOne) = true ∧ ctxNo (ctxRuns 1 quietOne) = 1 ∧ Tab.find (ctxRuns 1 (knows quietOne 0)).ctxs 1 ≠ none
      ∧ Tab.find (ctxRuns 1 (descriptor quietOne)).ctxs 1 = none ∧ (ctxRuns 1 (descriptor quietOne)).ctxs = []
      ∧ (parseCtx (logBytes (ctxRuns 1 (descriptor quietOne)) 256 256)).map (·.pasid) = some 9
      ∧ (∃ e ∈ ([(2, { State.probeCtx with pasid := 9 })] : Tab Ctx), e.2.pasid = 9)
      ∧ ctxHeld (ctxRuns 2 probe) 1 = true ∧ ctxHeld (ctxRuns 2 (knows quietOne 0)) 1 = false ∧ ctxOp (ctxRuns 6 (knows quietOne 0)) = 6
      ∧ (knows quietOne 0).teams = [] ∧ ctxLeft (ctxRuns 6 (knows quietOne 0)) 1 = true := by decide +kernel
theorem test_meets_ContextEvents_launches :
    namedLaunches (ctxRuns 4 quietOne) = [] ∧ namedLaunches (ctxRuns 4 probe) = [(1, State.probeLaunch)] ∧ probe.raster.draws = []
      ∧ (∀ e ∈ probe.teams, e.2.resident = true) ∧ (∀ e ∈ probe.groups ++ probe.saved, resumeNamed (ctxRuns 5 probe) e.2 = false)
      ∧ (Tab.find (ctxRuns 5 (probe fun g => { g with park := .standing })).groups 3).any (resumeNamed (ctxRuns 5 (probe fun g => { g with park := .standing }))) = true
      ∧ (ctxRuns 8 quietOne).teams = [] ∧ (ctxRuns 8 probe).teams = [(2, State.probeTeam)] ∧ State.probeTeam.tid = bits (ctxRuns 8 probe).hb.ctxData1.toNat 47 0
      ∧ killDone { quietOne with killing := [(1, none)] } (1, none) = true := by decide +kernel
/-- The launch has a team to place. -/
def toPlace : State := { knows quietOne 0 with launches := [(1, { State.probeLaunch with nextTeam := 0 })] }
theorem test_meets_ContextEvents_placement :
    waiting toPlace = [{ level := 0, lk := 1, tid := 0, team := none }] ∧ (Tab.find toPlace.launches 1).isSome = true ∧ (Tab.find toPlace.ctxs 1).isSome = true
      ∧ (chooseCore toPlace 1 State.probeLaunch.img false 3).isSome = true := by decide +kernel
def lockedTile : State := setMx { probe with ctxs := [(1, State.probeCtx)] } 0 fun m => { m with tiles := [{ aTile tBF16 with granted := true }] }
/-- A context of class 3 whose team lies on core 0, and a waiting launch of context 1. -/
def starving : State :=
  let s := probe
  { s with ctxs := [(1, State.probeCtx), (2, { State.probeCtx with prio := 3 })], launches := [(1, { State.probeLaunch with ctx := 2 }), (9, { State.probeLaunch with nextTeam := 0, since := some 0 })] }
theorem test_meets_ContextEvents_preemption :
    Tab.find probe.teams 2 = some State.probeTeam ∧ State.probeTeam.draining = none ∧ teamLocked probe 2 = false
      ∧ (teamGroups probe 2).any (fun e => !intact e.2) = true ∧ teamLocked lockedTile 2 = true
      ∧ (starvationVictim starving (ctxPrio starving 1) State.probeLaunch.img false).isSome = true ∧ 0 + 20000 ≤ max probe.time 20000
      ∧ (∃ w ∈ waiting starving, w.lk = 9)
      ∧ (coreInfo { probe with cores := [(0, ⟨true⟩)] } 0).hot = true := by decide +kernel
theorem test_meets_ContextEvents_save :
    let s : State := { probe with ctxs := [(1, { State.probeCtx with nslot := 1, slotSize := 65536 })],
                                  tcache := [{ eng := engQm, ctx := 1, va := 0x60_0000, size := 0x20_0000, t := 0x60_0000, r := true, w := true, backed := 0 }] }
    let s3 := ((teamGroups s 2).map (·.1)).foldl quiesce (setTeam s 2 fun t => { t with saving := true })
    (match Tab.find s.ctxs 1 with
      | some c => (teamGroups s3 2).all (fun e => quiet s3 2 e.1 e.2) && freeTeamSlot s3 1 c == some 0 && saveAddr c 0 == 0x60_0000
          && (match engCheck s3 engQm 1 (saveKey 2) 2 [saveAddr c 0, saveAddr c 0 + 100] with
            | .ok _ => true
            | _ => false)
      | none => false) = true := by decide +kernel
theorem test_meets_ContextEvents_harvest :
    let t := { State.probeTeam with harvest := true }
    harvestTeams { probe with teams := [(2, t)] } 0 (fun t => match Tab.find probe.launches t.launch with
      | some l => l.ctx == 1
      | none => false) = [(2, t)] ∧ t.scratch = 0 ∧ tileWords { probe with teams := [(2, t)] } 3 = []
    ∧ (coreInfo quietOne 87).hot ≠ true ∧ (∀ e ∈ probe.groups, e.2.core / 4 ≠ 21) ∧ (clusterInfo quietOne 21).emptied + 10000000 ≤ max 0 10000000
    ∧ (clusterInfo quietOne 0).measured + 7200000000000 ≤ max 0 7200000000000 := by decide +kernel

def anAtom : AtomReq := { loc := ⟨.log, 64⟩, z := 4, fop := false, op := 0, ty := tU32, x := 1, y := 0, sat := false, rnd := 0 }
def aReq (k : SReqKind) : SReq := { id := 9, key := 3, core := 0, ctx := 1, dev := 0, src := 512, seq := 7, lane := 0, kind := k, ret := none, here := true, waiting := false }
def sent (k : SReqKind) : State := { quietOne with sreqs := [aReq k], nextId := 100 }
def aFrame (dst leg : Nat) : Frame := { id := 9, cls := .request, src := 1, dst, flits := 1, leg }
theorem test_meets_FabricEvents_requests :
    let t := sent (.atom anAtom)
    t.sreqs = [aReq (.atom anAtom)] ∧ t.reroute = none ∧ t.stations = [] ∧ t.links = [] ∧ t.fqueues = [] ∧ t.frames = [] ∧ t.marks = []
      ∧ (aReq (.atom anAtom)).here = true ∧ (aReq (.ord ⟨.log, 64⟩ 0 1)).ret = none
      ∧ (aFrame ((aReq (.atom anAtom)).station t) 0).dst = (aReq (.atom anAtom)).station { t with frames := [aFrame ((aReq (.atom anAtom)).station t) 0] }
      ∧ ({ slice := (aReq (.atom anAtom)).slice quietOne, dev := 0, src := 512, seq := 7, time := 0 } : Mark).seq = (aReq (.atom anAtom)).seq := by decide +kernel
def dirtyLine (e : BitVec 64) : State := { quietOne with hinge := [(0, e)], slices := [(511, { data := 5, dirty := 3, ctx := 1 })] }
theorem test_meets_FabricEvents_lines :
    (l1Get quietOne 87 false 7).isNone = true ∧ quietOne.l1 = [] ∧ quietOne.slices.length < sliceLeast ∧ frameLost (dirtyLine near7) 511 = false ∧ quietOne.sreqs = [] ∧ quietOne.cells = []
      ∧ (dirtyLine 0).badCheck = [] ∧ (dirtyLine 0).heldWb = [] ∧ (dirtyLine 0).slices.all (fun e => e.2.dirty != 0) = true ∧ (Tab.find (dirtyLine near7).slices 511).isSome = true
      ∧ hState (hingeOf (dirtyLine near7) (511 / 512)) = 1 ∧ hState (hingeOf (dirtyLine 0) 0) = 0 ∧ windowOf (128 * 511) ≠ 4 := by decide +kernel
def waitingFrame (mark : Option Nat) : State := { quietOne with frames := [aFrame 2 0], stations := [(1, ⟨64, mark, false⟩)] }
theorem test_meets_FabricEvents_stations :
    stationExists 1 = true ∧ deadStation (waitingFrame none) 1 = false ∧ waitingAt (waitingFrame none) 1 = [aFrame 2 0]
      ∧ (waitingFrame none).reroute = none ∧ (stationOf (waitingFrame none) 1).mark = none ∧ (stationOf (waitingFrame (some 5)) 1).mark.isSome = true
      ∧ fabricWhole (waitingFrame (some 5)) = true ∧ slotKept (waitingFrame (some 5)) (aFrame 2 0) = false ∧ stationExists 2 = true ∧ neighbours 1 2 = true
      ∧ Tab.fetch 0 quietOne.beats (128 * 1 + 2) < 2 ∧ 2 ≤ Tab.fetch 0 ([(130, 2)] : Tab Nat) (128 * 1 + 2)
      ∧ (4 : Nat) < 5 ∧ Tab.fetch 0 quietOne.links (16 * 1 + 4) = 0 ∧ Tab.fetch 0 ([(20, 15)] : Tab Nat) (16 * 1 + 4) = 15 := by decide +kernel
def aMsg (id : Nat) : Msg := { id, ctx := 1, core := 0, any := false, target := 0, handler := 0, peer := 0, away := none, data := [], bad := [], scope := 0, paired := false }
/-- A message in a buffer of station 1 wants a cluster whose queue of 64 is full. -/
def blocked : State :=
  { quietOne with outMsgs := [aMsg 99], frames := [{ id := 99, cls := .message, src := 1, dst := 1, flits := 1, leg := 1 }],
                  msgQ := (List.range 64).map fun i => (0, aMsg i), fqueues := [(10002, ⟨some 0, false, false⟩)], time := 1000 }
theorem test_meets_FabricEvents_pawls :
    fqBlocked blocked 10002 = some 100 ∧ (fqOf blocked 10002).since = some 0 ∧ 0 + 512 ≤ fabricNow blocked
      ∧ ({ origin := 200, atq := 200, hops := 3 } : Pawl).atq = 200 ∧ (fqOf blocked 200).spent = false ∧ (fqOf { blocked with fqueues := [(200, ⟨none, true, false⟩)] } 200).spent = true
      ∧ (fqBlocked { blocked with pawls := [] } 10002) = some 100 := by decide +kernel
def aCopy : EngCmd :=
  { id := 9, eng := 100, desc := List.replicate 64 0, descAddr := 0, value := 0, scope := 0, ctx := 1, key := 0, core := 0, launch := 0, team := 0, member := (0, 0), pc := 0, who := 0,
    queue := some (5, 0), cls := 0, sloc := none, dloc := none, cloc := none, tiles := [], moved := 0, paid := true, failed := none }
theorem test_meets_FabricEvents_copy :
    cmdOf { quietOne with engCmds := [aCopy] } 9 = some aCopy ∧ runs { quietOne with engCmds := [aCopy] } aCopy = true ∧ aCopy.desc ≠ []
      ∧ (parseCopy aCopy.desc).cw = 0 ∧ cmdOf { quietOne with engCmds := [{ aCopy with failed := some (1, 0, 64) }] } 9 = some { aCopy with failed := some (1, 0, 64) } := by
  decide +kernel
def portsUp (s : State) : State := { s with hb := { s.hb with ports := [(0, portWord true 7 0), (11, portWord true 7 0)] } }
theorem test_meets_FabricEvents_peers :
    bit (portOf (portsUp quietOne) 11).toNat 63 = true ∧ portRetry (portOf (portsUp quietOne) 11) < 2 ^ 31
      ∧ (∃ k < 12, k ≠ 11 ∧ bit (portOf (portsUp quietOne) k).toNat 63 = true ∧ portRemote (portOf (portsUp quietOne) k) = portRemote (portOf (portsUp quietOne) 11)
          ∧ deadStation (portsUp quietOne) (peerStation k) = false)
      ∧ (backed (portsUp quietOne)).cells = [] ∧ (backed (portsUp quietOne)).poison = [] ∧ (backed (portsUp quietOne)).slices.length < sliceLeast
      ∧ hState (hingeOf (backed (portsUp quietOne)) (64 / 65536)) = 1 ∧ crc16 (List.replicate 64 0) ≠ 0
      ∧ (markRoom (backed (portsUp quietOne)) (homeSlice quietOne 64) 7 1).isSome = true ∧ seenSeq quietOne (homeSlice quietOne 64) 7 1 5 = false
      ∧ seenSeq { quietOne with marks := [{ slice := homeSlice quietOne 64, dev := 7, src := 1, seq := 5, time := 0 }] } (homeSlice quietOne 64) 7 1 5 = true := by decide +kernel
theorem test_meets_FabricEvents_resume :
    let t : State := { sent (.atom anAtom) with reroute := some (0, [9]), frames := [aFrame ((aReq (.atom anAtom)).station quietOne) 0] }
    t.reroute = some (0, [9]) ∧ t.interests = [] ∧ t.stations = [] ∧ t.kflits = [] ∧ t.engCmds = [] ∧ (Tab.find t.groups 3).isNone = true
      ∧ (let u : State := { t with stations := [((aReq (.atom anAtom)).station quietOne, ⟨0, none, true⟩)] }
         deadStation u ((aReq (.atom anAtom)).station u) = true ∧ [9].contains (aReq (.atom anAtom)).id = true) := by decide +kernel

def flying (f : KFlit) : State := { quietOne with kflits := [(9, f)], nextId := 100 }
def aTileOf (k ret : Nat) : Tile := { key := k, ctx := 1, data := [1, 2], bad := [], len := 2, ret, backing := 0, cl := 0 }
def anEntry (wp k exp : Nat) (l : Bool) : Interest := { wp, key := k, ctx := 1, expiry := exp, ret := [1], locals := l, fwd := none }
theorem test_meets_KeywayEvents_interest :
    let at5 := keyStation 5
    flitOf (flying (.interest at5 1 1 5 1 100)) 9 = some (.interest at5 1 1 5 1 100) ∧ liveAt (flying (.interest at5 1 1 5 1 100)) at5 5 1 = []
      ∧ deadStation quietOne at5 = false ∧ tileAt { quietOne with tiles := [(keyHome 5, aTileOf 5 2)] } 5 1 = some (aTileOf 5 2) ∧ 1 < (aTileOf 5 2).ret
      ∧ arrived (bringFrame (flying (.interest at5 1 1 5 1 100)) 9) 9 = true ∧ deadStation quietOne 1 = false ∧ at5 ≠ 1 ∧ (quietOne.interests.filter fun e => e.wp == 1).length < 1024
      ∧ 1024 ≤ ((List.replicate 1024 (anEntry 1 6 100 false)).filter fun e => e.wp == 1 && decide (0 < e.expiry)).length
      ∧ (anEntry 1 5 50 false).live quietOne 1 5 1 = true ∧ (anEntry 1 5 50 false).expiry < 100 ∧ (9 : Nat) < (flying (.refresh 1 5 1 100)).nextId := by decide +kernel
def aPut (ret : Nat) : KPut := { key := 5, ctx := 1, len := 2, ret, backing := 0, gkey := 0, pend := 0, op := 0, cl := 0, pc := 0, who := 0 }
theorem test_meets_KeywayEvents_tiles :
    flitOf (flying (.put (aPut 2) [1, 2] [])) 9 = some (.put (aPut 2) [1, 2] []) ∧ unreadBefore (flying (.put (aPut 2) [1, 2] [])) 0 9 = false
      ∧ deadStation quietOne (keyStation 5) = false ∧ deadStation quietOne ((aPut 2).station quietOne) = false
      ∧ arrived (bringFrame (flying (.put (aPut 2) [1, 2] [])) 9) 9 = true ∧ (aPut 2).gkey = 0 ∧ ({ aPut 2 with gkey := 3 } : KPut).gkey ≠ 0
      ∧ (tileAt { quietOne with tiles := [(keyHome 5, aTileOf 5 2)] } 5 1).isSome = true ∧ tileAt quietOne 5 1 = none ∧ dirAt quietOne 5 1 = none
      ∧ isClosed quietOne 5 1 = false ∧ storeUsed quietOne (keyHome 5 / 16) + 2 ≤ storeSize quietOne (keyHome 5 / 16)
      ∧ (flying (.tile 1 5 1 [1] [] 0)).recs = [] ∧ liveAt { flying (.tile 1 5 1 [1] [] 0) with interests := [anEntry 1 5 50 false] } 1 5 1 = [anEntry 1 5 50 false]
      ∧ (match engCheck { knows quietOne (100 + 4 * (keyHome 5 / 16)) with kflits := [(9, .refetch 5 1 65600 2 [1])] } (100 + 4 * (keyHome 5 / 16)) 1 9 1 [65600, 65601] with
          | .ok _ => true
          | _ => false) = true
      ∧ (∃ slice, slice < 128 ∧ slice ∉ [127, 3]) ∧ (127 : Nat) ∈ [127, 3] ∧ (List.range 127).length = 127 ∧ 127 ∉ List.range 127 := by decide +kernel
theorem test_meets_KeywayEvents_record :
    let r : KRec := { id := 9, cl := 0, ctx := 1, gkey := 3, team := 0, key := 5, dst := 0, dloc := none, cap := 2, cwa := 0, cw := 0, cloc := none, val := 0, scope := 0,
                      trapNever := false, expiry := 50, began := none, owe := none, moved := 0, fault := none, pc := 0, who := 0 }
    recOf { quietOne with recs := [r] } 9 = some r ∧ r.expiry ≤ max quietOne.time 50 := by decide +kernel

def messages (q : List (Nat × Msg)) : State := { knows quietOne 200 with outMsgs := [aMsg 9], msgQ := q }
theorem test_meets_MessageEvents_arrival :
    ctxResident (messages []) 1 = true ∧ fqFull (messages []) 100 64 0 = false ∧ fqFull (messages []) 100 64 64 = true ∧ ctxResident quietOne 1 = false
      ∧ (aMsg 9).cluster = 0 ∧ (aMsg 9).away = none ∧ deadStation (messages []) ((aMsg 9).station (messages [])) = false
      ∧ arrived (bringFrame (messages []) 9) 9 = true ∧ (aMsg 9).bad = [] := by decide +kernel
/-- A handler table at 65,536 whose entry 0 heads a kind-4 clause at 65,600. -/
def handling : State :=
  let s := { messages [(0, aMsg 9)] with tcache := (messages []).tcache.map fun e => { e with eng := engStation 0 }, ctxs := [(1, { State.probeCtx with htab := 65536 })] }
  hostAt (hostAt s 65536 (leBytes 8 (65600 + 1))) 65600 (leBytes 4 (4 * 2 ^ 28))
theorem test_meets_MessageEvents_dispatch :
    (handlerCore handling (aMsg 9)).isSome = true ∧ (match engCheck handling (engStation 0) 1 9 1 ((List.range 8).map (65536 + ·)) with
      | .ok ls => decide (leNat (readHome handling ls) % 2 = 1)
      | _ => false) = true
    ∧ (match engCheck handling (engStation 0) 1 9 1 ((List.range 4).map (65600 + ·)) with
      | .ok hs => decide (headerKind (BitVec.ofNat 32 (leNat (readHome handling hs))) ≤ 7)
      | _ => false) = true
    ∧ (Tab.find (probe fun g => { g with kind := .handler, deadline := 1000 }).groups 3).any (fun g => g.kind == .handler && decide (g.deadline ≤ max 0 1000)) = true := by
  decide +kernel
def aQop (v : List (Nat × BitVec 64)) : QOp :=
  { push := true, nb := false, desc := ⟨.host, 65984⟩, ring := [⟨.host, 66048⟩], off := 0, esize := 4, cap := 2, vals := v, rows := [], split := 0, clause := none, scope := 0 }
theorem test_meets_MessageEvents_queue :
    let s := withQueue quietOne
    (aQop [(0, 5)]).vals.length ≤ (aQop [(0, 5)]).avail s ∧ (aQop [(0, 5), (1, 6)]).avail s < (aQop [(0, 5), (1, 6)]).vals.length
      ∧ cutOff s (aQop [(0, 5)]).desc = false ∧ (aReq (.queue (aQop [(0, 5)]))).here = true ∧ (aReq (.queue (aQop [(0, 5)]))).waiting = false
      ∧ (let t : State := { s with sreqs := [{ aReq (.queue (aQop [(0, 5)])) with here := false }] }
         arrived (bringFrame t 9) 9 = true ∧ sliceFull (bringFrame t 9) ((aReq (.queue (aQop [(0, 5)]))).slice t) = false) := by decide +kernel

def oneTile (x : MTile) (now : Nat) (f : Mx → Mx) : State :=
  { setMx quietOne 0 (fun m => f { m with slots := [aSlot tBF16], tiles := [x], banks := [(0, (1, 0))] }) with cycles := [(0, now)], ctxs := [(1, State.probeCtx)] }
theorem test_meets_EngineEvents_matrix :
    let x := { aTile tBF16 with word := 6 }
    let s := oneTile x 3 id
    (mxOf s 0).tiles = [x] ∧ eligible (mxOf s 0) x = true ∧ (slotOf (mxOf s 0) x.ctx x.handle).isSome = true ∧ x.since = some 0
      ∧ mxNow s 0 < 0 + 4096 ∧ x.issued + 3 ≤ mxNow s 0 ∧ (mxOf s 0).used + passUnits [x] ≤ (mxOf s 0).budget
      ∧ (mxOf (oneTile x 3 fun m => { m with budget := 0 }) 0).budget < (mxOf (oneTile x 3 fun m => { m with budget := 0 }) 0).used + passUnits [x] ∧ x.cls ≠ 0
      ∧ 0 + 4096 ≤ mxNow (oneTile x 4096 id) 0 ∧ (mxOf s 0).clock + 1024 ≤ mxNow (oneTile x 1024 id) 0 ∧ (mxOf s 0).bound 2 = false
      ∧ (bankVictim (oneTile { x with ctx := 2 } 3 fun m => { m with banks := [(0, (1, 0)), (1, (3, 0))] }) 0 2).isSome = true
      ∧ ctxHarvest s 1 = false := by decide +kernel
theorem test_meets_EngineEvents_load :
    let ld : WLoad := { addr := 0, inSp := true, comp := false, key := 3, op := 5, core := 0, who := 0 }
    let w : WSlot := { aSlot tF64 with st := .loading, load := some ld }
    (match imgAll (setMx quietOne 0 fun m => { m with slots := [w] }) 0 1 tF64 { ld with comp := false } with
      | .inr (ls, _, _, _) => poisonedAt quietOne (ls.take 4) == []
      | .inl _ => false) = true := by decide +kernel
def tileWaiting : State := { probe (fun g => { g with want := some (.tile 0 0), park := .service }) with surfs := [(0, aSurf)], ctxs := [(1, { State.probeCtx with squota := 2 ^ 30 })] }
theorem test_meets_EngineEvents_surfaces :
    (Tab.find tileWaiting.surfs 0 = some aSurf) ∧ (restoreTile tileWaiting 0 0).2 = 0 ∧ aSurf.nt = 1 + 1 ∧ (tslotOf tileWaiting 0 0).isNone = true
      ∧ tileAsked tileWaiting 0 0 = true ∧ (freeCol tileWaiting (tileHome aSurf 0).1 (tileHome aSurf 0).2 aSurf.k).isSome = true := by decide +kernel
/-- The banks of the waiting tile hold one other tile and no free column. -/
def tileBlocked : State :=
  { tileWaiting with surfs := [(0, aSurf), (1, aSurf)],
                     tslots := [{ handle := 1, tile := 0, stack := (tileHome aSurf 0).1, group := (tileHome aSurf 0).2, col := 0, k := bankCols, last := 9 }] }
theorem test_meets_EngineEvents_eviction :
    let h := tileHome aSurf 0
    (List.range aSurf.nt).find? (fun x => tileHome aSurf x == h && (tslotOf tileWaiting 0 x).isNone && tileAsked tileWaiting 0 x) = some 0
      ∧ (List.range aSurf.nt).find? (fun x => tileHome aSurf x == h && (tslotOf tileBlocked 0 x).isNone && tileAsked tileBlocked 0 x) = some 0
      ∧ freeCol tileBlocked h.1 h.2 aSurf.k = none ∧ (spaceVictim tileBlocked [] h.1 h.2).isSome = true
      ∧ spaceVictim { tileBlocked with surfs := [(0, aSurf)] } [] h.1 h.2 = none := by decide +kernel
def aRay (b : List (BitVec 8)) (f : Trav → Trav) : Ray :=
  { id := 9, cl := 0, key := 3, ctx := 1, lane := 0, loc := ⟨.host, 65536⟩, addr := 65536, replay := false, start := true, elem := 0, row := 0, pend := 5, op := 5, pc := 1, who := 0,
    prog := f (parseTrav b), status := none, fault := none, team := 0 }
theorem test_meets_EngineEvents_others :
    (engEntries { quietOne with engCmds := [{ aCopy with eng := 801 }] } 801).head? = some { aCopy with eng := 801 }
      ∧ (let r := aRay (List.replicate 256 0) fun t => { t with resuming := true }
         degenerate r.prog = true ∧ r.prog.resuming = true ∧ r.start = true ∧ r.status = none)
      ∧ degenerate (parseTrav (List.replicate 24 0 ++ leBytes 4 0x3F80_0000 ++ leBytes 4 0x3F80_0000 ++ leBytes 4 0x3F80_0000 ++ List.replicate 220 0)) = false := by decide +kernel

def aPrim : Prim := { draw := 9, vgroup := 0, verts := List.replicate 12 0, idx := [0, 1, 2], left := [0, 1] }
/-- A triangle that covers the surface's first pixels, 24.8 fixed in F32. -/
def bigPrim : Prim :=
  { aPrim with verts := [0, 0, 0, 0x3F80_0000, 0x4080_0000, 0, 0, 0x3F80_0000, 0, 0x4080_0000, 0, 0x3F80_0000] }
def drawState (d : Draw) (ps : List Prim) (qs : List Quad) (ts : List Ticket) : State :=
  { withSurf quietOne with raster := { draws := [d], prims := ps, quads := qs, tickets := ts, hiz := [] }, ctxs := [(1, State.probeCtx)],
                           launches := [(1, { State.probeLaunch with kind := .fragment, draw := 9 })] }
def aDrawDesc : List (BitVec 8) := drawDesc.take 0x30 ++ List.replicate 4 0 ++ leBytes 2 4 ++ leBytes 2 4 ++ List.replicate 8 0
theorem test_meets_RasterEvents_setup :
    let d := { aDraw with started := true, desc := aDrawDesc }
    (setupDraw (drawState d [aPrim] [] []) 0).isSome = true ∧ (setupPrim 0 aPrim).isNone = true
      ∧ (setupDraw (drawState d [bigPrim] [] []) 0).isSome = true ∧ (setupPrim 0 bigPrim).isSome = true ∧ (d.surf (drawState d [] [] [])).isSome = true
      ∧ setupDraw (drawState d [] [] []) 0 = none ∧ quadsAt (drawState d [] [] []) 0 .raster = [] ∧ aDraw.accepted = true ∧ aDraw.started = false := by decide +kernel
def aQuad (p : QuadAt) : Quad :=
  { id := 30, stack := 0, draw := 9, seq := 0, x := 0, y := 0, cover := [1, 1, 1, 1], zs := [], z := [], l1 := [], l2 := [], idx := [0, 1, 2], place := p,
    since := 0, ended := [] }
theorem test_meets_RasterEvents_quads :
    let d := { aDraw with started := true, desc := aDrawDesc }
    (nextHeld (drawState d [] [aQuad .held] []) [] (quadsAt (drawState d [] [aQuad .held] []) 0 .held)).isSome = true
      ∧ (drawOf (drawState d [] [] []) 9).isSome = true ∧ quadsAt (drawState d [] [aQuad .packing] []) 0 .packing = [aQuad .packing]
      ∧ ctxOn (drawState d [] [] []) 1 = true ∧ d.fimg.width / 4 = 4 ∧ rasterNow (drawState d [] [] []) < (aQuad .packing).since + 64
      ∧ (aQuad .packing).since + 64 ≤ rasterNow { drawState d [] [] [] with time := 64 }
      ∧ (chooseCore (drawState d [] [aQuad .packing] []) 1 d.fimg false 88).isSome = true := by decide +kernel
def aTicket (s a n : Bool) : Ticket :=
  { id := 31, bank := 0, draw := 9, seq := 0, quad := 30, target := 0, sample := 0, col := 0, handle := 0, tile := 0, sent := s, arrived := a, null := n, mask := 0,
    colour := [], depth := [] }
theorem test_meets_RasterEvents_rop :
    let d := { aDraw with started := true, desc := aDrawDesc }
    let s := drawState d [] [aQuad .group] [aTicket true true false]
    nextEntry 0 s [] s.raster.tickets = some (aTicket true true false) ∧ (aTicket true true false).null = false ∧ (drawOf s 9).isSome = true
      ∧ (s.raster.quads.find? fun x => x.id == 30) = some (aQuad .group) ∧ Tab.find s.surfs 0 = some aSurf
      ∧ nextEntry 0 (drawState d [] [] [aTicket true true true]) [] [aTicket true true true] = some (aTicket true true true) := by decide +kernel
theorem test_meets_RasterEvents_full :
    let d := { aDraw with started := true, desc := aDrawDesc }
    let q := (List.range 64).map fun i => { aQuad .held with id := i }
    let full : List Ticket := (List.range 192).flatMap fun b => List.replicate 256 { aTicket true true false with bank := b }
    let s := drawState d [] (q ++ [aQuad .raster]) (full.filter fun t => (ticketsFor (drawState d [] [] []) d (aQuad .held)).any fun k => k.1 == t.bank)
    (nextHeld s [] (quadsAt s 0 .held)).isNone = true ∧ (quadsAt s 0 .held).length = 64 ∧ quadsAt s 0 .raster ≠ [] ∧ fqFull s 300 64 64 = true := by decide +kernel
theorem test_meets_RasterEvents_end :
    (aTicket true false false).sent = true ∧ (aTicket true true true).null = true ∧ drawKilled (drawState aDraw [] [] []) aDraw = false
      ∧ drawOver (drawState aDraw [] [] []) aDraw = false
      ∧ (let d := { aDraw with started := true, desc := aDrawDesc, queue := some (5, 0), vdone := [0], setup0 := 1, setup1 := 1 }
         drawOver (drawState d [] [] []) d = true ∧ (parseDraw d.desc).cw = 0 ∧ d.queue = some (5, 0)) := by decide +kernel

theorem test_meets_IssueEvents_choice :
    slotGroups probe 87 7 = [] ∧ clusterTicks probe 21 = true ∧ clusterTicks probe 0 = true
      ∧ clusterTicks { probe with clusters := [(0, { clusterInfo probe 0 with ceiling := 1200 })] } 0 = false ∧ (let s := probe fun g => { g with islot := 7 }
      (slotGroups s 0 7).length = 1 ∧ (Tab.find s.groups 3).any (fun g => !g.killed && g.waits.isEmpty && decide (g.passed < 1024) && groupReady s g && decide (g.splits.length = 1)
        && g.splits.all fun e => decide (e.2.passed < 64)) = true)
    ∧ (Tab.find probe.groups 3).any (fun g => groupReady probe g && g.splits.all fun e => splitReady g { e.2 with passed := 64 }) = true := by decide +kernel
def atHead (w : Nat) (e : Bool) : State :=
  let s := hostAt (probe fun g => { g with splits := g.splits.map fun x => (x.1, { x.2 with pc := 0, clause := none, entry := e }) }) 65536 (leBytes 4 w)
  { s with icache := Tab.put s.icache (2 ^ 40) (BitVec.ofNat 32 w) }
def fetched (s : State) : Option (BitVec 32) :=
  match Tab.find s.groups 3 with
  | some g => match fetchWord s 3 g 0 with
    | .ok (_, w) => some w
    | .error _ => none
  | none => none
theorem test_meets_IssueEvents_header :
    (fetched (atHead 0 false)).map headerKind = some 0 ∧ (fetched (atHead 0 false)).isSome = true
      ∧ (Tab.find (atHead 0 false).groups 3).any (fun g => groupRuns (atHead 0 false) g && g.splits.all (fun e => atHeader g e.2) && g.never.isEmpty && waitClear g 0) = true
      ∧ (Tab.find (probe fun g => { g with tumblers := [(0, 1)] }).groups 3).any (fun g => !waitClear g 1) = true
      ∧ ((List.range 8).map fun k => headerKind (BitVec.ofNat 32 (k * 2 ^ 28))).any (6 ≤ ·) = true := by decide +kernel
theorem test_meets_IssueEvents_others :
    (Tab.find (probe fun g => { g with susp := some 0 }).groups 3).any (fun g => g.susp == some 0 && g.park == .none && teamGoes probe g && g.splits.all fun e => e.2.clause.isSome) = true
      ∧ (Tab.find probe.groups 3).any (fun g => (ctxOf { probe with ctxs := [(1, { State.probeCtx with wdog := 1 })] } g).isSome && g.kind != .handler
          && decide (g.lastIssue + 1 * 1000000 ≤ max 0 1000000)) = true
      ∧ waitHolds 0 5 5 = true ∧ waitHolds 0 5 6 = false ∧ 0 + 10 ≤ max 0 10 ∧ ¬ (10 ≠ 0 ∧ 0 + 10 ≤ max 0 9) := by decide +kernel

/-! ### The hypotheses of the statements about the whole machine can be met -/

theorem test_meets_NopAndScalarImmediates : (issuing probe fun c => c.eff != 0) = true ∧ (0#32).toNat < 2 ^ 25 := by decide +kernel
theorem test_meets_EmptyMaskAndOperandTraps :
    (issuing (probe idle) fun c => c.eff == 0) = true ∧ (encode (.add 6 0 4 1 3)).isSome = true
      ∧ (issuing (probe (typed tI64)) fun c => c.eff != 0 && tInt c.g.ty && (([opD true 32, opA true 0 1 .arith, opB true 0 2 .arith].find? fun o => o.bad c.g).map (·.det) == some 0)
        && !tFloat c.g.ty) = true
      ∧ (issuing (probe fun g => { g with gm := BitVec.ofNat 64 (7 + 16 * tU32), tags := [(1, BitVec.ofNat 5 tF32)] }) fun c =>
          tInt c.g.ty && (([opD false 3, opA false 0 1 .arith, opB false 0 2 .arith].find? fun o => o.badTag c.g).map (·.det) == some 1)) = true := by decide +kernel
theorem test_meets_TakingAFault :
    (Tab.find probe.groups 3).any (fun g => !handlerTakes probe g 8 && g.kind == .ordinary) = true
      ∧ (Tab.find (probe fun g => { g with kind := .handler, team := 0 }).groups 3).any (fun g => g.kind == .handler && g.team == 0) = true := by decide +kernel
/-- The context's trap entry is the text's first word, a kind-5 header. -/
def trapReady : State :=
  let s := hostAt probe 65536 (leBytes 4 (5 * 2 ^ 28))
  { s with icache := Tab.put s.icache (2 ^ 40) (BitVec.ofNat 32 (5 * 2 ^ 28)), ctxs := [(1, { State.probeCtx with trapEntry := 65536, trapMask := 0x100 })] }
theorem test_meets_TakingAFault_handler :
    (Tab.find trapReady.groups 3).any (fun g => handlerTakes trapReady g 8 && trapOffset trapReady g == some 0 && (fetched trapReady).isSome) = true := by decide +kernel
theorem test_meets_DecodeEncode : wfReason (.add 6 0 4 1 3) = none ∧ encode (.add 6 0 4 1 3) = some 0x40180883 ∧ wfReason (.sadd 3 1 127) = none := by decide +kernel
theorem test_meets_StepRunsTheDecodedWord :
    (match probe.issue, Tab.find probe.groups 3 with
      | some sel, some g => sel.key == 3 && (Tab.find g.splits sel.split).isSome && (match fetchWord probe 3 g 1 with
          | .ok (_, w) => (match decode w with
            | .ok _ => true
            | .error _ => false)
          | .error _ => false)
      | _, _ => false) = true
    ∧ State.reset.issue = none ∧ State.reset.agenda = [.deviceReset] ∧ quietOne.agenda = [] := by decide +kernel
theorem test_meets_EveryStepGoesOn : State.reset.issue = none ∧ encode .deviceReset = none := by decide +kernel
theorem test_meets_StepKeepsMemoryForm :
    (hostAt probe 4 [1]).memWf = true ∧ (hostAt probe 4 [1]).host.isEmpty = false ∧ (match step (hostAt probe 4 [1]) with
      | .next t => t.memWf
      | _ => false) = true := by decide +kernel

/-! ### Further clauses of the statements above -/

theorem test_meets_FenceWords_room :
    let s : State := { probe with l1 := [{ core := 0, surf := false, line := 512, data := 7, dirty := 3, ctx := 1, poison := 0, bad := 0 }] }
    (issuing s fun c => c.eff != 0 && !readsOut s c.key c.g && s.sreqs.isEmpty && s.cells.isEmpty && s.stations.isEmpty
      && decide (s.slices.length + (s.l1.filter fun e => e.core == 0 && e.dirty != 0).length < sliceLeast)) = true
    ∧ (let w : State := { probe with sreqs := [aReq (.queue { aQop [(0, 5)] with push := false })] }
       issuing w fun c => readsOut w c.key c.g) = true := by decide +kernel
theorem test_meets_SliceQueueWords_room :
    windowHas probe 0 0 512 = true
    ∧ windowHas { probe with respWin := List.replicate 64 { slice := 0, dev := 0, src := 512, seq := 1, val := 0 } } 0 0 512 = false
    ∧ (let s : State := { withQueue (probe (withS 8 65984)) with stations := [(ioStation 0, ⟨0, none, true⟩)] }
       issuing s fun c => match uniform s c 0 65984 64 2 with
         | .ok ls => (firstBad (touchPlaces (ownFirst s c.key c.g.core ls) c.g.ctx ls) ls).isSome
         | .error _ => false) = true := by decide +kernel
def quadGroup (g : Group) : Group := { typed tF32 g with quads := [(9, 30, 0)] }
theorem test_meets_HitAndRasterWords_quads :
    let s := withDraw (withSurf (drawing .fragment quadGroup)) aDraw
    let t : State := { s with raster := { s.raster with quads := [aQuad .group], tickets := [aTicket false false false] } }
    (issuing t fun c => (activeQuads t c).length == 1 && (fragTarget t c.g 0 == some aSurf) && (activeQuads t c).all (fun e => !e.2.ended.contains 0)
      && decide (111 < 111 + aSurf.b / 4)) = true := by decide +kernel
theorem test_meets_HostRegisterEvents_store :
    (64#64 : BitVec 64).setWidth 7 = 64#7 ∧ quietOne.slices.length < sliceLeast ∧ quietOne.tiles.all (fun e => e.1 / 16 ≠ 4) = true := by decide +kernel
theorem test_meets_HostOperationEvents_cut :
    hostCut quietOne = false ∧ hostCut { quietOne with stations := [(ioStation 0, ⟨0, none, true⟩)] } = true
      ∧ vecMasked { quietOne.hb with msixTab := [(9, 0)] } 4 = false
      ∧ vecMasked { quietOne.hb with msixTab := [(9, BitVec.ofNat 64 (2 ^ 32))] } 4 = true ∧ writingFlash quietOne = false
      ∧ writingFlash { hostRuns 2 256 quietOne with agenda := [.hostopComplete], fw := { quietOne.fw with flash := [1] } } = true := by decide +kernel
theorem test_meets_QueueEvents_waiting :
    bit { queued aQueue with hb := quietOne.hb }.hb.qtable.toNat 0 = false ∧ bit (queued aQueue).hb.qtable.toNat 0 = true ∧ aQueue.on = true
      ∧ vecMasked { quietOne.hb with msixTab := [(33, 0)] } aQueue.vec = false := by decide +kernel
def withPeer (s : State) (k : Nat) : State :=
  { s with ctxs := [(1, { State.probeCtx with peerTab := 65536 })] , tcache := [{ eng := engQm, ctx := 1, va := 65536, size := 4096, t := 65536, r := true, w := true, backed := 0 }],
           host := State.withFetchWord.putBytes s.host (65536 + 16 * k) (leBytes 8 0 ++ leBytes 2 7 ++ leBytes 2 3 ++ leBytes 4 1) }
theorem test_meets_FabricEvents_named :
    peerNamed (withPeer (portsUp quietOne) 2) engQm 1 65536 7 3 255 = some 2 ∧ peerNamed (withPeer (portsUp quietOne) 2) engQm 1 65536 7 4 255 = some 0
      ∧ (withPeer (portsUp quietOne) 2).xfaults = [] ∧ (withPeer (portsUp quietOne) 2).stations = [] := by decide +kernel
theorem test_meets_KeywayEvents_alone :
    let s := flying (.interest (keyStation 5) 1 1 5 1 100)
    let p := flying (.put (aPut 2) [1, 2] [])
    interestsWith (bringFrame s 9) 9 = [9] ∧ earlierPuts (bringFrame p 9) 0 (keyHome 5) 9 = bringFrame p 9 := by decide +kernel
theorem test_meets_MessageEvents_table :
    State.probeCtx.htab = 0 ∧ (match Tab.find handling.ctxs 1 with
      | some c => c.htab != 0
      | none => false) = true
    ∧ (match engCheck handling (engStation 0) 1 9 1 ((List.range 8).map (65536 + ·)) with
      | .ok ls => (engRead handling (engStation 0) 1 ls).2.2 == []
      | _ => false) = true
    ∧ windowRoom quietOne (aReq (.queue (aQop [(0, 5)]))) 0 = true := by decide +kernel
theorem test_meets_IssueEvents_ready :
    (Tab.find probe.groups 3).any (fun g => watched probe g && !recWaits probe g && g.splits.all fun e => !pastText probe g e.2) = true := by decide +kernel
theorem test_meets_EngineEvents_records :
    firstBad quietOne ((⟨.host, 65536⟩ : Loc).span 256) = none ∧ (queueOf (queued aQueue) 5).any (queueRuns (queued aQueue)) = true := by decide +kernel

/-! ### Ill-formed terms: the check refuses each, and decoding refuses its word by the same name (R66) -/

def refuses (i : Instr) (e : DecodeError) : Bool :=
  wfReason i == some e && (match encode i with
    | some w => (match decode w with
      | .error d => d == e
      | .ok _ => false)
    | none => false)

theorem test_refuses_scalarDst : refuses (.sadd 64 0 0) .scalarDst && refuses (.sysr 127 0 0) .scalarDst = true := by decide +kernel
theorem test_refuses_vectorDst : refuses (.add 112 0 0 0 0) .vectorDst && refuses (.vmovS 111 0 0) .vectorDst = true := by decide +kernel
theorem test_refuses_pattern : refuses (.add 0 1 112 0 0) .pattern && refuses (.vrel 0 3 127 0) .pattern = true := by decide +kernel
theorem test_refuses_subfunction : refuses (.cvt 0 0 0 17) .subfunction && refuses (.atom 0 0 0 0 8 0) .subfunction = true := by decide +kernel
theorem test_refuses_reserved : refuses (.sysr 0 1 0) .reserved && refuses (.sysr 0 4 28) .reserved = true := by decide +kernel
theorem test_refuses_scope : refuses (.bar 1 0) .scope && refuses (.fence 7 0) .scope = true := by decide +kernel
theorem test_refuses_nonBlocking : refuses (.kwant 0 0 0 1) .nonBlocking && refuses (.gemitPrim 0 0 7) .nonBlocking = true := by decide +kernel
theorem test_refuses_register : refuses (.kwant 60 0 0 0) .register && refuses (.cpy 3 0 0 0 0) .register = true := by decide +kernel
theorem test_refuses_segment : refuses (.st 0 4 0 0 0) .segment && refuses (.trav 0 2) .segment = true := by decide +kernel
theorem test_refuses_mset : refuses (.mset 1 17) .mset && refuses (.mget 0 9) .mset = true := by decide +kernel
theorem test_refuses_condition : refuses (.scmp 10 0 0 0) .condition && refuses (.waita 0 0 0 0 3 0 0) .condition = true := by decide +kernel
theorem test_refuses_operand : refuses (.psetLt 0 65) .operand && refuses (.sld 0 0 3) .operand = true := by decide +kernel
/-- Opcode 0x7F, and a word of `ret` with one further bit. -/
theorem test_refuses_noRow : decode 0xFE000000 = .error .noRow ∧ decode 0x09C00001 = .error .noRow := by decide +kernel

/-! ### Words of each family, from the encodings of the spec -/

theorem test_decode_worked_examples :
    ∀ e ∈ ([(0xB814C400, Instr.ld 5 1 1 4 0), (0x1619159E, .slih 6 0x1159E), (0x9AA02801, .cvtb 40 0 20 1), (0x9CC85000, .cvtq 50 0 40 0)] : List (BitVec 32 × Instr)),
      decode e.1 = .ok e.2 := by decide +kernel
/-- R398, R403: opcode, predicate, inversion, offset. -/
theorem test_decode_control : decode (0b0000001#7 ++ 0b010#3 ++ 0b1#1 ++ 0b1_1111_1111_1111_1111_1110#21) = .ok (.bra 2 1 0x1FFFFE)
    ∧ decode (0b0000110#7 ++ 0b111#3 ++ 0b0#1 ++ 0#21) = .ok (.exit 7 0) := by decide +kernel
/-- R234, R235. -/
theorem test_decode_fences : decode (0b1100110#7 ++ 0#7 ++ 0b101#3 ++ 0#4 ++ 0b10#2 ++ 0#9) = .ok (.fence 5 2)
    ∧ decode (0b1100111#7 ++ 0#7 ++ 0b010#3 ++ 0#11 ++ 0b1111#4) = .ok (.bar 2 15) := by decide +kernel
/-- R164, R138, R197. -/
theorem test_decode_engines : decode (0b1101111#7 ++ 0b0001000#7 ++ 0b110#3 ++ 0b1#1 ++ 0b011#3 ++ 0b111#3 ++ 0#8) = .ok (.amsend 8 6 1 3 7)
    ∧ decode (0b1110001#7 ++ 0b0001000#7 ++ 0b010#3 ++ 0b0#1 ++ 0b000#3 ++ 0b001#3 ++ 0#8) = .ok (.coll 8 2 0 0 1)
    ∧ decode (0b1110010#7 ++ 0b0001000#7 ++ 0b010#3 ++ 0b0#1 ++ 0b000#3 ++ 0b000#3 ++ 0#8) = .ok (.nbx 8 2 0 0 0) := by decide +kernel
/-- R304, R311. -/
theorem test_decode_matrix : decode (0b1110100#7 ++ 0b0000001#7 ++ 0b00#2 ++ 0b0000010#7 ++ 0b00#2 ++ 0b0000101#7) = .ok (.mma 1 2 5)
    ∧ decode (0b1110110#7 ++ 0b0001000#7 ++ 0b011#3 ++ 0#4 ++ 0b01#2 ++ 0b00#2 ++ 0b0000101#7) = .ok (.mbld 8 3 1 5) := by decide +kernel
/-- R200, R363. -/
theorem test_decode_surfaces_raster : decode (0b1110011#7 ++ 0b0001000#7 ++ 0#7 ++ 0b010100#6 ++ 0b00010#5) = .ok (.salloc 8 20)
    ∧ decode (0b1111101#7 ++ 0b0001000#7 ++ 0#7 ++ 0b010#3 ++ 0b1#1 ++ 0#7) = .ok (.frag 8 2 1) := by decide +kernel
/-- R272, R274, R254. -/
theorem test_decode_system : decode (0b0001101#7 ++ 0b0000#4 ++ 0b011#3 ++ 0b1#1 ++ 0b001#3 ++ 0b0#1 ++ 0b010#3 ++ 0b0#1 ++ 0b0_0000_0001#9) = .ok (.pmov 3 1 1 0 2 1)
    ∧ decode (0b0001111#7 ++ 0b0000101#7 ++ 0#6 ++ 0b010#3 ++ 0b0_0001_0111#9) = .ok (.sysr 5 2 23)
    ∧ decode (0b1011000#7 ++ 0b0000011#7 ++ 0b00#2 ++ 0b0000001#7 ++ 0b0_0000_0101#9) = .ok (.vred 3 0 1 5) := by decide +kernel

/-! ### Single words (values by hand from the rules named) -/

def lane (g : Group) (r l : Nat) : Nat := (g.elem r l).toNat
def setRow (r : Nat) (v : BitVec 32) (g : Group) : Group := withRow r (fun _ => v) g

/-- R271: the spec's own sequence builds 0x1234_5678_9ABC. -/
theorem test_slih : after (.slih 6 0x9ABC) (probe (withS 6 0x123_0000_0000)) (fun _ g => g.s 6 == BitVec.ofNat 64 (0x123_0000_0000 * 2 ^ 18 + 0x9ABC)) = true := by decide +kernel
theorem test_sli_sign : after (.sli 6 0x3FFFE) probe (fun _ g => g.s 6 == -2) = true := by decide +kernel
theorem test_ssub_wraps : after (.ssub 3 64 65) probe (fun _ g => g.s 3 == BitVec.allOnes 64) = true := by decide +kernel
/-- R260: without SAT an unsigned sum wraps, lane by lane; four elements to a row. -/
theorem test_add_wraps : after (.add 3 0 1 0 2) (probe (setRow 1 0x01FF_00FF ∘ setRow 2 0x0101_0101 ∘ typed tU8)) (fun _ g => lane g 3 15 == 0x0200_0100) = true := by
  decide +kernel
theorem test_mulh_signed : after (.mulh 3 0 1 0 2) (probe (setRow 1 0xFFFF_FFFF ∘ setRow 2 2 ∘ typed tI32)) (fun _ g => lane g 3 0 == 0xFFFF_FFFF) = true := by decide +kernel
/-- R18, R284: 1 + 2 is 3. -/
theorem test_fadd : after (.fadd 3 0 1 0 2) (probe (setRow 1 0x3F80_0000 ∘ setRow 2 0x4000_0000 ∘ typed tF32)) (fun _ g => lane g 3 7 == 0x4040_0000) = true := by
  decide +kernel
/-- A source that is also the destination: 3 × 3 + 3 = 12. -/
theorem test_ffma_same : after (.ffma 3 0 3 0 3) (probe (setRow 3 0x4040_0000 ∘ typed tF32)) (fun _ g => lane g 3 0 == 0x4140_0000) = true := by decide +kernel
/-- R61, R62: TYPE is gm bits 8 to 4. -/
theorem test_mset_type : after (.mset 1 11) (probe (typed tRAW)) (fun _ g => g.ty == 11) = true := by decide +kernel
/-- R51: a write to p7 is discarded. -/
theorem test_p7 : after (.pset 7 0) probe (fun _ g => g.pred 7 == g.pred 7 ||| 0xFFFF) = true := by decide +kernel
/-- R398: the lanes of p1 go to the target, the others on. -/
theorem test_bra_divides : after (.bra 1 0 4) (probe (withP1 0x000F)) (fun _ g => decide (g.splits.length = 2)) = true := by decide +kernel
/-- R403: the group ends with its last lane. -/
theorem test_exit_ends : (match exec (.exit 7 0) probe with
    | .next t => (Tab.find t.groups 3).isNone
    | _ => false) = true := by decide +kernel
/-- R67: an illegal word faults with class 0x08 and nothing else of it happens; with no handler the group stands. -/
theorem test_fault_stands : after (.add 3 0 1 0 2) (probe (typed tF32)) (fun _ g => g.park == .standing && lane g 3 0 == 0) = true := by decide +kernel
/-- R466: with an empty flash the device reset's step ends in recovery, STATE 4. -/
theorem test_reset_recovers : (match step State.reset with
    | .next t => t.fw.state == 4 && t.agenda.isEmpty
    | _ => false) = true := by decide +kernel

end Sys2Proof.Tests
end

section
/-! The registers of BAR0 under the operations of memory, fabric, fault queues and host queues: most leave them alone; a retired
parked cell is counted in `cellRetired` (R232), and a vector is signalled or made pending (R448). -/
namespace Sys2Proof.Machine

/-- What every round of a loop leaves as it was stands after the loop. -/
theorem foldl_same {α β : Type} (p : State → β) (f : State → α → State) (h : ∀ s x, p (f s x) = p s) (l : List α) (s : State) :
    p (l.foldl f s) = p s :=
  foldl_keeps (fun t => p t = p s) f l s rfl fun t ht x _ => (h t x).trans ht

/-! ### Check values and slices -/

@[simp] theorem setPoison_hb (s : State) (x : Loc) (p : Bool) : (setPoison s x p).hb = s.hb := rfl
@[simp] theorem poisonPlaces_hb (s : State) (ls : List Loc) : (poisonPlaces s ls).hb = s.hb :=
  foldl_same State.hb _ (fun _ _ => setPoison_hb ..) _ s
@[simp] theorem sectorRec_hb (s : State) (ctx cls : Nat) (l : Loc) : (sectorRec s ctx cls l).hb = s.hb := rfl
@[simp] theorem carrySector_hb (s : State) (x y : Loc) : (carrySector s x y).hb = s.hb := rfl
@[simp] theorem dropLines_hb (s : State) (p : Nat → Bool) : (dropLines s p).hb = s.hb := rfl
@[simp] theorem setHub_hb (s : State) (st : Nat) (h : Hub) : (setHub s st h).hb = s.hb := by unfold setHub; split <;> rfl
@[simp] theorem touchCount_hb (s : State) (f : Nat) : (touchCount s f).hb = s.hb := by simp [touchCount]

@[simp] theorem chargeCut_hb (s : State) (ctx : Nat) (ls : List Loc) : (chargeCut s ctx ls).hb = s.hb := by
  unfold chargeCut
  split
  · rfl
  · exact foldl_same State.hb _ (fun _ _ => sectorRec_hb ..) _ s

@[simp] theorem verifyPlaces_hb (s : State) (ctx : Nat) (ls : List Loc) : (verifyPlaces s ctx ls).hb = s.hb := by
  unfold verifyPlaces
  split
  · rfl
  · exact foldl_same State.hb _ (fun _ _ => by split <;> rfl) _ s

@[simp] theorem setFrameByte_hb (s : State) (la : Nat) (b : BitVec 8) : (setFrameByte s la b).hb = s.hb := by
  simp only [setFrameByte]
  split
  · rfl
  · split <;> rfl

@[simp] theorem flushBytes_hb (s : State) (line : Nat) (l : SLine) : (flushBytes s line l).hb = s.hb := by
  simp only [flushBytes]
  split
  · exact foldl_same State.hb _ (fun _ _ => sectorRec_hb ..) _ s
  · rw [foldl_same State.hb _ (fun s i => by split <;> simp), foldl_same State.hb _ (fun s x => by split <;> rfl)]
    split <;> simp

@[simp] theorem giveUpLine_hb (s : State) (slice : Nat) : (giveUpLine s slice).hb = s.hb := by
  unfold giveUpLine
  split
  · rfl
  · split <;> simp

@[simp] theorem sliceRoom_hb (s : State) (slice : Nat) : (sliceRoom s slice).hb = s.hb := by
  unfold sliceRoom
  split <;> simp

@[simp] theorem fillSector_hb (s : State) (x : Loc) : (fillSector s x).hb = s.hb := by
  unfold fillSector
  split
  · rfl
  · split <;> rfl

@[simp] theorem fillSlice_hb (s : State) (line : Nat) : (fillSlice s line).hb = s.hb := by
  simp only [fillSlice]
  split
  · rfl
  · split
    · rw [foldl_same State.hb _ fillSector_hb]; simp
    · simp

@[simp] theorem fillLines_hb (s : State) (ls : List Loc) : (fillLines s ls).hb = s.hb := foldl_same State.hb _ fillSlice_hb _ s

@[simp] theorem mergePlaces_hb (s : State) (ctx : Nat) (ls : List Loc) : (mergePlaces s ctx ls).hb = s.hb := by
  simp only [mergePlaces]
  split
  · simp
  · rw [foldl_same State.hb, fillLines_hb, chargeCut_hb]
    intro s x
    split
    · rfl
    · split <;> rfl

/-! ### Bytes at their homes -/

@[simp] theorem putSliceByte_hb (s : State) (ctx la : Nat) (b : BitVec 8) : (putSliceByte s ctx la b).hb = s.hb := by
  simp only [putSliceByte]
  split
  · simp
  · split <;> simp

@[simp] theorem putHostByte_hb (s : State) (t : Nat) (b : BitVec 8) : (putHostByte s t b).hb = s.hb := by
  unfold putHostByte
  split <;> rfl

@[simp] theorem putRaw_hb (s : State) (ctx : Nat) (host : Bool) (a n v : Nat) : (putRaw s ctx host a n v).hb = s.hb := by
  induction n generalizing s a v with
  | zero => rfl
  | succ n ih =>
    rw [putRaw, ih]
    split <;> simp

@[simp] theorem roundCell_hb (s : State) (c : Cell) : (roundCell s c).hb = s.hb := by
  simp only [roundCell]
  split <;> simp

@[simp] theorem retireCell_hb (s : State) (c : Cell) : (retireCell s c).hb = s.hb := roundCell_hb _ c

@[simp] theorem retireAt_hb (s : State) (host : Bool) (a : Nat) : (retireAt s host a).hb = s.hb := foldl_same State.hb _ retireCell_hb _ s

@[simp] theorem setLogByte_hb (s : State) (ctx la : Nat) (b : BitVec 8) : (setLogByte s ctx la b).hb = s.hb := by
  unfold setLogByte
  split <;> simp

@[simp] theorem setHostByte_hb (s : State) (t : Nat) (b : BitVec 8) : (setHostByte s t b).hb = s.hb := by
  unfold setHostByte
  split <;> simp

@[simp] theorem putLogBytes_hb (s : State) (ctx la : Nat) (bs : List (BitVec 8)) : (putLogBytes s ctx la bs).hb = s.hb := by
  induction bs generalizing s la with
  | nil => rfl
  | cons b bs ih => rw [putLogBytes, ih, setLogByte_hb]

@[simp] theorem setLogBytes_hb (s : State) (ctx la : Nat) (bs : List (BitVec 8)) : (setLogBytes s ctx la bs).hb = s.hb := by
  simp [setLogBytes]

/-! ### Surfaces -/

@[simp] theorem putRawFrom_hb (s : State) (k : Nat) (bs : List (BitVec 8)) : (putRawFrom s k bs).hb = s.hb := by
  induction bs generalizing s k with
  | nil => rfl
  | cons b bs ih => rw [putRawFrom, ih]

@[simp] theorem putBlock_hb (s : State) (h : Nat) (f : Surf) (n : Nat) (st : BState) (bs : List (BitVec 8)) : (putBlock s h f n st bs).hb = s.hb :=
  putRawFrom_hb s _ bs

@[simp] theorem writeBlock_hb (s : State) (h : Nat) (f : Surf) (cv : Bool) (n : Nat) (ws : List (Nat × BitVec 8)) :
    (writeBlock s h f cv n ws).hb = s.hb := by
  simp only [writeBlock]
  split
  · split <;> simp
  · simp

@[simp] theorem carryForm_hb (h : Nat) (f : Surf) (cv : Bool) (s : State) (n : Nat) : (carryForm h f cv s n).hb = s.hb := by
  have carried : (carryPoison h f s n).hb = s.hb := by
    simp only [carryPoison]
    rw [foldl_same State.hb _ fun _ _ => setPoison_hb ..]
    simp
  unfold carryForm
  split <;> simp [carried]

@[simp] theorem writeSurf_hb (s : State) (h : Nat) (cv : Bool) (ws : List (Nat × BitVec 8)) : (writeSurf s h cv ws).hb = s.hb := by
  unfold writeSurf
  split
  · rw [foldl_same State.hb _ fun _ _ => writeBlock_hb .., mergePlaces_hb, foldl_same State.hb _ fun _ _ => carryForm_hb ..]
  · rfl

/-! ### Any home -/

@[simp] theorem putHome_hb (s : State) (ctx : Nat) (l : Loc) (b : BitVec 8) : (putHome s ctx l b).hb = s.hb := by
  unfold putHome
  split
  case h_7 => split <;> rfl
  all_goals simp

@[simp] theorem putHomeNat_hb (s : State) (ctx : Nat) (l : Loc) (n v : Nat) : (putHomeNat s ctx l n v).hb = s.hb := by
  induction n generalizing s l v with
  | zero => rfl
  | succ n ih => rw [putHomeNat, ih, putHome_hb]

@[simp] theorem putHomes_hb (s : State) (ctx : Nat) (ws : List (Loc × BitVec 8)) : (putHomes s ctx ws).hb = s.hb := by
  induction ws generalizing s with
  | nil => rfl
  | cons w ws ih => rw [putHomes, ih, putHome_hb]

@[simp] theorem writeHome_hb (s : State) (ctx : Nat) (ws : List (Loc × BitVec 8)) : (writeHome s ctx ws).hb = s.hb := by simp [writeHome]

@[simp] theorem verifyLines_hb (s : State) (ctx : Nat) (ls : List Loc) : (verifyLines s ctx ls).hb = s.hb := by
  simp only [verifyLines, chargeBad]
  rw [foldl_same State.hb]
  · simp
  · intro s l
    unfold meetSector
    split
    · simp
    · split <;> simp

/-! ### Cells, requests and records -/

/-- The registers without the three fields that retired parked cells and signalled vectors change. -/
def HostRegs.byHost (h : HostRegs) : HostRegs := { h with cellRetired := [], msixPend := [], signals := [] }

@[simp] theorem bumpRetired_byHost (s : State) (st : Nat) : (bumpRetired s st).hb.byHost = s.hb.byHost := by
  simp only [bumpRetired]
  split <;> rfl

@[simp] theorem signal_byHost (s : State) (v : Nat) : (signal s v).hb.byHost = s.hb.byHost := by
  simp only [signal]
  split <;> rfl

@[simp] theorem parkCell_hb (s : State) (c : Cell) : (parkCell s c).hb = s.hb := by simp [parkCell]
@[simp] theorem parkedValue_hb (s : State) (c : Cell) : (parkedValue s c).1.hb = s.hb := by simp [parkedValue]

@[simp] theorem retireParked_byHost (s : State) (slice : Nat) : (retireParked s slice).hb.byHost = s.hb.byHost := by
  unfold retireParked
  split <;> simp

@[simp] theorem cellRoom_byHost (s : State) (slice : Nat) : (cellRoom s slice).hb.byHost = s.hb.byHost := by
  simp only [cellRoom]
  split
  · rfl
  · split
    · rfl
    · split
      · simp
      · rw [parkCell_hb]
        split <;> simp

@[simp] theorem touchCell_byHost (s : State) (c : Cell) : (touchCell s c).1.hb.byHost = s.hb.byHost := by
  simp only [touchCell]
  split <;> simp

@[simp] theorem readCells_byHost (s : State) (host : Bool) (a n : Nat) : (readCells s host a n).hb.byHost = s.hb.byHost :=
  foldl_same (fun s => s.hb.byHost) _ (fun s c => by split <;> simp) _ s

@[simp] theorem touchPlaces_byHost (s : State) (ctx : Nat) (ls : List Loc) : (touchPlaces s ctx ls).hb.byHost = s.hb.byHost := by
  unfold touchPlaces readCellsAt
  split
  · simp
  · rw [foldl_same (fun s => s.hb.byHost) _ fun s l => by split <;> simp]
    simp

@[simp] theorem contribute_byHost (s : State) (ctx : Nat) (l : Loc) (fmt : Nat) (v : BitVec 32) :
    (contribute s ctx l fmt v).hb.byHost = s.hb.byHost := by
  have retired (f : Cell → Bool) : ((s.cells.filter f).foldl retireCell s).hb = s.hb := foldl_same State.hb _ retireCell_hb _ s
  simp only [contribute]
  split <;> simp [retired]

@[simp] theorem fqTake_hb (s : State) (q cap count : Nat) : (fqTake s q cap count).hb = s.hb := by
  unfold fqTake
  split <;> rfl

@[simp] theorem fqLeave_hb (s : State) (q count : Nat) : (fqLeave s q count).hb = s.hb := by
  unfold fqLeave
  split <;> rfl

@[simp] theorem dropFrames_hb (s : State) (id : Nat) : (dropFrames s id).hb = s.hb := by
  simp only [dropFrames]
  rw [foldl_same State.hb _ fun _ _ => fqLeave_hb ..]

@[simp] theorem answer_hb (s : State) (r : SReq) (v : Nat) : (answer s r v).hb = s.hb := by
  unfold answer
  split
  · rfl
  · simp only
    split <;> rfl

@[simp] theorem putMark_hb (s : State) (slice dev src seq : Nat) : (putMark s slice dev src seq).hb = s.hb := by
  unfold putMark markRoom
  simp only
  split
  · rename_i t h
    split at h
    · cases h; rfl
    · split at h <;> cases h
      rfl
  · rfl

@[simp] theorem markReq_hb (s : State) (r : SReq) (slice : Nat) : (markReq s r slice).hb = s.hb := by
  unfold markReq
  split <;> simp

@[simp] theorem performReq_byHost (s : State) (r : SReq) (l : Loc) (slice : Nat) : (performReq s r l slice).hb.byHost = s.hb.byHost := by
  simp only [performReq]
  split
  · simp only [applyAtom]
    split <;> simp [windowReq, windowPut]
  · simp
  · simp

@[simp] theorem applyOne_byHost (s : State) (r : SReq) : (applyOne s r).hb.byHost = s.hb.byHost := by
  simp only [applyOne]
  split
  · simp
  · split
    · unfold answerBad
      split <;> simp
    · split
      · split <;> simp
      · simp

@[simp] theorem freeWindow_hb (s : State) (r : SReq) (slice : Nat) : (freeWindow s r slice).hb = s.hb := by
  simp only [freeWindow]
  split
  · rfl
  · split <;> rfl

@[simp] theorem applyReq_byHost (s : State) (r : SReq) : (applyReq s r).hb.byHost = s.hb.byHost := by
  unfold applyReq
  split
  · exact foldl_same (fun s => s.hb.byHost) _ (fun s x => by simp) _ s
  · rfl

@[simp] theorem arriveQueue_hb (s : State) (r : SReq) : (arriveQueue s r).hb = s.hb := by simp [arriveQueue]

@[simp] theorem countReq_byHost (s : State) (src slice : Nat) (store : Bool) : (countReq s src slice store).hb.byHost = s.hb.byHost := by
  simp only [countReq, takeSeq]
  split
  · rw [putMark_hb, foldl_same (fun s => s.hb.byHost) _ fun s x => by split <;> simp]
  · rw [foldl_same (fun s => s.hb.byHost) _ fun s x => by split <;> simp]

@[simp] theorem countLines_byHost (s : State) (src : Nat) (store : Bool) (ls : List Loc) :
    (countLines s src store ls).hb.byHost = s.hb.byHost :=
  foldl_same (fun s => s.hb.byHost) _ (fun s l => by split <;> simp [takeSeq]) _ s

@[simp] theorem engRead_byHost (s : State) (eng ctx : Nat) (ls : List Loc) : (engRead s eng ctx ls).1.hb.byHost = s.hb.byHost := by
  simp [engRead]

@[simp] theorem engWrite_byHost (s : State) (eng ctx : Nat) (ls : List Loc) (bs : List (BitVec 8)) (bad : List Nat) :
    (engWrite s eng ctx ls bs bad).hb.byHost = s.hb.byHost := by
  simp only [engWrite, spreadBad]
  split <;> simp

/-! ### Fault queues -/

theorem writeCount_byHost {s t : State} {cid : Nat} {c : Ctx} (h : writeCount s cid c = .ok t) : t.hb.byHost = s.hb.byHost := by
  unfold writeCount at h
  split at h <;> cases h <;> simp

theorem dropRecs_byHost {s t : State} {cid k : Nat} (h : dropRecs s cid k = .ok t) : t.hb.byHost = s.hb.byHost := by
  simp only [dropRecs] at h
  split at h
  · simpa using writeCount_byHost h
  · cases h; simp

theorem dropRecs_signal_byHost {s t : State} {cid k : Nat} (h : (dropRecs s cid k).map (fun s => signal s 0) = .ok t) :
    t.hb.byHost = s.hb.byHost := by
  cases hd : dropRecs s cid k with
  | error e => rw [hd] at h; cases h
  | ok u => rw [hd] at h; cases h; simp [dropRecs_byHost hd]

theorem putRecs_byHost {s t : State} {cid : Nat} {c : Ctx} {rs : List Rec} (h : putRecs s cid c rs = .ok t) : t.hb.byHost = s.hb.byHost := by
  simp only [putRecs] at h
  split at h
  · exact dropRecs_signal_byHost h
  · cases h
  · split at h
    · simpa using dropRecs_byHost h
    · split at h
      · simpa using dropRecs_signal_byHost h
      · cases h
      · split at h
        · simpa using writeCount_byHost h
        · cases h; simp

@[simp] theorem flushRecs_byHost (n : Nat) (s : State) (cid : Nat) : (flushRecs n s cid).hb.byHost = s.hb.byHost := by
  induction n generalizing s with
  | zero => rfl
  | succ n ih =>
    simp only [flushRecs]
    split
    · rfl
    · split
      · rfl
      · split
        · rename_i h
          rw [ih, setCtx_hb, putRecs_byHost h]
        · rfl
        · rfl

@[simp] theorem postRecs_byHost (s : State) (cid : Nat) (rs : List Rec) : (postRecs s cid rs).hb.byHost = s.hb.byHost := by
  simp only [postRecs]
  split
  · split <;> simp
  · simp

/-! ### The queue manager -/

@[simp] theorem setQ_hb (s : State) (q : Nat) (f : Queue → Queue) : (setQ s q f).hb = s.hb := rfl
@[simp] theorem putBack_hb (s : State) (q : Nat) : (putBack s q).hb = s.hb := rfl

@[simp] theorem activate_hb (s : State) (q : Nat) : (activate s q).hb = s.hb := by
  simp only [activate]
  split
  · rfl
  · split
    · rfl
    · split
      · simp
      · split <;> simp

@[simp] theorem queueError_byHost (s : State) (q code idx : Nat) : (queueError s q code idx).hb.byHost = s.hb.byHost := by
  unfold queueError
  split <;> simp

@[simp] theorem takeTail_byHost (s : State) (q v : Nat) : (takeTail s q v).hb.byHost = s.hb.byHost := by
  simp only [takeTail]
  split
  · rfl
  · split <;> simp

theorem takeTails_qtable (l : List (Nat × Queue)) (s : State) :
    (l.foldl (fun s e => takeTail s e.1 (e.2.bell.getD 0)) s).hb.qtable = s.hb.qtable := by
  have kept := foldl_same (fun s => s.hb.byHost) _ (fun s e => takeTail_byHost s e.1 (e.2.bell.getD 0)) l s
  have qtable := congrArg HostRegs.qtable kept
  exact qtable

end Sys2Proof.Machine
end

section
/-! Lines that slices take in (R85) while they have room: every byte of device logical space still reads as it did, and a sector
that was good stays good (R97). -/
namespace Sys2Proof

theorem Tab.length_put_le {β : Type} (t : Tab β) (k : Nat) (v : β) : (Tab.put t k v).length ≤ t.length + 1 := by
  induction t with
  | nil => simp [Tab.put]
  | cons e t ih =>
    simp only [Tab.put]
    split
    · simp
    · split
      · simp
      · simpa using ih

end Sys2Proof

namespace Sys2Proof.Machine

theorem length_eraseDups_le {α : Type} [BEq α] (l : List α) : l.eraseDups.length ≤ l.length := by
  induction h : l.length using Nat.strongRecOn generalizing l with
  | ind n ih =>
    cases l with
    | nil => simp
    | cons a l =>
      subst h
      have shorter := List.length_filter_le (fun b => !b == a) l
      have rest := ih _ (by simp only [List.length_cons]; omega) (l.filter fun b => !b == a) rfl
      simp only [List.eraseDups_cons, List.length_cons]
      omega

/-- What the bytes of device logical space rest on beside the slices, and the registers. -/
def State.homes (s : State) : HostRegs × List Cell × Tab (BitVec 64) × List Host.Cell × List Host.Cell × Tab Station × Tab (BitVec 4) :=
  (s.hb, s.cells, s.hinge, s.near, s.far, s.stations, s.affinity)

theorem stations_congr {s t : State} (h : t.homes = s.homes) : t.stations = s.stations := congrArg (fun x => x.2.2.2.2.2.1) h

theorem hingeOf_congr {s t : State} (h : t.homes = s.homes) (f : Nat) : hingeOf t f = hingeOf s f := by
  have hinge : t.hinge = s.hinge := congrArg (fun x => x.2.2.1) h
  rw [hingeOf, hingeOf, hinge]

theorem homeSlice_congr {s t : State} (h : t.homes = s.homes) (la : Nat) : homeSlice t la = homeSlice s la := by
  have affinity : t.affinity = s.affinity := congrArg (fun x => x.2.2.2.2.2.2) h
  unfold homeSlice affinityOf
  rw [affinity]

theorem deadStation_congr {s t : State} (h : t.homes = s.homes) (n : Nat) : deadStation t n = deadStation s n := by
  simp only [deadStation, stationOf, stations_congr h]

theorem cutOff_congr {s t : State} (h : t.homes = s.homes) (l : Loc) : cutOff t l = cutOff s l := by
  unfold cutOff
  split
  · rw [homeSlice_congr h, deadStation_congr h]
  · rw [deadStation_congr h, deadStation_congr h]
  · rfl

theorem frameLost_congr {s t : State} (h : t.homes = s.homes) (line : Nat) : frameLost t line = frameLost s line := by
  simp only [frameLost, hingeOf_congr h, deadStation_congr h]

theorem frameSector_congr {s t : State} (h : t.homes = s.homes) (la : Nat) : frameSector t la = frameSector s la := by
  unfold frameSector
  rw [hingeOf_congr h]

theorem frameByte_congr {s t : State} (h : t.homes = s.homes) (la : Nat) : frameByte t la = frameByte s la := by
  have near : t.near = s.near := congrArg (fun x => x.2.2.2.1) h
  have far : t.far = s.far := congrArg (fun x => x.2.2.2.2.1) h
  unfold frameByte
  rw [hingeOf_congr h, near, far]

/-! ### One sector -/

theorem fillSector_rest (s : State) (x : Loc) :
    fillSector s x = { s with poison := (fillSector s x).poison, badCheck := (fillSector s x).badCheck } := by
  unfold fillSector
  split
  · rfl
  · split <;> rfl

@[simp] theorem fillSector_homes (s : State) (x : Loc) : (fillSector s x).homes = s.homes := by rw [fillSector_rest]; rfl
@[simp] theorem fillSector_slices (s : State) (x : Loc) : (fillSector s x).slices = s.slices := by rw [fillSector_rest]

theorem fillSector_badCheck (s : State) (x : Loc) (h : s.badCheck = []) : (fillSector s x).badCheck = [] := by
  unfold fillSector
  split
  · simp [setPoison, h]
  · split <;> simp [carrySector, h]

/-- A sector comes in with its frame's poison marker (R97). -/
theorem mem_poison_fillSector_same {s : State} {x y : Loc} (alive : frameLost s (x.addr / 128) = false)
    (frame : frameSector s x.addr = some y) : x ∈ (fillSector s x).poison ↔ y ∈ s.poison := by
  simp only [fillSector, alive, frame, carrySector, Bool.false_eq_true, if_false, List.contains_iff_mem]
  split <;> simp_all

theorem mem_poison_fillSector_ne {s : State} {x y : Loc} (h : y ≠ x) : y ∈ (fillSector s x).poison ↔ y ∈ s.poison := by
  unfold fillSector
  split
  · simp only [setPoison, if_true]
    split <;> simp [h]
  · split
    · simp only [carrySector]
      split <;> simp [h]
    · rfl

/-! ### One line -/

theorem touchCount_rest (s : State) (f : Nat) : touchCount s f = { s with hub0 := (touchCount s f).hub0, hub1 := (touchCount s f).hub1 } := by
  simp only [touchCount, setHub]
  split <;> rfl

/-- The line stands in its slice, clean, and its sectors are still to come. -/
def lineTaken (s : State) (line : Nat) : State := { touchCount s (line / 512) with slices := Tab.put s.slices line ⟨0, 0, 0⟩ }

theorem lineTaken_homes (s : State) (line : Nat) : (lineTaken s line).homes = s.homes := by rw [lineTaken, touchCount_rest]; rfl
theorem lineTaken_checks (s : State) (line : Nat) : (lineTaken s line).poison = s.poison ∧ (lineTaken s line).badCheck = s.badCheck := by
  rw [lineTaken, touchCount_rest]; exact ⟨rfl, rfl⟩

theorem fillSlice_of_held {s : State} {line : Nat} (h : held s line = true) : fillSlice s line = s := by simp [fillSlice, h]

/-- A slice with room takes the line in and gives up none. -/
theorem fillSlice_of_room {s : State} {line : Nat} (h : held s line = false) (room : s.slices.length < sliceLeast) :
    fillSlice s line = fillSector (fillSector (lineTaken s line) ⟨.log, 128 * line⟩) ⟨.log, 128 * line + 64⟩ := by
  have slices : (touchCount s (line / 512)).slices = s.slices := by rw [touchCount_rest]
  have has (n : Nat) : sliceHasRoom (touchCount s (line / 512)) n = true := by simp [sliceHasRoom, slices, room]
  simp only [fillSlice, h, Bool.false_eq_true, if_false, sliceRoom, has, if_true, slices, linePair, List.foldl_cons, List.foldl_nil]
  rfl

theorem fillSlice_homes {s : State} {line : Nat} (room : s.slices.length < sliceLeast) : (fillSlice s line).homes = s.homes := by
  cases h : held s line with
  | true => rw [fillSlice_of_held h]
  | false => rw [fillSlice_of_room h room, fillSector_homes, fillSector_homes, lineTaken_homes]

theorem fillSlice_slices {s : State} {line : Nat} (room : s.slices.length < sliceLeast) :
    (fillSlice s line).slices = if held s line then s.slices else Tab.put s.slices line ⟨0, 0, 0⟩ := by
  cases h : held s line with
  | true => rw [fillSlice_of_held h]; rfl
  | false => rw [fillSlice_of_room h room, fillSector_slices, fillSector_slices]; rfl

theorem fillSlice_badCheck {s : State} {line : Nat} (room : s.slices.length < sliceLeast) (none : s.badCheck = []) :
    (fillSlice s line).badCheck = [] := by
  cases h : held s line with
  | true => rwa [fillSlice_of_held h]
  | false =>
    rw [fillSlice_of_room h room]
    exact fillSector_badCheck _ _ (fillSector_badCheck _ _ ((lineTaken_checks s line).2.trans none))

theorem held_fillSlice {s : State} {line : Nat} (room : s.slices.length < sliceLeast) (k : Nat) :
    held (fillSlice s line) k = (k == line || held s k) := by
  rw [held, fillSlice_slices room]
  split
  · rename_i h
    by_cases e : k = line <;> simp_all [held]
  · rw [Tab.find_put]
    by_cases e : k = line <;> simp [e, held]

theorem length_fillSlice_le {s : State} {line : Nat} (room : s.slices.length < sliceLeast) :
    (fillSlice s line).slices.length ≤ s.slices.length + 1 := by
  rw [fillSlice_slices room]
  split
  · omega
  · exact Tab.length_put_le ..

theorem mem_poison_fillSlice_ne {s : State} {line : Nat} {z : Loc} (room : s.slices.length < sliceLeast)
    (low : z ≠ ⟨.log, 128 * line⟩) (high : z ≠ ⟨.log, 128 * line + 64⟩) : z ∈ (fillSlice s line).poison ↔ z ∈ s.poison := by
  cases h : held s line with
  | true => rw [fillSlice_of_held h]
  | false =>
    rw [fillSlice_of_room h room, mem_poison_fillSector_ne high, mem_poison_fillSector_ne low, (lineTaken_checks s line).1]

theorem frameSector_sector (s : State) (a : Nat) : frameSector s (a / 64 * 64) = frameSector s a := by
  have frame : a / 64 * 64 / 65536 = a / 65536 := by omega
  have sector (p : Nat) : (p * 65536 + a / 64 * 64 % 65536) / 64 = (p * 65536 + a % 65536) / 64 := by omega
  simp only [frameSector, frame, sector]

/-- The sector behind a byte of device logical space is a frame's. -/
theorem frameSector_ne_log {s : State} {a : Nat} {y : Loc} (h : frameSector s a = some y) (n : Nat) : y ≠ ⟨.log, n⟩ := by
  rintro rfl
  simp only [frameSector] at h
  split at h <;> simp at h

theorem mem_poison_fillSlice_same {s : State} {a : Nat} {y : Loc} (room : s.slices.length < sliceLeast) (missed : held s (a / 128) = false)
    (alive : frameLost s (a / 128) = false) (frame : frameSector s a = some y) :
    ⟨.log, a / 64 * 64⟩ ∈ (fillSlice s (a / 128)).poison ↔ y ∈ s.poison := by
  have frameKind := frameSector_ne_log frame
  rw [← frameSector_sector] at frame
  rw [fillSlice_of_room missed room]
  have taken := lineTaken_homes s (a / 128)
  have half : a / 64 * 64 = 128 * (a / 128) ∨ a / 64 * 64 = 128 * (a / 128) + 64 := by omega
  rcases half with half | half <;> rw [half] at frame ⊢
  · rw [mem_poison_fillSector_ne (by simp), mem_poison_fillSector_same (y := y), (lineTaken_checks s _).1]
    · rw [frameLost_congr taken]; simpa using alive
    · rw [frameSector_congr taken]; exact frame
  · rw [mem_poison_fillSector_same (y := y), mem_poison_fillSector_ne (frameKind _), (lineTaken_checks s _).1]
    · rw [frameLost_congr (fillSector_homes ..), frameLost_congr taken, ← alive]; congr 1; simp only; omega
    · rw [frameSector_congr (fillSector_homes ..), frameSector_congr taken]; exact frame

/-! ### Good bytes -/

theorem badLog_eq_none (s : State) (a : Nat) :
    badLog s a = none ↔ isPoisoned s ⟨.log, a⟩ = false ∧ cutOff s ⟨.log, a⟩ = false ∧ frameCut s a = false := by
  simp [badLog, and_assoc]

theorem isPoisoned_log (s : State) (a : Nat) : isPoisoned s ⟨.log, a⟩ = false ↔
    if held s (a / 128) then ⟨.log, a / 64 * 64⟩ ∉ s.poison else ∀ y, frameSector s a = some y → y ∉ s.poison := by
  simp only [isPoisoned, sectorOf]
  cases held s (a / 128) with
  | true => simp
  | false => cases frameSector s a <;> simp

/-- A good byte of a backed frame stays good: its line comes in with the frame's good sectors, or another line does. -/
theorem badLog_fillSlice {s : State} {line a : Nat} (room : s.slices.length < sliceLeast) (backed : hState (hingeOf s (a / 65536)) ≠ 0)
    (good : badLog s a = none) : badLog (fillSlice s line) a = none := by
  rw [badLog_eq_none, isPoisoned_log] at good ⊢
  obtain ⟨clean, reached, alive⟩ := good
  have same := fillSlice_homes (line := line) room
  refine ⟨?_, (cutOff_congr same _).trans reached, ?_⟩
  · obtain ⟨y, frame⟩ : ∃ y, frameSector s a = some y := by simp [frameSector, backed]
    have frameKind := frameSector_ne_log frame
    rw [held_fillSlice room, frameSector_congr same]
    by_cases own : a / 128 = line
    · subst own
      cases missed : held s (a / 128) with
      | true => simpa [missed, fillSlice_of_held missed] using clean
      | false =>
        have lost : frameLost s (a / 128) = false := by simpa [frameCut, missed] using alive
        have good : y ∉ s.poison := by simpa [missed, frame] using clean
        simpa [mem_poison_fillSlice_same room missed lost frame] using good
    · have low : (⟨.log, a / 64 * 64⟩ : Loc) ≠ ⟨.log, 128 * line⟩ := by simp only [ne_eq, Loc.mk.injEq, true_and]; omega
      have high : (⟨.log, a / 64 * 64⟩ : Loc) ≠ ⟨.log, 128 * line + 64⟩ := by simp only [ne_eq, Loc.mk.injEq, true_and]; omega
      simpa [own, frame, mem_poison_fillSlice_ne room low high, mem_poison_fillSlice_ne room (frameKind _) (frameKind _)] using clean
  · rw [frameCut, frameLost_congr same, held_fillSlice room]
    simp only [frameCut, Bool.and_eq_false_iff, Bool.not_eq_false'] at alive ⊢
    exact alive.imp_right fun h => by simp [h]

/-! ### Several lines -/

/-- What each line that comes in with room keeps holds after all of them, with one entry more for each. -/
theorem fillSlices_keep {P : State → Prop} (step : ∀ s line, s.slices.length < sliceLeast → P s → P (fillSlice s line)) (lines : List Nat)
    (s : State) (room : s.slices.length + lines.length ≤ sliceLeast) (h : P s) : P (lines.foldl fillSlice s) := by
  induction lines generalizing s with
  | nil => exact h
  | cons line lines ih =>
    simp only [List.length_cons] at room
    have now : s.slices.length < sliceLeast := by omega
    have grown := length_fillSlice_le (line := line) now
    exact ih _ (by omega) (step s line now h)

theorem held_fillSlices (lines : List Nat) (s : State) (room : s.slices.length + lines.length ≤ sliceLeast) {line : Nat}
    (h : line ∈ lines ∨ held s line = true) : held (lines.foldl fillSlice s) line = true := by
  induction lines generalizing s with
  | nil => simpa using h
  | cons l lines ih =>
    simp only [List.length_cons] at room
    have now : s.slices.length < sliceLeast := by omega
    have grown := length_fillSlice_le (line := l) now
    refine ih _ (by omega) ?_
    rw [held_fillSlice now]
    rcases h with h | h
    · rcases List.mem_cons.1 h with rfl | h
      · simp
      · exact .inl h
    · simp [h]

/-- `t` is `s` with lines taken in: nothing else that bytes rest on has changed, and a line is new only where none stood. -/
structure Filled (s t : State) : Prop where
  homes : t.homes = s.homes
  line : ∀ k, Tab.find t.slices k = Tab.find s.slices k ∨ Tab.find s.slices k = none ∧ Tab.find t.slices k = some ⟨0, 0, 0⟩

theorem Filled.of_same {s t : State} (homes : t.homes = s.homes) (slices : t.slices = s.slices) : Filled s t :=
  ⟨homes, fun k => .inl (by rw [slices])⟩

theorem Filled.trans {s t u : State} (h : Filled s t) (h' : Filled t u) : Filled s u where
  homes := h'.homes.trans h.homes
  line k := by
    rcases h.line k with old | ⟨missed, new⟩ <;> rcases h'.line k with old' | ⟨missed', new'⟩
    · exact .inl (old'.trans old)
    · exact .inr ⟨old ▸ missed', new'⟩
    · exact .inr ⟨missed, old'.trans new⟩
    · rw [new] at missed'; cases missed'

theorem Filled.fillSlice {s : State} {line : Nat} (room : s.slices.length < sliceLeast) : Filled s (fillSlice s line) where
  homes := fillSlice_homes room
  line k := by
    rw [fillSlice_slices room]
    split
    · exact .inl rfl
    · rename_i missed
      by_cases own : k = line
      · subst own
        exact .inr ⟨by simpa [held] using missed, Tab.find_put_same ..⟩
      · exact .inl (Tab.find_put_ne _ _ own)

theorem Filled.cells {s t : State} (h : Filled s t) : t.cells = s.cells := congrArg (fun x => x.2.1) h.homes
theorem Filled.hb {s t : State} (h : Filled s t) : t.hb = s.hb := congrArg (fun x => x.1) h.homes

theorem Filled.cellByte {s t : State} (h : Filled s t) (host : Bool) (a : Nat) : cellByte t host a = cellByte s host a := by
  simp only [Machine.cellByte, h.cells]

/-- A clean line shows its frame's bytes (R85). -/
theorem Filled.logByte {s t : State} (h : Filled s t) (a : Nat) : logByte t a = logByte s a := by
  unfold Machine.logByte
  rw [h.cellByte, frameByte_congr h.homes]
  rcases h.line (a / 128) with old | ⟨missed, new⟩
  · rw [old]
  · simp [missed, new]

theorem Filled.fillSlices (lines : List Nat) (s : State) (room : s.slices.length + lines.length ≤ sliceLeast) :
    Filled s (lines.foldl Machine.fillSlice s) :=
  fillSlices_keep (P := Filled s) (fun _ _ now h => h.trans (.fillSlice now)) lines s room (.of_same rfl rfl)

end Sys2Proof.Machine
end

section
/-! BAR4 (R78, R98): what a read and a write of backed frames do. -/
namespace Sys2Proof.Machine

/-! ### Requests with none before them -/

theorem putMark_rest (s : State) (slice dev src seq : Nat) : ∃ m, putMark s slice dev src seq = { s with marks := m } := by
  unfold putMark
  cases h : markRoom s slice dev src with
  | none => exact ⟨s.marks, rfl⟩
  | some t =>
    simp only [markRoom] at h
    split at h
    · cases h; exact ⟨_, rfl⟩
    · split at h <;> cases h
      exact ⟨_, rfl⟩

theorem countReq_alone {s : State} (alone : s.sreqs = []) (src slice : Nat) (store : Bool) : countReq s src slice store =
    if store then putMark (takeSeq s src).1 slice (s.hb.hbId.toNat % 65536) src (nextSeq s src) else (takeSeq s src).1 := by
  unfold countReq
  rw [alone]
  rfl

theorem countReq_rest {s : State} (alone : s.sreqs = []) (src slice : Nat) (store : Bool) :
    ∃ q m, countReq s src slice store = { s with seqs := q, marks := m } := by
  rw [countReq_alone alone]
  split
  · obtain ⟨m, h⟩ := putMark_rest (takeSeq s src).1 slice (s.hb.hbId.toNat % 65536) src (nextSeq s src)
    exact ⟨_, m, h⟩
  · exact ⟨_, s.marks, rfl⟩

/-- Where no request waits, a unit's requests take their numbers and, as stores, move the slices' marks (R115). -/
theorem countLines_rest {s : State} (alone : s.sreqs = []) (src : Nat) (store : Bool) (ls : List Loc) :
    ∃ q m, countLines s src store ls = { s with seqs := q, marks := m } := by
  refine foldl_keeps (fun t => ∃ q m, t = { s with seqs := q, marks := m }) _ _ s ⟨s.seqs, s.marks, rfl⟩ ?_
  rintro _ ⟨q, m, rfl⟩ l -
  split
  · exact ⟨_, m, rfl⟩
  · obtain ⟨q', m', h⟩ := countReq_rest (s := { s with seqs := q, marks := m }) alone src (locSlice { s with seqs := q, marks := m } l) store
    exact ⟨q', m', h⟩

/-! ### Reading places of device logical space -/

/-- The places of consecutive bytes of device logical space. -/
def logPlaces (la n : Nat) : List Loc := (List.range n).map fun i => ⟨.log, la + i⟩

theorem mem_logPlaces {la n : Nat} {l : Loc} : l ∈ logPlaces la n ↔ ∃ i < n, l = ⟨.log, la + i⟩ := by
  simp [logPlaces, eq_comm]

theorem sectorHeads_sublist (ls : List Loc) : (sectorHeads ls).Sublist ls := by
  induction ls with
  | nil => exact .slnil
  | cons l ls ih => exact (List.filter_sublist.trans ih).cons_cons l

theorem length_sectorSources_logPlaces (s : State) (la n : Nat) : (sectorSources s (logPlaces la n)).length ≤ n := by
  have log : ∀ l ∈ sectorHeads (logPlaces la n), sourcePlaces s l = [l] := fun l h => by
    obtain ⟨i, -, rfl⟩ := mem_logPlaces.1 ((sectorHeads_sublist _).subset h)
    rfl
  calc (sectorSources s (logPlaces la n)).length
      ≤ ((sectorHeads (logPlaces la n)).flatMap (sourcePlaces s)).length := (sectorHeads_sublist _).length_le
    _ = (sectorHeads (logPlaces la n)).length := by
      rw [List.flatMap_congr log]; simp
    _ ≤ (logPlaces la n).length := (sectorHeads_sublist _).length_le
    _ = n := by simp [logPlaces]

/-- The lines that a list of places asks for. -/
def linesFor (s : State) (ls : List Loc) : List Nat := ((ls.filter fun l => l.sp == .log && !cutOff s l).map fun l => l.addr / 128).eraseDups

theorem fillLines_eq (s : State) (ls : List Loc) : fillLines s ls = (linesFor s ls).foldl fillSlice s := rfl

theorem length_linesFor_le (s : State) (ls : List Loc) : (linesFor s ls).length ≤ ls.length := by
  have distinct := length_eraseDups_le ((ls.filter fun l => l.sp == .log && !cutOff s l).map fun l => l.addr / 128)
  have picked := List.length_filter_le (fun l => l.sp == .log && !cutOff s l) ls
  rw [List.length_map] at distinct
  exact distinct.trans picked

/-- With no check value failing, bad sectors leave records only (R128, R438). -/
theorem chargeBad_rest {s : State} (sound : s.badCheck = []) (ctx : Nat) (ls : List Loc) : ∃ c, chargeBad s ctx ls = { s with ctxs := c } := by
  refine foldl_keeps (fun t => ∃ c, t = { s with ctxs := c }) _ _ s ⟨s.ctxs, rfl⟩ ?_
  rintro _ ⟨c, rfl⟩ l -
  have passes : failsCheck { s with ctxs := c } l = false := by
    unfold failsCheck
    split
    · simp [sound]
    · rfl
  simp only [meetSector, passes, Bool.false_eq_true, if_false]
  split
  · exact ⟨_, rfl⟩
  · exact ⟨c, rfl⟩

/-- Reading places where slices have room, no check value fails and no cell stands: lines are taken in, and good bytes stay good. -/
theorem touchPlaces_filled {s : State} {ctx : Nat} {ls : List Loc} (sound : s.badCheck = []) (noCells : s.cells = [])
    (room : s.slices.length + (sectorSources s ls).length ≤ sliceLeast) :
    Filled s (touchPlaces s ctx ls) ∧ (touchPlaces s ctx ls).badCheck = [] ∧
      ∀ a, hState (hingeOf s (a / 65536)) ≠ 0 → badLog s a = none → badLog (touchPlaces s ctx ls) a = none := by
  have fits : s.slices.length + (linesFor s (sectorSources s ls)).length ≤ sliceLeast := by
    have := length_linesFor_le s (sectorSources s ls)
    omega
  have filled : Filled s (fillLines s (sectorSources s ls)) := .fillSlices _ _ fits
  have sound' : (fillLines s (sectorSources s ls)).badCheck = [] :=
    fillSlices_keep (P := fun t => t.badCheck = []) (fun _ _ now h => fillSlice_badCheck now h) _ _ fits sound
  obtain ⟨c, charged⟩ := chargeBad_rest sound' ctx (sectorSources s ls)
  have read : touchPlaces s ctx ls = { fillLines s (sectorSources s ls) with ctxs := c } := by
    have cells : (fillLines s (sectorSources s ls)).cells = [] := filled.cells.trans noCells
    have verified : verifyLines s ctx ls = { fillLines s (sectorSources s ls) with ctxs := c } := charged
    rw [touchPlaces, verified, readCellsAt, if_pos (by simp [cells])]
  rw [read]
  refine ⟨⟨filled.homes, filled.line⟩, sound', fun a backed good => ?_⟩
  exact (fillSlices_keep (P := fun t => t.homes = s.homes ∧ badLog t a = none) (fun t line now ⟨same, good⟩ =>
    ⟨(fillSlice_homes now).trans same, badLog_fillSlice now (by rwa [hingeOf_congr same]) good⟩) _ _ fits ⟨rfl, good⟩).2

/-! ### BAR4_READ -/

/-- R78: an access to frames that are not all backed is an Unsupported Request. -/
theorem execBar4Read_unbacked {s : State} {la n : Nat} (h : barBacked s la n = false) : execBar4Read la n s = .next (unsupported s false) := by
  rw [execBar4Read, h]
  rfl

theorem poisonedAt_eq_nil {s : State} {ls : List Loc} (sound : s.badCheck = []) (good : ∀ l ∈ ls, badSector s l = none) : poisonedAt s ls = [] := by
  refine List.filter_eq_nil_iff.2 fun i hi => ?_
  have passes (l : Loc) : failsCheck s l = false := by
    unfold failsCheck
    split <;> simp [sound]
  have here := List.getElem?_eq_getElem (List.mem_range.1 hi)
  simp [here, good _ (List.getElem_mem _), passes]

theorem mem_barFrames {la n i : Nat} (h : i < n) : (la + i) / 65536 ∈ barFrames la n :=
  List.mem_eraseDups.2 (List.mem_map.2 ⟨i, List.mem_range.2 h, rfl⟩)

theorem backed_of_barBacked {s : State} {la n i : Nat} (h : barBacked s la n = true) (hi : i < n) : hState (hingeOf s ((la + i) / 65536)) ≠ 0 := by
  simp only [barBacked, Bool.and_eq_true, List.all_eq_true] at h
  simpa using (h.2 _ (mem_barFrames hi)).1

/-- The reply of a read once its places have been touched. -/
def replied (u : State) (la n : Nat) : State :=
  { u with hb := { u.hb with reply := if (poisonedAt u (logPlaces la n)).isEmpty then some (logBytes u la n) else none } }

theorem logByte_replied (u : State) (la n a : Nat) : logByte (replied u la n) a = logByte u a := rfl

theorem execBar4Read_served {s : State} {la n : Nat} (backed : barBacked s la n = true) (unlocked : barLocked s la n = false) :
    execBar4Read la n s = .next (replied (touchPlaces (countLines s hostSource false (logPlaces la n)) 0 (logPlaces la n)) la n) := by
  rw [execBar4Read, backed, unlocked]
  rfl

/-- R78, R98: the reply is the bytes as they stand, and none of them changes. -/
theorem execBar4Read_good {s : State} {la n : Nat} (backed : barBacked s la n = true) (unlocked : barLocked s la n = false)
    (good : ∀ i < n, badLog s (la + i) = none) (sound : s.badCheck = []) (noCells : s.cells = []) (alone : s.sreqs = [])
    (room : s.slices.length + n < sliceLeast) :
    ∃ t, execBar4Read la n s = .next t ∧ t.hb = { s.hb with reply := some ((List.range n).map fun i => logByte s (la + i)) }
      ∧ ∀ a, logByte t a = logByte s a := by
  obtain ⟨q, m, counted⟩ := countLines_rest alone hostSource false (logPlaces la n)
  have fits := length_sectorSources_logPlaces { s with seqs := q, marks := m } la n
  obtain ⟨filled, sound', kept⟩ := touchPlaces_filled (s := { s with seqs := q, marks := m }) (ctx := 0) (ls := logPlaces la n) sound noCells
    (by simp only; omega)
  refine ⟨_, execBar4Read_served backed unlocked, ?_⟩
  rw [counted]
  generalize touchPlaces { s with seqs := q, marks := m } 0 (logPlaces la n) = u at filled sound' kept
  have clean : poisonedAt u (logPlaces la n) = [] := poisonedAt_eq_nil sound' fun l hl => by
    obtain ⟨i, hi, rfl⟩ := mem_logPlaces.1 hl
    exact kept _ (backed_of_barBacked backed hi) (good i hi)
  have bytes : logBytes u la n = (List.range n).map fun i => logByte s (la + i) := List.map_congr_left fun i _ => filled.logByte _
  refine ⟨?_, fun a => (logByte_replied u la n a).trans (filled.logByte a)⟩
  simp only [replied, clean, bytes, filled.hb, List.isEmpty_nil, if_true]

/-! ### A byte of a line -/

theorem getLsbD_byteMask (m : Nat) : (0xFF#1024).getLsbD m = decide (m < 8) := by
  have ones : (0xFF : Nat) = 2 ^ 8 - 1 := rfl
  rw [BitVec.getLsbD_ofNat, ones, Nat.testBit_two_pow_sub_one]
  by_cases h : m < 8
  · simp [h]; omega
  · simp [h]

theorem lineByte_setLineByte (d : BitVec 1024) {i j : Nat} (hj : j < 128) (b : BitVec 8) :
    lineByte (setLineByte d i b) j = if j = i then b else lineByte d j := by
  apply BitVec.eq_of_getLsbD_eq
  intro k hk
  have inLine : 8 * j + k < 1024 := by omega
  simp only [lineByte, setLineByte, BitVec.getLsbD_extractLsb', hk, inLine, BitVec.getLsbD_or, BitVec.getLsbD_and, BitVec.getLsbD_not,
    BitVec.getLsbD_shiftLeft, getLsbD_byteMask, BitVec.getLsbD_setWidth, decide_true, Bool.true_and]
  by_cases own : j = i
  · subst own
    have at' : 8 * j + k - 8 * j = k := by omega
    have low : ¬ 8 * j + k < 8 * j := by omega
    have wide : k < 1024 := by omega
    simp [at', low, hk, wide]
  · rw [if_neg own]
    by_cases below : 8 * j + k < 8 * i
    · simp [below, hk]
    · have past : 8 ≤ 8 * j + k - 8 * i := by omega
      simp [below, hk, Nat.not_lt.2 past, BitVec.getLsbD_of_ge b _ past]

theorem getLsbD_setDirty (d : BitVec 128) {i j : Nat} (hj : j < 128) : (d ||| (1#128 <<< i)).getLsbD j = (d.getLsbD j || decide (j = i)) := by
  rw [BitVec.getLsbD_or, BitVec.getLsbD_shiftLeft, BitVec.getLsbD_one]
  congr 1
  by_cases own : j = i
  · subst own; simp [hj]
  · rcases Nat.lt_or_gt_of_ne own with below | past
    · simp [below, own]
    · have : j - i ≠ 0 := by omega
      simp [this, own]

/-! ### Stores in lines that slices hold -/

theorem putSliceByte_rest {s : State} {la : Nat} (h : held s (la / 128) = true) (ctx : Nat) (b : BitVec 8) :
    ∃ l, Tab.find s.slices (la / 128) = some l ∧ putSliceByte s ctx la b =
      { s with slices := Tab.put s.slices (la / 128) ⟨setLineByte l.data (la % 128) b, l.dirty ||| (1#128 <<< (la % 128)), ctx⟩ } := by
  obtain ⟨l, found⟩ := Option.isSome_iff_exists.1 h
  refine ⟨l, found, ?_⟩
  simp only [putSliceByte, fillSlice_of_held h, found]

theorem held_putSliceByte {s : State} {la : Nat} (h : held s (la / 128) = true) (ctx : Nat) (b : BitVec 8) (k : Nat) :
    held (putSliceByte s ctx la b) k = held s k := by
  obtain ⟨l, -, written⟩ := putSliceByte_rest h ctx b
  rw [written, held, Tab.find_put]
  split
  · simp_all
  · rfl

/-- What a slice's line, if there is one, shows of a byte: its own where that is dirty, else the frame's. -/
def shown (frame : BitVec 8) (line : Option SLine) (i : Nat) : BitVec 8 :=
  match line with
  | some l => if l.dirty.getLsbD i then lineByte l.data i else frame
  | none => frame

theorem logByte_noCells {s : State} (noCells : s.cells = []) (a : Nat) :
    logByte s a = shown (frameByte s a) (Tab.find s.slices (a / 128)) (a % 128) := by
  have uncovered : cellByte s false a = none := by simp [cellByte, noCells]
  unfold logByte
  rw [uncovered]
  rfl

/-- Read after write (R8), through the slice's line. -/
theorem logByte_putSliceByte {s : State} {la : Nat} (h : held s (la / 128) = true) (noCells : s.cells = []) (ctx : Nat) (b : BitVec 8) (a : Nat) :
    logByte (putSliceByte s ctx la b) a = if a = la then b else logByte s a := by
  obtain ⟨l, found, written⟩ := putSliceByte_rest h ctx b
  have inLine : a % 128 < 128 := Nat.mod_lt _ (by decide)
  have frame (x : Tab SLine) : frameByte { s with slices := x } a = frameByte s a := rfl
  have noCells' : (putSliceByte s ctx la b).cells = [] := by rw [written]; exact noCells
  rw [logByte_noCells noCells', logByte_noCells noCells, written, frame]
  simp only [Tab.find_put]
  by_cases sameLine : a / 128 = la / 128
  · have own : a % 128 = la % 128 ↔ a = la := by omega
    simp only [sameLine, if_true, found, shown, getLsbD_setDirty _ inLine, lineByte_setLineByte _ inLine, own]
    by_cases here : a = la <;> simp [here]
  · have other : a ≠ la := fun e => sameLine (e ▸ rfl)
    simp only [sameLine, other, if_false]

theorem cutOff_alive {s : State} (alive : s.stations = []) (la : Nat) : cutOff s ⟨.log, la⟩ = false := by
  simp [cutOff, deadStation, stationOf, alive, Tab.fetch, Tab.find, blankStation]

theorem mem_linesFor {s : State} (alive : s.stations = []) {la n i : Nat} (h : i < n) : (la + i) / 128 ∈ linesFor s (logPlaces la n) :=
  List.mem_eraseDups.2 (List.mem_map.2 ⟨⟨.log, la + i⟩,
    List.mem_filter.2 ⟨mem_logPlaces.2 ⟨i, h, rfl⟩, by simp [cutOff_alive alive]⟩, rfl⟩)

/-- Without cells and dead stations a store goes to its line alone. -/
theorem setLogByte_eq {s : State} (alive : s.stations = []) (noCells : s.cells = []) (ctx la : Nat) (b : BitVec 8) :
    setLogByte s ctx la b = putSliceByte s ctx la b := by
  have kept : retireAt s false la = s := by simp [retireAt, noCells]
  simp only [setLogByte, cutOff_alive alive, kept, Bool.false_eq_true, if_false]

theorem logByte_putLogBytes (data : List (BitVec 8)) {s : State} {la : Nat} (alive : s.stations = []) (noCells : s.cells = [])
    (lines : ∀ i < data.length, held s ((la + i) / 128) = true) (ctx a : Nat) :
    logByte (putLogBytes s ctx la data) a = if la ≤ a ∧ a < la + data.length then data.getD (a - la) 0 else logByte s a := by
  induction data generalizing s la with
  | nil => rw [if_neg (by simp)]; rfl
  | cons b data ih =>
    have first : held s (la / 128) = true := lines 0 (by simp)
    obtain ⟨l, -, written⟩ := putSliceByte_rest first ctx b
    have rest : ∀ i < data.length, held (putSliceByte s ctx la b) ((la + 1 + i) / 128) = true := fun i hi => by
      rw [held_putSliceByte first, Nat.add_assoc, Nat.add_comm 1]
      exact lines (i + 1) (by simpa using hi)
    rw [putLogBytes, setLogByte_eq alive noCells, ih (by rw [written]; exact alive) (by rw [written]; exact noCells) rest,
      logByte_putSliceByte first noCells, List.length_cons]
    rcases Nat.lt_trichotomy a la with before | here | after
    · rw [if_neg (by omega), if_neg (by omega), if_neg (by omega)]
    · subst here
      rw [if_neg (by omega), if_pos rfl, if_pos (by omega)]
      simp
    · have index : a - la = a - (la + 1) + 1 := by omega
      rw [if_neg (by omega : ¬ a = la), index, List.getD_cons_succ]
      by_cases inside : a < la + 1 + data.length
      · rw [if_pos ⟨after, inside⟩, if_pos (by omega)]
      · rw [if_neg (by omega), if_neg (by omega)]

/-! ### BAR4_WRITE -/

theorem execBar4Write_unbacked {s : State} {la : Nat} {data : List (BitVec 8)} (h : barBacked s la data.length = false) :
    execBar4Write la data s = .next (unsupported s true) := by
  rw [execBar4Write, h]
  rfl

theorem fillSector_poison {s : State} {x : Loc} (alive : frameLost s (x.addr / 128) = false) (clean : s.poison = []) :
    (fillSector s x).poison = [] := by
  simp only [fillSector, alive, Bool.false_eq_true, if_false]
  split
  · simp [carrySector, clean]
  · exact clean

theorem frameLost_alive {s : State} (alive : s.stations = []) (line : Nat) : frameLost s line = false := by
  simp [frameLost, deadStation, stationOf, alive, Tab.fetch, Tab.find, blankStation]

theorem fillSlice_poison {s : State} {line : Nat} (room : s.slices.length < sliceLeast) (alive : s.stations = []) (clean : s.poison = []) :
    (fillSlice s line).poison = [] := by
  cases h : held s line with
  | true => rwa [fillSlice_of_held h]
  | false =>
    have taken := lineTaken_homes s line
    rw [fillSlice_of_room h room]
    refine fillSector_poison ?_ (fillSector_poison ?_ ((lineTaken_checks s line).1.trans clean))
    · rw [frameLost_congr (fillSector_homes ..), frameLost_congr taken, frameLost_alive alive]
    · rw [frameLost_congr taken, frameLost_alive alive]

/-- A write into clean sectors takes its lines in, and no more (R98). -/
theorem mergePlaces_filled {s : State} {ls : List Loc} (alive : s.stations = []) (clean : s.poison = []) (sound : s.badCheck = [])
    (room : s.slices.length + ls.length ≤ sliceLeast) (ctx : Nat) : mergePlaces s ctx ls = fillLines s ls := by
  have fits : s.slices.length + (linesFor s ls).length ≤ sliceLeast := by
    have := length_linesFor_le s ls
    omega
  obtain ⟨-, clean', sound'⟩ := fillSlices_keep (P := fun t => t.stations = [] ∧ t.poison = [] ∧ t.badCheck = [])
    (fun t line now ⟨alive, clean, sound⟩ =>
      ⟨(stations_congr (fillSlice_homes now)).trans alive, fillSlice_poison now alive clean, fillSlice_badCheck now sound⟩)
    _ _ fits ⟨alive, clean, sound⟩
  have uncut : chargeCut s ctx ls = s := by simp [chargeCut, alive]
  simp only [mergePlaces, uncut, fillLines_eq, clean', sound', List.isEmpty_nil, Bool.and_self, if_true]

/-- A store of consecutive bytes at their home slices: they read as written, and every other byte as before (R8). -/
theorem logByte_setLogBytes {s : State} {la : Nat} {data : List (BitVec 8)} (alive : s.stations = []) (clean : s.poison = [])
    (sound : s.badCheck = []) (noCells : s.cells = []) (room : s.slices.length + data.length ≤ sliceLeast) (ctx a : Nat) :
    logByte (setLogBytes s ctx la data) a = if la ≤ a ∧ a < la + data.length then data.getD (a - la) 0 else logByte s a := by
  have places : s.slices.length + (logPlaces la data.length).length ≤ sliceLeast := by simpa [logPlaces] using room
  have fits := (Nat.add_le_add_left (length_linesFor_le s (logPlaces la data.length)) _).trans places
  have filled : Filled s (fillLines s (logPlaces la data.length)) := .fillSlices _ _ fits
  have lines : ∀ i < data.length, held (fillLines s (logPlaces la data.length)) ((la + i) / 128) = true :=
    fun i hi => held_fillSlices _ _ fits (.inl (mem_linesFor alive hi))
  have merged : setLogBytes s ctx la data = putLogBytes (fillLines s (logPlaces la data.length)) ctx la data :=
    congrArg (putLogBytes · ctx la data) (mergePlaces_filled alive clean sound places ctx)
  rw [merged, logByte_putLogBytes data ((stations_congr filled.homes).trans alive) (filled.cells.trans noCells) lines, filled.logByte]

/-- R78, R98: the bytes read as the host wrote them, and every other byte as before. -/
theorem execBar4Write_good {s : State} {la : Nat} {data : List (BitVec 8)} (backed : barBacked s la data.length = true)
    (unlocked : barLocked s la data.length = false) (alive : s.stations = []) (clean : s.poison = []) (sound : s.badCheck = [])
    (noCells : s.cells = []) (alone : s.sreqs = []) (room : s.slices.length + data.length < sliceLeast) :
    ∃ t, execBar4Write la data s = .next t ∧
      ∀ a, logByte t a = if la ≤ a ∧ a < la + data.length then data.getD (a - la) 0 else logByte s a := by
  have served : execBar4Write la data s = .next
      (setLogBytes (countLines s hostSource true (logPlaces la data.length)) (hCtx (hingeOf s (la / 65536))) la data) := by
    rw [execBar4Write, backed, unlocked]
    rfl
  obtain ⟨q, m, counted⟩ := countLines_rest alone hostSource true (logPlaces la data.length)
  refine ⟨_, served, fun a => ?_⟩
  rw [counted]
  exact logByte_setLogBytes (s := { s with seqs := q, marks := m }) alive clean sound noCells room.le _ a

end Sys2Proof.Machine
end

section
/-! Reset (R6, R466): the registers of BAR0 right after reset, and after the device reset's event. -/
namespace Sys2Proof.Machine

/-- DEVICE_RESET's step from the reset state: the empty flash holds no image that the boot ROM accepts, so the firmware is in
recovery; nothing else is left of the event. -/
theorem step_reset : step State.reset = .next { State.reset with agenda := [], fw := { State.reset.fw with state := 4 } } := rfl

/-- Only HB_FWSTAT reads the firmware's state, and no register reads the agenda. -/
theorem readReg_setFirmware (s : State) (es : List Instr) (f : Fw) {off : Nat} (h : off ≠ 0x20) :
    readReg { s with agenda := es, fw := f } off = readReg s off := by
  unfold readReg
  refine ite_congr rfl (fun _ => ?_) fun _ => rfl
  split
  case h_3 => exact absurd rfl h
  all_goals rfl

/-- The Reset columns of the register maps, for what each offset of BAR0 reads. -/
structure ResetColumn (read : Nat → BitVec 64) : Prop where
  tier : ∀ st < 2, read (0x2_0010 + 0x1000 * st) = 64 <<< 24 ||| 2 <<< 16 ||| 1024 <<< 4
  keywayStore : ∀ st < 2, ∀ q < 4, read (0x3_0010 + 0x1000 * st + 8 * q) = 16
  matrix : ∀ n < 22, read (0x5_0000 + 0x100 * n) = 32768 ∧ read (0x5_0008 + 0x100 * n) = 0 ∧ read (0x5_0010 + 0x100 * n) = 131072
  zero : ∀ off ∈ [0x18, 0x40, 0x48, 0x50, 0x100, 0x108, 0x110, 0x118, 0x1_0000, 0x1_0008, 0x2_0000, 0x2_1000, 0x3_0000, 0x3_1000, 0x3_0008,
    0x3_1008, 0x3_0030, 0x3_1030, 0x3_0038, 0x3_1038, 0x4_0000, 0x4_0008, 0x4_0010, 0x4_1010, 0x4_0020, 0x4_1020, 0x6_0000, 0x6_0008,
    0x6_0010], read off = 0

/-- HB_FWSTAT is outside the column. -/
theorem ResetColumn.congr {read read' : Nat → BitVec 64} (h : ResetColumn read) (he : ∀ off, off ≠ 0x20 → read' off = read off) :
    ResetColumn read' where
  tier st hst := by rw [he _ (by omega)]; exact h.tier st hst
  keywayStore st hst q hq := by rw [he _ (by omega)]; exact h.keywayStore st hst q hq
  matrix n hn := by rw [he _ (by omega), he _ (by omega), he _ (by omega)]; exact h.matrix n hn
  zero off ho := by rw [he off (by rintro rfl; simp at ho)]; exact h.zero off ho

theorem resetColumn_reset : ResetColumn (readReg State.reset) where
  tier := by decide +kernel
  keywayStore := by decide +kernel
  matrix := by decide +kernel
  zero := by decide +kernel

/-- Settles O60: both states have the reset column, the second because DEVICE_RESET changes only what HB_FWSTAT reads. -/
theorem resetValues : Obligations.ResetValues := by
  have column := resetColumn_reset
  have column' := column.congr fun off => readReg_setFirmware State.reset [] { State.reset.fw with state := 4 }
  exact ⟨⟨State.memWf_reset, rfl, rfl, rfl, rfl, rfl, column.tier, column.keywayStore, column.matrix, column.zero⟩,
    ⟨_, step_reset, State.memWf_reset, rfl, rfl, rfl, rfl, rfl, column'.tier, column'.keywayStore, column'.matrix, column'.zero⟩, rfl⟩

end Sys2Proof.Machine
end

section
/-! Writes of the registers of BAR0 (R6, R449) and the events that they start (R146, R191, R233, R405, R451, R454). -/
namespace Sys2Proof.Machine

/-! ### The access itself -/

theorem barAligned_iff (off size : Nat) : barAligned off size = true ↔ (size = 4 ∨ size = 8) ∧ off % size = 0 := by
  simp [barAligned]

theorem execRegisterWrite_misaligned {off size : Nat} (h : off < 0x40_0000) (bad : ¬ ((size = 4 ∨ size = 8) ∧ off % size = 0)) (v : BitVec 64)
    (s : State) : execRegisterWrite off size v s = .next (unsupported s true) := by
  rw [← barAligned_iff, Bool.not_eq_true] at bad
  simp [execRegisterWrite, bad, Nat.not_le.2 h]

theorem execBar0UnsupportedAccess_misaligned {off size : Nat} (bad : ¬ ((size = 4 ∨ size = 8) ∧ off % size = 0)) (w : Bool) (s : State) :
    execBar0UnsupportedAccess off size w s = .next (unsupported s w) := by
  rw [← barAligned_iff] at bad
  rw [execBar0UnsupportedAccess, if_neg bad]

/-- R459, R466: while the boot ROM runs, no write goes through. -/
theorem execRegisterWrite_booting {off size : Nat} {s : State} (booting : s.fw.state = 0) (aligned : barAligned off size = true) (v : BitVec 64) :
    execRegisterWrite off size v s = .next s := by
  simp [execRegisterWrite, aligned, regOpen, booting]

/-- A write that the firmware lets through. -/
theorem execRegisterWrite_open {off size : Nat} {s : State} (inside : off < 0x40_0000) (aligned : barAligned off size = true)
    (opened : regOpen s off = true) (v : BitVec 64) : execRegisterWrite off size v s =
      if size = 8 then .next (writeReg s off v) else if commandReg (off / 8 * 8) then .next s
      else .next (writeReg s (off / 8 * 8) (mergeHalf s off v)) := by
  rw [execRegisterWrite, if_neg (Nat.not_le.2 inside), aligned, opened]
  rfl

theorem regOpen_hostAddr {s : State} (runs : s.fw.state = 3 ∨ s.fw.state = 4) {off : Nat} (h : off / 8 * 8 = 0x40) : regOpen s off = true := by
  rcases runs with runs | runs <;> simp [regOpen, runs, h]

/-- R6: the upper half of HB_HOSTADDR. -/
theorem mergeHalf_hostAddr (s : State) (v : BitVec 64) :
    (mergeHalf s 0x44 v).toNat = v.toNat % 2 ^ 32 * 2 ^ 32 + s.hb.hostAddr.toNat % 2 ^ 32 := by
  have halves : mergeHalf s 0x44 v = (s.hb.hostAddr &&& ~~~0#64 &&& 0xFFFF_FFFF#64) ||| (v <<< 32) := rfl
  have low : (0xFFFF_FFFF#64).toNat = 2 ^ 32 - 1 := rfl
  have high : v.toNat <<< 32 % 2 ^ 64 = (v.toNat % 2 ^ 32) <<< 32 := by simp only [Nat.shiftLeft_eq]; omega
  have unmasked : s.hb.hostAddr &&& ~~~0#64 = s.hb.hostAddr := BitVec.and_allOnes
  rw [halves, unmasked, BitVec.toNat_or, BitVec.toNat_and, low, Nat.and_two_pow_sub_one_eq_mod, BitVec.toNat_shiftLeft, high, Nat.lor_comm,
    ← Nat.shiftLeft_add_eq_or_of_lt (Nat.mod_lt _ (by decide)), Nat.shiftLeft_eq]

/-- R459, R6: HB_HOSTADDR takes a write of all of it, or of its upper half, from the moment that firmware or recovery runs. -/
theorem execRegisterWrite_hostAddr {s : State} (runs : s.fw.state = 3 ∨ s.fw.state = 4) (v : BitVec 64) :
    execRegisterWrite 0x40 8 v s = .next { s with hb := { s.hb with hostAddr := v } }
      ∧ execRegisterWrite 0x44 4 v s = .next { s with hb := { s.hb with hostAddr := mergeHalf s 0x44 v } } :=
  ⟨execRegisterWrite_open (by decide) rfl (regOpen_hostAddr runs rfl) v, execRegisterWrite_open (by decide) rfl (regOpen_hostAddr runs rfl) v⟩

/-! ### Registers of the link, of contexts and of queues -/

theorem portOf_setPort (s : State) (p k : Nat) (v : BitVec 64) : portOf (setPort s p v) k = if k = p then v else portOf s k :=
  Tab.fetch_store ..

theorem bit_eq_testBit (n k : Nat) : bit n k = n.testBit k := by
  rw [bit, Nat.testBit_eq_decide_div_mod_eq, Nat.shiftRight_eq_div_pow]
  exact beq_eq_decide ..

/-- A port trains anew: it is down and keeps the count of its retries (R454). -/
def retrain (s : State) (p : Nat) : State := setPort s p (portWord false 0 (portRetry (portOf s p)))

theorem portWord_down (r : Nat) (h : r < 2 ^ 32) : bit (portWord false 0 r).toNat 63 = false ∧ portRetry (portWord false 0 r) = r := by
  have word : (portWord false 0 r).toNat = r := by simp [portWord]; omega
  refine ⟨?_, ?_⟩
  · rw [word, bit_eq_testBit]; exact Nat.testBit_lt_two_pow (by omega)
  · rw [portRetry, word]; simp only [bits]; omega

theorem portRetry_lt (v : BitVec 64) : portRetry v < 2 ^ 32 := Nat.mod_lt _ (by decide)

theorem portOf_retrain (s : State) (p k : Nat) :
    portOf (retrain s p) k = if k = p then portWord false 0 (portRetry (portOf s p)) else portOf s k := portOf_setPort ..

theorem portRetry_retrain (s : State) (p k : Nat) : portRetry (portOf (retrain s p) k) = portRetry (portOf s k) := by
  rw [portOf_retrain]
  split
  · rename_i h; subst h; exact (portWord_down _ (portRetry_lt _)).2
  · rfl

theorem bit63_retrain {s : State} {p k : Nat} (h : k = p ∨ bit (portOf s k).toNat 63 = false) : bit (portOf (retrain s p) k).toNat 63 = false := by
  rw [portOf_retrain]
  split
  · exact (portWord_down _ (portRetry_lt _)).1
  · exact h.resolve_left ‹_›

/-- Ports that have trained anew are down. -/
theorem bit63_retrains (l : List Nat) {s : State} {k : Nat} (h : k ∈ l ∨ bit (portOf s k).toNat 63 = false) :
    bit (portOf (l.foldl retrain s) k).toNat 63 = false := by
  induction l generalizing s with
  | nil => simpa using h
  | cons p l ih =>
    refine ih ?_
    rcases h with h | h
    · exact (List.mem_cons.1 h).elim (fun e => .inr (bit63_retrain (.inl e))) .inl
    · exact .inr (bit63_retrain (.inr h))

/-- DEVID is written from the value in hand. -/
def namedAnew (s : State) : State := { s with hb := { s.hb with hbId := BitVec.ofNat 64 (s.hb.wval.toNat % 65536) } }

theorem execHbIdWrite_eq (s : State) : execHbIdWrite s = .next ((List.range 12).foldl retrain (namedAnew s)) := rfl

/-- R454: DEVID is written, and every port is down with its count as it was. -/
theorem execHbIdWrite_spec (s : State) : ∃ t, execHbIdWrite s = .next t ∧ t.hb.hbId.toNat = s.hb.wval.toNat % 65536
    ∧ ∀ p < 12, bit (portOf t p).toNat 63 = false ∧ portRetry (portOf t p) = portRetry (portOf s p) := by
  refine ⟨_, execHbIdWrite_eq s, ?_, fun p hp => ⟨bit63_retrains _ (.inl (List.mem_range.2 hp)), ?_⟩⟩
  · rw [foldl_same (fun s => s.hb.hbId) retrain (fun _ _ => rfl)]
    simp only [namedAnew, BitVec.toNat_ofNat]
    omega
  · exact foldl_same (fun s => portRetry (portOf s p)) retrain (fun s k => portRetry_retrain s k p) _ (namedAnew s)

/-- R451: the table moves only while no context is bound. -/
theorem execHbCtxtabWrite_spec (s : State) : ∃ t, execHbCtxtabWrite s = .next t ∧ t = { s with hb := { s.hb with ctxTab := t.hb.ctxTab } }
    ∧ (s.ctxs ≠ [] → t = s) ∧ (s.ctxs = [] → t.hb.ctxTab.toNat = s.hb.wval.toNat / 2 ^ 20 * 2 ^ 20) := by
  have hw := s.hb.wval.isLt
  by_cases bound : s.ctxs = []
  · refine ⟨_, congrArg Host.Outcome.next (if_pos (by simp [bound])), rfl, fun h => absurd bound h, fun _ => ?_⟩
    simp only [BitVec.toNat_ofNat]
    omega
  · exact ⟨s, congrArg Host.Outcome.next (if_neg (by simpa using bound)), rfl, fun _ => rfl, fun h => absurd h bound⟩

/-- R405: EN and, while it was 0, BASE; judging the doorbells does not change the register. -/
theorem execQmQtableWrite_spec (s : State) : ∃ t, execQmQtableWrite s = .next t ∧ t.hb.qtable.toNat % 65536 = s.hb.wval.toNat % 2
    ∧ t.hb.qtable.toNat / 65536 = (if s.hb.qtable.toNat % 2 = 1 then s.hb.qtable.toNat else s.hb.wval.toNat) / 65536 := by
  refine ⟨_, rfl, ?_⟩
  rw [later_hb, apply_ite State.hb, apply_ite HostRegs.qtable, takeTails_qtable, ite_self]
  have hq := s.hb.qtable.isLt
  have hw := s.hb.wval.isLt
  have bit0 (n : Nat) : bit n 0 = true ↔ n % 2 = 1 := by simp [bit]
  simp only [BitVec.toNat_ofNat, bit0]
  split <;> omega

/-! ### Registers of the stacks -/

theorem storeUsed_none {s : State} {q : Nat} (h : s.tiles.all (fun e => e.1 / 16 ≠ q) = true) : storeUsed s q = 0 := by
  simp only [List.all_eq_true, decide_eq_true_eq] at h
  exact foldl_keeps (· = 0) _ _ _ rfl fun a ha e he => by rw [if_neg (h e he), ha]

/-- R146: with no tile in the quadrant and room in the slices, only SIZE changes. -/
theorem execFbKwStoreWrite_empty {s : State} {st q : Nat} {v : BitVec 64} (hst : st < 2) (hq : q < 4) (fits : (v.setWidth 7).toNat ≤ 64)
    (empty : s.tiles.all (fun e => e.1 / 16 ≠ 4 * st + q) = true) (room : s.slices.length < sliceLeast) : execFbKwStoreWrite st q v s =
      .next { s with hb := { s.hb with kwStore := Tab.store 16 s.hb.kwStore (4 * st + q) (v.setWidth 7) } } := by
  have legal : ¬ (64 < (v.setWidth 7).toNat ∨ 1 < st ∨ 3 < q) := by omega
  generalize ht : ({ s with hb := { s.hb with kwStore := Tab.store 16 s.hb.kwStore (4 * st + q) (v.setWidth 7) } } : State) = t
  have unused : storeUsed t (4 * st + q) = 0 := storeUsed_none (by rw [← ht]; exact empty)
  have stored : storeRoom (4 * st + q) 0 (t.tiles.length + 1) t = t := by simp [storeRoom, unused]
  have kept (n : Nat) : shrinkSlice t n = t := by
    have : t.slices.length < sliceLeast := by rw [← ht]; exact room
    simp [shrinkSlice, this]
  have step : execFbKwStoreWrite st q v s = .next
      ((List.range 16).foldl (fun s i => shrinkSlice s (16 * (4 * st + q) + i)) (storeRoom (4 * st + q) 0 (t.tiles.length + 1) t)) := by
    subst ht
    exact if_neg legal
  rw [step, stored, List.foldl_fixed' fun i => kept (16 * (4 * st + q) + i)]

theorem execFbCellAreaWrite_free {s : State} {st : Nat} (hst : st < 2) (free : ∀ c ∈ s.cells, c.parked = true → c.slice / 64 ≠ st) (v : BitVec 64) :
    execFbCellAreaWrite st v s = .next { s with hb := { s.hb with cellArea := Tab.store 0 s.hb.cellArea st v } } := by
  have none : ¬ (2 ≤ st ∨ (s.cells.any fun c => c.parked && c.slice / 64 == st) = true) := by
    simpa [Nat.not_le.2 hst] using free
  rw [execFbCellAreaWrite, if_neg none]

/-! ### The bank program (R191) -/

theorem execSfNbpDataWrite_idle {s : State} (idle : bit s.hb.nbpCtl.toNat 63 = false) : ∃ t, execSfNbpDataWrite s = .next t
    ∧ t.hb.nbpData = s.hb.wval ∧ bit t.hb.nbpCtl.toNat 63 = true ∧ t.agenda = s.agenda ++ [.bankProgramInstall] := by
  refine ⟨_, if_neg (by simp [idle]), rfl, ?_, rfl⟩
  simp only [bit_eq_testBit, later_hb, BitVec.toNat_or, Nat.testBit_or]
  exact Bool.or_eq_true_iff.2 (.inr rfl)

theorem execBankProgramInstall_busy {s : State} (busy : bit s.hb.nbpCtl.toNat 63 = true) : ∃ t, execBankProgramInstall s = .next t
    ∧ Tab.fetch 0 t.bankProg (s.hb.nbpCtl.toNat % 64) = s.hb.nbpData ∧ t.hb.nbpCtl.toNat = (s.hb.nbpCtl.toNat % 64 + 1) % 64
    ∧ ∀ k, k ≠ s.hb.nbpCtl.toNat % 64 → Tab.fetch 0 t.bankProg k = Tab.fetch 0 s.bankProg k := by
  have word : bits s.hb.nbpCtl.toNat 5 0 = s.hb.nbpCtl.toNat % 64 := rfl
  refine ⟨_, if_pos busy, ?_, ?_, fun k hk => ?_⟩
  · rw [word]; exact Tab.fetch_store_same ..
  · simp only [word, BitVec.toNat_ofNat]; omega
  · simp only [word, Tab.fetch_store, hk, if_false]

/-- Settles O40: one law above for each register and each kind of BAR4 access. -/
theorem hostRegisterEvents : Obligations.HostRegisterEvents := by
  intro s off size la st q n v w data
  refine ⟨fun inside bad => ⟨execRegisterWrite_misaligned inside bad v s, execBar0UnsupportedAccess_misaligned bad w s⟩, ?booting, ?hostAddr,
    execHbIdWrite_spec s, execHbCtxtabWrite_spec s, execQmQtableWrite_spec s, execFbKwStoreWrite_empty, fun hst free => execFbCellAreaWrite_free hst free v,
    execSfNbpDataWrite_idle, execBankProgramInstall_busy, execBar4Read_unbacked, ?read, execBar4Write_unbacked, ?write⟩
  case booting =>
    rintro booting rfl aligned
    exact execRegisterWrite_booting booting ((barAligned_iff _ _).2 ⟨.inr rfl, aligned⟩) v
  case hostAddr =>
    intro runs
    obtain ⟨whole, half⟩ := execRegisterWrite_hostAddr runs v
    exact ⟨whole, _, half, rfl, mergeHalf_hostAddr s v⟩
  case read =>
    rintro backed unlocked good ⟨sound, noCells, alone, room⟩
    exact execBar4Read_good backed unlocked good sound noCells alone room
  case write =>
    rintro backed unlocked alive clean ⟨sound, noCells, alone, room⟩
    exact execBar4Write_good backed unlocked alive clean sound noCells alone room

end Sys2Proof.Machine
end

section
/-! Floating-point words (R35, R39, R276): the results of the active lanes with their draws, the lowest lane that traps, and the
packed register that a word writes. -/
namespace Sys2Proof.Machine

/-! ### Draws (R35) -/

theorem srSeq_snd (g : BitVec 32) (n : Nat) : (srSeq g n).2 = srStep^[n] g := by
  induction n generalizing g with
  | zero => rfl
  | succ n ih => exact ih (srStep g)

theorem srSeq_getD (g : BitVec 32) {n i : Nat} (h : i < n) : (srSeq g n).1.getD i none = some (srBits (srStep^[i + 1] g)) := by
  induction n generalizing g i with
  | zero => omega
  | succ n ih =>
    cases i with
    | zero => rfl
    | succ i => exact ih (srStep g) (by omega)

theorem WCtx.lanes_sorted (c : WCtx) : c.lanes.Pairwise (· < ·) := List.pairwise_lt_range.filter _

theorem WCtx.lanes_nodup (c : WCtx) : c.lanes.Nodup := c.lanes_sorted.imp fun h => Nat.ne_of_lt h

/-- The results of a word: for each active lane, lowest first, those of its `n` elements. -/
def laneResults (c : WCtx) (n : Nat) (r : Nat → Nat → FRes) : List (Nat × List FRes) := c.lanes.map fun l => (l, (List.range n).map (r l))

/-- Lanes and elements take their draws in order. -/
theorem evalLanes_eq (c : WCtx) (dst n : Nat) (f : Nat → Nat → Option Nat → FRes) :
    evalLanes c dst n f = (laneResults c n fun l k => f l k (srDrawOf c dst n l k), srgAfter c dst n) := by
  by_cases hd : c.g.rnd = 5 ∧ srApplies dst = true
  · have draws : drawsSr c dst = true := by simp [drawsSr, hd]
    simp only [evalLanes, draws, if_true, srSeq_snd, srgAfter, hd, and_self, laneResults, Prod.mk.injEq, and_true]
    refine List.ext_getElem (by simp) fun i hi _ => ?_
    have hi : i < c.lanes.length := by simpa using hi
    simp only [List.getElem_map, List.getElem_zipIdx, Nat.zero_add, Prod.mk.injEq, true_and]
    refine List.map_congr_left fun k hk => ?_
    have inside : n * i + k < n * c.lanes.length :=
      Nat.lt_of_lt_of_le (Nat.add_lt_add_left (List.mem_range.1 hk) _) (Nat.mul_le_mul_left n hi)
    rw [srSeq_getD _ inside, srDrawOf, if_pos hd, c.lanes_nodup.idxOf_getElem]
  · have draws : drawsSr c dst = false := by simpa [drawsSr] using hd
    simp only [evalLanes, draws, Bool.false_eq_true, if_false, srgAfter, hd, laneResults, Prod.mk.injEq, and_true]
    refine List.ext_getElem (by simp) fun i _ _ => ?_
    simp [srDrawOf, hd]

/-! ### Conditions (R39) -/

theorem fpDetail_eq_zero (rs : List FRes) : fpDetail rs = 0 ↔ ∀ r ∈ rs, r.inv = false ∧ r.dz = false ∧ r.ov = false := by
  have bits (a b c : Bool) : (if a then 1 else 0) + (if b then 2 else 0) + (if c then 4 else 0) = 0 ↔ a = false ∧ b = false ∧ c = false := by
    revert a b c; decide
  rw [fpDetail, bits]
  simp only [List.any_eq_false, Bool.not_eq_true]
  exact ⟨fun ⟨h, h', h''⟩ r hr => ⟨h r hr, h' r hr, h'' r hr⟩, fun h => ⟨fun r hr => (h r hr).1, fun r hr => (h r hr).2.1, fun r hr => (h r hr).2.2⟩⟩

theorem fpCheck_quiet {c : WCtx} {n : Nat} {r : Nat → Nat → FRes} (h : Quiet c n r) : fpCheck c (laneResults c n r) = .ok () := by
  unfold fpCheck
  split
  · rename_i trap
    have none : (laneResults c n r).find? (fun x => fpDetail x.2 != 0) = none := by
      rw [List.find?_eq_none]
      intro x hx
      obtain ⟨l, hl, rfl⟩ := List.mem_map.1 hx
      have : fpDetail ((List.range n).map (r l)) = 0 := by
        rw [fpDetail_eq_zero]
        intro y hy
        obtain ⟨k, hk, rfl⟩ := List.mem_map.1 hy
        exact h trap l hl k (List.mem_range.1 hk)
      simp [this]
    rw [none]
  · rfl

/-- In a rising list the first element of which a test holds is the least. -/
theorem find?_eq_least {p : Nat → Bool} {l : Nat} {xs : List Nat} (sorted : xs.Pairwise (· < ·)) (mem : l ∈ xs) (here : p l = true)
    (below : ∀ m ∈ xs, m < l → p m = false) : xs.find? p = some l := by
  induction xs with
  | nil => cases mem
  | cons x xs ih =>
    obtain ⟨least, sorted⟩ := List.pairwise_cons.1 sorted
    rcases List.mem_cons.1 mem with rfl | mem
    · exact List.find?_cons_of_pos here
    · rw [List.find?_cons_of_neg (by simp [below x (List.mem_cons_self ..) (least l mem)])]
      exact ih sorted mem fun m hm => below m (List.mem_cons_of_mem _ hm)

theorem fpCheck_traps {c : WCtx} {n l : Nat} {r : Nat → Nat → FRes} (trap : c.g.trapFp = true) (mem : l ∈ c.lanes)
    (here : fpDetail ((List.range n).map (r l)) ≠ 0) (below : ∀ m ∈ c.lanes, m < l → fpDetail ((List.range n).map (r m)) = 0) :
    fpCheck c (laneResults c n r) = .error (.trap ⟨0x0B, fpDetail ((List.range n).map (r l)), 0, l⟩) := by
  have first : (laneResults c n r).find? (fun x => fpDetail x.2 != 0) = some (l, (List.range n).map (r l)) := by
    rw [laneResults, List.find?_map, find?_eq_least c.lanes_sorted mem (by simpa using here) fun m hm hlt => by simpa using below m hm hlt]
    rfl
  rw [fpCheck, if_pos trap, first]

/-! ### What a word writes -/

theorem Group.val_lt (g : Group) (wide : Bool) (i l : Nat) : g.val wide i l < 2 ^ (if wide then 64 else 32) := by
  unfold Group.val
  cases wide
  · exact BitVec.isLt _
  · have lo := (g.elem (g.rowNo 1 i 0) l).isLt
    have hi := (g.elem (g.rowNo 1 i 1) l).isLt
    simp only [if_true]
    omega

theorem Opnd.val_lt (g : Group) (o : Opnd) (l : Nat) : o.val g l < 2 ^ (if o.wide then 64 else 32) := by
  unfold Opnd.val
  split
  · cases o.wide
    · exact Nat.mod_lt _ (Nat.two_pow_pos _)
    · exact BitVec.isLt _
  · exact g.val_lt ..

theorem laneVals_laneResults (e : Nat) (c : WCtx) (n : Nat) (r : Nat → Nat → FRes) :
    laneVals e (laneResults c n r) = c.lanes.map fun l => (l, joinElems e ((List.range n).map fun k => (r l k).bits)) := by
  simp [laneVals, laneResults, Function.comp_def]

theorem elemAt_joinElems_range {e n k : Nat} (f : Nat → Nat) (h : k < n) : elemAt e (joinElems e ((List.range n).map f)) k = f k % 2 ^ e := by
  rw [elemAt_joinElems, getD_map_range _ _ _ h]

/-- A word that writes `n` results of `e` bits to each active lane of a register. -/
theorem completes_putFloat {s : State} {c : WCtx} (h : Issues s c) (wide : Bool) (d : Nat) {e n : Nat} (fits : e * n ≤ if wide then 64 else 32)
    (r : Nat → Nat → FRes) (tag : Nat) (srg : BitVec 32) :
    Completes (.next (finish (putFloat s c wide d (laneVals e (laneResults c n r)) tag srg) c)) s c [] 0
      (WritesRow s c wide d (fun l v => ∀ k < n, elemAt e v k = (r l k).bits % 2 ^ e) tag srg) := by
  rw [laneVals_laneResults]
  refine (completes_group h (fun g => { g.putReg wide d _ tag with srg }) (fun _ => rfl) fun _ => rfl).mono fun g g' hg eq => ?_
  refine writesRow_putReg g g' (h.width hg) wide d _ tag srg _ (fun l _ k hk => ?_) eq
  rw [elemAt_mod ((Nat.mul_le_mul_left e hk).trans fits), elemAt_joinElems_range _ hk]

/-- An element-wise word none of whose conditions trap. -/
theorem floatWord_completes {s : State} {c : WCtx} (h : Issues s c) (he : c.eff ≠ 0) {okTy : Nat → Bool} (ha : okTy c.g.ty = true) {d : BitVec 7}
    {os : Bool → List Opnd} {f : WCtx → Nat → Nat → Option Nat → FRes} (hr : Readable c (os (tWide c.g.ty)))
    (hq : Quiet c (elemCount c.g.ty) fun l k => f c l k (srDrawOf c c.g.ty (elemCount c.g.ty) l k)) :
    Completes (floatWord s okTy d os f) s c [] 0 (WritesRow s c (tWide c.g.ty) d.toNat (fun l v => ∀ k < elemCount c.g.ty,
        elemAt (tWidth c.g.ty) v k = (f c l k (srDrawOf c c.g.ty (elemCount c.g.ty) l k)).bits % 2 ^ tWidth c.g.ty)
      c.g.ty (srgAfter c c.g.ty (elemCount c.g.ty))) := by
  rw [floatWord, runWord_ok h he _ (by simp only [vecCheck_ok ha hr, evalLanes_eq, fpCheck_quiet hq]; rfl)]
  exact completes_putFloat h _ _ (by rw [elem_width, Nat.mul_comm]) _ _ _

/-- An element-wise word one of whose lanes traps. -/
theorem floatWord_traps {s : State} {c : WCtx} (h : Issues s c) (he : c.eff ≠ 0) {okTy : Nat → Bool} (ha : okTy c.g.ty = true) {d : BitVec 7}
    {os : Bool → List Opnd} {f : WCtx → Nat → Nat → Option Nat → FRes} (hr : Readable c (os (tWide c.g.ty))) {t : Trap}
    (ht : fpCheck c (laneResults c (elemCount c.g.ty) fun l k => f c l k (srDrawOf c c.g.ty (elemCount c.g.ty) l k)) = .error (.trap t)) :
    floatWord s okTy d os f = .next (takeFault s c.key c.si t c.sp.pc false) := by
  rw [floatWord, runWord_trap h he _ (by simp only [vecCheck_ok ha hr, evalLanes_eq, ht]; rfl)]

theorem runLong_trap {s : State} {c : WCtx} {t : Trap} (h : Issues s c) (he : c.eff ≠ 0) (free : TumblerFree c)
    {body : WCtx → State → Try (State × Pending)} (hb : body c s = .error (.trap t)) :
    runLong s body = .next (takeFault s c.key c.si t c.sp.pc false) := by
  refine runWord_trap h he _ ?_
  simp only [hb]
  split
  · rename_i k hk
    rw [if_neg (Nat.not_le.2 (free k hk))]; rfl
  · rfl

/-- The long-latency words trap as they issue (R278). -/
theorem floatLong_traps {s : State} {c : WCtx} (h : Issues s c) (he : c.eff ≠ 0) (free : TumblerFree c) (ha : tFloat c.g.ty = true) {d : BitVec 7}
    {os : Bool → List Opnd} {f : WCtx → Nat → Nat → Option Nat → FRes} (hr : Readable c (os (tWide c.g.ty))) {t : Trap}
    (ht : fpCheck c (laneResults c (elemCount c.g.ty) fun l k => f c l k (srDrawOf c c.g.ty (elemCount c.g.ty) l k)) = .error (.trap t)) :
    floatLong s d os f = .next (takeFault s c.key c.si t c.sp.pc false) :=
  runLong_trap h he free (by simp only [vecCheck_ok ha hr, evalLanes_eq, ht]; rfl)

end Sys2Proof.Machine
end

section
/-! The element-wise floating-point words (R276 to R289) and their arithmetic faults (R39, R425). -/
namespace Sys2Proof.Machine

/-- R289: the bits below the sign bit come from `a`, the sign bit from `b`. -/
theorem bit_signCopied (e a b : Nat) {q : Nat} (hq : q < e) :
    bit ((a % 2 ^ (e - 1) + b / 2 ^ (e - 1) * 2 ^ (e - 1)) % 2 ^ e) q = if q = e - 1 then bit b q else bit a q := by
  have low : a % 2 ^ (e - 1) < 2 ^ (e - 1) := Nat.mod_lt _ (Nat.two_pow_pos _)
  simp only [bit_eq_testBit, Nat.testBit_mod_two_pow, hq, decide_true, Bool.true_and]
  rw [Nat.add_comm, Nat.mul_comm, Nat.testBit_two_pow_mul_add _ low, Nat.testBit_mod_two_pow]
  by_cases sign : q = e - 1
  · rw [if_neg (by omega), if_pos sign, ← sign, Nat.sub_self, Nat.testBit_div_two_pow, Nat.zero_add]
  · have below : q < e - 1 := by omega
    rw [if_pos below, if_neg sign, decide_eq_true below, Bool.true_and]

/-- Settles O11: each word is `floatWord` with its own function of the elements. -/
theorem floatElementResults : Obligations.FloatElementResults := by
  intro s c d i a j b m h he hf
  simp only [exec_fadd, exec_fsub, exec_fmul, exec_ffma, exec_ffms, exec_ffnma, exec_ffnms, exec_fscale, exec_ffract, exec_frnd, exec_fmin,
    exec_fmax, exec_fcsgn, execFadd, execFsub, execFmul, execFfma, execFfms, execFfnma, execFfnms, execFscale, execFfract, execFrnd, execFmin,
    execFmax, execFcsgn, float1, float2, float3, minmaxWord]
  refine ⟨?_, ?_, ?_, ?_, ?_, ?_, ?_, ?_, ?_, ?_, ?_, ?_, fun hr => ?copySign⟩
  case copySign =>
    refine (floatWord_completes h he hf hr fun _ _ _ _ _ => ⟨rfl, rfl, rfl⟩).mono fun g g' _ ⟨rows, vals⟩ => ⟨rows, fun l hl k hk q hq => ?_⟩
    rw [vals l hl k hk]
    exact bit_signCopied _ _ _ hq
  all_goals exact fun hr hq => floatWord_completes h he hf hr hq

theorem fpDetail_map_range (n : Nat) (r : Nat → FRes) : fpDetail ((List.range n).map r) = (if (List.range n).any (fun k => (r k).inv) then 1 else 0)
    + (if (List.range n).any (fun k => (r k).dz) then 2 else 0) + (if (List.range n).any (fun k => (r k).ov) then 4 else 0) := by
  simp only [fpDetail, List.any_map, Function.comp_def]

/-- Some element of a lane detects one of the three conditions: the DETAIL is not zero. -/
theorem anyCondition_eq (n : Nat) (r : Nat → FRes) : ((List.range n).any (fun k => (r k).inv) || (List.range n).any (fun k => (r k).dz)
    || (List.range n).any (fun k => (r k).ov)) = (fpDetail ((List.range n).map r) != 0) := by
  rw [fpDetail_map_range]
  generalize (List.range n).any _ = inv
  generalize (List.range n).any _ = dz
  generalize (List.range n).any _ = ov
  revert inv dz ov
  decide

/-- Settles O14: the check that `floatWord` and `floatLong` make finds the lowest lane, and gathers its elements' conditions (log 17). -/
theorem arithmeticFaults : Obligations.ArithmeticFaults := by
  intro s c d i a j b l h he hf trap mem
  have found (r : Nat → Nat → FRes) := fpCheck_traps (n := elemCount c.g.ty) (r := r) trap mem
  simp only [anyCondition_eq, bne_iff_ne, bne_eq_false_iff_eq, ← fpDetail_map_range, exec_fadd, exec_fsub, exec_fmul, exec_ffma, exec_fmin,
    exec_fmax, exec_fdiv, execFadd, execFsub, execFmul, execFfma, execFmin, execFmax, execFdiv, float2, float3, minmaxWord]
  refine ⟨?_, ?_, ?_, ?_, ?_, ?_, fun free hr hit below => floatLong_traps h he free hf hr (found _ hit below)⟩
  all_goals exact fun hr hit below => floatWord_traps h he hf hr (found _ hit below)

end Sys2Proof.Machine
end

section
/-! Rounding of values that a format holds (R25 to R28, R34, R38): the value of a bit pattern is its own rounding, in every mode. -/
namespace Sys2Proof.Machine

/-! ### Fields of a bit pattern -/

/-- What the six floating formats have in common: an exponent field and a fraction, and only E4M3 is without infinity. -/
structure Fmt.Sound (f : Fmt) : Prop where
  fields : f.fb + 2 ≤ f.w
  e4m3 : f.noInf = true → f.w = 8 ∧ f.fb = 3

theorem fmtOf_sound {ty : Nat} (h : tAnyFloat ty = true) : (fmtOf ty).Sound := by
  have : ty = tF16 ∨ ty = tBF16 ∨ ty = tF32 ∨ ty = tF64 ∨ ty = tE4M3 ∨ ty = tE5M2 := by
    simpa [tAnyFloat, tFloat, or_assoc] using h
  rcases this with rfl | rfl | rfl | rfl | rfl | rfl <;> exact ⟨by decide, by decide⟩

/-- The exponent field and the fraction as one number. -/
def Fmt.magnitude (f : Fmt) (b : Nat) : Nat := b % 2 ^ (f.w - 1)

theorem Fmt.magnitude_eq {f : Fmt} (h : f.Sound) (b : Nat) : f.magnitude b = bits b (f.w - 2) f.fb * 2 ^ f.fb + b % 2 ^ f.fb := by
  have widths : f.w - 1 = f.fb + (f.w - 2 + 1 - f.fb) := by have := h.fields; omega
  rw [Fmt.magnitude, widths, Nat.pow_add, Nat.mod_mul, bits, Nat.shiftRight_eq_div_pow, Nat.mul_comm, Nat.add_comm]

theorem Fmt.magnitude_add_signBit {f : Fmt} (h : f.Sound) {b : Nat} (hb : b < 2 ^ f.w) : f.magnitude b + f.signBit (bit b (f.w - 1)) = b := by
  have width : f.w = f.w - 1 + 1 := by have := h.fields; omega
  rw [Fmt.magnitude, Fmt.signBit, bit, Nat.shiftRight_eq_div_pow]
  rw [width, Nat.pow_succ] at hb
  generalize 2 ^ (f.w - 1) = p at hb ⊢
  have half : b / p < 2 := Nat.div_lt_of_lt_mul hb
  have split := Nat.mod_add_div b p
  interval_cases b / p <;> simpa using split

/-- A pattern whose exponent field is not all ones is finite in the formats that have an infinity. -/
theorem Fmt.magnitude_le_maxFin {f : Fmt} (h : f.Sound) (hasInf : f.noInf = false) {b : Nat} (hex : bits b (f.w - 2) f.fb ≠ f.emax) :
    f.magnitude b ≤ f.maxFin := by
  have field : bits b (f.w - 2) f.fb < 2 ^ (f.w - 2 + 1 - f.fb) := Nat.mod_lt _ (Nat.two_pow_pos _)
  have widths : f.w - 1 - f.fb = f.w - 2 + 1 - f.fb := by have := h.fields; omega
  have next : bits b (f.w - 2) f.fb + 1 ≤ f.emax := by
    rw [Fmt.emax, widths] at hex ⊢
    omega
  have frac : b % 2 ^ f.fb < 2 ^ f.fb := Nat.mod_lt _ (Nat.two_pow_pos _)
  have binade := Nat.mul_le_mul_right (2 ^ f.fb) next
  rw [Nat.succ_mul] at binade
  rw [f.magnitude_eq h, Fmt.maxFin, hasInf]
  simp only [Bool.false_eq_true, if_false]
  omega

/-- In E4M3 every pattern is finite but the NaN's. -/
theorem Fmt.magnitude_le_maxFin_e4m3 {f : Fmt} (h : f.Sound) (noInf : f.noInf = true) {b : Nat}
    (nan : ¬ (bits b (f.w - 2) f.fb = f.emax ∧ b % 2 ^ f.fb = 7)) : f.magnitude b ≤ f.maxFin := by
  obtain ⟨hw, hfb⟩ := h.e4m3 noInf
  rw [f.magnitude_eq h, Fmt.maxFin, if_pos noInf]
  rw [Fmt.emax, hw, hfb] at nan
  rw [hw, hfb]
  have field : bits b (8 - 2) 3 < 2 ^ (6 + 1 - 3) := Nat.mod_lt _ (Nat.two_pow_pos _)
  omega

/-! ### The value of a finite pattern -/

/-- The finite value of a pattern: `n` steps of the binade `k` above the smallest. -/
structure Fmt.Holds (f : Fmt) (b k n : Nat) : Prop where
  value : unpack f b = .fin (bit b (f.w - 1)) n 1 (f.emin + k)
  small : n < 2 ^ (f.fb + 1)
  normal : k = 0 ∨ 2 ^ f.fb ≤ n
  pattern : k * 2 ^ f.fb + n = f.magnitude b
  finite : f.magnitude b ≤ f.maxFin

theorem Fmt.holds_subnormal {f : Fmt} (h : f.Sound) {b : Nat} (hex : bits b (f.w - 2) f.fb = 0)
    (value : unpack f b = .fin (bit b (f.w - 1)) (b % 2 ^ f.fb) 1 f.emin) (finite : f.magnitude b ≤ f.maxFin) : f.Holds b 0 (b % 2 ^ f.fb) where
  value := by rw [value, Nat.cast_zero, add_zero]
  small := (Nat.mod_lt _ (Nat.two_pow_pos _)).trans_le (Nat.pow_le_pow_right (by decide) (Nat.le_succ _))
  normal := .inl rfl
  pattern := by rw [f.magnitude_eq h, hex]
  finite := finite

theorem Fmt.holds_normal {f : Fmt} (h : f.Sound) {b : Nat} (hex : bits b (f.w - 2) f.fb ≠ 0)
    (value : unpack f b = .fin (bit b (f.w - 1)) (2 ^ f.fb + b % 2 ^ f.fb) 1 (f.emin + bits b (f.w - 2) f.fb - 1))
    (finite : f.magnitude b ≤ f.maxFin) : f.Holds b (bits b (f.w - 2) f.fb - 1) (2 ^ f.fb + b % 2 ^ f.fb) where
  value := by
    rw [value]
    congr 1
    omega
  small := by
    have : b % 2 ^ f.fb < 2 ^ f.fb := Nat.mod_lt _ (Nat.two_pow_pos _)
    rw [Nat.pow_succ]
    omega
  normal := .inr (Nat.le_add_right ..)
  pattern := by
    rw [f.magnitude_eq h]
    obtain ⟨k, hk⟩ := Nat.exists_eq_succ_of_ne_zero hex
    rw [hk, Nat.succ_sub_one, Nat.succ_mul, Nat.add_assoc]
  finite := finite

/-- R25 to R28: what a pattern that is neither NaN nor infinity stands for. -/
theorem unpack_finite {f : Fmt} (h : f.Sound) {b : Nat} (nan : (unpack f b).isNan = false) (inf : (unpack f b).isInf = false) :
    ∃ k n, f.Holds b k n := by
  by_cases noInf : f.noInf = true
  · by_cases top : bits b (f.w - 2) f.fb = f.emax ∧ b % 2 ^ f.fb = 7
    · simp [unpack, noInf, top, XV.isNan] at nan
    · have finite := Fmt.magnitude_le_maxFin_e4m3 h noInf top
      by_cases hex : bits b (f.w - 2) f.fb = 0
      · exact ⟨_, _, f.holds_subnormal h hex (by simp only [unpack, if_pos noInf, if_neg top, if_pos hex]) finite⟩
      · exact ⟨_, _, f.holds_normal h hex (by simp only [unpack, if_pos noInf, if_neg top, if_neg hex]) finite⟩
  · by_cases top : bits b (f.w - 2) f.fb = f.emax
    · by_cases frac : b % 2 ^ f.fb = 0
      · simp [unpack, noInf, top, frac, XV.isInf] at inf
      · simp [unpack, noInf, top, frac, XV.isNan] at nan
    · have finite := Fmt.magnitude_le_maxFin h (by simpa using noInf) top
      by_cases hex : bits b (f.w - 2) f.fb = 0
      · exact ⟨_, _, f.holds_subnormal h hex (by simp only [unpack, if_neg noInf, if_neg top, if_pos hex]) finite⟩
      · exact ⟨_, _, f.holds_normal h hex (by simp only [unpack, if_neg noInf, if_neg top, if_neg hex]) finite⟩

/-- R26: the patterns of the infinities. -/
theorem unpack_infinite {f : Fmt} (h : f.Sound) (hasInf : f.noInf = false) {b : Nat} (inf : (unpack f b).isInf = true) :
    unpack f b = .inf (bit b (f.w - 1)) ∧ f.magnitude b = f.infBits := by
  rw [f.magnitude_eq h]
  by_cases top : bits b (f.w - 2) f.fb = f.emax
  · by_cases frac : b % 2 ^ f.fb = 0
    · simp [unpack, hasInf, top, frac, Fmt.infBits]
    · simp [unpack, hasInf, top, frac, XV.isInf] at inf
  · by_cases hex : bits b (f.w - 2) f.fb = 0
    · simp only [unpack, hasInf, Bool.false_eq_true, if_false, if_neg top, if_pos hex, XV.isInf] at inf
    · simp only [unpack, hasInf, Bool.false_eq_true, if_false, if_neg top, if_neg hex, XV.isInf] at inf

/-! ### Rounding -/

theorem floorLog_one {n : Nat} (hn : n ≠ 0) (e : Int) : floorLog n 1 e = Nat.log2 n + e := by
  have whole : 1 <<< Nat.log2 n ≤ n := by rw [Nat.shiftLeft_eq, Nat.one_mul]; exact Nat.log2_self_le hn
  have lengths : (bitLen n : Int) - bitLen 1 = Nat.log2 n := by
    rw [bitLen, if_neg hn, show bitLen 1 = 1 by decide]; omega
  simp only [floorLog, lengths, Int.natAbs_natCast, whole, decide_true, if_neg (Int.not_lt.2 (Int.natCast_nonneg _)), if_true]

/-- A value that needs no more than the format's bits is its own rounded magnitude. -/
theorem roundMag_exact {f : Fmt} (rm : Nat) (neg : Bool) {n k : Nat} (sr : Option Nat) (small : n < 2 ^ (f.fb + 1)) (normal : k = 0 ∨ 2 ^ f.fb ≤ n) :
    (roundMag f rm neg n 1 (f.emin + k) sr).1 = k * 2 ^ f.fb + n := by
  by_cases hn : n = 0
  · subst hn
    have : k = 0 := normal.resolve_right (by have := Nat.two_pow_pos f.fb; omega)
    simp [roundMag, this]
  · have top : Nat.log2 n ≤ f.fb := Nat.lt_succ_iff.1 ((Nat.log2_lt hn).2 small)
    have binade : max (Nat.log2 n + (f.emin + k) - f.fb : Int) f.emin = f.emin + k := by
      rcases normal with rfl | normal
      · omega
      · have : Nat.log2 n = f.fb := le_antisymm top ((Nat.le_log2 hn).2 normal)
        omega
    simp only [roundMag, if_neg hn, floorLog_one hn, binade, sub_self]
    simp [roundsUp, Nat.mod_one]

/-- The value of a pattern, rounded to the pattern's own format, is the pattern (R34). -/
theorem roundTo_unpack_finite {f : Fmt} (h : f.Sound) {b : Nat} (hb : b < 2 ^ f.w) (rm : Nat) (sat : Bool) (sr : Option Nat)
    (nan : (unpack f b).isNan = false) (inf : (unpack f b).isInf = false) : roundTo f rm sat sr (unpack f b) = { bits := b } := by
  obtain ⟨k, n, held⟩ := unpack_finite h nan inf
  have rounded := roundMag_exact rm (bit b (f.w - 1)) sr held.small held.normal
  rw [held.pattern] at rounded
  simp only [held.value, roundTo, rounded, if_pos held.finite, f.magnitude_add_signBit h hb]

theorem roundTo_unpack_infinite {f : Fmt} (h : f.Sound) (hasInf : f.noInf = false) {b : Nat} (hb : b < 2 ^ f.w) (rm : Nat) (sat : Bool)
    (sr : Option Nat) (inf : (unpack f b).isInf = true) : roundTo f rm sat sr (unpack f b) = { bits := b } := by
  obtain ⟨value, top⟩ := unpack_infinite h hasInf inf
  simp only [value, roundTo, hasInf, Bool.false_eq_true, if_false, ← top, f.magnitude_add_signBit h hb]

/-- R38: every NaN rounds to the canonical quiet NaN. -/
theorem roundTo_nan (f : Fmt) (rm : Nat) (sat : Bool) (sr : Option Nat) {x : XV} (nan : x.isNan = true) : (roundTo f rm sat sr x).bits = f.nanBits := by
  cases x with
  | nan sig => rfl
  | inf neg => cases nan
  | fin neg n d e => cases nan

end Sys2Proof.Machine
end

section
/-! Words that write several rows from v(d) up (R292). -/
namespace Sys2Proof.Machine

/-! ### Several changes of one group -/

theorem Tab.put_put {β : Type} (t : Tab β) (k : Nat) (u v : β) : Tab.put (Tab.put t k u) k v = Tab.put t k v := by
  induction t with
  | nil => simp [Tab.put]
  | cons e t ih =>
    simp only [Tab.put]
    split
    · simp [Tab.put]
    · rename_i below
      split
      · simp [Tab.put]
      · rename_i other
        simp only [Tab.put, if_neg below, if_neg other, ih]

theorem Tab.modify_modify {β : Type} (t : Tab β) (k : Nat) (f g : β → β) : Tab.modify (Tab.modify t k f) k g = Tab.modify t k (g ∘ f) := by
  cases h : Tab.find t k with
  | none => simp [Tab.modify, h]
  | some v => simp [Tab.modify, h, Tab.put_put]

theorem updG_updG (s : State) (key : Nat) (f g : Group → Group) : updG (updG s key f) key g = updG s key (g ∘ f) := by
  simp only [updG, Tab.modify_modify]

/-- Changes of one group, one after another, are one change. -/
theorem foldl_updG {α : Type} (key : Nat) (f : α → Group → Group) (xs : List α) (s : State) (g : Group → Group) :
    xs.foldl (fun s x => updG s key (f x)) (updG s key g) = updG s key fun a => xs.foldl (fun a x => f x a) (g a) := by
  induction xs generalizing g with
  | nil => rfl
  | cons x xs ih => rw [List.foldl_cons, updG_updG, ih]; rfl

/-! ### Rows of a group -/

/-- The first `n` rows from v(d) up of the lanes `ls` hold the words of their values `f`, low word first, each row with its tag. -/
def Group.putRows (g : Group) (d : Nat) (ls : List Nat) (f : Nat → Nat) (tag : Nat) (srg : BitVec 32) (n : Nat) : Group :=
  (List.range n).foldl (fun g k => { g.putReg false (d + k) (ls.map fun l => (l, f l / 2 ^ (32 * k) % 2 ^ 32)) tag with srg }) g

section
variable (g : Group) (d : Nat) (ls : List Nat) (f : Nat → Nat) (tag : Nat) (srg : BitVec 32) (n : Nat)

theorem Group.putRows_succ : g.putRows d ls f tag srg (n + 1)
    = { (g.putRows d ls f tag srg n).putReg false (d + n) (ls.map fun l => (l, f l / 2 ^ (32 * n) % 2 ^ 32)) tag with srg } := by
  rw [Group.putRows, List.range_succ, List.foldl_append]
  rfl

theorem Group.putRows_rest : ∃ a b r, g.putRows d ls f tag srg n = { g with regs := a, tags := b, srg := r } := by
  induction n with
  | zero => exact ⟨g.regs, g.tags, g.srg, rfl⟩
  | succ n ih =>
    obtain ⟨a, b, r, h⟩ := ih
    exact ⟨_, _, _, by rw [Group.putRows_succ, h]; rfl⟩

theorem Group.putRows_succ_rest : ∃ a b, g.putRows d ls f tag srg (n + 1) = { g with regs := a, tags := b, srg := srg } := by
  obtain ⟨a, b, r, h⟩ := g.putRows_rest d ls f tag srg n
  exact ⟨_, _, by rw [Group.putRows_succ, h]; rfl⟩

theorem Group.width_putRows : (g.putRows d ls f tag srg n).width = g.width := by
  obtain ⟨a, b, r, h⟩ := g.putRows_rest d ls f tag srg n
  rw [h]

theorem Group.rowNo_putRows (v i j : Nat) : (g.putRows d ls f tag srg n).rowNo v i j = g.rowNo v i j := by
  obtain ⟨a, b, r, h⟩ := g.putRows_rest d ls f tag srg n
  rw [h]
  rfl

theorem rowsUp_succ : rowsUp g d (n + 1) = rowsUp g d n ++ [g.rowNo 0 (d + n) 0] := by
  rw [rowsUp, List.range_succ, List.map_append]
  rfl

theorem Group.rowTag_putRows (row : Nat) :
    (g.putRows d ls f tag srg n).rowTag row = if row ∈ rowsUp g d n then BitVec.ofNat 5 tag else g.rowTag row := by
  induction n with
  | zero => rfl
  | succ n ih =>
    rw [Group.putRows_succ]
    refine (rowTag_putReg (g.putRows d ls f tag srg n) ..).trans ?_
    rw [ih, rowsUp_succ]
    by_cases mem : row ∈ rowsUp g d n <;> simp [Group.regRows, Group.rowNo_putRows, mem]

theorem Group.elem_putRows (inside : ∀ l ∈ ls, l < g.width) {row lane : Nat} (hl : lane < g.width) :
    (g.putRows d ls f tag srg (n + 1)).elem row lane = if lane ∈ ls ∧ row = g.rowNo 0 (d + n) 0 then BitVec.ofNat 32 (f lane / 2 ^ (32 * n) % 2 ^ 32)
      else (g.putRows d ls f tag srg n).elem row lane := by
  rw [Group.putRows_succ]
  refine (elem_putReg (g.putRows d ls f tag srg n) false (d + n) ls _ tag row lane (by rwa [Group.width_putRows])
    (by rwa [Group.width_putRows])).trans ?_
  simp [Group.regRows, Group.rowNo_putRows]

theorem Group.elem_putRows_kept (inside : ∀ l ∈ ls, l < g.width) {row lane : Nat} (hl : lane < g.width) (out : row ∉ rowsUp g d n ∨ lane ∉ ls) :
    (g.putRows d ls f tag srg n).elem row lane = g.elem row lane := by
  induction n with
  | zero => rfl
  | succ n ih =>
    rw [rowsUp_succ, List.mem_append, List.mem_singleton, not_or] at out
    rw [g.elem_putRows d ls f tag srg n inside hl, if_neg fun ⟨mem, here⟩ => out.elim (fun h => h.2 here) fun h => h mem,
      ih (out.imp_left And.left)]

theorem Group.elem_putRows_row (inside : ∀ l ∈ ls, l < g.width) (distinct : (rowsUp g d n).Nodup) {j l : Nat} (hj : j < n) (mem : l ∈ ls) :
    (g.putRows d ls f tag srg n).elem (g.rowNo 0 (d + j) 0) l = BitVec.ofNat 32 (f l / 2 ^ (32 * j) % 2 ^ 32) := by
  induction n with
  | zero => omega
  | succ n ih =>
    rw [rowsUp_succ, List.nodup_append] at distinct
    obtain ⟨distinct, -, apart⟩ := distinct
    rw [g.elem_putRows d ls f tag srg n inside (inside l mem)]
    rcases Nat.lt_succ_iff_lt_or_eq.1 hj with hj | rfl
    · have other := apart _ (List.mem_map.2 ⟨j, List.mem_range.2 hj, rfl⟩) _ (List.mem_singleton_self _)
      rw [if_neg fun h => other h.2, ih distinct hj]
    · rw [if_pos ⟨mem, rfl⟩]

theorem Group.val_putRows (inside : ∀ l ∈ ls, l < g.width) (distinct : (rowsUp g d n).Nodup) {j l : Nat} (hj : j < n) (mem : l ∈ ls) :
    (g.putRows d ls f tag srg n).val false (d + j) l = f l / 2 ^ (32 * j) % 2 ^ 32 := by
  refine (congrArg BitVec.toNat (?_ : _ = BitVec.ofNat 32 (f l / 2 ^ (32 * j) % 2 ^ 32))).trans ?_
  · rw [Group.rowNo_putRows, g.elem_putRows_row d ls f tag srg n inside distinct hj mem]
  · rw [BitVec.toNat_ofNat, Nat.mod_mod]
end

/-- The words of a value, joined, are its low bits. -/
theorem joinElems_words (w n x : Nat) : joinElems w ((List.range n).map fun j => x / 2 ^ (w * j) % 2 ^ w) = x % 2 ^ (w * n) := by
  induction n generalizing x with
  | zero => simp [joinElems, Nat.mod_one]
  | succ n ih =>
    rw [List.range_succ_eq_map, List.map_cons, List.map_map, joinElems]
    have rest : ((fun j => x / 2 ^ (w * j) % 2 ^ w) ∘ Nat.succ) = fun j => x / 2 ^ w / 2 ^ (w * j) % 2 ^ w := by
      funext j
      rw [Function.comp_apply, Nat.mul_succ, Nat.add_comm, Nat.pow_add, Nat.div_div_eq_div_mul]
    rw [rest, ih, Nat.mul_zero, Nat.pow_zero, Nat.div_one, Nat.mod_mod, Nat.mul_succ, Nat.add_comm (w * n), Nat.pow_add, Nat.mod_mul]

/-! ### The word -/

theorem putRows_eq_updG (s : State) (c : WCtx) (d : Nat) (f : Nat → Nat) (tag : Nat) (srg : BitVec 32) (n : Nat) :
    putRows s c d (n + 1) (c.lanes.map fun l => (l, f l)) tag srg = updG s c.key fun g => g.putRows d c.lanes f tag srg (n + 1) := by
  simp only [putRows, putFloat, Group.putRows, List.range_succ_eq_map, List.foldl_cons, List.map_map, Function.comp_def]
  exact foldl_updG c.key (fun k g => { g.putReg false (d + k) _ tag with srg }) _ s _

theorem Issues.rowsUp_eq {s : State} {c : WCtx} (h : Issues s c) {g : Group} (hg : Tab.find s.groups c.key = some g) (d n : Nat) :
    rowsUp c.g d n = rowsUp g d n := by
  obtain ⟨g', _, hg', e, -⟩ := h.group
  rw [hg] at hg'
  cases hg'
  obtain ⟨a, b, r, hr⟩ := seen_rest s.fresh g
  rw [e, hr]
  rfl

/-- A word that writes `n` rows, which are distinct, with `m` results of `e` bits for each active lane. -/
theorem completes_putRows {s : State} {c : WCtx} (h : Issues s c) (d : Nat) {n e m : Nat} (pos : 0 < n) (fits : e * m ≤ 32 * n)
    (distinct : (rowsUp c.g d n).Nodup) (r : Nat → Nat → FRes) (tag : Nat) (srg : BitVec 32) :
    Completes (.next (finish (putRows s c d n (laneVals e (laneResults c m r)) tag srg) c)) s c [] 0 fun g g' =>
      RowsOnly s c (rowsUp g d n) tag srg g g' ∧ ∀ l ∈ c.lanes, ∀ k < m, elemAt e (catVal g' d n l) k = (r l k).bits % 2 ^ e := by
  obtain ⟨n, rfl⟩ := Nat.exists_eq_succ_of_ne_zero (Nat.pos_iff_ne_zero.1 pos)
  rw [laneVals_laneResults, putRows_eq_updG]
  refine (completes_group h (fun g => g.putRows d c.lanes _ tag srg (n + 1)) (fun g => ?_) fun g => ?_).mono fun g g' hg eq => ⟨⟨?_, ?_, ?_⟩, ?_⟩
  · obtain ⟨a, b, rest⟩ := g.putRows_succ_rest d c.lanes _ tag srg n
    rw [rest]
  · obtain ⟨a, b, rest⟩ := g.putRows_succ_rest d c.lanes _ tag srg n
    rw [rest]
  · obtain ⟨a, b, rest⟩ := g.putRows_succ_rest d c.lanes _ tag srg n
    rw [eq, rest]
  all_goals have inside : ∀ l ∈ c.lanes, l < g.width := fun l hl => h.width hg ▸ lanesOf_lt hl
  · intro row lane hl out
    rw [eq]
    exact g.elem_putRows_kept d c.lanes _ tag srg (n + 1) inside hl out
  · intro row
    rw [eq]
    exact g.rowTag_putRows d c.lanes _ tag srg (n + 1) row
  · intro l hl k hk
    have words : catVal g' d (n + 1) l = joinElems e ((List.range m).map fun k => (r l k).bits) % 2 ^ (32 * (n + 1)) := by
      rw [← joinElems_words]
      refine congrArg (joinElems 32) (List.map_congr_left fun j hj => ?_)
      rw [eq]
      exact g.val_putRows d c.lanes _ tag srg (n + 1) inside (h.rowsUp_eq hg d (n + 1) ▸ distinct) (List.mem_range.1 hj) hl
    rw [words, elemAt_mod ((Nat.mul_le_mul_left e hk).trans fits), elemAt_joinElems_range _ hk]

end Sys2Proof.Machine
end

section
/-! Conversions, Q4, packing and tags (R292 to R299). -/
namespace Sys2Proof.Machine

/-! ### Checks and widths -/

theorem mem_rowOrder {ds ss : List Opnd} {o : Opnd} (h : o ∈ rowOrder ds ss) : o ∈ ds ++ ss := by
  have first (xs : List Opnd) (h : o ∈ xs.take 1) : o ∈ xs := (List.take_sublist 1 xs).subset h
  have rest (xs : List Opnd) (h : o ∈ xs.drop 1) : o ∈ xs := (List.drop_sublist 1 xs).subset h
  simp only [rowOrder, List.mem_append] at h ⊢
  rcases h with (h | h) | h
  · exact .inl (first _ h)
  · exact .inr (first _ h)
  · split at h <;> rcases List.mem_append.1 h with h | h
    · exact .inl (rest _ h)
    · exact .inr (rest _ h)
    · exact .inr (rest _ h)
    · exact .inl (rest _ h)

theorem rowsCheck_ok {c : WCtx} {ds ss : List Opnd} (h : Readable c (ds ++ ss)) : rowsCheck c ds ss = .ok () :=
  vecCheck_ok rfl fun o ho => h o (mem_rowOrder ho)

theorem readable_nil (c : WCtx) : Readable c [] := fun _ ho => nomatch ho

theorem length_rowsFrom (det code n pat : Nat) (cls : TagCls) : (rowsFrom det code n pat cls).length = n := by
  simp [rowsFrom]

/-- The rows for some results hold them. -/
theorem rowsFor_fits (e n : Nat) : e * n ≤ 32 * rowsFor (n * e) := by
  rw [rowsFor, Nat.mul_comm e n]
  omega

theorem rowsFor_pos {n : Nat} (h : 0 < n) : 0 < rowsFor n := by
  rw [rowsFor]
  omega

theorem cvtCount_pos (st dt : Nat) : 0 < cvtCount st dt := Nat.lt_of_lt_of_le Nat.one_pos (Nat.le_max_left ..)

/-- F32 and F64 fill the registers that they use. -/
theorem tWidth_whole {ty : Nat} (h : ty = tF32 ∨ ty = tF64) : tWidth ty = if tWide ty then 64 else 32 := by
  rcases h with rfl | rfl <;> rfl

/-- A word that writes one F32 or F64 result to each active lane: the result is the whole value of the register. -/
theorem completes_putFloat_whole {s : State} {c : WCtx} (h : Issues s c) {ty : Nat} (hty : ty = tF32 ∨ ty = tF64) (d : Nat) (r : Nat → Nat → FRes)
    (tag : Nat) (srg : BitVec 32) :
    Completes (.next (finish (putFloat s c (tWide ty) d (laneVals (tWidth ty) (laneResults c 1 r)) tag srg) c)) s c [] 0
      (WritesRow s c (tWide ty) d (fun l v => v = (r l 0).bits % 2 ^ tWidth ty) tag srg) := by
  have whole := tWidth_whole hty
  refine (completes_putFloat h (tWide ty) d (by rw [whole, Nat.mul_one]) r tag srg).mono fun g g' _ ⟨rows, vals⟩ => ⟨rows, fun l hl => ?_⟩
  refine Eq.trans ?_ (vals l hl 0 Nat.one_pos)
  rw [elemAt, Nat.mul_zero, Nat.shiftRight_zero, Nat.mod_eq_of_lt]
  exact whole ▸ g'.val_lt ..

/-- Eight results of `cvtq` fill their rows. -/
theorem cvtqRows_fit (sub : Nat) : tWidth (cvtqType sub) * 8 = 32 * (8 * tWidth (cvtqType sub) / 32) := by
  have whole : 4 ∣ tWidth (cvtqType sub) := by
    unfold cvtqType
    split <;> decide
  omega

theorem cvtqRows_pos (sub : Nat) : 0 < 8 * tWidth (cvtqType sub) / 32 := by
  have fit := cvtqRows_fit sub
  have := tWidth_pos (cvtqType sub)
  omega

/-- SR does not apply to F32 and F64 (R35). -/
theorem srgAfter_whole {c : WCtx} {ty : Nat} (h : ty = tF32 ∨ ty = tF64) (n : Nat) : srgAfter c ty n = c.g.srg := by
  have : srApplies ty = false := by rcases h with rfl | rfl <;> rfl
  simp [srgAfter, this]

theorem funpackRes_tag (ty sub b : Nat) : (funpackRes ty sub b).2
    = if sub = 0 then (if ty == tF64 then tI64 else tI32) else if sub = 1 then ty else if ty == tF64 then tU64 else tU32 := by
  unfold funpackRes
  split <;> simp_all

/-- A V register is one row, so its tag is the row's. -/
theorem Opnd.tag_row {g : Group} {o : Opnd} (narrow : o.wide = false) (row : o.code < 112) : o.tag g = (g.rowTag (g.rowNo 0 o.code 0)).toNat := by
  rw [Opnd.tag, if_neg (Nat.not_le.2 row), narrow]
  simp [Group.regTag, viewRows]

/-- Settles O15: the rounding laws above, then each word as a write of one register or of several rows. -/
theorem conversionResults : Obligations.ConversionResults := by
  refine ⟨fun ty rm sat sr b hty hb => ⟨roundTo_unpack_finite (fmtOf_sound hty) hb rm sat sr,
    fun inf hasInf => roundTo_unpack_infinite (fmtOf_sound hty) hasInf hb rm sat sr inf, roundTo_nan _ rm sat sr⟩,
    fun s c d i x f j b h he => ?_⟩
  simp only [exec_cvt, exec_cvtb, exec_cvtq, exec_sqz, exec_funpack, exec_fpack, exec_tagset, exec_tagget]
  refine ⟨?cvt, ?cvtb, ?cvtq, ?sqz, ?funpack, ?fpack, fun hr => ⟨?tagset, ?tagget⟩⟩
  case cvt =>
    intro raw q4 q4' _ _ _ distinct hr hq
    have types : (c.g.ty != tRAW && c.g.ty != tQ4 && f.toNat != tQ4) = true := by simp [raw, q4, q4']
    rw [execCvt, runWord_ok h he _ (by
      simp only [vecCheck_ok types (readable_nil c), rowsCheck_ok hr, evalLanes_eq, fpCheck_quiet hq, length_rowsFrom]; rfl)]
    exact completes_putRows h _ (rowsFor_pos (Nat.mul_pos (cvtCount_pos ..) (tWidth_pos _))) (rowsFor_fits _ _) distinct _ _ _
  case cvtb =>
    intro hty hr codes hq
    have types : (c.g.ty == tF32 || c.g.ty == tF16 || c.g.ty == tBF16) = true := by simpa [or_assoc] using hty
    have agree : c.lanes.find? (fun l => (rowAt 1 x.toNat i.toNat (.codes [tSCB]) (8 * tWidth c.g.ty / 32)).val c.g l % 256 / 64 != f.toNat) = none := by
      rw [List.find?_eq_none]
      intro l hl
      simp [codes l hl]
    rw [execCvtb, runWord_ok h he _ (by
      simp only [vecCheck_ok types (readable_nil c), rowsCheck_ok (List.append_assoc .. ▸ hr), agree, evalLanes_eq, fpCheck_quiet hq]; rfl)]
    exact completes_putFloat h false _ (by decide) _ _ _
  case cvtq =>
    intro distinct hr hq
    rw [execCvtq, runWord_ok h he _ (by simp only [rowsCheck_ok hr, evalLanes_eq, fpCheck_quiet hq]; rfl)]
    exact completes_putRows h _ (cvtqRows_pos _) (cvtqRows_fit _).le distinct _ _ _
  case sqz =>
    intro hty _ hr
    rw [execSqz, runWord_ok h he _ (by simp only [vecCheck_ok (beq_iff_eq.2 hty) hr]; rfl)]
    exact completes_writeVec h _ _ _ _ _ fun _ _ => rfl
  case funpack =>
    intro hty hr hq
    have types : (c.g.ty == tF32 || c.g.ty == tF64) = true := by simpa using hty
    rw [execFunpack, runWord_ok h he _ (by simp only [vecCheck_ok types hr, evalLanes_eq, fpCheck_quiet hq]; rfl)]
    rw [srgAfter_whole hty, funpackRes_tag]
    have wide : (c.g.ty == tF64) = tWide c.g.ty := by rcases hty with hty | hty <;> rw [hty] <;> rfl
    rw [wide]
    exact completes_putFloat_whole h hty _ _ _ _
  case fpack =>
    intro hty hr hq
    have types : (c.g.ty == tF32 || c.g.ty == tF64) = true := by simpa using hty
    rw [execFpack, runWord_ok h he _ (by simp only [vecCheck_ok types hr, evalLanes_eq, rounded, fpCheck_quiet hq]; rfl)]
    exact completes_putFloat_whole h hty _ _ _ _
  case tagset =>
    rw [execTagset, runWord_ok h he _ (by simp only [vecCheck_ok rfl hr]; rfl)]
    exact completes_writeVec h _ _ _ _ _ fun _ _ => rfl
  case tagget =>
    rw [execTagget, runWord_ok h he _ (by simp only [vecCheck_ok rfl hr]; rfl)]
    refine ⟨_, completes_writeVec h _ _ _ _ _ fun _ _ => rfl, fun row => ?_⟩
    rw [if_neg (Nat.not_le.2 row)]
    exact Opnd.tag_row rfl row

end Sys2Proof.Machine
end

section
/-! Reductions, scans, ballots and relative registers (R253 to R257). -/
namespace Sys2Proof.Machine

/-! ### Reductions and scans (R253 to R255) -/

theorem fpCheck_open {c : WCtx} (h : c.g.trapFp = false) (xs : List (Nat × List FRes)) : fpCheck c xs = .ok () := by
  simp [fpCheck, h]

/-- A reduction or scan whose conditions do not trap: lane `l` receives result `l` of each column. -/
theorem redWord_completes {s : State} {c : WCtx} (h : Issues s c) (he : c.eff ≠ 0) (quiet : c.g.trapFp = false) {op : Nat}
    (ha : admRed op c.g.ty = true) {d : BitVec 7} {i : BitVec 2} {x : BitVec 7}
    (hr : Readable c [opD (tWide c.g.ty) d, opA (tWide c.g.ty) i x (if op < 3 then .arith else .bitwise)]) (f : WCtx → List FRes → List FRes) :
    Completes (redWord s d i x op f) s c [] 0 (WritesRow s c (tWide c.g.ty) d.toNat (fun l v => ∀ k < elemCount c.g.ty, elemAt (tWidth c.g.ty) v k
        = ((f c (redColumn c op (opA (tWide c.g.ty) i x (if op < 3 then .arith else .bitwise)) k)).getD l { bits := 0 }).bits % 2 ^ tWidth c.g.ty)
      c.g.ty c.g.srg) := by
  rw [redWord, runWord_ok h he _ (by simp only [vecCheck_ok ha hr, fpCheck_open quiet]; rfl)]
  refine completes_writeVec h _ _ _ _ _ fun l _ k hk => ?_
  rw [elemAt_kept _ _ hk, List.map_map, elemAt_joinElems_range _ hk]
  rfl

theorem length_redColumn (c : WCtx) (op : Nat) (o : Opnd) (k : Nat) : (redColumn c op o k).length = c.g.width := by
  simp [redColumn, WCtx.w]

theorem getD_map_const {α β : Type} (xs : List α) (y d : β) {l : Nat} (h : l < xs.length) : (xs.map fun _ => y).getD l d = y := by
  simp [List.getD, h]

/-! ### Ballots (R256) -/

/-- The mask that `vballot` writes. -/
theorem getLsbD_ballot (c : WCtx) (p : BitVec 64) {l : Nat} (h : l < 64) :
    (BitVec.ofNat 64 (c.eff &&& p &&& allLanes c.w).toNat).getLsbD l = (decide (l ∈ c.lanes) && p.getLsbD l) := by
  have all : (allLanes c.w).getLsbD l = decide (l < c.g.width) := by
    rw [allLanes, BitVec.getLsbD_ofNat, Nat.testBit_two_pow_sub_one]; simp only [h, decide_true, Bool.true_and]; rfl
  rw [BitVec.ofNat_toNat, BitVec.setWidth_eq, BitVec.getLsbD_and, BitVec.getLsbD_and, all]
  have lanes : decide (l ∈ c.lanes) = (decide (l < c.g.width) && c.eff.getLsbD l) := by
    simp [WCtx.lanes, mem_lanesOf, -BitVec.getLsbD_eq_getElem]
  rw [lanes]
  ac_rfl

/-! ### Relative registers (R257) -/

/-- A check that is passed. -/
theorem Try.ok_bind {α β : Type} (x : α) (f : α → Try β) : (Except.ok x >>= f) = f x := rfl


theorem relIndex_inView {c : WCtx} {w : Bool} {o : Opnd} {b : Nat} (h : ∀ l ∈ c.lanes, 0 ≤ (b : Int) + toS 32 (o.val c.g l)
      ∧ (b : Int) + toS 32 (o.val c.g l) < c.g.vCount (if w then 1 else 0)) :
    relIndex c w o b = .ok fun l => ((b : Int) + toS 32 (o.val c.g l)).toNat := by
  have none : (c.lanes.find? fun l => decide ((b : Int) + toS 32 (o.val c.g l) < 0)
      || decide ((c.g.vCount (if w then 1 else 0) : Int) ≤ (b : Int) + toS 32 (o.val c.g l))) = none := by
    rw [List.find?_eq_none]
    intro l hl
    have := h l hl
    simp only [Bool.or_eq_true, decide_eq_true_eq]
    omega
  simp only [relIndex, none]

/-- Lane `l` of register `ix l` receives `v l`; the rows written carry `tag`. -/
def Group.putLanes (g : Group) (wide : Bool) (ix v : Nat → Nat) (ls : List Nat) (tag : Nat) : Group :=
  (g.setElems (ls.flatMap fun l => g.laneElems wide (ix l) [(l, v l)])).setTags (ls.flatMap fun l => g.regRows wide (ix l)) tag

/-- What a row of register `i` takes of a lane's value `x`. -/
def Group.rowPart (g : Group) (wide : Bool) (i row x : Nat) : BitVec 32 := BitVec.ofNat 32 (if wide ∧ row = g.rowNo 1 i 1 then x / 2 ^ 32 else x)

theorem Group.rowNo_ne (g : Group) (v i : Nat) : g.rowNo v i 0 ≠ g.rowNo v i 1 := by simp [Group.rowNo]

theorem Group.mem_laneElems_single (g : Group) (wide : Bool) (i l x : Nat) (e : Nat × BitVec 32) :
    e ∈ g.laneElems wide i [(l, x)] ↔ ∃ row ∈ g.regRows wide i, e = (g.elemKey row l, g.rowPart wide i row x) := by
  cases wide <;> simp [Group.laneElems, Group.regRows, Group.rowPart, g.rowNo_ne]

theorem Group.elem_putLanes (g : Group) (wide : Bool) (ix v : Nat → Nat) {ls : List Nat} (tag : Nat) (inside : ∀ l ∈ ls, l < g.width) {row lane : Nat}
    (hl : lane < g.width) : (g.putLanes wide ix v ls tag).elem row lane
      = if lane ∈ ls ∧ row ∈ g.regRows wide (ix lane) then g.rowPart wide (ix lane) row (v lane) else g.elem row lane := by
  have written (e : Nat × BitVec 32) (he : e ∈ ls.flatMap fun l => g.laneElems wide (ix l) [(l, v l)]) (key : e.1 = g.elemKey row lane) :
      lane ∈ ls ∧ row ∈ g.regRows wide (ix lane) ∧ e.2 = g.rowPart wide (ix lane) row (v lane) := by
    obtain ⟨l, mem, he⟩ := List.mem_flatMap.1 he
    obtain ⟨r, hr, rfl⟩ := (g.mem_laneElems_single ..).1 he
    obtain ⟨rfl, rfl⟩ := elemKey_inj (inside l mem) hl key
    exact ⟨mem, hr, rfl⟩
  refine (fetch_foldl_store 0 _ g.regs _ _ fun e he key => (written e he key).2.2).trans ?_
  refine ite_congr (propext ⟨fun ⟨e, he, key⟩ => ⟨(written e he key).1, (written e he key).2.1⟩, fun ⟨mem, hr⟩ => ?_⟩) (fun _ => rfl) fun _ => rfl
  exact ⟨_, List.mem_flatMap.2 ⟨lane, mem, (g.mem_laneElems_single ..).2 ⟨row, hr, rfl⟩⟩, rfl⟩

theorem Group.val_putLanes (g : Group) (wide : Bool) (ix v : Nat → Nat) {ls : List Nat} (tag : Nat) (inside : ∀ l ∈ ls, l < g.width) {l : Nat} (hl : l ∈ ls) :
    (g.putLanes wide ix v ls tag).val wide (ix l) l = v l % 2 ^ (if wide then 64 else 32) := by
  have part (row : Nat) (hr : row ∈ g.regRows wide (ix l)) : (g.putLanes wide ix v ls tag).elem row l = g.rowPart wide (ix l) row (v l) := by
    rw [g.elem_putLanes wide ix v tag inside (inside l hl), if_pos ⟨hl, hr⟩]
  cases wide
  · exact congrArg BitVec.toNat (part (g.rowNo 0 (ix l) 0) (by simp [Group.regRows]))
  · refine (congrArg₂ (fun x y : BitVec 32 => x.toNat + 2 ^ 32 * y.toNat) (part (g.rowNo 1 (ix l) 0) (by simp [Group.regRows]))
      (part (g.rowNo 1 (ix l) 1) (by simp [Group.regRows]))).trans ?_
    simp only [Group.rowPart, g.rowNo_ne, and_false, if_false, and_self, if_true, BitVec.toNat_ofNat]
    rw [← Nat.mod_mul, ← Nat.pow_add]

/-- A word whose active lanes each write a register of their own. -/
theorem completes_putLanes {s : State} {c : WCtx} (h : Issues s c) (wide : Bool) (ix v : Nat → Nat) (tag : Nat) :
    Completes (.next (finish (updG s c.key fun g => g.putLanes wide ix v c.lanes tag) c)) s c [] 0 fun g g' =>
      g' = { g with regs := g'.regs, tags := g'.tags, splits := g'.splits, susp := none, want := none, lastIssue := s.time }
        ∧ (∀ l ∈ c.lanes, g'.val wide (ix l) l = v l % 2 ^ (if wide then 64 else 32))
        ∧ (∀ row lane, lane < g.width → (∀ l ∈ c.lanes, lane = l → row ∉ g.regRows wide (ix l)) → g'.elem row lane = g.elem row lane)
        ∧ ∀ row, g'.rowTag row = if ∃ l ∈ c.lanes, row ∈ g.regRows wide (ix l) then BitVec.ofNat 5 tag else g.rowTag row := by
  refine (completes_group h (fun g => g.putLanes wide ix v c.lanes tag) (fun _ => rfl) fun _ => rfl).mono fun g g' hg eq => ?_
  have inside : ∀ l ∈ c.lanes, l < g.width := fun l hl => h.width hg ▸ lanesOf_lt hl
  refine ⟨by rw [eq]; rfl, fun l hl => ?_, fun row lane hl out => ?_, fun row => ?_⟩
  · rw [eq]
    exact g.val_putLanes wide ix v tag inside hl
  · rw [eq]
    exact (g.elem_putLanes wide ix v tag inside hl).trans (if_neg fun ⟨mem, hr⟩ => out lane mem rfl hr)
  · rw [eq]
    refine (rowTag_foldl _ _ _ row).trans ?_
    simp only [List.mem_flatMap]
    rfl

/-- A destination that is only written has no tag to be wrong. -/
theorem Readable.free_head {c : WCtx} {wide : Bool} {d : BitVec 7} {cls : TagCls} {os : List Opnd} (h : Readable c (opD wide d cls :: os)) :
    Readable c (opD wide d :: os) := by
  intro o ho
  rcases List.mem_cons.1 ho with rfl | ho
  · refine ⟨(h _ (List.mem_cons_self ..)).1, ?_⟩
    simp [Opnd.badTag, opD]
  · exact h o (List.mem_cons_of_mem _ ho)

/-- A lane that is active has a lowest beside it. -/
theorem WCtx.low_mem {c : WCtx} {l : Nat} (h : l ∈ c.lanes) : c.low ∈ c.lanes := by
  rw [WCtx.low]
  cases hc : c.lanes with
  | nil => rw [hc] at h; cases h
  | cons x xs => exact List.mem_cons_self ..

/-- The check of `vrel` on the tags of the registers that the lanes name. -/
theorem find?_tags_agree {c : WCtx} {tagOf : Nat → Option Nat} (h : ∀ l ∈ c.lanes, ∀ m ∈ c.lanes, tagOf l = tagOf m ∧ tagOf l ≠ none) :
    (c.lanes.find? fun l => (tagOf l).isNone || tagOf l != tagOf c.low) = none := by
  rw [List.find?_eq_none]
  intro l hl
  obtain ⟨same, some⟩ := h l hl c.low (WCtx.low_mem hl)
  rw [same] at some
  simp [same, some]

/-- Settles O10: `vred` and `vscan` are `redWord`, which draws nothing under SR (log 17); `vrel` and `vrel.st` pass `relIndex`. -/
theorem laneWords : Obligations.LaneWords := by
  intro s c d i a b f p h he
  simp only [exec_vred, exec_vscan, exec_vballot, exec_vrel, exec_vrelSt]
  refine ⟨fun ha hr quiet => ⟨?vred, redWord_completes h he quiet ha hr _⟩, fun _ _ => ?vballot, fun hr inView tags => ?vrel, fun hr inView => ?vrelSt⟩
  case vred =>
    refine (redWord_completes h he quiet ha hr _).mono fun g g' _ ⟨rows, vals⟩ => ⟨rows, fun l hl inside k hk => ?_⟩
    rw [vals l hl k hk, getD_map_const _ _ _ (by rw [length_redColumn]; exact inside)]
  case vballot =>
    rw [execVballot, runWord_ok h he _ rfl]
    exact ⟨_, completes_writeS h _ _, fun l hl => getLsbD_ballot c _ hl⟩
  case vrel =>
    rw [execVrel, runWord_ok h he _ (by simp only [vecCheck_ok rfl hr, relIndex_inView inView, Try.ok_bind, find?_tags_agree tags]; rfl)]
    exact completes_writeVec h _ _ _ _ _ fun l _ => by rw [Nat.mod_eq_of_lt (Group.val_lt ..)]
  case vrelSt =>
    have source : Readable c [opD (tWide c.g.ty) d .move] := fun o ho => hr o (by simp_all)
    rw [execVrelSt, runWord_ok h he _ (by simp only [vecCheck_ok rfl hr.free_head, vecCheck_ok rfl source, relIndex_inView inView]; rfl)]
    exact (completes_putLanes h _ _ _ _).mono fun g g' _ ⟨rest, vals, kept, tags⟩ =>
      ⟨rest, fun l hl => (vals l hl).trans (Nat.mod_eq_of_lt (Opnd.val_lt ..)), kept, tags⟩

end Sys2Proof.Machine
end

section
/-! The result of a matrix tile (R40, R302 to R304). -/
namespace Sys2Proof.Machine

/-- The accumulator after `n + 1` chunks is the accumulator after `n` with chunk `n` added (R40). -/
theorem addChunks_succ (f : Fmt) (kc n acc : Nat) (ps : List XV) :
    addChunks f kc (n + 1) acc ps = rneTo f (xadd false (unpack f (addChunks f kc n acc ps)) (sumXV ((ps.drop (n * kc)).take kc))) := by
  induction n generalizing acc ps with
  | zero => simp [addChunks]
  | succ n ih =>
    rw [addChunks, ih, addChunks, List.drop_drop, Nat.succ_mul, Nat.add_comm kc]

/-- A chunk of a list of `k` products. -/
theorem take_drop_map_range {α : Type} (p : Nat → α) {a m k : Nat} (h : a + m ≤ k) :
    ((((List.range k).map p).drop a).take m) = (List.range m).map fun j => p (a + j) := by
  refine List.ext_getElem (by simp; omega) fun i _ _ => by simp

/-- The products of a row of `k` elements and a column of as many. -/
theorem map_zip_eq_map_range {as bs : List (BitVec 64)} {k : Nat} (ha : as.length = k) (hb : bs.length = k) (p : Nat → Nat → XV) :
    ((as.zip bs).map fun x => p x.1.toNat x.2.toNat) = (List.range k).map fun j => p (as.getD j 0).toNat (bs.getD j 0).toNat := by
  refine List.ext_getElem (by simp [ha, hb]) fun i hi _ => ?_
  have hi : i < k := by simpa [ha, hb] using hi
  simp [ha, hb, hi]

/-- R303: what a tile's result holds at column `n` of row `i`. -/
theorem tileResult_elem (t : MTile) (w : WSlot) {i n : Nat} {row : List (BitVec 64)} {v : BitVec 64} (hrow : t.accIn[i]? = some row)
    (hv : row[n]? = some v) : (tileResult t w)[i]?.bind (·[n]?) = some (if t.rows.getLsbD i then BitVec.ofNat 64
      (mxDot t.fmt w.fmt (t.a.getD i []) (t.ascale.getD i 0).toNat ((w.elems.drop (n * mxK t.fmt)).take (mxK t.fmt)) (w.scales.getD n 0).toNat v.toNat)
      else v) := by
  simp only [tileResult, List.getElem?_map, List.getElem?_zipIdx, hrow, Option.map_some, Option.bind_some, Nat.zero_add]
  split
  · simp [List.getElem?_zipIdx, hv]
  · exact hv

/-- Column `n` of a slot is elements `n·K` to `n·K + K − 1`. -/
theorem getD_take_drop {α : Type} (xs : List α) (d : α) {a m j : Nat} (h : j < m) : ((xs.drop a).take m).getD j d = xs.getD (a + j) d := by
  simp [List.getD, h]

/-- Settles O36: `dot` is `addChunks` of the row's and the column's products. -/
theorem matrixTileResult : Obligations.MatrixTileResult := by
  intro t w i n row v hrow hv
  simp only [tileResult_elem t w hrow hv]
  refine ⟨fun idle => by simp [idle], fun computed rowLength room => ?_⟩
  have columnLength : ((w.elems.drop (n * mxK t.fmt)).take (mxK t.fmt)).length = mxK t.fmt := by simp; omega
  rw [if_pos computed, mxDot, map_zip_eq_map_range rowLength columnLength fun x y =>
    xmul (mxValue t.fmt (t.ascale.getD i 0).toNat x) (mxValue w.fmt (w.scales.getD n 0).toNat y)]
  refine ⟨fun h => addChunks _ (mxChunk t.fmt) h v.toNat _, rfl, rfl, fun h hlt => ?_⟩
  have chunk : h * mxChunk t.fmt + mxChunk t.fmt ≤ mxK t.fmt := by
    rw [← Nat.succ_mul]; exact (Nat.mul_le_mul_right _ hlt).trans (Nat.div_mul_le_self ..)
  refine (addChunks_succ ..).trans ?_
  rw [take_drop_map_range _ chunk]
  congr 3
  refine List.map_congr_left fun j hj => ?_
  rw [getD_take_drop _ _ (by have := List.mem_range.1 hj; omega)]

end Sys2Proof.Machine
end

section
/-! Decoding and encoding (R44, R63 to R66). -/
namespace Sys2Proof.Machine

/-! ### A word put together again from its fields -/

/-- `v` is the part of `w` from bit `lo` up, for a word `w` whose bits under `m` are `f`. -/
structure IsCut (w m f : BitVec 32) (lo : Nat) {n : Nat} (v : BitVec n) : Prop where
  cut : w &&& m = f → v = w.extractLsb' lo n

theorem IsCut.field (w m f : BitVec 32) (lo n : Nat) : IsCut w m f lo (w.extractLsb' lo n) := ⟨fun _ => rfl⟩

theorem IsCut.fixed {w m f : BitVec 32} {lo n : Nat} {v : BitVec n} (hm : m.extractLsb' lo n = BitVec.allOnes n)
    (hf : f.extractLsb' lo n = v) : IsCut w m f lo v := by
  refine ⟨?_⟩
  rintro rfl
  rw [← hf, BitVec.extractLsb'_and, hm, BitVec.and_allOnes]

theorem IsCut.append {w m f : BitVec 32} {lo n k : Nat} {a : BitVec k} {b : BitVec n} (ha : IsCut w m f (lo + n) a)
    (hb : IsCut w m f lo b) : IsCut w m f lo (a ++ b) := by
  refine ⟨fun h => ?_⟩
  rw [ha.cut h, hb.cut h]
  apply BitVec.eq_of_getLsbD_eq
  intro i hi
  simp only [BitVec.getLsbD_append, BitVec.getLsbD_extractLsb']
  split
  · simp_all
  · have : i - n < k := by omega
    simp only [this, hi, decide_true, Bool.true_and]
    congr 1; omega

/-- The rows that `o` may give are encoded to `w`. -/
structure Encodes (w : BitVec 32) (o : Option Instr) : Prop where
  word : ∀ i, o = some i → encode i = some w

theorem Encodes.row {w m f v : BitVec 32} {i : Instr} (hi : encode i = some v) (hv : IsCut w m f 0 v) : Encodes w (row w m f i) := by
  refine ⟨fun j hj => ?_⟩
  unfold Sys2Proof.row at hj
  split at hj
  case isTrue h =>
    cases hj
    rw [hi, hv.cut h]; simp
  case isFalse => cases hj

theorem Encodes.or {w : BitVec 32} {x y : Option Instr} (hx : Encodes w x) (hy : Encodes w y) : Encodes w (x <|> y) := by
  refine ⟨fun i h => ?_⟩
  cases x with
  | none => exact hy.word i (by simpa using h)
  | some j => exact hx.word i (by simpa using h)

theorem encodes_decodeRaw (w : BitVec 32) : Encodes w (decodeRaw w) := by
  unfold decodeRaw
  simp only
  split
  case h_128 => exact ⟨nofun⟩
  all_goals
    repeat' apply Encodes.or
    all_goals exact Encodes.row rfl (by apply_rules [IsCut.append, IsCut.field, IsCut.fixed])

/-- An instruction's encoding names its own row: the family of the rows' laws, taken together. -/
theorem decodeRaw_encode (i : Instr) : Laws.Encoding.Statement i := by
  cases i
  case nop => apply Laws.Encoding.nop
  case bra => apply Laws.Encoding.bra
  case brx => apply Laws.Encoding.brx
  case call => apply Laws.Encoding.call
  case ret => apply Laws.Encoding.ret
  case jset => apply Laws.Encoding.jset
  case exit => apply Laws.Encoding.exit
  case trap => apply Laws.Encoding.trap
  case mset => apply Laws.Encoding.mset
  case msetReg => apply Laws.Encoding.msetReg
  case mget => apply Laws.Encoding.mget
  case sli => apply Laws.Encoding.sli
  case slih => apply Laws.Encoding.slih
  case pset => apply Laws.Encoding.pset
  case psetS => apply Laws.Encoding.psetS
  case psetLt => apply Laws.Encoding.psetLt
  case pmov => apply Laws.Encoding.pmov
  case vwset => apply Laws.Encoding.vwset
  case sysr => apply Laws.Encoding.sysr
  case sadd => apply Laws.Encoding.sadd
  case ssub => apply Laws.Encoding.ssub
  case smul => apply Laws.Encoding.smul
  case smulh => apply Laws.Encoding.smulh
  case smad => apply Laws.Encoding.smad
  case sand => apply Laws.Encoding.sand
  case sor => apply Laws.Encoding.sor
  case sxor => apply Laws.Encoding.sxor
  case sshl => apply Laws.Encoding.sshl
  case sshr => apply Laws.Encoding.sshr
  case ssar => apply Laws.Encoding.ssar
  case smin => apply Laws.Encoding.smin
  case smax => apply Laws.Encoding.smax
  case scmp => apply Laws.Encoding.scmp
  case ssel => apply Laws.Encoding.ssel
  case sbit => apply Laws.Encoding.sbit
  case add => apply Laws.Encoding.add
  case sub => apply Laws.Encoding.sub
  case mul => apply Laws.Encoding.mul
  case mulh => apply Laws.Encoding.mulh
  case mad => apply Laws.Encoding.mad
  case andB => apply Laws.Encoding.andB
  case orB => apply Laws.Encoding.orB
  case xorB => apply Laws.Encoding.xorB
  case shl => apply Laws.Encoding.shl
  case shr => apply Laws.Encoding.shr
  case sar => apply Laws.Encoding.sar
  case minV => apply Laws.Encoding.minV
  case maxV => apply Laws.Encoding.maxV
  case absd => apply Laws.Encoding.absd
  case addc => apply Laws.Encoding.addc
  case bit => apply Laws.Encoding.bit
  case cmp => apply Laws.Encoding.cmp
  case sel => apply Laws.Encoding.sel
  case adr => apply Laws.Encoding.adr
  case dot8 => apply Laws.Encoding.dot8
  case fadd => apply Laws.Encoding.fadd
  case fsub => apply Laws.Encoding.fsub
  case fmul => apply Laws.Encoding.fmul
  case ffma => apply Laws.Encoding.ffma
  case ffms => apply Laws.Encoding.ffms
  case ffnma => apply Laws.Encoding.ffnma
  case ffnms => apply Laws.Encoding.ffnms
  case fmin => apply Laws.Encoding.fmin
  case fmax => apply Laws.Encoding.fmax
  case fcmp => apply Laws.Encoding.fcmp
  case fclass => apply Laws.Encoding.fclass
  case frcp => apply Laws.Encoding.frcp
  case frsq => apply Laws.Encoding.frsq
  case fsqrt => apply Laws.Encoding.fsqrt
  case fdiv => apply Laws.Encoding.fdiv
  case fexp2 => apply Laws.Encoding.fexp2
  case flog2 => apply Laws.Encoding.flog2
  case fsin => apply Laws.Encoding.fsin
  case fcos => apply Laws.Encoding.fcos
  case frnd => apply Laws.Encoding.frnd
  case fscale => apply Laws.Encoding.fscale
  case ffract => apply Laws.Encoding.ffract
  case fdot2 => apply Laws.Encoding.fdot2
  case fcsgn => apply Laws.Encoding.fcsgn
  case cvt => apply Laws.Encoding.cvt
  case cvtb => apply Laws.Encoding.cvtb
  case cvtq => apply Laws.Encoding.cvtq
  case tagset => apply Laws.Encoding.tagset
  case tagget => apply Laws.Encoding.tagget
  case fpack => apply Laws.Encoding.fpack
  case funpack => apply Laws.Encoding.funpack
  case sqz => apply Laws.Encoding.sqz
  case vmov => apply Laws.Encoding.vmov
  case vmovS => apply Laws.Encoding.vmovS
  case vmovI => apply Laws.Encoding.vmovI
  case vperm => apply Laws.Encoding.vperm
  case vtbl => apply Laws.Encoding.vtbl
  case vshuf => apply Laws.Encoding.vshuf
  case vred => apply Laws.Encoding.vred
  case vscan => apply Laws.Encoding.vscan
  case vballot => apply Laws.Encoding.vballot
  case vrel => apply Laws.Encoding.vrel
  case vrelSt => apply Laws.Encoding.vrelSt
  case ld => apply Laws.Encoding.ld
  case st => apply Laws.Encoding.st
  case ldu => apply Laws.Encoding.ldu
  case stu => apply Laws.Encoding.stu
  case ldt => apply Laws.Encoding.ldt
  case stt => apply Laws.Encoding.stt
  case ldb => apply Laws.Encoding.ldb
  case prf => apply Laws.Encoding.prf
  case atom => apply Laws.Encoding.atom
  case fatom => apply Laws.Encoding.fatom
  case fence => apply Laws.Encoding.fence
  case bar => apply Laws.Encoding.bar
  case waita => apply Laws.Encoding.waita
  case wcnt => apply Laws.Encoding.wcnt
  case dfence => apply Laws.Encoding.dfence
  case dfenceAll => apply Laws.Encoding.dfenceAll
  case gmove => apply Laws.Encoding.gmove
  case qpush => apply Laws.Encoding.qpush
  case qpop => apply Laws.Encoding.qpop
  case kwant => apply Laws.Encoding.kwant
  case kput => apply Laws.Encoding.kput
  case kdrop => apply Laws.Encoding.kdrop
  case kclose => apply Laws.Encoding.kclose
  case amsend => apply Laws.Encoding.amsend
  case cpy => apply Laws.Encoding.cpy
  case coll => apply Laws.Encoding.coll
  case nbx => apply Laws.Encoding.nbx
  case sld => apply Laws.Encoding.sld
  case sst => apply Laws.Encoding.sst
  case salloc => apply Laws.Encoding.salloc
  case sfree => apply Laws.Encoding.sfree
  case spinOn => apply Laws.Encoding.spinOn
  case spinOff => apply Laws.Encoding.spinOff
  case mma => apply Laws.Encoding.mma
  case mmas => apply Laws.Encoding.mmas
  case mbld => apply Laws.Encoding.mbld
  case mbrel => apply Laws.Encoding.mbrel
  case travStart => apply Laws.Encoding.travStart
  case trav => apply Laws.Encoding.trav
  case trepStart => apply Laws.Encoding.trepStart
  case trep => apply Laws.Encoding.trep
  case bunion => apply Laws.Encoding.bunion
  case bsah => apply Laws.Encoding.bsah
  case npack => apply Laws.Encoding.npack
  case mcode => apply Laws.Encoding.mcode
  case thit => apply Laws.Encoding.thit
  case gemitPrim => apply Laws.Encoding.gemitPrim
  case gemitDraw => apply Laws.Encoding.gemitDraw
  case frag => apply Laws.Encoding.frag
  case sysSrseed => apply Laws.Encoding.sysSrseed
  case sysSegset => apply Laws.Encoding.sysSegset
  case sysTret => apply Laws.Encoding.sysTret
  all_goals exact nofun

theorem decode_eq_ok {w : BitVec 32} {i : Instr} : decode w = .ok i ↔ decodeRaw w = some i ∧ WellFormed i := by
  cases raw : decodeRaw w with
  | none => simp [decode, raw]
  | some j =>
    cases wf : wfReason j with
    | none => simpa [decode, raw, wf, WellFormed] using fun h => h ▸ wf
    | some e =>
      have : j = i → wfReason i ≠ none := by rintro rfl; simp [wf]
      simpa [decode, raw, wf, WellFormed] using this

/-- Settles O55: a word that names a row is that row's fields put together again, and every encoding names its own row. -/
theorem decodeEncode : Obligations.DecodeEncode := by
  intro i w
  refine ⟨fun wf enc => decode_eq_ok.2 ⟨decodeRaw_encode i w enc, wf⟩, fun dec => ?_, fun ill enc => ?_⟩
  · obtain ⟨raw, wf⟩ := decode_eq_ok.1 dec
    exact ⟨(encodes_decodeRaw w).word i raw, wf⟩
  · cases dec : decode w with
    | error e => exact ⟨e, rfl⟩
    | ok j =>
      obtain ⟨raw, wf⟩ := decode_eq_ok.1 dec
      rw [decodeRaw_encode i w enc, Option.some.injEq] at raw
      exact absurd (raw ▸ wf) ill

end Sys2Proof.Machine
end

section
/-! What a step runs (R46, R66; the order of events is log 1). -/
namespace Sys2Proof.Machine

/-- Settles O56: each word is decoded by evaluation. -/
theorem decodeWords : Obligations.DecodeWords := by
  intro e he
  simp only [List.mem_cons, List.not_mem_nil, or_false] at he
  rcases he with rfl | rfl | rfl | rfl | rfl | rfl | rfl | rfl | rfl | rfl | rfl | rfl | rfl | rfl | rfl | rfl | rfl | rfl | rfl | rfl | rfl | rfl
    <;> exact ⟨rfl, rfl⟩

section
variable {s s2 : State} {sel : Sel} {g : Group} {sp : Split} {w : BitVec 32} (hg : Tab.find s.groups sel.key = some g)
  (hsp : Tab.find g.splits sel.split = some sp) (hw : fetchWord s sel.key g sp.pc = .ok (s2, w))
include hg hsp hw

/-- A word fetched at the chosen split is what the step runs when it decodes (R46). -/
theorem chosenWord_decoded {i : Instr} (dec : decode w = .ok i) : chosenWord s sel = .inr (i, s2) := by
  simp only [chosenWord, hg, hsp, hw, dec]

/-- A word that does not decode traps there (R66). -/
theorem chosenWord_illegal {e : DecodeError} (dec : decode w = .error e) :
    chosenWord s sel = .inl (takeFault s2 sel.key sel.split ⟨0x08, 0, 0, (lanesOf g.width sp.mask).headD 0⟩ sp.pc false) := by
  simp only [chosenWord, hg, hsp, hw, dec]

end

/-- Settles O57: the three sources of `pick`, in its order. -/
theorem stepRunsTheDecodedWord : Obligations.StepRunsTheDecodedWord := by
  intro s
  refine ⟨fun sel g sp s2 w issue hg hsp hw => ⟨fun i dec => ?_, fun e dec => ?_⟩, fun e es idle events => ⟨fun held => ?_, fun held => ?_⟩,
    fun idle events => ?_⟩
  · simp only [step, pick, issue, chosenWord_decoded hg hsp hw dec]
  · simp only [step, pick, issue, chosenWord_illegal hg hsp hw dec]
  · simp [step, pick, idle, events, held]
  · simp [step, pick, idle, events, held]
  · simp [step, pick, idle, events]

end Sys2Proof.Machine
end

section
/-! The mode register, its words and the generator's seed (R61, R62, R270, R447). -/
namespace Sys2Proof.Machine

/-! ### One field of gm -/

theorem testBit_fieldMask (w lo k : Nat) : ((2 ^ w - 1) * 2 ^ lo).testBit k = (decide (lo ≤ k) && decide (k - lo < w)) := by
  rw [← Nat.shiftLeft_eq, Nat.testBit_shiftLeft, Nat.testBit_two_pow_sub_one]

theorem getLsbD_gmPut (gm : BitVec 64) (sel v : Nat) {k : Nat} (hk : k < 64) :
    (gmPut gm sel v).getLsbD k = if gmLow sel ≤ k ∧ k - gmLow sel < gmWid sel then v.testBit (k - gmLow sel) else gm.getLsbD k := by
  have mask : (BitVec.ofNat 64 ((2 ^ gmWid sel - 1) * 2 ^ gmLow sel)).getLsbD k = decide (gmLow sel ≤ k ∧ k - gmLow sel < gmWid sel) := by
    rw [BitVec.getLsbD_ofNat, testBit_fieldMask]; simp [hk]
  have value : (BitVec.ofNat 64 (v * 2 ^ gmLow sel)).getLsbD k = (decide (gmLow sel ≤ k) && v.testBit (k - gmLow sel)) := by
    rw [BitVec.getLsbD_ofNat, ← Nat.shiftLeft_eq, Nat.testBit_shiftLeft]; simp [hk]
  simp only [gmPut, BitVec.getLsbD_or, BitVec.getLsbD_and, BitVec.getLsbD_not, hk, mask, value]
  by_cases inField : gmLow sel ≤ k ∧ k - gmLow sel < gmWid sel
  · simp [inField]
  · simp [inField]

/-- Every field lies in gm. -/
theorem gmLow_add_gmWid_le (sel : Nat) : gmLow sel + gmWid sel ≤ 34 := by
  unfold gmLow gmWid
  split <;> decide

theorem gmWid_pos {sel : Nat} (h : sel ≤ 8) : 0 < gmWid sel := by
  revert h; revert sel; decide

theorem bits_gmPut (gm : BitVec 64) {sel v : Nat} (hsel : sel ≤ 8) (hv : v < 2 ^ gmWid sel) :
    bits (gmPut gm sel v).toNat (gmLow sel + gmWid sel - 1) (gmLow sel) = v := by
  have pos := gmWid_pos hsel
  have fits := gmLow_add_gmWid_le sel
  have width : gmLow sel + gmWid sel - 1 + 1 - gmLow sel = gmWid sel := by omega
  apply Nat.eq_of_testBit_eq
  intro k
  rw [bits, width, Nat.testBit_mod_two_pow, Nat.testBit_shiftRight, BitVec.testBit_toNat]
  by_cases hk : k < gmWid sel
  · rw [getLsbD_gmPut gm sel v (by omega)]
    simp [hk]
  · simp only [hk, decide_false, Bool.false_and]
    exact (Nat.testBit_lt_two_pow (hv.trans_le (Nat.pow_le_pow_right (by decide) (by omega)))).symm

theorem getLsbD_gmPut_outside (gm : BitVec 64) (sel v : Nat) {k : Nat} (h : k < gmLow sel ∨ gmLow sel + gmWid sel ≤ k) :
    (gmPut gm sel v).getLsbD k = gm.getLsbD k := by
  by_cases hk : k < 64
  · rw [getLsbD_gmPut gm sel v hk, if_neg (by omega)]
  · rw [BitVec.getLsbD_of_ge _ _ (by omega), BitVec.getLsbD_of_ge _ _ (by omega)]

/-! ### The words -/

/-- A word that writes one field of gm with a value that fits. -/
theorem completes_writeMode {s : State} {c : WCtx} (h : Issues s c) {sel v : Nat} (hsel : sel ≤ 8) (hv : v < 2 ^ gmWid sel) :
    Completes (.next (finish (writeMode s c sel v) c)) s c [] 0 fun g g' =>
      g' = { g with gm := g'.gm, splits := g'.splits, susp := none, want := none, lastIssue := s.time }
        ∧ bits g'.gm.toNat (gmLow sel + gmWid sel - 1) (gmLow sel) = v
        ∧ ∀ k, (k < gmLow sel ∨ gmLow sel + gmWid sel ≤ k) → g'.gm.getLsbD k = g.gm.getLsbD k := by
  refine (completes_group h (fun g => { g with gm := gmPut g.gm sel v }) (fun _ => rfl) fun _ => rfl).mono fun g g' _ eq => ?_
  have gm : g'.gm = gmPut g.gm sel v := by rw [eq]
  rw [gm]
  exact ⟨gm ▸ eq, bits_gmPut _ hsel hv, fun k out => getLsbD_gmPut_outside _ _ _ out⟩

theorem msetBad_eq_false {sel v : Nat} (h : msetBad sel v = false) : sel ≤ 8 ∧ v < 2 ^ gmWidth sel := by
  simp [msetBad] at h; omega

/-- Settles O3: each word is one write of its group. -/
theorem modeRegisterWords : Obligations.ModeRegisterWords := by
  intro s c d x r v q n h he
  simp only [exec_mset, exec_msetReg, exec_mget, exec_sysSrseed]
  refine ⟨fun legal => ?mset, fun selector fits allowed => ?msetReg, fun _ => ?mget, ?srseed⟩
  case mset =>
    obtain ⟨selector, fits⟩ := msetBad_eq_false legal
    rw [execMset, runWord_ok h he _ rfl]
    exact completes_writeMode h selector fits
  case msetReg =>
    have pass : ¬ (2 ^ gmWid x.toNat ≤ (c.g.s q.toNat).toNat ∨ gmForbidden x.toNat (c.g.s q.toNat).toNat = true) := by
      simp [allowed, fits]
    rw [execMsetReg, runWord_ok h he _ (by simp only [if_neg pass]; rfl)]
    exact completes_writeMode h selector fits
  case mget =>
    rw [execMget, runWord_ok h he _ rfl]
    exact completes_writeS h _ _
  case srseed =>
    rw [execSysSrseed, runWord_ok h he _ rfl]
    exact completes_group h (fun g => { g with srg := _ }) (fun _ => rfl) fun _ => rfl

end Sys2Proof.Machine
end

section
/-! Results in flight (R56, R58): what a long-latency word leaves of its group, and what the group is once the result lands. -/
namespace Sys2Proof.Machine

/-! ### A result that lands -/

/-- A result for the active lanes of one register lands as a write of that register. -/
theorem landPending_row (g : Group) {p : Pending} {wide : Bool} {d tag : Nat} {vs : List (Nat × Nat)} (elems : p.elems = g.laneElems wide d vs)
    (tags : p.tags = (g.regRows wide d).map fun r => (r, BitVec.ofNat 5 tag)) (svals : p.svals = []) :
    landPending g p = g.putReg wide d vs tag := by
  simp only [landPending, elems, tags, svals, List.foldl_nil, List.foldl_map]
  rfl

theorem laneElems_congr {g g' : Group} (views : g'.views = g.views) (width : g'.width = g.width) (wide : Bool) (d : Nat) (vs : List (Nat × Nat)) :
    g'.laneElems wide d vs = g.laneElems wide d vs := by
  simp only [Group.laneElems, Group.elemKey, Group.rowNo, Group.vBase, Group.vStride, Group.view, views, width]

theorem regRows_congr {g g' : Group} (views : g'.views = g.views) (width : g'.width = g.width) (wide : Bool) (d : Nat) :
    g'.regRows wide d = g.regRows wide d := by
  simp only [Group.regRows, Group.rowNo, Group.vBase, Group.vStride, Group.view, views, width]

theorem Issues.views {s : State} {c : WCtx} (h : Issues s c) {g : Group} (hg : Tab.find s.groups c.key = some g) : c.g.views = g.views := by
  obtain ⟨g', _, hg', e, -⟩ := h.group
  rw [hg] at hg'; cases hg'
  obtain ⟨a, b, r, hr⟩ := seen_rest s.fresh g
  rw [e, hr]

/-! ### A result that takes off -/

/-- The group with one more result in flight, counted by the result's tumbler. -/
def Group.fly (g : Group) (p : Pending) : Group :=
  match p.tumbler with
  | some t => { g.bumpT t with pending := g.pending ++ [p] }
  | none => { g with pending := g.pending ++ [p] }

theorem Group.fly_rest (g : Group) (p : Pending) : g.fly p = { g with pending := g.pending ++ [p], tumblers := (g.fly p).tumblers } := by
  unfold Group.fly
  split <;> rfl

theorem Group.tumbler_fly (g : Group) (p : Pending) (t : Nat) : (g.fly p).tumbler t = g.tumbler t + if p.tumbler = some t then 1 else 0 := by
  unfold Group.fly
  split
  case h_1 k hk =>
    have bumped : (g.bumpT k).tumbler t = if t = k then g.tumbler k + 1 else g.tumbler t := Tab.fetch_store 0 g.tumblers k t (g.tumbler k + 1)
    refine bumped.trans ?_
    rw [hk]
    by_cases h : t = k
    · simp [h]
    · simp [h, Ne.symm h]
  case h_2 hk => simp [hk, Group.tumbler]

/-- A long-latency word whose checks pass puts its result in flight under the tumbler of its place (R56). -/
theorem runLong_ok {s s' : State} {c : WCtx} {p : Pending} (h : Issues s c) (he : c.eff ≠ 0) (free : TumblerFree c)
    {body : WCtx → State → Try (State × Pending)} (unnamed : p.tumbler = none) (hb : body c s = .ok (s', p)) :
    runLong s body = .next (finish (updG s' c.key fun g => g.fly { p with tumbler := tumblerOf c.sp }) c) := by
  refine runWord_ok h he _ ?_
  simp only [hb]
  cases ht : tumblerOf c.sp with
  | some t => exact if_neg (Nat.not_le.2 (free t ht))
  | none =>
    cases p
    cases unnamed
    rfl

/-- A word after whose reads, which leave `s`, only its group changes, by `f`. -/
theorem completes_reads (s : State) (c : WCtx) (f : Group → Group) (ag : List Instr) (ids : Nat)
    (hs : ∀ g, (f g).splits = g.splits) (hm : ∀ g, (f g).mb = g.mb) :
    Completes (.next (finish { updG s c.key f with agenda := s.agenda ++ ag, nextId := s.nextId + ids } c)) s c ag ids fun g g' =>
      g' = { f g with splits := g'.splits, susp := none, want := none, lastIssue := s.time } := by
  refine ⟨_, rfl, ⟨rfl, fun k hk => ?_, fun l => ?_⟩, fun g hg => ?_⟩
  · rw [find_finish_ne _ _ hk]
    exact Tab.find_modify_ne _ _ hk
  · refine homeByte_groups s _ rfl (fun k => ?_) l
    by_cases hk : k = c.key
    · rw [hk, find_finish]
      cases hg : Tab.find s.groups c.key <;> simp [updG, hg, hm]
    · rw [find_finish_ne _ _ hk]
      exact congrArg _ (Tab.find_modify_ne _ _ hk)
  · exact ⟨_, by rw [find_finish]; simp [updG, hg]; rfl, nextWord_splits (by simp only [hs]), rfl⟩

/-- The same for a word whose reads leave `s` and that puts the result `p` in flight, with its event. -/
theorem completes_fly (s : State) (c : WCtx) (p : Pending) (e : Instr) :
    Completes (.next (finish (updG (later (newId s).1 e) c.key fun g => g.fly p) c)) s c [e] 1 fun g g' =>
      g'.pending = g.pending ++ [p]
        ∧ g' = { g with pending := g'.pending, tumblers := g'.tumblers, splits := g'.splits, susp := none, want := none, lastIssue := s.time } := by
  have fields (g : Group) : (g.fly p).splits = g.splits ∧ (g.fly p).mb = g.mb := by rw [Group.fly_rest]; exact ⟨rfl, rfl⟩
  refine (completes_reads s c (fun g => g.fly p) [e] 1 (fun g => (fields g).1) fun g => (fields g).2).mono fun g g' _ eq => ?_
  rw [Group.fly_rest] at eq
  have pending : g'.pending = g.pending ++ [p] := by rw [eq]
  exact ⟨pending, by rw [pending]; rw [eq]⟩

/-! ### Long-latency floating-point words (R278) -/

/-- A floating-point result put in flight. -/
theorem completes_pendFloat {s : State} {c : WCtx} (h : Issues s c) (wide : Bool) (d : Nat) {e n : Nat} (fits : e * n ≤ if wide then 64 else 32)
    (r : Nat → Nat → FRes) (tag : Nat) (srg : BitVec 32) :
    Completes (.next (finish (updG (pendFloat s c wide d (laneVals e (laneResults c n r)) tag srg).1 c.key fun g =>
        g.fly { (pendFloat s c wide d (laneVals e (laneResults c n r)) tag srg).2 with tumbler := tumblerOf c.sp }) c))
      s c [.longLatencyCompletion c.key s.nextId] 1
      (Pends s c srg none (WritesRow s c wide d (fun l v => ∀ k < n, elemAt e v k = (r l k).bits % 2 ^ e) tag srg)) := by
  simp only [pendFloat, newId, later, updG, Tab.modify_modify, laneVals_laneResults]
  generalize hp : Pending.mk _ _ _ _ _ _ _ _ = p
  refine (completes_reads s c (fun g => ({ g with srg } : Group).fly p) [.longLatencyCompletion c.key s.nextId] 1
    (fun g => by rw [Group.fly_rest]) fun g => by rw [Group.fly_rest]).mono fun g g' hg eq => ?_
  rw [Group.fly_rest] at eq
  refine ⟨p, by rw [eq], ?_, ?_, ?_, ?_, ?_, by rw [eq], fun t => ?_, ?_⟩
  iterate 5 exact hp ▸ rfl
  · refine Eq.trans (by rw [eq]; rfl) ((Group.tumbler_fly _ p t).trans ?_)
    exact hp ▸ rfl
  · have views : c.g.views = g'.views := by rw [h.views hg, eq]
    have width : c.g.width = g'.width := by rw [h.width hg, eq]
    have lands := landPending_row g' (p := p) (by rw [← hp, laneElems_congr views width]) (by rw [← hp, regRows_congr views width]) (hp ▸ rfl)
    refine writesRow_putReg g _ (h.width hg) wide d (fun l => joinElems e ((List.range n).map fun k => (r l k).bits)) tag srg _ (fun l _ k hk => ?_) ?_
    · rw [elemAt_mod ((Nat.mul_le_mul_left e hk).trans fits), elemAt_joinElems_range _ hk]
    · rw [lands, eq]; rfl

theorem floatLong_completes {s : State} {c : WCtx} (h : Issues s c) (he : c.eff ≠ 0) (free : TumblerFree c) (ha : tFloat c.g.ty = true) {d : BitVec 7}
    {os : Bool → List Opnd} {f : WCtx → Nat → Nat → Option Nat → FRes} (hr : Readable c (os (tWide c.g.ty)))
    (hq : Quiet c (elemCount c.g.ty) fun l k => f c l k (srDrawOf c c.g.ty (elemCount c.g.ty) l k)) :
    Completes (floatLong s d os f) s c [.longLatencyCompletion c.key s.nextId] 1
      (Pends s c (srgAfter c c.g.ty (elemCount c.g.ty)) none
        (WritesRow s c (tWide c.g.ty) d.toNat (fun l v => ∀ k < elemCount c.g.ty,
            elemAt (tWidth c.g.ty) v k = (f c l k (srDrawOf c c.g.ty (elemCount c.g.ty) l k)).bits % 2 ^ tWidth c.g.ty)
          c.g.ty (srgAfter c c.g.ty (elemCount c.g.ty)))) := by
  have ok : floatLong s d os f = .next (finish (updG (pendFloat s c (tWide c.g.ty) d.toNat
      (laneVals (tWidth c.g.ty) (laneResults c (elemCount c.g.ty) fun l k => f c l k (srDrawOf c c.g.ty (elemCount c.g.ty) l k)))
      c.g.ty (srgAfter c c.g.ty (elemCount c.g.ty))).1 c.key fun g => g.fly _) c) :=
    runLong_ok h he free rfl (by simp only [vecCheck_ok ha hr, evalLanes_eq, fpCheck_quiet hq]; rfl)
  rw [ok]
  exact completes_pendFloat h _ _ (by rw [elem_width, Nat.mul_comm]) _ _ _

/-- Settles O13: every long-latency floating-point word is `floatLong`. -/
theorem longFloatResults : Obligations.LongFloatResults := by
  intro s c d i a j b h he types free
  simp only [exec_fdiv, exec_frcp, exec_fsqrt, exec_frsq, exec_fexp2, exec_flog2, exec_fsin, exec_fcos, execFdiv, execFrcp, execFsqrt, execFrsq,
    execFexp2, execFlog2, execFsin, execFcos, floatLong1]
  refine ⟨?_, ?_, ?_, ?_, ?_, ?_, ?_, ?_⟩
  all_goals exact fun hr hq => floatLong_completes h he free types hr hq

end Sys2Proof.Machine
end

section
/-! Loads (R210, R214, R215): the lanes that an access serves, and the results that loads put in flight. -/
namespace Sys2Proof.Machine

/-! ### The lanes of an access -/

theorem checkPages_lanes {s : State} {key : Nat} {g : Group} {seg rw z : Nat} {xs : List Acc} {ls : List (Nat × List Loc)}
    (h : checkPages s key g seg rw z xs = .ok ls) : ls.map Prod.fst = xs.map Acc.lane := by
  simp only [checkPages] at h
  split at h
  · cases h
  · split at h
    · cases h
    · split at h
      · cases h
      · split at h
        · cases h
        · split at h
          · cases h
          · cases h
            simp

theorem checkSurf_lanes {s : State} {g : Group} {rw z : Nat} {xs : List Acc} {ls : List (Nat × List Loc)}
    (h : checkSurf s g rw z xs = .ok ls) : ls.map Prod.fst = xs.map Acc.lane := by
  unfold checkSurf illegal at h
  split at h
  · cases h
  · split at h
    · cases h
    · split at h
      · cases h
      · cases h
        simp

/-- The access that passes its checks serves every lane that asks, in their order. -/
theorem access_lanes {s s1 : State} {key : Nat} {g : Group} {seg ak a add rw z : Nat} {xs : List Acc} {ls : List (Nat × List Loc)}
    (h : access s key g seg ak a add rw z xs = .ok (s1, ls)) : ls.map Prod.fst = xs.map Acc.lane := by
  unfold access at h
  split at h
  · cases h
  · split at h
    · cases h
    · split at h
      · cases hc : checkSurf s g rw z (xs.map fun x => { x with y := ((g.seg 3).base.toNat + x.y) % 2 ^ 64 }) with
        | error e => rw [hc] at h; cases h
        | ok ls' =>
          rw [hc] at h
          cases ht : touchSurf s rw ls' with
          | error e => simp only [Try.ok_bind, ht] at h; cases h
          | ok s' =>
            simp only [Try.ok_bind, ht] at h
            cases h
            exact (checkSurf_lanes hc).trans (by rw [List.map_map]; rfl)
      · cases hc : checkPages s key g seg rw z xs with
        | error e => rw [hc] at h; cases h
        | ok ls' =>
          rw [hc] at h
          simp only [Try.ok_bind] at h
          split at h
          · cases h
          · cases h
            exact checkPages_lanes hc

theorem loadLanes_lanes (s : State) (key : Nat) (g : Group) (ls : List (Nat × List Loc)) :
    (loadLanes s key g ls).2.map Prod.fst = ls.map Prod.fst := by
  induction ls generalizing s with
  | nil => rfl
  | cons x ls ih => exact congrArg _ (ih _)

/-- Lanes that each occur once carry one value each. -/
theorem exists_map_of_nodup {β : Type} (d : β) {xs : List (Nat × β)} (h : (xs.map Prod.fst).Nodup) :
    ∃ f : Nat → β, xs = (xs.map Prod.fst).map fun l => (l, f l) := by
  induction xs with
  | nil => exact ⟨fun _ => d, rfl⟩
  | cons x xs ih =>
    obtain ⟨out, nodup⟩ := List.nodup_cons.1 h
    obtain ⟨f, hf⟩ := ih nodup
    refine ⟨Function.update f x.1 x.2, ?_⟩
    simp only [List.map_cons, Function.update_self, List.cons.injEq, true_and]
    refine hf.trans (List.map_congr_left fun l hl => ?_)
    rw [Function.update_of_ne fun (e : l = x.1) => out (e ▸ hl)]

/-! ### The words -/

section
variable {s : State} {c : WCtx} (h : Issues s c) (he : c.eff ≠ 0) (free : TumblerFree c)
include h he free

/-- A load of rows whose checks pass: the result in flight, and what its landing writes in each lane. -/
theorem loadRow_completes {d : BitVec 7} {x : BitVec 3} {k : BitVec 1} {a : BitVec 6} {okTy : Nat → Bool} {z : Nat → Nat} {add : WCtx → Nat → Nat}
    {conv : Nat → Nat → Nat} {tag : Nat → Nat} (ha : okTy c.g.ty = true) (hr : Readable c (opD (tWide c.g.ty) d :: addrRows x k a))
    {s1 : State} {ls : List (Nat × List Loc)} (hs : access s c.key c.g x.toNat k.toNat a.toNat (add c c.low) 0 (z c.g.ty)
      (c.lanes.map fun l => accOf c.g x.toNat k.toNat a.toNat (add c l) l) = .ok (s1, ls)) :
    let s2 := (loadLanes s1 c.key c.g ls).1
    let got := (loadLanes s1 c.key c.g ls).2
    Completes (loadRow s d x k a okTy z add conv tag) s2 c [.longLatencyCompletion c.key s2.nextId] 1 fun g g' =>
      ∃ p, g'.pending = g.pending ++ [p] ∧ p.id = s2.nextId ∧ p.ready = true ∧ p.tumbler = tumblerOf c.sp
        ∧ p.poison = lanesBad s2 c.g.core ls
        ∧ g' = { g with pending := g'.pending, tumblers := g'.tumblers, splits := g'.splits, susp := none, want := none, lastIssue := s2.time }
        ∧ ∀ l bs, (l, bs) ∈ got → (landPending c.g p).val (tWide c.g.ty) d.toNat l = conv c.g.ty (leNat bs) % 2 ^ (if tWide c.g.ty then 64 else 32)
            ∧ ∀ row ∈ c.g.regRows (tWide c.g.ty) d.toNat, (landPending c.g p).rowTag row = BitVec.ofNat 5 (tag c.g.ty) := by
  intro s2 got
  have lanes : got.map Prod.fst = c.lanes := by
    rw [loadLanes_lanes, access_lanes hs, List.map_map]
    exact List.map_id _
  obtain ⟨f, hf⟩ := exists_map_of_nodup [] (lanes ▸ c.lanes_nodup)
  rw [lanes] at hf
  let p : Pending := { blankPending s2.nextId c.sp.pc with
    elems := c.g.laneElems (tWide c.g.ty) d.toNat (got.map fun x => (x.1, conv c.g.ty (leNat x.2))),
    tags := (c.g.regRows (tWide c.g.ty) d.toNat).map fun r => (r, BitVec.ofNat 5 (tag c.g.ty)), ready := true, poison := lanesBad s2 c.g.core ls }
  have ok : loadRow s d x k a okTy z add conv tag = .next (finish (updG (later (newId s2).1 (.longLatencyCompletion c.key s2.nextId)) c.key fun g =>
      g.fly { p with tumbler := tumblerOf c.sp }) c) :=
    runLong_ok h he free rfl (by simp only [vecCheck_ok ha hr, hs, Try.ok_bind]; rfl)
  rw [ok]
  refine (completes_fly s2 c _ _).mono fun g g' _ ⟨pending, rest⟩ => ⟨_, pending, rfl, rfl, rfl, rfl, rest, fun l bs mem => ?_⟩
  rw [landPending_row c.g rfl rfl rfl, hf, List.map_map]
  rw [hf] at mem
  obtain ⟨m, hm, eq⟩ := List.mem_map.1 mem
  cases eq
  exact ⟨val_putReg c.g _ _ c.lanes (fun l => conv c.g.ty (leNat (f l))) _ l hm fun _ => lanesOf_lt, fun row hrow => by
    rw [rowTag_putReg, if_pos hrow]⟩

/-- The uniform load: one scalar in flight. -/
theorem execLdu_completes {z : BitVec 1} {e : BitVec 6} {x : BitVec 3} {a : BitVec 6} {o : BitVec 8} {s1 : State} {ls : List (Nat × List Loc)}
    (hs : access s c.key c.g x.toNat 1 a.toNat (o.toNat * uniBytes z) 0 (uniBytes z) [accOf c.g x.toNat 1 a.toNat (o.toNat * uniBytes z) c.low]
      = .ok (s1, ls)) :
    let r := groupLoad s1 c.key c.g (ls.flatMap (·.2))
    Completes (execLdu z e x a o s) r.1 c [.longLatencyCompletion c.key r.1.nextId] 1 fun g g' =>
      ∃ p, g'.pending = g.pending ++ [p] ∧ p.id = r.1.nextId ∧ p.ready = true ∧ p.tumbler = tumblerOf c.sp ∧ p.elems = [] ∧ p.tags = []
        ∧ p.poison = (loadBad r.1 c.g.core (ls.flatMap (·.2))).map (·, c.low) ∧ p.svals = [(e.toNat, BitVec.ofNat 64 (leNat r.2))]
        ∧ g' = { g with pending := g'.pending, tumblers := g'.tumblers, splits := g'.splits, susp := none, want := none, lastIssue := r.1.time } := by
  intro r
  let p : Pending := { blankPending r.1.nextId c.sp.pc with
    svals := [(e.toNat, BitVec.ofNat 64 (leNat r.2))], ready := true, poison := (loadBad r.1 c.g.core (ls.flatMap (·.2))).map (·, c.low) }
  have ok : execLdu z e x a o s = .next (finish (updG (later (newId r.1).1 (.longLatencyCompletion c.key r.1.nextId)) c.key fun g =>
      g.fly { p with tumbler := tumblerOf c.sp }) c) :=
    runLong_ok h he free rfl (by simp only [hs, Try.ok_bind]; rfl)
  rw [ok]
  exact (completes_fly r.1 c _ _).mono fun g g' _ ⟨pending, rest⟩ => ⟨_, pending, rfl, rfl, rfl, rfl, rfl, rfl, rfl, rest⟩

end

/-- Settles O16: the row loads are `loadRow`; `ldu` puts a scalar in flight. -/
theorem loadWords : Obligations.LoadWords := by
  intro s c d x k a o z e h he free
  simp only [exec_ld, exec_ldt, exec_ldb, exec_ldu]
  refine ⟨fun hr s1 ls hs => ?ld, fun hq hr s1 ls hs => ?ldt, fun hr s1 ls hs => ?ldb, fun s1 ls hs => ?ldu⟩
  case ld =>
    refine (loadRow_completes h he free rfl hr hs).mono fun g g' _ ⟨p, pending, id, ready, tumbler, poison, rest, lands⟩ =>
      ⟨p, pending, id, ready, tumbler, poison, rest, fun l bs mem _ _ => lands l bs mem⟩
  case ldt =>
    refine (loadRow_completes h he free (by simpa using hq) hr hs).mono fun g g' _ ⟨p, pending, id, ready, tumbler, poison, rest, lands⟩ =>
      ⟨p, pending, id, ready, tumbler, poison, rest, fun l bs mem _ _ => lands l bs mem⟩
  case ldb =>
    have readable : Readable c (opD (tWide c.g.ty) d :: addrRows x 1 a) := hr
    have passed : access s c.key c.g x.toNat (1#1).toNat a.toNat ((o.toNat + c.low) * rowBytes c.g.ty) 0 (rowBytes c.g.ty)
      (c.lanes.map fun l => accOf c.g x.toNat (1#1).toNat a.toNat ((o.toNat + l) * rowBytes c.g.ty) l) = .ok (s1, ls) := hs
    refine (loadRow_completes h he free (okTy := fun _ => true) (add := fun c l => (o.toNat + l) * rowBytes c.g.ty) rfl readable passed).mono
      fun g g' _ ⟨p, pending, id, ready, tumbler, poison, rest, lands⟩ =>
        ⟨p, pending, id, ready, tumbler, poison, rest, fun l bs mem _ _ => lands l bs mem⟩
  case ldu =>
    exact execLdu_completes h he free hs

end Sys2Proof.Machine
end

section
/-! Segment limits and permissions (R67, R210, R211, R427): the checks of an access that fail before any byte moves. -/
namespace Sys2Proof.Machine

/-- The limit failure of an access outside `sf` (R210). -/
theorem limitBad_iff {g : Group} {seg : Nat} (notSurface : seg ≠ 3) (ak a add n : Nat) (x : Acc) : limitBad g seg ak a add n x = true ↔
    ((g.seg seg).unb = false ∧ (g.seg seg).limit.toNat < x.y + n)
      ∨ ((seg = 1 ∨ seg = 2) ∧ 2 ^ 19 < (g.seg seg).base.toNat + x.y + n) ∨ (seg = 7 ∧ 256 < (g.seg seg).base.toNat + x.y + n) := by
  simp [limitBad, notSurface, or_assoc]

section
variable {s : State} {c : WCtx} {seg ak a rw n add l : Nat}

/-- The lowest lane beyond the segment's limit names the fault. -/
theorem access_limit (mem : l ∈ c.lanes) (bad : limitBad c.g seg ak a add n (accOf c.g seg ak a add l) = true)
    (lowest : ∀ m ∈ c.lanes, m < l → limitBad c.g seg ak a add n (accOf c.g seg ak a add m) = false) :
    access s c.key c.g seg ak a add rw n (c.lanes.map fun m => accOf c.g seg ak a add m)
      = .error (.trap ⟨0x04, memDetail rw seg, (accOf c.g seg ak a add l).y, l⟩) := by
  have first : (c.lanes.map fun m => accOf c.g seg ak a add m).find? (limitBad c.g seg ak a add n) = some (accOf c.g seg ak a add l) := by
    rw [List.find?_map, find?_eq_least (p := limitBad c.g seg ak a add n ∘ _) c.lanes_sorted mem bad lowest]; rfl
  simp only [access, first]
  rfl

/-- A segment without the permission, once every lane lies within it, faults at the lowest lane (R211). -/
theorem access_permission (mem : l ∈ c.lanes) (inside : ∀ m ∈ c.lanes, limitBad c.g seg ak a add n (accOf c.g seg ak a add m) = false)
    (denied : permBad s c.g seg rw = true) :
    access s c.key c.g seg ak a add rw n (c.lanes.map fun m => accOf c.g seg ak a add m)
      = .error (.trap ⟨0x03, memDetail rw seg, (accOf c.g seg ak a add c.low).y, c.low⟩) := by
  have none : (c.lanes.map fun m => accOf c.g seg ak a add m).find? (limitBad c.g seg ak a add n) = none := by
    simpa [List.find?_eq_none] using inside
  have head : (c.lanes.map fun m => accOf c.g seg ak a add m).headD ⟨0, 0⟩ = accOf c.g seg ak a add c.low := by
    rw [WCtx.low]
    cases hc : c.lanes with
    | nil => rw [hc] at mem; cases mem
    | cons m ms => rfl
  simp only [access, none, denied, if_true, head]
  rfl

end

/-! ### The words -/

section
variable {s : State} {c : WCtx} (h : Issues s c) (he : c.eff ≠ 0)
include h he

theorem loadRow_trap (free : TumblerFree c) {d : BitVec 7} {x : BitVec 3} {k : BitVec 1} {a : BitVec 6} {okTy : Nat → Bool} {z : Nat → Nat}
    {add : WCtx → Nat → Nat} {conv : Nat → Nat → Nat} {tag : Nat → Nat} (ha : okTy c.g.ty = true)
    (hr : Readable c (opD (tWide c.g.ty) d :: addrRows x k a)) {t : Trap} (ht : access s c.key c.g x.toNat k.toNat a.toNat (add c c.low) 0 (z c.g.ty)
      (c.lanes.map fun l => accOf c.g x.toNat k.toNat a.toNat (add c l) l) = .error (.trap t)) :
    loadRow s d x k a okTy z add conv tag = .next (takeFault s c.key c.si t c.sp.pc false) :=
  runLong_trap h he free (by simp only [vecCheck_ok ha hr, ht]; rfl)

theorem storeRow_trap {d : BitVec 7} {x : BitVec 3} {k : BitVec 1} {a : BitVec 6} {o : BitVec 8} {okTy : Nat → Bool} {z : Nat → Nat}
    (ha : okTy c.g.ty = true) (hr : Readable c (storeOpnd (tWide c.g.ty) d :: addrRows x k a)) {t : Trap}
    (ht : access s c.key c.g x.toNat k.toNat a.toNat (o.toNat * z c.g.ty) 1 (z c.g.ty)
      (c.lanes.map fun l => accOf c.g x.toNat k.toNat a.toNat (o.toNat * z c.g.ty) l) = .error (.trap t)) :
    storeRow s d x k a o okTy z = .next (takeFault s c.key c.si t c.sp.pc false) :=
  runWord_trap h he _ (by simp only [vecCheck_ok ha hr, accs, ht]; rfl)

end

/-- Settles O19: `access` is made before the reads and before the stores. -/
theorem accessFaults : Obligations.AccessFaults := by
  intro s c d x k a o l h he free notSurface mem ty n seg sg y beyond faults
  simp only [faults, exec_ld, exec_st]
  have place (m : Nat) : (accOf c.g seg k.toNat a.toNat (o.toNat * n) m).y = y m := rfl
  have bad_iff (m : Nat) : limitBad c.g seg k.toNat a.toNat (o.toNat * n) n (accOf c.g seg k.toNat a.toNat (o.toNat * n) m) = true ↔ beyond m := by
    rw [limitBad_iff notSurface, place]
  have good {m : Nat} (hm : ¬ beyond m) : limitBad c.g seg k.toNat a.toNat (o.toNat * n) n (accOf c.g seg k.toNat a.toNat (o.toNat * n) m) = false := by
    rw [← Bool.not_eq_true, bad_iff]; exact hm
  refine ⟨fun hr => ⟨fun bad lowest => ?_, fun inside low denied => ?_⟩, fun hr => ⟨fun bad lowest => ?_, fun inside low denied => ?_⟩⟩
  · rw [← place l]
    exact loadRow_trap h he free rfl hr (access_limit mem ((bad_iff l).2 bad) fun m hm lt => good (lowest m hm lt))
  · rw [← place l, low]
    exact loadRow_trap h he free rfl hr (access_permission mem (fun m hm => good (inside m hm)) (by simp [permBad]; exact .inl denied))
  · rw [← place l]
    exact storeRow_trap h he rfl hr (access_limit mem ((bad_iff l).2 bad) fun m hm lt => good (lowest m hm lt))
  · rw [← place l, low]
    exact storeRow_trap h he rfl hr (access_permission mem (fun m hm => good (inside m hm)) (by simp [permBad]; exact .inl denied))

end Sys2Proof.Machine
end

section
/-! Splits that divide (R387, R388) and the control words that redirect them (R45, R396 to R401). -/
namespace Sys2Proof

/-! ### Keys of a table -/

theorem Tab.find_isSome_iff {β : Type} (t : Tab β) (k : Nat) : (Tab.find t k).isSome ↔ k ∈ t.map Prod.fst := by
  induction t with
  | nil => simp [Tab.find]
  | cons e t ih =>
    simp only [Tab.find, List.map_cons, List.mem_cons]
    split
    · rename_i h; simp [h]
    · rename_i h; simp [ih, Ne.symm h]

/-- Changing a table by keys does not move its entries. -/
theorem Tab.map_put {β γ : Type} (φ : Nat → β → γ) (t : Tab β) (k : Nat) (v : β) :
    (Tab.put t k v).map (fun e => (e.1, φ e.1 e.2)) = Tab.put (t.map fun e => (e.1, φ e.1 e.2)) k (φ k v) := by
  induction t with
  | nil => rfl
  | cons e t ih =>
    simp only [Tab.put, List.map_cons]
    split
    · rfl
    · split
      · rfl
      · simp [ih]

theorem Tab.map_modify {β : Type} {φ : Nat → β → β} {k : Nat} {f : β → β} (comm : ∀ x, φ k (f x) = f (φ k x)) (t : Tab β) :
    (Tab.modify t k f).map (fun e => (e.1, φ e.1 e.2)) = Tab.modify (t.map fun e => (e.1, φ e.1 e.2)) k f := by
  unfold Tab.modify
  rw [Tab.find_mapKey]
  cases Tab.find t k with
  | none => rfl
  | some x => rw [Tab.map_put, comm]; rfl

/-- The keys below `n` that a table has. -/
def Tab.taken {β : Type} (t : Tab β) (n : Nat) : Finset Nat := (Finset.range n).filter fun i => (Tab.find t i).isSome

theorem Tab.card_taken_le {β : Type} (t : Tab β) (n : Nat) : (Tab.taken t n).card ≤ t.length := by
  have sub : Tab.taken t n ⊆ (t.map Prod.fst).toFinset := by
    intro i hi
    rw [List.mem_toFinset, ← Tab.find_isSome_iff]
    exact (Finset.mem_filter.1 hi).2
  calc (Tab.taken t n).card ≤ (t.map Prod.fst).toFinset.card := Finset.card_le_card sub
    _ ≤ (t.map Prod.fst).length := List.toFinset_card_le _
    _ = t.length := List.length_map ..

theorem Tab.taken_put_subset {β : Type} (t : Tab β) (n k : Nat) (v : β) : Tab.taken (Tab.put t k v) n ⊆ insert k (Tab.taken t n) := by
  intro i hi
  simp only [Tab.taken, Finset.mem_filter, Finset.mem_insert, Tab.find_put] at *
  by_cases h : i = k
  · exact .inl h
  · simpa [h] using hi

/-- A key that is there already is not counted twice. -/
theorem Tab.taken_put_of_find {β : Type} {t : Tab β} {k : Nat} {x : β} (h : Tab.find t k = some x) (n : Nat) (v : β) :
    Tab.taken (Tab.put t k v) n = Tab.taken t n := by
  ext i
  simp only [Tab.taken, Finset.mem_filter, Tab.find_put]
  by_cases hi : i = k
  · simp [hi, h]
  · simp [hi]

end Sys2Proof

namespace Sys2Proof.Machine

/-! ### Free slots -/

theorem lowFree_spec {β : Type} {t : Tab β} {n i : Nat} (h : lowFree t n = some i) : i < n ∧ Tab.find t i = none := by
  unfold lowFree at h
  exact ⟨List.mem_range.1 (List.mem_of_find?_eq_some h), by simpa using List.find?_some h⟩

theorem exists_lowFree {β : Type} {t : Tab β} {n : Nat} (room : (Tab.taken t n).card < n) : ∃ i, lowFree t n = some i := by
  cases h : lowFree t n with
  | some i => exact ⟨i, rfl⟩
  | none =>
    have full : Tab.taken t n = Finset.range n := by
      refine Finset.filter_true_of_mem fun i hi => ?_
      have := List.find?_eq_none.1 h i (List.mem_range.2 (Finset.mem_range.1 hi))
      simpa [Option.isSome_iff_ne_none] using this
    rw [full, Finset.card_range] at room
    exact absurd room (lt_irrefl n)

theorem exists_lowFree_of_length {β : Type} {t : Tab β} {n : Nat} (room : t.length < n) : ∃ i, lowFree t n = some i :=
  exists_lowFree ((Tab.card_taken_le t n).trans_lt room)

theorem lowFree_put_of_find {β : Type} {t : Tab β} {k : Nat} {x : β} (h : Tab.find t k = some x) (n : Nat) (v : β) :
    lowFree (Tab.put t k v) n = lowFree t n := by
  unfold lowFree
  congr 1
  funext i
  rw [Tab.find_put]
  by_cases hi : i = k
  · simp [hi, h]
  · simp [hi]

/-! ### Division (R388) -/

/-- With room for every option, each gets a slot of its own and no split is disturbed. -/
theorem placeOpts_room (tsp : Option Nat) (os : List Opt) {t : Tab Split} (room : (Tab.taken t 4).card + os.length ≤ 4) :
    ∃ t', placeOpts tsp os t = (t', 0) ∧ (∀ o ∈ os, ∃ k, Tab.find t' k = some (newSplit o.pc o.lanes tsp o.clause))
      ∧ ∀ k x, Tab.find t k = some x → Tab.find t' k = some x := by
  induction os generalizing t with
  | nil => exact ⟨t, rfl, nofun, fun _ _ h => h⟩
  | cons o os ih =>
    rw [List.length_cons] at room
    obtain ⟨i, hi⟩ := exists_lowFree (t := t) (n := 4) (by omega)
    have grown := (Finset.card_le_card (Tab.taken_put_subset t 4 i (newSplit o.pc o.lanes tsp o.clause))).trans (Finset.card_insert_le ..)
    obtain ⟨t', placed, each, kept⟩ := ih (t := Tab.put t i (newSplit o.pc o.lanes tsp o.clause)) (by omega)
    refine ⟨t', by simp only [placeOpts, hi, placed], ?_, fun k x hx => kept k x ?_⟩
    · intro o' ho'
      rcases List.mem_cons.1 ho' with rfl | ho'
      · exact ⟨i, kept i _ (Tab.find_put_same ..)⟩
      · exact each o' ho'
    · rw [Tab.find_put_ne _ _ fun e => by rw [e, (lowFree_spec hi).2] at hx; cases hx]
      exact hx

theorem divide_alone {g : Group} {si : Nat} {sp : Split} {opts : List Opt} {o : Opt} (hsp : Tab.find g.splits si = some sp)
    (lanes : opts.filter (fun o => o.lanes != 0) = [o]) (dfr : Opt) (born : Nat) :
    divide g si opts dfr none born = some { g with splits := Tab.put g.splits si { sp with pc := o.pc, clause := o.clause } } := by
  simp only [divide, hsp, lanes]
  rfl

/-- Division among options that all find a slot: every option's lanes are in a split that stands where it goes, and no other split changes. -/
theorem divide_places {g : Group} {si : Nat} {sp : Split} {opts : List Opt} (hsp : Tab.find g.splits si = some sp)
    (within : ∀ o ∈ opts, ∀ l, o.lanes.getLsbD l = true → sp.mask.getLsbD l = true) (some' : opts.filter (fun o => o.lanes != 0) ≠ [])
    (room : g.splits.length + (opts.filter fun o => o.lanes != 0).length ≤ 5) (depth : g.tokens.length ≤ g.divdepth) (dfr : Opt) (born : Nat) :
    ∃ t, divide g si opts dfr none born = some { g with splits := t }
      ∧ (∀ o ∈ opts, o.lanes ≠ 0 → ∃ k x, Tab.find t k = some x ∧ (∀ l, o.lanes.getLsbD l = true → x.mask.getLsbD l = true) ∧ x.pc = o.pc)
      ∧ ∀ k x, k ≠ si → Tab.find g.splits k = some x → Tab.find t k = some x := by
  have mem {o : Opt} (ho : o ∈ opts) (lanes : o.lanes ≠ 0) : o ∈ opts.filter fun o => o.lanes != 0 :=
    List.mem_filter.2 ⟨ho, by simpa using lanes⟩
  cases hf : opts.filter (fun o => o.lanes != 0) with
  | nil => exact absurd hf some'
  | cons o os =>
    cases os with
    | nil =>
      refine ⟨_, divide_alone hsp hf dfr born, fun o' ho' lanes => ⟨si, _, Tab.find_put_same .., within o' ho', ?_⟩, fun k x hk hx => ?_⟩
      · have := mem ho' lanes
        rw [hf, List.mem_singleton] at this
        rw [this]
      · rw [Tab.find_put_ne _ _ hk]; exact hx
    | cons o2 os =>
      rw [hf] at room
      simp only [List.length_cons] at room
      have used := Tab.card_taken_le g.splits 4
      obtain ⟨t, placed, each, kept⟩ := placeOpts_room sp.tsp (o2 :: os)
        (t := Tab.put g.splits si { sp with mask := o.lanes, pc := o.pc, clause := o.clause })
        (by rw [Tab.taken_put_of_find hsp, List.length_cons]; omega)
      have fits : os.length + 1 - (4 - g.splits.length) = 0 := by omega
      refine ⟨t, ?_, fun o' ho' lanes => ?_, fun k x hk hx => kept k x ?_⟩
      · simp only [divide, hsp, hf]
        simp [fits, Nat.not_lt.2 depth, placed]
      · have := mem ho' lanes
        rw [hf] at this
        rcases List.mem_cons.1 this with rfl | this
        · exact ⟨si, _, kept si _ (Tab.find_put_same ..), fun _ hl => hl, rfl⟩
        · obtain ⟨k, hk⟩ := each o' this
          exact ⟨k, _, hk, fun _ hl => hl, rfl⟩
      · rw [Tab.find_put_ne _ _ hk]; exact hx

/-! ### Ends of a control word -/

/-- The group of a control word once it has retired. -/
def Group.retired (g : Group) (time : Nat) (c : WCtx) : Group :=
  { g with susp := none, want := none, lastIssue := time, splits := g.splits.map fun e => (e.1, woken c e.1 e.2) }

theorem find_retire (s : State) (c : WCtx) :
    Tab.find (retire s c).groups c.key = (Tab.find s.groups c.key).map fun g => g.retired s.time c := by
  simp only [retire, find_updG_same, clearXfaults]
  rfl

theorem find_retire_ne (s : State) (c : WCtx) {k : Nat} (h : k ≠ c.key) : Tab.find (retire s c).groups k = Tab.find s.groups k := by
  simp [retire, find_updG, h, clearXfaults]

/-- A word that only goes on ends as any word that completes. -/
theorem retire_advance (s : State) (c : WCtx) : retire (advance s c) c = finish s c := by
  have comm (x : Split) : woken c c.si (nextWord c x) = nextWord c (woken c c.si x) := by
    rw [woken_self, woken_self]
    obtain ⟨_, _, _, _, _, _, _, _, back⟩ := x
    rcases back with _ | ⟨⟨w, _⟩, _⟩
    · rfl
    · by_cases again : w = c.sp.pc <;> simp [nextWord, again]
  have splits (g : Group) : (Tab.modify g.splits c.si (nextWord c)).map (fun e => (e.1, woken c e.1 e.2))
      = Tab.modify (g.splits.map fun e => (e.1, woken c e.1 e.2)) c.si (nextWord c) := Tab.map_modify comm _
  simp only [retire, advance, finish, setSplit, clearXfaults, updG, Tab.modify_modify]
  refine congrArg (fun f => ({ s with groups := Tab.modify s.groups c.key f, xfaults := _, issue := none, fresh := s.fresh + 1 } : State)) (funext fun g => ?_)
  exact congrArg (fun t => ({ g with susp := none, want := none, lastIssue := s.time, splits := t } : Group)) (splits g)

theorem completes_advance {s : State} {c : WCtx} (h : Issues s c) : Completes (.next (retire (advance s c) c)) s c [] 0 (Kept s) :=
  retire_advance s c ▸ completes_kept h

/-- A word that gives its group other splits and tokens. -/
theorem redirects_put {s : State} {c : WCtx} {g g1 : Group} (hg : Tab.find s.groups c.key = some g)
    (rest : g1 = { g with splits := g1.splits, tokens := g1.tokens }) {R : Group → Group → Prop} (hR : R g (g1.retired s.time c)) :
    Redirects (.next (retire { s with groups := Tab.put s.groups c.key g1 } c)) s c R := by
  have mb : g1.mb = g.mb := by rw [rest]
  have here : Tab.find (retire { s with groups := Tab.put s.groups c.key g1 } c).groups c.key = some (g1.retired s.time c) := by
    rw [find_retire, Tab.find_put_same]; rfl
  have there {k : Nat} (hk : k ≠ c.key) : Tab.find (retire { s with groups := Tab.put s.groups c.key g1 } c).groups k = Tab.find s.groups k := by
    rw [find_retire_ne _ _ hk]; exact Tab.find_put_ne _ _ hk
  refine ⟨_, rfl, ⟨by rw [List.append_nil]; rfl, fun k hk => there hk, fun l => homeByte_groups s _ rfl (fun k => ?_) l⟩, fun g' hg' => ?_⟩
  · by_cases hk : k = c.key
    · rw [hk, here, hg]
      exact congrArg some mb
    · rw [there hk]
  · rw [hg] at hg'; cases hg'
    exact ⟨_, here, by rw [rest]; rfl, hR⟩

theorem woken_calm {c : WCtx} {k : Nat} {x : Split} (h : x.stall = false) : woken c k x = x := by
  cases x; cases h; simp [woken]

/-- The split table of a group that has retired after one split, the issuing one, was put into it. -/
theorem splitsAre_own {time : Nat} {c : WCtx} {g g1 : Group} {x : Split} (splits : g1.splits = Tab.put g.splits c.si x) :
    SplitsAre [(c.si, { x with stall := false })] g (g1.retired time c) := by
  intro k
  refine (Tab.find_mapKey g1.splits k (woken c)).trans ?_
  rw [splits, Tab.find_put]
  by_cases hk : k = c.si
  · simp [hk, Tab.find, woken_self]
  · simp [hk, Tab.find, Ne.symm hk, funext (woken_other hk)]

/-- The same with a second split beside it. -/
theorem splitsAre_pair {time : Nat} {c : WCtx} {g g1 : Group} {x y : Split} {k : Nat} (other : k ≠ c.si) (calm : y.stall = false)
    (splits : g1.splits = Tab.put (Tab.put g.splits c.si x) k y) :
    SplitsAre [(c.si, { x with stall := false }), (k, y)] g (g1.retired time c) := by
  intro j
  refine (Tab.find_mapKey g1.splits j (woken c)).trans ?_
  rw [splits, Tab.find_put, Tab.find_put]
  by_cases hk : j = k
  · simp [hk, Tab.find, Ne.symm other, woken_calm calm]
  · by_cases hj : j = c.si
    · simp [hj, Ne.symm other, Tab.find, woken_self]
    · simp [hk, hj, Tab.find, Ne.symm hk, Ne.symm hj, funext (woken_other hj)]

theorem tokensAre_nil {g g' : Group} (h : g'.tokens = g.tokens) : TokensAre [] g g' := fun k => by rw [h]; rfl

theorem tokensAre_put {g g' : Group} {e : Nat} {t : Token} (h : g'.tokens = Tab.put g.tokens e t) : TokensAre [(e, t)] g g' := by
  intro k
  rw [h, Tab.find_put]
  by_cases hk : k = e
  · simp [Tab.find, hk]
  · simp [Tab.find, hk, Ne.symm hk]

/-- What a word sees of its group's splits and tokens is what they are. -/
theorem Issues.tables {s : State} {c : WCtx} (h : Issues s c) {g : Group} (hg : Tab.find s.groups c.key = some g) :
    c.g.splits = g.splits ∧ c.g.tokens = g.tokens ∧ c.g.divdepth = g.divdepth := by
  obtain ⟨g', _, hg', e, -⟩ := h.group
  rw [hg] at hg'; cases hg'
  obtain ⟨a, b, r, hr⟩ := seen_rest s.fresh g
  rw [e, hr]
  exact ⟨rfl, rfl, rfl⟩

/-! ### Division in two (R388, R401) -/

theorem filter_taken {o f : Opt} (ho : o.lanes ≠ 0) (hf : f.lanes = 0) : [o, f].filter (fun o => o.lanes != 0) = [o] := by
  rw [List.filter_cons_of_pos (by simpa using ho), List.filter_cons_of_neg (by simpa using hf)]; rfl

theorem filter_both {o f : Opt} (ho : o.lanes ≠ 0) (hf : f.lanes ≠ 0) : [o, f].filter (fun o => o.lanes != 0) = [o, f] := by
  rw [List.filter_cons_of_pos (by simpa using ho), List.filter_cons_of_pos (by simpa using hf)]; rfl

section
variable {g : Group} {si : Nat} {sp : Split} (hsp : Tab.find g.splits si = some sp) {o f : Opt} (ho : o.lanes ≠ 0) (born : Nat)
include hsp ho

theorem divide_slot (hf : f.lanes ≠ 0) {k : Nat} (free : lowFree g.splits 4 = some k) (few : g.splits.length < 4) (depth : g.tokens.length ≤ g.divdepth) :
    divide g si [o, f] f none born = some { g with
      splits := Tab.put (Tab.put g.splits si { sp with mask := o.lanes, pc := o.pc, clause := o.clause }) k (newSplit f.pc f.lanes sp.tsp f.clause) } := by
  have fits : 1 - (4 - g.splits.length) = 0 := by omega
  simp only [divide, hsp, filter_both ho hf]
  simp [fits, Nat.not_lt.2 depth, placeOpts, lowFree_put_of_find hsp, free]

theorem divide_defer (hf : f.lanes ≠ 0) (full : lowFree g.splits 4 = none) (many : 4 ≤ g.splits.length) (depth : g.tokens.length < g.divdepth)
    {e : Nat} (free : lowFree g.tokens 16 = some e) :
    divide g si [o, f] f none born = some { g with
      splits := Tab.put g.splits si { sp with mask := o.lanes, pc := o.pc, clause := o.clause }
      tokens := Tab.put g.tokens e { kind := .defer, addr := f.pc, members := f.lanes, arrived := 0, parent := sp.tsp, clause := f.clause, born } } := by
  have deferred : 1 - (4 - g.splits.length) = 1 := by omega
  simp only [divide, hsp, filter_both ho hf]
  simp [deferred, Nat.not_lt.2 depth, placeOpts, lowFree_put_of_find hsp, full, free]
  exact fun none => absurd none hf

theorem divide_shallow (hf : f.lanes ≠ 0) (many : 4 ≤ g.splits.length) (depth : g.divdepth ≤ g.tokens.length) :
    divide g si [o, f] f none born = none := by
  have deferred : 1 - (4 - g.splits.length) = 1 := by omega
  simp only [divide, hsp, filter_both ho hf]
  simp [deferred, Nat.lt_succ_of_le depth]

theorem divide_call (hf : f.lanes = 0) (r : Nat) (depth : g.tokens.length < g.divdepth) {e : Nat} (free : lowFree g.tokens 16 = some e) :
    divide g si [o, f] f (some r) born = some { g with
      splits := Tab.put g.splits si { sp with mask := o.lanes, pc := o.pc, clause := o.clause, tsp := some e }
      tokens := Tab.put g.tokens e { kind := .call, addr := r, members := o.lanes, arrived := 0, parent := sp.tsp, clause := none, born } } := by
  simp only [divide, hsp, filter_taken ho hf]
  simp [Nat.not_lt.2 depth, placeOpts, free]

theorem divide_call_shallow (r : Nat) (depth : g.divdepth ≤ g.tokens.length) : divide g si [o, f] f (some r) born = none := by
  by_cases hf : f.lanes = 0
  · simp only [divide, hsp, filter_taken ho hf]
    simp [Nat.lt_succ_of_le depth]
  · simp only [divide, hsp, filter_both ho hf]
    simp
    omega

end

/-! ### The words -/

section
variable {s s' : State} {c : WCtx} (h : Issues s c) {p : BitVec 3} {i : BitVec 1} {body : WCtx → State → Try State}
include h

theorem runSelected_ok (hb : body { c with eff := selected c p i } s = .ok s') : runSelected s p i body = .next (retire s' c) := by
  rw [runSelected, runCtl_eq h, hb]; rfl

theorem runSelected_trap {t : Trap} (hb : body { c with eff := selected c p i } s = .error (.trap t)) :
    runSelected s p i body = .next (takeFault s c.key c.si t c.sp.pc false) := by
  rw [runSelected, runCtl_eq h, hb]; rfl

end

theorem branch_ok {s : State} {c : WCtx} {g g' : Group} (hg : Tab.find s.groups c.key = some g) {opts : List Opt} {dfr : Opt} {push : Option Nat}
    (hd : divide g c.si opts dfr push s.fresh = some g') : branch s c opts dfr push = .ok { s with groups := Tab.put s.groups c.key g' } := by
  simp only [branch, hg, hd]

theorem branch_shallow {s : State} {c : WCtx} {g : Group} (hg : Tab.find s.groups c.key = some g) {opts : List Opt} {dfr : Opt} {push : Option Nat}
    (hd : divide g c.si opts dfr push s.fresh = none) : branch s c opts dfr push = .error (.trap ⟨0x0A, 0, 0, c.low⟩) := by
  simp only [branch, hg, hd]

theorem inTextOf_inside {s : State} {c : WCtx} {lane : Nat} {t : Int} (h : 0 ≤ t ∧ t < textWords s c.g) : inTextOf s c lane t = .ok t.toNat :=
  if_neg (by omega)

theorem inTextOf_outside {s : State} {c : WCtx} {lane : Nat} {t : Int} (h : ¬ (0 ≤ t ∧ t < textWords s c.g)) :
    inTextOf s c lane t = .error (.trap ⟨0x08, 1, 0, lane⟩) := if_pos (by omega)

section
variable {s : State} {c : WCtx} (h : Issues s c) (p : BitVec 3) (i : BitVec 1) (o : BitVec 21)
include h

theorem execNop_completes : Completes (execNop p i o s) s c [] 0 (Kept s) := by
  rw [execNop, runCtl_eq h]
  exact completes_advance h

/-- A control word that selects no lane only goes on (R45). -/
theorem runSelected_idle (body : WCtx → State → Try State) (hb : body { c with eff := selected c p i } s = .ok (advance s c)) :
    Completes (runSelected s p i body) s c [] 0 (Kept s) := by
  rw [runSelected_ok h hb]
  exact completes_advance h

end

theorem bind_inText_inside {s : State} {c : WCtx} {e : BitVec 64} {n : Int} {α : Type} {f : Nat → Try α}
    (h : 0 ≤ (c.sp.pc : Int) + n ∧ (c.sp.pc : Int) + n < textWords s c.g) :
    (inText s { c with eff := e } (wordAway { c with eff := e } n) >>= f) = f ((c.sp.pc : Int) + n).toNat := by
  rw [inText, inTextOf_inside (by exact h)]; rfl

theorem bind_inText_outside {s : State} {c : WCtx} {e : BitVec 64} {n : Int} {α : Type} {f : Nat → Try α}
    (h : ¬ (0 ≤ (c.sp.pc : Int) + n ∧ (c.sp.pc : Int) + n < textWords s c.g)) :
    (inText s { c with eff := e } (wordAway { c with eff := e } n) >>= f) = .error (.trap ⟨0x08, 1, 0, (lanesOf c.g.width e).headD 0⟩) := by
  rw [inText, inTextOf_outside (by exact h)]; rfl

section
variable {s : State} {c : WCtx} (h : Issues s c) {p : BitVec 3} {i : BitVec 1} {o : BitVec 21} (hT : selected c p i ≠ 0)
include h hT

theorem execBra_outside (out : ¬ (0 ≤ (c.sp.pc : Int) + o.toInt ∧ (c.sp.pc : Int) + o.toInt < textWords s c.g)) :
    execBra p i o s = .next (takeFault s c.key c.si ⟨0x08, 1, 0, (lanesOf c.g.width (selected c p i)).headD 0⟩ c.sp.pc false) :=
  runSelected_trap h <| (if_neg hT).trans <| bind_inText_outside out

theorem execCall_outside (out : ¬ (0 ≤ (c.sp.pc : Int) + o.toInt ∧ (c.sp.pc : Int) + o.toInt < textWords s c.g)) :
    execCall p i o s = .next (takeFault s c.key c.si ⟨0x08, 1, 0, (lanesOf c.g.width (selected c p i)).headD 0⟩ c.sp.pc false) :=
  runSelected_trap h <| (if_neg hT).trans <| bind_inText_outside out

variable {g : Group} (hg : Tab.find s.groups c.key = some g)
  (inside : 0 ≤ (c.sp.pc : Int) + o.toInt ∧ (c.sp.pc : Int) + o.toInt < textWords s c.g)
include hg inside

/-- The two options of BRA and CALL (R387): the selected lanes at the target, the others at the next word. -/
theorem execBra_divides {g' : Group} (hd : divide g c.si [⟨selected c p i, ((c.sp.pc : Int) + o.toInt).toNat, none⟩,
      goesOn c (c.sp.mask &&& ~~~selected c p i)] (goesOn c (c.sp.mask &&& ~~~selected c p i)) none s.fresh = some g') :
    execBra p i o s = .next (retire { s with groups := Tab.put s.groups c.key g' } c) :=
  runSelected_ok h <| (if_neg hT).trans <| (bind_inText_inside inside).trans <| branch_ok (c := { c with eff := selected c p i }) hg hd

theorem execBra_shallow (hd : divide g c.si [⟨selected c p i, ((c.sp.pc : Int) + o.toInt).toNat, none⟩,
      goesOn c (c.sp.mask &&& ~~~selected c p i)] (goesOn c (c.sp.mask &&& ~~~selected c p i)) none s.fresh = none) :
    execBra p i o s = .next (takeFault s c.key c.si ⟨0x0A, 0, 0, (lanesOf c.g.width (selected c p i)).headD 0⟩ c.sp.pc false) :=
  runSelected_trap h <| (if_neg hT).trans <| (bind_inText_inside inside).trans <| branch_shallow (c := { c with eff := selected c p i }) hg hd

theorem execCall_divides {g' : Group} (hd : divide g c.si [⟨selected c p i, ((c.sp.pc : Int) + o.toInt).toNat, none⟩,
      goesOn c (c.sp.mask &&& ~~~selected c p i)] (goesOn c (c.sp.mask &&& ~~~selected c p i)) (some (returnPoint c)) s.fresh = some g') :
    execCall p i o s = .next (retire { s with groups := Tab.put s.groups c.key g' } c) :=
  runSelected_ok h <| (if_neg hT).trans <| (bind_inText_inside inside).trans <| branch_ok (c := { c with eff := selected c p i }) hg hd

theorem execCall_shallow (hd : divide g c.si [⟨selected c p i, ((c.sp.pc : Int) + o.toInt).toNat, none⟩,
      goesOn c (c.sp.mask &&& ~~~selected c p i)] (goesOn c (c.sp.mask &&& ~~~selected c p i)) (some (returnPoint c)) s.fresh = none) :
    execCall p i o s = .next (takeFault s c.key c.si ⟨0x0A, 0, 0, (lanesOf c.g.width (selected c p i)).headD 0⟩ c.sp.pc false) :=
  runSelected_trap h <| (if_neg hT).trans <| (bind_inText_inside inside).trans <| branch_shallow (c := { c with eff := selected c p i }) hg hd

end

/-! ### The indexed branch (R399) -/

theorem mem_insertNat {x n : Nat} {l : List Nat} : x ∈ insertNat n l ↔ x = n ∨ x ∈ l := by
  induction l with
  | nil => simp [insertNat]
  | cons m l ih =>
    unfold insertNat
    split
    · simp
    · split
      · rename_i e; simp [e]
      · simp [ih, or_left_comm]

theorem pairwise_insertNat {n : Nat} {l : List Nat} (h : l.Pairwise (· < ·)) : (insertNat n l).Pairwise (· < ·) := by
  induction l with
  | nil => simp [insertNat]
  | cons m l ih =>
    obtain ⟨hm, hl⟩ := List.pairwise_cons.1 h
    unfold insertNat
    split
    · rename_i lt
      refine List.pairwise_cons.2 ⟨fun x hx => ?_, h⟩
      rcases List.mem_cons.1 hx with rfl | hx
      · exact lt
      · exact lt.trans (hm x hx)
    · split
      · exact h
      · refine List.pairwise_cons.2 ⟨fun x hx => ?_, ih hl⟩
        rcases mem_insertNat.1 hx with rfl | hx
        · omega
        · exact hm x hx

theorem mem_foldr_insertNat {x : Nat} {l : List Nat} : x ∈ l.foldr insertNat [] ↔ x ∈ l := by
  induction l with
  | nil => simp
  | cons n l ih => rw [List.foldr_cons, mem_insertNat, ih, List.mem_cons]

theorem pairwise_foldr_insertNat (l : List Nat) : (l.foldr insertNat []).Pairwise (· < ·) := by
  induction l with
  | nil => exact .nil
  | cons n l ih => exact pairwise_insertNat ih

/-- The numbers put in order are as many as the distinct ones. -/
theorem length_foldr_insertNat_le {α : Type} [DecidableEq α] (f : α → Nat) (l : List α) : ((l.map f).foldr insertNat []).length ≤ l.dedup.length := by
  have nodup : ((l.map f).foldr insertNat []).Nodup := (pairwise_foldr_insertNat _).imp fun h => h.ne
  calc ((l.map f).foldr insertNat []).length = ((l.map f).foldr insertNat []).toFinset.card := (List.toFinset_card_of_nodup nodup).symm
    _ = (l.toFinset.image f).card := by congr 1; ext x; simp [mem_foldr_insertNat]
    _ ≤ l.toFinset.card := Finset.card_image_le
    _ = l.dedup.length := List.card_toFinset l

theorem mapM_inTextOf {s : State} {c : WCtx} {f : Nat → Int} {ls : List Nat} (h : ∀ l ∈ ls, 0 ≤ f l ∧ f l < textWords s c.g) :
    (ls.mapM fun l => inTextOf s c l (f l)) = .ok (ls.map fun l => (f l).toNat) := by
  induction ls with
  | nil => rfl
  | cons l ls ih =>
    rw [List.mapM_cons, inTextOf_inside (h l List.mem_cons_self), ih fun l' hl' => h l' (List.mem_cons_of_mem _ hl')]
    rfl

/-- The targets of a BRX (R399): one option for each, with the lanes that go there. -/
theorem mem_brxOpts {c : WCtx} {off : Nat → Int} {o : Opt} : o ∈ brxOpts c off ↔
    ∃ l ∈ c.lanes, o = ⟨laneMask c fun k => (wordAway c (off k)).toNat == (wordAway c (off l)).toNat, (wordAway c (off l)).toNat, none⟩ := by
  simp only [brxOpts, List.mem_map, mem_foldr_insertNat]
  constructor
  · rintro ⟨_, ⟨l, hl, rfl⟩, rfl⟩
    exact ⟨l, hl, rfl⟩
  · rintro ⟨l, hl, rfl⟩
    exact ⟨_, ⟨l, hl, rfl⟩, rfl⟩

/-- A BRX whose lanes' targets are words of .text and find a slot each. -/
theorem brx_divides {c : WCtx} {g : Group} {sp : Split} {off : Nat → Int} (hsp : Tab.find g.splits c.si = some sp)
    (sub : ∀ l ∈ c.lanes, sp.mask.getLsbD l = true) (some' : c.lanes ≠ []) {f : Opt} (rest : ∀ l, f.lanes.getLsbD l = true → sp.mask.getLsbD l = true)
    (room : g.splits.length + ((c.lanes.map fun l => wordAway c (off l)).dedup.length + if f.lanes = 0 then 0 else 1) ≤ 5)
    (depth : g.tokens.length ≤ g.divdepth) (dfr : Opt) (born : Nat) :
    ∃ t, divide g c.si (brxOpts c off ++ [f]) dfr none born = some { g with splits := t }
      ∧ (∀ l ∈ c.lanes, ∃ k x, Tab.find t k = some x ∧ x.mask.getLsbD l = true ∧ x.pc = (wordAway c (off l)).toNat)
      ∧ (∀ l, f.lanes.getLsbD l = true → ∃ k x, Tab.find t k = some x ∧ x.mask.getLsbD l = true ∧ x.pc = f.pc)
      ∧ ∀ k x, k ≠ c.si → Tab.find g.splits k = some x → Tab.find t k = some x := by
  have nonzero {m : BitVec 64} {l : Nat} (h : m.getLsbD l = true) : m ≠ 0 := fun e => by simp [e] at h
  have here (l : Nat) (hl : l ∈ c.lanes) : ∃ o ∈ brxOpts c off ++ [f], o.lanes.getLsbD l = true ∧ o.pc = (wordAway c (off l)).toNat :=
    ⟨_, List.mem_append_left _ (mem_brxOpts.2 ⟨l, hl, rfl⟩), by rw [getLsbD_laneMask]; simp [hl], rfl⟩
  have within (o : Opt) (ho : o ∈ brxOpts c off ++ [f]) (l : Nat) (hl : o.lanes.getLsbD l = true) : sp.mask.getLsbD l = true := by
    rcases List.mem_append.1 ho with ho | ho
    · obtain ⟨_, _, rfl⟩ := mem_brxOpts.1 ho
      rw [getLsbD_laneMask, Bool.and_eq_true, decide_eq_true_iff] at hl
      exact sub l hl.1
    · exact rest l (List.mem_singleton.1 ho ▸ hl)
  have taken : (brxOpts c off ++ [f]).filter (fun o => o.lanes != 0) ≠ [] := by
    obtain ⟨l, hl⟩ := List.exists_mem_of_ne_nil _ some'
    obtain ⟨o, ho, lane, -⟩ := here l hl
    exact List.ne_nil_of_mem (List.mem_filter.2 ⟨ho, by simpa using nonzero lane⟩)
  have count : ((brxOpts c off ++ [f]).filter fun o => o.lanes != 0).length
      ≤ (c.lanes.map fun l => wordAway c (off l)).dedup.length + if f.lanes = 0 then 0 else 1 := by
    rw [List.filter_append, List.length_append]
    refine Nat.add_le_add ((List.length_filter_le ..).trans ?_) ?_
    · have := length_foldr_insertNat_le Int.toNat (c.lanes.map fun l => wordAway c (off l))
      simpa [brxOpts, List.map_map, Function.comp_def] using this
    · by_cases hf : f.lanes = 0
      · rw [if_pos hf, List.filter_cons_of_neg (by simpa using hf)]; exact le_rfl
      · rw [if_neg hf]; exact List.length_filter_le _ [f]
  obtain ⟨t, hd, each, kept⟩ := divide_places hsp within taken (by omega) depth dfr born
  refine ⟨t, hd, fun l hl => ?_, fun l hl => ?_, kept⟩
  · obtain ⟨o, ho, lane, pc⟩ := here l hl
    obtain ⟨k, x, hx, has, hpc⟩ := each o ho (nonzero lane)
    exact ⟨k, x, hx, has l lane, hpc.trans pc⟩
  · obtain ⟨k, x, hx, has, hpc⟩ := each f (by simp) (nonzero hl)
    exact ⟨k, x, hx, has l hl, hpc⟩

theorem find_retired {g : Group} {time : Nat} {c : WCtx} {k : Nat} {x : Split} (h : Tab.find g.splits k = some x) :
    Tab.find (g.retired time c).splits k = some (woken c k x) :=
  (Tab.find_mapKey g.splits k (woken c)).trans (by rw [h]; rfl)

theorem Try.bind_of_ok {α β : Type} {x : Try α} {a : α} (h : x = .ok a) {f : α → Try β} : (x >>= f) = f a := by rw [h]; rfl

section
variable {s : State} {c : WCtx} (h : Issues s c) {p : BitVec 3} {i : BitVec 1} {r : BitVec 7}
include h

theorem execBrx_divides {g g' : Group} (hg : Tab.find s.groups c.key = some g) (hT : selected c p i ≠ 0) {off : Nat → Int}
    (hoff : off = fun l => toS 32 ((⟨1, false, r.toNat, 0, .free⟩ : Opnd).val c.g l)) (hr : Readable c [⟨1, false, r.toNat, 0, .free⟩])
    (inside : ∀ l ∈ lanesOf c.g.width (selected c p i), 0 ≤ wordAway c (off l) ∧ wordAway c (off l) < textWords s c.g)
    (hd : divide g c.si (brxOpts { c with eff := selected c p i } off ++ [goesOn c (c.sp.mask &&& ~~~selected c p i)])
      ⟨0, c.sp.pc, c.sp.clause⟩ none s.fresh = some g') :
    execBrx p i r s = .next (retire { s with groups := Tab.put s.groups c.key g' } c) := by
  subst hoff
  refine runSelected_ok h ((if_neg hT).trans ?_)
  have checked : vecCheck { c with eff := selected c p i } true [⟨1, false, r.toNat, 0, .free⟩] = .ok () := vecCheck_ok rfl hr
  have targets := mapM_inTextOf (c := { c with eff := selected c p i }) inside
  exact (Try.bind_of_ok checked).trans ((Try.bind_of_ok targets).trans (branch_ok (c := { c with eff := selected c p i }) hg hd))

end

/-- Settles O21: BRA and CALL divide the split in two at most, BRX among the distinct targets and the next word. -/
theorem branchWords : Obligations.BranchWords := by
  refine ⟨fun s c p i o h => ?_, fun s c p i r h _ => ?_⟩
  · intro T F at' inside taken rest trap keeps
    obtain ⟨g, sp, hg, hcg, hsp, hcsp, -, -⟩ := h.group
    obtain ⟨hs, ht, hd⟩ := h.tables hg
    obtain ⟨key, si, gs, csp, eff⟩ := c
    obtain rfl : csp = { sp with stall := false } := hcsp
    have hs : gs.splits = g.splits := hs
    have ht : gs.tokens = g.tokens := ht
    have hd : gs.divdepth = g.divdepth := hd
    simp only [keeps, trap, exec_nop, exec_bra, exec_call, hs, ht, hd]
    refine ⟨execNop_completes h p i o, fun none => ⟨?_, ?_⟩, fun hT out => ⟨execBra_outside h hT out, execCall_outside h hT out⟩,
      fun hT inside => ⟨fun hF => ?_, fun hF few depth => ?_, fun hF many full => ⟨fun depth bound => ?_, fun depth => ?_⟩,
        fun hF depth bound => ?_, fun depth => ?_⟩⟩
    · exact runSelected_idle h p i _ (if_pos none)
    · exact runSelected_idle h p i _ (if_pos none)
    · rw [execBra_divides h hT hg inside (divide_alone hsp (filter_taken hT hF) _ _)]
      refine redirects_put hg rfl ⟨splitsAre_own (x := { sp with pc := at'.toNat, clause := none }) rfl, tokensAre_nil rfl⟩
    · obtain ⟨k, free⟩ := exists_lowFree_of_length few
      have other : k ≠ si := fun e => by have := (lowFree_spec free).2; rw [e, hsp] at this; cases this
      rw [execBra_divides h hT hg inside (divide_slot hsp hT _ hF free few depth)]
      exact ⟨k, (lowFree_spec free).1, free, redirects_put hg rfl
        ⟨splitsAre_pair (x := { sp with mask := T, pc := at'.toNat, clause := none }) other rfl rfl, tokensAre_nil rfl⟩⟩
    · obtain ⟨e, free⟩ := exists_lowFree_of_length (depth.trans_le bound)
      rw [execBra_divides h hT hg inside (divide_defer hsp hT _ hF full many depth free)]
      exact ⟨e, (lowFree_spec free).1, (lowFree_spec free).2, redirects_put hg rfl
        ⟨splitsAre_own (x := { sp with mask := T, pc := at'.toNat, clause := none }) rfl, tokensAre_put rfl⟩⟩
    · exact execBra_shallow h hT hg inside (divide_shallow hsp hT _ hF many depth)
    · obtain ⟨e, free⟩ := exists_lowFree_of_length (depth.trans_le bound)
      rw [execCall_divides h hT hg inside (divide_call hsp hT _ hF _ depth free)]
      exact ⟨e, (lowFree_spec free).1, (lowFree_spec free).2, redirects_put hg rfl
        ⟨splitsAre_own (x := { sp with mask := T, pc := at'.toNat, clause := none, tsp := some e }) rfl, tokensAre_put rfl⟩⟩
    · exact execCall_shallow h hT hg inside (divide_call_shallow hsp hT _ _ depth)
  · intro T F ls off targets
    obtain ⟨g, sp, hg, hcg, hsp, hcsp, -, -⟩ := h.group
    obtain ⟨hs, ht, hd⟩ := h.tables hg
    rw [exec_brx]
    refine ⟨fun none => runSelected_idle h p i _ (if_pos none), fun some' readable inside room depth => ?_⟩
    rw [hs] at room
    rw [ht, hd] at depth
    have mask : sp.mask = c.sp.mask := by rw [hcsp]
    have sub (l : Nat) (hl : l ∈ ls) : T.getLsbD l = true ∧ sp.mask.getLsbD l = true := by
      have lane : (c.sp.mask &&& c.g.predX p.toNat (i == 1)).getLsbD l = true := (mem_lanesOf.1 hl).2
      exact ⟨lane, by rw [BitVec.getLsbD_and, Bool.and_eq_true] at lane; rw [mask]; exact lane.1⟩
    have hT : T ≠ 0 := fun none => by
      obtain ⟨l, hl⟩ := List.exists_mem_of_ne_nil _ some'
      have := (sub l hl).1
      rw [none] at this
      simp at this
    obtain ⟨t, divides, taken, rest, kept⟩ := brx_divides (c := { c with eff := T }) (f := goesOn c F) hsp
      (fun l hl => (sub l hl).2) some' (fun l hl => by simp only [goesOn, F, BitVec.getLsbD_and, Bool.and_eq_true] at hl; rw [mask]; exact hl.1)
      room depth ⟨0, c.sp.pc, c.sp.clause⟩ s.fresh
    rw [execBrx_divides h hg hT rfl readable inside divides]
    refine redirects_put hg rfl ⟨fun l hl => ?_, fun l hl => ?_, fun k x hk hx => ?_, tokensAre_nil rfl⟩
    · obtain ⟨k, x, hx, lane, pc⟩ := taken l hl
      refine ⟨k, _, find_retired hx, lane, ?_⟩
      have : (x.pc : Int) = off l := by rw [pc]; exact Int.toNat_of_nonneg (inside l hl).1
      exact this
    · obtain ⟨k, x, hx, lane, pc⟩ := rest l hl
      exact ⟨k, _, find_retired hx, lane, pc⟩
    · rw [find_retired (kept k x hk hx), woken_other hk]

end Sys2Proof.Machine
end

section
/-! Taking a fault (R430, R435) also delivers requests: the read of a trap entry's word that no cache holds goes to its slice, and the
earlier requests of the cluster's station to that slice come before it (R108), with their answers to other groups. -/
namespace Sys2Proof.Machine

/-- A second group of the core, which waits for the value of its atomic. -/
def awaiting : Group := { State.probeGroup with slot := 1, islot := 1, pending := [blankPending 7 0] }

/-- That atomic, on its way to the slice that holds the trap entry. -/
def waitingAtom : SReq :=
  { id := 9, key := 4, core := 0, ctx := 1, dev := 0, src := coreSource State.reset 0, seq := 1, lane := 0,
    kind := .atom { loc := ⟨.host, 65600⟩, z := 4, fop := false, op := 0, ty := tU32, x := 0, y := 0, sat := false, rnd := 0 },
    ret := some (7, [0]), here := false, waiting := false }

/-- A machine with one group, whose word 1 is a trap handler's header. -/
def handled : State := State.reset.withFetchWord 32 (5 * 2 ^ 28)

/-- That group with a handler that takes class 0x08, its entry's word in no cache, and the neighbour. -/
def crowded : State :=
  { handled with
    ctxs := [(1, { State.probeCtx with trapEntry := 65540, trapMask := 0x100 })]
    icache := []
    groups := Tab.put handled.groups 4 awaiting
    sreqs := [waitingAtom] }

/-- Whether a group can fetch a handler's header at a word offset. -/
def fetchesHandler (s : State) (key : Nat) (g : Group) (off : Nat) : Bool :=
  match fetchWord s key g off with
  | .ok (_, w) => headerKind w == 5
  | .error _ => false

theorem exists_of_fetchesHandler {s : State} {key off : Nat} {g : Group} (h : fetchesHandler s key g off = true) :
    ∃ s2 w, fetchWord s key g off = .ok (s2, w) ∧ headerKind w = 5 := by
  unfold fetchesHandler at h
  split at h
  · rename_i s2 w hw
    exact ⟨s2, w, hw, by simpa using h⟩
  · cases h

/-- Whether a group has a result in flight that is ready. -/
def hasReady (s : State) (key : Nat) : Bool := (Tab.find s.groups key).any fun g => g.pending.any (·.ready)

/-- The neighbour's result becomes ready while the group takes its fault. -/
theorem takeFault_crowded :
    hasReady crowded 4 = false ∧ hasReady (takeFault crowded 3 0 ⟨8, 0, 0, 0⟩ 1 false) 4 = true := by decide +kernel

/-- Refutes O54: the third clause says that no other group changes, but the fetch of the trap entry's word delivers the neighbour's
atomic, whose value becomes ready. -/
theorem not_takingAFault : ¬ Obligations.TakingAFault := by
  intro h
  have resident : Tab.find crowded.groups 3 = some State.probeGroup := by decide +kernel
  have takes : handlerTakes crowded State.probeGroup 8 = true ∧ trapOffset crowded State.probeGroup = some 1 := by decide +kernel
  obtain ⟨s2, w, hw, header⟩ := exists_of_fetchesHandler (s := clearXfaults { crowded with issue := none } State.probeGroup.core 3)
    (key := 3) (g := State.probeGroup) (off := 1) (by decide +kernel)
  obtain ⟨-, -, handler⟩ := h crowded 3 0 ⟨8, 0, 0, 0⟩ 1 false State.probeGroup resident (by decide)
  obtain ⟨-, others, -⟩ := handler 1 s2 w _ takes.1 takes.2 hw header rfl
  have same : hasReady (takeFault crowded 3 0 ⟨8, 0, 0, 0⟩ 1 false) 4 = hasReady crowded 4 := by
    rw [hasReady, hasReady, others 4 (by decide)]
  rw [takeFault_crowded.1, takeFault_crowded.2] at same
  cases same

end Sys2Proof.Machine
end

section
/-! `frag` is checked whatever its mask (R66, R364), so an empty mask does not always let it complete. -/
namespace Sys2Proof.Machine

/-- A surface of 16 bytes a sample. -/
def wideSurf : Surf :=
  { spill := 0, bmap := 0, xdim := 4, ydim := 4, layers := 1, format := 0x0A, gran := 8, samples := 1, gbase := 0, ropEntry := 0,
    ropLen := 0, pinned := false, ctx := 1, gen := 0, clear := [], res := 0 }

/-- A draw whose one target it is. -/
def wideDraw : Draw :=
  { id := 9, did := 0, ctx := 1, queue := none, desc := [], descAddr := 0, targets := [(0, none)], vimg := State.probeLaunch.img,
    fimg := State.probeLaunch.img, cloc := none, gkey := 0, team := 0, pc := 0, vlaunch := 20, flaunch := 1, vdone := [],
    setup0 := 0, setup1 := 0, seq0 := 0, seq1 := 0, ndisp := 0, fcount := 0, accepted := true, started := false }

/-- A fragment group of that draw about to issue a word, its guard p0 clear in every lane. -/
def masked : State :=
  { handled with
    groups := Tab.put handled.groups 3 { State.probeGroup with kind := .fragment, gm := 0xB0 }
    surfs := [(0, wideSurf)]
    raster := { handled.raster with draws := [wideDraw] } }

/-- Whether an instruction leaves group 3 parked with a fault. -/
def leavesStanding (o : Out) : Bool :=
  match o with
  | .next t => (Tab.find t.groups 3).any fun g => g.park == .standing
  | _ => false

/-- Four rows from v108 pass v111: the word traps although no lane is active. -/
theorem frag_masked : leavesStanding (exec (.frag 108 0 0) masked) = true := by decide +kernel

/-- A word that completes parks nothing. -/
theorem Completes.not_standing {o : Out} {s : State} {c : WCtx} {ag : List Instr} {ids : Nat} {g : Group}
    (h : Completes o s c ag ids (Kept s)) (key : c.key = 3) (hg : Tab.find s.groups 3 = some g) (runs : g.park = .none) :
    leavesStanding o = false := by
  obtain ⟨t, rfl, -, groups⟩ := h
  obtain ⟨g', hg', -, kept⟩ := groups g (key ▸ hg)
  rw [key] at hg'
  have park : g'.park = g.park := by rw [kept]
  simp [leavesStanding, hg', park, runs]

/-- Refutes O53: `frag` with an empty mask traps when its colour's rows pass v111. -/
theorem not_emptyMaskAndOperandTraps : ¬ Obligations.EmptyMaskAndOperandTraps := by
  intro h
  have issues : (issueCtx masked).any (fun c => c.eff == 0 && c.key == 3) = true := by decide +kernel
  obtain ⟨c, hc, idle⟩ := (Option.any_eq_true _ _).1 issues
  rw [Bool.and_eq_true, beq_iff_eq, beq_iff_eq] at idle
  obtain ⟨eff, key⟩ := idle
  have completes := h.1 masked c (.frag 108 0 0) _ hc eff rfl trivial
  have := completes.not_standing key rfl rfl
  rw [frag_masked] at this
  cases this

end Sys2Proof.Machine
end

section
/-! The canonical form of memory (log 3) under every operation of the machine: the rules for results of each shape. -/
namespace Sys2Proof.Machine

/-- The memories of a state are in canonical form. -/
abbrev MemOk (s : State) : Prop := s.memWf = true

/-- Every value that a check lets through satisfies `P`. -/
def Yields {ε α : Type} (P : α → Prop) (x : Except ε α) : Prop := ∀ a, x = .ok a → P a

/-- Every value that is found satisfies `P`. -/
def Finds {α : Type} (P : α → Prop) (x : Option α) : Prop := ∀ a, x = some a → P a

/-- The state that an instruction answers, if it answers one, has its memories in canonical form. -/
def OutOk (o : Out) : Prop := ∀ t, o = .next t → t.memWf = true

theorem OutOk.next {t : State} (h : t.memWf = true) : OutOk (.next t) := by rintro _ ⟨⟩; exact h
theorem OutOk.fault {f : Fault} : OutOk (.fault f) := nofun

/-- What a choice answers keeps the form: a state to go on from, or a word and the state to run it in. -/
def PickOk (x : State ⊕ (Instr × State)) : Prop := match x with
  | .inl t => t.memWf = true
  | .inr p => p.2.memWf = true

section
variable {ε α β : Type} {P : α → Prop} {Q : β → Prop}

theorem Yields.ok {a : α} (h : P a) : Yields P (.ok a : Except ε α) := by rintro _ ⟨⟩; exact h
theorem Yields.error {e : ε} : Yields P (.error e : Except ε α) := nofun

theorem Yields.bind {x : Except ε α} {f : α → Except ε β} (h : Yields P x) (hf : ∀ a, P a → Yields Q (f a)) : Yields Q (x >>= f) := by
  cases x with
  | error e => exact .error
  | ok a => exact hf a (h a rfl)

/-- A check that answers nothing of the state. -/
theorem Yields.after {x : Except ε α} {f : α → Except ε β} (hf : ∀ a, Yields Q (f a)) : Yields Q (x >>= f) := by
  cases x with
  | error e => exact .error
  | ok a => exact hf a

theorem Yields.map {x : Except ε α} {f : α → β} (h : Yields P x) (hf : ∀ a, P a → Q (f a)) : Yields Q (x.map f) := by
  cases x with
  | error e => exact .error
  | ok a => exact .ok (hf a (h a rfl))

theorem Yields.foldlM {f : α → β → Except ε α} {xs : List β} {a : α} (h : P a) (hf : ∀ a x, P a → Yields P (f a x)) : Yields P (xs.foldlM f a) := by
  induction xs generalizing a with
  | nil => exact .ok h
  | cons x xs ih => exact (hf a x h).bind fun b hb => ih hb

theorem Yields.map_after {x : Except ε α} {f : α → β} (hf : ∀ a, Q (f a)) : Yields Q (x.map f) := by
  cases x with
  | error e => exact .error
  | ok a => exact .ok (hf a)

theorem memWf_illegal {d a l : Nat} {P : α → Prop} : Yields P (illegal d a l) := .error

theorem Finds.some {a : α} (h : P a) : Finds P (some a) := by rintro _ ⟨⟩; exact h
theorem Finds.none : Finds P (none : Option α) := nofun

theorem Finds.map {x : Option α} {f : α → β} (h : Finds P x) (hf : ∀ a, P a → Q (f a)) : Finds Q (x.map f) := by
  cases x with
  | none => exact .none
  | some a => exact .some (hf a (h a rfl))

theorem Finds.map_after {x : Option α} {f : α → β} (hf : ∀ a, Q (f a)) : Finds Q (x.map f) := by
  cases x with
  | none => exact .none
  | some a => exact .some (hf a)

theorem Finds.bind {x : Option α} {f : α → Option β} (h : Finds P x) (hf : ∀ a, P a → Finds Q (f a)) : Finds Q (x.bind f) := by
  cases x with
  | none => exact .none
  | some a => exact hf a (h a rfl)

end

/-- A state whose memories are those of `s` keeps the form, whatever its other fields are. -/
theorem memWf_mk {s : State}
    {groups teams launches saved l1 icache scratch outMsgs cycles rounds cores clusters slices poison badCheck tcache hub0 hub1
      hinge inUse affinity heldWb slotFrees xfaults invals frames paused beats drops peerIn collIn sreqs seqs marks respWin cells
      fqueues pawls stations links reroute engCmds mx rays interests recs tiles tdir closed kflits msgQ surfs gens sbytes bstate
      tslots tlast restoring bankProg raster ctxs queues qcur killing hb fw time issue agenda rr fresh nextId}
    (h : s.memWf = true) :
    ({ groups, teams, launches, saved, l1, icache, scratch, outMsgs, cycles, rounds, cores, clusters, near := s.near, far :=
        s.far, host := s.host, peers := s.peers, slices, poison, badCheck, tcache, hub0, hub1, hinge, inUse, affinity, heldWb,
        slotFrees, xfaults, invals, frames, paused, beats, drops, peerIn, collIn, sreqs, seqs, marks, respWin, cells, fqueues,
        pawls, stations, links, reroute, engCmds, mx, rays, interests, recs, tiles, tdir, closed, kflits, msgQ, surfs, gens,
        sbytes, bstate, tslots, tlast, restoring, bankProg, raster, ctxs, queues, qcur, killing, hb, fw, time, issue, agenda, rr,
        fresh, nextId } : State).memWf = true :=
  State.memWf_of rfl h

/-! ### Steps of a traversal, which may stop in a state of their own -/

/-- The state that a traversal stops in, if it names one. -/
def StopOk : TStop → Prop
  | .bad s _ _ => s.memWf = true
  | .badRec s _ => s.memWf = true
  | _ => True

/-- Every value of a traversal's step satisfies `P`, and so does the state in which it stops. -/
def Steps {α : Type} (P : α → Prop) (x : TTry α) : Prop := Yields P x ∧ ∀ e, x = .error e → StopOk e

section
variable {α β : Type} {P : α → Prop} {Q : β → Prop}

theorem Steps.ok {a : α} (h : P a) : Steps P (.ok a) := ⟨.ok h, nofun⟩
theorem Steps.error {e : TStop} (h : StopOk e) : Steps P (.error e : TTry α) := ⟨.error, by rintro _ ⟨⟩; exact h⟩

theorem Steps.bind {x : TTry α} {f : α → TTry β} (h : Steps P x) (hf : ∀ a, P a → Steps Q (f a)) : Steps Q (x >>= f) := by
  cases x with
  | error e => exact .error (h.2 e rfl)
  | ok a => exact hf a (h.1 a rfl)

theorem Steps.map {x : TTry α} {f : α → β} (h : Steps P x) (hf : ∀ a, P a → Q (f a)) : Steps Q (x.map f) := by
  cases x with
  | error e => exact .error (h.2 e rfl)
  | ok a => exact .ok (hf a (h.1 a rfl))

end

/-! ### Reads one after another -/

/-- A sequence of reads that keeps the form. -/
def Reading {ε α : Type} (m : Reads ε α) : Prop := ∀ s : State, s.memWf = true → (m s).2.memWf = true

section
variable {ε α β : Type}

theorem Reading.pure {a : α} : Reading (Pure.pure a : Reads ε α) := fun _ h => h

theorem Reading.bind {m : Reads ε α} {f : α → Reads ε β} (hm : Reading m) (hf : ∀ a, Reading (f a)) : Reading (m >>= f) := by
  intro s h
  have first := hm s h
  have run : (m >>= f) s = (match (m s).1 with
    | .ok a => f a (m s).2
    | .error e => (.error e, (m s).2)) := by
    cases hms : m s with
    | mk r t => cases r <;> simp [Bind.bind, ExceptT.bind, ExceptT.mk, ExceptT.bindCont, StateT.bind, hms, Pure.pure, StateT.pure]
  rw [run]
  split
  · exact hf _ _ first
  · exact first

theorem Reading.ite {c : Prop} [Decidable c] {m m' : Reads ε α} (h : Reading m) (h' : Reading m') : Reading (if c then m else m') := by
  split <;> assumption

end

/-! ### The other places where a memory changes -/

theorem memWf_writeNear {s : State} {a : Nat} {b : BitVec 8} (h : s.memWf = true) : ({ s with near := Memory.write s.near a b } : State).memWf = true := by
  rw [State.memWf_iff] at *
  exact ⟨Memory.wf_write _ _ _ h.1, h.2⟩

theorem memWf_writeFar {s : State} {a : Nat} {b : BitVec 8} (h : s.memWf = true) : ({ s with far := Memory.write s.far a b } : State).memWf = true := by
  rw [State.memWf_iff] at *
  exact ⟨h.1, Memory.wf_write _ _ _ h.2.1, h.2.2⟩

theorem memWf_copyToNear {s : State} {old new : Nat} (h : s.memWf = true) :
    ({ s with near := copyFrame s.far s.near old new } : State).memWf = true := by
  rw [State.memWf_iff] at *
  exact ⟨wf_copyFrame _ _ _ _ h.1, h.2⟩

theorem memWf_copyToFar {s : State} {old new : Nat} (h : s.memWf = true) :
    ({ s with far := copyFrame s.near s.far old new } : State).memWf = true := by
  rw [State.memWf_iff] at *
  exact ⟨h.1, wf_copyFrame _ _ _ _ h.2.1, h.2.2⟩

/-! ### Pairs, choices and folds -/

section
variable {α β : Type}

/-- The state of a pair that has been taken apart. -/
theorem memWf_fst {p : State × β} {t : State} {b : β} (e : p = (t, b)) (h : p.1.memWf = true) : t.memWf = true := by rw [e] at h; exact h

theorem memWf_snd {p : β × State} {t : State} {b : β} (e : p = (b, t)) (h : p.2.memWf = true) : t.memWf = true := by rw [e] at h; exact h

theorem memWf_ite {c : Prop} [Decidable c] {s t : State} (hs : s.memWf = true) (ht : t.memWf = true) : (if c then s else t).memWf = true := by
  split <;> assumption

theorem memWf_foldl {f : State → α → State} {xs : List α} {s : State} (h : s.memWf = true)
    (hf : ∀ s x, s.memWf = true → (f s x).memWf = true) : (xs.foldl f s).memWf = true :=
  foldl_keeps (fun s : State => s.memWf = true) f xs s h fun s hs x _ => hf s x hs

theorem memWf_foldl_fst {f : State × β → α → State × β} {xs : List α} {p : State × β} (h : p.1.memWf = true)
    (hf : ∀ p x, p.1.memWf = true → (f p x).1.memWf = true) : (xs.foldl f p).1.memWf = true :=
  foldl_keeps (fun p : State × β => p.1.memWf = true) f xs p h fun p hp x _ => hf p x hp

theorem memWf_foldr {f : α → State → State} {xs : List α} {s : State} (h : s.memWf = true)
    (hf : ∀ x s, s.memWf = true → (f x s).memWf = true) : (xs.foldr f s).memWf = true := by
  induction xs with
  | nil => exact h
  | cons x xs ih => exact hf x _ ih

end

end Sys2Proof.Machine
end

section
/-! The canonical form of memory (log 3): the operations on cells, marks, requests and groups, down to the word that a step chooses. -/
namespace Sys2Proof.Machine

theorem memWf_newId {s : State} (h : s.memWf = true) :
    (newId s).1.memWf = true := by
  unfold newId
  exact memWf_mk h

theorem memWf_chargeRec {s : State} {cid : ℕ} {r : Rec} (h : s.memWf = true) :
    (chargeRec s cid r).memWf = true :=
  memWf_mk h

theorem memWf_meetSector {ctx : ℕ} {s : State} {l : Loc} (h : s.memWf = true) :
    (meetSector ctx s l).memWf = true :=
  memWf_ite (memWf_sectorRec _ _ _ _ (memWf_poisonPlaces _ _ h)) (memWf_ite (memWf_sectorRec _ _ _ _ h) h)

theorem memWf_chargeBad {s : State} {ctx : ℕ} {ls : List Loc} (h : s.memWf = true) :
    (chargeBad s ctx ls).memWf = true :=
  memWf_foldl h (fun _ _ h3 => memWf_meetSector h3)

theorem memWf_carrySector {s : State} {src dst : Loc} (h : s.memWf = true) :
    (carrySector s src dst).memWf = true :=
  memWf_mk h

theorem memWf_setHub {s : State} {st : ℕ} {h : Hub} (hs : s.memWf = true) :
    (setHub s st h).memWf = true :=
  memWf_ite (memWf_mk hs) (memWf_mk hs)

theorem memWf_verifyLines {s : State} {ctx : ℕ} {ls : List Loc} (h : s.memWf = true) :
    (verifyLines s ctx ls).memWf = true :=
  memWf_chargeBad (memWf_fillLines _ _ h)

theorem memWf_parkedValue {s : State} {c : Cell} (h : s.memWf = true) :
    (parkedValue s c).1.memWf = true := by
  unfold parkedValue
  exact memWf_verifyLines h

theorem memWf_bumpRetired {s : State} {st : ℕ} (h : s.memWf = true) :
    (bumpRetired s st).memWf = true :=
  memWf_ite h (memWf_mk h)

theorem memWf_parkCell {s : State} {c : Cell} (h : s.memWf = true) :
    (parkCell s c).memWf = true :=
  memWf_setLogBytes _ _ _ _ (memWf_mk h)

theorem memWf_retireParked {s : State} {slice : ℕ} (h : s.memWf = true) :
    (retireParked s slice).memWf = true := by
  unfold retireParked
  split
  · dsimp only
    exact memWf_bumpRetired (memWf_roundCell _ _ (memWf_mk (memWf_parkedValue h)))
  · exact h

theorem memWf_cellRoom {s : State} {slice : ℕ} (h : s.memWf = true) :
    (cellRoom s slice).memWf = true := by
  unfold cellRoom
  split
  · dsimp only
    split
    · exact h
    · split
      · exact h
      · exact memWf_bumpRetired (memWf_retireCell _ _ h)
  · dsimp only
    split
    · exact h
    · split
      · exact h
      · exact memWf_parkCell (memWf_ite h (memWf_retireParked h))

theorem memWf_touchCell {s : State} {c : Cell} (h : s.memWf = true) :
    (touchCell s c).1.memWf = true := by
  unfold touchCell
  dsimp only
  split
  · exact memWf_mk (memWf_cellRoom (memWf_mk (memWf_parkedValue (memWf_newId h))))
  · exact memWf_mk (memWf_newId h)

theorem memWf_readCells {s : State} {host : Bool} {a n : ℕ} (h : s.memWf = true) :
    (readCells s host a n).memWf = true := by
  unfold readCells
  refine memWf_foldl h ?_
  intro t1 x2 h3
  split
  · dsimp only
    exact memWf_roundCell _ _ (memWf_touchCell h3)
  · exact h3

theorem memWf_readCellsAt {s : State} {ls : List Loc} (h : s.memWf = true) :
    (readCellsAt s ls).memWf = true := by
  unfold readCellsAt
  split
  · exact h
  · refine memWf_foldl h ?_
    intro t3 x4 h5
    split
    · exact memWf_readCells h5
    · exact memWf_readCells h5
    · exact memWf_readCells h5
    · exact h5

theorem memWf_touchPlaces {s : State} {ctx : ℕ} {ls : List Loc} (h : s.memWf = true) :
    (touchPlaces s ctx ls).memWf = true :=
  memWf_readCellsAt (memWf_verifyLines h)

theorem memWf_takeSeq {s : State} {src : ℕ} (h : s.memWf = true) :
    (takeSeq s src).1.memWf = true := by
  unfold takeSeq
  exact memWf_mk h

theorem memWf_setFq {s : State} {q : ℕ} {f : FQueue → FQueue} (h : s.memWf = true) :
    (setFq s q f).memWf = true :=
  memWf_mk h

theorem memWf_fqLeave {s : State} {q count : ℕ} (h : s.memWf = true) :
    (fqLeave s q count).memWf = true :=
  memWf_ite (memWf_setFq h) h

theorem memWf_dropFrames {s : State} {id : ℕ} (h : s.memWf = true) :
    (dropFrames s id).memWf = true :=
  memWf_foldl (memWf_mk h) (fun _ _ h3 => memWf_fqLeave h3)

theorem memWf_updG {s : State} {key : ℕ} {f : Group → Group} (h : s.memWf = true) :
    (updG s key f).memWf = true :=
  memWf_mk h

theorem memWf_setPending {s : State} {key pid : ℕ} {f : Pending → Pending} (h : s.memWf = true) :
    (setPending s key pid f).memWf = true :=
  memWf_updG h

theorem memWf_later {s : State} {e : Instr} (h : s.memWf = true) :
    (later s e).memWf = true :=
  memWf_mk h

theorem memWf_answer {s : State} {r : SReq} {v : ℕ} (h : s.memWf = true) :
    (answer s r v).memWf = true := by
  unfold answer
  split
  · exact h
  · exact memWf_ite (memWf_later (memWf_setPending h)) (memWf_setPending h)

theorem memWf_answerBad {s : State} {r : SReq} {l : Loc} (h : s.memWf = true) :
    (answerBad s r l).memWf = true := by
  unfold answerBad
  split
  · exact memWf_chargeCut _ _ _ h
  · exact memWf_answer h

theorem memWf_markRoom {s : State} {slice dev src : ℕ} (h : s.memWf = true) :
    Finds (fun x => x.memWf = true) (markRoom s slice dev src) := by
  unfold markRoom
  dsimp only
  split
  · exact Finds.some h
  · split
    · exact Finds.some (memWf_mk h)
    · exact Finds.none

theorem memWf_putMark {s : State} {slice dev src seq : ℕ} (h : s.memWf = true) :
    (putMark s slice dev src seq).memWf = true := by
  unfold putMark
  split
  · rename_i e3
    exact memWf_mk ((memWf_markRoom h) _ e3)
  · exact h

theorem memWf_markReq {s : State} {r : SReq} {slice : ℕ} (h : s.memWf = true) :
    (markReq s r slice).memWf = true :=
  memWf_ite h (memWf_putMark h)

theorem memWf_carryPoison {h : ℕ} {f : Surf} {s : State} {n : ℕ} (hs : s.memWf = true) :
    (carryPoison h f s n).memWf = true :=
  memWf_foldl (memWf_verifyPlaces _ _ _ (memWf_fillLines _ _ hs)) (fun _ _ h3 => memWf_setPoison _ _ _ h3)

theorem memWf_carryForm {h : ℕ} {f : Surf} {compressed : Bool} {s : State} {n : ℕ} (hs : s.memWf = true) :
    (carryForm h f compressed s n).memWf = true := by
  unfold carryForm
  split
  · exact hs
  · exact hs
  · exact memWf_carryPoison hs

theorem memWf_setBlockState {s : State} {h n : ℕ} {b : BState} (hs : s.memWf = true) :
    (setBlockState s h n b).memWf = true :=
  memWf_mk hs

theorem memWf_putRawFrom {s : State} {k : ℕ} {x : List (BitVec 8)} (h : s.memWf = true) :
    (putRawFrom s k x).memWf = true := by
  fun_induction putRawFrom
  · exact h
  · rename_i e7
    exact e7 (memWf_mk h)

theorem memWf_putBlock {s : State} {h : ℕ} {f : Surf} {n : ℕ} {st : BState} {bs : List (BitVec 8)} (hs : s.memWf = true) :
    (putBlock s h f n st bs).memWf = true :=
  memWf_setBlockState (memWf_putRawFrom hs)

theorem memWf_writeBlock {s : State} {h : ℕ} {f : Surf} {compressed : Bool} {n : ℕ} {ws : List (ℕ × BitVec 8)}
    (hs : s.memWf = true) :
    (writeBlock s h f compressed n ws).memWf = true := by
  unfold writeBlock
  split
  · dsimp only
    split
    · exact memWf_putBlock hs
    · exact memWf_putBlock hs
  · exact memWf_putBlock hs

theorem memWf_writeSurf {s : State} {h : ℕ} {compressed : Bool} {ws : List (ℕ × BitVec 8)} (hs : s.memWf = true) :
    (writeSurf s h compressed ws).memWf = true := by
  unfold writeSurf
  split
  · exact memWf_foldl (memWf_mergePlaces _ _ _ (memWf_foldl hs (fun _ _ h6 => memWf_carryForm h6)))
      (fun _ _ h9 => memWf_writeBlock h9)
  · exact hs

theorem memWf_putHome {s : State} {ctx : ℕ} {l : Loc} {b : BitVec 8} (h : s.memWf = true) : (putHome s ctx l b).memWf = true := by
  unfold putHome
  split
  · exact memWf_setLogByte _ _ _ _ h
  · exact memWf_setHostByte _ _ _ h
  · exact memWf_setHostByte _ _ _ h
  · exact memWf_mk h
  · exact memWf_updG h
  · exact memWf_writeSurf h
  · split
    · exact memWf_writeNear h
    · exact memWf_writeFar h

theorem memWf_putHomeNat {s : State} {ctx : ℕ} {l : Loc} {x x1 : ℕ} (h : s.memWf = true) :
    (putHomeNat s ctx l x x1).memWf = true := by
  fun_induction putHomeNat
  · exact h
  · rename_i e8
    exact e8 (memWf_putHome h)

theorem memWf_applyAtom {s : State} {ctx : ℕ} {a : AtomReq} (h : s.memWf = true) :
    (applyAtom s ctx a).1.memWf = true := by
  unfold applyAtom
  exact memWf_putHomeNat (memWf_mergePlaces _ _ _ h)

theorem memWf_windowPut {s : State} {slice dev src seq v : ℕ} (h : s.memWf = true) :
    (windowPut s slice dev src seq v).memWf = true :=
  memWf_later (memWf_mk h)

theorem memWf_windowReq {s : State} {r : SReq} {slice v : ℕ} (h : s.memWf = true) :
    (windowReq s r slice v).memWf = true :=
  memWf_windowPut h

theorem memWf_contribute {s : State} {ctx : ℕ} {l : Loc} {fmt : ℕ} {v : BitVec 32} (h : s.memWf = true) :
    (contribute s ctx l fmt v).memWf = true := by
  unfold contribute
  split
  · dsimp only
    split
    · exact memWf_mk (memWf_touchCell (memWf_foldl h (fun _ _ h10 => memWf_retireCell _ _ h10)))
    · exact memWf_mk (memWf_newId (memWf_verifyLines (memWf_cellRoom (memWf_foldl h (fun _ _ h15 => memWf_retireCell _ _ h15)))))

theorem memWf_performReq {s : State} {r : SReq} {l : Loc} {slice : ℕ} (h : s.memWf = true) :
    (performReq s r l slice).memWf = true := by
  unfold performReq
  split
  · dsimp only
    split
    · exact memWf_windowReq (memWf_answer (memWf_applyAtom (memWf_readCells (memWf_fillLines _ _ (memWf_markReq h)))))
    · exact memWf_applyAtom (memWf_readCells (memWf_fillLines _ _ (memWf_markReq h)))
  · exact memWf_contribute (memWf_markReq h)
  · exact memWf_markReq h

theorem memWf_applyOne {s : State} {r : SReq} (h : s.memWf = true) :
    (applyOne s r).memWf = true := by
  unfold applyOne
  split
  · exact memWf_dropFrames (memWf_mk h)
  · dsimp only
    split
    · exact memWf_answerBad (memWf_dropFrames (memWf_mk h))
    · split
      · split
        · exact memWf_answer (memWf_dropFrames (memWf_mk h))
        · exact memWf_dropFrames (memWf_mk h)
      · exact memWf_performReq (memWf_dropFrames (memWf_mk h))

theorem memWf_freeWindow {s : State} {r : SReq} {slice : ℕ} (h : s.memWf = true) :
    (freeWindow s r slice).memWf = true := by
  unfold freeWindow
  split
  · exact h
  · dsimp only
    split
    · exact memWf_mk h
    · exact h

theorem memWf_applyReq {s : State} {r : SReq} (h : s.memWf = true) :
    (applyReq s r).memWf = true :=
  memWf_ite (memWf_foldl h (fun _ _ h3 => memWf_applyOne (memWf_freeWindow h3))) h

theorem memWf_fqTake {s : State} {q cap count : ℕ} (h : s.memWf = true) :
    (fqTake s q cap count).memWf = true :=
  memWf_ite h (memWf_setFq h)

theorem memWf_arriveQueue {s : State} {r : SReq} (h : s.memWf = true) :
    (arriveQueue s r).memWf = true :=
  memWf_later (memWf_markReq (memWf_dropFrames (memWf_mk (memWf_fqTake h))))

theorem memWf_countReq {s : State} {src slice : ℕ} {store : Bool} (h : s.memWf = true) :
    (countReq s src slice store).memWf = true := by
  unfold countReq
  dsimp only
  split
  · exact memWf_putMark (memWf_takeSeq (memWf_foldl h (fun _ _ h4 => memWf_ite (memWf_applyReq h4) (memWf_arriveQueue h4))))
  · exact memWf_takeSeq (memWf_foldl h (fun _ _ h8 => memWf_ite (memWf_applyReq h8) (memWf_arriveQueue h8)))

theorem memWf_countLines {s : State} {src : ℕ} {store : Bool} {ls : List Loc} (h : s.memWf = true) :
    (countLines s src store ls).memWf = true := by
  unfold countLines
  refine memWf_foldl h ?_
  intro t1 x2 h3
  split
  · exact memWf_takeSeq h3
  · exact memWf_countReq h3

theorem memWf_cacheWord {s : State} {core k : ℕ} {w : BitVec 32} (h : s.memWf = true) :
    (cacheWord s core k w).memWf = true :=
  memWf_mk h

theorem memWf_fetchWord {s : State} {key : ℕ} {g : Group} {pc : ℕ} (h : s.memWf = true) :
    Yields (fun x => x.1.memWf = true) (fetchWord s key g pc) := by
  unfold fetchWord
  split
  · exact memWf_illegal
  · split
    · exact memWf_illegal
    · split
      · exact Yields.error
      · exact Yields.error
      · exact Yields.error
      · exact Yields.error
      · split
        · dsimp only
          split
          · split
            · exact Yields.error
            · exact Yields.ok (memWf_cacheWord (memWf_touchPlaces (memWf_countLines h)))
          · exact Yields.ok h
        · dsimp only
          split
          · split
            · exact Yields.error
            · exact Yields.ok (memWf_cacheWord (memWf_touchPlaces (memWf_countLines h)))
          · exact Yields.ok h

theorem memWf_clearXfaults {s : State} {eng key : ℕ} (h : s.memWf = true) :
    (clearXfaults s eng key).memWf = true :=
  memWf_mk h

theorem memWf_dropMatrix {s : State} {key : ℕ} (h : s.memWf = true) :
    (dropMatrix s key).memWf = true :=
  memWf_mk h

theorem memWf_flushGroup {s : State} {key : ℕ} (h : s.memWf = true) :
    (flushGroup s key).memWf = true :=
  memWf_updG (memWf_dropMatrix h)

theorem memWf_hostWait {s : State} {key : ℕ} (h : s.memWf = true) :
    (hostWait s key).memWf = true := by
  unfold hostWait
  split
  · exact h
  · split
    · exact memWf_updG h
    · dsimp only
      split
      · split
        · exact memWf_later (memWf_mk (memWf_updG (memWf_foldl h (fun _ ⟨x13, x14⟩ h15 => memWf_flushGroup h15))))
        · exact memWf_mk (memWf_updG (memWf_foldl h (fun _ ⟨x19, x20⟩ h21 => memWf_flushGroup h21)))
      · exact memWf_updG (memWf_flushGroup h)

theorem memWf_setCtx {s : State} {c : ℕ} {f : Ctx → Ctx} (h : s.memWf = true) :
    (setCtx s c f).memWf = true :=
  memWf_mk h

theorem memWf_signal {s : State} {v : ℕ} (h : s.memWf = true) :
    (signal s v).memWf = true :=
  memWf_mk h

theorem memWf_spreadBad {s : State} {ls : List Loc} {bad : List ℕ} (h : s.memWf = true) :
    (spreadBad s ls bad).memWf = true :=
  memWf_ite h (memWf_poisonPlaces _ _ h)

theorem memWf_putHomes {s : State} {ctx : ℕ} {x : List (Loc × BitVec 8)} (h : s.memWf = true) :
    (putHomes s ctx x).memWf = true := by
  fun_induction putHomes
  · exact h
  · rename_i e6
    exact e6 (memWf_putHome h)

theorem memWf_writeHome {s : State} {ctx : ℕ} {ws : List (Loc × BitVec 8)} (h : s.memWf = true) :
    (writeHome s ctx ws).memWf = true :=
  memWf_putHomes (memWf_mergePlaces _ _ _ h)

theorem memWf_engWrite {s : State} {eng ctx : ℕ} {ls : List Loc} {bs : List (BitVec 8)} {bad : List ℕ} (h : s.memWf = true) :
    (engWrite s eng ctx ls bs bad).memWf = true :=
  memWf_spreadBad (memWf_writeHome (memWf_countLines h))

theorem memWf_writeCount {s : State} {cid : ℕ} {c : Ctx} (h : s.memWf = true) :
    Yields (fun x => x.memWf = true) (writeCount s cid c) := by
  unfold writeCount
  split
  · exact Yields.ok (memWf_signal h)
  · exact Yields.error
  · exact Yields.ok (memWf_signal (memWf_engWrite h))

theorem memWf_dropRecs {s : State} {cid k : ℕ} (h : s.memWf = true) :
    Yields (fun x => x.memWf = true) (dropRecs s cid k) := by
  unfold dropRecs
  dsimp only
  split
  · exact memWf_writeCount (memWf_setCtx h)
  · exact Yields.ok (memWf_setCtx h)

theorem memWf_engRead {s : State} {eng ctx : ℕ} {ls : List Loc} (h : s.memWf = true) :
    (engRead s eng ctx ls).1.memWf = true := by
  unfold engRead
  exact memWf_touchPlaces (memWf_countLines h)

theorem memWf_putRecs {s : State} {cid : ℕ} {c : Ctx} {rs : List Rec} (h : s.memWf = true) :
    Yields (fun x => x.memWf = true) (putRecs s cid c rs) := by
  unfold putRecs
  split
  · exact (memWf_dropRecs h).map (fun _ h5 => memWf_signal h5)
  · exact Yields.error
  · dsimp only
    split
    · exact memWf_dropRecs (memWf_engRead h)
    · split
      · exact (memWf_dropRecs (memWf_engRead h)).map (fun _ h19 => memWf_signal h19)
      · exact Yields.error
      · split
        · exact memWf_writeCount (memWf_setCtx (memWf_engWrite (memWf_engRead h)))
        · exact Yields.ok (memWf_setCtx (memWf_engWrite (memWf_engRead h)))

theorem memWf_flushRecs {x : ℕ} {x1 : State} {x2 : ℕ} (h : x1.memWf = true) :
    (flushRecs x x1 x2).memWf = true := by
  fun_induction flushRecs
  · exact h
  · exact h
  · exact memWf_clearXfaults h
  · rename_i e24 e25
    exact e25 (memWf_setCtx ((memWf_putRecs h) _ e24))
  · exact memWf_later h
  · exact h

theorem memWf_postRecs {s : State} {cid : ℕ} {rs : List Rec} (h : s.memWf = true) :
    (postRecs s cid rs).memWf = true := by
  unfold postRecs
  dsimp only
  split
  · exact memWf_ite (memWf_flushRecs (memWf_setCtx h)) (memWf_setCtx h)
  · exact memWf_setCtx h

theorem memWf_laterAll {s : State} {es : List Instr} (h : s.memWf = true) :
    (laterAll s es).memWf = true :=
  memWf_mk h

theorem memWf_dropQueueOps {s : State} {key : ℕ} (h : s.memWf = true) :
    (dropQueueOps s key).memWf = true :=
  memWf_laterAll (memWf_mk h)

theorem memWf_noteEmpty {s : State} {core : ℕ} (h : s.memWf = true) :
    (noteEmpty s core).memWf = true :=
  memWf_ite h (memWf_mk h)

theorem memWf_wakePlacement {s : State} (h : s.memWf = true) :
    (wakePlacement s).memWf = true :=
  memWf_later h

theorem memWf_reportSurf {s : State} {h : ℕ} (hs : s.memWf = true) :
    (reportSurf s h).memWf = true := by
  unfold reportSurf
  split
  · exact hs
  · exact memWf_setLogBytes _ _ _ _ (memWf_setLogBytes _ _ _ _ hs)

theorem memWf_reportSurfs {s : State} {ctx : ℕ} (h : s.memWf = true) :
    (reportSurfs s ctx).memWf = true :=
  memWf_foldl h (fun _ ⟨_, _⟩ h4 => memWf_reportSurf h4)

theorem memWf_checkLaunch {s : State} {l : ℕ} (h : s.memWf = true) :
    (checkLaunch s l).memWf = true := by
  unfold checkLaunch
  split
  · exact memWf_ite (memWf_later (memWf_mk (memWf_reportSurfs h))) h
  · exact h

theorem memWf_endTeam {s : State} {team : ℕ} (h : s.memWf = true) :
    (endTeam s team).memWf = true := by
  unfold endTeam
  split
  · exact memWf_wakePlacement (memWf_checkLaunch (memWf_mk (memWf_mk h)))
  · exact h

theorem memWf_writeBack {s : State} {e : L1Line} (h : s.memWf = true) :
    (writeBack s e).memWf = true :=
  memWf_ite h (memWf_foldl (memWf_foldl (memWf_mergePlaces _ _ _ (memWf_countReq h))
    (fun _ _ h3 => memWf_ite (memWf_setLogByte _ _ _ _ h3) h3)) (fun _ _ h6 => memWf_chargeRec (memWf_poisonPlaces _ _ h6)))

theorem memWf_l1Clean {s : State} {core : ℕ} (h : s.memWf = true) :
    (l1Clean s core).memWf = true :=
  memWf_mk (memWf_foldl h (fun _ _ h3 => memWf_writeBack h3))

theorem memWf_settleCore {s : State} {key core : ℕ} (h : s.memWf = true) :
    (settleCore s key core).memWf = true :=
  memWf_foldl h (fun _ _ h3 => memWf_applyReq h3)

theorem memWf_releaseAct {s : State} {key core scope : ℕ} {paired : Bool} (h : s.memWf = true) :
    (releaseAct s key core scope paired).memWf = true :=
  memWf_ite (memWf_l1Clean (memWf_settleCore h)) h

theorem memWf_l1Drop {s : State} {core : ℕ} {p : L1Line → Bool} (h : s.memWf = true) :
    (l1Drop s core p).memWf = true :=
  memWf_mk (memWf_foldl h (fun _ _ h3 => memWf_writeBack h3))

theorem memWf_acquireAct {s : State} {core scope : ℕ} {paired : Bool} (h : s.memWf = true) :
    (acquireAct s core scope paired).memWf = true :=
  memWf_ite (memWf_l1Drop h) h

theorem memWf_passBar {s : State} {team : ℕ} (h : s.memWf = true) :
    (passBar s team).memWf = true :=
  memWf_foldl (memWf_foldl (memWf_foldl h (fun _ ⟨_, _, _⟩ h5 => memWf_releaseAct h5))
    (fun _ ⟨_, _, _⟩ h10 => memWf_acquireAct h10)) (fun _ ⟨_, _⟩ h14 => memWf_updG h14)

theorem memWf_checkBars {s : State} {team : ℕ} (h : s.memWf = true) :
    (checkBars s team).memWf = true :=
  memWf_foldl h (fun _ _ h3 => memWf_ite (memWf_passBar h3) h3)

theorem memWf_leaveGroup {s : State} {key : ℕ} (h : s.memWf = true) :
    (leaveGroup s key).memWf = true := by
  unfold leaveGroup
  split
  · split
    · split
      · exact memWf_later (memWf_mk (memWf_noteEmpty (memWf_dropQueueOps (memWf_mk h))))
      · dsimp only
        split
        · exact memWf_ite (memWf_endTeam (memWf_mk (memWf_later (memWf_mk (memWf_noteEmpty (memWf_dropQueueOps (memWf_mk h)))))))
            (memWf_checkBars (memWf_mk (memWf_later (memWf_mk (memWf_noteEmpty (memWf_dropQueueOps (memWf_mk h)))))))
        · exact memWf_mk (memWf_later (memWf_mk (memWf_noteEmpty (memWf_dropQueueOps (memWf_mk h)))))
    · split
      · exact memWf_noteEmpty (memWf_dropQueueOps (memWf_mk h))
      · dsimp only
        split
        · exact memWf_ite (memWf_endTeam (memWf_mk (memWf_noteEmpty (memWf_dropQueueOps (memWf_mk h)))))
            (memWf_checkBars (memWf_mk (memWf_noteEmpty (memWf_dropQueueOps (memWf_mk h)))))
        · exact memWf_mk (memWf_noteEmpty (memWf_dropQueueOps (memWf_mk h)))
  · exact h

theorem memWf_standing {s : State} {key : ℕ} {r : Rec} (h : s.memWf = true) :
    (standing s key r).memWf = true := by
  unfold standing
  split
  · exact memWf_ite (memWf_leaveGroup (memWf_postRecs h)) (memWf_updG (memWf_postRecs h))
  · exact h

theorem memWf_enterHandler {s : State} {key si off : ℕ} {r : Rec} (h : s.memWf = true) :
    (enterHandler s key si off r).memWf = true :=
  memWf_updG (memWf_setPoison _ _ _ h)

theorem memWf_suspend {s : State} {key si : ℕ} {pages : List (ℕ × ℕ)} (h : s.memWf = true) :
    (suspend s key si pages).memWf = true := by
  unfold suspend
  split
  · exact memWf_laterAll (memWf_updG h)
  · exact h

theorem memWf_takeFault {s : State} {key si : ℕ} {t : Trap} {pc : ℕ} {deferred : Bool} (h : s.memWf = true) :
    (takeFault s key si t pc deferred).memWf = true := by
  unfold takeFault
  split
  · exact h
  · split
    · exact memWf_hostWait (memWf_updG (memWf_postRecs (memWf_clearXfaults (memWf_mk h))))
    · dsimp only
      split
      · split
        · exact memWf_standing (memWf_clearXfaults (memWf_mk h))
        · split
          · rename_i e17
            exact memWf_ite (memWf_enterHandler ((memWf_fetchWord (memWf_clearXfaults (memWf_mk h))) _ e17))
              (memWf_standing ((memWf_fetchWord (memWf_clearXfaults (memWf_mk h))) _ e17))
          · exact memWf_suspend (memWf_clearXfaults (memWf_mk h))
          · exact memWf_suspend (memWf_clearXfaults (memWf_mk h))
          · exact memWf_standing (memWf_clearXfaults (memWf_mk h))
      · exact memWf_standing (memWf_clearXfaults (memWf_mk h))

theorem memWf_takeLoss {s : State} {key peer : ℕ} (h : s.memWf = true) :
    (takeLoss s key peer).memWf = true := by
  unfold takeLoss
  split
  · exact h
  · exact memWf_standing (memWf_mk h)

theorem memWf_chosenWord {s : State} {sel : Sel} (h : s.memWf = true) : PickOk (chosenWord s sel) := by
  unfold chosenWord
  split
  · exact (memWf_mk h : State.memWf _ = true)
  · split
    · exact (memWf_mk h : State.memWf _ = true)
    · split
      next fetched =>
        have hf := memWf_fetchWord h _ fetched
        split
        · exact hf
        · exact memWf_takeFault hf
      · exact memWf_takeFault h
      · exact memWf_suspend (memWf_mk h)
      · exact memWf_suspend (memWf_mk h)
      · exact memWf_takeLoss h

theorem memWf_holdBack {s : State} {e : Instr} (h : s.memWf = true) :
    (holdBack s e).memWf = true :=
  memWf_ite h (memWf_mk h)

theorem memWf_pick {s : State} (h : s.memWf = true) : PickOk (pick s) := by
  unfold pick
  split
  · exact memWf_chosenWord h
  · split
    · split
      · exact memWf_holdBack (memWf_mk h)
      · exact (memWf_mk h : State.memWf _ = true)
    · exact (memWf_mk h : State.memWf _ = true)

end Sys2Proof.Machine
end

section
/-! The canonical form of memory (log 3): host registers, the hinge, the queue manager. -/
namespace Sys2Proof.Machine

theorem memWf_freshState {s : State} (h : s.memWf = true) :
    (freshState s).memWf = true :=
  memWf_mk h

theorem memWf_execDeviceReset {s : State} (h : s.memWf = true) :
    OutOk (execDeviceReset s) :=
  OutOk.next (memWf_mk (memWf_freshState h))

theorem memWf_keepCounts {s t : State} (ht : t.memWf = true) :
    (keepCounts s t).memWf = true :=
  memWf_mk ht

theorem memWf_execFunctionLevelReset {s : State} (h : s.memWf = true) :
    OutOk (execFunctionLevelReset s) :=
  OutOk.next (memWf_mk (memWf_keepCounts (memWf_freshState h)))

theorem memWf_unsupported {s : State} {write : Bool} (h : s.memWf = true) :
    (unsupported s write).memWf = true :=
  memWf_mk h

theorem memWf_now {s : State} {e : Instr} (h : s.memWf = true) :
    (now s e).memWf = true :=
  memWf_mk h

theorem memWf_nowWith {s : State} {v : BitVec 64} {e : Instr} (h : s.memWf = true) :
    (nowWith s v e).memWf = true :=
  memWf_now (memWf_mk h)

theorem memWf_setHostOp {s : State} {busy : Bool} {status op : ℕ} (h : s.memWf = true) :
    (setHostOp s busy status op).memWf = true :=
  memWf_mk h

theorem memWf_hostEnd {s : State} {status : ℕ} (h : s.memWf = true) :
    (hostEnd s status).memWf = true :=
  memWf_later (memWf_setHostOp h)

theorem memWf_writeHostOp {s : State} {v : ℕ} (h : s.memWf = true) :
    (writeHostOp s v).memWf = true := by
  unfold writeHostOp
  split
  · exact h
  · dsimp only
    split
    · exact memWf_now (memWf_setHostOp h)
    · exact memWf_now (memWf_setHostOp h)
    · exact memWf_now (memWf_setHostOp h)
    · exact memWf_hostEnd (memWf_setHostOp h)

theorem memWf_writeCtxCtl {s : State} {v : ℕ} (h : s.memWf = true) :
    (writeCtxCtl s v).memWf = true := by
  unfold writeCtxCtl
  split
  · exact h
  · dsimp only
    split
    · exact memWf_mk h
    · split
      · exact memWf_now (memWf_mk h)
      · exact memWf_now (memWf_mk h)
      · exact memWf_now (memWf_mk h)
      · exact memWf_now (memWf_mk h)
      · exact memWf_now (memWf_mk h)
      · exact memWf_now (memWf_mk h)
      · exact memWf_now (memWf_mk h)
      · exact memWf_now (memWf_mk h)
      · exact memWf_mk h

theorem memWf_setQctl {s : State} {busy : Bool} {status : ℕ} (h : s.memWf = true) :
    (setQctl s busy status).memWf = true :=
  memWf_mk h

theorem memWf_qctlEnd {s : State} {status : ℕ} (h : s.memWf = true) :
    (qctlEnd s status).memWf = true :=
  memWf_later (memWf_setQctl h)

theorem memWf_writeQctl {s : State} {v : ℕ} (h : s.memWf = true) :
    (writeQctl s v).memWf = true := by
  unfold writeQctl
  split
  · exact h
  · dsimp only
    split
    · exact memWf_mk h
    · exact memWf_now (memWf_mk h)
    · exact memWf_now (memWf_mk h)
    · exact memWf_now (memWf_mk h)
    · exact memWf_qctlEnd (memWf_mk h)

theorem memWf_hingeEnd {s : State} {st status : ℕ} (h : s.memWf = true) :
    (hingeEnd s st status).memWf = true :=
  memWf_later (memWf_setHub h)

theorem memWf_writeHingeCmd {s : State} {st : ℕ} {v : BitVec 64} (h : s.memWf = true) :
    (writeHingeCmd s st v).memWf = true := by
  unfold writeHingeCmd
  split
  · exact h
  · dsimp only
    split
    · exact memWf_setHub h
    · split
      · exact memWf_now (memWf_setHub h)
      · exact memWf_now (memWf_setHub h)
      · exact memWf_now (memWf_setHub h)
      · exact memWf_now (memWf_setHub h)
      · exact memWf_now (memWf_setHub h)
      · exact memWf_now (memWf_setHub h)
      · exact memWf_hingeEnd (memWf_setHub h)

theorem memWf_writeQBlock {s : State} {blk st o : ℕ} {v : BitVec 64} (h : s.memWf = true) :
    (writeQBlock s blk st o v).memWf = true :=
  memWf_ite (memWf_ite (memWf_writeHingeCmd h) (memWf_ite (memWf_setHub h) (memWf_ite (memWf_setHub h) h)))
    (memWf_ite (memWf_ite (memWf_now h) (memWf_ite (memWf_now h) h))
    (memWf_ite (memWf_ite (memWf_mk h) (memWf_ite (memWf_nowWith h) h)) h))

theorem memWf_writeMsix {s : State} {i : ℕ} {w : BitVec 64} (h : s.memWf = true) :
    (writeMsix s i w).memWf = true :=
  memWf_ite (memWf_signal (memWf_mk (memWf_mk h))) (memWf_mk h)

theorem memWf_writeReg {s : State} {off : ℕ} {v : BitVec 64} (h : s.memWf = true) :
    (writeReg s off v).memWf = true := by
  unfold writeReg
  split
  · split
    · exact memWf_nowWith h
    · exact memWf_mk h
    · exact memWf_writeHostOp h
    · exact memWf_mk h
    · exact memWf_nowWith h
    · exact memWf_writeCtxCtl h
    · exact memWf_mk h
    · exact memWf_mk h
    · exact h
  · exact memWf_ite (memWf_ite (memWf_nowWith h) (memWf_ite (memWf_writeQctl h) h))
      (memWf_ite (memWf_ite (memWf_writeQBlock h) h) (memWf_ite (memWf_mk h)
      (memWf_ite (memWf_mk h) (memWf_ite (memWf_writeMsix h) h))))

theorem memWf_execRegisterWrite {off size : ℕ} {v : BitVec 64} {s : State} (h : s.memWf = true) :
    OutOk (execRegisterWrite off size v s) := by
  unfold execRegisterWrite
  split
  · exact OutOk.next h
  · split
    · exact OutOk.next (memWf_unsupported h)
    · split
      · exact OutOk.next h
      · split
        · exact OutOk.next (memWf_writeReg h)
        · split
          · exact OutOk.next h
          · exact OutOk.next (memWf_writeReg h)

theorem memWf_execBar0UnsupportedAccess {off size : ℕ} {write : Bool} {s : State} (h : s.memWf = true) :
    OutOk (execBar0UnsupportedAccess off size write s) :=
  OutOk.next (memWf_ite h (memWf_unsupported h))

theorem memWf_execBar4Read {la n : ℕ} {s : State} (h : s.memWf = true) :
    OutOk (execBar4Read la n s) := by
  unfold execBar4Read
  split
  · exact OutOk.next (memWf_unsupported h)
  · split
    · exact OutOk.next (memWf_holdBack h)
    · exact OutOk.next (memWf_mk (memWf_touchPlaces (memWf_countLines h)))

theorem memWf_execBar4Write {la : ℕ} {data : List (BitVec 8)} {s : State} (h : s.memWf = true) :
    OutOk (execBar4Write la data s) := by
  unfold execBar4Write
  split
  · exact OutOk.next (memWf_unsupported h)
  · split
    · exact OutOk.next (memWf_holdBack h)
    · exact OutOk.next (memWf_setLogBytes _ _ _ _ (memWf_countLines h))

theorem memWf_hingeCmd {s : State} {st op : ℕ} {mask : BitVec 64} {body : State → ℕ → BitVec 64 → State} (h : s.memWf = true)
    (hbody : ∀ (a : State) (a_1 : ℕ) (a_2 : BitVec 64), a.memWf = true → (body a a_1 a_2).memWf = true) :
    OutOk (hingeCmd s st op mask body) := by
  unfold hingeCmd
  split
  · exact OutOk.next h
  · split
    · exact OutOk.next (memWf_hingeEnd h)
    · exact OutOk.next (hbody _ _ _ h)

theorem memWf_markUse {s : State} {tier pfn : ℕ} (h : s.memWf = true) :
    (markUse s tier pfn).memWf = true :=
  memWf_mk h

theorem memWf_retryChecks {s : State} (h : s.memWf = true) :
    (retryChecks s).memWf = true :=
  memWf_laterAll h

theorem memWf_retryHinge {s : State} {st : ℕ} (h : s.memWf = true) :
    (retryHinge s st).memWf = true := by
  unfold retryHinge
  split
  · split
    · exact memWf_later h
    · exact memWf_later h
    · exact h
  · exact h

theorem memWf_retryWritebacks {s : State} {p : ℕ → Bool} (h : s.memWf = true) :
    (retryWritebacks s p).memWf = true :=
  memWf_laterAll h

theorem memWf_retryTouches {s : State} {st : ℕ} {p : ℕ → Bool} (h : s.memWf = true) :
    (retryTouches s st p).memWf = true :=
  memWf_laterAll h

theorem memWf_frameFreed {s : State} {f : ℕ} (h : s.memWf = true) :
    (frameFreed s f).memWf = true :=
  memWf_retryHinge (memWf_retryHinge (memWf_retryWritebacks (memWf_retryTouches (memWf_retryChecks h))))

theorem memWf_execHingeInstall {st : ℕ} {s : State} (h : s.memWf = true) :
    OutOk (execHingeInstall st s) :=
  memWf_hingeCmd h (fun _ _ _ h4 => memWf_ite (memWf_hingeEnd h4) (memWf_ite (memWf_hingeEnd h4)
    (memWf_ite (memWf_hingeEnd h4) (memWf_ite (memWf_hingeEnd h4) (memWf_frameFreed
    (memWf_hingeEnd (memWf_markUse (memWf_mk h4))))))))

theorem memWf_dropFrame {s : State} {f : ℕ} (h : s.memWf = true) :
    (dropFrame s f).memWf = true :=
  memWf_mk (memWf_dropLines _ _ h)

theorem memWf_dropFrameEntries {s : State} {lo n : ℕ} (h : s.memWf = true) :
    (dropFrameEntries s lo n).memWf = true :=
  memWf_mk h

theorem memWf_setHingeData {s : State} {st : ℕ} {v : BitVec 64} (h : s.memWf = true) :
    (setHingeData s st v).memWf = true :=
  memWf_setHub h

theorem memWf_freeUse {s : State} {tier pfn : ℕ} (h : s.memWf = true) :
    (freeUse s tier pfn).memWf = true :=
  memWf_mk h

theorem memWf_execHingeRelease {st : ℕ} {s : State} (h : s.memWf = true) :
    OutOk (execHingeRelease st s) :=
  memWf_hingeCmd h (fun _ _ _ h4 => memWf_ite (memWf_hingeEnd h4) (memWf_ite h4
    (memWf_hingeEnd (memWf_setHingeData (memWf_freeUse (memWf_mk (memWf_dropFrame (memWf_dropFrameEntries h4))))))))

theorem memWf_execHingeRead {st : ℕ} {s : State} (h : s.memWf = true) :
    OutOk (execHingeRead st s) :=
  memWf_hingeCmd h (fun _ _ _ h4 => memWf_hingeEnd (memWf_setHingeData h4))

theorem memWf_execHingeDonate {st : ℕ} {s : State} (h : s.memWf = true) :
    OutOk (execHingeDonate st s) :=
  memWf_hingeCmd h (fun _ _ _ h4 => memWf_ite (memWf_hingeEnd h4) (memWf_ite (memWf_hingeEnd h4)
    (memWf_ite (memWf_hingeEnd h4) (memWf_ite (memWf_hingeEnd (memWf_later (memWf_setHub (memWf_markUse h4))))
    (memWf_hingeEnd (memWf_setHub (memWf_markUse h4)))))))

theorem memWf_dropSline {s : State} {line : ℕ} (h : s.memWf = true) :
    (dropSline s line).memWf = true :=
  memWf_mk (memWf_dropLines _ _ h)

theorem memWf_poolFell {s : State} {st : ℕ} (h : s.memWf = true) :
    (poolFell s st).memWf = true :=
  memWf_ite (memWf_signal (memWf_setHub h)) h

theorem memWf_firstTouch {s : State} {ctx la : ℕ} (h : s.memWf = true) :
    Finds (fun x => x.memWf = true) (firstTouch s ctx la) := by
  unfold firstTouch
  dsimp only
  split
  · exact Finds.none
  · exact Finds.some (memWf_poolFell (memWf_mk (memWf_setHub h)))

theorem memWf_writeBackLine {s : State} {line : ℕ} (h : s.memWf = true) :
    (writeBackLine s line).memWf = true := by
  unfold writeBackLine
  split
  · exact h
  · split
    · exact memWf_dropSline (memWf_ite h (memWf_touchCount _ _ h))
    · dsimp only
      split
      · split
        · exact h
        · split
          · exact memWf_dropSline (memWf_flushBytes _ _ _ h)
          · split
            · exact memWf_postRecs (memWf_dropSline h)
            · split
              · rename_i e17
                exact memWf_dropSline (memWf_flushBytes _ _ _ ((memWf_firstTouch h) _ e17))
              · exact memWf_ite h (memWf_signal (memWf_postRecs (memWf_mk h)))
      · split
        · exact memWf_touchCount _ _ h
        · split
          · exact memWf_dropSline (memWf_flushBytes _ _ _ (memWf_touchCount _ _ h))
          · split
            · exact memWf_postRecs (memWf_dropSline (memWf_touchCount _ _ h))
            · split
              · rename_i e29
                exact memWf_dropSline (memWf_flushBytes _ _ _ ((memWf_firstTouch (memWf_touchCount _ _ h)) _ e29))
              · exact memWf_ite (memWf_touchCount _ _ h) (memWf_signal (memWf_postRecs (memWf_mk (memWf_touchCount _ _ h))))

theorem memWf_flushGranule {s : State} {g : ℕ} (h : s.memWf = true) :
    (flushGranule s g).memWf = true :=
  memWf_foldl (memWf_foldl h (fun _ _ h3 => memWf_retireCell _ _ h3)) (fun _ ⟨_, _⟩ h7 => memWf_writeBackLine h7)

theorem memWf_execHingeSetaff {st : ℕ} {s : State} (h : s.memWf = true) :
    OutOk (execHingeSetaff st s) :=
  memWf_hingeCmd h (fun _ _ _ h4 => memWf_ite (memWf_hingeEnd h4) (memWf_ite (memWf_flushGranule h4)
    (memWf_hingeEnd (memWf_mk (memWf_dropFrameEntries (memWf_flushGranule h4))))))

theorem memWf_execHingeGetaff {st : ℕ} {s : State} (h : s.memWf = true) :
    OutOk (execHingeGetaff st s) :=
  memWf_hingeCmd h (fun _ _ _ h4 => memWf_hingeEnd (memWf_setHingeData h4))

theorem memWf_execHingeCmdComplete {st : ℕ} {s : State} (h : s.memWf = true) :
    OutOk (execHingeCmdComplete st s) := by
  unfold execHingeCmdComplete
  split
  · exact OutOk.next h
  · exact OutOk.next (memWf_setHub h)

theorem memWf_setQ {s : State} {q : ℕ} {f : Queue → Queue} (h : s.memWf = true) :
    (setQ s q f).memWf = true :=
  memWf_mk h

theorem memWf_putBack {s : State} {q : ℕ} (h : s.memWf = true) :
    (putBack s q).memWf = true :=
  memWf_mk (memWf_setQ h)

theorem memWf_activate {s : State} {q : ℕ} (h : s.memWf = true) :
    (activate s q).memWf = true := by
  unfold activate
  split
  · exact h
  · split
    · exact h
    · split
      · dsimp only
        exact memWf_setQ (memWf_newId h)
      · split
        · dsimp only
          exact memWf_setQ (memWf_newId (memWf_putBack (memWf_setQ h)))
        · exact h

theorem memWf_queueError {s : State} {q code idx : ℕ} (h : s.memWf = true) :
    (queueError s q code idx).memWf = true := by
  unfold queueError
  split
  · exact h
  · exact memWf_later (memWf_signal (memWf_postRecs (memWf_clearXfaults (memWf_setQ (memWf_putBack (memWf_setQ h))))))

theorem memWf_takeTail {s : State} {q v : ℕ} (h : s.memWf = true) :
    (takeTail s q v).memWf = true := by
  unfold takeTail
  split
  · exact h
  · exact memWf_ite (memWf_later (memWf_activate (memWf_setQ (memWf_setQ h)))) (memWf_queueError (memWf_setQ h))

theorem memWf_execQmQtableWrite {s : State} (h : s.memWf = true) :
    OutOk (execQmQtableWrite s) :=
  OutOk.next (memWf_later (memWf_ite (memWf_foldl (memWf_mk h) (fun _ ⟨_, _⟩ h4 => memWf_takeTail h4)) (memWf_mk h)))

theorem memWf_execQueueLoad {s : State} (h : s.memWf = true) :
    OutOk (execQueueLoad s) := by
  unfold execQueueLoad
  dsimp only
  split
  · exact OutOk.next (memWf_qctlEnd h)
  · split
    · exact OutOk.next (memWf_qctlEnd h)
    · exact OutOk.next (memWf_qctlEnd (memWf_mk h))

theorem memWf_execQueueDisable {s : State} (h : s.memWf = true) :
    OutOk (execQueueDisable s) :=
  OutOk.next (memWf_qctlEnd (memWf_putBack (memWf_setQ h)))

theorem memWf_execQueueReset {s : State} (h : s.memWf = true) :
    OutOk (execQueueReset s) := by
  unfold execQueueReset
  split
  · split
    · exact OutOk.next (memWf_qctlEnd (memWf_setQ (memWf_putBack h)))
    · exact OutOk.next (memWf_qctlEnd h)
  · exact OutOk.next (memWf_qctlEnd h)

theorem memWf_engAsk {s : State} {eng ctx key : ℕ} {pages : List (ℕ × ℕ)} (h : s.memWf = true) :
    (engAsk s eng ctx key pages).memWf = true :=
  memWf_laterAll h

theorem memWf_writeProgress {s : State} {q : ℕ} (h : s.memWf = true) :
    (writeProgress s q).memWf = true := by
  unfold writeProgress
  split
  · exact h
  · split
    · exact h
    · split
      · exact memWf_engWrite (memWf_setQ h)
      · exact memWf_engAsk h
      · exact h
      · exact memWf_clearXfaults (memWf_setQ h)

theorem memWf_execQctlComplete {s : State} (h : s.memWf = true) :
    OutOk (execQctlComplete s) := by
  unfold execQctlComplete
  split
  · exact OutOk.next h
  · split
    · dsimp only
      split
      · split
        · split
          · exact OutOk.next h
          · exact OutOk.next (memWf_setQctl (memWf_setQ h))
        · exact OutOk.next (memWf_setQctl h)
      · exact OutOk.next (memWf_setQctl h)
    · dsimp only
      split
      · split
        · split
          · exact OutOk.next h
          · exact OutOk.next (memWf_later (memWf_writeProgress (memWf_setQctl (memWf_setQ h))))
        · exact OutOk.next (memWf_setQctl h)
      · exact OutOk.next (memWf_setQctl h)

theorem memWf_execQueueTail {q : ℕ} {v : BitVec 64} {s : State} (h : s.memWf = true) :
    OutOk (execQueueTail q v s) := by
  unfold execQueueTail
  split
  · exact OutOk.next h
  · split
    · exact OutOk.next h
    · split
      · exact OutOk.next (memWf_setQ h)
      · exact OutOk.next (memWf_takeTail h)

end Sys2Proof.Machine
end

section
/-! The canonical form of memory (log 3): queue commands, contexts and kills. -/
namespace Sys2Proof.Machine

theorem memWf_activeSwitch {s : State} (h : s.memWf = true) :
    (activeSwitch s).memWf = true :=
  memWf_foldl h (fun _ ⟨_, _⟩ h4 => memWf_activate h4)

theorem memWf_engBytes {eng ctx key va n : ℕ} {s : State} (h : s.memWf = true) : (engBytes eng ctx key va n s).2.memWf = true :=
    by
  unfold engBytes
  split
  · exact memWf_engRead h
  · exact h
  · exact h

theorem memWf_runCmd {s : State} {q idx : ℕ} {e : Instr} (h : s.memWf = true) :
    (runCmd s q idx e).memWf = true :=
  memWf_mk h

theorem memWf_startCmd {s : State} {q : ℕ} {x : Queue} {b : List (BitVec 8)} (h : s.memWf = true) :
    (startCmd s q x b).memWf = true := by
  unfold startCmd
  split
  · exact memWf_queueError h
  · dsimp only
    exact memWf_runCmd (memWf_later (memWf_setQ (memWf_newId h)))

theorem memWf_startFirst {x : List ℕ} {x1 : State} (h : x1.memWf = true) :
    (startFirst x x1).memWf = true := by
  fun_induction startFirst
  · exact h
  · rename_i e6
    exact e6 h
  · rename_i e13
    exact e13 h
  · rename_i e22 _
    exact memWf_startCmd (memWf_snd e22 (memWf_engBytes h))
  · rename_i e32 _ e34
    exact e34 (memWf_snd e32 (memWf_engBytes h))
  · rename_i e43 e44
    exact e44 (memWf_engAsk (memWf_snd e43 (memWf_engBytes h)))
  · rename_i e55 e56
    exact e56 (memWf_queueError (memWf_snd e55 (memWf_engBytes h)))
  · rename_i e66 e67
    exact e67 (memWf_queueError (memWf_snd e66 (memWf_engBytes h)))
  · rename_i e79 e80
    exact e80 (memWf_snd e79 (memWf_engBytes h))

theorem memWf_execCommandStart {s : State} (h : s.memWf = true) :
    OutOk (execCommandStart s) := by
  unfold execCommandStart
  split
  · exact OutOk.next h
  · exact OutOk.next (memWf_startFirst (memWf_activeSwitch h))

theorem memWf_curCmd {s : State} (h : s.memWf = true) :
    Finds (fun x => x.1.memWf = true) (curCmd s) := by
  unfold curCmd
  split
  · exact Finds.none
  · split
    · split
      · exact Finds.none
      · exact Finds.some (memWf_mk h)
    · exact Finds.none

theorem memWf_skipCmd {s : State} (h : s.memWf = true) :
    (skipCmd s).memWf = true :=
  memWf_mk h

theorem memWf_runQueueCmd {s : State} {body : State → ℕ → ℕ → Queue → Cmd → State} (h : s.memWf = true)
    (hbody : ∀ (a : State) (a_1 a_2 : ℕ) (a_3 : Queue) (a_4 : Cmd), a.memWf = true → (body a a_1 a_2 a_3 a_4).memWf = true) :
    OutOk (runQueueCmd s body) := by
  unfold runQueueCmd
  split
  · exact OutOk.next (memWf_skipCmd h)
  · rename_i e9
    exact OutOk.next (hbody _ _ _ _ _ ((memWf_curCmd h) _ e9))

theorem memWf_readImage {ε : Type} {rd : ℕ → ℕ → Reads ε (List (BitVec 8))} {va : ℕ} {s : State} (h : s.memWf = true)
    (hrd : ∀ va n s, s.memWf = true → (rd va n s).2.memWf = true) : (readImage rd va s).2.memWf = true := by
  refine Reading.bind (hrd _ _) (fun head => ?_) s h
  split
  · exact .pure
  · exact Reading.bind (hrd _ _) fun _ => Reading.bind (hrd _ _) fun _ => Reading.bind (hrd _ _) fun _ =>
      Reading.bind (hrd _ _) fun _ => Reading.ite .pure .pure

theorem memWf_cmdStop {s : State} {q idx : ℕ} {x : Queue} {x1 : EngRes} (h : s.memWf = true) :
    (cmdStop s q idx x x1).memWf = true := by
  unfold cmdStop
  split
  · exact memWf_engAsk h
  · exact memWf_queueError h
  · exact memWf_queueError h
  · exact h

theorem memWf_setCmdOf {s : State} {q idx : ℕ} {f : Cmd → Cmd} (h : s.memWf = true) :
    (setCmdOf s q idx f).memWf = true :=
  memWf_setQ h

theorem memWf_beginCmd {s : State} {q idx : ℕ} (h : s.memWf = true) :
    (beginCmd s q idx).memWf = true :=
  memWf_later (memWf_setCmdOf h)

theorem memWf_zeroPad {s : State} {core base n : ℕ} (h : s.memWf = true) :
    (zeroPad s core base n).memWf = true :=
  memWf_mk h

theorem memWf_startGroups {c : Ctx} {lk : ℕ} {l : Launch} {tk : ℕ} {t : Team} {init : ℕ → Group → Group} {x x1 : ℕ} {x2 : State}
    (h : x2.memWf = true) :
    (startGroups c lk l tk t init x x1 x2).memWf = true := by
  fun_induction startGroups
  · exact h
  · rename_i e9 _ _ _ e13
    exact e13 (memWf_mk (memWf_fst e9 (memWf_newId h)))

theorem memWf_claimCore {s : State} {c : Ctx} {harvest : Bool} {core : ℕ} (h : s.memWf = true) :
    (claimCore s c harvest core).memWf = true :=
  memWf_ite (memWf_later h) h

theorem memWf_startTeam {s : State} {lk : ℕ} {l : Launch} {tid core : ℕ} {init : ℕ → Group → Group} (h : s.memWf = true) :
    (startTeam s lk l tid core init).memWf = true := by
  unfold startTeam
  split
  · exact h
  · dsimp only
    split
    · exact memWf_claimCore (memWf_claimCore (memWf_startGroups (memWf_mk (memWf_zeroPad (memWf_zeroPad (memWf_newId h))))))
    · exact memWf_claimCore (memWf_startGroups (memWf_mk (memWf_zeroPad (memWf_newId h))))

theorem memWf_emptied {s : State} (h : s.memWf = true) :
    (emptied s).memWf = true :=
  memWf_mk h

theorem memWf_execQueueLaunch {s : State} (h : s.memWf = true) :
    OutOk (execQueueLaunch s) := by
  unfold execQueueLaunch
  refine memWf_runQueueCmd h ?_
  intro t1 x2 x3 x4 x5 h6
  split
  · exact h6
  · split
    · rename_i e13
      exact memWf_cmdStop (memWf_snd e13 (memWf_readImage h6 (fun _ _ _ h17 => memWf_engBytes h17)))
    · rename_i e23 _
      exact memWf_queueError (memWf_snd e23 (memWf_readImage h6 (fun _ _ _ h28 => memWf_engBytes h28)))
    · rename_i e32 _
      exact memWf_queueError (memWf_snd e32 (memWf_readImage h6 (fun _ _ _ h37 => memWf_engBytes h37)))
    · rename_i e43 _
      split
      · rename_i e48
        split
        · dsimp only
          split
          · exact memWf_queueError (memWf_snd e43 (memWf_readImage h6 (fun _ _ _ h54 => memWf_engBytes h54)))
          · split
            · exact memWf_queueError (memWf_snd e43 (memWf_readImage h6 (fun _ _ _ h60 => memWf_engBytes h60)))
            · split
              · exact memWf_wakePlacement (memWf_beginCmd (memWf_mk
                  (memWf_clearXfaults (memWf_fst e48 (memWf_newId (memWf_snd e43
                  (memWf_readImage h6 (fun _ _ _ h68 => memWf_engBytes h68))))))))
              · exact memWf_queueError (memWf_clearXfaults (memWf_fst e48
                  (memWf_newId (memWf_snd e43 (memWf_readImage h6 (fun _ _ _ h74 => memWf_engBytes h74))))))
        · exact memWf_ite (memWf_queueError (memWf_snd e43 (memWf_readImage h6 (fun _ _ _ h79 => memWf_engBytes h79))))
            (memWf_ite (memWf_queueError (memWf_snd e43 (memWf_readImage h6 (fun _ _ _ h83 => memWf_engBytes h83))))
            (memWf_wakePlacement (memWf_beginCmd (memWf_mk (memWf_clearXfaults
            (memWf_fst e48 (memWf_newId (memWf_snd e43 (memWf_readImage h6 (fun _ _ _ h87 => memWf_engBytes h87))))))))))

theorem memWf_cmdDone {s : State} {q idx : ℕ} (h : s.memWf = true) :
    (cmdDone s q idx).memWf = true :=
  memWf_later (memWf_clearXfaults (memWf_setCmdOf h))

theorem memWf_refuseDraw {s : State} {q i : ℕ} {x : Queue} {c : Cmd} {cls det addr : ℕ} (h : s.memWf = true) :
    (refuseDraw s q i x c cls det addr).memWf = true :=
  memWf_cmdDone (memWf_postRecs h)

theorem memWf_readDraw {ε : Type} {s t : State} {ctx : ℕ} {b : List (BitVec 8)} {rd : ℕ → ℕ → Reads ε (List (BitVec 8))}
    (h : t.memWf = true) (hrd : ∀ va n s, s.memWf = true → (rd va n s).2.memWf = true) : (readDraw s ctx b rd t).2.memWf = true
      := by
  have image (va : ℕ) : Reading (readImage rd va) := fun _ hs => memWf_readImage hs hrd
  have draws : Reading (readDraw s ctx b rd) := by
    unfold readDraw
    dsimp only
    split
    · exact .pure
    · refine Reading.bind (hrd _ _) fun targets => ?_
      split
      · exact .pure
      · refine Reading.ite .pure (Reading.bind (image _) fun vertex => ?_)
        split
        · exact .pure
        · refine Reading.bind (image _) fun fragment => ?_
          split
          · exact .pure
          · exact .pure
  exact draws t h

theorem memWf_addDraw {s : State} {ctx : ℕ} {queue : Option (ℕ × ℕ)} {desc : List (BitVec 8)} {addr : ℕ}
    {ts : List (ℕ × Option ℕ)} {vi fi : Image} {cloc : Option Loc} {gkey team pc : ℕ} (h : s.memWf = true) :
    (addDraw s ctx queue desc addr ts vi fi cloc gkey team pc).1.memWf = true := by
  unfold addDraw
  dsimp only
  exact memWf_mk (memWf_newId h)

theorem memWf_execQueueDraw {s : State} (h : s.memWf = true) :
    OutOk (execQueueDraw s) := by
  unfold execQueueDraw
  refine memWf_runQueueCmd h ?_
  intro t1 x2 x3 x4 x5 h6
  split
  · exact h6
  · split
    · rename_i e12
      dsimp only
      split
      · exact memWf_refuseDraw (memWf_snd e12 (memWf_engBytes h6))
      · exact memWf_refuseDraw (memWf_snd e12 (memWf_engBytes h6))
      · exact memWf_cmdStop (memWf_snd e12 (memWf_engBytes h6))
    · rename_i e26
      split
      · rename_i e30
        dsimp only
        split
        · exact memWf_refuseDraw (memWf_snd e30 (memWf_readDraw (memWf_snd e26 (memWf_engBytes h6))
            (fun _ _ _ h38 => memWf_engBytes h38)))
        · exact memWf_refuseDraw (memWf_snd e30 (memWf_readDraw (memWf_snd e26 (memWf_engBytes h6))
            (fun _ _ _ h45 => memWf_engBytes h45)))
        · exact memWf_cmdStop (memWf_snd e30 (memWf_readDraw (memWf_snd e26 (memWf_engBytes h6))
            (fun _ _ _ h52 => memWf_engBytes h52)))
      · rename_i e56
        exact memWf_refuseDraw (memWf_snd e56 (memWf_readDraw (memWf_snd e26 (memWf_engBytes h6))
          (fun _ _ _ h60 => memWf_engBytes h60)))
      · rename_i e66
        split
        · exact memWf_refuseDraw (memWf_snd e66 (memWf_readDraw (memWf_snd e26 (memWf_engBytes h6))
            (fun _ _ _ h71 => memWf_engBytes h71)))
        · dsimp only
          exact memWf_later (memWf_clearXfaults (memWf_addDraw (memWf_snd e66
            (memWf_readDraw (memWf_snd e26 (memWf_engBytes h6)) (fun _ _ _ h76 => memWf_engBytes h76)))))

theorem memWf_setCmd {s : State} {id : ℕ} {f : EngCmd → EngCmd} (h : s.memWf = true) :
    (setCmd s id f).memWf = true :=
  memWf_mk h

theorem memWf_meetFault {s : State} {m : EngCmd} {cls detail addr : ℕ} (h : s.memWf = true) :
    (meetFault s m cls detail addr).memWf = true :=
  memWf_later (memWf_setCmd h)

theorem memWf_hostDesc {s : State} {m : EngCmd} (h : s.memWf = true) :
    (hostDesc s m).memWf = true := by
  unfold hostDesc
  split
  · exact memWf_engAsk h
  · exact h
  · exact memWf_meetFault h
  · exact memWf_meetFault h
  · dsimp only
    split
    · exact memWf_meetFault (memWf_engRead h)
    · split
      · exact memWf_meetFault (memWf_engRead h)
      · split
        · exact memWf_meetFault (memWf_engRead h)
        · exact memWf_meetFault (memWf_engRead h)
        · exact memWf_later (memWf_setCmd (memWf_engRead h))

theorem memWf_execQueueCopy {s : State} (h : s.memWf = true) :
    OutOk (execQueueCopy s) := by
  unfold execQueueCopy
  refine memWf_runQueueCmd h ?_
  intro t1 x2 x3 x4 x5 h6
  split
  · exact h6
  · split
    · exact h6
    · dsimp only
      exact memWf_beginCmd (memWf_hostDesc (memWf_mk (memWf_newId (memWf_fqTake h6))))

theorem memWf_execQueueSignal {s : State} (h : s.memWf = true) :
    OutOk (execQueueSignal s) := by
  unfold execQueueSignal
  refine memWf_runQueueCmd h ?_
  intro t1 x2 x3 x4 x5 h6
  split
  · exact memWf_cmdDone (memWf_engWrite h6)
  · exact memWf_cmdStop h6

theorem memWf_lookWait {s : State} {q i : ℕ} {x : Queue} {c : Cmd} (h : s.memWf = true) :
    (lookWait s q i x c).memWf = true := by
  unfold lookWait
  split
  · dsimp only
    split
    · exact memWf_queueError (memWf_engRead h)
    · exact memWf_ite (memWf_cmdDone (memWf_engRead h)) (memWf_engRead h)
  · exact memWf_cmdStop h

theorem memWf_execQueueWait {s : State} (h : s.memWf = true) :
    OutOk (execQueueWait s) :=
  memWf_runQueueCmd h (fun _ _ _ _ _ h6 => memWf_lookWait h6)

theorem memWf_execWaitComplete {q : ℕ} {s : State} (h : s.memWf = true) :
    OutOk (execWaitComplete q s) := by
  unfold execWaitComplete
  split
  · exact OutOk.next h
  · split
    · exact OutOk.next (memWf_lookWait h)
    · exact OutOk.next h

theorem memWf_atTime {s : State} {t : ℕ} (h : s.memWf = true) :
    (atTime s t).memWf = true :=
  memWf_mk h

theorem memWf_execWaitTimeout {q t : ℕ} {s : State} (h : s.memWf = true) :
    OutOk (execWaitTimeout q t s) := by
  unfold execWaitTimeout
  dsimp only
  split
  · exact OutOk.next (memWf_atTime h)
  · split
    · split
      · exact OutOk.next (memWf_queueError (memWf_atTime h))
      · exact OutOk.next (memWf_atTime h)
    · exact OutOk.next (memWf_atTime h)

theorem memWf_execQueueFence {s : State} (h : s.memWf = true) :
    OutOk (execQueueFence s) :=
  memWf_runQueueCmd h (fun _ _ _ _ _ h6 => memWf_cmdDone h6)

theorem memWf_execQueueTimestamp {s : State} (h : s.memWf = true) :
    OutOk (execQueueTimestamp s) := by
  unfold execQueueTimestamp
  refine memWf_runQueueCmd h ?_
  intro t1 x2 x3 x4 x5 h6
  split
  · exact memWf_cmdDone (memWf_engWrite h6)
  · exact memWf_cmdStop h6

theorem memWf_dropHandle {s : State} {h : ℕ} (hs : s.memWf = true) :
    (dropHandle s h).memWf = true :=
  memWf_mk hs

theorem memWf_spillBad {h : ℕ} {f : Surf} {s : State} {n : ℕ} {bs : List (BitVec 8)} (hs : s.memWf = true) :
    (spillBad h f s n bs).memWf = true :=
  memWf_setBlockState (memWf_poisonPlaces _ _ (memWf_setLogBytes _ _ _ _
    (memWf_foldl (memWf_sectorRec _ _ _ _ hs) (fun _ _ h3 => memWf_setPoison _ _ _ h3))))

theorem memWf_spillBlock {h : ℕ} {f : Surf} {s : State} {n : ℕ} (hs : s.memWf = true) :
    (spillBlock h f s n).memWf = true := by
  unfold spillBlock
  split
  · exact hs
  · exact hs
  · exact memWf_ite (memWf_spillBad hs) (memWf_ite (memWf_setBlockState (memWf_setLogBytes _ _ _ _ hs))
      (memWf_setBlockState (memWf_setLogBytes _ _ _ _ hs)))
  · exact memWf_ite (memWf_spillBad hs) (memWf_setBlockState (memWf_setLogBytes _ _ _ _ hs))

theorem memWf_chargeTile {s : State} {h : ℕ} {f : ℕ → ℕ} (hs : s.memWf = true) :
    (chargeTile s h f).memWf = true :=
  memWf_mk hs

theorem memWf_evictTile {s : State} {e : TSlot} (h : s.memWf = true) :
    (evictTile s e).memWf = true := by
  unfold evictTile
  split
  · exact memWf_mk (memWf_setLogBytes _ _ _ _ (memWf_chargeTile (memWf_mk (memWf_foldl h (fun _ _ h6 => memWf_spillBlock h6)))))
  · exact h

theorem memWf_fitQuota {held : List (ℕ × ℕ)} {ctx quota need x : ℕ} {x1 : State} (h : x1.memWf = true) :
    (fitQuota held ctx quota need x x1).1.memWf = true := by
  fun_induction fitQuota
  · exact h
  · exact h
  · rename_i e10
    exact e10 (memWf_evictTile h)
  · exact h

theorem memWf_fitSlot {held : List (ℕ × ℕ)} {stack grp k x : ℕ} {x1 : State} (h : x1.memWf = true) :
    (fitSlot held stack grp k x x1).1.memWf = true := by
  fun_induction fitSlot
  · exact h
  · exact h
  · rename_i e11
    exact e11 (memWf_evictTile h)
  · exact h

theorem memWf_placeTile {s : State} {h t : ℕ} {held : optParam (List (ℕ × ℕ)) []} (hs : s.memWf = true) :
    (placeTile s h t held).1.memWf = true := by
  unfold placeTile
  split
  · exact hs
  · split
    · exact hs
    · dsimp only
      split
      · rename_i e10
        exact memWf_fst e10 (memWf_fitQuota hs)
      · rename_i e13
        split
        · rename_i e16
          exact memWf_fst e16 (memWf_fitSlot (memWf_fst e13 (memWf_fitQuota hs)))
        · rename_i e20
          exact memWf_chargeTile (memWf_mk (memWf_fst e20 (memWf_fitSlot (memWf_fst e13 (memWf_fitQuota hs)))))

theorem memWf_placeAll {h x x1 : ℕ} {x2 : State} (hs : x2.memWf = true) :
    (placeAll h x x1 x2).1.memWf = true := by
  fun_induction placeAll
  · exact hs
  · rename_i e7 e8
    exact e8 (memWf_fst e7 (memWf_placeTile hs))
  · exact memWf_placeTile hs

theorem memWf_allocSurf {s : State} {ctx : ℕ} {t : List (BitVec 8)} (h : s.memWf = true) :
    (allocSurf s ctx t).1.memWf = true := by
  unfold allocSurf
  split
  · exact h
  · split
    · dsimp only
      split
      · exact h
      · split
        · rename_i e16
          exact memWf_mk (memWf_fst e16 (memWf_fitQuota (memWf_mk (memWf_dropHandle h))))
        · rename_i e19
          split
          · rename_i e22
            exact memWf_reportSurf (memWf_setLogBytes _ _ _ _ (memWf_mk
              (memWf_fst e22 (memWf_placeAll (memWf_fst e19 (memWf_fitQuota (memWf_mk (memWf_dropHandle h))))))))
          · rename_i e27
            exact memWf_mk (memWf_fst e27 (memWf_placeAll (memWf_fst e19 (memWf_fitQuota (memWf_mk (memWf_dropHandle h))))))
    · dsimp only
      split
      · exact h
      · split
        · rename_i e37
          exact memWf_mk (memWf_fst e37 (memWf_fitQuota (memWf_mk (memWf_dropHandle h))))
        · rename_i e40
          split
          · rename_i e43
            exact memWf_reportSurf (memWf_setLogBytes _ _ _ _ (memWf_mk
              (memWf_fst e43 (memWf_placeAll (memWf_fst e40 (memWf_fitQuota (memWf_mk (memWf_dropHandle h))))))))
          · rename_i e48
            exact memWf_mk (memWf_fst e48 (memWf_placeAll (memWf_fst e40 (memWf_fitQuota (memWf_mk (memWf_dropHandle h))))))

theorem memWf_execQueueSalloc {s : State} (h : s.memWf = true) :
    OutOk (execQueueSalloc s) := by
  unfold execQueueSalloc
  refine memWf_runQueueCmd h ?_
  intro t1 x2 x3 x4 x5 h6
  split
  · rename_i e10
    exact memWf_cmdStop (memWf_snd e10 (memWf_engBytes h6))
  · rename_i e14
    split
    · split
      · exact memWf_cmdDone (memWf_postRecs (memWf_snd e14 (memWf_engBytes h6)))
      · split
        · exact memWf_cmdDone (memWf_postRecs (memWf_snd e14 (memWf_engBytes h6)))
        · dsimp only
          exact memWf_cmdDone (memWf_engWrite (memWf_allocSurf (memWf_snd e14 (memWf_engBytes h6))))
    · exact memWf_cmdStop (memWf_snd e14 (memWf_engBytes h6))

theorem memWf_freeSurf {s : State} {h : ℕ} (hs : s.memWf = true) :
    (freeSurf s h).memWf = true :=
  memWf_mk (memWf_dropHandle hs)

theorem memWf_execQueueSfree {s : State} (h : s.memWf = true) :
    OutOk (execQueueSfree s) := by
  unfold execQueueSfree
  refine memWf_runQueueCmd h ?_
  intro t1 x2 x3 x4 x5 h6
  split
  · exact memWf_queueError h6
  · exact memWf_ite (memWf_queueError h6) (memWf_ite h6 (memWf_cmdDone (memWf_freeSurf h6)))

theorem memWf_execQueueResync {s : State} (h : s.memWf = true) :
    OutOk (execQueueResync s) := by
  unfold execQueueResync
  refine memWf_runQueueCmd h ?_
  intro t1 x2 x3 x4 x5 h6
  split
  · exact memWf_cmdDone (memWf_writeHome (memWf_writeHome h6))
  · exact memWf_cmdStop h6

theorem memWf_execCommandComplete {q idx : ℕ} {s : State} (h : s.memWf = true) :
    OutOk (execCommandComplete q idx s) := by
  unfold execCommandComplete
  split
  · exact OutOk.next h
  · refine OutOk.next ?_
    refine memWf_laterAll ?_
    refine memWf_writeProgress ?_
    split
    · exact memWf_ite (memWf_signal (memWf_setQ (memWf_setQ h))) (memWf_setQ (memWf_setQ h))
    · exact h

theorem memWf_execHbCtxtabWrite {s : State} (h : s.memWf = true) :
    OutOk (execHbCtxtabWrite s) :=
  OutOk.next (memWf_ite (memWf_mk h) h)

theorem memWf_setCtxCtl {s : State} {busy : Bool} {status : ℕ} (h : s.memWf = true) :
    (setCtxCtl s busy status).memWf = true :=
  memWf_mk h

theorem memWf_ctxEnd {s : State} {status : ℕ} (h : s.memWf = true) :
    OutOk (ctxEnd s status) :=
  OutOk.next (memWf_setCtxCtl h)

theorem memWf_execCtxBind {s : State} (h : s.memWf = true) :
    OutOk (execCtxBind s) := by
  unfold execCtxBind
  dsimp only
  split
  · exact memWf_ctxEnd h
  · split
    · exact memWf_ctxEnd h
    · split
      · exact memWf_ctxEnd h
      · exact memWf_ctxEnd (memWf_mk h)

theorem memWf_dropCtx {s : State} {n : ℕ} {c : Ctx} (h : s.memWf = true) :
    (dropCtx s n c).memWf = true :=
  memWf_mk (memWf_foldl h (fun _ _ h3 => memWf_retireCell _ _ h3))

theorem memWf_execCtxUnbind {s : State} (h : s.memWf = true) :
    OutOk (execCtxUnbind s) := by
  unfold execCtxUnbind
  dsimp only
  split
  · exact memWf_ctxEnd h
  · split
    · exact memWf_ctxEnd h
    · exact memWf_ctxEnd (memWf_dropCtx h)

theorem memWf_freeCmd {s : State} {m : EngCmd} (h : s.memWf = true) :
    (freeCmd s m).memWf = true := by
  unfold freeCmd
  split
  · dsimp only
    split
    · exact memWf_later (memWf_fqLeave (memWf_clearXfaults (memWf_mk h)))
    · exact memWf_fqLeave (memWf_clearXfaults (memWf_mk h))
  · dsimp only
    split
    · exact memWf_later (memWf_fqLeave (memWf_clearXfaults (memWf_mk h)))
    · exact memWf_fqLeave (memWf_clearXfaults (memWf_mk h))

theorem memWf_dropCmdsOf {s : State} {p : EngCmd → Bool} (h : s.memWf = true) :
    (dropCmdsOf s p).memWf = true :=
  memWf_foldl h (fun _ _ h3 => memWf_freeCmd h3)

theorem memWf_dropHostCmds {s : State} {cid : ℕ} (h : s.memWf = true) :
    (dropHostCmds s cid).memWf = true := by
  unfold dropHostCmds
  refine memWf_foldl h ?_
  intro t1 x2 h3
  split
  · exact memWf_later (memWf_freeCmd h3)
  · exact h3

theorem memWf_endDraw {s : State} {d : Draw} (h : s.memWf = true) :
    (endDraw s d).memWf = true := by
  unfold endDraw
  refine memWf_later ?_
  refine memWf_clearXfaults ?_
  split
  · exact memWf_cmdDone (memWf_mk h)
  · exact memWf_mk h

theorem memWf_killDraw {s : State} {d : Draw} (h : s.memWf = true) :
    (killDraw s d).memWf = true :=
  memWf_ite (memWf_endDraw h) (memWf_laterAll (memWf_mk (memWf_mk h)))

theorem memWf_nullFragments {s : State} {g : Group} (h : s.memWf = true) :
    (nullFragments s g).memWf = true :=
  memWf_laterAll (memWf_mk h)

theorem memWf_drawGroupEnds {s : State} {g : Group} (h : s.memWf = true) :
    (drawGroupEnds s g).memWf = true := by
  unfold drawGroupEnds
  split
  · exact memWf_laterAll (memWf_mk h)
  · exact memWf_later (memWf_nullFragments (memWf_mk h))
  · exact h

theorem memWf_dropCmds {s : State} {key : ℕ} (h : s.memWf = true) :
    (dropCmds s key).memWf = true :=
  memWf_dropCmdsOf h

theorem memWf_putSlotState {s : State} {cid slot v : ℕ} {ls : List Loc} (h : s.memWf = true) :
    (putSlotState s cid slot v ls).memWf = true :=
  memWf_engWrite (memWf_clearXfaults h)

theorem memWf_freeSlotState {s : State} {x : ℕ × ℕ} (h : s.memWf = true) :
    (freeSlotState s x).memWf = true := by
  unfold freeSlotState
  split
  · exact memWf_mk (memWf_putSlotState h)
  · exact memWf_engAsk h
  · exact h
  · exact memWf_mk (memWf_clearXfaults h)

theorem memWf_dropSaved {s : State} {tk : ℕ} (h : s.memWf = true) :
    (dropSaved s tk).memWf = true :=
  memWf_foldl (memWf_endTeam (memWf_mk (memWf_foldl h (fun _ ⟨_, _⟩ h4 => memWf_drawGroupEnds (memWf_dropCmds h4)))))
    (fun _ ⟨_, _⟩ h8 => memWf_freeSlotState h8)

theorem memWf_killWhere {s : State} {p : Group → Bool} {q : Team → Bool} (h : s.memWf = true) :
    (killWhere s p q).memWf = true :=
  memWf_foldl (memWf_mk h) (fun _ ⟨_, _⟩ h4 => memWf_dropSaved h4)

theorem memWf_killLaunch {s : State} {lk : ℕ} (h : s.memWf = true) :
    (killLaunch s lk).memWf = true := by
  unfold killLaunch
  refine memWf_wakePlacement ?_
  refine memWf_checkLaunch ?_
  refine memWf_killWhere ?_
  split
  · exact memWf_killDraw (memWf_dropCmdsOf (memWf_mk h))
  · exact memWf_dropCmdsOf (memWf_mk h)

theorem memWf_killCtx {s : State} {cid : ℕ} (h : s.memWf = true) :
    (killCtx s cid).memWf = true :=
  memWf_killWhere (memWf_foldl (memWf_foldl (memWf_dropCmdsOf (memWf_dropHostCmds
    (memWf_foldl h (fun _ ⟨_, _⟩ h4 => memWf_setQ (memWf_putBack h4))))) (fun _ _ h7 => memWf_killDraw h7))
    (fun _ ⟨_, _⟩ h11 => memWf_killLaunch h11))

theorem memWf_execCtxKill {s : State} (h : s.memWf = true) :
    OutOk (execCtxKill s) := by
  unfold execCtxKill
  dsimp only
  split
  · exact memWf_ctxEnd h
  · exact OutOk.next (memWf_later (memWf_killCtx (memWf_mk h)))

theorem memWf_execCtxKillLaunch {s : State} (h : s.memWf = true) :
    OutOk (execCtxKillLaunch s) := by
  unfold execCtxKillLaunch
  split
  · exact memWf_ctxEnd h
  · exact memWf_ctxEnd (memWf_later (memWf_foldl (memWf_mk h) (fun _ ⟨x9, x10⟩ h11 => memWf_killLaunch h11)))

theorem memWf_execCtxResume {s : State} (h : s.memWf = true) :
    OutOk (execCtxResume s) := by
  unfold execCtxResume
  split
  · exact memWf_ctxEnd (memWf_mk h)
  · exact memWf_ctxEnd h

theorem memWf_finishOp {s : State} {key id : ℕ} {f : Option Rec} (h : s.memWf = true) :
    (finishOp s key id f).memWf = true :=
  memWf_mk h

theorem memWf_dropTileWords {s : State} {key : ℕ} (h : s.memWf = true) :
    (dropTileWords s key).memWf = true :=
  memWf_foldl (memWf_dropMatrix h) (fun _ _ h3 => memWf_finishOp (memWf_updG (memWf_updG h3)))

theorem memWf_rewindGroup {s : State} {key : ℕ} {g : Group} (h : s.memWf = true) :
    (rewindGroup s key g).memWf = true :=
  memWf_ite (memWf_flushGroup (memWf_updG h)) (memWf_dropTileWords h)

theorem memWf_rewindTeam {s : State} {team : ℕ} (h : s.memWf = true) :
    (rewindTeam s team).memWf = true :=
  memWf_foldl h (fun _ ⟨_, _⟩ h4 => memWf_rewindGroup h4)

theorem memWf_setTeam {s : State} {tk : ℕ} {f : Team → Team} (h : s.memWf = true) :
    (setTeam s tk f).memWf = true :=
  memWf_mk h

theorem memWf_revokeTeam {s : State} {tk : ℕ} (h : s.memWf = true) :
    (revokeTeam s tk).memWf = true := by
  unfold revokeTeam
  split
  · exact h
  · exact memWf_ite (memWf_ite (memWf_rewindTeam h) h) (memWf_setTeam (memWf_ite (memWf_rewindTeam h) h))

theorem memWf_withdrawQueue {s : State} {key : ℕ} (h : s.memWf = true) :
    (withdrawQueue s key).memWf = true := by
  unfold withdrawQueue
  refine memWf_dropQueueOps ?_
  refine memWf_foldl h ?_
  intro t1 x2 h3
  split
  · exact memWf_updG h3
  · exact h3

theorem memWf_endWait {s : State} {key : ℕ} {e : WaitA} (h : s.memWf = true) :
    (endWait s key e).memWf = true :=
  memWf_later (memWf_setPending (memWf_updG h))

theorem memWf_endWaits {s : State} {key : ℕ} (h : s.memWf = true) :
    (endWaits s key).memWf = true := by
  unfold endWaits
  split
  · exact memWf_foldl h (fun _ _ h6 => memWf_endWait h6)
  · exact h

theorem memWf_endTeamWaits {s : State} {tk : ℕ} (h : s.memWf = true) :
    (endTeamWaits s tk).memWf = true :=
  memWf_foldl h (fun _ ⟨_, _⟩ h4 => memWf_withdrawQueue (memWf_endWaits h4))

theorem memWf_parkTeam {s : State} {tk : ℕ} (h : s.memWf = true) :
    (parkTeam s tk).memWf = true :=
  memWf_revokeTeam (memWf_setTeam (memWf_endTeamWaits h))

theorem memWf_preemptTeam {s : State} {tk : ℕ} {drain : Bool} (h : s.memWf = true) :
    (preemptTeam s tk drain).memWf = true := by
  unfold preemptTeam
  split
  · exact h
  · split
    · exact h
    · exact memWf_ite h (memWf_ite (memWf_parkTeam h) (memWf_ite (memWf_setTeam h)
        (memWf_later (memWf_ite (memWf_setTeam (memWf_foldl (memWf_setTeam h) (fun _ ⟨x12, x13⟩ h14 => memWf_flushGroup h14)))
        (memWf_setTeam h)))))

theorem memWf_leaveCtx {s : State} {n : ℕ} (h : s.memWf = true) :
    (leaveCtx s n).memWf = true :=
  memWf_foldl (memWf_foldl (memWf_setCtx h) (fun _ ⟨_, _⟩ h4 => memWf_putBack (memWf_setQ h4)))
    (fun _ ⟨_, _⟩ h8 => memWf_ite (memWf_ite h8 (memWf_parkTeam h8)) (memWf_ite h8 (memWf_preemptTeam h8)))

theorem memWf_execCtxSwitchOut {s : State} (h : s.memWf = true) :
    OutOk (execCtxSwitchOut s) := by
  unfold execCtxSwitchOut
  split
  · exact OutOk.next h
  · dsimp only
    split
    · exact memWf_ctxEnd h
    · split
      · exact memWf_ctxEnd (memWf_setCtx (memWf_leaveCtx h))
      · exact OutOk.next (memWf_leaveCtx h)

theorem memWf_execCtxSwitchIn {s : State} (h : s.memWf = true) :
    OutOk (execCtxSwitchIn s) := by
  unfold execCtxSwitchIn
  dsimp only
  split
  · exact memWf_ctxEnd h
  · exact memWf_ctxEnd (memWf_laterAll (memWf_setCtx h))

theorem memWf_execCtxPreempt {s : State} (h : s.memWf = true) :
    OutOk (execCtxPreempt s) := by
  unfold execCtxPreempt
  dsimp only
  split
  · exact memWf_ctxEnd h
  · exact memWf_ctxEnd (memWf_preemptTeam h)

theorem memWf_finishKill {s : State} {k : ℕ × Option ℕ} (h : s.memWf = true) :
    (finishKill s k).memWf = true :=
  memWf_ite (memWf_setCtxCtl (memWf_foldl (memWf_postRecs (memWf_mk h)) (fun _ ⟨_, _⟩ h4 => memWf_checkLaunch h4)))
    (memWf_foldl (memWf_postRecs (memWf_mk h)) (fun _ ⟨_, _⟩ h8 => memWf_checkLaunch h8))

theorem memWf_execKillComplete {s : State} (h : s.memWf = true) :
    OutOk (execKillComplete s) :=
  OutOk.next (memWf_foldl h (fun _ ⟨_, _⟩ h4 => memWf_finishKill h4))

theorem memWf_execHostopResync {s : State} (h : s.memWf = true) :
    OutOk (execHostopResync s) :=
  OutOk.next (memWf_ite (memWf_ite (memWf_hostEnd h) (memWf_hostEnd (memWf_hostFill _ _ _ _ h))) h)

theorem memWf_execFwload {s : State} (h : s.memWf = true) :
    OutOk (execFwload s) := by
  unfold execFwload
  split
  · exact OutOk.next h
  · split
    · exact OutOk.next (memWf_hostEnd h)
    · split
      · dsimp only
        split
        · exact OutOk.next (memWf_hostEnd h)
        · exact OutOk.next (memWf_hostEnd h)
      · split
        · dsimp only
          split
          · exact OutOk.next (memWf_hostEnd h)
          · split
            · exact OutOk.next (memWf_hostEnd h)
            · exact OutOk.next (memWf_hostEnd (memWf_mk h))
        · dsimp only
          split
          · exact OutOk.next (memWf_hostEnd h)
          · split
            · exact OutOk.next (memWf_hostEnd h)
            · exact OutOk.next (memWf_hostEnd (memWf_mk h))

theorem memWf_execAttest {s : State} (h : s.memWf = true) :
    OutOk (execAttest s) := by
  unfold execAttest
  split
  · exact OutOk.next h
  · split
    · exact OutOk.next (memWf_hostEnd h)
    · split
      · exact OutOk.next (memWf_hostEnd h)
      · exact OutOk.next (memWf_hostEnd (memWf_foldl (memWf_foldl h (fun _ ⟨x8, x9⟩ h10 => memWf_setHostByte _ _ _ h10))
          (fun _ ⟨x12, x13⟩ h14 => memWf_setHostByte _ _ _ h14)))

theorem memWf_execHostopComplete {s : State} (h : s.memWf = true) :
    OutOk (execHostopComplete s) :=
  OutOk.next (memWf_ite (memWf_signal (memWf_setHostOp h)) h)

theorem memWf_execSfNbpDataWrite {s : State} (h : s.memWf = true) :
    OutOk (execSfNbpDataWrite s) := by
  unfold execSfNbpDataWrite
  split
  · exact OutOk.next h
  · exact OutOk.next (memWf_later (memWf_mk h))

theorem memWf_execBankProgramInstall {s : State} (h : s.memWf = true) :
    OutOk (execBankProgramInstall s) := by
  unfold execBankProgramInstall
  split
  · exact OutOk.next (memWf_mk h)
  · exact OutOk.next h

theorem memWf_dropDir {s : State} {key ctx : ℕ} (h : s.memWf = true) :
    (dropDir s key ctx).memWf = true :=
  memWf_mk h

theorem memWf_addDir {s : State} {n : ℕ} {t : Tile} (h : s.memWf = true) :
    (addDir s n t).memWf = true := by
  unfold addDir
  refine memWf_mk ?_
  split
  · exact memWf_dropDir h
  · split
    · exact memWf_dropDir (memWf_dropDir h)
    · exact memWf_dropDir h

theorem memWf_dropTile {s : State} {key ctx : ℕ} (h : s.memWf = true) :
    (dropTile s key ctx).memWf = true :=
  memWf_mk h

theorem memWf_storeRoom {q need x : ℕ} {x1 : State} (h : x1.memWf = true) :
    (storeRoom q need x x1).memWf = true := by
  fun_induction storeRoom
  · exact h
  · exact h
  · rename_i e11
    exact e11 (memWf_addDir (memWf_dropTile h))
  · exact h

theorem memWf_shrinkSlice {s : State} {slice : ℕ} (h : s.memWf = true) :
    (shrinkSlice s slice).memWf = true :=
  memWf_ite h (memWf_foldl h (fun _ _ h3 => memWf_giveUpLine _ _ h3))

theorem memWf_execFbKwStoreWrite {st q : ℕ} {w : BitVec 64} {s : State} (h : s.memWf = true) :
    OutOk (execFbKwStoreWrite st q w s) := by
  unfold execFbKwStoreWrite
  dsimp only
  split
  · exact OutOk.next h
  · exact OutOk.next (memWf_foldl (memWf_storeRoom (memWf_mk h)) (fun _ _ h5 => memWf_shrinkSlice h5))

theorem memWf_execFbCellAreaWrite {st : ℕ} {w : BitVec 64} {s : State} (h : s.memWf = true) :
    OutOk (execFbCellAreaWrite st w s) :=
  OutOk.next (memWf_ite h (memWf_mk h))

end Sys2Proof.Machine
end

section
/-! The canonical form of memory (log 3): translation, frames, moves and slice requests. -/
namespace Sys2Proof.Machine

theorem memWf_setPort {s : State} {p : ℕ} {v : BitVec 64} (h : s.memWf = true) :
    (setPort s p v).memWf = true :=
  memWf_mk h

theorem memWf_execHbIdWrite {s : State} (h : s.memWf = true) :
    OutOk (execHbIdWrite s) :=
  OutOk.next (memWf_foldl (memWf_mk h) (fun _ _ h3 => memWf_setPort h3))

theorem memWf_hubDrain {s : State} {st : ℕ} (h : s.memWf = true) :
    (hubDrain s st).memWf = true :=
  memWf_setHub h

theorem memWf_dropTouch {s : State} {eng ctx key va : ℕ} (h : s.memWf = true) :
    (dropTouch s eng ctx key va).1.memWf = true := by
  unfold dropTouch
  exact memWf_mk h

theorem memWf_wakeQueue {s : State} {q : ℕ} (h : s.memWf = true) :
    (wakeQueue s q).memWf = true := by
  unfold wakeQueue
  split
  · exact h
  · exact memWf_later (memWf_writeProgress (memWf_foldr h (fun _ _ h8 => memWf_runCmd h8)))

theorem memWf_wakeWork {s : State} {eng ctx key : ℕ} (h : s.memWf = true) : (wakeWork s eng ctx key).memWf = true := by
  unfold wakeWork
  refine memWf_ite h (memWf_ite (memWf_later h) (memWf_ite (memWf_later h) (memWf_ite (memWf_later h) (memWf_ite (memWf_later h)
    (memWf_ite (memWf_later h) (memWf_ite ?reader (memWf_ite (memWf_later h) (memWf_ite (memWf_later h)
      (memWf_ite ?records (memWf_ite h (memWf_ite (memWf_wakeQueue h) ?team)))))))))))
  case reader =>
    split
    · exact memWf_later h
    · exact h
  case records =>
    split
    · exact memWf_flushRecs h
    · exact h
  case team =>
    split
    · exact memWf_laterAll h
    · exact h

theorem memWf_prefetchLine {s : State} {eng ctx need la : ℕ} (h : s.memWf = true) :
    (prefetchLine s eng ctx need la).memWf = true :=
  memWf_ite (memWf_later h) (memWf_ite (memWf_later h) h)

theorem memWf_setBacked {s : State} {eng ctx la : ℕ} (h : s.memWf = true) :
    (setBacked s eng ctx la).memWf = true :=
  memWf_mk h

theorem memWf_waitHost {s : State} {eng key : ℕ} (h : s.memWf = true) :
    (waitHost s eng key).memWf = true :=
  memWf_ite (memWf_hostWait h) h

theorem memWf_touchDry {s : State} {t : Touch} {again : Bool} (h : s.memWf = true) :
    (touchDry s t again).memWf = true :=
  memWf_ite (memWf_setHub h) (memWf_waitHost (memWf_ite (memWf_updG (memWf_signal (memWf_postRecs (memWf_setHub h))))
    (memWf_signal (memWf_postRecs (memWf_setHub h)))))

theorem memWf_touchFrame {s : State} {eng ctx key va need : ℕ} (h : s.memWf = true) :
    (touchFrame s eng ctx key va need).memWf = true := by
  unfold touchFrame
  dsimp only
  split
  · exact memWf_wakeWork (memWf_dropTouch h)
  · split
    · exact memWf_wakeWork (memWf_ite (memWf_prefetchLine (memWf_setBacked (memWf_dropTouch h)))
        (memWf_setBacked (memWf_dropTouch h)))
    · split
      · exact memWf_wakeWork (memWf_dropTouch h)
      · split
        · exact memWf_dropTouch h
        · split
          · rename_i e14
            exact memWf_wakeWork (memWf_setBacked (memWf_frameFreed ((memWf_firstTouch (memWf_dropTouch h)) _ e14)))
          · exact memWf_touchDry (memWf_dropTouch h)

theorem memWf_tinsert {s : State} {e : TEntry} (h : s.memWf = true) :
    (tinsert s e).memWf = true :=
  memWf_mk h

theorem memWf_failWho {s : State} {va cls : ℕ} {w : XWho} (h : s.memWf = true) :
    (failWho s va cls w).memWf = true :=
  memWf_ite h (memWf_wakeWork (memWf_mk h))

theorem memWf_hubSend {s : State} {st : ℕ} {x : XReq} (h : s.memWf = true) :
    (hubSend s st x).memWf = true :=
  memWf_ite (memWf_setHub h) (memWf_setHub h)

theorem memWf_hubJoin {s : State} {st : ℕ} {x : XReq} (h : s.memWf = true) :
    (hubJoin s st x).memWf = true := by
  unfold hubJoin
  dsimp only
  split
  · exact memWf_setHub h
  · split
    · exact memWf_setHub h
    · exact memWf_hubSend h

theorem memWf_askPage {s : State} {st : ℕ} {x : XReq} {w : XWho} (h : s.memWf = true) :
    (askPage s st x w).memWf = true :=
  memWf_ite h (memWf_waitHost (memWf_hubJoin h))

theorem memWf_answerWho {st : ℕ} {x : XReq} {e : Option HubEntry} {s : State} {w : XWho} (h : s.memWf = true) :
    (answerWho st x e s w).memWf = true := by
  unfold answerWho
  split
  · exact memWf_ite (memWf_touchFrame (memWf_tinsert h)) (memWf_ite (memWf_failWho h) (memWf_askPage h))
  · exact memWf_ite (memWf_failWho h) (memWf_askPage h)

theorem memWf_execAtsCompletion {st pasid va : ℕ} {ok : Bool} {t size : ℕ} {r w : Bool} {s : State} (h : s.memWf = true) :
    OutOk (execAtsCompletion st pasid va ok t size r w s) := by
  unfold execAtsCompletion
  split
  · exact OutOk.next h
  · split
    · exact OutOk.next h
    · split
      · exact OutOk.next (memWf_hubDrain (memWf_foldl (memWf_setHub (memWf_setHub h)) (fun _ _ h11 => memWf_answerWho h11)))
      · exact OutOk.next (memWf_hubDrain (memWf_foldl (memWf_setHub h) (fun _ _ h15 => memWf_answerWho h15)))

theorem memWf_hubAsk {s : State} {st pasid eng ctx key va need : ℕ} (h : s.memWf = true) :
    (hubAsk s st pasid eng ctx key va need).memWf = true :=
  memWf_hubJoin h

theorem memWf_execTranslationMiss {eng ctx key va need : ℕ} {s : State} (h : s.memWf = true) :
    OutOk (execTranslationMiss eng ctx key va need s) := by
  unfold execTranslationMiss
  split
  · exact OutOk.next h
  · split
    · exact OutOk.next (memWf_dropTouch h)
    · split
      · dsimp only
        split
        · exact OutOk.next (memWf_touchFrame h)
        · split
          · split
            · exact OutOk.next (memWf_touchFrame (memWf_tinsert h))
            · exact OutOk.next (memWf_hubAsk h)
          · exact OutOk.next (memWf_hubAsk h)
      · dsimp only
        split
        · exact OutOk.next (memWf_touchFrame h)
        · split
          · split
            · exact OutOk.next (memWf_touchFrame (memWf_tinsert h))
            · exact OutOk.next (memWf_hubAsk h)
          · exact OutOk.next (memWf_hubAsk h)

theorem memWf_execPageRequestResponse {st pasid va : ℕ} {ok : Bool} {s : State} (h : s.memWf = true) :
    OutOk (execPageRequestResponse st pasid va ok s) := by
  unfold execPageRequestResponse
  split
  · exact OutOk.next h
  · split
    · exact OutOk.next h
    · exact OutOk.next (memWf_hubDrain (memWf_ite (memWf_hubJoin (memWf_setHub h))
        (memWf_foldl (memWf_setHub h) (fun _ _ h10 => memWf_failWho h10))))

theorem memWf_endLost {s : State} {r : SReq} (h : s.memWf = true) :
    (endLost s r).memWf = true := by
  unfold endLost
  dsimp only
  split
  · exact memWf_ite (memWf_leaveGroup (memWf_mk h)) (memWf_mk h)
  · exact memWf_mk h

theorem memWf_loseReqs {s : State} {time : ℕ} {rs : List SReq} (h : s.memWf = true) :
    (loseReqs s time rs).memWf = true :=
  memWf_foldl (memWf_foldl h (fun _ _ h3 => memWf_endLost h3)) (fun _ ⟨_, _, _⟩ h8 => memWf_postRecs h8)

theorem memWf_setLeg {s : State} {f : Frame} {k : ℕ} (h : s.memWf = true) :
    (setLeg s f k).memWf = true :=
  memWf_mk h

theorem memWf_moveFrame {s : State} {f : Frame} {lim : ℕ} (h : s.memWf = true) :
    (moveFrame s f lim).1.memWf = true := by
  unfold moveFrame
  split
  · split
    · dsimp only
      split
      · exact h
      · refine memWf_fqLeave ?_
        refine memWf_setLeg ?_
        split
        · exact memWf_ite h (memWf_setFq h)
        · exact h
    · dsimp only
      split
      · exact h
      · refine memWf_setLeg ?_
        split
        · exact memWf_ite h (memWf_setFq h)
        · exact h
  · split
    · dsimp only
      split
      · exact h
      · refine memWf_fqLeave ?_
        refine memWf_setLeg ?_
        split
        · exact memWf_ite h (memWf_setFq h)
        · exact h
    · dsimp only
      split
      · exact h
      · refine memWf_setLeg ?_
        split
        · exact memWf_ite h (memWf_setFq h)
        · exact h

theorem memWf_moveFrames {lim : ℕ} {x : List Frame} {x1 : State} (h : x1.memWf = true) :
    (moveFrames lim x x1).memWf = true := by
  fun_induction moveFrames
  · exact h
  · rename_i e9 e10
    exact e10 (memWf_fst e9 (memWf_moveFrame h))

theorem memWf_bringFrame {s : State} {id : ℕ} (h : s.memWf = true) :
    (bringFrame s id).memWf = true := by
  unfold bringFrame
  split
  · exact memWf_moveFrames h
  · exact h

theorem memWf_takeSlot {s : State} {station : ℕ} (h : s.memWf = true) :
    (takeSlot s station).memWf = true :=
  memWf_mk h

theorem memWf_takeEntry {s : State} {r : SReq} (h : s.memWf = true) :
    (takeEntry s r).memWf = true :=
  memWf_dropFrames (memWf_mk (memWf_fqTake h))

theorem memWf_enterReqs {x : List ℕ} {x1 : State} (h : x1.memWf = true) :
    (enterReqs x x1).memWf = true := by
  fun_induction enterReqs
  · exact h
  · rename_i e6
    exact e6 h
  · exact h
  · rename_i e19
    exact e19 (memWf_ite (memWf_takeEntry h) (memWf_arriveQueue h))

theorem memWf_wakeRefused {s : State} {slice : ℕ} (h : s.memWf = true) :
    (wakeRefused s slice).memWf = true := by
  unfold wakeRefused
  split
  · split
    · exact memWf_later h
    · exact h
  · exact h

theorem memWf_serveReqs {slice : ℕ} {rs : List SReq} {s : State} (h : s.memWf = true) : (serveReqs slice rs s).memWf = true := by
  induction rs generalizing s with
  | nil => exact h
  | cons r rs ih =>
    unfold serveReqs
    refine memWf_ite h ?_
    split
    next room => exact ih (memWf_fqLeave (memWf_applyOne (memWf_markRoom h _ room)))
    next => exact h

theorem memWf_deliverReq {s : State} {id : ℕ} (h : s.memWf = true) :
    (deliverReq s id).memWf = true := by
  unfold deliverReq
  split
  · exact h
  · exact memWf_ite h (memWf_ite (memWf_loseReqs h) (memWf_ite (memWf_applyReq h)
      (memWf_wakeRefused (memWf_serveReqs (memWf_enterReqs (memWf_ite (memWf_takeSlot (memWf_bringFrame h))
      (memWf_bringFrame h)))))))

theorem memWf_execAtsInvalidation {pasid va size : ℕ} {s : State} (h : s.memWf = true) :
    OutOk (execAtsInvalidation pasid va size s) :=
  OutOk.next (memWf_ite (memWf_mk (memWf_foldl (memWf_mk h) (fun _ _ h3 => memWf_deliverReq h3)))
    (memWf_foldl (memWf_mk h) (fun _ _ h6 => memWf_deliverReq h6)))

theorem memWf_poolFilled {s : State} {st : ℕ} (h : s.memWf = true) :
    (poolFilled s st).memWf = true :=
  memWf_retryHinge (memWf_retryHinge (memWf_retryWritebacks (memWf_retryTouches h)))

theorem memWf_cleanFrame {s : State} {tier pfn : ℕ} (h : s.memWf = true) :
    (cleanFrame s tier pfn).memWf = true :=
  memWf_mk h

theorem memWf_execBackgroundZeroingComplete {st : ℕ} {s : State} (h : s.memWf = true) :
    OutOk (execBackgroundZeroingComplete st s) := by
  unfold execBackgroundZeroingComplete
  split
  · exact OutOk.next h
  · dsimp only
    split
    · exact OutOk.next h
    · exact OutOk.next (memWf_poolFilled (memWf_zeroNear _ _ (memWf_setHub h)))

theorem memWf_beginMove {s : State} {st f pfn : ℕ} (h : s.memWf = true) :
    (beginMove s st f pfn).memWf = true :=
  memWf_later (memWf_mk (memWf_setHub h))

theorem memWf_epochFrame {st : ℕ} {s : State} {c : ℕ × ℕ} (h : s.memWf = true) :
    (epochFrame st s c).memWf = true := by
  unfold epochFrame
  dsimp only
  split
  · exact h
  · split
    · split
      · exact memWf_ite (memWf_beginMove (memWf_poolFell (memWf_setHub h))) h
      · exact h
    · split
      · exact memWf_ite (memWf_beginMove (memWf_setHub h)) h
      · exact h

theorem memWf_execMigrationEpochEnd {st : ℕ} {s : State} (h : s.memWf = true) :
    OutOk (execMigrationEpochEnd st s) := by
  unfold execMigrationEpochEnd
  split
  · exact OutOk.next h
  · exact OutOk.next (memWf_setHub (memWf_ite (memWf_foldl h (fun _ ⟨x4, x5⟩ h6 => memWf_epochFrame h6)) h))

theorem memWf_dropMove {s : State} {st f : ℕ} (h : s.memWf = true) :
    (dropMove s st f).memWf = true :=
  memWf_setHub h

theorem memWf_returnFrame {s : State} {st tier pfn : ℕ} (h : s.memWf = true) :
    (returnFrame s st tier pfn).memWf = true :=
  memWf_ite (memWf_poolFilled (memWf_setHub h)) (memWf_setHub h)

theorem memWf_abortMove {s : State} {st f pfn : ℕ} (h : s.memWf = true) :
    (abortMove s st f pfn).memWf = true :=
  memWf_frameFreed (memWf_returnFrame (memWf_mk (memWf_dropMove h)))

theorem memWf_finishMove {s : State} {st f pfn : ℕ} (h : s.memWf = true) : (finishMove s st f pfn).memWf = true := by
  have clean : (cleanFrame s (1 - hTier (hingeOf s f)) pfn).memWf = true := memWf_cleanFrame h
  unfold finishMove
  dsimp only
  refine memWf_frameFreed ?_
  split <;> split
  · exact memWf_later (memWf_setHub (memWf_mk (memWf_dropMove (memWf_copyToNear clean))))
  · exact memWf_later (memWf_setHub (memWf_mk (memWf_dropMove (memWf_copyToFar clean))))
  · exact memWf_setHub (memWf_mk (memWf_dropMove (memWf_copyToNear clean)))
  · exact memWf_setHub (memWf_mk (memWf_dropMove (memWf_copyToFar clean)))

theorem memWf_execMigrationCopyComplete {st f : ℕ} {s : State} (h : s.memWf = true) :
    OutOk (execMigrationCopyComplete st f s) := by
  unfold execMigrationCopyComplete
  split
  · exact OutOk.next h
  · split
    · exact OutOk.next h
    · split
      · exact OutOk.next (memWf_abortMove h)
      · split
        · exact OutOk.next (memWf_abortMove (memWf_sectorRec _ _ _ _ h))
        · dsimp only
          split
          · exact OutOk.next (memWf_finishMove h)
          · exact OutOk.next (memWf_abortMove (memWf_foldl h (fun _ _ h18 => memWf_sectorRec _ _ _ _ h18)))

theorem memWf_execMigrationLockTimeout {st f t : ℕ} {s : State} (h : s.memWf = true) :
    OutOk (execMigrationLockTimeout st f t s) := by
  unfold execMigrationLockTimeout
  dsimp only
  split
  · exact OutOk.next (memWf_ite (memWf_abortMove (memWf_atTime h)) (memWf_atTime h))
  · exact OutOk.next (memWf_atTime h)

theorem memWf_execSliceRequest {id : ℕ} {s : State} (h : s.memWf = true) :
    OutOk (execSliceRequest id s) :=
  OutOk.next (memWf_deliverReq h)

theorem memWf_execSliceLineFill {line : ℕ} {s : State} (h : s.memWf = true) :
    OutOk (execSliceLineFill line s) :=
  OutOk.next (memWf_verifyPlaces _ _ _ (memWf_fillSlice _ _ h))

theorem memWf_execSliceWriteBack {line : ℕ} {s : State} (h : s.memWf = true) :
    OutOk (execSliceWriteBack line s) :=
  OutOk.next (memWf_writeBackLine h)

theorem memWf_l1Evict {s : State} {e : L1Line} (h : s.memWf = true) :
    (l1Evict s e).memWf = true :=
  memWf_mk (memWf_writeBack h)

theorem memWf_l1Put {s : State} {core ctx : ℕ} {surf : Bool} {line : ℕ} (h : s.memWf = true) :
    (l1Put s core ctx surf line).memWf = true := by
  unfold l1Put
  refine memWf_mk ?_
  refine memWf_verifyPlaces _ _ _ ?_
  refine memWf_fillLines _ _ ?_
  split
  · split
    · exact memWf_l1Evict h
    · exact h
  · exact h

theorem memWf_l1Fill {s : State} {core ctx : ℕ} {surf : Bool} {line : ℕ} (h : s.memWf = true) :
    (l1Fill s core ctx surf line).memWf = true :=
  memWf_ite h (memWf_foldl (memWf_ite h (memWf_readCells (memWf_fillSlice _ _ (memWf_countReq h))))
    (fun _ _ h3 => memWf_l1Put h3))

theorem memWf_execL1LineFill {core line ctx : ℕ} {s : State} (h : s.memWf = true) :
    OutOk (execL1LineFill core line ctx s) :=
  OutOk.next (memWf_ite (memWf_l1Fill h) h)

theorem memWf_execAtomicResponseRelease {src seq : ℕ} {s : State} (h : s.memWf = true) :
    OutOk (execAtomicResponseRelease src seq s) :=
  OutOk.next (memWf_laterAll (memWf_mk h))

theorem memWf_execOrderedAddContribution {id : ℕ} {s : State} (h : s.memWf = true) :
    OutOk (execOrderedAddContribution id s) :=
  OutOk.next (memWf_deliverReq h)

end Sys2Proof.Machine
end

section
/-! The canonical form of memory (log 3): the fabric, the engines, interests, records, tiles and messages. -/
namespace Sys2Proof.Machine

theorem memWf_setStation {s : State} {n : ℕ} {f : Station → Station} (h : s.memWf = true) :
    (setStation s n f).memWf = true :=
  memWf_mk h

theorem memWf_execInjectionReserve {n : ℕ} {s : State} (h : s.memWf = true) :
    OutOk (execInjectionReserve n s) := by
  unfold execInjectionReserve
  split
  · exact OutOk.next h
  · split
    · exact OutOk.next h
    · split
      · exact OutOk.next (memWf_ite h (memWf_laterAll (memWf_takeSlot (memWf_bringFrame h))))
      · exact OutOk.next (memWf_setStation h)

theorem memWf_restoreBlock {h : ℕ} {f : Surf} {s : State} {n : ℕ} (hs : s.memWf = true) :
    (restoreBlock h f s n).memWf = true := by
  unfold restoreBlock
  split
  · dsimp only
    exact memWf_putBlock (memWf_carryPoison hs)
  · exact hs

theorem memWf_restoreTile {s : State} {h t : ℕ} {held : optParam (List (ℕ × ℕ)) []} (hs : s.memWf = true) :
    (restoreTile s h t held).1.memWf = true := by
  unfold restoreTile
  split
  · exact hs
  · dsimp only
    split
    · rename_i e5
      split
      · exact memWf_mk (memWf_foldl (memWf_fst e5 (memWf_placeTile hs)) (fun _ _ h11 => memWf_restoreBlock h11))
      · exact memWf_fst e5 (memWf_placeTile hs)
    · exact memWf_placeTile hs

theorem memWf_touchTile {s : State} {h t : ℕ} (hs : s.memWf = true) :
    (touchTile s h t).memWf = true :=
  memWf_mk hs

theorem memWf_nbRestore {held : List (ℕ × ℕ)} {s : State} {x : List (ℕ × ℕ)} (h : s.memWf = true) :
    (nbRestore held s x).1.memWf = true := by
  fun_induction nbRestore
  · exact h
  · rename_i e7 e8
    exact e8 (memWf_touchTile (memWf_fst e7 (memWf_restoreTile h)))
  · rename_i e16
    exact memWf_fst e16 (memWf_restoreTile h)

theorem memWf_bumpFb {s : State} {st lo : ℕ} (h : s.memWf = true) :
    (bumpFb s st lo).memWf = true :=
  memWf_mk h

theorem memWf_execPawlLaunch {q : ℕ} {s : State} (h : s.memWf = true) :
    OutOk (execPawlLaunch q s) := by
  unfold execPawlLaunch
  split
  · split
    · exact OutOk.next h
    · exact OutOk.next (memWf_later (memWf_mk (memWf_setFq (memWf_bumpFb h))))
  · exact OutOk.next h

theorem memWf_execPawl {i : ℕ} {s : State} (h : s.memWf = true) :
    OutOk (execPawl i s) := by
  unfold execPawl
  split
  · exact OutOk.next h
  · split
    · dsimp only
      split
      · exact OutOk.next (memWf_bumpFb (memWf_mk h))
      · exact OutOk.next (memWf_setFq (memWf_bumpFb (memWf_mk h)))
    · split
      · exact OutOk.next (memWf_mk h)
      · dsimp only
        split
        · exact OutOk.next (memWf_later (memWf_mk h))
        · exact OutOk.next (memWf_mk h)

theorem memWf_execHeartbeat {n : ℕ} {s : State} (h : s.memWf = true) :
    OutOk (execHeartbeat n s) := by
  unfold execHeartbeat
  split
  · exact OutOk.next h
  · exact OutOk.next (memWf_mk h)

theorem memWf_startReroute {old s : State} (hs : s.memWf = true) :
    (startReroute old s).memWf = true :=
  memWf_mk (memWf_ite (memWf_bumpFb (memWf_bumpFb hs)) hs)

theorem memWf_execHeartbeatMiss {n m : ℕ} {s : State} (h : s.memWf = true) :
    OutOk (execHeartbeatMiss n m s) := by
  unfold execHeartbeatMiss
  split
  · exact OutOk.next h
  · dsimp only
    split
    · exact OutOk.next (memWf_mk h)
    · exact OutOk.next (memWf_startReroute (memWf_setStation (memWf_setStation (memWf_mk h))))

theorem memWf_execLinkRetryFailure {n l : ℕ} {s : State} (h : s.memWf = true) :
    OutOk (execLinkRetryFailure n l s) := by
  unfold execLinkRetryFailure
  split
  · exact OutOk.next h
  · dsimp only
    split
    · exact OutOk.next h
    · exact OutOk.next (memWf_ite (memWf_startReroute (memWf_mk h)) (memWf_mk h))

theorem memWf_endDeadCmds {s : State} (h : s.memWf = true) :
    (endDeadCmds s).memWf = true :=
  memWf_foldl h (fun _ _ h3 => memWf_meetFault h3)

theorem memWf_dropFlit {s : State} {id : ℕ} (h : s.memWf = true) :
    (dropFlit s id).memWf = true :=
  memWf_dropFrames (memWf_mk h)

theorem memWf_dropDeadFlits {s : State} (h : s.memWf = true) :
    (dropDeadFlits s).memWf = true :=
  memWf_foldl h (fun _ ⟨_, _⟩ h4 => memWf_dropFlit h4)

theorem memWf_sendFrames {s : State} {id : ℕ} {cls : FClass} {src dst bytes : ℕ} (h : s.memWf = true) :
    (sendFrames s id cls src dst bytes).memWf = true :=
  memWf_mk h

theorem memWf_flitFrames {s : State} {id : ℕ} {x : KFlit} (h : s.memWf = true) :
    (flitFrames s id x).memWf = true := by
  unfold flitFrames
  split
  · exact memWf_sendFrames h
  · exact memWf_ite h (memWf_sendFrames h)
  · exact h

theorem memWf_sendFlit {s : State} {f : KFlit} (h : s.memWf = true) :
    (sendFlit s f).memWf = true := by
  unfold sendFlit
  dsimp only
  exact memWf_laterAll (memWf_flitFrames (memWf_mk (memWf_newId h)))

theorem memWf_fanOut {s : State} {wps : List ℕ} {key ctx : ℕ} {data : List (BitVec 8)} {bad : List ℕ} {code : ℕ}
    (h : s.memWf = true) :
    (fanOut s wps key ctx data bad code).memWf = true :=
  memWf_foldl h (fun _ _ h3 => memWf_sendFlit h3)

theorem memWf_repairEntry {s : State} {e : Interest} (h : s.memWf = true) :
    (repairEntry s e).memWf = true := by
  unfold repairEntry
  split
  · split
    · dsimp only
      split
      · exact memWf_mk h
      · split
        · exact memWf_sendFlit (memWf_mk (memWf_fanOut (memWf_mk h)))
        · split
          · split
            · exact memWf_sendFlit (memWf_mk h)
            · exact memWf_mk h
          · exact memWf_mk h
    · exact memWf_ite (memWf_mk h) (memWf_ite (memWf_sendFlit (memWf_mk (memWf_fanOut (memWf_mk h)))) (memWf_mk (memWf_mk h)))
  · split
    · dsimp only
      split
      · exact memWf_mk h
      · split
        · exact memWf_fanOut (memWf_mk h)
        · split
          · split
            · exact memWf_sendFlit (memWf_mk h)
            · exact memWf_mk h
          · exact memWf_mk h
    · exact memWf_ite (memWf_mk h) (memWf_ite (memWf_fanOut (memWf_mk h)) (memWf_mk (memWf_mk h)))

theorem memWf_execRerouteResume {t : ℕ} {s : State} (h : s.memWf = true) :
    OutOk (execRerouteResume t s) := by
  unfold execRerouteResume
  dsimp only
  split
  · exact OutOk.next (memWf_atTime h)
  · exact OutOk.next (memWf_mk (memWf_foldl (memWf_endDeadCmds (memWf_dropDeadFlits
      (memWf_loseReqs (memWf_mk (memWf_atTime h))))) (fun _ _ h9 => memWf_repairEntry h9)))

theorem memWf_completeCmd {s : State} {m : EngCmd} (h : s.memWf = true) :
    (completeCmd s m).memWf = true := by
  unfold completeCmd
  split
  · exact memWf_later (memWf_freeCmd h)
  · exact memWf_finishOp (memWf_freeCmd h)

theorem memWf_coreWrite {s : State} {eng ctx team : ℕ} {l : Loc} {bs : List (BitVec 8)} {bad : optParam (List ℕ) []}
    (h : s.memWf = true) :
    (coreWrite s eng ctx team l bs bad).memWf = true :=
  memWf_ite (memWf_engWrite h) h

theorem memWf_payCmd {s : State} {m : EngCmd} {cw cwa : ℕ} (h : s.memWf = true) :
    (payCmd s m cw cwa).memWf = true := by
  unfold payCmd
  split
  · exact memWf_completeCmd h
  · split
    · exact memWf_completeCmd (memWf_engWrite h)
    · exact memWf_engAsk h
    · exact h
    · exact memWf_meetFault h
    · exact memWf_meetFault h
  · exact memWf_completeCmd (memWf_coreWrite h)
  · exact memWf_completeCmd h

theorem memWf_mismatch {s : State} {ms : List EngCmd} (h : s.memWf = true) :
    (mismatch s ms).memWf = true :=
  memWf_foldl h (fun _ _ h3 => memWf_meetFault h3)

theorem memWf_collMembers {s : State} {m : EngCmd} {tab : ℕ} (h : s.memWf = true) :
    (collMembers s m tab).1.memWf = true := by
  unfold collMembers
  split
  · dsimp only
    split
    · exact memWf_engRead h
    · split
      · exact memWf_engRead h
      · split
        · split
          · exact memWf_engRead (memWf_engRead h)
          · exact memWf_engRead (memWf_engRead h)
        · exact memWf_engRead h
  · exact h

theorem memWf_giveMember {s : State} {e : EngCmd} {bs : List (BitVec 8)} {bad : List ℕ} (h : s.memWf = true) :
    (giveMember s e bs bad).memWf = true := by
  unfold giveMember
  dsimp only
  split
  · exact memWf_payCmd (memWf_setCmd (memWf_engWrite h))
  · exact memWf_meetFault (memWf_setCmd (memWf_engWrite h))
  · exact memWf_meetFault (memWf_engWrite h)
  · exact h

theorem memWf_skipMember {s : State} {e : EngCmd} (h : s.memWf = true) :
    (skipMember s e).memWf = true :=
  memWf_payCmd (memWf_setCmd h)

theorem memWf_runColl {s : State} {k : CollD} {ms : List Part} (h : s.memWf = true) :
    (runColl s k ms).memWf = true := by
  unfold runColl
  dsimp only
  split
  · exact memWf_foldl h (fun _ ⟨x3, x4⟩ h5 => memWf_engAsk h5)
  · split
    · exact h
    · split
      · exact memWf_foldl (memWf_mk h) (fun _ _ h15 => memWf_meetFault h15)
      · refine memWf_foldl ?_ ?_
        · refine memWf_mk ?_
          refine memWf_foldl h ?_
          rintro t18 ⟨x19, x20, x21, x22⟩ h23
          split
          · exact memWf_touchPlaces (memWf_countLines h23)
          · exact h23
        · rintro t30 ⟨x31, x32⟩ h33
          split
          · exact memWf_ite (memWf_giveMember h33) (memWf_skipMember h33)
          · exact h33

theorem memWf_collStep {s : State} {m : EngCmd} (h : s.memWf = true) :
    (collStep s m).memWf = true := by
  unfold collStep
  split
  · exact h
  · split
    · exact memWf_payCmd h
    · split
      · exact h
      · split
        · exact memWf_mismatch h
        · dsimp only
          split
          · rename_i e15
            exact memWf_engAsk (memWf_fst e15 (memWf_collMembers h))
          · rename_i e21
            exact memWf_meetFault (memWf_fst e21 (memWf_collMembers h))
          · rename_i e26
            exact memWf_meetFault (memWf_fst e26 (memWf_collMembers h))
          · rename_i e33
            exact memWf_fst e33 (memWf_collMembers h)
          · rename_i e37
            exact memWf_ite (memWf_mismatch (memWf_fst e37 (memWf_collMembers h)))
              (memWf_ite (memWf_fst e37 (memWf_collMembers h)) (memWf_ite (memWf_runColl (memWf_fst e37 (memWf_collMembers h)))
              (memWf_mismatch (memWf_mk (memWf_fst e37 (memWf_collMembers h))))))

theorem memWf_noteLast {s : State} {h t : ℕ} (hs : s.memWf = true) :
    (noteLast s h t).memWf = true :=
  memWf_mk hs

theorem memWf_touchRead {held : List (ℕ × ℕ)} {h : ℕ} {s : State} {n : ℕ} (hs : s.memWf = true) :
    (touchRead held h s n).memWf = true := by
  unfold touchRead
  split
  · exact hs
  · split
    · exact memWf_ite (memWf_touchTile hs) (memWf_noteLast hs)
    · dsimp only
      split
      · exact memWf_touchTile hs
      · split
        · rename_i e12
          exact memWf_fst e12 (memWf_restoreTile hs)
        · rename_i e17
          exact memWf_noteLast (memWf_mk (memWf_fst e17 (memWf_restoreTile hs)))

theorem memWf_touchWrites {held : List (ℕ × ℕ)} {s : State} {h : ℕ} {x : List ℕ} (hs : s.memWf = true) :
    (touchWrites held s h x).1.memWf = true := by
  fun_induction touchWrites
  · exact hs
  · rename_i e6 e7
    exact e7 (memWf_touchTile (memWf_fst e6 (memWf_restoreTile hs)))
  · rename_i e14
    exact memWf_fst e14 (memWf_restoreTile hs)

theorem memWf_touchSide {s : State} {rw : ℕ} {ls : List Loc} (h : s.memWf = true) :
    (touchSide s rw ls).1.memWf = true := by
  unfold touchSide
  refine memWf_foldl_fst h ?_
  rintro ⟨t1, x2⟩ x3 h4
  split
  · exact h4
  · split
    · exact memWf_foldl h4 (fun _ _ h13 => memWf_touchRead h13)
    · dsimp only
      split
      · rename_i e17
        exact memWf_fst e17 (memWf_touchWrites h4)
      · rename_i e20
        exact memWf_fst e20 (memWf_touchWrites h4)

theorem memWf_badTile {s : State} {ctx key : ℕ} (h : s.memWf = true) :
    (badTile s ctx key).memWf = true :=
  memWf_chargeRec h

theorem memWf_sourceBytes {s : State} {m : EngCmd} {k : CopyD} {n : ℕ} {ls : List Loc} (h : s.memWf = true) :
    (sourceBytes s m k n ls).1.memWf = true := by
  unfold sourceBytes
  split
  · split
    · exact memWf_ite h (memWf_badTile h)
    · exact h
  · dsimp only
    exact memWf_engRead h

theorem memWf_moveRows {s : State} {ctx xb : ℕ} {ms : List (Loc × BitVec 8)} (h : s.memWf = true) :
    (moveRows s ctx xb ms).memWf = true := by
  unfold moveRows
  refine memWf_foldl h ?_
  intro t1 x2 h3
  dsimp only
  split
  · exact memWf_writeSurf h3
  · exact memWf_putHomes h3

theorem memWf_moveBytes {s : State} {ctx : ℕ} {x : List (ℕ × Loc × BitVec 8 × Option Loc)} (h : s.memWf = true) :
    (moveBytes s ctx x).memWf = true := by
  fun_induction moveBytes
  · exact h
  · rename_i e9
    exact e9 (memWf_putHome h)

theorem memWf_moveAll {s : State} {m : EngCmd} {k : CopyD} {srcs : List (BitVec 8 × Option Loc)} {bad : List ℕ} {dsts : List Loc}
    (h : s.memWf = true) :
    (moveAll s m k srcs bad dsts).memWf = true :=
  memWf_mk (memWf_spreadBad (memWf_ite (memWf_moveRows (memWf_mergePlaces _ _ _ (memWf_countLines h)))
    (memWf_ite (memWf_mergePlaces _ _ _ (memWf_countLines h)) (memWf_moveBytes (memWf_mergePlaces _ _ _ (memWf_countLines h))))))

theorem memWf_moveCmd {s : State} {m : EngCmd} {k : CopyD} (h : s.memWf = true) :
    (moveCmd s m k).memWf = true := by
  unfold moveCmd
  split
  · exact h
  · split
    · exact memWf_ite (memWf_engAsk h) (memWf_ite h (memWf_meetFault h))
    · split
      · split
        · split
          · split
            · split
              · dsimp only
                split
                · exact memWf_engAsk h
                · split
                  · exact h
                  · split
                    · exact memWf_meetFault (memWf_sourceBytes (memWf_touchSide (memWf_touchSide h)))
                    · exact memWf_sendFlit (memWf_setCmd (memWf_sourceBytes (memWf_touchSide (memWf_touchSide h))))
              · dsimp only
                split
                · exact memWf_engAsk h
                · split
                  · exact h
                  · split
                    · exact memWf_meetFault (memWf_sourceBytes (memWf_touchSide (memWf_touchSide h)))
                    · exact memWf_sendFlit (memWf_setCmd (memWf_sourceBytes (memWf_touchSide (memWf_touchSide h))))
          · dsimp only
            split
            · exact memWf_engAsk h
            · split
              · exact h
              · split
                · exact memWf_meetFault (memWf_setCmd (memWf_moveAll (memWf_sourceBytes (memWf_touchSide (memWf_touchSide h)))))
                · exact memWf_payCmd (memWf_setCmd (memWf_moveAll (memWf_sourceBytes (memWf_touchSide (memWf_touchSide h)))))
      · split
        · split
          · dsimp only
            split
            · exact memWf_engAsk h
            · split
              · exact h
              · split
                · exact memWf_meetFault (memWf_sourceBytes (memWf_touchSide (memWf_touchSide h)))
                · exact memWf_sendFlit (memWf_setCmd (memWf_sourceBytes (memWf_touchSide (memWf_touchSide h))))
        · dsimp only
          split
          · exact memWf_engAsk h
          · split
            · exact h
            · split
              · exact memWf_meetFault (memWf_setCmd (memWf_moveAll (memWf_sourceBytes (memWf_touchSide (memWf_touchSide h)))))
              · exact memWf_payCmd (memWf_setCmd (memWf_moveAll (memWf_sourceBytes (memWf_touchSide (memWf_touchSide h)))))

theorem memWf_copyStep {s : State} {m : EngCmd} (h : s.memWf = true) :
    (copyStep s m).memWf = true :=
  memWf_ite h (memWf_ite (memWf_hostDesc h) (memWf_ite h (memWf_ite (memWf_payCmd h) (memWf_moveCmd h))))

theorem memWf_engineStep {s : State} {id : ℕ} (h : s.memWf = true) :
    (engineStep s id).memWf = true := by
  unfold engineStep
  split
  · exact memWf_ite (memWf_collStep h) (memWf_ite (memWf_copyStep h) h)
  · exact h

theorem memWf_refetchTile {s : State} {id : ℕ} (h : s.memWf = true) :
    (refetchTile s id).memWf = true := by
  unfold refetchTile
  split
  · dsimp only
    split
    · exact memWf_fanOut (memWf_dropFlit (memWf_engRead (memWf_clearXfaults h)))
    · exact memWf_engAsk h
    · exact h
    · exact memWf_fanOut (memWf_dropFlit (memWf_postRecs (memWf_clearXfaults h)))
    · exact memWf_fanOut (memWf_dropFlit h)
  · exact h

theorem memWf_execCopyEngineComplete {eng id : ℕ} {s : State} (h : s.memWf = true) :
    OutOk (execCopyEngineComplete eng id s) := by
  unfold execCopyEngineComplete
  refine OutOk.next ?_
  split
  · exact memWf_ite (memWf_engineStep h) h
  · exact memWf_refetchTile h

theorem memWf_failOp {s : State} {ctx gkey op who cls detail source addr pc obj moved : ℕ} (h : s.memWf = true) :
    (failOp s ctx gkey op who cls detail source addr pc obj moved).memWf = true :=
  memWf_finishOp (memWf_postRecs h)

theorem memWf_failCmd {s : State} {m : EngCmd} {cls detail addr : ℕ} (h : s.memWf = true) :
    (failCmd s m cls detail addr).memWf = true := by
  unfold failCmd
  split
  · exact memWf_later (memWf_freeCmd (memWf_postRecs h))
  · exact memWf_failOp (memWf_freeCmd h)

theorem memWf_execEngineCommandFault {_eng id : ℕ} {cls : BitVec 8} {addr : BitVec 64} {s : State} (h : s.memWf = true) :
    OutOk (execEngineCommandFault _eng id cls addr s) := by
  unfold execEngineCommandFault
  split
  · split
    · exact OutOk.next (memWf_ite (memWf_failCmd h) h)
    · exact OutOk.next h
  · exact OutOk.next h

theorem memWf_spendTile {s : State} {t : Tile} (h : s.memWf = true) :
    (spendTile s t).memWf = true :=
  memWf_ite (memWf_addDir (memWf_dropTile h)) (memWf_mk h)

theorem memWf_spendDir {s : State} {t : Tile} (h : s.memWf = true) :
    (spendDir s t).memWf = true :=
  memWf_mk h

theorem memWf_serveInterest {s : State} {prev key ctx : ℕ} (h : s.memWf = true) :
    Finds (fun x => x.memWf = true) (serveInterest s prev key ctx) := by
  unfold serveInterest
  split
  · exact Finds.some (memWf_fanOut h)
  · split
    · exact Finds.none
    · split
      · exact Finds.some (memWf_spendTile (memWf_fanOut h))
      · split
        · split
          · exact Finds.some (memWf_sendFlit (memWf_spendDir h))
          · exact Finds.some (memWf_fanOut h)
        · split
          · exact Finds.some (memWf_fanOut h)
          · exact Finds.none

theorem memWf_bumpKw {s : State} {st lo : ℕ} (h : s.memWf = true) :
    (bumpKw s st lo).memWf = true :=
  memWf_mk h

theorem memWf_enterInterest {s : State} {wp prev src key ctx exp : ℕ} (h : s.memWf = true) :
    Finds (fun x => x.memWf = true) (enterInterest s wp prev src key ctx exp) := by
  unfold enterInterest
  split
  · split
    · exact Finds.some (memWf_ite (memWf_sendFlit (memWf_bumpKw (memWf_mk h))) (memWf_bumpKw (memWf_mk h)))
    · exact Finds.some (memWf_bumpKw (memWf_mk h))
  · split
    · dsimp only
      split
      · exact Finds.none
      · split
        · exact Finds.some (memWf_sendFlit (memWf_mk h))
        · exact Finds.some (memWf_mk h)
    · dsimp only
      split
      · exact Finds.none
      · split
        · exact Finds.some (memWf_sendFlit (memWf_mk h))
        · exact Finds.some (memWf_mk h)

theorem memWf_takeInterest {s : State} {id : ℕ} (h : s.memWf = true) : Finds MemOk (takeInterest s id) := by
  unfold takeInterest
  split
  next wp prev src key ctx exp _ =>
    have served : Finds MemOk (if wp = keyStation key then serveInterest s prev key ctx else none) := by
      split
      · exact memWf_serveInterest h
      · exact .none
    split
    · exact .some (memWf_dropFlit (memWf_fanOut h))
    · split
      · exact .some (memWf_dropFlit h)
      · split
        · exact .none
        · split
          next found => exact .some (memWf_dropFlit (served _ found))
          next => exact (memWf_enterInterest h).map fun _ ht => memWf_dropFlit ht
  next => exact .none

theorem memWf_takeInterests {ids : List ℕ} {s : State} (h : s.memWf = true) : (takeInterests ids s).memWf = true := by
  induction ids generalizing s with
  | nil => exact h
  | cons id ids ih =>
    unfold takeInterests
    split
    next found => exact ih (memWf_takeInterest h _ found)
    next => exact h

theorem memWf_execInterestArrival {id : ℕ} {s : State} (h : s.memWf = true) :
    OutOk (execInterestArrival id s) := by
  unfold execInterestArrival
  split
  · exact OutOk.next (memWf_takeInterests (memWf_bringFrame h))
  · exact OutOk.next h

theorem memWf_refreshWaiting {s : State} {wp key ctx exp : ℕ} (h : s.memWf = true) :
    (refreshWaiting s wp key ctx exp).memWf = true :=
  memWf_mk h

theorem memWf_execRefreshArrival {id : ℕ} {s : State} (h : s.memWf = true) :
    OutOk (execRefreshArrival id s) := by
  unfold execRefreshArrival
  split
  · dsimp only
    split
    · refine OutOk.next ?_
      split
      · exact memWf_sendFlit (memWf_mk (memWf_refreshWaiting (memWf_dropFlit h)))
      · exact memWf_mk (memWf_refreshWaiting (memWf_dropFlit h))
    · exact OutOk.next (memWf_refreshWaiting (memWf_dropFlit h))
  · exact OutOk.next h

theorem memWf_wakeInterests {s : State} {wp : ℕ} (h : s.memWf = true) :
    (wakeInterests s wp).memWf = true :=
  memWf_laterAll h

theorem memWf_execInterestExpiry {wp key ctx t : ℕ} {s : State} (h : s.memWf = true) :
    OutOk (execInterestExpiry wp key ctx t s) :=
  OutOk.next (memWf_wakeInterests (memWf_mk (memWf_atTime h)))

theorem memWf_neverTrap {s : State} {r : KRec} (h : s.memWf = true) :
    (neverTrap s r).memWf = true := by
  unfold neverTrap
  split
  · exact memWf_endWaits (memWf_mk h)
  · exact memWf_postRecs h

theorem memWf_closeRec {s : State} {r : KRec} {v : ℕ} {fault : Option Rec} (h : s.memWf = true) :
    (closeRec s r v fault).memWf = true :=
  memWf_ite (memWf_neverTrap (memWf_finishOp (memWf_ite (memWf_bumpKw (memWf_clearXfaults (memWf_mk h)))
    (memWf_ite (memWf_bumpKw (memWf_clearXfaults (memWf_mk h))) (memWf_clearXfaults (memWf_mk h))))))
    (memWf_finishOp (memWf_ite (memWf_bumpKw (memWf_clearXfaults (memWf_mk h)))
    (memWf_ite (memWf_bumpKw (memWf_clearXfaults (memWf_mk h))) (memWf_clearXfaults (memWf_mk h)))))

theorem memWf_payRec {s : State} {id : ℕ} (h : s.memWf = true) :
    (payRec s id).memWf = true := by
  unfold payRec
  split
  · exact h
  · split
    · exact h
    · split
      · exact memWf_closeRec h
      · split
        · exact memWf_closeRec (memWf_engWrite h)
        · exact memWf_engAsk h
        · exact h
        · exact memWf_closeRec (memWf_postRecs h)
        · exact memWf_closeRec h
      · exact memWf_closeRec (memWf_coreWrite h)
      · exact memWf_closeRec h

theorem memWf_setRec {s : State} {id : ℕ} {f : KRec → KRec} (h : s.memWf = true) :
    (setRec s id f).memWf = true :=
  memWf_mk h

theorem memWf_endRec {s : State} {id v : ℕ} (h : s.memWf = true) :
    (endRec s id v).memWf = true :=
  memWf_payRec (memWf_setRec h)

theorem memWf_execRequesterRecordExpiry {id t : ℕ} {s : State} (h : s.memWf = true) :
    OutOk (execRequesterRecordExpiry id t s) := by
  unfold execRequesterRecordExpiry
  dsimp only
  split
  · split
    · exact OutOk.next (memWf_endRec (memWf_bumpKw (memWf_atTime h)))
    · exact OutOk.next (memWf_atTime h)
  · exact OutOk.next (memWf_atTime h)

theorem memWf_loseFlit {s : State} {id ctx cl gkey pend dst : ℕ} (h : s.memWf = true) :
    (loseFlit s id ctx cl gkey pend dst).memWf = true :=
  memWf_postRecs (memWf_mk (memWf_dropFlit h))

theorem memWf_losePut {s : State} {id : ℕ} {p : KPut} (h : s.memWf = true) :
    (losePut s id p).memWf = true :=
  memWf_ite (memWf_later (memWf_mk (memWf_dropFlit h))) (memWf_finishOp (memWf_loseFlit h))

theorem memWf_clearAt {s : State} {wp key ctx : ℕ} (h : s.memWf = true) :
    (clearAt s wp key ctx).memWf = true :=
  memWf_wakeInterests (memWf_mk h)

theorem memWf_passWay {s : State} {wp key ctx : ℕ} {data : List (BitVec 8)} {bad : List ℕ} {code : ℕ} (h : s.memWf = true) :
    (passWay s wp key ctx data bad code).1.memWf = true := by
  unfold passWay
  dsimp only
  split
  · exact h
  · exact memWf_fanOut (memWf_clearAt h)

theorem memWf_putTile {s : State} {p : KPut} {data : List (BitVec 8)} {bad : List ℕ} (h : s.memWf = true) :
    (putTile s p data bad).1.memWf = true := by
  unfold putTile
  split
  · exact h
  · split
    · dsimp only
      split
      · exact memWf_dropDir h
      · exact memWf_passWay (memWf_dropDir h)
    · split
      · dsimp only
        split
        · exact memWf_dropDir h
        · split
          · exact memWf_mk (memWf_storeRoom (memWf_passWay (memWf_dropDir h)))
          · exact memWf_addDir (memWf_storeRoom (memWf_passWay (memWf_dropDir h)))
      · dsimp only
        split
        · exact memWf_dropDir h
        · split
          · exact memWf_mk (memWf_storeRoom (memWf_passWay (memWf_dropDir h)))
          · exact memWf_storeRoom (memWf_passWay (memWf_dropDir h))

theorem memWf_giveValue {s : State} {gkey pend v : ℕ} (h : s.memWf = true) :
    (giveValue s gkey pend v).memWf = true :=
  memWf_later (memWf_setPending h)

theorem memWf_arrivePut {s : State} {id : ℕ} {p : KPut} {data : List (BitVec 8)} {bad : List ℕ} (h : s.memWf = true) :
    (arrivePut s id p data bad).memWf = true := by
  unfold arrivePut
  dsimp only
  split
  · exact memWf_later (memWf_mk (memWf_putTile (memWf_dropFlit h)))
  · exact memWf_giveValue (memWf_finishOp (memWf_putTile (memWf_dropFlit h)))

theorem memWf_earlierPuts {s : State} {cl slice id : ℕ} (h : s.memWf = true) :
    (earlierPuts s cl slice id).memWf = true := by
  unfold earlierPuts
  refine memWf_foldl h ?_
  rintro t1 ⟨x2, x3⟩ h4
  split
  · exact memWf_ite (memWf_arrivePut h4) h4
  · exact h4

theorem memWf_execKputArrival {id : ℕ} {s : State} (h : s.memWf = true) :
    OutOk (execKputArrival id s) := by
  unfold execKputArrival
  split
  · split
    · exact OutOk.next h
    · split
      · exact OutOk.next (memWf_losePut h)
      · exact OutOk.next (memWf_ite (memWf_arrivePut (memWf_earlierPuts (memWf_bringFrame h))) (memWf_bringFrame h))
  · exact OutOk.next h

theorem memWf_addClosed {s : State} {slice ctx tensor iter : ℕ} (h : s.memWf = true) :
    (addClosed s slice ctx tensor iter).memWf = true :=
  memWf_mk h

theorem memWf_setFlit {s : State} {id : ℕ} {f : KFlit} (h : s.memWf = true) :
    (setFlit s id f).memWf = true :=
  memWf_mk h

theorem memWf_execCloseNoticeArrival {id slice : ℕ} {s : State} (h : s.memWf = true) :
    OutOk (execCloseNoticeArrival id slice s) := by
  unfold execCloseNoticeArrival
  split
  · split
    · exact OutOk.next h
    · split
      · exact OutOk.next (memWf_loseFlit h)
      · exact OutOk.next (memWf_later (memWf_setFlit (memWf_foldl (memWf_addClosed (memWf_earlierPuts h))
          (fun _ _ h19 => memWf_passWay h19))))
  · exact OutOk.next h

theorem memWf_execCloseAck {id slice : ℕ} {s : State} (h : s.memWf = true) :
    OutOk (execCloseAck id slice s) := by
  unfold execCloseAck
  split
  · split
    · exact OutOk.next h
    · split
      · exact OutOk.next (memWf_giveValue (memWf_dropFlit h))
      · exact OutOk.next (memWf_setFlit h)
  · exact OutOk.next h

theorem memWf_loseMsg {s : State} {m : Msg} (h : s.memWf = true) :
    (loseMsg s m).memWf = true :=
  memWf_postRecs h

theorem memWf_takeMsg {s : State} {m : Msg} (h : s.memWf = true) :
    (takeMsg s m).memWf = true :=
  memWf_laterAll (memWf_clearXfaults (memWf_fqLeave (memWf_mk h)))

theorem memWf_discardMsg {s : State} {m : Msg} (h : s.memWf = true) :
    (discardMsg s m).memWf = true :=
  memWf_postRecs (memWf_takeMsg h)

theorem memWf_startHandler {s : State} {m : Msg} {c : Ctx} {core entry : ℕ} (h : s.memWf = true) :
    (startHandler s m c core entry).memWf = true := by
  unfold startHandler
  split
  · dsimp only
    split
    · exact memWf_claimCore (memWf_acquireAct (memWf_spreadBad (memWf_mk (memWf_newId (memWf_newId h)))))
    · exact memWf_standing (memWf_claimCore (memWf_acquireAct (memWf_spreadBad (memWf_mk (memWf_newId (memWf_newId h))))))

theorem memWf_dispatchMsg {s : State} {m : Msg} {core : ℕ} (h : s.memWf = true) :
    (dispatchMsg s m core).memWf = true := by
  unfold dispatchMsg
  split
  · exact memWf_loseMsg (memWf_takeMsg h)
  · split
    · exact memWf_discardMsg h
    · dsimp only
      split
      · exact memWf_engAsk h
      · exact h
      · split
        · exact memWf_discardMsg (memWf_engRead h)
        · split
          · exact memWf_engAsk (memWf_engRead h)
          · exact memWf_engRead h
          · exact memWf_ite (memWf_startHandler (memWf_takeMsg (memWf_engRead (memWf_engRead h))))
              (memWf_discardMsg (memWf_engRead (memWf_engRead h)))
          · exact memWf_discardMsg (memWf_engRead h)
      · exact memWf_discardMsg h

theorem memWf_dispatchCluster {s : State} {cl : ℕ} (h : s.memWf = true) :
    (dispatchCluster s cl).memWf = true := by
  unfold dispatchCluster
  split
  · exact memWf_dispatchMsg h
  · exact h

theorem memWf_settleTile {s : State} {id : ℕ} (h : s.memWf = true) :
    (settleTile s id).memWf = true :=
  memWf_ite h (memWf_dropFlit h)

theorem memWf_dropDest {s : State} {gkey : ℕ} {ls : List Loc} (h : s.memWf = true) :
    (dropDest s gkey ls).memWf = true := by
  unfold dropDest
  split
  · exact memWf_l1Drop h
  · exact h

theorem memWf_deliverRec {s : State} {id : ℕ} {data : List (BitVec 8)} {bad : List ℕ} (h : s.memWf = true) :
    (deliverRec s id data bad).memWf = true := by
  unfold deliverRec
  split
  · exact h
  · split
    · exact memWf_payRec h
    · split
      · exact memWf_endRec h
      · split
        · exact memWf_endRec (memWf_setRec (memWf_coreWrite h))
        · split
          · exact memWf_endRec (memWf_setRec (memWf_engWrite (memWf_dropDest h)))
          · exact memWf_engAsk h
          · exact h
          · exact memWf_endRec (memWf_setRec (memWf_clearXfaults (memWf_postRecs (memWf_setRec (memWf_engWrite h)))))
          · exact memWf_endRec (memWf_setRec (memWf_engWrite h))

theorem memWf_serveRecs {s : State} {wp key ctx id : ℕ} {data : List (BitVec 8)} {bad : List ℕ} {code : ℕ} (h : s.memWf = true) :
    (serveRecs s wp key ctx id data bad code).memWf = true :=
  memWf_foldl h (fun _ _ h3 => memWf_ite (memWf_endRec h3) (memWf_deliverRec (memWf_setRec h3)))

theorem memWf_releaseFlits {s : State} {gkey : ℕ} (h : s.memWf = true) :
    (releaseFlits s gkey).memWf = true := by
  unfold releaseFlits
  refine memWf_foldl h ?_
  rintro t1 ⟨x2, x3⟩ h4
  split
  · exact memWf_ite (memWf_later (memWf_flitFrames h4)) h4
  · exact memWf_ite (memWf_laterAll (memWf_setFlit h4)) h4
  · exact h4

theorem memWf_readSource {s : State} {id : ℕ} {p : KPut} {va : ℕ} (h : s.memWf = true) :
    (readSource s id p va).memWf = true := by
  unfold readSource
  split
  · dsimp only
    exact memWf_releaseFlits (memWf_setFlit (memWf_clearXfaults (memWf_engRead h)))
  · exact memWf_engAsk h
  · exact h
  · exact memWf_releaseFlits (memWf_giveValue (memWf_failOp (memWf_clearXfaults (memWf_dropFlit h))))
  · exact memWf_releaseFlits (memWf_giveValue (memWf_finishOp (memWf_dropFlit h)))

theorem memWf_tileArrives {id : ℕ} {s : State} (h : s.memWf = true) :
    (tileArrives id s).memWf = true := by
  unfold tileArrives
  split
  · split
    · exact memWf_dropFlit h
    · dsimp only
      exact memWf_settleTile (memWf_ite (memWf_serveRecs (memWf_passWay h)) (memWf_passWay h))
  · exact memWf_readSource h
  · exact memWf_refetchTile h
  · split
    · split
      · split
        · exact memWf_settleTile (memWf_deliverRec h)
        · exact memWf_payRec h
      · exact memWf_payRec h
    · exact h

theorem memWf_execTileArrival {id : ℕ} {s : State} (h : s.memWf = true) :
    OutOk (execTileArrival id s) := by
  unfold execTileArrival
  split
  · exact OutOk.next (memWf_dispatchCluster h)
  · exact OutOk.next (memWf_tileArrives h)

theorem memWf_execBackingRefetchComplete {id : ℕ} {s : State} (h : s.memWf = true) :
    OutOk (execBackingRefetchComplete id s) :=
  OutOk.next (memWf_refetchTile h)

theorem memWf_takeOut {s : State} {m : Msg} (h : s.memWf = true) :
    (takeOut s m).memWf = true :=
  memWf_fqLeave (memWf_dropFrames (memWf_mk h))

theorem memWf_arriveMsg {s : State} {m : Msg} (h : s.memWf = true) :
    (arriveMsg s m).memWf = true := by
  unfold arriveMsg
  split
  · exact memWf_ite (memWf_takeOut h) (memWf_loseMsg (memWf_takeOut h))
  · exact memWf_ite (memWf_loseMsg (memWf_takeOut h)) (memWf_ite h (memWf_later (memWf_mk (memWf_takeOut (memWf_fqTake h)))))

theorem memWf_execMessageArrival {id : ℕ} {s : State} (h : s.memWf = true) :
    OutOk (execMessageArrival id s) := by
  unfold execMessageArrival
  split
  · refine OutOk.next ?_
    split
    · exact memWf_arriveMsg h
    · exact h
  · split
    · exact OutOk.next (memWf_ite (memWf_loseMsg (memWf_takeOut (memWf_fqLeave (memWf_bringFrame h))))
        (memWf_ite (memWf_arriveMsg (memWf_fqLeave (memWf_bringFrame h))) (memWf_fqLeave (memWf_bringFrame h))))
    · exact OutOk.next h

theorem memWf_execHandlerDispatch {cl : ℕ} {s : State} (h : s.memWf = true) :
    OutOk (execHandlerDispatch cl s) :=
  OutOk.next (memWf_dispatchCluster h)

theorem memWf_execHandlerWatchdog {key t : ℕ} {s : State} (h : s.memWf = true) :
    OutOk (execHandlerWatchdog key t s) := by
  unfold execHandlerWatchdog
  dsimp only
  split
  · split
    · exact OutOk.next (memWf_standing (memWf_atTime h))
    · exact OutOk.next (memWf_atTime h)
  · exact OutOk.next (memWf_atTime h)

end Sys2Proof.Machine
end

section
/-! The canonical form of memory (log 3): slice queues, near-bank programs, the matrix engine, traversal and raster. -/
namespace Sys2Proof.Machine

theorem memWf_comeQueue {s : State} {id : ℕ} (h : s.memWf = true) :
    (comeQueue s id).memWf = true := by
  unfold comeQueue
  split
  · exact memWf_ite h (memWf_ite (memWf_mk h) (memWf_ite (memWf_arriveQueue
      (memWf_foldl (memWf_bringFrame h) (fun _ _ h6 => memWf_applyReq h6))) (memWf_bringFrame h)))
  · exact h

theorem memWf_setSplit {s : State} {key sp : ℕ} {f : Split → Split} (h : s.memWf = true) :
    (setSplit s key sp f).memWf = true :=
  memWf_updG h

theorem memWf_cutQueue {s : State} {r : SReq} {o : QOp} (h : s.memWf = true) :
    (cutQueue s r o).memWf = true := by
  unfold cutQueue
  split
  · exact memWf_setSplit (memWf_chargeCut _ _ _ (memWf_dropFrames (memWf_mk h)))
  · exact memWf_later (memWf_setPending (memWf_dropFrames (memWf_mk h)))

theorem memWf_putHomeWord {s : State} {ctx : ℕ} {l : Loc} {n v : ℕ} (h : s.memWf = true) :
    (putHomeWord s ctx l n v).memWf = true :=
  memWf_putHomeNat (memWf_mergePlaces _ _ _ h)

theorem memWf_pushEntries {s : State} {ctx : ℕ} {o : QOp} {m : ℕ} (h : s.memWf = true) :
    (pushEntries s ctx o m).memWf = true :=
  memWf_putHomeWord (memWf_foldl h (fun _ ⟨⟨_, _⟩, _⟩ h5 => memWf_putHomeWord h5))

theorem memWf_wakeWaiters {s : State} {desc : Loc} (h : s.memWf = true) :
    (wakeWaiters s desc).memWf = true :=
  memWf_laterAll h

theorem memWf_popEntries {s : State} {ctx : ℕ} {o : QOp} {m : ℕ} (h : s.memWf = true) :
    (popEntries s ctx o m).1.memWf = true := by
  unfold popEntries
  exact memWf_putHomeWord (memWf_touchPlaces h)

theorem memWf_moveQueue {s : State} {r : SReq} {o : QOp} (h : s.memWf = true) :
    (moveQueue s r o).memWf = true := by
  unfold moveQueue
  split
  · exact memWf_wakeWaiters (memWf_setSplit (memWf_pushEntries (memWf_mk h)))
  · dsimp only
    split
    · exact memWf_later (memWf_windowReq (memWf_setPending (memWf_acquireAct
        (memWf_wakeWaiters (memWf_popEntries (memWf_mk h))))))
    · exact memWf_wakeWaiters (memWf_popEntries (memWf_mk h))

theorem memWf_execSliceQueueOperation {id : ℕ} {s : State} (h : s.memWf = true) :
    OutOk (execSliceQueueOperation id s) := by
  unfold execSliceQueueOperation
  dsimp only
  split
  · exact OutOk.next (memWf_comeQueue h)
  · split
    · split
      · exact OutOk.next (memWf_cutQueue (memWf_comeQueue h))
      · split
        · exact OutOk.next (memWf_moveQueue (memWf_comeQueue h))
        · split
          · exact OutOk.next (memWf_comeQueue h)
          · exact OutOk.next (memWf_mk (memWf_comeQueue h))
    · exact OutOk.next (memWf_comeQueue h)

theorem memWf_execTileEviction {st grp handle : ℕ} {s : State} (h : s.memWf = true) :
    OutOk (execTileEviction st grp handle s) := by
  unfold execTileEviction
  split
  · exact OutOk.next h
  · split
    · exact OutOk.next h
    · split
      · exact OutOk.next (memWf_later h)
      · split
        · exact OutOk.next (memWf_later (memWf_evictTile h))
        · exact OutOk.next h

theorem memWf_endService {s : State} {key : ℕ} (h : s.memWf = true) :
    (endService s key).memWf = true :=
  memWf_ite (memWf_wakePlacement (memWf_mk h)) (memWf_later (memWf_mk h))

theorem memWf_execTileRestore {handle tile : ℕ} {s : State} (h : s.memWf = true) :
    OutOk (execTileRestore handle tile s) := by
  unfold execTileRestore
  split
  · exact OutOk.next h
  · split
    · exact OutOk.next (memWf_foldl h (fun _ _ h7 => memWf_endService h7))
    · dsimp only
      split
      · rename_i e13
        exact OutOk.next (memWf_laterAll (memWf_foldl (memWf_fst e13 (memWf_restoreTile h))
          (fun _ _ h16 => memWf_endService h16)))
      · rename_i e21
        exact OutOk.next (memWf_fst e21 (memWf_restoreTile h))

theorem memWf_execScrubBurst {_st _grp : ℕ} {s : State} (h : s.memWf = true) :
    OutOk (execScrubBurst _st _grp s) :=
  OutOk.next h

theorem memWf_expandBlock {h : ℕ} {f : Surf} {s : State} {n : ℕ} (hs : s.memWf = true) :
    (expandBlock h f s n).memWf = true :=
  memWf_ite hs (memWf_putBlock hs)

theorem memWf_writeCol {s : State} {h : ℕ} {f : Surf} {p : NbCol} {ws : List (ℕ × BitVec 8)} (hs : s.memWf = true) :
    (writeCol s h f p ws).memWf = true :=
  memWf_writeBlock hs

theorem memWf_nbWord {q : NbPair} {p : NbCol} {x : State × NbUnit × NbRed} {w : NbWord} (h : x.1.memWf = true) :
    (nbWord q p x w).1.memWf = true := by
  unfold nbWord
  dsimp only
  split
  · split
    · split
      · exact memWf_writeCol h
      · exact h
    · exact h
  · exact h

theorem memWf_nbBank {q : NbPair} {ws : List NbWord} {x : State × NbUnit × NbRed} {cols : List NbCol} (h : x.1.memWf = true) :
    (nbBank q ws x cols).1.memWf = true := by
  unfold nbBank
  exact memWf_foldl_fst h (fun ⟨t1, x2, x3⟩ _ h5 => memWf_foldl_fst h5 (fun ⟨t6, x7, x8⟩ _ h10 => memWf_nbWord h10))

theorem memWf_nbRunAll {s : State} {q : NbPair} {d : NbD} {ws : List NbWord} (h : s.memWf = true) :
    (nbRunAll s q d ws).1.memWf = true := by
  unfold nbRunAll
  dsimp only
  refine memWf_foldl_fst h ?_
  rintro ⟨t1, x2⟩ ⟨x3, x4, x5⟩ h6
  split
  · exact h6
  · exact memWf_nbBank h6

theorem memWf_nbRun {s : State} {m : EngCmd} {d : NbD} (h : s.memWf = true) : (nbRun s m d).1.memWf = true := by
  have fresh : ({ s with fresh := s.fresh + 1 } : State).memWf = true := memWf_mk h
  have restored := memWf_nbRestore (held := m.tiles) (x := m.tiles) fresh
  unfold nbRun
  extract_lets ws none' s1
  split
  · exact fresh
  · split
    · exact fresh
    · split
      next cut =>
        have kept := memWf_fst cut restored
        exact memWf_mk kept
      next whole =>
        have first (f : Surf) := memWf_foldl (f := expandBlock (saHandle d.surf) f) (xs := nbBlocks f d)
          (memWf_fst whole restored) fun _ _ => memWf_expandBlock
        dsimp only
        refine memWf_nbRunAll ?_
        split
        · exact memWf_foldl (first _) fun _ _ => memWf_expandBlock
        · exact first _

theorem memWf_nbFinish {s : State} {m : EngCmd} {d : NbD} (h : s.memWf = true) : (nbFinish s m d).memWf = true := by
  unfold nbFinish
  split
  · exact memWf_engAsk h
  · exact h
  · exact memWf_payCmd (memWf_setCmd (memWf_engWrite (memWf_nbRun h)))
  · exact memWf_meetFault (memWf_nbRun h)
  · exact memWf_meetFault (memWf_nbRun h)

theorem memWf_execNbxCommand {st : ℕ} {s : State} (h : s.memWf = true) :
    OutOk (execNbxCommand st s) := by
  unfold execNbxCommand
  split
  · split
    · exact OutOk.next h
    · exact OutOk.next (memWf_ite (memWf_payCmd h) (memWf_nbFinish h))
  · exact OutOk.next h

theorem memWf_execOrderLockEntry {id : ℕ} {s : State} (h : s.memWf = true) :
    OutOk (execOrderLockEntry id s) := by
  unfold execOrderLockEntry
  split
  · exact OutOk.next h
  · exact OutOk.next (memWf_later (memWf_mk h))

theorem memWf_endTicket {s : State} {t : Ticket} (h : s.memWf = true) :
    (endTicket s t).memWf = true :=
  memWf_laterAll (memWf_fqLeave (memWf_mk h))

theorem memWf_hizReport {s : State} {zmode st h t c : ℕ} {f : Surf} (hs : s.memWf = true) :
    (hizReport s zmode st h t c f).memWf = true :=
  memWf_mk hs

theorem memWf_runRop {s : State} {d : Draw} {q : Quad} {t : Ticket} {f : Surf} {g : Option (ℕ × Surf)} (h : s.memWf = true) :
    (runRop s d q t f g).memWf = true := by
  unfold runRop
  split
  · dsimp only
    split
    · exact memWf_expandBlock (memWf_expandBlock h)
    · exact memWf_ite (memWf_hizReport (memWf_foldl_fst (memWf_expandBlock (memWf_expandBlock h))
        (fun ⟨t6, x7, x8⟩ _ h10 => memWf_nbWord h10))) (memWf_foldl_fst (memWf_expandBlock (memWf_expandBlock h))
        (fun ⟨t11, x12, x13⟩ _ h15 => memWf_nbWord h15))
  · dsimp only
    split
    · exact memWf_expandBlock h
    · exact memWf_foldl_fst (memWf_expandBlock h) (fun ⟨t19, x20, x21⟩ _ h23 => memWf_nbWord h23)

theorem memWf_execRopInvocation {bank : ℕ} {s : State} (h : s.memWf = true) :
    OutOk (execRopInvocation bank s) := by
  unfold execRopInvocation
  split
  · exact OutOk.next h
  · split
    · exact OutOk.next (memWf_endTicket h)
    · split
      · dsimp only
        split
        · exact OutOk.next (memWf_nbRestore h)
        · exact OutOk.next (memWf_endTicket (memWf_runRop (memWf_nbRestore h)))
      · exact OutOk.next (memWf_endTicket h)

theorem memWf_setMx {s : State} {cl : ℕ} {f : Mx → Mx} (h : s.memWf = true) :
    (setMx s cl f).memWf = true :=
  memWf_mk h

theorem memWf_wantBank {s : State} {cl ctx : ℕ} (h : s.memWf = true) :
    (wantBank s cl ctx).memWf = true := by
  unfold wantBank
  dsimp only
  split
  · exact h
  · split
    · exact memWf_setMx h
    · exact memWf_later h

theorem memWf_noteEligible {s : State} {cl : ℕ} (h : s.memWf = true) :
    (noteEligible s cl).memWf = true :=
  memWf_laterAll (memWf_foldl (memWf_setMx h) (fun _ _ h3 => memWf_wantBank h3))

theorem memWf_grantTile {s : State} {cl : ℕ} {t : MTile} (h : s.memWf = true) :
    (grantTile s cl t).memWf = true := by
  unfold grantTile
  split
  · exact h
  · exact memWf_later (memWf_setMx h)

theorem memWf_execMatrixPassGrant {cl : ℕ} {s : State} (h : s.memWf = true) :
    OutOk (execMatrixPassGrant cl s) := by
  unfold execMatrixPassGrant
  dsimp only
  split
  · exact OutOk.next (memWf_noteEligible h)
  · split
    · exact OutOk.next (memWf_noteEligible h)
    · split
      · exact OutOk.next (memWf_setMx (memWf_noteEligible h))
      · exact OutOk.next (memWf_setMx (memWf_foldl (memWf_noteEligible h) (fun _ _ h12 => memWf_grantTile h12)))

theorem memWf_execReservationAging {cl id : ℕ} {s : State} (h : s.memWf = true) :
    OutOk (execReservationAging cl id s) :=
  OutOk.next (memWf_setMx h)

theorem memWf_endWordTiles {s : State} {key word : ℕ} (h : s.memWf = true) :
    (endWordTiles s key word).memWf = true :=
  memWf_finishOp (memWf_updG h)

theorem memWf_endTile {cl : ℕ} {s : State} {t : MTile} (h : s.memWf = true) :
    (endTile cl s t).memWf = true :=
  memWf_ite (memWf_setMx h) (memWf_endWordTiles (memWf_setMx h))

theorem memWf_landTile {s : State} {t : MTile} (h : s.memWf = true) :
    (landTile s t).memWf = true :=
  memWf_ite h (memWf_updG h)

theorem memWf_landWord {s : State} {cl word : ℕ} (h : s.memWf = true) :
    (landWord s cl word).memWf = true :=
  memWf_foldl (memWf_foldl h (fun _ _ h3 => memWf_landTile h3)) (fun _ _ h6 => memWf_endTile h6)

theorem memWf_execMatrixTileWriteback {cl id : ℕ} {s : State} (h : s.memWf = true) :
    OutOk (execMatrixTileWriteback cl id s) := by
  unfold execMatrixTileWriteback
  dsimp only
  split
  · exact OutOk.next h
  · split
    · exact OutOk.next h
    · exact OutOk.next (memWf_laterAll (memWf_landWord h))

theorem memWf_execGovernorWindow {cl : ℕ} {s : State} (h : s.memWf = true) :
    OutOk (execGovernorWindow cl s) :=
  OutOk.next (memWf_ite (memWf_setMx h) h)

theorem memWf_spillBank {s : State} {cl ctx : ℕ} (h : s.memWf = true) :
    (spillBank s cl ctx).memWf = true := by
  unfold spillBank
  split
  · exact h
  · exact memWf_mk (memWf_writeHome h)

theorem memWf_execContextBankSpill {cl ctx : ℕ} {s : State} (h : s.memWf = true) :
    OutOk (execContextBankSpill cl ctx s) := by
  unfold execContextBankSpill
  split
  · dsimp only
    split
    · exact OutOk.next h
    · exact OutOk.next h
  · dsimp only
    split
    · exact OutOk.next h
    · exact OutOk.next (memWf_setMx (memWf_ite (memWf_foldl (memWf_spillBank h) (fun _ _ h14 => memWf_rewindTeam h14))
        (memWf_spillBank h)))

theorem memWf_failTile {s : State} {cl : ℕ} {t : MTile} (h : s.memWf = true) :
    (failTile s cl t).memWf = true :=
  memWf_laterAll (memWf_endTile (memWf_setMx h))

theorem memWf_failTiles {cl ctx handle x : ℕ} {x1 : State} (h : x1.memWf = true) :
    (failTiles cl ctx handle x x1).memWf = true := by
  fun_induction failTiles
  · exact h
  · rename_i e6
    exact e6 (memWf_failTile h)
  · exact h

theorem memWf_imgFail {s : State} {cl : ℕ} {w : WSlot} {ld : WLoad} {cls addr : ℕ} (h : s.memWf = true) :
    (imgFail s cl w ld cls addr).memWf = true :=
  memWf_failOp (memWf_setMx (memWf_failTiles (memWf_setMx (memWf_clearXfaults h))))

theorem memWf_imgDone {s : State} {cl : ℕ} {w : WSlot} {ld : WLoad} {es : List (BitVec 64)} {sc : List (BitVec 8)} {stored : ℕ}
    (h : s.memWf = true) :
    (imgDone s cl w ld es sc stored).memWf = true :=
  memWf_later (memWf_finishOp (memWf_setMx (memWf_clearXfaults h)))

theorem memWf_execMbldReadEnd {cl ctx handle : ℕ} {s : State} (h : s.memWf = true) :
    OutOk (execMbldReadEnd cl ctx handle s) := by
  unfold execMbldReadEnd
  split
  · exact OutOk.next h
  · split
    · exact OutOk.next h
    · split
      · exact OutOk.next (memWf_engAsk h)
      · exact OutOk.next (memWf_imgFail h)
      · exact OutOk.next (memWf_imgFail h)
      · exact OutOk.next h
      · split
        · dsimp only
          split
          · exact OutOk.next (memWf_imgDone (memWf_touchPlaces h))
          · exact OutOk.next (memWf_imgFail (memWf_touchPlaces h))
        · dsimp only
          split
          · exact OutOk.next (memWf_imgDone (memWf_touchPlaces (memWf_countLines h)))
          · exact OutOk.next (memWf_imgFail (memWf_touchPlaces (memWf_countLines h)))

theorem memWf_setRay {s : State} {id : ℕ} {f : Ray → Ray} (h : s.memWf = true) :
    (setRay s id f).memWf = true :=
  memWf_mk h

theorem memWf_travPlaces {s : State} {r : Ray} {va n need : ℕ} :
    Steps (fun _ => True) (travPlaces s r va n need) := by
  unfold travPlaces
  split
  · exact Steps.ok trivial
  · exact Steps.error trivial
  · exact Steps.error trivial
  · exact Steps.error trivial
  · exact Steps.error trivial

theorem memWf_travGet {s : State} {r : Ray} {va n : ℕ} (h : s.memWf = true) :
    Steps (fun x => x.1.memWf = true) (travGet s r va n) := by
  unfold travGet
  refine memWf_travPlaces.bind ?_
  intro x1 h2
  dsimp only
  split
  · exact Steps.error (memWf_touchPlaces (memWf_countLines h))
  · exact Steps.ok (memWf_touchPlaces (memWf_countLines h))

theorem memWf_travEntries {s : State} {r : Ray} {t : Trav} (h : s.memWf = true) :
    Steps (fun x => x.1.memWf = true) (travEntries s r t) := by
  unfold travEntries
  split
  · exact Steps.ok h
  · exact (memWf_travGet h).bind (fun ⟨t3, x4⟩ h5 => Steps.ok h5)

theorem memWf_reenter {s : State} {r : Ray} {t : Trav} (h : s.memWf = true) :
    Steps (fun x => x.1.memWf = true) (reenter s r t) := by
  unfold reenter
  split
  · exact Steps.ok h
  · refine (memWf_travGet h).bind ?_
    rintro ⟨t3, x4⟩ h5
    split
    · rename_i e9
      dsimp only
      split
      · exact Steps.ok (memWf_fst e9 h5)
      · exact Steps.ok (memWf_fst e9 h5)

theorem memWf_resumeTrep {s : State} {r : Ray} {t : Trav} (h : s.memWf = true) :
    Steps (fun x => x.1.memWf = true) (resumeTrep s r t) := by
  unfold resumeTrep
  split
  · exact Steps.ok h
  · refine (memWf_travEntries h).bind ?_
    rintro ⟨t3, x4⟩ h5
    split
    · rename_i e9
      split
      · exact Steps.ok (memWf_fst e9 h5)
      · split
        · exact Steps.ok (memWf_fst e9 h5)
        · refine (memWf_reenter (memWf_fst e9 h5)).bind ?_
          rintro ⟨t14, x15⟩ h16
          split
          · rename_i e19
            exact Steps.ok (memWf_fst e19 h16)
          · rename_i e23
            exact Steps.ok (memWf_fst e23 h16)

theorem memWf_travPut {s : State} {r : Ray} {va : ℕ} {bs : List (BitVec 8)} (h : s.memWf = true) :
    Steps (fun x => x.memWf = true) (travPut s r va bs) :=
  memWf_travPlaces.bind (fun _ _ => Steps.ok (memWf_writeHome (memWf_countLines h)))

theorem memWf_travLog {s : State} {r : Ray} {t : Trav} {kind addr idx dec : ℕ} {v : Option XV} (h : s.memWf = true) :
    Steps (fun x => x.1.memWf = true) (travLog s r t kind addr idx dec v) := by
  unfold travLog
  split
  · exact Steps.ok h
  · split
    · exact Steps.ok h
    · exact (memWf_travPut h).bind (fun _ h6 => Steps.ok h6)

theorem memWf_travPop {s : State} {r : Ray} {t : Trav} (h : s.memWf = true) : Steps (fun x => x.1.memWf = true) (travPop s r t)
    := by
  unfold travPop
  dsimp only
  split
  · exact .ok h
  · split
    · exact .ok h
    · exact ((memWf_travGet h).map (Q := fun x : State × ℕ => x.1.memWf = true) fun x hx => hx).bind fun x hx => .ok hx

theorem memWf_resumeTrav {s : State} {r : Ray} {t : Trav} (h : s.memWf = true) :
    Steps (fun x => x.1.memWf = true) (resumeTrav s r t) := by
  unfold resumeTrav
  split
  · exact Steps.ok h
  · split
    · exact Steps.ok h
    · refine (memWf_travEntries h).bind ?_
      rintro ⟨t5, x6⟩ h7
      split
      · rename_i e11
        split
        · exact Steps.ok (memWf_fst e11 h7)
        · refine (memWf_reenter (memWf_fst e11 h7)).bind ?_
          rintro ⟨t14, x15⟩ h16
          dsimp only
          split
          · rename_i e19
            exact Steps.ok (memWf_fst e19 h16)
          · rename_i e23
            split
            · exact Steps.ok (memWf_fst e23 h16)
            · refine (memWf_travLog (memWf_fst e23 h16)).bind ?_
              rintro ⟨t26, x27⟩ h28
              split
              · exact Steps.ok h28
              · split
                · exact Steps.ok h28
                · exact memWf_travPop h28

theorem memWf_naming {ref : ℕ} {x : TTry (State × List (BitVec 8))} (h : Steps (fun x => x.1.memWf = true) x) :
    Steps (fun x => x.1.memWf = true) (naming ref x) := by
  unfold naming
  split
  · exact .error trivial
  · have stopped := h.2 _ rfl
    exact .error stopped
  · exact h

theorem memWf_replay {s : State} {r : Ray} {t : Trav} (h : s.memWf = true) : Steps (fun x => x.1.memWf = true) (replay s r t) :=
    by
  unfold replay
  split
  · exact .ok h
  · split
    · exact .ok h
    · refine (memWf_travGet h).bind fun x hx => ?_
      dsimp only
      split
      · exact .ok hx
      · refine (memWf_naming (memWf_travGet hx)).bind fun y hy => ?_
        split
        · exact .ok hy
        · exact .ok hy
      · exact (memWf_naming (memWf_travGet hx)).bind fun y hy => .ok hy
      · exact (memWf_naming (memWf_travGet hx)).bind fun y hy => .ok hy
      · exact .ok hx
      · exact .ok hx

theorem memWf_travPush {s : State} {r : Ray} {t : Trav} {ref : ℕ} (h : s.memWf = true) :
    Steps (fun x => x.1.memWf = true) (travPush s r t ref) := by
  unfold travPush
  split
  · exact Steps.ok h
  · split
    · exact Steps.ok h
    · exact (memWf_travPut h).bind (fun _ h6 => Steps.ok h6)

theorem memWf_travPushes {s : State} {r : Ray} {t : Trav} {x : List ℕ} (h : s.memWf = true) :
    Steps (fun x => x.1.memWf = true) (travPushes s r t x) := by
  fun_induction travPushes
  · exact Steps.ok h
  · rename_i e7
    refine (memWf_travPush h).bind ?_
    rintro ⟨t8, x9, x10⟩ h11
    split
    · rename_i e16
      split
      · exact e7 _ _ (memWf_fst e16 h11)
      · exact Steps.ok (memWf_fst e16 h11)

theorem memWf_visitNode {s : State} {r : Ray} {t : Trav} (h : s.memWf = true) :
    Steps (fun x => x.1.memWf = true) (visitNode s r t) := by
  unfold visitNode
  split
  · exact Steps.ok h
  · refine (memWf_travGet h).bind ?_
    rintro ⟨t3, x4⟩ h5
    split
    · rename_i e9
      split
      · exact Steps.ok (memWf_fst e9 h5)
      · dsimp only
        refine (memWf_travLog (memWf_fst e9 h5)).bind ?_
        rintro ⟨t12, x13⟩ h14
        refine (memWf_travPushes h14).bind ?_
        rintro ⟨t15, x16, x17⟩ h18
        split
        · exact memWf_travPop h18
        · exact Steps.ok h18

theorem memWf_visitTri {s : State} {r : Ray} {t : Trav} (h : s.memWf = true) : Steps (fun x => x.1.memWf = true) (visitTri s r t)
    := by
  unfold visitTri
  refine (memWf_travGet h).bind fun x hx => ?_
  refine (memWf_travLog hx).bind fun y hy => ?_
  dsimp only
  split
  · exact .ok hy
  · split
    · exact .ok hy
    · exact memWf_travPop hy

theorem memWf_visitInst {s : State} {r : Ray} {t : Trav} (h : s.memWf = true) :
    Steps (fun x => x.1.memWf = true) (visitInst s r t) := by
  unfold visitInst
  split
  · exact Steps.ok h
  · refine (memWf_travPushes h).bind ?_
    rintro ⟨t3, x4, x5⟩ h6
    split
    · rename_i e11
      split
      · exact Steps.ok (memWf_fst e11 h6)
      · refine (memWf_travGet (memWf_fst e11 h6)).bind ?_
        rintro ⟨t14, x15⟩ h16
        split
        · rename_i e20
          dsimp only
          split
          · exact Steps.ok (memWf_fst e20 h16)
          · split
            · exact memWf_travPop (memWf_fst e20 h16)
            · exact (memWf_travLog (memWf_fst e20 h16)).bind (fun ⟨t25, x26⟩ h27 => Steps.ok h27)

theorem memWf_visitUser {s : State} {r : Ray} {t : Trav} (h : s.memWf = true) :
    Steps (fun x => x.1.memWf = true) (visitUser s r t) :=
  (memWf_travGet h).bind (fun ⟨_, _⟩ h3 => Steps.ok h3)

theorem memWf_visit {s : State} {r : Ray} {t : Trav} (h : s.memWf = true) :
    Steps (fun x => x.1.memWf = true) (visit s r t) := by
  unfold visit
  split
  · exact memWf_travPop h
  · exact memWf_visitNode h
  · exact memWf_visitTri h
  · exact memWf_visitInst h
  · exact memWf_visitUser h
  · split
    · exact Steps.ok h
    · exact (memWf_travLog h).bind (fun ⟨t15, x16⟩ h17 => memWf_travPop h17)
  · exact Steps.ok h

theorem memWf_laneStep {s : State} {r : Ray} {t : Trav} (h : s.memWf = true) :
    Steps (fun x => x.1.memWf = true) (laneStep s r t) := by
  unfold laneStep
  split
  · split
    · exact Steps.error h
    · split
      · exact Steps.ok h
      · split
        · exact memWf_resumeTrep h
        · exact memWf_resumeTrav h
  · split
    · exact Steps.ok h
    · split
      · exact memWf_replay h
      · exact memWf_visit h

theorem memWf_putTrav {s : State} {r : Ray} {t : Trav} (h : s.memWf = true) :
    (putTrav s r t).memWf = true :=
  memWf_ite (memWf_writeHome h) h

theorem memWf_endTravWord {s : State} {r : Ray} (h : s.memWf = true) :
    (endTravWord s r).memWf = true := by
  unfold endTravWord
  dsimp only
  split
  · exact h
  · refine memWf_later ?_
    refine memWf_finishOp ?_
    refine memWf_setPending ?_
    split
    · exact memWf_l1Drop (memWf_mk h)
    · exact memWf_mk h

theorem memWf_endLane {s : State} {r : Ray} {t : Trav} {code : ℕ} (h : s.memWf = true) :
    (endLane s r t code).memWf = true :=
  memWf_endTravWord (memWf_setRay (memWf_clearXfaults h))

theorem memWf_faultLane {s : State} {r : Ray} {t : Trav} {cls detail addr : ℕ} {put : Bool} (h : s.memWf = true) :
    (faultLane s r t cls detail addr put).memWf = true :=
  memWf_endLane (memWf_setRay (memWf_postRecs (memWf_ite (memWf_putTrav h) h)))

theorem memWf_runLane {s : State} {r : Ray} {t : Trav} {x : ℕ} (h : s.memWf = true) :
    (runLane s r t x).memWf = true := by
  fun_induction runLane
  · exact memWf_setRay h
  · exact memWf_engAsk (memWf_setRay h)
  · exact memWf_setRay h
  · exact memWf_faultLane h
  · rename_i e26
    exact memWf_faultLane ((memWf_laneStep h).2 _ e26)
  · rename_i e32
    exact memWf_faultLane ((memWf_laneStep h).2 _ e32)
  · rename_i e38 e39
    exact e39 ((memWf_laneStep h).1 _ e38)
  · rename_i e44
    exact memWf_endLane ((memWf_laneStep h).1 _ e44)
  · rename_i e51 _
    exact memWf_endLane (memWf_putTrav ((memWf_laneStep h).1 _ e51))

theorem memWf_execTraversalLaneEnd {cl id : ℕ} {s : State} (h : s.memWf = true) :
    OutOk (execTraversalLaneEnd cl id s) := by
  unfold execTraversalLaneEnd
  split
  · exact OutOk.next h
  · split
    · exact OutOk.next h
    · exact OutOk.next (memWf_runLane h)

theorem memWf_acceptDraw {s : State} {d : Draw} (h : s.memWf = true) :
    (acceptDraw s d).1.memWf = true := by
  unfold acceptDraw
  exact memWf_mk (memWf_setCtx h)

theorem memWf_setDraw {s : State} {id : ℕ} {f : Draw → Draw} (h : s.memWf = true) :
    (setDraw s id f).memWf = true :=
  memWf_mk h

theorem memWf_execDrawAccept {id : ℕ} {s : State} (h : s.memWf = true) :
    OutOk (execDrawAccept id s) := by
  unfold execDrawAccept
  split
  · exact OutOk.next h
  · split
    · split
      · exact OutOk.next h
      · split
        · dsimp only
          split
          · exact OutOk.next h
          · refine OutOk.next ?_
            refine memWf_wakePlacement ?_
            split
            · exact memWf_beginCmd (memWf_ite (memWf_setDraw (memWf_mk (memWf_newId (memWf_newId h))))
                (memWf_mk (memWf_setDraw (memWf_mk (memWf_newId (memWf_newId h))))))
            · exact memWf_ite (memWf_setDraw (memWf_mk (memWf_newId (memWf_newId h))))
                (memWf_mk (memWf_setDraw (memWf_mk (memWf_newId (memWf_newId h)))))
        · dsimp only
          split
          · exact OutOk.next (memWf_acceptDraw h)
          · refine OutOk.next ?_
            refine memWf_wakePlacement ?_
            split
            · exact memWf_beginCmd (memWf_ite (memWf_setDraw (memWf_mk (memWf_newId (memWf_newId (memWf_acceptDraw h)))))
                (memWf_mk (memWf_setDraw (memWf_mk (memWf_newId (memWf_newId (memWf_acceptDraw h)))))))
            · exact memWf_ite (memWf_setDraw (memWf_mk (memWf_newId (memWf_newId (memWf_acceptDraw h)))))
                (memWf_mk (memWf_setDraw (memWf_mk (memWf_newId (memWf_newId (memWf_acceptDraw h))))))
    · split
      · exact OutOk.next h
      · split
        · dsimp only
          split
          · exact OutOk.next h
          · refine OutOk.next ?_
            refine memWf_wakePlacement ?_
            split
            · exact memWf_beginCmd (memWf_ite (memWf_setDraw (memWf_mk (memWf_newId (memWf_newId h))))
                (memWf_mk (memWf_setDraw (memWf_mk (memWf_newId (memWf_newId h))))))
            · exact memWf_ite (memWf_setDraw (memWf_mk (memWf_newId (memWf_newId h))))
                (memWf_mk (memWf_setDraw (memWf_mk (memWf_newId (memWf_newId h)))))
        · dsimp only
          split
          · exact OutOk.next (memWf_acceptDraw h)
          · refine OutOk.next ?_
            refine memWf_wakePlacement ?_
            split
            · exact memWf_beginCmd (memWf_ite (memWf_setDraw (memWf_mk (memWf_newId (memWf_newId (memWf_acceptDraw h)))))
                (memWf_mk (memWf_setDraw (memWf_mk (memWf_newId (memWf_newId (memWf_acceptDraw h)))))))
            · exact memWf_ite (memWf_setDraw (memWf_mk (memWf_newId (memWf_newId (memWf_acceptDraw h)))))
                (memWf_mk (memWf_setDraw (memWf_mk (memWf_newId (memWf_newId (memWf_acceptDraw h))))))

theorem memWf_bumpRas {s : State} {st lo : ℕ} (h : s.memWf = true) :
    (bumpRas s st lo).memWf = true :=
  memWf_mk h

theorem memWf_execPrimitiveSetup {st : ℕ} {s : State} (h : s.memWf = true) :
    OutOk (execPrimitiveSetup st s) := by
  unfold execPrimitiveSetup
  split
  · exact OutOk.next h
  · split
    · exact OutOk.next h
    · split
      · dsimp only
        split
        · exact OutOk.next (memWf_laterAll (memWf_mk (memWf_bumpRas (memWf_mk (memWf_setDraw h)))))
        · exact OutOk.next (memWf_laterAll (memWf_bumpRas (memWf_bumpRas (memWf_mk (memWf_setDraw h)))))
      · dsimp only
        split
        · exact OutOk.next (memWf_laterAll (memWf_mk (memWf_bumpRas (memWf_mk (memWf_setDraw h)))))
        · exact OutOk.next (memWf_laterAll (memWf_bumpRas (memWf_bumpRas (memWf_mk (memWf_setDraw h)))))

theorem memWf_dropQuad {s : State} {id : ℕ} (h : s.memWf = true) :
    (dropQuad s id).memWf = true :=
  memWf_mk h

theorem memWf_reserve {d : Draw} {q : Quad} {ks : List (ℕ × ℕ × ℕ × ℕ × ℕ × ℕ)} {s : State} (h : s.memWf = true) :
    (reserve d q ks s).memWf = true := by
  induction ks generalizing s with
  | nil => exact h
  | cons k ks ih => exact ih (memWf_mk (memWf_newId (memWf_fqTake h)))

theorem memWf_packQuad {s : State} {q : Quad} (h : s.memWf = true) :
    (packQuad s q).memWf = true :=
  memWf_mk h

theorem memWf_ticketQuad {s : State} {q : Quad} (h : s.memWf = true) :
    (ticketQuad s q).memWf = true := by
  unfold ticketQuad
  split
  · exact memWf_dropQuad h
  · exact memWf_laterAll (memWf_fqLeave (memWf_packQuad (memWf_reserve h)))

theorem memWf_hizMake {s : State} {h layer : ℕ} {q : Quad} (hs : s.memWf = true) :
    (hizMake s h layer q).memWf = true :=
  memWf_foldl hs (fun _ _ h3 => memWf_ite h3 (memWf_mk h3))

theorem memWf_hizTest {s : State} {q : Quad} (h : s.memWf = true) :
    (hizTest s q).1.memWf = true := by
  unfold hizTest
  split
  · exact h
  · split
    · split
      · split
        · exact h
        · split
          · exact h
          · exact memWf_hizMake h
      · exact h
    · exact h

theorem memWf_rasterOn {s : State} {st : ℕ} (h : s.memWf = true) :
    (rasterOn s st).memWf = true :=
  memWf_ite (memWf_later h) (memWf_later h)

theorem memWf_setQuad {s : State} {id : ℕ} {f : Quad → Quad} (h : s.memWf = true) :
    (setQuad s id f).memWf = true :=
  memWf_mk h

theorem memWf_execQuadTicketReserve {st : ℕ} {s : State} (h : s.memWf = true) :
    OutOk (execQuadTicketReserve st s) := by
  unfold execQuadTicketReserve
  split
  · dsimp only
    split
    · exact OutOk.next (memWf_ticketQuad h)
    · exact OutOk.next h
  · split
    · rename_i e13
      dsimp only
      split
      · exact OutOk.next (memWf_ticketQuad h)
      · split
        · exact OutOk.next h
        · exact OutOk.next (memWf_later (memWf_rasterOn (memWf_bumpRas (memWf_dropQuad (memWf_fst e13 (memWf_hizTest h))))))
    · rename_i e23
      dsimp only
      split
      · exact OutOk.next (memWf_ticketQuad h)
      · split
        · exact OutOk.next h
        · split
          · exact OutOk.next (memWf_rasterOn (memWf_ticketQuad (memWf_fst e23 (memWf_hizTest h))))
          · exact OutOk.next (memWf_rasterOn (memWf_setQuad (memWf_fqTake (memWf_fst e23 (memWf_hizTest h)))))

theorem memWf_execFragmentGroupDispatch {st : ℕ} {s : State} (h : s.memWf = true) :
    OutOk (execFragmentGroupDispatch st s) := by
  unfold execFragmentGroupDispatch
  split
  · exact OutOk.next h
  · split
    · exact OutOk.next (memWf_dropQuad h)
    · split
      · dsimp only
        split
        · exact OutOk.next h
        · exact OutOk.next (memWf_later (memWf_foldl (memWf_setDraw (memWf_startTeam h)) (fun _ _ h22 => memWf_setQuad h22)))
      · dsimp only
        split
        · exact OutOk.next h
        · exact OutOk.next h

theorem memWf_failDraw {s : State} {d : Draw} {cls detail addr : ℕ} (h : s.memWf = true) :
    (failDraw s d cls detail addr).memWf = true := by
  unfold failDraw
  split
  · exact memWf_endDraw (memWf_postRecs h)

theorem memWf_execDrawComplete {id : ℕ} {s : State} (h : s.memWf = true) :
    OutOk (execDrawComplete id s) := by
  unfold execDrawComplete
  split
  · exact OutOk.next h
  · split
    · exact OutOk.next (memWf_ite (memWf_endDraw h) h)
    · split
      · exact OutOk.next h
      · refine OutOk.next ?_
        split
        · exact memWf_endDraw h
        · split
          · exact memWf_endDraw (memWf_engWrite h)
          · exact memWf_engAsk h
          · exact h
          · exact memWf_failDraw h
          · exact memWf_failDraw h
        · exact memWf_endDraw (memWf_coreWrite h)
        · exact memWf_endDraw h

end Sys2Proof.Machine
end

section
/-! The canonical form of memory (log 3): rounds, the issue of words, placement, saves and migration. -/
namespace Sys2Proof.Machine

theorem memWf_countStops {s : State} (h : s.memWf = true) :
    (countStops s).memWf = true :=
  memWf_foldl h (fun _ _ h3 => memWf_ite (memWf_bumpRas h3) h3)

theorem memWf_noteQueue {s : State} {q : ℕ} (h : s.memWf = true) :
    (noteQueue s q).memWf = true :=
  memWf_setFq h

theorem memWf_resumePaused {s : State} (h : s.memWf = true) :
    (resumePaused s).memWf = true :=
  memWf_ite h (memWf_laterAll (memWf_mk h))

theorem memWf_deviceRound {s : State} (h : s.memWf = true) :
    (deviceRound s).memWf = true :=
  memWf_laterAll (memWf_foldr (memWf_foldl (memWf_foldl (memWf_resumePaused
    (memWf_retryHinge (memWf_retryHinge (memWf_foldl (memWf_countStops
    (memWf_foldl (memWf_mk h) (fun _ _ h3 => memWf_noteQueue h3))) (fun _ ⟨_, _⟩ h7 => memWf_flushRecs h7)))))
    (fun _ ⟨_, _⟩ h11 => memWf_freeSlotState h11)) (fun _ ⟨_, _⟩ h15 => memWf_writeProgress h15))
    (fun ⟨_, _, _⟩ _ h20 => memWf_runCmd h20))

theorem memWf_dropRays {s : State} {key : ℕ} (h : s.memWf = true) :
    (dropRays s key).memWf = true :=
  memWf_mk h

theorem memWf_dropTiles {s : State} {key : ℕ} (h : s.memWf = true) :
    (dropTiles s key).memWf = true :=
  memWf_mk h

theorem memWf_killGroup {s : State} {key : ℕ} (h : s.memWf = true) :
    (killGroup s key).memWf = true := by
  unfold killGroup
  split
  · exact h
  · exact memWf_leaveGroup (memWf_drawGroupEnds (memWf_clearXfaults
      (memWf_updG (memWf_dropCmds (memWf_dropRays (memWf_dropTiles h))))))

theorem memWf_killSlot {s : State} {core slot : ℕ} (h : s.memWf = true) :
    (killSlot s core slot).memWf = true :=
  memWf_foldl h (fun _ ⟨_, _⟩ h4 => memWf_killGroup h4)

theorem memWf_clusterRound {s : State} {cl : ℕ} (h : s.memWf = true) :
    (clusterRound s cl).memWf = true :=
  memWf_laterAll h

theorem memWf_coreCycle {s : State} {core slot : ℕ} (h : s.memWf = true) :
    (coreCycle s core slot).memWf = true :=
  memWf_ite h (memWf_mk (memWf_ite (memWf_clusterRound h) h))

theorem memWf_passOver {s : State} {core slot : ℕ} {but : Option ℕ} (h : s.memWf = true) :
    (passOver s core slot but).memWf = true :=
  memWf_foldl h (fun _ ⟨_, _⟩ h4 => memWf_ite h4 (memWf_updG h4))

theorem memWf_issueSplit {s : State} {key si : ℕ} (h : s.memWf = true) :
    (issueSplit s key si).memWf = true :=
  memWf_mk (memWf_updG h)

theorem memWf_issueGroup {s : State} {key : ℕ} {g : Group} (h : s.memWf = true) :
    (issueGroup s key g).memWf = true := by
  unfold issueGroup
  split
  · exact memWf_now h
  · split
    · exact memWf_issueSplit h
    · exact h

theorem memWf_unstall {s : State} {core slot : ℕ} {but : Option ℕ} (h : s.memWf = true) :
    (unstall s core slot but).memWf = true :=
  memWf_foldl h (fun _ ⟨_, _⟩ h4 => memWf_updG h4)

theorem memWf_chooseWord {s : State} {core slot : ℕ} (h : s.memWf = true) :
    (chooseWord s core slot).memWf = true := by
  unfold chooseWord
  dsimp only
  split
  · exact memWf_now (memWf_passOver h)
  · split
    · exact memWf_issueGroup (memWf_unstall (memWf_passOver h))
    · exact memWf_unstall (memWf_passOver h)

theorem memWf_coreStore {s : State} {core ctx : ℕ} {l : Loc} {b : BitVec 8} (h : s.memWf = true) :
    (coreStore s core ctx l b).memWf = true := by
  unfold coreStore
  split
  · exact memWf_mk (memWf_l1Fill h)
  · exact memWf_putHome h

theorem memWf_surfStore {s : State} {core h : ℕ} {cv : Bool} {ws : List (ℕ × BitVec 8)} (hs : s.memWf = true) :
    (surfStore s core h cv ws).memWf = true :=
  memWf_foldl (memWf_writeSurf hs) (fun _ ⟨_, _⟩ h4 => memWf_mk h4)

theorem memWf_storeAll {s : State} {core ctx : ℕ} {ws : List (Loc × BitVec 8)} (h : s.memWf = true) :
    (storeAll s core ctx ws).memWf = true :=
  memWf_foldl (memWf_foldl (memWf_mergePlaces _ _ _ (memWf_countLines h)) (fun _ ⟨_, _⟩ h4 => memWf_ite h4 (memWf_coreStore h4)))
    (fun _ ⟨_, _⟩ h8 => memWf_surfStore h8)

theorem memWf_settleOwn {s : State} {key : ℕ} {ls : List Loc} (h : s.memWf = true) :
    (settleOwn s key ls).memWf = true := by
  unfold settleOwn
  refine memWf_foldl h ?_
  intro t1 x2 h3
  refine memWf_applyReq ?_
  split
  · exact memWf_l1Drop h3
  · exact h3

theorem memWf_sendReq {s : State} {key core ctx lane : ℕ} {kind : SReqKind} {ret : Option (ℕ × List ℕ)} (h : s.memWf = true) :
    (sendReq s key core ctx lane kind ret).memWf = true := by
  unfold sendReq
  dsimp only
  exact memWf_later (memWf_sendFrames (memWf_mk (memWf_newId h)))

theorem memWf_startAtom {s : State} {key core ctx lane : ℕ} {a : AtomReq} {ret : Option (ℕ × List ℕ)} (h : s.memWf = true) :
    (startAtom s key core ctx lane a ret).memWf = true := by
  unfold startAtom
  split
  · dsimp only
    split
    · exact memWf_setPending (memWf_applyAtom h)
    · exact memWf_applyAtom h
  · exact memWf_sendReq (memWf_l1Drop h)

theorem memWf_performOp {s : State} {key core ctx : ℕ} {x : BufOp} (h : s.memWf = true) :
    (performOp s key core ctx x).memWf = true := by
  unfold performOp
  split
  · exact memWf_storeAll (memWf_settleOwn h)
  · exact memWf_startAtom h
  · exact memWf_sendReq (memWf_l1Drop h)

theorem memWf_commitRegion {s : State} {key : ℕ} (h : s.memWf = true) :
    (commitRegion s key).memWf = true := by
  unfold commitRegion
  split
  · exact memWf_foldl (memWf_updG h) (fun _ _ h6 => memWf_performOp h6)
  · exact h

theorem memWf_enterRegion {s : State} {key : ℕ} {sp : Split} (h : s.memWf = true) :
    (enterRegion s key sp).memWf = true :=
  memWf_updG (memWf_commitRegion h)

theorem memWf_leaveRegion {s : State} {key : ℕ} (h : s.memWf = true) :
    (leaveRegion s key).memWf = true :=
  memWf_updG (memWf_commitRegion h)

theorem memWf_reachHeader {s : State} {key si : ℕ} {g : Group} {sp : Split} {w : BitVec 32} (h : s.memWf = true) :
    (reachHeader s key si g sp w).memWf = true := by
  unfold reachHeader
  split
  · split
    · exact memWf_ite (memWf_takeFault h) (memWf_suspend h)
    · exact memWf_ite (memWf_takeFault h) (memWf_suspend h)
    · exact memWf_ite (memWf_takeFault h) (memWf_takeFault (memWf_updG h))
  · exact memWf_ite (memWf_takeFault h) (memWf_ite (memWf_checkBars (memWf_updG h))
      (memWf_ite (memWf_setSplit h) (memWf_setSplit (memWf_ite (memWf_enterRegion h) (memWf_ite (memWf_leaveRegion h) h)))))

theorem memWf_startClause {s : State} {key si : ℕ} (h : s.memWf = true) :
    (startClause s key si).memWf = true := by
  unfold startClause
  split
  · exact h
  · split
    · exact h
    · split
      · exact h
      · split
        · exact memWf_setSplit h
        · split
          · rename_i e18
            exact memWf_reachHeader ((memWf_fetchWord h) _ e18)
          · exact memWf_takeFault h
          · exact memWf_suspend h
          · exact memWf_suspend h
          · exact memWf_takeLoss h

theorem memWf_startClauses {s : State} {core slot : ℕ} (h : s.memWf = true) :
    (startClauses s core slot).memWf = true :=
  memWf_foldl h (fun _ ⟨_, _⟩ h4 => memWf_foldl h4 (fun _ ⟨_, _⟩ h8 => memWf_startClause h8))

theorem memWf_execIssueCycle {core slot : ℕ} {s : State} (h : s.memWf = true) :
    OutOk (execIssueCycle core slot s) := by
  unfold execIssueCycle
  split
  · exact OutOk.next h
  · split
    · dsimp only
      split
      · exact OutOk.next (memWf_deviceRound h)
      · exact OutOk.next (memWf_chooseWord (memWf_startClauses (memWf_laterAll
          (memWf_killSlot (memWf_coreCycle (memWf_deviceRound h))))))
    · dsimp only
      split
      · exact OutOk.next h
      · exact OutOk.next (memWf_chooseWord (memWf_startClauses (memWf_laterAll (memWf_killSlot (memWf_coreCycle h)))))

theorem memWf_execSplitGuardExpiry {key si : ℕ} {s : State} (h : s.memWf = true) :
    OutOk (execSplitGuardExpiry key si s) := by
  unfold execSplitGuardExpiry
  split
  · split
    · exact OutOk.next (memWf_ite (memWf_issueSplit h) h)
    · exact OutOk.next h
  · exact OutOk.next h

theorem memWf_execSlotStarvationGuard {core slot key : ℕ} {s : State} (h : s.memWf = true) :
    OutOk (execSlotStarvationGuard core slot key s) := by
  unfold execSlotStarvationGuard
  split
  · exact OutOk.next (memWf_ite (memWf_issueGroup h) h)
  · exact OutOk.next h

theorem memWf_execCollectorMark {key bank : ℕ} {s : State} (h : s.memWf = true) :
    OutOk (execCollectorMark key bank s) :=
  OutOk.next (memWf_ite (memWf_updG h) h)

theorem memWf_execClauseStart {key si : ℕ} {s : State} (h : s.memWf = true) :
    OutOk (execClauseStart key si s) :=
  OutOk.next (memWf_startClause h)

theorem memWf_execMayFaultChecksResolved {key : ℕ} {s : State} (h : s.memWf = true) :
    OutOk (execMayFaultChecksResolved key s) := by
  unfold execMayFaultChecksResolved
  split
  · split
    · exact OutOk.next (memWf_ite (memWf_endService h) h)
    · exact OutOk.next h
  · split
    · exact OutOk.next (memWf_ite (memWf_updG (memWf_endService h)) h)
    · split
      · exact OutOk.next h
      · split
        · split
          · dsimp only
            split
            · exact OutOk.next (memWf_updG h)
            · exact OutOk.next (memWf_mk (memWf_updG h))
          · dsimp only
            split
            · exact OutOk.next (memWf_updG h)
            · exact OutOk.next (memWf_later (memWf_updG h))
        · dsimp only
          split
          · exact OutOk.next (memWf_updG h)
          · exact OutOk.next (memWf_updG h)

theorem memWf_execLongLatencyCompletion {key id : ℕ} {s : State} (h : s.memWf = true) :
    OutOk (execLongLatencyCompletion key id s) := by
  unfold execLongLatencyCompletion
  split
  · exact OutOk.next h
  · split
    · exact OutOk.next h
    · split
      · exact OutOk.next h
      · split
        · exact OutOk.next (memWf_updG h)
        · exact OutOk.next (memWf_standing (memWf_updG h))

theorem memWf_execWatchdogExpiry {key t : ℕ} {s : State} (h : s.memWf = true) :
    OutOk (execWatchdogExpiry key t s) := by
  unfold execWatchdogExpiry
  dsimp only
  split
  · exact OutOk.next (memWf_atTime h)
  · split
    · exact OutOk.next (memWf_atTime h)
    · split
      · exact OutOk.next (memWf_atTime h)
      · exact OutOk.next (memWf_standing (memWf_atTime h))

theorem memWf_placeNext {s : State} {lk : ℕ} {l : Launch} {core : ℕ} (h : s.memWf = true) :
    (placeNext s lk l core).memWf = true :=
  memWf_mk (memWf_startTeam h)

theorem memWf_placeCoop {lk : ℕ} {x : List ℕ} {x1 : State} (h : x1.memWf = true) :
    Finds (fun x => x.memWf = true) (placeCoop lk x x1) := by
  fun_induction placeCoop
  · exact Finds.some (memWf_mk h)
  · exact Finds.none
  · rename_i e12
    exact e12 (memWf_placeNext h)
  · exact Finds.none

theorem memWf_foundFit {s : State} {lk : ℕ} (h : s.memWf = true) :
    (foundFit s lk).memWf = true :=
  memWf_mk h

theorem memWf_resumeHarvest {s : State} {tk : ℕ} {t : Team} (h : s.memWf = true) :
    Finds (fun x => x.memWf = true) (resumeHarvest s tk t) := by
  unfold resumeHarvest
  split
  · exact Finds.some (memWf_setTeam h)
  · split
    · exact Finds.none
    · exact Finds.some (memWf_setTeam (memWf_setTeam (memWf_mk (memWf_zeroPad h))))

theorem memWf_takeRoom {s : State} {lk tk core : ℕ} (h : s.memWf = true) :
    (takeRoom s lk tk core).memWf = true :=
  memWf_ite (memWf_mk h) h

theorem memWf_thermalRec {s : State} {sensor kind value lid aux : ℕ} (h : s.memWf = true) :
    (thermalRec s sensor kind value lid aux).memWf = true :=
  memWf_ite h (memWf_ite (memWf_mk h) (memWf_signal (memWf_mk (memWf_setLogBytes _ _ _ _ h))))

theorem memWf_putPad {s : State} {core base : ℕ} {x : List (BitVec 8)} (h : s.memWf = true) :
    (putPad s core base x).memWf = true := by
  fun_induction putPad
  · exact h
  · rename_i e7
    exact e7 (memWf_mk h)

theorem memWf_restoreGroup {t old : Team} {i : Image} {rd : ℕ → ℕ → List (BitVec 8)} {s : State} {e : ℕ × Group}
    (h : s.memWf = true) :
    (restoreGroup t old i rd s e).memWf = true :=
  memWf_mk h

theorem memWf_restoreTeam {s : State} {tk : ℕ} {l : Launch} {c : Ctx} {old : Team} {core : ℕ} {ls : List Loc}
    (h : s.memWf = true) :
    (restoreTeam s tk l c old core ls).memWf = true :=
  memWf_claimCore (memWf_putSlotState (memWf_foldl (memWf_ite (memWf_l1Drop
    (memWf_putPad (memWf_l1Drop (memWf_putPad (memWf_mk (memWf_ite (memWf_thermalRec h) h))))))
    (memWf_l1Drop (memWf_putPad (memWf_mk (memWf_ite (memWf_thermalRec h) h))))) (fun _ ⟨_, _⟩ h4 => memWf_restoreGroup h4)))

theorem memWf_saveFault {s : State} {tk cid lid : ℕ} (h : s.memWf = true) :
    (saveFault s tk cid lid).memWf = true :=
  memWf_postRecs (memWf_ite (memWf_dropSaved (memWf_foldl h (fun _ _ h3 => memWf_killGroup h3)))
    (memWf_foldl h (fun _ _ h6 => memWf_killGroup h6)))

theorem memWf_placeSaved {s : State} {tk : ℕ} {l : Launch} {c : Ctx} {t : Team} {core : ℕ} (h : s.memWf = true) :
    (placeSaved s tk l c t core).memWf = true := by
  unfold placeSaved
  split
  · split
    · dsimp only
      split
      · exact memWf_engAsk (memWf_putSlotState h)
      · exact memWf_putSlotState h
      · exact memWf_ite (memWf_wakePlacement (memWf_restoreTeam (memWf_touchPlaces (memWf_clearXfaults (memWf_putSlotState h)))))
          (memWf_saveFault (memWf_touchPlaces (memWf_clearXfaults (memWf_putSlotState h))))
      · exact memWf_saveFault (memWf_clearXfaults (memWf_putSlotState h))
    · dsimp only
      split
      · exact memWf_engAsk (memWf_putSlotState h)
      · exact memWf_putSlotState h
      · exact memWf_ite (memWf_wakePlacement (memWf_restoreTeam (memWf_touchPlaces (memWf_clearXfaults (memWf_putSlotState h)))))
          (memWf_saveFault (memWf_touchPlaces (memWf_clearXfaults (memWf_putSlotState h))))
      · exact memWf_saveFault (memWf_clearXfaults (memWf_putSlotState h))
  · split
    · dsimp only
      split
      · exact memWf_engAsk h
      · exact h
      · exact memWf_ite (memWf_wakePlacement (memWf_restoreTeam (memWf_touchPlaces (memWf_clearXfaults h))))
          (memWf_saveFault (memWf_touchPlaces (memWf_clearXfaults h)))
      · exact memWf_saveFault (memWf_clearXfaults h)
    · dsimp only
      split
      · exact memWf_engAsk h
      · exact h
      · exact memWf_ite (memWf_wakePlacement (memWf_restoreTeam (memWf_touchPlaces (memWf_clearXfaults h))))
          (memWf_saveFault (memWf_touchPlaces (memWf_clearXfaults h)))
      · exact memWf_saveFault (memWf_clearXfaults h)

theorem memWf_placeOne {s : State} {cool : ℕ} {w : Waiting} (h : s.memWf = true) :
    Finds (fun x => x.memWf = true) (placeOne s cool w) := by
  unfold placeOne
  split
  · exact Finds.none
  · split
    · exact Finds.none
    · split
      · split
        · split
          · exact Finds.none
          · exact memWf_placeCoop h
        · exact Finds.map_after (fun _ => memWf_placeNext h)
      · split
        · exact Finds.none
        · split
          · exact (memWf_resumeHarvest h).map (fun _ h28 => memWf_foundFit h28)
          · exact Finds.map_after (fun _ => memWf_takeRoom (memWf_foundFit (memWf_placeSaved h)))

theorem memWf_placeFirst {s : State} {cool : ℕ} {x : List Waiting} (h : s.memWf = true) :
    Finds (fun x => x.memWf = true) (placeFirst s cool x) := by
  fun_induction placeFirst
  · exact Finds.none
  · rename_i e4
    exact Finds.some ((memWf_placeOne h) _ e4)
  · rename_i e8
    exact e8

theorem memWf_noteWaiting {s : State} {w : Waiting} (h : s.memWf = true) :
    (noteWaiting s w).memWf = true := by
  unfold noteWaiting
  split
  · exact h
  · refine memWf_mk ?_
    split
    · exact memWf_ite (memWf_later h) (memWf_ite (memWf_later h) h)
    · exact h

theorem memWf_execTeamPlacement {cool : ℕ} {s : State} (h : s.memWf = true) :
    OutOk (execTeamPlacement cool s) := by
  unfold execTeamPlacement
  refine OutOk.next ?_
  split
  · rename_i e3
    exact memWf_ite ((memWf_placeFirst h) _ e3) (memWf_later ((memWf_placeFirst h) _ e3))
  · exact memWf_laterAll (memWf_foldl h (fun _ _ h8 => memWf_noteWaiting h8))

theorem memWf_execPlacementStarvation {lk t : ℕ} {s : State} (h : s.memWf = true) :
    OutOk (execPlacementStarvation lk t s) := by
  unfold execPlacementStarvation
  dsimp only
  split
  · exact OutOk.next (memWf_atTime h)
  · split
    · exact OutOk.next (memWf_atTime h)
    · split
      · exact OutOk.next (memWf_atTime h)
      · split
        · exact OutOk.next (memWf_later (memWf_mk (memWf_atTime h)))
        · exact OutOk.next (memWf_atTime h)

theorem memWf_execPreemptionRequest {lid tk : ℕ} {s : State} (h : s.memWf = true) :
    OutOk (execPreemptionRequest lid tk s) := by
  unfold execPreemptionRequest
  split
  · exact OutOk.next (memWf_ite (memWf_preemptTeam h) h)
  · exact OutOk.next h

theorem memWf_execDrainTimeout {lid tk t : ℕ} {s : State} (h : s.memWf = true) :
    OutOk (execDrainTimeout lid tk t s) := by
  unfold execDrainTimeout
  dsimp only
  split
  · split
    · exact OutOk.next (memWf_ite (memWf_preemptTeam (memWf_atTime h)) (memWf_atTime h))
    · exact OutOk.next (memWf_atTime h)
  · exact OutOk.next (memWf_atTime h)

theorem memWf_preemptRays {s : State} {key : ℕ} (h : s.memWf = true) :
    (preemptRays s key).memWf = true := by
  unfold preemptRays
  refine memWf_foldl h ?_
  intro t1 x2 h3
  split
  · exact memWf_endLane h3
  · exact memWf_endLane (memWf_putTrav h3)
  · exact memWf_endLane (memWf_putTrav h3)

theorem memWf_settleAll {s : State} {key : ℕ} (h : s.memWf = true) :
    (settleAll s key).memWf = true :=
  memWf_foldl h (fun _ _ h3 => memWf_applyReq h3)

theorem memWf_quiesce {s : State} {key : ℕ} (h : s.memWf = true) :
    (quiesce s key).memWf = true := by
  unfold quiesce
  split
  · exact h
  · exact memWf_updG (memWf_foldl (memWf_preemptRays (memWf_settleAll
      (memWf_clearXfaults (memWf_withdrawQueue (memWf_endWaits h))))) (fun _ _ h8 => memWf_endRec h8))

theorem memWf_leaveCore {s : State} {tk : ℕ} {t : Team} {slot : ℕ} {gs : List (ℕ × Group)} (h : s.memWf = true) :
    (leaveCore s tk t slot gs).memWf = true :=
  memWf_wakePlacement (memWf_setTeam (memWf_foldl (memWf_mk (memWf_foldl h (fun _ ⟨_, _⟩ h4 => memWf_l1Clean h4)))
    (fun _ ⟨_, _⟩ h8 => memWf_noteEmpty h8)))

theorem memWf_execTeamSave {lid tk : ℕ} {s : State} (h : s.memWf = true) :
    OutOk (execTeamSave lid tk s) := by
  unfold execTeamSave
  split
  · exact OutOk.next h
  · split
    · exact OutOk.next h
    · split
      · exact OutOk.next h
      · split
        · exact OutOk.next h
        · dsimp only
          split
          · exact OutOk.next (memWf_foldl (memWf_setTeam h) (fun _ _ h21 => memWf_quiesce h21))
          · split
            · exact OutOk.next (memWf_foldl (memWf_setTeam h) (fun _ _ h27 => memWf_quiesce h27))
            · split
              · exact OutOk.next (memWf_engAsk (memWf_foldl (memWf_setTeam h) (fun _ _ h36 => memWf_quiesce h36)))
              · exact OutOk.next (memWf_foldl (memWf_setTeam h) (fun _ _ h41 => memWf_quiesce h41))
              · exact OutOk.next (memWf_leaveCore (memWf_engWrite (memWf_clearXfaults
                  (memWf_foldl (memWf_setTeam h) (fun _ _ h47 => memWf_quiesce h47)))))
              · exact OutOk.next (memWf_saveFault (memWf_clearXfaults
                  (memWf_foldl (memWf_setTeam h) (fun _ _ h54 => memWf_quiesce h54))))

theorem memWf_revokeFor {core need x : ℕ} {x1 : State} (h : x1.memWf = true) :
    (revokeFor core need x x1).memWf = true := by
  fun_induction revokeFor
  · exact h
  · exact h
  · rename_i e11
    exact e11 (memWf_revokeTeam h)
  · exact h

theorem memWf_execHarvestRevocation {core reason amount : ℕ} {s : State} (h : s.memWf = true) :
    OutOk (execHarvestRevocation core reason amount s) := by
  unfold execHarvestRevocation
  refine OutOk.next ?_
  refine memWf_wakePlacement ?_
  split
  · exact memWf_revokeFor h
  · exact memWf_foldl h (fun _ ⟨x4, x5⟩ h6 => memWf_parkTeam h6)
  · exact memWf_foldl h (fun _ ⟨x11, x12⟩ h13 => memWf_revokeTeam (memWf_endTeamWaits h13))

theorem memWf_execThermalLimitCrossing {sensor : ℕ} {up : Bool} {value limit : BitVec 32} {s : State} (h : s.memWf = true) :
    OutOk (execThermalLimitCrossing sensor up value limit s) := by
  unfold execThermalLimitCrossing
  split
  · exact OutOk.next h
  · exact OutOk.next (memWf_ite (memWf_thermalRec (memWf_ite (memWf_mk h) h))
      (memWf_wakePlacement (memWf_thermalRec (memWf_ite (memWf_mk h) h))))

theorem memWf_execThermalMigration {lid tk : ℕ} {s : State} (h : s.memWf = true) :
    OutOk (execThermalMigration lid tk s) := by
  unfold execThermalMigration
  split
  · exact OutOk.next h
  · split
    · exact OutOk.next h
    · split
      · dsimp only
        split
        · exact OutOk.next h
        · exact OutOk.next (memWf_preemptTeam (memWf_setTeam h))
      · split
        · dsimp only
          split
          · exact OutOk.next h
          · exact OutOk.next h
        · dsimp only
          split
          · exact OutOk.next h
          · exact OutOk.next (memWf_preemptTeam (memWf_setTeam (memWf_mk h)))

theorem memWf_measure {s : State} {cl : ℕ} {shift slack : BitVec 32} {ceiling : ℕ} (h : s.memWf = true) :
    (measure s cl shift slack ceiling).memWf = true :=
  memWf_wakePlacement (memWf_ite (memWf_mk (memWf_thermalRec h)) (memWf_thermalRec (memWf_mk (memWf_thermalRec h))))

theorem memWf_execAgeingMeasurement {cl t : ℕ} {shift slack : BitVec 32} {ceiling : ℕ} {s : State} (h : s.memWf = true) :
    OutOk (execAgeingMeasurement cl t shift slack ceiling s) := by
  unfold execAgeingMeasurement
  dsimp only
  split
  · exact OutOk.next (memWf_atTime h)
  · exact OutOk.next (memWf_measure (memWf_atTime h))

theorem memWf_execForcedAgeingMeasurement {cl t : ℕ} {shift slack : BitVec 32} {ceiling : ℕ} {s : State} (h : s.memWf = true) :
    OutOk (execForcedAgeingMeasurement cl t shift slack ceiling s) := by
  unfold execForcedAgeingMeasurement
  dsimp only
  split
  · exact OutOk.next (memWf_atTime h)
  · exact OutOk.next (memWf_measure (memWf_atTime h))

theorem memWf_losePeer {s : State} {dev : ℕ} (h : s.memWf = true) :
    (losePeer s dev).memWf = true :=
  memWf_foldl (memWf_foldl h (fun _ _ h3 => memWf_endLost h3)) (fun _ ⟨_, _, _⟩ h8 => memWf_postRecs h8)

theorem memWf_execPeerPortDown {p : ℕ} {s : State} (h : s.memWf = true) :
    OutOk (execPeerPortDown p s) := by
  unfold execPeerPortDown
  dsimp only
  split
  · exact OutOk.next h
  · exact OutOk.next (memWf_ite (memWf_setPort h) (memWf_losePeer (memWf_setPort h)))

theorem memWf_peerPart {s : State} {ctx peer who : ℕ} {data : List (BitVec 8)} {bad : Bool} (h : s.memWf = true) :
    (peerPart s ctx peer who data bad).memWf = true :=
  memWf_mk h

theorem memWf_peerStore {s : State} {dev src seq la : ℕ} {data : List (BitVec 8)} {bad : Bool} (h : s.memWf = true) :
    Finds (fun x => x.memWf = true) (peerStore s dev src seq la data bad) := by
  unfold peerStore
  split
  · dsimp only
    split
    · exact Finds.some h
    · split
      · exact Finds.none
      · exact (memWf_markRoom h).map (fun _ h7 => memWf_sectorRec _ _ _ _
          (memWf_poisonPlaces _ _ (memWf_putMark (memWf_setLogBytes _ _ _ _ h7))))
  · dsimp only
    split
    · exact Finds.some h
    · split
      · exact Finds.none
      · exact (memWf_markRoom h).map (fun _ h14 => memWf_putMark (memWf_setLogBytes _ _ _ _ h14))

theorem memWf_execPeerReceive {dev : PeerHead} {la : ℕ} {data : List (BitVec 8)} {crc : BitVec 16} {poisoned : Bool} {s : State}
    (h : s.memWf = true) :
    OutOk (execPeerReceive dev la data crc poisoned s) := by
  unfold execPeerReceive
  split
  · split
    · dsimp only
      split
      · exact OutOk.next h
      · split
        · exact OutOk.next (memWf_setPort h)
        · split
          · exact OutOk.next (memWf_clearXfaults (memWf_setPort h))
          · split
            · exact OutOk.next (memWf_holdBack (memWf_later (memWf_setPort h)))
            · exact OutOk.next (memWf_setPort h)
            · exact OutOk.next (memWf_peerPart (memWf_setPort h))
    · dsimp only
      split
      · exact OutOk.next h
      · split
        · exact OutOk.next (memWf_setPort h)
        · split
          · exact OutOk.next (memWf_clearXfaults (memWf_setPort h))
          · split
            · exact OutOk.next (memWf_holdBack (memWf_later (memWf_setPort h)))
            · exact OutOk.next (memWf_setPort h)
            · split
              · rename_i e47
                exact OutOk.next ((memWf_peerStore (memWf_setPort h)) _ e47)
              · exact OutOk.next (memWf_holdBack (memWf_setPort h))

end Sys2Proof.Machine
end

section
/-! The canonical form of memory (log 3): how a word is run; scalar, vector and floating-point words. -/
namespace Sys2Proof.Machine

theorem memWf_stalled {s : State} {c : WCtx} (h : s.memWf = true) :
    (stalled s c).memWf = true :=
  memWf_updG (memWf_mk h)

theorem memWf_settle {s : State} {c : WCtx} {done : State → State} {x : Try State} (h : s.memWf = true)
    (hdone : ∀ t, t.memWf = true → (done t).memWf = true) (hx : Yields MemOk x) : (settle s c done x).memWf = true := by
  unfold settle
  split
  · exact hdone _ (hx _ rfl)
  · exact memWf_takeFault h
  · exact memWf_stalled h
  · exact memWf_suspend (memWf_mk h)
  · exact memWf_takeLoss h

theorem memWf_retire {s : State} {c : WCtx} (h : s.memWf = true) :
    (retire s c).memWf = true :=
  memWf_updG (memWf_mk (memWf_clearXfaults h))

theorem memWf_runCtl {s : State} {body : WCtx → State → Try State} (h : s.memWf = true)
    (hbody : ∀ (a : WCtx) (a_1 : State), a_1.memWf = true → Yields (fun x => x.memWf = true) (body a a_1)) :
    OutOk (runCtl s body) := by
  unfold runCtl
  split
  · exact OutOk.fault
  · exact OutOk.next (memWf_settle h (fun _ h7 => memWf_retire h7) (hbody _ _ h))

theorem memWf_advance {s : State} {c : WCtx} (h : s.memWf = true) :
    (advance s c).memWf = true :=
  memWf_setSplit h

theorem memWf_execNop {_p : BitVec 3} {_i : BitVec 1} {_o : BitVec 21} {s : State} (h : s.memWf = true) :
    OutOk (execNop _p _i _o s) :=
  memWf_runCtl h (fun _ _ h3 => Yields.ok (memWf_advance h3))

theorem memWf_runSelected {s : State} {p : BitVec 3} {i : BitVec 1} {body : WCtx → State → Try State} (h : s.memWf = true)
    (hbody : ∀ (a : WCtx) (a_1 : State), a_1.memWf = true → Yields (fun x => x.memWf = true) (body a a_1)) :
    OutOk (runSelected s p i body) :=
  memWf_runCtl h (fun _ _ h3 => hbody _ _ h3)

theorem memWf_branch {s : State} {c : WCtx} {opts : List Opt} {dfr : Opt} {push : Option ℕ} (h : s.memWf = true) :
    Yields (fun x => x.memWf = true) (branch s c opts dfr push) := by
  unfold branch
  split
  · exact Yields.ok h
  · split
    · exact Yields.ok (memWf_mk h)
    · exact Yields.error

theorem memWf_execBra {p : BitVec 3} {i : BitVec 1} {o : BitVec 21} {s : State} (h : s.memWf = true) :
    OutOk (execBra p i o s) := by
  unfold execBra
  refine memWf_runSelected h ?_
  intro x1 t2 h3
  split
  · exact Yields.ok (memWf_advance h3)
  · exact Yields.after (fun _ => memWf_branch h3)

theorem memWf_execBrx {p : BitVec 3} {i : BitVec 1} {r : BitVec 7} {s : State} (h : s.memWf = true) :
    OutOk (execBrx p i r s) := by
  unfold execBrx
  refine memWf_runSelected h ?_
  intro x1 t2 h3
  split
  · exact Yields.ok (memWf_advance h3)
  · exact Yields.after (fun _ => Yields.after (fun _ => memWf_branch h3))

theorem memWf_execCall {p : BitVec 3} {i : BitVec 1} {o : BitVec 21} {s : State} (h : s.memWf = true) :
    OutOk (execCall p i o s) := by
  unfold execCall
  refine memWf_runSelected h ?_
  intro x1 t2 h3
  split
  · exact Yields.ok (memWf_advance h3)
  · exact Yields.after (fun _ => memWf_branch h3)

theorem memWf_execRet {s : State} (h : s.memWf = true) :
    OutOk (execRet s) := by
  unfold execRet
  refine memWf_runCtl h ?_
  intro x1 t2 h3
  split
  · split
    · dsimp only
      split
      · exact Yields.ok (memWf_checkBars (memWf_updG h3))
      · exact memWf_illegal
    · dsimp only
      split
      · exact Yields.ok (memWf_checkBars (memWf_updG h3))
      · exact memWf_illegal
  · dsimp only
    split
    · exact Yields.ok (memWf_checkBars (memWf_updG h3))
    · exact memWf_illegal

theorem memWf_execJset {o : BitVec 21} {s : State} (h : s.memWf = true) :
    OutOk (execJset o s) := by
  unfold execJset
  refine memWf_runCtl h ?_
  intro x1 t2 h3
  split
  · exact Yields.error
  · exact Yields.ok (memWf_advance (memWf_updG h3))

theorem memWf_endGroup {s : State} {key : ℕ} (h : s.memWf = true) :
    (endGroup s key).memWf = true := by
  unfold endGroup
  split
  · exact memWf_leaveGroup (memWf_drawGroupEnds (memWf_releaseAct (memWf_commitRegion h)))
  · exact h

theorem memWf_endIfEmpty {s : State} {key : ℕ} (h : s.memWf = true) :
    (endIfEmpty s key).memWf = true := by
  unfold endIfEmpty
  split
  · exact memWf_ite (memWf_endGroup h) (memWf_checkBars h)
  · exact h

theorem memWf_execExit {p : BitVec 3} {i : BitVec 1} {s : State} (h : s.memWf = true) :
    OutOk (execExit p i s) := by
  unfold execExit
  refine memWf_runSelected h ?_
  intro x1 t2 h3
  split
  · exact Yields.ok (memWf_advance h3)
  · exact Yields.ok (memWf_endIfEmpty (memWf_updG (memWf_advance h3)))

theorem memWf_execTrap {p : BitVec 3} {i : BitVec 1} {code : BitVec 16} {s : State} (h : s.memWf = true) :
    OutOk (execTrap p i code s) := by
  unfold execTrap
  refine memWf_runSelected h ?_
  intro x1 t2 h3
  split
  · exact Yields.ok (memWf_advance h3)
  · exact Yields.after (fun _ => Yields.ok (memWf_takeFault (memWf_advance h3)))

theorem memWf_finish {s : State} {c : WCtx} (h : s.memWf = true) :
    (finish s c).memWf = true :=
  memWf_advance (memWf_retire h)

theorem memWf_runWord {s : State} {body : WCtx → State → Try State} (h : s.memWf = true)
    (hbody : ∀ (a : WCtx) (a_1 : State), a_1.memWf = true → Yields (fun x => x.memWf = true) (body a a_1)) :
    OutOk (runWord s body) := by
  unfold runWord
  split
  · exact OutOk.fault
  · exact OutOk.next (memWf_ite (memWf_finish h) (memWf_settle h (fun _ h7 => memWf_finish h7) (hbody _ _ h)))

theorem memWf_writeMode {s : State} {c : WCtx} {sel v : ℕ} (h : s.memWf = true) :
    (writeMode s c sel v).memWf = true :=
  memWf_updG h

theorem memWf_execMset {x : BitVec 7} {v : BitVec 17} {s : State} (h : s.memWf = true) :
    OutOk (execMset x v s) :=
  memWf_runWord h (fun _ _ h3 => Yields.ok (memWf_writeMode h3))

theorem memWf_execMsetReg {x : BitVec 7} {r : BitVec 6} {s : State} (h : s.memWf = true) :
    OutOk (execMsetReg x r s) := by
  unfold execMsetReg
  refine memWf_runWord h ?_
  intro x1 t2 h3
  dsimp only
  split
  · exact memWf_illegal
  · exact Yields.ok (memWf_writeMode h3)

theorem memWf_writeS {s : State} {c : WCtx} {i v : ℕ} (h : s.memWf = true) :
    (writeS s c i v).memWf = true :=
  memWf_updG h

theorem memWf_execMget {d : BitVec 7} {x : BitVec 9} {s : State} (h : s.memWf = true) :
    OutOk (execMget d x s) :=
  memWf_runWord h (fun _ _ h3 => Yields.ok (memWf_writeS h3))

theorem memWf_execSli {d : BitVec 7} {i : BitVec 18} {s : State} (h : s.memWf = true) :
    OutOk (execSli d i s) :=
  memWf_runWord h (fun _ _ h3 => Yields.ok (memWf_writeS h3))

theorem memWf_execSlih {d : BitVec 7} {i : BitVec 18} {s : State} (h : s.memWf = true) :
    OutOk (execSlih d i s) :=
  memWf_runWord h (fun _ _ h3 => Yields.ok (memWf_writeS h3))

theorem memWf_writePred {s : State} {c : WCtx} {p : ℕ} {f : ℕ → Bool} (h : s.memWf = true) :
    (writePred s c p f).memWf = true :=
  memWf_updG h

theorem memWf_execPset {p : BitVec 3} {v : BitVec 1} {s : State} (h : s.memWf = true) :
    OutOk (execPset p v s) :=
  memWf_runWord h (fun _ _ h3 => Yields.ok (memWf_writePred h3))

theorem memWf_execPsetS {p : BitVec 3} {x : BitVec 6} {s : State} (h : s.memWf = true) :
    OutOk (execPsetS p x s) :=
  memWf_runWord h (fun _ _ h3 => Yields.ok (memWf_writePred h3))

theorem memWf_execPsetLt {p : BitVec 3} {b : BitVec 7} {s : State} (h : s.memWf = true) :
    OutOk (execPsetLt p b s) :=
  memWf_runWord h (fun _ _ h3 => Yields.ok (memWf_writePred h3))

theorem memWf_execPmov {d : BitVec 3} {i : BitVec 1} {a : BitVec 3} {j : BitVec 1} {b : BitVec 3} {x : BitVec 9} {s : State}
    (h : s.memWf = true) :
    OutOk (execPmov d i a j b x s) :=
  memWf_runWord h (fun _ _ h3 => Yields.ok (memWf_writePred h3))

theorem memWf_execVwset {v : BitVec 2} {x : BitVec 6} {s : State} (h : s.memWf = true) :
    OutOk (execVwset v x s) := by
  unfold execVwset
  refine memWf_runWord h ?_
  intro x1 t2 h3
  dsimp only
  split
  · exact Yields.ok (memWf_updG h3)
  · exact memWf_illegal

theorem memWf_execSysr {d : BitVec 7} {x : BitVec 3} {k : BitVec 9} {s : State} (h : s.memWf = true) :
    OutOk (execSysr d x k s) :=
  memWf_runWord h (fun _ _ h3 => Yields.ok (memWf_writeS h3))

theorem memWf_scalarOp {s : State} {d a b : BitVec 7} {f : ℕ → ℕ → ℕ → ℕ} (h : s.memWf = true) :
    OutOk (scalarOp s d a b f) :=
  memWf_runWord h (fun _ _ h3 => Yields.ok (memWf_writeS h3))

theorem memWf_execSadd {d a b : BitVec 7} {s : State} (h : s.memWf = true) :
    OutOk (execSadd d a b s) :=
  memWf_scalarOp h

theorem memWf_execSsub {d a b : BitVec 7} {s : State} (h : s.memWf = true) :
    OutOk (execSsub d a b s) :=
  memWf_scalarOp h

theorem memWf_execSmul {d a b : BitVec 7} {s : State} (h : s.memWf = true) :
    OutOk (execSmul d a b s) :=
  memWf_scalarOp h

theorem memWf_execSmulh {d a b : BitVec 7} {s : State} (h : s.memWf = true) :
    OutOk (execSmulh d a b s) :=
  memWf_scalarOp h

theorem memWf_execSmad {d a b : BitVec 7} {s : State} (h : s.memWf = true) :
    OutOk (execSmad d a b s) :=
  memWf_scalarOp h

theorem memWf_execSand {d a b : BitVec 7} {s : State} (h : s.memWf = true) :
    OutOk (execSand d a b s) :=
  memWf_scalarOp h

theorem memWf_execSor {d a b : BitVec 7} {s : State} (h : s.memWf = true) :
    OutOk (execSor d a b s) :=
  memWf_scalarOp h

theorem memWf_execSxor {d a b : BitVec 7} {s : State} (h : s.memWf = true) :
    OutOk (execSxor d a b s) :=
  memWf_scalarOp h

theorem memWf_execSshl {d a b : BitVec 7} {s : State} (h : s.memWf = true) :
    OutOk (execSshl d a b s) :=
  memWf_scalarOp h

theorem memWf_execSshr {d a b : BitVec 7} {s : State} (h : s.memWf = true) :
    OutOk (execSshr d a b s) :=
  memWf_scalarOp h

theorem memWf_execSsar {d a b : BitVec 7} {s : State} (h : s.memWf = true) :
    OutOk (execSsar d a b s) :=
  memWf_scalarOp h

theorem memWf_execSmin {d a b : BitVec 7} {s : State} (h : s.memWf = true) :
    OutOk (execSmin d a b s) :=
  memWf_scalarOp h

theorem memWf_execSmax {d a b : BitVec 7} {s : State} (h : s.memWf = true) :
    OutOk (execSmax d a b s) :=
  memWf_scalarOp h

theorem memWf_execScmp {k : BitVec 4} {p : BitVec 3} {a b : BitVec 7} {s : State} (h : s.memWf = true) :
    OutOk (execScmp k p a b s) :=
  memWf_runWord h (fun _ _ h3 => Yields.ok (memWf_writePred h3))

theorem memWf_runSel {s : State} {body : WCtx → State → Try State} (h : s.memWf = true)
    (hbody : ∀ (a : WCtx) (a_1 : State), a_1.memWf = true → Yields (fun x => x.memWf = true) (body a a_1)) :
    OutOk (runSel s body) := by
  unfold runSel
  split
  · exact OutOk.fault
  · exact OutOk.next (memWf_settle h (fun _ h7 => memWf_finish h7) (hbody _ _ h))

theorem memWf_execSsel {d a b : BitVec 7} {s : State} (h : s.memWf = true) :
    OutOk (execSsel d a b s) :=
  memWf_runSel h (fun _ _ h3 => Yields.ok (memWf_writeS h3))

theorem memWf_execSbit {d x : BitVec 7} {f : BitVec 9} {s : State} (h : s.memWf = true) :
    OutOk (execSbit d x f s) :=
  memWf_runWord h (fun _ _ h3 => Yields.ok (memWf_writeS h3))

theorem memWf_writeVec {s : State} {c : WCtx} {wide : Bool} {i : ℕ} {f : ℕ → ℕ} {tag : ℕ} (h : s.memWf = true) :
    (writeVec s c wide i f tag).memWf = true :=
  memWf_updG h

theorem memWf_vec2 {s : State} {okTy : ℕ → Bool} {ca cb : TagCls} {d : BitVec 7} {i : BitVec 2} {a : BitVec 7} {j : BitVec 2}
    {b : BitVec 7} {f : Group → ℕ → ℕ → ℕ} (h : s.memWf = true) :
    OutOk (vec2 s okTy ca cb d i a j b f) :=
  memWf_runWord h (fun _ _ h3 => Yields.after (fun _ => Yields.ok (memWf_writeVec h3)))

theorem memWf_execAdd {d : BitVec 7} {i : BitVec 2} {a : BitVec 7} {j : BitVec 2} {b : BitVec 7} {s : State} (h : s.memWf = true)
    :
    OutOk (execAdd d i a j b s) :=
  memWf_vec2 h

theorem memWf_execSub {d : BitVec 7} {i : BitVec 2} {a : BitVec 7} {j : BitVec 2} {b : BitVec 7} {s : State} (h : s.memWf = true)
    :
    OutOk (execSub d i a j b s) :=
  memWf_vec2 h

theorem memWf_execMul {d : BitVec 7} {i : BitVec 2} {a : BitVec 7} {j : BitVec 2} {b : BitVec 7} {s : State} (h : s.memWf = true)
    :
    OutOk (execMul d i a j b s) :=
  memWf_vec2 h

theorem memWf_execMulh {d : BitVec 7} {i : BitVec 2} {a : BitVec 7} {j : BitVec 2} {b : BitVec 7} {s : State}
    (h : s.memWf = true) :
    OutOk (execMulh d i a j b s) :=
  memWf_vec2 h

theorem memWf_vec3 {s : State} {okTy : ℕ → Bool} {cls : TagCls} {d : BitVec 7} {i : BitVec 2} {a : BitVec 7} {j : BitVec 2}
    {b : BitVec 7} {f : Group → ℕ → ℕ → ℕ → ℕ} (h : s.memWf = true) :
    OutOk (vec3 s okTy cls d i a j b f) :=
  memWf_runWord h (fun _ _ h3 => Yields.after (fun _ => Yields.ok (memWf_writeVec h3)))

theorem memWf_execMad {d : BitVec 7} {i : BitVec 2} {a : BitVec 7} {j : BitVec 2} {b : BitVec 7} {s : State} (h : s.memWf = true)
    :
    OutOk (execMad d i a j b s) :=
  memWf_vec3 h

theorem memWf_execAndB {d : BitVec 7} {i : BitVec 2} {a : BitVec 7} {j : BitVec 2} {b : BitVec 7} {s : State}
    (h : s.memWf = true) :
    OutOk (execAndB d i a j b s) :=
  memWf_vec2 h

theorem memWf_execOrB {d : BitVec 7} {i : BitVec 2} {a : BitVec 7} {j : BitVec 2} {b : BitVec 7} {s : State} (h : s.memWf = true)
    :
    OutOk (execOrB d i a j b s) :=
  memWf_vec2 h

theorem memWf_execXorB {d : BitVec 7} {i : BitVec 2} {a : BitVec 7} {j : BitVec 2} {b : BitVec 7} {s : State}
    (h : s.memWf = true) :
    OutOk (execXorB d i a j b s) :=
  memWf_vec2 h

theorem memWf_execShl {d : BitVec 7} {i : BitVec 2} {a : BitVec 7} {j : BitVec 2} {b : BitVec 7} {s : State} (h : s.memWf = true)
    :
    OutOk (execShl d i a j b s) :=
  memWf_vec2 h

theorem memWf_execShr {d : BitVec 7} {i : BitVec 2} {a : BitVec 7} {j : BitVec 2} {b : BitVec 7} {s : State} (h : s.memWf = true)
    :
    OutOk (execShr d i a j b s) :=
  memWf_vec2 h

theorem memWf_execSar {d : BitVec 7} {i : BitVec 2} {a : BitVec 7} {j : BitVec 2} {b : BitVec 7} {s : State} (h : s.memWf = true)
    :
    OutOk (execSar d i a j b s) :=
  memWf_vec2 h

theorem memWf_execMinV {d : BitVec 7} {i : BitVec 2} {a : BitVec 7} {j : BitVec 2} {b : BitVec 7} {s : State}
    (h : s.memWf = true) :
    OutOk (execMinV d i a j b s) :=
  memWf_vec2 h

theorem memWf_execMaxV {d : BitVec 7} {i : BitVec 2} {a : BitVec 7} {j : BitVec 2} {b : BitVec 7} {s : State}
    (h : s.memWf = true) :
    OutOk (execMaxV d i a j b s) :=
  memWf_vec2 h

theorem memWf_execAbsd {d : BitVec 7} {i : BitVec 2} {a : BitVec 7} {j : BitVec 2} {b : BitVec 7} {s : State}
    (h : s.memWf = true) :
    OutOk (execAbsd d i a j b s) :=
  memWf_vec2 h

theorem memWf_execAddc {d : BitVec 7} {i : BitVec 2} {x : BitVec 7} {f : BitVec 9} {s : State} (h : s.memWf = true) :
    OutOk (execAddc d i x f s) :=
  memWf_runWord h (fun _ _ h3 => Yields.after (fun _ => Yields.ok (memWf_writePred (memWf_writeVec h3))))

theorem memWf_execBit {d : BitVec 7} {i : BitVec 2} {x : BitVec 7} {f : BitVec 9} {s : State} (h : s.memWf = true) :
    OutOk (execBit d i x f s) :=
  memWf_runWord h (fun _ _ h3 => Yields.after (fun _ => Yields.ok (memWf_writeVec h3)))

theorem memWf_execCmp {k : BitVec 4} {p : BitVec 3} {i : BitVec 2} {a : BitVec 7} {j : BitVec 2} {b : BitVec 7} {s : State}
    (h : s.memWf = true) :
    OutOk (execCmp k p i a j b s) :=
  memWf_runWord h (fun _ _ h3 => Yields.after (fun _ => Yields.ok (memWf_writePred h3)))

theorem memWf_execSel {d : BitVec 7} {i : BitVec 2} {a : BitVec 7} {j : BitVec 2} {b : BitVec 7} {s : State} (h : s.memWf = true)
    :
    OutOk (execSel d i a j b s) :=
  memWf_runSel h (fun _ _ h3 => Yields.after (fun _ => Yields.ok (memWf_writeVec h3)))

theorem memWf_execAdr {d : BitVec 7} {i : BitVec 2} {x : BitVec 7} {f : BitVec 9} {s : State} (h : s.memWf = true) :
    OutOk (execAdr d i x f s) :=
  memWf_runWord h (fun _ _ h3 => Yields.after (fun _ => Yields.ok (memWf_writeVec (memWf_writeVec h3))))

theorem memWf_execDot8 {d : BitVec 7} {i : BitVec 2} {a : BitVec 7} {j : BitVec 2} {b : BitVec 7} {s : State}
    (h : s.memWf = true) :
    OutOk (execDot8 d i a j b s) :=
  memWf_runWord h (fun _ _ h3 => Yields.after (fun _ => Yields.ok (memWf_writeVec h3)))

theorem memWf_putFloat {s : State} {c : WCtx} {wide : Bool} {d : ℕ} {vs : List (ℕ × ℕ)} {tag : ℕ} {srg : BitVec 32}
    (h : s.memWf = true) :
    (putFloat s c wide d vs tag srg).memWf = true :=
  memWf_updG h

theorem memWf_floatWord {s : State} {okTy : ℕ → Bool} {d : BitVec 7} {os : Bool → List Opnd} {f : WCtx → ℕ → ℕ → Option ℕ → FRes}
    (h : s.memWf = true) :
    OutOk (floatWord s okTy d os f) := by
  unfold floatWord
  refine memWf_runWord h ?_
  intro x1 t2 h3
  refine Yields.after ?_
  intro x4
  split
  · exact Yields.after (fun _ => Yields.ok (memWf_putFloat h3))

theorem memWf_float2 {s : State} {d : BitVec 7} {i : BitVec 2} {a : BitVec 7} {j : BitVec 2} {b : BitVec 7}
    {f : Group → XV → XV → XV} (h : s.memWf = true) :
    OutOk (float2 s d i a j b f) :=
  memWf_floatWord h

theorem memWf_execFadd {d : BitVec 7} {i : BitVec 2} {a : BitVec 7} {j : BitVec 2} {b : BitVec 7} {s : State}
    (h : s.memWf = true) :
    OutOk (execFadd d i a j b s) :=
  memWf_float2 h

theorem memWf_execFsub {d : BitVec 7} {i : BitVec 2} {a : BitVec 7} {j : BitVec 2} {b : BitVec 7} {s : State}
    (h : s.memWf = true) :
    OutOk (execFsub d i a j b s) :=
  memWf_float2 h

theorem memWf_execFmul {d : BitVec 7} {i : BitVec 2} {a : BitVec 7} {j : BitVec 2} {b : BitVec 7} {s : State}
    (h : s.memWf = true) :
    OutOk (execFmul d i a j b s) :=
  memWf_float2 h

theorem memWf_float3 {s : State} {d : BitVec 7} {i : BitVec 2} {a : BitVec 7} {j : BitVec 2} {b : BitVec 7}
    {f : Group → XV → XV → XV → XV} (h : s.memWf = true) :
    OutOk (float3 s d i a j b f) :=
  memWf_floatWord h

theorem memWf_execFfma {d : BitVec 7} {i : BitVec 2} {a : BitVec 7} {j : BitVec 2} {b : BitVec 7} {s : State}
    (h : s.memWf = true) :
    OutOk (execFfma d i a j b s) :=
  memWf_float3 h

theorem memWf_execFfms {d : BitVec 7} {i : BitVec 2} {a : BitVec 7} {j : BitVec 2} {b : BitVec 7} {s : State}
    (h : s.memWf = true) :
    OutOk (execFfms d i a j b s) :=
  memWf_float3 h

theorem memWf_execFfnma {d : BitVec 7} {i : BitVec 2} {a : BitVec 7} {j : BitVec 2} {b : BitVec 7} {s : State}
    (h : s.memWf = true) :
    OutOk (execFfnma d i a j b s) :=
  memWf_float3 h

theorem memWf_execFfnms {d : BitVec 7} {i : BitVec 2} {a : BitVec 7} {j : BitVec 2} {b : BitVec 7} {s : State}
    (h : s.memWf = true) :
    OutOk (execFfnms d i a j b s) :=
  memWf_float3 h

theorem memWf_minmaxWord {s : State} {mx : Bool} {d : BitVec 7} {i : BitVec 2} {a : BitVec 7} {j : BitVec 2} {b : BitVec 7}
    (h : s.memWf = true) :
    OutOk (minmaxWord s mx d i a j b) :=
  memWf_floatWord h

theorem memWf_execFmin {d : BitVec 7} {i : BitVec 2} {a : BitVec 7} {j : BitVec 2} {b : BitVec 7} {s : State}
    (h : s.memWf = true) :
    OutOk (execFmin d i a j b s) :=
  memWf_minmaxWord h

theorem memWf_execFmax {d : BitVec 7} {i : BitVec 2} {a : BitVec 7} {j : BitVec 2} {b : BitVec 7} {s : State}
    (h : s.memWf = true) :
    OutOk (execFmax d i a j b s) :=
  memWf_minmaxWord h

theorem memWf_execFcmp {k : BitVec 4} {p : BitVec 3} {i : BitVec 2} {a : BitVec 7} {j : BitVec 2} {b : BitVec 7} {s : State}
    (h : s.memWf = true) :
    OutOk (execFcmp k p i a j b s) := by
  unfold execFcmp
  refine memWf_runWord h ?_
  intro x1 t2 h3
  refine Yields.after ?_
  intro x4
  split
  · exact Yields.after (fun _ => Yields.ok (memWf_writePred h3))

theorem memWf_execFclass {d : BitVec 7} {i : BitVec 2} {x : BitVec 7} {s : State} (h : s.memWf = true) :
    OutOk (execFclass d i x s) :=
  memWf_runWord h (fun _ _ h3 => Yields.after (fun _ => Yields.ok (memWf_writeVec h3)))

theorem memWf_runLong {s : State} {body : WCtx → State → Try (State × Pending)} (h : s.memWf = true)
    (hbody : ∀ (a : WCtx) (a_1 : State), a_1.memWf = true → Yields (fun x => x.1.memWf = true) (body a a_1)) :
    OutOk (runLong s body) := by
  unfold runLong
  refine memWf_runWord h ?_
  intro x1 t2 h3
  split
  · split
    · exact Yields.error
    · exact (hbody _ _ h3).bind (fun ⟨t9, x10⟩ h11 => Yields.ok (memWf_updG h11))
  · exact (hbody _ _ h3).bind (fun ⟨t14, x15⟩ h16 => Yields.ok (memWf_updG h16))

theorem memWf_pendFloat {s : State} {c : WCtx} {wide : Bool} {d : ℕ} {vs : List (ℕ × ℕ)} {tag : ℕ} {srg : BitVec 32}
    (h : s.memWf = true) :
    (pendFloat s c wide d vs tag srg).1.memWf = true := by
  unfold pendFloat
  dsimp only
  exact memWf_later (memWf_updG (memWf_newId h))

theorem memWf_floatLong {s : State} {d : BitVec 7} {os : Bool → List Opnd} {f : WCtx → ℕ → ℕ → Option ℕ → FRes}
    (h : s.memWf = true) :
    OutOk (floatLong s d os f) := by
  unfold floatLong
  refine memWf_runLong h ?_
  intro x1 t2 h3
  refine Yields.after ?_
  intro x4
  split
  · exact Yields.after (fun _ => Yields.ok (memWf_pendFloat h3))

theorem memWf_floatLong1 {s : State} {d : BitVec 7} {i : BitVec 2} {x : BitVec 7} {f : Group → Option ℕ → ℕ → FRes}
    (h : s.memWf = true) :
    OutOk (floatLong1 s d i x f) :=
  memWf_floatLong h

theorem memWf_execFrcp {d : BitVec 7} {i : BitVec 2} {x : BitVec 7} {s : State} (h : s.memWf = true) :
    OutOk (execFrcp d i x s) :=
  memWf_floatLong1 h

theorem memWf_execFrsq {d : BitVec 7} {i : BitVec 2} {x : BitVec 7} {s : State} (h : s.memWf = true) :
    OutOk (execFrsq d i x s) :=
  memWf_floatLong1 h

theorem memWf_execFsqrt {d : BitVec 7} {i : BitVec 2} {x : BitVec 7} {s : State} (h : s.memWf = true) :
    OutOk (execFsqrt d i x s) :=
  memWf_floatLong1 h

theorem memWf_execFdiv {d : BitVec 7} {i : BitVec 2} {a : BitVec 7} {j : BitVec 2} {b : BitVec 7} {s : State}
    (h : s.memWf = true) :
    OutOk (execFdiv d i a j b s) :=
  memWf_floatLong h

theorem memWf_execFexp2 {d : BitVec 7} {i : BitVec 2} {x : BitVec 7} {s : State} (h : s.memWf = true) :
    OutOk (execFexp2 d i x s) :=
  memWf_floatLong1 h

theorem memWf_execFlog2 {d : BitVec 7} {i : BitVec 2} {x : BitVec 7} {s : State} (h : s.memWf = true) :
    OutOk (execFlog2 d i x s) :=
  memWf_floatLong1 h

theorem memWf_execFsin {d : BitVec 7} {i : BitVec 2} {x : BitVec 7} {s : State} (h : s.memWf = true) :
    OutOk (execFsin d i x s) :=
  memWf_floatLong1 h

theorem memWf_execFcos {d : BitVec 7} {i : BitVec 2} {x : BitVec 7} {s : State} (h : s.memWf = true) :
    OutOk (execFcos d i x s) :=
  memWf_floatLong1 h

theorem memWf_float1 {s : State} {d : BitVec 7} {i : BitVec 2} {x : BitVec 7} {f : Group → Option ℕ → ℕ → FRes}
    (h : s.memWf = true) :
    OutOk (float1 s d i x f) :=
  memWf_floatWord h

theorem memWf_execFrnd {d : BitVec 7} {i : BitVec 2} {x : BitVec 7} {f : BitVec 9} {s : State} (h : s.memWf = true) :
    OutOk (execFrnd d i x f s) :=
  memWf_float1 h

theorem memWf_execFscale {d : BitVec 7} {i : BitVec 2} {a : BitVec 7} {j : BitVec 2} {b : BitVec 7} {s : State}
    (h : s.memWf = true) :
    OutOk (execFscale d i a j b s) :=
  memWf_floatWord h

theorem memWf_execFfract {d : BitVec 7} {i : BitVec 2} {x : BitVec 7} {s : State} (h : s.memWf = true) :
    OutOk (execFfract d i x s) :=
  memWf_float1 h

theorem memWf_execFdot2 {d : BitVec 7} {i : BitVec 2} {a : BitVec 7} {j : BitVec 2} {b : BitVec 7} {s : State}
    (h : s.memWf = true) :
    OutOk (execFdot2 d i a j b s) := by
  unfold execFdot2
  refine memWf_runWord h ?_
  intro x1 t2 h3
  refine Yields.after ?_
  intro x4
  dsimp only
  exact Yields.after (fun _ => Yields.ok (memWf_putFloat h3))

theorem memWf_execFcsgn {d : BitVec 7} {i : BitVec 2} {a : BitVec 7} {j : BitVec 2} {b : BitVec 7} {s : State}
    (h : s.memWf = true) :
    OutOk (execFcsgn d i a j b s) :=
  memWf_floatWord h

theorem memWf_putRows {s : State} {c : WCtx} {d n : ℕ} {vs : List (ℕ × ℕ)} {tag : ℕ} {srg : BitVec 32} (h : s.memWf = true) :
    (putRows s c d n vs tag srg).memWf = true :=
  memWf_foldl h (fun _ _ h3 => memWf_putFloat h3)

theorem memWf_execCvt {d : BitVec 7} {i : BitVec 2} {x : BitVec 7} {f : BitVec 9} {s : State} (h : s.memWf = true) :
    OutOk (execCvt d i x f s) := by
  unfold execCvt
  refine memWf_runWord h ?_
  intro x1 t2 h3
  refine Yields.after ?_
  intro x4
  refine Yields.after ?_
  intro x5
  split
  · exact Yields.after (fun _ => Yields.ok (memWf_putRows h3))

theorem memWf_execCvtb {d : BitVec 7} {i : BitVec 2} {x : BitVec 7} {f : BitVec 9} {s : State} (h : s.memWf = true) :
    OutOk (execCvtb d i x f s) := by
  unfold execCvtb
  refine memWf_runWord h ?_
  intro x1 t2 h3
  refine Yields.after ?_
  intro x4
  refine Yields.after ?_
  intro x5
  dsimp only
  split
  · exact memWf_illegal
  · exact Yields.after (fun _ => Yields.ok (memWf_putFloat h3))

theorem memWf_execCvtq {d : BitVec 7} {i : BitVec 2} {x : BitVec 7} {f : BitVec 9} {s : State} (h : s.memWf = true) :
    OutOk (execCvtq d i x f s) := by
  unfold execCvtq
  refine memWf_runWord h ?_
  intro x1 t2 h3
  refine Yields.after ?_
  intro x4
  split
  · exact Yields.after (fun _ => Yields.ok (memWf_putRows h3))

theorem memWf_execTagset {d : BitVec 7} {i : BitVec 2} {x : BitVec 7} {f : BitVec 9} {s : State} (h : s.memWf = true) :
    OutOk (execTagset d i x f s) :=
  memWf_runWord h (fun _ _ h3 => Yields.after (fun _ => Yields.ok (memWf_writeVec h3)))

theorem memWf_execTagget {d : BitVec 7} {i : BitVec 2} {x : BitVec 7} {s : State} (h : s.memWf = true) :
    OutOk (execTagget d i x s) :=
  memWf_runWord h (fun _ _ h3 => Yields.after (fun _ => Yields.ok (memWf_writeVec h3)))

theorem memWf_execFpack {d : BitVec 7} {i : BitVec 2} {a : BitVec 7} {j : BitVec 2} {b : BitVec 7} {s : State}
    (h : s.memWf = true) :
    OutOk (execFpack d i a j b s) := by
  unfold execFpack
  refine memWf_runWord h ?_
  intro x1 t2 h3
  refine Yields.after ?_
  intro x4
  split
  · split
    · dsimp only
      exact Yields.after (fun _ => Yields.ok (memWf_putFloat h3))
    · dsimp only
      exact Yields.after (fun _ => Yields.ok (memWf_putFloat h3))
  · split
    · dsimp only
      exact Yields.after (fun _ => Yields.ok (memWf_putFloat h3))
    · dsimp only
      exact Yields.after (fun _ => Yields.ok (memWf_putFloat h3))

theorem memWf_execFunpack {d : BitVec 7} {i : BitVec 2} {x : BitVec 7} {f : BitVec 9} {s : State} (h : s.memWf = true) :
    OutOk (execFunpack d i x f s) := by
  unfold execFunpack
  refine memWf_runWord h ?_
  intro x1 t2 h3
  refine Yields.after ?_
  intro x4
  split
  · exact Yields.after (fun _ => Yields.ok (memWf_putFloat h3))

theorem memWf_execSqz {d : BitVec 7} {i : BitVec 2} {x : BitVec 7} {f : BitVec 9} {s : State} (h : s.memWf = true) :
    OutOk (execSqz d i x f s) :=
  memWf_runWord h (fun _ _ h3 => Yields.after (fun _ => Yields.ok (memWf_writeVec h3)))

theorem memWf_execVmov {d : BitVec 7} {i : BitVec 2} {x : BitVec 7} {s : State} (h : s.memWf = true) :
    OutOk (execVmov d i x s) :=
  memWf_runWord h (fun _ _ h3 => Yields.after (fun _ => Yields.ok (memWf_writeVec h3)))

theorem memWf_execVmovS {d : BitVec 7} {i : BitVec 2} {x : BitVec 7} {s : State} (h : s.memWf = true) :
    OutOk (execVmovS d i x s) :=
  memWf_runWord h (fun _ _ h3 => Yields.after (fun _ => Yields.ok (memWf_writeS h3)))

theorem memWf_execVmovI {d : BitVec 7} {s : State} (h : s.memWf = true) :
    OutOk (execVmovI d s) :=
  memWf_runWord h (fun _ _ h3 => Yields.after (fun _ => Yields.ok (memWf_writeVec h3)))

theorem memWf_execVperm {d : BitVec 7} {i : BitVec 2} {a : BitVec 7} {j : BitVec 2} {b : BitVec 7} {s : State}
    (h : s.memWf = true) :
    OutOk (execVperm d i a j b s) :=
  memWf_runWord h (fun _ _ h3 => Yields.after (fun _ => Yields.ok (memWf_writeVec h3)))

theorem memWf_execVtbl {d : BitVec 7} {i : BitVec 2} {a : BitVec 7} {j : BitVec 2} {b : BitVec 7} {s : State}
    (h : s.memWf = true) :
    OutOk (execVtbl d i a j b s) :=
  memWf_runWord h (fun _ _ h3 => Yields.after (fun _ => Yields.ok (memWf_writeVec h3)))

theorem memWf_execVshuf {d : BitVec 7} {i : BitVec 2} {a : BitVec 7} {j : BitVec 2} {b : BitVec 7} {s : State}
    (h : s.memWf = true) :
    OutOk (execVshuf d i a j b s) :=
  memWf_runWord h (fun _ _ h3 => Yields.after (fun _ => Yields.ok (memWf_writeVec h3)))

theorem memWf_redWord {s : State} {d : BitVec 7} {i : BitVec 2} {x : BitVec 7} {op : ℕ} {f : WCtx → List FRes → List FRes}
    (h : s.memWf = true) :
    OutOk (redWord s d i x op f) :=
  memWf_runWord h (fun _ _ h3 => Yields.after (fun _ => Yields.after (fun _ => Yields.ok (memWf_writeVec h3))))

theorem memWf_execVred {d : BitVec 7} {i : BitVec 2} {x : BitVec 7} {f : BitVec 9} {s : State} (h : s.memWf = true) :
    OutOk (execVred d i x f s) :=
  memWf_redWord h

theorem memWf_execVscan {d : BitVec 7} {i : BitVec 2} {x : BitVec 7} {f : BitVec 9} {s : State} (h : s.memWf = true) :
    OutOk (execVscan d i x f s) :=
  memWf_redWord h

theorem memWf_execVballot {d : BitVec 7} {p : BitVec 3} {s : State} (h : s.memWf = true) :
    OutOk (execVballot d p s) :=
  memWf_runWord h (fun _ _ h3 => Yields.ok (memWf_writeS h3))

theorem memWf_execVrel {d : BitVec 7} {i : BitVec 2} {a b : BitVec 7} {s : State} (h : s.memWf = true) :
    OutOk (execVrel d i a b s) := by
  unfold execVrel
  refine memWf_runWord h ?_
  intro x1 t2 h3
  refine Yields.after ?_
  intro x4
  refine Yields.after ?_
  intro x5
  split
  · dsimp only
    split
    · exact Yields.error
    · exact Yields.ok (memWf_writeVec h3)
  · dsimp only
    split
    · exact Yields.error
    · exact Yields.ok (memWf_writeVec h3)

theorem memWf_execVrelSt {d : BitVec 7} {i : BitVec 2} {a b : BitVec 7} {s : State} (h : s.memWf = true) :
    OutOk (execVrelSt d i a b s) :=
  memWf_runWord h (fun _ _ h3 => Yields.after (fun _ => Yields.after
    (fun _ => Yields.after (fun _ => Yields.ok (memWf_updG h3)))))

end Sys2Proof.Machine
end

section
/-! The canonical form of memory (log 3): words of memory, synchronisation and the engines. -/
namespace Sys2Proof.Machine

theorem memWf_touchSurf {s : State} {rw : ℕ} {xs : List (ℕ × List Loc)} (h : s.memWf = true) :
    Yields (fun x => x.memWf = true) (touchSurf s rw xs) := by
  unfold touchSurf
  refine Yields.foldlM h ?_
  intro t1 x2 h3
  split
  · exact Yields.ok h3
  · split
    · exact Yields.ok (memWf_foldl h3 (fun _ _ h12 => memWf_touchRead h12))
    · dsimp only
      split
      · rename_i e16
        exact Yields.ok (memWf_fst e16 (memWf_touchWrites h3))
      · exact Yields.error

theorem memWf_access {s : State} {key : ℕ} {g : Group} {seg ak a add rw z : ℕ} {xs : List Acc} (h : s.memWf = true) :
    Yields (fun x => x.1.memWf = true) (access s key g seg ak a add rw z xs) := by
  unfold access
  split
  · exact Yields.error
  · split
    · exact Yields.error
    · split
      · exact Yields.after (fun _ => (memWf_touchSurf h).bind (fun _ h11 => Yields.ok h11))
      · refine Yields.after ?_
        intro x13
        split
        · exact Yields.after (fun _ => Yields.ok h)
        · exact Yields.ok h

theorem memWf_coreLoad {s : State} {core ctx : ℕ} {l : Loc} (h : s.memWf = true) :
    (coreLoad s core ctx l).1.memWf = true := by
  unfold coreLoad
  split
  · dsimp only
    split
    · exact memWf_l1Fill h
    · exact memWf_l1Fill h
  · refine memWf_readCellsAt ?_
    split
    · exact memWf_verifyPlaces _ _ _ h
    · exact h

theorem memWf_coreLoads {s : State} {core ctx : ℕ} {x : List Loc} (h : s.memWf = true) :
    (coreLoads s core ctx x).1.memWf = true := by
  fun_induction coreLoads
  · exact h
  · rename_i e7 _ _ e10 e11
    exact memWf_fst e10 (e11 (memWf_fst e7 (memWf_coreLoad h)))

theorem memWf_groupLoad {s : State} {key : ℕ} {g : Group} {ls : List Loc} (h : s.memWf = true) :
    (groupLoad s key g ls).1.memWf = true := by
  unfold groupLoad
  dsimp only
  exact memWf_coreLoads (memWf_countLines (memWf_settleOwn h))

theorem memWf_loadLanes {s : State} {key : ℕ} {g : Group} {x : List (ℕ × List Loc)} (h : s.memWf = true) :
    (loadLanes s key g x).1.memWf = true := by
  fun_induction loadLanes
  · exact h
  · rename_i e8 _ _ e11 e12
    exact memWf_fst e11 (e12 (memWf_fst e8 (memWf_groupLoad h)))

theorem memWf_loadRow {s : State} {d : BitVec 7} {seg : BitVec 3} {k : BitVec 1} {a : BitVec 6} {okTy : ℕ → Bool} {z : ℕ → ℕ}
    {add : WCtx → ℕ → ℕ} {conv : ℕ → ℕ → ℕ} {tag : ℕ → ℕ} (h : s.memWf = true) :
    OutOk (loadRow s d seg k a okTy z add conv tag) := by
  unfold loadRow
  refine memWf_runLong h ?_
  intro x1 t2 h3
  refine Yields.after ?_
  intro x4
  refine (memWf_access h3).bind ?_
  rintro ⟨t5, x6⟩ h7
  dsimp only
  exact Yields.ok (memWf_later (memWf_newId (memWf_loadLanes h7)))

theorem memWf_execLd {d : BitVec 7} {x : BitVec 3} {k : BitVec 1} {a : BitVec 6} {o : BitVec 8} {s : State} (h : s.memWf = true) :
    OutOk (execLd d x k a o s) :=
  memWf_loadRow h

theorem memWf_loseIdem {s : State} {key : ℕ} (h : s.memWf = true) :
    (loseIdem s key).memWf = true := by
  unfold loseIdem
  split
  · exact memWf_ite (memWf_updG (memWf_commitRegion h)) h
  · exact h

theorem memWf_doOrBuffer {s : State} {key : ℕ} {o : BufOp} (h : s.memWf = true) :
    (doOrBuffer s key o).memWf = true := by
  unfold doOrBuffer
  split
  · exact h
  · exact memWf_ite (memWf_ite (memWf_updG h) (memWf_performOp (memWf_loseIdem h))) (memWf_performOp h)

theorem memWf_doOps {s : State} {c : WCtx} {os : List BufOp} (h : s.memWf = true) :
    (doOps s c os).memWf = true :=
  memWf_foldl h (fun _ _ h3 => memWf_doOrBuffer h3)

theorem memWf_bufferOps {s : State} {c : WCtx} {rw seg : ℕ} {os : List BufOp} (h : s.memWf = true) :
    Yields (fun x => x.memWf = true) (bufferOps s c rw seg os) := by
  unfold bufferOps
  split
  · exact Yields.error
  · exact Yields.ok (memWf_doOps h)

theorem memWf_storeRow {s : State} {d : BitVec 7} {seg : BitVec 3} {k : BitVec 1} {a : BitVec 6} {o : BitVec 8} {okTy : ℕ → Bool}
    {z : ℕ → ℕ} (h : s.memWf = true) :
    OutOk (storeRow s d seg k a o okTy z) :=
  memWf_runWord h (fun _ _ h3 => Yields.after (fun _ => (memWf_access h3).bind (fun ⟨_, _⟩ h7 => memWf_bufferOps h7)))

theorem memWf_execSt {d : BitVec 7} {x : BitVec 3} {k : BitVec 1} {a : BitVec 6} {o : BitVec 8} {s : State} (h : s.memWf = true) :
    OutOk (execSt d x k a o s) :=
  memWf_storeRow h

theorem memWf_execLdu {z : BitVec 1} {d : BitVec 6} {x : BitVec 3} {a : BitVec 6} {o : BitVec 8} {s : State} (h : s.memWf = true)
    :
    OutOk (execLdu z d x a o s) := by
  unfold execLdu
  refine memWf_runLong h ?_
  intro x1 t2 h3
  refine (memWf_access h3).bind ?_
  rintro ⟨t4, x5⟩ h6
  dsimp only
  exact Yields.ok (memWf_later (memWf_newId (memWf_groupLoad h6)))

theorem memWf_execStu {z : BitVec 1} {d : BitVec 6} {x : BitVec 3} {a : BitVec 6} {o : BitVec 8} {s : State} (h : s.memWf = true)
    :
    OutOk (execStu z d x a o s) :=
  memWf_runWord h (fun _ _ h3 => (memWf_access h3).bind (fun ⟨_, _⟩ h6 => memWf_bufferOps h6))

theorem memWf_execLdt {d : BitVec 7} {x : BitVec 3} {k : BitVec 1} {a : BitVec 6} {o : BitVec 8} {s : State} (h : s.memWf = true)
    :
    OutOk (execLdt d x k a o s) :=
  memWf_loadRow h

theorem memWf_execStt {d : BitVec 7} {x : BitVec 3} {k : BitVec 1} {a : BitVec 6} {o : BitVec 8} {s : State} (h : s.memWf = true)
    :
    OutOk (execStt d x k a o s) :=
  memWf_storeRow h

theorem memWf_execLdb {d : BitVec 7} {x : BitVec 3} {a : BitVec 6} {o : BitVec 8} {s : State} (h : s.memWf = true) :
    OutOk (execLdb d x a o s) :=
  memWf_loadRow h

theorem memWf_prefetchLane {s : State} {c : WCtx} {l : BitVec 1} {seg ak a add : ℕ} {x : Acc} (h : s.memWf = true) :
    (prefetchLane s c l seg ak a add x).memWf = true := by
  unfold prefetchLane
  split
  · exact h
  · split
    · split
      · exact memWf_ite (memWf_later h) (memWf_later h)
      · exact h
    · exact memWf_later h
    · exact h

theorem memWf_execPrf {l : BitVec 1} {x : BitVec 3} {k : BitVec 1} {a : BitVec 6} {o : BitVec 8} {s : State} (h : s.memWf = true)
    :
    OutOk (execPrf l x k a o s) :=
  memWf_runWord h (fun _ _ h3 => Yields.after (fun _ => Yields.ok (memWf_foldl h3 (fun _ _ h7 => memWf_prefetchLane h7))))

theorem memWf_atomAccess {s : State} {c : WCtx} {seg : BitVec 3} {k : BitVec 1} {a : BitVec 6} {z : ℕ} (h : s.memWf = true) :
    Yields (fun x => x.1.memWf = true) (atomAccess s c seg k a z) :=
  Yields.after (fun _ => (memWf_access h).bind (fun ⟨_, _⟩ h4 => Yields.ok h4))

theorem memWf_unbuffered {s : State} {c : WCtx} {rw seg : ℕ} (h : s.memWf = true) :
    Yields (fun x => x.memWf = true) (unbuffered s c rw seg) := by
  unfold unbuffered
  split
  · split
    · exact Yields.error
    · exact Yields.ok (memWf_loseIdem h)
  · exact Yields.ok h

theorem memWf_returnAtoms {s : State} {c : WCtx} {w : Bool} {d : ℕ} {as : List (ℕ × AtomReq)} (h : s.memWf = true) :
    (returnAtoms s c w d as).1.memWf = true := by
  unfold returnAtoms
  dsimp only
  split
  · exact memWf_later (memWf_updG (memWf_foldl (memWf_settleOwn (memWf_updG (memWf_newId h)))
      (fun _ ⟨x3, x4⟩ h5 => memWf_startAtom h5)))
  · exact memWf_updG (memWf_foldl (memWf_settleOwn (memWf_updG (memWf_newId h))) (fun _ ⟨x8, x9⟩ h10 => memWf_startAtom h10))

theorem memWf_execAtom {d : BitVec 7} {x : BitVec 3} {k : BitVec 1} {a : BitVec 6} {o : BitVec 4} {r : BitVec 1} {s : State}
    (h : s.memWf = true) :
    OutOk (execAtom d x k a o r s) := by
  unfold execAtom
  split
  · refine memWf_runWord h fun c t ht => Yields.bind (P := fun r => r.1.memWf = true) ?_ fun r hr => memWf_bufferOps hr
    exact Yields.after fun _ => (memWf_atomAccess ht).bind fun r hr => .ok hr
  · refine memWf_runLong h fun c t ht => Yields.bind (P := fun r => r.1.memWf = true) ?_ fun r hr =>
      (memWf_unbuffered hr).bind fun _ hu => .ok (memWf_returnAtoms hu)
    exact Yields.after fun _ => (memWf_atomAccess ht).bind fun r hr => .ok hr

theorem memWf_execFatom {d : BitVec 7} {x : BitVec 3} {k : BitVec 1} {a : BitVec 6} {o : BitVec 4} {r : BitVec 1} {s : State}
    (h : s.memWf = true) :
    OutOk (execFatom d x k a o r s) := by
  unfold execFatom
  split
  · refine memWf_runWord h fun c t ht => Yields.bind (P := fun r => r.1.memWf = true) ?_ fun r hr => ?_
    · exact Yields.after fun _ => (memWf_atomAccess ht).bind fun r hr => Yields.after fun _ => .ok hr
    · dsimp only
      split
      · exact memWf_bufferOps hr
      · exact memWf_bufferOps hr
  · refine memWf_runLong h fun c t ht => Yields.bind (P := fun r => r.1.memWf = true) ?_ fun r hr =>
      (memWf_unbuffered hr).bind fun _ hu => .ok (memWf_returnAtoms hu)
    exact Yields.after fun _ => (memWf_atomAccess ht).bind fun r hr => Yields.after fun _ => .ok hr

theorem memWf_fenceAct {s : State} {key core order scope : ℕ} {paired : Bool} (h : s.memWf = true) :
    (fenceAct s key core order scope paired).memWf = true :=
  memWf_ite (memWf_ite (memWf_settleAll h) (memWf_releaseAct h)) (memWf_acquireAct
    (memWf_ite (memWf_settleAll h) (memWf_releaseAct h)))

theorem memWf_execFence {x : BitVec 3} {o : BitVec 2} {s : State} (h : s.memWf = true) :
    OutOk (execFence x o s) := by
  unfold execFence
  refine memWf_runWord h ?_
  intro x1 t2 h3
  split
  · exact Yields.error
  · exact Yields.ok (memWf_fenceAct h3)

theorem memWf_execBar {x : BitVec 3} {i : BitVec 4} {s : State} (h : s.memWf = true) :
    OutOk (execBar x i s) := by
  unfold execBar
  refine memWf_runCtl h ?_
  intro x1 t2 h3
  split
  · exact memWf_illegal
  · split
    · exact memWf_illegal
    · exact Yields.ok (memWf_checkBars (memWf_setSplit h3))

theorem memWf_ownFirst {s : State} {key core : ℕ} {ls : List Loc} (h : s.memWf = true) :
    (ownFirst s key core ls).memWf = true :=
  memWf_l1Drop (memWf_settleOwn h)

theorem memWf_waitRead {s : State} {key core ctx : ℕ} {ls : List Loc} (h : s.memWf = true) :
    (waitRead s key core ctx ls).memWf = true :=
  memWf_touchPlaces (memWf_countLines (memWf_ownFirst h))

theorem memWf_nbWrite {s : State} {c : WCtx} {p : ℕ} {v : Bool} (h : s.memWf = true) :
    (nbWrite s c p v).memWf = true :=
  memWf_updG h

theorem memWf_execWaita {d : BitVec 7} {x : BitVec 3} {n : BitVec 1} {p : BitVec 3} {k : BitVec 2} {g : BitVec 3} {w : BitVec 1}
    {s : State} (h : s.memWf = true) :
    OutOk (execWaita d x n p k g w s) := by
  unfold execWaita
  refine memWf_runLong h ?_
  intro x1 t2 h3
  refine Yields.after ?_
  intro x4
  dsimp only
  split
  · exact Yields.ok (memWf_later (memWf_ite (memWf_nbWrite (memWf_ite (memWf_acquireAct (memWf_newId (memWf_waitRead h3)))
      (memWf_newId (memWf_waitRead h3)))) (memWf_ite (memWf_acquireAct (memWf_newId (memWf_waitRead h3)))
      (memWf_newId (memWf_waitRead h3)))))
  · exact Yields.ok (memWf_updG (memWf_newId (memWf_waitRead h3)))

theorem memWf_execWaitaRecheck {key id t : ℕ} {s : State} (h : s.memWf = true) :
    OutOk (execWaitaRecheck key id t s) := by
  unfold execWaitaRecheck
  dsimp only
  split
  · exact OutOk.next (memWf_atTime h)
  · split
    · exact OutOk.next (memWf_atTime h)
    · split
      · exact OutOk.next (memWf_later (memWf_atTime h))
      · exact OutOk.next (memWf_atTime h)
      · exact OutOk.next (memWf_endWait (memWf_clearXfaults (memWf_atTime h)))
      · split
        · exact OutOk.next (memWf_endWait (memWf_acquireAct (memWf_setPending (memWf_waitRead (memWf_atTime h)))))
        · split
          · exact OutOk.next (memWf_endWait (memWf_setPending (memWf_waitRead (memWf_atTime h))))
          · exact OutOk.next (memWf_setPending (memWf_waitRead (memWf_atTime h)))

theorem memWf_execWcnt {x : BitVec 3} {n : BitVec 1} {p k : BitVec 3} {b : BitVec 8} {s : State} (h : s.memWf = true) :
    OutOk (execWcnt x n p k b s) := by
  unfold execWcnt
  refine memWf_runCtl h ?_
  intro x1 t2 h3
  split
  · exact Yields.ok (memWf_advance h3)
  · split
    · split
      · exact Yields.ok (memWf_advance (memWf_nbWrite h3))
      · exact Yields.error
    · split
      · exact Yields.after (fun _ => Yields.ok (memWf_takeFault (memWf_updG h3)))
      · exact Yields.ok (memWf_advance (memWf_ite (memWf_nbWrite (memWf_acquireAct h3)) (memWf_acquireAct h3)))

theorem memWf_dropSurfLines {s : State} {core : ℕ} {p : ℕ → Bool} (h : s.memWf = true) :
    (dropSurfLines s core p).memWf = true :=
  memWf_l1Drop h

theorem memWf_surfFence {s : State} {c : WCtx} {scope : ℕ} {p : ℕ → Bool} (h : s.memWf = true) :
    (surfFence s c scope p).memWf = true :=
  memWf_dropSurfLines (memWf_acquireAct (memWf_releaseAct (memWf_foldl h (fun _ ⟨_, _⟩ h4 => memWf_reportSurf h4))))

theorem memWf_execDfence {d : BitVec 7} {x : BitVec 3} {s : State} (h : s.memWf = true) :
    OutOk (execDfence d x s) := by
  unfold execDfence
  refine memWf_runWord h ?_
  intro x1 t2 h3
  refine Yields.after ?_
  intro x4
  split
  · exact Yields.error
  · exact Yields.ok (memWf_surfFence h3)

theorem memWf_execDfenceAll {x : BitVec 3} {s : State} (h : s.memWf = true) :
    OutOk (execDfenceAll x s) := by
  unfold execDfenceAll
  refine memWf_runWord h ?_
  intro x1 t2 h3
  split
  · exact Yields.error
  · exact Yields.ok (memWf_surfFence h3)

theorem memWf_moveGroup {s : State} {c : WCtx} {core slot : ℕ} (h : s.memWf = true) :
    (moveGroup s c core slot).memWf = true :=
  memWf_acquireAct (memWf_mk (memWf_noteEmpty (memWf_updG (memWf_releaseAct (memWf_loseIdem h)))))

theorem memWf_execGmove {d : BitVec 7} {s : State} (h : s.memWf = true) :
    OutOk (execGmove d s) := by
  unfold execGmove
  refine memWf_runWord h ?_
  intro x1 t2 h3
  refine Yields.after ?_
  intro x4
  refine (memWf_unbuffered h3).bind ?_
  intro t5 h6
  split
  · exact Yields.ok (memWf_writeS h6)
  · split
    · exact Yields.ok (memWf_writeS h6)
    · split
      · exact Yields.ok (memWf_writeS h6)
      · split
        · exact Yields.error
        · exact Yields.ok (memWf_writeS (memWf_moveGroup h6))

theorem memWf_queueOp {s : State} {c : WCtx} {push nb : Bool} {d a scope : ℕ} (h : s.memWf = true) :
    Yields (fun x => x.1.memWf = true) (queueOp s c push nb d a scope) := by
  unfold queueOp
  refine Yields.after ?_
  intro x1
  refine Yields.after ?_
  intro x2
  split
  · dsimp only
    split
    · refine Yields.after ?_
      intro x7
      split
      · exact memWf_illegal
      · exact Yields.after (fun _ => Yields.after (fun _ => Yields.ok (memWf_touchPlaces (memWf_ownFirst h))))
    · split
      · exact memWf_illegal
      · exact Yields.after (fun _ => Yields.after (fun _ => Yields.ok (memWf_touchPlaces (memWf_ownFirst h))))
  · dsimp only
    split
    · refine Yields.after ?_
      intro x32
      split
      · exact memWf_illegal
      · exact Yields.after (fun _ => Yields.after (fun _ => Yields.ok (memWf_touchPlaces (memWf_ownFirst h))))
    · split
      · exact memWf_illegal
      · exact Yields.after (fun _ => Yields.after (fun _ => Yields.ok (memWf_touchPlaces (memWf_ownFirst h))))

theorem memWf_execQpush {d : BitVec 7} {x : BitVec 3} {n : BitVec 1} {p : BitVec 3} {a : BitVec 6} {s : State}
    (h : s.memWf = true) :
    OutOk (execQpush d x n p a s) := by
  unfold execQpush
  refine memWf_runCtl h ?_
  intro x1 t2 h3
  split
  · exact Yields.ok (memWf_advance h3)
  · split
    · exact Yields.error
    · refine (memWf_queueOp h3).bind ?_
      rintro ⟨t8, x9⟩ h10
      refine (memWf_unbuffered h10).bind ?_
      intro t11 h12
      split
      · exact Yields.ok (memWf_advance (memWf_updG (memWf_wakeWaiters
          (memWf_pushEntries (memWf_countReq (memWf_releaseAct h12))))))
      · exact Yields.ok (memWf_sendReq (memWf_releaseAct h12))

theorem memWf_execQpop {d : BitVec 7} {x : BitVec 3} {n : BitVec 1} {p : BitVec 3} {a : BitVec 6} {s : State}
    (h : s.memWf = true) :
    OutOk (execQpop d x n p a s) := by
  unfold execQpop
  refine memWf_runLong h ?_
  intro x1 t2 h3
  refine (memWf_queueOp h3).bind ?_
  rintro ⟨t4, x5⟩ h6
  refine (memWf_unbuffered h6).bind ?_
  intro t7 h8
  dsimp only
  split
  · split
    · exact Yields.after (fun _ => Yields.ok (memWf_later (memWf_updG
        (memWf_acquireAct (memWf_wakeWaiters (memWf_windowPut (memWf_popEntries (memWf_countReq (memWf_newId h8)))))))))
    · exact Yields.ok (memWf_later (memWf_updG (memWf_acquireAct (memWf_wakeWaiters
        (memWf_windowPut (memWf_popEntries (memWf_countReq (memWf_newId h8))))))))
  · exact Yields.ok (memWf_sendReq (memWf_newId h8))

theorem memWf_execKwant {d : BitVec 7} {x : BitVec 3} {n : BitVec 1} {p : BitVec 3} {s : State} (h : s.memWf = true) :
    OutOk (execKwant d x n p s) := by
  unfold execKwant
  refine memWf_runWord h ?_
  intro x1 t2 h3
  refine Yields.after ?_
  intro x4
  refine Yields.after ?_
  intro x5
  refine Yields.after ?_
  intro x6
  refine Yields.after ?_
  intro x7
  split
  · dsimp only
    split
    · exact (memWf_unbuffered h3).map (fun _ h11 => memWf_nbWrite h11)
    · exact (memWf_unbuffered h3).bind (fun _ h14 => Yields.ok (memWf_nbWrite
        (memWf_updG (memWf_sendFlit (memWf_mk (memWf_newId h14))))))
  · dsimp only
    split
    · exact Yields.error
    · exact (memWf_unbuffered h3).bind (fun _ h19 => Yields.ok (memWf_updG (memWf_sendFlit (memWf_mk (memWf_newId h19)))))

theorem memWf_startPut {s : State} {c : WCtx} {q : KPut} {va : ℕ} {sp : Option (List Loc)} (h : s.memWf = true) :
    (startPut s c q va sp).memWf = true := by
  unfold startPut
  split
  · dsimp only
    exact memWf_sendFlit (memWf_engRead (memWf_releaseAct h))
  · exact memWf_sendFlit (memWf_releaseAct h)

theorem memWf_execKput {d : BitVec 7} {_x : BitVec 3} {n : BitVec 1} {p : BitVec 3} {s : State} (h : s.memWf = true) :
    OutOk (execKput d _x n p s) := by
  unfold execKput
  split
  · exact OutOk.fault
  · split
    · exact memWf_runWord h (fun _ _ h9 => Yields.after (fun ⟨x10, x11, x12⟩ => (memWf_unbuffered h9).map
        (fun _ h14 => memWf_nbWrite h14)))
    · refine memWf_runLong h ?_
      intro x16 t17 h18
      refine Yields.after ?_
      rintro ⟨x19, x20, x21⟩
      split
      · split
        · exact Yields.error
        · refine (memWf_unbuffered h18).bind ?_
          intro t29 h30
          dsimp only
          exact Yields.ok (memWf_ite (memWf_nbWrite (memWf_updG (memWf_startPut (memWf_newId (memWf_newId h30)))))
            (memWf_updG (memWf_startPut (memWf_newId (memWf_newId h30)))))

theorem memWf_execKdrop {d : BitVec 7} {_x : BitVec 3} {s : State} (h : s.memWf = true) :
    OutOk (execKdrop d _x s) := by
  unfold execKdrop
  refine memWf_runLong h ?_
  intro x1 t2 h3
  refine (memWf_unbuffered h3).bind ?_
  intro t4 h5
  dsimp only
  exact Yields.ok (memWf_later (memWf_newId (memWf_foldl h5 (fun _ _ h8 => memWf_endRec h8))))

theorem memWf_execKclose {d : BitVec 7} {_x : BitVec 3} {s : State} (h : s.memWf = true) :
    OutOk (execKclose d _x s) := by
  unfold execKclose
  refine memWf_runLong h ?_
  intro x1 t2 h3
  split
  · exact Yields.error
  · refine (memWf_unbuffered h3).bind ?_
    intro t6 h7
    dsimp only
    exact Yields.ok (memWf_sendFlit (memWf_newId h7))

theorem memWf_execAmsend {d : BitVec 7} {x : BitVec 3} {n : BitVec 1} {p g : BitVec 3} {s : State} (h : s.memWf = true) :
    OutOk (execAmsend d x n p g s) := by
  unfold execAmsend
  refine memWf_runWord h ?_
  intro x1 t2 h3
  split
  · split
    · dsimp only
      split
      · refine Yields.after ?_
        intro x7
        refine Yields.after ?_
        intro x8
        refine Yields.after ?_
        intro x9
        split
        · exact (memWf_unbuffered h3).map (fun _ h12 => memWf_nbWrite h12)
        · exact (memWf_unbuffered h3).bind (fun _ h15 => Yields.ok
            (memWf_nbWrite (memWf_later (memWf_sendFrames (memWf_mk
            (memWf_fqTake (memWf_newId (memWf_engRead (memWf_releaseAct h15)))))))))
      · refine Yields.after ?_
        intro x17
        refine Yields.after ?_
        intro x18
        split
        · exact (memWf_unbuffered h3).map (fun _ h21 => memWf_nbWrite h21)
        · exact (memWf_unbuffered h3).bind (fun _ h24 => Yields.ok
            (memWf_nbWrite (memWf_later (memWf_sendFrames (memWf_mk
            (memWf_fqTake (memWf_newId (memWf_engRead (memWf_releaseAct h24)))))))))
    · dsimp only
      split
      · refine Yields.after ?_
        intro x27
        refine Yields.after ?_
        intro x28
        refine Yields.after ?_
        intro x29
        split
        · exact Yields.error
        · exact (memWf_unbuffered h3).bind (fun _ h33 => Yields.ok
            (memWf_later (memWf_sendFrames (memWf_mk (memWf_fqTake (memWf_newId (memWf_engRead (memWf_releaseAct h33))))))))
      · refine Yields.after ?_
        intro x35
        refine Yields.after ?_
        intro x36
        split
        · exact Yields.error
        · exact (memWf_unbuffered h3).bind (fun _ h40 => Yields.ok
            (memWf_later (memWf_sendFrames (memWf_mk (memWf_fqTake (memWf_newId (memWf_engRead (memWf_releaseAct h40))))))))
  · split
    · dsimp only
      split
      · refine Yields.after ?_
        intro x44
        refine Yields.after ?_
        intro x45
        refine Yields.after ?_
        intro x46
        split
        · exact (memWf_unbuffered h3).map (fun _ h49 => memWf_nbWrite h49)
        · exact (memWf_unbuffered h3).bind (fun _ h52 => Yields.ok
            (memWf_nbWrite (memWf_later (memWf_sendFrames (memWf_mk
            (memWf_fqTake (memWf_newId (memWf_engRead (memWf_releaseAct h52)))))))))
      · refine Yields.after ?_
        intro x54
        refine Yields.after ?_
        intro x55
        split
        · exact (memWf_unbuffered h3).map (fun _ h58 => memWf_nbWrite h58)
        · exact (memWf_unbuffered h3).bind (fun _ h61 => Yields.ok
            (memWf_nbWrite (memWf_later (memWf_sendFrames (memWf_mk
            (memWf_fqTake (memWf_newId (memWf_engRead (memWf_releaseAct h61)))))))))
    · dsimp only
      split
      · refine Yields.after ?_
        intro x64
        refine Yields.after ?_
        intro x65
        refine Yields.after ?_
        intro x66
        split
        · exact Yields.error
        · exact (memWf_unbuffered h3).bind (fun _ h70 => Yields.ok
            (memWf_later (memWf_sendFrames (memWf_mk (memWf_fqTake (memWf_newId (memWf_engRead (memWf_releaseAct h70))))))))
      · refine Yields.after ?_
        intro x72
        refine Yields.after ?_
        intro x73
        split
        · exact Yields.error
        · exact (memWf_unbuffered h3).bind (fun _ h77 => Yields.ok
            (memWf_later (memWf_sendFrames (memWf_mk (memWf_fqTake (memWf_newId (memWf_engRead (memWf_releaseAct h77))))))))

theorem memWf_engineWord {s : State} {d : BitVec 7} {x : BitVec 3} {n : BitVec 1} {p g : BitVec 3} {cls : ℕ}
    {eng : State → WCtx → ℕ} {check : State → WCtx → EngCmd → Try EngCmd} (h : s.memWf = true) :
    OutOk (engineWord s d x n p g cls eng check) := by
  unfold engineWord
  refine memWf_runWord h ?_
  intro x1 t2 h3
  refine Yields.after ?_
  intro x4
  refine Yields.after ?_
  intro x5
  refine Yields.after ?_
  intro x6
  dsimp only
  refine Yields.after ?_
  intro x7
  refine Yields.after ?_
  intro x8
  split
  · split
    · exact (memWf_unbuffered (memWf_groupLoad h3)).map (fun _ h12 => memWf_nbWrite h12)
    · exact Yields.error
  · exact (memWf_unbuffered (memWf_groupLoad h3)).bind (fun _ h16 => Yields.ok
      (memWf_ite (memWf_nbWrite (memWf_updG (memWf_later (memWf_mk (memWf_newId (memWf_fqTake (memWf_releaseAct h16)))))))
      (memWf_updG (memWf_later (memWf_mk (memWf_newId (memWf_fqTake (memWf_releaseAct h16))))))))

theorem memWf_execCpy {d : BitVec 7} {x : BitVec 3} {n : BitVec 1} {p g : BitVec 3} {s : State} (h : s.memWf = true) :
    OutOk (execCpy d x n p g s) :=
  memWf_engineWord h

theorem memWf_execColl {d : BitVec 7} {x : BitVec 3} {n : BitVec 1} {p g : BitVec 3} {s : State} (h : s.memWf = true) :
    OutOk (execColl d x n p g s) :=
  memWf_engineWord h

theorem memWf_execNbx {d : BitVec 7} {x : BitVec 3} {n : BitVec 1} {p g : BitVec 3} {s : State} (h : s.memWf = true) :
    OutOk (execNbx d x n p g s) :=
  memWf_engineWord h

theorem memWf_execSld {d : BitVec 7} {h : BitVec 6} {n : BitVec 2} {s : State} (hs : s.memWf = true) :
    OutOk (execSld d h n s) := by
  unfold execSld
  refine memWf_runLong hs ?_
  intro x1 t2 h3
  refine Yields.after ?_
  intro x4
  refine Yields.after ?_
  rintro ⟨x5, x6⟩
  refine (memWf_touchSurf h3).bind ?_
  intro t7 h8
  dsimp only
  exact Yields.ok (memWf_later (memWf_newId (memWf_loadLanes h8)))

theorem memWf_execSst {d : BitVec 7} {h : BitVec 6} {n : BitVec 2} {s : State} (hs : s.memWf = true) :
    OutOk (execSst d h n s) :=
  memWf_runWord hs (fun _ _ h3 => Yields.after (fun _ => Yields.after
    (fun ⟨_, _⟩ => (memWf_touchSurf h3).bind (fun _ h8 => memWf_bufferOps h8))))

theorem memWf_execSalloc {d : BitVec 7} {h : BitVec 6} {s : State} (hs : s.memWf = true) :
    OutOk (execSalloc d h s) := by
  unfold execSalloc
  refine memWf_runWord hs ?_
  intro x1 t2 h3
  refine Yields.after ?_
  intro x4
  refine Yields.after ?_
  intro x5
  dsimp only
  refine Yields.after ?_
  intro x6
  split
  · exact memWf_illegal
  · exact Yields.after (fun _ => Yields.ok (memWf_writeS (memWf_writeS (memWf_allocSurf (memWf_groupLoad h3)))))

theorem memWf_execSfree {h : BitVec 6} {s : State} (hs : s.memWf = true) :
    OutOk (execSfree h s) := by
  unfold execSfree
  refine memWf_runWord hs ?_
  intro x1 t2 h3
  refine Yields.after ?_
  intro x4
  split
  · exact Yields.error
  · exact Yields.ok (memWf_freeSurf h3)

theorem memWf_restoreAll {h x x1 : ℕ} {x2 : State} (hs : x2.memWf = true) :
    (restoreAll h x x1 x2).1.memWf = true := by
  fun_induction restoreAll
  · exact hs
  · rename_i e7 e8
    exact e8 (memWf_fst e7 (memWf_restoreTile hs))
  · exact memWf_restoreTile hs

theorem memWf_pinSurf {s : State} {h : ℕ} (hs : s.memWf = true) :
    (pinSurf s h).1.memWf = true := by
  unfold pinSurf
  split
  · exact hs
  · split
    · rename_i e8
      exact memWf_mk (memWf_fst e8 (memWf_restoreAll (memWf_mk hs)))
    · rename_i e13
      exact memWf_mk (memWf_fst e13 (memWf_restoreAll (memWf_mk hs)))

theorem memWf_execSpinOn {d : BitVec 7} {h : BitVec 6} {s : State} (hs : s.memWf = true) :
    OutOk (execSpinOn d h s) := by
  unfold execSpinOn
  refine memWf_runWord hs ?_
  intro x1 t2 h3
  refine Yields.after ?_
  intro x4
  dsimp only
  exact Yields.ok (memWf_writeS (memWf_pinSurf h3))

theorem memWf_execSpinOff {d : BitVec 7} {h : BitVec 6} {s : State} (hs : s.memWf = true) :
    OutOk (execSpinOff d h s) :=
  memWf_runWord hs (fun _ _ h3 => Yields.after (fun _ => Yields.ok (memWf_writeS (memWf_mk h3))))

theorem memWf_enterTiles {s : State} {c : WCtx} {h : Shape} {d handle word : ℕ} {a : ℕ → ℕ → List (BitVec 64)}
    {scale : ℕ → BitVec 8} {surfs : List (ℕ × ℕ)} (hs : s.memWf = true) :
    Yields (fun x => x.memWf = true) (enterTiles s c h d handle word a scale surfs) := by
  unfold enterTiles
  dsimp only
  split
  · exact Yields.error
  · exact Yields.ok (memWf_later (memWf_wantBank (memWf_updG (memWf_setMx (memWf_mk hs)))))

theorem memWf_execMma {d a h : BitVec 7} {s : State} (hs : s.memWf = true) :
    OutOk (execMma d a h s) := by
  unfold execMma
  refine memWf_runLong hs ?_
  intro x1 t2 h3
  refine Yields.after ?_
  intro x4
  refine Yields.after ?_
  intro x5
  refine Yields.after ?_
  intro x6
  refine Yields.after ?_
  intro x7
  refine Yields.after ?_
  intro x8
  dsimp only
  exact (memWf_enterTiles (memWf_newId h3)).bind (fun _ h10 => Yields.ok h10)

theorem memWf_execMmas {d x h : BitVec 7} {s : State} (hs : s.memWf = true) :
    OutOk (execMmas d x h s) := by
  unfold execMmas
  refine memWf_runLong hs ?_
  intro x1 t2 h3
  split
  · exact memWf_illegal
  · refine Yields.after ?_
    intro x6
    refine Yields.after ?_
    intro x7
    refine Yields.after ?_
    intro x8
    refine Yields.after ?_
    intro x9
    refine Yields.after ?_
    intro x10
    refine Yields.after ?_
    intro x11
    refine (memWf_touchSurf h3).bind ?_
    intro t12 h13
    dsimp only
    exact (memWf_enterTiles (memWf_newId h13)).bind (fun _ h15 => Yields.ok h15)

theorem memWf_execMbld {d : BitVec 7} {_x : BitVec 3} {g : BitVec 2} {h : BitVec 7} {s : State} (hs : s.memWf = true) :
    OutOk (execMbld d _x g h s) := by
  unfold execMbld
  refine memWf_runWord hs ?_
  intro x1 t2 h3
  refine Yields.after ?_
  intro x4
  split
  · exact memWf_illegal
  · split
    · exact memWf_illegal
    · refine Yields.after ?_
      intro x9
      refine (memWf_unbuffered h3).bind ?_
      intro t10 h11
      dsimp only
      split
      · exact Yields.ok (memWf_writeS h11)
      · split
        · exact Yields.ok (memWf_writeS h11)
        · exact Yields.after (fun _ => Yields.ok (memWf_writeS (memWf_later
            (memWf_updG (memWf_setMx (memWf_newId (memWf_releaseAct h11)))))))

theorem memWf_execMbrel {h : BitVec 7} {s : State} (hs : s.memWf = true) :
    OutOk (execMbrel h s) :=
  memWf_runWord hs (fun _ _ h3 => Yields.after (fun _ => Yields.ok (memWf_setMx (memWf_loseIdem h3))))

theorem memWf_recPlaces {s : State} {c : WCtx} {seg a : ℕ} (h : s.memWf = true) :
    Yields (fun x => x.1.memWf = true) (recPlaces s c seg a) := by
  unfold recPlaces
  dsimp only
  split
  · exact memWf_illegal
  · split
    · exact memWf_illegal
    · exact (memWf_access h).bind (fun ⟨t11, x12⟩ h13 => (memWf_access h13).bind (fun ⟨t14, x15⟩ h16 => Yields.ok h16))

theorem memWf_travWord {s : State} {d : BitVec 7} {g : BitVec 2} {replays start : Bool} {mk : WCtx → List (BitVec 8) → Trav}
    (h : s.memWf = true) :
    OutOk (travWord s d g replays start mk) := by
  unfold travWord
  refine memWf_runLong h ?_
  intro x1 t2 h3
  refine Yields.after ?_
  intro x4
  refine (memWf_recPlaces h3).bind ?_
  rintro ⟨t5, x6⟩ h7
  refine Yields.after ?_
  intro x8
  dsimp only
  split
  · exact Yields.error
  · exact (memWf_unbuffered h7).bind (fun _ h12 => Yields.ok (memWf_laterAll
      (memWf_updG (memWf_mk (memWf_newId (memWf_touchPlaces (memWf_countLines (memWf_releaseAct h12))))))))

theorem memWf_execTravStart {d : BitVec 7} {g : BitVec 2} {x : BitVec 6} {s : State} (h : s.memWf = true) :
    OutOk (execTravStart d g x s) :=
  memWf_travWord h

theorem memWf_execTrav {d : BitVec 7} {g : BitVec 2} {s : State} (h : s.memWf = true) :
    OutOk (execTrav d g s) :=
  memWf_travWord h

theorem memWf_execTrepStart {d : BitVec 7} {g : BitVec 2} {s : State} (h : s.memWf = true) :
    OutOk (execTrepStart d g s) :=
  memWf_travWord h

theorem memWf_execTrep {d : BitVec 7} {g : BitVec 2} {s : State} (h : s.memWf = true) :
    OutOk (execTrep d g s) :=
  memWf_travWord h

theorem memWf_putTagged {s : State} {c : WCtx} {rows : List (ℕ × ℕ × (ℕ → ℕ))} (h : s.memWf = true) :
    (putTagged s c rows).memWf = true :=
  memWf_foldl h (fun _ ⟨_, _, _⟩ h5 => memWf_writeVec h5)

theorem memWf_execBunion {d : BitVec 7} {i : BitVec 2} {x : BitVec 7} {s : State} (h : s.memWf = true) :
    OutOk (execBunion d i x s) :=
  memWf_runWord h (fun _ _ h3 => Yields.after (fun _ => Yields.ok (memWf_putTagged h3)))

theorem memWf_execBsah {d : BitVec 7} {i : BitVec 2} {x : BitVec 7} {s : State} (h : s.memWf = true) :
    OutOk (execBsah d i x s) :=
  memWf_runWord h (fun _ _ h3 => Yields.after (fun _ => Yields.ok (memWf_writeVec h3)))

theorem memWf_execNpack {d : BitVec 7} {i : BitVec 2} {x : BitVec 7} {s : State} (h : s.memWf = true) :
    OutOk (execNpack d i x s) := by
  unfold execNpack
  refine memWf_runWord h ?_
  intro x1 t2 h3
  refine Yields.after ?_
  intro x4
  dsimp only
  split
  · exact Yields.ok (memWf_putTagged h3)
  · exact Yields.ok (memWf_putTagged (memWf_putTagged h3))

theorem memWf_execMcode {d : BitVec 7} {i : BitVec 2} {x : BitVec 7} {s : State} (h : s.memWf = true) :
    OutOk (execMcode d i x s) :=
  memWf_runWord h (fun _ _ h3 => Yields.after (fun _ => Yields.ok (memWf_putTagged h3)))

theorem memWf_thitLane {c : WCtx} {o : Opnd} {x : State × List ℕ} {p : ℕ × ℕ × Loc} (h : x.1.memWf = true) :
    (thitLane c o x p).1.memWf = true := by
  unfold thitLane
  dsimp only
  split
  · exact memWf_writeHome (memWf_touchPlaces (memWf_countLines (memWf_ite (memWf_l1Drop h) h)))
  · exact memWf_touchPlaces (memWf_countLines (memWf_ite (memWf_l1Drop h) h))

theorem memWf_execThit {g : BitVec 2} {p : BitVec 3} {a : BitVec 7} {j : BitVec 2} {b : BitVec 7} {s : State}
    (h : s.memWf = true) :
    OutOk (execThit g p a j b s) := by
  unfold execThit
  refine memWf_runWord h ?_
  intro x1 t2 h3
  refine Yields.after ?_
  intro x4
  refine (memWf_recPlaces h3).bind ?_
  rintro ⟨t5, x6⟩ h7
  refine (memWf_unbuffered h7).bind ?_
  intro t8 h9
  dsimp only
  exact Yields.ok (memWf_writePred (memWf_foldl_fst (memWf_settleOwn h9)
    (fun ⟨t10, x11⟩ ⟨x12, x13, x14⟩ h15 => memWf_thitLane h15)))

theorem memWf_execGemitPrim {d : BitVec 7} {n : BitVec 1} {p : BitVec 3} {s : State} (h : s.memWf = true) :
    OutOk (execGemitPrim d n p s) := by
  unfold execGemitPrim
  refine memWf_runWord h ?_
  intro x1 t2 h3
  refine Yields.after ?_
  intro x4
  split
  · split
    · split
      · refine Yields.after ?_
        intro x10
        dsimp only
        split
        · exact (memWf_unbuffered h3).map (fun _ h13 => memWf_nbWrite h13)
        · exact (memWf_unbuffered h3).bind (fun _ h16 => Yields.ok (memWf_nbWrite (memWf_laterAll (memWf_mk h16))))
      · dsimp only
        split
        · exact (memWf_unbuffered h3).map (fun _ h20 => memWf_nbWrite h20)
        · exact (memWf_unbuffered h3).bind (fun _ h23 => Yields.ok (memWf_nbWrite (memWf_laterAll (memWf_mk h23))))
    · split
      · refine Yields.after ?_
        intro x26
        dsimp only
        split
        · exact Yields.error
        · exact (memWf_unbuffered h3).bind (fun _ h30 => Yields.ok (memWf_laterAll (memWf_mk h30)))
      · dsimp only
        split
        · exact Yields.error
        · exact (memWf_unbuffered h3).bind (fun _ h35 => Yields.ok (memWf_laterAll (memWf_mk h35)))
  · split
    · split
      · refine Yields.after ?_
        intro x40
        dsimp only
        split
        · exact (memWf_unbuffered h3).map (fun _ h43 => memWf_nbWrite h43)
        · exact (memWf_unbuffered h3).bind (fun _ h46 => Yields.ok (memWf_nbWrite (memWf_laterAll (memWf_mk h46))))
      · dsimp only
        split
        · exact (memWf_unbuffered h3).map (fun _ h50 => memWf_nbWrite h50)
        · exact (memWf_unbuffered h3).bind (fun _ h53 => Yields.ok (memWf_nbWrite (memWf_laterAll (memWf_mk h53))))
    · split
      · refine Yields.after ?_
        intro x56
        dsimp only
        split
        · exact Yields.error
        · exact (memWf_unbuffered h3).bind (fun _ h60 => Yields.ok (memWf_laterAll (memWf_mk h60)))
      · dsimp only
        split
        · exact Yields.error
        · exact (memWf_unbuffered h3).bind (fun _ h65 => Yields.ok (memWf_laterAll (memWf_mk h65)))

theorem memWf_drawBytes {c : WCtx} {va n : ℕ} {s : State} (h : s.memWf = true) : (drawBytes c va n s).2.memWf = true := by
  unfold drawBytes
  split
  · exact h
  · exact memWf_engRead h

theorem memWf_execGemitDraw {d : BitVec 7} {_x : BitVec 3} {n : BitVec 1} {p : BitVec 3} {s : State} (h : s.memWf = true) :
    OutOk (execGemitDraw d _x n p s) := by
  unfold execGemitDraw
  refine memWf_runWord h ?_
  intro x1 t2 h3
  refine Yields.after ?_
  intro x4
  refine Yields.after ?_
  intro x5
  refine Yields.after ?_
  intro x6
  refine (memWf_unbuffered h3).bind ?_
  intro t7 h8
  split
  · dsimp only
    split
    · rename_i e13
      refine Yields.after ?_
      intro x14
      split
      · rename_i e18
        refine Yields.after ?_
        intro x19
        split
        · exact memWf_illegal
        · refine Yields.after ?_
          intro x26
          split
          · exact Yields.ok (memWf_nbWrite (memWf_snd e18 (memWf_readDraw (memWf_snd e13 (memWf_drawBytes (memWf_releaseAct h8)))
              (fun _ _ _ h31 => memWf_drawBytes h31))))
          · split
            · exact Yields.ok (memWf_addDraw (memWf_snd e18 (memWf_readDraw
                (memWf_snd e13 (memWf_drawBytes (memWf_releaseAct h8))) (fun _ _ _ h38 => memWf_drawBytes h38))))
            · exact Yields.ok (memWf_nbWrite (memWf_writeS (memWf_later
                (memWf_acceptDraw (memWf_addDraw (memWf_snd e18 (memWf_readDraw
                (memWf_snd e13 (memWf_drawBytes (memWf_releaseAct h8))) (fun _ _ _ h45 => memWf_drawBytes h45))))))))
  · dsimp only
    split
    · rename_i e50
      refine Yields.after ?_
      intro x51
      split
      · rename_i e55
        refine Yields.after ?_
        intro x56
        split
        · exact memWf_illegal
        · refine Yields.after ?_
          intro x63
          split
          · exact Yields.error
          · split
            · exact Yields.ok (memWf_addDraw (memWf_snd e55 (memWf_readDraw
                (memWf_snd e50 (memWf_drawBytes (memWf_releaseAct h8))) (fun _ _ _ h71 => memWf_drawBytes h71))))
            · exact Yields.ok (memWf_writeS (memWf_later (memWf_acceptDraw
                (memWf_addDraw (memWf_snd e55 (memWf_readDraw (memWf_snd e50 (memWf_drawBytes (memWf_releaseAct h8)))
                (fun _ _ _ h78 => memWf_drawBytes h78)))))))

theorem memWf_runWordAfter {s : State} {check : WCtx → Try Unit} {body : WCtx → State → Try State} (h : s.memWf = true)
    (hbody : ∀ (a : WCtx) (a_1 : State), a_1.memWf = true → Yields (fun x => x.memWf = true) (body a a_1)) :
    OutOk (runWordAfter s check body) := by
  unfold runWordAfter
  split
  · exact OutOk.fault
  · refine OutOk.next ?_
    refine memWf_settle h (fun _ h7 => memWf_finish h7) ?_
    refine Yields.after ?_
    intro x8
    split
    · exact Yields.ok h
    · exact hbody _ _ h

theorem memWf_fragQuad {c : WCtx} {d n : ℕ} {z : Bool} {tgt : ℕ} {s : State} {e : ℕ × Quad} (h : s.memWf = true) :
    (fragQuad c d n z tgt s e).memWf = true := by
  unfold fragQuad
  split
  · exact memWf_laterAll (memWf_setQuad (memWf_mk h))

theorem memWf_execFrag {d : BitVec 7} {t : BitVec 3} {z : BitVec 1} {s : State} (h : s.memWf = true) :
    OutOk (execFrag d t z s) := by
  unfold execFrag
  refine memWf_runWordAfter h ?_
  intro x1 t2 h3
  split
  · split
    · exact Yields.after (fun _ => Yields.after (fun _ => Yields.after (fun _ => memWf_illegal)))
    · exact Yields.after (fun _ => memWf_illegal)
  · split
    · refine Yields.after ?_
      intro x16
      refine Yields.after ?_
      intro x17
      refine Yields.after ?_
      intro x18
      dsimp only
      split
      · exact Yields.after (fun _ => Yields.ok (memWf_foldl h3 (fun _ ⟨x22, x23⟩ h24 => memWf_fragQuad h24)))
      · exact Yields.ok (memWf_foldl h3 (fun _ ⟨x27, x28⟩ h29 => memWf_fragQuad h29))
    · refine Yields.after ?_
      intro x31
      dsimp only
      split
      · exact Yields.after (fun _ => Yields.ok (memWf_foldl h3 (fun _ ⟨x35, x36⟩ h37 => memWf_fragQuad h37)))
      · exact Yields.ok (memWf_foldl h3 (fun _ ⟨x40, x41⟩ h42 => memWf_fragQuad h42))

theorem memWf_execSysSrseed {r : BitVec 7} {s : State} (h : s.memWf = true) :
    OutOk (execSysSrseed r s) :=
  memWf_runWord h (fun _ _ h3 => Yields.ok (memWf_updG h3))

theorem memWf_execSysSegset {k : BitVec 3} {r : BitVec 7} {s : State} (h : s.memWf = true) :
    OutOk (execSysSegset k r s) := by
  unfold execSysSegset
  refine memWf_runWord h ?_
  intro x1 t2 h3
  refine Yields.after ?_
  intro x4
  dsimp only
  split
  · exact memWf_illegal
  · exact Yields.ok (memWf_updG h3)

theorem memWf_clauseHolding {s : State} {key : ℕ} {g : Group} {pc : ℕ} (h : s.memWf = true) :
    Yields (fun x => x.1.memWf = true) (clauseHolding s key g pc) := by
  unfold clauseHolding
  split
  · exact Yields.ok h
  · dsimp only
    split
    · exact Yields.ok h
    · exact (memWf_fetchWord h).map (fun ⟨t8, x9⟩ h10 => h10)

theorem memWf_trapReturn {s : State} {c : WCtx} {skip : Bool} (h : s.memWf = true) :
    Yields (fun x => x.memWf = true) (trapReturn s c skip) := by
  unfold trapReturn
  split
  · split
    · dsimp only
      split
      · split
        · exact memWf_illegal
        · exact (memWf_clauseHolding h).bind (fun ⟨t10, x11⟩ h12 => Yields.ok (memWf_updG h12))
      · split
        · exact memWf_illegal
        · exact (memWf_clauseHolding h).bind (fun ⟨t17, x18⟩ h19 => Yields.ok (memWf_updG h19))
    · dsimp only
      split
      · split
        · exact memWf_illegal
        · exact (memWf_clauseHolding h).bind (fun ⟨t27, x28⟩ h29 => Yields.ok (memWf_updG h29))
      · split
        · exact memWf_illegal
        · exact (memWf_clauseHolding h).bind (fun ⟨t34, x35⟩ h36 => Yields.ok (memWf_updG h36))
  · split
    · dsimp only
      split
      · split
        · exact memWf_illegal
        · exact (memWf_clauseHolding h).bind (fun ⟨t46, x47⟩ h48 => Yields.ok (memWf_updG h48))
      · split
        · exact memWf_illegal
        · exact (memWf_clauseHolding h).bind (fun ⟨t53, x54⟩ h55 => Yields.ok (memWf_updG h55))
    · dsimp only
      split
      · split
        · exact memWf_illegal
        · exact (memWf_clauseHolding h).bind (fun ⟨t63, x64⟩ h65 => Yields.ok (memWf_updG h65))
      · split
        · exact memWf_illegal
        · exact (memWf_clauseHolding h).bind (fun ⟨t70, x71⟩ h72 => Yields.ok (memWf_updG h72))

theorem memWf_execSysTret {k : BitVec 1} {s : State} (h : s.memWf = true) :
    OutOk (execSysTret k s) := by
  unfold execSysTret
  refine memWf_runCtl h ?_
  intro x1 t2 h3
  split
  · exact Yields.ok (memWf_advance h3)
  · exact memWf_trapReturn h3

theorem memWf_execPeerPortTrained {p dev : ℕ} {s : State} (h : s.memWf = true) :
    OutOk (execPeerPortTrained p dev s) :=
  OutOk.next (memWf_ite (memWf_setPort h) h)

theorem memWf_execGovernorBudgetChange {cl : ℕ} {budget : BitVec 16} {s : State} (h : s.memWf = true) :
    OutOk (execGovernorBudgetChange cl budget s) :=
  OutOk.next (memWf_ite (memWf_thermalRec (memWf_setMx h)) h)

theorem memWf_exec {i : Instr} {s : State} (h : s.memWf = true) :
    OutOk (exec i s) := by
  unfold exec
  split
  · exact memWf_execDeviceReset h
  · exact memWf_execFunctionLevelReset h
  · exact memWf_execRegisterWrite h
  · exact memWf_execBar0UnsupportedAccess h
  · exact memWf_execBar4Read h
  · exact memWf_execBar4Write h
  · exact memWf_execHingeInstall h
  · exact memWf_execHingeRelease h
  · exact memWf_execHingeRead h
  · exact memWf_execHingeDonate h
  · exact memWf_execHingeSetaff h
  · exact memWf_execHingeGetaff h
  · exact memWf_execHingeCmdComplete h
  · exact memWf_execQmQtableWrite h
  · exact memWf_execQueueLoad h
  · exact memWf_execQueueDisable h
  · exact memWf_execQueueReset h
  · exact memWf_execQctlComplete h
  · exact memWf_execQueueTail h
  · exact memWf_execCommandStart h
  · exact memWf_execQueueLaunch h
  · exact memWf_execQueueDraw h
  · exact memWf_execQueueCopy h
  · exact memWf_execQueueSignal h
  · exact memWf_execQueueWait h
  · exact memWf_execWaitComplete h
  · exact memWf_execWaitTimeout h
  · exact memWf_execQueueFence h
  · exact memWf_execQueueTimestamp h
  · exact memWf_execQueueSalloc h
  · exact memWf_execQueueSfree h
  · exact memWf_execQueueResync h
  · exact memWf_execCommandComplete h
  · exact memWf_execHbCtxtabWrite h
  · exact memWf_execCtxBind h
  · exact memWf_execCtxUnbind h
  · exact memWf_execCtxKill h
  · exact memWf_execCtxKillLaunch h
  · exact memWf_execCtxResume h
  · exact memWf_execCtxSwitchOut h
  · exact memWf_execCtxSwitchIn h
  · exact memWf_execCtxPreempt h
  · exact memWf_execKillComplete h
  · exact memWf_execHostopResync h
  · exact memWf_execFwload h
  · exact memWf_execAttest h
  · exact memWf_execHostopComplete h
  · exact memWf_execSfNbpDataWrite h
  · exact memWf_execBankProgramInstall h
  · exact memWf_execFbKwStoreWrite h
  · exact memWf_execFbCellAreaWrite h
  · exact memWf_execHbIdWrite h
  · exact memWf_execAtsCompletion h
  · exact memWf_execTranslationMiss h
  · exact memWf_execPageRequestResponse h
  · exact memWf_execAtsInvalidation h
  · exact memWf_execBackgroundZeroingComplete h
  · exact memWf_execMigrationEpochEnd h
  · exact memWf_execMigrationCopyComplete h
  · exact memWf_execMigrationLockTimeout h
  · exact memWf_execSliceRequest h
  · exact memWf_execSliceLineFill h
  · exact memWf_execSliceWriteBack h
  · exact memWf_execL1LineFill h
  · exact memWf_execAtomicResponseRelease h
  · exact memWf_execOrderedAddContribution h
  · exact memWf_execInjectionReserve h
  · exact memWf_execPawlLaunch h
  · exact memWf_execPawl h
  · exact memWf_execHeartbeat h
  · exact memWf_execHeartbeatMiss h
  · exact memWf_execLinkRetryFailure h
  · exact memWf_execRerouteResume h
  · exact memWf_execCopyEngineComplete h
  · exact memWf_execEngineCommandFault h
  · exact memWf_execInterestArrival h
  · exact memWf_execRefreshArrival h
  · exact memWf_execInterestExpiry h
  · exact memWf_execRequesterRecordExpiry h
  · exact memWf_execKputArrival h
  · exact memWf_execCloseNoticeArrival h
  · exact memWf_execCloseAck h
  · exact memWf_execTileArrival h
  · exact memWf_execBackingRefetchComplete h
  · exact memWf_execMessageArrival h
  · exact memWf_execHandlerDispatch h
  · exact memWf_execHandlerWatchdog h
  · exact memWf_execSliceQueueOperation h
  · exact memWf_execTileEviction h
  · exact memWf_execTileRestore h
  · exact memWf_execScrubBurst h
  · exact memWf_execNbxCommand h
  · exact memWf_execOrderLockEntry h
  · exact memWf_execRopInvocation h
  · exact memWf_execMatrixPassGrant h
  · exact memWf_execReservationAging h
  · exact memWf_execMatrixTileWriteback h
  · exact memWf_execGovernorWindow h
  · exact memWf_execContextBankSpill h
  · exact memWf_execMbldReadEnd h
  · exact memWf_execTraversalLaneEnd h
  · exact memWf_execDrawAccept h
  · exact memWf_execPrimitiveSetup h
  · exact memWf_execQuadTicketReserve h
  · exact memWf_execFragmentGroupDispatch h
  · exact memWf_execDrawComplete h
  · exact memWf_execIssueCycle h
  · exact memWf_execSplitGuardExpiry h
  · exact memWf_execSlotStarvationGuard h
  · exact memWf_execCollectorMark h
  · exact memWf_execClauseStart h
  · exact memWf_execMayFaultChecksResolved h
  · exact memWf_execLongLatencyCompletion h
  · exact memWf_execWatchdogExpiry h
  · exact memWf_execTeamPlacement h
  · exact memWf_execPlacementStarvation h
  · exact memWf_execPreemptionRequest h
  · exact memWf_execDrainTimeout h
  · exact memWf_execTeamSave h
  · exact memWf_execHarvestRevocation h
  · exact memWf_execThermalLimitCrossing h
  · exact memWf_execThermalMigration h
  · exact memWf_execAgeingMeasurement h
  · exact memWf_execForcedAgeingMeasurement h
  · exact memWf_execPeerPortDown h
  · exact memWf_execPeerReceive h
  · exact memWf_execNop h
  · exact memWf_execBra h
  · exact memWf_execBrx h
  · exact memWf_execCall h
  · exact memWf_execRet h
  · exact memWf_execJset h
  · exact memWf_execExit h
  · exact memWf_execTrap h
  · exact memWf_execMset h
  · exact memWf_execMsetReg h
  · exact memWf_execMget h
  · exact memWf_execSli h
  · exact memWf_execSlih h
  · exact memWf_execPset h
  · exact memWf_execPsetS h
  · exact memWf_execPsetLt h
  · exact memWf_execPmov h
  · exact memWf_execVwset h
  · exact memWf_execSysr h
  · exact memWf_execSadd h
  · exact memWf_execSsub h
  · exact memWf_execSmul h
  · exact memWf_execSmulh h
  · exact memWf_execSmad h
  · exact memWf_execSand h
  · exact memWf_execSor h
  · exact memWf_execSxor h
  · exact memWf_execSshl h
  · exact memWf_execSshr h
  · exact memWf_execSsar h
  · exact memWf_execSmin h
  · exact memWf_execSmax h
  · exact memWf_execScmp h
  · exact memWf_execSsel h
  · exact memWf_execSbit h
  · exact memWf_execAdd h
  · exact memWf_execSub h
  · exact memWf_execMul h
  · exact memWf_execMulh h
  · exact memWf_execMad h
  · exact memWf_execAndB h
  · exact memWf_execOrB h
  · exact memWf_execXorB h
  · exact memWf_execShl h
  · exact memWf_execShr h
  · exact memWf_execSar h
  · exact memWf_execMinV h
  · exact memWf_execMaxV h
  · exact memWf_execAbsd h
  · exact memWf_execAddc h
  · exact memWf_execBit h
  · exact memWf_execCmp h
  · exact memWf_execSel h
  · exact memWf_execAdr h
  · exact memWf_execDot8 h
  · exact memWf_execFadd h
  · exact memWf_execFsub h
  · exact memWf_execFmul h
  · exact memWf_execFfma h
  · exact memWf_execFfms h
  · exact memWf_execFfnma h
  · exact memWf_execFfnms h
  · exact memWf_execFmin h
  · exact memWf_execFmax h
  · exact memWf_execFcmp h
  · exact memWf_execFclass h
  · exact memWf_execFrcp h
  · exact memWf_execFrsq h
  · exact memWf_execFsqrt h
  · exact memWf_execFdiv h
  · exact memWf_execFexp2 h
  · exact memWf_execFlog2 h
  · exact memWf_execFsin h
  · exact memWf_execFcos h
  · exact memWf_execFrnd h
  · exact memWf_execFscale h
  · exact memWf_execFfract h
  · exact memWf_execFdot2 h
  · exact memWf_execFcsgn h
  · exact memWf_execCvt h
  · exact memWf_execCvtb h
  · exact memWf_execCvtq h
  · exact memWf_execTagset h
  · exact memWf_execTagget h
  · exact memWf_execFpack h
  · exact memWf_execFunpack h
  · exact memWf_execSqz h
  · exact memWf_execVmov h
  · exact memWf_execVmovS h
  · exact memWf_execVmovI h
  · exact memWf_execVperm h
  · exact memWf_execVtbl h
  · exact memWf_execVshuf h
  · exact memWf_execVred h
  · exact memWf_execVscan h
  · exact memWf_execVballot h
  · exact memWf_execVrel h
  · exact memWf_execVrelSt h
  · exact memWf_execLd h
  · exact memWf_execSt h
  · exact memWf_execLdu h
  · exact memWf_execStu h
  · exact memWf_execLdt h
  · exact memWf_execStt h
  · exact memWf_execLdb h
  · exact memWf_execPrf h
  · exact memWf_execAtom h
  · exact memWf_execFatom h
  · exact memWf_execFence h
  · exact memWf_execBar h
  · exact memWf_execWaita h
  · exact memWf_execWaitaRecheck h
  · exact memWf_execWcnt h
  · exact memWf_execDfence h
  · exact memWf_execDfenceAll h
  · exact memWf_execGmove h
  · exact memWf_execQpush h
  · exact memWf_execQpop h
  · exact memWf_execKwant h
  · exact memWf_execKput h
  · exact memWf_execKdrop h
  · exact memWf_execKclose h
  · exact memWf_execAmsend h
  · exact memWf_execCpy h
  · exact memWf_execColl h
  · exact memWf_execNbx h
  · exact memWf_execSld h
  · exact memWf_execSst h
  · exact memWf_execSalloc h
  · exact memWf_execSfree h
  · exact memWf_execSpinOn h
  · exact memWf_execSpinOff h
  · exact memWf_execMma h
  · exact memWf_execMmas h
  · exact memWf_execMbld h
  · exact memWf_execMbrel h
  · exact memWf_execTravStart h
  · exact memWf_execTrav h
  · exact memWf_execTrepStart h
  · exact memWf_execTrep h
  · exact memWf_execBunion h
  · exact memWf_execBsah h
  · exact memWf_execNpack h
  · exact memWf_execMcode h
  · exact memWf_execThit h
  · exact memWf_execGemitPrim h
  · exact memWf_execGemitDraw h
  · exact memWf_execFrag h
  · exact memWf_execSysSrseed h
  · exact memWf_execSysSegset h
  · exact memWf_execSysTret h
  · exact memWf_execPeerPortTrained h
  · exact memWf_execGovernorBudgetChange h

theorem memWf_step {s : State} (h : s.memWf = true) : OutOk (step s) := by
  have picked := memWf_pick h
  unfold step
  split <;> rename_i chosen <;> rw [chosen] at picked
  · exact .next picked
  · exact memWf_exec picked

/-- Settles O59: no operation that a step is made of takes a memory out of its canonical form. -/
theorem stepKeepsMemoryForm : Obligations.StepKeepsMemoryForm := by
  unfold Obligations.StepKeepsMemoryForm
  exact fun s t h stepped => memWf_step h t stepped

end Sys2Proof.Machine
end

section
/-! What reading a word of memory leaves as it is: the word that issues, the clock and where each group's splits stand. -/
namespace Sys2Proof.Machine

/-- `t` is as `s` in the word that issues, the clock and every group's splits. -/
structure Calm (s t : State) : Prop where
  issue : t.issue = s.issue
  time : t.time = s.time
  splits : ∀ key, (Tab.find t.groups key).map Group.splits = (Tab.find s.groups key).map Group.splits

theorem Calm.refl {s : State} : Calm s s := ⟨rfl, rfl, fun _ => rfl⟩

section
variable {o s : State}

theorem calm_mk
    {teams launches saved l1 icache scratch outMsgs cycles rounds cores clusters near far host peers slices poison
      badCheck tcache hub0 hub1 hinge inUse affinity heldWb slotFrees xfaults invals frames paused beats drops peerIn
      collIn sreqs seqs marks respWin cells fqueues pawls stations links reroute engCmds mx rays interests recs tiles
      tdir closed kflits msgQ surfs gens sbytes bstate tslots tlast restoring bankProg raster ctxs queues qcur killing
      hb fw agenda rr fresh nextId}
    (h : Calm o s) :
    Calm o
      { groups := s.groups, teams, launches, saved, l1, icache, scratch, outMsgs, cycles, rounds, cores, clusters,
        near, far, host, peers, slices, poison, badCheck, tcache, hub0, hub1, hinge, inUse, affinity, heldWb, slotFrees,
        xfaults, invals, frames, paused, beats, drops, peerIn, collIn, sreqs, seqs, marks, respWin, cells, fqueues,
        pawls, stations, links, reroute, engCmds, mx, rays, interests, recs, tiles, tdir, closed, kflits, msgQ, surfs,
        gens, sbytes, bstate, tslots, tlast, restoring, bankProg, raster, ctxs, queues, qcur, killing, hb, fw, time :=
        s.time, issue := s.issue, agenda, rr, fresh, nextId } :=
  ⟨h.issue, h.time, h.splits⟩

theorem calm_updG {key : Nat} {f : Group → Group} (h : Calm o s) (hf : ∀ g, (f g).splits = g.splits) : Calm o (updG s key f) := by
  refine ⟨h.issue, h.time, fun k => ?_⟩
  rw [find_updG, ← h.splits k]
  split
  next same =>
    subst same
    cases Tab.find s.groups k with
    | none => rfl
    | some g => exact congrArg some (hf g)
  next => rfl

theorem calm_ite {c : Prop} [Decidable c] {t : State} (hs : Calm o s) (ht : Calm o t) : Calm o (if c then s else t) := by
  split <;> assumption

variable {α β : Type}

theorem calm_fst {p : State × β} {b : β} (e : p = (s, b)) (h : Calm o p.1) : Calm o s := by rw [e] at h; exact h

theorem calm_foldl {f : State → α → State} {xs : List α} (h : Calm o s) (hf : ∀ s x, Calm o s → Calm o (f s x)) : Calm o (xs.foldl f s) :=
  foldl_keeps (Calm o) f xs s h fun s hs x _ => hf s x hs

theorem calm_foldl_fst {f : State × β → α → State × β} {xs : List α} {p : State × β} (h : Calm o p.1)
    (hf : ∀ p x, Calm o p.1 → Calm o (f p x).1) : Calm o (xs.foldl f p).1 :=
  foldl_keeps (fun p : State × β => Calm o p.1) f xs p h fun p hp x _ => hf p x hp

end

end Sys2Proof.Machine
end

section
/-! What reading a word of memory leaves as it is: the operations that a fetch and a waited-for read are made of. -/
namespace Sys2Proof.Machine

theorem calm_newId {o s : State} (h : Calm o s) :
    Calm o (newId s).1 := by
  unfold newId
  exact calm_mk h

theorem calm_chargeRec {o s : State} {cid : ℕ} {r : Rec} (h : Calm o s) :
    Calm o (chargeRec s cid r) :=
  calm_mk h

theorem calm_sectorRec {o s : State} {ctx cls : ℕ} {l : Loc} (h : Calm o s) :
    Calm o (sectorRec s ctx cls l) :=
  calm_chargeRec h

theorem calm_setPoison {o s : State} {sector : Loc} {p : Bool} (h : Calm o s) :
    Calm o (setPoison s sector p) :=
  calm_mk h

theorem calm_poisonPlaces {o s : State} {ls : List Loc} (h : Calm o s) :
    Calm o (poisonPlaces s ls) :=
  calm_foldl h (fun _ _ h3 => calm_setPoison h3)

theorem calm_meetSector {o : State} {ctx : ℕ} {s : State} {l : Loc} (h : Calm o s) :
    Calm o (meetSector ctx s l) :=
  calm_ite (calm_sectorRec (calm_poisonPlaces h)) (calm_ite (calm_sectorRec h) h)

theorem calm_chargeBad {o s : State} {ctx : ℕ} {ls : List Loc} (h : Calm o s) :
    Calm o (chargeBad s ctx ls) :=
  calm_foldl h (fun _ _ h3 => calm_meetSector h3)

theorem calm_dropLines {o s : State} {p : ℕ → Bool} (h : Calm o s) :
    Calm o (dropLines s p) :=
  calm_mk h

theorem calm_verifyPlaces {o s : State} {ctx : ℕ} {ls : List Loc} (h : Calm o s) :
    Calm o (verifyPlaces s ctx ls) :=
  calm_ite h (calm_foldl h (fun _ ⟨_, _⟩ h4 => calm_ite (calm_sectorRec (calm_setPoison h4)) h4))

theorem calm_carrySector {o s : State} {src dst : Loc} (h : Calm o s) :
    Calm o (carrySector s src dst) :=
  calm_mk h

theorem calm_setFrameByte {o s : State} {la : ℕ} {b : BitVec 8} (h : Calm o s) :
    Calm o (setFrameByte s la b) :=
  calm_ite h (calm_ite (calm_mk h) (calm_mk h))

theorem calm_flushBytes {o s : State} {line : ℕ} {l : SLine} (h : Calm o s) :
    Calm o (flushBytes s line l) := by
  unfold flushBytes
  split
  · exact calm_foldl h (fun _ _ h4 => calm_sectorRec h4)
  · refine calm_foldl ?_ (fun _ _ h16 => calm_ite (calm_setFrameByte h16) h16)
    refine calm_foldl (calm_ite (calm_verifyPlaces h) h) ?_
    intro t6 x7 h8
    split
    · exact calm_carrySector h8
    · exact h8

theorem calm_setHub {o s : State} {st : ℕ} {h : Hub} (hs : Calm o s) :
    Calm o (setHub s st h) :=
  calm_ite (calm_mk hs) (calm_mk hs)

theorem calm_touchCount {o s : State} {frame : ℕ} (h : Calm o s) :
    Calm o (touchCount s frame) :=
  calm_setHub h

theorem calm_giveUpLine {o s : State} {slice : ℕ} (h : Calm o s) :
    Calm o (giveUpLine s slice) := by
  unfold giveUpLine
  split
  · exact calm_dropLines h
  · split
    · exact calm_dropLines (calm_flushBytes (calm_touchCount h))
    · exact h

theorem calm_sliceRoom {o s : State} {slice : ℕ} (h : Calm o s) :
    Calm o (sliceRoom s slice) :=
  calm_ite h (calm_giveUpLine h)

theorem calm_fillSector {o s : State} {x : Loc} (h : Calm o s) :
    Calm o (fillSector s x) := by
  unfold fillSector
  split
  · exact calm_setPoison h
  · split
    · exact calm_carrySector h
    · exact h

theorem calm_fillSlice {o s : State} {line : ℕ} (h : Calm o s) :
    Calm o (fillSlice s line) :=
  calm_ite h (calm_ite (calm_foldl (calm_mk (calm_sliceRoom (calm_touchCount h))) (fun _ _ h3 => calm_fillSector h3))
    (calm_sliceRoom (calm_touchCount h)))

theorem calm_fillLines {o s : State} {ls : List Loc} (h : Calm o s) :
    Calm o (fillLines s ls) :=
  calm_foldl h (fun _ _ h3 => calm_fillSlice h3)

theorem calm_verifyLines {o s : State} {ctx : ℕ} {ls : List Loc} (h : Calm o s) :
    Calm o (verifyLines s ctx ls) :=
  calm_chargeBad (calm_fillLines h)

theorem calm_parkedValue {o s : State} {c : Cell} (h : Calm o s) :
    Calm o (parkedValue s c).1 := by
  unfold parkedValue
  exact calm_verifyLines h

theorem calm_bumpRetired {o s : State} {st : ℕ} (h : Calm o s) :
    Calm o (bumpRetired s st) :=
  calm_ite h (calm_mk h)

theorem calm_putHostByte {o s : State} {t : ℕ} {b : BitVec 8} (h : Calm o s) :
    Calm o (putHostByte s t b) :=
  calm_ite (calm_mk h) (calm_mk h)

theorem calm_putSliceByte {o s : State} {ctx la : ℕ} {b : BitVec 8} (h : Calm o s) :
    Calm o (putSliceByte s ctx la b) := by
  unfold putSliceByte
  dsimp only
  split
  · exact calm_mk (calm_fillSlice h)
  · exact calm_ite (calm_fillSlice h) (calm_setFrameByte (calm_fillSlice h))

theorem calm_putRaw {o s : State} {ctx : ℕ} {host : Bool} {a x x1 : ℕ} (h : Calm o s) :
    Calm o (putRaw s ctx host a x x1) := by
  fun_induction putRaw
  · exact h
  · rename_i e8
    exact e8 (calm_ite (calm_putHostByte h) (calm_putSliceByte h))

theorem calm_chargeCut {o s : State} {ctx : ℕ} {ls : List Loc} (h : Calm o s) :
    Calm o (chargeCut s ctx ls) :=
  calm_ite h (calm_foldl h (fun _ _ h3 => calm_sectorRec h3))

theorem calm_mergePlaces {o s : State} {ctx : ℕ} {ls : List Loc} (h : Calm o s) :
    Calm o (mergePlaces s ctx ls) :=
  calm_ite (calm_fillLines (calm_chargeCut h)) (calm_foldl (calm_fillLines (calm_chargeCut h))
    (fun _ ⟨_, _⟩ h4 => calm_ite (calm_setPoison h4) (calm_ite (calm_sectorRec (calm_setPoison h4)) h4)))

theorem calm_roundCell {o s : State} {c : Cell} (h : Calm o s) :
    Calm o (roundCell s c) :=
  calm_ite (calm_poisonPlaces (calm_putRaw (calm_mergePlaces h))) (calm_putRaw (calm_mergePlaces h))

theorem calm_retireCell {o s : State} {c : Cell} (h : Calm o s) :
    Calm o (retireCell s c) :=
  calm_roundCell (calm_mk h)

theorem calm_retireAt {o s : State} {host : Bool} {a : ℕ} (h : Calm o s) :
    Calm o (retireAt s host a) :=
  calm_foldl h (fun _ _ h3 => calm_retireCell h3)

theorem calm_setLogByte {o s : State} {ctx la : ℕ} {b : BitVec 8} (h : Calm o s) :
    Calm o (setLogByte s ctx la b) :=
  calm_ite h (calm_putSliceByte (calm_retireAt h))

theorem calm_putLogBytes {o s : State} {ctx la : ℕ} {x : List (BitVec 8)} (h : Calm o s) :
    Calm o (putLogBytes s ctx la x) := by
  fun_induction putLogBytes
  · exact h
  · rename_i e7
    exact e7 (calm_setLogByte h)

theorem calm_setLogBytes {o s : State} {ctx la : ℕ} {bs : List (BitVec 8)} (h : Calm o s) :
    Calm o (setLogBytes s ctx la bs) :=
  calm_putLogBytes (calm_mergePlaces h)

theorem calm_parkCell {o s : State} {c : Cell} (h : Calm o s) :
    Calm o (parkCell s c) :=
  calm_setLogBytes (calm_mk h)

theorem calm_retireParked {o s : State} {slice : ℕ} (h : Calm o s) :
    Calm o (retireParked s slice) := by
  unfold retireParked
  split
  · dsimp only
    exact calm_bumpRetired (calm_roundCell (calm_mk (calm_parkedValue h)))
  · exact h

theorem calm_cellRoom {o s : State} {slice : ℕ} (h : Calm o s) :
    Calm o (cellRoom s slice) := by
  unfold cellRoom
  split
  · dsimp only
    split
    · exact h
    · split
      · exact h
      · exact calm_bumpRetired (calm_retireCell h)
  · dsimp only
    split
    · exact h
    · split
      · exact h
      · exact calm_parkCell (calm_ite h (calm_retireParked h))

theorem calm_touchCell {o s : State} {c : Cell} (h : Calm o s) :
    Calm o (touchCell s c).1 := by
  unfold touchCell
  dsimp only
  split
  · exact calm_mk (calm_cellRoom (calm_mk (calm_parkedValue (calm_newId h))))
  · exact calm_mk (calm_newId h)

theorem calm_readCells {o s : State} {host : Bool} {a n : ℕ} (h : Calm o s) :
    Calm o (readCells s host a n) := by
  unfold readCells
  refine calm_foldl h ?_
  intro t1 x2 h3
  split
  · dsimp only
    exact calm_roundCell (calm_touchCell h3)
  · exact h3

theorem calm_readCellsAt {o s : State} {ls : List Loc} (h : Calm o s) :
    Calm o (readCellsAt s ls) := by
  unfold readCellsAt
  split
  · exact h
  · refine calm_foldl h ?_
    intro t3 x4 h5
    split
    · exact calm_readCells h5
    · exact calm_readCells h5
    · exact calm_readCells h5
    · exact h5

theorem calm_touchPlaces {o s : State} {ctx : ℕ} {ls : List Loc} (h : Calm o s) :
    Calm o (touchPlaces s ctx ls) :=
  calm_readCellsAt (calm_verifyLines h)

theorem calm_takeSeq {o s : State} {src : ℕ} (h : Calm o s) :
    Calm o (takeSeq s src).1 := by
  unfold takeSeq
  exact calm_mk h

theorem calm_setFq {o s : State} {q : ℕ} {f : FQueue → FQueue} (h : Calm o s) :
    Calm o (setFq s q f) :=
  calm_mk h

theorem calm_fqLeave {o s : State} {q count : ℕ} (h : Calm o s) :
    Calm o (fqLeave s q count) :=
  calm_ite (calm_setFq h) h

theorem calm_dropFrames {o s : State} {id : ℕ} (h : Calm o s) :
    Calm o (dropFrames s id) :=
  calm_foldl (calm_mk h) (fun _ _ h3 => calm_fqLeave h3)

theorem calm_setPending {o s : State} {key pid : ℕ} {f : Pending → Pending} (h : Calm o s) :
    Calm o (setPending s key pid f) :=
  calm_updG h (fun _ => rfl)

theorem calm_later {o s : State} {e : Instr} (h : Calm o s) :
    Calm o (later s e) :=
  calm_mk h

theorem calm_answer {o s : State} {r : SReq} {v : ℕ} (h : Calm o s) :
    Calm o (answer s r v) := by
  unfold answer
  split
  · exact h
  · exact calm_ite (calm_later (calm_setPending h)) (calm_setPending h)

theorem calm_answerBad {o s : State} {r : SReq} {l : Loc} (h : Calm o s) :
    Calm o (answerBad s r l) := by
  unfold answerBad
  split
  · exact calm_chargeCut h
  · exact calm_answer h

theorem calm_markRoom {o s : State} {slice dev src : ℕ} (h : Calm o s) :
    Finds (fun x => Calm o x) (markRoom s slice dev src) := by
  unfold markRoom
  dsimp only
  split
  · exact Finds.some h
  · split
    · exact Finds.some (calm_mk h)
    · exact Finds.none

theorem calm_putMark {o s : State} {slice dev src seq : ℕ} (h : Calm o s) :
    Calm o (putMark s slice dev src seq) := by
  unfold putMark
  split
  · rename_i e3
    exact calm_mk ((calm_markRoom h) _ e3)
  · exact h

theorem calm_markReq {o s : State} {r : SReq} {slice : ℕ} (h : Calm o s) :
    Calm o (markReq s r slice) :=
  calm_ite h (calm_putMark h)

theorem calm_setHostByte {o s : State} {t : ℕ} {b : BitVec 8} (h : Calm o s) :
    Calm o (setHostByte s t b) :=
  calm_ite h (calm_putHostByte (calm_retireAt h))

theorem calm_carryPoison {o : State} {h : ℕ} {f : Surf} {s : State} {n : ℕ} (hs : Calm o s) :
    Calm o (carryPoison h f s n) :=
  calm_foldl (calm_verifyPlaces (calm_fillLines hs)) (fun _ _ h3 => calm_setPoison h3)

theorem calm_carryForm {o : State} {h : ℕ} {f : Surf} {compressed : Bool} {s : State} {n : ℕ} (hs : Calm o s) :
    Calm o (carryForm h f compressed s n) := by
  unfold carryForm
  split
  · exact hs
  · exact hs
  · exact calm_carryPoison hs

theorem calm_setBlockState {o s : State} {h n : ℕ} {b : BState} (hs : Calm o s) :
    Calm o (setBlockState s h n b) :=
  calm_mk hs

theorem calm_putRawFrom {o s : State} {k : ℕ} {x : List (BitVec 8)} (h : Calm o s) :
    Calm o (putRawFrom s k x) := by
  fun_induction putRawFrom
  · exact h
  · rename_i e7
    exact e7 (calm_mk h)

theorem calm_putBlock {o s : State} {h : ℕ} {f : Surf} {n : ℕ} {st : BState} {bs : List (BitVec 8)} (hs : Calm o s) :
    Calm o (putBlock s h f n st bs) :=
  calm_setBlockState (calm_putRawFrom hs)

theorem calm_writeBlock {o s : State} {h : ℕ} {f : Surf} {compressed : Bool} {n : ℕ} {ws : List (ℕ × BitVec 8)} (hs : Calm o s) :
    Calm o (writeBlock s h f compressed n ws) := by
  unfold writeBlock
  split
  · dsimp only
    split
    · exact calm_putBlock hs
    · exact calm_putBlock hs
  · exact calm_putBlock hs

theorem calm_writeSurf {o s : State} {h : ℕ} {compressed : Bool} {ws : List (ℕ × BitVec 8)} (hs : Calm o s) :
    Calm o (writeSurf s h compressed ws) := by
  unfold writeSurf
  split
  · exact calm_foldl (calm_mergePlaces (calm_foldl hs (fun _ _ h6 => calm_carryForm h6))) (fun _ _ h9 => calm_writeBlock h9)
  · exact hs

theorem calm_putHome {o s : State} {ctx : ℕ} {l : Loc} {b : BitVec 8} (h : Calm o s) :
    Calm o (putHome s ctx l b) := by
  unfold putHome
  split
  · exact calm_setLogByte h
  · exact calm_setHostByte h
  · exact calm_setHostByte h
  · exact calm_mk h
  · exact calm_updG h (fun _ => rfl)
  · exact calm_writeSurf h
  · exact calm_ite (calm_mk h) (calm_mk h)

theorem calm_putHomeNat {o s : State} {ctx : ℕ} {l : Loc} {x x1 : ℕ} (h : Calm o s) :
    Calm o (putHomeNat s ctx l x x1) := by
  fun_induction putHomeNat
  · exact h
  · rename_i e8
    exact e8 (calm_putHome h)

theorem calm_applyAtom {o s : State} {ctx : ℕ} {a : AtomReq} (h : Calm o s) :
    Calm o (applyAtom s ctx a).1 := by
  unfold applyAtom
  exact calm_putHomeNat (calm_mergePlaces h)

theorem calm_windowPut {o s : State} {slice dev src seq v : ℕ} (h : Calm o s) :
    Calm o (windowPut s slice dev src seq v) :=
  calm_later (calm_mk h)

theorem calm_windowReq {o s : State} {r : SReq} {slice v : ℕ} (h : Calm o s) :
    Calm o (windowReq s r slice v) :=
  calm_windowPut h

theorem calm_contribute {o s : State} {ctx : ℕ} {l : Loc} {fmt : ℕ} {v : BitVec 32} (h : Calm o s) :
    Calm o (contribute s ctx l fmt v) := by
  unfold contribute
  split
  · dsimp only
    split
    · exact calm_mk (calm_touchCell (calm_foldl h (fun _ _ h10 => calm_retireCell h10)))
    · exact calm_mk (calm_newId (calm_verifyLines (calm_cellRoom (calm_foldl h (fun _ _ h15 => calm_retireCell h15)))))

theorem calm_performReq {o s : State} {r : SReq} {l : Loc} {slice : ℕ} (h : Calm o s) :
    Calm o (performReq s r l slice) := by
  unfold performReq
  split
  · dsimp only
    split
    · exact calm_windowReq (calm_answer (calm_applyAtom (calm_readCells (calm_fillLines (calm_markReq h)))))
    · exact calm_applyAtom (calm_readCells (calm_fillLines (calm_markReq h)))
  · exact calm_contribute (calm_markReq h)
  · exact calm_markReq h

theorem calm_applyOne {o s : State} {r : SReq} (h : Calm o s) :
    Calm o (applyOne s r) := by
  unfold applyOne
  split
  · exact calm_dropFrames (calm_mk h)
  · dsimp only
    split
    · exact calm_answerBad (calm_dropFrames (calm_mk h))
    · split
      · split
        · exact calm_answer (calm_dropFrames (calm_mk h))
        · exact calm_dropFrames (calm_mk h)
      · exact calm_performReq (calm_dropFrames (calm_mk h))

theorem calm_freeWindow {o s : State} {r : SReq} {slice : ℕ} (h : Calm o s) :
    Calm o (freeWindow s r slice) := by
  unfold freeWindow
  split
  · exact h
  · dsimp only
    split
    · exact calm_mk h
    · exact h

theorem calm_applyReq {o s : State} {r : SReq} (h : Calm o s) :
    Calm o (applyReq s r) :=
  calm_ite (calm_foldl h (fun _ _ h3 => calm_applyOne (calm_freeWindow h3))) h

theorem calm_fqTake {o s : State} {q cap count : ℕ} (h : Calm o s) :
    Calm o (fqTake s q cap count) :=
  calm_ite h (calm_setFq h)

theorem calm_arriveQueue {o s : State} {r : SReq} (h : Calm o s) :
    Calm o (arriveQueue s r) :=
  calm_later (calm_markReq (calm_dropFrames (calm_mk (calm_fqTake h))))

theorem calm_countReq {o s : State} {src slice : ℕ} {store : Bool} (h : Calm o s) :
    Calm o (countReq s src slice store) := by
  unfold countReq
  dsimp only
  split
  · exact calm_putMark (calm_takeSeq (calm_foldl h (fun _ _ h4 => calm_ite (calm_applyReq h4) (calm_arriveQueue h4))))
  · exact calm_takeSeq (calm_foldl h (fun _ _ h8 => calm_ite (calm_applyReq h8) (calm_arriveQueue h8)))

theorem calm_countLines {o s : State} {src : ℕ} {store : Bool} {ls : List Loc} (h : Calm o s) :
    Calm o (countLines s src store ls) := by
  unfold countLines
  refine calm_foldl h ?_
  intro t1 x2 h3
  split
  · exact calm_takeSeq h3
  · exact calm_countReq h3

theorem calm_cacheWord {o s : State} {core k : ℕ} {w : BitVec 32} (h : Calm o s) :
    Calm o (cacheWord s core k w) :=
  calm_mk h

theorem calm_fetchWord {o s : State} {key : ℕ} {g : Group} {pc : ℕ} (h : Calm o s) :
    Yields (fun x => Calm o x.1) (fetchWord s key g pc) := by
  unfold fetchWord
  split
  · exact Yields.error
  · split
    · exact Yields.error
    · split
      · exact Yields.error
      · exact Yields.error
      · exact Yields.error
      · exact Yields.error
      · split
        · dsimp only
          split
          · split
            · exact Yields.error
            · exact Yields.ok (calm_cacheWord (calm_touchPlaces (calm_countLines h)))
          · exact Yields.ok h
        · dsimp only
          split
          · split
            · exact Yields.error
            · exact Yields.ok (calm_cacheWord (calm_touchPlaces (calm_countLines h)))
          · exact Yields.ok h

theorem calm_writeBack {o s : State} {e : L1Line} (h : Calm o s) :
    Calm o (writeBack s e) :=
  calm_ite h (calm_foldl (calm_foldl (calm_mergePlaces (calm_countReq h)) (fun _ _ h3 => calm_ite (calm_setLogByte h3) h3))
    (fun _ _ h6 => calm_chargeRec (calm_poisonPlaces h6)))

theorem calm_l1Drop {o s : State} {core : ℕ} {p : L1Line → Bool} (h : Calm o s) :
    Calm o (l1Drop s core p) :=
  calm_mk (calm_foldl h (fun _ _ h3 => calm_writeBack h3))

theorem calm_settleOwn {o s : State} {key : ℕ} {ls : List Loc} (h : Calm o s) :
    Calm o (settleOwn s key ls) := by
  unfold settleOwn
  refine calm_foldl h ?_
  intro t1 x2 h3
  refine calm_applyReq ?_
  split
  · exact calm_l1Drop h3
  · exact h3

theorem calm_ownFirst {o s : State} {key core : ℕ} {ls : List Loc} (h : Calm o s) :
    Calm o (ownFirst s key core ls) :=
  calm_l1Drop (calm_settleOwn h)

theorem calm_waitRead {o s : State} {key core ctx : ℕ} {ls : List Loc} (h : Calm o s) :
    Calm o (waitRead s key core ctx ls) :=
  calm_touchPlaces (calm_countLines (calm_ownFirst h))


/-- A fetch finds the split where the choice found it. -/
theorem issueCtx_isSome_of_calm {s t : State} (h : Calm s t) {sel : Sel} {g : Group} {sp : Split} (hi : s.issue = some sel)
    (hg : Tab.find s.groups sel.key = some g) (hs : Tab.find g.splits sel.split = some sp) : (issueCtx t).isSome := by
  have kept := h.splits sel.key
  rw [hg] at kept
  obtain ⟨x, hx, same⟩ := Option.map_eq_some_iff.mp kept
  simp [issueCtx, h.issue, hi, hx, same, hs]

end Sys2Proof.Machine
end

section
/-! Every word that issues, and every event, answers a next state (R67, R424). -/
namespace Sys2Proof.Machine

/-- The instruction answers a next state. -/
def GoesOn (o : Out) : Prop := ∃ t, o = .next t

theorem GoesOn.next {t : State} : GoesOn (.next t) := ⟨t, rfl⟩

theorem GoesOn.ite {c : Prop} [Decidable c] {o o' : Out} (h : GoesOn o) (h' : GoesOn o') : GoesOn (if c then o else o') := by
  split <;> assumption

section
variable {s : State} (h : (issueCtx s).isSome)
include h

theorem runWord_goesOn {body : WCtx → State → Try State} : GoesOn (runWord s body) := by
  obtain ⟨c, hc⟩ := Option.isSome_iff_exists.mp h
  simp only [runWord, hc]
  exact .next

theorem runWordAfter_goesOn {check : WCtx → Try Unit} {body : WCtx → State → Try State} : GoesOn (runWordAfter s check body) := by
  obtain ⟨c, hc⟩ := Option.isSome_iff_exists.mp h
  simp only [runWordAfter, hc]
  exact .next

theorem runSel_goesOn {body : WCtx → State → Try State} : GoesOn (runSel s body) := by
  obtain ⟨c, hc⟩ := Option.isSome_iff_exists.mp h
  simp only [runSel, hc]
  exact .next

theorem runCtl_goesOn {body : WCtx → State → Try State} : GoesOn (runCtl s body) := by
  obtain ⟨c, hc⟩ := Option.isSome_iff_exists.mp h
  simp only [runCtl, hc]
  exact .next

theorem runLong_goesOn {body : WCtx → State → Try (State × Pending)} :
    GoesOn (runLong s body) := runWord_goesOn h

theorem scalarOp_goesOn {d a b : BitVec 7} {f : Nat → Nat → Nat → Nat} :
    GoesOn (scalarOp s d a b f) := runWord_goesOn h

theorem vec2_goesOn {okTy : Nat → Bool} {ca cb : TagCls} {d a b : BitVec 7} {i j : BitVec 2} {f : Group → Nat → Nat → Nat} :
    GoesOn (vec2 s okTy ca cb d i a j b f) := runWord_goesOn h

theorem vec3_goesOn {okTy : Nat → Bool} {cls : TagCls} {d a b : BitVec 7} {i j : BitVec 2} {f : Group → Nat → Nat → Nat → Nat} :
    GoesOn (vec3 s okTy cls d i a j b f) := runWord_goesOn h

theorem floatWord_goesOn {okTy : Nat → Bool} {d : BitVec 7} {os : Bool → List Opnd} {f : WCtx → Nat → Nat → Option Nat → FRes} :
    GoesOn (floatWord s okTy d os f) := runWord_goesOn h

theorem float1_goesOn {d x : BitVec 7} {i : BitVec 2} {f : Group → Option Nat → Nat → FRes} :
    GoesOn (float1 s d i x f) := floatWord_goesOn h

theorem float2_goesOn {d a b : BitVec 7} {i j : BitVec 2} {f : Group → XV → XV → XV} :
    GoesOn (float2 s d i a j b f) := floatWord_goesOn h

theorem float3_goesOn {d a b : BitVec 7} {i j : BitVec 2} {f : Group → XV → XV → XV → XV} :
    GoesOn (float3 s d i a j b f) := floatWord_goesOn h

theorem minmaxWord_goesOn {mx : Bool} {d a b : BitVec 7} {i j : BitVec 2} :
    GoesOn (minmaxWord s mx d i a j b) := floatWord_goesOn h

theorem floatLong_goesOn {d : BitVec 7} {os : Bool → List Opnd} {f : WCtx → Nat → Nat → Option Nat → FRes} :
    GoesOn (floatLong s d os f) := runLong_goesOn h

theorem floatLong1_goesOn {d x : BitVec 7} {i : BitVec 2} {f : Group → Option Nat → Nat → FRes} :
    GoesOn (floatLong1 s d i x f) := floatLong_goesOn h

theorem redWord_goesOn {d x : BitVec 7} {i : BitVec 2} {op : Nat} {f : WCtx → List FRes → List FRes} :
    GoesOn (redWord s d i x op f) := runWord_goesOn h

theorem loadRow_goesOn {d : BitVec 7} {seg : BitVec 3} {k : BitVec 1} {a : BitVec 6} {okTy : Nat → Bool} {z : Nat → Nat}
    {add : WCtx → Nat → Nat} {conv : Nat → Nat → Nat} {tag : Nat → Nat} :
    GoesOn (loadRow s d seg k a okTy z add conv tag) := runLong_goesOn h

theorem storeRow_goesOn {d : BitVec 7} {seg : BitVec 3} {k : BitVec 1} {a : BitVec 6} {o : BitVec 8} {okTy : Nat → Bool} {z : Nat → Nat} :
    GoesOn (storeRow s d seg k a o okTy z) := runWord_goesOn h

theorem engineWord_goesOn {d : BitVec 7} {x : BitVec 3} {n : BitVec 1} {p g : BitVec 3} {cls : Nat} {eng : State → WCtx → Nat}
    {check : State → WCtx → EngCmd → Try EngCmd} :
    GoesOn (engineWord s d x n p g cls eng check) := runWord_goesOn h

theorem travWord_goesOn {d : BitVec 7} {g : BitVec 2} {replays start : Bool} {mk : WCtx → List (BitVec 8) → Trav} :
    GoesOn (travWord s d g replays start mk) := runLong_goesOn h

end

/-! ### Words that choose how they run -/

section
variable {s : State} (h : (issueCtx s).isSome)
include h

theorem execAtom_goesOn {d : BitVec 7} {x : BitVec 3} {k : BitVec 1} {a : BitVec 6} {o : BitVec 4} {r : BitVec 1} : GoesOn (execAtom d x k a o r s) :=
  .ite (runWord_goesOn h) (runLong_goesOn h)

theorem execFatom_goesOn {d : BitVec 7} {x : BitVec 3} {k : BitVec 1} {a : BitVec 6} {o : BitVec 4} {r : BitVec 1} : GoesOn (execFatom d x k a o r s)
    :=
  .ite (runWord_goesOn h) (runLong_goesOn h)

theorem execKput_goesOn {d : BitVec 7} {x : BitVec 3} {n : BitVec 1} {p : BitVec 3} : GoesOn (execKput d x n p s) := by
  obtain ⟨c, hc⟩ := Option.isSome_iff_exists.mp h
  simp only [execKput, hc]
  exact .ite (runWord_goesOn h) (runLong_goesOn h)

end

/-! ### Events -/

theorem hingeCmd_goesOn {s : State} {st op : Nat} {mask : BitVec 64} {body : State → Nat → BitVec 64 → State} :
    GoesOn (hingeCmd s st op mask body) :=
  .ite .next (.ite .next .next)

theorem runQueueCmd_goesOn {s : State} {body : State → Nat → Nat → Queue → Cmd → State} : GoesOn (runQueueCmd s body) := by
  unfold runQueueCmd
  split
  · exact .next
  · exact .next

theorem execRegisterWrite_goesOn {off size : ℕ} {v : BitVec 64} {s : State} : GoesOn (execRegisterWrite off size v s) :=
  .ite .next (.ite .next (.ite .next (.ite .next (.ite .next .next))))

theorem execBar4Read_goesOn {la n : ℕ} {s : State} : GoesOn (execBar4Read la n s) :=
  .ite .next (.ite .next .next)

theorem execBar4Write_goesOn {la : ℕ} {data : List (BitVec 8)} {s : State} : GoesOn (execBar4Write la data s) :=
  .ite .next (.ite .next .next)

theorem execHingeCmdComplete_goesOn {st : ℕ} {s : State} : GoesOn (execHingeCmdComplete st s) :=
  .ite .next .next

theorem execQueueLoad_goesOn {s : State} : GoesOn (execQueueLoad s) := by
  unfold execQueueLoad
  dsimp only
  split
  · exact .next
  · split <;> exact .next

theorem execQueueReset_goesOn {s : State} : GoesOn (execQueueReset s) := by
  unfold execQueueReset
  split
  · exact .ite .next .next
  · exact .next

theorem execQctlComplete_goesOn {s : State} : GoesOn (execQctlComplete s) := by
  unfold execQctlComplete
  split
  · exact .next
  · split
    · dsimp only
      split
      · exact .ite (.ite .next .next) .next
      · exact .next
    · dsimp only
      split
      · exact .ite (.ite .next .next) .next
      · exact .next

theorem execQueueTail_goesOn {q : ℕ} {v : BitVec 64} {s : State} : GoesOn (execQueueTail q v s) := by
  unfold execQueueTail
  split
  · exact .next
  · exact .ite .next (.ite .next .next)

theorem execCommandStart_goesOn {s : State} : GoesOn (execCommandStart s) :=
  .ite .next .next

theorem execWaitComplete_goesOn {q : ℕ} {s : State} : GoesOn (execWaitComplete q s) := by
  unfold execWaitComplete
  split
  · exact .next
  · split <;> exact .next

theorem execWaitTimeout_goesOn {q t : ℕ} {s : State} : GoesOn (execWaitTimeout q t s) := by
  unfold execWaitTimeout
  dsimp only
  split
  · exact .next
  · split
    · exact .ite .next .next
    · exact .next

theorem execCommandComplete_goesOn {q idx : ℕ} {s : State} : GoesOn (execCommandComplete q idx s) := by
  unfold execCommandComplete
  split <;> exact .next

theorem execCtxBind_goesOn {s : State} : GoesOn (execCtxBind s) := by
  unfold execCtxBind
  dsimp only
  split
  · exact .next
  · split
    · exact .next
    · exact .ite .next .next

theorem execCtxUnbind_goesOn {s : State} : GoesOn (execCtxUnbind s) := by
  unfold execCtxUnbind
  dsimp only
  split
  · exact .next
  · exact .ite .next .next

theorem execCtxKill_goesOn {s : State} : GoesOn (execCtxKill s) :=
  .ite .next .next

theorem execCtxKillLaunch_goesOn {s : State} : GoesOn (execCtxKillLaunch s) := by
  unfold execCtxKillLaunch
  split <;> exact .next

theorem execCtxResume_goesOn {s : State} : GoesOn (execCtxResume s) :=
  .ite .next .next

theorem execCtxSwitchOut_goesOn {s : State} : GoesOn (execCtxSwitchOut s) := by
  unfold execCtxSwitchOut
  split
  · exact .next
  · dsimp only
    split
    · exact .next
    · exact .ite .next .next

theorem execCtxSwitchIn_goesOn {s : State} : GoesOn (execCtxSwitchIn s) :=
  .ite .next .next

theorem execCtxPreempt_goesOn {s : State} : GoesOn (execCtxPreempt s) := by
  unfold execCtxPreempt
  dsimp only
  split <;> exact .next

theorem execFwload_goesOn {s : State} : GoesOn (execFwload s) :=
  .ite .next (.ite .next (.ite .next (.ite .next (.ite .next .next))))

theorem execAttest_goesOn {s : State} : GoesOn (execAttest s) :=
  .ite .next (.ite .next (.ite .next .next))

theorem execSfNbpDataWrite_goesOn {s : State} : GoesOn (execSfNbpDataWrite s) :=
  .ite .next .next

theorem execBankProgramInstall_goesOn {s : State} : GoesOn (execBankProgramInstall s) :=
  .ite .next .next

theorem execFbKwStoreWrite_goesOn {st q : ℕ} {w : BitVec 64} {s : State} : GoesOn (execFbKwStoreWrite st q w s) :=
  .ite .next .next

theorem execAtsCompletion_goesOn {st pasid va : ℕ} {ok : Bool} {t size : ℕ} {r w : Bool} {s : State} : GoesOn
    (execAtsCompletion st pasid va ok t size r w s) := by
  unfold execAtsCompletion
  split
  · exact .next
  · split
    · exact .next
    · exact .ite .next .next

theorem execTranslationMiss_goesOn {eng ctx key va need : ℕ} {s : State} : GoesOn (execTranslationMiss eng ctx key va need s) := by
  unfold execTranslationMiss
  split
  · exact .next
  · split
    · exact .next
    · split
      · dsimp only
        split
        · exact .next
        · split
          · exact .ite .next .next
          · exact .next
      · dsimp only
        split
        · exact .next
        · split
          · exact .ite .next .next
          · exact .next

theorem execPageRequestResponse_goesOn {st pasid va : ℕ} {ok : Bool} {s : State} : GoesOn (execPageRequestResponse st pasid va ok s) := by
  unfold execPageRequestResponse
  split
  · exact .next
  · split <;> exact .next

theorem execBackgroundZeroingComplete_goesOn {st : ℕ} {s : State} : GoesOn (execBackgroundZeroingComplete st s) := by
  unfold execBackgroundZeroingComplete
  split
  · exact .next
  · dsimp only
    split <;> exact .next

theorem execMigrationEpochEnd_goesOn {st : ℕ} {s : State} : GoesOn (execMigrationEpochEnd st s) :=
  .ite .next .next

theorem execMigrationCopyComplete_goesOn {st f : ℕ} {s : State} : GoesOn (execMigrationCopyComplete st f s) := by
  unfold execMigrationCopyComplete
  split
  · exact .next
  · exact .ite .next (.ite .next (.ite .next (.ite .next .next)))

theorem execMigrationLockTimeout_goesOn {st f t : ℕ} {s : State} : GoesOn (execMigrationLockTimeout st f t s) := by
  unfold execMigrationLockTimeout
  dsimp only
  split <;> exact .next

theorem execInjectionReserve_goesOn {n : ℕ} {s : State} : GoesOn (execInjectionReserve n s) := by
  unfold execInjectionReserve
  split
  · exact .next
  · exact .ite .next (.ite .next .next)

theorem execPawlLaunch_goesOn {q : ℕ} {s : State} : GoesOn (execPawlLaunch q s) := by
  unfold execPawlLaunch
  split
  · exact .ite .next .next
  · exact .next

theorem execPawl_goesOn {i : ℕ} {s : State} : GoesOn (execPawl i s) := by
  unfold execPawl
  split
  · exact .next
  · split
    · exact .ite .next .next
    · split
      · exact .next
      · dsimp only
        split <;> exact .next

theorem execHeartbeat_goesOn {n : ℕ} {s : State} : GoesOn (execHeartbeat n s) :=
  .ite .next .next

theorem execHeartbeatMiss_goesOn {n m : ℕ} {s : State} : GoesOn (execHeartbeatMiss n m s) :=
  .ite .next (.ite .next .next)

theorem execLinkRetryFailure_goesOn {n l : ℕ} {s : State} : GoesOn (execLinkRetryFailure n l s) :=
  .ite .next (.ite .next .next)

theorem execRerouteResume_goesOn {t : ℕ} {s : State} : GoesOn (execRerouteResume t s) := by
  unfold execRerouteResume
  dsimp only
  split <;> exact .next

theorem execEngineCommandFault_goesOn {eng id : ℕ} {cls : BitVec 8} {addr : BitVec 64} {s : State} : GoesOn
    (execEngineCommandFault eng id cls addr s) := by
  unfold execEngineCommandFault
  split
  · split <;> exact .next
  · exact .next

theorem execInterestArrival_goesOn {id : ℕ} {s : State} : GoesOn (execInterestArrival id s) := by
  unfold execInterestArrival
  split <;> exact .next

theorem execRefreshArrival_goesOn {id : ℕ} {s : State} : GoesOn (execRefreshArrival id s) := by
  unfold execRefreshArrival
  split
  · dsimp only
    split <;> exact .next
  · exact .next

theorem execRequesterRecordExpiry_goesOn {id t : ℕ} {s : State} : GoesOn (execRequesterRecordExpiry id t s) := by
  unfold execRequesterRecordExpiry
  dsimp only
  split
  · exact .ite .next .next
  · exact .next

theorem execKputArrival_goesOn {id : ℕ} {s : State} : GoesOn (execKputArrival id s) := by
  unfold execKputArrival
  split
  · exact .ite .next (.ite .next .next)
  · exact .next

theorem execCloseNoticeArrival_goesOn {id slice : ℕ} {s : State} : GoesOn (execCloseNoticeArrival id slice s) := by
  unfold execCloseNoticeArrival
  split
  · exact .ite .next (.ite .next .next)
  · exact .next

theorem execCloseAck_goesOn {id slice : ℕ} {s : State} : GoesOn (execCloseAck id slice s) := by
  unfold execCloseAck
  split
  · exact .ite .next (.ite .next .next)
  · exact .next

theorem execTileArrival_goesOn {id : ℕ} {s : State} : GoesOn (execTileArrival id s) := by
  unfold execTileArrival
  split <;> exact .next

theorem execMessageArrival_goesOn {id : ℕ} {s : State} : GoesOn (execMessageArrival id s) := by
  unfold execMessageArrival
  split
  · exact .next
  · split <;> exact .next

theorem execHandlerWatchdog_goesOn {key t : ℕ} {s : State} : GoesOn (execHandlerWatchdog key t s) := by
  unfold execHandlerWatchdog
  dsimp only
  split
  · exact .ite .next .next
  · exact .next

theorem execSliceQueueOperation_goesOn {id : ℕ} {s : State} : GoesOn (execSliceQueueOperation id s) := by
  unfold execSliceQueueOperation
  dsimp only
  split
  · exact .next
  · split
    · exact .ite .next (.ite .next (.ite .next .next))
    · exact .next

theorem execTileEviction_goesOn {st grp handle : ℕ} {s : State} : GoesOn (execTileEviction st grp handle s) := by
  unfold execTileEviction
  split
  · exact .next
  · split
    · exact .next
    · split
      · exact .next
      · split <;> exact .next

theorem execTileRestore_goesOn {handle tile : ℕ} {s : State} : GoesOn (execTileRestore handle tile s) := by
  unfold execTileRestore
  split
  · exact .next
  · split
    · exact .next
    · split <;> exact .next

theorem execNbxCommand_goesOn {st : ℕ} {s : State} : GoesOn (execNbxCommand st s) := by
  unfold execNbxCommand
  split
  · exact .ite .next .next
  · exact .next

theorem execOrderLockEntry_goesOn {id : ℕ} {s : State} : GoesOn (execOrderLockEntry id s) := by
  unfold execOrderLockEntry
  split <;> exact .next

theorem execRopInvocation_goesOn {bank : ℕ} {s : State} : GoesOn (execRopInvocation bank s) := by
  unfold execRopInvocation
  split
  · exact .next
  · split
    · exact .next
    · split
      · split
        · exact .ite .next .next
      · exact .next

theorem execMatrixPassGrant_goesOn {cl : ℕ} {s : State} : GoesOn (execMatrixPassGrant cl s) := by
  unfold execMatrixPassGrant
  dsimp only
  split
  · exact .next
  · exact .ite .next (.ite .next .next)

theorem execMatrixTileWriteback_goesOn {cl id : ℕ} {s : State} : GoesOn (execMatrixTileWriteback cl id s) := by
  unfold execMatrixTileWriteback
  dsimp only
  split
  · exact .next
  · exact .ite .next .next

theorem execContextBankSpill_goesOn {cl ctx : ℕ} {s : State} : GoesOn (execContextBankSpill cl ctx s) := by
  unfold execContextBankSpill
  split
  · exact .ite .next .next
  · exact .ite .next .next

theorem execMbldReadEnd_goesOn {cl ctx handle : ℕ} {s : State} : GoesOn (execMbldReadEnd cl ctx handle s) := by
  unfold execMbldReadEnd
  split
  · exact .next
  · split
    · exact .next
    · split
      · exact .next
      · exact .next
      · exact .next
      · exact .next
      · split
        · dsimp only
          split <;> exact .next
        · dsimp only
          split <;> exact .next

theorem execTraversalLaneEnd_goesOn {cl id : ℕ} {s : State} : GoesOn (execTraversalLaneEnd cl id s) := by
  unfold execTraversalLaneEnd
  split
  · exact .next
  · exact .ite .next .next

theorem execDrawAccept_goesOn {id : ℕ} {s : State} : GoesOn (execDrawAccept id s) := by
  unfold execDrawAccept
  split
  · exact .next
  · split
    · split
      · exact .next
      · split
        · dsimp only
          split <;> exact .next
        · dsimp only
          split <;> exact .next
    · split
      · exact .next
      · split
        · dsimp only
          split <;> exact .next
        · dsimp only
          split <;> exact .next

theorem execPrimitiveSetup_goesOn {st : ℕ} {s : State} : GoesOn (execPrimitiveSetup st s) := by
  unfold execPrimitiveSetup
  split
  · exact .next
  · split
    · exact .next
    · split
      · dsimp only
        split <;> exact .next
      · dsimp only
        split <;> exact .next

theorem execQuadTicketReserve_goesOn {st : ℕ} {s : State} : GoesOn (execQuadTicketReserve st s) := by
  unfold execQuadTicketReserve
  split
  · dsimp only
    split <;> exact .next
  · split
    · dsimp only
      split
      · exact .next
      · exact .ite .next .next
    · dsimp only
      split
      · exact .next
      · exact .ite .next (.ite .next .next)

theorem execFragmentGroupDispatch_goesOn {st : ℕ} {s : State} : GoesOn (execFragmentGroupDispatch st s) := by
  unfold execFragmentGroupDispatch
  split
  · exact .next
  · split
    · exact .next
    · split
      · exact .ite .next .next
      · exact .ite .next .next

theorem execDrawComplete_goesOn {id : ℕ} {s : State} : GoesOn (execDrawComplete id s) := by
  unfold execDrawComplete
  split
  · exact .next
  · exact .ite .next (.ite .next .next)

theorem execIssueCycle_goesOn {core slot : ℕ} {s : State} : GoesOn (execIssueCycle core slot s) :=
  .ite .next (.ite .next .next)

theorem execSplitGuardExpiry_goesOn {key si : ℕ} {s : State} : GoesOn (execSplitGuardExpiry key si s) := by
  unfold execSplitGuardExpiry
  split
  · split <;> exact .next
  · exact .next

theorem execSlotStarvationGuard_goesOn {core slot key : ℕ} {s : State} : GoesOn (execSlotStarvationGuard core slot key s) := by
  unfold execSlotStarvationGuard
  split <;> exact .next

theorem execMayFaultChecksResolved_goesOn {key : ℕ} {s : State} : GoesOn (execMayFaultChecksResolved key s) := by
  unfold execMayFaultChecksResolved
  split
  · split <;> exact .next
  · split
    · exact .next
    · split
      · exact .next
      · split
        · exact .ite .next .next
        · exact .ite .next .next

theorem execLongLatencyCompletion_goesOn {key id : ℕ} {s : State} : GoesOn (execLongLatencyCompletion key id s) := by
  unfold execLongLatencyCompletion
  split
  · exact .next
  · split
    · exact .next
    · split
      · exact .next
      · split <;> exact .next

theorem execWatchdogExpiry_goesOn {key t : ℕ} {s : State} : GoesOn (execWatchdogExpiry key t s) := by
  unfold execWatchdogExpiry
  dsimp only
  split
  · exact .next
  · split
    · exact .next
    · exact .ite .next .next

theorem execPlacementStarvation_goesOn {lk t : ℕ} {s : State} : GoesOn (execPlacementStarvation lk t s) := by
  unfold execPlacementStarvation
  dsimp only
  split
  · exact .next
  · split
    · exact .next
    · split
      · exact .next
      · split <;> exact .next

theorem execPreemptionRequest_goesOn {lid tk : ℕ} {s : State} : GoesOn (execPreemptionRequest lid tk s) := by
  unfold execPreemptionRequest
  split <;> exact .next

theorem execDrainTimeout_goesOn {lid tk t : ℕ} {s : State} : GoesOn (execDrainTimeout lid tk t s) := by
  unfold execDrainTimeout
  dsimp only
  split
  · split <;> exact .next
  · exact .next

theorem execTeamSave_goesOn {lid tk : ℕ} {s : State} : GoesOn (execTeamSave lid tk s) := by
  unfold execTeamSave
  split
  · exact .next
  · split
    · exact .next
    · split
      · exact .next
      · split
        · exact .next
        · dsimp only
          split
          · exact .next
          · split
            · exact .next
            · split <;> exact .next

theorem execThermalLimitCrossing_goesOn {sensor : ℕ} {up : Bool} {value limit : BitVec 32} {s : State} : GoesOn
    (execThermalLimitCrossing sensor up value limit s) :=
  .ite .next .next

theorem execThermalMigration_goesOn {lid tk : ℕ} {s : State} : GoesOn (execThermalMigration lid tk s) := by
  unfold execThermalMigration
  split
  · exact .next
  · split
    · exact .next
    · split
      · exact .ite .next .next
      · split
        · exact .ite .next .next
        · exact .ite .next .next

theorem execAgeingMeasurement_goesOn {cl t : ℕ} {shift slack : BitVec 32} {ceiling : ℕ} {s : State} : GoesOn
    (execAgeingMeasurement cl t shift slack ceiling s) :=
  .ite .next .next

theorem execForcedAgeingMeasurement_goesOn {cl t : ℕ} {shift slack : BitVec 32} {ceiling : ℕ} {s : State} : GoesOn
    (execForcedAgeingMeasurement cl t shift slack ceiling s) :=
  .ite .next .next

theorem execPeerPortDown_goesOn {p : ℕ} {s : State} : GoesOn (execPeerPortDown p s) :=
  .ite .next .next

theorem execPeerReceive_goesOn {dev : PeerHead} {la : ℕ} {data : List (BitVec 8)} {crc : BitVec 16} {poisoned : Bool} {s : State} : GoesOn
    (execPeerReceive dev la data crc poisoned s) := by
  unfold execPeerReceive
  split
  · split
    · dsimp only
      split
      · exact .next
      · split
        · exact .next
        · split
          · exact .next
          · split <;> exact .next
    · dsimp only
      split
      · exact .next
      · split
        · exact .next
        · split
          · exact .next
          · split
            · exact .next
            · exact .next
            · split <;> exact .next

theorem execWaitaRecheck_goesOn {key id t : ℕ} {s : State} : GoesOn (execWaitaRecheck key id t s) := by
  unfold execWaitaRecheck
  dsimp only
  split
  · exact .next
  · split
    · exact .next
    · split
      · exact .next
      · exact .next
      · exact .next
      · exact .ite .next (.ite .next .next)

/-! ### Every instruction -/

/-- An event goes on in every state, and a word where a split has been chosen to issue it. -/
theorem exec_goesOn {i : Instr} {s : State} (h : (encode i).isSome → (issueCtx s).isSome) : GoesOn (exec i s) := by
  unfold exec
  cases i
  case nop | bra | brx | call | ret | jset | exit | trap | bar | wcnt | qpush | sysTret => exact runCtl_goesOn (h rfl)
  case ssel | sel => exact runSel_goesOn (h rfl)
  case mset | msetReg | mget | sli | slih | pset | psetS | psetLt | pmov | vwset | sysr | scmp | sbit | addc | bit |
      cmp | adr | dot8 | fcmp | fclass | fdot2 | cvt | cvtb | cvtq | tagset | tagget | fpack | funpack | sqz | vmov |
      vmovS | vmovI | vperm | vtbl | vshuf | vballot | vrel | vrelSt | stu | prf | fence | dfence | dfenceAll | gmove
      | kwant | amsend | sst | salloc | sfree | spinOn | spinOff | mbld | mbrel | bunion | bsah | npack | mcode | thit
      | gemitPrim | gemitDraw | sysSrseed | sysSegset =>
    exact runWord_goesOn (h rfl)
  case frag => exact runWordAfter_goesOn (h rfl)
  case ldu | waita | qpop | kdrop | kclose | sld | mma | mmas => exact runLong_goesOn (h rfl)
  case sadd | ssub | smul | smulh | smad | sand | sor | sxor | sshl | sshr | ssar | smin | smax =>
    exact scalarOp_goesOn (h rfl)
  case add | sub | mul | mulh | andB | orB | xorB | shl | shr | sar | minV | maxV | absd => exact vec2_goesOn (h rfl)
  case mad => exact vec3_goesOn (h rfl)
  case fscale | fcsgn => exact floatWord_goesOn (h rfl)
  case frnd | ffract => exact float1_goesOn (h rfl)
  case fadd | fsub | fmul => exact float2_goesOn (h rfl)
  case ffma | ffms | ffnma | ffnms => exact float3_goesOn (h rfl)
  case fmin | fmax => exact minmaxWord_goesOn (h rfl)
  case fdiv => exact floatLong_goesOn (h rfl)
  case frcp | frsq | fsqrt | fexp2 | flog2 | fsin | fcos => exact floatLong1_goesOn (h rfl)
  case vred | vscan => exact redWord_goesOn (h rfl)
  case ld | ldt | ldb => exact loadRow_goesOn (h rfl)
  case st | stt => exact storeRow_goesOn (h rfl)
  case cpy | coll | nbx => exact engineWord_goesOn (h rfl)
  case travStart | trav | trepStart | trep => exact travWord_goesOn (h rfl)
  case atom => exact execAtom_goesOn (h rfl)
  case fatom => exact execFatom_goesOn (h rfl)
  case kput => exact execKput_goesOn (h rfl)
  case deviceReset | functionLevelReset | bar0UnsupportedAccess | qmQtableWrite | queueDisable | hbCtxtabWrite |
      killComplete | hostopResync | hostopComplete | fbCellAreaWrite | hbIdWrite | atsInvalidation | sliceRequest |
      sliceLineFill | sliceWriteBack | l1LineFill | atomicResponseRelease | orderedAddContribution |
      copyEngineComplete | interestExpiry | backingRefetchComplete | handlerDispatch | scrubBurst | reservationAging |
      governorWindow | collectorMark | clauseStart | teamPlacement | harvestRevocation | peerPortTrained |
      governorBudgetChange =>
    exact .next
  case hingeInstall | hingeRelease | hingeRead | hingeDonate | hingeSetaff | hingeGetaff => exact hingeCmd_goesOn
  case queueLaunch | queueDraw | queueCopy | queueSignal | queueWait | queueFence | queueTimestamp | queueSalloc |
      queueSfree | queueResync =>
    exact runQueueCmd_goesOn
  case registerWrite => exact execRegisterWrite_goesOn
  case bar4Read => exact execBar4Read_goesOn
  case bar4Write => exact execBar4Write_goesOn
  case hingeCmdComplete => exact execHingeCmdComplete_goesOn
  case queueLoad => exact execQueueLoad_goesOn
  case queueReset => exact execQueueReset_goesOn
  case qctlComplete => exact execQctlComplete_goesOn
  case queueTail => exact execQueueTail_goesOn
  case commandStart => exact execCommandStart_goesOn
  case waitComplete => exact execWaitComplete_goesOn
  case waitTimeout => exact execWaitTimeout_goesOn
  case commandComplete => exact execCommandComplete_goesOn
  case ctxBind => exact execCtxBind_goesOn
  case ctxUnbind => exact execCtxUnbind_goesOn
  case ctxKill => exact execCtxKill_goesOn
  case ctxKillLaunch => exact execCtxKillLaunch_goesOn
  case ctxResume => exact execCtxResume_goesOn
  case ctxSwitchOut => exact execCtxSwitchOut_goesOn
  case ctxSwitchIn => exact execCtxSwitchIn_goesOn
  case ctxPreempt => exact execCtxPreempt_goesOn
  case fwload => exact execFwload_goesOn
  case attest => exact execAttest_goesOn
  case sfNbpDataWrite => exact execSfNbpDataWrite_goesOn
  case bankProgramInstall => exact execBankProgramInstall_goesOn
  case fbKwStoreWrite => exact execFbKwStoreWrite_goesOn
  case atsCompletion => exact execAtsCompletion_goesOn
  case translationMiss => exact execTranslationMiss_goesOn
  case pageRequestResponse => exact execPageRequestResponse_goesOn
  case backgroundZeroingComplete => exact execBackgroundZeroingComplete_goesOn
  case migrationEpochEnd => exact execMigrationEpochEnd_goesOn
  case migrationCopyComplete => exact execMigrationCopyComplete_goesOn
  case migrationLockTimeout => exact execMigrationLockTimeout_goesOn
  case injectionReserve => exact execInjectionReserve_goesOn
  case pawlLaunch => exact execPawlLaunch_goesOn
  case pawl => exact execPawl_goesOn
  case heartbeat => exact execHeartbeat_goesOn
  case heartbeatMiss => exact execHeartbeatMiss_goesOn
  case linkRetryFailure => exact execLinkRetryFailure_goesOn
  case rerouteResume => exact execRerouteResume_goesOn
  case engineCommandFault => exact execEngineCommandFault_goesOn
  case interestArrival => exact execInterestArrival_goesOn
  case refreshArrival => exact execRefreshArrival_goesOn
  case requesterRecordExpiry => exact execRequesterRecordExpiry_goesOn
  case kputArrival => exact execKputArrival_goesOn
  case closeNoticeArrival => exact execCloseNoticeArrival_goesOn
  case closeAck => exact execCloseAck_goesOn
  case tileArrival => exact execTileArrival_goesOn
  case messageArrival => exact execMessageArrival_goesOn
  case handlerWatchdog => exact execHandlerWatchdog_goesOn
  case sliceQueueOperation => exact execSliceQueueOperation_goesOn
  case tileEviction => exact execTileEviction_goesOn
  case tileRestore => exact execTileRestore_goesOn
  case nbxCommand => exact execNbxCommand_goesOn
  case orderLockEntry => exact execOrderLockEntry_goesOn
  case ropInvocation => exact execRopInvocation_goesOn
  case matrixPassGrant => exact execMatrixPassGrant_goesOn
  case matrixTileWriteback => exact execMatrixTileWriteback_goesOn
  case contextBankSpill => exact execContextBankSpill_goesOn
  case mbldReadEnd => exact execMbldReadEnd_goesOn
  case traversalLaneEnd => exact execTraversalLaneEnd_goesOn
  case drawAccept => exact execDrawAccept_goesOn
  case primitiveSetup => exact execPrimitiveSetup_goesOn
  case quadTicketReserve => exact execQuadTicketReserve_goesOn
  case fragmentGroupDispatch => exact execFragmentGroupDispatch_goesOn
  case drawComplete => exact execDrawComplete_goesOn
  case issueCycle => exact execIssueCycle_goesOn
  case splitGuardExpiry => exact execSplitGuardExpiry_goesOn
  case slotStarvationGuard => exact execSlotStarvationGuard_goesOn
  case mayFaultChecksResolved => exact execMayFaultChecksResolved_goesOn
  case longLatencyCompletion => exact execLongLatencyCompletion_goesOn
  case watchdogExpiry => exact execWatchdogExpiry_goesOn
  case placementStarvation => exact execPlacementStarvation_goesOn
  case preemptionRequest => exact execPreemptionRequest_goesOn
  case drainTimeout => exact execDrainTimeout_goesOn
  case teamSave => exact execTeamSave_goesOn
  case thermalLimitCrossing => exact execThermalLimitCrossing_goesOn
  case thermalMigration => exact execThermalMigration_goesOn
  case ageingMeasurement => exact execAgeingMeasurement_goesOn
  case forcedAgeingMeasurement => exact execForcedAgeingMeasurement_goesOn
  case peerPortDown => exact execPeerPortDown_goesOn
  case peerReceive => exact execPeerReceive_goesOn
  case waitaRecheck => exact execWaitaRecheck_goesOn


/-- The word that a step fetches finds the split that the step chose. -/
theorem issueCtx_isSome_of_chosenWord {s t : State} {sel : Sel} {i : Instr} (hi : s.issue = some sel) (h : chosenWord s sel = .inr (i, t)) :
    (issueCtx t).isSome := by
  unfold chosenWord at h
  split at h
  · cases h
  next g hg =>
    split at h
    · cases h
    next sp hs =>
      split at h <;> try cases h
      next u w fetched =>
        split at h
        · cases h
          exact issueCtx_isSome_of_calm (calm_fetchWord .refl _ fetched) hi hg hs
        · cases h

/-- What is picked to run goes on: a word with its split chosen, or an event. -/
theorem exec_pick_goesOn {s t : State} {i : Instr} (h : s.issue = none → ∀ e es, s.agenda = e :: es → encode e = none)
    (picked : pick s = .inr (i, t)) : GoesOn (exec i t) := by
  unfold pick at picked
  split at picked
  next sel chosen => exact exec_goesOn fun _ => issueCtx_isSome_of_chosenWord chosen picked
  next idle =>
    split at picked
    next e es queued =>
      have event := h idle e es queued
      split at picked
      · cases picked
      · cases picked
        exact exec_goesOn (by simp [event])
    next =>
      cases picked
      exact exec_goesOn (by simp [encode])

/-- Settles O58: a word is run only where its split was chosen, and every event answers a state. -/
theorem everyStepGoesOn : Obligations.EveryStepGoesOn := by
  unfold Obligations.EveryStepGoesOn
  intro s h
  unfold step
  split
  · exact ⟨_, rfl⟩
  next picked => exact exec_pick_goesOn h picked

end Sys2Proof.Machine
end

section
/-! Issue cycles, guards, clause starts and the ends of checks and results (R54, R55, R58, R391, R417, R424, R439). -/
namespace Sys2Proof.Machine

/-! ### A cycle of an issue slot -/

theorem laterAll_nil (s : State) : laterAll s [] = s := by simp [laterAll]

theorem coreCycle_of_pos {s : State} {core slot : Nat} (h : 0 < slot) : coreCycle s core slot = s := if_pos (by omega)

/-- A slot beside the first only runs its own groups. -/
theorem execIssueCycle_of_pos {s : State} {core slot : Nat} (hcore : core < 88) (pos : 0 < slot) (hslot : slot < 8)
    (ticks : clusterTicks s (core / 4) = true) :
    exec (.issueCycle core slot) s =
      .next (chooseWord (startClauses (laterAll (killSlot s core slot) (slotEvents (killSlot s core slot) core slot)) core slot) core slot) := by
  show execIssueCycle core slot s = _
  unfold execIssueCycle
  rw [if_neg (by omega), if_neg (by omega : ¬ (core = 0 ∧ slot = 0))]
  simp [ticks, coreCycle_of_pos pos]

theorem execIssueCycle_of_noTick {s : State} {core slot : Nat} (pos : 0 < slot) (idle : clusterTicks s (core / 4) = false) :
    exec (.issueCycle core slot) s = .next s := by
  show execIssueCycle core slot s = _
  unfold execIssueCycle
  rw [if_neg (by omega : ¬ (core = 0 ∧ slot = 0))]
  simp [idle]

theorem execIssueCycle_of_empty {s : State} {core slot : Nat} (hcore : core < 88) (pos : 0 < slot) (hslot : slot < 8)
    (ticks : clusterTicks s (core / 4) = true) (none' : slotGroups s core slot = []) : exec (.issueCycle core slot) s = .next s := by
  have nothing : chooseWord s core slot = s := by simp [chooseWord, readyGroups, none', starvedGroup, firstGroup, unstall, passOver]
  rw [execIssueCycle_of_pos hcore pos hslot ticks]
  simp [killSlot, none', slotEvents, laterAll_nil, startClauses, nothing]

theorem splitReady_of_groupReady {s : State} {g : Group} {si : Nat} {sp : Split} (one : g.splits = [(si, sp)]) (ready : groupReady s g = true) :
    splitReady g sp = true := by
  cases able : splitReady g sp with
  | true => rfl
  | false => simp [groupReady, readySplits, one, able] at ready

/-- The group's only split is ready, and neither guard has it. -/
theorem issueGroup_single {s : State} {key si : Nat} {g : Group} {sp : Split} (one : g.splits = [(si, sp)]) (ready : groupReady s g = true)
    (fresh : sp.passed < 64) : issueGroup s key g = issueSplit s key si := by
  have chosen : readySplits g = [(si, sp)] := by simp [readySplits, one, splitReady_of_groupReady one ready]
  have unguarded : guardedSplit [(si, sp)] = none := by simp [guardedSplit, fresh]
  simp [issueGroup, chosen, unguarded, lowestSplit]

theorem atHeader_of_splitReady {g : Group} {sp : Split} (h : splitReady g sp = true) : atHeader g sp = false := by
  simp only [splitReady, Bool.and_eq_true] at h
  obtain ⟨⟨⟨running, -⟩, -⟩, -⟩ := h
  cases hc : sp.clause with
  | none => simp [hc] at running
  | some k => simp [atHeader, hc]

theorem chooseWord_single {s : State} {core slot key si : Nat} {g : Group} {sp : Split} (only : slotGroups s core slot = [(key, g)])
    (one : g.splits = [(si, sp)]) (ready : groupReady s g = true) (early : g.passed < 1024) (fresh : sp.passed < 64) :
    chooseWord s core slot = issueSplit s key si := by
  have rs : readyGroups s core slot = [(key, g)] := by simp [readyGroups, only, ready]
  have kept : unstall (passOver s core slot (some key)) core slot (some key) = s := by simp [passOver, unstall, only]
  have unstarved (own : List (Nat × Group)) (h : ∀ e ∈ own, e = (key, g)) : starvedGroup own = none := by
    have empty : (own.filter fun e => decide (1024 ≤ e.2.passed)) = [] := by
      simp only [List.filter_eq_nil_iff, decide_eq_true_eq]
      rintro e he
      rw [h e he]
      show ¬ 1024 ≤ g.passed
      omega
    simp [starvedGroup, empty]
  unfold chooseWord
  cases hh : g.harvest <;> simp [rs, hh, unstarved, firstGroup, kept, issueGroup_single one ready fresh]

theorem execIssueCycle_single {s : State} {core slot key si : Nat} {g : Group} {sp : Split} (hcore : core < 88) (pos : 0 < slot) (hslot : slot < 8)
    (ticks : clusterTicks s (core / 4) = true) (only : slotGroups s core slot = [(key, g)]) (alive : g.killed = false) (waits : g.waits = [])
    (one : g.splits = [(si, sp)]) (ready : groupReady s g = true) (early : g.passed < 1024) (fresh : sp.passed < 64) :
    exec (.issueCycle core slot) s = .next (issueSplit s key si) := by
  have killed : killSlot s core slot = s := by simp [killSlot, only, alive]
  have events : slotEvents s core slot = [] := by simp [slotEvents, only, waits]
  have started : startClauses s core slot = s := by
    simp [startClauses, only, one, atHeader_of_splitReady (splitReady_of_groupReady one ready)]
  rw [execIssueCycle_of_pos hcore pos hslot ticks, killed, events, laterAll_nil, started, chooseWord_single only one ready early fresh]

/-! ### The guards and the marks -/

theorem execSplitGuardExpiry_of_late {s : State} {key si : Nat} {g : Group} {sp : Split} (hg : Tab.find s.groups key = some g)
    (hs : Tab.find g.splits si = some sp) (ready : groupReady s g = true) (able : splitReady g sp = true) (late : 64 ≤ sp.passed) :
    exec (.splitGuardExpiry key si) s = .next (issueSplit s key si) := by
  show execSplitGuardExpiry key si s = _
  simp [execSplitGuardExpiry, hg, hs, ready, able, late]

theorem execSlotStarvationGuard_of_late {s : State} {key si : Nat} {g : Group} {sp : Split} (hg : Tab.find s.groups key = some g)
    (one : g.splits = [(si, sp)]) (fresh : sp.passed < 64) (ready : groupReady s g = true) (own : g.harvest = false) (late : 1024 ≤ g.passed) :
    exec (.slotStarvationGuard g.core g.islot key) s = .next (issueSplit s key si) := by
  show execSlotStarvationGuard g.core g.islot key s = _
  simp [execSlotStarvationGuard, hg, ready, own, late, issueGroup_single one ready fresh]

theorem execCollectorMark_of_lt {s : State} {key bank : Nat} (h : bank < 19) : exec (.collectorMark key bank) s = .next (updG s key (loseRound bank))
    := by
  show execCollectorMark key bank s = _
  simp [execCollectorMark, h]

theorem loseRound_of_unmarked {g : Group} {bank : Nat} (h : bank ∉ g.marks) :
    loseRound bank g = { g with losses := Tab.put g.losses bank (Tab.fetch 0 g.losses bank + 1),
                                marks := if 7 ≤ Tab.fetch 0 g.losses bank + 1 then g.marks ++ [bank] else g.marks } :=
  if_neg (by simpa using h)

/-! ### The start of a clause -/

/-- A header that is fetched is reached. -/
theorem execClauseStart_of_fetched {s s2 : State} {key si : Nat} {g : Group} {sp : Split} {w : BitVec 32} (hg : Tab.find s.groups key = some g)
    (hs : Tab.find g.splits si = some sp) (runs : groupRuns s g = true) (stands : atHeader g sp = true) (inside : pastText s g sp = false)
    (fetched : fetchWord s key g sp.pc = .ok (s2, w)) : exec (.clauseStart key si) s = .next (reachHeader s2 key si g sp w) := by
  show execClauseStart key si s = _
  simp [execClauseStart, startClause, hg, hs, runs, stands, inside, fetched]

theorem reachHeader_illegal {s : State} {key si : Nat} {g : Group} {sp : Split} {w : BitVec 32}
    (h : 6 ≤ headerKind w ∨ (4 ≤ headerKind w ∧ sp.entry = false)) :
    reachHeader s key si g sp w = takeFault s key si ⟨0x09, 0, 0, (lanesOf g.width sp.mask).headD 0⟩ sp.pc false :=
  if_pos (by simpa using h)

section
variable {s : State} {key si : Nat} {g : Group} {sp : Split} {w : BitVec 32} (ordinary : headerKind w = 0) (none' : g.never = [])
include ordinary none'

theorem reachHeader_waits (blocked : waitClear g w = false) : reachHeader s key si g sp w = setSplit s key si fun x => { x with stall := true } := by
  simp [reachHeader, ordinary, none', arrives, blocked]

theorem reachHeader_starts (clear : waitClear g w = true) :
    reachHeader s key si g sp w = setSplit s key si fun x => { x with pc := sp.pc + 1, clause := some (clauseOf sp.pc w), stall := false, entry :=
      false } := by
  simp [reachHeader, ordinary, none', arrives, clear]

end

/-- A change of one split of a group. -/
theorem find_setSplit {s : State} {key si : Nat} {g : Group} {sp : Split} (f : Split → Split) (hg : Tab.find s.groups key = some g)
    (hs : Tab.find g.splits si = some sp) :
    ∃ g', Tab.find (setSplit s key si f).groups key = some g' ∧ Tab.find g'.splits si = some (f sp) :=
  ⟨{ g with splits := Tab.modify g.splits si f }, by simp [setSplit, hg], by simp [hs]⟩

/-! ### The ends of checks, of results and of the watchdog's count -/

theorem execMayFaultChecksResolved_of_susp {s : State} {key si : Nat} {g : Group} {sp : Split} (hg : Tab.find s.groups key = some g)
    (susp : g.susp = some si) (park : g.park = .none) (alive : g.killed = false)
    (goes : teamGoes (updG s key fun g => { g with susp := none }) g = true)
      (unwritten : recWaits (updG s key fun g => { g with susp := none }) g = false)
    (hs : Tab.find g.splits si = some sp) :
    exec (.mayFaultChecksResolved key) s = .next (if sp.clause.isSome then { updG s key fun g => { g with susp := none } with issue := some ⟨key, si⟩
      }
      else later (updG s key fun g => { g with susp := none }) (.clauseStart key si)) := by
  show execMayFaultChecksResolved key s = _
  simp [execMayFaultChecksResolved, hg, susp, park, alive, goes, unwritten, hs]

theorem execLongLatencyCompletion_of_running {s : State} {key : Nat} {g : Group} {p : Pending} (hg : Tab.find s.groups key = some g)
    (hp : g.pending.find? (fun q => q.id == p.id) = some p) (running : p.ready = false) : exec (.longLatencyCompletion key p.id) s = .next s := by
  show execLongLatencyCompletion key p.id s = _
  simp [execLongLatencyCompletion, hg, hp, running]

theorem foldl_setS_frame (svs : List (Nat × BitVec 64)) (g : Group) :
    (svs.foldl (fun g sv => g.setS sv.1 sv.2) g).pending = g.pending ∧ (svs.foldl (fun g sv => g.setS sv.1 sv.2) g).splits = g.splits := by
  induction svs generalizing g with
  | nil => exact ⟨rfl, rfl⟩
  | cons v vs ih => exact ih (g.setS v.1 v.2)

theorem landPending_pending (g : Group) (p : Pending) : (landPending g p).pending = g.pending := (foldl_setS_frame _ _).1
theorem landPending_splits (g : Group) (p : Pending) : (landPending g p).splits = g.splits := (foldl_setS_frame _ _).2

theorem execLongLatencyCompletion_of_ready {s : State} {key : Nat} {g : Group} {p : Pending} (hg : Tab.find s.groups key = some g)
    (hp : g.pending.find? (fun q => q.id == p.id) = some p) (ready : p.ready = true) (clean : p.poison = none) :
    ∃ t, exec (.longLatencyCompletion key p.id) s = .next t ∧ Tab.find t.groups key =
      some { (landPending g p).dropT p.tumbler with pending := g.pending.filter (fun q => q.id != p.id), splits := g.splits.map fun e =>
        (e.1, e.2.awake) } := by
  refine ⟨_, show execLongLatencyCompletion key p.id s = .next _ by simp only [execLongLatencyCompletion, hg, hp, ready, clean]; rfl, ?_⟩
  simp [hg, landPending_pending, landPending_splits, Split.awake]

theorem execWatchdogExpiry_of_late {s : State} {key n : Nat} {g : Group} {c : Ctx} (hg : Tab.find s.groups key = some g) (hc : ctxOf s g = some c)
    (counts : c.wdog ≠ 0) (park : g.park = .none) (owner : g.kind ≠ .handler) (seen : watched s g = true)
    (late : g.lastIssue + c.wdog * 1000000 ≤ max s.time n) :
    exec (.watchdogExpiry key n) s =
      .next (standing (atTime s n) key (groupRec (atTime s n) g ⟨0x10, 0, 0, 0⟩ ((g.splits.head?.map (·.2.pc)).getD 0) false)) := by
  have hg' : Tab.find (atTime s n).groups key = some g := hg
  have hc' : ctxOf (atTime s n) g = some c := hc
  have seen' : watched (atTime s n) g = true := seen
  have late' : ¬ (atTime s n).time < g.lastIssue + c.wdog * 1000000 := Nat.not_lt.2 late
  show execWatchdogExpiry key n s = _
  simp [execWatchdogExpiry, hg', hc', counts, park, owner, seen', late']

/-! ### A waiting address that is read again -/

section
variable {s : State} {key n : Nat} {g : Group} {e : WaitA} {ls : List Loc}

/-- The state once the address has been read: the value stands in the result in flight. -/
def waitSeen (s : State) (key : Nat) (g : Group) (e : WaitA) (ls : List Loc) : State :=
  setPending (waitRead s key g.core g.ctx ls) key e.id fun p =>
    { p with svals := [(e.dst, BitVec.ofNat 64 (leNat (readHome (waitRead s key g.core g.ctx ls) ls)))],
             poison := (firstBad (waitRead s key g.core g.ctx ls) ls).map (·, e.lane) }

/-- Reading takes no time. -/
theorem waitSeen_time : (waitSeen s key g e ls).time = s.time :=
  (calm_setPending (calm_waitRead .refl)).time

theorem execWaitaRecheck_of_places (hg : Tab.find s.groups key = some g) (hw : g.waits = [e]) (places : waitPlaces (atTime s n) key g e = .ok ls) :
    exec (.waitaRecheck key e.id n) s =
      let s3 := waitSeen (atTime s n) key g e ls
      .next (if waitHolds e.cond (leNat (readHome (waitRead (atTime s n) key g.core g.ctx ls) ls)) e.cmp.toNat then
          endWait (acquireAct s3 g.core e.scope (pairedOf s3 g)) key e
        else if e.timeout ≠ 0 ∧ e.since + e.timeout ≤ (atTime s n).time then endWait s3 key e else s3) := by
  have hg' : Tab.find (atTime s n).groups key = some g := hg
  show execWaitaRecheck key e.id n s = _
  unfold execWaitaRecheck
  simp only [hg', hw, List.find?_cons, BEq.rfl, places]
  rw [← waitSeen_time (s := atTime s n) (key := key) (g := g) (e := e) (ls := ls)]
  unfold waitSeen
  split
  · rfl
  · split <;> rfl

end

/-- Settles O51: each event by what it does in the state that the clause describes. -/
theorem issueEvents : Obligations.IssueEvents := by
  unfold Obligations.IssueEvents
  refine ⟨fun s core slot key g hcore pos hslot => ⟨?_, ?_, ?_⟩, fun s key g hg => ⟨?_, ?_, ?_, ?_, ?_, ?_, ?_, ?_⟩⟩
  · exact fun empty ticks => execIssueCycle_of_empty hcore pos hslot ticks empty
  · exact fun idle => execIssueCycle_of_noTick pos idle
  · intro si sp only _ alive waits early ready one fresh ticks
    exact ⟨_, execIssueCycle_single hcore pos hslot ticks only alive waits one ready early fresh, rfl, rfl, rfl⟩
  · exact fun si sp hs ready able late => ⟨_, execSplitGuardExpiry_of_late hg hs ready able late, rfl⟩
  · exact fun si sp one fresh ready own late => ⟨_, execSlotStarvationGuard_of_late hg one fresh ready own late, rfl⟩
  · intro bank hbank unmarked
    exact ⟨_, _, execCollectorMark_of_lt hbank, by rw [find_updG_same, hg]; rfl, by simp [loseRound_of_unmarked unmarked],
      by rw [loseRound_of_unmarked unmarked]⟩
  · intro si sp s2 w hs runs stands inside fetched hg2 none'
    have reached := execClauseStart_of_fetched hg hs runs stands inside fetched
    refine ⟨fun bad => ?_, fun ordinary blocked => ⟨_, reached, ?_⟩, fun ordinary clear => ⟨_, reached, ?_⟩⟩
    · rw [reached, reachHeader_illegal bad]
    · rw [reachHeader_waits ordinary none' blocked]
      exact find_setSplit _ hg2 hs
    · rw [reachHeader_starts ordinary none' clear]
      exact find_setSplit _ hg2 hs
  · intro si sp s2 susp park alive goes unwritten hs
    have resumed := execMayFaultChecksResolved_of_susp hg susp park alive goes unwritten hs
    refine ⟨fun inside => ?_, fun atHeader => ?_⟩
    · rw [resumed, if_pos (Option.isSome_iff_ne_none.mpr inside)]
    · rw [resumed, if_neg (by simp [atHeader])]
  · exact fun p hp => ⟨execLongLatencyCompletion_of_running hg hp, execLongLatencyCompletion_of_ready hg hp⟩
  · exact fun c n hc counts park owner seen late => execWatchdogExpiry_of_late hg hc counts park owner seen late
  · intro e n hw s2 ls places s1 v s3
    have read := execWaitaRecheck_of_places hg hw places
    refine ⟨fun holds => ?_, fun fails long late => ?_, fun fails early => ?_⟩
    · exact read.trans (congrArg Host.Outcome.next (if_pos holds))
    · exact read.trans (congrArg Host.Outcome.next ((if_neg (Bool.eq_false_iff.mp fails)).trans (if_pos ⟨long, late⟩)))
    · exact read.trans (congrArg Host.Outcome.next ((if_neg (Bool.eq_false_iff.mp fails)).trans (if_neg early)))

end Sys2Proof.Machine
end

section
/-! Marks of a slice (R115) that no request moves: stores of bytes leave them alone, and a slice that keeps more than its 4,096 may
still have no room for a source's mark once one has been replaced. -/
namespace Sys2Proof.Machine

/-! ### Stores leave the marks alone -/

/-- What a slice's room for a mark rests on. -/
def State.marking (s : State) : List Mark × List Resp × Nat := (s.marks, s.respWin, s.time)

theorem marks_congr {s t : State} (same : t.marking = s.marking) : t.marks = s.marks := congrArg (·.1) same

theorem markRoom_congr {s t : State} (same : t.marking = s.marking) {slice dev src : Nat} (full : markRoom s slice dev src = none) :
    markRoom t slice dev src = none := by
  have marks := marks_congr same
  have window : t.respWin = s.respWin := congrArg (·.2.1) same
  have now : t.time = s.time := congrArg (·.2.2) same
  unfold markRoom at full ⊢
  rw [marks, window, now]
  simp only at full ⊢
  split at full
  · cases full
  · rename_i noRoom
    rw [if_neg noRoom]
    split at full
    · cases full
    · rfl

theorem putMark_of_full {s : State} {slice dev src : Nat} (full : markRoom s slice dev src = none) (seq : Nat) :
    putMark s slice dev src seq = s := by
  rw [putMark, full]

theorem fillSlice_marking {s : State} {line : Nat} (room : s.slices.length < sliceLeast) : (fillSlice s line).marking = s.marking := by
  cases h : held s line with
  | true => rw [fillSlice_of_held h]
  | false =>
    rw [fillSlice_of_room h room, fillSector_rest, fillSector_rest (lineTaken s line), lineTaken, touchCount_rest]
    rfl

theorem putLogBytes_marking (data : List (BitVec 8)) {s : State} {la : Nat} (alive : s.stations = []) (noCells : s.cells = [])
    (lines : ∀ i < data.length, held s ((la + i) / 128) = true) (ctx : Nat) : (putLogBytes s ctx la data).marking = s.marking := by
  induction data generalizing s la with
  | nil => rfl
  | cons b data ih =>
    have first : held s (la / 128) = true := lines 0 (by simp)
    obtain ⟨l, -, written⟩ := putSliceByte_rest first ctx b
    have rest : ∀ i < data.length, held (putSliceByte s ctx la b) ((la + 1 + i) / 128) = true := fun i hi => by
      rw [held_putSliceByte first, Nat.add_assoc, Nat.add_comm 1]
      exact lines (i + 1) (by simpa using hi)
    rw [putLogBytes, setLogByte_eq alive noCells, ih (by rw [written]; exact alive) (by rw [written]; exact noCells) rest, written]
    rfl

theorem setLogBytes_marking {s : State} {la : Nat} {data : List (BitVec 8)} (alive : s.stations = []) (clean : s.poison = [])
    (sound : s.badCheck = []) (noCells : s.cells = []) (room : s.slices.length + data.length ≤ sliceLeast) (ctx : Nat) :
    (setLogBytes s ctx la data).marking = s.marking := by
  have places : s.slices.length + (logPlaces la data.length).length ≤ sliceLeast := by simpa [logPlaces] using room
  have fits := (Nat.add_le_add_left (length_linesFor_le s (logPlaces la data.length)) _).trans places
  have filled : Filled s (fillLines s (logPlaces la data.length)) := .fillSlices _ _ fits
  have lines : ∀ i < data.length, held (fillLines s (logPlaces la data.length)) ((la + i) / 128) = true :=
    fun i hi => held_fillSlices _ _ fits (.inl (mem_linesFor alive hi))
  have merged : setLogBytes s ctx la data = putLogBytes (fillLines s (logPlaces la data.length)) ctx la data :=
    congrArg (putLogBytes · ctx la data) (mergePlaces_filled alive clean sound places ctx)
  rw [merged, putLogBytes_marking data ((stations_congr filled.homes).trans alive) (filled.cells.trans noCells) lines]
  exact fillSlices_keep (P := fun t => t.marking = s.marking) (fun _ _ now h => (fillSlice_marking now).trans h) _ _ fits rfl

/-! ### A slice with 4,097 marks -/

/-- A slice's mark for source 0 of device 0. -/
def strangerMark (slice time : Nat) : Mark := { slice, dev := 0, src := 0, seq := 0, time }

/-- Marks of this moment. -/
def recentMarks (n slice now : Nat) : List Mark := List.replicate n (strangerMark slice now)

theorem length_recentMarks (n slice now : Nat) : (recentMarks n slice now).length = n := List.length_replicate

theorem eq_of_mem_recentMarks {n slice now : Nat} {m : Mark} (h : m ∈ recentMarks n slice now) : m = strangerMark slice now :=
  List.eq_of_mem_replicate h

theorem dev_of_mem_recentMarks {n slice now : Nat} : ∀ m ∈ recentMarks n slice now, m.dev = 0 := fun m hm => by
  rw [eq_of_mem_recentMarks hm]; rfl

theorem dev_of_mem_oldMarks {n slice now : Nat} : ∀ m ∈ strangerMark slice 0 :: recentMarks n slice now, m.dev = 0 :=
  List.forall_mem_cons.2 ⟨rfl, dev_of_mem_recentMarks⟩

theorem filter_recentMarks (n slice now : Nat) : (recentMarks n slice now).filter (fun m => m.slice == slice) = recentMarks n slice now :=
  List.filter_eq_self.2 fun m hm => by simp [eq_of_mem_recentMarks hm, strangerMark]

theorem not_any_strangers {ms : List Mark} (strangers : ∀ m ∈ ms, m.dev = 0) {dev : Nat} (other : dev ≠ 0) (src : Nat) :
    (ms.any fun m => m.dev == dev && m.src == src) = false :=
  List.any_eq_false.2 fun m hm => by simp [strangers m hm, Ne.symm other]

/-- As many recent marks of another source as a slice's table has entries leave no room. -/
theorem markRoom_recent {s : State} {n slice dev src : Nat} (marks : s.marks = recentMarks n slice s.time) (full : 4096 ≤ n) (other : dev ≠ 0) :
    markRoom s slice dev src = none := by
  have noneOld : (recentMarks n slice s.time).find? (fun m => decide (m.time + 1000000 ≤ s.time)
      && !s.respWin.any fun w => w.slice == slice && w.dev == m.dev && w.src == m.src) = none :=
    List.find?_eq_none.2 fun m hm => by simp [eq_of_mem_recentMarks hm, strangerMark]
  simp only [markRoom, marks, filter_recentMarks, not_any_strangers dev_of_mem_recentMarks other, length_recentMarks]
  rw [if_neg (by simpa using full), noneOld]

/-- One more mark, a millisecond old, is replaced. -/
theorem markRoom_old {s : State} {n slice dev src : Nat} (marks : s.marks = strangerMark slice 0 :: recentMarks n slice s.time)
    (window : s.respWin = []) (late : 1000000 ≤ s.time) (full : 4096 ≤ n) (other : dev ≠ 0) :
    markRoom s slice dev src = some { s with marks := recentMarks n slice s.time } := by
  have here : s.marks.filter (fun m => m.slice == slice) = strangerMark slice 0 :: recentMarks n slice s.time := by
    rw [marks, List.filter_cons, filter_recentMarks]
    simp [strangerMark]
  have old : (strangerMark slice 0 :: recentMarks n slice s.time).find? (fun m => decide (m.time + 1000000 ≤ s.time)
      && !s.respWin.any fun w => w.slice == slice && w.dev == m.dev && w.src == m.src) = some (strangerMark slice 0) :=
    List.find?_cons_of_pos (by simpa [strangerMark, window] using late)
  simp only [markRoom, here, not_any_strangers dev_of_mem_oldMarks other, List.length_cons, length_recentMarks]
  rw [if_neg (by simp; omega), old, marks]
  simp only [List.erase_cons_head]

theorem seenSeq_strangers {s : State} (strangers : ∀ m ∈ s.marks, m.dev = 0) {dev : Nat} (other : dev ≠ 0) (slice src seq : Nat) :
    seenSeq s slice dev src seq = false :=
  List.any_eq_false.2 fun m hm => by simp [strangers m hm, Ne.symm other]

/-- A good sector that is no retry is stored, and its source's mark moves (R115). -/
theorem peerStore_of_room {s u : State} {dev src seq la : Nat} {data : List (BitVec 8)} (whole : data.length = 64) (aligned : la % 64 = 0)
    (low : la < 2 ^ 43) (backed : hState (hingeOf s (la / 65536)) = 1) (fresh : seenSeq s (homeSlice s la) dev src seq = false)
    (room : markRoom s (homeSlice s la) dev src = some u) :
    peerStore s dev src seq la data false =
      some (putMark (setLogBytes u (hCtx (hingeOf s (la / 65536))) la data) (homeSlice s la) dev src seq) := by
  have stored : ¬ (data.length ≠ 64 ∨ la % 64 ≠ 0 ∨ 2 ^ 43 ≤ la ∨ hState (hingeOf s (la / 65536)) = 0
      ∨ seenSeq s (homeSlice s la) dev src seq = true) := by
    simp [whole, aligned, backed, fresh]
    omega
  unfold peerStore
  simp only
  rw [if_neg stored, if_neg (by rw [backed]; decide), room]
  rfl

/-- The slice that a peer's sector goes to. -/
def peerSlice : Nat := homeSlice State.reset 64

/-- A machine a millisecond after reset: port 0 leads to device 7, whose context 3 entry 2 of context 1's peer table names; frame 0 is
backed; the slice holds one mark more than its table has entries, one of them old. -/
def overmarked : State :=
  { State.reset with
    time := 1000000
    ctxs := [(1, { State.probeCtx with peerTab := 65536 })]
    tcache := [{ eng := engQm, ctx := 1, va := 65536, size := 4096, t := 65536, r := true, w := true, backed := 0 }]
    host := State.withFetchWord.putBytes [] (65536 + 32) (leBytes 8 0 ++ leBytes 2 7 ++ leBytes 2 3 ++ leBytes 4 1)
    hinge := [(0, hMake 1 0 false 1 7)]
    hb := { State.reset.hb with ports := [(0, portWord true 7 0)] }
    marks := strangerMark peerSlice 0 :: recentMarks 4096 peerSlice 1000000 }

/-- The machine once the sector's port has counted its retries, of which there are none. -/
def overmarkedPort : State := setPort overmarked 0 (portWord true 7 0)

/-- The machine with its old mark gone. -/
def fullyMarked : State := { overmarkedPort with marks := recentMarks 4096 peerSlice 1000000 }

/-- The machine once the sector stands in its slice. -/
def sectorStored : State := setLogBytes fullyMarked (hCtx (hMake 1 0 false 1 7)) 64 (List.replicate 64 0)

theorem sectorStored_marking : sectorStored.marking = fullyMarked.marking :=
  setLogBytes_marking rfl rfl rfl rfl (by decide) _

theorem overmarked_names : peerNamed overmarkedPort engQm 1 65536 7 3 255 = some 2 := by decide +kernel

theorem markRoom_overmarkedPort : markRoom overmarkedPort peerSlice 7 1 = some fullyMarked :=
  markRoom_old rfl rfl (by decide) (by decide) (by decide)

theorem markRoom_sectorStored : markRoom sectorStored peerSlice 7 1 = none :=
  markRoom_congr sectorStored_marking (markRoom_recent (n := 4096) rfl (by decide) (by decide))

/-- The sector is stored, but its source gets no mark. -/
theorem peerStore_overmarkedPort : peerStore overmarkedPort 7 1 5 64 (List.replicate 64 0) false = some sectorStored := by
  have fresh := seenSeq_strangers (s := overmarkedPort) dev_of_mem_oldMarks (dev := 7) (by decide) peerSlice 1 5
  have stored := peerStore_of_room (data := List.replicate 64 0) List.length_replicate (by decide) (by decide) (by decide)
    (seq := 5) fresh markRoom_overmarkedPort
  exact stored.trans (congrArg some (putMark_of_full markRoom_sectorStored 5))

theorem execPeerReceive_overmarked :
    exec (.peerReceive ⟨0, 1, 5, 3, 1, 0, false⟩ 64 (List.replicate 64 0) (crc16 (List.replicate 64 0)) false) overmarked = .next sectorStored := by
  have up : ¬ (12 ≤ 0 ∨ !bit (portOf overmarked 0).toNat 63 ∨ deadStation overmarked (peerStation 0)) := by decide
  have counted : setPort overmarked 0 (portWord true (portRemote (portOf overmarked 0)) (min (2 ^ 32 - 1) (portRetry (portOf overmarked 0) + 0)))
      = overmarkedPort := by
    have word : portWord true (portRemote (portOf overmarked 0)) (min (2 ^ 32 - 1) (portRetry (portOf overmarked 0) + 0)) = portWord true 7 0 := by
      decide
    rw [word]
    rfl
  have remote : portRemote (portOf overmarked 0) = 7 := by decide
  have bound : Tab.find overmarkedPort.ctxs 1 = some { State.probeCtx with peerTab := 65536 } := rfl
  rw [exec_peerReceive]
  unfold execPeerReceive
  simp only
  rw [if_neg up, counted, bound]
  simp only
  rw [if_neg (by decide), remote, overmarked_names]
  simp only [bne_self_eq_false, Bool.or_self, peerStore_overmarkedPort, Bool.false_eq_true, if_false]

/-- Refutes O46: of a slice that holds 4,097 marks, one of them old, the replaced one leaves no entry for the sender's mark, so the
sector is stored and not marked as seen. -/
theorem not_fabricEvents : ¬ Obligations.FabricEvents := by
  intro h
  obtain ⟨-, -, -, -, -, peers⟩ := h
  obtain ⟨-, -, receives⟩ := peers overmarked 0 0 64 (List.replicate 64 0) (crc16 (List.replicate 64 0))
  have named : peerNamed overmarkedPort engQm 1 65536 7 3 255 = some 2 := overmarked_names
  obtain ⟨-, -, once⟩ := receives 1 5 3 1 0 { State.probeCtx with peerTab := 65536 } 2 (by decide) (by decide) rfl rfl rfl (by decide) named
  obtain ⟨-, unseen⟩ := once (by decide) List.length_replicate (by decide) (by decide) (by decide) rfl (by decide) rfl rfl
    (by rw [Option.isSome_iff_exists]; exact ⟨_, markRoom_old rfl rfl (by decide) (by decide) (by decide)⟩)
  obtain ⟨good, -⟩ := unseen (seenSeq_strangers (s := overmarked) dev_of_mem_oldMarks (by decide) _ _ _)
  obtain ⟨t, ht, -, seen, -⟩ := good rfl
  obtain rfl : sectorStored = t := by
    have := execPeerReceive_overmarked.symm.trans ht
    injection this
  have strangers : ∀ m ∈ sectorStored.marks, m.dev = 0 := fun m hm => by
    rw [marks_congr sectorStored_marking] at hm
    exact dev_of_mem_recentMarks m hm
  rw [seenSeq_strangers strangers (by decide)] at seen
  cases seen

end Sys2Proof.Machine
end

section
/-! The hub of a stack: what it holds after it is written, and what a write leaves alone. -/
namespace Sys2Proof.Machine

@[simp] theorem hubOf_setHub (s : State) (st : Nat) (h : Hub) : hubOf (setHub s st h) st = h := by
  unfold hubOf setHub
  split <;> rfl

@[simp] theorem setHub_hubOf (s : State) (st : Nat) : setHub s st (hubOf s st) = s := by
  unfold hubOf setHub
  split <;> rfl

@[simp] theorem setHub_setHub (s : State) (st : Nat) (h h' : Hub) : setHub (setHub s st h) st h' = setHub s st h' := by
  unfold setHub
  split <;> rfl

theorem setHub_rest (s : State) (st : Nat) (h : Hub) :
    setHub s st h = { s with hub0 := (setHub s st h).hub0, hub1 := (setHub s st h).hub1 } := by
  unfold setHub
  split <;> rfl

@[simp] theorem setHub_hinge (s : State) (st : Nat) (h : Hub) : (setHub s st h).hinge = s.hinge := by rw [setHub_rest]
@[simp] theorem setHub_inUse (s : State) (st : Nat) (h : Hub) : (setHub s st h).inUse = s.inUse := by rw [setHub_rest]
@[simp] theorem setHub_affinity (s : State) (st : Nat) (h : Hub) : (setHub s st h).affinity = s.affinity := by rw [setHub_rest]
@[simp] theorem setHub_near (s : State) (st : Nat) (h : Hub) : (setHub s st h).near = s.near := by rw [setHub_rest]
@[simp] theorem setHub_far (s : State) (st : Nat) (h : Hub) : (setHub s st h).far = s.far := by rw [setHub_rest]
@[simp] theorem setHub_slices (s : State) (st : Nat) (h : Hub) : (setHub s st h).slices = s.slices := by rw [setHub_rest]
@[simp] theorem setHub_stations (s : State) (st : Nat) (h : Hub) : (setHub s st h).stations = s.stations := by rw [setHub_rest]
@[simp] theorem setHub_xfaults (s : State) (st : Nat) (h : Hub) : (setHub s st h).xfaults = s.xfaults := by rw [setHub_rest]
@[simp] theorem setHub_agenda (s : State) (st : Nat) (h : Hub) : (setHub s st h).agenda = s.agenda := by rw [setHub_rest]

end Sys2Proof.Machine
end

section
/-! Translation misses, the host's answers and invalidations (R81 to R83), for the requests of a copy engine. -/
namespace Sys2Proof.Machine

/-! ### Requests of a hub -/

theorem mergeReq_of_none {x : XReq} {ys : List XReq} (h : ∀ y ∈ ys, y.serves x = false) : mergeReq x ys = none := by
  induction ys with
  | nil => rfl
  | cons y ys ih =>
    rw [mergeReq, h y (by simp), ih fun z hz => h z (by simp [hz])]
    rfl

theorem mergeReq_of_head {x y : XReq} (h : y.serves x = true) (ys : List XReq) :
    mergeReq x (y :: ys) = some ({ y with who := y.who ++ x.who.filter fun w => !y.who.contains w } :: ys) := by
  rw [mergeReq, h]
  rfl

theorem serves_other {x y : XReq} (h : ¬ (y.pasid = x.pasid ∧ y.va = x.va)) : y.serves x = false := by
  rw [← Bool.not_eq_true]
  intro served
  simp only [XReq.serves, Bool.and_eq_true, beq_iff_eq] at served
  exact h ⟨served.1.1.2, served.1.2⟩

theorem asks_self (need : Nat) : asks need need = true := by simp [asks]

/-- A translation request serves another of the same page and permissions (R81). -/
theorem serves_same {x y : XReq} (kind : y.page = false) (kind' : x.page = false) (pasid : y.pasid = x.pasid) (page : y.va = x.va)
    (need : y.need = x.need) : y.serves x = true := by
  simp [XReq.serves, kind, kind', pasid, page, need, asks_self]

/-- A request that nothing serves goes out while there is room and none waits (R81). -/
theorem hubJoin_new {s : State} {st : Nat} {x : XReq} (unserved : ∀ y ∈ (hubOf s st).reqs, y.serves x = false)
    (room : hubCount (hubOf s st) x.page < hubLimit x.page) (noneWaits : (hubOf s st).waiting = []) :
    hubJoin s st x = setHub s st { hubOf s st with reqs := (hubOf s st).reqs ++ [x] } := by
  have sends : hubCount (hubOf s st) x.page < hubLimit x.page ∧ !((hubOf s st).waiting.any fun y => y.page == x.page) := ⟨room, by simp [noneWaits]⟩
  have none' : mergeReq x (hubOf s st).waiting = none := by rw [noneWaits]; rfl
  simp only [hubJoin, mergeReq_of_none unserved, none']
  rw [hubSend, if_pos sends]

theorem hubJoin_merged {s : State} {st : Nat} {x : XReq} {rs : List XReq} (h : mergeReq x (hubOf s st).reqs = some rs) :
    hubJoin s st x = setHub s st { hubOf s st with reqs := rs } := by
  simp only [hubJoin, h]

/-- Where no request waits, room brings none out. -/
theorem hubDrain_of_noneWaits {s : State} {st : Nat} (noneWaits : (hubOf s st).waiting = []) : hubDrain s st = s := by
  have same : { hubOf s st with waiting := [] } = hubOf s st := by rw [← noneWaits]
  rw [hubDrain, noneWaits]
  simp only [List.foldl_nil]
  rw [same, setHub_hubOf]

/-! ### Misses -/

/-- A miss of an engine that is no core, with no entry in its cache or its hub, asks its hub (R81). -/
theorem execTranslationMiss_asks {s : State} {eng ctx key va need : Nat} {c : Ctx} (bound : Tab.find s.ctxs ctx = some c) (engine : 88 ≤ eng)
    (unit : eng < 802) (stack : engStack s eng < 2) (missed : tlookup s eng ctx va = none)
    (unknown : hubEntry (hubOf s (engStack s eng)) c.pasid va = none) :
    exec (.translationMiss eng ctx key va need) s = .next (hubAsk s (engStack s eng) c.pasid eng ctx key va need) := by
  have lives : requesterLives s eng key = true := by simp [requesterLives, engine]
  have asked : ¬ (!requesterLives s eng key ∨ 802 ≤ eng ∨ engStack s eng ≥ 2) := by simp [lives]; omega
  rw [exec_translationMiss]
  unfold execTranslationMiss
  simp only [bound, missed, unknown]
  rw [if_neg asked]
  rfl

/-! ### What an answer wakes -/

theorem wakeWork_copy {s : State} {eng ctx key : Nat} (low : 88 ≤ eng) (high : eng < 200) (work : key ≠ 0) :
    wakeWork s eng ctx key = later s (.copyEngineComplete eng key) := by
  rw [wakeWork, if_neg work, if_neg (by omega), if_pos high]

theorem hubOf_dropTouch (s : State) (eng ctx key va st : Nat) :
    hubOf (dropTouch s eng ctx key va).1 st = { hubOf s st with touches := (hubOf (dropTouch s eng ctx key va).1 st).touches } := by
  unfold hubOf dropTouch
  simp only
  split <;> rfl

/-- A translation to host memory or a peer needs no frame (R93). -/
theorem touchFrame_outside {s : State} {eng ctx key va need : Nat} {e : TEntry} (cached : tlookup s eng ctx va = some e)
    (outside : devLogical s (e.t + (va - e.va)) = none) : touchFrame s eng ctx key va need = wakeWork (dropTouch s eng ctx key va).1 eng ctx key := by
  have cached' : tlookup (dropTouch s eng ctx key va).1 eng ctx va = some e := cached
  have outside' : devLogical (dropTouch s eng ctx key va).1 (e.t + (va - e.va)) = none := outside
  simp only [touchFrame, cached', Option.bind_some, outside']

/-- The entry inserted last is the one found. -/
theorem tlookup_tinsert {s : State} {e : TEntry} {va : Nat} (covers : e.covers va = true) : tlookup (tinsert s e) e.eng e.ctx va = some e := by
  simp [tlookup, tinsert, covers]

/-! ### The host's answers -/

theorem covers_page {va size : Nat} (pos : 0 < size) : va / size * size ≤ va ∧ va < va / size * size + size := by
  have := Nat.div_add_mod' va size
  have := Nat.mod_lt va pos
  omega

theorem pageSize_pos {size : Nat} (h : pageSizeOk size = true) : 0 < size := by
  simp only [pageSizeOk, Bool.or_eq_true, beq_iff_eq] at h
  omega

theorem pieceSize_dvd {size : Nat} (h : pageSizeOk size = true) : min size (2 ^ 21) ∣ size ∧ 0 < min size (2 ^ 21) := by
  simp only [pageSizeOk, Bool.or_eq_true, beq_iff_eq] at h
  rcases h with (rfl | rfl) | rfl <;> decide

/-- The last multiple of `m` up to `n` is no lower than another multiple that is no higher than `n`. -/
theorem le_floor_of_dvd {m n x : Nat} (dvd : m ∣ x) (le : x ≤ n) : x ≤ n / m * m := by
  obtain ⟨k, rfl⟩ := dvd
  rcases Nat.eq_zero_or_pos m with rfl | pos
  · simp
  · rw [Nat.mul_comm m k] at le ⊢
    exact Nat.mul_le_mul_right m ((Nat.le_div_iff_mul_le pos).2 le)

/-- An engine's piece of a page covers the address it was made for, and translates it as the page does (R80). -/
theorem enginePiece_covers {h : HubEntry} (size : pageSizeOk h.size = true) (s : State) (eng ctx va : Nat) :
    (enginePiece s eng ctx h va).covers va = true := by
  obtain ⟨-, pos⟩ := pieceSize_dvd size
  obtain ⟨low, high⟩ := covers_page (va := va) pos
  exact Bool.and_eq_true_iff.2 ⟨decide_eq_true low, decide_eq_true high⟩

theorem enginePiece_translates {h : HubEntry} {va : Nat} (size : pageSizeOk h.size = true) (page : h.va = va / h.size * h.size)
    (s : State) (eng ctx : Nat) :
    (enginePiece s eng ctx h va).t + (va - (enginePiece s eng ctx h va).va) = h.t + va % h.size := by
  obtain ⟨dvd, pos⟩ := pieceSize_dvd size
  have inPiece := covers_page (va := va) pos
  have inPage := covers_page (va := va) (pageSize_pos size)
  have offset := Nat.div_add_mod' va h.size
  have piece := le_floor_of_dvd (dvd.trans (Nat.dvd_mul_left _ (va / h.size))) inPage.1
  simp only [enginePiece, page]
  omega

/-- The hub's entry of a page that the host has translated. -/
def pageEntry (pasid va t size : Nat) (r w : Bool) : HubEntry := { pasid, va := va / size * size, size, t := t / size * size, r, w }

/-- The hub that has taken a page in, its one request answered. -/
def pageTaken (h : Hub) (e : HubEntry) : Hub :=
  { h with reqs := [], entries := (e :: h.entries.filter fun y => !(y.pasid == e.pasid && y.va == e.va && y.size == e.size)).take 65536 }

theorem hubEntry_pageTaken {h : Hub} {pasid va t size : Nat} {r w : Bool} (ok : pageSizeOk size = true) :
    hubEntry (pageTaken h (pageEntry pasid va t size r w)) pasid va = some (pageEntry pasid va t size r w) := by
  obtain ⟨low, high⟩ := covers_page (va := va) (pageSize_pos ok)
  simp [hubEntry, pageTaken, pageEntry, HubEntry.covers, low, high]

/-- An answer that lets its one requester go on through its own cache (R81). -/
theorem execAtsCompletion_single {s : State} {st pasid va t size : Nat} {r w : Bool} {x : XReq} {who : XWho} (stack : st < 2)
    (reqs : (hubOf s st).reqs = [x]) (kind : x.page = false) (owner : x.pasid = pasid) (page : x.va = va / 4096 * 4096) (one : x.who = [who])
    (ok : pageSizeOk size = true) (lets : r = true ∨ w = true) :
    exec (.atsCompletion st pasid va true t size r w) s =
      .next (hubDrain (answerWho st x (some (pageEntry pasid va t size r w))
        (setHub s st (pageTaken (hubOf s st) (pageEntry pasid va t size r w))) who) st) := by
  have found : [x].find? (fun y => !y.page && y.pasid == pasid && y.va == va / 4096 * 4096) = some x := by simp [kind, owner, page]
  have gone : (hubOf s st).reqs.erase x = [] := by rw [reqs, List.erase_cons_head]
  rw [exec_atsCompletion]
  unfold execAtsCompletion
  rw [if_neg (by omega), reqs, found]
  simp only [ok, lets, and_self, if_true, hubOf_setHub, setHub_setHub, gone, one, List.foldl_cons, List.foldl_nil]
  rfl

theorem execPageRequestResponse_single {s : State} {st pasid va : Nat} {ok : Bool} {x : XReq} {who : XWho} (stack : st < 2)
    (reqs : (hubOf s st).reqs = [x]) (kind : x.page = true) (owner : x.pasid = pasid) (page : x.va = va / 4096 * 4096) (one : x.who = [who]) :
    exec (.pageRequestResponse st pasid va ok) s =
      .next (hubDrain (if ok then hubJoin (setHub s st { hubOf s st with reqs := [] }) st { x with page := false, who := [{ who with asked := true }] }
        else failWho (setHub s st { hubOf s st with reqs := [] }) x.va 1 who) st) := by
  have found : [x].find? (fun y => y.page && y.pasid == pasid && y.va == va / 4096 * 4096) = some x := by simp [kind, owner, page]
  have gone : (hubOf s st).reqs.erase x = [] := by rw [reqs, List.erase_cons_head]
  rw [exec_pageRequestResponse]
  unfold execPageRequestResponse
  rw [if_neg (by omega), reqs, found]
  simp only [one, List.foldl_cons, List.foldl_nil, gone, List.map_cons, List.map_nil]

/-- A fault that stands against a requester answers its check (R82). -/
theorem xlate_of_fault {s : State} {eng ctx key va need : Nat} {f : XFault} {fs : List XFault} (alive : s.stations = [])
    (stands : s.xfaults = f :: fs) (eng' : f.eng = eng) (ctx' : f.ctx = ctx) (key' : f.key = key) (page : f.va = va / 4096) :
    xlate s eng ctx key va need = .fault f.cls := by
  have lives : deadStation s (unitSource s eng / 512) = false := by simp [deadStation, stationOf, alive, Tab.fetch, Tab.find, blankStation]
  have found : s.xfaults.find? (fun f => f.eng == eng && f.ctx == ctx && f.key == key && f.va == va / 4096) = some f := by
    simp [stands, eng', ctx', key', page]
  simp only [xlate, lives, found, Bool.false_eq_true, if_false]

/-! ### Invalidation -/

theorem hasPasid_iff (s : State) (pasid cid : Nat) : hasPasid s pasid cid = true ↔ ∃ c, Tab.find s.ctxs cid = some c ∧ c.pasid = pasid := by
  unfold hasPasid
  split <;> rename_i h <;> simp [h]

/-- A hub without the entries of a PASID that meet a range (R83). -/
def Hub.without (h : Hub) (pasid va size : Nat) : Hub :=
  { h with entries := h.entries.filter fun e => !(e.pasid == pasid && (decide (e.va < va + size) && decide (va < e.va + e.size))) }

/-- The machine without the entries of a PASID that meet a range (R83). -/
def invalidated (s : State) (pasid va size : Nat) : State :=
  { s with
    tcache := s.tcache.filter fun e => !(hasPasid s pasid e.ctx && (decide (e.va < va + size) && decide (va < e.va + e.size)))
    hub0 := s.hub0.without pasid va size
    hub1 := s.hub1.without pasid va size
    invals := s.invals.filter (· != (pasid, va, size)) }

theorem hubOf_invalidated (s : State) (pasid va size st : Nat) : hubOf (invalidated s pasid va size) st = (hubOf s st).without pasid va size := by
  unfold hubOf invalidated
  split <;> rfl

theorem mem_entries_without {h : Hub} {pasid va size : Nat} {e : HubEntry} : e ∈ (h.without pasid va size).entries ↔
    e ∈ h.entries ∧ ¬ (e.pasid = pasid ∧ e.va < va + size ∧ va < e.va + e.size) := by
  simp only [Hub.without, List.mem_filter, Bool.not_eq_true', Bool.eq_false_iff, ne_eq, Bool.and_eq_true, beq_iff_eq, decide_eq_true_eq]

theorem mem_tcache_invalidated {s : State} {pasid va size : Nat} {e : TEntry} : e ∈ (invalidated s pasid va size).tcache ↔
    e ∈ s.tcache ∧ ¬ ((∃ c, Tab.find s.ctxs e.ctx = some c ∧ c.pasid = pasid) ∧ e.va < va + size ∧ va < e.va + e.size) := by
  simp only [invalidated, List.mem_filter, Bool.not_eq_true', Bool.eq_false_iff, ne_eq, Bool.and_eq_true, hasPasid_iff, decide_eq_true_eq]

/-- Where no request of the PASID is on its way, none is delivered; the invalidation is complete or gone on with. -/
theorem execAtsInvalidation_still {s : State} {pasid : Nat} (still : ∀ r ∈ s.sreqs, hasPasid s pasid r.ctx = false) (va size : Nat) :
    exec (.atsInvalidation pasid va size) s = .next { invalidated s pasid va size with
      invals := s.invals.filter (· != (pasid, va, size)) ++ if accessesLeft s pasid then [(pasid, va, size)] else [] } := by
  have none' : ((invalidated s pasid va size).sreqs.filter fun r => hasPasid s pasid r.ctx && r.place.isSome) = [] :=
    List.filter_eq_nil_iff.2 fun r hr => by simp [still r hr]
  have delivered : exec (.atsInvalidation pasid va size) s = .next (
      let s2 := ((invalidated s pasid va size).sreqs.filter fun r => hasPasid s pasid r.ctx && r.place.isSome).foldl
        (fun s r => deliverReq s r.id) (invalidated s pasid va size)
      if accessesLeft s2 pasid then { s2 with invals := s2.invals ++ [(pasid, va, size)] } else s2) := rfl
  have left : accessesLeft (invalidated s pasid va size) pasid = accessesLeft s pasid := rfl
  rw [delivered, none']
  simp only [List.foldl_nil, left]
  split
  · rfl
  · rw [List.append_nil]; rfl

/-- It is gone on with while a region buffers stores or a traversal goes on. -/
theorem accessesLeft_iff {s : State} {pasid : Nat} (still : ∀ r ∈ s.sreqs, hasPasid s pasid r.ctx = false) :
    accessesLeft s pasid = true ↔ (∃ e ∈ s.groups, hasPasid s pasid e.2.ctx = true ∧ e.2.buf ≠ [])
      ∨ ∃ r ∈ s.rays, hasPasid s pasid r.ctx = true ∧ r.status = none := by
  have none' : (s.sreqs.any fun r => hasPasid s pasid r.ctx) = false := List.any_eq_false.2 fun r hr => by simp [still r hr]
  simp [accessesLeft, none', List.any_eq_true]

/-! ### The events -/

/-- A requester whose page has come, in host memory or a peer's, goes on (R81). -/
theorem answerWho_outside {s : State} {st eng ctx key va need pasid t size : Nat} {r w a : Bool} {x : XReq} (low : 88 ≤ eng) (high : eng < 200)
    (work : key ≠ 0) (ok : pageSizeOk size = true) (permitted : permits r w need = true) (below : t + size ≤ s.hb.bar4) :
    let e := pageEntry pasid va t size r w
    answerWho st x (some e) s ⟨eng, ctx, key, va, need, a⟩ =
      later (dropTouch (tinsert s (enginePiece s eng ctx e va)) eng ctx key va).1 (.copyEngineComplete eng key) := by
  intro e
  have cached : tlookup (tinsert s (enginePiece s eng ctx e va)) eng ctx va = some (enginePiece s eng ctx e va) :=
    tlookup_tinsert (enginePiece_covers (h := e) ok s eng ctx va)
  have translated : (enginePiece s eng ctx e va).t + (va - (enginePiece s eng ctx e va).va) = t / size * size + va % size :=
    enginePiece_translates (h := e) ok rfl s eng ctx
  have inPage := covers_page (va := t) (pageSize_pos ok)
  have offset := Nat.mod_lt va (pageSize_pos ok)
  have outside : devLogical (tinsert s (enginePiece s eng ctx e va)) ((enginePiece s eng ctx e va).t + (va - (enginePiece s eng ctx e va).va)) = none := by
    have bar : ¬ (s.hb.bar4 ≤ t / size * size + va % size ∧ t / size * size + va % size < s.hb.bar4 + 2 ^ 43) := by omega
    rw [translated]
    exact if_neg bar
  have lets : permits e.r e.w need = true := permitted
  simp only [answerWho, lets, if_true]
  rw [touchFrame_outside cached outside, wakeWork_copy low high work]

/-- A page that the host lets through, in host memory or a peer's, fills the hub and the engine's cache and wakes its requester (R81). -/
theorem execAtsCompletion_outside {s : State} {st pasid va t size eng ctx key need : Nat} {r w a : Bool} {x : XReq} (stack : st < 2)
    (low : 88 ≤ eng) (high : eng < 200) (work : key ≠ 0) (reqs : (hubOf s st).reqs = [x]) (kind : x.page = false) (owner : x.pasid = pasid)
    (page : x.va = va / 4096 * 4096) (one : x.who = [⟨eng, ctx, key, va, need, a⟩]) (noneWaits : (hubOf s st).waiting = [])
    (ok : pageSizeOk size = true) (lets : r = true ∨ w = true) (permitted : permits r w need = true) (below : t + size ≤ s.hb.bar4) :
    ∃ u, exec (.atsCompletion st pasid va true t size r w) s = .next u ∧ .copyEngineComplete eng key ∈ u.agenda ∧ (hubOf u st).reqs = []
      ∧ hubEntry (hubOf u st) pasid va = some (pageEntry pasid va t size r w)
      ∧ tlookup u eng ctx va = some (enginePiece (setHub s st (pageTaken (hubOf s st) (pageEntry pasid va t size r w))) eng ctx
          (pageEntry pasid va t size r w) va) := by
  let e := pageEntry pasid va t size r w
  let taken := setHub s st (pageTaken (hubOf s st) e)
  let filled := tinsert taken (enginePiece taken eng ctx e va)
  let u := later (dropTouch filled eng ctx key va).1 (.copyEngineComplete eng key)
  have hub : hubOf u st = { pageTaken (hubOf s st) e with touches := (hubOf u st).touches } := by
    have written : hubOf filled st = pageTaken (hubOf s st) e := hubOf_setHub ..
    rw [← written]
    exact hubOf_dropTouch filled eng ctx key va st
  have below' : t + size ≤ taken.hb.bar4 := by rw [setHub_hb]; exact below
  have none' : (hubOf u st).waiting = [] := by rw [hub]; exact noneWaits
  refine ⟨u, ?_, List.mem_append_right _ (List.mem_singleton.2 rfl), ?_, ?_, tlookup_tinsert (enginePiece_covers (h := e) ok taken eng ctx va)⟩
  · rw [execAtsCompletion_single stack reqs kind owner page one ok lets, answerWho_outside low high work ok permitted below']
    exact congrArg Host.Outcome.next (hubDrain_of_noneWaits none')
  · rw [hub]; rfl
  · rw [hub]; exact hubEntry_pageTaken ok

/-- The host's yes has the translation request made once more (R82). -/
theorem execPageRequestResponse_yes {s : State} {st pasid va : Nat} {x : XReq} {who : XWho} (stack : st < 2) (reqs : (hubOf s st).reqs = [x])
    (kind : x.page = true) (owner : x.pasid = pasid) (page : x.va = va / 4096 * 4096) (one : x.who = [who]) (noneWaits : (hubOf s st).waiting = []) :
    exec (.pageRequestResponse st pasid va true) s =
      .next (setHub s st { hubOf s st with reqs := [{ x with page := false, who := [{ who with asked := true }] }] }) := by
  rw [execPageRequestResponse_single stack reqs kind owner page one, if_pos rfl, hubJoin_new (by simp) (by rw [hubOf_setHub]; exact Nat.zero_lt_succ _)
    (by rw [hubOf_setHub]; exact noneWaits), hubDrain_of_noneWaits (by simpa using noneWaits)]
  simp

/-- The host's no is a translation fault that stands against the requester (R82). -/
theorem execPageRequestResponse_no {s : State} {st pasid va eng ctx key need : Nat} {a : Bool} {x : XReq} (stack : st < 2) (low : 88 ≤ eng)
    (high : eng < 200) (work : key ≠ 0) (reqs : (hubOf s st).reqs = [x]) (kind : x.page = true) (owner : x.pasid = pasid)
    (page : x.va = va / 4096 * 4096) (one : x.who = [⟨eng, ctx, key, va, need, a⟩]) (noneWaits : (hubOf s st).waiting = []) :
    exec (.pageRequestResponse st pasid va false) s =
      .next (later { setHub s st { hubOf s st with reqs := [] } with xfaults := ⟨eng, ctx, key, x.va / 4096, 1⟩ :: s.xfaults } (.copyEngineComplete eng key)) := by
  rw [execPageRequestResponse_single stack reqs kind owner page one, if_neg (by simp), failWho, if_neg work, wakeWork_copy low high work,
    hubDrain_of_noneWaits, setHub_xfaults]
  exact (congrArg Hub.waiting (hubOf_setHub s st _)).trans noneWaits

theorem execTranslationMiss_new {s : State} {st eng ctx key va need : Nat} {c : Ctx} (bound : Tab.find s.ctxs ctx = some c) (engine : 88 ≤ eng)
    (unit : eng < 802) (known : need < 4) (stack : engStack s eng = st) (two : st < 2) (missed : tlookup s eng ctx va = none)
    (unknown : hubEntry (hubOf s st) c.pasid va = none) (alone : ∀ x ∈ (hubOf s st).reqs, ¬ (x.pasid = c.pasid ∧ x.va = va / 4096 * 4096))
    (room : hubCount (hubOf s st) false < 4096) (noneWaits : (hubOf s st).waiting = []) :
    exec (.translationMiss eng ctx key va need) s = .next (setHub s st { hubOf s st with reqs := (hubOf s st).reqs ++
      [{ pasid := c.pasid, va := va / 4096 * 4096, need, page := false, who := [⟨eng, ctx, key, va, need, false⟩] }] }) := by
  subst stack
  rw [execTranslationMiss_asks bound engine unit two missed unknown, hubAsk, Nat.mod_eq_of_lt known,
    hubJoin_new (fun y hy => serves_other (alone y hy)) room noneWaits]

theorem execTranslationMiss_joins {s : State} {st eng ctx key va need : Nat} {c : Ctx} {x : XReq} (bound : Tab.find s.ctxs ctx = some c)
    (engine : 88 ≤ eng) (unit : eng < 802) (known : need < 4) (stack : engStack s eng = st) (two : st < 2) (missed : tlookup s eng ctx va = none)
    (unknown : hubEntry (hubOf s st) c.pasid va = none) (reqs : (hubOf s st).reqs = [x]) (kind : x.page = false) (owner : x.pasid = c.pasid)
    (page : x.va = va / 4096 * 4096) (same : x.need = need) (new : (⟨eng, ctx, key, va, need, false⟩ : XWho) ∉ x.who) :
    exec (.translationMiss eng ctx key va need) s =
      .next (setHub s st { hubOf s st with reqs := [{ x with who := x.who ++ [⟨eng, ctx, key, va, need, false⟩] }] }) := by
  subst stack
  have serves : x.serves { pasid := c.pasid, va := va / 4096 * 4096, need, page := false, who := [⟨eng, ctx, key, va, need, false⟩] } = true :=
    serves_same kind rfl owner page same
  have merged := mergeReq_of_head serves []
  rw [← reqs] at merged
  rw [execTranslationMiss_asks bound engine unit two missed unknown, hubAsk, Nat.mod_eq_of_lt known, hubJoin_merged merged]
  simp [new]

/-- Settles O43: each event by the hub's one operation that it makes. -/
theorem translationEvents : Obligations.TranslationEvents := by
  unfold Obligations.TranslationEvents
  intro s st pasid va eng ctx key need two low high work known h pg who
  have engine : 88 ≤ eng := by omega
  have copy : eng < 200 := by omega
  have unit : eng < 802 := by omega
  refine ⟨fun c bound stack missed unknown => ⟨?_, ?_⟩, ?_, fun x a reqs kind owner page one noneWaits alive => ⟨?_, ?_⟩, fun size still => ?_⟩
  · intro alone room noneWaits
    exact ⟨_, execTranslationMiss_new bound engine unit known stack two missed unknown alone room noneWaits, by rw [hubOf_setHub]⟩
  · intro x reqs kind owner page same new
    exact ⟨_, execTranslationMiss_joins bound engine unit known stack two missed unknown reqs kind owner page same new, by rw [hubOf_setHub]⟩
  · intro x t size r w a reqs kind owner page one noneWaits ok lets permitted below
    obtain ⟨u, answered, wakes, empty, inHub, inCache⟩ :=
      execAtsCompletion_outside two engine copy work reqs kind owner page one noneWaits ok lets permitted below
    have translated := enginePiece_translates (h := pageEntry pasid va t size r w) ok rfl
      (setHub s st (pageTaken (hubOf s st) (pageEntry pasid va t size r w))) eng ctx
    refine ⟨u, answered, wakes, empty, by rw [inHub]; rfl, ?_⟩
    rw [inCache, Option.map_some, translated]
    rfl
  · exact ⟨_, execPageRequestResponse_yes two reqs kind owner page one noneWaits, by rw [hubOf_setHub]⟩
  · have refused := execPageRequestResponse_no two engine copy work reqs kind owner page one noneWaits
    refine ⟨_, refused, (congrArg Hub.reqs (hubOf_setHub s st _) :), List.mem_append_right _ (List.mem_singleton.2 rfl), ?_⟩
    have samePage : x.va / 4096 = va / 4096 := by rw [page]; omega
    exact xlate_of_fault (f := ⟨eng, ctx, key, x.va / 4096, 1⟩) (fs := s.xfaults) ((setHub_stations s st _).trans alive) rfl rfl rfl rfl samePage
  · refine ⟨_, execAtsInvalidation_still still va size, fun e => ?_, fun k _ e => ?_, rfl, rfl, ?_⟩
    · exact mem_tcache_invalidated
    · have goal := mem_entries_without (h := hubOf s k) (pasid := pasid) (va := va) (size := size) (e := e)
      rw [← hubOf_invalidated] at goal
      exact goal
    · rw [← accessesLeft_iff still]
      simp only [List.mem_append, List.mem_filter, bne_self_eq_false, Bool.false_eq_true, and_false, false_or]
      split <;> simp_all

end Sys2Proof.Machine
end

section
/-! Fields of registers and table entries (R4): what masks and fields leave of each other. -/
namespace Sys2Proof.Machine

theorem testBit_bits (n hi lo k : Nat) : (bits n hi lo).testBit k = (decide (k < hi + 1 - lo) && n.testBit (lo + k)) := by
  rw [bits, Nat.testBit_mod_two_pow, Nat.testBit_shiftRight]

/-- A field that a mask keeps. -/
theorem bits_and_of_ones {a m : BitVec 64} {hi lo : Nat} (ones : ∀ k < 64, lo ≤ k → k ≤ hi → m.getLsbD k = true) :
    bits (a &&& m).toNat hi lo = bits a.toNat hi lo := by
  apply Nat.eq_of_testBit_eq
  intro k
  rw [testBit_bits, testBit_bits, BitVec.testBit_toNat, BitVec.testBit_toNat, BitVec.getLsbD_and]
  by_cases inField : k < hi + 1 - lo ∧ lo + k < 64
  · rw [ones (lo + k) inField.2 (by omega) (by omega), Bool.and_true]
  · rcases not_and_or.1 inField with past | past
    · simp [past]
    · simp [BitVec.getLsbD_of_ge a (lo + k) (by omega)]

/-- A field that a mask clears takes what is put in. -/
theorem bits_or_of_zeros {a b : BitVec 64} {hi lo : Nat} (zeros : ∀ k < 64, lo ≤ k → k ≤ hi → a.getLsbD k = false) :
    bits (a ||| b).toNat hi lo = bits b.toNat hi lo := by
  apply Nat.eq_of_testBit_eq
  intro k
  rw [testBit_bits, testBit_bits, BitVec.testBit_toNat, BitVec.testBit_toNat, BitVec.getLsbD_or]
  by_cases inField : k < hi + 1 - lo ∧ lo + k < 64
  · rw [zeros (lo + k) inField.2 (by omega) (by omega), Bool.false_or]
  · rcases not_and_or.1 inField with past | past
    · simp [past]
    · simp [BitVec.getLsbD_of_ge _ (lo + k) (show 64 ≤ lo + k by omega)]

/-- A number with no bit outside a mask is no higher than the mask. -/
theorem toNat_le_of_and_not_eq_zero {d m : BitVec 64} (h : d &&& ~~~m = 0) : d.toNat ≤ m.toNat := by
  have inMask : d &&& m = d := by
    apply BitVec.eq_of_getLsbD_eq
    intro k hk
    have outside := congrArg (·.getLsbD k) h
    simp only [BitVec.getLsbD_and, BitVec.getLsbD_not, hk, decide_true, Bool.true_and] at outside ⊢
    revert outside
    cases d.getLsbD k <;> simp
  calc d.toNat = (d &&& m).toNat := by rw [inMask]
    _ = d.toNat &&& m.toNat := BitVec.toNat_and ..
    _ ≤ m.toNat := Nat.and_le_right

/-! ### Entries of the hinge table (R85) -/

theorem hTier_lt (e : BitVec 64) : hTier e < 2 := Nat.mod_lt _ (by decide)
theorem hCtx_lt (e : BitVec 64) : hCtx e < 4096 := Nat.mod_lt _ (by decide)
theorem hPfn_lt (e : BitVec 64) : hPfn e < 2 ^ 27 := Nat.mod_lt _ (by decide)

section
variable {st tier ctx pfn : Nat} {mig : Bool} (hst : st < 4) (htier : tier < 2) (hctx : ctx < 4096) (hpfn : pfn < 2 ^ 27)
include hst htier hctx hpfn

theorem toNat_hMake : (hMake st tier mig ctx pfn).toNat = st * 2 ^ 62 + tier * 2 ^ 61 + mig.toNat * 2 ^ 60 + ctx * 2 ^ 48 + pfn := by
  rw [hMake, BitVec.toNat_ofNat]
  cases mig <;> simp <;> omega

theorem hState_hMake : hState (hMake st tier mig ctx pfn) = st := by
  rw [hState, toNat_hMake hst htier hctx hpfn, bits, Nat.shiftRight_eq_div_pow]
  cases mig <;> simp <;> omega

theorem hTier_hMake : hTier (hMake st tier mig ctx pfn) = tier := by
  rw [hTier, toNat_hMake hst htier hctx hpfn, bits, Nat.shiftRight_eq_div_pow]
  cases mig <;> simp <;> omega

theorem hMig_hMake : hMig (hMake st tier mig ctx pfn) = mig := by
  rw [hMig, toNat_hMake hst htier hctx hpfn, bit, Nat.shiftRight_eq_div_pow]
  cases mig <;> simp <;> omega

theorem hCtx_hMake : hCtx (hMake st tier mig ctx pfn) = ctx := by
  rw [hCtx, toNat_hMake hst htier hctx hpfn, bits, Nat.shiftRight_eq_div_pow]
  cases mig <;> simp <;> omega

theorem hPfn_hMake : hPfn (hMake st tier mig ctx pfn) = pfn := by
  rw [hPfn, toNat_hMake hst htier hctx hpfn, bits, Nat.shiftRight_eq_div_pow]
  cases mig <;> simp <;> omega

end

theorem hingeOf_put (s : State) (f k : Nat) (e : BitVec 64) (t : State) (h : t.hinge = Tab.put s.hinge f e) :
    hingeOf t k = if k = f then e else hingeOf s k := by
  rw [hingeOf, hingeOf, h, Tab.fetch, Tab.fetch, Tab.find_put]
  split <;> rfl

end Sys2Proof.Machine
end

section
/-! What a hub's command or a move leaves to be tried again (R87, R92, R95): events only. -/
namespace Sys2Proof.Machine

/-- `t` is `s` with events to come. -/
def Awaits (s t : State) : Prop := ∃ es, t = laterAll s es

theorem Awaits.refl {s : State} : Awaits s s := ⟨[], by rw [laterAll_nil]⟩
theorem Awaits.trans {s t u : State} (h : Awaits s t) (h' : Awaits t u) : Awaits s u := by
  obtain ⟨es, rfl⟩ := h
  obtain ⟨es', rfl⟩ := h'
  exact ⟨es ++ es', by simp [Machine.laterAll]⟩
theorem Awaits.laterAll {s t : State} (h : Awaits s t) (es : List Instr) : Awaits s (laterAll t es) := h.trans ⟨es, rfl⟩
theorem Awaits.later {s t : State} (h : Awaits s t) (e : Instr) : Awaits s (later t e) := h.laterAll [e]

theorem Awaits.retryHinge {s t : State} (h : Awaits s t) (st : Nat) : Awaits s (retryHinge t st) := by
  unfold Machine.retryHinge
  split
  · split
    · exact h.later _
    · exact h.later _
    · exact h
  · exact h

theorem frameFreed_awaits (s : State) (f : Nat) : Awaits s (frameFreed s f) :=
  ((((Awaits.refl.laterAll _).laterAll _).laterAll _).retryHinge 0).retryHinge 1

theorem poolFilled_awaits (s : State) (st : Nat) : Awaits s (poolFilled s st) :=
  (((Awaits.refl.laterAll _).laterAll _).retryHinge 0).retryHinge 1

/-- Every field but the agenda is as it was. -/
theorem Awaits.same {s t : State} (h : Awaits s t) : t = { s with agenda := t.agenda } := by
  obtain ⟨es, rfl⟩ := h
  rfl

theorem Awaits.mem_agenda {s t : State} (h : Awaits s t) {i : Instr} (hi : i ∈ s.agenda) : i ∈ t.agenda := by
  obtain ⟨es, rfl⟩ := h
  exact List.mem_append_left _ hi

end Sys2Proof.Machine
end

section
/-! A hub's commands (R87, R88): their ends, and the effect of each. -/
namespace Sys2Proof.Machine

/-- A command's register with a status. -/
def statusWord (cmd : BitVec 64) (k : Nat) : BitVec 64 := (cmd &&& ~~~(0xF#64 <<< 59)) ||| BitVec.ofNat 64 (k * 2 ^ 59)

theorem bits_statusWord (cmd : BitVec 64) {k : Nat} (h : k < 16) : bits (statusWord cmd k).toNat 62 59 = k := by
  have cleared : ∀ j < 64, 59 ≤ j → j ≤ 62 → (~~~(0xF#64 <<< 59)).getLsbD j = false := by decide
  rw [statusWord, bits_or_of_zeros fun j hj low high => by rw [BitVec.getLsbD_and, cleared j hj low high, Bool.and_false],
    BitVec.toNat_ofNat, bits, Nat.shiftRight_eq_div_pow]
  simp only [Nat.reduceAdd, Nat.reduceSub, Nat.reducePow]
  omega

theorem bit_statusWord {cmd : BitVec 64} (busy : bit cmd.toNat 63 = true) {k : Nat} : bit (statusWord cmd k).toNat 63 = true := by
  have kept : (~~~(0xF#64 <<< 59)).getLsbD 63 = true := by decide
  rw [bit_eq_testBit, BitVec.testBit_toNat] at busy ⊢
  rw [statusWord, BitVec.getLsbD_or, BitVec.getLsbD_and, busy, kept]
  rfl

/-- The command of a stack's hub has made its effect with a status, and HINGE_CMD_COMPLETE follows (R87). -/
def CommandEnded (t : State) (st k : Nat) : Prop :=
  bits (hubOf t st).cmd.toNat 62 59 = k ∧ hingeBusy t st = true ∧ (hubOf t st).ended = true ∧ .hingeCmdComplete st ∈ t.agenda

/-- The hinge table, the frames in use, the affinities and the frames' bytes are as they were. -/
def FramesKept (s t : State) : Prop :=
  t.hinge = s.hinge ∧ t.inUse = s.inUse ∧ t.affinity = s.affinity ∧ t.near = s.near ∧ t.far = s.far

theorem FramesKept.hub {s : State} {st : Nat} {h : Hub} : FramesKept s (setHub s st h) := by simp [FramesKept]

@[simp] theorem hubOf_hingeEnd (s : State) (st k : Nat) :
    hubOf (hingeEnd s st k) st = { hubOf s st with cmd := statusWord (hubOf s st).cmd k, ended := true } := hubOf_setHub s st _

theorem hingeEnd_ended {s : State} {st k : Nat} (busy : hingeBusy s st = true) (status : k < 16) : CommandEnded (hingeEnd s st k) st k := by
  refine ⟨?_, ?_, ?_, List.mem_append_right _ (List.mem_singleton.2 rfl)⟩
  · rw [hubOf_hingeEnd]; exact bits_statusWord _ status
  · rw [hingeBusy, hubOf_hingeEnd]; exact bit_statusWord busy
  · rw [hubOf_hingeEnd]

theorem hingeEnd_rest (s : State) (st k : Nat) :
    hingeEnd s st k = { s with hub0 := (hingeEnd s st k).hub0, hub1 := (hingeEnd s st k).hub1, agenda := (hingeEnd s st k).agenda } := by
  rw [hingeEnd, setHub_rest]
  rfl

theorem hingeEnd_kept (s : State) (st k : Nat) : FramesKept s (hingeEnd s st k) := by
  rw [hingeEnd_rest]
  exact ⟨rfl, rfl, rfl, rfl, rfl⟩

theorem Awaits.commandEnded {s t : State} (h : Awaits s t) {st k : Nat} (ended : CommandEnded s st k) : CommandEnded t st k := by
  obtain ⟨status, busy, done, event⟩ := ended
  have mem := h.mem_agenda event
  rw [h.same]
  exact ⟨status, busy, done, mem⟩

/-! ### Which commands run -/

theorem hingeOpen_busy {s : State} {st op : Nat} (h : hingeOpen s st op = true) : hingeBusy s st = true := by
  simp only [hingeOpen, Bool.and_eq_true] at h
  exact h.1.1.2

theorem hingeCmd_good {s : State} {st op : Nat} {mask : BitVec 64} (runs : hingeOpen s st op = true) (good : hingeBad s st mask = false)
    (body : State → Nat → BitVec 64 → State) : hingeCmd s st op mask body = .next (body s (hingeFrame s st) (hubOf s st).data) := by
  simp [hingeCmd, runs, good]

theorem hingeCmd_bad {s : State} {st op : Nat} {mask : BitVec 64} (runs : hingeOpen s st op = true) (bad : hingeBad s st mask = true)
    (body : State → Nat → BitVec 64 → State) : hingeCmd s st op mask body = .next (hingeEnd s st 1) := by
  simp [hingeCmd, runs, bad]

theorem data_le_of_good {s : State} {st : Nat} {mask : BitVec 64} (good : hingeBad s st mask = false) : (hubOf s st).data.toNat ≤ mask.toNat := by
  simp only [hingeBad, Bool.or_eq_false_iff, bne_eq_false_iff_eq] at good
  exact toNat_le_of_and_not_eq_zero good.2

/-- Reserved bits of the operand are refused (R88). -/
theorem hingeBad_of_reserved {s : State} {st : Nat} {mask : BitVec 64} (narrow : mask.toNat < 2 ^ 62) (reserved : (hubOf s st).data.toNat / 2 ^ 62 ≠ 0) :
    hingeBad s st mask = true := by
  rw [← Bool.not_eq_false]
  intro good
  have := data_le_of_good good
  omega

end Sys2Proof.Machine
end

section
/-! The hinge commands one by one (R88, R90), and their completion (R87). -/
namespace Sys2Proof.Machine

/-- A command that only ends. -/
theorem ended_of_hingeEnd {s : State} {st k : Nat} {i : Instr} (h : exec i s = .next (hingeEnd s st k)) (busy : hingeBusy s st = true)
    (status : k < 16) : ∃ t, exec i s = .next t ∧ CommandEnded t st k ∧ FramesKept s t :=
  ⟨_, h, hingeEnd_ended busy status, hingeEnd_kept s st k⟩

theorem hingeBusy_setHingeData (s : State) (st : Nat) (v : BitVec 64) : hingeBusy (setHingeData s st v) st = hingeBusy s st := by
  simp [hingeBusy, setHingeData]

/-- A command that answers in XL_HINGE_DATA. -/
theorem ended_of_setHingeData {s : State} {st : Nat} {v : BitVec 64} {i : Instr} (h : exec i s = .next (hingeEnd (setHingeData s st v) st 0))
    (busy : hingeBusy s st = true) : ∃ t, exec i s = .next t ∧ CommandEnded t st 0 ∧ FramesKept s t ∧ (hubOf t st).data = v := by
  have busy' : hingeBusy (setHingeData s st v) st = true := (hingeBusy_setHingeData s st v).trans busy
  refine ⟨_, h, hingeEnd_ended busy' (by decide), ?_, by simp [setHingeData]⟩
  rw [hingeEnd_rest]
  exact FramesKept.hub (h := { hubOf s st with data := v })

/-! ### INSTALL -/

/-- A window that takes frames of a tier (R84). -/
def Placeable (w tier : Nat) : Prop := w < 5 ∧ (w = 0 ∨ w = 3 → tier = 0) ∧ (w = 1 ∨ w = 2 → ¬ tier = 0)

theorem not_placeable_iff {w tier : Nat} (h : tier < 2) :
    ¬ Placeable w tier ↔ 5 ≤ w ∨ ((w = 0 ∨ w = 3) ∧ tier = 1) ∨ ((w = 1 ∨ w = 2) ∧ tier = 0) := by
  unfold Placeable
  omega

section
variable {s : State} {st : Nat} (runs : hingeOpen s st 1 = true) (good : hingeBad s st 0x2FFF_0000_07FF_FFFF = false)
include runs good

theorem execHingeInstall_present (present : hState (hingeOf s (hingeFrame s st)) ≠ 0) :
    exec (.hingeInstall st) s = .next (hingeEnd s st 2) := by
  rw [exec_hingeInstall, execHingeInstall, hingeCmd_good runs good]
  simp only [if_pos present]

variable (absent : hState (hingeOf s (hingeFrame s st)) = 0)
include absent

theorem execHingeInstall_misplaced (misplaced : ¬ Placeable (windowOf (hingeFrame s st * 65536)) (hTier (hubOf s st).data)) :
    exec (.hingeInstall st) s = .next (hingeEnd s st 3) := by
  rw [exec_hingeInstall, execHingeInstall, hingeCmd_good runs good]
  simp only [if_neg (not_not.2 absent), if_pos ((not_placeable_iff (hTier_lt _)).1 misplaced)]

variable (placed : Placeable (windowOf (hingeFrame s st * 65536)) (hTier (hubOf s st).data))
include placed

theorem execHingeInstall_missing (missing : frameExists s (hTier (hubOf s st).data) (hPfn (hubOf s st).data) = false) :
    exec (.hingeInstall st) s = .next (hingeEnd s st 4) := by
  rw [exec_hingeInstall, execHingeInstall, hingeCmd_good runs good]
  simp only [if_neg (not_not.2 absent), if_neg (mt (not_placeable_iff (hTier_lt _)).2 (not_not.2 placed)), missing, Bool.not_false, if_true]

variable (there : frameExists s (hTier (hubOf s st).data) (hPfn (hubOf s st).data) = true)
include there

theorem execHingeInstall_used (used : frameUsed s (hTier (hubOf s st).data) (hPfn (hubOf s st).data) = true) :
    exec (.hingeInstall st) s = .next (hingeEnd s st 7) := by
  rw [exec_hingeInstall, execHingeInstall, hingeCmd_good runs good]
  simp only [if_neg (not_not.2 absent), if_neg (mt (not_placeable_iff (hTier_lt _)).2 (not_not.2 placed)), there, used, Bool.not_true,
    Bool.false_eq_true, if_false, if_true]

end

/-- The machine once INSTALL has backed a frame with what the operand names. -/
def installed (s : State) (f : Nat) (d : BitVec 64) : State :=
  markUse { s with hinge := Tab.put s.hinge f (hMake 1 (hTier d) (windowMig (windowOf (f * 65536))) (hCtx d) (hPfn d)) } (hTier d) (hPfn d)

theorem execHingeInstall_free {s : State} {st : Nat} (runs : hingeOpen s st 1 = true) (good : hingeBad s st 0x2FFF_0000_07FF_FFFF = false)
    (absent : hState (hingeOf s (hingeFrame s st)) = 0) (placed : Placeable (windowOf (hingeFrame s st * 65536)) (hTier (hubOf s st).data))
    (there : frameExists s (hTier (hubOf s st).data) (hPfn (hubOf s st).data) = true)
    (free : frameUsed s (hTier (hubOf s st).data) (hPfn (hubOf s st).data) = false) :
    exec (.hingeInstall st) s = .next (frameFreed (hingeEnd (installed s (hingeFrame s st) (hubOf s st).data) st 0) (hingeFrame s st)) := by
  rw [exec_hingeInstall, execHingeInstall, hingeCmd_good runs good]
  simp only [if_neg (not_not.2 absent), if_neg (mt (not_placeable_iff (hTier_lt _)).2 (not_not.2 placed)), there, free, Bool.not_true,
    Bool.false_eq_true, if_false]
  rfl

theorem frameUsed_markUse (s : State) (tier pfn : Nat) : frameUsed (markUse s tier pfn) tier pfn = true := by simp [frameUsed, markUse]

theorem hingeOf_installed (s : State) (f k : Nat) (d : BitVec 64) : hingeOf (installed s f d) k =
    if k = f then hMake 1 (hTier d) (windowMig (windowOf (f * 65536))) (hCtx d) (hPfn d) else hingeOf s k := hingeOf_put s f k _ _ rfl

/-! ### RELEASE -/

section
variable {s : State} {st : Nat} (runs : hingeOpen s st 2 = true) (good : hingeBad s st (BitVec.allOnes 64) = false)
include runs good

theorem execHingeRelease_locked (locked : hState (hingeOf s (hingeFrame s st)) = 2) : exec (.hingeRelease st) s = .next s := by
  rw [exec_hingeRelease, execHingeRelease, hingeCmd_good runs good]
  simp only [locked, if_neg (by decide : ¬ 2 = 0), if_true]

theorem execHingeRelease_absent (absent : hState (hingeOf s (hingeFrame s st)) = 0) : exec (.hingeRelease st) s = .next (hingeEnd s st 6) := by
  rw [exec_hingeRelease, execHingeRelease, hingeCmd_good runs good]
  simp only [absent, if_true]

end

/-- The machine once RELEASE has taken a frame's backing away. -/
def released (s : State) (f : Nat) : State :=
  freeUse { dropFrame (dropFrameEntries s (f * 65536) 65536) f with
    hinge := Tab.store 0 s.hinge f (hingeOf s f &&& 0x3FFF_FFFF_FFFF_FFFF) } (hTier (hingeOf s f)) (hPfn (hingeOf s f))

theorem execHingeRelease_present {s : State} {st : Nat} (runs : hingeOpen s st 2 = true) (good : hingeBad s st (BitVec.allOnes 64) = false)
    (present : hState (hingeOf s (hingeFrame s st)) = 1) :
    exec (.hingeRelease st) s =
      .next (hingeEnd (setHingeData (released s (hingeFrame s st)) st (hingeOf s (hingeFrame s st))) st 0) := by
  rw [exec_hingeRelease, execHingeRelease, hingeCmd_good runs good]
  simp only [present, if_neg (by decide : ¬ 1 = 0), if_neg (by decide : ¬ 1 = 2)]
  rfl

theorem hState_cleared (e : BitVec 64) : hState (e &&& 0x3FFF_FFFF_FFFF_FFFF) = 0 := by
  have low : (e &&& 0x3FFF_FFFF_FFFF_FFFF).toNat < 2 ^ 62 := by
    rw [BitVec.toNat_and]
    exact Nat.lt_of_le_of_lt Nat.and_le_right (by decide)
  rw [hState, bits, Nat.shiftRight_eq_div_pow, Nat.div_eq_of_lt low, Nat.zero_mod]

theorem hingeOf_released (s : State) (f k : Nat) :
    hingeOf (released s f) k = if k = f then hingeOf s f &&& 0x3FFF_FFFF_FFFF_FFFF else hingeOf s k := Tab.fetch_store ..

theorem frameUsed_released (s : State) (f : Nat) : frameUsed (released s f) (hTier (hingeOf s f)) (hPfn (hingeOf s f)) = false := by
  simp [frameUsed, released, freeUse]

theorem released_slices {s : State} {f : Nat} {l : Nat × SLine} (h : l ∈ (released s f).slices) : l.1 / 512 ≠ f := by
  have kept : l ∈ s.slices.filter fun e => !(e.1 / 512 == f) := h
  simpa using (List.mem_filter.1 kept).2

/-! ### DONATE -/

/-- Frames that a hub's pool, those on their way to it counted, or its far list holds. -/
def poolSize (h : Hub) (tier : Nat) : Nat := if tier = 0 then h.pool.length + h.zeroing.length else h.farFree.length

section
variable {s : State} {st : Nat} (runs : hingeOpen s st 4 = true) (good : hingeBad s st 0x2000_0000_07FF_FFFF = false)
  (there : frameExists s (hTier (hubOf s st).data) (hPfn (hubOf s st).data) = true)
  (free : frameUsed s (hTier (hubOf s st).data) (hPfn (hubOf s st).data) = false) (still : (hubOf s st).moves = [])
include runs good there free still

theorem execHingeDonate_full (full : 4096 ≤ poolSize (hubOf s st) (hTier (hubOf s st).data)) :
    exec (.hingeDonate st) s = .next (hingeEnd s st 5) := by
  have noMove : moveRoom s st (hTier (hubOf s st).data) = 0 := by simp [moveRoom, still]
  rw [exec_hingeDonate, execHingeDonate, hingeCmd_good runs good]
  simp only [there, free, noMove, Bool.not_true, Bool.false_eq_true, if_false]
  exact congrArg _ (if_pos full)

theorem execHingeDonate_near (near : hTier (hubOf s st).data = 0) (room : (hubOf s st).pool.length + (hubOf s st).zeroing.length < 4096) :
    exec (.hingeDonate st) s = .next (hingeEnd (later (setHub (markUse s 0 (hPfn (hubOf s st).data)) st
      { hubOf s st with zeroing := (hubOf s st).zeroing ++ [hPfn (hubOf s st).data] }) (.backgroundZeroingComplete st)) st 0) := by
  have noMove : moveRoom s st 0 = 0 := by simp [moveRoom, still]
  rw [near] at there free
  rw [exec_hingeDonate, execHingeDonate, hingeCmd_good runs good]
  simp only [there, free, noMove, Bool.not_true, Bool.false_eq_true, if_false, near, if_true, Nat.add_zero, if_neg (Nat.not_le.2 room)]

theorem execHingeDonate_far (far : ¬ hTier (hubOf s st).data = 0) (room : (hubOf s st).farFree.length < 4096) :
    exec (.hingeDonate st) s = .next (hingeEnd (setHub (markUse s (hTier (hubOf s st).data) (hPfn (hubOf s st).data)) st
      { hubOf s st with farFree := (hubOf s st).farFree ++ [hPfn (hubOf s st).data] }) st 0) := by
  have noMove : moveRoom s st (hTier (hubOf s st).data) = 0 := by simp [moveRoom, still]
  rw [exec_hingeDonate, execHingeDonate, hingeCmd_good runs good]
  simp only [there, free, noMove, Bool.not_true, Bool.false_eq_true, if_false, if_neg far, Nat.add_zero, if_neg (Nat.not_le.2 room)]

end

/-! ### SETAFF and GETAFF -/

theorem toNat_affinity {s : State} {st : Nat} (good : hingeBad s st 0xF = false) : ((hubOf s st).data.setWidth 4).toNat = (hubOf s st).data.toNat := by
  have narrow := data_le_of_good good
  rw [BitVec.toNat_setWidth]
  exact Nat.mod_eq_of_lt (Nat.lt_succ_of_le narrow)

theorem execHingeSetaff_range {s : State} {st : Nat} (runs : hingeOpen s st 5 = true) (good : hingeBad s st 0xF = false)
    (high : 9 ≤ (hubOf s st).data.toNat) : exec (.hingeSetaff st) s = .next (hingeEnd s st 3) := by
  rw [exec_hingeSetaff, execHingeSetaff, hingeCmd_good runs good]
  simp only [toNat_affinity good, if_pos high]

/-- Where no line or cell stands, no granule has any. -/
theorem flushGranule_empty {s : State} (noLines : s.slices = []) (noCells : s.cells = []) (g : Nat) : flushGranule s g = s := by
  simp [flushGranule, noLines, noCells]

/-- The machine once SETAFF has set a granule's affinity. -/
def affinitySet (s : State) (g : Nat) (v : BitVec 4) : State :=
  { dropFrameEntries s (g * 2 ^ 21) (2 ^ 21) with affinity := Tab.store 8 s.affinity g v }

theorem execHingeSetaff_empty {s : State} {st : Nat} (runs : hingeOpen s st 5 = true) (good : hingeBad s st 0xF = false)
    (low : (hubOf s st).data.toNat < 9) (noLines : s.slices = []) (noCells : s.cells = []) :
    exec (.hingeSetaff st) s = .next (hingeEnd (affinitySet s (hingeFrame s st / 32) ((hubOf s st).data.setWidth 4)) st 0) := by
  rw [exec_hingeSetaff, execHingeSetaff, hingeCmd_good runs good]
  simp only [toNat_affinity good, if_neg (Nat.not_le.2 low), flushGranule_empty noLines noCells, noLines, List.any_nil, Bool.false_eq_true, if_false]
  rfl

theorem affinityOf_set (s : State) (g la : Nat) (v : BitVec 4) : affinityOf (affinitySet s g v) la = if la / 2 ^ 21 = g then v else affinityOf s la :=
  Tab.fetch_store ..

/-! ### HINGE_CMD_COMPLETE -/

/-- What is left of a command that has completed: its status, OP and FRAME. -/
theorem completedWord_fields (cmd : BitVec 64) :
    let w := cmd &&& 0x78F0_0000_07FF_FFFF
    bit w.toNat 63 = false ∧ bits w.toNat 62 59 = bits cmd.toNat 62 59 ∧ bits w.toNat 55 52 = bits cmd.toNat 55 52
      ∧ bits w.toNat 26 0 = bits cmd.toNat 26 0 := by
  refine ⟨?_, bits_and_of_ones (by decide), bits_and_of_ones (by decide), bits_and_of_ones (by decide)⟩
  have cleared : (0x78F0_0000_07FF_FFFF#64).getLsbD 63 = false := by decide
  rw [bit_eq_testBit, BitVec.testBit_toNat, BitVec.getLsbD_and]
  exact (congrArg _ cleared).trans (Bool.and_false _)

theorem execHingeCmdComplete_ended {s : State} {st : Nat} (two : st < 2) (busy : hingeBusy s st = true) (ended : (hubOf s st).ended = true) :
    exec (.hingeCmdComplete st) s =
      .next (setHub s st { hubOf s st with cmd := (hubOf s st).cmd &&& 0x78F0_0000_07FF_FFFF, ended := false }) := by
  have completes : ¬ (!hingeBusy s st ∨ !(hubOf s st).ended ∨ 2 ≤ st) := by simp [busy, ended, two]
  rw [exec_hingeCmdComplete, execHingeCmdComplete, if_neg completes]

end Sys2Proof.Machine
end

section
/-! Copies of frames and their clearing, byte by byte (R92, R95). -/
namespace Sys2Proof

/-- The entries of a table at the keys that a test keeps. -/
theorem Tab.find_filter {β : Type} (t : Tab β) (p : Nat → Bool) (k : Nat) :
    Tab.find (t.filter fun e => p e.1) k = if p k then Tab.find t k else none := by
  induction t with
  | nil => simp [Tab.find]
  | cons e t ih =>
    rw [List.filter_cons]
    by_cases own : e.1 = k
    · subst own
      cases h : p e.1 <;> simp_all [Tab.find]
    · cases h : p e.1 <;> simp_all [Tab.find]

/-- A key that an entry of a rising table stands before is not the entry's. -/
theorem Tab.find_of_rising_cons {β : Type} {e : Nat × β} {t : Tab β} (h : (e :: t).Pairwise fun a b => a.1 < b.1) : Tab.find t e.1 = none := by
  rw [← Option.not_isSome_iff_eq_none, Tab.find_isSome_iff]
  intro mem
  obtain ⟨x, hx, same⟩ := List.mem_map.1 mem
  have := (List.pairwise_cons.1 h).1 x hx
  omega

namespace Machine

/-- The bytes of one frame written one after another in another's place: the frame's byte where it has one. -/
theorem read_writes {old new i : Nat} (_ : i < 65536) (cells : List Host.Cell) (rising : cells.Pairwise fun a b => a.1 < b.1)
    (own : ∀ c ∈ cells, c.1 / 65536 = old) (m : List Host.Cell) :
    Memory.read (cells.foldl (fun m c => Memory.write m (new * 65536 + c.1 % 65536) c.2) m) (new * 65536 + i) =
      (Tab.find cells (old * 65536 + i)).getD (Memory.read m (new * 65536 + i)) := by
  induction cells generalizing m with
  | nil => rfl
  | cons c cells ih =>
    have here := own c (List.mem_cons_self ..)
    rw [List.foldl_cons, ih (List.pairwise_cons.1 rising).2 (fun x hx => own x (List.mem_cons_of_mem _ hx)), Memory.read_write]
    by_cases same : c.1 = old * 65536 + i
    · have target : new * 65536 + i = new * 65536 + c.1 % 65536 := by omega
      rw [← same, Tab.find_of_rising_cons rising, if_pos target]
      simp [Tab.find]
    · have target : new * 65536 + i ≠ new * 65536 + c.1 % 65536 := by omega
      rw [if_neg target]
      simp [Tab.find, same]

/-- A frame's copy has the frame's bytes. -/
theorem read_copyFrame {src dst : List Host.Cell} {old new i : Nat} (wf : Memory.wf src = true) (inside : i < 65536) :
    Memory.read (copyFrame src dst old new) (new * 65536 + i) = Memory.read src (old * 65536 + i) := by
  have rising : src.Pairwise fun a b => a.1 < b.1 := by
    simp only [Memory.wf, Tab.wf, Bool.and_eq_true] at wf
    exact (Tab.rising_iff src).1 wf.1
  have page (p : Nat) : (p * 65536 + i) / 65536 = p := by omega
  have source : Tab.find (src.filter fun c => c.1 / 65536 == old) (old * 65536 + i) = Tab.find src (old * 65536 + i) := by
    rw [Tab.find_filter src (fun k => k / 65536 == old), page]
    simp
  have cleared : Memory.read (dst.filter fun c => c.1 / 65536 != new) (new * 65536 + i) = 0 := by
    rw [Memory.read, Tab.fetch, Tab.find_filter dst (fun k => k / 65536 != new), page]
    simp
  rw [copyFrame, read_writes inside _ (rising.sublist List.filter_sublist) (fun c hc => by simpa using (List.mem_filter.1 hc).2), source, cleared]
  rfl

/-- A cleared near frame reads as zeros, and every other as before (R93). -/
theorem read_zeroNear (s : State) (p a : Nat) : Memory.read (zeroNear s p).near a = if a / 65536 = p then 0 else Memory.read s.near a := by
  have cleared : Tab.find (zeroNear s p).near a = if !(a / 65536 == p) then Tab.find s.near a else none :=
    Tab.find_filter s.near (fun k => !(k / 65536 == p)) a
  rw [Memory.read, Tab.fetch, cleared]
  by_cases own : a / 65536 = p <;> simp [own, Memory.read, Tab.fetch]

end Machine
end Sys2Proof
end

section
/-! Background zeroing (R95) and migration (R91, R92). -/
namespace Sys2Proof.Machine

theorem execBackgroundZeroingComplete_next {s : State} {st p : Nat} {ps : List Nat} (two : st < 2) (next : (hubOf s st).zeroing = p :: ps) :
    exec (.backgroundZeroingComplete st) s =
      .next (poolFilled (zeroNear (setHub s st { hubOf s st with zeroing := ps, pool := (hubOf s st).pool ++ [p] }) p) st) := by
  rw [exec_backgroundZeroingComplete]
  unfold execBackgroundZeroingComplete
  simp only [if_neg (Nat.not_le.2 two), next]

theorem execMigrationEpochEnd_off {s : State} {st : Nat} (two : st < 2) (off : bit (hubOf s st).tier.toNat 1 = false) :
    exec (.migrationEpochEnd st) s = .next (setHub s st { hubOf s st with counts := (hubOf s st).counts.map fun c => (c.1, c.2 / 2) }) := by
  rw [exec_migrationEpochEnd]
  unfold execMigrationEpochEnd
  simp only [if_neg (Nat.not_le.2 two), off, Bool.false_eq_true, if_false]

/-! ### The end of a move -/

/-- A frame of a move, given up or made, whose entry is unlocked. -/
structure MoveEnded (t : State) (st f tier pfn : Nat) : Prop where
  state : hState (hingeOf t f) = 1
  tier : hTier (hingeOf t f) = tier
  pfn : hPfn (hingeOf t f) = pfn
  move : moveOf t st f = none

/-- The machine once a move is off its hub's list and the frame's entry unlocked. -/
def unlocked (s : State) (st f tier pfn : Nat) : State :=
  { dropMove s st f with hinge := Tab.put s.hinge f (hMake 1 tier (hMig (hingeOf s f)) (hCtx (hingeOf s f)) pfn) }

theorem unlocked_ended {s t : State} {st f tier pfn : Nat} {h : Hub} (tierOk : tier < 2) (pfnOk : pfn < 2 ^ 27)
    (moves : h.moves = (hubOf (unlocked s st f tier pfn) st).moves) (after : Awaits (setHub (unlocked s st f tier pfn) st h) t) :
    MoveEnded t st f tier pfn := by
  have entry : hingeOf t f = hMake 1 tier (hMig (hingeOf s f)) (hCtx (hingeOf s f)) pfn := by
    rw [hingeOf_put s f f _ t (by rw [after.same]; exact setHub_hinge ..), if_pos rfl]
  have left : (hubOf t st).moves = (hubOf s st).moves.filter fun m => m.1 != f := by
    have hub : hubOf t st = h := by rw [after.same]; exact hubOf_setHub ..
    rw [hub, moves]
    exact congrArg Hub.moves (hubOf_setHub s st _)
  refine ⟨?_, ?_, ?_, ?_⟩
  · rw [entry, hState_hMake (by decide) tierOk (hCtx_lt _) pfnOk]
  · rw [entry, hTier_hMake (by decide) tierOk (hCtx_lt _) pfnOk]
  · rw [entry, hPfn_hMake (by decide) tierOk (hCtx_lt _) pfnOk]
  · rw [moveOf, left]
    exact List.find?_eq_none.2 fun m hm => by simpa using (List.mem_filter.1 hm).2

/-! ### A move given up -/

theorem returnFrame_awaits (s : State) (st tier pfn : Nat) :
    ∃ h, h.moves = (hubOf s st).moves ∧ Awaits (setHub s st h) (returnFrame s st tier pfn) := by
  unfold returnFrame
  simp only
  split
  · exact ⟨{ hubOf s st with pool := pfn :: (hubOf s st).pool }, rfl, poolFilled_awaits _ st⟩
  · exact ⟨{ hubOf s st with farFree := pfn :: (hubOf s st).farFree }, rfl, .refl⟩

/-- The entry is as before the lock, and no byte of a frame has changed (R92). -/
theorem abortMove_ended (s : State) (st f pfn : Nat) :
    MoveEnded (abortMove s st f pfn) st f (hTier (hingeOf s f)) (hPfn (hingeOf s f))
      ∧ (abortMove s st f pfn).near = s.near ∧ (abortMove s st f pfn).far = s.far := by
  obtain ⟨h, moves, returned⟩ :=
    returnFrame_awaits (unlocked s st f (hTier (hingeOf s f)) (hPfn (hingeOf s f))) st (1 - hTier (hingeOf s f)) pfn
  have aborted : Awaits _ (abortMove s st f pfn) := returned.trans (frameFreed_awaits _ f)
  refine ⟨unlocked_ended (hTier_lt _) (hPfn_lt _) moves aborted, ?_, ?_⟩ <;> rw [aborted.same]
  · exact (setHub_near ..).trans (setHub_near ..)
  · exact (setHub_far ..).trans (setHub_far ..)

theorem execMigrationCopyComplete_late {s : State} {st k pfn b : Nat} (two : st < 2) (move : moveOf s st k = some (k, pfn, b))
    (late : b + 40000 < s.time ∨ moveTargetDead s k pfn = true) :
    exec (.migrationCopyComplete st k) s = .next (abortMove s st k pfn) := by
  rw [exec_migrationCopyComplete]
  unfold execMigrationCopyComplete
  simp only [move, if_neg (Nat.not_le.2 two), if_pos late]

theorem execMigrationLockTimeout_late {s : State} {st k pfn b n : Nat} (two : st < 2) (move : moveOf s st k = some (k, pfn, b))
    (late : b + 40000 ≤ max s.time n) : exec (.migrationLockTimeout st k n) s = .next (abortMove (atTime s n) st k pfn) := by
  have move' : moveOf (atTime s n) st k = some (k, pfn, b) := move
  have late' : b + 40000 ≤ (atTime s n).time ∧ st < 2 := ⟨late, two⟩
  rw [exec_migrationLockTimeout]
  unfold execMigrationLockTimeout
  simp only [move', if_pos late']

/-! ### A move made -/

/-- The machine once the bytes of a frame have been copied to its new place (R92). -/
def copied (s : State) (f pfn : Nat) : State :=
  let c := cleanFrame s (1 - hTier (hingeOf s f)) pfn
  if hTier (hingeOf s f) = 1 then { c with near := copyFrame s.far s.near (hPfn (hingeOf s f)) pfn }
  else { c with far := copyFrame s.near s.far (hPfn (hingeOf s f)) pfn }

theorem copied_rest (s : State) (f pfn : Nat) : copied s f pfn =
    { s with near := (copied s f pfn).near, far := (copied s f pfn).far, poison := (copied s f pfn).poison, badCheck := (copied s f pfn).badCheck } := by
  unfold copied
  simp only
  split <;> rfl

theorem hingeOf_copied (s : State) (f pfn k : Nat) : hingeOf (copied s f pfn) k = hingeOf s k := by rw [copied_rest]; rfl

theorem finishMove_awaits (s : State) (st f pfn : Nat) :
    let u := unlocked (copied s f pfn) st f (1 - hTier (hingeOf s f)) pfn
    ∃ h, h.moves = (hubOf u st).moves ∧ Awaits (setHub u st h) (finishMove s st f pfn) := by
  intro u
  let old := hPfn (hingeOf s f)
  have made : finishMove s st f pfn = frameFreed (if hTier (hingeOf s f) = 0 then
        later (setHub u st { hubOf u st with zeroing := (hubOf u st).zeroing ++ [old] }) (.backgroundZeroingComplete st)
      else setHub u st { hubOf u st with farFree := (hubOf u st).farFree ++ [old] }) f := by
    simp only [u, unlocked, hingeOf_copied]
    rfl
  rw [made]
  split
  · exact ⟨{ hubOf u st with zeroing := (hubOf u st).zeroing ++ [old] }, rfl, (Awaits.refl.later _).trans (frameFreed_awaits _ f)⟩
  · exact ⟨{ hubOf u st with farFree := (hubOf u st).farFree ++ [old] }, rfl, frameFreed_awaits _ f⟩

theorem finishMove_ended {s : State} {st f pfn : Nat} (pfnOk : pfn < 2 ^ 27) :
    MoveEnded (finishMove s st f pfn) st f (1 - hTier (hingeOf s f)) pfn
      ∧ (finishMove s st f pfn).near = (copied s f pfn).near ∧ (finishMove s st f pfn).far = (copied s f pfn).far := by
  obtain ⟨h, moves, made⟩ := finishMove_awaits s st f pfn
  refine ⟨unlocked_ended (Nat.lt_of_le_of_lt (Nat.sub_le ..) (by decide)) pfnOk moves made, ?_, ?_⟩ <;> rw [made.same]
  · exact (setHub_near ..).trans (setHub_near ..)
  · exact (setHub_far ..).trans (setHub_far ..)

/-- A byte of a backed frame lies in near or in far memory. -/
theorem frameByte_of_backed {s : State} {f i : Nat} (inside : i < 65536) (backed : hState (hingeOf s f) ≠ 0) :
    frameByte s (65536 * f + i) = Memory.read (if hTier (hingeOf s f) = 0 then s.near else s.far) (hPfn (hingeOf s f) * 65536 + i) := by
  have frame : (65536 * f + i) / 65536 = f := by omega
  have place : (65536 * f + i) % 65536 = i := by omega
  unfold frameByte
  simp only [frame, place, if_neg backed]
  split <;> rfl

theorem copied_near {s : State} {f : Nat} (far : hTier (hingeOf s f) = 1) (pfn : Nat) :
    (copied s f pfn).near = copyFrame s.far s.near (hPfn (hingeOf s f)) pfn := congrArg State.near (if_pos far)

theorem copied_far {s : State} {f : Nat} (near : hTier (hingeOf s f) = 0) (pfn : Nat) :
    (copied s f pfn).far = copyFrame s.near s.far (hPfn (hingeOf s f)) pfn := congrArg State.far (if_neg (by rw [near]; decide))

/-- Every byte of the frame reads as it did, from its new place (R92). -/
theorem frameByte_finishMove {s : State} {st f pfn i : Nat} (wf : s.memWf = true) (locked : hState (hingeOf s f) = 2) (pfnOk : pfn < 2 ^ 27)
    (inside : i < 65536) : frameByte (finishMove s st f pfn) (65536 * f + i) = frameByte s (65536 * f + i) := by
  obtain ⟨ended, near, far⟩ := finishMove_ended (s := s) (st := st) (f := f) pfnOk
  obtain ⟨nearWf, farWf, -⟩ := (State.memWf_iff s).1 wf
  rw [frameByte_of_backed inside (by rw [ended.state]; decide), frameByte_of_backed inside (by rw [locked]; decide), ended.tier, ended.pfn, near, far]
  rcases Nat.lt_succ_iff_lt_or_eq.1 (hTier_lt (hingeOf s f)) with low | isFar
  · have isNear : hTier (hingeOf s f) = 0 := Nat.lt_one_iff.1 low
    rw [copied_far isNear, isNear, if_neg (by decide), if_pos rfl]
    exact read_copyFrame nearWf inside
  · rw [copied_near isFar, isFar, if_pos rfl, if_neg (by decide)]
    exact read_copyFrame farWf inside

theorem execMigrationCopyComplete_good {s : State} {st k pfn b : Nat} (two : st < 2) (move : moveOf s st k = some (k, pfn, b))
    (soon : s.time ≤ b + 40000) (source : moveSourceDead s k = false) (target : moveTargetDead s k pfn = false)
    (sound : ∀ x ∈ s.badCheck ++ s.poison, ¬ (x.sp = .frame (hTier (hingeOf s k)) ∧ x.addr / 65536 = hPfn (hingeOf s k))) :
    exec (.migrationCopyComplete st k) s = .next (finishMove s st k pfn) := by
  have inTime : ¬ (b + 40000 < s.time ∨ moveTargetDead s k pfn = true) := by simp [target, soon]
  have noneBad : (s.badCheck ++ s.poison).filter (fun x => x.sp == .frame (hTier (hingeOf s k)) && x.addr / 65536 == hPfn (hingeOf s k)) = [] :=
    List.filter_eq_nil_iff.2 fun x hx => by simpa using sound x hx
  rw [exec_migrationCopyComplete]
  unfold execMigrationCopyComplete
  simp only [move, if_neg (Nat.not_le.2 two), if_neg inTime, source, noneBad, Bool.false_eq_true, if_false, List.isEmpty_nil, if_true]

end Sys2Proof.Machine
end

section
/-! The hinge's events as they are stated (R86 to R95). -/
namespace Sys2Proof.Machine

/-- Reserved bits of the operand make INSTALL, DONATE and SETAFF end with BADOP (R88). -/
theorem ended_of_reserved {s : State} {st op : Nat} {i : Instr} (hi : (op, i) ∈ [(1, Instr.hingeInstall st), (4, .hingeDonate st), (5, .hingeSetaff st)])
    (runs : hingeOpen s st op = true) (reserved : (hubOf s st).data.toNat / 2 ^ 62 ≠ 0) :
    ∃ t, exec i s = .next t ∧ CommandEnded t st 1 ∧ FramesKept s t := by
  refine ended_of_hingeEnd ?_ (hingeOpen_busy runs) (by decide)
  simp only [List.mem_cons, Prod.mk.injEq, List.not_mem_nil, or_false] at hi
  rcases hi with ⟨rfl, rfl⟩ | ⟨rfl, rfl⟩ | ⟨rfl, rfl⟩
  · exact (exec_hingeInstall st s).trans (hingeCmd_bad runs (hingeBad_of_reserved (by decide) reserved) _)
  · exact (exec_hingeDonate st s).trans (hingeCmd_bad runs (hingeBad_of_reserved (by decide) reserved) _)
  · exact (exec_hingeSetaff st s).trans (hingeCmd_bad runs (hingeBad_of_reserved (by decide) reserved) _)

/-- A command that writes its hub's lists and marks a frame used (R88, DONATE). -/
theorem donated_ended {s : State} {st tier pfn : Nat} {h : Hub} (busy : hingeBusy s st = true) (cmd : h.cmd = (hubOf s st).cmd) {t u : State}
    (awaits : Awaits (setHub (markUse s tier pfn) st h) u) (made : t = hingeEnd u st 0) :
    CommandEnded t st 0 ∧ (hubOf t st).zeroing = h.zeroing ∧ (hubOf t st).farFree = h.farFree ∧ frameUsed t tier pfn = true
      ∧ ∀ i ∈ u.agenda, i ∈ t.agenda := by
  have hub : hubOf u st = h := by
    rw [awaits.same]
    exact hubOf_setHub (markUse s tier pfn) st h
  have busy' : hingeBusy u st = true := by
    rw [hingeBusy, hub, cmd]
    exact busy
  have inUse : t.inUse = (markUse s tier pfn).inUse := by
    rw [made, hingeEnd_rest, awaits.same]
    exact setHub_inUse ..
  refine ⟨made ▸ hingeEnd_ended busy' (by decide), ?_, ?_, ?_, fun i hi => ?_⟩
  · rw [made, hubOf_hingeEnd, hub]
  · rw [made, hubOf_hingeEnd, hub]
  · rw [frameUsed, inUse]
    exact frameUsed_markUse s tier pfn
  · rw [made]
    exact List.mem_append_left _ (by rwa [setHub_agenda])

/-- A SETAFF that is not refused sets the granule's affinity and no other's (R90). -/
theorem affinitySet_ended {s : State} {st g : Nat} {v : BitVec 4} (busy : hingeBusy s st = true) {t : State}
    (made : t = hingeEnd (affinitySet s g v) st 0) : CommandEnded t st 0 ∧ ∀ la, affinityOf t la = affinityOf (affinitySet s g v) la := by
  refine ⟨made ▸ hingeEnd_ended busy (by decide), fun la => ?_⟩
  rw [made, hingeEnd_rest]
  rfl

/-- A frame that has been cleared is on the pool (R95). -/
theorem zeroed_ended {s : State} {st p : Nat} {h : Hub} {t : State} (made : t = poolFilled (zeroNear (setHub s st h) p) st) :
    hubOf t st = h ∧ ∀ a, Memory.read t.near a = if a / 65536 = p then 0 else Memory.read s.near a := by
  have awaits : Awaits (zeroNear (setHub s st h) p) t := made ▸ poolFilled_awaits _ st
  constructor
  · rw [awaits.same]
    exact hubOf_setHub s st h
  · intro a
    have bytes := read_zeroNear (setHub s st h) p a
    rw [setHub_near] at bytes
    rw [awaits.same]
    exact bytes

/-- An INSTALL that is not refused backs the frame and no other (R88). -/
theorem installed_ended {s : State} {st f : Nat} {d : BitVec 64} (busy : hingeBusy s st = true) {t : State}
    (made : t = frameFreed (hingeEnd (installed s f d) st 0) f) :
    CommandEnded t st 0 ∧ frameUsed t (hTier d) (hPfn d) = true ∧ ∀ k, hingeOf t k = hingeOf (installed s f d) k := by
  have awaits : Awaits (hingeEnd (installed s f d) st 0) t := made ▸ frameFreed_awaits _ f
  refine ⟨awaits.commandEnded (hingeEnd_ended busy (by decide)), ?_, fun k => ?_⟩ <;> rw [awaits.same, hingeEnd_rest]
  · exact frameUsed_markUse _ _ _
  · rfl

/-- A RELEASE that is not refused takes one frame's backing away, with all that the slices hold of it (R88). -/
theorem released_ended {s : State} {st f : Nat} (busy : hingeBusy s st = true) {t : State}
    (made : t = hingeEnd (setHingeData (released s f) st (hingeOf s f)) st 0) :
    CommandEnded t st 0 ∧ (hubOf t st).data = hingeOf s f ∧ frameUsed t (hTier (hingeOf s f)) (hPfn (hingeOf s f)) = false
      ∧ (∀ k, hingeOf t k = hingeOf (released s f) k) ∧ t.slices = (released s f).slices := by
  have busy' : hingeBusy (setHingeData (released s f) st (hingeOf s f)) st = true := by
    rw [hingeBusy_setHingeData]
    exact busy
  obtain ⟨hinge, inUse, -, -, -⟩ := hingeEnd_kept (setHingeData (released s f) st (hingeOf s f)) st 0
  rw [← made] at hinge inUse
  refine ⟨made ▸ hingeEnd_ended busy' (by decide), ?_, ?_, fun k => ?_, ?_⟩
  · rw [made, hubOf_hingeEnd, setHingeData, hubOf_setHub]
  · rw [frameUsed, inUse, setHingeData, setHub_inUse]
    exact frameUsed_released s f
  · rw [hingeOf, hinge, setHingeData, setHub_hinge]
    rfl
  · rw [made, hingeEnd_rest]
    exact setHub_slices ..

/-- Settles O42: each event by the one operation that it makes. -/
theorem hingeEvents : Obligations.HingeEvents := by
  unfold Obligations.HingeEvents
  intro s st two h f d e w near ended same placed
  refine ⟨fun op i hi runs reserved => ended_of_reserved hi runs reserved, fun runs good => ?_, fun runs good => ?_, fun runs good => ?_,
    fun runs good there free still => ?_, fun runs good => ?_, fun runs good => ?_, fun busy done => ?_, fun p ps next => ?_, fun off => ?_,
    fun k pfn b wf move locked pfnOk soon source target sound => ?_, fun k pfn b move late => ?_, fun k pfn b n move late => ?_⟩
  case refine_1 =>
    have busy := hingeOpen_busy runs
    refine ⟨fun present => ?_, fun absent misplaced => ?_, fun absent placed missing => ?_, fun absent placed there used => ?_,
      fun absent placed there free => ?_⟩
    · exact ended_of_hingeEnd (execHingeInstall_present runs good present) busy (by decide)
    · exact ended_of_hingeEnd (execHingeInstall_misplaced runs good absent misplaced) busy (by decide)
    · exact ended_of_hingeEnd (execHingeInstall_missing runs good absent placed missing) busy (by decide)
    · exact ended_of_hingeEnd (execHingeInstall_used runs good absent placed there used) busy (by decide)
    · obtain ⟨done, marked, entries⟩ := installed_ended busy rfl
      have backed := (entries f).trans ((hingeOf_installed s f f d).trans (if_pos rfl))
      refine ⟨_, execHingeInstall_free runs good absent placed there free, done, marked, ?_, ?_, ?_, ?_, ?_, fun k other => ?_⟩
      · rw [backed, hState_hMake (by decide) (hTier_lt _) (hCtx_lt _) (hPfn_lt _)]
      · rw [backed, hTier_hMake (by decide) (hTier_lt _) (hCtx_lt _) (hPfn_lt _)]
      · rw [backed, hPfn_hMake (by decide) (hTier_lt _) (hCtx_lt _) (hPfn_lt _)]
      · rw [backed, hCtx_hMake (by decide) (hTier_lt _) (hCtx_lt _) (hPfn_lt _)]
      · rw [backed, hMig_hMake (by decide) (hTier_lt _) (hCtx_lt _) (hPfn_lt _)]
      · exact (entries k).trans ((hingeOf_installed s f k d).trans (if_neg other))
  case refine_2 =>
    have busy := hingeOpen_busy runs
    refine ⟨fun locked => execHingeRelease_locked runs good locked,
      fun absent => ended_of_hingeEnd (execHingeRelease_absent runs good absent) busy (by decide), fun present => ?_⟩
    obtain ⟨done, data, freed, entries, slices⟩ := released_ended (f := f) busy rfl
    have own := (entries f).trans ((hingeOf_released s f f).trans (if_pos rfl))
    exact ⟨_, execHingeRelease_present runs good present, done, own, own ▸ hState_cleared e, data, freed,
      fun k other => (entries k).trans ((hingeOf_released s f k).trans (if_neg other)), fun l hl => released_slices (slices ▸ hl)⟩
  case refine_3 =>
    exact ended_of_setHingeData ((exec_hingeRead st s).trans (hingeCmd_good runs good _)) (hingeOpen_busy runs)
  case refine_4 =>
    have busy := hingeOpen_busy runs
    refine ⟨fun isNear room => ?_, fun isFar room => ?_, fun full => ?_⟩
    · obtain ⟨done, queued, -, marked, left⟩ := donated_ended (tier := 0) (pfn := hPfn d)
        (h := { h with zeroing := h.zeroing ++ [hPfn d] }) busy rfl (Awaits.refl.later (.backgroundZeroingComplete st)) rfl
      exact ⟨_, execHingeDonate_near runs good there free still isNear room, done, queued, marked,
        left _ (List.mem_append_right _ (List.mem_singleton.2 rfl))⟩
    · obtain ⟨done, -, queued, marked, -⟩ := donated_ended (tier := hTier d) (pfn := hPfn d)
        (h := { h with farFree := h.farFree ++ [hPfn d] }) busy rfl .refl rfl
      have far : hTier d = 1 := by have := hTier_lt d; omega
      exact ⟨_, execHingeDonate_far runs good there free still isFar room, done, queued, far ▸ marked⟩
    · exact ended_of_hingeEnd (execHingeDonate_full runs good there free still full) busy (by decide)
  case refine_5 =>
    have busy := hingeOpen_busy runs
    refine ⟨fun high => ended_of_hingeEnd (execHingeSetaff_range runs good high) busy (by decide), fun low noLines noCells => ?_⟩
    obtain ⟨done, affinity⟩ := affinitySet_ended (g := f / 32) (v := d.setWidth 4) busy rfl
    refine ⟨_, execHingeSetaff_empty runs good low noLines noCells, done, fun la => ?_⟩
    rw [affinity, affinityOf_set, apply_ite BitVec.toNat, toNat_affinity good]
  case refine_6 =>
    obtain ⟨t, runs', done, kept, data⟩ := ended_of_setHingeData ((exec_hingeGetaff st s).trans (hingeCmd_good runs good _)) (hingeOpen_busy runs)
    refine ⟨t, runs', done, kept, ?_⟩
    rw [data, BitVec.toNat_setWidth]
    exact Nat.mod_eq_of_lt (Nat.lt_trans (affinityOf s (f * 65536)).isLt (by decide))
  case refine_7 =>
    obtain ⟨busy', status, op, frame⟩ := completedWord_fields h.cmd
    refine ⟨_, execHingeCmdComplete_ended two busy done, FramesKept.hub, ?_, ?_, ?_, ?_⟩
    · rw [hingeBusy, hubOf_setHub]; exact busy'
    · rw [hubOf_setHub]; exact status
    · rw [hingeOp, hubOf_setHub]; exact op
    · rw [hingeFrame, hubOf_setHub]; exact frame
  case refine_8 =>
    obtain ⟨hub, bytes⟩ := zeroed_ended (s := s) (p := p) (h := { h with zeroing := ps, pool := h.pool ++ [p] }) rfl
    exact ⟨_, execBackgroundZeroingComplete_next two next, congrArg Hub.zeroing hub, congrArg Hub.pool hub, bytes⟩
  case refine_9 =>
    exact ⟨_, execMigrationEpochEnd_off two off, FramesKept.hub, by rw [hubOf_setHub]⟩
  case refine_10 =>
    obtain ⟨⟨state, tier, place, left⟩, -, -⟩ := finishMove_ended (s := s) (st := st) (f := k) pfnOk
    exact ⟨_, execMigrationCopyComplete_good two move soon source target sound, state, tier, place, left,
      fun i inside => frameByte_finishMove wf locked pfnOk inside⟩
  case refine_11 =>
    obtain ⟨⟨state, tier, place, left⟩, bytes⟩ := abortMove_ended s st k pfn
    exact ⟨_, execMigrationCopyComplete_late two move late, state, tier, place, left, bytes⟩
  case refine_12 =>
    obtain ⟨⟨state, tier, place, left⟩, bytes⟩ := abortMove_ended (atTime s n) st k pfn
    exact ⟨_, execMigrationLockTimeout_late two move late, state, tier, place, left, bytes⟩

end Sys2Proof.Machine
end

section
/-! The groups under the operations of memory and of the fabric: bytes, check values, lines and cells leave them as they are. -/
namespace Sys2Proof.Machine

/-! ### Check values and slices -/

@[simp] theorem setPoison_groups (s : State) (x : Loc) (p : Bool) : (setPoison s x p).groups = s.groups := rfl
@[simp] theorem sectorRec_groups (s : State) (ctx cls : Nat) (l : Loc) : (sectorRec s ctx cls l).groups = s.groups := rfl
@[simp] theorem carrySector_groups (s : State) (x y : Loc) : (carrySector s x y).groups = s.groups := rfl
@[simp] theorem dropLines_groups (s : State) (p : Nat → Bool) : (dropLines s p).groups = s.groups := rfl
@[simp] theorem chargeRec_groups (s : State) (ctx : Nat) (r : Rec) : (chargeRec s ctx r).groups = s.groups := rfl

@[simp] theorem poisonPlaces_groups (s : State) (ls : List Loc) : (poisonPlaces s ls).groups = s.groups :=
  foldl_same State.groups _ (fun _ _ => setPoison_groups ..) _ s

@[simp] theorem setHub_groups (s : State) (st : Nat) (h : Hub) : (setHub s st h).groups = s.groups := by unfold setHub; split <;> rfl
@[simp] theorem touchCount_groups (s : State) (f : Nat) : (touchCount s f).groups = s.groups := by simp [touchCount]

@[simp] theorem chargeCut_groups (s : State) (ctx : Nat) (ls : List Loc) : (chargeCut s ctx ls).groups = s.groups := by
  unfold chargeCut
  split
  · rfl
  · exact foldl_same State.groups _ (fun _ _ => sectorRec_groups ..) _ s

@[simp] theorem verifyPlaces_groups (s : State) (ctx : Nat) (ls : List Loc) : (verifyPlaces s ctx ls).groups = s.groups := by
  unfold verifyPlaces
  split
  · rfl
  · exact foldl_same State.groups _ (fun _ _ => by split <;> rfl) _ s

@[simp] theorem setFrameByte_groups (s : State) (la : Nat) (b : BitVec 8) : (setFrameByte s la b).groups = s.groups := by
  simp only [setFrameByte]
  repeat' split
  all_goals rfl

@[simp] theorem flushBytes_groups (s : State) (line : Nat) (l : SLine) : (flushBytes s line l).groups = s.groups := by
  simp only [flushBytes]
  split
  · exact foldl_same State.groups _ (fun _ _ => sectorRec_groups ..) _ s
  · rw [foldl_same State.groups _ (fun s i => by split <;> simp), foldl_same State.groups _ (fun s x => by split <;> rfl)]
    split <;> simp

@[simp] theorem giveUpLine_groups (s : State) (slice : Nat) : (giveUpLine s slice).groups = s.groups := by
  unfold giveUpLine
  repeat' split
  all_goals simp

@[simp] theorem sliceRoom_groups (s : State) (slice : Nat) : (sliceRoom s slice).groups = s.groups := by unfold sliceRoom; split <;> simp

@[simp] theorem fillSector_groups (s : State) (x : Loc) : (fillSector s x).groups = s.groups := by
  unfold fillSector
  repeat' split
  all_goals rfl

@[simp] theorem fillSlice_groups (s : State) (line : Nat) : (fillSlice s line).groups = s.groups := by
  simp only [fillSlice]
  repeat' split
  all_goals simp [foldl_same State.groups _ fillSector_groups]

@[simp] theorem fillLines_groups (s : State) (ls : List Loc) : (fillLines s ls).groups = s.groups :=
  foldl_same State.groups _ fillSlice_groups _ s

@[simp] theorem mergePlaces_groups (s : State) (ctx : Nat) (ls : List Loc) : (mergePlaces s ctx ls).groups = s.groups := by
  simp only [mergePlaces]
  split
  · simp
  · rw [foldl_same State.groups, fillLines_groups, chargeCut_groups]
    intro s x
    repeat' split
    all_goals rfl

@[simp] theorem meetSector_groups (ctx : Nat) (s : State) (l : Loc) : (meetSector ctx s l).groups = s.groups := by
  unfold meetSector
  repeat' split
  all_goals simp

@[simp] theorem verifyLines_groups (s : State) (ctx : Nat) (ls : List Loc) : (verifyLines s ctx ls).groups = s.groups := by
  simp [verifyLines, chargeBad, foldl_same State.groups _ (meetSector_groups ctx)]

/-! ### Bytes at their homes -/

@[simp] theorem putSliceByte_groups (s : State) (ctx la : Nat) (b : BitVec 8) : (putSliceByte s ctx la b).groups = s.groups := by
  simp only [putSliceByte]
  repeat' split
  all_goals simp

@[simp] theorem putHostByte_groups (s : State) (t : Nat) (b : BitVec 8) : (putHostByte s t b).groups = s.groups := by
  unfold putHostByte; split <;> rfl

@[simp] theorem putRaw_groups (s : State) (ctx : Nat) (host : Bool) (a n v : Nat) : (putRaw s ctx host a n v).groups = s.groups := by
  induction n generalizing s a v with
  | zero => rfl
  | succ n ih => rw [putRaw, ih]; split <;> simp

@[simp] theorem roundCell_groups (s : State) (c : Cell) : (roundCell s c).groups = s.groups := by simp only [roundCell]; split <;> simp
@[simp] theorem retireCell_groups (s : State) (c : Cell) : (retireCell s c).groups = s.groups := roundCell_groups _ c
@[simp] theorem retireAt_groups (s : State) (host : Bool) (a : Nat) : (retireAt s host a).groups = s.groups :=
  foldl_same State.groups _ retireCell_groups _ s

@[simp] theorem setLogByte_groups (s : State) (ctx la : Nat) (b : BitVec 8) : (setLogByte s ctx la b).groups = s.groups := by
  unfold setLogByte; split <;> simp
@[simp] theorem setHostByte_groups (s : State) (t : Nat) (b : BitVec 8) : (setHostByte s t b).groups = s.groups := by
  unfold setHostByte; split <;> simp

@[simp] theorem putLogBytes_groups (s : State) (ctx la : Nat) (bs : List (BitVec 8)) : (putLogBytes s ctx la bs).groups = s.groups := by
  induction bs generalizing s la with
  | nil => rfl
  | cons b bs ih => rw [putLogBytes, ih, setLogByte_groups]

@[simp] theorem setLogBytes_groups (s : State) (ctx la : Nat) (bs : List (BitVec 8)) : (setLogBytes s ctx la bs).groups = s.groups := by
  simp [setLogBytes]

/-! ### Surfaces -/

@[simp] theorem putRawFrom_groups (s : State) (k : Nat) (bs : List (BitVec 8)) : (putRawFrom s k bs).groups = s.groups := by
  induction bs generalizing s k with
  | nil => rfl
  | cons b bs ih => rw [putRawFrom, ih]

@[simp] theorem putBlock_groups (s : State) (h : Nat) (f : Surf) (n : Nat) (st : BState) (bs : List (BitVec 8)) :
    (putBlock s h f n st bs).groups = s.groups := putRawFrom_groups s _ bs

@[simp] theorem writeBlock_groups (s : State) (h : Nat) (f : Surf) (cv : Bool) (n : Nat) (ws : List (Nat × BitVec 8)) :
    (writeBlock s h f cv n ws).groups = s.groups := by
  simp only [writeBlock]
  repeat' split
  all_goals simp

@[simp] theorem carryForm_groups (h : Nat) (f : Surf) (cv : Bool) (s : State) (n : Nat) : (carryForm h f cv s n).groups = s.groups := by
  have carried : (carryPoison h f s n).groups = s.groups := by
    simp only [carryPoison]
    rw [foldl_same State.groups _ fun _ _ => setPoison_groups ..]
    simp
  unfold carryForm
  split <;> simp [carried]

@[simp] theorem writeSurf_groups (s : State) (h : Nat) (cv : Bool) (ws : List (Nat × BitVec 8)) : (writeSurf s h cv ws).groups = s.groups := by
  unfold writeSurf
  split
  · rw [foldl_same State.groups _ fun _ _ => writeBlock_groups .., mergePlaces_groups, foldl_same State.groups _ fun _ _ => carryForm_groups ..]
  · rfl

/-! ### Exact-sum cells -/

@[simp] theorem bumpRetired_groups (s : State) (st : Nat) : (bumpRetired s st).groups = s.groups := by simp only [bumpRetired]; split <;> rfl
@[simp] theorem parkCell_groups (s : State) (c : Cell) : (parkCell s c).groups = s.groups := by simp [parkCell]
@[simp] theorem parkedValue_groups (s : State) (c : Cell) : (parkedValue s c).1.groups = s.groups := by simp [parkedValue]
@[simp] theorem retireParked_groups (s : State) (slice : Nat) : (retireParked s slice).groups = s.groups := by
  unfold retireParked; split <;> simp

@[simp] theorem cellRoom_groups (s : State) (slice : Nat) : (cellRoom s slice).groups = s.groups := by
  simp only [cellRoom]
  repeat' split
  all_goals simp

@[simp] theorem touchCell_groups (s : State) (c : Cell) : (touchCell s c).1.groups = s.groups := by
  simp only [touchCell]; split <;> simp

@[simp] theorem readCells_groups (s : State) (host : Bool) (a n : Nat) : (readCells s host a n).groups = s.groups :=
  foldl_same State.groups _ (fun s c => by split <;> simp) _ s

@[simp] theorem readCellsAt_groups (s : State) (ls : List Loc) : (readCellsAt s ls).groups = s.groups := by
  unfold readCellsAt
  split
  · rfl
  · exact foldl_same State.groups _ (fun s l => by split <;> simp) _ s

@[simp] theorem touchPlaces_groups (s : State) (ctx : Nat) (ls : List Loc) : (touchPlaces s ctx ls).groups = s.groups := by simp [touchPlaces]

@[simp] theorem contribute_groups (s : State) (ctx : Nat) (l : Loc) (fmt : Nat) (v : BitVec 32) : (contribute s ctx l fmt v).groups = s.groups := by
  have retired (f : Cell → Bool) : ((s.cells.filter f).foldl retireCell s).groups = s.groups := foldl_same State.groups _ retireCell_groups _ s
  simp only [contribute]
  split <;> simp [retired]

/-! ### Buffers and marks -/

@[simp] theorem fqTake_groups (s : State) (q cap count : Nat) : (fqTake s q cap count).groups = s.groups := by unfold fqTake; split <;> rfl
@[simp] theorem fqLeave_groups (s : State) (q count : Nat) : (fqLeave s q count).groups = s.groups := by unfold fqLeave; split <;> rfl
@[simp] theorem dropFrames_groups (s : State) (id : Nat) : (dropFrames s id).groups = s.groups := by
  simp [dropFrames, foldl_same State.groups]

@[simp] theorem putMark_groups (s : State) (slice dev src seq : Nat) : (putMark s slice dev src seq).groups = s.groups := by
  unfold putMark
  split
  case h_1 t room =>
    simp only [markRoom] at room
    repeat' split at room
    all_goals cases room
    all_goals rfl
  case h_2 => rfl

@[simp] theorem markReq_groups (s : State) (r : SReq) (slice : Nat) : (markReq s r slice).groups = s.groups := by unfold markReq; split <;> simp
@[simp] theorem windowReq_groups (s : State) (r : SReq) (slice v : Nat) : (windowReq s r slice v).groups = s.groups := rfl

@[simp] theorem freeWindow_groups (s : State) (r : SReq) (slice : Nat) : (freeWindow s r slice).groups = s.groups := by
  simp only [freeWindow]
  repeat' split
  all_goals rfl

@[simp] theorem arriveQueue_groups (s : State) (r : SReq) : (arriveQueue s r).groups = s.groups := by simp [arriveQueue]

end Sys2Proof.Machine
end
section
/-! The groups under requests and the core's own cache: of a group, requests change its message buffer and its results in flight. -/
namespace Sys2Proof.Machine

/-- The groups of a machine without their message buffers and their results in flight. -/
def State.steady (s : State) (k : Nat) : Option Group := (Tab.find s.groups k).map fun g => { g with mb := [], pending := [] }

theorem steady_congr {s t : State} (h : t.groups = s.groups) : t.steady = s.steady := by unfold State.steady; rw [h]

theorem steady_updG (s : State) (key : Nat) (f : Group → Group)
    (hf : ∀ g, ({ f g with mb := [], pending := [] } : Group) = { g with mb := [], pending := [] }) : (updG s key f).steady = s.steady := by
  funext k
  simp only [State.steady, find_updG]
  split
  case isTrue same => rw [same, Option.map_map]; exact congrArg (Option.map · _) (funext hf)
  case isFalse => rfl

/-- A group whose steady part is known has the width that it had. -/
theorem width_of_steady {s t : State} (h : t.steady = s.steady) {k : Nat} {g g' : Group} (hg : Tab.find s.groups k = some g)
    (hg' : Tab.find t.groups k = some g') : g'.width = g.width := by
  have same := congrArg (Option.map Group.width) (congrFun h k)
  simpa [State.steady, hg, hg'] using same

/-! ### Requests -/

@[simp] theorem answer_steady (s : State) (r : SReq) (v : Nat) : (answer s r v).steady = s.steady := by
  have set (pid : Nat) (f : Pending → Pending) : (setPending s r.key pid f).steady = s.steady := steady_updG _ _ _ fun _ => rfl
  simp only [answer]
  split
  · rfl
  · split
    · exact (steady_congr (later_groups _ _)).trans (set _ _)
    · exact set _ _

@[simp] theorem putHome_steady (s : State) (ctx : Nat) (l : Loc) (b : BitVec 8) : (putHome s ctx l b).steady = s.steady := by
  unfold putHome
  split
  case h_5 => exact steady_updG _ _ _ fun _ => rfl
  case h_7 => split <;> rfl
  all_goals exact steady_congr (by simp)

@[simp] theorem putHomeNat_steady (s : State) (ctx : Nat) (l : Loc) (n v : Nat) : (putHomeNat s ctx l n v).steady = s.steady := by
  induction n generalizing s l v with
  | zero => rfl
  | succ n ih => rw [putHomeNat, ih, putHome_steady]

@[simp] theorem applyAtom_steady (s : State) (ctx : Nat) (a : AtomReq) : (applyAtom s ctx a).1.steady = s.steady :=
  (putHomeNat_steady ..).trans (steady_congr (mergePlaces_groups ..))

@[simp] theorem performReq_steady (s : State) (r : SReq) (l : Loc) (slice : Nat) : (performReq s r l slice).steady = s.steady := by
  have read (t : State) (l : Loc) (n : Nat) (h : t.groups = s.groups) :
      (readCells (fillLines t [l]) (fabricOf l).1 (fabricOf l).2 n).steady = s.steady := steady_congr (by simp [h])
  simp only [performReq]
  split
  case h_1 a =>
    split
    · exact (steady_congr (windowReq_groups ..)).trans (by rw [answer_steady, applyAtom_steady, read _ _ _ (markReq_groups ..)])
    · rw [applyAtom_steady, read _ _ _ (markReq_groups ..)]
  all_goals exact steady_congr (by simp)

@[simp] theorem answerBad_steady (s : State) (r : SReq) (l : Loc) : (answerBad s r l).steady = s.steady := by
  unfold answerBad
  split
  · exact steady_congr (chargeCut_groups ..)
  · exact answer_steady ..

@[simp] theorem applyOne_steady (s : State) (r : SReq) : (applyOne s r).steady = s.steady := by
  have taken : (dropFrames { s with sreqs := s.sreqs.filter fun x => x.id != r.id } r.id).steady = s.steady := steady_congr (by simp)
  simp only [applyOne]
  repeat' split
  all_goals simp [taken]

@[simp] theorem applyReq_steady (s : State) (r : SReq) : (applyReq s r).steady = s.steady := by
  unfold applyReq
  split
  · exact foldl_same State.steady _ (fun t x => (applyOne_steady ..).trans (steady_congr (freeWindow_groups ..))) _ s
  · rfl

@[simp] theorem countReq_steady (s : State) (src slice : Nat) (store : Bool) : (countReq s src slice store).steady = s.steady := by
  have delivered (rs : List SReq) : (rs.foldl (fun s x => if x.place.isSome then applyReq s x else arriveQueue s x) s).steady = s.steady :=
    foldl_same State.steady _ (fun t x => by
      split
      · exact applyReq_steady ..
      · exact steady_congr (arriveQueue_groups ..)) _ s
  simp only [countReq, takeSeq]
  split
  · exact (steady_congr (putMark_groups ..)).trans (delivered _)
  · exact delivered _

@[simp] theorem countLines_steady (s : State) (src : Nat) (store : Bool) (ls : List Loc) : (countLines s src store ls).steady = s.steady :=
  foldl_same State.steady _ (fun t l => by
    split
    · rfl
    · exact countReq_steady ..) _ s

/-! ### The core's own cache -/

@[simp] theorem writeBack_steady (s : State) (e : L1Line) : (writeBack s e).steady = s.steady := by
  unfold writeBack
  split
  · rfl
  · refine Eq.trans (steady_congr ?_) (countReq_steady s (coreSource s e.core) (homeSlice s (128 * e.line)) true)
    simp only
    rw [foldl_same State.groups, foldl_same State.groups, mergePlaces_groups]
    · intro t i; split <;> simp
    · intro t j; simp

theorem writeBacks_steady (es : List L1Line) (s : State) : (es.foldl writeBack s).steady = s.steady := foldl_same State.steady _ writeBack_steady es s

@[simp] theorem l1Drop_steady (s : State) (core : Nat) (p : L1Line → Bool) : (l1Drop s core p).steady = s.steady := writeBacks_steady _ s
@[simp] theorem l1Evict_steady (s : State) (e : L1Line) : (l1Evict s e).steady = s.steady := writeBack_steady s e

@[simp] theorem acquireAct_steady (s : State) (core scope : Nat) (paired : Bool) : (acquireAct s core scope paired).steady = s.steady := by
  unfold acquireAct
  split
  · exact l1Drop_steady ..
  · rfl

@[simp] theorem l1Put_steady (s : State) (core ctx : Nat) (surf : Bool) (line : Nat) : (l1Put s core ctx surf line).steady = s.steady := by
  simp only [l1Put]
  refine (steady_congr (verifyPlaces_groups ..)).trans ((steady_congr (fillLines_groups ..)).trans ?_)
  split
  · split
    · exact l1Evict_steady ..
    · rfl
  · rfl

@[simp] theorem l1Fill_steady (s : State) (core ctx : Nat) (surf : Bool) (line : Nat) : (l1Fill s core ctx surf line).steady = s.steady := by
  simp only [l1Fill]
  split
  · rfl
  · rw [foldl_same State.steady _ fun _ _ => l1Put_steady ..]
    split
    · rfl
    · refine (steady_congr ?_).trans (countReq_steady s (coreSource s core) (homeSlice s (128 * line)) false)
      simp

@[simp] theorem coreLoad_steady (s : State) (core ctx : Nat) (l : Loc) : (coreLoad s core ctx l).1.steady = s.steady := by
  simp only [coreLoad]
  split
  · split <;> exact l1Fill_steady ..
  · refine (steady_congr (readCellsAt_groups ..)).trans ?_
    split
    · exact steady_congr (verifyPlaces_groups ..)
    · rfl

theorem coreLoads_steady (s : State) (core ctx : Nat) (ls : List Loc) : (coreLoads s core ctx ls).1.steady = s.steady := by
  induction ls generalizing s with
  | nil => rfl
  | cons l ls ih => exact (ih _).trans (coreLoad_steady ..)

@[simp] theorem settleOwn_steady (s : State) (key : Nat) (ls : List Loc) : (settleOwn s key ls).steady = s.steady :=
  foldl_same State.steady _ (fun t r => (applyReq_steady ..).trans (by split <;> simp)) _ s

@[simp] theorem groupLoad_steady (s : State) (key : Nat) (g : Group) (ls : List Loc) : (groupLoad s key g ls).1.steady = s.steady :=
  (coreLoads_steady ..).trans ((countLines_steady ..).trans (settleOwn_steady ..))

end Sys2Proof.Machine
end

section
/-! Words of the engines (R47, R131): those that must wait, predicates that they write once memory has been read, and the operations that they
start. -/
namespace Sys2Proof.Machine

/-! ### Words that do not issue now -/

theorem runWord_stall {s : State} {c : WCtx} (h : Issues s c) (he : c.eff ≠ 0) (body : WCtx → State → Try State)
    (hb : body c s = .error .stall) : runWord s body = .next (stalled s c) := by
  rw [runWord_eq h, if_neg he, hb]; rfl

theorem runLong_stall {s : State} {c : WCtx} (h : Issues s c) (he : c.eff ≠ 0) {body : WCtx → State → Try (State × Pending)}
    (hb : body c s = .error .stall) : runLong s body = .next (stalled s c) := by
  refine runWord_stall h he _ ?_
  simp only [hb]
  split
  · split <;> rfl
  · rfl

/-- A group outside a region has no idempotence to lose. -/
theorem unbuffered_outside {s : State} {c : WCtx} (outside : c.g.inRegion = false) (rw seg : Nat) : unbuffered s c rw seg = .ok s := by
  simp [unbuffered, outside]

theorem roomFor_ok {c : WCtx} {cls : Nat} (room : c.g.counter cls < 255) : roomFor c cls = .ok () := if_neg (Nat.not_le.2 room)

/-- A word after whose reads, which leave `s`, its group changes by `f` and nothing else does. -/
theorem completes_change (s : State) (c : WCtx) (f : Group → Group) (hs : ∀ g, (f g).splits = g.splits) (hm : ∀ g, (f g).mb = g.mb) :
    Completes (.next (finish (updG s c.key f) c)) s c [] 0 fun g g' =>
      g' = { f g with splits := g'.splits, susp := none, want := none, lastIssue := s.time } := by
  have made := completes_reads s c f [] 0 hs hm
  rwa [List.append_nil] at made

/-! ### A predicate written for every active lane (R47) -/

theorem Group.mixPred_rest (g : Group) (p : Nat) (m v : BitVec 64) : g.mixPred p m v = { g with preds := (g.mixPred p m v).preds } := by
  unfold Group.mixPred Group.setPred
  split <;> rfl

theorem Issues.width_of_steady {s t : State} {c : WCtx} (h : Issues s c) (same : t.steady = s.steady) {g : Group}
    (hg : Tab.find t.groups c.key = some g) : c.g.width = g.width := by
  obtain ⟨g0, _, hg0, -⟩ := h.group
  rw [h.width hg0, Machine.width_of_steady same hg0 hg]

/-- A word that, once memory has been read, writes one bit to a predicate of its active lanes. -/
theorem completes_nbWrite {s t : State} {c : WCtx} (h : Issues s c) (same : t.steady = s.steady) (p : BitVec 3) (v : Bool) :
    Completes (.next (finish (nbWrite t c p.toNat v) c)) t c [] 0 (WritesPred t c p.toNat fun _ => v) := by
  have rest (g : Group) := Group.mixPred_rest g p.toNat c.eff (if v then BitVec.allOnes 64 else 0)
  refine (completes_change t c (fun g => g.mixPred p.toNat c.eff (if v then BitVec.allOnes 64 else 0)) (fun g => by rw [rest])
    fun g => by rw [rest]).mono fun g g' hg e => ⟨by rw [e, rest], fun q l hq hl => ?_⟩
  rw [← predIs_mixPred c p.toNat (fun _ => v) (if v then BitVec.allOnes 64 else 0) g p.isLt (h.width_of_steady same hg) ?_ q l hq hl, e]
  · rfl
  · intro l hl
    cases v
    · simp
    · rw [if_pos rfl, BitVec.getLsbD_allOnes]
      exact decide_eq_true (lanesOf_lt64 hl)

/-- A non-blocking form that finds no room. -/
theorem completes_refused {s : State} {c : WCtx} (h : Issues s c) (p : BitVec 3) :
    Completes (.next (finish (nbWrite s c p.toNat false) c)) s c [] 0 (WritesPred s c p.toNat fun _ => false) :=
  completes_nbWrite h rfl p false

/-- The predicate and another change of the group that does not see it. -/
theorem nbWrite_updG {s : State} {c : WCtx} {f : Group → Group} {p : Nat} (comm : ∀ g m v, (f g).mixPred p m v = f (g.mixPred p m v))
    (n : BitVec 1) (v : Bool) :
    (if n = 1 then nbWrite (updG s c.key f) c p v else updG s c.key f) = updG (if n = 1 then nbWrite s c p v else s) c.key f := by
  split
  · simp only [nbWrite, updG_updG]
    exact congrArg (updG s c.key) (funext fun g => comm g _ _)
  · rfl

theorem nbWrite_later {s : State} {c : WCtx} (p : Nat) (n : BitVec 1) (v : Bool) (e : Instr) :
    (if n = 1 then nbWrite (later s e) c p v else later s e) = later (if n = 1 then nbWrite s c p v else s) e := by
  split <;> rfl

/-! ### Operations that start (R131) -/

theorem Group.startOp_mixPred (g : Group) (cls id p : Nat) (m v : BitVec 64) :
    (g.startOp cls id).mixPred p m v = (g.mixPred p m v).startOp cls id := by
  unfold Group.mixPred Group.setPred
  split <;> rfl

theorem Group.counter_startOp (g : Group) (cls id k : Nat) : (g.startOp cls id).counter k = g.counter k + if k = cls then 1 else 0 := by
  have grown (xs : List OutOp) (o : OutOp) (running : o.finished = false) :
      (xs ++ [o]).dropWhile (fun o => o.finished) = xs.dropWhile (fun o => o.finished) ++ [o] := by
    induction xs with
    | nil => simp [running]
    | cons x xs ih => cases hx : x.finished <;> simp [hx, ih]
  unfold Group.counter unretired Group.startOp
  by_cases hk : k = cls
  · subst hk
    simp [List.filter_append, grown]
  · simp [List.filter_append, hk, Ne.symm hk]

/-- A word that starts one operation. -/
theorem completes_startOp (s : State) (c : WCtx) (cls id : Nat) (ag : List Instr) :
    Completes (.next (finish { updG s c.key fun g => g.startOp cls id with agenda := s.agenda ++ ag } c)) s c ag 0 (StartsOp s cls) := by
  refine (completes_reads s c (fun g => g.startOp cls id) ag 0 (fun _ => rfl) fun _ => rfl).mono fun g g' _ e => ⟨by rw [e]; rfl, fun k => ?_⟩
  rw [← Group.counter_startOp g cls id k, e]
  rfl

/-- A word that changes nothing of its group once memory has been read. -/
theorem completes_onward (s : State) (c : WCtx) : Completes (.next (finish s c)) s c [] 0 (Kept s) := by
  refine ⟨_, rfl, ⟨by rw [List.append_nil]; rfl, fun k hk => find_finish_ne s c hk, fun l => homeByte_groups s _ rfl (fun k => ?_) l⟩,
    fun g hg => ⟨_, by rw [find_finish, hg, Option.map_some], nextWord_splits rfl, by unfold Kept; rfl⟩⟩
  by_cases hk : k = c.key
  · rw [hk, find_finish, Option.map_map]; rfl
  · rw [find_finish_ne _ _ hk]

/-- The same with the event that goes on with the operation. -/
theorem completes_startOp_later (s : State) (c : WCtx) (cls id : Nat) (e : Instr) :
    Completes (.next (finish (updG (later s e) c.key fun g => g.startOp cls id) c)) s c [e] 0 (StartsOp s cls) := completes_startOp s c cls id [e]

/-! ### Results in flight, with whatever else the word changes of its group -/

/-- A group that gains the result `p` of a word. -/
theorem inFlight_fly {s : State} {c : WCtx} {p : Pending} {P : Pending → Prop} {g g' : Group} (tumbler : p.tumbler = tumblerOf c.sp)
    (pc : p.pc = c.sp.pc) (hP : P p)
    (e : g' = { g.fly p with splits := g'.splits, susp := none, want := none, lastIssue := s.time }) : InFlight s c p.id P g g' := by
  rw [Group.fly_rest] at e
  have pending : g'.pending = g.pending ++ [p] := by rw [e]
  have tumblers : g'.tumblers = (g.fly p).tumblers := by rw [e]
  refine ⟨p, pending, rfl, tumbler, pc, hP, by rw [pending, tumblers]; exact e, fun t => ?_⟩
  rw [← tumbler, ← Group.tumbler_fly g p t]
  simp only [Group.tumbler, tumblers]

/-- A long-latency word that changes nothing else of its group once memory has been read. -/
theorem completes_inFlight (s : State) (c : WCtx) (p : Pending) (ag : List Instr) (ids : Nat) {P : Pending → Prop} (tumbler : p.tumbler = tumblerOf c.sp)
    (pc : p.pc = c.sp.pc) (hP : P p) :
    Completes (.next (finish { updG s c.key fun g => g.fly p with agenda := s.agenda ++ ag, nextId := s.nextId + ids } c)) s c ag ids
      (InFlight s c p.id P) :=
  (completes_reads s c (fun g => g.fly p) ag ids (fun g => by rw [Group.fly_rest]) fun g => by rw [Group.fly_rest]).mono fun _ _ _ e =>
    inFlight_fly tumbler pc hP e

/-- The same with a fresh key and the event that lands the result. -/
theorem completes_landing (s : State) (c : WCtx) (p : Pending) (e : Instr) {P : Pending → Prop} (tumbler : p.tumbler = tumblerOf c.sp)
    (pc : p.pc = c.sp.pc) (hP : P p) :
    Completes (.next (finish (updG (later (newId s).1 e) c.key fun g => g.fly p) c)) s c [e] 1 (InFlight s c p.id P) :=
  completes_inFlight s c p [e] 1 tumbler pc hP

end Sys2Proof.Machine
end

section
/-! Waiting for a counter (R133) and for a word of memory (R134). -/
namespace Sys2Proof.Machine

/-! ### WCNT -/

section
variable {s : State} {c : WCtx} {x p k : BitVec 3} {n : BitVec 1} {b : BitVec 8} (h : Issues s c)
include h

theorem execWcnt_idle (he : c.eff = 0) : exec (.wcnt x n p k b) s = .next (retire (advance s c) c) := by
  rw [exec_wcnt, execWcnt, runCtl_eq h, if_pos he]; rfl

variable (he : c.eff ≠ 0)
include he

theorem execWcnt_waits (above : b.toNat < c.g.counter k.toNat) (blocks : n = 0) : exec (.wcnt x n p k b) s = .next (stalled s c) := by
  rw [exec_wcnt, execWcnt, runCtl_eq h, if_neg he, if_pos above, if_neg (by simp [blocks])]; rfl

theorem execWcnt_refused (above : b.toNat < c.g.counter k.toNat) (passes : n = 1) :
    exec (.wcnt x n p k b) s = .next (retire (advance (nbWrite s c p.toNat false) c) c) := by
  rw [exec_wcnt, execWcnt, runCtl_eq h, if_neg he, if_pos above, if_pos passes]; rfl

/-- At or below the bound, with no deferred fault. -/
theorem execWcnt_met (low : c.g.counter k.toNat ≤ b.toNat) (clean : deferredOf c.g k.toNat = none) :
    let s2 := acquireAct s c.g.core x.toNat (pairedOf s c.g)
    exec (.wcnt x n p k b) s = .next (retire (advance (if n = 1 then nbWrite s2 c p.toNat true else s2) c) c) := by
  rw [exec_wcnt, execWcnt, runCtl_eq h, if_neg he, if_neg (Nat.not_lt.2 low), clean]; rfl

/-- At or below the bound, with a deferred fault of a retired operation (R129). -/
theorem execWcnt_raises (low : c.g.counter k.toNat ≤ b.toNat) {o : OutOp} {r : Rec} (deferred : deferredOf c.g k.toNat = some (o, r))
    (ready : handlerReady s c.key c.g r.cls = .ok ()) : exec (.wcnt x n p k b) s =
      .next (retire (takeFault (updG s c.key fun g => clearDeferred g o.id) c.key c.si
        ⟨r.cls, r.detail, r.addr, if k = 5 then bits r.who 27 22 else c.low⟩ c.sp.pc true) c) := by
  rw [exec_wcnt, execWcnt, runCtl_eq h, if_neg he, if_neg (Nat.not_lt.2 low), deferred]
  simp only [ready, Try.ok_bind]
  rfl

end

/-! ### WAITA -/

theorem waitHolds_eq (x cmp : Nat) : waitHolds 0 x cmp = decide (x = cmp) := rfl
theorem waitHolds_ne (x cmp : Nat) : waitHolds 1 x cmp = decide (x ≠ cmp) := by
  rw [Bool.eq_iff_iff]; simp [waitHolds]
theorem waitHolds_ge {k : Nat} (zero : k ≠ 0) (one : k ≠ 1) (x cmp : Nat) : waitHolds k x cmp = decide (cmp ≤ x) := by
  unfold waitHolds
  split
  case h_1 => exact absurd rfl zero
  case h_2 => exact absurd rfl one
  case h_3 => rfl

/-- The result of a word that waits on `ls`, as it stands in the machine that has read them. -/
def waitResult (s1 : State) (c : WCtx) (d : Nat) (ls : List Loc) : Pending :=
  { blankPending s1.nextId c.sp.pc with
    svals := [(d + 3, BitVec.ofNat 64 (leNat (readHome s1 ls)))], poison := (firstBad s1 ls).map (·, c.low) }

/-- The entry of a word that waits at the address `y` (R134). -/
def waitEntry (s1 : State) (c : WCtx) (d : Nat) (x g : BitVec 3) (k : BitVec 2) (y z : Nat) (ls : List Loc) : WaitA :=
  { id := s1.nextId, vas := byteAddrs c.g g.toNat ⟨c.low, y⟩ z, locs := ls, cond := k.toNat, cmp := c.g.s (d + 1), dst := d + 3, lane := c.low,
    scope := x.toNat, since := s1.time, timeout := (c.g.s (d + 2)).toNat }

section
variable {s : State} {c : WCtx} {d : BitVec 7} {x p g : BitVec 3} {n w : BitVec 1} {k : BitVec 2} {y z : Nat} (h : Issues s c) (he : c.eff ≠ 0)
  (free : TumblerFree c) (hz : (if w = 0 then 8 else 4) = z)
  (hy : (if g = 0 then (c.g.s d.toNat).toNat else (c.g.s d.toNat).toNat % 2 ^ 32) / z * z = y)
include h he free hz hy

theorem execWaita_traps {t : Trap} (bad : uniform s c g.toNat y z 0 = .error (.trap t)) :
    exec (.waita d x n p k g w) s = .next (takeFault s c.key c.si t c.sp.pc false) :=
  (exec_waita d x n p k g w s).trans (runLong_trap h he free (by simp only [hz, hy, bad]; rfl))

variable {ls : List Loc} (place : uniform s c g.toNat y z 0 = .ok ls) {s1 : State} (hs : waitRead s c.key c.g.core c.g.ctx ls = s1) {hit : Bool}
  (holds : waitHolds k.toNat (leNat (readHome s1 ls)) (c.g.s (d.toNat + 1)).toNat = hit)
include place hs holds

/-- A word that meets its condition, or need not. -/
theorem execWaita_ends (ends : hit = true ∨ n = 1) :
    let s2 : State := { s1 with nextId := s1.nextId + 1 }
    let s3 := if hit then acquireAct s2 c.g.core x.toNat (pairedOf s2 c.g) else s2
    let s4 := if n = 1 then nbWrite s3 c p.toNat hit else s3
    exec (.waita d x n p k g w) s = .next (finish (updG (later s4 (.longLatencyCompletion c.key s1.nextId)) c.key fun g =>
      g.fly { waitResult s1 c d.toNat ls with ready := true, tumbler := tumblerOf c.sp }) c) := by
  intro s2 s3 s4
  have done : (hit || n == 1) = true := by simpa using ends
  refine (exec_waita d x n p k g w s).trans (runLong_ok h he free (p := { waitResult s1 c d.toNat ls with ready := true }) rfl ?_)
  simp only [hz, hy, place, hs, Try.ok_bind, newId, holds, done, if_true]
  rfl

/-- A word that waits. -/
theorem execWaita_waits (fails : hit = false) (blocks : n = 0) :
    exec (.waita d x n p k g w) s = .next (finish (updG { s1 with nextId := s1.nextId + 1 } c.key fun a =>
      ({ a with waits := a.waits ++ [waitEntry s1 c d.toNat x g k y z ls] } : Group).fly { waitResult s1 c d.toNat ls with tumbler := tumblerOf c.sp }) c) := by
  subst blocks fails
  refine (exec_waita d x 0 p k g w s).trans ((runLong_ok h he free (s' := updG { s1 with nextId := s1.nextId + 1 } c.key fun a =>
    { a with waits := a.waits ++ [waitEntry s1 c d.toNat x g k y z ls] }) (p := waitResult s1 c d.toNat ls) rfl ?_).trans (by rw [updG_updG]; rfl))
  simp only [hz, hy, place, hs, Try.ok_bind, newId, holds]
  rfl

end

/-- Settles O27: what a wait does is what it has found when its word issues: nothing to wait for, a bound or a condition met, or neither. -/
theorem waitWords : Obligations.WaitWords := by
  refine ⟨fun s c x p k n b h => ?wcnt, fun s c d x p g n w k h he free => ?waita⟩
  case wcnt =>
    intro i s2
    refine ⟨fun idle => ?_, fun he above => ⟨execWcnt_waits h he above, fun passes => ?_⟩, fun he low => ⟨fun clean => ?_, fun o r deferred ready => ?_⟩⟩
    · exact execWcnt_idle h idle ▸ completes_advance h
    · rw [execWcnt_refused h he above passes, retire_advance]
      exact completes_refused h p
    · rw [execWcnt_met h he low clean, retire_advance]
      refine ⟨fun blocks => ?_, fun passes => ?_⟩
      · rw [if_neg (by simp [blocks])]
        exact completes_onward s2 c
      · rw [if_pos passes]
        exact completes_nbWrite h (acquireAct_steady ..) p true
    · exact execWcnt_raises h he low deferred ready
  case waita =>
    intro i z v y cmp
    refine ⟨fun t bad => execWaita_traps h he free rfl rfl bad, fun ls place => ?_⟩
    intro s1 r holds carries vas s2 s3 s4
    have same : waitHolds k.toNat r cmp.toNat = holds := by
      simp only [holds]
      split
      case h_1 e => rw [e]; exact waitHolds_eq ..
      case h_2 e => rw [e]; exact waitHolds_ne ..
      case h_3 zero one => exact waitHolds_ge zero one ..
    refine ⟨fun ends => ?_, fun fails blocks => ?_⟩
    · rw [execWaita_ends h he free rfl rfl place rfl same ends]
      exact completes_inFlight s4 c { waitResult s1 c d.toNat ls with ready := true, tumbler := tumblerOf c.sp } [.longLatencyCompletion c.key s1.nextId] 0
        rfl rfl ⟨rfl, rfl, rfl, rfl, rfl⟩
    · rw [execWaita_waits h he free rfl rfl place rfl same fails blocks]
      refine (completes_change s2 c (fun a => ({ a with waits := a.waits ++ [waitEntry s1 c d.toNat x g k y z ls] } : Group).fly
        { waitResult s1 c d.toNat ls with tumbler := tumblerOf c.sp }) (fun a => by rw [Group.fly_rest]) fun a => by rw [Group.fly_rest]).mono
        fun a a' _ eq => ?_
      have waits : a'.waits = a.waits ++ [waitEntry s1 c d.toNat x g k y z ls] := by rw [eq, Group.fly_rest]
      refine ⟨inFlight_fly (p := { waitResult s1 c d.toNat ls with tumbler := tumblerOf c.sp }) rfl rfl ⟨rfl, rfl, rfl, rfl, rfl⟩ ?_,
        _, waits, rfl, rfl, rfl, rfl, rfl, rfl, rfl, rfl, rfl, rfl⟩
      rw [waits]; exact eq

end Sys2Proof.Machine
end

section
/-! Requester records (R155, R156): the checks of `kwant`, and the record that it opens. -/
namespace Sys2Proof.Machine

theorem kwantLegal_iff (k : Nat) : kwantLegal k = true ↔
    1 ≤ bits k 15 0 ∧ bits k 31 20 = 0 ∧ 1 ≤ bits k 48 32 ∧ bits k 48 32 ≤ 65536 ∧ bits k 63 49 = 0 := by
  simp [kwantLegal, and_assoc]

section
variable {c : WCtx} {d : Nat}

theorem kwantChecks_control (bad : kwantLegal (c.g.s (d + 4)).toNat = false) : kwantChecks c d = .error (.trap ⟨0x08, 1, d + 4, c.low⟩) := by
  rw [kwantChecks, bad]; rfl

theorem kwantChecks_value (ok : kwantLegal (c.g.s (d + 4)).toNat = true) (bad : 0xFFFF_FFFF_FFFF_FF00 ≤ (c.g.s (d + 3)).toNat) :
    kwantChecks c d = .error (.trap ⟨0x08, 1, d + 3, c.low⟩) := by
  rw [kwantChecks, ok, if_neg (by decide), if_pos bad]; rfl

theorem kwantChecks_address (ok : kwantLegal (c.g.s (d + 4)).toNat = true) (value : (c.g.s (d + 3)).toNat < 0xFFFF_FFFF_FFFF_FF00)
    (bad : (c.g.s (d + 2)).toNat % 8 ≠ 0) : kwantChecks c d = .error (.trap ⟨0x08, 1, d + 2, c.low⟩) := by
  rw [kwantChecks, ok, if_neg (by decide), if_neg (Nat.not_le.2 value), if_pos bad]; rfl

theorem kwantChecks_ok (ok : kwantLegal (c.g.s (d + 4)).toNat = true) (value : (c.g.s (d + 3)).toNat < 0xFFFF_FFFF_FFFF_FF00)
    (aligned : (c.g.s (d + 2)).toNat % 8 = 0) : kwantChecks c d = .ok () := by
  rw [kwantChecks, ok, if_neg (by decide), if_neg (Nat.not_le.2 value), if_neg (not_not.2 aligned)]

end

/-- The record that `kwant` opens. -/
def wantedRec (s : State) (c : WCtx) (d scope : Nat) (dloc cloc : Option Loc) : KRec :=
  let k := (c.g.s (d + 4)).toNat
  { id := s.nextId, cl := c.g.core / 4, ctx := c.g.ctx, gkey := c.key, team := c.g.team, key := (c.g.s d).toNat, dst := (c.g.s (d + 1)).toNat, dloc,
    cap := bits k 48 32, cwa := (c.g.s (d + 2)).toNat, cw := bits k 18 17, cloc, val := c.g.s (d + 3), scope, trapNever := bit k 19,
    expiry := s.time + 1000 * bits k 15 0, began := none, owe := none, moved := 0, fault := none, pc := c.sp.pc, who := whoOf s c.g 0 }

/-- The machine once the record stands and its interest is on the way. -/
def wanted (s : State) (r : KRec) : State :=
  sendFlit { s with recs := s.recs ++ [r], nextId := s.nextId + 1 }
    (.interest (clusterStation s r.cl) (clusterStation s r.cl) (clusterStation s r.cl) r.key r.ctx r.expiry)

section
variable {s : State} {c : WCtx} {d : BitVec 7} {x p : BitVec 3} {n : BitVec 1} (h : Issues s c) (he : c.eff ≠ 0) (room : c.g.counter 2 < 255)
include h he room

theorem execKwant_traps {t : Trap} (bad : kwantChecks c d.toNat = .error (.trap t)) :
    exec (.kwant d x n p) s = .next (takeFault s c.key c.si t c.sp.pc false) :=
  (exec_kwant d x n p s).trans (runWord_trap h he _ (by simp only [roomFor_ok room, bad]; rfl))

variable (outside : c.g.inRegion = false) (good : kwantChecks c d.toNat = .ok ()) {dloc cloc : Option Loc}
  (dst : regionPlace s c (bits (c.g.s (d.toNat + 4)).toNat 16 16 == 1) 1 (c.g.s (d.toNat + 1)).toNat (bits (c.g.s (d.toNat + 4)).toNat 48 32) 1 = .ok dloc)
  (cwd : regionPlace s c (bits (c.g.s (d.toNat + 4)).toNat 18 17 == 1 || bits (c.g.s (d.toNat + 4)).toNat 18 17 == 3)
    (if bits (c.g.s (d.toNat + 4)).toNat 18 17 = 1 then 1 else 7) (c.g.s (d.toNat + 2)).toNat 8 1 = .ok cloc)
include good dst cwd

/-- The blocking form while every record of the cluster is in use. -/
theorem execKwant_waits (full : 256 ≤ (s.recs.filter fun r => r.cl == c.g.core / 4).length) (blocks : n = 0) :
    exec (.kwant d x n p) s = .next (stalled s c) := by
  subst blocks
  exact (exec_kwant d x 0 p s).trans (runWord_stall h he _ (by simp only [roomFor_ok room, good, dst, cwd, Try.ok_bind, if_pos full]; rfl))

include outside

/-- The non-blocking form while every record of the cluster is in use. -/
theorem execKwant_refused (full : 256 ≤ (s.recs.filter fun r => r.cl == c.g.core / 4).length) (passes : n = 1) :
    exec (.kwant d x n p) s = .next (finish (nbWrite s c p.toNat false) c) := by
  subst passes
  exact (exec_kwant d x 1 p s).trans (runWord_ok h he _ (by
    simp only [roomFor_ok room, good, dst, cwd, Try.ok_bind, if_pos full, unbuffered_outside outside]; rfl))

/-- A record of the cluster is free. -/
theorem execKwant_opens (free : (s.recs.filter fun r => r.cl == c.g.core / 4).length < 256) :
    let s2 := wanted s (wantedRec s c d.toNat x.toNat dloc cloc)
    exec (.kwant d x n p) s =
      .next (finish (updG (if n = 1 then nbWrite s2 c p.toNat true else s2) c.key fun g => g.startOp 2 s.nextId) c) := by
  intro s2
  rw [← nbWrite_updG fun g m v => Group.startOp_mixPred g 2 s.nextId p.toNat m v]
  exact (exec_kwant d x n p s).trans (runWord_ok h he _ (by
    simp only [roomFor_ok room, good, dst, cwd, Try.ok_bind, if_neg (Nat.not_le.2 free), unbuffered_outside outside]; rfl))

end

/-- Settles O30: the checks in R156's order, then the record and its interest. -/
theorem keywayRequests : Obligations.KeywayRequests := by
  intro s c d x p n h he outside room i v k legal cw cl used
  have legal_iff : kwantLegal k = true ↔ legal := kwantLegal_iff k
  refine ⟨fun bad => ?_, fun ok bad => ?_, fun ok value bad => ?_, fun ok value aligned dloc cloc dst cwd => ?_⟩
  · exact execKwant_traps h he room (kwantChecks_control (Bool.eq_false_iff.2 fun l => bad (legal_iff.1 l)))
  · exact execKwant_traps h he room (kwantChecks_value (legal_iff.2 ok) bad)
  · exact execKwant_traps h he room (kwantChecks_address (legal_iff.2 ok) value bad)
  · have good := kwantChecks_ok (legal_iff.2 ok) value aligned
    refine ⟨fun full => ⟨execKwant_waits h he room good dst cwd full, fun passes => ?_⟩, fun free => ?_⟩
    · exact execKwant_refused h he room outside good dst cwd full passes ▸ completes_refused h p
    · intro t r st s2 s3
      rw [execKwant_opens h he room outside good dst cwd free]
      have made := completes_startOp s3 c 2 s.nextId []
      rwa [List.append_nil] at made

end Sys2Proof.Machine
end

section
/-! Producers of the keyway (R157 to R159): `kput`, `kdrop` and `kclose`. -/
namespace Sys2Proof.Machine

section
variable {c : WCtx} {d : Nat}

theorem kputChecks_length (bad : bits (c.g.s (d + 2)).toNat 16 0 = 0 ∨ 65536 < bits (c.g.s (d + 2)).toNat 16 0
      ∨ bits (c.g.s (d + 2)).toNat 23 18 ≠ 0 ∨ bits (c.g.s (d + 2)).toNat 63 32 ≠ 0) :
    kputChecks c d = .error (.trap ⟨0x08, 1, d + 2, c.low⟩) := if_pos bad

theorem kputChecks_backing (ok : ¬ (bits (c.g.s (d + 2)).toNat 16 0 = 0 ∨ 65536 < bits (c.g.s (d + 2)).toNat 16 0
      ∨ bits (c.g.s (d + 2)).toNat 23 18 ≠ 0 ∨ bits (c.g.s (d + 2)).toNat 63 32 ≠ 0)) (bad : (c.g.s (d + 3)).toNat % 128 ≠ 0) :
    kputChecks c d = .error (.trap ⟨0x08, 1, d + 3, c.low⟩) := (if_neg ok).trans (if_pos bad)

theorem kputChecks_ok (ok : ¬ (bits (c.g.s (d + 2)).toNat 16 0 = 0 ∨ 65536 < bits (c.g.s (d + 2)).toNat 16 0
      ∨ bits (c.g.s (d + 2)).toNat 23 18 ≠ 0 ∨ bits (c.g.s (d + 2)).toNat 63 32 ≠ 0)) (aligned : (c.g.s (d + 3)).toNat % 128 = 0) :
    kputChecks c d = .ok () := (if_neg ok).trans (if_neg (not_not.2 aligned))

end

/-- The operands that `kput` checks at issue: its length scalar, its source, and the places of a source in scratchpad. -/
def putOperands (c : WCtx) (s : State) (d : Nat) : Try (Nat × Nat × Option (List Loc)) := do
  roomFor c 2
  kputChecks c d
  let k := (c.g.s (d + 2)).toNat
  let va := (c.g.s (d + 1)).toNat
  let sp ← if bit k 17 then (uniform s c 1 (va % 2 ^ 32) (bits k 16 0) 0).map some else pure none
  pure (k, va, sp)

/-- The places that `kput` reads at issue, as R157 gives them: those of a source in scratchpad. -/
def PutPlaces (c : WCtx) (s : State) (d : Nat) (sp : Option (List Loc)) : Prop :=
  if bit (c.g.s (d + 2)).toNat 17 then
    ∃ ls, uniform s c 1 ((c.g.s (d + 1)).toNat % 2 ^ 32) (bits (c.g.s (d + 2)).toNat 16 0) 0 = .ok ls ∧ sp = some ls
  else sp = none

section
variable {c : WCtx} {s : State} {d : Nat} (room : c.g.counter 2 < 255)
include room

theorem putOperands_trap {t : Trap} (bad : kputChecks c d = .error (.trap t)) : putOperands c s d = .error (.trap t) := by
  simp only [putOperands, roomFor_ok room, bad]; rfl

theorem putOperands_ok (good : kputChecks c d = .ok ()) {sp : Option (List Loc)} (source : PutPlaces c s d sp) :
    putOperands c s d = .ok ((c.g.s (d + 2)).toNat, (c.g.s (d + 1)).toNat, sp) := by
  simp only [putOperands, roomFor_ok room, good, Try.ok_bind]
  unfold PutPlaces at source
  split at source
  case isTrue pad =>
    obtain ⟨ls, places, rfl⟩ := source
    rw [if_pos pad, places]; rfl
  case isFalse global =>
    rw [if_neg global, source]; rfl

end

/-- The result of a keyway word: one scalar. -/
def scalarResult (c : WCtx) (id d : Nat) (v : BitVec 64) (ready : Bool) : Pending := { blankPending id c.sp.pc with svals := [(d, v)], ready }

/-- What `kput` asks of the home. -/
def putOf (s : State) (c : WCtx) (d : Nat) : KPut :=
  let k := (c.g.s (d + 2)).toNat
  { key := (c.g.s d).toNat, ctx := c.g.ctx, len := bits k 16 0, ret := bits k 31 24, backing := (c.g.s (d + 3)).toNat, gkey := c.key, pend := s.nextId,
    op := s.nextId + 1, cl := c.g.core / 4, pc := c.sp.pc, who := whoOf s c.g 0 }

section
variable {s : State} {c : WCtx} {d : BitVec 7} {x p : BitVec 3} {n : BitVec 1} (h : Issues s c) (he : c.eff ≠ 0)
include h he

/-- The checks come first, whether the queue has room or not. -/
theorem execKput_traps (free : TumblerFree c) {t : Trap} (bad : putOperands c s d.toNat = .error (.trap t)) :
    exec (.kput d x n p) s = .next (takeFault s c.key c.si t c.sp.pc false) := by
  rw [exec_kput, execKput]
  simp only [show issueCtx s = some c from h]
  split
  · exact runWord_trap h he _ (congrArg (· >>= _) bad)
  · exact runLong_trap h he free (congrArg (· >>= _) bad)

variable {sp : Option (List Loc)} (good : putOperands c s d.toNat = .ok ((c.g.s (d.toNat + 2)).toNat, (c.g.s (d.toNat + 1)).toNat, sp))
include good

/-- The blocking form at a full injection queue. -/
theorem execKput_waits (full : 32 ≤ injHeld s (c.g.core / 4)) (blocks : n = 0) : exec (.kput d x n p) s = .next (stalled s c) := by
  subst blocks
  rw [exec_kput, execKput]
  simp only [show issueCtx s = some c from h]
  rw [if_neg (by simp)]
  exact runLong_stall h he ((Try.bind_of_ok good).trans (if_pos full))

variable (outside : c.g.inRegion = false)
include outside

/-- The non-blocking form at a full injection queue, which is no long-latency word. -/
theorem execKput_refused (full : 32 ≤ injHeld s (c.g.core / 4)) (passes : n = 1) :
    exec (.kput d x n p) s = .next (finish (nbWrite s c p.toNat false) c) := by
  rw [exec_kput, execKput]
  simp only [show issueCtx s = some c from h]
  rw [if_pos ⟨he, passes, full⟩]
  exact runWord_ok h he _ ((Try.bind_of_ok good).trans (by rw [unbuffered_outside outside]; rfl))

/-- A producer that the injection queue has room for. -/
theorem execKput_starts (free : TumblerFree c) (room : injHeld s (c.g.core / 4) < 32) :
    let s2 := startPut { s with nextId := s.nextId + 2 } c (putOf s c d.toNat) (c.g.s (d.toNat + 1)).toNat sp
    exec (.kput d x n p) s = .next (finish (updG (if n = 1 then nbWrite s2 c p.toNat true else s2) c.key fun g =>
      (g.startOp 2 (s.nextId + 1)).fly { scalarResult c s.nextId (d.toNat + 4) 0 false with tumbler := tumblerOf c.sp }) c) := by
  intro s2
  rw [exec_kput, execKput]
  simp only [show issueCtx s = some c from h]
  rw [if_neg fun all => absurd all.2.2 (Nat.not_le.2 room)]
  refine (runLong_ok h he free (s' := updG (if n = 1 then nbWrite s2 c p.toNat true else s2) c.key fun g => g.startOp 2 (s.nextId + 1))
    (p := scalarResult c s.nextId (d.toNat + 4) 0 false) rfl ((Try.bind_of_ok good).trans ?_)).trans (by rw [updG_updG]; rfl)
  rw [if_neg (Nat.not_le.2 room), unbuffered_outside outside, ← nbWrite_updG fun g m v => Group.startOp_mixPred g 2 _ p.toNat m v]
  rfl

end

section
variable {s : State} {c : WCtx} {d : BitVec 7} {x : BitVec 3} (h : Issues s c) (he : c.eff ≠ 0) (outside : c.g.inRegion = false) (free : TumblerFree c)
include h he

theorem execKclose_waits (full : 32 ≤ injHeld s (c.g.core / 4)) : exec (.kclose d x) s = .next (stalled s c) :=
  (exec_kclose d x s).trans (runLong_stall h he (by rw [if_pos full]))

include outside free

theorem execKclose_sends (room : injHeld s (c.g.core / 4) < 32) :
    let s1 : State := { s with nextId := s.nextId + 1 }
    let key := (c.g.s d.toNat).toNat
    let s2 := sendFlit s1 (.close (keyTensor key) (keyIter key) c.g.ctx c.key s.nextId (c.g.core / 4) [] [] 0 (unreadBefore s1 c.key s1.nextId))
    exec (.kclose d x) s = .next (finish (updG s2 c.key fun g => g.fly { scalarResult c s.nextId (d.toNat + 1) 0 false with tumbler := tumblerOf c.sp }) c) :=
  (exec_kclose d x s).trans (runLong_ok h he free (p := scalarResult c s.nextId (d.toNat + 1) 0 false) rfl (by
    rw [if_neg (Nat.not_le.2 room), unbuffered_outside outside]; rfl))

theorem execKdrop_drops :
    let mine := s.recs.filter fun r => r.gkey == c.key && r.cl == c.g.core / 4 && r.key == (c.g.s d.toNat).toNat
      && r.cwa == (c.g.s (d.toNat + 1)).toNat && r.began.isNone && r.owe.isNone
    let s2 := mine.foldl (fun s r => endRec s r.id kwDropped) s
    exec (.kdrop d x) s = .next (finish (updG (later (newId s2).1 (.longLatencyCompletion c.key s2.nextId)) c.key fun g =>
      g.fly { scalarResult c s2.nextId (d.toNat + 2) (BitVec.ofNat 64 mine.length) true with tumbler := tumblerOf c.sp }) c) := by
  intro mine s2
  exact (exec_kdrop d x s).trans (runLong_ok h he free (p := scalarResult c s2.nextId (d.toNat + 2) (BitVec.ofNat 64 mine.length) true) rfl (by
    simp only [unbuffered_outside outside]; rfl))

end

/-- Settles O31: the checks in R157's order, then the producer; the records that end; the notice. -/
theorem keywayProducers : Obligations.KeywayProducers := by
  intro s c d x p n h he free outside v k room badLen put
  refine ⟨fun few => ⟨fun bad => ?_, fun ok bad => ?_, fun ok aligned sp source => ?_⟩, ?_, fun full => ?_, fun has => ?_⟩
  · exact execKput_traps h he free (putOperands_trap few (kputChecks_length bad))
  · exact execKput_traps h he free (putOperands_trap few (kputChecks_backing ok bad))
  · have good := putOperands_ok few (kputChecks_ok ok aligned) source
    refine ⟨fun full => ⟨fun blocks => execKput_waits h he good (Nat.not_lt.1 full) blocks, fun passes => ?_⟩, fun has => ?_⟩
    · rw [execKput_refused h he good outside (Nat.not_lt.1 full) passes]
      exact completes_refused h p
    intro q s2 s3
    rw [execKput_starts h he good outside free has]
    refine (completes_change s3 c (fun g => (g.startOp 2 (s.nextId + 1)).fly
        { scalarResult c s.nextId (d.toNat + 4) 0 false with tumbler := tumblerOf c.sp }) (fun g => by rw [Group.fly_rest]; rfl)
      fun g => by rw [Group.fly_rest]; rfl).mono fun g g' _ e => ?_
    have ops : g'.ops = (g.startOp 2 (s.nextId + 1)).ops := by rw [e, Group.fly_rest]
    refine ⟨inFlight_fly (p := { scalarResult c s.nextId (d.toNat + 4) 0 false with tumbler := tumblerOf c.sp }) rfl rfl ⟨rfl, rfl, rfl⟩ ?_,
      fun j => ?_⟩
    · rw [ops]; exact e
    · rw [← Group.counter_startOp g 2 (s.nextId + 1) j, Group.counter, ops]; rfl
  · intro mine s2
    rw [execKdrop_drops h he outside free]
    exact completes_landing s2 c { scalarResult c s2.nextId (d.toNat + 2) (BitVec.ofNat 64 mine.length) true with tumbler := tumblerOf c.sp } _ rfl rfl
      ⟨rfl, rfl, rfl⟩
  · exact execKclose_waits h he (Nat.not_lt.1 full)
  · intro s1 s2
    rw [execKclose_sends h he outside free has]
    have made := completes_inFlight s2 c { scalarResult c s.nextId (d.toNat + 1) 0 false with tumbler := tumblerOf c.sp } [] 0
      (P := fun r => r.ready = false ∧ r.svals = [(d.toNat + 1, 0)]) rfl rfl ⟨rfl, rfl⟩
    rwa [List.append_nil] at made

end Sys2Proof.Machine
end

section
/-! Commands that enter an engine's queue (R125, R131): the common operation of `cpy`, `coll` and `nbx`. -/
namespace Sys2Proof.Machine

theorem trapIf_aligned {a n : Nat} {t : Trap} (aligned : a % n = 0) : trapIf (a % n != 0) t = .ok () := if_neg (by simpa using aligned)

theorem goodSource_ok {s : State} {c : WCtx} {ls : List Loc} (good : loadBad s c.g.core ls = none) : goodSource s c ls = .ok () := by
  rw [goodSource, good]

/-- The machine once a command stands last in its engine's queue (R120). -/
def entered (s : State) (c : WCtx) (e : Nat) (m : EngCmd) : State :=
  let s1 := fqTake (releaseAct s c.key c.g.core 5 (pairedOf s c.g)) (2000 + e) 64 (engEntries s e).length
  { s1 with nextId := s1.nextId + 1, engCmds := s1.engCmds ++ [{ m with id := s1.nextId, eng := e }] }

/-- The key that the command has. -/
def enteredId (s : State) (c : WCtx) (e : Nat) : Nat :=
  (fqTake (releaseAct s c.key c.g.core 5 (pairedOf s c.g)) (2000 + e) 64 (engEntries s e).length).nextId

section
variable {s : State} {c : WCtx} {d : BitVec 7} {x p g : BitVec 3} {n : BitVec 1} {cls y : Nat} {eng : State → WCtx → Nat}
  {check : State → WCtx → EngCmd → Try EngCmd} (h : Issues s c) (he : c.eff ≠ 0) (room : c.g.counter cls < 255)
  (hy : (if g = 0 then (c.g.s d.toNat).toNat else (c.g.s d.toNat).toNat % 2 ^ 32) = y)
include h he room hy

/-- A descriptor that is not 64-byte aligned. -/
theorem engineWord_misaligned (bad : y % 64 ≠ 0) :
    engineWord s d x n p g cls eng check = .next (takeFault s c.key c.si ⟨0x08, 2, y, c.low⟩ c.sp.pc false) := by
  have stops : trapIf (y % 64 != 0) ⟨0x08, 2, y, c.low⟩ = .error (.trap ⟨0x08, 2, y, c.low⟩) := if_pos (by simpa using bad)
  exact runWord_trap h he _ (by simp only [roomFor_ok room, hy, stops, Try.ok_bind]; rfl)

variable (aligned : y % 64 = 0) {ls : List Loc} (place : uniform s c g.toNat y 64 0 = .ok ls)
include aligned place

/-- A descriptor in a sector that cannot be read as good (log 131). -/
theorem engineWord_badSector {sec : Nat} (bad : loadBad (groupLoad s c.key c.g ls).1 c.g.core ls = some sec) :
    engineWord s d x n p g cls eng check = .next (takeFault s c.key c.si ⟨0x0E, 0, sec, c.low⟩ c.sp.pc false) := by
  have stops : goodSource (groupLoad s c.key c.g ls).1 c ls = .error (.trap ⟨0x0E, 0, sec, c.low⟩) := by rw [goodSource, bad]
  exact runWord_trap h he _ (by simp only [roomFor_ok room, hy, trapIf_aligned aligned, place, stops, Try.ok_bind]; rfl)

variable (good : loadBad (groupLoad s c.key c.g ls).1 c.g.core ls = none)
include good

/-- A descriptor that the engine's own checks refuse. -/
theorem engineWord_illegal {t : Trap} (bad : check (groupLoad s c.key c.g ls).1 c
      (blankCmd (groupLoad s c.key c.g ls).1 c d.toNat (groupLoad s c.key c.g ls).2 y x.toNat cls) = .error (.trap t)) :
    engineWord s d x n p g cls eng check = .next (takeFault s c.key c.si t c.sp.pc false) := by
  exact runWord_trap h he _ (by simp only [roomFor_ok room, hy, trapIf_aligned aligned, place, goodSource_ok good, bad, Try.ok_bind]; rfl)

variable {m : EngCmd} (legal : check (groupLoad s c.key c.g ls).1 c
      (blankCmd (groupLoad s c.key c.g ls).1 c d.toNat (groupLoad s c.key c.g ls).2 y x.toNat cls) = .ok m) {s1 : State}
  (hs : (groupLoad s c.key c.g ls).1 = s1)
include legal hs

/-- The blocking form at a full queue. -/
theorem engineWord_waits (full : fqFull s1 (2000 + eng s1 c) 64 (engEntries s1 (eng s1 c)).length = true) (blocks : n = 0) :
    engineWord s d x n p g cls eng check = .next (stalled s c) := by
  subst blocks hs
  exact runWord_stall h he _ (by simp only [roomFor_ok room, hy, trapIf_aligned aligned, place, goodSource_ok good, legal, full, Try.ok_bind]; rfl)

variable (outside : c.g.inRegion = false)
include outside

/-- The non-blocking form at a full queue. -/
theorem engineWord_refused (full : fqFull s1 (2000 + eng s1 c) 64 (engEntries s1 (eng s1 c)).length = true) (passes : n = 1) :
    engineWord s d x n p g cls eng check = .next (finish (nbWrite s1 c p.toNat false) c) := by
  subst passes hs
  exact runWord_ok h he _ (by
    simp only [roomFor_ok room, hy, trapIf_aligned aligned, place, goodSource_ok good, legal, full, unbuffered_outside outside, Try.ok_bind]; rfl)

/-- A command that its queue has room for. -/
theorem engineWord_enters (free : fqFull s1 (2000 + eng s1 c) 64 (engEntries s1 (eng s1 c)).length = false) :
    let s2 := entered s1 c (eng s1 c) m
    let s3 := if n = 1 then nbWrite s2 c p.toNat true else s2
    engineWord s d x n p g cls eng check = .next (finish (updG (later s3 (engEvent (eng s1 c) (enteredId s1 c (eng s1 c)))) c.key fun g =>
      g.startOp cls (enteredId s1 c (eng s1 c))) c) := by
  intro s2 s3
  rw [← nbWrite_later, ← nbWrite_updG fun g m v => Group.startOp_mixPred g cls _ p.toNat m v]
  subst hs
  exact runWord_ok h he _ (by
    simp only [roomFor_ok room, hy, trapIf_aligned aligned, place, goodSource_ok good, legal, free, unbuffered_outside outside, Try.ok_bind]; rfl)

end

/-- Settles O33: each word is the common operation with its own engine and its own checks of the descriptor. -/
theorem engineCommandWords : Obligations.EngineCommandWords := by
  intro s c d x p g n h he outside v y word
  have each {i : Instr} {cls : Nat} {eng : State → WCtx → Nat} {check : State → WCtx → EngCmd → Try EngCmd}
      (runs : exec i s = engineWord s d x n p g cls eng check) : word i cls eng check := by
    intro room
    rw [runs]
    refine ⟨fun bad => engineWord_misaligned h he room rfl bad, fun ls aligned place => ?_⟩
    intro r
    refine ⟨fun sec bad => engineWord_badSector h he room rfl aligned place bad, fun good => ?_⟩
    refine ⟨fun t bad => engineWord_illegal h he room rfl aligned place good bad, fun m legal => ?_⟩
    intro e
    refine ⟨fun full => ⟨fun blocks => ?_, fun passes => ?_⟩, fun free => ?_⟩
    · exact engineWord_waits h he room rfl aligned place good legal rfl full blocks
    · rw [engineWord_refused h he room rfl aligned place good legal rfl outside full passes]
      exact completes_nbWrite h (groupLoad_steady ..) p false
    · intro s1 s2 s3
      rw [engineWord_enters h he room rfl aligned place good legal rfl outside free]
      exact completes_startOp_later _ c cls _ _
  have cpy := each (exec_cpy d x n p g s)
  have coll := each (exec_coll d x n p g s)
  have nbx := each (exec_nbx d x n p g s)
  exact ⟨cpy, coll, nbx⟩

end Sys2Proof.Machine
end

section
/-! TRAV in memory reads its lanes' records (R336, R339): requests of the traversal unit, which take its next sequence numbers (R115). -/
namespace Sys2Proof.Machine

/-- A group of one active lane, whose state record v20 and v21 name at 65,536. -/
def tracer : Group :=
  { State.probeGroup with
    regs := [(320, 65536)]
    splits := [(0, { pc := 1, mask := 1, tsp := none, clause := some ⟨0, 15, 15, 0, 0⟩, stall := false, back := [], barWait := none,
                     entry := false, passed := 0 })] }

/-- That group about to issue a word; no source has a request out yet. -/
def tracing : State := { handled with groups := Tab.put handled.groups 3 tracer }

/-- Whether the record's checks pass with room in the unit, and neither they nor the release take a sequence number. -/
def tracesUnnumbered (s : State) (c : WCtx) : Bool :=
  match recPlaces s c 0 20 with
  | .ok (s1, rs) => decide (unitRays s1 (c.g.core / 4) + rs.length ≤ 2048) && (releaseAct s1 c.key c.g.core 5 (pairedOf s1 c.g)).seqs.isEmpty
  | .error _ => false

theorem exists_of_tracesUnnumbered {s : State} {c : WCtx} (h : tracesUnnumbered s c = true) :
    ∃ s1 rs, recPlaces s c 0 20 = .ok (s1, rs) ∧ unitRays s1 (c.g.core / 4) + rs.length ≤ 2048
      ∧ (releaseAct s1 c.key c.g.core 5 (pairedOf s1 c.g)).seqs = [] := by
  unfold tracesUnnumbered at h
  split at h
  · rename_i s1 rs places
    rw [Bool.and_eq_true, decide_eq_true_eq, List.isEmpty_iff] at h
    exact ⟨s1, rs, places, h⟩
  · cases h

/-- Whether a word's step leaves a source with a sequence number. -/
def numbersTaken (o : Out) : Bool :=
  match o with
  | .next t => !t.seqs.isEmpty
  | _ => false

/-- The unit's read of the record takes numbers. -/
theorem trav_tracing : numbersTaken (exec (.trav 20 0) tracing) = true := by decide +kernel

/-- A word that completes takes none. -/
theorem Completes.not_numbered {o : Out} {s : State} {c : WCtx} {ag : List Instr} {ids : Nat} {R : Group → Group → Prop}
    (h : Completes o s c ag ids R) (seqs : s.seqs = []) : numbersTaken o = false := by
  obtain ⟨t, rfl, ⟨rest, -, -⟩, -⟩ := h
  have same : t.seqs = s.seqs := by rw [rest]
  simp [numbersTaken, same, seqs]

/-- Whether a word about to issue meets the hypotheses of TRAV's statement. -/
def readyToTrace (s : State) (c : WCtx) : Bool :=
  c.eff != 0 && (tumblerOf c.sp).all (fun t => decide (c.g.tumbler t < 63)) && !c.g.inRegion && decide (c.g.counter 5 < 255)
    && [⟨0, false, 20, 0, .free⟩, ⟨3, false, 21, 0, .free⟩, ⟨3, false, 22, 0, .free⟩].all (fun o : Opnd => !o.bad c.g && !o.badTag c.g)
    && tracesUnnumbered s c

/-- Refutes O37: the machine that the statement gives after TRAV leaves out the unit's read of the record, which takes two of its source's sequence numbers. -/
theorem not_traversalWords : ¬ Obligations.TraversalWords := by
  intro h
  have ready : (issueCtx tracing).any (readyToTrace tracing) = true := by decide +kernel
  obtain ⟨c, hc, ok⟩ := (Option.any_eq_true _ _).1 ready
  simp only [readyToTrace, Bool.and_eq_true, bne_iff_ne, decide_eq_true_eq, Bool.not_eq_true', List.all_eq_true, Option.all_eq_true] at ok
  obtain ⟨⟨⟨⟨⟨eff, calm⟩, outside⟩, room⟩, readable⟩, traces⟩ := ok
  obtain ⟨s1, rs, places, fits, unnumbered⟩ := exists_of_tracesUnnumbered traces
  obtain ⟨-, ⟨-, trav⟩, -⟩ := h tracing c 20 0 0 hc eff calm outside room readable s1 rs places
  obtain ⟨rays, completes, -⟩ := trav fits
  have none := completes.not_numbered unnumbered
  rw [trav_tracing] at none
  cases none

end Sys2Proof.Machine
end

section
/-! Messages leave their cores (R164, R165): the checks of `amsend`, its core's buffer, and the message that it sends. -/
namespace Sys2Proof.Machine

set_option Elab.async false

theorem amTargetLegal_iff (t : Nat) : amTargetLegal t = true ↔
    bits t 31 25 = 0 ∧ bits t 63 40 = 0 ∧ bits t 24 16 ≤ 256 ∧ bits t 6 0 < if bit t 7 then 22 else 88 := by
  cases h : bit t 7 <;> simp [amTargetLegal, h, and_assoc]

/-- A word that, once memory has been read, changes nothing of its group but calls for an event. -/
theorem completes_onward_later (s : State) (c : WCtx) (e : Instr) : Completes (.next (finish (later s e) c)) s c [e] 0 (Kept s) := by
  obtain ⟨t, ends, only, kept⟩ := completes_onward (later s e) c
  have rest := only.rest
  rw [List.append_nil] at rest
  exact ⟨t, ends, ⟨rest, only.others, fun l => (only.bytes l).trans (homeByte_groups s _ rfl (fun _ => rfl) l)⟩, kept⟩

/-- The message that `amsend` makes in the machine that has read its payload. -/
def msgOf (s : State) (c : WCtx) (d scope : Nat) (away : Option (Nat × Nat)) (data : List (BitVec 8)) (bad : List Nat) : Msg :=
  let t := (c.g.s d).toNat
  { id := s.nextId, ctx := c.g.ctx, core := c.g.core, any := bit t 7, target := bits t 6 0, handler := bits t 15 8, peer := bits t 39 32, away, data,
    bad, scope, paired := pairedOf s c.g }

/-- The machine once a message stands in its core's buffer of `held`, its frames at the cluster's station. -/
def messageSent (s : State) (core held : Nat) (m : Msg) : State :=
  sendFrames { fqTake { s with nextId := s.nextId + 1 } (200 + core) 16 held with outMsgs := s.outMsgs ++ [m] } m.id .message
    (clusterStation s (core / 4)) (m.station s) m.data.length

/-! A fresh key changes no team and no station. -/

theorem pairedOf_newId (s : State) (g : Group) : pairedOf (newId s).1 g = pairedOf s g := rfl
theorem clusterStation_newId (s : State) (k : Nat) : clusterStation (newId s).1 k = clusterStation s k := rfl
theorem Msg.station_newId (s : State) (m : Msg) : m.station (newId s).1 = m.station s := rfl

section
variable {s : State} {c : WCtx} {d : BitVec 7} {x p g : BitVec 3} {n : BitVec 1} (h : Issues s c) (he : c.eff ≠ 0)
include h he

theorem execAmsend_illegal (bad : amTargetLegal (c.g.s d.toNat).toNat = false) :
    exec (.amsend d x n p g) s = .next (takeFault s c.key c.si ⟨0x08, 1, d.toNat, c.low⟩ c.sp.pc false) :=
  (exec_amsend d x n p g s).trans (runWord_trap h he _ (by simp only [bad]; rfl))

variable (legal : amTargetLegal (c.g.s d.toNat).toNat = true) {away : Option (Nat × Nat)} {ls : List Loc}
  (peer : amPeer s c d.toNat (bits (c.g.s d.toNat).toNat 39 32) = .ok away)
  (payload : uniform s c g.toNat (if g = 0 then (c.g.s (d.toNat + 1)).toNat else (c.g.s (d.toNat + 1)).toNat % 2 ^ 32)
    (bits (c.g.s d.toNat).toNat 24 16) 0 = .ok ls)
include legal peer payload

theorem execAmsend_waits (full : fqFull s (200 + c.g.core) 16 (heldMsgs s c.g.core).length = true) (blocks : n = 0) :
    exec (.amsend d x n p g) s = .next (stalled s c) := by
  subst blocks
  exact (exec_amsend d x 0 p g s).trans (runWord_stall h he _ (by simp only [legal, peer, payload, Try.ok_bind, full]; rfl))

variable (outside : c.g.inRegion = false)
include outside

theorem execAmsend_refused (full : fqFull s (200 + c.g.core) 16 (heldMsgs s c.g.core).length = true) (passes : n = 1) :
    exec (.amsend d x n p g) s = .next (finish (nbWrite s c p.toNat false) c) := by
  subst passes
  exact (exec_amsend d x 1 p g s).trans (runWord_ok h he _ (by
    simp only [legal, peer, payload, Try.ok_bind, full, unbuffered_outside outside]; rfl))

theorem execAmsend_sends (room : fqFull s (200 + c.g.core) 16 (heldMsgs s c.g.core).length = false) :
    let r := engRead (releaseAct s c.key c.g.core (max 5 x.toNat) (pairedOf s c.g)) c.g.core c.g.ctx ls
    let m := msgOf r.1 c d.toNat x.toNat away r.2.1 r.2.2
    let s3 := messageSent r.1 c.g.core (heldMsgs s c.g.core).length m
    exec (.amsend d x n p g) s = .next (finish (later (if n = 1 then nbWrite s3 c p.toNat true else s3) (.messageArrival m.id)) c) := by
  intro r m s3
  rw [← nbWrite_later]
  exact (exec_amsend d x n p g s).trans (runWord_ok h he _ (by
    simp only [legal, peer, payload, Try.ok_bind, room, unbuffered_outside outside, pairedOf_newId, clusterStation_newId, Msg.station_newId]
    simp only [newId]
    rfl))

end

/-- Settles O32: the target's check, then the core's buffer, then the message. -/
theorem messageSend : Obligations.MessageSend := by
  intro s c d x p g n h he outside i t a legal held
  have legal_iff : amTargetLegal t = true ↔ legal := amTargetLegal_iff t
  refine ⟨fun bad => execAmsend_illegal h he (Bool.eq_false_iff.2 fun l => bad (legal_iff.1 l)), fun ok away ls peer payload =>
    ⟨fun full => ⟨execAmsend_waits h he (legal_iff.2 ok) peer payload full, fun passes => ?_⟩, fun room => ?_⟩⟩
  · exact execAmsend_refused h he (legal_iff.2 ok) peer payload outside full passes ▸ completes_refused h p
  · intro r m s2 s3 s4
    rw [execAmsend_sends h he (legal_iff.2 ok) peer payload outside room]
    exact completes_onward_later s4 c (.messageArrival m.id)

end Sys2Proof.Machine
end

section
/-! Barriers (R235): a split that arrives waits, and the last of its team lets every one of them go on. -/
namespace Sys2Proof

set_option Elab.async false

/-! ### Entries of a table -/

theorem Tab.mem_of_find {β : Type} {t : Tab β} {k : Nat} {v : β} (h : Tab.find t k = some v) : (k, v) ∈ t := by
  induction t with
  | nil => cases h
  | cons e t ih =>
    simp only [Tab.find] at h
    split at h
    case isTrue own => cases h; subst own; exact List.mem_cons_self ..
    case isFalse other => exact List.mem_cons_of_mem _ (ih h)

theorem Tab.find_of_mem {β : Type} {t : Tab β} (rising : Tab.rising t = true) {e : Nat × β} (h : e ∈ t) : Tab.find t e.1 = some e.2 := by
  rw [Tab.rising_iff] at rising
  induction t with
  | nil => cases h
  | cons x t ih =>
    obtain ⟨before, rest⟩ := List.pairwise_cons.1 rising
    rcases List.mem_cons.1 h with rfl | h
    · simp [Tab.find]
    · have : x.1 ≠ e.1 := Nat.ne_of_lt (before e h)
      simp only [Tab.find, if_neg this, ih rest h]

theorem Tab.rising_modify {β : Type} {t : Tab β} (k : Nat) (f : β → β) (h : Tab.rising t = true) : Tab.rising (Tab.modify t k f) = true := by
  unfold Tab.modify
  split
  · exact Tab.rising_put _ _ _ h
  · exact h

/-- The entries of a rising table that a test picks have different keys. -/
theorem Tab.nodup_keys {β : Type} {t : Tab β} (rising : Tab.rising t = true) (p : Nat × β → Bool) : ((t.filter p).map Prod.fst).Nodup := by
  rw [Tab.rising_iff] at rising
  exact List.pairwise_map.2 ((rising.filter p).imp Nat.ne_of_lt)

/-- An entry that a write replaces is the one that its key finds. -/
theorem Tab.mem_put_or_find {β : Type} {t : Tab β} {e : Nat × β} (h : e ∈ t) (k : Nat) (v : β) :
    e ∈ Tab.put t k v ∨ (e.1 = k ∧ Tab.find t k = some e.2) := by
  induction t with
  | nil => cases h
  | cons x t ih =>
    simp only [Tab.put, Tab.find]
    by_cases before : k < x.1
    · rw [if_pos before]
      exact .inl (List.mem_cons_of_mem _ h)
    · rw [if_neg before]
      by_cases own : x.1 = k
      · rw [if_pos own, if_pos own]
        rcases List.mem_cons.1 h with rfl | h
        · exact .inr ⟨own, rfl⟩
        · exact .inl (List.mem_cons_of_mem _ h)
      · rw [if_neg own, if_neg own]
        rcases List.mem_cons.1 h with rfl | h
        · exact .inl (List.mem_cons_self ..)
        · exact (ih h).imp_left (List.mem_cons_of_mem _)

/-- A change of one key's value leaves every other entry, and changes the one that the key finds. -/
theorem Tab.mem_modify {β : Type} {t : Tab β} {e : Nat × β} (h : e ∈ t) (k : Nat) (f : β → β) :
    e ∈ Tab.modify t k f ∨ (e.1 = k ∧ Tab.find t k = some e.2 ∧ (k, f e.2) ∈ Tab.modify t k f) := by
  cases found : Tab.find t k with
  | none => exact .inl (by rwa [Tab.modify, found])
  | some v =>
    simp only [Tab.modify, found]
    refine (Tab.mem_put_or_find h k (f v)).imp_right fun ⟨own, same⟩ => ⟨own, found ▸ same, ?_⟩
    rw [found] at same
    cases same
    exact Tab.mem_of_find (Tab.find_put_same ..)

namespace Machine

theorem mem_teamGroups {s : State} {team : Nat} {e : Nat × Group} : e ∈ teamGroups s team ↔ e ∈ s.groups ∧ e.2.team = team := by
  simp [teamGroups]

/-! ### A group at a barrier -/

theorem atBar_iff (g : Group) (id : Nat) : atBar g id = true ↔ g.splits ≠ [] ∧ ∀ y ∈ g.splits, ∃ k, y.2.barWait = some (id, k) := by
  have waits (w : Option (Nat × Nat)) : (match w with
      | some (i, _) => i == id
      | none => false) = true ↔ ∃ k, w = some (id, k) := by
    rcases w with _ | ⟨i, k⟩ <;> simp
  simp only [atBar, Bool.and_eq_true, Bool.not_eq_true', List.isEmpty_eq_false_iff, List.all_eq_true]
  exact and_congr_right fun _ => forall₂_congr fun y _ => waits y.2.barWait

/-- A group one of whose splits waits at no barrier of the ID. -/
theorem not_atBar {g : Group} {y : Nat × Split} (mem : y ∈ g.splits) {id : Nat} (h : ∀ k, y.2.barWait ≠ some (id, k)) : atBar g id = false := by
  rw [Bool.eq_false_iff, Ne, atBar_iff]
  rintro ⟨-, all⟩
  obtain ⟨k, hk⟩ := all y mem
  exact h k hk

/-! ### The phase that completes -/

/-- A split that waited at the barrier goes on. -/
def Split.passOn (x : Split) : Split :=
  if x.barWait.isSome then { x with barWait := none, pc := x.pc + 1, clause := clauseAt x.clause (x.pc + 1) } else x

def Group.passOn (g : Group) : Group := { g with splits := g.splits.map fun x => (x.1, x.2.passOn) }

/-- A phase at scopes without memory actions only lets the splits go on. -/
theorem passBar_still {s : State} {team : Nat}
    (still : ∀ e ∈ teamGroups s team, ∀ y ∈ e.2.splits, ∀ b, y.2.barWait = some b → scopeActs b.2 ((teamGroups s team).any fun e => pairedOf s e.2) = false) :
    passBar s team = (teamGroups s team).foldl (fun s e => updG s e.1 Group.passOn) s := by
  have idle (xs : List (Nat × Nat × Nat)) (pr : Bool) (h : ∀ x ∈ xs, scopeActs x.2.2 pr = false) (s : State) :
      xs.foldl (fun s x => releaseAct s x.1 x.2.1 x.2.2 pr) s = s ∧ xs.foldl (fun s x => acquireAct s x.2.1 x.2.2 pr) s = s :=
    ⟨foldl_keeps (· = s) _ xs s rfl fun t ht x hx => by rw [ht, releaseAct, h x hx]; rfl,
      foldl_keeps (· = s) _ xs s rfl fun t ht x hx => by rw [ht, acquireAct, h x hx]; rfl⟩
  have passed : (fun (s : State) (e : Nat × Group) => updG s e.1 fun g => { g with splits := g.splits.map fun x =>
      if x.2.barWait.isSome then (x.1, { x.2 with barWait := none, pc := x.2.pc + 1, clause := clauseAt x.2.clause (x.2.pc + 1) }) else x })
      = fun s e => updG s e.1 Group.passOn := by
    funext s e
    refine congrArg (updG s e.1) (funext fun g => congrArg (fun t => ({ g with splits := t } : Group)) (List.map_congr_left fun x _ => ?_))
    unfold Split.passOn
    split <;> rfl
  simp only [passBar, passed]
  rw [(idle _ _ ?_ _).1, (idle _ _ ?_ _).2]
  all_goals
    intro x hx
    obtain ⟨e, he, hx⟩ := List.mem_flatMap.1 hx
    obtain ⟨y, hy, hx⟩ := List.mem_filterMap.1 hx
    obtain ⟨b, hb, rfl⟩ := Option.map_eq_some_iff.1 hx
    exact still e he y hy b hb

/-- The groups after one change of each of some of them. -/
theorem find_foldl_updG (f : Group → Group) (l : List (Nat × Group)) (once : (l.map Prod.fst).Nodup) (s : State) (k : Nat) :
    Tab.find (l.foldl (fun s e => updG s e.1 f) s).groups k = if k ∈ l.map Prod.fst then (Tab.find s.groups k).map f else Tab.find s.groups k := by
  induction l generalizing s with
  | nil => simp
  | cons e l ih =>
    rw [List.map_cons, List.nodup_cons] at once
    rw [List.foldl_cons, ih once.2, find_updG]
    by_cases own : k = e.1
    · subst own; simp [once.1]
    · rw [if_neg own]
      exact if_congr (by rw [List.map_cons, List.mem_cons, or_iff_right own]) rfl rfl

/-! ### Completing the barriers of a team -/

/-- While a group of the team is at no barrier of any ID, none completes. -/
theorem checkBars_open {s : State} {team : Nat} {e : Nat × Group} (mem : e ∈ teamGroups s team) (away : ∀ id, atBar e.2 id = false) :
    checkBars s team = s := by
  refine foldl_keeps (· = s) _ _ s rfl fun t ht id _ => ?_
  subst ht
  refine if_neg fun all => ?_
  simp only [Bool.and_eq_true, List.all_eq_true] at all
  exact absurd (all.2 e mem) (by simp [away id])

/-- A loop in which one round does something. -/
theorem foldl_once {α σ : Type} {f : σ → α → σ} {a b : σ} {i : α} (skip : ∀ x, x ≠ i → f a x = a) (hit : f a i = b) (stay : ∀ x, f b x = b)
    {l : List α} (mem : i ∈ l) : l.foldl f a = b := by
  induction l with
  | nil => cases mem
  | cons x l ih =>
    rw [List.foldl_cons]
    by_cases own : x = i
    · rw [own, hit]
      exact foldl_keeps (· = b) f l b rfl fun t ht y _ => by rw [ht, stay]
    · rw [skip x own]
      exact ih ((List.mem_cons.1 mem).resolve_left (Ne.symm own))

/-- The barrier that every group of a team has reached completes, and then none of the team is at one. -/
theorem checkBars_passes {s : State} {team id : Nat} (small : id < 16) (real : team ≠ 0) {e e' : Nat × Group} (mem : e ∈ teamGroups s team)
    (all : ∀ e ∈ teamGroups s team, atBar e.2 id = true) (mem' : e' ∈ teamGroups (passBar s team) team) (away : ∀ id, atBar e'.2 id = false) :
    checkBars s team = passBar s team := by
  unfold checkBars
  refine foldl_once ?_ ?_ ?_ (List.mem_range.2 small)
  · refine fun x hx => if_neg fun h => ?_
    simp only [Bool.and_eq_true, List.all_eq_true] at h
    obtain ⟨some, waits⟩ := (atBar_iff _ _).1 (all e mem)
    obtain ⟨y, hy⟩ := List.exists_mem_of_ne_nil _ some
    obtain ⟨k, hk⟩ := waits y hy
    exact absurd (h.2 e mem) (by rw [not_atBar hy fun k' hk' => hx (by rw [hk] at hk'; cases hk'; rfl)]; simp)
  · refine if_pos ?_
    simp only [Bool.and_eq_true, List.all_eq_true]
    exact ⟨⟨by simpa using List.ne_nil_of_mem mem, by simpa using real⟩, all⟩
  · refine fun x => if_neg fun h => ?_
    simp only [Bool.and_eq_true, List.all_eq_true] at h
    exact absurd (h.2 e' mem') (by simp [away x])

/-! ### `bar` -/

/-- The split of a word that waits at a barrier. -/
def barred (i k : Nat) (x : Split) : Split := { x with barWait := some (i, k) }

section
variable {s : State} {c : WCtx} {x : BitVec 3} {i : BitVec 4} (h : Issues s c)
include h

theorem execBar_forbidden (may : ¬ (c.g.kind ≠ .handler ∧ c.g.trapMask = none)) :
    exec (.bar x i) s = .next (takeFault s c.key c.si ⟨0x08, 3, 0, (lanesOf c.g.width c.sp.mask).headD 0⟩ c.sp.pc false) := by
  have bad : c.g.kind = .handler ∨ c.g.trapMask.isSome := by
    by_cases kind : c.g.kind = .handler
    · exact .inl kind
    · exact .inr (Option.isSome_iff_ne_none.2 fun none => may ⟨kind, none⟩)
  rw [exec_bar, execBar, runCtl_eq h, if_pos bad]; rfl

variable (may : c.g.kind ≠ .handler ∧ c.g.trapMask = none)
include may

theorem execBar_otherId {e : Nat × Split} (mem : e ∈ c.g.splits) {j y : Nat} (waits : e.2.barWait = some (j, y)) (other : j ≠ i.toNat) :
    exec (.bar x i) s = .next (takeFault s c.key c.si ⟨0x08, 1, 0, (lanesOf c.g.width c.sp.mask).headD 0⟩ c.sp.pc false) := by
  rw [exec_bar, execBar, runCtl_eq h, if_neg (by simp [may]), if_pos]
  · rfl
  · exact List.any_eq_true.2 ⟨e, mem, by simp [waits, other]⟩

theorem execBar_arrives (same : ∀ e ∈ c.g.splits, ∀ j y, e.2.barWait = some (j, y) → j = i.toNat) :
    exec (.bar x i) s = .next (retire (checkBars (setSplit s c.key c.si (barred i.toNat x.toNat)) c.g.team) c) := by
  rw [exec_bar, execBar, runCtl_eq h, if_neg (by simp [may]), if_neg]
  · rfl
  · rw [List.any_eq_true]
    rintro ⟨e, mem, differs⟩
    split at differs
    case h_1 j y waits => exact absurd (same e mem j y waits) (by simpa using differs)
    case h_2 => cases differs

end

theorem Issues.team {s : State} {c : WCtx} (h : Issues s c) {g : Group} (hg : Tab.find s.groups c.key = some g) : c.g.team = g.team := by
  obtain ⟨g', _, hg', e, -⟩ := h.group
  rw [hg] at hg'; cases hg'
  obtain ⟨a, b, r, hr⟩ := seen_rest s.fresh g
  rw [e, hr]

/-- A split of the team that waits nowhere, other than the one that arrives, still waits nowhere when that one has arrived. -/
theorem mem_teamGroups_setSplit {s : State} {key si : Nat} (f : Split → Split) {team : Nat} {e : Nat × Group} (mem : e ∈ teamGroups s team)
    {y : Nat × Split} (hy : y ∈ e.2.splits) (other : ¬ (e.1 = key ∧ y.1 = si)) :
    ∃ e' ∈ teamGroups (setSplit s key si f) team, y ∈ e'.2.splits := by
  obtain ⟨mem, team⟩ := mem_teamGroups.1 mem
  rcases Tab.mem_modify mem key fun g => { g with splits := Tab.modify g.splits si f } with kept | ⟨own, -, changed⟩
  · exact ⟨e, mem_teamGroups.2 ⟨kept, team⟩, hy⟩
  · refine ⟨_, mem_teamGroups.2 ⟨changed, team⟩, ?_⟩
    exact (Tab.mem_modify hy si f).resolve_right fun found => other ⟨own, found.1⟩

/-- One split of a group changed in place. -/
theorem setSplit_put {s : State} {key si : Nat} {g : Group} {sp : Split} (f : Split → Split) (hg : Tab.find s.groups key = some g)
    (hs : Tab.find g.splits si = some sp) :
    setSplit s key si f = { s with groups := Tab.put s.groups key { g with splits := Tab.put g.splits si (f sp) } } := by
  simp only [setSplit, updG, Tab.modify, hg, hs]

/-- While another split of the team is away, the split that arrives waits at the word. -/
theorem execBar_waits {s : State} {c : WCtx} (h : Issues s c) {i k : Nat} {e : Nat × Group} (mem : e ∈ teamGroups s c.g.team)
    {y : Nat × Split} (hy : y ∈ e.2.splits) (other : ¬ (e.1 = c.key ∧ y.1 = c.si)) (away : y.2.barWait = none) :
    Redirects (.next (retire (checkBars (setSplit s c.key c.si (barred i k)) c.g.team) c)) s c fun g g' =>
      SplitsAre [(c.si, { c.sp with barWait := some (i, k), stall := false })] g g' ∧ TokensAre [] g g' := by
  obtain ⟨g, sp, hg, -, hsp, here, -⟩ := h.group
  obtain ⟨e', mem', hy'⟩ := mem_teamGroups_setSplit (barred i k) mem hy other
  rw [checkBars_open mem' fun id => not_atBar hy' (by simp [away]), setSplit_put _ hg hsp]
  refine redirects_put hg rfl ⟨?_, tokensAre_nil rfl⟩
  rw [here]
  exact splitsAre_own (x := barred i k sp) rfl

/-! ### The last arrival -/

/-- A group of a team as the phase that completes leaves it. -/
theorem find_passBar {s : State} {team : Nat} (rising : Tab.rising s.groups = true) (unpaired : ∀ e ∈ teamGroups s team, pairedOf s e.2 = false)
    {i : Nat} (waits : ∀ e ∈ teamGroups s team, ∀ y ∈ e.2.splits, y.2.barWait = some (i, 2)) {k : Nat} {g : Group}
    (hg : Tab.find s.groups k = some g) (own : g.team = team) : Tab.find (passBar s team).groups k = some g.passOn := by
  have pairs : ((teamGroups s team).any fun e => pairedOf s e.2) = false := List.any_eq_false.2 fun e he => by simp [unpaired e he]
  have once : ((teamGroups s team).map Prod.fst).Nodup := Tab.nodup_keys rising _
  rw [passBar_still, find_foldl_updG _ _ once, if_pos, hg]
  · rfl
  · exact List.mem_map.2 ⟨_, mem_teamGroups.2 ⟨Tab.mem_of_find hg, own⟩, rfl⟩
  · intro e he y hy b hb
    rw [waits e he y hy] at hb
    cases hb
    rw [pairs]; rfl

theorem passOn_waiting {g : Group} {j : Nat} {y : Split} {b : Nat × Nat} (h : Tab.find g.splits j = some { y with barWait := some b }) :
    Tab.find g.passOn.splits j = some { y with barWait := none, pc := y.pc + 1, clause := clauseAt y.clause (y.pc + 1) } := by
  refine (Tab.find_map g.splits j Split.passOn).trans ?_
  rw [h]; rfl

section
variable {s : State} {c : WCtx} {i : Nat} {g : Group} (hg : Tab.find s.groups c.key = some g)
  (waits : ∀ e ∈ teamGroups s g.team, e.2.splits ≠ [] ∧ ∀ y ∈ e.2.splits, (e.1 = c.key ∧ y.1 = c.si) ∨ y.2.barWait = some (i, 2))
include hg waits

/-- A group of the team once the last split has arrived: each split waits where it stood. -/
theorem find_lastArrival {k : Nat} {a : Group} (ha : Tab.find s.groups k = some a) (team : a.team = g.team) :
    ∃ b, Tab.find (setSplit s c.key c.si (barred i 2)).groups k = some b ∧ b.team = g.team
      ∧ ∀ j y, Tab.find a.splits j = some y → Tab.find b.splits j = some { y with barWait := some (i, 2) } := by
  by_cases own : k = c.key
  · subst own
    rw [hg] at ha
    cases ha
    refine ⟨{ g with splits := Tab.modify g.splits c.si (barred i 2) }, by simp [setSplit, hg], rfl, fun j y hy => ?_⟩
    rw [Tab.find_modify]
    split
    case isTrue here => rw [← here, hy]; rfl
    case isFalse other =>
      have same := ((waits _ (mem_teamGroups.2 ⟨Tab.mem_of_find hg, rfl⟩)).2 (j, y) (Tab.mem_of_find hy)).resolve_left fun mine => other mine.2
      rw [hy, ← same]
  · refine ⟨a, ?_, team, fun j y hy => ?_⟩
    · rw [setSplit, find_updG, if_neg own, ha]
    · have same := ((waits _ (mem_teamGroups.2 ⟨Tab.mem_of_find ha, team⟩)).2 (j, y) (Tab.mem_of_find hy)).resolve_left fun mine => own mine.1
      rw [hy, ← same]

variable {sp : Split} (hsp : Tab.find g.splits c.si = some sp) (rising : Tab.rising s.groups = true) (ordered : Tab.rising g.splits = true)
include hsp rising ordered

/-- When the last split has arrived, every split of the team waits. -/
theorem teamGroups_lastArrival {e : Nat × Group} (mem : e ∈ teamGroups (setSplit s c.key c.si (barred i 2)) g.team) :
    e.2.splits ≠ [] ∧ ∀ y ∈ e.2.splits, y.2.barWait = some (i, 2) := by
  obtain ⟨mem, team⟩ := mem_teamGroups.1 mem
  have found := Tab.find_of_mem (Tab.rising_modify _ _ rising) mem
  rw [Tab.find_modify] at found
  split at found
  case isTrue own =>
    rw [hg] at found
    obtain ⟨n, g'⟩ := e
    cases found
    refine ⟨List.ne_nil_of_mem (Tab.mem_of_find (k := c.si) (v := barred i 2 sp) ?_), fun y hy => ?_⟩
    · rw [Tab.find_modify_same, hsp]; rfl
    · have here := Tab.find_of_mem (Tab.rising_modify _ _ ordered) hy
      rw [Tab.find_modify, hsp] at here
      split at here
      case isTrue => rw [← Option.some.inj here]; rfl
      case isFalse other =>
        exact ((waits _ (mem_teamGroups.2 ⟨Tab.mem_of_find hg, rfl⟩)).2 (y.1, y.2) (Tab.mem_of_find here)).resolve_left fun mine => other mine.2
  case isFalse other =>
    obtain ⟨some, each⟩ := waits e (mem_teamGroups.2 ⟨Tab.mem_of_find found, team⟩)
    exact ⟨some, fun y hy => (each y hy).resolve_left fun mine => other mine.1⟩

variable (small : i < 16) (unpaired : pairedOf s g = false) (real : g.team ≠ 0)
include small unpaired real

/-- The last arrival of an unpaired team at team scope lets every split of the team go on. -/
theorem find_checkBars_last {k : Nat} {a : Group} (ha : Tab.find s.groups k = some a) (team : a.team = g.team) :
    ∃ b, Tab.find (checkBars (setSplit s c.key c.si (barred i 2)) g.team).groups k = some b
      ∧ ∀ j y, Tab.find a.splits j = some y →
        Tab.find b.splits j = some { y with barWait := none, pc := y.pc + 1, clause := clauseAt y.clause (y.pc + 1) } := by
  have all {e : Nat × Group} := teamGroups_lastArrival hg waits hsp rising ordered (e := e)
  have each {k : Nat} {a : Group} (ha : Tab.find s.groups k = some a) (team : a.team = g.team) := find_lastArrival hg waits ha team
  have passed {k : Nat} {b : Group} := find_passBar (s := setSplit s c.key c.si (barred i 2)) (Tab.rising_modify _ _ rising)
    (fun e he => by rw [pairedOf, teamOf, (mem_teamGroups.1 he).2]; exact unpaired) (fun e he => (all he).2) (k := k) (g := b)
  obtain ⟨own, found, same, stands⟩ := each hg rfl
  have ends := passed found same
  have calm := Tab.mem_of_find (passOn_waiting (stands c.si sp hsp))
  rw [checkBars_passes small real (mem_teamGroups.2 ⟨Tab.mem_of_find found, same⟩) (fun e he => (atBar_iff _ _).2 ⟨(all he).1, fun y hy => ⟨2, (all he).2 y hy⟩⟩)
    (mem_teamGroups.2 ⟨Tab.mem_of_find ends, same⟩) fun id => not_atBar calm (by simp)]
  obtain ⟨b, hb, same, stands⟩ := each ha team
  exact ⟨b.passOn, passed hb same, fun j y hy => passOn_waiting (stands j y hy)⟩

end

/-- The last arrival, once its word has retired. -/
theorem execBar_last {s : State} {c : WCtx} (h : Issues s c) {i : Nat} (small : i < 16) (unpaired : pairedOf s c.g = false) (real : c.g.team ≠ 0)
    (rising : Tab.rising s.groups = true) (ordered : Tab.rising c.g.splits = true)
    (waits : ∀ e ∈ teamGroups s c.g.team, e.2.splits ≠ [] ∧ ∀ y ∈ e.2.splits, (e.1 = c.key ∧ y.1 = c.si) ∨ y.2.barWait = some (i, 2))
    {k : Nat} {a : Group} (ha : Tab.find s.groups k = some a) (team : a.team = c.g.team) :
    ∃ b, Tab.find (retire (checkBars (setSplit s c.key c.si (barred i 2)) c.g.team) c).groups k = some b ∧ ∀ j y, Tab.find a.splits j = some y →
      ∃ y', Tab.find b.splits j = some y' ∧ y'.pc = y.pc + 1 ∧ y'.barWait = none ∧ y'.mask = y.mask := by
  obtain ⟨g, sp, hg, -, hsp, -⟩ := h.group
  have paired : pairedOf s c.g = pairedOf s g := by rw [pairedOf, pairedOf, teamOf, teamOf, h.team hg]
  rw [h.team hg] at *
  obtain ⟨b, hb, each⟩ := find_checkBars_last hg waits hsp rising ((h.tables hg).1 ▸ ordered) small (paired ▸ unpaired) real ha team
  by_cases own : k = c.key
  · subst own
    exact ⟨_, (find_retire _ c).trans (by rw [hb]; rfl), fun j y hy => ⟨_, find_retired (each j y hy), rfl, rfl, rfl⟩⟩
  · exact ⟨b, (find_retire_ne _ c own).trans hb, fun j y hy => ⟨_, each j y hy, rfl, rfl, rfl⟩⟩

/-- Settles O26: the checks, then the arrival, which waits for the team or ends its wait. -/
theorem barrierWord : Obligations.BarrierWord := by
  intro s c x i h low may same mine
  refine ⟨execBar_forbidden h, fun ok bad => ?_, fun ok ids ⟨e, he, y, hy, other, away⟩ => ?_, fun ok ids scope unpaired real rising ordered waits => ?_⟩
  · obtain ⟨e, he, j, y, at', other⟩ : ∃ e ∈ c.g.splits, ∃ j y, e.2.barWait = some (j, y) ∧ j ≠ i.toNat := by
      simpa only [same, not_forall, exists_prop] using bad
    exact execBar_otherId h ok he at' other
  · rw [execBar_arrives h ok ids]
    exact execBar_waits h he hy other away
  · subst scope
    exact ⟨_, execBar_arrives h ok ids, fun k g hg team => execBar_last h i.isLt unpaired real rising ordered waits hg team⟩

end Machine
end Sys2Proof
end

section
/-! The keyway's events (R143 to R152, R159): interests, refreshes and expiries at waypoints, tiles at their homes and on their way back, and
close notices at slices. -/
namespace Sys2Proof.Machine

set_option Elab.async false

/-! ### Frames that move -/

/-- The machine without what stands in the fabric's buffers. -/
def State.ashore (s : State) : State := { s with frames := [], fqueues := [] }

theorem eq_of_ashore {s t : State} (h : t.ashore = s.ashore) : ∃ fr fq, t = { s with frames := fr, fqueues := fq } :=
  ⟨t.frames, t.fqueues, congrArg (fun u : State => { u with frames := t.frames, fqueues := t.fqueues }) h⟩

@[simp] theorem setFq_ashore (s : State) (q : Nat) (f : FQueue → FQueue) : (setFq s q f).ashore = s.ashore := rfl
@[simp] theorem setLeg_ashore (s : State) (f : Frame) (k : Nat) : (setLeg s f k).ashore = s.ashore := rfl
@[simp] theorem fqLeave_ashore (s : State) (q count : Nat) : (fqLeave s q count).ashore = s.ashore := by unfold fqLeave; split <;> rfl
@[simp] theorem fqTake_ashore (s : State) (q cap count : Nat) : (fqTake s q cap count).ashore = s.ashore := by unfold fqTake; split <;> rfl

@[simp] theorem moveFrame_ashore (s : State) (f : Frame) (lim : Nat) : (moveFrame s f lim).1.ashore = s.ashore := by
  simp only [moveFrame]
  repeat' split
  all_goals simp

theorem moveFrames_ashore (lim : Nat) (fs : List Frame) (s : State) : (moveFrames lim fs s).ashore = s.ashore := by
  induction fs generalizing lim s with
  | nil => rfl
  | cons f fs ih => exact (ih _ _).trans (moveFrame_ashore ..)

/-- What an ID names moves on. -/
@[simp] theorem bringFrame_ashore (s : State) (id : Nat) : (bringFrame s id).ashore = s.ashore := by
  unfold bringFrame
  split
  · exact moveFrames_ashore ..
  · rfl

/-- What does not look at the fabric's buffers. -/
theorem same_of_ashore {α : Type} {s t : State} (h : t.ashore = s.ashore) (F : State → α) (blind : ∀ s : State, F s.ashore = F s := by exact fun _ => rfl) :
    F t = F s := by
  rw [← blind t, h, blind s]

theorem bringFrame_same {α : Type} (F : State → α) {s : State} {id : Nat} (blind : ∀ s : State, F s.ashore = F s := by exact fun _ => rfl) :
    F (bringFrame s id) = F s :=
  same_of_ashore (bringFrame_ashore s id) F blind

@[simp] theorem dropFrames_ashore (s : State) (id : Nat) : (dropFrames s id).ashore = s.ashore :=
  foldl_same State.ashore _ (fun _ _ => fqLeave_ashore ..) _ _

/-! ### Flits -/

theorem dropFlit_eq (s : State) (id : Nat) :
    ∃ fr fq, dropFlit s id = { s with kflits := s.kflits.filter fun e => e.1 != id, frames := fr, fqueues := fq } :=
  eq_of_ashore (s := { s with kflits := s.kflits.filter fun e => e.1 != id }) (dropFrames_ashore ..)

theorem sendFlit_eq (s : State) (f : KFlit) :
    ∃ fr ag, sendFlit s f = { s with kflits := s.kflits ++ [(s.nextId, f)], nextId := s.nextId + 1, frames := fr, agenda := ag } := by
  have framed (s : State) (id : Nat) : ∃ fr, flitFrames s id f = { s with frames := fr } := by
    unfold flitFrames
    split
    · exact ⟨_, rfl⟩
    · split
      · exact ⟨s.frames, rfl⟩
      · exact ⟨_, rfl⟩
    · exact ⟨s.frames, rfl⟩
  obtain ⟨fr, e⟩ := framed { s with kflits := s.kflits ++ [(s.nextId, f)], nextId := s.nextId + 1 } s.nextId
  exact ⟨fr, _, congrArg (fun t => laterAll t (flitEvents s.nextId f)) e⟩

/-- What does not look at flits. -/
theorem dropFlit_same {α : Type} (F : State → α) {s : State} {id : Nat}
    (h : ∀ s : State, F { s with kflits := [], frames := [], fqueues := [] } = F s := by exact fun _ => rfl) : F (dropFlit s id) = F s := by
  obtain ⟨fr, fq, e⟩ := dropFlit_eq s id
  rw [e, ← h, ← h s]

@[simp] theorem dropFlit_interests (s : State) (id : Nat) : (dropFlit s id).interests = s.interests := dropFlit_same State.interests

/-- Flits without those of an ID have none of it. -/
theorem flitOf_gone {s : State} {id : Nat} {fs : List (Nat × KFlit)} (h : s.kflits = fs.filter fun e => e.1 != id) : flitOf s id = none := by
  rw [flitOf, h, List.find?_eq_none.2 fun e he => by simpa using (List.mem_filter.1 he).2]
  rfl

theorem dropFlit_kflits (s : State) (id : Nat) : (dropFlit s id).kflits = s.kflits.filter fun e => e.1 != id := by
  obtain ⟨fr, fq, e⟩ := dropFlit_eq s id; rw [e]

theorem flitOf_dropFlit (s : State) (id : Nat) : flitOf (dropFlit s id) id = none := flitOf_gone (dropFlit_kflits s id)

@[simp] theorem sendFlit_interests (s : State) (f : KFlit) : (sendFlit s f).interests = s.interests := by
  obtain ⟨fr, ag, e⟩ := sendFlit_eq s f; rw [e]

@[simp] theorem sendFlit_kflits (s : State) (f : KFlit) : (sendFlit s f).kflits = s.kflits ++ [(s.nextId, f)] := by
  obtain ⟨fr, ag, e⟩ := sendFlit_eq s f; rw [e]

/-! ### An interest at a waypoint (R143, R147) -/

section
variable {s : State} {id wp prev src key ctx exp : Nat} (flit : flitOf s id = some (.interest wp prev src key ctx exp))
include flit

/-- An interest that no earlier one of its station goes with. -/
theorem execInterestArrival_alone (alone : interestsWith (bringFrame s id) id = [id]) :
    exec (.interestArrival id) s = .next ((takeInterest (bringFrame s id) id).getD (bringFrame s id)) := by
  rw [exec_interestArrival, execInterestArrival, flit]
  simp only [alone, takeInterests]
  cases takeInterest (bringFrame s id) id <;> rfl

variable (alive : deadStation s wp = false) (come : arrived s id = true)
include alive come

theorem takeInterest_served (home : wp = keyStation key) {t : State} (served : serveInterest s prev key ctx = some t) :
    takeInterest s id = some (dropFlit t id) := by
  subst home
  simp [takeInterest, flit, alive, come, served]

theorem takeInterest_entered (away : wp ≠ keyStation key) : takeInterest s id = (enterInterest s wp prev src key ctx exp).map (dropFlit · id) := by
  simp [takeInterest, flit, alive, come, away]

end

theorem serveInterest_held {s : State} {prev key ctx : Nat} {x : Tile} (alive : deadStation s (keyStation key) = false)
    (empty : liveAt s (keyStation key) key ctx = []) (held : tileAt s key ctx = some x) :
    serveInterest s prev key ctx = some (spendTile (fanOut s [prev] key ctx x.data x.bad 0) x) := by
  simp [serveInterest, alive, empty, held]

/-- The live entries of a waypoint's table. -/
abbrev liveInterests (s : State) (wp : Nat) : List Interest := s.interests.filter fun e => e.wp == wp && decide (s.time < e.expiry)

theorem filter_liveInterests (s : State) (wp : Nat) :
    (s.interests.filter fun e => e.wp != wp || decide (s.time < e.expiry)).filter (fun e => e.wp == wp) = liveInterests s wp := by
  rw [List.filter_filter]
  refine List.filter_congr fun e _ => ?_
  cases own : e.wp == wp <;> simp [own, bne]

section
variable {s : State} {wp prev src key ctx exp : Nat} (empty : liveAt s wp key ctx = [])
include empty

theorem enterInterest_full (full : 1024 ≤ (liveInterests s wp).length) :
    enterInterest s wp prev src key ctx exp = none := by
  rw [enterInterest, empty]
  simp only [List.find?_nil, filter_liveInterests, if_pos full]

/-- A new entry from another waypoint. -/
theorem enterInterest_new (other : prev ≠ wp) (room : (liveInterests s wp).length < 1024) :
    ∃ t, enterInterest s wp prev src key ctx exp = some t ∧ ∃ e ∈ t.interests, e.wp = wp ∧ e.key = key ∧ e.ctx = ctx ∧ e.expiry = exp ∧ e.ret = [prev]
      ∧ e.locals = false := by
  have foreign : (prev == wp) = false := by simpa using other
  rw [enterInterest, empty]
  simp only [List.find?_nil, filter_liveInterests, if_neg (Nat.not_le.2 room), if_neg other, foreign]
  generalize nextWay s wp src (keyStation key) = fwd
  have entry (live : List Interest) (e : Interest) : e ∈ live ++ [e] := by simp
  cases fwd with
  | none => exact ⟨_, rfl, _, entry _ _, rfl, rfl, rfl, rfl, rfl, rfl⟩
  | some f => exact ⟨_, rfl, _, by rw [sendFlit_interests]; exact entry _ _, rfl, rfl, rfl, rfl, rfl, rfl⟩

end

/-- An interest for a held tile with more than one use left, at its home. -/
theorem execInterestArrival_held {s : State} {id prev src key ctx exp : Nat} {x : Tile}
    (flit : flitOf s id = some (.interest (keyStation key) prev src key ctx exp)) (alive : deadStation s (keyStation key) = false)
    (come : arrived (bringFrame s id) id = true) (alone : interestsWith (bringFrame s id) id = [id]) (empty : liveAt s (keyStation key) key ctx = [])
    (held : tileAt s key ctx = some x) :
    exec (.interestArrival id) s = .next (dropFlit (spendTile (fanOut (bringFrame s id) [prev] key ctx x.data x.bad 0) x) id) := by
  rw [execInterestArrival_alone flit alone, takeInterest_served ((bringFrame_same (flitOf · id)).trans flit)
    ((bringFrame_same (deadStation · _)).trans alive) come rfl (serveInterest_held ((bringFrame_same (deadStation · _)).trans alive)
      ((bringFrame_same (liveAt · _ key ctx)).trans empty) ((bringFrame_same (tileAt · key ctx)).trans held)), Option.getD_some]

section
variable {s : State} {id wp prev src key ctx exp : Nat} (flit : flitOf s id = some (.interest wp prev src key ctx exp))
  (alive : deadStation s wp = false) (come : arrived (bringFrame s id) id = true) (alone : interestsWith (bringFrame s id) id = [id])
  (empty : liveAt s wp key ctx = []) (away : wp ≠ keyStation key)
include flit alive come alone away

theorem execInterestArrival_away : exec (.interestArrival id) s
    = .next (((enterInterest (bringFrame s id) wp prev src key ctx exp).map (dropFlit · id)).getD (bringFrame s id)) := by
  rw [execInterestArrival_alone flit alone, takeInterest_entered ((bringFrame_same (flitOf · id)).trans flit)
    ((bringFrame_same (deadStation · _)).trans alive) come away]

include empty

/-- An interest at another waypoint with room. -/
theorem execInterestArrival_enters (other : prev ≠ wp)
    (room : (liveInterests s wp).length < 1024) :
    ∃ t, exec (.interestArrival id) s = .next t ∧ flitOf t id = none
      ∧ ∃ e ∈ t.interests, e.wp = wp ∧ e.key = key ∧ e.ctx = ctx ∧ e.expiry = exp ∧ e.ret = [prev] ∧ e.locals = false := by
  obtain ⟨t, enters, entry⟩ := enterInterest_new (s := bringFrame s id) (src := src) (exp := exp)
    ((bringFrame_same (liveAt · wp key ctx)).trans empty) other ((bringFrame_same fun s => (liveInterests s wp).length).trans_lt room)
  rw [execInterestArrival_away flit alive come alone away, enters]
  exact ⟨dropFlit t id, rfl, flitOf_dropFlit t id, by rwa [dropFlit_interests]⟩

/-- An interest at another waypoint whose table is full. -/
theorem execInterestArrival_refused (full : 1024 ≤ (liveInterests s wp).length) :
    exec (.interestArrival id) s = .next (bringFrame s id) := by
  rw [execInterestArrival_away flit alive come alone away, enterInterest_full ((bringFrame_same (liveAt · wp key ctx)).trans empty)
    (full.trans_eq (bringFrame_same fun s => (liveInterests s wp).length).symm)]
  rfl

end

/-! ### Refreshes and expiries (R143, R144) -/

theorem execRefreshArrival_raises {s : State} {id wp key ctx exp : Nat} {e : Interest} (flit : flitOf s id = some (.refresh wp key ctx exp))
    (only : s.interests = [e]) (live : e.live s wp key ctx = true) (later : e.expiry < exp) (last : e.fwd = none) :
    ∃ t, exec (.refreshArrival id) s = .next t ∧ flitOf t id = none ∧ t.interests = [{ e with expiry := exp }] := by
  rw [exec_refreshArrival, execRefreshArrival, flit]
  obtain ⟨fr, fq, eq⟩ := dropFlit_eq s id
  simp only [eq]
  have entries : liveAt (refreshWaiting { s with kflits := s.kflits.filter fun e => e.1 != id, frames := fr, fqueues := fq } wp key ctx exp) wp key ctx
      = [e] := by
    refine (congrArg (List.filter fun e => e.live s wp key ctx) only).trans ?_
    simp [live]
  simp only [entries, List.find?_cons, later, decide_true, last]
  refine ⟨_, rfl, ?_, ?_⟩
  · refine Eq.trans (congrArg (Option.map Prod.snd) (List.find?_eq_none.2 fun f hf => ?_)) rfl
    obtain ⟨f', hf', rfl⟩ := List.mem_map.1 hf
    have kept := (List.mem_filter.1 hf').2
    split
    · split <;> simpa using kept
    · simpa using kept
  · refine (congrArg (List.map _) only).trans ?_
    simp

theorem execInterestExpiry_drops (s : State) (wp key ctx n : Nat) : ∃ t, exec (.interestExpiry wp key ctx n) s = .next t ∧ ∀ e, e ∈ t.interests ↔
    e ∈ s.interests ∧ ¬ (e.wp = wp ∧ e.key = key ∧ e.ctx = ctx ∧ e.expiry ≤ max s.time n) := by
  refine ⟨_, exec_interestExpiry wp key ctx n s, fun e => List.mem_filter.trans (and_congr_right fun _ => ?_)⟩
  simp [atTime, imp_iff_not_or, or_assoc]

/-- A record that is closed is freed. -/
theorem closeRec_recs {s : State} {r : KRec} {v : Nat} {fault : Option Rec} (other : v ≠ kwNever) :
    (closeRec s r v fault).recs = s.recs.filter fun x => x.id != r.id := by
  simp only [closeRec, other, if_false, false_and]
  split <;> rfl

theorem recOf_id {s : State} {id : Nat} {r : KRec} (found : recOf s id = some r) : r.id = id := by
  simpa using List.find?_some (p := fun r : KRec => r.id == id) found

theorem recOf_setRec {s : State} {id : Nat} {r : KRec} {f : KRec → KRec} (found : recOf s id = some r) (keeps : ∀ r, (f r).id = r.id) :
    recOf (setRec s id f) id = some (f r) := by
  have own (x : KRec) : ((if x.id == id then f x else x).id == id) = (x.id == id) := by split <;> simp [keeps]
  simp only [recOf, setRec, List.find?_map, Function.comp_def, own] at found ⊢
  have self : r.id = id := recOf_id found
  rw [found]
  simp [self]

theorem payRec_silent {s : State} {id v : Nat} {r : KRec} (found : recOf s id = some r) (owed : r.owe = some v) (silent : r.cw = 0) :
    payRec s id = closeRec s r v r.fault := by
  simp only [payRec, found, owed, silent]

/-- A record with no completion word is freed when it ends. -/
theorem recOf_endRec {s : State} {id v : Nat} {r : KRec} (found : recOf s id = some r) (free : r.owe = none) (silent : r.cw = 0) (other : v ≠ kwNever) :
    recOf (endRec s id v) id = none := by
  have owes := recOf_setRec (f := fun r => { r with owe := r.owe <|> some v }) found fun _ => rfl
  have owed : (r.owe <|> some v) = some v := by rw [free]; rfl
  rw [endRec, payRec_silent owes owed silent, recOf, closeRec_recs other]
  exact List.find?_eq_none.2 fun x hx => by simpa [recOf_id found] using (List.mem_filter.1 hx).2

theorem execRequesterRecordExpiry_ends {s : State} {id n : Nat} {r : KRec} (found : recOf s id = some r) (late : r.expiry ≤ max s.time n)
    (idle : r.began = none) (free : r.owe = none) (silent : r.cw = 0) :
    ∃ t, exec (.requesterRecordExpiry id n) s = .next t ∧ recOf t id = none := by
  rw [exec_requesterRecordExpiry, execRequesterRecordExpiry]
  have found' : recOf (atTime s n) id = some r := found
  rw [found']
  simp only [idle, free, Option.isNone_none, and_true]
  rw [if_pos (show _ ≤ (atTime s n).time from late)]
  exact ⟨_, rfl, recOf_endRec (s := bumpKw (atTime s n) _ _) found free silent (by decide)⟩

/-! ### A tile at its home (R147) -/

theorem passWay_empty {s : State} {wp key ctx code : Nat} {data : List (BitVec 8)} {bad : List Nat} (empty : liveAt s wp key ctx = []) :
    passWay s wp key ctx data bad code = (s, false) := by
  simp [passWay, empty]

theorem putTile_refused {s : State} {p : KPut} {data : List (BitVec 8)} {bad : List Nat} (held : (tileAt s p.key p.ctx).isSome = true) :
    putTile s p data bad = (s, 3) := by
  simp [putTile, held]

theorem storeRoom_fits {q need n : Nat} {s : State} (fits : storeUsed s q + need ≤ storeSize s q) : storeRoom q need (n + 1) s = s := if_pos fits

/-- The tile that a `kput` leaves at its home. -/
def KPut.tile (p : KPut) (data : List (BitVec 8)) (bad : List Nat) : Tile :=
  { key := p.key, ctx := p.ctx, data, bad, len := data.length, ret := p.ret, backing := p.backing, cl := p.cl }

theorem putTile_held {s : State} {p : KPut} {data : List (BitVec 8)} {bad : List Nat} (new : tileAt s p.key p.ctx = none)
    (empty : liveAt s (keyStation p.key) p.key p.ctx = []) (opened : isClosed s p.key p.ctx = false) (uses : p.ret ≠ 0)
    (fits : storeUsed s (keyHome p.key / 16) + data.length ≤ storeSize s (keyHome p.key / 16)) :
    putTile s p data bad = ({ dropDir s p.key p.ctx with tiles := s.tiles ++ [(keyHome p.key, p.tile data bad)] }, 1) := by
  have empty' : liveAt (dropDir s p.key p.ctx) (keyStation p.key) p.key p.ctx = [] := empty
  have opened' : isClosed (dropDir s p.key p.ctx) p.key p.ctx = false := opened
  have fits' : storeUsed (dropDir s p.key p.ctx) (keyHome p.key / 16) + data.length ≤ storeSize (dropDir s p.key p.ctx) (keyHome p.key / 16) := fits
  simp only [putTile, new, Option.isSome_none, Bool.false_eq_true, if_false, empty', opened', and_false, passWay_empty empty', uses,
    storeRoom_fits fits', fits', if_true]
  rfl

section
variable {s : State} {id : Nat} {p : KPut} {data : List (BitVec 8)} {bad : List Nat} (flit : flitOf s id = some (.put p data bad))
  (first : unreadBefore s p.gkey id = false) (home : deadStation s (keyStation p.key) = false) (station : deadStation s (p.station s) = false)
  (come : arrived (bringFrame s id) id = true) (alone : earlierPuts (bringFrame s id) p.cl (keyHome p.key) id = bringFrame s id)
include flit first home station come alone

theorem execKputArrival_arrives : exec (.kputArrival id) s = .next (arrivePut (bringFrame s id) id p data bad) := by
  simp [exec_kputArrival, execKputArrival, flit, first, home, station, come, alone]

theorem execKputArrival_refused (held : (tileAt s p.key p.ctx).isSome = true) :
    (p.gkey = 0 → ∃ t, exec (.kputArrival id) s = .next t ∧ flitOf t id = none ∧ t.tiles = s.tiles ∧ .copyEngineComplete p.pend p.op ∈ t.agenda)
    ∧ (p.gkey ≠ 0 →
      exec (.kputArrival id) s = .next (giveValue (finishOp (dropFlit (bringFrame s id) id) p.gkey p.op none) p.gkey p.pend 3)) := by
  have same : tileAt (dropFlit (bringFrame s id) id) p.key p.ctx = tileAt s p.key p.ctx :=
    (dropFlit_same (tileAt · p.key p.ctx)).trans (bringFrame_same (tileAt · p.key p.ctx))
  rw [execKputArrival_arrives flit first home station come alone, arrivePut, putTile_refused (same ▸ held)]
  dsimp only
  constructor <;> intro group
  · rw [if_pos group]
    exact ⟨_, rfl, flitOf_dropFlit (bringFrame s id) id, (dropFlit_same State.tiles).trans (bringFrame_same State.tiles), by simp⟩
  · rw [if_neg group]

theorem execKputArrival_held (copy : p.gkey = 0) (new : tileAt s p.key p.ctx = none) (empty : liveAt s (keyStation p.key) p.key p.ctx = [])
    (opened : isClosed s p.key p.ctx = false) (uses : p.ret ≠ 0)
    (fits : storeUsed s (keyHome p.key / 16) + data.length ≤ storeSize s (keyHome p.key / 16)) :
    ∃ t, exec (.kputArrival id) s = .next t ∧ flitOf t id = none ∧ t.tiles = s.tiles ++ [(keyHome p.key, p.tile data bad)] := by
  have same {α : Type} (F : State → α) (h : ∀ s : State, F { s with kflits := [], frames := [], fqueues := [] } = F s := by exact fun _ => rfl)
      (h' : ∀ s : State, F s.ashore = F s := by exact fun _ => rfl) : F (dropFlit (bringFrame s id) id) = F s :=
    (dropFlit_same F h).trans (bringFrame_same F h')
  rw [execKputArrival_arrives flit first home station come alone, arrivePut, putTile_held ((same (tileAt · p.key p.ctx)).trans new)
    ((same (liveAt · _ p.key p.ctx)).trans empty) ((same (isClosed · p.key p.ctx)).trans opened) uses
    ((same fun s => storeUsed s (keyHome p.key / 16) + data.length).trans_le (fits.trans_eq (same (storeSize · (keyHome p.key / 16))).symm))]
  dsimp only
  rw [if_pos copy]
  exact ⟨_, rfl, flitOf_dropFlit (bringFrame s id) id, congrArg (· ++ [(keyHome p.key, p.tile data bad)]) (same State.tiles)⟩

end

/-! ### A tile on its way back (R148) -/

theorem settleTile_unread {s : State} {id : Nat} (unread : s.recs = []) : settleTile s id = dropFlit s id := by
  simp [settleTile, unread]

section
variable {s : State} {id wp key ctx code : Nat} {data : List (BitVec 8)} {bad : List Nat} (flit : flitOf s id = some (.tile wp key ctx data bad code))
  (alive : deadStation s wp = false) (keyway : (s.msgQ.find? fun e => e.2.id == id) = none) (unread : s.recs = [])
include flit alive keyway unread

theorem execTileArrival_discarded (empty : liveAt s wp key ctx = []) : exec (.tileArrival id) s = .next (dropFlit s id) := by
  simp [exec_tileArrival, execTileArrival, tileArrives, keyway, flit, alive, passWay_empty empty, settleTile_unread unread]

theorem execTileArrival_copied {e : Interest} {w : Nat} (entry : liveAt s wp key ctx = [e]) (ret : e.ret = [w]) (locals : e.locals = false)
    (fresh : id < s.nextId) : ∃ t, exec (.tileArrival id) s = .next t ∧ flitOf t id = none ∧ (s.nextId, .tile w key ctx data bad code) ∈ t.kflits
      ∧ ∀ e' ∈ t.interests, ¬ (e'.wp = wp ∧ e'.key = key ∧ e'.ctx = ctx) := by
  have pass : passWay s wp key ctx data bad code = (sendFlit (clearAt s wp key ctx) (.tile w key ctx data bad code), false) := by
    simp [passWay, entry, ret, locals, fanOut, List.eraseDups_cons]
  have unread' : (sendFlit (clearAt s wp key ctx) (.tile w key ctx data bad code)).recs = [] := by
    obtain ⟨fr, ag, eq⟩ := sendFlit_eq (clearAt s wp key ctx) (.tile w key ctx data bad code)
    rw [eq]
    exact unread
  have copies : exec (.tileArrival id) s = .next (dropFlit (sendFlit (clearAt s wp key ctx) (.tile w key ctx data bad code)) id) := by
    simp [exec_tileArrival, execTileArrival, tileArrives, keyway, flit, alive, pass, settleTile_unread unread']
  refine ⟨_, copies, flitOf_dropFlit .., ?_, fun e' he' => ?_⟩
  · rw [dropFlit_kflits, sendFlit_kflits, List.mem_filter]
    exact ⟨by simp [clearAt, wakeInterests], by simpa using fresh.ne'⟩
  · rw [dropFlit_interests, sendFlit_interests] at he'
    simpa [imp_iff_not_or, or_assoc] using (List.mem_filter.1 he').2

end

theorem execBackingRefetchComplete_sends {s : State} {id key ctx b len : Nat} {ret : List Nat} {ls : List Loc}
    (flit : flitOf s id = some (.refetch key ctx b len ret))
    (good : engCheck s (100 + 4 * (keyHome key / 16)) ctx id 1 ((List.range len).map (b + ·)) = .ok ls) :
    let x := engRead (clearXfaults s (100 + 4 * (keyHome key / 16)) id) (100 + 4 * (keyHome key / 16)) ctx ls
    exec (.backingRefetchComplete id) s = .next (fanOut (dropFlit x.1 id) ret key ctx x.2.1 x.2.2 0) := by
  simp only [exec_backingRefetchComplete, execBackingRefetchComplete, refetchTile, flit, good]

/-! ### Close notices (R159) -/

section
variable {s : State} {id slice tensor iter ctx g p cl k : Nat} {shut acks : List Nat}
  (only : s.kflits = [(id, .close tensor iter ctx g p cl shut acks k false)])
include only

theorem flitOf_only : flitOf s id = some (.close tensor iter ctx g p cl shut acks k false) := by
  simp [flitOf, only]

theorem execCloseNoticeArrival_closes (quad : slice < 128) (opened : slice ∉ shut) (idle : s.interests = [])
    (alive : deadStation s (sliceStation slice) = false) : ∃ t, exec (.closeNoticeArrival id slice) s = .next t ∧ .closeAck id slice ∈ t.agenda
      ∧ (slice, ctx, tensor, iter) ∈ t.closed ∧ flitOf t id = some (.close tensor iter ctx g p cl (slice :: shut) acks k false) := by
  have alone : earlierPuts s cl slice id = s := by simp only [earlierPuts, only, List.foldl_cons, List.foldl_nil]
  have idle' : (addClosed s slice ctx tensor iter).interests = [] := idle
  simp only [exec_closeNoticeArrival, execCloseNoticeArrival, flitOf_only only, alone, idle', alive]
  refine ⟨_, if_neg (by simp [opened, quad]), ?_⟩
  refine ⟨by simp, by simp [addClosed, setFlit], ?_⟩
  simp [flitOf, setFlit, addClosed, only]

theorem execCloseAck_counts (shutIn : slice ∈ shut) (new : slice ∉ acks) (more : acks.length < 127) :
    exec (.closeAck id slice) s = .next (setFlit s id (.close tensor iter ctx g p cl shut (slice :: acks) k false)) := by
  simp [exec_closeAck, execCloseAck, flitOf_only only, shutIn, new, more.ne]

theorem execCloseAck_completes (shutIn : slice ∈ shut) (new : slice ∉ acks) (last : acks.length = 127) :
    exec (.closeAck id slice) s = .next (giveValue (dropFlit s id) g p k) := by
  simp [exec_closeAck, execCloseAck, flitOf_only only, shutIn, new, last]

end

/-- Settles O47: each event goes by its own lemma; frames that move and flits that go leave the tables alone. -/
theorem keywayEvents : Obligations.KeywayEvents := by
  unfold Obligations.KeywayEvents
  intro s id n key ctx fresh
  refine ⟨fun wp prev src exp flit alive come alone empty => ⟨?_, ?_, ?_⟩, fun wp exp e => execRefreshArrival_raises,
    fun wp => execInterestExpiry_drops s wp key ctx n, fun r => execRequesterRecordExpiry_ends, ?_, ?_, ?_, ?_⟩
  · rintro x rfl held -
    exact execInterestArrival_held flit alive come alone empty held
  · exact fun away other room => execInterestArrival_enters flit alive come alone empty away other room
  · exact fun away full => execInterestArrival_refused flit alive come alone empty away full
  · intro p data bad flit first home station come alone
    exact ⟨execKputArrival_refused flit first home station come alone, fun copy new _ empty opened uses fits =>
      execKputArrival_held flit first home station come alone copy new empty opened uses fits⟩
  · intro wp data bad code flit alive keyway
    exact ⟨fun empty unread => execTileArrival_discarded flit alive keyway unread empty,
      fun e w entry ret locals unread => execTileArrival_copied flit alive keyway unread entry ret locals fresh⟩
  · exact fun b len ret ls flit good => execBackingRefetchComplete_sends flit good
  · intro tensor iter g p cl shut acks k slice f only quad
    exact ⟨fun opened idle alive => execCloseNoticeArrival_closes only quad opened idle alive, fun shutIn new =>
      ⟨fun more => execCloseAck_counts only shutIn new more, fun last => execCloseAck_completes only shutIn new last⟩⟩

end Sys2Proof.Machine
end

section
/-! The teams, the clusters' message queues and the time under the operations of memory and of the fabric, which leave them as they are. -/
namespace Sys2Proof.Machine

set_option Elab.async false

/-- What stands aside from memory: the teams, the clusters' message queues and the time. -/
def State.aside (s : State) : Tab Team × List (Nat × Msg) × Nat := (s.teams, s.msgQ, s.time)

/-- The fields that memory and the fabric change are not aside. -/
@[simp] theorem aside_with (s : State) {groups slices sbytes bstate cells respWin marks sreqs seqs l1 agenda hb poison badCheck frames scratch fqueues nextId} :
    ({ s with groups, slices, sbytes, bstate, cells, respWin, marks, sreqs, seqs, l1, agenda, hb, poison, badCheck, frames, scratch, fqueues, nextId }
      : State).aside = s.aside := rfl

@[simp] theorem later_aside (s : State) (e : Instr) : (later s e).aside = s.aside := rfl
@[simp] theorem updG_aside (s : State) (k : Nat) (f : Group → Group) : (updG s k f).aside = s.aside := rfl
@[simp] theorem newId_aside (s : State) : (newId s).1.aside = s.aside := rfl

/-! ### Check values and slices -/

@[simp] theorem setPoison_aside (s : State) (x : Loc) (p : Bool) : (setPoison s x p).aside = s.aside := rfl
@[simp] theorem sectorRec_aside (s : State) (ctx cls : Nat) (l : Loc) : (sectorRec s ctx cls l).aside = s.aside := rfl
@[simp] theorem dropLines_aside (s : State) (p : Nat → Bool) : (dropLines s p).aside = s.aside := rfl
@[simp] theorem chargeRec_aside (s : State) (ctx : Nat) (r : Rec) : (chargeRec s ctx r).aside = s.aside := rfl

@[simp] theorem poisonPlaces_aside (s : State) (ls : List Loc) : (poisonPlaces s ls).aside = s.aside :=
  foldl_same State.aside _ (fun _ _ => setPoison_aside ..) _ s

@[simp] theorem setHub_aside (s : State) (st : Nat) (h : Hub) : (setHub s st h).aside = s.aside := by unfold setHub; split <;> rfl
@[simp] theorem touchCount_aside (s : State) (f : Nat) : (touchCount s f).aside = s.aside := by simp [touchCount]

@[simp] theorem chargeCut_aside (s : State) (ctx : Nat) (ls : List Loc) : (chargeCut s ctx ls).aside = s.aside := by
  unfold chargeCut
  split
  · rfl
  · exact foldl_same State.aside _ (fun _ _ => sectorRec_aside ..) _ s

@[simp] theorem verifyPlaces_aside (s : State) (ctx : Nat) (ls : List Loc) : (verifyPlaces s ctx ls).aside = s.aside := by
  unfold verifyPlaces
  split
  · rfl
  · exact foldl_same State.aside _ (fun _ _ => by split <;> rfl) _ s

@[simp] theorem setFrameByte_aside (s : State) (la : Nat) (b : BitVec 8) : (setFrameByte s la b).aside = s.aside := by
  simp only [setFrameByte]
  repeat' split
  all_goals rfl

@[simp] theorem flushBytes_aside (s : State) (line : Nat) (l : SLine) : (flushBytes s line l).aside = s.aside := by
  simp only [flushBytes]
  split
  · exact foldl_same State.aside _ (fun _ _ => sectorRec_aside ..) _ s
  · rw [foldl_same State.aside _ (fun s i => by split <;> simp), foldl_same State.aside _ (fun s x => by split <;> rfl)]
    split <;> simp

@[simp] theorem giveUpLine_aside (s : State) (slice : Nat) : (giveUpLine s slice).aside = s.aside := by
  unfold giveUpLine
  repeat' split
  all_goals simp

@[simp] theorem sliceRoom_aside (s : State) (slice : Nat) : (sliceRoom s slice).aside = s.aside := by unfold sliceRoom; split <;> simp

@[simp] theorem fillSector_aside (s : State) (x : Loc) : (fillSector s x).aside = s.aside := by
  unfold fillSector
  repeat' split
  all_goals rfl

@[simp] theorem fillSlice_aside (s : State) (line : Nat) : (fillSlice s line).aside = s.aside := by
  simp only [fillSlice]
  repeat' split
  all_goals simp [foldl_same State.aside _ fillSector_aside]

@[simp] theorem fillLines_aside (s : State) (ls : List Loc) : (fillLines s ls).aside = s.aside :=
  foldl_same State.aside _ fillSlice_aside _ s

@[simp] theorem mergePlaces_aside (s : State) (ctx : Nat) (ls : List Loc) : (mergePlaces s ctx ls).aside = s.aside := by
  simp only [mergePlaces]
  split
  · simp
  · rw [foldl_same State.aside, fillLines_aside, chargeCut_aside]
    intro s x
    repeat' split
    all_goals rfl

@[simp] theorem meetSector_aside (ctx : Nat) (s : State) (l : Loc) : (meetSector ctx s l).aside = s.aside := by
  unfold meetSector
  repeat' split
  all_goals simp

@[simp] theorem verifyLines_aside (s : State) (ctx : Nat) (ls : List Loc) : (verifyLines s ctx ls).aside = s.aside := by
  simp [verifyLines, chargeBad, foldl_same State.aside _ (meetSector_aside ctx)]

/-! ### Bytes at their homes -/

@[simp] theorem putSliceByte_aside (s : State) (ctx la : Nat) (b : BitVec 8) : (putSliceByte s ctx la b).aside = s.aside := by
  simp only [putSliceByte]
  repeat' split
  all_goals simp

@[simp] theorem putHostByte_aside (s : State) (t : Nat) (b : BitVec 8) : (putHostByte s t b).aside = s.aside := by
  unfold putHostByte; split <;> rfl

@[simp] theorem putRaw_aside (s : State) (ctx : Nat) (host : Bool) (a n v : Nat) : (putRaw s ctx host a n v).aside = s.aside := by
  induction n generalizing s a v with
  | zero => rfl
  | succ n ih => rw [putRaw, ih]; split <;> simp

@[simp] theorem roundCell_aside (s : State) (c : Cell) : (roundCell s c).aside = s.aside := by simp only [roundCell]; split <;> simp
@[simp] theorem retireCell_aside (s : State) (c : Cell) : (retireCell s c).aside = s.aside := roundCell_aside _ c
@[simp] theorem retireAt_aside (s : State) (host : Bool) (a : Nat) : (retireAt s host a).aside = s.aside :=
  foldl_same State.aside _ retireCell_aside _ s

@[simp] theorem setLogByte_aside (s : State) (ctx la : Nat) (b : BitVec 8) : (setLogByte s ctx la b).aside = s.aside := by
  unfold setLogByte; split <;> simp
@[simp] theorem setHostByte_aside (s : State) (t : Nat) (b : BitVec 8) : (setHostByte s t b).aside = s.aside := by
  unfold setHostByte; split <;> simp

@[simp] theorem putLogBytes_aside (s : State) (ctx la : Nat) (bs : List (BitVec 8)) : (putLogBytes s ctx la bs).aside = s.aside := by
  induction bs generalizing s la with
  | nil => rfl
  | cons b bs ih => rw [putLogBytes, ih, setLogByte_aside]

@[simp] theorem setLogBytes_aside (s : State) (ctx la : Nat) (bs : List (BitVec 8)) : (setLogBytes s ctx la bs).aside = s.aside := by
  simp [setLogBytes]

/-! ### Surfaces -/

@[simp] theorem putRawFrom_aside (s : State) (k : Nat) (bs : List (BitVec 8)) : (putRawFrom s k bs).aside = s.aside := by
  induction bs generalizing s k with
  | nil => rfl
  | cons b bs ih => exact ih ..

@[simp] theorem putBlock_aside (s : State) (h : Nat) (f : Surf) (n : Nat) (st : BState) (bs : List (BitVec 8)) :
    (putBlock s h f n st bs).aside = s.aside := putRawFrom_aside s _ bs

@[simp] theorem writeBlock_aside (s : State) (h : Nat) (f : Surf) (cv : Bool) (n : Nat) (ws : List (Nat × BitVec 8)) :
    (writeBlock s h f cv n ws).aside = s.aside := by
  simp only [writeBlock]
  repeat' split
  all_goals simp

@[simp] theorem carryForm_aside (h : Nat) (f : Surf) (cv : Bool) (s : State) (n : Nat) : (carryForm h f cv s n).aside = s.aside := by
  have carried : (carryPoison h f s n).aside = s.aside := by
    simp only [carryPoison]
    rw [foldl_same State.aside _ fun _ _ => setPoison_aside ..]
    simp
  unfold carryForm
  split <;> simp [carried]

@[simp] theorem writeSurf_aside (s : State) (h : Nat) (cv : Bool) (ws : List (Nat × BitVec 8)) : (writeSurf s h cv ws).aside = s.aside := by
  unfold writeSurf
  split
  · rw [foldl_same State.aside _ fun _ _ => writeBlock_aside .., mergePlaces_aside, foldl_same State.aside _ fun _ _ => carryForm_aside ..]
  · rfl

/-! ### Exact-sum cells -/

@[simp] theorem bumpRetired_aside (s : State) (st : Nat) : (bumpRetired s st).aside = s.aside := by simp only [bumpRetired]; split <;> rfl
@[simp] theorem parkCell_aside (s : State) (c : Cell) : (parkCell s c).aside = s.aside := by simp [parkCell]
@[simp] theorem parkedValue_aside (s : State) (c : Cell) : (parkedValue s c).1.aside = s.aside := by simp [parkedValue]
@[simp] theorem retireParked_aside (s : State) (slice : Nat) : (retireParked s slice).aside = s.aside := by
  unfold retireParked
  cases oldestCell (s.cells.filter fun d => d.slice == slice && d.parked) with
  | none => rfl
  | some d => rw [bumpRetired_aside, roundCell_aside, aside_with (parkedValue s d).1, parkedValue_aside]

@[simp] theorem cellRoom_aside (s : State) (slice : Nat) : (cellRoom s slice).aside = s.aside := by
  simp only [cellRoom]
  repeat' split
  all_goals simp

@[simp] theorem touchCell_aside (s : State) (c : Cell) : (touchCell s c).1.aside = s.aside := by
  simp only [touchCell]
  split
  · rw [aside_with (cellRoom _ _), cellRoom_aside, aside_with (parkedValue (newId s).1 c).1, parkedValue_aside, newId_aside]
  · rfl

@[simp] theorem readCells_aside (s : State) (host : Bool) (a n : Nat) : (readCells s host a n).aside = s.aside :=
  foldl_same State.aside _ (fun s c => by split <;> simp) _ s

@[simp] theorem readCellsAt_aside (s : State) (ls : List Loc) : (readCellsAt s ls).aside = s.aside := by
  unfold readCellsAt
  split
  · rfl
  · exact foldl_same State.aside _ (fun s l => by split <;> simp) _ s

@[simp] theorem touchPlaces_aside (s : State) (ctx : Nat) (ls : List Loc) : (touchPlaces s ctx ls).aside = s.aside := by simp [touchPlaces]

@[simp] theorem contribute_aside (s : State) (ctx : Nat) (l : Loc) (fmt : Nat) (v : BitVec 32) : (contribute s ctx l fmt v).aside = s.aside := by
  have retired (f : Cell → Bool) : ((s.cells.filter f).foldl retireCell s).aside = s.aside := foldl_same State.aside _ retireCell_aside _ s
  simp only [contribute]
  split <;> simp [retired]

/-! ### Buffers and marks -/

@[simp] theorem fqTake_aside (s : State) (q cap count : Nat) : (fqTake s q cap count).aside = s.aside := by unfold fqTake; split <;> rfl
@[simp] theorem fqLeave_aside (s : State) (q count : Nat) : (fqLeave s q count).aside = s.aside := by unfold fqLeave; split <;> rfl
@[simp] theorem dropFrames_aside (s : State) (id : Nat) : (dropFrames s id).aside = s.aside := by
  simp [dropFrames, foldl_same State.aside]

@[simp] theorem putMark_aside (s : State) (slice dev src seq : Nat) : (putMark s slice dev src seq).aside = s.aside := by
  unfold putMark
  split
  case h_1 t room =>
    simp only [markRoom] at room
    repeat' split at room
    all_goals cases room
    all_goals rfl
  case h_2 => rfl

@[simp] theorem markReq_aside (s : State) (r : SReq) (slice : Nat) : (markReq s r slice).aside = s.aside := by unfold markReq; split <;> simp
@[simp] theorem windowReq_aside (s : State) (r : SReq) (slice v : Nat) : (windowReq s r slice v).aside = s.aside := rfl

@[simp] theorem freeWindow_aside (s : State) (r : SReq) (slice : Nat) : (freeWindow s r slice).aside = s.aside := by
  simp only [freeWindow]
  repeat' split
  all_goals rfl

@[simp] theorem arriveQueue_aside (s : State) (r : SReq) : (arriveQueue s r).aside = s.aside := by simp [arriveQueue]

/-! ### Requests -/

@[simp] theorem putHome_aside (s : State) (ctx : Nat) (l : Loc) (b : BitVec 8) : (putHome s ctx l b).aside = s.aside := by
  unfold putHome
  split
  case h_7 => split <;> rfl
  all_goals simp

@[simp] theorem putHomeNat_aside (s : State) (ctx : Nat) (l : Loc) (n v : Nat) : (putHomeNat s ctx l n v).aside = s.aside := by
  induction n generalizing s l v with
  | zero => rfl
  | succ n ih => rw [putHomeNat, ih, putHome_aside]

@[simp] theorem answer_aside (s : State) (r : SReq) (v : Nat) : (answer s r v).aside = s.aside := by
  simp only [answer]
  split
  · rfl
  · split <;> rfl

@[simp] theorem applyAtom_aside (s : State) (ctx : Nat) (a : AtomReq) : (applyAtom s ctx a).1.aside = s.aside := by simp [applyAtom]

@[simp] theorem performReq_aside (s : State) (r : SReq) (l : Loc) (slice : Nat) : (performReq s r l slice).aside = s.aside := by
  simp only [performReq]
  repeat' split
  all_goals simp

@[simp] theorem answerBad_aside (s : State) (r : SReq) (l : Loc) : (answerBad s r l).aside = s.aside := by
  unfold answerBad
  split <;> simp

@[simp] theorem applyOne_aside (s : State) (r : SReq) : (applyOne s r).aside = s.aside := by
  simp only [applyOne]
  repeat' split
  all_goals simp

@[simp] theorem applyReq_aside (s : State) (r : SReq) : (applyReq s r).aside = s.aside := by
  unfold applyReq
  split
  · exact foldl_same State.aside _ (fun t x => by simp) _ s
  · rfl

@[simp] theorem countReq_aside (s : State) (src slice : Nat) (store : Bool) : (countReq s src slice store).aside = s.aside := by
  have delivered (rs : List SReq) : (rs.foldl (fun s x => if x.place.isSome then applyReq s x else arriveQueue s x) s).aside = s.aside :=
    foldl_same State.aside _ (fun t x => by split <;> simp) _ s
  simp only [countReq, takeSeq]
  split
  · exact (putMark_aside ..).trans (delivered _)
  · exact delivered _

@[simp] theorem countLines_aside (s : State) (src : Nat) (store : Bool) (ls : List Loc) : (countLines s src store ls).aside = s.aside :=
  foldl_same State.aside _ (fun t l => by
    split
    · rfl
    · exact countReq_aside ..) _ s

@[simp] theorem engRead_aside (s : State) (eng ctx : Nat) (ls : List Loc) : (engRead s eng ctx ls).1.aside = s.aside := by simp [engRead]

/-! ### The core's own cache -/

@[simp] theorem writeBack_aside (s : State) (e : L1Line) : (writeBack s e).aside = s.aside := by
  unfold writeBack
  split
  · rfl
  · simp only
    rw [foldl_same State.aside, foldl_same State.aside, mergePlaces_aside, countReq_aside]
    · intro t i; split <;> simp
    · intro t j; simp

@[simp] theorem l1Drop_aside (s : State) (core : Nat) (p : L1Line → Bool) : (l1Drop s core p).aside = s.aside :=
  foldl_same State.aside _ writeBack_aside _ s

@[simp] theorem acquireAct_aside (s : State) (core scope : Nat) (paired : Bool) : (acquireAct s core scope paired).aside = s.aside := by
  unfold acquireAct
  split <;> simp

@[simp] theorem settleOwn_aside (s : State) (key : Nat) (ls : List Loc) : (settleOwn s key ls).aside = s.aside :=
  foldl_same State.aside _ (fun t r => (applyReq_aside ..).trans (by split <;> simp)) _ s

@[simp] theorem ownFirst_aside (s : State) (key core : Nat) (ls : List Loc) : (ownFirst s key core ls).aside = s.aside := by simp [ownFirst]

end Sys2Proof.Machine
end


section
/-! Words that move entries of a queue at a slice (R170 to R173). -/
namespace Sys2Proof.Machine

set_option Elab.async false

/-! ### The descriptor -/

section
variable {s : State} {c : WCtx} {push nb : Bool} {d a x : Nat}

theorem queueOp_unaligned (unaligned : (c.g.s a).toNat % 64 ≠ 0) : queueOp s c push nb d a x = .error (.trap ⟨0x08, 2, (c.g.s a).toNat, c.low⟩) := by
  have stops : trapIf ((c.g.s a).toNat % 64 != 0) ⟨0x08, 2, (c.g.s a).toNat, c.low⟩ = .error (.trap ⟨0x08, 2, (c.g.s a).toNat, c.low⟩) :=
    if_pos (by simpa using unaligned)
  rw [queueOp, stops]
  rfl

variable {ls : List Loc} (aligned : (c.g.s a).toNat % 64 = 0) (places : uniform s c 0 (c.g.s a).toNat 64 2 = .ok ls)
include aligned places

theorem queueOp_badSector {k : Nat} (bad : firstBad (touchPlaces (ownFirst s c.key c.g.core ls) c.g.ctx ls) ls = some k) :
    queueOp s c push nb d a x = .error (.trap ⟨0x0E, 0, k, c.low⟩) := by
  rw [queueOp, trapIf_aligned aligned, Try.ok_bind, places, Try.ok_bind]
  simp only [bad]
  rfl

theorem queueOp_malformed (sound : firstBad (touchPlaces (ownFirst s c.key c.g.core ls) c.g.ctx ls) ls = none)
    (malformed : parseQueue (readHome (touchPlaces (ownFirst s c.key c.g.core ls) c.g.ctx ls) ls) = none) :
    queueOp s c push nb d a x = .error (.trap ⟨0x08, 1, (c.g.s a).toNat, c.low⟩) := by
  rw [queueOp, trapIf_aligned aligned, Try.ok_bind, places, Try.ok_bind]
  simp only [sound, malformed]
  rfl

end

/-- An operation that its descriptor describes has the active lanes in their order, after a read that leaves teams and groups alone. -/
theorem queueOp_yields (s : State) (c : WCtx) (push nb : Bool) (d a x : Nat) :
    Yields (fun r => pairedOf r.1 c.g = pairedOf s c.g ∧ r.1.steady = s.steady ∧ r.2.vals.map (·.1) = c.lanes) (queueOp s c push nb d a x) := by
  have paired (ls : List Loc) : pairedOf (touchPlaces (ownFirst s c.key c.g.core ls) c.g.ctx ls) c.g = pairedOf s c.g := by
    have teams := congrArg Prod.fst ((touchPlaces_aside _ c.g.ctx ls).trans (ownFirst_aside s c.key c.g.core ls))
    simp only [State.aside] at teams
    simp only [pairedOf, teamOf, teams]
  have steady (ls : List Loc) : (touchPlaces (ownFirst s c.key c.g.core ls) c.g.ctx ls).steady = s.steady :=
    (steady_congr (touchPlaces_groups ..)).trans ((l1Drop_steady ..).trans (settleOwn_steady ..))
  have lanes (f : Nat → BitVec 64) : (c.lanes.map fun l => (l, f l)).map (·.1) = c.lanes := by simp [Function.comp_def]
  refine .after fun _ => .after fun ls => ?_
  dsimp only
  split
  · exact .error
  · split
    · exact .error
    · exact .after fun _ => .after fun _ => .ok ⟨paired ls, steady ls, lanes _⟩

/-! ### Lanes that moved -/

/-- The bits of a sum of rising powers of two. -/
theorem sum_two_pow_bits (xs : List Nat) (rising : xs.Pairwise (· < ·)) :
    (∀ n, (∀ x ∈ xs, x < n) → xs.foldl (fun a x => a + 2 ^ x) 0 < 2 ^ n) ∧ ∀ k, (xs.foldl (fun a x => a + 2 ^ x) 0).testBit k = decide (k ∈ xs) := by
  induction xs using List.reverseRecOn with
  | nil => simp
  | append_singleton xs x ih =>
    obtain ⟨lower, -, below⟩ := List.pairwise_append.1 rising
    obtain ⟨bound, bits⟩ := ih lower
    have small := bound x fun y hy => below y hy x (List.mem_singleton_self x)
    rw [List.foldl_append, List.foldl_cons, List.foldl_nil]
    generalize xs.foldl (fun a x => a + 2 ^ x) 0 = a at bits small
    have sum : a + 2 ^ x < 2 ^ (x + 1) := by rw [Nat.pow_succ]; omega
    refine ⟨fun n hn => sum.trans_le (Nat.pow_le_pow_right (by decide) (hn x (by simp))), fun k => ?_⟩
    rcases Nat.lt_trichotomy k x with lt | rfl | gt
    · rw [Nat.add_comm, Nat.testBit_two_pow_add_gt lt, bits]
      simp [lt.ne]
    · rw [Nat.add_comm, Nat.testBit_two_pow_add_eq, Nat.testBit_lt_two_pow small]
      simp
    · rw [Nat.testBit_lt_two_pow (sum.trans_le (Nat.pow_le_pow_right (by decide) gt))]
      have absent : k ∉ xs := fun hk => absurd (below k hk x (List.mem_singleton_self x)) (by omega)
      simp [absent, gt.ne']

theorem getLsbD_lowLanes {o : QOp} {c : WCtx} (lanes : o.vals.map (·.1) = c.lanes) (m : Nat) {l : Nat} (active : l ∈ c.lanes) :
    (lowLanes o m).getLsbD l = decide (l ∈ (o.vals.take m).map (·.1)) := by
  have rising : ((o.vals.take m).map (·.1)).Pairwise (· < ·) := by
    rw [List.map_take, lanes]
    exact c.lanes_sorted.take
  rw [lowLanes, BitVec.getLsbD_ofNat, ← List.foldl_map (f := Prod.fst) (g := fun a x => a + 2 ^ x), (sum_two_pow_bits _ rising).2 l,
    decide_eq_true (lanesOf_lt64 active), Bool.true_and]

/-- A word that, once memory has been read, writes a predicate of its active lanes. -/
theorem completes_mixPred_steady {s t : State} {c : WCtx} (h : Issues s c) (same : t.steady = s.steady) (p : BitVec 3) {f : Nat → Bool} {v : BitVec 64}
    (bits : ∀ l ∈ c.lanes, v.getLsbD l = f l) :
    Completes (.next (finish (updG t c.key fun g => g.mixPred p.toNat c.eff v) c)) t c [] 0 (WritesPred t c p.toNat f) := by
  have rest (g : Group) := Group.mixPred_rest g p.toNat c.eff v
  refine (completes_change t c (fun g => g.mixPred p.toNat c.eff v) (fun g => by rw [rest]) fun g => by rw [rest]).mono
    fun g g' hg e => ⟨by rw [e, rest], fun q l hq hl => ?_⟩
  rw [← predIs_mixPred c p.toNat f v g p.isLt (h.width_of_steady same hg) bits q l hq hl, e]
  rfl

/-! ### Groups under the slice's work -/

@[simp] theorem putHomeWord_steady (s : State) (ctx : Nat) (l : Loc) (n v : Nat) : (putHomeWord s ctx l n v).steady = s.steady :=
  (putHomeNat_steady ..).trans (steady_congr (mergePlaces_groups ..))

@[simp] theorem pushEntries_steady (s : State) (ctx : Nat) (o : QOp) (m : Nat) : (pushEntries s ctx o m).steady = s.steady := by
  simp only [pushEntries, putHomeWord_steady]
  exact foldl_same State.steady _ (fun _ _ => putHomeWord_steady ..) _ s

@[simp] theorem wakeWaiters_steady (s : State) (desc : Loc) : (wakeWaiters s desc).steady = s.steady := rfl

@[simp] theorem settleCore_steady (s : State) (key core : Nat) : (settleCore s key core).steady = s.steady :=
  foldl_same State.steady _ applyReq_steady _ s

@[simp] theorem releaseAct_steady (s : State) (key core scope : Nat) (paired : Bool) : (releaseAct s key core scope paired).steady = s.steady := by
  unfold releaseAct
  split
  · exact (writeBacks_steady _ _).trans (settleCore_steady ..)
  · rfl

/-! ### QPUSH -/

section
variable {s : State} {c : WCtx} {d : BitVec 7} {x p : BitVec 3} {n : BitVec 1} {a : BitVec 6} (h : Issues s c) (active : c.eff ≠ 0)
  (free : waitingPush s c.key c.si = false)
include h active free

theorem qpush_trap {t : Trap} (stops : queueOp s c true (n == 1) d.toNat a.toNat x.toNat = .error (.trap t)) :
    exec (.qpush d x n p a) s = .next (takeFault s c.key c.si t c.sp.pc false) := by
  rw [exec_qpush, execQpush, runCtl_eq h, if_neg active, free, stops]
  rfl

variable (outside : c.g.inRegion = false) {q : State} {o : QOp} (ok : queueOp s c true (n == 1) d.toNat a.toNat x.toNat = .ok (q, o))
include outside ok

/-- The non-blocking form: as many lanes as there is room for, low lanes first. -/
theorem qpush_moves (nb : n = 1) :
    let s1 := releaseAct q c.key c.g.core x.toNat (pairedOf s c.g)
    let s0 := countReq s1 (coreSource s1 c.g.core) (locSlice s1 o.desc) true
    let m := min o.vals.length (o.avail s0)
    let s2 := wakeWaiters (pushEntries s0 c.g.ctx o m) o.desc
    Completes (exec (.qpush d x n p a) s) s2 c [] 0 (WritesPred s2 c p.toNat fun l => decide (l ∈ (o.vals.take m).map (·.1))) := by
  intro s1 s0 m s2
  obtain ⟨paired, steady, lanes⟩ : pairedOf q c.g = pairedOf s c.g ∧ q.steady = s.steady ∧ o.vals.map (·.1) = c.lanes :=
    queueOp_yields s c _ _ _ _ _ _ ok
  have same : s2.steady = s.steady := by simp [s2, s0, s1, steady]
  have runs : exec (.qpush d x n p a) s = .next (finish (updG s2 c.key fun g => g.mixPred p.toNat c.eff (lowLanes o m)) c) := by
    rw [exec_qpush, execQpush, runCtl_eq h, if_neg active, free, ok]
    simp only [Try.ok_bind, unbuffered_outside outside, paired, nb]
    exact congrArg _ (retire_advance ..)
  rw [runs]
  exact completes_mixPred_steady h same p fun l hl => getLsbD_lowLanes lanes m hl

/-- The blocking form sends the whole operation and stays at its word. -/
theorem qpush_sends (blocking : n = 0) : exec (.qpush d x n p a) s
    = .next (retire (sendReq (releaseAct q c.key c.g.core x.toNat (pairedOf s c.g)) c.key c.g.core c.g.ctx 0 (.queue o) none) c) := by
  obtain ⟨paired, -, -⟩ : pairedOf q c.g = pairedOf s c.g ∧ q.steady = s.steady ∧ _ := queueOp_yields s c _ _ _ _ _ _ ok
  rw [exec_qpush, execQpush, runCtl_eq h, if_neg active, free, ok]
  simp only [Try.ok_bind, unbuffered_outside outside, paired, blocking]
  rfl

end

/-! ### QPOP -/

section
variable {s : State} {c : WCtx} {d : BitVec 7} {x p : BitVec 3} {n : BitVec 1} {a : BitVec 6} (h : Issues s c) (active : c.eff ≠ 0)
include h active

theorem qpop_trap (free : TumblerFree c) {t : Trap} (stops : queueOp s c false (n == 1) d.toNat a.toNat x.toNat = .error (.trap t)) :
    exec (.qpop d x n p a) s = .next (takeFault s c.key c.si t c.sp.pc false) := by
  rw [exec_qpop, execQpop]
  exact runLong_trap h active free (by rw [stops]; rfl)

variable (outside : c.g.inRegion = false) {q : State} {o : QOp} (ok : queueOp s c false (n == 1) d.toNat a.toNat x.toNat = .ok (q, o))
include outside ok

/-- With its response window full the non-blocking form waits (R115). -/
theorem qpop_stalls (nb : n = 1) (full : windowHas q (locSlice q o.desc) (q.hb.hbId.toNat % 65536) (coreSource q c.g.core) = false) :
    exec (.qpop d x n p a) s = .next (stalled s c) := by
  have full' : windowHas (newId q).1 (locSlice (newId q).1 o.desc) ((newId q).1.hb.hbId.toNat % 65536) (coreSource (newId q).1 c.g.core) = false := full
  rw [exec_qpop, execQpop]
  refine runLong_stall h active ?_
  rw [ok]
  simp only [Try.ok_bind, unbuffered_outside outside, nb, if_true, full']
  rfl

variable (free : TumblerFree c)
include free

/-- The blocking form sends its operation. -/
theorem qpop_sends (blocking : n = 0) :
    let s4 := sendReq { q with nextId := q.nextId + 1 } c.key c.g.core c.g.ctx 0 (.queue o) (some (q.nextId, []))
    Completes (exec (.qpop d x n p a) s) s4 c [] 0 (InFlight s4 c q.nextId fun p => p.ready = false) := by
  intro s4
  have runs : exec (.qpop d x n p a) s
      = .next (finish (updG s4 c.key fun g => g.fly { blankPending q.nextId c.sp.pc with tumbler := tumblerOf c.sp }) c) := by
    rw [exec_qpop, execQpop]
    refine runLong_ok (p := blankPending q.nextId c.sp.pc) h active free rfl ?_
    rw [ok]
    simp only [Try.ok_bind, unbuffered_outside outside, blocking]
    rfl
  have flies := completes_inFlight (P := fun p => p.ready = false) s4 c { blankPending q.nextId c.sp.pc with tumbler := tumblerOf c.sp } [] 0 rfl rfl rfl
  rw [List.append_nil] at flies
  rwa [runs]

/-- The non-blocking form takes what the queue holds. -/
theorem qpop_takes (nb : n = 1) :
    let s1 : State := { q with nextId := q.nextId + 1 }
    let src := coreSource s1 c.g.core
    let slice := locSlice s1 o.desc
    let dev := s1.hb.hbId.toNat % 65536
    let s0 := countReq s1 src slice true
    let m := min o.vals.length (o.avail s0)
    let got := popEntries s0 c.g.ctx o m
    let w := windowPut got.1 slice dev src (Tab.fetch 0 got.1.seqs src) (packVals o got.2.1)
    let s2 := acquireAct (wakeWaiters w o.desc) c.g.core x.toNat (pairedOf w c.g)
    let s3 := updG s2 c.key fun g => g.mixPred p.toNat c.eff (lowLanes o m)
    windowHas s1 slice dev src = true → Completes (exec (.qpop d x n p a) s) s3 c [.longLatencyCompletion c.key q.nextId] 0
      (InFlight s3 c q.nextId fun p => p.ready = true ∧ p.poison = got.2.2 ∧ ∀ l v, (l, v) ∈ got.2.1 →
        ∀ r ∈ o.rows.zipIdx, (r.1 * c.g.width + l, BitVec.ofNat 32 (v / 2 ^ (32 * r.2))) ∈ p.elems) := by
  intro s1 src slice dev s0 m got w s2 s3 room
  let result := popResult c.w o got.2.1 got.2.2 (blankPending q.nextId c.sp.pc)
  have runs : exec (.qpop d x n p a) s
      = .next (finish (updG (later s3 (.longLatencyCompletion c.key q.nextId)) c.key fun g => g.fly { result with tumbler := tumblerOf c.sp }) c) := by
    have room' : windowHas (newId q).1 (locSlice (newId q).1 o.desc) ((newId q).1.hb.hbId.toNat % 65536) (coreSource (newId q).1 c.g.core) = true := room
    rw [exec_qpop, execQpop]
    refine runLong_ok (p := result) h active free rfl ?_
    rw [ok]
    simp only [Try.ok_bind, unbuffered_outside outside, nb, if_true, room']
    rfl
  rw [runs]
  refine completes_inFlight s3 c { result with tumbler := tumblerOf c.sp } [.longLatencyCompletion c.key q.nextId] 0 rfl rfl ⟨rfl, rfl, ?_⟩
  exact fun l v held r hr => List.mem_flatMap.2 ⟨(l, v), held, List.mem_map.2 ⟨r, hr, rfl⟩⟩

end

/-- Settles O29: both words trap as the reading of their descriptor does; else each form goes by its own lemma. -/
theorem sliceQueueWords : Obligations.SliceQueueWords := by
  unfold Obligations.SliceQueueWords
  intro s c d x p n a h active outside unwaited y pairs
  have traps (t : Trap) (stops : ∀ push, queueOp s c push (n == 1) d.toNat a.toNat x.toNat = .error (.trap t)) :
      Traps (exec (.qpush d x n p a) s) s c t.cls t.detail t.addr t.lane
        ∧ (TumblerFree c → Traps (exec (.qpop d x n p a) s) s c t.cls t.detail t.addr t.lane) :=
    ⟨qpush_trap h active unwaited (stops true), fun free => qpop_trap h active free (stops false)⟩
  refine ⟨fun unaligned => traps _ fun _ => queueOp_unaligned unaligned, fun ls aligned places sound malformed =>
    traps _ fun _ => queueOp_malformed aligned places sound malformed, fun ls k aligned places bad =>
    traps _ fun _ => queueOp_badSector aligned places bad, fun q o ok => ⟨?_, ?_, ?_⟩, fun q o free ok => ⟨?_, ?_, ?_⟩⟩
  · exact (queueOp_yields s c _ _ _ _ _ _ ok).2.2
  · exact qpush_moves h active unwaited outside ok
  · exact qpush_sends h active unwaited outside ok
  · exact fun nb full => qpop_stalls (q := q) h active outside ok nb full
  · exact fun nb room => qpop_takes h active outside ok free nb room
  · exact qpop_sends h active outside ok free

end Sys2Proof.Machine
end


section
/-! Messages and slice queues (R166 to R169, R171): a message comes into its cluster's queue, a dispatch starts its handler, a handler's watchdog, and
a queue operation at its slice. -/
namespace Sys2Proof.Machine

set_option Elab.async false

/-! ### A message comes (R166) -/

@[simp] theorem takeOut_ashore (s : State) (m : Msg) : (takeOut s m).ashore
    = ({ s with outMsgs := s.outMsgs.filter fun e => e.id != m.id, peerIn := s.peerIn.filter fun e => e.id != m.id } : State).ashore :=
  (fqLeave_ashore ..).trans (dropFrames_ashore ..)

@[simp] theorem takeOut_outMsgs (s : State) (m : Msg) : (takeOut s m).outMsgs = s.outMsgs.filter fun e => e.id != m.id :=
  congrArg State.outMsgs (takeOut_ashore s m)

@[simp] theorem takeOut_msgQ (s : State) (m : Msg) : (takeOut s m).msgQ = s.msgQ :=
  (congrArg State.msgQ (takeOut_ashore s m) :)

/-- The machine once the frames of a message have moved as far as they can and its core's buffer has seen it leave. -/
def broughtMsg (s : State) (m : Msg) : State := fqLeave (bringFrame s m.id) (200 + m.core) (heldMsgs (bringFrame s m.id) m.core).length

theorem broughtMsg_ashore (s : State) (m : Msg) : (broughtMsg s m).ashore = s.ashore := (fqLeave_ashore ..).trans (bringFrame_ashore ..)

theorem arriveMsg_full {s : State} {m : Msg} (home : m.away = none) (resident : ctxResident s m.ctx = true)
    (full : fqFull (broughtMsg s m) (100 + m.cluster) 64 (s.msgQ.filter fun e => e.1 == m.cluster).length = true) :
    arriveMsg (broughtMsg s m) m = broughtMsg s m := by
  have ash := broughtMsg_ashore s m
  have queue : (broughtMsg s m).msgQ = s.msgQ := same_of_ashore ash State.msgQ
  have resident' : ctxResident (broughtMsg s m) m.ctx = true := (same_of_ashore ash (ctxResident · m.ctx)).trans resident
  simp only [arriveMsg, home, resident', queue, full, Bool.not_true, Bool.false_eq_true, if_false, if_true]

theorem arriveMsg_lost {s : State} {m : Msg} (home : m.away = none) (absent : ctxResident s m.ctx = false) :
    arriveMsg (broughtMsg s m) m = loseMsg (takeOut (broughtMsg s m) m) m := by
  have absent' : ctxResident (broughtMsg s m) m.ctx = false := (same_of_ashore (broughtMsg_ashore s m) (ctxResident · m.ctx)).trans absent
  simp only [arriveMsg, home, absent', Bool.not_false, if_true]

section
variable {s : State} {m : Msg} (only : s.outMsgs = [m])
include only

theorem execMessageArrival_only (target : deadStation s (m.station s) = false) (source : deadStation s (clusterStation s (m.core / 4)) = false)
    (come : arrived (broughtMsg s m) m.id = true) : exec (.messageArrival m.id) s = .next (arriveMsg (broughtMsg s m) m) := by
  have same {α : Type} (F : State → α) (blind : ∀ s : State, F s.ashore = F s := by exact fun _ => rfl) : F (broughtMsg s m) = F s :=
    same_of_ashore (broughtMsg_ashore s m) F blind
  have target' : deadStation (broughtMsg s m) (m.station (broughtMsg s m)) = false := (same fun s => deadStation s (m.station s)).trans target
  have source' : deadStation (broughtMsg s m) (clusterStation (broughtMsg s m) (m.core / 4)) = false :=
    (same fun s => deadStation s (clusterStation s (m.core / 4))).trans source
  rw [exec_messageArrival, execMessageArrival, only]
  simp only [List.find?_cons, beq_self_eq_true, Bool.and_self]
  rw [← broughtMsg, target', source', come]
  rfl

theorem arriveMsg_queued (home : m.away = none) (resident : ctxResident s m.ctx = true)
    (room : fqFull (broughtMsg s m) (100 + m.cluster) 64 (s.msgQ.filter fun e => e.1 == m.cluster).length = false) :
    (arriveMsg (broughtMsg s m) m).outMsgs = [] ∧ (arriveMsg (broughtMsg s m) m).msgQ = s.msgQ ++ [(m.cluster, m)]
      ∧ .handlerDispatch m.cluster ∈ (arriveMsg (broughtMsg s m) m).agenda := by
  have ash := broughtMsg_ashore s m
  have queue : (broughtMsg s m).msgQ = s.msgQ := same_of_ashore ash State.msgQ
  have resident' : ctxResident (broughtMsg s m) m.ctx = true := (same_of_ashore ash (ctxResident · m.ctx)).trans resident
  simp only [arriveMsg, home, resident', queue, room, Bool.not_true, Bool.false_eq_true, if_false]
  have taken (n : Nat) : (fqTake (broughtMsg s m) (100 + m.cluster) 64 n).ashore = s.ashore := (fqTake_ashore ..).trans ash
  simp [same_of_ashore (taken _) State.outMsgs, same_of_ashore (taken _) State.msgQ, only]

end

/-! ### A message is dispatched (R167, R168) -/

section
variable {s : State} {m : Msg} {k : Nat} {c : Ctx} {ls : List Loc}

theorem dispatchMsg_noTable (known : Tab.find s.ctxs m.ctx = some c) (none : c.htab = 0) : dispatchMsg s m k = discardMsg s m := by
  simp only [dispatchMsg, known, none, if_true]

variable (known : Tab.find s.ctxs m.ctx = some c) (table : c.htab ≠ 0)
  (entry : engCheck s (engStation m.cluster) m.ctx m.id 1 ((List.range 8).map (c.htab + 8 * m.handler + ·)) = .ok ls)
include known table entry

theorem dispatchMsg_invalid (invalid : leNat (engRead s (engStation m.cluster) m.ctx ls).2.1 % 2 = 0 ∨ (engRead s (engStation m.cluster) m.ctx ls).2.2 ≠ []) :
    dispatchMsg s m k = discardMsg (engRead s (engStation m.cluster) m.ctx ls).1 m := by
  simp only [dispatchMsg, known, if_neg table, entry]
  exact if_pos (invalid.imp_right fun bad => by simpa using bad)

variable (valid : leNat (engRead s (engStation m.cluster) m.ctx ls).2.1 % 2 = 1) (sound : (engRead s (engStation m.cluster) m.ctx ls).2.2 = []) {hs : List Loc}
  (header : engCheck (engRead s (engStation m.cluster) m.ctx ls).1 (engStation m.cluster) m.ctx m.id 1
    ((List.range 4).map (leNat (engRead s (engStation m.cluster) m.ctx ls).2.1 / 4 * 4 + ·)) = .ok hs)
include valid sound header

/-- With a valid entry, the word at its handler decides. -/
theorem dispatchMsg_valid :
    let r := engRead s (engStation m.cluster) m.ctx ls
    let h := engRead r.1 (engStation m.cluster) m.ctx hs
    dispatchMsg s m k = if headerKind (BitVec.ofNat 32 (leNat h.2.1)) = 4 ∧ h.2.2 = [] then startHandler (takeMsg h.1 m) m c k (leNat r.2.1 / 4 * 4)
      else discardMsg h.1 m := by
  simp only [dispatchMsg, known, if_neg table, entry, valid, sound, header, List.isEmpty_iff]
  rfl

end

theorem takeMsg_fields (s : State) (m : Msg) : (takeMsg s m).msgQ = s.msgQ.filter (fun e => e.2.id != m.id) ∧ (takeMsg s m).nextId = s.nextId
    ∧ (takeMsg s m).time = s.time := by
  obtain ⟨fr, fq, left⟩ := eq_of_ashore (fqLeave_ashore { s with msgQ := s.msgQ.filter fun e => e.2.id != m.id } (100 + m.cluster)
    ((s.msgQ.filter fun e => e.2.id != m.id).filter fun e => e.1 == m.cluster).length)
  simp only [takeMsg, left]
  exact ⟨rfl, rfl, rfl⟩

/-- A handler group's width, place and arguments (R168). -/
theorem handlerGroup_fields (s : State) (m : Msg) (c : Ctx) (lk core off : Nat) (img : Image) :
    let g := handlerGroup s m c lk core off img
    g.kind = .handler ∧ g.core = core ∧ g.ctx = m.ctx ∧ g.width = img.width
      ∧ (g.s 0, g.s 1, g.s 2, g.s 3) = (BitVec.ofNat 64 m.core, BitVec.ofNat 64 m.data.length, BitVec.ofNat 64 m.handler, BitVec.ofNat 64 m.peer)
      ∧ g.deadline = s.time + 1000000 := by
  refine ⟨rfl, rfl, rfl, rfl, ?_, rfl⟩
  have arg (g : Group) (v : Nat → BitVec 64) (i : Nat) : ((((g.setS 0 (v 0)).setS 1 (v 1)).setS 2 (v 2)).setS 3 (v 3)).s i
      = if i = 3 then v 3 else if i = 2 then v 2 else if i = 1 then v 1 else if i = 0 then v 0 else g.s i := by simp only [Group.s_setS]
  let v (i : Nat) : BitVec 64 := BitVec.ofNat 64 ([m.core, m.data.length, m.handler, m.peer].getD i 0)
  exact congrArg₂ Prod.mk (arg _ v 0) (congrArg₂ Prod.mk (arg _ v 1) (congrArg₂ Prod.mk (arg _ v 2) (arg _ v 3)))

theorem handlerImage_width (s : State) (ctx entry : Nat) : (handlerImage s ctx entry).1.width = 16 := by
  unfold handlerImage
  split <;> rfl

@[simp] theorem claimCore_groups (s : State) (c : Ctx) (harvest : Bool) (core : Nat) : (claimCore s c harvest core).groups = s.groups := by
  unfold claimCore
  split <;> rfl

@[simp] theorem claimCore_aside (s : State) (c : Ctx) (harvest : Bool) (core : Nat) : (claimCore s c harvest core).aside = s.aside := by
  unfold claimCore
  split <;> rfl

/-- The group of a handler that starts. -/
def startedGroup (s : State) (m : Msg) (c : Ctx) (core entry : Nat) : Group :=
  handlerGroup { s with nextId := s.nextId + 2 } m c s.nextId core (handlerImage s m.ctx entry).2 (handlerImage s m.ctx entry).1

/-- The machine with a handler's launch and group. -/
def withHandler (s : State) (m : Msg) (c : Ctx) (core entry : Nat) (l : Launch) : State :=
  { s with nextId := s.nextId + 2, launches := Tab.put s.launches s.nextId l,
           groups := Tab.put s.groups (s.nextId + 1) (startedGroup s m c core entry) }

/-- A handler that starts, of a message whose payload is sound. -/
theorem startHandler_eq (s : State) {m : Msg} (sound : m.bad = []) (c : Ctx) (core entry : Nat) :
    ∃ l, startHandler s m c core entry = claimCore (acquireAct (withHandler s m c core entry l) core m.scope m.paired) c false core := by
  simp only [startHandler, sound, newId, spreadBad, List.isEmpty_nil, if_true]
  exact ⟨_, rfl⟩

theorem startHandler_msgQ (s : State) {m : Msg} (sound : m.bad = []) (c : Ctx) (core entry : Nat) : (startHandler s m c core entry).msgQ = s.msgQ := by
  obtain ⟨l, e⟩ := startHandler_eq s sound c core entry
  have aside : (startHandler s m c core entry).aside = s.aside := by rw [e, claimCore_aside, acquireAct_aside]; rfl
  exact congrArg (fun a => a.2.1) aside

/-- The group of a handler that starts stands under the second fresh key. -/
theorem startHandler_group (s : State) {m : Msg} (sound : m.bad = []) (c : Ctx) (core entry : Nat) :
    ∃ g, Tab.find (startHandler s m c core entry).groups (s.nextId + 1) = some g
      ∧ ({ g with mb := [], pending := [] } : Group) = { startedGroup s m c core entry with mb := [], pending := [] } := by
  obtain ⟨l, e⟩ := startHandler_eq s sound c core entry
  have steady : (startHandler s m c core entry).steady = (withHandler s m c core entry l).steady := by
    rw [e, steady_congr (claimCore_groups ..), acquireAct_steady]
  have found := congrFun steady (s.nextId + 1)
  simp only [State.steady, withHandler, Tab.find_put_same, Option.map_some] at found
  exact Option.map_eq_some_iff.1 found

/-- What its group is (R168). -/
theorem startHandler_fields (s : State) {m : Msg} (sound : m.bad = []) (c : Ctx) (core entry : Nat) :
    ∃ g, Tab.find (startHandler s m c core entry).groups (s.nextId + 1) = some g ∧ g.kind = .handler ∧ g.core = core ∧ g.ctx = m.ctx ∧ g.width = 16
      ∧ (g.s 0, g.s 1, g.s 2, g.s 3) = (BitVec.ofNat 64 m.core, BitVec.ofNat 64 m.data.length, BitVec.ofNat 64 m.handler, BitVec.ofNat 64 m.peer)
      ∧ g.deadline = s.time + 1000000 := by
  obtain ⟨g, found, same⟩ := startHandler_group s sound c core entry
  obtain ⟨kind, place, ctx, width, args, deadline⟩ := handlerGroup_fields { s with nextId := s.nextId + 2 } m c s.nextId core
    (handlerImage s m.ctx entry).2 (handlerImage s m.ctx entry).1
  have field {α : Type} (F : Group → α) (blind : ∀ g : Group, F { g with mb := [], pending := [] } = F g := by exact fun _ => rfl) :
      F g = F (startedGroup s m c core entry) := by rw [← blind g, same, blind]
  exact ⟨g, found, (field Group.kind).trans kind, (field Group.core).trans place, (field Group.ctx).trans ctx,
    (field Group.width).trans (width.trans (handlerImage_width ..)), (field fun g => (g.s 0, g.s 1, g.s 2, g.s 3)).trans args,
    (field Group.deadline).trans deadline⟩

/-! ### A watchdog (R169) -/

theorem execHandlerWatchdog_early {s : State} {key n : Nat} {g : Group} (found : Tab.find s.groups key = some g) (early : max s.time n < g.deadline) :
    exec (.handlerWatchdog key n) s = .next (atTime s n) := by
  have found' : Tab.find (atTime s n).groups key = some g := found
  rw [exec_handlerWatchdog, execHandlerWatchdog, found']
  exact if_neg fun due => absurd due.2 (Nat.not_le.2 early)

theorem execHandlerWatchdog_late {s : State} {key n : Nat} {g : Group} (found : Tab.find s.groups key = some g) (handler : g.kind = .handler)
    (late : g.deadline ≤ max s.time n) : exec (.handlerWatchdog key n) s
      = .next (standing (atTime s n) key (groupRec (atTime s n) g ⟨0x10, 0, 0, 0⟩ ((g.splits.head?.map (·.2.pc)).getD 0) false)) := by
  have found' : Tab.find (atTime s n).groups key = some g := found
  rw [exec_handlerWatchdog, execHandlerWatchdog, found']
  exact if_pos ⟨handler, late⟩

/-! ### A queue operation at its slice (R171) -/

theorem markReq_rest (s : State) (r : SReq) (slice : Nat) : ∃ mk, markReq s r slice = { s with marks := mk } := by
  unfold markReq
  split
  · exact ⟨s.marks, rfl⟩
  · exact putMark_rest ..

/-- What an operation that comes to its slice changes. -/
theorem arriveQueue_rest (s : State) (r : SReq) : ∃ fr fq mk ag, arriveQueue s r = { s with
    frames := fr, fqueues := fq, marks := mk, agenda := ag, sreqs := s.sreqs.map fun x => if x.id == r.id then { x with here := true } else x } := by
  obtain ⟨fr, fq, taken⟩ := eq_of_ashore (fqTake_ashore s (1000 + r.slice s) 64 (sliceHeld s (r.slice s)))
  obtain ⟨fr', fq', dropped⟩ := eq_of_ashore (dropFrames_ashore
    { s with frames := fr, fqueues := fq, sreqs := s.sreqs.map fun x => if x.id == r.id then { x with here := true } else x } r.id)
  simp only [arriveQueue, taken, dropped]
  obtain ⟨mk, marked⟩ := markReq_rest { s with
    frames := fr', fqueues := fq', sreqs := s.sreqs.map fun x => if x.id == r.id then { x with here := true } else x } r (r.slice s)
  exact ⟨fr', fq', mk, _, congrArg (later · (.sliceQueueOperation r.id)) marked⟩

section
variable {s : State} {r : SReq} {o : QOp} (only : s.sreqs = [r]) (queue : r.kind = .queue o) (alive : cutOff s o.desc = false)
include only queue alive

/-- The machine once the operation has come to its slice. -/
theorem comeQueue_here (come : r.waiting = false → r.here = false → arrived (bringFrame s r.id) r.id = true ∧ sliceFull (bringFrame s r.id) (r.slice (bringFrame s r.id)) = false) :
    comeQueue s r.id = if r.here ∨ r.waiting then s else arriveQueue (bringFrame s r.id) r := by
  have reqs : (bringFrame s r.id).sreqs = [r] := (bringFrame_same State.sreqs).trans only
  simp only [comeQueue, only, List.find?_cons, beq_self_eq_true, queue, alive]
  split
  · rfl
  · rename_i away
    rw [not_or, Bool.not_eq_true, Bool.not_eq_true] at away
    obtain ⟨arrives, room⟩ := come away.2 away.1
    simp [arrives, room, aheadOf, reqs]

end

/-- An operation that stands alone at its slice moves all its entries when they fit, and waits otherwise. -/
theorem execSliceQueueOperation_alone {s t : State} {id : Nat} {r : SReq} {o : QOp} (came : comeQueue s id = t) (only : t.sreqs = [r]) (own : r.id = id)
    (queue : r.kind = .queue o) (here : (r.here || r.waiting) = true) (alive : cutOff t o.desc = false) :
    exec (.sliceQueueOperation id) s = .next (
      if o.vals.length ≤ o.avail t ∧ windowRoom t r (r.slice t) = true then moveQueue t r o
      else if r.waiting then t else { t with sreqs := [{ r with here := false, waiting := true }] }) := by
  have first : ((waiters t o.desc o.push).takeWhile fun w => w.id != id) = [] := by
    have ids : ∀ w ∈ waiters t o.desc o.push, w.id = id := fun w hw => by
      have stands := List.mem_of_mem_filter hw
      rw [only, List.mem_singleton] at stands
      rw [stands, own]
    cases ws : waiters t o.desc o.push with
    | nil => rfl
    | cons w ws' => exact List.takeWhile_cons_of_neg (by simp [ids w (ws ▸ List.mem_cons_self)])
  have others : ([r].filter fun y => y.id != id) = [] := by simp [own]
  rw [exec_sliceQueueOperation, execSliceQueueOperation, came]
  simp only [only, List.find?_cons, own, beq_self_eq_true, here, Bool.and_self, queue, alive, first, others, List.isEmpty_nil, true_and,
    Bool.false_eq_true, if_false, List.nil_append]
  split
  · rfl
  · split <;> rfl

/-- The machine once the operation stands at its slice: it is there, and nothing else is. -/
theorem arriveQueue_only {s : State} {r : SReq} (only : s.sreqs = [r]) {l : Loc} (alive : cutOff s l = false) :
    (arriveQueue (bringFrame s r.id) r).sreqs = [{ r with here := true }] ∧ cutOff (arriveQueue (bringFrame s r.id) r) l = false := by
  obtain ⟨fr, fq, mk, ag, e⟩ := arriveQueue_rest (bringFrame s r.id) r
  have reqs : (bringFrame s r.id).sreqs = [r] := (bringFrame_same State.sreqs).trans only
  rw [e]
  exact ⟨by simp [reqs], (bringFrame_same (cutOff · l)).trans alive⟩

/-- Settles O48: arrival, dispatch, watchdog and slice queue each by their own lemmas. -/
theorem messageEvents : Obligations.MessageEvents := by
  unfold Obligations.MessageEvents
  refine ⟨?_, ?_, ?_, ?_⟩
  · intro s m only home target source s1 full come
    have runs := execMessageArrival_only only target source come
    exact ⟨fun resident room => ⟨_, runs, arriveMsg_queued only home resident room⟩,
      fun resident full => runs.trans (congrArg _ (arriveMsg_full home resident full)), fun absent => runs.trans (congrArg _ (arriveMsg_lost home absent))⟩
  · rintro s m cl k c ls queued rfl core known - entry r e
    have runs : exec (.handlerDispatch m.cluster) s = .next (dispatchMsg s m k) := by
      simp [exec_handlerDispatch, execHandlerDispatch, dispatchCluster, queued, core]
    refine ⟨fun none => runs.trans (congrArg _ (dispatchMsg_noTable known none)), fun table invalid =>
      runs.trans (congrArg _ (dispatchMsg_invalid known table entry invalid)), fun hs table valid sound header => ?_⟩
    intro h good
    have decides := runs.trans (congrArg _ (dispatchMsg_valid (k := k) known table entry valid sound header))
    refine ⟨fun bad => decides.trans (congrArg _ (if_neg bad)), fun good whole => ?_⟩
    have aside : h.1.aside = s.aside := (engRead_aside ..).trans (engRead_aside ..)
    have queued' : h.1.msgQ = [(m.cluster, m)] := (congrArg (fun a => a.2.1) aside).trans queued
    have time : h.1.time = s.time := congrArg (fun a => a.2.2) aside
    obtain ⟨left, fresh, clock⟩ := takeMsg_fields h.1 m
    obtain ⟨g, found, kind, place, ctx, width, args, deadline⟩ := startHandler_fields (takeMsg h.1 m) whole c k (e / 4 * 4)
    rw [fresh] at found
    rw [clock, time] at deadline
    refine ⟨_, g, decides.trans (congrArg _ (if_pos good)), rfl, ?_, found, kind, place, ctx, width, args, deadline⟩
    rw [startHandler_msgQ _ whole, left, queued']
    simp
  · intro s key n g found handler s2
    exact ⟨execHandlerWatchdog_early found, execHandlerWatchdog_late found handler⟩
  · intro s r o only queue alive
    refine ⟨fun idle come => ?_, fun waits away => ?_⟩
    · intro s2
      have came : comeQueue s r.id = s2 := (comeQueue_here only queue alive fun _ => come).trans (by simp [s2, idle])
      obtain ⟨here, alive'⟩ : s2.sreqs = [{ r with here := true }] ∧ cutOff s2 o.desc = false := by
        by_cases there : r.here = true
        · rw [show s2 = s from if_pos there]
          exact ⟨by rw [only, ← there], alive⟩
        · rw [show s2 = _ from if_neg there]
          exact arriveQueue_only only alive
      have runs := execSliceQueueOperation_alone came here rfl queue rfl alive'
      refine ⟨fun fits room => runs.trans (congrArg _ (if_pos ⟨fits, room⟩)), fun lacks => runs.trans (congrArg _ ?_)⟩
      rw [if_neg fun moves => absurd moves.1 (Nat.not_le.2 lacks), idle]
      rfl
    · have came : comeQueue s r.id = s := (comeQueue_here only queue alive fun idle => by simp [idle] at waits).trans (if_pos (.inr waits))
      have runs := execSliceQueueOperation_alone came only rfl queue (by simp [waits]) alive
      refine ⟨fun fits room => runs.trans (congrArg _ (if_pos ⟨fits, room⟩)), fun lacks => runs.trans (congrArg _ ?_)⟩
      rw [if_neg fun moves => absurd moves.1 (Nat.not_le.2 lacks), waits]
      rfl

end Sys2Proof.Machine
end

section
/-! The words of surface space (R199 to R201): `sld` and `sst` once their texels' places are known, and the management words. -/
namespace Sys2Proof.Machine

theorem wholeSurf_of_named {s : State} {c : WCtx} {a rw : Nat} {f : Surf} (named : namedSurf s c a rw = .ok f) (inside : saOff a < f.bytes) :
    wholeSurf s c a rw = .ok f := by
  simp only [wholeSurf, named, Nat.not_le.2 inside, if_false]

theorem bufferOps_overfull {s : State} {c : WCtx} {rw seg : Nat} {os : List BufOp} (full : overfills s c os = true) :
    bufferOps s c rw seg os = .error (.trap ⟨0x03, memDetail rw seg, 0, c.low⟩) := if_pos full

/-! ### Two scalars (R200) -/

/-- A word that, once memory has been read, writes two scalar registers, of which the second write stands. -/
theorem completes_writeS_writeS (s : State) (c : WCtx) (d e v w : Nat) :
    Completes (.next (finish (writeS (writeS s c d v) c e w) c)) s c [] 0 fun g g' =>
      g' = { g with sregs := g'.sregs, splits := g'.splits, susp := none, want := none, lastIssue := s.time }
        ∧ ∀ j, g'.s j = if j = e then BitVec.ofNat 64 w else if j = d then BitVec.ofNat 64 v else g.s j := by
  have both : writeS (writeS s c d v) c e w = updG s c.key fun g => (g.setS d (BitVec.ofNat 64 v)).setS e (BitVec.ofNat 64 w) := updG_updG ..
  rw [both]
  refine (completes_change s c (fun g => (g.setS d (BitVec.ofNat 64 v)).setS e (BitVec.ofNat 64 w)) (fun _ => rfl) fun _ => rfl).mono
    fun g g' _ eq => ⟨by rw [eq]; rfl, fun j => ?_⟩
  rw [eq]
  exact (Group.s_setS ..).trans (by rw [Group.s_setS])

/-- A word that, once memory has been read, writes one scalar register. -/
theorem completes_writeS_onward (s : State) (c : WCtx) (d v : Nat) :
    Completes (.next (finish (writeS s c d v) c)) s c [] 0 (WritesScalar s d (BitVec.ofNat 64 v)) :=
  (completes_change s c (fun g => g.setS d (BitVec.ofNat 64 v)) (fun _ => rfl) fun _ => rfl).mono fun g g' _ e =>
    ⟨by rw [e]; rfl, fun j => by rw [e]; exact Group.s_setS g d j _⟩

section
variable {s : State} {c : WCtx} (h : Issues s c) (he : c.eff ≠ 0)
include h he

/-! ### `sld` and `sst` (R199) -/

section
variable {d : BitVec 7} {hs : BitVec 6} {n : BitVec 2} {f : Surf} {ls : List (Nat × List Loc)} {s1 : State}

theorem execSld_completes (free : TumblerFree c) (readable : Readable c (rowRun d.toNat (2 ^ n.toNat)))
    (places : texelPlaces s c d.toNat hs.toNat n.toNat 0 = .ok (f, ls)) (touched : touchSurf s 0 ls = .ok s1) :
    let r := loadLanes s1 c.key c.g ls
    Completes (execSld d hs n s) r.1 c [.longLatencyCompletion c.key r.1.nextId] 1
      (InFlight r.1 c r.1.nextId fun q => q.ready = true ∧ q.svals = [] ∧ q.poison = lanesBad r.1 c.g.core ls
        ∧ q.elems = ((List.range (2 ^ n.toNat)).flatMap fun i =>
            c.g.laneElems false (d.toNat + i) (r.2.map fun y => (y.1, fieldAt y.2 (4 * i) 4)))
        ∧ q.tags = (List.range (2 ^ n.toNat)).map fun i => (c.g.rowNo 0 (d.toNat + i) 0, BitVec.ofNat 5 (surfTag f.format))) := by
  intro r
  let p : Pending := { blankPending r.1.nextId c.sp.pc with
    elems := (List.range (2 ^ n.toNat)).flatMap fun i => c.g.laneElems false (d.toNat + i) (r.2.map fun y => (y.1, fieldAt y.2 (4 * i) 4)),
    tags := (List.range (2 ^ n.toNat)).map fun i => (c.g.rowNo 0 (d.toNat + i) 0, BitVec.ofNat 5 (surfTag f.format)),
    ready := true, poison := lanesBad r.1 c.g.core ls }
  have ok : execSld d hs n s = .next (finish (updG (later (newId r.1).1 (.longLatencyCompletion c.key r.1.nextId)) c.key fun g =>
      g.fly { p with tumbler := tumblerOf c.sp }) c) :=
    runLong_ok h he free rfl (by simp only [vecCheck_ok rfl readable, places, touched, Try.ok_bind]; rfl)
  rw [ok]
  exact completes_landing r.1 c { p with tumbler := tumblerOf c.sp } _ rfl rfl ⟨rfl, rfl, rfl, rfl, rfl⟩

variable (readable : Readable c (rowRun d.toNat (2 ^ n.toNat + 1))) (places : texelPlaces s c d.toNat hs.toNat n.toNat 1 = .ok (f, ls))
  (touched : touchSurf s 1 ls = .ok s1)

/-- The stores of `sst`: each lane's texel to its place, in lane order. -/
def texelStores (c : WCtx) (d : Nat) (n : Nat) (ls : List (Nat × List Loc)) : List BufOp :=
  ls.map fun y => .bytes (y.2.zip ((List.range (2 ^ n)).flatMap fun i => leBytes 4 (c.g.val false (d + 1 + i) y.1)))

include readable places touched

theorem execSst_completes (fits : overfills s1 c (texelStores c d.toNat n.toNat ls) = false) :
    Completes (execSst d hs n s) (doOps s1 c (texelStores c d.toNat n.toNat ls)) c [] 0 (Kept (doOps s1 c (texelStores c d.toNat n.toNat ls))) := by
  have stores := (bufferOps_ok (rw := 1) (seg := 3)).2 ⟨fits, rfl⟩
  have ok : execSst d hs n s = .next (finish (doOps s1 c (texelStores c d.toNat n.toNat ls)) c) :=
    runWord_ok h he _ (by simp only [vecCheck_ok rfl readable, places, touched, Try.ok_bind]; exact stores)
  rw [ok]
  exact completes_onward _ c

theorem execSst_overfull (full : overfills s1 c (texelStores c d.toNat n.toNat ls) = true) :
    Traps (execSst d hs n s) s c 0x03 (memDetail 1 3) 0 c.low :=
  runWord_trap h he _ (by simp only [vecCheck_ok rfl readable, places, touched, Try.ok_bind]; exact bufferOps_overfull full)

end

/-! ### `salloc` (R200) -/

section
variable {d : BitVec 7} {hs : BitVec 6} {a : Nat} (ha : (c.g.s hs.toNat).toNat = a)
include ha

theorem execSalloc_misaligned (bad : a % 64 ≠ 0) : Traps (execSalloc d hs s) s c 0x08 2 a c.low := by
  have stops : trapIf (a % 64 != 0) ⟨0x08, 2, a, c.low⟩ = .error (.trap ⟨0x08, 2, a, c.low⟩) := if_pos (by simpa using bad)
  exact runWord_trap h he _ (by simp only [ha, stops]; rfl)

variable {ls : List Loc} (aligned : a % 64 = 0) (place : uniform s c 0 a 64 0 = .ok ls)
include aligned place

/-- A template in a sector that cannot be read as good (log 131). -/
theorem execSalloc_badSector {sec : Nat} (bad : loadBad (groupLoad s c.key c.g ls).1 c.g.core ls = some sec) :
    Traps (execSalloc d hs s) s c 0x0E 0 sec c.low := by
  have stops : goodSource (groupLoad s c.key c.g ls).1 c ls = .error (.trap ⟨0x0E, 0, sec, c.low⟩) := by rw [goodSource, bad]
  exact runWord_trap h he _ (by simp only [ha, trapIf_aligned aligned, place, stops, Try.ok_bind]; rfl)

variable (good : loadBad (groupLoad s c.key c.g ls).1 c.g.core ls = none)
include good

theorem execSalloc_malformed (bad : parseTemplate (groupLoad s c.key c.g ls).2 c.g.ctx 0 = none) : Traps (execSalloc d hs s) s c 0x08 1 a c.low :=
  runWord_trap h he _ (by simp only [ha, trapIf_aligned aligned, place, goodSource_ok good, bad, Try.ok_bind]; rfl)

/-- A template that R176 admits, its spill area in the context's frames: the handle and the status. -/
theorem execSalloc_ok {f : Surf} (parsed : parseTemplate (groupLoad s c.key c.g ls).2 c.g.ctx 0 = some f)
    (backed : spillBacked (groupLoad s c.key c.g ls).1 c.g.ctx f = true) {q : State × Nat × Nat}
    (alloc : allocSurf (groupLoad s c.key c.g ls).1 c.g.ctx (groupLoad s c.key c.g ls).2 = q) :
    execSalloc d hs s = .next (finish (writeS (writeS q.1 c d.toNat q.2.2) c (d.toNat + 1) q.2.1) c) := by
  have inFrames : trapIf (!spillBacked (groupLoad s c.key c.g ls).1 c.g.ctx f) ⟨0x02, memDetail 1 3, f.spill, c.low⟩ = .ok () := by
    rw [backed]; rfl
  exact runWord_ok h he _ (by
    simp only [ha, trapIf_aligned aligned, place, goodSource_ok good, parsed, inFrames, alloc, Try.ok_bind]
    rfl)

end

/-! ### `sfree` and `spin` (R201) -/

section
variable {d : BitVec 7} {hs : BitVec 6} {f : Surf} (whole : wholeSurf s c (c.g.s hs.toNat).toNat 1 = .ok f)
include whole

theorem execSfree_waits (busy : (List.range f.nt).any (inFlight s (saHandle (c.g.s hs.toNat).toNat)) = true) :
    execSfree hs s = .next (stalled s c) :=
  runWord_stall h he _ (by simp only [whole, busy, Try.ok_bind]; rfl)

theorem execSfree_frees (idle : (List.range f.nt).any (inFlight s (saHandle (c.g.s hs.toNat).toNat)) = false) :
    execSfree hs s = .next (finish (freeSurf s (saHandle (c.g.s hs.toNat).toNat)) c) :=
  runWord_ok h he _ (by simp only [whole, idle, Try.ok_bind]; rfl)

theorem execSpinOn_pins :
    let r := pinSurf s (saHandle (c.g.s hs.toNat).toNat)
    execSpinOn d hs s = .next (finish (writeS r.1 c d.toNat r.2) c) :=
  runWord_ok h he _ (by simp only [whole, Try.ok_bind]; rfl)

theorem execSpinOff_unpins :
    let s2 : State := { s with surfs := Tab.modify s.surfs (saHandle (c.g.s hs.toNat).toNat) fun f => { f with pinned := false } }
    execSpinOff d hs s = .next (finish (writeS s2 c d.toNat 0) c) :=
  runWord_ok h he _ (by simp only [whole, Try.ok_bind]; rfl)

end
end

/-- Settles O34: each word by its own lemma, in the order of its checks. -/
theorem surfaceWords : Obligations.SurfaceWords := by
  intro s c d hs n h he k a hd
  simp only [exec_sld, exec_sst, exec_salloc, exec_sfree, exec_spinOn, exec_spinOff]
  refine ⟨fun free readable f ls s1 places touched => execSld_completes h he free readable places touched,
    fun readable f ls s1 places touched => ?sst, fun bad => execSalloc_misaligned h he rfl bad, fun ls aligned place => ?salloc,
    fun f whole => ⟨⟨execSfree_waits h he whole, fun idle => ?sfree⟩, ?pin, ?unpin⟩⟩
  case sst => exact ⟨execSst_completes h he readable places touched, execSst_overfull h he readable places touched⟩
  case salloc =>
    refine ⟨fun sec bad => execSalloc_badSector h he rfl aligned place bad,
      fun good bad => execSalloc_malformed h he rfl aligned place good bad, fun f good parsed backed => ?_⟩
    rw [execSalloc_ok h he rfl aligned place good parsed backed rfl]
    exact completes_writeS_writeS _ c d.toNat (d.toNat + 1) _ _
  case sfree =>
    rw [execSfree_frees h he whole idle]
    exact completes_onward _ c
  case pin =>
    rw [execSpinOn_pins h he whole]
    exact completes_writeS_onward _ c d.toNat _
  case unpin =>
    rw [execSpinOff_unpins h he whole]
    exact completes_writeS_onward _ c d.toNat 0

end Sys2Proof.Machine
end

section
/-! What stores of bytes leave alone: the whole machine beside its memories, their check values, the counts of frames and the records of bad
sectors. -/
namespace Sys2Proof.Machine

set_option Elab.async false

/-- The machine beside its memories, and of each context all but the records that wait. -/
def State.beside (s : State) : State × (Nat → Option Ctx) :=
  ({ s with groups := [], scratch := [], near := [], far := [], host := [], peers := [], slices := [], poison := [], badCheck := [],
            hub0 := Hub.reset, hub1 := Hub.reset, cells := [], sbytes := [], bstate := [], ctxs := [] },
    fun c => (Tab.find s.ctxs c).map fun x => { x with fqWait := [] })

/-- The fields that stores change are not beside memory. -/
@[simp] theorem beside_with (s : State)
    {groups scratch near far host peers slices poison badCheck hub0 hub1 cells sbytes bstate} :
    ({ s with groups, scratch, near, far, host, peers, slices, poison, badCheck, hub0, hub1, cells, sbytes, bstate } : State).beside = s.beside := rfl

/-- What does not look at memory. -/
theorem same_of_beside {α : Type} {s t : State} (h : t.beside = s.beside) (F : State → α)
    (blind : ∀ s : State, F s.beside.1 = F s := by exact fun _ => rfl) : F t = F s := by
  rw [← blind t, h, blind s]

theorem ctxHarvest_of_beside {s t : State} (h : t.beside = s.beside) (c : Nat) : ctxHarvest t c = ctxHarvest s c := by
  have seen (u : State) : ctxHarvest u c = ((u.beside.2 c).map Ctx.harvest).getD false := by
    simp only [ctxHarvest, State.beside]
    cases Tab.find u.ctxs c <;> rfl
  rw [seen, seen, h]

/-! ### Check values and slices -/

@[simp] theorem chargeRec_beside (s : State) (ctx : Nat) (r : Rec) : (chargeRec s ctx r).beside = s.beside := by
  refine Prod.ext rfl (funext fun c => ?_)
  simp only [State.beside, chargeRec, Tab.find_modify]
  split
  case isTrue same => rw [same, Option.map_map]; rfl
  case isFalse => rfl

@[simp] theorem sectorRec_beside (s : State) (ctx cls : Nat) (l : Loc) : (sectorRec s ctx cls l).beside = s.beside := chargeRec_beside ..
@[simp] theorem setPoison_beside (s : State) (x : Loc) (p : Bool) : (setPoison s x p).beside = s.beside := rfl
@[simp] theorem carrySector_beside (s : State) (x y : Loc) : (carrySector s x y).beside = s.beside := rfl
@[simp] theorem dropLines_beside (s : State) (p : Nat → Bool) : (dropLines s p).beside = s.beside := rfl

@[simp] theorem poisonPlaces_beside (s : State) (ls : List Loc) : (poisonPlaces s ls).beside = s.beside :=
  foldl_same State.beside _ (fun _ _ => setPoison_beside ..) _ s

@[simp] theorem touchCount_beside (s : State) (f : Nat) : (touchCount s f).beside = s.beside := by rw [touchCount_rest]; rfl

@[simp] theorem chargeCut_beside (s : State) (ctx : Nat) (ls : List Loc) : (chargeCut s ctx ls).beside = s.beside := by
  unfold chargeCut
  split
  · rfl
  · exact foldl_same State.beside _ (fun _ _ => sectorRec_beside ..) _ s

@[simp] theorem verifyPlaces_beside (s : State) (ctx : Nat) (ls : List Loc) : (verifyPlaces s ctx ls).beside = s.beside := by
  unfold verifyPlaces
  split
  · rfl
  · exact foldl_same State.beside _ (fun _ _ => by split <;> simp) _ s

@[simp] theorem setFrameByte_beside (s : State) (la : Nat) (b : BitVec 8) : (setFrameByte s la b).beside = s.beside := by
  simp only [setFrameByte]
  repeat' split
  all_goals rfl

@[simp] theorem flushBytes_beside (s : State) (line : Nat) (l : SLine) : (flushBytes s line l).beside = s.beside := by
  simp only [flushBytes]
  split
  · exact foldl_same State.beside _ (fun _ _ => sectorRec_beside ..) _ s
  · rw [foldl_same State.beside _ (fun s i => by split <;> simp), foldl_same State.beside _ (fun s x => by split <;> rfl)]
    split <;> simp

@[simp] theorem giveUpLine_beside (s : State) (slice : Nat) : (giveUpLine s slice).beside = s.beside := by
  unfold giveUpLine
  repeat' split
  all_goals simp

@[simp] theorem sliceRoom_beside (s : State) (slice : Nat) : (sliceRoom s slice).beside = s.beside := by unfold sliceRoom; split <;> simp
@[simp] theorem fillSector_beside (s : State) (x : Loc) : (fillSector s x).beside = s.beside := by rw [fillSector_rest]; rfl

@[simp] theorem fillSlice_beside (s : State) (line : Nat) : (fillSlice s line).beside = s.beside := by
  have roomed : (sliceRoom (touchCount s (line / 512)) (homeSlice s (128 * line))).beside = s.beside := by simp only [sliceRoom_beside, touchCount_beside]
  simp only [fillSlice]
  split
  · rfl
  · split
    · exact (foldl_same State.beside _ fillSector_beside _ _).trans roomed
    · exact roomed

@[simp] theorem fillLines_beside (s : State) (ls : List Loc) : (fillLines s ls).beside = s.beside :=
  foldl_same State.beside _ fillSlice_beside _ s

@[simp] theorem mergePlaces_beside (s : State) (ctx : Nat) (ls : List Loc) : (mergePlaces s ctx ls).beside = s.beside := by
  simp only [mergePlaces]
  split
  · simp
  · rw [foldl_same State.beside, fillLines_beside, chargeCut_beside]
    intro s x
    repeat' split
    all_goals simp

/-! ### Bytes at their homes -/

@[simp] theorem putSliceByte_beside (s : State) (ctx la : Nat) (b : BitVec 8) : (putSliceByte s ctx la b).beside = s.beside := by
  simp only [putSliceByte]
  split
  · exact fillSlice_beside ..
  · split
    · exact fillSlice_beside ..
    · exact (setFrameByte_beside ..).trans (fillSlice_beside ..)

@[simp] theorem putHostByte_beside (s : State) (t : Nat) (b : BitVec 8) : (putHostByte s t b).beside = s.beside := by
  unfold putHostByte; split <;> rfl

@[simp] theorem putRaw_beside (s : State) (ctx : Nat) (host : Bool) (a n v : Nat) : (putRaw s ctx host a n v).beside = s.beside := by
  induction n generalizing s a v with
  | zero => rfl
  | succ n ih => rw [putRaw, ih]; split <;> simp

@[simp] theorem roundCell_beside (s : State) (c : Cell) : (roundCell s c).beside = s.beside := by simp only [roundCell]; split <;> simp
@[simp] theorem retireCell_beside (s : State) (c : Cell) : (retireCell s c).beside = s.beside := roundCell_beside _ c
@[simp] theorem retireAt_beside (s : State) (host : Bool) (a : Nat) : (retireAt s host a).beside = s.beside :=
  foldl_same State.beside _ retireCell_beside _ s

@[simp] theorem setLogByte_beside (s : State) (ctx la : Nat) (b : BitVec 8) : (setLogByte s ctx la b).beside = s.beside := by
  unfold setLogByte; split <;> simp
@[simp] theorem setHostByte_beside (s : State) (t : Nat) (b : BitVec 8) : (setHostByte s t b).beside = s.beside := by
  unfold setHostByte; split <;> simp

@[simp] theorem putLogBytes_beside (s : State) (ctx la : Nat) (bs : List (BitVec 8)) : (putLogBytes s ctx la bs).beside = s.beside := by
  induction bs generalizing s la with
  | nil => rfl
  | cons b bs ih => rw [putLogBytes, ih, setLogByte_beside]

@[simp] theorem setLogBytes_beside (s : State) (ctx la : Nat) (bs : List (BitVec 8)) : (setLogBytes s ctx la bs).beside = s.beside := by
  simp [setLogBytes]

/-! ### Surfaces and any home -/

@[simp] theorem putBlock_beside (s : State) (h : Nat) (f : Surf) (n : Nat) (st : BState) (bs : List (BitVec 8)) :
    (putBlock s h f n st bs).beside = s.beside := by
  have raw (s : State) (k : Nat) : (putRawFrom s k bs).beside = s.beside := by
    induction bs generalizing s k with
    | nil => rfl
    | cons b bs ih => exact ih _ _
  exact raw s _

@[simp] theorem writeBlock_beside (s : State) (h : Nat) (f : Surf) (cv : Bool) (n : Nat) (ws : List (Nat × BitVec 8)) :
    (writeBlock s h f cv n ws).beside = s.beside := by
  simp only [writeBlock]
  repeat' split
  all_goals simp

@[simp] theorem carryForm_beside (h : Nat) (f : Surf) (cv : Bool) (s : State) (n : Nat) : (carryForm h f cv s n).beside = s.beside := by
  have carried : (carryPoison h f s n).beside = s.beside := by
    simp only [carryPoison]
    rw [foldl_same State.beside _ fun _ _ => setPoison_beside ..]
    simp
  unfold carryForm
  split <;> simp [carried]

@[simp] theorem writeSurf_beside (s : State) (h : Nat) (cv : Bool) (ws : List (Nat × BitVec 8)) : (writeSurf s h cv ws).beside = s.beside := by
  unfold writeSurf
  split
  · rw [foldl_same State.beside _ fun _ _ => writeBlock_beside .., mergePlaces_beside, foldl_same State.beside _ fun _ _ => carryForm_beside ..]
  · rfl

@[simp] theorem putHome_beside (s : State) (ctx : Nat) (l : Loc) (b : BitVec 8) : (putHome s ctx l b).beside = s.beside := by
  unfold putHome
  split
  case h_1 => exact setLogByte_beside ..
  case h_2 | h_3 => exact setHostByte_beside ..
  case h_4 | h_5 => rfl
  case h_6 => exact writeSurf_beside ..
  case h_7 => split <;> rfl

theorem putHomes_beside (s : State) (ctx : Nat) (ws : List (Loc × BitVec 8)) : (putHomes s ctx ws).beside = s.beside := by
  induction ws generalizing s with
  | nil => rfl
  | cons w ws ih => exact (ih _).trans (putHome_beside ..)

@[simp] theorem writeHome_beside (s : State) (ctx : Nat) (ws : List (Loc × BitVec 8)) : (writeHome s ctx ws).beside = s.beside :=
  (putHomes_beside ..).trans (mergePlaces_beside ..)

end Sys2Proof.Machine
end

section
/-! Dirty lines of a core's own cache that go to their homes (R204, R205, R234). -/
namespace Sys2Proof

theorem Tab.put_put {β : Type} (t : Tab β) (k : Nat) (v w : β) : Tab.put (Tab.put t k v) k w = Tab.put t k w := by
  induction t with
  | nil => simp [Tab.put]
  | cons e t ih =>
    simp only [Tab.put]
    split
    · simp [Tab.put]
    · split
      · simp [Tab.put]
      · simp [Tab.put, *]

namespace Machine

/-! ### One line -/

/-- The places of a line's dirty bytes. -/
def L1Line.dirtyPlaces (e : L1Line) : List Loc := ((List.range 128).filter fun i => e.dirty.getLsbD i).map fun i => ⟨.log, 128 * e.line + i⟩

/-- A dirty byte of the line goes to its home. -/
def L1Line.storeByte (e : L1Line) (s : State) (i : Nat) : State :=
  if e.dirty.getLsbD i then setLogByte s e.ctx (128 * e.line + i) (lineByte e.data i) else s

/-- The bad sectors that went along are recorded, and poisoned where they are now. -/
def L1Line.passBad (e : L1Line) (s : State) : State :=
  ((List.range 2).filter fun j => e.bad.getLsbD j && e.dirtyIn j != 0).foldl (fun s j =>
    let l : Loc := ⟨.log, 128 * e.line + 64 * j⟩
    let r : Rec := { cls := 0x0E, kind := 0, detail := 0, ctx := e.ctx, source := e.core, time := s.time, addr := l.addr, pc := 0, who := 0 }
    chargeRec (poisonPlaces s [l]) e.ctx r) s

theorem writeBack_clean {s : State} {e : L1Line} (clean : e.dirty = 0) : writeBack s e = s := if_pos clean

theorem writeBack_dirty {s : State} {e : L1Line} (dirty : e.dirty ≠ 0) : writeBack s e = e.passBad ((List.range 128).foldl e.storeByte
    (mergePlaces (countReq s (coreSource s e.core) (homeSlice s (128 * e.line)) true) e.ctx e.dirtyPlaces)) := if_neg dirty

/-- Check values and records of `t` may differ from those of `s`, and nothing else. -/
def SameButChecks (s t : State) : Prop := ∃ p b k, t = { s with poison := p, badCheck := b, ctxs := k }

theorem SameButChecks.trans {s t u : State} (h : SameButChecks s t) (h' : SameButChecks t u) : SameButChecks s u := by
  obtain ⟨p, b, k, rfl⟩ := h
  obtain ⟨p', b', k', rfl⟩ := h'
  exact ⟨p', b', k', rfl⟩

theorem sameButChecks_foldl {α : Type} (f : State → α → State) (xs : List α) (s : State) (h : ∀ s x, SameButChecks s (f s x)) :
    SameButChecks s (xs.foldl f s) :=
  foldl_keeps (SameButChecks s) f xs s ⟨s.poison, s.badCheck, s.ctxs, rfl⟩ fun t ht x _ => ht.trans (h t x)

theorem L1Line.passBad_same (e : L1Line) (s : State) : SameButChecks s (e.passBad s) := by
  refine sameButChecks_foldl _ _ s fun t j => ?_
  have poisoned : SameButChecks t (poisonPlaces t [⟨.log, 128 * e.line + 64 * j⟩]) :=
    sameButChecks_foldl _ _ t fun u x => ⟨_, _, u.ctxs, rfl⟩
  exact poisoned.trans ⟨_, _, _, rfl⟩

/-- A write merged into its sectors where no station is dead: lines come in, and check values and records change (R98). -/
theorem mergePlaces_same {s : State} (alive : s.stations = []) (ctx : Nat) (ls : List Loc) : SameButChecks (fillLines s ls) (mergePlaces s ctx ls) := by
  have uncut : chargeCut s ctx ls = s := by simp [chargeCut, alive]
  simp only [mergePlaces, uncut]
  split
  · exact ⟨_, _, _, rfl⟩
  · refine sameButChecks_foldl _ _ _ fun t x => ?_
    split
    · exact ⟨_, _, t.ctxs, rfl⟩
    · split
      · exact ⟨_, _, _, rfl⟩
      · exact ⟨t.poison, t.badCheck, t.ctxs, rfl⟩

/-! ### Requests -/

theorem sreqs_of_beside {s t : State} (h : t.beside = s.beside) : t.sreqs = s.sreqs := same_of_beside h State.sreqs

/-- With no request on its way a line that goes home changes no group and sends none. -/
theorem writeBack_alone {s : State} (alone : s.sreqs = []) (e : L1Line) : (writeBack s e).groups = s.groups ∧ (writeBack s e).sreqs = [] := by
  by_cases clean : e.dirty = 0
  · rw [writeBack_clean clean]
    exact ⟨rfl, alone⟩
  · obtain ⟨q, m, counted⟩ := countReq_rest alone (coreSource s e.core) (homeSlice s (128 * e.line)) true
    rw [writeBack_dirty clean, counted]
    have stored (t : State) (i : Nat) : (e.storeByte t i).groups = t.groups ∧ (e.storeByte t i).sreqs = t.sreqs := by
      unfold L1Line.storeByte
      split
      · exact ⟨setLogByte_groups .., sreqs_of_beside (setLogByte_beside ..)⟩
      · exact ⟨rfl, rfl⟩
    obtain ⟨p, b, k, passed⟩ := e.passBad_same ((List.range 128).foldl e.storeByte (mergePlaces { s with seqs := q, marks := m } e.ctx e.dirtyPlaces))
    rw [passed]
    constructor
    · exact (foldl_same State.groups _ (fun t i => (stored t i).1) _ _).trans (mergePlaces_groups ..)
    · exact (foldl_same State.sreqs _ (fun t i => (stored t i).2) _ _).trans ((sreqs_of_beside (mergePlaces_beside ..)).trans alone)

theorem writeBacks_alone (es : List L1Line) {s : State} (alone : s.sreqs = []) :
    (es.foldl writeBack s).groups = s.groups ∧ (es.foldl writeBack s).sreqs = [] :=
  foldl_keeps (fun t => t.groups = s.groups ∧ t.sreqs = []) writeBack es s ⟨rfl, alone⟩ fun _ ⟨groups, still⟩ e _ =>
    ⟨(writeBack_alone still e).1.trans groups, (writeBack_alone still e).2⟩

/-! ### Bytes -/

/-- The homes of bytes with neither cell nor dead station, and no request on its way. -/
structure Settled (s : State) : Prop where
  alone : s.sreqs = []
  noCells : s.cells = []
  alive : s.stations = []

/-- Places all in one line ask for that line at most. -/
theorem linesFor_line {s : State} {ls : List Loc} {line : Nat} (one : ∀ l ∈ ls, l.addr / 128 = line) : linesFor s ls = [] ∨ linesFor s ls = [line] := by
  have all : ∀ x ∈ (ls.filter fun l => l.sp == .log && !cutOff s l).map fun l => l.addr / 128, x = line := fun x hx => by
    obtain ⟨l, hl, rfl⟩ := List.mem_map.1 hx
    exact one l (List.mem_filter.1 hl).1
  unfold linesFor
  generalize (ls.filter fun l => l.sp == .log && !cutOff s l).map (fun l => l.addr / 128) = xs at all
  cases xs with
  | nil => exact .inl rfl
  | cons x xs =>
    have first : x = line := all x (List.mem_cons_self ..)
    have rest : xs.filter (fun b => !b == x) = [] := List.filter_eq_nil_iff.2 fun b hb => by
      simp [first, all b (List.mem_cons_of_mem _ hb)]
    exact .inr (by rw [List.eraseDups_cons, rest, first]; rfl)

/-- `t` is `s` with bytes of line `e` gone home, those that `here` picks among the dirty ones: one line more at most stands in the slices. -/
structure Stored (e : L1Line) (here : Nat → Prop) (s t : State) : Prop where
  settled : Settled t
  slices : t.slices = s.slices ∨ ∃ l, t.slices = Tab.put s.slices e.line l
  shown : ∀ a, (a / 128 = e.line → here (a % 128) → e.dirty.getLsbD (a % 128) = true → logByte t a = lineByte e.data (a % 128))
    ∧ (¬ (a / 128 = e.line ∧ here (a % 128) ∧ e.dirty.getLsbD (a % 128) = true) → logByte t a = logByte s a)

/-- One byte of a line that its slice holds. -/
theorem stored_storeByte {e : L1Line} {s : State} (o : Settled s) (there : held s e.line = true) {i : Nat} (low : i < 128) :
    Stored e (· = i) s (e.storeByte s i) ∧ held (e.storeByte s i) e.line = true := by
  by_cases dirty : e.dirty.getLsbD i = true
  · have home : (128 * e.line + i) / 128 = e.line := by omega
    have store : e.storeByte s i = putSliceByte s e.ctx (128 * e.line + i) (lineByte e.data i) :=
      (if_pos dirty).trans (setLogByte_eq o.alive o.noCells ..)
    have there' : held s ((128 * e.line + i) / 128) = true := by rwa [home]
    obtain ⟨l, -, written⟩ := putSliceByte_rest there' e.ctx (lineByte e.data i)
    refine ⟨⟨?_, .inr ⟨_, by rw [store, written, home]⟩, fun a => ?_⟩, by rw [store, held_putSliceByte there', there]⟩
    · rw [store, written]
      exact ⟨o.alone, o.noCells, o.alive⟩
    · rw [store, logByte_putSliceByte there' o.noCells]
      constructor
      · intro line here _
        rw [if_pos (by omega), here]
      · intro other
        rw [if_neg]
        rintro rfl
        have low' : (128 * e.line + i) % 128 = i := by omega
        exact other ⟨home, low', by rw [low', dirty]⟩
  · rw [show e.storeByte s i = s from if_neg dirty]
    refine ⟨⟨o, .inl rfl, fun a => ⟨fun _ here d => ?_, fun _ => rfl⟩⟩, there⟩
    rw [here] at d
    exact absurd d dirty

theorem Stored.trans {e : L1Line} {p q : Nat → Prop} {s t u : State} (h : Stored e p s t) (h' : Stored e q t u) : Stored e (fun i => p i ∨ q i) s u where
  settled := h'.settled
  slices := by
    rcases h.slices with same | ⟨l, put⟩ <;> rcases h'.slices with same' | ⟨l', put'⟩
    · exact .inl (same'.trans same)
    · exact .inr ⟨l', by rw [put', same]⟩
    · exact .inr ⟨l, by rw [same', put]⟩
    · exact .inr ⟨l', by rw [put', put, Tab.put_put]⟩
  shown a := by
    refine ⟨fun line here dirty => ?_, fun other => ?_⟩
    · by_cases second : q (a % 128)
      · exact (h'.shown a).1 line second dirty
      · exact ((h'.shown a).2 fun x => second x.2.1).trans ((h.shown a).1 line (here.resolve_right second) dirty)
    · exact ((h'.shown a).2 fun x => other ⟨x.1, .inr x.2.1, x.2.2⟩).trans ((h.shown a).2 fun x => other ⟨x.1, .inl x.2.1, x.2.2⟩)

theorem stored_storeBytes {e : L1Line} (is : List Nat) (inLine : ∀ i ∈ is, i < 128) {s : State} (o : Settled s) (there : held s e.line = true) :
    Stored e (· ∈ is) s (is.foldl e.storeByte s) := by
  induction is generalizing s with
  | nil => exact ⟨o, .inl rfl, fun a => ⟨fun _ out => absurd out List.not_mem_nil, fun _ => rfl⟩⟩
  | cons i is ih =>
    obtain ⟨first, there'⟩ := stored_storeByte o there (inLine i (List.mem_cons_self ..))
    have rest := ih (fun j hj => inLine j (List.mem_cons_of_mem _ hj)) first.settled there'
    simpa only [List.mem_cons, List.foldl_cons] using first.trans rest

/-- Lines, check values and records that change before and after the bytes themselves. -/
theorem Stored.of_same {e : L1Line} {s t : State} (settled : Settled t) (slices : t.slices = s.slices ∨ ∃ l, t.slices = Tab.put s.slices e.line l)
    (bytes : ∀ a, logByte t a = logByte s a) : Stored e (fun _ => False) s t :=
  ⟨settled, slices, fun a => ⟨fun _ never => never.elim, fun _ => bytes a⟩⟩

theorem Stored.of_checks {e : L1Line} {s t : State} (o : Settled s) (h : SameButChecks s t) : Stored e (fun _ => False) s t := by
  obtain ⟨p, b, k, rfl⟩ := h
  exact .of_same ⟨o.alone, o.noCells, o.alive⟩ (.inl rfl) fun _ => rfl

theorem Stored.of_fillSlice {e : L1Line} {s : State} (o : Settled s) (room : s.slices.length < sliceLeast) :
    Stored e (fun _ => False) s (fillSlice s e.line) := by
  have filled : Filled s (fillSlice s e.line) := .fillSlice room
  refine .of_same ⟨(sreqs_of_beside (fillSlice_beside ..)).trans o.alone, filled.cells.trans o.noCells, (stations_congr filled.homes).trans o.alive⟩
    ?_ filled.logByte
  rw [fillSlice_slices room]
  split
  · exact .inl rfl
  · exact .inr ⟨_, rfl⟩

/-- The line of dirty bytes comes into its slice before they are stored. -/
theorem fillLines_dirty {s : State} (alive : s.stations = []) {e : L1Line} (dirty : e.dirty ≠ 0) : fillLines s e.dirtyPlaces = fillSlice s e.line := by
  obtain ⟨i, bit⟩ : ∃ i, e.dirty.getLsbD i = true := by
    by_contra none
    exact dirty (BitVec.eq_of_getLsbD_eq fun i _ => by simpa using fun b => none ⟨i, b⟩)
  have low : i < 128 := BitVec.lt_of_getLsbD bit
  have asked : e.line ∈ linesFor s e.dirtyPlaces := by
    refine List.mem_eraseDups.2 (List.mem_map.2 ⟨⟨.log, 128 * e.line + i⟩, List.mem_filter.2 ⟨?_, by simp [cutOff_alive alive]⟩, by simp only; omega⟩)
    exact List.mem_map.2 ⟨i, List.mem_filter.2 ⟨List.mem_range.2 low, bit⟩, rfl⟩
  have one : ∀ l ∈ e.dirtyPlaces, l.addr / 128 = e.line := fun l hl => by
    obtain ⟨j, hj, rfl⟩ := List.mem_map.1 hl
    have := List.mem_range.1 (List.mem_filter.1 hj).1
    simp only
    omega
  rw [fillLines_eq]
  rcases linesFor_line (s := s) one with none | only
  · rw [none] at asked; cases asked
  · rw [only]; rfl

/-- A line goes home: its dirty bytes read there as it held them, and every other byte as before (R204). -/
theorem stored_writeBack {s : State} (o : Settled s) (room : s.slices.length < sliceLeast) (e : L1Line) :
    Stored e (fun _ => True) s (writeBack s e) := by
  by_cases clean : e.dirty = 0
  · rw [writeBack_clean clean]
    exact ⟨o, .inl rfl, fun a => ⟨fun _ _ d => by simp [clean] at d, fun _ => rfl⟩⟩
  · obtain ⟨q, m, counted⟩ := countReq_rest o.alone (coreSource s e.core) (homeSlice s (128 * e.line)) true
    rw [writeBack_dirty clean, counted]
    have asked : Stored e (fun _ => False) s { s with seqs := q, marks := m } := .of_same ⟨o.alone, o.noCells, o.alive⟩ (.inl rfl) fun _ => rfl
    generalize hu : ({ s with seqs := q, marks := m } : State) = u at asked
    have room' : u.slices.length < sliceLeast := by rw [← hu]; exact room
    have filled : Stored e (fun _ => False) u (fillLines u e.dirtyPlaces) := by
      rw [fillLines_dirty asked.settled.alive clean]
      exact .of_fillSlice asked.settled room'
    have there : held (fillLines u e.dirtyPlaces) e.line = true := by
      rw [fillLines_dirty asked.settled.alive clean, held_fillSlice room', beq_self_eq_true, Bool.true_or]
    have checks := mergePlaces_same asked.settled.alive e.ctx e.dirtyPlaces
    have merged : Stored e (fun _ => False) (fillLines u e.dirtyPlaces) (mergePlaces u e.ctx e.dirtyPlaces) := .of_checks filled.settled checks
    have there' : held (mergePlaces u e.ctx e.dirtyPlaces) e.line = true := by
      obtain ⟨_, _, _, same⟩ := checks
      rw [same]
      exact there
    have stored := stored_storeBytes (List.range 128) (fun i => List.mem_range.1) merged.settled there'
    have passed := Stored.of_checks (e := e) stored.settled (e.passBad_same _)
    have all := (((asked.trans filled).trans merged).trans stored).trans passed
    refine ⟨all.settled, all.slices, fun a => ⟨fun line _ => (all.shown a).1 line ?_, fun other => (all.shown a).2 fun x => other ⟨x.1, trivial, x.2.2⟩⟩⟩
    exact .inl (.inr (List.mem_range.2 (Nat.mod_lt _ (by decide))))

theorem Stored.length_slices_le {e : L1Line} {p : Nat → Prop} {s t : State} (h : Stored e p s t) : t.slices.length ≤ s.slices.length + 1 := by
  rcases h.slices with same | ⟨l, put⟩
  · rw [same]; exact Nat.le_succ _
  · rw [put]; exact Tab.length_put_le ..

/-- Bytes of other lines stay as they are. -/
theorem logByte_writeBacks_other (es : List L1Line) {s : State} (o : Settled s) (room : s.slices.length + es.length ≤ sliceLeast) {a : Nat}
    (other : a / 128 ∉ es.map (·.line)) : logByte (es.foldl writeBack s) a = logByte s a := by
  induction es generalizing s with
  | nil => rfl
  | cons e es ih =>
    simp only [List.map_cons, List.mem_cons, not_or, List.length_cons] at other room
    have first := stored_writeBack o (by omega) e
    have grown := first.length_slices_le
    exact (ih first.settled (by omega) other.2).trans ((first.shown a).2 fun x => other.1 x.1)

/-- Lines of which no two are the same go home, as many as the slices have room for. -/
theorem logByte_writeBacks (es : List L1Line) (distinct : (es.map (·.line)).Nodup) {s : State} (o : Settled s)
    (room : s.slices.length + es.length ≤ sliceLeast) {e : L1Line} (mem : e ∈ es) {i : Nat} (low : i < 128) (dirty : e.dirty.getLsbD i = true) :
    logByte (es.foldl writeBack s) (128 * e.line + i) = lineByte e.data i := by
  have line : (128 * e.line + i) / 128 = e.line := by omega
  have byte : (128 * e.line + i) % 128 = i := by omega
  induction es generalizing s with
  | nil => cases mem
  | cons x es ih =>
    simp only [List.map_cons, List.nodup_cons, List.length_cons] at distinct room
    have first := stored_writeBack o (by omega) x
    have grown := first.length_slices_le
    rcases List.mem_cons.1 mem with rfl | mem
    · refine (logByte_writeBacks_other es first.settled (by omega) (by rw [line]; exact distinct.1)).trans ?_
      have here := (first.shown (128 * e.line + i)).1 line trivial
      rw [byte] at here
      exact here dirty
    · exact ih distinct.2 first.settled (by omega) mem

end Machine
end Sys2Proof
end

section
/-! Fences (R234, R236, R373): release and acquire on a core's own cache, and the words `fence` and `dfence`. -/
namespace Sys2Proof.Machine

/-! ### Release and acquire -/

theorem scopeActs_iff {x : BitVec 3} {paired : Bool} : scopeActs x.toNat paired = true ↔ 3 ≤ x.toNat ∨ (x = 2 ∧ paired = true) := by
  have two : x.toNat = 2 ↔ x = 2 := ⟨fun e => BitVec.eq_of_toNat_eq e, fun e => e ▸ rfl⟩
  simp [scopeActs, two]

theorem scopeActs_of_wide {scope : Nat} (wide : 3 ≤ scope) (paired : Bool) : scopeActs scope paired = true := by simp [scopeActs, wide]

theorem of_mem_l1Drop {s : State} {core : Nat} {p : L1Line → Bool} {e : L1Line} (mem : e ∈ (l1Drop s core p).l1) : e.core = core → p e = false := by
  intro own
  have kept := (List.mem_filter.1 mem).2
  simpa [own] using kept

theorem of_mem_l1Clean {s : State} {core : Nat} {e : L1Line} (mem : e ∈ (l1Clean s core).l1) : e.core = core → e.dirty = 0 := by
  obtain ⟨x, -, rfl⟩ := List.mem_map.1 mem
  intro own
  by_cases mine : (x.core == core) = true
  · simp only [if_pos mine]
  · rw [if_neg mine] at own
    exact absurd (beq_iff_eq.2 own) mine

/-- The dirty lines of a core. -/
def dirtyLines (s : State) (core : Nat) : List L1Line := s.l1.filter fun e => e.core == core && e.dirty != 0

/-- Of the lines that go home the clean ones change nothing. -/
theorem writeBacks_dirty (es : List L1Line) (s : State) : es.foldl writeBack s = (es.filter fun e => e.dirty != 0).foldl writeBack s := by
  induction es generalizing s with
  | nil => rfl
  | cons e es ih =>
    by_cases clean : e.dirty = 0
    · rw [List.foldl_cons, writeBack_clean clean, ih, List.filter_cons_of_neg (by simp [clean])]
    · rw [List.foldl_cons, ih, List.filter_cons_of_pos (by simpa using clean), List.foldl_cons]

theorem writeBacks_core (s : State) (core : Nat) : (s.l1.filter fun e => e.core == core).foldl writeBack s = (dirtyLines s core).foldl writeBack s := by
  rw [writeBacks_dirty, List.filter_filter]
  exact congrArg (List.foldl writeBack s) (List.filter_congr fun e _ => Bool.and_comm ..)

theorem l1Drop_all (s : State) (core : Nat) : l1Drop s core (fun _ => true)
    = { (dirtyLines s core).foldl writeBack s with l1 := (l1Drop s core fun _ => true).l1 } := by
  rw [← writeBacks_core]
  simp only [l1Drop, Bool.and_true]

theorem l1Clean_rest (s : State) (core : Nat) : l1Clean s core = { (dirtyLines s core).foldl writeBack s with l1 := (l1Clean s core).l1 } := by
  rw [← writeBacks_core]
  rfl

/-- A core whose lines are all clean gives them up without a write. -/
theorem dirtyLines_eq_nil {s : State} {core : Nat} (clean : ∀ e ∈ s.l1, e.core = core → e.dirty = 0) : dirtyLines s core = [] :=
  List.filter_eq_nil_iff.2 fun e he => by
    by_cases own : e.core = core
    · simp [clean e he own]
    · simp [own]

theorem settleCore_alone {s : State} (alone : s.sreqs = []) (key core : Nat) : settleCore s key core = s := by rw [settleCore, alone]; rfl
theorem settleAll_alone {s : State} (alone : s.sreqs = []) (key : Nat) : settleAll s key = s := by rw [settleAll, alone]; rfl

theorem l1Drop_alone {s : State} (alone : s.sreqs = []) (core : Nat) (p : L1Line → Bool) : (l1Drop s core p).groups = s.groups :=
  (writeBacks_alone _ alone).1

theorem l1Clean_alone {s : State} (alone : s.sreqs = []) (core : Nat) : (l1Clean s core).groups = s.groups ∧ (l1Clean s core).sreqs = [] :=
  writeBacks_alone _ alone

/-! ### What a fence does -/

section
variable {s : State} {key core order scope : Nat} {paired : Bool}

theorem fenceAct_idle (idle : scopeActs scope paired = false) (releases : order ≠ 1) : fenceAct s key core order scope paired = s := by
  simp [fenceAct, releaseAct, acquireAct, idle, releases]

theorem fenceAct_empty (acts : scopeActs scope paired = true) (acquires : order ≠ 2) :
    ∀ e ∈ (fenceAct s key core order scope paired).l1, e.core ≠ core := by
  intro e mem own
  simp only [fenceAct, acquireAct, acts, acquires, if_false, if_true] at mem
  cases of_mem_l1Drop mem own

theorem fenceAct_clean (acts : scopeActs scope paired = true) :
    ∀ e ∈ (fenceAct s key core order scope paired).l1, e.core = core → e.dirty = 0 := by
  intro e mem own
  by_cases acquires : order = 2
  · simp only [fenceAct, releaseAct, acts, acquires, if_true] at mem
    exact of_mem_l1Clean mem own
  · exact absurd own (fenceAct_empty acts acquires e mem)

theorem fenceAct_groups (alone : s.sreqs = []) : (fenceAct s key core order scope paired).groups = s.groups := by
  have released : (if order = 1 then settleAll s key else releaseAct s key core scope paired).groups = s.groups
      ∧ (if order = 1 then settleAll s key else releaseAct s key core scope paired).sreqs = [] := by
    split
    · rw [settleAll_alone alone]; exact ⟨rfl, alone⟩
    · unfold releaseAct
      split
      · rw [settleCore_alone alone]; exact l1Clean_alone alone core
      · exact ⟨rfl, alone⟩
  simp only [fenceAct]
  split
  · exact released.1
  · unfold acquireAct
    split
    · exact (l1Drop_alone released.2 core _).trans released.1
    · exact released.1

/-- With no request on its way, a fence that acts brings the core's dirty lines home. -/
theorem logByte_fenceAct (acts : scopeActs scope paired = true) (alone : s.sreqs = []) (a : Nat) :
    logByte (fenceAct s key core order scope paired) a = logByte ((dirtyLines s core).foldl writeBack s) a := by
  by_cases acquireOnly : order = 1
  · simp only [fenceAct, acquireAct, acts, acquireOnly, settleAll_alone alone, if_true]
    rw [if_neg (by decide), l1Drop_all]
    rfl
  · have clean : logByte (l1Clean s core) a = logByte ((dirtyLines s core).foldl writeBack s) a := by rw [l1Clean_rest]; rfl
    simp only [fenceAct, releaseAct, acquireAct, acts, acquireOnly, settleCore_alone alone, if_true, if_false]
    split
    · exact clean
    · rw [l1Drop_all, dirtyLines_eq_nil fun e he => of_mem_l1Clean he]
      exact clean

end

/-! ### Fences of surfaces (R236) -/

theorem surfFence_none {s : State} {c : WCtx} {scope : Nat} {p : Nat → Bool} :
    ∀ e ∈ (surfFence s c scope p).l1, e.core = c.g.core → (e.surf && p (128 * e.line / 2 ^ 33)) = false :=
  fun _ mem => of_mem_l1Drop mem

theorem surfFence_empty {s : State} {c : WCtx} {scope : Nat} {p : Nat → Bool} (wide : 3 ≤ scope) :
    ∀ e ∈ (surfFence s c scope p).l1, e.core ≠ c.g.core := by
  intro e mem own
  simp only [surfFence, acquireAct, scopeActs_of_wide wide, if_true] at mem
  generalize releaseAct _ _ _ _ _ = t at mem
  have gone : ∀ x ∈ (l1Drop t c.g.core fun _ => true).l1, x.core ≠ c.g.core := fun x hx same => by cases of_mem_l1Drop hx same
  have nothing : ((l1Drop t c.g.core fun _ => true).l1.filter fun x => x.core == c.g.core && (x.surf && p (128 * x.line / 2 ^ 33))) = [] :=
    List.filter_eq_nil_iff.2 fun x hx => by simp [gone x hx]
  simp only [dropSurfLines, l1Drop] at mem nothing
  rw [nothing] at mem
  exact gone e (List.mem_filter.1 mem).1 own

/-! ### The words -/

theorem completes_fenced {o : Out} {s : State} {c : WCtx} (ends : o = .next (finish s c)) : Completes o s c [] 0 (Kept s) := by
  rw [ends]
  exact completes_onward s c

section
variable {s : State} {c : WCtx} (h : Issues s c) (he : c.eff ≠ 0)
include h he

theorem execFence_ok {x : BitVec 3} {o : BitVec 2} (goes : o = 2 ∨ readsOut s c.key c.g = false) :
    execFence x o s = .next (finish (fenceAct s c.key c.g.core o.toNat x.toNat (pairedOf s c.g)) c) := by
  refine runWord_ok h he _ (if_neg ?_)
  rintro ⟨acquires, out⟩
  rcases goes with release | back
  · exact acquires release
  · rw [back] at out; cases out

theorem execFence_waits {x : BitVec 3} {o : BitVec 2} (acquires : o ≠ 2) (out : readsOut s c.key c.g = true) :
    execFence x o s = .next (stalled s c) :=
  runWord_stall h he _ (if_pos ⟨acquires, out⟩)

theorem execDfenceAll_ok {x : BitVec 3} (back : readsOut s c.key c.g = false) :
    execDfenceAll x s = .next (finish (surfFence s c x.toNat (ownSurf s c.g.ctx)) c) :=
  runWord_ok h he _ (if_neg (by simp [back]))

theorem execDfenceAll_waits {x : BitVec 3} (out : readsOut s c.key c.g = true) : execDfenceAll x s = .next (stalled s c) :=
  runWord_stall h he _ (if_pos out)

section
variable {d : BitVec 7} {x : BitVec 3} {a : Nat} (ha : (c.g.s d.toNat).toNat = a)
include ha

theorem execDfence_refused {k det : Nat} (bad : surfCheck s c.g.ctx a 0 3 = .error (k, det)) : Traps (execDfence d x s) s c k det a c.low :=
  runWord_trap h he _ (by simp only [ha, wholeSurf, namedSurf, bad]; rfl)

variable {f : Surf} (named : surfCheck s c.g.ctx a 0 3 = .ok f)
include named

theorem execDfence_outside (outside : f.bytes ≤ saOff a) : Traps (execDfence d x s) s c 0x04 12 a c.low :=
  runWord_trap h he _ (by simp only [ha, wholeSurf, namedSurf, named, outside, if_true]; rfl)

variable (inside : saOff a < f.bytes)
include inside

theorem execDfence_ok (back : readsOut s c.key c.g = false) :
    execDfence d x s = .next (finish (surfFence s c x.toNat fun h => h == saHandle a) c) :=
  runWord_ok h he _ (by simp only [ha, wholeSurf, namedSurf, named, Nat.not_le.2 inside, back, if_false, Try.ok_bind]; rfl)

theorem execDfence_waits (out : readsOut s c.key c.g = true) : execDfence d x s = .next (stalled s c) :=
  runWord_stall h he _ (by simp only [ha, wholeSurf, namedSurf, named, Nat.not_le.2 inside, out, if_false, Try.ok_bind]; rfl)

end
end

/-- Settles O25: what a fence does to the core's cache, and then each word by its own lemma. -/
theorem fenceWords : Obligations.FenceWords := by
  intro s c x o d h he pairs core acts a out clean empty none' mine s1 s2 s3 s4
  simp only [exec_fence, exec_dfence, exec_dfenceAll]
  have one : o.toNat = 1 ↔ o = 1 := ⟨fun e => BitVec.eq_of_toNat_eq e, fun e => e ▸ rfl⟩
  have two : o.toNat = 2 ↔ o = 2 := ⟨fun e => BitVec.eq_of_toNat_eq e, fun e => e ▸ rfl⟩
  have fenced : fenceAct s c.key core o.toNat x.toNat pairs = s2 := by simp only [fenceAct, one, two]; rfl
  have scope : scopeActs x.toNat pairs = true ↔ acts := scopeActs_iff
  refine ⟨fun goes => completes_fenced (fenced ▸ execFence_ok h he goes), execFence_waits h he, fun idle releases => ?idle, fun acts _ => ?clean,
    fun acts acquires => ?empty, fun alone => ?groups, fun acts alone noCells alive room distinct => ?home, fun f named inside => ?inside,
    fun f named outside => execDfence_outside h he rfl named outside, fun k det bad => execDfence_refused h he rfl bad,
    fun back => completes_fenced (execDfenceAll_ok h he back), execDfenceAll_waits h he, surfFence_empty⟩
  case idle =>
    rw [← fenced]
    exact fenceAct_idle (Bool.eq_false_iff.2 (mt scope.1 idle)) (mt one.1 releases)
  case clean => exact fenced ▸ fenceAct_clean (scope.2 acts)
  case empty => exact fenced ▸ fenceAct_empty (scope.2 acts) (mt two.1 acquires)
  case groups => exact fenced ▸ fenceAct_groups alone
  case home =>
    intro e mem i low dirty
    rw [← fenced, logByte_fenceAct (scope.2 acts) alone]
    exact logByte_writeBacks (dirtyLines s core) distinct ⟨alone, noCells, alive⟩ room.le mem low dirty
  case inside =>
    refine ⟨fun back => completes_fenced (execDfence_ok h he rfl named inside back), execDfence_waits h he rfl named inside, surfFence_empty, ?_⟩
    rintro e mem ⟨own, surface, handle⟩
    simpa only [surface, handle, beq_self_eq_true, Bool.and_self, Bool.true_eq_false] using surfFence_none e mem own

end Sys2Proof.Machine
end

section
/-! The events of a matrix engine (R304, R311, R313, R315, R316): the arbiter with one tile in its table, the governor, the context banks and the
end of an image's read. -/
namespace Sys2Proof.Machine

set_option Elab.async false

/-! ### One engine of the machine -/

@[simp] theorem mxOf_setMx (s : State) (cl : Nat) (f : Mx → Mx) : mxOf (setMx s cl f) cl = f (mxOf s cl) := by simp [mxOf, setMx]
@[simp] theorem mxNow_setMx (s : State) (cl k : Nat) (f : Mx → Mx) : mxNow (setMx s k f) cl = mxNow s cl := rfl
@[simp] theorem mxOf_later (s : State) (cl : Nat) (e : Instr) : mxOf (later s e) cl = mxOf s cl := rfl
@[simp] theorem mxOf_laterAll (s : State) (cl : Nat) (es : List Instr) : mxOf (laterAll s es) cl = mxOf s cl := rfl

theorem setMx_congr {s : State} {cl : Nat} {f g : Mx → Mx} (h : f (mxOf s cl) = g (mxOf s cl)) : setMx s cl f = setMx s cl g := by
  rw [setMx, setMx, h]

theorem mxOf_congr {s t : State} (h : t.mx = s.mx) (cl : Nat) : mxOf t cl = mxOf s cl := by rw [mxOf, mxOf, h]

/-- Slots that become EMPTY are all that a sweep changes, and the units that they free. -/
theorem Mx.sweep_rest (m : Mx) : ∃ slots free, m.sweep = { m with slots, free } := by
  refine foldl_keeps (fun n => ∃ slots free, n = { m with slots, free }) _ _ m ⟨m.slots, m.free, rfl⟩ ?_
  rintro _ ⟨slots, free, rfl⟩ w -
  exact ⟨_, _, rfl⟩

@[simp] theorem Mx.sweep_tiles (m : Mx) : m.sweep.tiles = m.tiles := by obtain ⟨_, _, e⟩ := m.sweep_rest; rw [e]
@[simp] theorem Mx.sweep_used (m : Mx) : m.sweep.used = m.used := by obtain ⟨_, _, e⟩ := m.sweep_rest; rw [e]

theorem eligible_iff {m : Mx} {x : MTile} : eligible m x = true ↔ x.granted = false ∧ x.dropped = false ∧ x.chain = none ∧ m.bound x.ctx = true
    ∧ ∃ w, slotOf m x.ctx x.handle = some w ∧ (w.st = .loaded ∨ w.st = .releasingOk) := by
  unfold eligible
  cases slotOf m x.ctx x.handle <;> simp [and_assoc]

/-! ### The arbiter, with one tile (R313, R315) -/

section
variable {s : State} {cl : Nat} {x : MTile} (only : (mxOf s cl).tiles = [x]) (able : eligible (mxOf s cl) x = true)
include only able

theorem noteEligible_only {b : Nat} (since : x.since = some b) (young : mxNow s cl < b + 4096) : noteEligible s cl = setMx s cl id := by
  obtain ⟨granted, dropped, -, bound, -⟩ := eligible_iff.1 able
  have waits : [x].filter (fun t => !t.granted && !t.dropped) = [x] := by simp [granted, dropped]
  have noted : setMx s cl (fun m => { m with tiles := m.tiles.map fun t =>
      { t with since := if eligible m t then (if t.since.isSome then t.since else some (mxNow s cl)) else none } }) = setMx s cl id := by
    refine setMx_congr ?_
    simp only [only, List.map_cons, List.map_nil, able, since, Option.isSome_some, if_true, id]
    rw [← since, ← only]
  have bound' (p : MTile → Bool) : ([x].filter p).filter (fun t => !(mxOf s cl).bound t.ctx) = [] := List.filter_eq_nil_iff.2 fun t ht => by
    rw [List.mem_singleton.1 (List.mem_filter.1 ht).1, bound]
    decide
  simp only [noteEligible, noted, mxOf_setMx, id, only, waits, bound', List.foldl_nil]
  rw [List.filter_eq_nil_iff.2 fun t ht => ?_]
  · simp [laterAll]
  · rw [List.mem_singleton.1 ht]
    simp [since, Nat.not_le.2 young]

omit able in
theorem partners_only : partners (mxOf s cl) x = [] := by simp [partners, only]

/-- The arbiter's choice once the tile can start: the governor holds it back, or it is granted. -/
theorem execMatrixPassGrant_only {b : Nat} (since : x.since = some b) (young : mxNow s cl < b + 4096) (due : x.issued + 3 ≤ mxNow s cl) :
    execMatrixPassGrant cl s = .next (
      if (mxOf s cl).budget < (mxOf s cl).used + passUnits [x] ∧ x.cls ≠ 0 then setMx (setMx s cl id) cl fun m => countStall m x.id (mxNow s cl)
      else setMx (grantTile (setMx s cl id) cl x) cl fun m =>
        ({ m with held := none, used := m.used + passUnits [x], passes := min (2 ^ 32 - 1) (m.passes + 1),
                  banks := m.banks.map fun b => if b.2.1 = x.ctx then (b.1, b.2.1, mxNow (grantTile (setMx s cl id) cl x) cl) else b } : Mx).sweep) := by
  have best : bestTile ((mxOf s cl).tiles.filter (eligible (mxOf s cl))) = some x := by simp [only, able, bestTile]
  have starts : ¬ (mxNow s cl < x.issued + 3 ∧ 0 < 7) := fun early => absurd early.1 (Nat.not_lt.2 due)
  simp only [execMatrixPassGrant, noteEligible_only only able since young, mxOf_setMx, mxNow_setMx, id, best, partners_only only, List.length_nil,
    starts, if_false]
  split <;> rfl

/-- A tile that the governor has units for is granted: it holds its result, and its write-back is to come. -/
theorem matrixPassGrant_grants {b : Nat} (since : x.since = some b) (young : mxNow s cl < b + 4096) (due : x.issued + 3 ≤ mxNow s cl) {w : WSlot}
    (slot : slotOf (mxOf s cl) x.ctx x.handle = some w) (units : (mxOf s cl).used + passUnits [x] ≤ (mxOf s cl).budget) :
    ∃ t, execMatrixPassGrant cl s = .next t ∧ .matrixTileWriteback cl x.id ∈ t.agenda ∧ (mxOf t cl).used = (mxOf s cl).used + passUnits [x]
      ∧ (mxOf t cl).tiles = [{ x with granted := true, accIn := tileResult x w }] := by
  obtain ⟨-, -, chain, -, -⟩ := eligible_iff.1 able
  have fits : ¬ ((mxOf s cl).budget < (mxOf s cl).used + passUnits [x] ∧ x.cls ≠ 0) := fun short => absurd short.1 (Nat.not_lt.2 units)
  refine ⟨_, (execMatrixPassGrant_only only able since young due).trans (congrArg _ (if_neg fits)), ?_⟩
  have granted : grantTile (setMx s cl id) cl x = later (setMx (setMx s cl id) cl fun m =>
      (m.setTile x.id fun u => { u with granted := true, accIn := tileResult x w }).relink x.id (tileResult x w) none) (.matrixTileWriteback cl x.id) := by
    simp only [grantTile, mxOf_setMx, id, slot]
  rw [granted]
  refine ⟨List.mem_append_right _ (List.mem_singleton_self _), ?_, ?_⟩
  · simp [Mx.setTile, Mx.relink]
  · simp [Mx.setTile, Mx.relink, only, chain]

/-- A tile that the governor has no units for counts the cycles for which it waits. -/
theorem matrixPassGrant_stalls {b : Nat} (since : x.since = some b) (young : mxNow s cl < b + 4096) (due : x.issued + 3 ≤ mxNow s cl)
    (short : (mxOf s cl).budget < (mxOf s cl).used + passUnits [x]) (bulk : x.cls ≠ 0) :
    ∃ t, execMatrixPassGrant cl s = .next t ∧ mxOf t cl = countStall (mxOf s cl) x.id (mxNow s cl) :=
  ⟨_, (execMatrixPassGrant_only only able since young due).trans (congrArg _ (if_pos ⟨short, bulk⟩)), by simp⟩

theorem reservationAging_ages {b : Nat} (since : x.since = some b) (old : b + 4096 ≤ mxNow s cl) :
    ∃ t, execReservationAging cl x.id s = .next t ∧ (mxOf t cl).tiles = [{ x with aged := true }] :=
  ⟨_, rfl, by simp [Mx.setTile, only, able, since, old]⟩

end

/-! ### The write-back, with one tile (R304) -/

theorem landTile_mx (s : State) (t : MTile) : (landTile s t).mx = s.mx := by
  unfold landTile
  split <;> rfl

theorem endTile_mx (s : State) (cl : Nat) (t : MTile) :
    (endTile cl s t).mx = (setMx s cl fun m => ({ m with tiles := m.tiles.filter fun u => u.id != t.id } : Mx).sweep).mx := by
  simp only [endTile]
  split <;> rfl

section
variable {s : State} {cl : Nat} {x : MTile} (only : (mxOf s cl).tiles = [x])
include only

theorem matrixTileWriteback_waits (early : x.granted = false) : execMatrixTileWriteback cl x.id s = .next s := by
  simp [execMatrixTileWriteback, only, wordTiles, tileWaits, early]

theorem matrixTileWriteback_ends (granted : x.granted = true) :
    ∃ t, execMatrixTileWriteback cl x.id s = .next t ∧ (mxOf t cl).tiles = [] := by
  have word : wordTiles (mxOf s cl) x.word = [x] := by simp [wordTiles, only]
  have goes : (wordTiles (mxOf s cl) x.word).any (tileWaits (mxOf s cl)) = false := by simp [word, tileWaits, granted, only]
  have landed : (mxOf (landWord s cl x.word) cl).tiles = [] := by
    simp only [landWord, word, List.foldl_cons, List.foldl_nil]
    rw [mxOf_congr (endTile_mx ..), mxOf_setMx, mxOf_congr (landTile_mx ..)]
    simp [only]
  have runs : ∃ es, execMatrixTileWriteback cl x.id s = .next (laterAll (landWord s cl x.word) es) := by
    simp only [execMatrixTileWriteback, only, List.find?_cons, beq_self_eq_true, goes, Bool.false_eq_true, if_false]
    exact ⟨_, rfl⟩
  obtain ⟨es, runs⟩ := runs
  exact ⟨_, runs, landed⟩

end

/-! ### The governor (R315) -/

theorem governorWindow_restarts {s : State} {cl : Nat} (past : (mxOf s cl).clock + 1024 ≤ mxNow s cl) :
    ∃ t, execGovernorWindow cl s = .next t ∧ mxOf t cl = { mxOf s cl with used := 0, clock := mxNow s cl / 1024 * 1024 } :=
  ⟨_, congrArg Host.Outcome.next (if_pos past), mxOf_setMx ..⟩

theorem governorWindow_runs {s : State} {cl : Nat} (within : mxNow s cl < (mxOf s cl).clock + 1024) : execGovernorWindow cl s = .next s :=
  congrArg Host.Outcome.next (if_neg (Nat.not_le.2 within))

theorem thermalRec_mx (s : State) (sensor kind value lid aux : Nat) : (thermalRec s sensor kind value lid aux).mx = s.mx := by
  simp only [thermalRec]
  split
  · rfl
  · split
    · rfl
    · simp only [signal_mx]
      exact same_of_beside (setLogBytes_beside ..) State.mx

theorem governorBudgetChange_writes {s : State} {cl : Nat} (here : cl < 22) (v : BitVec 16) :
    ∃ t, execGovernorBudgetChange cl v s = .next t ∧ mxOf t cl = { mxOf s cl with budget := v.toNat } :=
  ⟨_, congrArg Host.Outcome.next (if_pos here), (mxOf_congr (thermalRec_mx ..) cl).trans (mxOf_setMx ..)⟩

/-! ### Context banks (R316) -/

theorem beside_fresh {s t : State} (h : t.beside = s.beside) (n : Nat) : ({ t with fresh := n } : State).beside = ({ s with fresh := n } : State).beside :=
  congrArg (fun p : State × (Nat → Option Ctx) => (({ p.1 with fresh := n } : State), p.2)) h

/-- A bank's bytes that go to its owner's spill area are written, and a free value is spent. -/
theorem spillBank_beside (s : State) (cl ctx : Nat) : ∃ n, (spillBank s cl ctx).beside = ({ s with fresh := n } : State).beside := by
  unfold spillBank
  split
  · exact ⟨s.fresh, rfl⟩
  · exact ⟨s.fresh + 1, beside_fresh (writeHome_beside ..) _⟩

theorem mem_banks_of_bankVictim {s : State} {cl ctx : Nat} {v : Nat × Nat × Nat} (victim : bankVictim s cl ctx = some v) : v ∈ (mxOf s cl).banks := by
  simp only [bankVictim] at victim
  generalize hc : (mxOf s cl).banks.filter _ = cand at victim
  have mem : v ∈ cand := by
    match cand, victim with
    | [b], rfl => exact List.mem_singleton_self _
    | b :: c :: cs, h =>
      simp only at h
      split at h <;> cases h <;> simp
  exact (List.mem_filter.1 (hc ▸ mem)).1

/-- A context takes the bank of one that is no harvest context: that one is spilled. -/
theorem contextBankSpill_takes {s : State} {cl ctx b old g : Nat} (unbound : (mxOf s cl).bound ctx = false)
    (asks : ∃ x ∈ (mxOf s cl).tiles, x.ctx = ctx ∧ x.granted = false) (victim : bankVictim s cl ctx = some (b, old, g))
    (owner : ctxHarvest s old = false) :
    ∃ t, execContextBankSpill cl ctx s = .next t ∧ Tab.find (mxOf t cl).banks b = some (ctx, mxNow s cl) ∧ old ∈ (mxOf t cl).spilled := by
  obtain ⟨n, same⟩ := spillBank_beside s cl old
  have cycles : mxNow (spillBank s cl old) cl = mxNow s cl := same_of_beside same (mxNow · cl)
  have owner' : ctxHarvest (spillBank s cl old) old = false := (ctxHarvest_of_beside same old).trans owner
  have mixed : ((mxOf s cl).banks.all fun b => ctxHarvest (spillBank s cl old) b.2.1) = false :=
    List.all_eq_false.2 ⟨_, mem_banks_of_bankVictim victim, by simp [owner']⟩
  have waits : ((mxOf s cl).tiles.any fun t => t.ctx == ctx && !t.granted) = true := by
    obtain ⟨x, mem, own, early⟩ := asks
    exact List.any_eq_true.2 ⟨x, mem, by simp [own, early]⟩
  refine ⟨_, by simp only [execContextBankSpill, unbound, waits, victim, mixed, Bool.not_true, Bool.false_eq_true, false_and, or_self, if_false]; rfl, ?_⟩
  rw [mxOf_setMx]
  exact ⟨by rw [Tab.find_put_same, cycles], List.mem_cons_self ..⟩

/-! ### The end of an image's read (R311) -/

theorem mbldReadEnd_loads {s : State} {cl ctx handle : Nat} {w : WSlot} {ld : WLoad} {ls : List Loc} {es : List (BitVec 64)} {sc : List (BitVec 8)}
    {n : Nat} (slot : slotOf (mxOf s cl) ctx handle = some w) (load : w.load = some ld) (image : imgAll s cl ctx w.fmt ld = .inr (ls, es, sc, n))
    (good : poisonedAt (touchPlaces (if ld.inSp then s else countLines s (unitSource s (engMx cl)) false ls) ctx ls) ls = []) :
    execMbldReadEnd cl ctx handle s
      = .next (imgDone (touchPlaces (if ld.inSp then s else countLines s (unitSource s (engMx cl)) false ls) ctx ls) cl w ld es sc n) := by
  simp only [execMbldReadEnd, slot, load, image, good]

theorem mem_agenda_imgDone (s : State) (cl : Nat) (w : WSlot) (ld : WLoad) (es : List (BitVec 64)) (sc : List (BitVec 8)) (n : Nat) :
    .matrixPassGrant cl ∈ (imgDone s cl w ld es sc n).agenda := List.mem_append_right _ (List.mem_singleton_self _)

end Sys2Proof.Machine
end

section
/-! Surface tiles that come and go (R185, R187), near-bank commands (R193) and the lanes of a traversal (R321, R339). -/
namespace Sys2Proof.Machine

set_option Elab.async false

/-! ### Tiles that are restored (R187) -/

/-- What the group's wait is once it is served. -/
theorem find_endService (s : State) (key k : Nat) : (Tab.find (endService s key).groups k).map Group.want
    = if k = key then (Tab.find s.groups k).map fun _ => none else (Tab.find s.groups k).map Group.want := by
  have groups : (endService s key).groups = Tab.modify s.groups key fun g =>
      { g with want := none, lastIssue := s.time, park := if g.park = .service then .none else g.park } := by
    simp only [endService]
    split <;> rfl
  rw [groups, Tab.find_modify]
  split
  case isTrue same => rw [same, Option.map_map]; rfl
  case isFalse => rfl

theorem endServices_serve (keys : List Nat) {s : State} {key : Nat} (there : (Tab.find s.groups key).isSome)
    (asked : key ∈ keys ∨ (Tab.find s.groups key).map Group.want = some none) :
    (Tab.find (keys.foldl endService s).groups key).map Group.want = some none := by
  induction keys generalizing s with
  | nil => exact asked.resolve_left List.not_mem_nil
  | cons k keys ih =>
    have here := find_endService s k key
    obtain ⟨g, found⟩ := Option.isSome_iff_exists.1 there
    rw [found] at here asked
    refine ih ?_ ?_
    · rw [← Option.isSome_map (f := Group.want), here]
      split <;> rfl
    · by_cases same : key = k
      · exact .inr (here.trans (if_pos same))
      · rw [if_neg same] at here
        rcases asked with mem | served
        · exact .inl ((List.mem_cons.1 mem).resolve_left same)
        · exact .inr (here.trans served)

theorem mem_tileWaiters {s : State} {h n key : Nat} {g : Group} (found : Tab.find s.groups key = some g) (waits : g.want = some (.tile h n)) :
    key ∈ tileWaiters s h n :=
  List.mem_map.2 ⟨(key, g), List.mem_filter.2 ⟨List.mem_append_left _ (Tab.mem_of_find found), by simp [waits]⟩, rfl⟩

theorem tileAsked_of_waits {s : State} {h n key : Nat} {g : Group} (found : Tab.find s.groups key = some g) (waits : g.want = some (.tile h n)) :
    tileAsked s h n = true := by
  have some' : (tileWaiters s h n).isEmpty = false := List.isEmpty_eq_false_iff_exists_mem.2 ⟨key, mem_tileWaiters found waits⟩
  rw [tileAsked, some']
  rfl

theorem tileRestore_serves {s s2 : State} {h n key : Nat} {g : Group} {f : Surf} (surf : Tab.find s.surfs h = some f)
    (found : Tab.find s.groups key = some g) (waits : g.want = some (.tile h n)) (restored : restoreTile s h n = (s2, 0)) :
    ∃ t, execTileRestore h n s = .next t ∧ ∀ x, Tab.find s2.groups key = some x → x.want = some (.tile h n) →
      (Tab.find t.groups key).map Group.want = some none := by
  have runs : ∃ es, execTileRestore h n s = .next (laterAll ((tileWaiters s2 h n).foldl endService s2) es) := by
    simp only [execTileRestore, tileAsked_of_waits found waits, surf, restored, Bool.not_true, Bool.false_eq_true, if_false]
    exact ⟨_, rfl⟩
  obtain ⟨es, runs⟩ := runs
  exact ⟨_, runs, fun x found' waits' => endServices_serve _ (by rw [found']; rfl) (.inl (mem_tileWaiters found' waits'))⟩

/-! ### Tiles that are evicted (R185) -/

theorem surf_of_evictable {s : State} {held : List (Nat × Nat)} {e : TSlot} (may : evictable s held e = true) : ∃ f, Tab.find s.surfs e.handle = some f := by
  unfold evictable at may
  split at may
  case h_1 f found => exact ⟨f, found⟩
  case h_2 => cases may

theorem mem_of_bestSlot {es : List TSlot} {e : TSlot} (best : bestSlot es = some e) : e ∈ es := by
  induction es with
  | nil => cases best
  | cons x es ih =>
    simp only [bestSlot] at best
    split at best
    case h_1 b found =>
      split at best <;> cases best
      · exact List.mem_cons_of_mem _ (ih found)
      · exact List.mem_cons_self ..
    case h_2 => cases best; exact List.mem_cons_self ..

theorem evictable_of_spaceVictim {s : State} {held : List (Nat × Nat)} {st grp : Nat} {v : TSlot} (victim : spaceVictim s held st grp = some v) :
    evictable s held v = true := by
  have picked := (List.mem_filter.1 (mem_of_bestSlot victim)).2
  simp only [Bool.and_eq_true] at picked
  exact picked.2

theorem setLogBytes_tlast (s : State) (ctx la : Nat) (bs : List (BitVec 8)) : (setLogBytes s ctx la bs).tlast = s.tlast :=
  same_of_beside (setLogBytes_beside ..) State.tlast

theorem setLogBytes_tslots (s : State) (ctx la : Nat) (bs : List (BitVec 8)) : (setLogBytes s ctx la bs).tslots = s.tslots :=
  same_of_beside (setLogBytes_beside ..) State.tslots

/-- An evicted tile has no slot, and its LAST is kept (R180). -/
theorem evictTile_leaves {s : State} {v : TSlot} {f : Surf} (surf : Tab.find s.surfs v.handle = some f) :
    tslotOf (evictTile s v) v.handle v.tile = none ∧ Tab.fetch 0 (evictTile s v).tlast (skey v.handle v.tile) = v.last := by
  simp only [evictTile, surf]
  constructor
  · simp only [tslotOf, setLogBytes_tslots, chargeTile]
    exact List.find?_eq_none.2 fun x kept => by simpa only [Bool.not_eq_true, Bool.not_eq_true'] using (List.mem_filter.1 kept).2
  · simp only [setLogBytes_tlast, chargeTile, Tab.fetch_store_same]

theorem tileEviction_evicts {s : State} {st grp h n : Nat} {f : Surf} (surf : Tab.find s.surfs h = some f)
    (asked : (List.range f.nt).find? (fun x => tileHome f x == (st, grp) && (tslotOf s h x).isNone && tileAsked s h x) = some n) :
    execTileEviction st grp h s = .next (if (freeCol s st grp f.k).isSome then later s (.tileRestore h n)
      else ((spaceVictim s [] st grp).map fun v => later (evictTile s v) (.tileRestore h n)).getD s) := by
  simp only [execTileEviction, surf, asked]
  split
  · rfl
  · split <;> simp [*]

/-! ### Near-bank commands (R193) -/

theorem execNbxCommand_runs {s : State} {st : Nat} {m : EngCmd} (first : (engEntries s (800 + st)).head? = some m) (well : m.failed = none) :
    execNbxCommand st s
      = .next (if m.paid then payCmd s m (parseNbx m.desc).cw (parseNbx m.desc).cwa else nbFinish s m (parseNbx m.desc)) := by
  simp only [execNbxCommand, first, well, Option.isSome_none, Bool.false_eq_true, if_false]

/-! ### The lanes of a traversal (R321, R339) -/

theorem execTraversalLaneEnd_runs {s : State} {r : Ray} (only : s.rays = [r]) (goes : r.status = none) :
    execTraversalLaneEnd r.cl r.id s = .next (runLane s r r.prog 4096) := by
  simp [execTraversalLaneEnd, only, goes]

/-- A ray that is degenerate ends in its first step, with a miss and status 3. -/
theorem laneStep_degenerate {s : State} {r : Ray} (start : r.start = true) (resuming : r.prog.resuming = true)
    (good : firstBad s (r.loc.span 256) = none) (degen : degenerate r.prog = true) :
    laneStep s r r.prog = .ok (s, .ended (missTrav r.prog) 3) := by
  simp only [laneStep, resuming, good, start, if_true, startLane, degen]

theorem runLane_ended {s t : State} {r : Ray} {p q : Trav} (step : laneStep s r p = .ok (t, .ended q 3)) (n : Nat) :
    runLane s r p (n + 1) = endLane (putTrav t r { q with phase := 7 }) r { q with phase := 7 } 3 := by
  simp only [runLane, step]
  rfl

/-! ### The statement -/

/-- What the governor counts while it holds the one tile of its engine back. -/
theorem countStall_only {m : Mx} {x : MTile} (only : m.tiles = [x]) (now : Nat) :
    (∀ i k, m.held = some (i, k) → (countStall m x.id now).stall = min (2 ^ 32 - 1) (m.stall + if i = x.id then now - k else 1))
      ∧ (m.held = none → (countStall m x.id now).stall = min (2 ^ 32 - 1) (m.stall + 1)) := by
  refine ⟨fun i k held => ?_, fun held => ?_⟩
  · simp [countStall, held, only, eq_comm (a := i)]
  · simp [countStall, held]

/-- Settles O49: each event's own rule, one after the other. -/
theorem engineEvents : Obligations.EngineEvents := by
  unfold Obligations.EngineEvents
  refine ⟨?_, ?_, ?_, ?_, ?_, ?_, ?_, fun _ _ _ => rfl, ?_, ?_⟩
  · intro s cl x w b only able slot since
    refine ⟨fun young due units => matrixPassGrant_grants only able since young due slot units, fun young due short bulk => ?_,
      reservationAging_ages only able since⟩
    obtain ⟨t, runs, counts⟩ := matrixPassGrant_stalls only able since young due short bulk
    obtain ⟨again, first⟩ := countStall_only only (mxNow s cl)
    refine ⟨t, runs, by rw [counts]; exact only, by rw [counts]; rfl, ?_⟩
    rw [counts]
    cases held : (mxOf s cl).held with
    | none => exact first held
    | some p => exact again p.1 p.2 held
  · exact fun s cl x only => ⟨matrixTileWriteback_waits only, matrixTileWriteback_ends only⟩
  · refine fun s cl v => ⟨fun past => ?_, governorWindow_runs, fun here => ?_⟩
    · obtain ⟨t, runs, m⟩ := governorWindow_restarts past
      exact ⟨t, runs, by rw [m], by rw [m], by rw [m]⟩
    · obtain ⟨t, runs, m⟩ := governorBudgetChange_writes here v
      exact ⟨t, runs, by rw [m], by rw [m]⟩
  · exact fun s cl ctx b old g unbound asks victim owner => contextBankSpill_takes unbound asks victim owner
  · exact fun s cl ctx handle w ld ls es sc n slot load image good =>
      ⟨_, mbldReadEnd_loads slot load image good, rfl, mem_agenda_imgDone ..⟩
  · exact fun s s2 h n key g f surf found waits restored => tileRestore_serves surf found waits restored
  · intro s st grp h n f surf asked
    have runs : exec (.tileEviction st grp h) s = _ := tileEviction_evicts surf asked
    refine ⟨fun room => ?_, fun v full victim => ?_, fun full none' => ?_⟩
    · rw [runs, if_pos room]
      rfl
    · obtain ⟨fv, surfv⟩ := surf_of_evictable (evictable_of_spaceVictim victim)
      obtain ⟨gone, last⟩ := evictTile_leaves surfv
      refine ⟨later (evictTile s v) (.tileRestore h n), ?_, gone, last, List.mem_append_right _ (List.mem_singleton_self _)⟩
      rw [runs, full, victim]
      rfl
    · rw [runs, full, none']
      rfl
  · intro s st m first well
    have runs : exec (.nbxCommand st) s = _ := execNbxCommand_runs first well
    exact ⟨fun paid => by rw [runs, if_pos paid], fun due => by rw [runs, due]; rfl⟩
  · intro s r only goes
    have runs : exec (.traversalLaneEnd r.cl r.id) s = _ := execTraversalLaneEnd_runs only goes
    refine ⟨runs, fun start resuming good degen => ?_⟩
    rw [runs, runLane_ended (laneStep_degenerate start resuming good degen)]

end Sys2Proof.Machine
end
